-- ==== Sys2Proof/Word.lean ====
section
/-! DEFINITION. The word types of the model (R5, R6): bytes, 32-bit and 64-bit words. Counts, identifiers, addresses and
times are natural numbers; what the spec treats as bits is a bit vector. -/

namespace Sys2Proof

abbrev Byte := BitVec 8
abbrev W16 := BitVec 16
abbrev W32 := BitVec 32
abbrev W64 := BitVec 64
/-- A vector register of a rasp thread. -/
abbrev W512 := BitVec 512

end Sys2Proof
end

