-- ==== Sys2Proof/Machine/CmdTypes.lean ====
section
/-! DEFINITION. The operand types of the commands: statuses and refusal codes, packets and senders, and the bodies of
management messages. -/

namespace Sys2Proof

/-- Completion status codes of Table 6-6 (R252). -/
inductive Status where
  | done | badDescriptor | formatUnsupported | accessDenied | extentWithdrawn | noBacking | versionConflict
  | poisoned | keyRevoked | linkLost | outcomeUnknown | domainDown | abortedDeadline | abortedFlush | internalFault
deriving DecidableEq, Repr

/-- Refusal codes of a management reply (R722), and acceptance (R493). -/
inductive MgmtCode where
  | accepted | badField | badState | noResource | notPermitted | conflict | unknownMop | regUnmapped | secBusy
  | recoveryOnly
deriving DecidableEq, Repr

/-- Redundancy classes of Table 17-1, in the order of Table 3-3 (R583). -/
inductive RedClass where
  | p | m | x | n
deriving DecidableEq, Repr

/-- A Frieze packet as it reaches a port (Table 13-4): the port and sub-port, its frame length and DSCP (R465, R533), the
header's fields, whether its CRC-32C and its GCM tag verify (R474, R473), whether the tag verifies under the key that its slot
held before the last KEY_LOAD (R641), and the time. -/
structure Pkt where
  port : Nat
  sub : Nat
  frameLen : Nat
  dscp : Nat
  ver : Nat
  cls : Nat
  enc : Bool
  retx : Bool
  len : Nat
  srcEp : Nat
  dstEp : Nat
  epoch : Nat
  ctx : Nat
  seq : Nat
  ackBase : Nat
  ackMap : W64
  crReq : Nat
  crRsp : Nat
  crMgt : Nat
  ackReq : Bool
  xid : Nat
  msgOff : Nat
  crcOk : Bool
  tagOk : Bool
  oldOk : Bool
  time : Nat
deriving DecidableEq, Repr

/-- The data prefix (Table 13-9) and the packet's data. -/
structure Pfx where
  target : W64
  len : Nat
  arg : Nat
  operand : W64
  compare : W64
  data : List Byte
deriving DecidableEq, Repr

/-- A RoCE v2 packet (R498): port, frame length, DSCP, whether ECN is CE, whether its ICRC verifies, the queue pair it names,
PSN, virtual address, R_Key, length and data, and the place of a WRITE packet in its message: first and last. -/
structure RPkt where
  port : Nat
  sub : Nat
  frameLen : Nat
  dscp : Nat
  ce : Bool
  icrcOk : Bool
  qp : Nat
  psn : Nat
  va : W64
  rkey : W32
  len : Nat
  data : List Byte
  first : Bool
  last : Bool
  time : Nat
deriving DecidableEq, Repr

/-- How a doorbell reaches the chip (R228): a Frieze DOORBELL message, or an RDMA WRITE under DOORBELL_RKEY. -/
inductive Via where
  | frieze (p : Pkt) (f : Pfx)
  | rdma (p : RPkt)
deriving DecidableEq, Repr

/-- Who sends a management request and by which path (R688, R493): the fabric manager or an agent in a MGMT packet, whose
CONTEXT is the one an agent names, or the sideband port with ENC clear or under slot 0. -/
inductive Src where
  | fm (p : Pkt)
  | agent (p : Pkt)
  | sideband
deriving DecidableEq, Repr

/-- The fields of EXT_GRANT (Table 3-3, R84). -/
structure ExtGrant where
  extent : Nat
  partition : Nat
  owner : Nat
  large : Bool
  size : Nat
  quota : Nat
  cls : RedClass
  readable : Bool
  writable : Bool
  compressible : Bool
  hotNotice : Bool
deriving DecidableEq, Repr

/-- What is parked (R101, R107, R247, R617): a work by context and sequence number, a rasp thread, or a request message by
the number of its op tag. -/
inductive ParkRef where
  | work (ctx seq : Nat)
  | thread (t : Nat)
  | request (tag : Nat)
deriving DecidableEq, Repr

/-- The fields of TABLE_DEFINE (Table 5-1). -/
structure TableDef where
  table : Nat
  extent : Nat
  elemOff : Nat
  rows : Nat
  rowLen : Nat
  fmt : Nat
  planeA : Nat
  planeB : Nat
  epoch : Nat
  stats : Nat
  shadow : Nat
  hbase : Int
  sources : Nat
  rate : Nat
  mqDepth : Nat
deriving DecidableEq, Repr

/-- A result window of CTX_GRANT (Table 6-1). -/
structure WinDef where
  base : W64
  len : Nat
  key : W32
deriving DecidableEq, Repr

/-- The fields of CTX_GRANT (Table 6-1). -/
structure CtxGrant where
  ctx : Nat
  partition : Nat
  owner : Nat
  rdma : Bool
  keySlot : Nat
  ringBase : W64
  ringLog2 : Nat
  wins : List WinDef
  cq : W64
  cqLog2 : Nat
  weight : Nat
  maxInflight : Nat
  abort : Bool
deriving DecidableEq, Repr


/-- A coherence message of a member (Table 13-11): domain, member index, ARG (the RETRY count of a GET, bit 0 POISON of data),
TID, the line's pool pointer, and 128 bytes of data where the message has data. -/
structure CohMsg where
  domain : Nat
  member : Nat
  arg : Nat
  tid : Nat
  line : W64
  data : List Byte
deriving DecidableEq, Repr

/-- The fields of COH_DOMAIN_CREATE (Table 12-1): members as agent ID and context, windows as extent, offset and length. -/
structure DomainDef where
  domain : Nat
  partition : Nat
  members : List (Nat × Nat)
  windows : List (Nat × Nat × Nat)
  zeroPoison : Bool
deriving DecidableEq, Repr

/-- A path of SESSION_OPEN or of QP_CREATE (Table 13-2, R499): logical port, next-hop MAC and VLAN, remote address and UDP
port. -/
structure PathDef where
  port : Nat
  sub : Nat
  mac : Nat
  vlan : Nat
  ip : Nat
  udp : Nat
deriving DecidableEq, Repr

/-- The fields of SESSION_OPEN (Table 13-2): allowances are normal and replay credits of each class. -/
structure SessDef where
  session : Nat
  remote : Nat
  epoch : Nat
  keySlot : Nat
  paths : List PathDef
  txSeq : Nat
  rxSeq : Nat
  allow : List (Nat × Nat)
deriving DecidableEq, Repr

/-- The fields of QP_CREATE (R499). -/
structure QpDef where
  qp : Nat
  partition : Nat
  owner : Nat
  path : PathDef
  remoteQpn : Nat
  sendPsn : Nat
  recvPsn : Nat
  pmtu : Nat
  dataKey : W32
  doorKey : W32
  ackExp : Nat
  retry : Nat
deriving DecidableEq, Repr

/-- A FORWARD (Table 14-2): origin and destination chip, hop limit, direction, the origin's op tag, partition and context, the
inner message's TYPE, its fields, the length of its data, and the data of this packet. -/
structure FwdMsg where
  origin : Nat
  dst : Nat
  hops : Nat
  dir : Nat
  tag : Nat
  part : Nat
  ctx : Nat
  type : Nat
  body : List Nat
  len : Nat
  data : List Byte
deriving DecidableEq, Repr

/-- A REPLICA message (R603, Table 17-6), routed as a FORWARD is: origin and destination chip, hop limit, direction, the origin's
op tag, then the payload: PARTITION, EXTENT, FSEQ, OFFSET, the length of the data, the data of this packet, and PMAP. -/
structure RepMsg where
  origin : Nat
  dst : Nat
  hops : Nat
  dir : Nat
  tag : Nat
  part : Nat
  extent : Nat
  fseq : Nat
  offset : Nat
  len : Nat
  data : List Byte
  pmap : List Bool
deriving DecidableEq, Repr

/-- A FORWARD_REPLY (Table 14-2): origin chip and op tag, partition of its flow, the REPLY of Table 13-10, the length of the
data and the data of this packet. -/
structure FwdRep where
  origin : Nat
  tag : Nat
  part : Nat
  status : Status
  count : Nat
  detail : W64
  value : W64
  value2 : W64
  len : Nat
  data : List Byte
deriving DecidableEq, Repr

/-- A step of the signing unit (R645): a request for a report arrives with its scope and NONCE, or the report at the head of
the queue is signed and sent. -/
inductive AttestStep where
  | ask (src : Src) (scope nonce : Nat) (time : Nat)
  | sign (time : Nat)
deriving DecidableEq, Repr

/-- A watch of a domain in RETENTION (R673): its period ends and it wakes for its check, or the check ends, with or without a
mismatch. -/
inductive WatchStep where
  | wake
  | done (mismatch : Bool)
deriving DecidableEq, Repr

/-- Partition fields of the structural configuration (Table 19-4): configured, masks of clusters and engines, channel-group base
and g, way masks by plinth (bit 0 is way 8), directory ways, LINK_ENC_REQUIRED and P_GIB. -/
structure PartDef where
  configured : Bool
  clusters : Nat
  engines : Nat
  base : Nat
  g : Nat
  ways : List Nat
  dirWays : Nat
  linkEnc : Bool
  pGib : Nat
deriving DecidableEq, Repr

/-- A port of the structural configuration: mode, ROCE_EN and the MAC address of each sub-port. -/
structure PortDef where
  mode : Nat
  roceEn : Bool
  macs : List Nat
deriving DecidableEq, Repr

/-- A power domain of the structural configuration: initial state, WATCH, period in ms and AUTO_RELEASE. -/
structure PowerDef where
  state : Nat
  watch : Bool
  periodMs : Nat
  autoRelease : Bool
deriving DecidableEq, Repr

/-- The sections of a configuration body as R493 lays them out (R660, Table 19-4). `range` says that every field that the model
does not hold lies in its range. -/
structure ConfigDef where
  range : Bool
  chipId : Nat
  startOp : Nat
  parts : List PartDef
  period : Nat
  source : Nat
  candidate : Bool
  priority : Nat
  ptpPort : Nat
  /-- Role MEMBER and JOIN_AT_START. -/
  ring : Option (Bool × Bool)
  /-- PAIR_ID, PARTNER and the 16 bytes of PAIR_TABLE. -/
  pair : Option (Nat × Nat × List Nat)
  ports : List PortDef
  outStack : Nat
  spare : Bool
  power : Option (List PowerDef)
  /-- Fabric-manager key pairs: Ed25519 and ML-DSA-65 public keys. -/
  fmKeys : List (Nat × Nat)
  fmEp : Nat
  paths : List PathDef
  sideband : Nat
deriving DecidableEq, Repr

/-- A message of IEEE 1588 to a slave (R53): its sequence number, whether a follow-up comes (two-step), the timestamp it carries in
ns of PTP time, and its correction field in ns. -/
inductive PtpMsg where
  | sync (seq : Nat) (twoStep : Bool) (origin : Nat) (corr : Int)
  | followUp (seq origin : Nat) (corr : Int)
  | delayResp (seq receive : Nat) (corr : Int)
  | pdelayResp (seq : Nat) (twoStep : Bool) (receipt : Nat) (corr : Int)
  | pdelayFollowUp (seq origin : Nat) (corr : Int)
deriving DecidableEq, Repr

/-- Its transport. -/
inductive PtpVia where
  | udp4 | udp6 | ethernet
deriving DecidableEq, Repr

structure PtpPkt where
  via : PtpVia
  msg : PtpMsg
deriving DecidableEq, Repr

end Sys2Proof
end

