-- ==== Sys2Proof/Syntax.lean ====
section
/-! DEFINITION. The commands of the block: `Instr` has one constructor for each row of spec/opcode_table.json, with the
operands that the row's rules name. Each docstring is the row's summary and its rule. -/

namespace Sys2Proof

/-- The commands: operations and events of spec/opcode_table.json. -/
inductive Instr where
  /-- PWR_GOOD rises and power-on reset begins, running the start-up sequence from step 1 (R652). -/
  | pwrGoodRise
  /-- PWR_GOOD falls; within 1 µs the chip releases the pair key, closes both bypass switches and issues no further stack write (R677). -/
  | pwrGoodFall
  /-- RESET_N is asserted or one is written to BOOT_CTRL.WARM_RESET; a warm reset runs the start-up sequence and keeps only sticky fields and fuses (R652). -/
  | warmReset (pin : Bool) (src : Src)
  /-- Step 1 ends and the boot ROM starts; the hardware takes M_ROM and fills ways 0–7 of plinth 0 (R654). -/
  | bootRomStart (time : Nat)
  /-- The flash header has been read and is checked; on success the objects are loaded in the header's mode (R659). -/
  | flashHeaderCheck (end2 : Nat)
  /-- The loaded image and configuration section are verified by all six checks of R632 (R632). -/
  | signedObjectVerify (imgEd imgMl cfgEd cfgMl : Bool) (time : Nat)
  /-- The structural configuration is checked and applied at start-up step 4 (R660). -/
  | configurationApply (d : ConfigDef) (time : Nat)
  /-- Start-up training of all stacks ends, stacks that failed are marked FAILED, and the fill begins (R553). -/
  | stackTrainingEnd (failed : List Nat) (time : Nat)
  /-- The start-up fill of every trained stack ends; patrol scrub starts and ECC_STATUS.FILL reads DONE (R579). -/
  | fillDone (time : Nat)
  /-- The boot-loader channel halts on poison; the object is reloaded once, or a second halt sends the chip to recovery (R657). -/
  | bootLoaderHalt
  /-- Start-up step 7 places built-in programs, applies power-domain states, releases clusters, enables ports and opens the management session (R654). -/
  | startProgramsPlaced (time : Nat)
  /-- A tick boundary falls: the counter advances, heartbeats and health words go out, budgets, codebooks and tick sets take effect, and the telemetry slice samples counters (R46). -/
  | tickBoundary (time excess : Nat) (temps : List Nat)
  /-- After three consecutive holdover ticks the best heard candidate becomes master at its next boundary (R43). -/
  | tickMasterChange
  /-- A write of one to TCK_CTRL.HANDOVER at the master requests a yield to the best other candidate at the next boundary (R44). -/
  | handover (src : Src)
  /-- A TICK ring message arrives; a member takes the first intact copy, sets its next boundary and passes the message on (R40). -/
  | tick (p : Pkt) (tick correction master priority : Nat)
  /-- A rising edge on TICK_IN is taken as the master's boundary, or is ignored and logged TICK_IN_REJECTED outside its window (R50). -/
  | tickInEdge (time excess : Nat) (temps : List Nat)
  /-- No TICK_IN edge has come by P + 1 %, so the master makes the boundary itself and logs TICK_HOLDOVER (R50). -/
  | tickInMissing (time excess : Nat) (temps : List Nat)
  /-- A rising PPS edge marks the second, and the master adjusts its tick lengths to align (R52). -/
  | ppsEdge (time : Nat)
  /-- An IEEE 1588 message arrives on the configured PTP port and is timestamped for slave synchronisation (R53). -/
  | ptpMessage (port : Nat) (packet : PtpPkt) (time : Nat)
  /-- PPS edges or PTP synchronisation stop, and the master keeps period P from its own time base (R54). -/
  | tickReferenceLost
  /-- The 1 µs TICK_OUT pulse that began at a boundary ends (R55). -/
  | tickOutPulseEnd (time : Nat)
  /-- A write to TCK_BUDGET1 is checked field by field and then as a sum against 600 (R58). -/
  | tickBudget1Write (src : Src) (value : W32)
  /-- A third consecutive overrun halves the recast, scrub and rebuild allotments (R64). -/
  | tickOverrunEscalated
  /-- After 64 consecutive ticks without overrun, ESCALATED clears and the allotments are restored (R65). -/
  | overrunCleared
  /-- A HEARTBEAT ring message arrives and is checked, taken and passed on, or rejected (R526). -/
  | heartbeat (p : Pkt) (origin priority alive count state : Nat) (crc : W32)
  /-- A write to a CAL_CB register updates the shadow codebook, or is refused for a non-finite entry (R141). -/
  | codebookWrite (src : Src) (codebook reg : Nat) (value : W32)
  /-- A REG_READ request reads 1 to 128 registers and returns their data (R687). -/
  | regRead (src : Src) (addr width count : Nat)
  /-- A REG_WRITE request writes registers one at a time, for registers with no step of their own (R687). -/
  | regWrite (src : Src) (addr width : Nat) (data : List W64)
  /-- A read of an rc field returns its value and clears it (R12). -/
  | readClear (src : Src) (addr : Nat)
  /-- A read that reaches an event-log entry's SEQ word marks the entry as read (R706). -/
  | eventLogRead (src : Src) (index : Nat)
  /-- A four-byte I²C write transaction sets the register pointer, or writes GLB_SCRATCH (R693). -/
  | i2cPointerWrite (toScratch : Bool) (value : W32)
  /-- An I²C read transaction returns four bytes from the pointer and advances it (R693). -/
  | i2cRead
  /-- A write of one to GLB_CTRL.PERF_CLEAR clears every performance counter and its OVF (R697). -/
  | perfClear (src : Src)
  /-- A write to EVT_INJECT logs the named event as if detected, with escalation (R707). -/
  | evtInject (src : Src) (code kind unit : Nat)
  /-- The atelier watchdog expires and the atelier core alone restarts in service-restart mode, or the event is FATAL on a repeat (R22). -/
  | atelierWatchdog (time : Nat)
  /-- The atelier service restart ends after the retained image is re-measured and compared (R664). -/
  | atelierRestartEnd (time : Nat) (measured : List W64)
  /-- An armature pair link fails and its traffic is detoured through another plinth (R20). -/
  | pairLinkFailure (link : Nat)
  /-- A write of one to CE_CTRL.TEST_FENCE fences the engine as a fault would (R362). -/
  | testFenceEngine (src : Src) (engine : Nat)
  /-- A write of one to RSP_CTRL.TEST_FENCE fences the cluster as a fault would (R398). -/
  | testFenceCluster (src : Src) (cluster : Nat)
  /-- The fabric manager grants an extent, which becomes ACTIVE unless refused (R84). -/
  | extGrant (src : Src) (body : ExtGrant)
  /-- An extent enters WITHDRAWING: its snapshot is taken, later translations are refused and parked accesses fail (R94). -/
  | extWithdraw (src : Src) (extent : Nat)
  /-- A WITHDRAWN extent returns to FREE (R86). -/
  | extFree (src : Src) (extent : Nat)
  /-- Migration of an extent's frames to a new redundancy class begins, frame by frame (R109). -/
  | extMigrate (src : Src) (extent : Nat) (cls : RedClass)
  /-- A frame's migration copy completes; it becomes RESIDENT and its parked accesses are released (R109). -/
  | frameMigrated (extent frame : Nat)
  /-- An INVALIDATE of kind WITHDRAW from the fabric manager withdraws an extent and is passed round the ring (R91). -/
  | invalidateWithdraw (src : Src) (chip extent first count : Nat)
  /-- An INVALIDATE of kind DISCARD makes frames UNBACKED and releases them through quarantine (R91). -/
  | invalidateDiscard (src : Src) (chip extent first count : Nat)
  /-- An INVALIDATE ring message arrives; the member drops matching cache entries and passes it on, and the receiver acknowledges once both copies return (R92). -/
  | invalidate (p : Pkt) (chip extent first count : Nat) (discard : Bool) (sender recv : Nat)
  /-- The last op tag of an extent's snapshot retires: the extent becomes WITHDRAWN and its frames go to the fill list (R96). -/
  | snapshotRetired (extent : Nat)
  /-- A quarantine record frees and a deferred withdrawal takes its snapshot and acknowledgement (R97). -/
  | quarantineRecordFree
  /-- A frame on the fill list has been filled with zero codewords and returns to its partition's pool (R580). -/
  | frameFillDone (partition : Nat)
  /-- A parked write has waited EXT_QUOTA.WAIT_TICKS boundaries and completes NO_BACKING (R101). -/
  | quotaWaitExpiry (who : ParkRef)
  /-- Salsin begins compressing a cold RESIDENT frame on idle stack cycles (R103). -/
  | compressionStart (extent frame : Nat)
  /-- A compression completes and the frame becomes COMPRESSED, or is marked incompressible (R105). -/
  | compressionDone (extent frame : Nat)
  /-- A COMPRESSED frame has been restored; it becomes RESIDENT and its parked accesses are released (R107). -/
  | frameRestored (extent frame : Nat)
  /-- The fabric manager grants a lease for an agent ID (R115). -/
  | leaseGrant (src : Src) (agent ms : Nat)
  /-- A renewal sets the lease's expiry to its arrival plus the duration (R115). -/
  | leaseRenew (src : Src) (agent : Nat)
  /-- A lease expires at a boundary: extents are withdrawn, domains taken down, contexts flushed and queue pairs put in error (R117). -/
  | leaseExpiry (agent time : Nat)
  /-- A region is defined with its extent, offset, length and initial version (R118). -/
  | regionDefine (p : Pkt) (f : Pfx)
  /-- A PUBLISH compares versions in serial arithmetic and sets the new version, with an optional digest (R119). -/
  | publish (p : Pkt) (f : Pfx)
  /-- VERSION_QUERY returns a region's current version and digest (R123). -/
  | versionQuery (p : Pkt) (f : Pfx)
  /-- PREFETCH restores compressed frames in a range, loads translation caches and clears COLD (R113). -/
  | prefetch (p : Pkt) (f : Pfx)
  /-- ADVISE COLD sets the COLD hint on RESIDENT frames in a range (R113). -/
  | adviseCold (p : Pkt) (f : Pfx)
  /-- ADVISE WARM clears the COLD hint in a range (R113). -/
  | adviseWarm (p : Pkt) (f : Pfx)
  /-- ADVISE SUBSCRIBE adds the sender as a hot-notice subscriber of the extent (R113). -/
  | adviseSubscribe (p : Pkt) (f : Pfx)
  /-- ADVISE UNSUBSCRIBE removes the sender as a subscriber (R113). -/
  | adviseUnsubscribe (p : Pkt) (f : Pfx)
  /-- ADVISE DISCARD is sent as INVALIDATE DISCARD over the range (R113). -/
  | adviseDiscard (p : Pkt) (f : Pfx)
  /-- A table is defined over an extent and its statistics and merge queue are allocated on its home plinth (R180). -/
  | tableDefine (src : Src) (body : TableDef)
  /-- A table number is freed unless its plan is RUNNING (R183). -/
  | tableDelete (src : Src) (table : Nat)
  /-- A recast step takes the next group of up to 64 rows, reads them, computes new scales and writes shadows and inactive planes (R204). -/
  | recastStep (table ns left : Nat)
  /-- A PREPARED row's shadow and inactive plane are written; its epoch bit flips and its redirect is set (R205). -/
  | rowFlip (table row : Nat)
  /-- Every read of a FLIPPED row that selected the old plane has retired, and the copy-back starts (R207). -/
  | copyBackStart (table row : Nat)
  /-- The copy-back completes: the redirect clears, queued writes replay at the new encoding, and the row is HOME (R205). -/
  | copyBackDone (table row : Nat)
  /-- Every read through a slot's redirect has retired and the slot returns to the table's free slots (R207). -/
  | shadowSlotFree (table slot : Nat)
  /-- A RING doorbell advances the write pointer and end-marks whole descriptors (R229). -/
  | doorbellRing (via : Via)
  /-- A CQ doorbell advances the completion-ring head, letting waiting records be written (R230). -/
  | doorbellCq (via : Via)
  /-- A FLUSH doorbell requests a flush of the context (R242). -/
  | doorbellFlush (via : Via)
  /-- A RESYNC doorbell returns a RESET context to ACTIVE or FLUSHING (R236). -/
  | doorbellResync (via : Via)
  /-- A RING_WRITE message writes ring words and, with DOORBELL set, then applies a RING doorbell (R233). -/
  | ringWrite (p : Pkt) (f : Pfx)
  /-- The fabric manager grants a context, which becomes ACTIVE unless refused (R222). -/
  | ctxGrant (src : Src) (body : CtxGrant)
  /-- A context enters REVOKING, is flushed and refuses doorbells (R223). -/
  | ctxRevoke (src : Src) (ctx : Nat)
  /-- A CTX_FLUSH message or a write of one to CTX_CTRL.FLUSH requests a flush at the next work boundary (R242). -/
  | ctxFlush (src : Src) (ctx : Nat)
  /-- CTX_QUERY returns the context's taken count, pointers, completion tail, state and packet counter (R496). -/
  | ctxQuery (p : Pkt)
  /-- The dispatcher takes the next whole descriptor while the packet counter is non-zero and an in-flight slot is free (R227). -/
  | workTake (ctx : Nat)
  /-- The dispatcher starts a ready slice on the partition's clusters or engines by expert floor, deficit round robin and earliest deadline (R248). -/
  | workSliceStart (ctx num ns : Nat)
  /-- A work's deadline boundary passes; it gets LATE and, under abort-on-deadline, stops ABORTED_DEADLINE (R70). -/
  | workDeadline (ctx : Nat)
  /-- The cause of a park clears and the work resumes at the step where it parked (R247). -/
  | parkResume (who : ParkRef)
  /-- Once all writes of a work are visible and acknowledged, its completion record is written (R28). -/
  | completionRecordWrite (ctx num : Nat)
  /-- The agent's transport acknowledges a completion record; the work leaves flight and its sync increments are sent (R29). -/
  | completionAcknowledged (ctx num : Nat)
  /-- GATHER returns table rows by index, converted to the result format (R274). -/
  | gather (ctx num : Nat)
  /-- GATHER_REDUCE reduces bags of rows into one result row per bag (R276). -/
  | gatherReduce (ctx num : Nat)
  /-- SCATTER_ADD adds scaled gradient rows into table rows (R280). -/
  | scatterAdd (ctx num : Nat)
  /-- ROW_UPDATE applies one optimizer step to each distinct named row (R285). -/
  | rowUpdate (ctx num : Nat)
  /-- ATOMIC applies a batch of indivisible operations to pool words or table elements (R292). -/
  | atomic (ctx num : Nat)
  /-- COPY copies bits between table or raw references (R297). -/
  | copy (ctx num : Nat)
  /-- FILL writes a value into table rows or a pattern into raw bytes (R299). -/
  | fill (ctx num : Nat)
  /-- CONVERT converts elements between formats (R298). -/
  | convert (ctx num : Nat)
  /-- EXPERT_ROUTE chooses each token's experts and sends entries to the chips holding them (R327). -/
  | expertRoute (ctx num : Nat)
  /-- EXPERT_FFN evaluates tokens through local expert images without batching (R320). -/
  | expertFfn (ctx num : Nat)
  /-- SPMM multiplies a matrix object by dense columns and writes the result rows (R337). -/
  | spmm (ctx num : Nat)
  /-- CALIBRATE writes a table's statistics report and may commit a scale plan (R196). -/
  | calibrate (ctx num : Nat)
  /-- RECAST carries out a committed plan in steps of row groups (R202). -/
  | recast (ctx num : Nat)
  /-- RASP_PROGRAM runs instances of a registered program (R403). -/
  | raspProgram (ctx num : Nat)
  /-- WAIT holds until a sync object's count reaches a value (R423). -/
  | wait (ctx num : Nat)
  /-- NOP completes DONE with no body (R256). -/
  | nop (ctx num : Nat)
  /-- In tick t + 1 the holding chip starts computing batch B(I, t) within the partition's expert share (R330). -/
  | expertBatchStart (image : W64) (tick : Nat)
  /-- A contribution or refusal arrives at the routing chip and is combined into the token's slot (R331). -/
  | expertContribution (p : Pkt) (tag code sat nonfin len : Nat) (data : List Byte)
  /-- A forwarded entry has no answer by tick s + 3 and its assignment is FAILED with LINK_LOST (R332). -/
  | expertEntryTimeout (tag : Nat)
  /-- A route that stops early tells holding chips to cancel its remaining entries (R334). -/
  | expertCancel (chip ctx num : Nat)
  /-- A program instance starts on a free thread, in increasing instance number (R404). -/
  | instanceStart (ctx num t : Nat)
  /-- A yielded instance resumes in a later tick with its registers and saved scratch (R396). -/
  | threadResume (ctx num inst t : Nat)
  /-- A thread has not issued STEP or exited within its step limit and traps STEP_LIMIT (R395). -/
  | stepLimitExpiry (t : Nat)
  /-- Data of a pool load returns and the thread becomes ready (R366). -/
  | poolLoadReturn (t : Nat)
  /-- A unit command ends and its tag can be waited on (R384). -/
  | unitCommandEnd (t tag : Nat)
  /-- A carving-engine command ends, unblocking interlocked commands (R350). -/
  | engineCommandEnd (t id : Nat)
  /-- A reserved instruction issues and traps ILLEGAL (R372). -/
  | reservedInstruction (t word : Nat)
  /-- Integer add of two scalar registers (R374). -/
  | add (t d a b : Nat)
  /-- Integer subtract (R374). -/
  | sub (t d a b : Nat)
  /-- Bitwise AND (R374). -/
  | and (t d a b : Nat)
  /-- Bitwise OR (R374). -/
  | or (t d a b : Nat)
  /-- Bitwise XOR (R374). -/
  | xor (t d a b : Nat)
  /-- Shift left (R374). -/
  | shl (t d a b : Nat)
  /-- Logical shift right (R374). -/
  | shr (t d a b : Nat)
  /-- Arithmetic shift right (R374). -/
  | sar (t d a b : Nat)
  /-- Signed set-less-than (R373). -/
  | slt (t d a b : Nat)
  /-- Unsigned set-less-than (R373). -/
  | sltu (t d a b : Nat)
  /-- Signed minimum (R373). -/
  | min (t d a b : Nat)
  /-- Signed maximum (R373). -/
  | max (t d a b : Nat)
  /-- Unsigned minimum (R373). -/
  | minu (t d a b : Nat)
  /-- Unsigned maximum (R373). -/
  | maxu (t d a b : Nat)
  /-- Low half of the 64-bit product (R374). -/
  | mul (t d a b : Nat)
  /-- Signed high half of the product (R374). -/
  | mulh (t d a b : Nat)
  /-- Unsigned high half of the product (R374). -/
  | mulhu (t d a b : Nat)
  /-- Signed divide with defined results for zero and overflow (R374). -/
  | div (t d a b : Nat)
  /-- Unsigned divide (R374). -/
  | divu (t d a b : Nat)
  /-- Signed remainder (R374). -/
  | rem (t d a b : Nat)
  /-- Unsigned remainder (R374). -/
  | remu (t d a b : Nat)
  /-- Count leading zeros (R373). -/
  | clz (t d a : Nat)
  /-- Population count (R373). -/
  | popc (t d a : Nat)
  /-- Byte swap (R373). -/
  | bswap (t d a : Nat)
  /-- Add sign-extended immediate (R373). -/
  | addi (t d a imm : Nat)
  /-- AND with immediate (R373). -/
  | andi (t d a imm : Nat)
  /-- OR with immediate (R373). -/
  | ori (t d a imm : Nat)
  /-- XOR with immediate (R373). -/
  | xori (t d a imm : Nat)
  /-- Shift left by immediate (R373). -/
  | shli (t d a sh : Nat)
  /-- Logical shift right by immediate (R373). -/
  | shri (t d a sh : Nat)
  /-- Arithmetic shift right by immediate (R373). -/
  | sari (t d a sh : Nat)
  /-- Signed set-less-than immediate (R373). -/
  | slti (t d a imm : Nat)
  /-- Move sign-extended immediate (R373). -/
  | movi (t d imm : Nat)
  /-- Insert a 16-bit immediate into one quarter of a register (R373). -/
  | movk (t d c imm : Nat)
  /-- Scratch byte load (R379). -/
  | ld8u (t d a imm : Nat)
  /-- Scratch 16-bit load (R379). -/
  | ld16u (t d a imm : Nat)
  /-- Scratch 32-bit load (R379). -/
  | ld32u (t d a imm : Nat)
  /-- Scratch 64-bit load (R379). -/
  | ld64 (t d a imm : Nat)
  /-- Scratch byte store (R379). -/
  | st8 (t d a imm : Nat)
  /-- Scratch 16-bit store (R379). -/
  | st16 (t d a imm : Nat)
  /-- Scratch 32-bit store (R379). -/
  | st32 (t d a imm : Nat)
  /-- Scratch 64-bit store (R379). -/
  | st64 (t d a imm : Nat)
  /-- Window 8-byte load (R381). -/
  | sld64 (t d a imm : Nat)
  /-- Window 8-byte store (R381). -/
  | sst64 (t d a imm : Nat)
  /-- Pool 8-byte load, checked by R81 (R382). -/
  | pld64 (t d a imm : Nat)
  /-- Pool 8-byte store, checked by R81 (R382). -/
  | pst64 (t d a imm : Nat)
  /-- Branch if equal (R373). -/
  | beq (t a b off : Nat)
  /-- Branch if not equal (R373). -/
  | bne (t a b off : Nat)
  /-- Branch if signed less (R373). -/
  | blt (t a b off : Nat)
  /-- Branch if signed greater or equal (R373). -/
  | bge (t a b off : Nat)
  /-- Branch if unsigned less (R373). -/
  | bltu (t a b off : Nat)
  /-- Branch if unsigned greater or equal (R373). -/
  | bgeu (t a b off : Nat)
  /-- Jump and link into s31 (R373). -/
  | jal (t off : Nat)
  /-- Jump to a register target (R373). -/
  | jr (t d a : Nat)
  /-- FP32 add (R375). -/
  | fadd (t d a b : Nat)
  /-- FP32 subtract (R375). -/
  | fsub (t d a b : Nat)
  /-- FP32 multiply (R375). -/
  | fmul (t d a b : Nat)
  /-- FP32 correctly rounded divide (R375). -/
  | fdiv (t d a b : Nat)
  /-- FP32 correctly rounded square root (R375). -/
  | fsqrt (t d a : Nat)
  /-- FP32 minimum (R375). -/
  | fmin (t d a b : Nat)
  /-- FP32 maximum (R375). -/
  | fmax (t d a b : Nat)
  /-- FP32 fused multiply-add (R375). -/
  | ffma (t d a b : Nat)
  /-- FP32 equal compare (R375). -/
  | feq (t d a b : Nat)
  /-- FP32 less-than compare (R375). -/
  | flt (t d a b : Nat)
  /-- FP32 less-or-equal compare (R375). -/
  | fle (t d a b : Nat)
  /-- Integer to FP32 (R375). -/
  | itof (t d a : Nat)
  /-- FP32 to integer, saturating (R375). -/
  | ftoi (t d a : Nat)
  /-- Scalar format conversion (R376). -/
  | cvts (t d a b : Nat)
  /-- Wait for a unit command's tag and return its result (R384). -/
  | uwait (t d a : Nat)
  /-- Acquire a free ON engine of the partition (R389). -/
  | ceacq (t d : Nat)
  /-- Wait for an engine command to end (R389). -/
  | cewait (t d a : Nat)
  /-- Release the thread's engine (R389). -/
  | cerel (t : Nat)
  /-- Increment a sync object after a PFENCE (R390). -/
  | sinc (t a : Nat)
  /-- Read a sync object's count (R390). -/
  | sread (t d a : Nat)
  /-- Park until a sync count reaches a value (R390). -/
  | swait (t a b : Nat)
  /-- Test whether a sync count has reached a value (R390). -/
  | stest (t d a b : Nat)
  /-- Atomic add to a window word (R373). -/
  | samoAdd (t d a b : Nat)
  /-- Atomic compare-and-swap on a window word (R373). -/
  | samoCas (t d a b : Nat)
  /-- Program step boundary: commands end, stops apply and the thread may yield (R396). -/
  | step (t : Nat) (spent : Bool)
  /-- The instance exits with a status and count (R405). -/
  | exit (t a b : Nat)
  /-- Read a special register (R368). -/
  | getsr (t d b : Nat)
  /-- Write a special register (R368). -/
  | setsr (t d a : Nat)
  /-- Trap BREAK (R393). -/
  | brk (t : Nat)
  /-- Yield instruction (R373). -/
  | yield (t : Nat)
  /-- The rasp NOP instruction (R373). -/
  | nopInstruction (t : Nat)
  /-- Wait until the thread's commands end and its writes are visible (R383). -/
  | pfence (t : Nat)
  /-- Lane-wise add (R373). -/
  | vadd (t vd va vb mk w : Nat)
  /-- Lane-wise subtract (R373). -/
  | vsub (t vd va vb mk w : Nat)
  /-- Lane-wise AND (R373). -/
  | vand (t vd va vb mk w : Nat)
  /-- Lane-wise OR (R373). -/
  | vor (t vd va vb mk w : Nat)
  /-- Lane-wise XOR (R373). -/
  | vxor (t vd va vb mk w : Nat)
  /-- Lane-wise shift left (R373). -/
  | vshl (t vd va vb mk w : Nat)
  /-- Lane-wise logical shift right (R373). -/
  | vshr (t vd va vb mk w : Nat)
  /-- Lane-wise arithmetic shift right (R373). -/
  | vsar (t vd va vb mk w : Nat)
  /-- Lane-wise signed minimum (R373). -/
  | vmin (t vd va vb mk w : Nat)
  /-- Lane-wise signed maximum (R373). -/
  | vmax (t vd va vb mk w : Nat)
  /-- Lane-wise unsigned minimum (R373). -/
  | vminu (t vd va vb mk w : Nat)
  /-- Lane-wise unsigned maximum (R373). -/
  | vmaxu (t vd va vb mk w : Nat)
  /-- Lane-wise multiply, low half (R373). -/
  | vmul (t vd va vb mk w : Nat)
  /-- Lane-wise equal compare into a mask (R373). -/
  | vceq (t vd va vb mk w : Nat)
  /-- Lane-wise signed less-than into a mask (R373). -/
  | vclt (t vd va vb mk w : Nat)
  /-- Lane-wise unsigned less-than into a mask (R373). -/
  | vcltu (t vd va vb mk w : Nat)
  /-- Lane select by mask (R373). -/
  | vsel (t vd va vb mk w : Nat)
  /-- Lane permute (R373). -/
  | vperm (t vd va vb mk w : Nat)
  /-- Compress enabled lanes (R373). -/
  | vcomp (t vd va mk w : Nat)
  /-- Expand low lanes into enabled lanes (R373). -/
  | vexp (t vd va vb mk w : Nat)
  /-- Inclusive prefix sum (R373). -/
  | vscan (t vd va mk w : Nat)
  /-- Add reduction into lane 0 (R373). -/
  | vredadd (t vd va mk w : Nat)
  /-- Signed max reduction (R373). -/
  | vredmax (t vd va mk w : Nat)
  /-- Unsigned max reduction (R373). -/
  | vredmaxu (t vd va mk w : Nat)
  /-- Sort 16 lanes with their original lane numbers (R377). -/
  | vsort (t vd va : Nat)
  /-- Mask of lanes differing from the previous lane (R377). -/
  | vuniq (t vd va mk : Nat)
  /-- Lane-wise FP32 add (R375). -/
  | vfadd (t vd va vb mk : Nat)
  /-- Lane-wise FP32 subtract (R375). -/
  | vfsub (t vd va vb mk : Nat)
  /-- Lane-wise FP32 multiply (R375). -/
  | vfmul (t vd va vb mk : Nat)
  /-- Lane-wise FP32 divide (R375). -/
  | vfdiv (t vd va vb mk : Nat)
  /-- Lane-wise FP32 square root (R375). -/
  | vfsqrt (t vd va mk : Nat)
  /-- Lane-wise FP32 minimum (R375). -/
  | vfmin (t vd va vb mk : Nat)
  /-- Lane-wise FP32 maximum (R375). -/
  | vfmax (t vd va vb mk : Nat)
  /-- Lane-wise FP32 fused multiply-add (R375). -/
  | vffma (t vd va vb mk : Nat)
  /-- Lane-wise FP32 equal compare into a mask (R375). -/
  | vfeq (t vd va vb mk : Nat)
  /-- Lane-wise FP32 less-than into a mask (R375). -/
  | vflt (t vd va vb mk : Nat)
  /-- Lane-wise FP32 less-or-equal into a mask (R375). -/
  | vfle (t vd va vb mk : Nat)
  /-- FP32 sum reduction in a fixed tree (R375). -/
  | vfredsum (t vd va mk : Nat)
  /-- FP32 max reduction (R375). -/
  | vfredmax (t vd va mk : Nat)
  /-- Broadcast a scalar to enabled lanes (R373). -/
  | vbcast (t vd sr mk w : Nat)
  /-- Move lane 0 to a scalar register (R373). -/
  | vget (t va sr w : Nat)
  /-- 64-byte scratch load (R379). -/
  | vld (t vd sr mk w : Nat)
  /-- 64-byte scratch store (R379). -/
  | vst (t vd sr : Nat)
  /-- 64-byte window load (R381). -/
  | vsld (t vd sr mk w : Nat)
  /-- 64-byte window store (R381). -/
  | vsst (t vd sr : Nat)
  /-- 64-byte pool load (R382). -/
  | vpld (t vd sr mk w : Nat)
  /-- 64-byte pool store (R382). -/
  | vpst (t vd sr : Nat)
  /-- Gather 4-byte values from scratch (R373). -/
  | vgath (t vd va sr mk : Nat)
  /-- Scatter 4-byte values to scratch (R373). -/
  | vscat (t vd va sr mk : Nat)
  /-- Decode delta-varint indices from scratch (R378). -/
  | vdvar (t vd sr mk : Nat)
  /-- Decode a block record into 32 FP32 values (R376). -/
  | vdec (t vd sr mk : Nat)
  /-- Encode 32 FP32 values into a block record (R376). -/
  | venc (t vd sr : Nat)
  /-- Lane format conversion (R376). -/
  | vcvt (t vd va sr mk : Nat)
  /-- Count set bits of a mask (R373). -/
  | mpopc (t sr mk w : Nat)
  /-- Unit command copying pool data into scratch (R385). -/
  | dmaGet (t d a : Nat)
  /-- Unit command copying scratch into pool memory (R385). -/
  | dmaPut (t d a : Nat)
  /-- Unit command writing scratch to agent memory, poison as zeros (R385). -/
  | dmaOut (t d a : Nat)
  /-- Unit command copying scratch into the window (R385). -/
  | dmaTowin (t d a : Nat)
  /-- Unit command copying the window into scratch (R385). -/
  | dmaFromwin (t d a : Nat)
  /-- Unit command loading table blocks as matched pairs (R386). -/
  | tld (t d a : Nat)
  /-- Unit command storing block records into a table (R386). -/
  | tst (t d a : Nat)
  /-- Unit command adding FP32 values into table blocks (R386). -/
  | tadd (t d a : Nat)
  /-- Unit command sorting key/payload pairs, with optional dedup and count (R387). -/
  | sort (t d a : Nat)
  /-- Unit command applying one indivisible pool atomic (R388). -/
  | pamo (t d a : Nat)
  /-- Engine command loading present tiles of four tile rows into a pane (R349). -/
  | loadPane (t d a : Nat)
  /-- Engine command loading, and quantising, activation blocks (R349). -/
  | loadAct (t d a : Nat)
  /-- Engine command streaming tokens through a pane into accumulators (R353). -/
  | run (t d a : Nat)
  /-- Engine command encoding accumulators and writing the results (R349). -/
  | drain (t d a : Nat)
  /-- A program image is registered in a slot and its measurement returned (R400). -/
  | progRegister (src : Src) (part slot : Nat) (image : W64)
  /-- A program slot is freed (R401). -/
  | progUnregister (src : Src) (handle : Nat)
  /-- An opcode of a partition is bound to a registered program (R408). -/
  | progBind (src : Src) (part opcode handle insts window : Nat)
  /-- An opcode binding ends and the built-in program serves again (R408). -/
  | progUnbind (src : Src) (part opcode : Nat)
  /-- A run of sync objects is granted to a partition and owner (R412). -/
  | syncGrant (src : Src) (first count partition owner : Nat)
  /-- A run of sync objects returns to FREE (R412). -/
  | syncFree (src : Src) (first count : Nat)
  /-- An increment reaches the object's home plinth and adds one to COUNT, releasing waiters (R413). -/
  | syncIncrement (object : Nat)
  /-- A SYNC_INC message increments an object (R417). -/
  | syncInc (p : Pkt) (f : Pfx)
  /-- A SYNC_READ message returns an object's count and target (R417). -/
  | syncRead (p : Pkt) (f : Pfx)
  /-- SYNC_ARM sets an object's target and deadline (R424). -/
  | syncArm (p : Pkt) (f : Pfx)
  /-- SYNC_RESET zeroes an object with no waiters (R428). -/
  | syncReset (p : Pkt) (f : Pfx)
  /-- An armed object's deadline ends unreached; MISSED is set and a LATE notice sent (R426). -/
  | syncDeadline (object : Nat)
  /-- A coherence domain is created with its members and windows (R434). -/
  | cohDomainCreate (src : Src) (body : DomainDef)
  /-- A DOWN domain returns to FREE (R437). -/
  | cohDomainDestroy (src : Src) (domain : Nat)
  /-- COH_DOMAIN_DOWN from the fabric manager or COH_CTRL.TEST_DOWN takes a domain DOWN with cause 8 (R454). -/
  | cohDomainDown (src : Src) (domain : Nat)
  /-- An agent and context are placed in a free member index (R437). -/
  | cohMemberAdd (src : Src) (domain member agent ctx : Nat)
  /-- A member's lines are recalled and its index cleared (R437). -/
  | cohMemberRemove (src : Src) (domain member : Nat)
  /-- A member asks the home for a shared copy of a line (R443). -/
  | getS (p : Pkt) (x : CohMsg)
  /-- A member asks the home for the only copy of a line (R443). -/
  | getM (p : Pkt) (x : CohMsg)
  /-- An owner evicts a modified line to the home (R453). -/
  | putM (p : Pkt) (x : CohMsg)
  /-- A sharer drops its copy (R443). -/
  | putS (p : Pkt) (x : CohMsg)
  /-- An owner reports it has supplied the requester; the transaction ends (R443). -/
  | fwdAck (p : Pkt) (x : CohMsg)
  /-- An owner returns recalled data to the home (R448). -/
  | recallAck (p : Pkt) (x : CohMsg)
  /-- A sharer acknowledges an invalidation (R443). -/
  | invAck (p : Pkt) (x : CohMsg)
  /-- An owner reports the forwarded line was already sent by PUT_M (R453). -/
  | evicted (p : Pkt) (x : CohMsg)
  /-- A reserved member sends no request for 16 holds and the line's reservation ends (R447). -/
  | reservationExpiry (line : W64) (time : Nat)
  /-- A snoop, recall or PUT_M after EVICTED goes unanswered and the domain goes DOWN (R454). -/
  | cohTimeout (line : W64) (time : Nat)
  /-- The drain after DOWN ends; remaining owned lines are poisoned and the domain is DOWN (R456). -/
  | drainEnd (domain time : Nat)
  /-- The fabric manager opens a Frieze session (R468). -/
  | sessionOpen (src : Src) (body : SessDef)
  /-- A session is closed and its held writes discarded (R470). -/
  | sessionClose (src : Src) (session : Nat)
  /-- An ACK packet updates acknowledgement and replay credits and may trigger fast retransmission (R478). -/
  | ack (p : Pkt) (base : Nat) (rcr : List Nat) (map : List Byte)
  /-- A PROBE arrives and is answered with PROBE_REPLY (R469). -/
  | probe (p : Pkt) (stamp : W64)
  /-- A PROBE_REPLY lands and its path comes UP (R469). -/
  | probeReply (p : Pkt)
  /-- The probe period ends and a PROBE is sent on each DOWN path with link (R469). -/
  | probeTimer (session time : Nat)
  /-- ACK_DELAY_NS after an unacknowledged landing passes and an ACK is sent (R477). -/
  | ackDelayExpiry (session time : Nat)
  /-- RTO passes without acknowledgement; the packet is resent and the path may go DOWN (R479). -/
  | retransmitTimeout (session seq time : Nat)
  /-- A HOLD session's grace ends; it becomes LOST and outstanding requests are resolved (R495). -/
  | graceEnd (session time : Nat)
  /-- A Frieze READ returns pool data as READ_DATA and a REPLY (R490). -/
  | read (p : Pkt) (f : Pfx)
  /-- A Frieze WRITE writes pool data and is replied to (R489). -/
  | write (p : Pkt) (f : Pfx)
  /-- A Frieze 64-bit atomic returns the old value (R487). -/
  | atomic64 (p : Pkt) (f : Pfx)
  /-- A REPLY lands and resolves the request it answers (R488). -/
  | reply (p : Pkt) (status : Status) (count : Nat) (detail value value2 : W64)
  /-- Every packet of a RESULT_WRITE has been acknowledged (R491). -/
  | resultWriteAcknowledged (ctx num : Nat)
  /-- A RoCE queue pair is created in RTS (R499). -/
  | qpCreate (src : Src) (body : QpDef)
  /-- A queue pair is removed (R499). -/
  | qpDestroy (src : Src) (qp : Nat)
  /-- An RDMA WRITE writes pool data, or rings a doorbell under DOORBELL_RKEY (R500). -/
  | rdmaWrite (p : RPkt)
  /-- An RDMA READ returns pool data, with a NAK for poison (R503). -/
  | rdmaRead (p : RPkt)
  /-- A RoCE compare-and-swap atomic on a pool word (R500). -/
  | compareSwap (p : RPkt) (swap compare : W64)
  /-- A RoCE fetch-and-add atomic on a pool word (R500). -/
  | fetchAdd (p : RPkt) (add : W64)
  /-- A RoCE packet of an unsupported opcode gets NAK Invalid Request and its queue pair enters ERROR (R498). -/
  | roceInvalidRequest (p : RPkt)
  /-- A RoCE acknowledgement of the chip's RDMA WRITEs arrives (R504). -/
  | roceAck (p : RPkt) (nak : Option Nat)
  /-- An Ethernet sub-port gains link; ring ports send RING_HELLO (R509). -/
  | linkUp (port sub time : Nat)
  /-- An Ethernet sub-port loses link; its paths go DOWN and ring routes may change (R469). -/
  | linkDown (port sub time : Nat)
  /-- A RING_HELLO arrives; a ring session opens to the neighbour, or a loopback or cable mismatch is found (R509). -/
  | ringHello (p : Pkt) (chip : Nat)
  /-- RING_JOIN, or a write of one to RING_CTRL.JOIN, makes an OUT chip JOINING (R512). -/
  | ringJoin (src : Src) (chip : Nat)
  /-- RING_LEAVE, or a write of one to RING_CTRL.LEAVE, makes a member LEAVING (R512). -/
  | ringLeave (src : Src) (chip : Nat)
  /-- The master marks the link where a chip will be inserted as closing (R515). -/
  | ringPrepare (src : Src) (chip west east : Nat)
  /-- The master decides a joining chip's request (R513). -/
  | joinRequest (p : Pkt) (chip priority : Nat)
  /-- A JOINING chip is accepted and becomes MEMBER (R512). -/
  | joinAccept (p : Pkt) (master : Nat)
  /-- A JOINING chip is refused and returns to OUT (R512). -/
  | joinRefused (p : Pkt) (reason master : Nat)
  /-- No neighbour HELLO arrives within 100 ms and the chip returns to OUT (R512). -/
  | joinTimeout (time : Nat)
  /-- After two ticks the master admits start-up joiners up to N_max (R514). -/
  | ringAdmission
  /-- A newer ROUTE_UPDATE makes the chip recompute its route table and drain changed routes (R517). -/
  | routeUpdate (p : Pkt) (version : Nat) (members : List (Nat × Nat))
  /-- No destination is draining; RING_DRAINED is sent, and a LEAVING chip goes OUT (R518). -/
  | routeDrained
  /-- The master receives a member's RING_DRAINED and answers RING_PREPARE when all have (R515). -/
  | ringDrained (p : Pkt) (chip version : Nat)
  /-- A member's heartbeats are absent in both directions for 3 ticks and the master removes it (R516). -/
  | memberLost (chip : Nat)
  /-- A FORWARD arrives; a member passes it on, and the home chip serves it (R520). -/
  | forward (p : Pkt) (x : FwdMsg)
  /-- A FORWARD_REPLY is routed back to its origin and resolves the forwarded request (R520). -/
  | forwardReply (p : Pkt) (x : FwdRep)
  /-- A forwarded request has no reply by the timeout; it is sent once more or completes LINK_LOST or OUTCOME_UNKNOWN (R522). -/
  | forwardTimeout (tag : Nat)
  /-- A write enters a pseudo-channel write queue and is made (R543). -/
  | writeQueueEntry (stack pc bank row col : Nat) (word0 word1 : Option (List Byte)) (hk : Bool) (time : Nat)
  /-- A read enters a pseudo-channel read queue and is checked for hazards (R547). -/
  | readQueueEntry (stack pc bank row col : Nat) (hk scrub : Bool)
  /-- The controller issues a read or write burst by its scheduling mode (R544). -/
  | burstIssue (stack pc time : Nat)
  /-- A write has waited WR_AGE_US and the pseudo-channel enters DRAIN (R545). -/
  | writeAgeExpiry (stack pc time : Nat)
  /-- A refresh command falls due and issues ahead of queued requests (R550). -/
  | refresh (stack pc bank : Nat)
  /-- A pseudo-channel is quiesced and retrained in the retraining slice (R554). -/
  | retrainPc
  /-- Retraining ends; the queues return to NORMAL, and repeated failures fail the stack (R555). -/
  | retrainEnd (stack pc : Nat) (centred : Bool) (marginPs : Nat)
  /-- A write of one to MEM_TRAIN.NOW retrains a pseudo-channel in the next slice (R555). -/
  | memTrainNow (src : Src) (stack target : Nat)
  /-- A corrected, poisoned or recovered word's write-back enters a housekeeping entry or is dropped (R565). -/
  | writeBack (word : Nat)
  /-- A 1,024-tick period ends and the per-symbol correction counts clear (R567). -/
  | lanePeriodEnd
  /-- Patrol scrub reads one row of a pseudo-channel in the scrub slice (R575). -/
  | scrubStep (stack pc ns time : Nat)
  /-- A write of one to ECC_FLIP_CTRL.ARMED arms the flip mask for the next write to its target (R581). -/
  | eccFlipArm (src : Src)
  /-- The rebuild writes the next 2 KiB of the failed stack onto the spare in the rebuild slice (R595). -/
  | rebuildStep (ns : Nat)
  /-- The spare is woken on its period, retrained, tested and scrubbed (R600). -/
  | spareWatchWake (patternMatches : Bool)
  /-- A standby applies a mirrored write in frame-sequence order and answers (R605). -/
  | replicaWrite (p : Pkt) (x : RepMsg)
  /-- A standby stores a resynchronisation copy of a frame (R618). -/
  | replicaResync (p : Pkt) (x : RepMsg)
  /-- A member serves a word of its copy to its partner (R607). -/
  | replicaFetch (p : Pkt) (x : RepMsg)
  /-- The partner's health word arrives and is checked (R612). -/
  | replicaHealth (p : Pkt) (x : RepMsg)
  /-- A standby compares a frame digest from the holder (R619). -/
  | replicaDigest (p : Pkt) (x : RepMsg)
  /-- A mirrored write goes unanswered; the frame is dirtied and the holder enters ACTIVE_ALONE (R606). -/
  | replicaWriteTimeout (extent frame fseq : Nat)
  /-- Three ticks end without an intact health word from the partner (R613). -/
  | partnerLost
  /-- A request parked for the pair waits WAIT_TICKS boundaries and completes LINK_LOST (R617). -/
  | pairParkTimeout (who : ParkRef)
  /-- The filtered PAIR_KEY_IN_N changes level; an assertion while holding fences X access (R610). -/
  | pairKeyInChange (asserted : Bool)
  /-- The guard time passes with IN deasserted and the chip asserts OUT (R609). -/
  | keyGuardEnd (time : Nat)
  /-- The settle time passes without IN asserting and KEY_HELD is set (R609). -/
  | keySettleEnd (time : Nat)
  /-- 1 ms after a collision a self-returning primary tries to take the key again (R620). -/
  | keyRetryTimer (time : Nat)
  /-- Every started X write is made or resolved and the chip deasserts OUT (R611). -/
  | keyRelease
  /-- The fabric manager tells a standby to take the key (R616). -/
  | pairPromote (src : Src) (force : Bool)
  /-- The fabric manager tells the holder to release the key (R611). -/
  | pairRelease (src : Src)
  /-- A member releases and enters RECOVERY (R614). -/
  | pairRecover (src : Src)
  /-- The holder copies the next dirty frame to the standby (R618). -/
  | pairResyncCopy (ns : Nat)
  /-- The signing unit assembles and signs an attestation report (R646). -/
  | attest (x : AttestStep)
  /-- The management key in slot 0 is established from a signed KEM ciphertext (R639). -/
  | mgmtKeyEstablish (src : Src) (nonce : Nat) (sigOk : Bool) (time : Nat)
  /-- A partition's KEK is set and the partition becomes ACTIVE (R625). -/
  | partKeyEstablish (src : Src) (partition nonce time : Nat)
  /-- A wrapped key is unwrapped into a link key slot (R640). -/
  | keyLoad (src : Src) (slot owner : Nat) (unwraps : Bool) (time : Nat)
  /-- 100 ms after a key replacement, the old key stops verifying packets (R641). -/
  | oldKeyExpiry (slot time : Nat)
  /-- A link key slot is emptied (R642). -/
  | keyUnload (src : Src) (slot : Nat)
  /-- A partition enters REMOVING; its keys are destroyed and its contexts, threads, recasts, objects and domains stopped (R648). -/
  | partRemove (src : Src) (partition : Nat)
  /-- Every op tag and work of a removing partition has retired, and its resources are scrubbed (R648). -/
  | removalRetired (partition : Nat)
  /-- The scrub ends; objects are freed, a new memory key drawn and the partition is VACANT (R648). -/
  | partRemoved (partition : Nat)
  /-- The recovery loader burns OWNER_KH from the owner's public keys (R633). -/
  | ownerProvision (src : Src) (edPub mldsaPub : Nat)
  /-- A write of one to SEC_CTRL.SVN_COMMIT burns SVN_MIN up to the running image's SVN (R634). -/
  | svnCommit (src : Src)
  /-- The test access port's BYPASS instruction (R630). -/
  | jtagBypass
  /-- The test access port's IDCODE instruction (R720). -/
  | jtagIdcode
  /-- The test access port's SAMPLE/PRELOAD instruction (R630). -/
  | jtagSamplePreload (cells : List Bool)
  /-- The test access port's EXTEST instruction drives pads from boundary cells (R720). -/
  | jtagExtest
  /-- A write to PWR_OP.TARGET starts a change of operating point (R666). -/
  | operatingPointChange (src : Src) (target : Nat)
  /-- SETTLE_US passes after a VID change and the next step of the change proceeds (R666). -/
  | vidSettleEnd
  /-- The PLL locks and the arithmetic clock switches (R666). -/
  | pllLock (time : Nat)
  /-- PWR_SET or a write to PWR_DOMAIN.TARGET commands a power domain (R668). -/
  | pwrSet (src : Src) (domain target flags period : Nat)
  /-- A domain's entry ends and it reaches RETENTION or OFF (R670). -/
  | domainEntryEnd (domain : Nat)
  /-- A domain's wake ends and it is ON (R671). -/
  | domainWakeEnd (domain : Nat) (ok : Bool)
  /-- A write of one to PWR_DOMAIN.HOLD_RELEASE releases a domain's pad hold (R672). -/
  | holdRelease (src : Src) (domain : Nat)
  /-- A watched domain wakes on its period and runs its check (R673). -/
  | watchWake (domain : Nat) (x : WatchStep)
  /-- QUIESCE begins preparing the chip for removal (R675). -/
  | quiesce (src : Src) (drainMs : Nat)
  /-- The quiesce drain time ends and every context is flushed (R675). -/
  | quiesceDrainEnd (time : Nat)
  /-- Ring, key and works have drained; domains are turned OFF and QUIESCED sent (R675). -/
  | quiesced
  /-- A flash sector is erased and programmed (R663). -/
  | imageWrite (src : Src) (off : Nat) (data : List Byte)
  /-- A flash sector is read and returned (R663). -/
  | imageRead (src : Src) (off : Nat)
  /-- A warm reset follows the reply (R663). -/
  | recoveryRestart (src : Src)
  /-- A write of one to CHK_CTRL.START starts a check unit's CRC over pool bytes (R680). -/
  | chkStart (src : Src) (unit : Nat)
  /-- A write of one to CHK_CTRL.ABORT stops a check unit at its next word (R681). -/
  | chkAbort (src : Src) (unit : Nat)
  /-- A check unit finishes and sets DONE, or stops on poison or a refused read (R680). -/
  | chkDone (unit : Nat)
  /-- A sensor crosses its alert threshold and THERM_ALERT_N changes (R718). -/
  | thermAlert (sensor temp : Nat)
  /-- A sensor reaches its trip threshold; THERM_TRIP_N asserts and the chip acts as on power loss (R719). -/
  | thermTrip (sensor : Nat)
  /-- A reference clock stops and the plinths and ports it feeds stop (R716). -/
  | referenceClockStop (clock : Nat)
  /-- The hold after a grant on a coherent line ends, and an uncached access of the home that waits on the held line is served (R446). -/
  | holdExpiry (line : W64) (time : Nat)
  /-- An RDMA WRITE that the chip sent as requester goes unacknowledged for the local ACK timeout; it is retried, and after the retry count the queue pair enters ERROR and its writes are held (R499). -/
  | localAckTimeout (qp time : Nat)
  /-- RESET_N is released, and step 1 of start-up begins to count its 50 µs (R652). -/
  | resetNRelease (time : Nat)
  /-- An IEEE 802.1Qbb priority-based flow-control frame arrives, and the port pauses or resumes sending on the priorities it names (R464). -/
  | pfcFrame (port sub frameLen : Nat) (quanta : List Nat) (time : Nat)
  /-- A port finishes sending a frame, and the scheduler starts the head packet with the least finish tag, setting V to its tag (R530). -/
  | frameTransmitted (port time : Nat)
  /-- An IPv6 Neighbor Discovery message reaches the recovery loader on the sideband port and is answered for its link-local address (R662). -/
  | neighborDiscovery (target : Nat)
deriving DecidableEq, Repr

end Sys2Proof
end

