-- ==== Sys2Proof/Machine/Maps.lean ====
section
/-! DEFINITION. Sparse collections of the state: lists of (key, value) pairs with strictly rising keys, so that equal
collections are equal data. Also the bit-field, byte-order and arithmetic helpers used everywhere. -/

namespace Sys2Proof.Machine

/-- A sparse collection keyed by a number. -/
abbrev AMap (α : Type) := List (Nat × α)

/-- The value under key `k`. -/
def amGet? {α : Type} : AMap α → Nat → Option α
  | [], _ => none
  | (j, v) :: t, k => if j = k then some v else amGet? t k

/-- The value under key `k`, or `d`. -/
def amGet {α : Type} (m : AMap α) (k : Nat) (d : α) : α := (amGet? m k).getD d

/-- The collection with `v` under key `k`. -/
def amSet {α : Type} : AMap α → Nat → α → AMap α
  | [], k, v => [(k, v)]
  | (j, w) :: t, k, v =>
    if k < j then (k, v) :: (j, w) :: t
    else if k = j then (k, v) :: t
    else (j, w) :: amSet t k v

/-- The collection without key `k`. -/
def amDel {α : Type} (m : AMap α) (k : Nat) : AMap α := m.filter (fun e => e.1 != k)

/-- The value under `k`, when there is one, replaced by `f` of it. -/
def amMod {α : Type} (m : AMap α) (k : Nat) (f : α → α) : AMap α :=
  m.map (fun e => if e.1 = k then (e.1, f e.2) else e)

/-- Every value replaced by `f` of its key and itself. -/
def amMap {α : Type} (m : AMap α) (f : Nat → α → α) : AMap α := m.map (fun e => (e.1, f e.1 e.2))

/-- `v` under `k`, or no entry when `v` is the value `d` that an absent key reads as. -/
def amPut {α : Type} [DecidableEq α] (d : α) (m : AMap α) (k : Nat) (v : α) : AMap α :=
  if v = d then amDel m k else amSet m k v

/-- The keys rise strictly. -/
def amRising {α : Type} : AMap α → Bool
  | [] => true
  | [_] => true
  | (j, _) :: (k, v) :: t => decide (j < k) && amRising ((k, v) :: t)

/-- The canonical form: keys rise strictly and no entry holds the value an absent key reads as. -/
def amCanon {α : Type} [DecidableEq α] (d : α) (m : AMap α) : Bool :=
  amRising m && m.all (fun e => decide (e.2 ≠ d))

/-- The number of entries that satisfy `p`. -/
def amCount {α : Type} (m : AMap α) (p : Nat → α → Bool) : Nat := (m.filter (fun e => p e.1 e.2)).length

/-- The least number below `n` that is not among `used`. -/
def leastFree (used : List Nat) : Nat → Option Nat
  | n => (List.range n).find? (fun k => !used.contains k)

/-- Bits `hi` to `lo` of a number (R5). -/
def bitsOf (v hi lo : Nat) : Nat := v / 2 ^ lo % 2 ^ (hi - lo + 1)

/-- A number with bits `hi` to `lo` replaced by `x` (R5). -/
def setBits (v hi lo x : Nat) : Nat :=
  v / 2 ^ (hi + 1) * 2 ^ (hi + 1) + x % 2 ^ (hi - lo + 1) * 2 ^ lo + v % 2 ^ lo

/-- Bit `i` of a number. -/
def bitOf (v i : Nat) : Bool := v / 2 ^ i % 2 = 1

/-- A number with bit `i` set to `b`. -/
def setBit (v i : Nat) (b : Bool) : Nat := if bitOf v i = b then v else if b then v + 2 ^ i else v - 2 ^ i

def b2n (b : Bool) : Nat := if b then 1 else 0

/-- A count that stays at its greatest value (R708). -/
def satAdd (w v n : Nat) : Nat := min (v + n) (2 ^ w - 1)

/-- The value of `n` bytes, the first the least significant (R6, R7). -/
def leNat : List Byte → Nat
  | [] => 0
  | b :: t => b.toNat + 256 * leNat t

/-- The value of bytes, the first the most significant (R7). -/
def beNat (l : List Byte) : Nat := leNat l.reverse

/-- The low `n` bytes of a number, least significant first. -/
def natLe : Nat → Nat → List Byte
  | 0, _ => []
  | n + 1, v => BitVec.ofNat 8 v :: natLe n (v / 256)

/-- The low `n` bytes of a number, most significant first. -/
def natBe (n v : Nat) : List Byte := (natLe n v).reverse

/-- A two's-complement number of `w` bits. -/
def sext (w v : Nat) : Int := if v % 2 ^ w < 2 ^ (w - 1) then (v % 2 ^ w : Nat) else (v % 2 ^ w : Nat) - (2 ^ w : Nat)

/-- Serial comparison of 32-bit numbers: `a` is newer than `b` when their difference modulo 2^32 lies in 1 to 2^31 − 1
(R119, R191, R229). -/
def serialNewer (a b : Nat) : Bool :=
  let d := (a + 2 ^ 32 - b % 2 ^ 32) % 2 ^ 32
  0 < d && d < 2 ^ 31

/-- Element `i` of a list replaced by `f` of it. -/
def listMod {α : Type} (l : List α) (i : Nat) (f : α → α) : List α := l.modify i f

/-- The list cut or filled with `d` to `n` elements. -/
def padTo {α : Type} (n : Nat) (d : α) (l : List α) : List α := l.take n ++ List.replicate (n - l.length) d

/-- The distinct elements in order of first occurrence. -/
def distinctOf {α : Type} [DecidableEq α] (l : List α) : List α :=
  l.foldl (fun acc x => if acc.contains x then acc else acc ++ [x]) []

end Sys2Proof.Machine
end

