-- ==== Sys2Proof/Machine/Crc.lean ====
section
/-! DEFINITION. The two checks of the check units (R474, R679). -/

namespace Sys2Proof.Machine

/-- One bit of the reflected Castagnoli CRC. -/
def crc32Bit (c : W32) : W32 := if c.getLsbD 0 then (c >>> 1) ^^^ 0x82F63B78 else c >>> 1

def crc32Byte (c : W32) (b : Byte) : W32 := Nat.repeat crc32Bit 8 (c ^^^ b.setWidth 32)

/-- CRC-32C before the final XOR, from a running value. -/
def crc32Run (c : W32) (l : List Byte) : W32 := l.foldl crc32Byte c

/-- CRC-32C (R474): 0x1EDC_6F41 reflected, initial value and final XOR all ones. -/
def crc32c (l : List Byte) : W32 := crc32Run 0xFFFFFFFF l ^^^ 0xFFFFFFFF

def crc64Bit (c : W64) : W64 := if c.getLsbD 63 then (c <<< 1) ^^^ 0x42F0E1EBA9EA3693 else c <<< 1

def crc64Byte (c : W64) (b : Byte) : W64 := Nat.repeat crc64Bit 8 (c ^^^ (b.setWidth 64 <<< 56))

/-- CRC-64 with the ECMA-182 polynomial (R679), from a running value. -/
def crc64Run (c : W64) (l : List Byte) : W64 := l.foldl crc64Byte c

def crc64 (l : List Byte) : W64 := crc64Run 0 l

end Sys2Proof.Machine
end

