-- ==== Sys2Proof/Config.lean ====
section
/-! DEFINITION. What the spec leaves to the device or does not state: uninterpreted constants. No proof can see a value of
them, so a statement about a free value holds for every value. A drawn value takes the number of the draw, a counter of
the state. -/

namespace Sys2Proof.Config

/-- A choice the device makes among `n` permitted outcomes (R4): read modulo the number of outcomes.
DESIGN CHOICE, assumption 7 (safe). -/
opaque choice : Nat → Nat

/-- A true-random draw of 64 bits: stochastic rounding, histogram sampling, neighbour refresh, nonces (R148, R185, R552).
DESIGN CHOICE, assumption 8 (safe). -/
opaque random : Nat → W64

/-- An undefined or unstated 64-bit value. DESIGN CHOICE, assumption 8 (safe). -/
opaque freeWord : Nat → W64

/-- The code of an element whose code the spec does not state: one that makes its block a NaN block, or a finite one under an infinite
BQ4 scale. It depends on what is encoded alone (R177). DESIGN CHOICE, assumption 87 (safe). -/
opaque freeElem : List Int → Nat

/-- SHA3-384, named and not defined by the spec (R400, R631): the digest as a number. DESIGN CHOICE, assumption 6 (safe). -/
opaque sha3 : List Byte → Nat

/-- What manufacture wrote (Table 18-3): the fuses UDS, SERIAL and VENDOR_KH, and the measurement of the boot ROM in six words
(R654). The spec gives none of their values. DESIGN CHOICE, assumption 9 (safe). -/
opaque uds : Nat
opaque serial : Nat
opaque vendorKh : Nat
opaque romDigest : Nat → W64

/-- The ML-KEM-768 encapsulation key of a key pair, as a number (R629): the spec names the algorithms of keys and signatures and the
model takes their results as free. DESIGN CHOICE, assumption 6 (safe). -/
opaque kemKey : Nat → Nat

/-- KMAC256 of NIST SP 800-185 with 256 bits of output and an empty customisation string, by key and message (R628, R638).
DESIGN CHOICE, assumption 6 (safe). -/
opaque kmac256 : Nat → List Byte → BitVec 256

/-- The secret that a draw stands for: the shared secret of a KEM ciphertext, or the key that an unwrap gives (R638, R640). The commands
do not carry ciphertext or wrapped key. DESIGN CHOICE, assumption 6 (safe). -/
opaque secret : Nat → Nat

/-- The Ed25519 signature of RFC 8032 under a seed, ML-DSA.KeyGen_internal of FIPS 204 (the private key, as a number), and the
ML-DSA-65 signature under a private key (R628, R646). DESIGN CHOICE, assumption 6 (safe). -/
opaque ed25519 : BitVec 256 → List Byte → Nat
opaque mldsaKey : BitVec 256 → Nat
opaque mldsa65 : Nat → List Byte → Nat

/-- AES-256 under a key, a permutation of the 128-bit blocks (R643): as a sequence of swaps of two blocks, which every permutation of
them is. DESIGN CHOICE, assumption 6 (safe). -/
opaque aesSwaps : BitVec 256 → List (BitVec 128 × BitVec 128)

/-- The dispatcher's estimate of a work's next slice, by context, work and step, and of a batch's next token group, by image, tick
and entries left, before they are made to fit (R66, R248, R330): the spec gives no formula. DESIGN CHOICE, assumption 9 (safe). -/
opaque sliceNs : Nat → Nat → Nat → Nat
opaque groupNs : Nat → Nat → Nat → Nat

/-- How many threads of its cluster a slice of a built-in work takes, less one, by context and work (R407): the spec gives no number.
DESIGN CHOICE, assumption 9 (safe). -/
opaque sliceThreads : Nat → Nat → Nat

/-- The row stride, in stack words, of an extent's sparse-row form (R104): no message gives an extent one. Zero for none.
DESIGN CHOICE, assumption 9 (safe). -/
opaque rowStride : Nat → Nat

/-- The payload bytes of a management or ring message of the given TYPE and fields: R493 derives them from each field's range,
and the model keeps fields as numbers. DESIGN CHOICE, assumption 9 (safe). -/
opaque bodyBytes : Nat → List Nat → Nat

/-- The priority of IEEE 802.1Qbb at which a port sends frames of a DSCP (R464): the spec gives no mapping.
DESIGN CHOICE, assumption 59 (safe). -/
opaque pfcPriority : Nat → Nat

/-- The UDP source port of the RoCE packets of a queue pair, which R498 does not give. DESIGN CHOICE, assumption 9 (safe). -/
opaque roceUdp : Nat → Nat

/-- How ARG of a coherence message names HOME, and the TID of a transaction that the home itself begins: the spec codes
neither (R440, R492). DESIGN CHOICE, assumption 9 (safe). -/
opaque homeIndex : Nat
opaque homeTid : Nat

/-- The gate that the assignment record shows for an assignment never decided, from the gate selected (R326).
DESIGN CHOICE, assumption 95 (safe). -/
opaque undecidedGate : Nat → BitVec 32

end Sys2Proof.Config
end

