-- ==== Sys2Proof/Machine/RegMap.lean ====
section
/-! DEFINITION. The register map of the chip: the address of every register (Table 20-1 and the offset tables of each
chapter), its width, and its fields with access code (R8), reset value, and, where the field map states a range, the legal
values of a write (R10). A register array has one address function; its descriptor row gives the counts and strides. -/

namespace Sys2Proof.Machine

/-- The access codes of Table 0-4 (R8); `sticky` is a qualifier and stands beside them. -/
inductive Acc where
  | rw | ro | wo | w1c | w1s | rc
deriving DecidableEq, Repr

/-- One register field (R5, R8): its bits, access, reset value, whether it keeps its value across a warm reset, whether its
reset value comes from configuration, fuse or strap, and the range of values a write may store (R10). -/
structure Fld where
  hi : Nat
  lo : Nat
  acc : Acc
  reset : Nat := 0
  sticky : Bool := false
  config : Bool := false
  legal : Option (Nat × Nat) := none
deriving DecidableEq, Repr

/-- One row of an offset table: the register's name, first address, the counts and strides of an array, its width
(`wide`: 64 bits), whether it is a performance counter (R696), and its fields. Bits outside the fields are reserved (R9). -/
structure RegRow where
  name : String
  base : Nat
  dims : List (Nat × Nat)
  wide : Bool
  perf : Bool
  flds : List Fld
deriving DecidableEq, Repr

/-! ### Glb registers (R694) -/

abbrev GLB_ID : Nat := 0x0000
def GLB_ID_PART : Fld := { hi := 31, lo := 16, acc := .ro, reset := 16406 }
def GLB_ID_STEPPING : Fld := { hi := 15, lo := 8, acc := .ro, reset := 17 }
def GLB_ID_VENDOR : Fld := { hi := 7, lo := 0, acc := .ro, reset := 81 }
abbrev GLB_CHIP : Nat := 0x0004
def GLB_CHIP_CHIP_ID : Fld := { hi := 11, lo := 0, acc := .ro, config := true }
abbrev GLB_CTRL : Nat := 0x0008
def GLB_CTRL_PERF_CLEAR : Fld := { hi := 1, lo := 1, acc := .w1s }
def GLB_CTRL_PERF_FREEZE : Fld := { hi := 0, lo := 0, acc := .rw }
abbrev GLB_STATUS : Nat := 0x000C
def GLB_STATUS_FATAL : Fld := { hi := 3, lo := 3, acc := .ro }
def GLB_STATUS_READY : Fld := { hi := 2, lo := 2, acc := .ro }
def GLB_STATUS_ATELIER_RESTARTS : Fld := { hi := 1, lo := 1, acc := .w1c, sticky := true }
def GLB_STATUS_LOG_LOST : Fld := { hi := 0, lo := 0, acc := .w1c, sticky := true }
abbrev GLB_FENCED : Nat := 0x0010
def GLB_FENCED_LINKS : Fld := { hi := 61, lo := 56, acc := .ro }
def GLB_FENCED_BASE : Fld := { hi := 55, lo := 52, acc := .ro }
def GLB_FENCED_COMPUTE : Fld := { hi := 51, lo := 48, acc := .ro }
def GLB_FENCED_STACKS : Fld := { hi := 47, lo := 32, acc := .ro }
def GLB_FENCED_CLUSTERS : Fld := { hi := 31, lo := 16, acc := .ro }
def GLB_FENCED_ENGINES : Fld := { hi := 15, lo := 0, acc := .ro }
abbrev GLB_TIME : Nat := 0x0018
def GLB_TIME_NS : Fld := { hi := 63, lo := 0, acc := .ro }
abbrev GLB_LAST_FATAL : Nat := 0x0020
def GLB_LAST_FATAL_CODE : Fld := { hi := 63, lo := 48, acc := .ro, sticky := true }
def GLB_LAST_FATAL_KIND : Fld := { hi := 47, lo := 40, acc := .ro, sticky := true }
def GLB_LAST_FATAL_UNIT : Fld := { hi := 39, lo := 24, acc := .ro, sticky := true }
def GLB_LAST_FATAL_TICK : Fld := { hi := 23, lo := 0, acc := .ro, sticky := true }
abbrev GLB_REG_REFUSED : Nat := 0x0028
def GLB_REG_REFUSED_COUNT : Fld := { hi := 63, lo := 0, acc := .ro }
abbrev GLB_SCRATCH : Nat := 0x0030
def GLB_SCRATCH_VALUE : Fld := { hi := 31, lo := 0, acc := .rw }

/-! ### Tck registers (R78) -/

abbrev TCK_CTRL : Nat := 0x10000
def TCK_CTRL_HANDOVER : Fld := { hi := 2, lo := 2, acc := .w1s }
def TCK_CTRL_TICKOUT_EN : Fld := { hi := 1, lo := 1, acc := .rw, reset := 1 }
abbrev TCK_CONFIG : Nat := 0x10004
def TCK_CONFIG_PRIORITY : Fld := { hi := 27, lo := 24, acc := .ro, config := true }
def TCK_CONFIG_CANDIDATE : Fld := { hi := 23, lo := 23, acc := .ro, config := true }
def TCK_CONFIG_SOURCE : Fld := { hi := 22, lo := 20, acc := .ro, config := true }
def TCK_CONFIG_PTP_PORT : Fld := { hi := 19, lo := 16, acc := .ro, config := true }
def TCK_CONFIG_PERIOD_US : Fld := { hi := 10, lo := 0, acc := .ro, reset := 100, config := true }
abbrev TCK_STATUS : Nat := 0x10008
def TCK_STATUS_MASTER_ID : Fld := { hi := 31, lo := 20, acc := .ro }
def TCK_STATUS_HOLDOVER_TICKS : Fld := { hi := 15, lo := 8, acc := .ro }
def TCK_STATUS_STATE : Fld := { hi := 3, lo := 1, acc := .ro, reset := 3 }
def TCK_STATUS_MASTER : Fld := { hi := 0, lo := 0, acc := .ro, reset := 1 }
abbrev TCK_COUNT : Nat := 0x10010
def TCK_COUNT_F : Fld := { hi := 63, lo := 0, acc := .ro }
abbrev TCK_BOUNDARY_TIME : Nat := 0x10018
def TCK_BOUNDARY_TIME_NS : Fld := { hi := 63, lo := 0, acc := .ro }
abbrev TCK_ALIGN : Nat := 0x10020
def TCK_ALIGN_OFFSET : Fld := { hi := 31, lo := 0, acc := .ro }
abbrev TCK_BUDGET0 : Nat := 0x10024
def TCK_BUDGET0_RING_RESERVE : Fld := { hi := 29, lo := 20, acc := .rw, reset := 400, legal := some (100, 900) }
def TCK_BUDGET0_EXPERT : Fld := { hi := 19, lo := 10, acc := .rw, reset := 600, legal := some (0, 900) }
def TCK_BUDGET0_RETRAIN_PC : Fld := { hi := 4, lo := 0, acc := .rw, reset := 4, legal := some (0, 16) }
abbrev TCK_BUDGET1 : Nat := 0x10028
def TCK_BUDGET1_REBUILD : Fld := { hi := 29, lo := 20, acc := .rw, reset := 100, legal := some (0, 500) }
def TCK_BUDGET1_RECAST : Fld := { hi := 19, lo := 10, acc := .rw, reset := 50, legal := some (0, 300) }
def TCK_BUDGET1_SCRUB_CAP : Fld := { hi := 9, lo := 0, acc := .rw, reset := 20, legal := some (1, 50) }
abbrev TCK_REFRESH : Nat := 0x1002C
def TCK_REFRESH_SHARE : Fld := { hi := 9, lo := 0, acc := .ro }
abbrev TCK_OVERRUN : Nat := 0x10030
def TCK_OVERRUN_ESCALATED : Fld := { hi := 31, lo := 31, acc := .ro }
def TCK_OVERRUN_CLEAN_TICKS : Fld := { hi := 30, lo := 24, acc := .ro }
def TCK_OVERRUN_CONSECUTIVE : Fld := { hi := 23, lo := 22, acc := .ro }
def TCK_OVERRUN_LAST_NS : Fld := { hi := 21, lo := 0, acc := .ro }
abbrev TCK_OVERRUN_TOTAL : Nat := 0x10038
def TCK_OVERRUN_TOTAL_COUNT : Fld := { hi := 63, lo := 0, acc := .ro }
abbrev TCK_RING_CIRCUIT : Nat := 0x10040
def TCK_RING_CIRCUIT_LAST_NS : Fld := { hi := 31, lo := 0, acc := .ro }
abbrev TCK_RING_MAX : Nat := 0x10044
def TCK_RING_MAX_MAX_NS : Fld := { hi := 31, lo := 0, acc := .rc }
abbrev TCK_RING_MEMBERS : Nat := 0x10048
def TCK_RING_MEMBERS_N_MAX : Fld := { hi := 28, lo := 16, acc := .ro }
def TCK_RING_MEMBERS_F : Fld := { hi := 12, lo := 0, acc := .ro, reset := 1 }
abbrev TCK_LATE : Nat := 0x10050
def TCK_LATE_COUNT : Fld := { hi := 63, lo := 0, acc := .ro }

/-! ### Boot registers (R682) -/

abbrev BOOT_STATUS : Nat := 0x20000
def BOOT_STATUS_STAGE : Fld := { hi := 31, lo := 28, acc := .ro }
def BOOT_STATUS_LOAD_TRIES : Fld := { hi := 17, lo := 16, acc := .ro }
def BOOT_STATUS_FAIL_CODE : Fld := { hi := 15, lo := 0, acc := .ro }
abbrev BOOT_CTRL : Nat := 0x20004
def BOOT_CTRL_WARM_RESET : Fld := { hi := 0, lo := 0, acc := .w1s }
abbrev BOOT_CAUSE : Nat := 0x20008
def BOOT_CAUSE_WARM_COUNT : Fld := { hi := 31, lo := 16, acc := .ro, sticky := true }
def BOOT_CAUSE_F : Fld := { hi := 2, lo := 0, acc := .ro, sticky := true }
abbrev BOOT_FLASH : Nat := 0x2000C
def BOOT_FLASH_CLOCK_MHZ : Fld := { hi := 31, lo := 24, acc := .ro }
def BOOT_FLASH_FLASH_MIB : Fld := { hi := 11, lo := 2, acc := .ro }
def BOOT_FLASH_LANES : Fld := { hi := 1, lo := 0, acc := .ro }
abbrev BOOT_CFG : Nat := 0x20010
def BOOT_CFG_START_OP : Fld := { hi := 1, lo := 0, acc := .ro, config := true }
abbrev BOOT_STEP_US (a : Nat) : Nat := 0x20020 + 0x4 * a
def BOOT_STEP_US_TIME : Fld := { hi := 31, lo := 0, acc := .ro }
abbrev BOOT_IMAGE_WRITES : Nat := 0x20048
def BOOT_IMAGE_WRITES_COUNT : Fld := { hi := 63, lo := 0, acc := .ro, sticky := true }

/-! ### Pwr registers (R683) -/

abbrev PWR_OP : Nat := 0x30000
def PWR_OP_BUSY : Fld := { hi := 31, lo := 31, acc := .ro }
def PWR_OP_CURRENT : Fld := { hi := 6, lo := 4, acc := .ro, reset := 4 }
def PWR_OP_TARGET : Fld := { hi := 1, lo := 0, acc := .rw, reset := 3 }
abbrev PWR_VF : Nat := 0x30004
def PWR_VF_VID : Fld := { hi := 17, lo := 16, acc := .ro, reset := 3 }
def PWR_VF_SETTLE_US : Fld := { hi := 15, lo := 0, acc := .rw, reset := 50, legal := some (10, 1000) }
abbrev PWR_STATUS : Nat := 0x30008
def PWR_STATUS_OFF : Fld := { hi := 20, lo := 14, acc := .ro }
def PWR_STATUS_RETENTION : Fld := { hi := 13, lo := 7, acc := .ro }
def PWR_STATUS_ON : Fld := { hi := 6, lo := 0, acc := .ro, reset := 68 }
abbrev PWR_OP_CHANGES : Nat := 0x30040
def PWR_OP_CHANGES_COUNT : Fld := { hi := 63, lo := 0, acc := .ro }
abbrev PWR_WATCH_FAILS : Nat := 0x30048
def PWR_WATCH_FAILS_COUNT : Fld := { hi := 63, lo := 0, acc := .ro }
abbrev PWR_ENTRIES : Nat := 0x30050
def PWR_ENTRIES_COUNT : Fld := { hi := 63, lo := 0, acc := .ro }
abbrev PWR_DOMAIN (a : Nat) : Nat := 0x30100 + 0x4 * a
def PWR_DOMAIN_HOLD_RELEASE : Fld := { hi := 31, lo := 31, acc := .w1s }
def PWR_DOMAIN_PAD_HELD : Fld := { hi := 30, lo := 30, acc := .ro }
def PWR_DOMAIN_AUTO_RELEASE : Fld := { hi := 29, lo := 29, acc := .rw, config := true }
def PWR_DOMAIN_WATCH : Fld := { hi := 28, lo := 28, acc := .rw, config := true }
def PWR_DOMAIN_FENCED : Fld := { hi := 27, lo := 27, acc := .ro }
def PWR_DOMAIN_STATE : Fld := { hi := 26, lo := 24, acc := .ro }
def PWR_DOMAIN_TARGET : Fld := { hi := 1, lo := 0, acc := .rw, legal := some (0, 2) }
abbrev PWR_WATCH (a : Nat) : Nat := 0x30300 + 0x4 * a
def PWR_WATCH_PERIOD_MS : Fld := { hi := 31, lo := 16, acc := .rw, config := true, legal := some (100, 60000) }
def PWR_WATCH_MISMATCHES : Fld := { hi := 15, lo := 0, acc := .ro }

/-! ### Evt registers (R707) -/

abbrev EVT_INJECT : Nat := 0x40000
def EVT_INJECT_CODE : Fld := { hi := 63, lo := 48, acc := .wo }
def EVT_INJECT_KIND : Fld := { hi := 47, lo := 40, acc := .wo }
def EVT_INJECT_UNIT : Fld := { hi := 39, lo := 24, acc := .wo }
abbrev EVT_NEXT_SEQ : Nat := 0x40008
def EVT_NEXT_SEQ_F : Fld := { hi := 63, lo := 0, acc := .ro }
abbrev EVT_LOST : Nat := 0x40010
def EVT_LOST_COUNT : Fld := { hi := 63, lo := 0, acc := .ro }
abbrev EVT_COUNT (a : Nat) : Nat := 0x40018 + 0x8 * a
def EVT_COUNT_F : Fld := { hi := 63, lo := 0, acc := .ro }

/-! ### Sec registers (R651) -/

abbrev SEC_STATUS : Nat := 0x50000
def SEC_STATUS_OWNER_SET : Fld := { hi := 27, lo := 27, acc := .ro, config := true }
def SEC_STATUS_MGMT_KEY : Fld := { hi := 26, lo := 26, acc := .ro }
def SEC_STATUS_RING_KEY : Fld := { hi := 25, lo := 25, acc := .ro }
def SEC_STATUS_RECOVERY : Fld := { hi := 24, lo := 24, acc := .ro }
def SEC_STATUS_ATTEST_QUEUE : Fld := { hi := 20, lo := 16, acc := .ro }
def SEC_STATUS_SLOTS_USED : Fld := { hi := 12, lo := 0, acc := .ro }
abbrev SEC_CTRL : Nat := 0x50004
def SEC_CTRL_SVN_COMMIT : Fld := { hi := 0, lo := 0, acc := .w1s }
abbrev SEC_SVN : Nat := 0x50008
def SEC_SVN_IMAGE : Fld := { hi := 38, lo := 32, acc := .ro }
def SEC_SVN_FUSED : Fld := { hi := 6, lo := 0, acc := .ro, config := true }
abbrev SEC_SERIAL_LO : Nat := 0x50010
def SEC_SERIAL_LO_SERIAL : Fld := { hi := 63, lo := 0, acc := .ro }
abbrev SEC_SERIAL_HI : Nat := 0x50018
def SEC_SERIAL_HI_SERIAL : Fld := { hi := 63, lo := 0, acc := .ro }
abbrev SEC_M_ROM (a : Nat) : Nat := 0x50020 + 0x8 * a
def SEC_M_ROM_DIGEST : Fld := { hi := 63, lo := 0, acc := .ro }
abbrev SEC_M_IMAGE (a : Nat) : Nat := 0x50050 + 0x8 * a
def SEC_M_IMAGE_DIGEST : Fld := { hi := 63, lo := 0, acc := .ro }
abbrev SEC_M_CONFIG (a : Nat) : Nat := 0x50080 + 0x8 * a
def SEC_M_CONFIG_DIGEST : Fld := { hi := 63, lo := 0, acc := .ro }
abbrev SEC_ATTESTS : Nat := 0x500C0
def SEC_ATTESTS_COUNT : Fld := { hi := 63, lo := 0, acc := .ro }
abbrev SEC_KEY_LOADS : Nat := 0x500C8
def SEC_KEY_LOADS_COUNT : Fld := { hi := 63, lo := 0, acc := .ro }
abbrev SEC_KEY_REFUSED : Nat := 0x500D0
def SEC_KEY_REFUSED_COUNT : Fld := { hi := 63, lo := 0, acc := .ro }
abbrev SEC_ESTABLISH_REFUSED : Nat := 0x500D8
def SEC_ESTABLISH_REFUSED_COUNT : Fld := { hi := 63, lo := 0, acc := .ro }
abbrev SEC_REMOVALS : Nat := 0x500E0
def SEC_REMOVALS_COUNT : Fld := { hi := 63, lo := 0, acc := .ro }
abbrev SEC_PART (a : Nat) : Nat := 0x50100 + 0x4 * a
def SEC_PART_STATE : Fld := { hi := 31, lo := 30, acc := .ro, config := true }
def SEC_PART_LINK_ENC_REQUIRED : Fld := { hi := 29, lo := 29, acc := .ro, config := true }
def SEC_PART_KEK : Fld := { hi := 28, lo := 28, acc := .ro }
def SEC_PART_SLOTS : Fld := { hi := 27, lo := 16, acc := .ro }
def SEC_PART_REMOVE_STEP : Fld := { hi := 2, lo := 0, acc := .ro }
abbrev SEC_WAYS (a b : Nat) : Nat := 0x50200 + 0x10 * a + 0x4 * b
def SEC_WAYS_MASK : Fld := { hi := 31, lo := 8, acc := .ro, config := true }
abbrev SEC_M_PROG (a b : Nat) : Nat := 0x50400 + 0x40 * a + 0x8 * b
def SEC_M_PROG_DIGEST : Fld := { hi := 63, lo := 0, acc := .ro }

/-! ### Syn registers (R432) -/

abbrev SYN_STATUS : Nat := 0x60000
def SYN_STATUS_GRANTED : Fld := { hi := 31, lo := 15, acc := .ro }
abbrev SYN_WAIT (a : Nat) : Nat := 0x60010 + 0x4 * a
def SYN_WAIT_USED : Fld := { hi := 16, lo := 0, acc := .ro }
abbrev SYN_INCREMENTS : Nat := 0x60020
def SYN_INCREMENTS_COUNT : Fld := { hi := 63, lo := 0, acc := .ro }
abbrev SYN_NOTICES : Nat := 0x60028
def SYN_NOTICES_COUNT : Fld := { hi := 63, lo := 0, acc := .ro }
abbrev SYN_DEADLINE_MISSED : Nat := 0x60030
def SYN_DEADLINE_MISSED_COUNT : Fld := { hi := 63, lo := 0, acc := .ro }
abbrev SYN_POOL_FULL : Nat := 0x60038
def SYN_POOL_FULL_COUNT : Fld := { hi := 63, lo := 0, acc := .ro }

/-! ### Coh registers (R460) -/

abbrev COH_CTRL : Nat := 0x70000
def COH_CTRL_RESERVE_AT : Fld := { hi := 8, lo := 1, acc := .rw, reset := 16, legal := some (1, 255) }
def COH_CTRL_TEST_DOWN : Fld := { hi := 0, lo := 0, acc := .w1s }
abbrev COH_TIMING0 : Nat := 0x70004
def COH_TIMING0_HOLD_NS : Fld := { hi := 31, lo := 16, acc := .rw, reset := 2000, legal := some (500, 50000) }
def COH_TIMING0_BACKOFF_NS : Fld := { hi := 15, lo := 0, acc := .rw, reset := 200, legal := some (0, 10000) }
abbrev COH_TIMING1 : Nat := 0x70008
def COH_TIMING1_TIMEOUT_US : Fld := { hi := 29, lo := 16, acc := .rw, reset := 100, legal := some (10, 10000) }
def COH_TIMING1_DRAIN_US : Fld := { hi := 13, lo := 0, acc := .rw, reset := 1000, legal := some (0, 10000) }
abbrev COH_STATUS : Nat := 0x7000C
def COH_STATUS_UP : Fld := { hi := 26, lo := 18, acc := .ro }
def COH_STATUS_DOWN : Fld := { hi := 17, lo := 9, acc := .ro }
abbrev COH_SELECT : Nat := 0x70010
def COH_SELECT_DOMAIN : Fld := { hi := 7, lo := 0, acc := .rw }
abbrev COH_DIR_USED (a : Nat) : Nat := 0x70020 + 0x4 * a
def COH_DIR_USED_F : Fld := { hi := 21, lo := 0, acc := .ro }
abbrev COH_WAYS (a : Nat) : Nat := 0x70040 + 0x4 * a
def COH_WAYS_F : Fld := { hi := 4, lo := 0, acc := .ro, config := true }
abbrev COH_REQUESTS : Nat := 0x70080
def COH_REQUESTS_OVF : Fld := { hi := 63, lo := 63, acc := .w1c }
def COH_REQUESTS_COUNT : Fld := { hi := 47, lo := 0, acc := .ro }
abbrev COH_NACKS : Nat := 0x70088
def COH_NACKS_OVF : Fld := { hi := 63, lo := 63, acc := .w1c }
def COH_NACKS_COUNT : Fld := { hi := 47, lo := 0, acc := .ro }
abbrev COH_FORWARDS : Nat := 0x70090
def COH_FORWARDS_OVF : Fld := { hi := 63, lo := 63, acc := .w1c }
def COH_FORWARDS_COUNT : Fld := { hi := 47, lo := 0, acc := .ro }
abbrev COH_BACK_INVALS : Nat := 0x70098
def COH_BACK_INVALS_OVF : Fld := { hi := 63, lo := 63, acc := .w1c }
def COH_BACK_INVALS_COUNT : Fld := { hi := 47, lo := 0, acc := .ro }
abbrev COH_CROSSINGS : Nat := 0x700A0
def COH_CROSSINGS_OVF : Fld := { hi := 63, lo := 63, acc := .w1c }
def COH_CROSSINGS_COUNT : Fld := { hi := 47, lo := 0, acc := .ro }
abbrev COH_POISONED_LINES : Nat := 0x700A8
def COH_POISONED_LINES_COUNT : Fld := { hi := 63, lo := 0, acc := .ro }
abbrev COH_DOWN_EVENTS : Nat := 0x700B0
def COH_DOWN_EVENTS_COUNT : Fld := { hi := 63, lo := 0, acc := .ro }
abbrev COH_D_STATE : Nat := 0x70100
def COH_D_STATE_PARTITION : Fld := { hi := 31, lo := 28, acc := .ro }
def COH_D_STATE_DEAD_MEMBER : Fld := { hi := 27, lo := 22, acc := .ro }
def COH_D_STATE_DEAD_VALID : Fld := { hi := 21, lo := 21, acc := .ro }
def COH_D_STATE_CAUSE : Fld := { hi := 20, lo := 17, acc := .ro }
def COH_D_STATE_POISONED : Fld := { hi := 16, lo := 7, acc := .ro }
def COH_D_STATE_WINDOWS : Fld := { hi := 6, lo := 2, acc := .ro }
def COH_D_STATE_F : Fld := { hi := 1, lo := 0, acc := .ro }
abbrev COH_D_MEMBERS : Nat := 0x70108
def COH_D_MEMBERS_VALID : Fld := { hi := 63, lo := 0, acc := .ro }
abbrev COH_D_WINDOW_BYTES : Nat := 0x70110
def COH_D_WINDOW_BYTES_F : Fld := { hi := 63, lo := 0, acc := .ro }

/-! ### Ext registers (R124) -/

abbrev EXT_CTRL : Nat := 0x80000
def EXT_CTRL_COMPRESS_EN : Fld := { hi := 2, lo := 2, acc := .rw, reset := 1 }
def EXT_CTRL_HOT_EN : Fld := { hi := 1, lo := 1, acc := .rw, reset := 1 }
abbrev EXT_STATUS : Nat := 0x80004
def EXT_STATUS_ACTIVE : Fld := { hi := 31, lo := 15, acc := .ro }
def EXT_STATUS_QUARANTINE : Fld := { hi := 14, lo := 6, acc := .ro }
def EXT_STATUS_WAITING : Fld := { hi := 0, lo := 0, acc := .ro }
abbrev EXT_HOT : Nat := 0x80008
def EXT_HOT_THRESHOLD : Fld := { hi := 31, lo := 16, acc := .rw, reset := 4096, legal := some (1, 65535) }
def EXT_HOT_MAX_PER_TICK : Fld := { hi := 15, lo := 8, acc := .rw, reset := 64 }
abbrev EXT_QUOTA : Nat := 0x8000C
def EXT_QUOTA_WAIT_TICKS : Fld := { hi := 7, lo := 0, acc := .rw, reset := 10 }
abbrev EXT_LEASE : Nat := 0x80010
def EXT_LEASE_DEFAULT_MS : Fld := { hi := 15, lo := 0, acc := .rw, reset := 2000, legal := some (100, 60000) }
abbrev EXT_QUARANTINE : Nat := 0x80014
def EXT_QUARANTINE_OLDEST_TICKS : Fld := { hi := 31, lo := 0, acc := .ro }
abbrev EXT_COMPRESS : Nat := 0x80018
def EXT_COMPRESS_MAX_CHUNKS : Fld := { hi := 4, lo := 0, acc := .rw, reset := 24, legal := some (1, 31) }
abbrev EXT_INVAL_COUNT : Nat := 0x80020
def EXT_INVAL_COUNT_F : Fld := { hi := 63, lo := 0, acc := .ro }
abbrev EXT_LEASE_EXPIRED : Nat := 0x80028
def EXT_LEASE_EXPIRED_COUNT : Fld := { hi := 63, lo := 0, acc := .ro }
abbrev EXT_HOT_DROPPED : Nat := 0x80030
def EXT_HOT_DROPPED_COUNT : Fld := { hi := 63, lo := 0, acc := .ro }
abbrev EXT_TC_HIT (a : Nat) : Nat := 0x80040 + 0x8 * a
def EXT_TC_HIT_OVF : Fld := { hi := 63, lo := 63, acc := .w1c }
def EXT_TC_HIT_COUNT : Fld := { hi := 47, lo := 0, acc := .ro }
abbrev EXT_TC_MISS (a : Nat) : Nat := 0x80060 + 0x8 * a
def EXT_TC_MISS_OVF : Fld := { hi := 63, lo := 63, acc := .w1c }
def EXT_TC_MISS_COUNT : Fld := { hi := 47, lo := 0, acc := .ro }
abbrev EXT_PART_FREE (a : Nat) : Nat := 0x80100 + 0x4 * a
def EXT_PART_FREE_F : Fld := { hi := 19, lo := 0, acc := .ro, config := true }

/-! ### Pair registers (R621) -/

abbrev PAIR_LAYOUT : Nat := 0x90000
def PAIR_LAYOUT_PAIR_ID : Fld := { hi := 31, lo := 20, acc := .ro, config := true }
def PAIR_LAYOUT_PARTNER : Fld := { hi := 19, lo := 8, acc := .ro, config := true }
def PAIR_LAYOUT_PAIRED : Fld := { hi := 7, lo := 7, acc := .ro, config := true }
def PAIR_LAYOUT_SPARE : Fld := { hi := 6, lo := 6, acc := .ro, config := true }
def PAIR_LAYOUT_ROLE_PRIMARY : Fld := { hi := 5, lo := 5, acc := .ro, config := true }
def PAIR_LAYOUT_OUT_STACK : Fld := { hi := 3, lo := 0, acc := .ro, config := true }
abbrev PAIR_CTRL : Nat := 0x90004
def PAIR_CTRL_WAIT_TICKS : Fld := { hi := 31, lo := 24, acc := .rw, reset := 50, legal := some (1, 255) }
def PAIR_CTRL_VERIFY_FRAMES : Fld := { hi := 23, lo := 16, acc := .rw, reset := 1 }
def PAIR_CTRL_TEST : Fld := { hi := 2, lo := 2, acc := .rw }
def PAIR_CTRL_SPARE_WATCH_EN : Fld := { hi := 1, lo := 1, acc := .rw, reset := 1 }
abbrev PAIR_STATUS : Nat := 0x90008
def PAIR_STATUS_STATE : Fld := { hi := 31, lo := 28, acc := .ro }
def PAIR_STATUS_PARTNER_STATE : Fld := { hi := 27, lo := 24, acc := .ro }
def PAIR_STATUS_HEALTH_AGE : Fld := { hi := 23, lo := 16, acc := .ro }
def PAIR_STATUS_KEY_HELD : Fld := { hi := 2, lo := 2, acc := .ro }
def PAIR_STATUS_KEY_IN : Fld := { hi := 1, lo := 1, acc := .ro }
def PAIR_STATUS_KEY_OUT : Fld := { hi := 0, lo := 0, acc := .ro }
abbrev PAIR_KEY_TIMING : Nat := 0x9000C
def PAIR_KEY_TIMING_GUARD_US : Fld := { hi := 31, lo := 16, acc := .rw, reset := 20, legal := some (5, 1000) }
def PAIR_KEY_TIMING_SETTLE_US : Fld := { hi := 7, lo := 0, acc := .rw, reset := 5, legal := some (2, 100) }
abbrev PAIR_REBUILD : Nat := 0x90010
def PAIR_REBUILD_STATE : Fld := { hi := 31, lo := 30, acc := .ro }
def PAIR_REBUILD_SPARE : Fld := { hi := 29, lo := 28, acc := .ro, config := true }
def PAIR_REBUILD_FAILED_STACK : Fld := { hi := 27, lo := 24, acc := .ro }
def PAIR_REBUILD_POISONED : Fld := { hi := 23, lo := 0, acc := .ro }
abbrev PAIR_SPARE_WATCH : Nat := 0x90014
def PAIR_SPARE_WATCH_PERIOD_MS : Fld := { hi := 31, lo := 16, acc := .rw, reset := 1000, legal := some (100, 60000) }
def PAIR_SPARE_WATCH_LAST_CORRECTED : Fld := { hi := 15, lo := 0, acc := .ro }
abbrev PAIR_REBUILD_PROG : Nat := 0x90018
def PAIR_REBUILD_PROG_WORDS : Fld := { hi := 63, lo := 0, acc := .ro }
abbrev PAIR_HEALTH_TX : Nat := 0x90020
def PAIR_HEALTH_TX_WORD : Fld := { hi := 63, lo := 0, acc := .ro }
abbrev PAIR_HEALTH_RX : Nat := 0x90028
def PAIR_HEALTH_RX_WORD : Fld := { hi := 63, lo := 0, acc := .ro }
abbrev PAIR_RESYNC : Nat := 0x90030
def PAIR_RESYNC_DIRTY : Fld := { hi := 31, lo := 0, acc := .ro }
abbrev PAIR_P_GIB (a : Nat) : Nat := 0x90040 + 0x4 * a
def PAIR_P_GIB_F : Fld := { hi := 7, lo := 0, acc := .ro, config := true }
abbrev PAIR_RECONSTRUCTS : Nat := 0x90080
def PAIR_RECONSTRUCTS_COUNT : Fld := { hi := 63, lo := 0, acc := .ro }
abbrev PAIR_RECONSTRUCT_FAILS : Nat := 0x90088
def PAIR_RECONSTRUCT_FAILS_COUNT : Fld := { hi := 63, lo := 0, acc := .ro }
abbrev PAIR_PARITY_RMW : Nat := 0x90090
def PAIR_PARITY_RMW_OVF : Fld := { hi := 63, lo := 63, acc := .w1c }
def PAIR_PARITY_RMW_COUNT : Fld := { hi := 47, lo := 0, acc := .ro }
abbrev PAIR_REPLICA_WRITES : Nat := 0x90098
def PAIR_REPLICA_WRITES_OVF : Fld := { hi := 63, lo := 63, acc := .w1c }
def PAIR_REPLICA_WRITES_COUNT : Fld := { hi := 47, lo := 0, acc := .ro }
abbrev PAIR_RESYNC_FRAMES : Nat := 0x900A0
def PAIR_RESYNC_FRAMES_COUNT : Fld := { hi := 63, lo := 0, acc := .ro }
abbrev PAIR_VERIFY_MISMATCH : Nat := 0x900A8
def PAIR_VERIFY_MISMATCH_COUNT : Fld := { hi := 63, lo := 0, acc := .ro }
abbrev PAIR_KEY_CHANGES : Nat := 0x900B0
def PAIR_KEY_CHANGES_COUNT : Fld := { hi := 63, lo := 0, acc := .ro }
abbrev PAIR_HEALTH_MISSED : Nat := 0x900B8
def PAIR_HEALTH_MISSED_COUNT : Fld := { hi := 63, lo := 0, acc := .ro }

/-! ### Cal registers (R143, R220) -/

abbrev CAL_CTRL : Nat := 0xA0000
def CAL_CTRL_DEFAULT_HEADROOM : Fld := { hi := 5, lo := 3, acc := .rw, reset := 1 }
def CAL_CTRL_REBUILD_YIELD : Fld := { hi := 2, lo := 2, acc := .rw, reset := 1 }
def CAL_CTRL_PATINA_EN : Fld := { hi := 1, lo := 1, acc := .rw, reset := 1 }
abbrev CAL_STATUS : Nat := 0xA0004
def CAL_STATUS_RUNNING : Fld := { hi := 21, lo := 11, acc := .ro }
def CAL_STATUS_HALTED : Fld := { hi := 10, lo := 0, acc := .ro }
abbrev CAL_SELECT : Nat := 0xA0008
def CAL_SELECT_TABLE : Fld := { hi := 9, lo := 0, acc := .rw }
abbrev CAL_PATINA_DROP : Nat := 0xA0010
def CAL_PATINA_DROP_COUNT : Fld := { hi := 63, lo := 0, acc := .ro }
abbrev CAL_MQ_OVERFLOW : Nat := 0xA0018
def CAL_MQ_OVERFLOW_COUNT : Fld := { hi := 63, lo := 0, acc := .ro }
abbrev CAL_ROWS_FLIPPED : Nat := 0xA0020
def CAL_ROWS_FLIPPED_COUNT : Fld := { hi := 63, lo := 0, acc := .ro }
abbrev CAL_T_STATE : Nat := 0xA0100
def CAL_T_STATE_DEFINED : Fld := { hi := 7, lo := 7, acc := .ro }
def CAL_T_STATE_F : Fld := { hi := 2, lo := 0, acc := .ro }
abbrev CAL_T_PLANNO : Nat := 0xA0104
def CAL_T_PLANNO_PLAN : Fld := { hi := 31, lo := 0, acc := .ro }
abbrev CAL_T_NEXT_ROW : Nat := 0xA0108
def CAL_T_NEXT_ROW_F : Fld := { hi := 31, lo := 0, acc := .ro }
abbrev CAL_T_POISON_ROW : Nat := 0xA010C
def CAL_T_POISON_ROW_F : Fld := { hi := 31, lo := 0, acc := .ro, reset := 4294967295 }
abbrev CAL_T_OVF : Nat := 0xA0110
def CAL_T_OVF_COUNT : Fld := { hi := 31, lo := 0, acc := .ro }
abbrev CAL_T_UNF : Nat := 0xA0114
def CAL_T_UNF_COUNT : Fld := { hi := 31, lo := 0, acc := .ro }
abbrev CAL_T_ZEROS : Nat := 0xA0118
def CAL_T_ZEROS_COUNT : Fld := { hi := 31, lo := 0, acc := .ro }
abbrev CAL_T_NONFINITE : Nat := 0xA011C
def CAL_T_NONFINITE_COUNT : Fld := { hi := 31, lo := 0, acc := .ro }
abbrev CAL_T_WRITTEN : Nat := 0xA0120
def CAL_T_WRITTEN_COUNT : Fld := { hi := 63, lo := 0, acc := .ro }
abbrev CAL_T_MQ : Nat := 0xA0128
def CAL_T_MQ_PEAK : Fld := { hi := 25, lo := 13, acc := .rc }
def CAL_T_MQ_USED : Fld := { hi := 12, lo := 0, acc := .ro }
abbrev CAL_T_HIST (a : Nat) : Nat := 0xA0200 + 0x4 * a
def CAL_T_HIST_COUNT : Fld := { hi := 31, lo := 0, acc := .ro }
abbrev CAL_CB (a b : Nat) : Nat := 0xA8000 + 0x20 * a + 0x4 * b
def CAL_CB_ENTRY_HI : Fld := { hi := 31, lo := 16, acc := .rw }
def CAL_CB_ENTRY_LO : Fld := { hi := 15, lo := 0, acc := .rw }

/-! ### Chk registers (R684) -/

abbrev CHK_CTRL (a : Nat) : Nat := 0xB0000 + 0x40 * a
def CHK_CTRL_START : Fld := { hi := 31, lo := 31, acc := .w1s }
def CHK_CTRL_ABORT : Fld := { hi := 30, lo := 30, acc := .w1s }
def CHK_CTRL_PARTITION : Fld := { hi := 11, lo := 8, acc := .rw }
def CHK_CTRL_FINAL : Fld := { hi := 4, lo := 4, acc := .rw }
def CHK_CTRL_CONTINUE : Fld := { hi := 3, lo := 3, acc := .rw }
def CHK_CTRL_ALIVE_EN : Fld := { hi := 2, lo := 2, acc := .rw }
def CHK_CTRL_ALGO : Fld := { hi := 1, lo := 0, acc := .rw, legal := some (0, 1) }
abbrev CHK_STATUS (a : Nat) : Nat := 0xB0004 + 0x40 * a
def CHK_STATUS_ALIVE : Fld := { hi := 15, lo := 8, acc := .rw }
def CHK_STATUS_BOUND : Fld := { hi := 3, lo := 3, acc := .w1c }
def CHK_STATUS_POISON : Fld := { hi := 2, lo := 2, acc := .w1c }
def CHK_STATUS_DONE : Fld := { hi := 1, lo := 1, acc := .w1c }
def CHK_STATUS_BUSY : Fld := { hi := 0, lo := 0, acc := .ro }
abbrev CHK_LEN (a : Nat) : Nat := 0xB0008 + 0x40 * a
def CHK_LEN_F : Fld := { hi := 31, lo := 0, acc := .rw }
abbrev CHK_ALIVE_OFF (a : Nat) : Nat := 0xB000C + 0x40 * a
def CHK_ALIVE_OFF_F : Fld := { hi := 31, lo := 0, acc := .rw }
abbrev CHK_SRC (a : Nat) : Nat := 0xB0010 + 0x40 * a
def CHK_SRC_F : Fld := { hi := 63, lo := 0, acc := .rw }
abbrev CHK_STATE (a : Nat) : Nat := 0xB0018 + 0x40 * a
def CHK_STATE_F : Fld := { hi := 63, lo := 0, acc := .rw }
abbrev CHK_RESULT (a : Nat) : Nat := 0xB0020 + 0x40 * a
def CHK_RESULT_F : Fld := { hi := 63, lo := 0, acc := .ro }

/-! ### Ecc registers (R582) -/

abbrev ECC_CTRL : Nat := 0xC0000
def ECC_CTRL_LANE_THRESHOLD : Fld := { hi := 15, lo := 8, acc := .rw, reset := 16, legal := some (1, 255) }
def ECC_CTRL_DEMAND_WB_EN : Fld := { hi := 1, lo := 1, acc := .rw, reset := 1 }
def ECC_CTRL_SCRUB_EN : Fld := { hi := 0, lo := 0, acc := .rw, reset := 1 }
abbrev ECC_SCRUB : Nat := 0xC0004
def ECC_SCRUB_PASS_HOURS : Fld := { hi := 7, lo := 0, acc := .rw, reset := 24, legal := some (1, 255) }
abbrev ECC_STATUS : Nat := 0xC0008
def ECC_STATUS_SCRUB_BEHIND : Fld := { hi := 31, lo := 16, acc := .ro }
def ECC_STATUS_FILL : Fld := { hi := 1, lo := 0, acc := .ro }
abbrev ECC_FLIP_CTRL : Nat := 0xC0010
def ECC_FLIP_CTRL_ARMED : Fld := { hi := 31, lo := 31, acc := .w1s }
def ECC_FLIP_CTRL_MATCH : Fld := { hi := 30, lo := 30, acc := .rw }
def ECC_FLIP_CTRL_KIND : Fld := { hi := 26, lo := 24, acc := .rw, legal := some (0, 4) }
def ECC_FLIP_CTRL_UNIT : Fld := { hi := 19, lo := 16, acc := .rw }
def ECC_FLIP_CTRL_LINK_DIR : Fld := { hi := 15, lo := 15, acc := .rw }
abbrev ECC_FLIP_ADDR : Nat := 0xC0018
def ECC_FLIP_ADDR_F : Fld := { hi := 31, lo := 0, acc := .rw }
abbrev ECC_FLIP_MASK (a : Nat) : Nat := 0xC0020 + 0x4 * a
def ECC_FLIP_MASK_F : Fld := { hi := 31, lo := 0, acc := .rw }
abbrev ECC_LAST_UE : Nat := 0xC0048
def ECC_LAST_UE_KIND : Fld := { hi := 63, lo := 61, acc := .ro }
def ECC_LAST_UE_UNIT : Fld := { hi := 60, lo := 57, acc := .ro }
def ECC_LAST_UE_ADDR : Fld := { hi := 31, lo := 0, acc := .ro }
abbrev ECC_CORRECTED : Nat := 0xC0050
def ECC_CORRECTED_COUNT : Fld := { hi := 63, lo := 0, acc := .ro }
abbrev ECC_CORRECTED_SRAM : Nat := 0xC0058
def ECC_CORRECTED_SRAM_COUNT : Fld := { hi := 63, lo := 0, acc := .ro }
abbrev ECC_UNCORRECTED : Nat := 0xC0060
def ECC_UNCORRECTED_COUNT : Fld := { hi := 63, lo := 0, acc := .ro }
abbrev ECC_POISON_WRITTEN : Nat := 0xC0068
def ECC_POISON_WRITTEN_COUNT : Fld := { hi := 63, lo := 0, acc := .ro }
abbrev ECC_POISON_READ : Nat := 0xC0070
def ECC_POISON_READ_COUNT : Fld := { hi := 63, lo := 0, acc := .ro }
abbrev ECC_SCRUB_PASSES : Nat := 0xC0078
def ECC_SCRUB_PASSES_COUNT : Fld := { hi := 63, lo := 0, acc := .ro }
abbrev ECC_LANE_EVENTS : Nat := 0xC0080
def ECC_LANE_EVENTS_COUNT : Fld := { hi := 63, lo := 0, acc := .ro }
abbrev ECC_SCRUB_ROWS (a : Nat) : Nat := 0xC0100 + 0x4 * a
def ECC_SCRUB_ROWS_F : Fld := { hi := 26, lo := 0, acc := .ro }
abbrev ECC_LANE (a : Nat) : Nat := 0xC0140 + 0x4 * a
def ECC_LANE_VALID : Fld := { hi := 31, lo := 31, acc := .w1c, sticky := true }
def ECC_LANE_PC : Fld := { hi := 12, lo := 8, acc := .ro }
def ECC_LANE_SYMBOL : Fld := { hi := 5, lo := 0, acc := .ro }

/-! ### Mem registers (R557) -/

abbrev MEM_CFG (a b : Nat) : Nat := 0x100000 + 0x40000 * a + 0x4000 * b
def MEM_CFG_SPARE : Fld := { hi := 4, lo := 4, acc := .ro, config := true }
def MEM_CFG_STACK : Fld := { hi := 3, lo := 0, acc := .ro, config := true }
abbrev MEM_CTRL (a b : Nat) : Nat := 0x100004 + 0x40000 * a + 0x4000 * b
def MEM_CTRL_WR_AGE_US : Fld := { hi := 31, lo := 24, acc := .rw, reset := 10, legal := some (1, 255) }
def MEM_CTRL_DISTURB_K : Fld := { hi := 20, lo := 16, acc := .rw, reset := 9, legal := some (8, 16) }
def MEM_CTRL_WR_HIGH : Fld := { hi := 13, lo := 8, acc := .rw, reset := 48, legal := some (2, 56) }
def MEM_CTRL_WR_LOW : Fld := { hi := 5, lo := 0, acc := .rw, reset := 16, legal := some (0, 55) }
abbrev MEM_STATUS (a b : Nat) : Nat := 0x100008 + 0x40000 * a + 0x4000 * b
def MEM_STATUS_TEMP_C : Fld := { hi := 31, lo := 24, acc := .ro }
def MEM_STATUS_HOT : Fld := { hi := 10, lo := 10, acc := .ro }
def MEM_STATUS_STATE : Fld := { hi := 2, lo := 0, acc := .ro }
abbrev MEM_TRAIN (a b : Nat) : Nat := 0x10000C + 0x40000 * a + 0x4000 * b
def MEM_TRAIN_NOW : Fld := { hi := 31, lo := 31, acc := .w1s }
def MEM_TRAIN_TARGET_PC : Fld := { hi := 20, lo := 16, acc := .rw }
def MEM_TRAIN_LAST_PC : Fld := { hi := 12, lo := 8, acc := .ro }
abbrev MEM_GROUP (a b c : Nat) : Nat := 0x100040 + 0x40000 * a + 0x4000 * b + 0x4 * c
def MEM_GROUP_VALID : Fld := { hi := 8, lo := 8, acc := .ro, config := true }
def MEM_GROUP_BASE : Fld := { hi := 7, lo := 3, acc := .ro, config := true }
def MEM_GROUP_LOG2 : Fld := { hi := 2, lo := 0, acc := .ro, config := true }
abbrev MEM_RD_BURSTS (a b : Nat) : Nat := 0x100100 + 0x40000 * a + 0x4000 * b
def MEM_RD_BURSTS_OVF : Fld := { hi := 63, lo := 63, acc := .w1c }
def MEM_RD_BURSTS_COUNT : Fld := { hi := 47, lo := 0, acc := .ro }
abbrev MEM_WR_BURSTS (a b : Nat) : Nat := 0x100108 + 0x40000 * a + 0x4000 * b
def MEM_WR_BURSTS_OVF : Fld := { hi := 63, lo := 63, acc := .w1c }
def MEM_WR_BURSTS_COUNT : Fld := { hi := 47, lo := 0, acc := .ro }
abbrev MEM_ACTIVATES (a b : Nat) : Nat := 0x100110 + 0x40000 * a + 0x4000 * b
def MEM_ACTIVATES_OVF : Fld := { hi := 63, lo := 63, acc := .w1c }
def MEM_ACTIVATES_COUNT : Fld := { hi := 47, lo := 0, acc := .ro }
abbrev MEM_ROW_HITS (a b : Nat) : Nat := 0x100118 + 0x40000 * a + 0x4000 * b
def MEM_ROW_HITS_OVF : Fld := { hi := 63, lo := 63, acc := .w1c }
def MEM_ROW_HITS_COUNT : Fld := { hi := 47, lo := 0, acc := .ro }
abbrev MEM_DRAINS (a b : Nat) : Nat := 0x100120 + 0x40000 * a + 0x4000 * b
def MEM_DRAINS_OVF : Fld := { hi := 63, lo := 63, acc := .w1c }
def MEM_DRAINS_COUNT : Fld := { hi := 47, lo := 0, acc := .ro }
abbrev MEM_INORDER (a b : Nat) : Nat := 0x100128 + 0x40000 * a + 0x4000 * b
def MEM_INORDER_OVF : Fld := { hi := 63, lo := 63, acc := .w1c }
def MEM_INORDER_COUNT : Fld := { hi := 47, lo := 0, acc := .ro }
abbrev MEM_COMPARE_HOLDS (a b : Nat) : Nat := 0x100130 + 0x40000 * a + 0x4000 * b
def MEM_COMPARE_HOLDS_OVF : Fld := { hi := 63, lo := 63, acc := .w1c }
def MEM_COMPARE_HOLDS_COUNT : Fld := { hi := 47, lo := 0, acc := .ro }
abbrev MEM_NEIGHBOUR_REFRESHES (a b : Nat) : Nat := 0x100138 + 0x40000 * a + 0x4000 * b
def MEM_NEIGHBOUR_REFRESHES_OVF : Fld := { hi := 63, lo := 63, acc := .w1c }
def MEM_NEIGHBOUR_REFRESHES_COUNT : Fld := { hi := 47, lo := 0, acc := .ro }
abbrev MEM_RETRAINS (a b : Nat) : Nat := 0x100140 + 0x40000 * a + 0x4000 * b
def MEM_RETRAINS_COUNT : Fld := { hi := 63, lo := 0, acc := .ro }
abbrev MEM_TRAIN_FAILS (a b : Nat) : Nat := 0x100148 + 0x40000 * a + 0x4000 * b
def MEM_TRAIN_FAILS_COUNT : Fld := { hi := 63, lo := 0, acc := .ro }
abbrev MEM_PC_STATUS (a b c : Nat) : Nat := 0x101000 + 0x40000 * a + 0x4000 * b + 0x40 * c
def MEM_PC_STATUS_RD_USED : Fld := { hi := 31, lo := 25, acc := .ro }
def MEM_PC_STATUS_WR_USED : Fld := { hi := 24, lo := 18, acc := .ro }
def MEM_PC_STATUS_TRACKED : Fld := { hi := 17, lo := 13, acc := .ro }
def MEM_PC_STATUS_MODE : Fld := { hi := 1, lo := 0, acc := .ro }
abbrev MEM_PC_PEAK (a b c : Nat) : Nat := 0x101004 + 0x40000 * a + 0x4000 * b + 0x40 * c
def MEM_PC_PEAK_RD_PEAK : Fld := { hi := 13, lo := 7, acc := .rc }
def MEM_PC_PEAK_WR_PEAK : Fld := { hi := 6, lo := 0, acc := .rc }
abbrev MEM_PC_TRAIN (a b c : Nat) : Nat := 0x101008 + 0x40000 * a + 0x4000 * b + 0x40 * c
def MEM_PC_TRAIN_MARGIN_PS : Fld := { hi := 15, lo := 8, acc := .ro }
def MEM_PC_TRAIN_FAILS : Fld := { hi := 1, lo := 0, acc := .ro }
abbrev MEM_PC_LAST_TRAIN (a b c : Nat) : Nat := 0x101010 + 0x40000 * a + 0x4000 * b + 0x40 * c
def MEM_PC_LAST_TRAIN_TICK : Fld := { hi := 63, lo := 0, acc := .ro }
abbrev MEM_PC_HOLD_CYCLES (a b c : Nat) : Nat := 0x101018 + 0x40000 * a + 0x4000 * b + 0x40 * c
def MEM_PC_HOLD_CYCLES_OVF : Fld := { hi := 63, lo := 63, acc := .w1c }
def MEM_PC_HOLD_CYCLES_COUNT : Fld := { hi := 47, lo := 0, acc := .ro }

/-! ### Amt registers (R695) -/

abbrev AMT_STATUS (a : Nat) : Nat := 0x110000 + 0x40000 * a
def AMT_STATUS_DETOUR : Fld := { hi := 6, lo := 4, acc := .ro }
def AMT_STATUS_LINK_UP : Fld := { hi := 2, lo := 0, acc := .ro }
abbrev AMT_CORRECTED (a : Nat) : Nat := 0x110008 + 0x40000 * a
def AMT_CORRECTED_COUNT : Fld := { hi := 63, lo := 0, acc := .ro }
abbrev AMT_POISONED (a : Nat) : Nat := 0x110010 + 0x40000 * a
def AMT_POISONED_COUNT : Fld := { hi := 63, lo := 0, acc := .ro }
abbrev AMT_TX_FLITS (a b : Nat) : Nat := 0x110020 + 0x40000 * a + 0x8 * b
def AMT_TX_FLITS_OVF : Fld := { hi := 63, lo := 63, acc := .w1c }
def AMT_TX_FLITS_COUNT : Fld := { hi := 47, lo := 0, acc := .ro }
abbrev AMT_RX_FLITS (a b : Nat) : Nat := 0x110040 + 0x40000 * a + 0x8 * b
def AMT_RX_FLITS_OVF : Fld := { hi := 63, lo := 63, acc := .w1c }
def AMT_RX_FLITS_COUNT : Fld := { hi := 47, lo := 0, acc := .ro }
abbrev AMT_STALL_CYCLES (a b : Nat) : Nat := 0x110060 + 0x40000 * a + 0x8 * b
def AMT_STALL_CYCLES_OVF : Fld := { hi := 63, lo := 63, acc := .w1c }
def AMT_STALL_CYCLES_COUNT : Fld := { hi := 47, lo := 0, acc := .ro }

/-! ### Ce registers (R363) -/

abbrev CE_CFG (a b : Nat) : Nat := 0x120000 + 0x40000 * a + 0x1000 * b
def CE_CFG_ASSIGNED : Fld := { hi := 7, lo := 7, acc := .ro, config := true }
def CE_CFG_PARTITION : Fld := { hi := 3, lo := 0, acc := .ro, config := true }
abbrev CE_CTRL (a b : Nat) : Nat := 0x120004 + 0x40000 * a + 0x1000 * b
def CE_CTRL_ACT_SKIP_EN : Fld := { hi := 2, lo := 2, acc := .rw, reset := 1 }
def CE_CTRL_TEST_FENCE : Fld := { hi := 1, lo := 1, acc := .w1s }
abbrev CE_STATUS (a b : Nat) : Nat := 0x120008 + 0x40000 * a + 0x1000 * b
def CE_STATUS_CONTEXT : Fld := { hi := 31, lo := 20, acc := .ro }
def CE_STATUS_PANE : Fld := { hi := 3, lo := 3, acc := .ro }
def CE_STATUS_STATE : Fld := { hi := 2, lo := 0, acc := .ro }
abbrev CE_OS_ECC (a b : Nat) : Nat := 0x12000C + 0x40000 * a + 0x1000 * b
def CE_OS_ECC_UNCORRECTED : Fld := { hi := 31, lo := 16, acc := .rc }
def CE_OS_ECC_CORRECTED : Fld := { hi := 15, lo := 0, acc := .rc }
abbrev CE_BUSY_CYCLES (a b : Nat) : Nat := 0x120010 + 0x40000 * a + 0x1000 * b
def CE_BUSY_CYCLES_OVF : Fld := { hi := 63, lo := 63, acc := .w1c }
def CE_BUSY_CYCLES_COUNT : Fld := { hi := 47, lo := 0, acc := .ro }
abbrev CE_RUN_CYCLES (a b : Nat) : Nat := 0x120018 + 0x40000 * a + 0x1000 * b
def CE_RUN_CYCLES_OVF : Fld := { hi := 63, lo := 63, acc := .w1c }
def CE_RUN_CYCLES_COUNT : Fld := { hi := 47, lo := 0, acc := .ro }
abbrev CE_LOAD_STALL_CYCLES (a b : Nat) : Nat := 0x120020 + 0x40000 * a + 0x1000 * b
def CE_LOAD_STALL_CYCLES_OVF : Fld := { hi := 63, lo := 63, acc := .w1c }
def CE_LOAD_STALL_CYCLES_COUNT : Fld := { hi := 47, lo := 0, acc := .ro }
abbrev CE_SWITCH_CYCLES (a b : Nat) : Nat := 0x120028 + 0x40000 * a + 0x1000 * b
def CE_SWITCH_CYCLES_OVF : Fld := { hi := 63, lo := 63, acc := .w1c }
def CE_SWITCH_CYCLES_COUNT : Fld := { hi := 47, lo := 0, acc := .ro }
abbrev CE_TILES_FORMED (a b : Nat) : Nat := 0x120030 + 0x40000 * a + 0x1000 * b
def CE_TILES_FORMED_OVF : Fld := { hi := 63, lo := 63, acc := .w1c }
def CE_TILES_FORMED_COUNT : Fld := { hi := 47, lo := 0, acc := .ro }
abbrev CE_BEATS_SKIPPED (a b : Nat) : Nat := 0x120038 + 0x40000 * a + 0x1000 * b
def CE_BEATS_SKIPPED_OVF : Fld := { hi := 63, lo := 63, acc := .w1c }
def CE_BEATS_SKIPPED_COUNT : Fld := { hi := 47, lo := 0, acc := .ro }
abbrev CE_POISON_TERMS (a b : Nat) : Nat := 0x120040 + 0x40000 * a + 0x1000 * b
def CE_POISON_TERMS_OVF : Fld := { hi := 63, lo := 63, acc := .w1c }
def CE_POISON_TERMS_COUNT : Fld := { hi := 47, lo := 0, acc := .ro }
abbrev CE_STEPS_REDONE (a b : Nat) : Nat := 0x120048 + 0x40000 * a + 0x1000 * b
def CE_STEPS_REDONE_OVF : Fld := { hi := 63, lo := 63, acc := .w1c }
def CE_STEPS_REDONE_COUNT : Fld := { hi := 47, lo := 0, acc := .ro }

/-! ### Rsp registers (R410) -/

abbrev RSP_CFG (a b : Nat) : Nat := 0x130000 + 0x40000 * a + 0x1000 * b
def RSP_CFG_ASSIGNED : Fld := { hi := 7, lo := 7, acc := .ro, config := true }
def RSP_CFG_PARTITION : Fld := { hi := 3, lo := 0, acc := .ro, config := true }
abbrev RSP_CTRL (a b : Nat) : Nat := 0x130004 + 0x40000 * a + 0x1000 * b
def RSP_CTRL_STEP_LIMIT : Fld := { hi := 9, lo := 2, acc := .rw, reset := 16, legal := some (1, 255) }
def RSP_CTRL_TEST_FENCE : Fld := { hi := 1, lo := 1, acc := .w1s }
abbrev RSP_STATUS (a b : Nat) : Nat := 0x130008 + 0x40000 * a + 0x1000 * b
def RSP_STATUS_THREADS_BUSY : Fld := { hi := 14, lo := 8, acc := .ro }
def RSP_STATUS_STATE : Fld := { hi := 2, lo := 0, acc := .ro }
abbrev RSP_ECC (a b : Nat) : Nat := 0x13000C + 0x40000 * a + 0x1000 * b
def RSP_ECC_UNCORRECTED : Fld := { hi := 31, lo := 16, acc := .rc }
def RSP_ECC_CORRECTED : Fld := { hi := 15, lo := 0, acc := .rc }
abbrev RSP_BUSY_CYCLES (a b : Nat) : Nat := 0x130010 + 0x40000 * a + 0x1000 * b
def RSP_BUSY_CYCLES_OVF : Fld := { hi := 63, lo := 63, acc := .w1c }
def RSP_BUSY_CYCLES_COUNT : Fld := { hi := 47, lo := 0, acc := .ro }
abbrev RSP_ISSUED (a b : Nat) : Nat := 0x130018 + 0x40000 * a + 0x1000 * b
def RSP_ISSUED_OVF : Fld := { hi := 63, lo := 63, acc := .w1c }
def RSP_ISSUED_COUNT : Fld := { hi := 47, lo := 0, acc := .ro }
abbrev RSP_DUAL_ISSUED (a b : Nat) : Nat := 0x130020 + 0x40000 * a + 0x1000 * b
def RSP_DUAL_ISSUED_OVF : Fld := { hi := 63, lo := 63, acc := .w1c }
def RSP_DUAL_ISSUED_COUNT : Fld := { hi := 47, lo := 0, acc := .ro }
abbrev RSP_ICACHE_MISSES (a b : Nat) : Nat := 0x130028 + 0x40000 * a + 0x1000 * b
def RSP_ICACHE_MISSES_OVF : Fld := { hi := 63, lo := 63, acc := .w1c }
def RSP_ICACHE_MISSES_COUNT : Fld := { hi := 47, lo := 0, acc := .ro }
abbrev RSP_SORT_CYCLES (a b : Nat) : Nat := 0x130030 + 0x40000 * a + 0x1000 * b
def RSP_SORT_CYCLES_OVF : Fld := { hi := 63, lo := 63, acc := .w1c }
def RSP_SORT_CYCLES_COUNT : Fld := { hi := 47, lo := 0, acc := .ro }
abbrev RSP_PARKS (a b : Nat) : Nat := 0x130038 + 0x40000 * a + 0x1000 * b
def RSP_PARKS_OVF : Fld := { hi := 63, lo := 63, acc := .w1c }
def RSP_PARKS_COUNT : Fld := { hi := 47, lo := 0, acc := .ro }
abbrev RSP_TRAPS (a b : Nat) : Nat := 0x130040 + 0x40000 * a + 0x1000 * b
def RSP_TRAPS_COUNT : Fld := { hi := 63, lo := 0, acc := .ro }

/-! ### Port registers (R506, R535) -/

abbrev MAC_CFG (a : Nat) : Nat := 0x200000 + 0x10000 * a
def MAC_CFG_MODE : Fld := { hi := 1, lo := 0, acc := .ro, config := true }
abbrev MAC_CTRL (a : Nat) : Nat := 0x200004 + 0x10000 * a
def MAC_CTRL_PFC_EN : Fld := { hi := 11, lo := 4, acc := .rw }
def MAC_CTRL_LOOPBACK : Fld := { hi := 1, lo := 0, acc := .rw, legal := some (0, 2) }
abbrev MAC_STATUS (a : Nat) : Nat := 0x200008 + 0x10000 * a
def MAC_STATUS_AN_DONE : Fld := { hi := 11, lo := 8, acc := .ro }
def MAC_STATUS_FEC_LOCK : Fld := { hi := 7, lo := 4, acc := .ro }
def MAC_STATUS_LINK_UP : Fld := { hi := 3, lo := 0, acc := .ro }
abbrev MAC_MAX_FRAME (a : Nat) : Nat := 0x20000C + 0x10000 * a
def MAC_MAX_FRAME_BYTES : Fld := { hi := 13, lo := 0, acc := .rw, reset := 9216, legal := some (4274, 9216) }
abbrev MAC_ADDR (a b : Nat) : Nat := 0x200020 + 0x10000 * a + 0x8 * b
def MAC_ADDR_F : Fld := { hi := 47, lo := 0, acc := .rw, config := true }
abbrev MAC_RX_FRAMES (a b : Nat) : Nat := 0x200040 + 0x10000 * a + 0x8 * b
def MAC_RX_FRAMES_OVF : Fld := { hi := 63, lo := 63, acc := .w1c }
def MAC_RX_FRAMES_COUNT : Fld := { hi := 47, lo := 0, acc := .ro }
abbrev MAC_TX_FRAMES (a b : Nat) : Nat := 0x200060 + 0x10000 * a + 0x8 * b
def MAC_TX_FRAMES_OVF : Fld := { hi := 63, lo := 63, acc := .w1c }
def MAC_TX_FRAMES_COUNT : Fld := { hi := 47, lo := 0, acc := .ro }
abbrev MAC_FCS_ERRORS (a b : Nat) : Nat := 0x200080 + 0x10000 * a + 0x8 * b
def MAC_FCS_ERRORS_COUNT : Fld := { hi := 63, lo := 0, acc := .ro }
abbrev MAC_FEC_CORRECTED (a b : Nat) : Nat := 0x2000A0 + 0x10000 * a + 0x8 * b
def MAC_FEC_CORRECTED_COUNT : Fld := { hi := 63, lo := 0, acc := .ro }
abbrev MAC_FEC_UNCORRECTED (a b : Nat) : Nat := 0x2000C0 + 0x10000 * a + 0x8 * b
def MAC_FEC_UNCORRECTED_COUNT : Fld := { hi := 63, lo := 0, acc := .ro }
abbrev FZT_PORT_CTRL (a : Nat) : Nat := 0x201000 + 0x10000 * a
def FZT_PORT_CTRL_ROCE_EN : Fld := { hi := 1, lo := 1, acc := .rw, config := true }
def FZT_PORT_CTRL_FZT_EN : Fld := { hi := 0, lo := 0, acc := .rw, reset := 1 }
abbrev FZT_RX_PACKETS (a : Nat) : Nat := 0x201008 + 0x10000 * a
def FZT_RX_PACKETS_OVF : Fld := { hi := 63, lo := 63, acc := .w1c }
def FZT_RX_PACKETS_COUNT : Fld := { hi := 47, lo := 0, acc := .ro }
abbrev FZT_TX_PACKETS (a : Nat) : Nat := 0x201010 + 0x10000 * a
def FZT_TX_PACKETS_OVF : Fld := { hi := 63, lo := 63, acc := .w1c }
def FZT_TX_PACKETS_COUNT : Fld := { hi := 47, lo := 0, acc := .ro }
abbrev FZT_DROPS_CRC (a : Nat) : Nat := 0x201018 + 0x10000 * a
def FZT_DROPS_CRC_COUNT : Fld := { hi := 63, lo := 0, acc := .ro }
abbrev FZT_DROPS_AUTH (a : Nat) : Nat := 0x201020 + 0x10000 * a
def FZT_DROPS_AUTH_COUNT : Fld := { hi := 63, lo := 0, acc := .ro }
abbrev FZT_DROPS_WINDOW (a : Nat) : Nat := 0x201028 + 0x10000 * a
def FZT_DROPS_WINDOW_COUNT : Fld := { hi := 63, lo := 0, acc := .ro }
abbrev FZT_DROPS_PLAIN (a : Nat) : Nat := 0x201030 + 0x10000 * a
def FZT_DROPS_PLAIN_COUNT : Fld := { hi := 63, lo := 0, acc := .ro }
abbrev FZT_DROPS_SESSION (a : Nat) : Nat := 0x201038 + 0x10000 * a
def FZT_DROPS_SESSION_COUNT : Fld := { hi := 63, lo := 0, acc := .ro }
abbrev FZT_DUPLICATES (a : Nat) : Nat := 0x201040 + 0x10000 * a
def FZT_DUPLICATES_COUNT : Fld := { hi := 63, lo := 0, acc := .ro }
abbrev FZT_RETRANSMITS (a : Nat) : Nat := 0x201048 + 0x10000 * a
def FZT_RETRANSMITS_COUNT : Fld := { hi := 63, lo := 0, acc := .ro }
abbrev FZT_TIMEOUTS (a : Nat) : Nat := 0x201050 + 0x10000 * a
def FZT_TIMEOUTS_COUNT : Fld := { hi := 63, lo := 0, acc := .ro }
abbrev ROCE_RX_PACKETS (a : Nat) : Nat := 0x201058 + 0x10000 * a
def ROCE_RX_PACKETS_OVF : Fld := { hi := 63, lo := 63, acc := .w1c }
def ROCE_RX_PACKETS_COUNT : Fld := { hi := 47, lo := 0, acc := .ro }
abbrev ROCE_DROPS_ICRC (a : Nat) : Nat := 0x201060 + 0x10000 * a
def ROCE_DROPS_ICRC_COUNT : Fld := { hi := 63, lo := 0, acc := .ro }
abbrev ROCE_NAKS_SENT (a : Nat) : Nat := 0x201068 + 0x10000 * a
def ROCE_NAKS_SENT_COUNT : Fld := { hi := 63, lo := 0, acc := .ro }
abbrev ROCE_CNPS_SENT (a : Nat) : Nat := 0x201070 + 0x10000 * a
def ROCE_CNPS_SENT_COUNT : Fld := { hi := 63, lo := 0, acc := .ro }
abbrev FZT_CTRL : Nat := 0x201800
def FZT_CTRL_ACK_EVERY : Fld := { hi := 31, lo := 24, acc := .rw, reset := 16, legal := some (1, 64) }
def FZT_CTRL_UDP_PORT : Fld := { hi := 15, lo := 0, acc := .rw, reset := 45312, legal := some (1, 65535) }
abbrev FZT_TIMER0 : Nat := 0x201804
def FZT_TIMER0_ACK_DELAY_NS : Fld := { hi := 31, lo := 16, acc := .rw, reset := 2000, legal := some (100, 20000) }
def FZT_TIMER0_RTO_US : Fld := { hi := 15, lo := 0, acc := .rw, reset := 40, legal := some (5, 10000) }
abbrev FZT_TIMER1 : Nat := 0x201808
def FZT_TIMER1_PATH_TIMEOUTS : Fld := { hi := 31, lo := 24, acc := .rw, reset := 4, legal := some (1, 64) }
def FZT_TIMER1_PROBE_US : Fld := { hi := 23, lo := 16, acc := .rw, reset := 100, legal := some (10, 255) }
def FZT_TIMER1_GRACE_MS : Fld := { hi := 8, lo := 0, acc := .rw, reset := 10, legal := some (1, 500) }
abbrev FZT_STATUS : Nat := 0x20180C
def FZT_STATUS_HOLD : Fld := { hi := 27, lo := 14, acc := .ro }
def FZT_STATUS_OPEN : Fld := { hi := 13, lo := 0, acc := .ro }
abbrev FZT_SELECT : Nat := 0x201810
def FZT_SELECT_QP : Fld := { hi := 29, lo := 16, acc := .rw }
def FZT_SELECT_SESSION : Fld := { hi := 12, lo := 0, acc := .rw }
abbrev FZT_OPTAGS : Nat := 0x201814
def FZT_OPTAGS_USED : Fld := { hi := 16, lo := 0, acc := .ro }
abbrev FZT_SESSIONS_LOST : Nat := 0x201818
def FZT_SESSIONS_LOST_COUNT : Fld := { hi := 63, lo := 0, acc := .ro }
abbrev FZT_RXPOOL (a : Nat) : Nat := 0x201820 + 0x4 * a
def FZT_RXPOOL_ALLOCATED : Fld := { hi := 17, lo := 0, acc := .ro }
abbrev FZT_S_STATE : Nat := 0x201900
def FZT_S_STATE_EPOCH : Fld := { hi := 31, lo := 16, acc := .ro }
def FZT_S_STATE_PATHS_UP : Fld := { hi := 15, lo := 12, acc := .ro }
def FZT_S_STATE_F : Fld := { hi := 1, lo := 0, acc := .ro }
abbrev FZT_S_PEER : Nat := 0x201904
def FZT_S_PEER_ENDPOINT : Fld := { hi := 31, lo := 0, acc := .ro }
abbrev FZT_S_TX_SEQ : Nat := 0x201908
def FZT_S_TX_SEQ_F : Fld := { hi := 31, lo := 0, acc := .ro }
abbrev FZT_S_RX_BASE : Nat := 0x20190C
def FZT_S_RX_BASE_F : Fld := { hi := 31, lo := 0, acc := .ro }
abbrev FZT_S_CREDITS : Nat := 0x201910
def FZT_S_CREDITS_MGT : Fld := { hi := 47, lo := 32, acc := .ro }
def FZT_S_CREDITS_RSP : Fld := { hi := 31, lo := 16, acc := .ro }
def FZT_S_CREDITS_REQ : Fld := { hi := 15, lo := 0, acc := .ro }
abbrev FZT_Q_STATE : Nat := 0x201980
def FZT_Q_STATE_LAST_STATUS : Fld := { hi := 31, lo := 24, acc := .ro }
def FZT_Q_STATE_PORT : Fld := { hi := 23, lo := 20, acc := .ro }
def FZT_Q_STATE_F : Fld := { hi := 1, lo := 0, acc := .ro }
abbrev SCH_CTRL (a : Nat) : Nat := 0x202000 + 0x10000 * a
def SCH_CTRL_HK_WEIGHT : Fld := { hi := 23, lo := 16, acc := .rw, reset := 32, legal := some (1, 255) }
def SCH_CTRL_MGT_WEIGHT : Fld := { hi := 15, lo := 8, acc := .rw, reset := 255, legal := some (1, 255) }
def SCH_CTRL_OVERHEAD : Fld := { hi := 5, lo := 0, acc := .rw, reset := 20 }
abbrev SCH_DSCP (a : Nat) : Nat := 0x202004 + 0x10000 * a
def SCH_DSCP_ROCE : Fld := { hi := 29, lo := 24, acc := .rw, reset := 26 }
def SCH_DSCP_MGT : Fld := { hi := 21, lo := 16, acc := .rw, reset := 48 }
def SCH_DSCP_RSP : Fld := { hi := 13, lo := 8, acc := .rw, reset := 34 }
def SCH_DSCP_REQ : Fld := { hi := 5, lo := 0, acc := .rw, reset := 26 }
abbrev SCH_VTIME (a : Nat) : Nat := 0x202008 + 0x10000 * a
def SCH_VTIME_V : Fld := { hi := 31, lo := 0, acc := .ro }
abbrev SCH_QUEUE (a : Nat) : Nat := 0x20200C + 0x10000 * a
def SCH_QUEUE_BYTES : Fld := { hi := 23, lo := 0, acc := .ro }
abbrev SCH_QUEUE_PEAK (a : Nat) : Nat := 0x202010 + 0x10000 * a
def SCH_QUEUE_PEAK_BYTES : Fld := { hi := 23, lo := 0, acc := .rc }
abbrev SCH_TX_BYTES (a : Nat) : Nat := 0x202018 + 0x10000 * a
def SCH_TX_BYTES_OVF : Fld := { hi := 63, lo := 63, acc := .w1c }
def SCH_TX_BYTES_COUNT : Fld := { hi := 47, lo := 0, acc := .ro }
abbrev SCH_RX_BYTES (a : Nat) : Nat := 0x202020 + 0x10000 * a
def SCH_RX_BYTES_OVF : Fld := { hi := 63, lo := 63, acc := .w1c }
def SCH_RX_BYTES_COUNT : Fld := { hi := 47, lo := 0, acc := .ro }
abbrev SCH_STALL_CYCLES (a : Nat) : Nat := 0x202028 + 0x10000 * a
def SCH_STALL_CYCLES_OVF : Fld := { hi := 63, lo := 63, acc := .w1c }
def SCH_STALL_CYCLES_COUNT : Fld := { hi := 47, lo := 0, acc := .ro }
abbrev SCH_TRANSIT_PACKETS (a : Nat) : Nat := 0x202030 + 0x10000 * a
def SCH_TRANSIT_PACKETS_OVF : Fld := { hi := 63, lo := 63, acc := .w1c }
def SCH_TRANSIT_PACKETS_COUNT : Fld := { hi := 47, lo := 0, acc := .ro }
abbrev SCH_PART (a b : Nat) : Nat := 0x202040 + 0x10000 * a + 0x4 * b
def SCH_PART_POLICE_EN : Fld := { hi := 22, lo := 22, acc := .rw }
def SCH_PART_POLICER : Fld := { hi := 21, lo := 16, acc := .rw }
def SCH_PART_WEIGHT : Fld := { hi := 7, lo := 0, acc := .rw, reset := 64, legal := some (1, 255) }
abbrev POL_SELECT (a : Nat) : Nat := 0x202100 + 0x10000 * a
def POL_SELECT_POLICER : Fld := { hi := 5, lo := 0, acc := .rw }
abbrev POL_CTRL (a : Nat) : Nat := 0x202104 + 0x10000 * a
def POL_CTRL_RED_DSCP : Fld := { hi := 21, lo := 16, acc := .rw, reset := 8 }
def POL_CTRL_YELLOW_DSCP : Fld := { hi := 13, lo := 8, acc := .rw, reset := 10 }
def POL_CTRL_RED_DROP : Fld := { hi := 2, lo := 2, acc := .rw, reset := 1 }
def POL_CTRL_YELLOW_DROP : Fld := { hi := 1, lo := 1, acc := .rw }
def POL_CTRL_AWARE : Fld := { hi := 0, lo := 0, acc := .rw }
abbrev POL_CIR (a : Nat) : Nat := 0x202108 + 0x10000 * a
def POL_CIR_MBPS : Fld := { hi := 19, lo := 0, acc := .rw, reset := 800000, legal := some (1, 800000) }
abbrev POL_PIR (a : Nat) : Nat := 0x20210C + 0x10000 * a
def POL_PIR_MBPS : Fld := { hi := 19, lo := 0, acc := .rw, reset := 800000, legal := some (1, 800000) }
abbrev POL_CBS (a : Nat) : Nat := 0x202110 + 0x10000 * a
def POL_CBS_BYTES : Fld := { hi := 23, lo := 0, acc := .rw, reset := 1048576, legal := some (9216, 16777215) }
abbrev POL_PBS (a : Nat) : Nat := 0x202114 + 0x10000 * a
def POL_PBS_BYTES : Fld := { hi := 23, lo := 0, acc := .rw, reset := 1048576, legal := some (9216, 16777215) }
abbrev POL_GREEN (a : Nat) : Nat := 0x202118 + 0x10000 * a
def POL_GREEN_OVF : Fld := { hi := 63, lo := 63, acc := .w1c }
def POL_GREEN_COUNT : Fld := { hi := 47, lo := 0, acc := .ro }
abbrev POL_YELLOW (a : Nat) : Nat := 0x202120 + 0x10000 * a
def POL_YELLOW_OVF : Fld := { hi := 63, lo := 63, acc := .w1c }
def POL_YELLOW_COUNT : Fld := { hi := 47, lo := 0, acc := .ro }
abbrev POL_RED (a : Nat) : Nat := 0x202128 + 0x10000 * a
def POL_RED_OVF : Fld := { hi := 63, lo := 63, acc := .w1c }
def POL_RED_COUNT : Fld := { hi := 47, lo := 0, acc := .ro }
abbrev POL_DROPPED (a : Nat) : Nat := 0x202130 + 0x10000 * a
def POL_DROPPED_OVF : Fld := { hi := 63, lo := 63, acc := .w1c }
def POL_DROPPED_COUNT : Fld := { hi := 47, lo := 0, acc := .ro }

/-! ### Ring registers (R535) -/

abbrev RING_CFG : Nat := 0x2C3000
def RING_CFG_CHIP_ID : Fld := { hi := 27, lo := 16, acc := .ro, config := true }
def RING_CFG_JOIN_AT_START : Fld := { hi := 1, lo := 1, acc := .ro, config := true }
def RING_CFG_ROLE : Fld := { hi := 0, lo := 0, acc := .ro, config := true }
abbrev RING_CTRL : Nat := 0x2C3004
def RING_CTRL_LEAVE : Fld := { hi := 5, lo := 5, acc := .w1s }
def RING_CTRL_JOIN : Fld := { hi := 4, lo := 4, acc := .w1s }
def RING_CTRL_BYPASS_TEST : Fld := { hi := 1, lo := 0, acc := .rw }
abbrev RING_STATUS : Nat := 0x2C3008
def RING_STATUS_CHAIN : Fld := { hi := 8, lo := 8, acc := .ro }
def RING_STATUS_LINK : Fld := { hi := 7, lo := 4, acc := .ro }
def RING_STATUS_BYPASS : Fld := { hi := 3, lo := 2, acc := .ro, reset := 3 }
def RING_STATUS_STATE : Fld := { hi := 1, lo := 0, acc := .ro }
abbrev RING_NEIGHBOURS : Nat := 0x2C300C
def RING_NEIGHBOURS_EAST_VALID : Fld := { hi := 28, lo := 28, acc := .ro }
def RING_NEIGHBOURS_EAST_ID : Fld := { hi := 27, lo := 16, acc := .ro }
def RING_NEIGHBOURS_WEST_VALID : Fld := { hi := 12, lo := 12, acc := .ro }
def RING_NEIGHBOURS_WEST_ID : Fld := { hi := 11, lo := 0, acc := .ro }
abbrev RING_ROUTE : Nat := 0x2C3010
def RING_ROUTE_VERSION : Fld := { hi := 31, lo := 0, acc := .ro }
abbrev RING_FWD : Nat := 0x2C3014
def RING_FWD_TIMEOUT_TICKS : Fld := { hi := 3, lo := 0, acc := .rw, reset := 3, legal := some (2, 15) }
abbrev RING_ROUTE_SELECT : Nat := 0x2C3018
def RING_ROUTE_SELECT_CHIP : Fld := { hi := 11, lo := 0, acc := .rw }
abbrev RING_ROUTE_ENTRY : Nat := 0x2C301C
def RING_ROUTE_ENTRY_REACH1 : Fld := { hi := 31, lo := 31, acc := .ro }
def RING_ROUTE_ENTRY_REACH0 : Fld := { hi := 30, lo := 30, acc := .ro }
def RING_ROUTE_ENTRY_PREFERRED : Fld := { hi := 29, lo := 29, acc := .ro }
def RING_ROUTE_ENTRY_DRAINING : Fld := { hi := 28, lo := 28, acc := .ro }
def RING_ROUTE_ENTRY_HOPS1 : Fld := { hi := 27, lo := 16, acc := .ro }
def RING_ROUTE_ENTRY_HOPS0 : Fld := { hi := 11, lo := 0, acc := .ro }
abbrev RING_FWD_OUTSTANDING : Nat := 0x2C3020
def RING_FWD_OUTSTANDING_COUNT : Fld := { hi := 16, lo := 0, acc := .ro }
abbrev RING_FWD_TIMEOUTS : Nat := 0x2C3028
def RING_FWD_TIMEOUTS_COUNT : Fld := { hi := 63, lo := 0, acc := .ro }
abbrev RING_JOINS_REFUSED : Nat := 0x2C3030
def RING_JOINS_REFUSED_COUNT : Fld := { hi := 63, lo := 0, acc := .ro }
abbrev RING_UNREACHABLE : Nat := 0x2C3038
def RING_UNREACHABLE_COUNT : Fld := { hi := 63, lo := 0, acc := .ro }
abbrev RING_HB_REJECTED : Nat := 0x2C3040
def RING_HB_REJECTED_COUNT : Fld := { hi := 63, lo := 0, acc := .ro }
abbrev RING_TOPOLOGY_CHANGES : Nat := 0x2C3048
def RING_TOPOLOGY_CHANGES_COUNT : Fld := { hi := 63, lo := 0, acc := .ro }

/-! ### Ctx registers (R257) -/

abbrev CTX_CFG0 (a : Nat) : Nat := 0x400000 + 0x100 * a
def CTX_CFG0_PARTITION : Fld := { hi := 31, lo := 28, acc := .ro }
def CTX_CFG0_STATE : Fld := { hi := 27, lo := 25, acc := .ro }
def CTX_CFG0_PRODUCER : Fld := { hi := 24, lo := 24, acc := .ro }
def CTX_CFG0_ABORT_ON_DEADLINE : Fld := { hi := 23, lo := 23, acc := .rw }
def CTX_CFG0_OWNER : Fld := { hi := 15, lo := 0, acc := .ro }
abbrev CTX_CFG1 (a : Nat) : Nat := 0x400004 + 0x100 * a
def CTX_CFG1_WEIGHT : Fld := { hi := 31, lo := 24, acc := .rw }
def CTX_CFG1_MAX_INFLIGHT_M1 : Fld := { hi := 23, lo := 16, acc := .rw }
def CTX_CFG1_CQ_LOG2 : Fld := { hi := 15, lo := 11, acc := .ro }
def CTX_CFG1_RING_LOG2 : Fld := { hi := 10, lo := 6, acc := .ro }
abbrev CTX_CTRL (a : Nat) : Nat := 0x400008 + 0x100 * a
def CTX_CTRL_FLUSH : Fld := { hi := 12, lo := 12, acc := .w1s }
def CTX_CTRL_KEY_SLOT : Fld := { hi := 11, lo := 0, acc := .ro }
abbrev CTX_STATUS (a : Nat) : Nat := 0x40000C + 0x100 * a
def CTX_STATUS_CQ_FULL : Fld := { hi := 2, lo := 2, acc := .ro }
def CTX_STATUS_RING_RESET : Fld := { hi := 1, lo := 1, acc := .w1c, sticky := true }
def CTX_STATUS_SPILLING : Fld := { hi := 0, lo := 0, acc := .ro }
abbrev CTX_RING_BASE (a : Nat) : Nat := 0x400010 + 0x100 * a
def CTX_RING_BASE_F : Fld := { hi := 63, lo := 0, acc := .ro }
abbrev CTX_CQ (a : Nat) : Nat := 0x400018 + 0x100 * a
def CTX_CQ_ADDR : Fld := { hi := 63, lo := 0, acc := .ro }
abbrev CTX_WIN_BASE (a b : Nat) : Nat := 0x400020 + 0x100 * a + 0x10 * b
def CTX_WIN_BASE_F : Fld := { hi := 63, lo := 0, acc := .ro }
abbrev CTX_WIN_LEN (a b : Nat) : Nat := 0x400028 + 0x100 * a + 0x10 * b
def CTX_WIN_LEN_F : Fld := { hi := 31, lo := 0, acc := .ro }
abbrev CTX_WIN_KEY (a b : Nat) : Nat := 0x40002C + 0x100 * a + 0x10 * b
def CTX_WIN_KEY_F : Fld := { hi := 31, lo := 0, acc := .ro }
abbrev CTX_WP_A (a : Nat) : Nat := 0x400060 + 0x100 * a
def CTX_WP_A_WP : Fld := { hi := 31, lo := 0, acc := .ro }
abbrev CTX_WP_B (a : Nat) : Nat := 0x400064 + 0x100 * a
def CTX_WP_B_WP : Fld := { hi := 31, lo := 0, acc := .ro }
abbrev CTX_RP_A (a : Nat) : Nat := 0x400068 + 0x100 * a
def CTX_RP_A_RP : Fld := { hi := 31, lo := 0, acc := .ro }
abbrev CTX_RP_B (a : Nat) : Nat := 0x40006C + 0x100 * a
def CTX_RP_B_RP : Fld := { hi := 31, lo := 0, acc := .ro }
abbrev CTX_QUEUE (a : Nat) : Nat := 0x400070 + 0x100 * a
def CTX_QUEUE_PACKETS : Fld := { hi := 19, lo := 0, acc := .ro }
abbrev CTX_CQ_HEAD (a : Nat) : Nat := 0x400074 + 0x100 * a
def CTX_CQ_HEAD_F : Fld := { hi := 31, lo := 0, acc := .ro }
abbrev CTX_CQ_TAIL (a : Nat) : Nat := 0x400078 + 0x100 * a
def CTX_CQ_TAIL_F : Fld := { hi := 31, lo := 0, acc := .ro }
abbrev CTX_TAKEN (a : Nat) : Nat := 0x400080 + 0x100 * a
def CTX_TAKEN_COUNT : Fld := { hi := 63, lo := 0, acc := .ro }
abbrev CTX_COMPLETED (a : Nat) : Nat := 0x400088 + 0x100 * a
def CTX_COMPLETED_COUNT : Fld := { hi := 63, lo := 0, acc := .ro }
abbrev CTX_SAT_COUNT (a : Nat) : Nat := 0x400090 + 0x100 * a
def CTX_SAT_COUNT_F : Fld := { hi := 31, lo := 0, acc := .rc }
abbrev CTX_NONFINITE_COUNT (a : Nat) : Nat := 0x400094 + 0x100 * a
def CTX_NONFINITE_COUNT_F : Fld := { hi := 31, lo := 0, acc := .rc }
abbrev CTX_LATE (a : Nat) : Nat := 0x400098 + 0x100 * a
def CTX_LATE_COUNT : Fld := { hi := 63, lo := 0, acc := .ro }
abbrev CTX_PARKS (a : Nat) : Nat := 0x4000A0 + 0x100 * a
def CTX_PARKS_COUNT : Fld := { hi := 63, lo := 0, acc := .ro }

/-! ### Sob registers (R414, R432) -/

abbrev SYN_OBJ_COUNT (a : Nat) : Nat := 0x1000000 + 0x20 * a
def SYN_OBJ_COUNT_F : Fld := { hi := 63, lo := 0, acc := .ro }
abbrev SYN_OBJ_TARGET (a : Nat) : Nat := 0x1000008 + 0x20 * a
def SYN_OBJ_TARGET_F : Fld := { hi := 63, lo := 0, acc := .ro }
abbrev SYN_OBJ_DEADLINE (a : Nat) : Nat := 0x1000010 + 0x20 * a
def SYN_OBJ_DEADLINE_F : Fld := { hi := 63, lo := 0, acc := .ro }
abbrev SYN_OBJ_CONTROL (a : Nat) : Nat := 0x1000018 + 0x20 * a
def SYN_OBJ_CONTROL_OWNER : Fld := { hi := 63, lo := 48, acc := .ro }
def SYN_OBJ_CONTROL_WAITERS : Fld := { hi := 47, lo := 31, acc := .ro }
def SYN_OBJ_CONTROL_PARTITION : Fld := { hi := 30, lo := 27, acc := .ro }
def SYN_OBJ_CONTROL_OWNER_VALID : Fld := { hi := 26, lo := 26, acc := .ro }
def SYN_OBJ_CONTROL_FROZEN : Fld := { hi := 25, lo := 25, acc := .ro }
def SYN_OBJ_CONTROL_MISSED : Fld := { hi := 24, lo := 24, acc := .ro }
def SYN_OBJ_CONTROL_ARMED : Fld := { hi := 23, lo := 23, acc := .ro }
def SYN_OBJ_CONTROL_GRANTED : Fld := { hi := 22, lo := 22, acc := .ro }

/-- The rows of block Glb. -/
def regRowsGlb : List RegRow := [
  { name := "GLB_ID", base := GLB_ID, dims := [], wide := false, perf := false, flds := [GLB_ID_PART, GLB_ID_STEPPING, GLB_ID_VENDOR] },
  { name := "GLB_CHIP", base := GLB_CHIP, dims := [], wide := false, perf := false, flds := [GLB_CHIP_CHIP_ID] },
  { name := "GLB_CTRL", base := GLB_CTRL, dims := [], wide := false, perf := false, flds := [GLB_CTRL_PERF_CLEAR, GLB_CTRL_PERF_FREEZE] },
  { name := "GLB_STATUS", base := GLB_STATUS, dims := [], wide := false, perf := false, flds := [GLB_STATUS_FATAL, GLB_STATUS_READY, GLB_STATUS_ATELIER_RESTARTS, GLB_STATUS_LOG_LOST] },
  { name := "GLB_FENCED", base := GLB_FENCED, dims := [], wide := true, perf := false, flds := [GLB_FENCED_LINKS, GLB_FENCED_BASE, GLB_FENCED_COMPUTE, GLB_FENCED_STACKS, GLB_FENCED_CLUSTERS, GLB_FENCED_ENGINES] },
  { name := "GLB_TIME", base := GLB_TIME, dims := [], wide := true, perf := false, flds := [GLB_TIME_NS] },
  { name := "GLB_LAST_FATAL", base := GLB_LAST_FATAL, dims := [], wide := true, perf := false, flds := [GLB_LAST_FATAL_CODE, GLB_LAST_FATAL_KIND, GLB_LAST_FATAL_UNIT, GLB_LAST_FATAL_TICK] },
  { name := "GLB_REG_REFUSED", base := GLB_REG_REFUSED, dims := [], wide := true, perf := false, flds := [GLB_REG_REFUSED_COUNT] },
  { name := "GLB_SCRATCH", base := GLB_SCRATCH, dims := [], wide := false, perf := false, flds := [GLB_SCRATCH_VALUE] }]

/-- The rows of block Tck. -/
def regRowsTck : List RegRow := [
  { name := "TCK_CTRL", base := TCK_CTRL, dims := [], wide := false, perf := false, flds := [TCK_CTRL_HANDOVER, TCK_CTRL_TICKOUT_EN] },
  { name := "TCK_CONFIG", base := TCK_CONFIG, dims := [], wide := false, perf := false, flds := [TCK_CONFIG_PRIORITY, TCK_CONFIG_CANDIDATE, TCK_CONFIG_SOURCE, TCK_CONFIG_PTP_PORT, TCK_CONFIG_PERIOD_US] },
  { name := "TCK_STATUS", base := TCK_STATUS, dims := [], wide := false, perf := false, flds := [TCK_STATUS_MASTER_ID, TCK_STATUS_HOLDOVER_TICKS, TCK_STATUS_STATE, TCK_STATUS_MASTER] },
  { name := "TCK_COUNT", base := TCK_COUNT, dims := [], wide := true, perf := false, flds := [TCK_COUNT_F] },
  { name := "TCK_BOUNDARY_TIME", base := TCK_BOUNDARY_TIME, dims := [], wide := true, perf := false, flds := [TCK_BOUNDARY_TIME_NS] },
  { name := "TCK_ALIGN", base := TCK_ALIGN, dims := [], wide := false, perf := false, flds := [TCK_ALIGN_OFFSET] },
  { name := "TCK_BUDGET0", base := TCK_BUDGET0, dims := [], wide := false, perf := false, flds := [TCK_BUDGET0_RING_RESERVE, TCK_BUDGET0_EXPERT, TCK_BUDGET0_RETRAIN_PC] },
  { name := "TCK_BUDGET1", base := TCK_BUDGET1, dims := [], wide := false, perf := false, flds := [TCK_BUDGET1_REBUILD, TCK_BUDGET1_RECAST, TCK_BUDGET1_SCRUB_CAP] },
  { name := "TCK_REFRESH", base := TCK_REFRESH, dims := [], wide := false, perf := false, flds := [TCK_REFRESH_SHARE] },
  { name := "TCK_OVERRUN", base := TCK_OVERRUN, dims := [], wide := false, perf := false, flds := [TCK_OVERRUN_ESCALATED, TCK_OVERRUN_CLEAN_TICKS, TCK_OVERRUN_CONSECUTIVE, TCK_OVERRUN_LAST_NS] },
  { name := "TCK_OVERRUN_TOTAL", base := TCK_OVERRUN_TOTAL, dims := [], wide := true, perf := false, flds := [TCK_OVERRUN_TOTAL_COUNT] },
  { name := "TCK_RING_CIRCUIT", base := TCK_RING_CIRCUIT, dims := [], wide := false, perf := false, flds := [TCK_RING_CIRCUIT_LAST_NS] },
  { name := "TCK_RING_MAX", base := TCK_RING_MAX, dims := [], wide := false, perf := false, flds := [TCK_RING_MAX_MAX_NS] },
  { name := "TCK_RING_MEMBERS", base := TCK_RING_MEMBERS, dims := [], wide := false, perf := false, flds := [TCK_RING_MEMBERS_N_MAX, TCK_RING_MEMBERS_F] },
  { name := "TCK_LATE", base := TCK_LATE, dims := [], wide := true, perf := false, flds := [TCK_LATE_COUNT] }]

/-- The rows of block Boot. -/
def regRowsBoot : List RegRow := [
  { name := "BOOT_STATUS", base := BOOT_STATUS, dims := [], wide := false, perf := false, flds := [BOOT_STATUS_STAGE, BOOT_STATUS_LOAD_TRIES, BOOT_STATUS_FAIL_CODE] },
  { name := "BOOT_CTRL", base := BOOT_CTRL, dims := [], wide := false, perf := false, flds := [BOOT_CTRL_WARM_RESET] },
  { name := "BOOT_CAUSE", base := BOOT_CAUSE, dims := [], wide := false, perf := false, flds := [BOOT_CAUSE_WARM_COUNT, BOOT_CAUSE_F] },
  { name := "BOOT_FLASH", base := BOOT_FLASH, dims := [], wide := false, perf := false, flds := [BOOT_FLASH_CLOCK_MHZ, BOOT_FLASH_FLASH_MIB, BOOT_FLASH_LANES] },
  { name := "BOOT_CFG", base := BOOT_CFG, dims := [], wide := false, perf := false, flds := [BOOT_CFG_START_OP] },
  { name := "BOOT_STEP_US", base := BOOT_STEP_US 0, dims := [(9, 0x4)], wide := false, perf := false, flds := [BOOT_STEP_US_TIME] },
  { name := "BOOT_IMAGE_WRITES", base := BOOT_IMAGE_WRITES, dims := [], wide := true, perf := false, flds := [BOOT_IMAGE_WRITES_COUNT] }]

/-- The rows of block Pwr. -/
def regRowsPwr : List RegRow := [
  { name := "PWR_OP", base := PWR_OP, dims := [], wide := false, perf := false, flds := [PWR_OP_BUSY, PWR_OP_CURRENT, PWR_OP_TARGET] },
  { name := "PWR_VF", base := PWR_VF, dims := [], wide := false, perf := false, flds := [PWR_VF_VID, PWR_VF_SETTLE_US] },
  { name := "PWR_STATUS", base := PWR_STATUS, dims := [], wide := false, perf := false, flds := [PWR_STATUS_OFF, PWR_STATUS_RETENTION, PWR_STATUS_ON] },
  { name := "PWR_OP_CHANGES", base := PWR_OP_CHANGES, dims := [], wide := true, perf := false, flds := [PWR_OP_CHANGES_COUNT] },
  { name := "PWR_WATCH_FAILS", base := PWR_WATCH_FAILS, dims := [], wide := true, perf := false, flds := [PWR_WATCH_FAILS_COUNT] },
  { name := "PWR_ENTRIES", base := PWR_ENTRIES, dims := [], wide := true, perf := false, flds := [PWR_ENTRIES_COUNT] },
  { name := "PWR_DOMAIN", base := PWR_DOMAIN 0, dims := [(68, 0x4)], wide := false, perf := false, flds := [PWR_DOMAIN_HOLD_RELEASE, PWR_DOMAIN_PAD_HELD, PWR_DOMAIN_AUTO_RELEASE, PWR_DOMAIN_WATCH, PWR_DOMAIN_FENCED, PWR_DOMAIN_STATE, PWR_DOMAIN_TARGET] },
  { name := "PWR_WATCH", base := PWR_WATCH 0, dims := [(68, 0x4)], wide := false, perf := false, flds := [PWR_WATCH_PERIOD_MS, PWR_WATCH_MISMATCHES] }]

/-- The rows of block Evt. -/
def regRowsEvt : List RegRow := [
  { name := "EVT_INJECT", base := EVT_INJECT, dims := [], wide := true, perf := false, flds := [EVT_INJECT_CODE, EVT_INJECT_KIND, EVT_INJECT_UNIT] },
  { name := "EVT_NEXT_SEQ", base := EVT_NEXT_SEQ, dims := [], wide := true, perf := false, flds := [EVT_NEXT_SEQ_F] },
  { name := "EVT_LOST", base := EVT_LOST, dims := [], wide := true, perf := false, flds := [EVT_LOST_COUNT] },
  { name := "EVT_COUNT", base := EVT_COUNT 0, dims := [(6, 0x8)], wide := true, perf := false, flds := [EVT_COUNT_F] }]

/-- The rows of block Sec. -/
def regRowsSec : List RegRow := [
  { name := "SEC_STATUS", base := SEC_STATUS, dims := [], wide := false, perf := false, flds := [SEC_STATUS_OWNER_SET, SEC_STATUS_MGMT_KEY, SEC_STATUS_RING_KEY, SEC_STATUS_RECOVERY, SEC_STATUS_ATTEST_QUEUE, SEC_STATUS_SLOTS_USED] },
  { name := "SEC_CTRL", base := SEC_CTRL, dims := [], wide := false, perf := false, flds := [SEC_CTRL_SVN_COMMIT] },
  { name := "SEC_SVN", base := SEC_SVN, dims := [], wide := true, perf := false, flds := [SEC_SVN_IMAGE, SEC_SVN_FUSED] },
  { name := "SEC_SERIAL_LO", base := SEC_SERIAL_LO, dims := [], wide := true, perf := false, flds := [SEC_SERIAL_LO_SERIAL] },
  { name := "SEC_SERIAL_HI", base := SEC_SERIAL_HI, dims := [], wide := true, perf := false, flds := [SEC_SERIAL_HI_SERIAL] },
  { name := "SEC_M_ROM", base := SEC_M_ROM 0, dims := [(6, 0x8)], wide := true, perf := false, flds := [SEC_M_ROM_DIGEST] },
  { name := "SEC_M_IMAGE", base := SEC_M_IMAGE 0, dims := [(6, 0x8)], wide := true, perf := false, flds := [SEC_M_IMAGE_DIGEST] },
  { name := "SEC_M_CONFIG", base := SEC_M_CONFIG 0, dims := [(6, 0x8)], wide := true, perf := false, flds := [SEC_M_CONFIG_DIGEST] },
  { name := "SEC_ATTESTS", base := SEC_ATTESTS, dims := [], wide := true, perf := false, flds := [SEC_ATTESTS_COUNT] },
  { name := "SEC_KEY_LOADS", base := SEC_KEY_LOADS, dims := [], wide := true, perf := false, flds := [SEC_KEY_LOADS_COUNT] },
  { name := "SEC_KEY_REFUSED", base := SEC_KEY_REFUSED, dims := [], wide := true, perf := false, flds := [SEC_KEY_REFUSED_COUNT] },
  { name := "SEC_ESTABLISH_REFUSED", base := SEC_ESTABLISH_REFUSED, dims := [], wide := true, perf := false, flds := [SEC_ESTABLISH_REFUSED_COUNT] },
  { name := "SEC_REMOVALS", base := SEC_REMOVALS, dims := [], wide := true, perf := false, flds := [SEC_REMOVALS_COUNT] },
  { name := "SEC_PART", base := SEC_PART 0, dims := [(16, 0x4)], wide := false, perf := false, flds := [SEC_PART_STATE, SEC_PART_LINK_ENC_REQUIRED, SEC_PART_KEK, SEC_PART_SLOTS, SEC_PART_REMOVE_STEP] },
  { name := "SEC_WAYS", base := SEC_WAYS 0 0, dims := [(16, 0x10), (4, 0x4)], wide := false, perf := false, flds := [SEC_WAYS_MASK] },
  { name := "SEC_M_PROG", base := SEC_M_PROG 0 0, dims := [(16, 0x40), (6, 0x8)], wide := true, perf := false, flds := [SEC_M_PROG_DIGEST] }]

/-- The rows of block Syn. -/
def regRowsSyn : List RegRow := [
  { name := "SYN_STATUS", base := SYN_STATUS, dims := [], wide := false, perf := false, flds := [SYN_STATUS_GRANTED] },
  { name := "SYN_WAIT", base := SYN_WAIT 0, dims := [(4, 0x4)], wide := false, perf := false, flds := [SYN_WAIT_USED] },
  { name := "SYN_INCREMENTS", base := SYN_INCREMENTS, dims := [], wide := true, perf := false, flds := [SYN_INCREMENTS_COUNT] },
  { name := "SYN_NOTICES", base := SYN_NOTICES, dims := [], wide := true, perf := false, flds := [SYN_NOTICES_COUNT] },
  { name := "SYN_DEADLINE_MISSED", base := SYN_DEADLINE_MISSED, dims := [], wide := true, perf := false, flds := [SYN_DEADLINE_MISSED_COUNT] },
  { name := "SYN_POOL_FULL", base := SYN_POOL_FULL, dims := [], wide := true, perf := false, flds := [SYN_POOL_FULL_COUNT] }]

/-- The rows of block Coh. -/
def regRowsCoh : List RegRow := [
  { name := "COH_CTRL", base := COH_CTRL, dims := [], wide := false, perf := false, flds := [COH_CTRL_RESERVE_AT, COH_CTRL_TEST_DOWN] },
  { name := "COH_TIMING0", base := COH_TIMING0, dims := [], wide := false, perf := false, flds := [COH_TIMING0_HOLD_NS, COH_TIMING0_BACKOFF_NS] },
  { name := "COH_TIMING1", base := COH_TIMING1, dims := [], wide := false, perf := false, flds := [COH_TIMING1_TIMEOUT_US, COH_TIMING1_DRAIN_US] },
  { name := "COH_STATUS", base := COH_STATUS, dims := [], wide := false, perf := false, flds := [COH_STATUS_UP, COH_STATUS_DOWN] },
  { name := "COH_SELECT", base := COH_SELECT, dims := [], wide := false, perf := false, flds := [COH_SELECT_DOMAIN] },
  { name := "COH_DIR_USED", base := COH_DIR_USED 0, dims := [(4, 0x4)], wide := false, perf := false, flds := [COH_DIR_USED_F] },
  { name := "COH_WAYS", base := COH_WAYS 0, dims := [(16, 0x4)], wide := false, perf := false, flds := [COH_WAYS_F] },
  { name := "COH_REQUESTS", base := COH_REQUESTS, dims := [], wide := true, perf := true, flds := [COH_REQUESTS_OVF, COH_REQUESTS_COUNT] },
  { name := "COH_NACKS", base := COH_NACKS, dims := [], wide := true, perf := true, flds := [COH_NACKS_OVF, COH_NACKS_COUNT] },
  { name := "COH_FORWARDS", base := COH_FORWARDS, dims := [], wide := true, perf := true, flds := [COH_FORWARDS_OVF, COH_FORWARDS_COUNT] },
  { name := "COH_BACK_INVALS", base := COH_BACK_INVALS, dims := [], wide := true, perf := true, flds := [COH_BACK_INVALS_OVF, COH_BACK_INVALS_COUNT] },
  { name := "COH_CROSSINGS", base := COH_CROSSINGS, dims := [], wide := true, perf := true, flds := [COH_CROSSINGS_OVF, COH_CROSSINGS_COUNT] },
  { name := "COH_POISONED_LINES", base := COH_POISONED_LINES, dims := [], wide := true, perf := false, flds := [COH_POISONED_LINES_COUNT] },
  { name := "COH_DOWN_EVENTS", base := COH_DOWN_EVENTS, dims := [], wide := true, perf := false, flds := [COH_DOWN_EVENTS_COUNT] },
  { name := "COH_D_STATE", base := COH_D_STATE, dims := [], wide := false, perf := false, flds := [COH_D_STATE_PARTITION, COH_D_STATE_DEAD_MEMBER, COH_D_STATE_DEAD_VALID, COH_D_STATE_CAUSE, COH_D_STATE_POISONED, COH_D_STATE_WINDOWS, COH_D_STATE_F] },
  { name := "COH_D_MEMBERS", base := COH_D_MEMBERS, dims := [], wide := true, perf := false, flds := [COH_D_MEMBERS_VALID] },
  { name := "COH_D_WINDOW_BYTES", base := COH_D_WINDOW_BYTES, dims := [], wide := true, perf := false, flds := [COH_D_WINDOW_BYTES_F] }]

/-- The rows of block Ext. -/
def regRowsExt : List RegRow := [
  { name := "EXT_CTRL", base := EXT_CTRL, dims := [], wide := false, perf := false, flds := [EXT_CTRL_COMPRESS_EN, EXT_CTRL_HOT_EN] },
  { name := "EXT_STATUS", base := EXT_STATUS, dims := [], wide := false, perf := false, flds := [EXT_STATUS_ACTIVE, EXT_STATUS_QUARANTINE, EXT_STATUS_WAITING] },
  { name := "EXT_HOT", base := EXT_HOT, dims := [], wide := false, perf := false, flds := [EXT_HOT_THRESHOLD, EXT_HOT_MAX_PER_TICK] },
  { name := "EXT_QUOTA", base := EXT_QUOTA, dims := [], wide := false, perf := false, flds := [EXT_QUOTA_WAIT_TICKS] },
  { name := "EXT_LEASE", base := EXT_LEASE, dims := [], wide := false, perf := false, flds := [EXT_LEASE_DEFAULT_MS] },
  { name := "EXT_QUARANTINE", base := EXT_QUARANTINE, dims := [], wide := false, perf := false, flds := [EXT_QUARANTINE_OLDEST_TICKS] },
  { name := "EXT_COMPRESS", base := EXT_COMPRESS, dims := [], wide := false, perf := false, flds := [EXT_COMPRESS_MAX_CHUNKS] },
  { name := "EXT_INVAL_COUNT", base := EXT_INVAL_COUNT, dims := [], wide := true, perf := false, flds := [EXT_INVAL_COUNT_F] },
  { name := "EXT_LEASE_EXPIRED", base := EXT_LEASE_EXPIRED, dims := [], wide := true, perf := false, flds := [EXT_LEASE_EXPIRED_COUNT] },
  { name := "EXT_HOT_DROPPED", base := EXT_HOT_DROPPED, dims := [], wide := true, perf := false, flds := [EXT_HOT_DROPPED_COUNT] },
  { name := "EXT_TC_HIT", base := EXT_TC_HIT 0, dims := [(4, 0x8)], wide := true, perf := true, flds := [EXT_TC_HIT_OVF, EXT_TC_HIT_COUNT] },
  { name := "EXT_TC_MISS", base := EXT_TC_MISS 0, dims := [(4, 0x8)], wide := true, perf := true, flds := [EXT_TC_MISS_OVF, EXT_TC_MISS_COUNT] },
  { name := "EXT_PART_FREE", base := EXT_PART_FREE 0, dims := [(16, 0x4)], wide := false, perf := false, flds := [EXT_PART_FREE_F] }]

/-- The rows of block Pair. -/
def regRowsPair : List RegRow := [
  { name := "PAIR_LAYOUT", base := PAIR_LAYOUT, dims := [], wide := false, perf := false, flds := [PAIR_LAYOUT_PAIR_ID, PAIR_LAYOUT_PARTNER, PAIR_LAYOUT_PAIRED, PAIR_LAYOUT_SPARE, PAIR_LAYOUT_ROLE_PRIMARY, PAIR_LAYOUT_OUT_STACK] },
  { name := "PAIR_CTRL", base := PAIR_CTRL, dims := [], wide := false, perf := false, flds := [PAIR_CTRL_WAIT_TICKS, PAIR_CTRL_VERIFY_FRAMES, PAIR_CTRL_TEST, PAIR_CTRL_SPARE_WATCH_EN] },
  { name := "PAIR_STATUS", base := PAIR_STATUS, dims := [], wide := false, perf := false, flds := [PAIR_STATUS_STATE, PAIR_STATUS_PARTNER_STATE, PAIR_STATUS_HEALTH_AGE, PAIR_STATUS_KEY_HELD, PAIR_STATUS_KEY_IN, PAIR_STATUS_KEY_OUT] },
  { name := "PAIR_KEY_TIMING", base := PAIR_KEY_TIMING, dims := [], wide := false, perf := false, flds := [PAIR_KEY_TIMING_GUARD_US, PAIR_KEY_TIMING_SETTLE_US] },
  { name := "PAIR_REBUILD", base := PAIR_REBUILD, dims := [], wide := false, perf := false, flds := [PAIR_REBUILD_STATE, PAIR_REBUILD_SPARE, PAIR_REBUILD_FAILED_STACK, PAIR_REBUILD_POISONED] },
  { name := "PAIR_SPARE_WATCH", base := PAIR_SPARE_WATCH, dims := [], wide := false, perf := false, flds := [PAIR_SPARE_WATCH_PERIOD_MS, PAIR_SPARE_WATCH_LAST_CORRECTED] },
  { name := "PAIR_REBUILD_PROG", base := PAIR_REBUILD_PROG, dims := [], wide := true, perf := false, flds := [PAIR_REBUILD_PROG_WORDS] },
  { name := "PAIR_HEALTH_TX", base := PAIR_HEALTH_TX, dims := [], wide := true, perf := false, flds := [PAIR_HEALTH_TX_WORD] },
  { name := "PAIR_HEALTH_RX", base := PAIR_HEALTH_RX, dims := [], wide := true, perf := false, flds := [PAIR_HEALTH_RX_WORD] },
  { name := "PAIR_RESYNC", base := PAIR_RESYNC, dims := [], wide := false, perf := false, flds := [PAIR_RESYNC_DIRTY] },
  { name := "PAIR_P_GIB", base := PAIR_P_GIB 0, dims := [(16, 0x4)], wide := false, perf := false, flds := [PAIR_P_GIB_F] },
  { name := "PAIR_RECONSTRUCTS", base := PAIR_RECONSTRUCTS, dims := [], wide := true, perf := false, flds := [PAIR_RECONSTRUCTS_COUNT] },
  { name := "PAIR_RECONSTRUCT_FAILS", base := PAIR_RECONSTRUCT_FAILS, dims := [], wide := true, perf := false, flds := [PAIR_RECONSTRUCT_FAILS_COUNT] },
  { name := "PAIR_PARITY_RMW", base := PAIR_PARITY_RMW, dims := [], wide := true, perf := true, flds := [PAIR_PARITY_RMW_OVF, PAIR_PARITY_RMW_COUNT] },
  { name := "PAIR_REPLICA_WRITES", base := PAIR_REPLICA_WRITES, dims := [], wide := true, perf := true, flds := [PAIR_REPLICA_WRITES_OVF, PAIR_REPLICA_WRITES_COUNT] },
  { name := "PAIR_RESYNC_FRAMES", base := PAIR_RESYNC_FRAMES, dims := [], wide := true, perf := false, flds := [PAIR_RESYNC_FRAMES_COUNT] },
  { name := "PAIR_VERIFY_MISMATCH", base := PAIR_VERIFY_MISMATCH, dims := [], wide := true, perf := false, flds := [PAIR_VERIFY_MISMATCH_COUNT] },
  { name := "PAIR_KEY_CHANGES", base := PAIR_KEY_CHANGES, dims := [], wide := true, perf := false, flds := [PAIR_KEY_CHANGES_COUNT] },
  { name := "PAIR_HEALTH_MISSED", base := PAIR_HEALTH_MISSED, dims := [], wide := true, perf := false, flds := [PAIR_HEALTH_MISSED_COUNT] }]

/-- The rows of block Cal. -/
def regRowsCal : List RegRow := [
  { name := "CAL_CTRL", base := CAL_CTRL, dims := [], wide := false, perf := false, flds := [CAL_CTRL_DEFAULT_HEADROOM, CAL_CTRL_REBUILD_YIELD, CAL_CTRL_PATINA_EN] },
  { name := "CAL_STATUS", base := CAL_STATUS, dims := [], wide := false, perf := false, flds := [CAL_STATUS_RUNNING, CAL_STATUS_HALTED] },
  { name := "CAL_SELECT", base := CAL_SELECT, dims := [], wide := false, perf := false, flds := [CAL_SELECT_TABLE] },
  { name := "CAL_PATINA_DROP", base := CAL_PATINA_DROP, dims := [], wide := true, perf := false, flds := [CAL_PATINA_DROP_COUNT] },
  { name := "CAL_MQ_OVERFLOW", base := CAL_MQ_OVERFLOW, dims := [], wide := true, perf := false, flds := [CAL_MQ_OVERFLOW_COUNT] },
  { name := "CAL_ROWS_FLIPPED", base := CAL_ROWS_FLIPPED, dims := [], wide := true, perf := false, flds := [CAL_ROWS_FLIPPED_COUNT] },
  { name := "CAL_T_STATE", base := CAL_T_STATE, dims := [], wide := false, perf := false, flds := [CAL_T_STATE_DEFINED, CAL_T_STATE_F] },
  { name := "CAL_T_PLANNO", base := CAL_T_PLANNO, dims := [], wide := false, perf := false, flds := [CAL_T_PLANNO_PLAN] },
  { name := "CAL_T_NEXT_ROW", base := CAL_T_NEXT_ROW, dims := [], wide := false, perf := false, flds := [CAL_T_NEXT_ROW_F] },
  { name := "CAL_T_POISON_ROW", base := CAL_T_POISON_ROW, dims := [], wide := false, perf := false, flds := [CAL_T_POISON_ROW_F] },
  { name := "CAL_T_OVF", base := CAL_T_OVF, dims := [], wide := false, perf := false, flds := [CAL_T_OVF_COUNT] },
  { name := "CAL_T_UNF", base := CAL_T_UNF, dims := [], wide := false, perf := false, flds := [CAL_T_UNF_COUNT] },
  { name := "CAL_T_ZEROS", base := CAL_T_ZEROS, dims := [], wide := false, perf := false, flds := [CAL_T_ZEROS_COUNT] },
  { name := "CAL_T_NONFINITE", base := CAL_T_NONFINITE, dims := [], wide := false, perf := false, flds := [CAL_T_NONFINITE_COUNT] },
  { name := "CAL_T_WRITTEN", base := CAL_T_WRITTEN, dims := [], wide := true, perf := false, flds := [CAL_T_WRITTEN_COUNT] },
  { name := "CAL_T_MQ", base := CAL_T_MQ, dims := [], wide := false, perf := false, flds := [CAL_T_MQ_PEAK, CAL_T_MQ_USED] },
  { name := "CAL_T_HIST", base := CAL_T_HIST 0, dims := [(64, 0x4)], wide := false, perf := false, flds := [CAL_T_HIST_COUNT] },
  { name := "CAL_CB", base := CAL_CB 0 0, dims := [(256, 0x20), (8, 0x4)], wide := false, perf := false, flds := [CAL_CB_ENTRY_HI, CAL_CB_ENTRY_LO] }]

/-- The rows of block Chk. -/
def regRowsChk : List RegRow := [
  { name := "CHK_CTRL", base := CHK_CTRL 0, dims := [(16, 0x40)], wide := false, perf := false, flds := [CHK_CTRL_START, CHK_CTRL_ABORT, CHK_CTRL_PARTITION, CHK_CTRL_FINAL, CHK_CTRL_CONTINUE, CHK_CTRL_ALIVE_EN, CHK_CTRL_ALGO] },
  { name := "CHK_STATUS", base := CHK_STATUS 0, dims := [(16, 0x40)], wide := false, perf := false, flds := [CHK_STATUS_ALIVE, CHK_STATUS_BOUND, CHK_STATUS_POISON, CHK_STATUS_DONE, CHK_STATUS_BUSY] },
  { name := "CHK_LEN", base := CHK_LEN 0, dims := [(16, 0x40)], wide := false, perf := false, flds := [CHK_LEN_F] },
  { name := "CHK_ALIVE_OFF", base := CHK_ALIVE_OFF 0, dims := [(16, 0x40)], wide := false, perf := false, flds := [CHK_ALIVE_OFF_F] },
  { name := "CHK_SRC", base := CHK_SRC 0, dims := [(16, 0x40)], wide := true, perf := false, flds := [CHK_SRC_F] },
  { name := "CHK_STATE", base := CHK_STATE 0, dims := [(16, 0x40)], wide := true, perf := false, flds := [CHK_STATE_F] },
  { name := "CHK_RESULT", base := CHK_RESULT 0, dims := [(16, 0x40)], wide := true, perf := false, flds := [CHK_RESULT_F] }]

/-- The rows of block Ecc. -/
def regRowsEcc : List RegRow := [
  { name := "ECC_CTRL", base := ECC_CTRL, dims := [], wide := false, perf := false, flds := [ECC_CTRL_LANE_THRESHOLD, ECC_CTRL_DEMAND_WB_EN, ECC_CTRL_SCRUB_EN] },
  { name := "ECC_SCRUB", base := ECC_SCRUB, dims := [], wide := false, perf := false, flds := [ECC_SCRUB_PASS_HOURS] },
  { name := "ECC_STATUS", base := ECC_STATUS, dims := [], wide := false, perf := false, flds := [ECC_STATUS_SCRUB_BEHIND, ECC_STATUS_FILL] },
  { name := "ECC_FLIP_CTRL", base := ECC_FLIP_CTRL, dims := [], wide := false, perf := false, flds := [ECC_FLIP_CTRL_ARMED, ECC_FLIP_CTRL_MATCH, ECC_FLIP_CTRL_KIND, ECC_FLIP_CTRL_UNIT, ECC_FLIP_CTRL_LINK_DIR] },
  { name := "ECC_FLIP_ADDR", base := ECC_FLIP_ADDR, dims := [], wide := true, perf := false, flds := [ECC_FLIP_ADDR_F] },
  { name := "ECC_FLIP_MASK", base := ECC_FLIP_MASK 0, dims := [(9, 0x4)], wide := false, perf := false, flds := [ECC_FLIP_MASK_F] },
  { name := "ECC_LAST_UE", base := ECC_LAST_UE, dims := [], wide := true, perf := false, flds := [ECC_LAST_UE_KIND, ECC_LAST_UE_UNIT, ECC_LAST_UE_ADDR] },
  { name := "ECC_CORRECTED", base := ECC_CORRECTED, dims := [], wide := true, perf := false, flds := [ECC_CORRECTED_COUNT] },
  { name := "ECC_CORRECTED_SRAM", base := ECC_CORRECTED_SRAM, dims := [], wide := true, perf := false, flds := [ECC_CORRECTED_SRAM_COUNT] },
  { name := "ECC_UNCORRECTED", base := ECC_UNCORRECTED, dims := [], wide := true, perf := false, flds := [ECC_UNCORRECTED_COUNT] },
  { name := "ECC_POISON_WRITTEN", base := ECC_POISON_WRITTEN, dims := [], wide := true, perf := false, flds := [ECC_POISON_WRITTEN_COUNT] },
  { name := "ECC_POISON_READ", base := ECC_POISON_READ, dims := [], wide := true, perf := false, flds := [ECC_POISON_READ_COUNT] },
  { name := "ECC_SCRUB_PASSES", base := ECC_SCRUB_PASSES, dims := [], wide := true, perf := false, flds := [ECC_SCRUB_PASSES_COUNT] },
  { name := "ECC_LANE_EVENTS", base := ECC_LANE_EVENTS, dims := [], wide := true, perf := false, flds := [ECC_LANE_EVENTS_COUNT] },
  { name := "ECC_SCRUB_ROWS", base := ECC_SCRUB_ROWS 0, dims := [(16, 0x4)], wide := false, perf := false, flds := [ECC_SCRUB_ROWS_F] },
  { name := "ECC_LANE", base := ECC_LANE 0, dims := [(16, 0x4)], wide := false, perf := false, flds := [ECC_LANE_VALID, ECC_LANE_PC, ECC_LANE_SYMBOL] }]

/-- The rows of block Mem. -/
def regRowsMem : List RegRow := [
  { name := "MEM_CFG", base := MEM_CFG 0 0, dims := [(4, 0x40000), (4, 0x4000)], wide := false, perf := false, flds := [MEM_CFG_SPARE, MEM_CFG_STACK] },
  { name := "MEM_CTRL", base := MEM_CTRL 0 0, dims := [(4, 0x40000), (4, 0x4000)], wide := false, perf := false, flds := [MEM_CTRL_WR_AGE_US, MEM_CTRL_DISTURB_K, MEM_CTRL_WR_HIGH, MEM_CTRL_WR_LOW] },
  { name := "MEM_STATUS", base := MEM_STATUS 0 0, dims := [(4, 0x40000), (4, 0x4000)], wide := false, perf := false, flds := [MEM_STATUS_TEMP_C, MEM_STATUS_HOT, MEM_STATUS_STATE] },
  { name := "MEM_TRAIN", base := MEM_TRAIN 0 0, dims := [(4, 0x40000), (4, 0x4000)], wide := false, perf := false, flds := [MEM_TRAIN_NOW, MEM_TRAIN_TARGET_PC, MEM_TRAIN_LAST_PC] },
  { name := "MEM_GROUP", base := MEM_GROUP 0 0 0, dims := [(4, 0x40000), (4, 0x4000), (16, 0x4)], wide := false, perf := false, flds := [MEM_GROUP_VALID, MEM_GROUP_BASE, MEM_GROUP_LOG2] },
  { name := "MEM_RD_BURSTS", base := MEM_RD_BURSTS 0 0, dims := [(4, 0x40000), (4, 0x4000)], wide := true, perf := true, flds := [MEM_RD_BURSTS_OVF, MEM_RD_BURSTS_COUNT] },
  { name := "MEM_WR_BURSTS", base := MEM_WR_BURSTS 0 0, dims := [(4, 0x40000), (4, 0x4000)], wide := true, perf := true, flds := [MEM_WR_BURSTS_OVF, MEM_WR_BURSTS_COUNT] },
  { name := "MEM_ACTIVATES", base := MEM_ACTIVATES 0 0, dims := [(4, 0x40000), (4, 0x4000)], wide := true, perf := true, flds := [MEM_ACTIVATES_OVF, MEM_ACTIVATES_COUNT] },
  { name := "MEM_ROW_HITS", base := MEM_ROW_HITS 0 0, dims := [(4, 0x40000), (4, 0x4000)], wide := true, perf := true, flds := [MEM_ROW_HITS_OVF, MEM_ROW_HITS_COUNT] },
  { name := "MEM_DRAINS", base := MEM_DRAINS 0 0, dims := [(4, 0x40000), (4, 0x4000)], wide := true, perf := true, flds := [MEM_DRAINS_OVF, MEM_DRAINS_COUNT] },
  { name := "MEM_INORDER", base := MEM_INORDER 0 0, dims := [(4, 0x40000), (4, 0x4000)], wide := true, perf := true, flds := [MEM_INORDER_OVF, MEM_INORDER_COUNT] },
  { name := "MEM_COMPARE_HOLDS", base := MEM_COMPARE_HOLDS 0 0, dims := [(4, 0x40000), (4, 0x4000)], wide := true, perf := true, flds := [MEM_COMPARE_HOLDS_OVF, MEM_COMPARE_HOLDS_COUNT] },
  { name := "MEM_NEIGHBOUR_REFRESHES", base := MEM_NEIGHBOUR_REFRESHES 0 0, dims := [(4, 0x40000), (4, 0x4000)], wide := true, perf := true, flds := [MEM_NEIGHBOUR_REFRESHES_OVF, MEM_NEIGHBOUR_REFRESHES_COUNT] },
  { name := "MEM_RETRAINS", base := MEM_RETRAINS 0 0, dims := [(4, 0x40000), (4, 0x4000)], wide := true, perf := false, flds := [MEM_RETRAINS_COUNT] },
  { name := "MEM_TRAIN_FAILS", base := MEM_TRAIN_FAILS 0 0, dims := [(4, 0x40000), (4, 0x4000)], wide := true, perf := false, flds := [MEM_TRAIN_FAILS_COUNT] },
  { name := "MEM_PC_STATUS", base := MEM_PC_STATUS 0 0 0, dims := [(4, 0x40000), (4, 0x4000), (32, 0x40)], wide := false, perf := false, flds := [MEM_PC_STATUS_RD_USED, MEM_PC_STATUS_WR_USED, MEM_PC_STATUS_TRACKED, MEM_PC_STATUS_MODE] },
  { name := "MEM_PC_PEAK", base := MEM_PC_PEAK 0 0 0, dims := [(4, 0x40000), (4, 0x4000), (32, 0x40)], wide := false, perf := false, flds := [MEM_PC_PEAK_RD_PEAK, MEM_PC_PEAK_WR_PEAK] },
  { name := "MEM_PC_TRAIN", base := MEM_PC_TRAIN 0 0 0, dims := [(4, 0x40000), (4, 0x4000), (32, 0x40)], wide := false, perf := false, flds := [MEM_PC_TRAIN_MARGIN_PS, MEM_PC_TRAIN_FAILS] },
  { name := "MEM_PC_LAST_TRAIN", base := MEM_PC_LAST_TRAIN 0 0 0, dims := [(4, 0x40000), (4, 0x4000), (32, 0x40)], wide := true, perf := false, flds := [MEM_PC_LAST_TRAIN_TICK] },
  { name := "MEM_PC_HOLD_CYCLES", base := MEM_PC_HOLD_CYCLES 0 0 0, dims := [(4, 0x40000), (4, 0x4000), (32, 0x40)], wide := true, perf := true, flds := [MEM_PC_HOLD_CYCLES_OVF, MEM_PC_HOLD_CYCLES_COUNT] }]

/-- The rows of block Amt. -/
def regRowsAmt : List RegRow := [
  { name := "AMT_STATUS", base := AMT_STATUS 0, dims := [(4, 0x40000)], wide := false, perf := false, flds := [AMT_STATUS_DETOUR, AMT_STATUS_LINK_UP] },
  { name := "AMT_CORRECTED", base := AMT_CORRECTED 0, dims := [(4, 0x40000)], wide := true, perf := false, flds := [AMT_CORRECTED_COUNT] },
  { name := "AMT_POISONED", base := AMT_POISONED 0, dims := [(4, 0x40000)], wide := true, perf := false, flds := [AMT_POISONED_COUNT] },
  { name := "AMT_TX_FLITS", base := AMT_TX_FLITS 0 0, dims := [(4, 0x40000), (3, 0x8)], wide := true, perf := true, flds := [AMT_TX_FLITS_OVF, AMT_TX_FLITS_COUNT] },
  { name := "AMT_RX_FLITS", base := AMT_RX_FLITS 0 0, dims := [(4, 0x40000), (3, 0x8)], wide := true, perf := true, flds := [AMT_RX_FLITS_OVF, AMT_RX_FLITS_COUNT] },
  { name := "AMT_STALL_CYCLES", base := AMT_STALL_CYCLES 0 0, dims := [(4, 0x40000), (3, 0x8)], wide := true, perf := true, flds := [AMT_STALL_CYCLES_OVF, AMT_STALL_CYCLES_COUNT] }]

/-- The rows of block Ce. -/
def regRowsCe : List RegRow := [
  { name := "CE_CFG", base := CE_CFG 0 0, dims := [(4, 0x40000), (4, 0x1000)], wide := false, perf := false, flds := [CE_CFG_ASSIGNED, CE_CFG_PARTITION] },
  { name := "CE_CTRL", base := CE_CTRL 0 0, dims := [(4, 0x40000), (4, 0x1000)], wide := false, perf := false, flds := [CE_CTRL_ACT_SKIP_EN, CE_CTRL_TEST_FENCE] },
  { name := "CE_STATUS", base := CE_STATUS 0 0, dims := [(4, 0x40000), (4, 0x1000)], wide := false, perf := false, flds := [CE_STATUS_CONTEXT, CE_STATUS_PANE, CE_STATUS_STATE] },
  { name := "CE_OS_ECC", base := CE_OS_ECC 0 0, dims := [(4, 0x40000), (4, 0x1000)], wide := false, perf := false, flds := [CE_OS_ECC_UNCORRECTED, CE_OS_ECC_CORRECTED] },
  { name := "CE_BUSY_CYCLES", base := CE_BUSY_CYCLES 0 0, dims := [(4, 0x40000), (4, 0x1000)], wide := true, perf := true, flds := [CE_BUSY_CYCLES_OVF, CE_BUSY_CYCLES_COUNT] },
  { name := "CE_RUN_CYCLES", base := CE_RUN_CYCLES 0 0, dims := [(4, 0x40000), (4, 0x1000)], wide := true, perf := true, flds := [CE_RUN_CYCLES_OVF, CE_RUN_CYCLES_COUNT] },
  { name := "CE_LOAD_STALL_CYCLES", base := CE_LOAD_STALL_CYCLES 0 0, dims := [(4, 0x40000), (4, 0x1000)], wide := true, perf := true, flds := [CE_LOAD_STALL_CYCLES_OVF, CE_LOAD_STALL_CYCLES_COUNT] },
  { name := "CE_SWITCH_CYCLES", base := CE_SWITCH_CYCLES 0 0, dims := [(4, 0x40000), (4, 0x1000)], wide := true, perf := true, flds := [CE_SWITCH_CYCLES_OVF, CE_SWITCH_CYCLES_COUNT] },
  { name := "CE_TILES_FORMED", base := CE_TILES_FORMED 0 0, dims := [(4, 0x40000), (4, 0x1000)], wide := true, perf := true, flds := [CE_TILES_FORMED_OVF, CE_TILES_FORMED_COUNT] },
  { name := "CE_BEATS_SKIPPED", base := CE_BEATS_SKIPPED 0 0, dims := [(4, 0x40000), (4, 0x1000)], wide := true, perf := true, flds := [CE_BEATS_SKIPPED_OVF, CE_BEATS_SKIPPED_COUNT] },
  { name := "CE_POISON_TERMS", base := CE_POISON_TERMS 0 0, dims := [(4, 0x40000), (4, 0x1000)], wide := true, perf := true, flds := [CE_POISON_TERMS_OVF, CE_POISON_TERMS_COUNT] },
  { name := "CE_STEPS_REDONE", base := CE_STEPS_REDONE 0 0, dims := [(4, 0x40000), (4, 0x1000)], wide := true, perf := true, flds := [CE_STEPS_REDONE_OVF, CE_STEPS_REDONE_COUNT] }]

/-- The rows of block Rsp. -/
def regRowsRsp : List RegRow := [
  { name := "RSP_CFG", base := RSP_CFG 0 0, dims := [(4, 0x40000), (4, 0x1000)], wide := false, perf := false, flds := [RSP_CFG_ASSIGNED, RSP_CFG_PARTITION] },
  { name := "RSP_CTRL", base := RSP_CTRL 0 0, dims := [(4, 0x40000), (4, 0x1000)], wide := false, perf := false, flds := [RSP_CTRL_STEP_LIMIT, RSP_CTRL_TEST_FENCE] },
  { name := "RSP_STATUS", base := RSP_STATUS 0 0, dims := [(4, 0x40000), (4, 0x1000)], wide := false, perf := false, flds := [RSP_STATUS_THREADS_BUSY, RSP_STATUS_STATE] },
  { name := "RSP_ECC", base := RSP_ECC 0 0, dims := [(4, 0x40000), (4, 0x1000)], wide := false, perf := false, flds := [RSP_ECC_UNCORRECTED, RSP_ECC_CORRECTED] },
  { name := "RSP_BUSY_CYCLES", base := RSP_BUSY_CYCLES 0 0, dims := [(4, 0x40000), (4, 0x1000)], wide := true, perf := true, flds := [RSP_BUSY_CYCLES_OVF, RSP_BUSY_CYCLES_COUNT] },
  { name := "RSP_ISSUED", base := RSP_ISSUED 0 0, dims := [(4, 0x40000), (4, 0x1000)], wide := true, perf := true, flds := [RSP_ISSUED_OVF, RSP_ISSUED_COUNT] },
  { name := "RSP_DUAL_ISSUED", base := RSP_DUAL_ISSUED 0 0, dims := [(4, 0x40000), (4, 0x1000)], wide := true, perf := true, flds := [RSP_DUAL_ISSUED_OVF, RSP_DUAL_ISSUED_COUNT] },
  { name := "RSP_ICACHE_MISSES", base := RSP_ICACHE_MISSES 0 0, dims := [(4, 0x40000), (4, 0x1000)], wide := true, perf := true, flds := [RSP_ICACHE_MISSES_OVF, RSP_ICACHE_MISSES_COUNT] },
  { name := "RSP_SORT_CYCLES", base := RSP_SORT_CYCLES 0 0, dims := [(4, 0x40000), (4, 0x1000)], wide := true, perf := true, flds := [RSP_SORT_CYCLES_OVF, RSP_SORT_CYCLES_COUNT] },
  { name := "RSP_PARKS", base := RSP_PARKS 0 0, dims := [(4, 0x40000), (4, 0x1000)], wide := true, perf := true, flds := [RSP_PARKS_OVF, RSP_PARKS_COUNT] },
  { name := "RSP_TRAPS", base := RSP_TRAPS 0 0, dims := [(4, 0x40000), (4, 0x1000)], wide := true, perf := false, flds := [RSP_TRAPS_COUNT] }]

/-- The rows of block Port. -/
def regRowsPort : List RegRow := [
  { name := "MAC_CFG", base := MAC_CFG 0, dims := [(16, 0x10000)], wide := false, perf := false, flds := [MAC_CFG_MODE] },
  { name := "MAC_CTRL", base := MAC_CTRL 0, dims := [(16, 0x10000)], wide := false, perf := false, flds := [MAC_CTRL_PFC_EN, MAC_CTRL_LOOPBACK] },
  { name := "MAC_STATUS", base := MAC_STATUS 0, dims := [(16, 0x10000)], wide := false, perf := false, flds := [MAC_STATUS_AN_DONE, MAC_STATUS_FEC_LOCK, MAC_STATUS_LINK_UP] },
  { name := "MAC_MAX_FRAME", base := MAC_MAX_FRAME 0, dims := [(16, 0x10000)], wide := false, perf := false, flds := [MAC_MAX_FRAME_BYTES] },
  { name := "MAC_ADDR", base := MAC_ADDR 0 0, dims := [(16, 0x10000), (4, 0x8)], wide := true, perf := false, flds := [MAC_ADDR_F] },
  { name := "MAC_RX_FRAMES", base := MAC_RX_FRAMES 0 0, dims := [(16, 0x10000), (4, 0x8)], wide := true, perf := true, flds := [MAC_RX_FRAMES_OVF, MAC_RX_FRAMES_COUNT] },
  { name := "MAC_TX_FRAMES", base := MAC_TX_FRAMES 0 0, dims := [(16, 0x10000), (4, 0x8)], wide := true, perf := true, flds := [MAC_TX_FRAMES_OVF, MAC_TX_FRAMES_COUNT] },
  { name := "MAC_FCS_ERRORS", base := MAC_FCS_ERRORS 0 0, dims := [(16, 0x10000), (4, 0x8)], wide := true, perf := false, flds := [MAC_FCS_ERRORS_COUNT] },
  { name := "MAC_FEC_CORRECTED", base := MAC_FEC_CORRECTED 0 0, dims := [(16, 0x10000), (4, 0x8)], wide := true, perf := false, flds := [MAC_FEC_CORRECTED_COUNT] },
  { name := "MAC_FEC_UNCORRECTED", base := MAC_FEC_UNCORRECTED 0 0, dims := [(16, 0x10000), (4, 0x8)], wide := true, perf := false, flds := [MAC_FEC_UNCORRECTED_COUNT] },
  { name := "FZT_PORT_CTRL", base := FZT_PORT_CTRL 0, dims := [(16, 0x10000)], wide := false, perf := false, flds := [FZT_PORT_CTRL_ROCE_EN, FZT_PORT_CTRL_FZT_EN] },
  { name := "FZT_RX_PACKETS", base := FZT_RX_PACKETS 0, dims := [(16, 0x10000)], wide := true, perf := true, flds := [FZT_RX_PACKETS_OVF, FZT_RX_PACKETS_COUNT] },
  { name := "FZT_TX_PACKETS", base := FZT_TX_PACKETS 0, dims := [(16, 0x10000)], wide := true, perf := true, flds := [FZT_TX_PACKETS_OVF, FZT_TX_PACKETS_COUNT] },
  { name := "FZT_DROPS_CRC", base := FZT_DROPS_CRC 0, dims := [(16, 0x10000)], wide := true, perf := false, flds := [FZT_DROPS_CRC_COUNT] },
  { name := "FZT_DROPS_AUTH", base := FZT_DROPS_AUTH 0, dims := [(16, 0x10000)], wide := true, perf := false, flds := [FZT_DROPS_AUTH_COUNT] },
  { name := "FZT_DROPS_WINDOW", base := FZT_DROPS_WINDOW 0, dims := [(16, 0x10000)], wide := true, perf := false, flds := [FZT_DROPS_WINDOW_COUNT] },
  { name := "FZT_DROPS_PLAIN", base := FZT_DROPS_PLAIN 0, dims := [(16, 0x10000)], wide := true, perf := false, flds := [FZT_DROPS_PLAIN_COUNT] },
  { name := "FZT_DROPS_SESSION", base := FZT_DROPS_SESSION 0, dims := [(16, 0x10000)], wide := true, perf := false, flds := [FZT_DROPS_SESSION_COUNT] },
  { name := "FZT_DUPLICATES", base := FZT_DUPLICATES 0, dims := [(16, 0x10000)], wide := true, perf := false, flds := [FZT_DUPLICATES_COUNT] },
  { name := "FZT_RETRANSMITS", base := FZT_RETRANSMITS 0, dims := [(16, 0x10000)], wide := true, perf := false, flds := [FZT_RETRANSMITS_COUNT] },
  { name := "FZT_TIMEOUTS", base := FZT_TIMEOUTS 0, dims := [(16, 0x10000)], wide := true, perf := false, flds := [FZT_TIMEOUTS_COUNT] },
  { name := "ROCE_RX_PACKETS", base := ROCE_RX_PACKETS 0, dims := [(16, 0x10000)], wide := true, perf := true, flds := [ROCE_RX_PACKETS_OVF, ROCE_RX_PACKETS_COUNT] },
  { name := "ROCE_DROPS_ICRC", base := ROCE_DROPS_ICRC 0, dims := [(16, 0x10000)], wide := true, perf := false, flds := [ROCE_DROPS_ICRC_COUNT] },
  { name := "ROCE_NAKS_SENT", base := ROCE_NAKS_SENT 0, dims := [(16, 0x10000)], wide := true, perf := false, flds := [ROCE_NAKS_SENT_COUNT] },
  { name := "ROCE_CNPS_SENT", base := ROCE_CNPS_SENT 0, dims := [(16, 0x10000)], wide := true, perf := false, flds := [ROCE_CNPS_SENT_COUNT] },
  { name := "FZT_CTRL", base := FZT_CTRL, dims := [], wide := false, perf := false, flds := [FZT_CTRL_ACK_EVERY, FZT_CTRL_UDP_PORT] },
  { name := "FZT_TIMER0", base := FZT_TIMER0, dims := [], wide := false, perf := false, flds := [FZT_TIMER0_ACK_DELAY_NS, FZT_TIMER0_RTO_US] },
  { name := "FZT_TIMER1", base := FZT_TIMER1, dims := [], wide := false, perf := false, flds := [FZT_TIMER1_PATH_TIMEOUTS, FZT_TIMER1_PROBE_US, FZT_TIMER1_GRACE_MS] },
  { name := "FZT_STATUS", base := FZT_STATUS, dims := [], wide := false, perf := false, flds := [FZT_STATUS_HOLD, FZT_STATUS_OPEN] },
  { name := "FZT_SELECT", base := FZT_SELECT, dims := [], wide := false, perf := false, flds := [FZT_SELECT_QP, FZT_SELECT_SESSION] },
  { name := "FZT_OPTAGS", base := FZT_OPTAGS, dims := [], wide := false, perf := false, flds := [FZT_OPTAGS_USED] },
  { name := "FZT_SESSIONS_LOST", base := FZT_SESSIONS_LOST, dims := [], wide := true, perf := false, flds := [FZT_SESSIONS_LOST_COUNT] },
  { name := "FZT_RXPOOL", base := FZT_RXPOOL 0, dims := [(4, 0x4)], wide := false, perf := false, flds := [FZT_RXPOOL_ALLOCATED] },
  { name := "FZT_S_STATE", base := FZT_S_STATE, dims := [], wide := false, perf := false, flds := [FZT_S_STATE_EPOCH, FZT_S_STATE_PATHS_UP, FZT_S_STATE_F] },
  { name := "FZT_S_PEER", base := FZT_S_PEER, dims := [], wide := false, perf := false, flds := [FZT_S_PEER_ENDPOINT] },
  { name := "FZT_S_TX_SEQ", base := FZT_S_TX_SEQ, dims := [], wide := false, perf := false, flds := [FZT_S_TX_SEQ_F] },
  { name := "FZT_S_RX_BASE", base := FZT_S_RX_BASE, dims := [], wide := false, perf := false, flds := [FZT_S_RX_BASE_F] },
  { name := "FZT_S_CREDITS", base := FZT_S_CREDITS, dims := [], wide := true, perf := false, flds := [FZT_S_CREDITS_MGT, FZT_S_CREDITS_RSP, FZT_S_CREDITS_REQ] },
  { name := "FZT_Q_STATE", base := FZT_Q_STATE, dims := [], wide := false, perf := false, flds := [FZT_Q_STATE_LAST_STATUS, FZT_Q_STATE_PORT, FZT_Q_STATE_F] },
  { name := "SCH_CTRL", base := SCH_CTRL 0, dims := [(16, 0x10000)], wide := false, perf := false, flds := [SCH_CTRL_HK_WEIGHT, SCH_CTRL_MGT_WEIGHT, SCH_CTRL_OVERHEAD] },
  { name := "SCH_DSCP", base := SCH_DSCP 0, dims := [(16, 0x10000)], wide := false, perf := false, flds := [SCH_DSCP_ROCE, SCH_DSCP_MGT, SCH_DSCP_RSP, SCH_DSCP_REQ] },
  { name := "SCH_VTIME", base := SCH_VTIME 0, dims := [(16, 0x10000)], wide := false, perf := false, flds := [SCH_VTIME_V] },
  { name := "SCH_QUEUE", base := SCH_QUEUE 0, dims := [(16, 0x10000)], wide := false, perf := false, flds := [SCH_QUEUE_BYTES] },
  { name := "SCH_QUEUE_PEAK", base := SCH_QUEUE_PEAK 0, dims := [(16, 0x10000)], wide := false, perf := false, flds := [SCH_QUEUE_PEAK_BYTES] },
  { name := "SCH_TX_BYTES", base := SCH_TX_BYTES 0, dims := [(16, 0x10000)], wide := true, perf := true, flds := [SCH_TX_BYTES_OVF, SCH_TX_BYTES_COUNT] },
  { name := "SCH_RX_BYTES", base := SCH_RX_BYTES 0, dims := [(16, 0x10000)], wide := true, perf := true, flds := [SCH_RX_BYTES_OVF, SCH_RX_BYTES_COUNT] },
  { name := "SCH_STALL_CYCLES", base := SCH_STALL_CYCLES 0, dims := [(16, 0x10000)], wide := true, perf := true, flds := [SCH_STALL_CYCLES_OVF, SCH_STALL_CYCLES_COUNT] },
  { name := "SCH_TRANSIT_PACKETS", base := SCH_TRANSIT_PACKETS 0, dims := [(16, 0x10000)], wide := true, perf := true, flds := [SCH_TRANSIT_PACKETS_OVF, SCH_TRANSIT_PACKETS_COUNT] },
  { name := "SCH_PART", base := SCH_PART 0 0, dims := [(16, 0x10000), (16, 0x4)], wide := false, perf := false, flds := [SCH_PART_POLICE_EN, SCH_PART_POLICER, SCH_PART_WEIGHT] },
  { name := "POL_SELECT", base := POL_SELECT 0, dims := [(16, 0x10000)], wide := false, perf := false, flds := [POL_SELECT_POLICER] },
  { name := "POL_CTRL", base := POL_CTRL 0, dims := [(16, 0x10000)], wide := false, perf := false, flds := [POL_CTRL_RED_DSCP, POL_CTRL_YELLOW_DSCP, POL_CTRL_RED_DROP, POL_CTRL_YELLOW_DROP, POL_CTRL_AWARE] },
  { name := "POL_CIR", base := POL_CIR 0, dims := [(16, 0x10000)], wide := false, perf := false, flds := [POL_CIR_MBPS] },
  { name := "POL_PIR", base := POL_PIR 0, dims := [(16, 0x10000)], wide := false, perf := false, flds := [POL_PIR_MBPS] },
  { name := "POL_CBS", base := POL_CBS 0, dims := [(16, 0x10000)], wide := false, perf := false, flds := [POL_CBS_BYTES] },
  { name := "POL_PBS", base := POL_PBS 0, dims := [(16, 0x10000)], wide := false, perf := false, flds := [POL_PBS_BYTES] },
  { name := "POL_GREEN", base := POL_GREEN 0, dims := [(16, 0x10000)], wide := true, perf := true, flds := [POL_GREEN_OVF, POL_GREEN_COUNT] },
  { name := "POL_YELLOW", base := POL_YELLOW 0, dims := [(16, 0x10000)], wide := true, perf := true, flds := [POL_YELLOW_OVF, POL_YELLOW_COUNT] },
  { name := "POL_RED", base := POL_RED 0, dims := [(16, 0x10000)], wide := true, perf := true, flds := [POL_RED_OVF, POL_RED_COUNT] },
  { name := "POL_DROPPED", base := POL_DROPPED 0, dims := [(16, 0x10000)], wide := true, perf := true, flds := [POL_DROPPED_OVF, POL_DROPPED_COUNT] }]

/-- The rows of block Ring. -/
def regRowsRing : List RegRow := [
  { name := "RING_CFG", base := RING_CFG, dims := [], wide := false, perf := false, flds := [RING_CFG_CHIP_ID, RING_CFG_JOIN_AT_START, RING_CFG_ROLE] },
  { name := "RING_CTRL", base := RING_CTRL, dims := [], wide := false, perf := false, flds := [RING_CTRL_LEAVE, RING_CTRL_JOIN, RING_CTRL_BYPASS_TEST] },
  { name := "RING_STATUS", base := RING_STATUS, dims := [], wide := false, perf := false, flds := [RING_STATUS_CHAIN, RING_STATUS_LINK, RING_STATUS_BYPASS, RING_STATUS_STATE] },
  { name := "RING_NEIGHBOURS", base := RING_NEIGHBOURS, dims := [], wide := false, perf := false, flds := [RING_NEIGHBOURS_EAST_VALID, RING_NEIGHBOURS_EAST_ID, RING_NEIGHBOURS_WEST_VALID, RING_NEIGHBOURS_WEST_ID] },
  { name := "RING_ROUTE", base := RING_ROUTE, dims := [], wide := false, perf := false, flds := [RING_ROUTE_VERSION] },
  { name := "RING_FWD", base := RING_FWD, dims := [], wide := false, perf := false, flds := [RING_FWD_TIMEOUT_TICKS] },
  { name := "RING_ROUTE_SELECT", base := RING_ROUTE_SELECT, dims := [], wide := false, perf := false, flds := [RING_ROUTE_SELECT_CHIP] },
  { name := "RING_ROUTE_ENTRY", base := RING_ROUTE_ENTRY, dims := [], wide := false, perf := false, flds := [RING_ROUTE_ENTRY_REACH1, RING_ROUTE_ENTRY_REACH0, RING_ROUTE_ENTRY_PREFERRED, RING_ROUTE_ENTRY_DRAINING, RING_ROUTE_ENTRY_HOPS1, RING_ROUTE_ENTRY_HOPS0] },
  { name := "RING_FWD_OUTSTANDING", base := RING_FWD_OUTSTANDING, dims := [], wide := false, perf := false, flds := [RING_FWD_OUTSTANDING_COUNT] },
  { name := "RING_FWD_TIMEOUTS", base := RING_FWD_TIMEOUTS, dims := [], wide := true, perf := false, flds := [RING_FWD_TIMEOUTS_COUNT] },
  { name := "RING_JOINS_REFUSED", base := RING_JOINS_REFUSED, dims := [], wide := true, perf := false, flds := [RING_JOINS_REFUSED_COUNT] },
  { name := "RING_UNREACHABLE", base := RING_UNREACHABLE, dims := [], wide := true, perf := false, flds := [RING_UNREACHABLE_COUNT] },
  { name := "RING_HB_REJECTED", base := RING_HB_REJECTED, dims := [], wide := true, perf := false, flds := [RING_HB_REJECTED_COUNT] },
  { name := "RING_TOPOLOGY_CHANGES", base := RING_TOPOLOGY_CHANGES, dims := [], wide := true, perf := false, flds := [RING_TOPOLOGY_CHANGES_COUNT] }]

/-- The rows of block Ctx. -/
def regRowsCtx : List RegRow := [
  { name := "CTX_CFG0", base := CTX_CFG0 0, dims := [(4096, 0x100)], wide := false, perf := false, flds := [CTX_CFG0_PARTITION, CTX_CFG0_STATE, CTX_CFG0_PRODUCER, CTX_CFG0_ABORT_ON_DEADLINE, CTX_CFG0_OWNER] },
  { name := "CTX_CFG1", base := CTX_CFG1 0, dims := [(4096, 0x100)], wide := false, perf := false, flds := [CTX_CFG1_WEIGHT, CTX_CFG1_MAX_INFLIGHT_M1, CTX_CFG1_CQ_LOG2, CTX_CFG1_RING_LOG2] },
  { name := "CTX_CTRL", base := CTX_CTRL 0, dims := [(4096, 0x100)], wide := false, perf := false, flds := [CTX_CTRL_FLUSH, CTX_CTRL_KEY_SLOT] },
  { name := "CTX_STATUS", base := CTX_STATUS 0, dims := [(4096, 0x100)], wide := false, perf := false, flds := [CTX_STATUS_CQ_FULL, CTX_STATUS_RING_RESET, CTX_STATUS_SPILLING] },
  { name := "CTX_RING_BASE", base := CTX_RING_BASE 0, dims := [(4096, 0x100)], wide := true, perf := false, flds := [CTX_RING_BASE_F] },
  { name := "CTX_CQ", base := CTX_CQ 0, dims := [(4096, 0x100)], wide := true, perf := false, flds := [CTX_CQ_ADDR] },
  { name := "CTX_WIN_BASE", base := CTX_WIN_BASE 0 0, dims := [(4096, 0x100), (4, 0x10)], wide := true, perf := false, flds := [CTX_WIN_BASE_F] },
  { name := "CTX_WIN_LEN", base := CTX_WIN_LEN 0 0, dims := [(4096, 0x100), (4, 0x10)], wide := false, perf := false, flds := [CTX_WIN_LEN_F] },
  { name := "CTX_WIN_KEY", base := CTX_WIN_KEY 0 0, dims := [(4096, 0x100), (4, 0x10)], wide := false, perf := false, flds := [CTX_WIN_KEY_F] },
  { name := "CTX_WP_A", base := CTX_WP_A 0, dims := [(4096, 0x100)], wide := false, perf := false, flds := [CTX_WP_A_WP] },
  { name := "CTX_WP_B", base := CTX_WP_B 0, dims := [(4096, 0x100)], wide := false, perf := false, flds := [CTX_WP_B_WP] },
  { name := "CTX_RP_A", base := CTX_RP_A 0, dims := [(4096, 0x100)], wide := false, perf := false, flds := [CTX_RP_A_RP] },
  { name := "CTX_RP_B", base := CTX_RP_B 0, dims := [(4096, 0x100)], wide := false, perf := false, flds := [CTX_RP_B_RP] },
  { name := "CTX_QUEUE", base := CTX_QUEUE 0, dims := [(4096, 0x100)], wide := false, perf := false, flds := [CTX_QUEUE_PACKETS] },
  { name := "CTX_CQ_HEAD", base := CTX_CQ_HEAD 0, dims := [(4096, 0x100)], wide := false, perf := false, flds := [CTX_CQ_HEAD_F] },
  { name := "CTX_CQ_TAIL", base := CTX_CQ_TAIL 0, dims := [(4096, 0x100)], wide := false, perf := false, flds := [CTX_CQ_TAIL_F] },
  { name := "CTX_TAKEN", base := CTX_TAKEN 0, dims := [(4096, 0x100)], wide := true, perf := false, flds := [CTX_TAKEN_COUNT] },
  { name := "CTX_COMPLETED", base := CTX_COMPLETED 0, dims := [(4096, 0x100)], wide := true, perf := false, flds := [CTX_COMPLETED_COUNT] },
  { name := "CTX_SAT_COUNT", base := CTX_SAT_COUNT 0, dims := [(4096, 0x100)], wide := false, perf := false, flds := [CTX_SAT_COUNT_F] },
  { name := "CTX_NONFINITE_COUNT", base := CTX_NONFINITE_COUNT 0, dims := [(4096, 0x100)], wide := false, perf := false, flds := [CTX_NONFINITE_COUNT_F] },
  { name := "CTX_LATE", base := CTX_LATE 0, dims := [(4096, 0x100)], wide := true, perf := false, flds := [CTX_LATE_COUNT] },
  { name := "CTX_PARKS", base := CTX_PARKS 0, dims := [(4096, 0x100)], wide := true, perf := false, flds := [CTX_PARKS_COUNT] }]

/-- The rows of block Sob. -/
def regRowsSob : List RegRow := [
  { name := "SYN_OBJ_COUNT", base := SYN_OBJ_COUNT 0, dims := [(65536, 0x20)], wide := true, perf := false, flds := [SYN_OBJ_COUNT_F] },
  { name := "SYN_OBJ_TARGET", base := SYN_OBJ_TARGET 0, dims := [(65536, 0x20)], wide := true, perf := false, flds := [SYN_OBJ_TARGET_F] },
  { name := "SYN_OBJ_DEADLINE", base := SYN_OBJ_DEADLINE 0, dims := [(65536, 0x20)], wide := true, perf := false, flds := [SYN_OBJ_DEADLINE_F] },
  { name := "SYN_OBJ_CONTROL", base := SYN_OBJ_CONTROL 0, dims := [(65536, 0x20)], wide := true, perf := false, flds := [SYN_OBJ_CONTROL_OWNER, SYN_OBJ_CONTROL_WAITERS, SYN_OBJ_CONTROL_PARTITION, SYN_OBJ_CONTROL_OWNER_VALID, SYN_OBJ_CONTROL_FROZEN, SYN_OBJ_CONTROL_MISSED, SYN_OBJ_CONTROL_ARMED, SYN_OBJ_CONTROL_GRANTED] }]

end Sys2Proof.Machine
end

