-- ==== Sys2Proof/Machine/StBase.lean ====
section
/-! DEFINITION. State records of the chip as a whole: event log, error handling, atelier core, pins and straps
(chapters 1, 20 and 21). -/

namespace Sys2Proof.Machine

/-- The atelier core (R21 to R24): running, restarting in service-restart mode, or halted (R703). -/
inductive Atelier where
  | running | restarting | halted
deriving DecidableEq, Repr

/-- One entry of the event log (R705), and whether its SEQ word has been read (R706). -/
structure LogEntry where
  seq : Nat
  tick : Nat
  code : Nat
  sev : Nat
  escalated : Bool
  kind : Nat
  unit : Nat
  count : Nat
  detail : Nat
  read : Bool
deriving DecidableEq, Repr

/-- An error in handling (R700): its unit, its severity, and the word, context or domain whose action ends the period. -/
structure Handling where
  kind : Nat
  unit : Nat
  sev : Nat
  key : Nat
deriving DecidableEq, Repr

/-- An escalated error whose action of Table 20-8 is still to be taken (R701). -/
structure Escalation where
  kind : Nat
  unit : Nat
  sev : Nat
deriving DecidableEq, Repr

/-- Why an access is parked (R247): no backing for a frame (R101), a frame being restored or migrated (R107, R109), an X
word being fetched from the partner (R607), the pair not serving (R617), a sync count not reached (R419), a line of a
coherent window in a transaction or held (R450), merge-queue or row lock waits, a panel or engine not free, or a domain not
powered (R556, R671), all unit tags of a thread out (R384). -/
inductive ParkCause where
  /-- `off`: the extent offset of the first byte of the access there. -/
  | backing (extent frame off : Nat)
  | frame (extent frame off : Nat)
  | fetch (word : Nat)
  | pair
  | sync (obj : Nat) (value : Nat)
  | line (extent offset : Nat)
  | rowLock (table row : Nat)
  | engine
  | remote (tag : Nat)
  | power (domain : Nat)
  /-- Every unit tag of the thread is out (R384). -/
  | unit
  /-- No shadow slot of the table is free (R267). -/
  | slot (table : Nat)
  /-- A rebuild runs, and the RECAST of the table yields to it (R216). -/
  | rebuild (table : Nat)
deriving DecidableEq, Repr

/-- The chip as a whole. DESIGN CHOICE, assumption 5 (safe). -/
structure GlbSt where
  /-- The 1 GHz time base, ns since power-on (`GLB_TIME`). -/
  now : Nat
  /-- The first FATAL has stopped the data path (R703). -/
  dataStopped : Bool
  /-- A second FATAL has stopped the chip (R703). -/
  chipStopped : Bool
  atelier : Atelier
  /-- When the last service restart ended (R24). -/
  restartEnd : Option Nat
  handling : List Handling
  toAct : List Escalation
  /-- The event log by index: sequence number modulo 4,096 (R705). -/
  log : AMap LogEntry
  /-- The I²C register pointer, the latched high half (register address and value), and the bytes last read (R693). -/
  i2cPtr : Nat
  i2cLatch : Option (Nat × Nat)
  i2cData : Nat
  /-- The model's own counter of free draws: no register shows it. -/
  draws : Nat
deriving DecidableEq, Repr

/-- Pins and straps (R717, R718, R719, R608, R55, R703). An active-low output is true when it is asserted.
DESIGN CHOICE, assumption 86 (safe). -/
structure PinSt where
  /-- PWR_GOOD is high. -/
  pwrGood : Bool
  /-- RESET_N is asserted. -/
  resetAsserted : Bool
  /-- TICK_OUT is high. -/
  tickOut : Bool
  thermAlert : Bool
  thermTrip : Bool
  fault : Bool
  /-- PAIR_ROLE = PRIMARY, RING_ROLE and I2C_ADDR at the pins; sampled copies below. -/
  pairRolePin : Bool
  ringRolePin : Bool
  i2cAddrPin : Nat
  ringRole : Bool
  i2cAddr : Nat
  pairRole : Bool
  /-- Sensors that are less than 5 °C below their alert threshold, or above (R718). -/
  alerting : List Nat
  /-- Reference clocks that have stopped (R716): 0 SYSREF, 1 + p SDS_REFCLK[p]. -/
  stoppedClocks : List Nat
deriving DecidableEq, Repr

end Sys2Proof.Machine
end

