-- ==== Sys2Proof/Machine/StSec.lean ====
section
/-! DEFINITION. State records of fuses, partitions, keys and attestation (chapter 18). No path reads
a key out (R629). -/

namespace Sys2Proof.Machine

/-- The fuses (Table 18-3). SVN_MIN is kept as the number of its set bits. -/
structure Fuses where
  uds : Nat
  serial : Nat
  vendorKh : Nat
  ownerKh : Option Nat
  svnMin : Nat
deriving DecidableEq, Repr

/-- A loaded link key slot (R635, R641): its owner, 0 to 15 or 255 for NONE; after a replacement, until when the old key still verifies;
and its AES-256 key. -/
structure KeySlot where
  owner : Nat
  oldUntil : Option Nat
  key : BitVec 256
deriving DecidableEq, Repr

/-- An attestation request that waits for the signing unit (R645): who asked, the scope and the nonce. -/
structure AttestReq where
  src : Src
  scope : Nat
  nonce : Nat
deriving DecidableEq, Repr

structure SecSt where
  fuses : Fuses
  slots : AMap KeySlot
  /-- NONCEs of reports issued, with the time of issue in ns (R638). -/
  nonces : List (Nat × Nat)
  attest : List AttestReq
  /-- Memory keys held, by partition: the number of the first of the eight draws that made it (R644). The ML-KEM key pair of this start
  (R629). -/
  memKeys : AMap Nat
  kemKey : Nat
  /-- Partition key-encryption keys (R625, R638). -/
  keks : AMap (BitVec 256)
  /-- The identity keys that the signing unit holds: the Ed25519 seed and the ML-DSA-65 private key (R628, R629). -/
  edSeed : BitVec 256
  mldsaKey : Nat
deriving DecidableEq, Repr

end Sys2Proof.Machine
end

