-- ==== Sys2Proof/Machine/StBoot.lean ====
section
/-! DEFINITION. State records of start-up, the flash, power domains, operating points and check units (chapter 19). -/

namespace Sys2Proof.Machine

/-- The accepted flash header (Table 19-3). -/
structure FlashHdr where
  flags : Nat
  readCmd : Nat
  dummy : Nat
  clockMhz : Nat
  mib : Nat
  imageOff : Nat
  imageLen : Nat
  configOff : Nat
  configLen : Nat
  certOff : Nat
  certLen : Nat
deriving DecidableEq, Repr

/-- A change of operating point (R666): none, waiting for the voltage of a point to settle, or for the PLL to lock on one. -/
inductive OpStep where
  | idle
  | settle (op : Nat)
  | lock (op : Nat)
deriving DecidableEq, Repr

/-- What a power domain holds beside its registers (R669 to R672): the target of the entry under way, the target that follows the
transition under way, the requests to answer with the target each asked for, a release that waits for ON, and whether it wakes
from OFF. -/
structure DomX where
  goal : Nat
  next : Option Nat
  asked : List (Src × Nat)
  release : Bool
  fromOff : Bool
deriving DecidableEq, Repr

/-- The MANAGEMENT section in force (Table 19-4), and the LINK key pairs that MGMT_KEY_ESTABLISH may be signed under (R639). -/
structure MgmtCfg where
  keys : List (Nat × Nat)
  ep : Nat
  paths : List PathDef
  sideband : Nat
deriving DecidableEq, Repr

/-- Start-up, flash and power. -/
structure BootSt where
  /-- Flash bytes that are not erased: an unlisted byte reads 0xFF (R658). -/
  flash : AMap Byte
  hdr : Option FlashHdr
  cfg : Option ConfigDef
  mgmt : MgmtCfg
  /-- The retained body of the running image, and the certificates (R664), as loaded. -/
  image : List Byte
  /-- When step 1 began, in ns. -/
  start : Nat
  doms : AMap DomX
  op : OpStep
  /-- QUIESCE under way: who asked, and when the drain time ends (R675). -/
  quiesce : Option Src
  drainEnd : Nat
  drained : Bool
  /-- A warm reset follows the reply to RECOVERY_RESTART, or a write of WARM_RESET: its cause. -/
  restart : Option Nat
  /-- JTAG: the instruction in force (0 IDCODE, 1 BYPASS, 2 SAMPLE/PRELOAD, 3 EXTEST), what its data register captured, and the
  boundary cells (R630, R720). -/
  jtag : Nat
  jtagData : Nat
  extest : List Bool
  /-- The message that last left by the sideband port: MOP, RESULT and fields of a reply (R662, R688), or a neighbour
  advertisement. -/
  sbSent : List Nat
deriving DecidableEq, Repr

end Sys2Proof.Machine
end

