-- ==== Sys2Proof/Machine/Numfmt0.lean ====
section
/-! DEFINITION. The value type and rounding modes of chapter 4, which the state holds in accumulators and queues. -/

namespace Sys2Proof.Machine

/-- The rounding modes of Table 4-7 (R146). -/
inductive Round where
  | even | zero | stoch
deriving DecidableEq, Repr

/-- An exact value: a dyadic number with a sign, an infinity, or NaN. `ofl` marks an accumulator at infinity that got there
only through overflow of finite terms (R168). -/
inductive FVal where
  | nan
  | inf (neg ofl : Bool)
  | fin (neg : Bool) (m : Nat) (e : Int)
deriving DecidableEq, Repr

end Sys2Proof.Machine
end

