-- ==== Sys2Proof/Machine/StMem.lean ====
section
/-! DEFINITION. State records of pool memory: the stacks' contents, the pseudo-channel queues (chapter 15), the write-back
records and correction counts (chapter 16), and redundancy, rebuild and the pointing pair (chapter 17). -/

namespace Sys2Proof.Machine

/-- The contents of the stacks. `cells` holds the data bytes by physical byte address (see `physByte`); a byte not listed
reads as zero, which is what the fill of R579 leaves. `delta` holds, by physical word, the difference between the 32 check
bits stored and the code's checks of the data stored: zero, and not listed, for a codeword (R559). -/
structure Mem where
  cells : List Host.Cell
  delta : AMap W32
deriving DecidableEq, Repr

/-- A place of a backing frame (R585): a run of P data addresses, or the first group address on one stack; an M frame has its
second copy on the mirror stack (R592). Units are bytes. -/
inductive Loc where
  | p (addr : Nat)
  | m (stack addr : Nat)
  | x (stack addr : Nat)
  | n (stack addr : Nat)
deriving DecidableEq, Repr

/-- A run of free frames of a partition, in units of 2 MiB: a run of P data, or of group addresses on one stack (R585). -/
structure FreeRun where
  /-- `none` for P data, else the stack. -/
  stack : Option Nat
  first : Nat
  count : Nat
deriving DecidableEq, Repr

/-- What a pending write-back of R565 stores. -/
inductive WbKind where
  | corrected | poison | recovered
deriving DecidableEq, Repr

/-- A write-back that waits for a housekeeping entry (R565), with the data and whether a scrub read found the word. -/
structure WbRec where
  kind : WbKind
  data : List Byte
  scrub : Bool
deriving DecidableEq, Repr

/-- An entry of a read queue (R541): its burst, its place in the order of entry, whether housekeeping, and whether a scrub
read. -/
structure RdEnt where
  order : Nat
  bank : Nat
  row : Nat
  col : Nat
  hk : Bool
  scrub : Bool
deriving DecidableEq, Repr

/-- An entry of a write queue (R541, R546): its burst, order, time of entry and whether the row tracker holds its row. -/
structure WrEnt where
  order : Nat
  bank : Nat
  row : Nat
  col : Nat
  hk : Bool
  since : Nat
  tracked : Bool
deriving DecidableEq, Repr

/-- An entry of the row tracker (R546). -/
structure TrackEnt where
  bank : Nat
  row : Nat
  writes : Nat
deriving DecidableEq, Repr

/-- A request waiting at the armature port for a queue entry (R542): a read, or a write with the words of its burst. -/
structure PortReq where
  write : Bool
  bank : Nat
  row : Nat
  col : Nat
  hk : Bool
  scrub : Bool
  word0 : Option (List Byte)
  word1 : Option (List Byte)
deriving DecidableEq, Repr

/-- The state of a pseudo-channel's queues (R541 to R555). Its mode is `MEM_PC_STATUS.MODE`. -/
structure PcQueue where
  reads : List RdEnt
  writes : List WrEnt
  port : List PortReq
  tracker : List TrackEnt
  /-- Banks IN_ORDER, with the order number of the last read that made a match (R547). -/
  inOrder : AMap Nat
  /-- The open row of each bank, and consecutive open-row reads served while an older read waits (R544). -/
  openRow : AMap Nat
  streak : AMap Nat
  /-- When each bank may next be activated (Table 15-1), and until when a refresh occupies it (R550). -/
  nextAct : AMap Nat
  refreshEnd : AMap Nat
  nextOrder : Nat
  /-- Neighbour refreshes queued: bank and row (R552). -/
  neighbour : List (Nat × Nat)
  /-- Refresh and neighbour-refresh commands of this tick (R551). -/
  refreshes : Nat
deriving DecidableEq, Repr

/-- A pseudo-channel's scrub (R575, R576): rows done in the pass and when the pass began. -/
structure ScrubSt where
  done : Nat
  passStart : Nat
deriving DecidableEq, Repr

/-- A control word that Salsin keeps in a staging store (Table 16-4): plinth `plinth`'s replica of a translation entry, a word of a
work ring, a context's entry, a sync object, a directory entry by line, a patina count of a table, or a log entry by place. -/
inductive CtrlWord where
  | trans (plinth extent frame : Nat)
  | ring (ctx index : Nat)
  | context (ctx : Nat)
  | sync (object : Nat)
  | line (key : Nat)
  | patina (table count : Nat)
  | event (index : Nat)
deriving DecidableEq, Repr

/-- How a stored control word differs from a codeword, by the class that a reader gives it (Table 16-2). -/
inductive CtrlErr where
  | fine | corrected | poisoned | uncorrectable
deriving DecidableEq, Repr

/-- Memory controllers and the integrity machinery. -/
structure MemSt where
  /-- Queues by pseudo-channel: stack × 32 + pseudo-channel. -/
  pcs : AMap PcQueue
  scrub : AMap ScrubSt
  /-- Write-backs waiting, by physical word. -/
  wb : AMap WbRec
  /-- Corrections by (stack × 32 + pseudo-channel) × 64 + symbol in the running period (R567). -/
  lane : AMap Nat
  /-- Corrections this tick by store: stack s at s, plinth p's staging store at 16 + p (R567). -/
  corrected : AMap Nat
  /-- The next pseudo-channel of the retraining turn, as stack × 32 + pseudo-channel, and the ones at its head (R554). -/
  turn : Nat
  turnHead : List Nat
  /-- Stack temperature at the last successful training, by pseudo-channel (R554). -/
  trainTemp : AMap Nat
  /-- Pseudo-channels being retrained. -/
  training : List Nat
  /-- Channel groups as configured are `MEM_GROUP`; frames free, by partition (R585), and frames on the fill list (R96). -/
  pool : AMap (List FreeRun)
  fill : AMap (List FreeRun)
  /-- Stacks that a fill has still to reach (R579, R580). -/
  unfilled : List Nat
  /-- Control words in error that no reader has met (R566). -/
  ctrl : List (CtrlWord × CtrlErr)
  /-- Frames, as extent × 2^16 + frame, whose translation entry no replica gives (Table 16-4). -/
  lostFrames : List Nat
deriving DecidableEq, Repr

/-- The step of Table 17-7 under way. -/
inductive KeyStep where
  | idle | guard | settle
deriving DecidableEq, Repr

/-- A mirrored write whose answer is outstanding (R605, R606), or one held by a standby until its turn (R605). -/
structure Replica where
  extent : Nat
  frame : Nat
  fseq : Nat
  offset : Nat
  data : List Byte
  poisons : List Bool
  tick : Nat
  /-- The op tag of the operation whose write it is (R605). -/
  owner : Nat
  /-- The op tag of the REPLICA message once it has been sent. -/
  sent : Option Nat
  /-- A frame's copy (R618), which sets the frame sequence. -/
  copy : Bool := false
deriving DecidableEq, Repr

/-- Redundancy, rebuild and the pointing pair. -/
structure PairSt where
  /-- A rebuild has run since the chip's start (R594). -/
  rebuilt : Bool
  /-- The rebuild's place: words rebuilt or passed, and whether a step is running (R595, R596). -/
  rebuildStep : Bool
  /-- Next row of the spare watch (R600). -/
  watchRow : Nat
  /-- The state before TAKING (Table 17-9). -/
  before : Nat
  step : KeyStep
  dataValid : Bool
  synced : Bool
  /-- Frame sequences by extent × 2^16 + frame (R605). -/
  fseq : AMap Nat
  early : List Replica
  outstanding : List Replica
  /-- Frames to copy (R606, R618) and lost frames (R616), as extent × 2^16 + frame. -/
  dirty : List Nat
  copied : List Nat
  lost : List Nat
  /-- Next frame of the verify turn (R619). -/
  verifyTurn : Nat
  /-- Alive counter sent, and last taken (R612). -/
  aliveTx : Nat
  aliveRx : Option Nat
  /-- Ticks in a row without an intact health word; whether one came in the running tick (R613). -/
  missed : Nat
  heard : Bool
  /-- A PAIR_PROMOTE and a PAIR_RELEASE to reply to (R616, R611). -/
  promoting : Option Src
  releasing : Option Src
  /-- Last tick in which a DEFERRED or higher event or a verify mismatch occurred (R612). -/
  badTick : Option Nat
  /-- X words, by physical word, whose fetch from the partner is under way (R607); and those of a stack out of service that the
  partner has sent, with whether they are poisoned. -/
  fetching : List Nat
  got : AMap (List Byte × Bool)
  /-- X words of the running rebuild step that are written, by physical word of the failed stack (R595). -/
  rebuildGot : List Nat
  /-- The loss of the partner has been acted on (R613). -/
  lostActed : Bool
  /-- Digests of the holder that wait for writes before them (R619): extent, offset, FSEQ and value. -/
  digests : List (Nat × Nat × Nat × Nat)
  /-- Ticks since the chip became a ring MEMBER, up to 3 (R620). -/
  memberTicks : Nat
  /-- When the step of Table 17-7 under way began. -/
  stepSince : Nat
  /-- A collision's retry at this time (R620). -/
  retryAt : Option Nat
  /-- Entries of PAIR_TABLE: a pair ID and its two members (Table 17-2). -/
  table : List (Nat × Nat × Nat)
  /-- The op tag of the operation that runs, 2^64 for none: the model's own record. -/
  opTag : Nat
  /-- Spare stack's PHY is awake for a watch (R600). -/
  watchAwake : Bool
deriving DecidableEq, Repr

end Sys2Proof.Machine
end

