-- ==== Sys2Proof/Machine/StExt.lean ====
section
/-! DEFINITION. State records of extents, frames, leases and regions (chapter 3). -/

namespace Sys2Proof.Machine

inductive ExtState where
  | active | withdrawing | withdrawn
deriving DecidableEq, Repr

inductive FrameState where
  | unbacked | resident | compressed | decompressing | migrating
deriving DecidableEq, Repr

/-- A stack word kept in a compressed frame (R104): its index in the frame, its data and whether it is poisoned. -/
structure PackedWord where
  idx : Nat
  data : List Byte
  poisoned : Bool
deriving DecidableEq, Repr

/-- A frame entry (R90, R103 to R112). An extent lists only entries that differ from that of an untouched frame. -/
structure Frame where
  st : FrameState
  loc : Option Loc
  /-- Where a migration copies the frame to (R109). -/
  dest : Option Loc
  cold : Bool
  incompressible : Bool
  compressing : Bool
  packed : List PackedWord
  chunks : Nat
  count : Nat
  disarmed : Bool
  /-- A PREFETCH restores it: its entry goes into all four caches once it is RESIDENT (R113). -/
  prefetched : Bool := false
deriving DecidableEq, Repr

/-- An extent that is not FREE (R84 to R86). -/
structure Extent where
  st : ExtState
  partition : Nat
  owner : Nat
  large : Bool
  size : Nat
  quota : Nat
  cls : RedClass
  readable : Bool
  writable : Bool
  compressible : Bool
  hotNotice : Bool
  frames : AMap Frame
  subscribers : List Nat
  /-- Frames that DISCARD and migration released, waiting for quarantine (Table 3-5). -/
  released : List Loc
  /-- The withdrawal waits for a quarantine record (R97). -/
  deferred : Bool
  /-- EXT_NO_BACKING has been logged in the running tick (R101). -/
  noBackingLogged : Bool
  /-- Class a migration goes to, while one is under way (R109). -/
  migrateTo : Option RedClass
deriving DecidableEq, Repr

/-- A quarantine record (R96): the extent, the op tags of its snapshot still live, the frames, its age in ticks. -/
structure Quarantine where
  extent : Nat
  tags : List Nat
  frames : List (Nat × Bool × Loc)
  age : Nat
deriving DecidableEq, Repr

/-- A lease (R115): duration in ms and expiry time in ns. -/
structure Lease where
  ms : Nat
  expiry : Nat
deriving DecidableEq, Repr

/-- A region (R118). -/
structure Region where
  extent : Nat
  offset : Nat
  len : Nat
  version : Nat
  digest : Nat
deriving DecidableEq, Repr

/-- A remote-extent cache entry (chapter 3, R92): the route's direction and whether the extent is withdrawn. -/
structure RemoteExt where
  chip : Nat
  extent : Nat
  dir : Nat
  withdrawn : Bool
deriving DecidableEq, Repr

/-- An INVALIDATE that this chip passed on for its sender and has not yet acknowledged (R92): a management request, or the op
tag of an ADVISE DISCARD; its fields, and the copies still out. -/
structure InvalOut where
  src : Option Src
  req : Option Nat
  body : List Nat
  out : Nat
deriving DecidableEq, Repr

structure ExtSt where
  exts : AMap Extent
  quarantine : List Quarantine
  /-- Withdrawals without a record, in order (R97). -/
  waiting : List Nat
  /-- Translation caches: extent × 2^16 + frame, per plinth, newest first (R89). -/
  tcache : AMap (List Nat)
  remote : List RemoteExt
  invals : List InvalOut
  /-- Withdrawals that wait for a quarantine record, with who is to be answered (R97). -/
  withdrawers : List (Nat × Src)
  /-- INVALIDATEs that a deferred withdrawal at the home holds back: extent, direction and fields. -/
  heldInval : List (Nat × Nat × List Nat)
  /-- INVALIDATEs of which the home has applied one copy and has not met the other. -/
  invalSeen : List (List Nat)
  leases : AMap Lease
  regions : AMap Region
  /-- Accesses that have been translated and wait for their words: op tag, extent, offset and length (R94). -/
  translated : List (Nat × Nat × Nat × Nat) := []
  /-- Hot notices sent this tick (R112). -/
  hotSent : Nat
deriving DecidableEq, Repr

end Sys2Proof.Machine
end

