-- ==== Sys2Proof/Machine/StWork.lean ====
section
/-! DEFINITION. State records of contexts and works (chapter 6), tables and recast (chapter 5), carving engines (chapter 9)
and expert batches (chapter 8). -/

namespace Sys2Proof.Machine

/-! ### Contexts and works -/

/-- A whole descriptor of a work ring, not yet taken (R231, R232): its pointer, its words as taken, the tick of the doorbell
that end-marked it (R234), and, for a header that R232 refuses, the status it completes with and whether its header could be
read. -/
structure WholeDesc where
  ptr : Nat
  words : Nat
  tick : Nat
  refused : Option Status
  detail : W64
  readable : Bool
  /-- The header's 64 bytes as the walk read them, zeros when it could not be read. -/
  hdr : List Byte
  /-- It missed its deadline in the ring (R70). -/
  missed : Bool
  /-- The port of the doorbell that made it whole (R27). -/
  port : Nat := 0
deriving DecidableEq, Repr

/-- What a context holds beside its CTX entry. -/
structure CtxX where
  /-- Whole descriptors between the read pointer and the last end mark, oldest first (R227). -/
  whole : List WholeDesc
  /-- End of the last whole descriptor (R231). -/
  walk : Nat
  /-- A flush is pending, and the works in flight at its flush point that have not completed (R242). -/
  flushPending : Bool
  flushing : List Nat
  /-- SEQ of the last work taken (R235). -/
  lastSeq : Nat
  /-- Deficit of the round robin, in ns (R248). -/
  deficit : Int
  /-- The tick set (R268 to R270): rows read under TICK, table × 2^32 + row, each with the number of its read in the context. -/
  tickSet : AMap Nat
  reads : Nat
  /-- Works of the context that missed their deadline in this tick (R71). -/
  missed : Nat
deriving DecidableEq, Repr

/-- Where a work in flight stands. -/
inductive WorkPhase where
  /-- Taken and waiting for PRE_SYNC's count (R239). -/
  | preWait
  /-- A slice is ready or, with `running`, running. -/
  | ready
  | running
  | parked (cause : ParkCause)
  /-- Its status is decided; its last writes may be outstanding (R28). -/
  | ended
  /-- Its completion record has been sent (R29). -/
  | recorded
deriving DecidableEq, Repr

/-- What earlier tries of a work's step have come to: remote data fetched over the ring, or the status of a remote write (R31, R520):
pool pointer, length, bytes and poison; a failure gives a status. For a write of this chip's memory, the parts left for want of
backing, offset and length, with the data while some are left, and the first poisoned word met (R101, R572). -/
structure Fetched where
  ptr : W64
  len : Nat
  write : Bool
  data : List Byte
  poisons : List Bool
  status : Status
  rest : List (Nat × Nat) := []
  hit : Option Nat := none
deriving DecidableEq, Repr

/-- State of an EXPERT_ROUTE assignment (Table 8-8). -/
inductive AssignSt where
  | computed | agent | dropped | failed | notDone | none_
deriving DecidableEq, Repr

/-- An assignment of a routed token: expert, status, selected gate, applied gate, and, while an entry is out, its number. -/
structure Assign where
  expert : Nat
  st : AssignSt
  gate : Nat
  out : Bool
  sent : Nat
deriving DecidableEq, Repr

/-- A token of an EXPERT_ROUTE that has been routed (R327): its assignments and its combine slot, the FP32 contributions. -/
structure RouteTok where
  tok : Nat
  assigns : List Assign
  /-- The combine slot: assignment index and the FP32 values of gate × y received for it. -/
  combine : List (Nat × List FVal)
  poisoned : Bool
  done : Bool
deriving DecidableEq, Repr

/-- The program that runs a work (R402, R406, R409): its slot (partition × 256 + slot), image, sizes, entry point, instances,
window, arguments and trap-record address; whether it is the rule of a ROW_UPDATE, with that step's rows. -/
structure ProgRun where
  slot : Nat
  image : W64
  codeBytes : Nat
  saveBytes : Nat
  entry : Nat
  insts : Nat
  window : Nat
  args : W64
  trap : Option W64
  /-- Instances started, instances ended, and the sum of their counts (R404, R405). -/
  next : Nat
  ended : Nat
  count : Nat
  /-- A trap of an instance stops the others at their next STEP (R394). -/
  stopping : Bool
  /-- RULE PROGRAM: the rows of the step that waits for its instance, and whether it has one. -/
  isRule : Bool
  ruleRows : List Nat
deriving DecidableEq, Repr

/-- A work in flight (R245): its key is (context, number of the work among those taken by the context). -/
structure Work where
  ctx : Nat
  num : Nat
  desc : List Byte
  /-- Header fields (Table 6-4). -/
  opcode : Nat
  flags : Nat
  length : Nat
  seq : Nat
  deadline : Nat
  sync0 : Nat
  sync1 : Nat
  syncEn : Nat
  preSync : Nat
  preValue : Nat
  user : W64
  /-- Tick a of R68, op tag (R25, R94), and the time order in which it was taken. -/
  tick : Nat
  tag : Nat
  phase : WorkPhase
  started : Bool
  /-- No sync object is incremented (R232, R238). -/
  noSync : Bool
  step : Nat
  /-- The first failure met (R254), its DETAIL, and whether the work has stopped. -/
  status : Option Status
  detail : W64
  count : Nat
  sat : Bool
  late : Bool
  nonfin : Bool
  stoch : Bool
  /-- Item status codes that are not NOT_DONE (R263). -/
  items : AMap Nat
  /-- Distinct rows already counted (R280, R285). -/
  rows : List Nat
  fetched : List Fetched
  /-- Result writes not yet acknowledged (R28). -/
  unacked : Nat
  /-- Updates that wait in a merge queue (R208). -/
  queued : Nat
  /-- The engine a slice of it holds (R356). -/
  engine : Option Nat
  /-- Routed tokens of EXPERT_ROUTE, and its count of routing steps done. -/
  route : AMap RouteTok
  /-- Ticks waited at a park (R101). -/
  waited : Nat
  /-- Result address of the item status array, when STATUS_EN is set, and the number of items (R263). -/
  statusAddr : Option W64
  nItems : Nat
  /-- Result address of the assignment record and its entries per token (R326), or of a RECAST's progress record (R203). -/
  recordAddr : Option W64
  perItem : Nat
  /-- Bytes of its window in the staging store (R381). -/
  winBytes : Nat
  /-- Bytes of window it still waits for at dispatch (R381). -/
  winNeed : Nat
  prog : Option ProgRun
  /-- Its completion record is delayed by a full completion ring (R251). -/
  recordHeld : Bool
  /-- The port of its doorbell (R27), and whether a park made it give up its engine, so that it redoes its step (R357). -/
  port : Nat := 0
  redo : Bool := false
  /-- Rows that the running slice has read (R268), and the context's read number when the work started (R269). -/
  sliceRows : List Nat := []
  readsAt : Nat := 0
  /-- It has ended, and its last writes wait for its queued updates (R28, R208). -/
  owes : Bool := false
  /-- The cluster on which the slice of a built-in work runs (R27, R407). -/
  cluster : Option Nat := none
deriving DecidableEq, Repr

/-! ### Tables (chapter 5) -/

inductive PlanState where
  | none | committed | running | halted | stopped | done
deriving DecidableEq, Repr

inductive RowState where
  | prepared | flipped | copying
deriving DecidableEq, Repr

/-- A row in the row-state window (Table 5-7): its state, its shadow slot, and its new scales, elements and flags. -/
structure RowWin where
  st : RowState
  slot : Nat
deriving DecidableEq, Repr

/-- A merge-queue entry (R210): kind ADD or SET, one block of a row, the values under its mask, and the writer. -/
structure MqEntry where
  row : Nat
  block : Nat
  add : Bool
  vals : List (Option FVal)
  round : Round
  fitted : Bool
  ctx : Nat
  work : Nat
  /-- The positions whose update it carries (R280). -/
  items : List Nat
  /-- The error of its words in the staging store (R566). -/
  err : CtrlErr
deriving DecidableEq, Repr

/-- A plan as a commit sets it (R192, R196). -/
structure PlanSet where
  mode : Nat
  headroom : Nat
  round : Round
  firstRow : Nat
  rowCount : Nat
  ptr : W64
deriving DecidableEq, Repr

/-- A table (Table 5-1) with what the patina unit keeps and its plan. -/
structure Table where
  partition : Nat
  extent : Nat
  elemOff : Nat
  rows : Nat
  rowLen : Nat
  fmt : Nat
  planeA : Nat
  planeB : Nat
  epoch : Nat
  stats : Nat
  shadow : Nat
  hbase : Int
  sources : Nat
  rate : Nat
  mqDepth : Nat
  /-- Statistics (R185 to R188), and drops attributed since the last clear (Table 5-5). -/
  hist : AMap Nat
  zeros : Nat
  nonfinite : Nat
  written : Nat
  ovf : Nat
  unf : Nat
  drops : Nat
  /-- The plan (R191 to R193, Table 5-10). -/
  plan : PlanState
  planNo : Nat
  mode : Nat
  headroom : Nat
  planRound : Round
  firstRow : Nat
  rowCount : Nat
  planPtr : W64
  nextRow : Nat
  poisonRow : Nat
  /-- Plans committed under SUPERSEDE while a step of the running one is under way: the last replaces it at its step boundary, and
  each counts in the plan number (R191, R197). -/
  pend : List PlanSet
  /-- A recast step has begun whose boundary is still to come. -/
  stepOpen : Bool
  window : AMap RowWin
  freeSlots : List Nat
  /-- Rows of the running step, in order, that are not yet HOME again; those abandoned are taken again (R211). -/
  stepRows : List Nat
  again : List Nat
  stepEnd : Nat
  /-- Slots whose redirect still serves a read (R207). -/
  heldSlots : List Nat
  mq : List MqEntry
  mqPeak : Nat
  /-- Rows whose lock a RULE PROGRAM step holds (R288). -/
  locked : List Nat
  /-- The live RECAST: context and number of the work; rows it flipped, skipped, and may still take. -/
  recast : Option (Nat × Nat)
  flippedBy : Nat
  skippedBy : Nat
  takenBy : Nat
deriving DecidableEq, Repr

/-! ### Carving engines (chapter 9) -/

/-- A tile slot (Table 9-3): element values are kept as stored bits; poison of elements or scale by row, and of metadata. -/
structure TileSlot where
  elems : List Nat
  scales : List Nat
  metas : List W64
  col : Nat
  nonfin : Bool
  poison : Bool
  rowPoison : List Bool
deriving DecidableEq, Repr

/-- A pane (R345): the object's format and sparsity, and its tile slots by lane × 512 + k; rows poisoned by the bitmap or
the index. -/
structure Pane where
  fmt : Nat
  s : Nat
  slots : AMap TileSlot
  lanePoison : List Bool
  cols : Nat
deriving DecidableEq, Repr

/-- An activation slot (R347): format code, element bits, scale, flags. -/
structure ActSlot where
  fmt : Nat
  elems : List Nat
  scale : Nat
  zero : Bool
  nonfin : Bool
  poison : Bool
deriving DecidableEq, Repr

/-- An accumulator (R348): an FP32 value with the overflow mark, and POISON. -/
structure AccSlot where
  val : FVal
  poison : Bool
deriving DecidableEq, Repr

/-- An engine: who holds it, its operand store, commands under way, and ticks with uncorrectable errors (R362). -/
structure Engine where
  holder : Option (Nat × Nat)
  panes : AMap Pane
  /-- Activation slots by token × 2^16 + block, and blocks per token. -/
  acts : AMap ActSlot
  accs : AMap AccSlot
  /-- The partition's 16 codebooks as loaded, 32 bytes each (Table 9-2). -/
  cbCache : List Byte
  /-- Cached codebooks whose word reads as poisoned. -/
  cbBad : List Nat := []
  /-- COLS of the object of the last LOAD_PANE. -/
  lastCols : Nat
  /-- Commands under way, oldest first: identifier and block (R350). -/
  busy : List (Nat × List Byte)
  /-- Words with an error, by operand-store byte address: whether it is uncorrectable (R359). -/
  badWords : AMap Bool
  /-- Ticks in which an uncorrectable error was recorded (R362). -/
  errTicks : List Nat
deriving DecidableEq, Repr

/-! ### Expert batches (chapter 8) -/

/-- An entry of a batch B(I, t) (R327, R329): x̃ as encoded blocks, gate, and who sent it. -/
structure BatchEnt where
  fromChip : Nat
  ctx : Nat
  work : Nat
  tok : Nat
  slot : Nat
  tag : Nat
  part : Nat
  quant : Nat
  /-- x̃: element bits and scales of its blocks. -/
  elems : List Nat
  scales : List Nat
  gate : Nat
  /-- The op tag of this chip that an entry from another chip holds (R95). -/
  own : Option Nat := none
deriving DecidableEq, Repr

/-- A batch by image and tick of acceptance. -/
structure Batch where
  image : W64
  tick : Nat
  /-- Entries whose token group has not started. -/
  ents : List BatchEnt
  /-- Entries refused in this tick were logged (R329). -/
  fullLogged : Bool
  /-- The image's header, once the batch's first step has read it (R330). -/
  hdr : Option (List Byte)
  /-- Its step has parked and is to be made again (R357); its partition's works do not wait for it. -/
  parked : Bool := false
deriving DecidableEq, Repr

/-- The state of works. -/
structure WorkSt where
  ctx : AMap CtxX
  /-- Works in flight by context × 2^64 + number. -/
  flight : AMap Work
  /-- Live op tags of works, requests and rasp programs (R94), and the next tag. -/
  tags : List Nat
  nextTag : Nat
  tables : AMap Table
  engines : AMap Engine
  batches : List Batch
  /-- Expert batch compute of the running tick by partition, ns (R56, R248, R330). -/
  batchNs : AMap Nat := []
  /-- Active codebooks, by codebook, as 16 FP16 patterns; the shadows are the registers (R141). -/
  codebooks : AMap (List Nat)
deriving DecidableEq, Repr

end Sys2Proof.Machine
end

