-- ==== Sys2Proof/Machine/StNet.lean ====
section
/-! DEFINITION. State records of messages, sessions, queue pairs and ports (chapter 13), the ring and scheduling (chapter 14),
and sync objects (chapter 11). -/

namespace Sys2Proof.Machine

/-! ### Messages to send -/

/-- Where a message goes: on a session, to an agent, to the fabric manager, to the neighbour of a ring direction, or to the
sideband port. -/
inductive Peer where
  | session (s : Nat)
  | agent (id : Nat)
  | fm
  | dir (d : Nat)
  | sideband
deriving DecidableEq, Repr

/-- A message that the chip sends: its TYPE of Tables 13-8 and 14-2, class, context (65,535 for none), its fields in the
order of its layout, and its data. `work` names the work whose result it carries, with whether it is the completion record;
`xid` is the XID of the request that it answers, and `tag` the op tag that retires once it is acknowledged (R484). `transit` says
that it is on its way through this member (R520), whose packets keep their place in the message that they are of: `part` is the
offset of the data and the length of the whole message's. -/
structure OutMsg where
  dst : Peer
  type : Nat
  cls : Nat
  ctx : Nat
  body : List Nat
  data : List Byte
  work : Option (Nat × Nat × Bool)
  xid : Option Nat := none
  tag : Option Nat := none
  transit : Bool := false
  part : Option (Nat × Nat) := none
deriving DecidableEq, Repr

/-! ### Sessions (R467 to R484) -/

inductive SessSt where
  | closed | opened | hold | lost
deriving DecidableEq, Repr

/-- A path (R467, R469): logical port, next-hop MAC, VLAN, remote address and UDP port; consecutive timeouts on it. -/
structure Path where
  port : Nat
  sub : Nat
  mac : Nat
  vlan : Nat
  ip : Nat
  udp : Nat
  up : Bool
  timeouts : Nat
deriving DecidableEq, Repr

/-- A packet of a message being sent (R476, R479): its message, offset and payload bytes, the path of its last copy, its SEQ
once a copy has been transmitted, how many copies have, the time of the last one, the doublings of its timer, and whether a
retransmission of it is due. -/
structure TxPkt where
  uid : Nat
  off : Nat
  bytes : Nat
  path : Nat
  seq : Nat
  sent : Nat
  lastSent : Nat
  doublings : Nat
  due : Bool
deriving DecidableEq, Repr

/-- A message being sent: its number on the session, which is its XID when it is a request of the chip, the message, and its
unacknowledged packets. -/
structure TxMsg where
  uid : Nat
  msg : OutMsg
  left : Nat
deriving DecidableEq, Repr

/-- A message being received in several packets (R485): the landed parts by offset. -/
structure RxAsm where
  xid : Nat
  /-- The partition that the message is of, 16 when it is of none (R649). -/
  part : Nat
  parts : List (Nat × List Byte)
deriving DecidableEq, Repr

/-- Credits of one class (R481 to R483): the normal and replay allowances of the peer's receive buffers and of this chip's;
what this chip has spent of each and learned as released; and what it has released to the peer. -/
structure Credits where
  allow : Nat
  rallow : Nat
  used : Nat
  rused : Nat
  freed : Nat
  rfreed : Nat
  given : Nat
  rgiven : Nat
deriving DecidableEq, Repr

structure Session where
  st : SessSt
  remote : Nat
  epoch : Nat
  peerKey : Nat
  paths : List Path
  txSeq : Nat
  rxBase : Nat
  /-- Landed sequence numbers beyond rxBase. -/
  landed : List Nat
  /-- Landings since the last acknowledgement, and the time of the first of them (R477). -/
  sinceAck : Nat
  firstUnacked : Nat
  /-- By class: request, response, management. -/
  credits : List Credits
  /-- Receive credits taken from the plinth's pool (R468). -/
  rxCredits : Nat
  nextUid : Nat
  txPkts : List TxPkt
  txMsgs : List TxMsg
  asm : List RxAsm
  /-- Requests of this chip whose REPLY has not landed: XID, TYPE, and the message. -/
  asked : List (Nat × OutMsg)
  /-- When the grace timer ends, in HOLD (R495). -/
  graceEnd : Nat
  /-- Work writes held at LOST (Table 13-13). -/
  held : List OutMsg
deriving DecidableEq, Repr

/-- A queue pair (R499). -/
structure Qp where
  partition : Nat
  owner : Nat
  port : Nat
  sub : Nat
  mac : Nat
  vlan : Nat
  ip : Nat
  remoteQpn : Nat
  sendPsn : Nat
  expPsn : Nat
  pmtu : Nat
  dataKey : W32
  doorKey : W32
  ackExp : Nat
  retry : Nat
  error : Bool
  lastStatus : Nat
  /-- RDMA WRITEs of the chip as requester that are not acknowledged: first PSN, the PSN after it, message, tries left, and
  when it was last sent. -/
  writes : List (Nat × Nat × OutMsg × Nat × Nat)
  /-- A multi-packet RDMA WRITE under way: the next address, R_Key, bytes still due, and the bytes taken. -/
  wr : Option (W64 × W32 × Nat × List Byte)
  /-- When the last CNP was sent (R505). -/
  lastCnp : Option Nat
deriving DecidableEq, Repr

/-! ### Ports (R462 to R465, R528 to R534) -/

/-- What a frame's headers carry beside the fields of `EgFrame`: next-hop MAC, VLAN ID (0 for no tag), remote address and the
UDP ports (R464, R471), and of the Frieze header (Table 13-4) CLASS, ENC, SRC_EP, DST_EP, EPOCH, ACK_BASE, ACK_MAP, the three
counts of released credits, FIRST and LAST, with the key slot and the NONCE_CTR that the payload is encrypted under (R473). -/
structure FrameHead where
  mac : Nat := 0
  vlan : Nat := 0
  ip : Nat := 0
  udpSrc : Nat := 0
  udpDst : Nat := 0
  cls : Nat := 0
  enc : Bool := false
  srcEp : Nat := 0
  dstEp : Nat := 0
  epoch : Nat := 0
  ackBase : Nat := 0
  ackMap : Nat := 0
  crReq : Nat := 0
  crRsp : Nat := 0
  crMgt : Nat := 0
  first : Bool := true
  last : Bool := true
  key : Nat := 0
  nonce : Nat := 0
deriving DecidableEq, Repr

/-- A frame that waits at a port or is being sent. `strict` is the first level of R528; `flow` numbers the flow of R529 and
`weight` is its weight; `len` is the frame length of R530; `pri` the priority of PFC. -/
structure EgFrame where
  sub : Nat
  strict : Bool
  flow : Nat
  weight : Nat
  len : Nat
  dscp : Nat
  type : Nat
  ctx : Nat
  session : Nat
  seq : Nat
  xid : Nat
  off : Nat
  retx : Bool
  transit : Bool
  body : List Nat
  data : List Byte
  head : FrameHead := {}
deriving DecidableEq, Repr

/-- A policer (R533): its registers of Table 14-7 in order from POL_CTRL to POL_DROPPED, its buckets in units of one byte
over 8,000, and the time of the last refill. -/
structure Policer where
  regs : List W64
  tc : Nat
  tp : Nat
  time : Nat
deriving DecidableEq, Repr

structure PortSt where
  queue : List EgFrame
  /-- F_last by flow, and the tag of each head: the tag that a flow's head packet has (R530). -/
  last : AMap Nat
  head : AMap Nat
  /-- The frame being transmitted. -/
  sending : Option EgFrame
  /-- Priorities paused by a received PFC frame, until a time. -/
  paused : AMap Nat
  policers : AMap Policer
deriving DecidableEq, Repr

/-! ### The ring (chapter 14, and the tick messages of chapter 2) -/

/-- A heartbeat heard (R39, R43, R46, R526): candidate priority, alive counter, count, membership, and the ticks in which it
was last heard by direction. -/
structure Heard where
  priority : Nat
  candidate : Bool
  alive : Nat
  count : Nat
  state : Nat
  thisTick : Bool
  lastTick : Bool
  absent : Nat
  /-- Heard in this tick by direction. -/
  dirs : List Nat
deriving DecidableEq, Repr

/-- A forwarded request without a reply (R520, R522): op tag, destination, direction, the tick in which it was sent, whether
it was sent once more, and whether its class lets it be. `who` and `kind` say who asked: 0 a work, 1 a session's request, 2 a
queue pair's request, 3 an expert entry, 4 a rasp thread, 5 a replica write, 6 a replica fetch, 7 a coherence message, 8 a
context's record. -/
structure Fwd where
  tag : Nat
  dst : Nat
  dir : Nat
  sentTick : Nat
  resent : Bool
  idem : Bool
  draining : Bool
  who : Nat × Nat × Nat
  kind : Nat
  part : Nat
  ctx : Nat
  type : Nat
  body : List Nat
  data : List Byte
deriving DecidableEq, Repr

structure RingSt where
  /-- The member list of the route version in force: chip and the state of its eastward link. -/
  members : List (Nat × Nat)
  /-- Destinations draining (R518): chip and the direction being left. -/
  draining : List (Nat × Nat)
  /-- Requests that wait for a drain. -/
  held : List OutMsg
  /-- Credits not released while the transit queue is full (R520): ring session, credits, and whether a retransmitted copy. -/
  transitHeld : List (Nat × Nat × Nat × Bool)
  drainedSent : Nat
  /-- Neighbour named by the HELLO of each ring port. -/
  hello : AMap Nat
  heard : AMap Heard
  alive : Nat
  fwds : List Fwd
  /-- JOINING: whether a neighbour HELLO has come, and since when. -/
  joinSince : Nat
  atStart : Bool
  /-- At the master: JOIN_REQUESTs collected at start (R514), and members that reported RING_DRAINED with the version. -/
  requests : List (Nat × Nat)
  collectUntil : Option Nat
  drained : List Nat
  /-- RING_PREPARE under way: chip, west, east, and the version awaited; and who asked. -/
  prepare : Option (Nat × Nat × Nat × Nat)
  preparer : Option Src
  /-- Delay in ns of the link by which what travels in a direction arrives, measured as the ring was joined there (R40). -/
  linkNs : AMap Nat := []
deriving DecidableEq, Repr

/-! ### The tick (chapter 2) -/

/-- The slave clock of IEEE 1588 (R53): the two-step Sync that awaits its Follow_Up (sequence, arrival and correction), the last
Sync's origin plus correction less arrival, the mean path delay, the delay request that is out (sequence, time sent), the two-step
Pdelay_Resp that awaits its follow-up (sequence, receipt of the request, arrival and correction), and the next sequence number. -/
structure PtpSt where
  sync : Option (Nat × Nat × Int) := none
  last : Option Int := none
  delay : Option Int := none
  req : Option (Nat × Nat) := none
  resp : Option (Nat × Nat × Nat × Int) := none
  seq : Nat := 0
deriving DecidableEq, Repr

structure TickSt where
  /-- Boundary expected next, and the last one, ns. -/
  next : Nat
  last : Nat
  /-- A TICK for the next tick has been taken: its count, and the master and priority that it names (R40, R47). -/
  got : Option (Nat × Nat × Nat)
  /-- The holdover episode has been logged (R42). -/
  episode : Bool
  /-- Budgets in force (R57). -/
  budget0 : W32
  budget1 : W32
  /-- What R63 takes from the allotments of the running tick, in ns: recast, scrub, retraining, rebuild. -/
  cut : List Nat
  /-- Housekeeping time used in this tick, ns, in the same order. -/
  used : List Nat
  /-- The second grid (R52): what added to the time base gives a whole number of seconds at a second. With PTP it is PTP time
  less the time base. -/
  grid : Option Int
  /-- The reference has stopped (R54). -/
  refLost : Bool
  /-- The longest circuit that has come back in this tick (R76). -/
  circuit : Option Nat
  /-- TICKs that this master has sent, with the time of each, newest first. -/
  sent : List (Nat × Nat) := []
  /-- This chip is elected, and is the master from its next boundary on (R43). -/
  elected : Bool := false
  /-- The slave clock of IEEE 1588 (R53). -/
  ptp : PtpSt := {}
deriving DecidableEq, Repr

/-! ### Sync objects (chapter 11) -/

/-- A waiter (R419, R421): who waits, for which value, and whether it holds a wait entry. -/
structure Waiter where
  who : ParkRef
  value : Nat
  entry : Bool
deriving DecidableEq, Repr

/-- A granted sync object. -/
structure SyncObj where
  count : Nat
  target : Nat
  deadline : Nat
  partition : Nat
  owner : Nat
  ownerValid : Bool
  frozen : Bool
  missed : Bool
  armed : Bool
  /-- Its words were uncorrectable: every operation fails POISONED until it is freed and granted anew (R566). -/
  poisoned : Bool
  waiters : List Waiter
deriving DecidableEq, Repr

structure SyncSt where
  objs : AMap SyncObj
  /-- Increments of works out of flight that are on their way to the object's home plinth: object and partition (R29, R415). -/
  sent : List (Nat × Nat)
  /-- Plinths whose full pool refused an entry in this tick, once for each refusal (R421). -/
  fullLogged : List Nat
  /-- Threads and requests released by a count, to be resumed. -/
  released : List ParkRef
deriving DecidableEq, Repr

/-- A REPLY's fields (R488), and the data of a READ with the poison of its words from the first byte's offset. -/
structure Rep where
  status : Status := .done
  count : Nat := 0
  detail : W64 := 0
  value : W64 := 0
  value2 : W64 := 0
  data : List Byte := []
  off : Nat := 0
  poisons : List Bool := []
deriving DecidableEq, Repr

/-- Whom a request came from: a session under an XID, a queue pair with a PSN, or the origin chip of a FORWARD with its op
tag there. -/
inductive From where
  | session (s xid : Nat)
  | qp (q psn : Nat)
  | chip (id tag : Nat)
deriving DecidableEq, Repr

/-- A request that this chip serves under an op tag (R484): whom it came from, its partition and context, what it asks, what
it waits for (R247), and its reply once that is decided and waits for the partner (R605). -/
structure Request where
  tag : Nat
  sender : From
  ctx : Nat
  part : Nat
  type : Nat
  body : List Nat
  data : List Byte
  cause : Option ParkCause
  waited : Nat
  reply : Option Rep
  /-- The port that carried its last packet (R27). -/
  port : Nat := 0
deriving DecidableEq, Repr

structure NetSt where
  out : List OutMsg
  sessions : AMap Session
  /-- EPOCH last used by each session (R468). -/
  epochs : AMap Nat
  qps : AMap Qp
  ports : AMap PortSt
  requests : List Request
  /-- Landed requests that no op tag was free for (R484), oldest first: the request, the class and credits of its packets
  that are not released, and whether each was a retransmitted copy. -/
  stalled : List (Request × List (Nat × Nat × Bool))
  /-- Op tags of management requests that have no reply yet: endpoint, XID and tag. -/
  mgmtTags : List (Nat × Nat × Nat)
  /-- Latest queue pair of each RDMA context's doorbell (R504), and held writes. -/
  doorQp : AMap Nat
  heldRdma : AMap (List OutMsg)
  /-- RESULT_WRITEs of which every packet is acknowledged: context, work, and whether it is the record (R491); and works
  whose record is acknowledged (R29). -/
  ackedWrites : List (Nat × Nat × Bool)
  ackedRecords : List (Nat × Nat)
  /-- NONCE_CTR by key slot (R473). -/
  nonce : AMap Nat
  /-- Management requests that were taken before a restart of the atelier and are owed a reply no longer (R23). -/
  lost : List Src := []
deriving DecidableEq, Repr

/-! ### Coherence (chapter 12) -/

/-- A transaction on a BUSY line (R443, R448, R449): GET_S or GET_M of a member, the recall of a line for its directory entry
or its member, or an uncached read or write of the home. -/
inductive TxKind where
  | getS (r tid : Nat)
  | getM (r tid : Nat)
  | recall
  | homeRead
  | homeWrite
deriving DecidableEq, Repr

/-- What a BUSY line waits for: INV_ACKs of members, or the answer of its owner; whether a crossing's PUT_M (R453) or EVICTED
has come; and when the last message that awaits an answer was sent. -/
structure CohTx where
  kind : TxKind
  invs : List Nat
  snooped : Option Nat
  putCame : Bool
  evictedCame : Bool
  since : Nat
deriving DecidableEq, Repr

/-- A directory entry (R439): the domain, the sharers or the owner, the time of the last grant and its grantee, the reservation
with the time of the member's last request, and the transaction under way. -/
structure CohLine where
  domain : Nat
  owner : Option Nat
  sharers : List Nat
  grant : Option Nat
  grantee : Nat
  resv : Option (Nat × Nat)
  busy : Option CohTx
deriving DecidableEq, Repr

inductive DomState where
  | up | draining | down
deriving DecidableEq, Repr

/-- A coherence domain that is not FREE (R433, Table 12-17). -/
structure Domain where
  st : DomState
  partition : Nat
  /-- Agent and context by member index. -/
  members : AMap (Nat × Nat)
  /-- Windows: extent, offset and length. -/
  windows : List (Nat × Nat × Nat)
  cause : Nat
  dead : Option Nat
  poisoned : Nat
  downAt : Nat
  /-- Members being removed (R437), with the XID and session of the request. -/
  removing : List (Nat × Src)
deriving DecidableEq, Repr

structure CohSt where
  domains : AMap Domain
  /-- Entries by line: extent × 2^29 + offset / 128. -/
  lines : AMap CohLine
  /-- Accesses of this chip that wait at a line (R450): the line and who waits. -/
  claims : List (Nat × ParkRef)
  /-- Domains that are to go DOWN: the cause and the dead member. -/
  toDown : List (Nat × Nat × Option Nat)
deriving DecidableEq, Repr

end Sys2Proof.Machine
end

