-- ==== Sys2Proof/Machine/StRasp.lean ====
section
/-! DEFINITION. State records of the rasp cores (chapter 10): threads, their scratch, windows, programs and bindings. -/

namespace Sys2Proof.Machine

/-- A unit command outstanding (R384): its tag, its place in the cluster's order of posting, the block, FMT as it was posted,
and, once ended, the result and its poison. -/
structure UnitCmd where
  tag : Nat
  order : Nat
  block : List Byte
  fmt : Nat
  result : Option (W64 × Bool)
deriving DecidableEq, Repr

/-- What a thread that runs an instance waits for (R365, R366, R383, R384, R389, R390, R396). -/
inductive ThreadWait where
  | ready
  | parked (cause : ParkCause)
  /-- A pool load of 8 bytes into a scalar register or 64 into a vector register under a mask; whether remote data came. -/
  | load (wide : Bool) (dest : Nat) (ptr : W64)
  /-- Waits for its unit and engine commands: UWAIT of a tag, CEWAIT of an identifier, or all of them. -/
  | unit (tag : Nat)
  | engine (id : Nat)
  | fence
deriving DecidableEq, Repr

/-- A hardware thread that runs an instance. Thread number 4n + THREAD for core RC(n). Poison bits of registers are numbers:
bit i for s-register i, bits 2i and 2i + 1 for the halves of v-register i. -/
structure Thread where
  ctx : Nat
  num : Nat
  inst : Nat
  pc : Nat
  s : List W64
  v : List W512
  m : List W64
  sp : Nat
  vp : Nat
  fmt : W64
  dvprev : W64
  poisonOut : Nat
  wait : ThreadWait
  units : List UnitCmd
  /-- The engine held, identifiers of its commands still under way, and whether it was taken away at a park (R389). -/
  engine : Option Nat
  cmds : List Nat
  nextCmd : Nat
  lost : Bool
  /-- Data that a remote access brought: pointer, bytes, poison and status. -/
  fetched : List Fetched
  /-- The same for the accesses of its unit and engine commands. -/
  background : List Fetched
  waited : Nat
  /-- The active codebooks of a slice that a tick boundary has overtaken (R141). -/
  books : Option (AMap (List Nat)) := none
deriving DecidableEq, Repr

/-- A store kept in words of 32 bytes: the bytes that are not zero, the poisoned words, and words that hold an error a read
has still to find: whether it is uncorrectable. -/
structure Area where
  bytes : AMap Byte
  bad : List Nat
  err : AMap Bool
deriving DecidableEq, Repr

/-- A yielded instance (R396): its registers, the first SAVE_BYTES of its scratch, and the tick in which it yielded. -/
structure SavedInst where
  thread : Thread
  scratch : Area
  tick : Nat
deriving DecidableEq, Repr

/-- A registered program (R399, R400): image, header fields, and its measurement in six words. -/
structure ProgSlot where
  image : W64
  flags : Nat
  codeBytes : Nat
  saveBytes : Nat
  entries : List Nat
  digest : List W64
deriving DecidableEq, Repr

/-- A binding of an opcode (R408). -/
structure Bind where
  slot : Nat
  insts : Nat
  window : Nat
deriving DecidableEq, Repr

/-- A work's window (R381): the descriptor's copy and the work area. -/
structure Win where
  desc : List Byte
  area : Area
deriving DecidableEq, Repr

/-- A line of an instruction cache (R364, R391): its address in lines, its 64 bytes, and the marks of its two words. -/
structure ILine where
  line : Nat
  bytes : List Byte
  bad : List Bool
deriving DecidableEq, Repr

structure RaspSt where
  /-- Threads that run an instance, by hardware thread. -/
  threads : AMap Thread
  /-- Scratch of each hardware thread (R379, R380). -/
  scratch : AMap Area
  /-- Instruction caches of the cores (R364): at most 512 lines each. -/
  icache : AMap (List ILine)
  /-- The next place in the order of posted unit commands (R387). -/
  nextOrder : Nat
  saved : List SavedInst
  slots : AMap ProgSlot
  /-- Bindings by partition × 64 + opcode. -/
  binds : AMap Bind
  windows : AMap Win
  /-- Ticks in which a cluster recorded uncorrectable scratch errors (R398). -/
  errTicks : AMap (List Nat)
  /-- Contexts for which RSP_TRAP was logged in this tick (R394). -/
  trapLogged : List Nat
deriving DecidableEq, Repr

end Sys2Proof.Machine
end

