-- ==== Sys2Proof/Machine/StCore.lean ====
section
/-! DEFINITION. The state of the chip but for its stacks' contents and its queue of commands. -/

namespace Sys2Proof.Machine

/-- The chip: its registers by address, and the state that no register holds, by chapter. -/
structure Core where
  regs : AMap W64
  glb : GlbSt
  pins : PinSt
  mem : MemSt
  pair : PairSt
  ext : ExtSt
  work : WorkSt
  rasp : RaspSt
  sec : SecSt
  boot : BootSt
  sync : SyncSt
  coh : CohSt
  net : NetSt
  ring : RingSt
  tck : TickSt
deriving DecidableEq, Repr

end Sys2Proof.Machine
end

