-- ==== Sys2Proof/Machine/Ops.lean ====
section
/-! DEFINITION. The named operations on registers and memory. A meaning works on `M`: the state of the chip and the contents
of its stacks. -/

namespace Sys2Proof.Machine
open Sys2Proof

/-! ### Registers -/

/-- The stored value of the register at address `a`. -/
def Core.rget (c : Core) (a : Nat) : W64 := amGet c.regs a 0

/-- The state with register `a` holding `v`. -/
def Core.rset (c : Core) (a : Nat) (v : W64) : Core := { c with regs := amPut 0 c.regs a v }

/-- Field `f` of register `a` (R5). -/
def Core.fld (c : Core) (a : Nat) (f : Fld) : Nat := bitsOf (c.rget a).toNat f.hi f.lo

/-- A one-bit field read as a truth value. -/
def Core.flag (c : Core) (a : Nat) (f : Fld) : Bool := c.fld a f == 1

/-- The state with field `f` of register `a` holding `v`. -/
def Core.setFld (c : Core) (a : Nat) (f : Fld) (v : Nat) : Core :=
  c.rset a (BitVec.ofNat 64 (setBits (c.rget a).toNat f.hi f.lo v))

/-- A 64-bit count advanced by `n` (R708). -/
def Core.count (c : Core) (a : Nat) (n : Nat := 1) : Core := c.rset a (c.rget a + BitVec.ofNat 64 n)

/-- A field advanced by `n` that stays at its greatest value. -/
def Core.satFld (c : Core) (a : Nat) (f : Fld) (n : Nat := 1) : Core :=
  c.setFld a f (satAdd (f.hi - f.lo + 1) (c.fld a f) n)

/-- The value of a performance counter advanced by `n`: COUNT modulo 2^48, and OVF set by a wrap (R696). -/
def perfAdd (v : W64) (n : Nat) : W64 :=
  let k := v.toNat % 2 ^ 48 + n
  let ovf := if bitOf v.toNat 63 || 2 ^ 48 ≤ k then 2 ^ 63 else 0
  BitVec.ofNat 64 (ovf + k % 2 ^ 48)

/-- A performance counter advanced by `n` (R696, R697): COUNT is modulo 2^48, a wrap sets OVF, and nothing advances while
PERF_FREEZE is 1. -/
def Core.perf (c : Core) (a : Nat) (n : Nat := 1) : Core :=
  if c.flag GLB_CTRL GLB_CTRL_PERF_FREEZE then c else c.rset a (perfAdd (c.rget a) n)

/-- A fresh free draw. -/
def Core.draw (c : Core) : Core × Nat :=
  ({ c with glb := { c.glb with draws := c.glb.draws + 1 } }, c.glb.draws)

/-- The characters of a label as bytes. -/
def ascii (s : String) : List Byte := s.toList.map (fun ch => BitVec.ofNat 8 ch.toNat)

/-- A choice of the device among `n` outcomes, `n` not 0 (R4). DESIGN CHOICE, assumption 7 (safe). -/
def Core.choose (c : Core) (n : Nat) : Core × Nat :=
  if n ≤ 1 then (c, 0) else let (c, k) := c.draw; (c, Config.choice k % n)

/-- The running tick count (R38). -/
def Core.tick (c : Core) : Nat := (c.rget TCK_COUNT).toNat

/-- This chip's ID. -/
def Core.chipId (c : Core) : Nat := c.fld GLB_CHIP GLB_CHIP_CHIP_ID

/-- Time never runs back: the time base takes a later time from the command. DESIGN CHOICE, assumption 5 (safe). -/
def Core.at (c : Core) (t : Nat) : Core := { c with glb := { c.glb with now := max c.glb.now t } }

/-- A message joins those the chip has to send. -/
def Core.send (c : Core) (m : OutMsg) : Core := { c with net := { c.net with out := c.net.out ++ [m] } }

/-! ### Units and plinths (R14, R705) -/

def stackReg (f : Nat → Nat → Nat) (n : Nat) : Nat := f (n / 4) (n % 4)
def pcReg (f : Nat → Nat → Nat → Nat) (n pc : Nat) : Nat := f (n / 4) (n % 4) pc

def stackState (c : Core) (n : Nat) : Nat := c.fld (stackReg MEM_STATUS n) MEM_STATUS_STATE

/-- A stack is out of service: FAILED, or on a fenced base die (R32). -/
def stackBad (c : Core) (n : Nat) : Bool :=
  stackState c n == 5 || bitOf (c.fld GLB_FENCED GLB_FENCED_BASE) (n / 4)

/-- The base die of plinth `p` is fenced. -/
def baseFenced (c : Core) (p : Nat) : Bool := bitOf (c.fld GLB_FENCED GLB_FENCED_BASE) p

/-- The plinth of a port: fabric port n on n / 3, ring port n on n − 12 (R14). -/
def portPlinth (n : Nat) : Nat := if n < 12 then n / 3 else n - 12

/-- The plinths of pair link l: (0,1), (0,2), (0,3), (1,2), (1,3), (2,3) (Table 16-10). -/
def linkPlinths : Nat → Nat × Nat
  | 0 => (0, 1)
  | 1 => (0, 2)
  | 2 => (0, 3)
  | 3 => (1, 2)
  | 4 => (1, 3)
  | _ => (2, 3)

/-! ### The memory of a command -/

/-- What a meaning works on: the chip and the contents of its stacks. -/
structure M where
  core : Core
  mem : Mem
deriving DecidableEq, Repr

/-- An operation on the chip alone. -/
def M.on (m : M) (f : Core → Core) : M := { m with core := f m.core }

/-- The canonical form of sparse memory: keys rise strictly and nothing listed reads as an unlisted place does. -/
def Mem.wf (m : Mem) : Bool := amCanon (0 : Byte) m.cells && amCanon (0 : W32) m.delta

/-- The entries of a collection, inserted one by one from the last. -/
def amNorm {α : Type} [DecidableEq α] (d : α) (m : AMap α) : AMap α := m.foldr (fun e t => amPut d t e.1 e.2) []

/-- A memory in canonical form; a canonical memory is itself. -/
def Mem.norm (m : Mem) : Mem := { cells := amNorm 0 m.cells, delta := amNorm 0 m.delta }

/-- A byte of the stacks by physical byte address. DESIGN CHOICE, assumption 10 (unsafe). -/
def Mem.byte (m : Mem) (a : Nat) : Byte := amGet m.cells a 0

def Mem.setByte (m : Mem) (a : Nat) (b : Byte) : Mem := { m with cells := amPut 0 m.cells a b }

/-- The 32 data bytes of physical word `w`. -/
def Mem.word (m : Mem) (w : Nat) : List Byte := (List.range 32).map (fun i => m.byte (w * 32 + i))

/-- The difference between the stored checks of word `w` and the code's checks of its stored data (R559).
DESIGN CHOICE, assumption 10 (unsafe). -/
def Mem.checks (m : Mem) (w : Nat) : W32 := amGet m.delta w 0

def Mem.setBytes (m : Mem) (a : Nat) : List Byte → Mem
  | [] => m
  | b :: t => (m.setByte a b).setBytes (a + 1) t

/-- Word `w` with the given data and difference of checks. -/
def Mem.setWord (m : Mem) (w : Nat) (data : List Byte) (d : W32) : Mem :=
  { m.setBytes (w * 32) (padTo 32 0 data) with delta := amPut 0 (m.setBytes (w * 32) (padTo 32 0 data)).delta w d }

/-- Every word from `lo` up to `hi`, not included, holds the zero codeword. -/
def Mem.clear (m : Mem) (lo hi : Nat) : Mem :=
  { cells := m.cells.filter (fun e => !(lo * 32 ≤ e.1 && e.1 < hi * 32)),
    delta := m.delta.filter (fun e => !(lo ≤ e.1 && e.1 < hi)) }

/-- Physical words of a stack: stack × 2^32 + the word address of chapter 16 (pseudo-channel 31:27, bank 26:21, row 20:5,
column 4:1, word 0). -/
def physWord (stack pc bank row col w : Nat) : Nat :=
  stack * 2 ^ 32 + pc * 2 ^ 27 + bank * 2 ^ 21 + row * 2 ^ 5 + col * 2 + w

def physStack (w : Nat) : Nat := w / 2 ^ 32
def physPc (w : Nat) : Nat := w / 2 ^ 27 % 32
def physAddr (w : Nat) : Nat := w % 2 ^ 32

/-- The coordinates of group address `g` in a channel group of 2^k pseudo-channels from `base` (R540, Table 15-2): the word
address within a stack. -/
def groupWord (base k g : Nat) : Nat :=
  let w := g / 32 % 2
  let colLow := g / 64 % 4
  let ch := g / 256 % 2 ^ k
  let colHigh := g / 2 ^ (8 + k) % 4
  let bankField := g / 2 ^ (10 + k) % 64
  let row := g / 2 ^ (16 + k)
  physWord 0 (base + ch) (bankField ^^^ (row % 64)) row (4 * colHigh + colLow) w

/-- Partition q's channel group: whether configured, first pseudo-channel and log2 of the count (R538). -/
def groupOf (c : Core) (q : Nat) : Bool × Nat × Nat :=
  let a := MEM_GROUP 0 0 q
  (c.flag a MEM_GROUP_VALID, c.fld a MEM_GROUP_BASE, c.fld a MEM_GROUP_LOG2)

/-- The physical word of group address `g` of partition `q` on stack `n`. -/
def placeWord (c : Core) (q n g : Nat) : Nat :=
  let (_, base, k) := groupOf c q
  n * 2 ^ 32 + groupWord base k g

end Sys2Proof.Machine
end

