-- ==== Sys2Proof/Machine/Ecc.lean ====
section
/-! DEFINITION. The 256-bit code (R558 to R563): arithmetic in GF(2^8), the check symbols and the decoding of Table 16-2. -/

namespace Sys2Proof.Machine
open Sys2Proof

/-- Multiplication by α = 0x02 in GF(2^8) over 0x11D (R558). -/
def gfDouble (a : Byte) : Byte := if a.getLsbD 7 then (a <<< 1) ^^^ 0x1D else a <<< 1

/-- The product in GF(2^8), from `n` bits of `b`. -/
def gfMulN : Nat → Byte → Byte → Byte
  | 0, _, _ => 0
  | n + 1, a, b => (if b.getLsbD 0 then a else 0) ^^^ gfMulN n (gfDouble a) (b >>> 1)

def gfMul (a b : Byte) : Byte := gfMulN 8 a b

/-- α^k. -/
def gfPow : Nat → Byte
  | 0 => 1
  | k + 1 => gfDouble (gfPow k)

/-- One step of the division by g(x): the remainder's coefficients from x^0 to x^3 and the next lower coefficient. -/
def eccStep (r : Byte × Byte × Byte × Byte) (d : Byte) : Byte × Byte × Byte × Byte :=
  let (r0, r1, r2, r3) := r
  (gfMul r3 0x40 ^^^ d, r0 ^^^ gfMul r3 0x78, r1 ^^^ gfMul r3 0x36, r2 ^^^ gfMul r3 0x0F)

/-- Four check symbols as one word: c_k in bits 8k+7 to 8k. -/
def packChecks (r : Byte × Byte × Byte × Byte) : W32 := r.2.2.2 ++ r.2.2.1 ++ r.2.1 ++ r.1

/-- The check symbols of 32 data bytes: d(x) mod g(x) (R559). -/
def checksOf (data : List Byte) : W32 :=
  packChecks (((padTo 32 0 data).reverse ++ [0, 0, 0, 0]).foldl eccStep (0, 0, 0, 0))

/-- Check symbol k. -/
def checkSym (w : W32) (k : Nat) : Byte := (w >>> (8 * k)).setWidth 8

/-- The syndrome S_i of a word whose stored checks differ from its code's checks by `d` (R562). -/
def syndrome (d : W32) (i : Nat) : Byte :=
  checkSym d 0 ^^^ gfMul (checkSym d 1) (gfPow i) ^^^ gfMul (checkSym d 2) (gfPow (2 * i)) ^^^
    gfMul (checkSym d 3) (gfPow (3 * i))

/-- The poison mask M of R568, c_0 in the low byte. -/
def poisonMask : W32 := 0xE2593CA7

/-- The position of a single-symbol syndrome, if the syndrome of difference `d` is one (R562). -/
def singleSym (d : W32) : Option Nat :=
  let s := syndrome d
  if s 0 = 0 then none
  else (List.range 36).find? (fun k =>
    s 1 = gfMul (gfPow k) (s 0) && s 2 = gfMul (gfPow k) (s 1) && s 3 = gfMul (gfPow k) (s 2))

/-- The classes of Table 16-2. -/
inductive WordClass where
  | clean
  | poisoned
  | corrected (sym : Nat) (err : Byte)
  | uncorrectable
deriving DecidableEq, Repr

/-- Table 16-2: the first row that applies decides. -/
def classify (d : W32) : WordClass :=
  if d = 0 then .clean
  else if d = poisonMask then .poisoned
  else match singleSym d with
    | some k => .corrected k (syndrome d 0)
    | none => match singleSym (d ^^^ poisonMask) with
      | some _ => .poisoned
      | none => .uncorrectable

/-- The data delivered for a CORRECTED word: symbol k replaced by r_k XOR S_0. -/
def correctData (data : List Byte) (sym : Nat) (err : Byte) : List Byte :=
  if sym < 4 then data else listMod data (sym - 4) (· ^^^ err)

def xorBytes (a b : List Byte) : List Byte := List.zipWith (· ^^^ ·) a b

def zeroWord : List Byte := List.replicate 32 0

/-! ### The flip mask (R581) and control words (R566) -/

/-- The flip mask: 32 data bytes and four check symbols (R581). -/
def flipMask (c : Core) : List Byte × W32 :=
  ((List.range 8).flatMap (fun i => natLe 4 (c.rget (ECC_FLIP_MASK i)).toNat), (c.rget (ECC_FLIP_MASK 8)).setWidth 32)

/-- The armed flip mask counts a write to address `addr` of unit `unit` of a store coded as ECC_FLIP_CTRL.KIND (R581). -/
def flipHits (c : Core) (kind unit addr : Nat) : Bool :=
  c.flag ECC_FLIP_CTRL ECC_FLIP_CTRL_ARMED && c.fld ECC_FLIP_CTRL ECC_FLIP_CTRL_KIND == kind &&
  c.fld ECC_FLIP_CTRL ECC_FLIP_CTRL_UNIT == unit &&
  (!c.flag ECC_FLIP_CTRL ECC_FLIP_CTRL_MATCH || c.fld ECC_FLIP_ADDR ECC_FLIP_ADDR_F == addr)

/-- Where a word lies in the staging store no rule says: only a flip mask without MATCH strikes it. -/
def noAddr : Nat := 2 ^ 60

/-- A control word is written in plinth `p`'s staging store: an armed mask that names the store strikes it, and ARMED clears
(R581). -/
def struck (c : Core) (p : Nat) : Core × CtrlErr :=
  if flipHits c 1 p noAddr then
    let (dm, cm) := flipMask c
    let c := c.setFld ECC_FLIP_CTRL ECC_FLIP_CTRL_ARMED 0
    match classify (cm ^^^ checksOf dm) with
    | .clean => (c, .fine)
    | .corrected _ _ => (c, .corrected)
    | .poisoned => (c.count ECC_POISON_WRITTEN, .poisoned)
    | .uncorrectable => (c, .uncorrectable)
  else (c, .fine)

/-- The error of a control word, if it has one. -/
def ctrlErr (c : Core) (w : CtrlWord) : CtrlErr := ((c.mem.ctrl.find? (fun x => x.1 == w)).map (·.2)).getD .fine

/-- A control word's error is gone: it has been met, or the word is written anew. -/
def ctrlMend (c : Core) (w : CtrlWord) : Core :=
  if c.mem.ctrl.any (fun x => x.1 == w) then
    { c with mem := { c.mem with ctrl := c.mem.ctrl.filter (fun x => x.1 != w) } }
  else c

/-- Control word `w` of plinth `p` is written (R566, R581). DESIGN CHOICE, assumption 96 (unsafe). -/
def wroteCtrl (p : Nat) (w : CtrlWord) (c : Core) : Core :=
  match struck (ctrlMend c w) p with
  | (c, .fine) => c
  | (c, e) => { c with mem := { c.mem with ctrl := c.mem.ctrl ++ [(w, e)] } }

end Sys2Proof.Machine
end

