-- ==== Sys2Proof/Machine/Events.lean ====
section
/-! DEFINITION. Events (R699 to R707): the codes of Table 20-9, the event log, escalation and FATAL. -/

namespace Sys2Proof.Machine
open Sys2Proof

/-- The events of Table 20-9 that are logged; the refusal reasons are `MgmtCode`. -/
inductive Ev where
  | regReservedWrite | ctxCountSaturated | armFlitCorrected | armFlitPoisoned | armLinkFailed
  | atlWatchdog | atlWatchdogRepeat | atlImageMismatch | plinthFenced | tickHoldover
  | tickMasterChange | tickJump | tickInRejected | tickReferenceLost | tickConfigFallback
  | tickBudgetRejected | tickOverrun | tickOverrunEscalated | bootHeaderBad | bootSignatureBad
  | bootOwnerBlank | bootConfigBad | bootLoadPoison | pwrRefused | pwrWatchFailed
  | extInvalidateRejected | extQuarantineFull | extNoBacking | extLeaseExpired | secKeyRefused
  | synRejected | synWaitPoolFull | synDeadlineMissed | synPoisoned | cohDomainDown
  | ctxDoorbellRejected | ctxRingReset | ctxPoisoned | deadlineMissed | expertBatchFull
  | expertBatchLate | pairStripeUnprotected | pairReconstructFailed | pairMirrorFailed | pairRebuildStart
  | pairRebuildDone | pairRebuildStopped | pairSpareFailed | pairOutOfSync | pairKeyCollision
  | pairKeyTaken | pairDualKey | pairPartnerLost | pairVerifyMismatch | calMergeOverflow
  | calRecastPoison | eccCorrected | eccUncorrected | eccLaneSuspect | eccScrubBehind
  | memTrainFailed | memStackFailed | ceOsUncorrected | ceFenced | rspTrap
  | rspFenced | rspIcacheRefetch | ringCableMismatch | ringJoinRefused | ringJoinFailed
  | ringDuplicateId | ringLinkDown | ringMemberLost | ringUnreachable | ringReserveExceeded
deriving DecidableEq, Repr

/-- The rows of Table 20-9: event, code, whether an error (kind E), and severity from 0 CORRECTED to 5 FATAL. -/
def evTable : List (Ev × Nat × Bool × Nat) := [
  (.regReservedWrite, 0x0001, false, 0),
  (.ctxCountSaturated, 0x0003, false, 0),
  (.armFlitCorrected, 0x0010, true, 0),
  (.armFlitPoisoned, 0x0011, true, 1),
  (.armLinkFailed, 0x0012, true, 0),
  (.atlWatchdog, 0x0020, true, 2),
  (.atlWatchdogRepeat, 0x0021, true, 5),
  (.atlImageMismatch, 0x0022, true, 5),
  (.plinthFenced, 0x0030, true, 4),
  (.tickHoldover, 0x0101, false, 0),
  (.tickMasterChange, 0x0102, false, 0),
  (.tickJump, 0x0103, false, 0),
  (.tickInRejected, 0x0104, false, 0),
  (.tickReferenceLost, 0x0105, false, 0),
  (.tickConfigFallback, 0x0106, false, 0),
  (.tickBudgetRejected, 0x0107, false, 0),
  (.tickOverrun, 0x0108, false, 0),
  (.tickOverrunEscalated, 0x0109, false, 2),
  (.bootHeaderBad, 0x0201, false, 2),
  (.bootSignatureBad, 0x0202, false, 2),
  (.bootOwnerBlank, 0x0203, false, 2),
  (.bootConfigBad, 0x0204, false, 2),
  (.bootLoadPoison, 0x0205, true, 1),
  (.pwrRefused, 0x0210, false, 0),
  (.pwrWatchFailed, 0x0211, true, 2),
  (.extInvalidateRejected, 0x0401, false, 0),
  (.extQuarantineFull, 0x0402, false, 0),
  (.extNoBacking, 0x0403, false, 0),
  (.extLeaseExpired, 0x0404, false, 0),
  (.secKeyRefused, 0x0501, false, 0),
  (.synRejected, 0x0601, false, 0),
  (.synWaitPoolFull, 0x0602, false, 0),
  (.synDeadlineMissed, 0x0603, false, 0),
  (.synPoisoned, 0x0604, true, 2),
  (.cohDomainDown, 0x0701, true, 3),
  (.ctxDoorbellRejected, 0x0801, false, 0),
  (.ctxRingReset, 0x0802, true, 2),
  (.ctxPoisoned, 0x0803, true, 2),
  (.deadlineMissed, 0x0804, false, 2),
  (.expertBatchFull, 0x0805, false, 0),
  (.expertBatchLate, 0x0806, false, 0),
  (.pairStripeUnprotected, 0x0901, true, 1),
  (.pairReconstructFailed, 0x0902, true, 1),
  (.pairMirrorFailed, 0x0903, true, 1),
  (.pairRebuildStart, 0x0904, false, 0),
  (.pairRebuildDone, 0x0905, false, 0),
  (.pairRebuildStopped, 0x0906, true, 0),
  (.pairSpareFailed, 0x0907, true, 0),
  (.pairOutOfSync, 0x0908, false, 0),
  (.pairKeyCollision, 0x0909, false, 0),
  (.pairKeyTaken, 0x090A, false, 0),
  (.pairDualKey, 0x090B, true, 2),
  (.pairPartnerLost, 0x090C, false, 0),
  (.pairVerifyMismatch, 0x090D, true, 0),
  (.calMergeOverflow, 0x0A01, false, 0),
  (.calRecastPoison, 0x0A02, true, 1),
  (.eccCorrected, 0x0C01, true, 0),
  (.eccUncorrected, 0x0C02, true, 1),
  (.eccLaneSuspect, 0x0C03, true, 0),
  (.eccScrubBehind, 0x0C04, false, 0),
  (.memTrainFailed, 0x0D01, true, 0),
  (.memStackFailed, 0x0D02, true, 2),
  (.ceOsUncorrected, 0x0E01, true, 1),
  (.ceFenced, 0x0E02, true, 2),
  (.rspTrap, 0x0E10, false, 2),
  (.rspFenced, 0x0E11, true, 2),
  (.rspIcacheRefetch, 0x0E12, true, 0),
  (.ringCableMismatch, 0x0F01, false, 0),
  (.ringJoinRefused, 0x0F02, false, 0),
  (.ringJoinFailed, 0x0F03, false, 0),
  (.ringDuplicateId, 0x0F04, false, 0),
  (.ringLinkDown, 0x0F05, true, 0),
  (.ringMemberLost, 0x0F06, false, 0),
  (.ringUnreachable, 0x0F07, false, 0),
  (.ringReserveExceeded, 0x0F08, false, 0)]

/-- The row of an event. -/
def evRow (e : Ev) : Nat × Bool × Nat := ((evTable.find? (fun r => r.1 = e)).map (·.2)).getD (0, false, 0)

def evCode (e : Ev) : Nat := (evRow e).1

/-- An event's severity for a unit: that of Table 20-9, and CORRECTED for PWR_WATCH_FAILED of a port (R699). -/
def evSev (e : Ev) (kind : Nat) : Nat := if e = .pwrWatchFailed ∧ kind = 5 then 0 else (evRow e).2.2

/-- The unit's die is plinth 0's base die, where an escalation to PLINTH gives FATAL (Table 20-8, R702). -/
def onPlinth0Base (kind unit : Nat) : Bool :=
  match kind with
  | 0 | 14 => true
  | 1 => unit == 0
  | 2 => unit / 4 == 0
  | 5 => portPlinth unit == 0
  | _ => false

/-- The severity at which an event is logged, whether it is escalated, and whether the action of Table 20-8 follows
(R701, R702). DEDUCED, assumption 14 (unsafe). -/
def escalate (c : Core) (isError : Bool) (sev kind unit : Nat) : Nat × Bool × Bool :=
  if isError && c.glb.handling.any (fun h => h.kind == kind && h.unit == unit) then
    let s := min 5 (sev + 1)
    if 7 ≤ kind && kind ≤ 13 then (min 3 s, true, s ≤ 3)
    else if kind == 6 then (min 2 s, true, s ≤ 2 && !bitOf (c.fld GLB_FENCED GLB_FENCED_LINKS) unit)
    else if s == 4 && onPlinth0Base kind unit then (5, true, true)
    else (s, true, true)
  else (sev, false, false)

/-- Entry `e` is written into the log (R705, R706): an unread entry it overwrites is counted as lost.
DESIGN CHOICE, assumption 12 (safe). -/
def logEntry (c : Core) (code sev : Nat) (esc : Bool) (kind unit cnt detail : Nat) : Core :=
  let seq := (c.rget EVT_NEXT_SEQ).toNat
  let i := seq % 4096
  let c := match amGet? c.glb.log i with
    | some old => if old.read then c else (c.count EVT_LOST).setFld GLB_STATUS GLB_STATUS_LOG_LOST 1
    | none => c
  let ent : LogEntry := { seq := seq, tick := c.tick, code := code, sev := sev, escalated := esc, kind := kind,
                          unit := unit, count := cnt, detail := detail, read := false }
  let c := wroteCtrl 0 (.event i) { c with glb := { c.glb with log := amSet c.glb.log i ent } }
  (c.count EVT_NEXT_SEQ).count (EVT_COUNT sev)

/-- R703: the first FATAL stops the data path; a second one, or a first one of the atelier core or of plinth 0's base die,
stops the chip and asserts FAULT_N. DEDUCED, assumption 13 (unsafe). -/
def fatal (c : Core) (code kind unit : Nat) : Core :=
  let again := c.flag GLB_STATUS GLB_STATUS_FATAL || kind == 14 || onPlinth0Base kind unit
  let c := c.setFld GLB_STATUS GLB_STATUS_FATAL 1
  let c := c.setFld GLB_LAST_FATAL GLB_LAST_FATAL_CODE code
  let c := c.setFld GLB_LAST_FATAL GLB_LAST_FATAL_KIND kind
  let c := c.setFld GLB_LAST_FATAL GLB_LAST_FATAL_UNIT unit
  let c := c.setFld GLB_LAST_FATAL GLB_LAST_FATAL_TICK c.tick
  let c := c.setFld RING_STATUS RING_STATUS_BYPASS 3
  let c := c.setFld PAIR_STATUS PAIR_STATUS_KEY_OUT 0
  let c := { c with glb := { c.glb with dataStopped := true } }
  if again then
    { c with glb := { c.glb with chipStopped := true, atelier := .halted }, pins := { c.pins with fault := true } }
  else c

/-- Event `e` of a unit is detected: it is logged at its severity or, when it is an error met while an earlier error of the
unit is in handling, one above (R699 to R703). `hold` keeps its handling period open until the action under that key ends;
otherwise the action of its rule ends within the command. -/
def raise (c : Core) (e : Ev) (kind unit : Nat) (detail : Nat := 0) (cnt : Nat := 1) (hold : Option Nat := none) : Core :=
  let isErr := (evRow e).2.1
  let (sev, esc, act) := escalate c isErr (evSev e kind) kind unit
  let c := logEntry c (evCode e) sev esc kind unit cnt detail
  let c := if 1 ≤ sev then { c with pair := { c.pair with badTick := some c.tick } } else c
  let c := match hold with
    | some k => if isErr && sev != 0 then
        { c with glb := { c.glb with handling := ⟨kind, unit, sev, k⟩ :: c.glb.handling } } else c
    | none => c
  if sev == 5 then
    let c := { c with glb := { c.glb with handling := ⟨kind, unit, 5, 2 ^ 64⟩ :: c.glb.handling } }
    fatal c (evCode e) kind unit
  else if act then
    { c with glb := { c.glb with toAct := c.glb.toAct ++ [⟨kind, unit, sev⟩] } }
  else c

/-- The handling periods that the action under key `k` ends (R700). -/
def endHandling (c : Core) (kind unit k : Nat) : Core :=
  { c with glb := { c.glb with
      handling := c.glb.handling.filter (fun h => !(h.kind == kind && h.unit == unit && h.key == k)) } }

end Sys2Proof.Machine
end

