-- ==== Sys2Proof/Machine/Xts.lean ====
section
/-! DEFINITION. Memory encryption (R643, R644): XTS-AES-256 over a stack word, and what the pool stores of a word. -/

namespace Sys2Proof.Machine
open Sys2Proof

abbrev Block := BitVec 128

/-- The two blocks of a swap change places. -/
def swapBlock (b : Block) (s : Block × Block) : Block := if b = s.1 then s.2 else if b = s.2 then s.1 else b

/-- AES-256 and its inverse. -/
def aesEnc (k : BitVec 256) (b : Block) : Block := (Config.aesSwaps k).foldl swapBlock b
def aesDec (k : BitVec 256) (b : Block) : Block := (Config.aesSwaps k).reverse.foldl swapBlock b

/-- Multiplication by α in the field of IEEE Std 1619, a block being a little-endian number. -/
def xtsDouble (t : Block) : Block := if t.getLsbD 127 then (t <<< 1) ^^^ 0x87 else t <<< 1

/-- A memory key: the data key in its low half and the tweak key in its high one (R644). -/
def dataKey (key : W512) : BitVec 256 := key.setWidth 256
def tweakKey (key : W512) : BitVec 256 := (key >>> 256).setWidth 256

/-- The masks of a data unit's two blocks. -/
def xtsMask (key : W512) (tweak : Block) : Block × Block :=
  let t := aesEnc (tweakKey key) tweak
  (t, xtsDouble t)

/-- E and its inverse on one block under mask `t`. -/
def xexEnc (key : W512) (t b : Block) : Block := aesEnc (dataKey key) (b ^^^ t) ^^^ t
def xexDec (key : W512) (t b : Block) : Block := aesDec (dataKey key) (b ^^^ t) ^^^ t

/-- What is stored of a plaintext block: E(P) XOR E(0); and the plaintext of a stored one. -/
def sealBlock (key : W512) (t p : Block) : Block := xexEnc key t p ^^^ xexEnc key t 0
def openBlock (key : W512) (t s : Block) : Block := xexDec key t (s ^^^ xexEnc key t 0)

/-- A word of 32 bytes as two blocks, and back. -/
def pairBlocks (b : List Byte) : Block × Block :=
  (BitVec.ofNat 128 (leNat (b.take 16)), BitVec.ofNat 128 (leNat ((b.drop 16).take 16)))
def pairBytes (b : Block × Block) : List Byte := natLe 16 b.1.toNat ++ natLe 16 b.2.toNat

/-- The bits that the pool stores for a plaintext word under a key and tweak, and the plaintext that stored bits give under them. -/
def sealWord (key : W512) (tweak : Block) (b : List Byte) : List Byte :=
  let (t0, t1) := xtsMask key tweak
  let (p0, p1) := pairBlocks b
  pairBytes (sealBlock key t0 p0, sealBlock key t1 p1)
def openWord (key : W512) (tweak : Block) (b : List Byte) : List Byte :=
  let (t0, t1) := xtsMask key tweak
  let (s0, s1) := pairBlocks b
  pairBytes (openBlock key t0 s0, openBlock key t1 s1)

/-- The tweak of the word at byte `off` of extent `e`: (EXTENT << 32) | (OFFSET >> 5). -/
def tweakOf (e off : Nat) : Block := BitVec.ofNat 128 (e * 2 ^ 32 + off / 32)

/-- The memory key that draw `d` of the true random source began: 512 bits (R644). -/
def drawnKey (d : Nat) : W512 :=
  BitVec.ofNat 512 ((List.range 8).foldl (fun a i => a + (Config.random (d + i)).toNat * 2 ^ (64 * i)) 0)

/-- The memory key that a partition holds. -/
def memKey (c : Core) (q : Nat) : Option W512 := (amGet? c.sec.memKeys q).map drawnKey

end Sys2Proof.Machine
end

