-- ==== Sys2Proof/Machine/Places.lean ====
section
/-! DEFINITION. What a physical word of the stacks holds: the word of a frame, the parity of a stripe, or nothing of a frame (R540,
R585, R586, R592), and how the pool stores it (R643). -/

namespace Sys2Proof.Machine
open Sys2Proof

def ext? (c : Core) (e : Nat) : Option Extent := amGet? c.ext.exts e

def frameShift (x : Extent) : Nat := if x.large then 30 else 21
def frameBytes (x : Extent) : Nat := 2 ^ frameShift x
def extBytes (x : Extent) : Nat := x.size * frameBytes x


/-! ### Stripes (R584, R586, R595) -/

/-- The stripe stacks in increasing order: all but OUT_STACK (R584). -/
def stripeStacks (c : Core) : List Nat :=
  (List.range 16).filter (fun n => n != c.fld PAIR_LAYOUT PAIR_LAYOUT_OUT_STACK)

def stripeStack (c : Core) (pos : Nat) : Nat := (stripeStacks c).getD pos 0

/-- Words of the rebuild's walk before group address `g` of partition `q` (R595). -/
def walkRank (c : Core) (q g : Nat) : Nat :=
  ((List.range q).map (fun r => let (v, _, k) := groupOf c r; if v then 2 ^ k * 3 * 2 ^ 30 / 32 else 0)).foldl (· + ·) 0
    + g / 32

/-- What an access to a word of the running rebuild step waits for: no word's number (R596). -/
def stepKey : Nat := 2 ^ 60

/-- Words of the running rebuild step, which waits for the partner, lie among `len` bytes from group address `g` of stack `n` (R596). -/
def stepHolds (c : Core) (q n g len : Nat) : Bool :=
  let k := (c.rget PAIR_REBUILD_PROG).toNat
  c.pair.rebuildStep && n == c.fld PAIR_REBUILD PAIR_REBUILD_FAILED_STACK &&
    decide (walkRank c q g < k + 64) && decide (k < walkRank c q (g + len + 31))

/-- Data address `a` of P data: the stripe position, group address, and the positions of the stripe's parity and data units
(R586). -/
structure StripePlace where
  pos : Nat
  parity : Nat
  g : Nat
deriving DecidableEq, Repr

def stripePlace (a : Nat) : StripePlace :=
  let s := a / 3584
  let j := a / 256 % 14
  let p := s % 15
  { pos := (p + 1 + j) % 15, parity := p, g := 256 * s + a % 256 }

/-! ### Holders -/

/-- The partition whose channel group holds a pseudo-channel (R539). -/
def pcPart (c : Core) (pc : Nat) : Option Nat :=
  (List.range 16).find? (fun q => let (v, b, k) := groupOf c q; v && b ≤ pc && pc < b + 2 ^ k)

/-- The group address of a physical word in partition `q`'s group: the inverse of Table 15-2. -/
def groupAddr (c : Core) (q w : Nat) : Nat :=
  let (_, base, k) := groupOf c q
  let a := physAddr w
  let row := a / 32 % 65536
  let col := a / 2 % 16
  let bank := a / 2 ^ 21 % 64
  a % 2 * 32 + col % 4 * 64 + (physPc w - base) * 256 + col / 4 * 2 ^ (8 + k) + (bank ^^^ (row % 64)) * 2 ^ (10 + k) +
    row * 2 ^ (16 + k)

def outStack (c : Core) : Nat := c.fld PAIR_LAYOUT PAIR_LAYOUT_OUT_STACK

/-- The stack in whose place a physical word serves: the failed stack's for a rebuilt word of the spare (R599). -/
def placeStack (c : Core) (q n g : Nat) : Nat :=
  if n = outStack c ∧ c.fld PAIR_REBUILD PAIR_REBUILD_SPARE = 1 ∧ walkRank c q g < (c.rget PAIR_REBUILD_PROG).toNat then
    c.fld PAIR_REBUILD PAIR_REBUILD_FAILED_STACK
  else n

/-- What a group address of a stack holds: a word of a frame's data (extent, frame and byte offset within the frame), the
parity of a stripe, or nothing of a frame. -/
inductive Holder where
  | data (extent frame off : Nat) (cls : RedClass)
  | parity (pos : Nat)
  | none
deriving DecidableEq, Repr

/-- Frame places of a partition: extent, frame, place and bytes. -/
def placesOf (c : Core) (q : Nat) : List (Nat × Nat × Loc × Nat) :=
  c.ext.exts.flatMap (fun e => if e.2.partition ≠ q then [] else
    e.2.frames.flatMap (fun f => (f.2.loc.toList ++ f.2.dest.toList).map (fun l => (e.1, f.1, l, frameBytes e.2))))

/-- Stripe position of a stripe stack. -/
def stripePos (c : Core) (n : Nat) : Nat := (stripeStacks c).findIdx (· == n)

/-- Group address `g` of stack place `n` of partition `q`. -/
def holderOf (c : Core) (q n g : Nat) : Holder :=
  let places := placesOf c q
  if n ≠ outStack c ∧ g < c.fld (PAIR_P_GIB q) PAIR_P_GIB_F * 2 ^ 30 then
    let s := g / 256
    let pos := stripePos c n
    if pos = s % 15 then
      if places.any (fun x => match x.2.2.1 with
        | .p a => a < 3584 * (s + 1) && 3584 * s < a + x.2.2.2
        | _ => false) then .parity pos else .none
    else
      let a := s * 3584 + (pos + 15 - s % 15 - 1) % 15 * 256 + g % 256
      match places.find? (fun x => match x.2.2.1 with | .p b => b ≤ a && a < b + x.2.2.2 | _ => false) with
      | some (e, f, .p b, _) => .data e f (a - b) .p
      | _ => .none
  else
    match places.find? (fun x => match x.2.2.1 with
      | .m s b => (s == n || s ^^^ 8 == n) && b ≤ g && g < b + x.2.2.2
      | .x s b => s == n && b ≤ g && g < b + x.2.2.2
      | .n s b => s == n && b ≤ g && g < b + x.2.2.2
      | .p _ => false) with
    | some (e, f, .m _ b, _) => .data e f (g - b) .m
    | some (e, f, .x _ b, _) => .data e f (g - b) .x
    | some (e, f, .n _ b, _) => .data e f (g - b) .n
    | _ => .none

/-- Partition, group address and holder of a physical word. -/
def wordHolder (c : Core) (w : Nat) : Option (Nat × Nat × Holder) :=
  (pcPart c (physPc w)).map (fun q =>
    let g := groupAddr c q w
    (q, g, holderOf c q (placeStack c q (physStack w) g) g))

/-- The offset in its extent of a byte of a frame. -/
def extOff (c : Core) (e f off : Nat) : Nat := match ext? c e with | some x => f * frameBytes x + off | none => off

/-! ### What the pool stores (R643) -/

/-- The key and tweak under which a physical word is stored: those of the frame that holds it. Parity is taken over stored bits, and a
word of no frame is not encrypted. -/
def sealOf (c : Core) (w : Nat) : Option (W512 × Block) :=
  match wordHolder c w with
  | some (q, _, .data e f off _) => (memKey c q).map (fun k => (k, tweakOf e (extOff c e f off)))
  | _ => none

/-- The data bits that the pool stores for physical word `w`, whose plaintext the model keeps. DESIGN CHOICE, assumption 6 (safe). -/
def storedWord (c : Core) (w : Nat) (data : List Byte) : List Byte :=
  match sealOf c w with
  | some (k, t) => sealWord k t data
  | none => data

/-- The plaintext of a word whose stored bits change by `e`, a change that the code or the flip mask makes. -/
def changeStored (c : Core) (w : Nat) (data e : List Byte) : List Byte :=
  if e.all (· == 0) then data
  else match sealOf c w with
    | some (k, t) => openWord k t (xorBytes (sealWord k t data) e)
    | none => xorBytes data e

end Sys2Proof.Machine
end

