-- ==== Sys2Proof/Machine/PoolMem.lean ====
section
/-! DEFINITION. Stack words as the controllers store and deliver them: the flip mask (R581), the classes of a read and what
follows (R564, R565, R567), and recovery by parity, mirror and pair (R586 to R596, R607). -/

namespace Sys2Proof.Machine
open Sys2Proof

/-! ### Writing a stack word -/

/-- The word poisons when the mask leaves it of class POISONED though it was written good (R569: a write under the mask). -/
def flipPoisons (d d' : W32) : Bool := classify d != .poisoned && classify d' == .poisoned

/-- The pending write-back of a word is dropped, which ends the handling period of its error (R565, R700). -/
def dropWb (c : Core) (w : Nat) : Core :=
  match amGet? c.mem.wb w with
  | some _ => endHandling { c with mem := { c.mem with wb := amDel c.mem.wb w } } 2 (physStack w) w
  | none => c

/-- The other word of a word's burst (R537). -/
def burstMate (w : Nat) : Nat := if w % 2 = 0 then w + 1 else w - 1

/-- A stack word is stored: data and, when `poison`, the checks of a poisoned word (R568). The flip mask applies to the stored bits
unless the write is a scrub write-back or a fill (`quiet`), and ARMED clears as it does (R581). A write to a burst drops the pending
write-backs of its words (R565). -/
def writeWord (m : M) (w : Nat) (data : List Byte) (poison : Bool) (quiet : Bool := false) : M :=
  let d : W32 := if poison then poisonMask else 0
  let c := dropWb (dropWb m.core w) (burstMate w)
  if !quiet && flipHits c 0 (physStack w) (physAddr w) then
    let (dm, cm) := flipMask c
    let d' := d ^^^ cm ^^^ checksOf dm
    let c := c.setFld ECC_FLIP_CTRL ECC_FLIP_CTRL_ARMED 0
    let c := if flipPoisons d d' then c.count ECC_POISON_WRITTEN else c
    { core := c, mem := m.mem.setWord w (changeStored c w (padTo 32 0 data) dm) d' }
  else { core := c, mem := m.mem.setWord w data d }

/-- A word is poisoned by a rule of R569 and counted. -/
def poisonWord (m : M) (w : Nat) (data : List Byte) : M :=
  (writeWord m w data true).on (·.count ECC_POISON_WRITTEN)

/-! ### Reading a stack word -/

/-- What a read of one physical word gives: good data, poison, or a word that the code cannot give (UNCORRECTABLE or on a
failed stack), which the redundancy class may recover. -/
inductive WordRead where
  | good (data : List Byte)
  | poison (data : List Byte)
  | bad (data : List Byte)
  | gone
deriving DecidableEq, Repr

/-- The word's address is recorded as the last UNCORRECTABLE one and counted (R564, R582). -/
def noteUncorrected (c : Core) (kind unit addr : Nat) : Core :=
  let c := c.count ECC_UNCORRECTED
  let c := c.setFld ECC_LAST_UE ECC_LAST_UE_KIND kind
  let c := c.setFld ECC_LAST_UE ECC_LAST_UE_UNIT unit
  c.setFld ECC_LAST_UE ECC_LAST_UE_ADDR addr

/-- Corrections in plinth `p`'s staging store: counted, and reported at the boundary (R564, R567). -/
def correctedStaging (c : Core) (p n : Nat) : Core :=
  if n = 0 then c else
    let c := c.count ECC_CORRECTED_SRAM n
    { c with mem := { c.mem with corrected := amSet c.mem.corrected (16 + p) (amGet c.mem.corrected (16 + p) 0 + n) } }

/-- An UNCORRECTABLE word of plinth `p`'s staging store. Where in the store a word lies no rule says, so its address is free.
DESIGN CHOICE, assumption 96 (unsafe). -/
def noteStaging (c : Core) (p : Nat) : Core :=
  let (c, d) := c.draw
  noteUncorrected c 1 p ((Config.freeWord d).toNat % 2 ^ 32)

/-- A correction in a stack word (R564, R565, R567): counted, counted by symbol position, and its write-back recorded.
A position that reaches LANE_THRESHOLD in the period is a suspect: logged, recorded and retrained ahead of the turn. -/
def noteCorrected (c : Core) (w sym : Nat) (data : List Byte) (demand : Bool) : Core :=
  let n := physStack w
  let c := c.count ECC_CORRECTED
  let c := { c with mem := { c.mem with corrected := amSet c.mem.corrected n (amGet c.mem.corrected n 0 + 1) } }
  let k := (n * 32 + physPc w) * 64 + sym
  let cnt := amGet c.mem.lane k 0 + 1
  let c := { c with mem := { c.mem with lane := amSet c.mem.lane k cnt } }
  let c := if cnt == c.fld ECC_CTRL ECC_CTRL_LANE_THRESHOLD then
      let c := raise c .eccLaneSuspect 2 n (physPc w * 64 + sym)
      let c := c.count ECC_LANE_EVENTS
      let c := c.setFld (ECC_LANE n) ECC_LANE_VALID 1
      let c := c.setFld (ECC_LANE n) ECC_LANE_PC (physPc w)
      let c := c.setFld (ECC_LANE n) ECC_LANE_SYMBOL sym
      { c with mem := { c.mem with turnHead := distinctOf (c.mem.turnHead ++ [n * 32 + physPc w]) } }
    else c
  if demand && !c.flag ECC_CTRL ECC_CTRL_DEMAND_WB_EN then c
  else match amGet? c.mem.wb w with
    | some _ => c
    | none => { c with mem := { c.mem with wb := amSet c.mem.wb w ⟨.corrected, data, !demand⟩ } }

/-- Physical word `w` read and decoded (R562), with the action of a CORRECTED word. A word whose poison write-back is
pending is delivered poisoned again (R565). -/
def readPhys (m : M) (w : Nat) (demand : Bool := true) : M × WordRead :=
  if stackBad m.core (physStack w) then (m, .gone)
  else
    let data := m.mem.word w
    match classify (m.mem.checks w) with
    | .clean => (m, .good data)
    | .poisoned => (m, .poison data)
    | .corrected k e =>
      let good := changeStored m.core w data (correctData zeroWord k e)
      (m.on (fun c => noteCorrected c w k good demand), .good good)
    | .uncorrectable =>
      match amGet? m.core.mem.wb w with
      | some ⟨.poison, _, _⟩ => (m, .poison data)
      | _ => (m, .bad data)

/-- The record that a pending write-back leaves until it enters a queue or is dropped (R565). -/
def recordWb (c : Core) (w : Nat) (k : WbKind) (data : List Byte) (demand : Bool) : Core :=
  { c with mem := { c.mem with wb := amSet c.mem.wb w ⟨k, data, !demand⟩ } }

/-- The word is already known UNCORRECTABLE: its recovery write-back is pending, so it is the same error (R565). -/
def knownBad (c : Core) (w : Nat) : Bool := (amGet? c.mem.wb w).isSome

/-- The poison write-back of a word that cannot be recovered is recorded (R565, R569). -/
def poisonRec (m : M) (w : Nat) (data : List Byte) (demand : Bool) : M :=
  m.on (fun c => recordWb (c.count ECC_POISON_WRITTEN) w .poison data demand)

/-- The event of an UNCORRECTABLE stack word, whose handling period its write-back ends (R564, R700).
DEDUCED, assumption 88 (unsafe). -/
def logBad (c : Core) (w : Nat) (e : Ev) : Core := raise c e 2 (physStack w) (physAddr w) 1 (some w)

/-- An UNCORRECTABLE word with no recovery is delivered poisoned, and its poison write-back recorded (R564, R569). -/
def giveUp (m : M) (w : Nat) (data : List Byte) (e : Ev) (demand : Bool) : M × WordRead :=
  (poisonRec (m.on (fun c => logBad c w e)) w data demand, .poison data)

/-- A recovered word on a healthy stack: the error is logged once, and the write-back of the recovered data recorded (R564,
R565). DEDUCED, assumption 88 (unsafe). -/
def recovered (m : M) (w : Nat) (data : List Byte) (known demand : Bool) : M :=
  m.on (fun c => recordWb (if known then c else logBad c w .eccUncorrected) w .recovered data demand)

/-! ### Places of a word (R540, R585, R586, R592) -/

/-- The stack that serves group address `g` of partition `q` for stack `n`: the spare once the rebuild has passed the word
(R596, R599). -/
def servingStack (c : Core) (q n g : Nat) : Nat :=
  if c.fld PAIR_REBUILD PAIR_REBUILD_SPARE == 1 && c.fld PAIR_REBUILD PAIR_REBUILD_FAILED_STACK == n &&
      walkRank c q g < (c.rget PAIR_REBUILD_PROG).toNat then
    c.fld PAIR_LAYOUT PAIR_LAYOUT_OUT_STACK
  else n

/-- The physical word of group address `g` of partition `q` for stack `n`, as it is served now. -/
def servedWord (c : Core) (q n g : Nat) : Nat := placeWord c q (servingStack c q n g) g

/-- A word that is classed UNCORRECTABLE while another of its stripe or its mirror is already lost cannot be recovered: it is counted,
logged once and poisoned (R564, R565, R590). -/
def meetBad (m : M) (w : Nat) (d : List Byte) (e : Ev) (demand : Bool) : M :=
  if knownBad m.core w then m
  else poisonRec (m.on (fun c => logBad (noteUncorrected c 0 (physStack w) (physAddr w)) w e)) w d demand

/-- The XOR of the words at `g` on the given positions; `none` when one of them is not good (R587, R590). One of those that is classed
UNCORRECTABLE fails its own reconstruction with that. -/
def xorPositions (m : M) (q g : Nat) (demand : Bool) : List Nat → M × Option (List Byte)
  | [] => (m, some zeroWord)
  | p :: t =>
    let w := servedWord m.core q (stripeStack m.core p) g
    let (m, r) := readPhys m w demand
    let m := match r with
      | .bad d =>
        let new := !knownBad m.core w
        let m := if new then m.on (fun c => (c.count PAIR_RECONSTRUCTS).count PAIR_RECONSTRUCT_FAILS) else m
        meetBad m w d .pairReconstructFailed demand
      | _ => m
    let (m, rest) := xorPositions m q g demand t
    match r, rest with
    | .good d, some x => (m, some (xorBytes d x))
    | _, _ => (m, none)

/-- R590: the word at stripe position `pos`, physical word `w`, is reconstructed from the 14 others. `data` is what a healthy
stack read. -/
def reconstruct (m : M) (q pos g w : Nat) (data : List Byte) (demand : Bool) : M × WordRead :=
  let healthy := !stackBad m.core (physStack w)
  let known := healthy && knownBad m.core w
  let m := if healthy && !known then m.on (fun c => noteUncorrected c 0 (physStack w) (physAddr w)) else m
  let m := m.on (·.count PAIR_RECONSTRUCTS)
  let (m, x) := xorPositions m q g demand ((List.range 15).filter (· != pos))
  match x with
  | some d => ((if healthy then recovered m w d known demand else m), .good d)
  | none =>
    let m := m.on (·.count PAIR_RECONSTRUCT_FAILS)
    if healthy then
      if known then (m, .poison data) else giveUp m w data .pairReconstructFailed demand
    else (m.on (fun c => raise c .pairReconstructFailed 2 (stripeStack c pos) (physAddr w)), .poison zeroWord)

/-- The word of data address `a` of partition `q`'s P data, recovered when it must be (R564, R590, R596). -/
def readP (m : M) (q a : Nat) (demand : Bool := true) : M × WordRead :=
  let s := stripePlace a
  let w := servedWord m.core q (stripeStack m.core s.pos) s.g
  let (m, r) := readPhys m w demand
  match r with
  | .bad d => reconstruct m q s.pos s.g w d demand
  | .gone =>
    if baseFenced m.core (physStack w / 4) then (m, .poison zeroWord) else reconstruct m q s.pos s.g w zeroWord demand
  | r => (m, r)

/-- One copy of an M word found bad is served from the other and written back (R593). DESIGN CHOICE, assumption 69 (safe). -/
def mirrorOther (m : M) (w o : Nat) (r : WordRead) (demand : Bool) : M × WordRead :=
  let bad := match r with | .bad d => some d | _ => none
  let known := knownBad m.core w
  let m := if bad.isSome && !known then m.on (fun c => noteUncorrected c 0 (physStack w) (physAddr w)) else m
  let (m, r2) := readPhys m o demand
  match r2, bad with
  | .good d, some _ => (recovered m w d known demand, .good d)
  | .good d, none => (m, .good d)
  | .poison _, some d | .gone, some d => if known then (m, .poison d) else giveUp m w d .pairMirrorFailed demand
  | .poison d, none => (m, .poison d)
  | .bad d2, _ =>
    let new := !knownBad m.core o
    let m := if new then m.on (fun c => noteUncorrected c 0 (physStack o) (physAddr o)) else m
    if !new && (bad.isNone || known) then (m, .poison d2)
    else
      let m := m.on (fun c => logBad c (if bad.isSome && !known then w else o) .pairMirrorFailed)
      let m := match bad with | some d => poisonRec m w d demand | none => m
      (if new then poisonRec m o d2 demand else m, .poison d2)
  | .gone, none => (m.on (fun c => raise c .pairMirrorFailed 2 (physStack w) (physAddr w)), .poison zeroWord)

/-- An M word, from whichever copy the device chooses (R593). DESIGN CHOICE, assumption 69 (safe). -/
def readM (m : M) (q n g : Nat) (demand : Bool := true) : M × WordRead :=
  let a := servedWord m.core q n g
  let b := servedWord m.core q (n ^^^ 8) g
  let (c, k) := m.core.choose 2
  let m := { m with core := c }
  let (w, o) := if k == 0 then (a, b) else (b, a)
  let (m, r) := readPhys m w demand
  match r with
  | .good d => (m, .good d)
  | .poison d => (m, .poison d)
  | r => mirrorOther m w o r demand

/-- An N word (Table 16-3, second row; Table 1-8 for a stack out of service). -/
def readN (m : M) (q n g : Nat) (demand : Bool := true) : M × WordRead :=
  let w := servedWord m.core q n g
  let (m, r) := readPhys m w demand
  match r with
  | .bad d => giveUp (m.on (fun c => noteUncorrected c 0 (physStack w) (physAddr w))) w d .eccUncorrected demand
  | .gone => (m, .poison zeroWord)
  | r => (m, r)

/-- The partner holds a synced copy: a standby that is synced, or, for a standby, the holder (R607). -/
def partnerSynced (c : Core) : Bool :=
  let s := c.fld PAIR_STATUS PAIR_STATUS_STATE
  let p := c.fld PAIR_STATUS PAIR_STATUS_PARTNER_STATE
  if s == 2 || s == 3 then p == 5 || p == 6 else c.pair.synced && p == 3

/-- The partner is STANDBY or ACTIVE with DATA_VALID set: a rebuild may fetch from it (Table 17-3). -/
def partnerSource (c : Core) : Bool :=
  let p := c.fld PAIR_STATUS PAIR_STATUS_PARTNER_STATE
  (p == 3 || p == 5) && bitOf (c.rget PAIR_HEALTH_RX).toNat 25

/-- A physical word joins those that are being fetched. -/
def startFetch (c : Core) (w : Nat) : Core := { c with pair := { c.pair with fetching := distinctOf (c.pair.fetching ++ [w]) } }

/-- An X word (R607): with a synced partner the word is to be fetched, `bad` or `gone`; one that has come is delivered;
otherwise it is poisoned as an N word is. -/
def readX (m : M) (q n g : Nat) (demand : Bool := true) : M × WordRead :=
  let w := servedWord m.core q n g
  let (m, r) := readPhys m w demand
  match r with
  | .bad d =>
    match amGet? m.core.mem.wb w with
    | some ⟨.recovered, x, _⟩ => (m, .good x)
    | _ =>
      let m := if m.core.pair.fetching.contains w then m
        else m.on (fun c => logBad (noteUncorrected c 0 (physStack w) (physAddr w)) w .eccUncorrected)
      if partnerSynced m.core then (m.on (fun c => startFetch c w), .bad d)
      else (poisonRec m w d demand, .poison d)
  | .gone =>
    match amGet? m.core.pair.got w with
    | some (x, bad) => (m, if bad then .poison x else .good x)
    | none => if partnerSynced m.core then (m.on (fun c => startFetch c w), .gone) else (m, .poison zeroWord)
  | r => (m, r)

/-- The stack word at byte `off` of a frame of partition `q` placed at `loc`. -/
def readLoc (m : M) (q : Nat) (loc : Loc) (off : Nat) (demand : Bool := true) : M × WordRead :=
  match loc with
  | .p a => readP m q (a + off) demand
  | .m n g => readM m q n (g + off) demand
  | .x n g => readX m q n (g + off) demand
  | .n n g => readN m q n (g + off) demand

/-! ### Stacks that sleep (R556) -/

/-- The stack keeps requests waiting: its PHY is in RETENTION or OFF, or it trains. DESIGN CHOICE, assumption 70 (safe). -/
def stackSleeps (c : Core) (n : Nat) : Bool :=
  let s := stackState c n
  s == 1 || s == 3 || s == 4

/-- The stacks that an access to the word at byte `off` of a place uses. -/
def stacksUsed (c : Core) (q : Nat) (loc : Loc) (off : Nat) (wr : Bool) : List Nat :=
  let on := fun (n g : Nat) => servingStack c q n g
  match loc with
  | .p a =>
    let s := stripePlace (a + off)
    on (stripeStack c s.pos) s.g :: (if wr then [on (stripeStack c s.parity) s.g] else [])
  | .m n g => [on n (g + off), on (n ^^^ 8) (g + off)]
  | .x n g => [on n (g + off)]
  | .n n g => [on n (g + off)]

/-- The first sleeping stack that an access to `len` bytes from `off` of a place uses. DESIGN CHOICE, assumption 70 (safe). -/
def sleepingStack (c : Core) (q : Nat) (loc : Loc) (off len : Nat) (wr : Bool) : Option Nat :=
  if (List.range 16).all (fun n => !stackSleeps c n) then none
  else ((List.range ((off + len + 31) / 32 - off / 32)).flatMap (fun i =>
    stacksUsed c q loc (32 * (off / 32 + i)) wr)).find? (stackSleeps c)

/-! ### Writing a word of a frame (R588, R589, R591, R593) -/

/-- The data positions of a stripe other than `pos` and the parity position. -/
def otherData (pos parity : Nat) : List Nat := (List.range 15).filter (fun p => p != pos && p != parity)

/-- The parity word written from the 13 other data words and the new one, poisoned when one of those is not good (R589). -/
def parityFromOthers (m : M) (q : Nat) (s : StripePlace) (data : List Byte) : M :=
  let pw := servedWord m.core q (stripeStack m.core s.parity) s.g
  let (m, x) := xorPositions m q s.g true (otherData s.pos s.parity)
  match x with
  | some d => writeWord m pw (xorBytes d data) false
  | none =>
    let m := m.on (fun c => raise c .pairStripeUnprotected 2 (physStack pw) (physAddr pw))
    poisonWord m pw data

/-- A word found UNCORRECTABLE by the read of a read-modify-write is one error, whose handling ends with the write that replaces it
(R564, R565, R589). -/
def replaced (m : M) (w : Nat) (r : WordRead) : M :=
  match r with
  | .bad _ => if knownBad m.core w then m else m.on (fun c =>
      raise (noteUncorrected c 0 (physStack w) (physAddr w)) .eccUncorrected 2 (physStack w) (physAddr w))
  | _ => m

/-- A word of P data is written with its parity: read-modify-write of both (R588), from the other words when one of them is
bad (R589), and by R591 when a position is out of service. -/
def writeP (m : M) (q a : Nat) (data : List Byte) (poison : Bool) : M :=
  let s := stripePlace a
  let dw := servedWord m.core q (stripeStack m.core s.pos) s.g
  let pw := servedWord m.core q (stripeStack m.core s.parity) s.g
  let dGone := stackBad m.core (physStack dw)
  let pGone := stackBad m.core (physStack pw)
  if dGone && pGone then m
  else if dGone then parityFromOthers m q s data
  else if pGone then writeWord m dw data poison
  else
    let m := m.on (·.perf PAIR_PARITY_RMW)
    let (m, od) := readPhys m dw
    let m := replaced m dw od
    let (m, op) := readPhys m pw
    let m := replaced m pw op
    match od, op with
    | .good d, .good p => writeWord (writeWord m dw data poison) pw (xorBytes p (xorBytes d data)) false
    | _, _ => writeWord (parityFromOthers m q s data) dw data poison

/-- A write that covers every data word of the stripe at group address `g`: parity from the new data, nothing read (R588). -/
def writeParityFull (m : M) (q : Nat) (s : StripePlace) (words : List (List Byte)) : M :=
  let pw := servedWord m.core q (stripeStack m.core s.parity) s.g
  if stackBad m.core (physStack pw) then m
  else writeWord m pw (words.foldl xorBytes zeroWord) false

/-- A data word of a fully covered stripe. -/
def writeDataFull (m : M) (q a : Nat) (data : List Byte) (poison : Bool) : M :=
  let s := stripePlace a
  let dw := servedWord m.core q (stripeStack m.core s.pos) s.g
  if stackBad m.core (physStack dw) then m else writeWord m dw data poison

/-- A word on one stack, when the stack is in service. -/
def writeOn (m : M) (q n g : Nat) (data : List Byte) (poison : Bool) : M :=
  let w := servedWord m.core q n g
  if stackBad m.core (physStack w) then m.on (fun c => { c with pair := { c.pair with got := amDel c.pair.got w } })
  else writeWord m w data poison

/-- A word of a frame at `loc` is written. -/
def writeLoc (m : M) (q : Nat) (loc : Loc) (off : Nat) (data : List Byte) (poison : Bool) : M :=
  match loc with
  | .p a => writeP m q (a + off) data poison
  | .m n g => writeOn (writeOn m q n (g + off) data poison) q (n ^^^ 8) (g + off) data poison
  | .x n g => writeOn m q n (g + off) data poison
  | .n n g => writeOn m q n (g + off) data poison

/-- The words at byte `off` of a frame, one after another: those of a P frame whose stripe the write covers whole take their parity from
the new data, each parity word with the last data word at its group address (R588). -/
def writeRun (m : M) (q : Nat) (loc : Loc) (off : Nat) (words : List (List Byte × Bool)) : M :=
  match loc with
  | .p base =>
    let a0 := base + off
    let n := words.length
    let word := fun (a : Nat) => words.getD ((a - a0) / 32) (zeroWord, false)
    (List.range n).foldl (fun m i =>
      let a := a0 + 32 * i
      let w := word a
      let stripe := a / 3584 * 3584
      if a0 ≤ stripe ∧ stripe + 3584 ≤ a0 + 32 * n then
        let m := writeDataFull m q a w.1 w.2
        if a / 256 % 14 == 13 then
          writeParityFull m q (stripePlace a) ((List.range 14).map (fun j => (word (stripe + a % 256 + 256 * j)).1))
        else m
      else writeP m q a w.1 w.2) m
  | loc => (words.zipIdx).foldl (fun m (w, i) => writeLoc m q loc (off + 32 * i) w.1 w.2) m

end Sys2Proof.Machine
end

