-- ==== Sys2Proof/Machine/Coh0.lean ====
section
/-! DEFINITION. Coherent windows as accesses of this chip meet them: windows, lines, holds and the messages to members
(R435 to R440, R446, R449, R450, R458), and the mirror of X writes (R605). -/

namespace Sys2Proof.Machine
open Sys2Proof

/-! ### Windows and lines -/

def domain? (c : Core) (d : Nat) : Option Domain := amGet? c.coh.domains d
def setDomain (c : Core) (d : Nat) (x : Domain) : Core := { c with coh := { c.coh with domains := amSet c.coh.domains d x } }
def modDomain (c : Core) (d : Nat) (f : Domain → Domain) : Core :=
  { c with coh := { c.coh with domains := amMod c.coh.domains d f } }

/-- A window of the domain holds byte `off` of extent `e`. -/
def inDomain (x : Domain) (e off : Nat) : Bool := x.windows.any (fun w => w.1 == e && w.2.1 ≤ off && off < w.2.1 + w.2.2)

/-- The domain whose window holds byte `off` of extent `e`. -/
def windowOf (c : Core) (e off : Nat) : Option (Nat × Domain) := c.coh.domains.find? (fun d => inDomain d.2 e off)

/-- A window overlaps bytes `off` to `off + len`. -/
def windowIn (x : Domain) (e off len : Nat) : Bool :=
  x.windows.any (fun w => w.1 == e && w.2.1 < off + len && off < w.2.1 + w.2.2)

/-- Some window of the chip overlaps the bytes (R435). -/
def underWindow (c : Core) (e off len : Nat) : Bool := c.coh.domains.any (fun d => windowIn d.2 e off len)

/-- The bytes touch the window of a domain that is DRAINING or DOWN (R458). -/
def windowFrozen (c : Core) (e off len : Nat) : Bool := c.coh.domains.any (fun d => d.2.st != .up && windowIn d.2 e off len)

def lineKey (e off : Nat) : Nat := e * 2 ^ 29 + off / 128
def lineExt (k : Nat) : Nat := k / 2 ^ 29
def lineOff (k : Nat) : Nat := k % 2 ^ 29 * 128

def line? (c : Core) (k : Nat) : Option CohLine := amGet? c.coh.lines k
/-- The home plinth of a line (R438). -/
def linePlinth (k : Nat) : Nat := lineOff k / 128 % 4

/-- A line's directory entry is written (R439). A line without an entry is held by no member. -/
def setLine (c : Core) (k : Nat) (l : CohLine) : Core :=
  wroteCtrl (linePlinth k) (.line k) { c with coh := { c.coh with lines := amSet c.coh.lines k l } }
def modLine (c : Core) (k : Nat) (f : CohLine → CohLine) : Core :=
  match line? c k with
  | some l => setLine c k (f l)
  | none => c
def freeLine (c : Core) (k : Nat) : Core := ctrlMend { c with coh := { c.coh with lines := amDel c.coh.lines k } } (.line k)

/-- What is left of the line's hold, in ns (R445, R446). -/
def holdLeft (c : Core) (l : CohLine) : Nat :=
  match l.grant with
  | some g => g + c.fld COH_TIMING0 COH_TIMING0_HOLD_NS - c.glb.now
  | none => 0

/-! ### Messages of the home (Table 12-3, Table 13-11) -/

/-- A COH message to member `i` of domain `d`: SUBTYPE, class, ARG, TID, EXTRA and data. -/
def cohSend (c : Core) (d i sub cls arg tid k extra : Nat) (data : List Byte := []) : Core :=
  match (domain? c d).bind (fun x => amGet? x.members i) with
  | some (agent, ctx) => c.send {
      dst := .agent agent, type := 0x40, cls := cls, ctx := ctx,
      body := [sub, d, i, arg, tid, c.chipId * 2 ^ 52 + lineExt k * 2 ^ 36 + lineOff k, extra], data := data, work := none }
  | none => c

def cohData (c : Core) (d i tid k : Nat) (data : List Byte) (poison : Bool) : Core := cohSend c d i 9 1 (b2n poison) tid k 0 data

/-- A line is recalled, or its sharers told to drop it: BUSY until they answer (R448, R449). `keep` asks for MODE S.
DESIGN CHOICE, assumption 55 (unsafe). -/
def startRecall (c : Core) (k : Nat) (l : CohLine) (kind : TxKind) (keep : Bool) : Core :=
  let tx : CohTx := { kind := kind, invs := if l.owner.isSome then [] else l.sharers, snooped := l.owner, putCame := false,
                      evictedCame := false, since := c.glb.now }
  let c := setLine c k { l with busy := some tx }
  match l.owner with
  | some o => cohSend c l.domain o 8 0 (if keep then 0 else 1) Config.homeTid k 0
  | none => l.sharers.foldl (fun c i => cohSend c l.domain i 7 0 Config.homeIndex Config.homeTid k 0) c

/-- The access of this chip has its line: those who waited for it no longer do. -/
def passLine (c : Core) (k : Nat) : Core :=
  { c with coh := { c.coh with claims := c.coh.claims.filter (fun x => x.1 != k) } }

/-- An uncached read or write of one line (R449, R450): whether it must wait. -/
def cohLine (c : Core) (k : Nat) (wr : Bool) : Core × Bool :=
  match line? c k with
  | none => (passLine c k, false)
  | some l =>
    if l.busy.isSome || 0 < holdLeft c l then (c, true)
    else if l.owner.isSome then (startRecall c k l (if wr then .homeWrite else .homeRead) (!wr), true)
    else if wr then (startRecall c k l .homeWrite false, true)
    else (passLine c k, false)

/-- The lines of an access, one by one (R449): the first that must wait. -/
def cohLines (c : Core) (e : Nat) (wr : Bool) : List Nat → Core × Option ParkCause
  | [] => (c, none)
  | o :: t =>
    if (windowOf c e o).any (fun d => d.2.st == .up) then
      match cohLine c (lineKey e o) wr with
      | (c, true) => (c, some (.line e (o / 128 * 128)))
      | (c, false) => cohLines c e wr t
    else cohLines c e wr t

/-- What an access of window bytes waits for. -/
def cohWait (c : Core) (e off len : Nat) (wr : Bool) : Core × Option ParkCause :=
  if len = 0 || !underWindow c e off len then (c, none)
  else cohLines c e wr ((List.range ((off + len - 1) / 128 - off / 128 + 1)).map (fun i => (off / 128 + i) * 128))

/-- An access that parks at a line waits there ahead of every member (R450). -/
def claimLine (c : Core) (who : ParkRef) (k : ParkCause) : Core :=
  match k with
  | .line e o => { c with coh := { c.coh with claims := c.coh.claims ++ [(lineKey e o, who)] } }
  | _ => c

/-- Every replica of the operation under op tag `t` is answered, so that its X writes are made (R605). -/
def writesMade (c : Core) (t : Nat) : Bool := c.pair.outstanding.all (fun r => r.owner != t)

/-- A domain is to go DOWN for a cause of Table 12-8, with the dead member. -/
def cohFail (c : Core) (d cause : Nat) (dead : Option Nat) : Core :=
  { c with coh := { c.coh with toDown := c.coh.toDown ++ [(d, cause, dead)] } }

/-- Poison met in a window by an uncached read takes its domain DOWN by cause 3 (R454). -/
def cohPoison (c : Core) (e off len : Nat) : Core :=
  match c.coh.domains.find? (fun d => d.2.st == .up && windowIn d.2 e off len) with
  | some (d, _) => cohFail c d 3 none
  | none => c

/-! ### X writes and the partner (R605, R606) -/

/-- The entry of the dirty list for a byte of an X extent: one for each 2 MiB. -/
def dirtyKey (e off : Nat) : Nat := e * 2 ^ 16 + off / 2 ^ 21

def addDirty (c : Core) (k : Nat) : Core :=
  if c.pair.dirty.contains k then c else { c with pair := { c.pair with dirty := c.pair.dirty ++ [k] } }

/-- This chip is a holder that serves X accesses. -/
def pairHolder (c : Core) : Bool := c.fld PAIR_STATUS PAIR_STATUS_STATE == 5 || c.fld PAIR_STATUS PAIR_STATUS_STATE == 6

/-- The pair ID of this chip's pair names `chip` (R602). -/
def isPairId (c : Core) (chip : Nat) : Bool :=
  c.flag PAIR_LAYOUT PAIR_LAYOUT_PAIRED && c.fld PAIR_LAYOUT PAIR_LAYOUT_PAIR_ID == chip

/-- A pool pointer's CHIP is served here: this chip's own ID, or the pair's while this member serves X accesses (R602). -/
def servedHere (c : Core) (chip : Nat) : Bool := chip == c.chipId || (isPairId c chip && pairHolder c)

/-- The partner's last word shows that it serves X accesses, and it is not lost. -/
def partnerServes (c : Core) : Bool :=
  let p := c.fld PAIR_STATUS PAIR_STATUS_PARTNER_STATE
  c.pair.missed < 3 && (p == 5 || p == 6)

/-- A request for the pair ID parks here (R617). -/
def pairPark (c : Core) (chip : Nat) : Bool := isPairId c chip && !pairHolder c && !partnerServes c

/-- The partner takes replica writes of a frame: a STANDBY, or one in STANDBY_RESYNC that the frame has been copied to. -/
def partnerTakes (c : Core) (k : Nat) : Bool :=
  let p := c.fld PAIR_STATUS PAIR_STATUS_PARTNER_STATE
  c.pair.missed < 3 && (p == 3 || (p == 2 && c.pair.copied.contains k)) && !c.pair.dirty.contains k

/-- A write of an X frame that the holder has applied: the frame sequence advances and the partner is sent the words, or the
frame is dirty. -/
def mirrorX (c : Core) (e frame off : Nat) (words : List (List Byte × Bool)) : Core :=
  if !pairHolder c || words = [] then c
  else
    let f := e * 2 ^ 16 + frame
    let n := (amGet c.pair.fseq f 0 + 1) % 2 ^ 32
    let c := { c with pair := { c.pair with fseq := amSet c.pair.fseq f n } }
    if partnerTakes c (dirtyKey e off) then
      let r : Replica := { extent := e, frame := frame, fseq := n, offset := off, data := (words.map (·.1)).flatten,
                           poisons := words.map (·.2), tick := c.tick, owner := c.pair.opTag, sent := none }
      { c with pair := { c.pair with outstanding := c.pair.outstanding ++ [r] } }
    else addDirty c (dirtyKey e off)

end Sys2Proof.Machine
end

