-- ==== Sys2Proof/Machine/Extents.lean ====
section
/-! DEFINITION. Extents, frames and translation (chapter 3): the checks of R81, backing (R99 to R102), reading and writing
pool bytes, compression, migration, withdrawal and quarantine. -/

namespace Sys2Proof.Machine
open Sys2Proof

/-! ### Pool pointers and access checks -/

def ptrChip (p : W64) : Nat := bitsOf p.toNat 63 52
def ptrExtent (p : W64) : Nat := bitsOf p.toNat 51 36
def ptrOffset (p : W64) : Nat := bitsOf p.toNat 35 0

/-- The pool pointer of an offset (R79). -/
def mkPtr (chip extent off : Nat) : W64 := BitVec.ofNat 64 (chip % 4096 * 2 ^ 52 + extent % 65536 * 2 ^ 36 + off % 2 ^ 36)

def setExt (c : Core) (e : Nat) (x : Extent) : Core := { c with ext := { c.ext with exts := amSet c.ext.exts e x } }

def modExt (c : Core) (e : Nat) (f : Extent → Extent) : Core :=
  { c with ext := { c.ext with exts := amMod c.ext.exts e f } }

/-- The pool pointer of byte `off` of an extent of this chip: an X extent is reached by the pair ID alone (R602). -/
def extPtr (c : Core) (e off : Nat) : W64 :=
  mkPtr (if (ext? c e).any (fun x => x.cls == .x) then c.fld PAIR_LAYOUT PAIR_LAYOUT_PAIR_ID else c.chipId) e off

/-- The op tag under which the chip serves has already translated this access, which now waits for its words (R94). -/
def translated (c : Core) (e off len : Nat) : Bool := c.ext.translated.contains (c.pair.opTag, e, off, len)

/-- An access that has been translated waits for a stack or for the partner. -/
def noteTranslated (c : Core) (e off len : Nat) : Core :=
  if translated c e off len then c
  else { c with ext := { c.ext with translated := c.ext.translated ++ [(c.pair.opTag, e, off, len)] } }

/-- It has ended. -/
def endTranslated (c : Core) (e off len : Nat) : Core :=
  { c with ext := { c.ext with translated := c.ext.translated.filter (· != (c.pair.opTag, e, off, len)) } }

/-- The checks of Table 3-2 in their order (R81); `none` admits the access. Bytes of a frozen window (R458), of a frame that no
replica translates (R566) and of a lost frame (R616) fail after them. -/
def accessCheck (c : Core) (part e off len : Nat) (rd wr : Bool) : Option Status :=
  match ext? c e with
  | none => some .accessDenied
  | some x =>
    if x.partition ≠ part then some .accessDenied
    else if x.st ≠ .active && !(x.st == .withdrawing && translated c e off len) then some .extentWithdrawn
    else if (rd && !x.readable) || (wr && !x.writable) then some .accessDenied
    else if extBytes x < off + len then some .accessDenied
    else if windowFrozen c e off len then some .domainDown
    else if c.mem.lostFrames.any (fun k => k / 2 ^ 16 == e && (off / frameBytes x ≤ k % 2 ^ 16 && k % 2 ^ 16 * frameBytes x < off + len)) then
      some .poisoned
    else if c.pair.lost.any (fun k => k / 2 ^ 16 == e && 
        off / frameBytes x ≤ k % 2 ^ 16 * 2 ^ 21 / frameBytes x && k % 2 ^ 16 * 2 ^ 21 / frameBytes x * frameBytes x < off + len) then
      some .poisoned
    else none

/-- The same for a pool pointer: an X extent is reached by the pair ID alone (R602). -/
def ptrCheck (c : Core) (part : Nat) (ptr : W64) (len : Nat) (rd wr : Bool) : Option Status :=
  let isX := match ext? c (ptrExtent ptr) with | some x => x.cls == .x | none => false
  if isX && ptrChip ptr == c.chipId || !isX && ptrChip ptr != c.chipId then some .accessDenied
  else accessCheck c part (ptrExtent ptr) (ptrOffset ptr) len rd wr

/-- An untouched frame (R90). -/
def freshFrame : Frame :=
  { st := .unbacked, loc := none, dest := none, cold := false, incompressible := false, compressing := false,
    packed := [], chunks := 0, count := 0, disarmed := false }

def frameOf (x : Extent) (i : Nat) : Frame := amGet x.frames i freshFrame

/-- A frame's record changes. A new state or place is written to the translation entry's replica on every plinth (R15). -/
def setFrame (c : Core) (e i : Nat) (f : Frame) : Core :=
  let same := match ext? c e with | some x => (frameOf x i).st == f.st && (frameOf x i).loc == f.loc | none => true
  (fun c => if same then c else (List.range 4).foldl (fun c p => wroteCtrl p (.trans p e i) c) c) <| modExt c e (fun x => { x with frames := amPut freshFrame x.frames i f })

def modFrame (c : Core) (e i : Nat) (g : Frame → Frame) : Core :=
  match ext? c e with
  | some x => setFrame c e i (g (frameOf x i))
  | none => c

/-- Backed frames count against the quota in every backed state (R102). -/
def backedFrames (x : Extent) : Nat := amCount x.frames (fun _ f => f.st != .unbacked)

/-- Frames that an access of `len` bytes at `off` touches. -/
def framesTouched (x : Extent) (off len : Nat) : List Nat :=
  if len = 0 then []
  else (List.range ((off + len - 1) / frameBytes x - off / frameBytes x + 1)).map (off / frameBytes x + ·)

/-! ### Frame pools (R585, R100) -/

def alignUp (n a : Nat) : Nat := (a + n - 1) / n * n

/-- `n` units, aligned to `n`, of the run from `first` of `count`. -/
def runStart? (r : FreeRun) (n : Nat) : Option Nat :=
  let s := alignUp n r.first
  if s + n ≤ r.first + r.count then some s else none

/-- The runs without units `s` to `s + n` of stack `st`. -/
def takeUnits (runs : List FreeRun) (st : Option Nat) (s n : Nat) : List FreeRun :=
  runs.flatMap (fun r =>
    if r.stack = st ∧ r.first ≤ s ∧ s + n ≤ r.first + r.count then
      [⟨st, r.first, s - r.first⟩, ⟨st, s + n, r.first + r.count - (s + n)⟩].filter (fun x => x.count != 0)
    else [r])

/-- A run of `n` units free on stack `a` and at the same place on its mirror (R592). -/
def mirrorStart? (runs : List FreeRun) (n : Nat) : Option (Nat × Nat) :=
  runs.findSome? (fun r => match r.stack with
    | none => none
    | some a => runs.findSome? (fun t =>
        if t.stack = some (a ^^^ 8) then
          let s := alignUp n (max r.first t.first)
          if s + n ≤ min (r.first + r.count) (t.first + t.count) then some (a, s) else none
        else none))

/-- A free frame of the partition for a class: the first of the pool's list that serves it, and the pool without it. A stack
out of service gives no frame. Units are 2 MiB; a 1 GiB frame takes 512. -/
def poolTake (c : Core) (q : Nat) (cls : RedClass) (large : Bool) : Option (Loc × Core) :=
  let runs := amGet c.mem.pool q []
  let n := if large then 512 else 1
  let set := fun rs => { c with mem := { c.mem with pool := amSet c.mem.pool q rs } }
  let live := runs.filter (fun r => match r.stack with | none => true | some s => !stackBad c s)
  match cls with
  | .p => (live.filter (·.stack = none)).findSome? (fun r =>
      (runStart? r n).map (fun s => (.p (s * 2 ^ 21), set (takeUnits runs none s n))))
  | .m => (mirrorStart? live n).map (fun (a, s) =>
      (.m a (s * 2 ^ 21), set (takeUnits (takeUnits runs (some a) s n) (some (a ^^^ 8)) s n)))
  | .x => (live.filter (·.stack ≠ none)).findSome? (fun r =>
      (runStart? r n).map (fun s => (.x (r.stack.getD 0) (s * 2 ^ 21), set (takeUnits runs r.stack s n))))
  | .n => (live.filter (·.stack ≠ none)).findSome? (fun r =>
      (runStart? r n).map (fun s => (.n (r.stack.getD 0) (s * 2 ^ 21), set (takeUnits runs r.stack s n))))

/-- The runs a frame's place takes. -/
def locRuns (l : Loc) (large : Bool) : List FreeRun :=
  let n := if large then 512 else 1
  match l with
  | .p a => [⟨none, a / 2 ^ 21, n⟩]
  | .m s a => [⟨some s, a / 2 ^ 21, n⟩, ⟨some (s ^^^ 8), a / 2 ^ 21, n⟩]
  | .x s a => [⟨some s, a / 2 ^ 21, n⟩]
  | .n s a => [⟨some s, a / 2 ^ 21, n⟩]

/-- A frame goes to the partition's fill list (R96). -/
def toFill (c : Core) (q : Nat) (l : Loc) (large : Bool) : Core :=
  { c with mem := { c.mem with fill := amSet c.mem.fill q (amGet c.mem.fill q [] ++ locRuns l large) } }

/-- Free frames of a partition in units of 2 MiB (`EXT_PART_FREE`). -/
def partFree (c : Core) (q : Nat) : Nat := ((amGet c.mem.pool q []).map (·.count)).foldl (· + ·) 0

/-- The entry of frame `i` leaves all four caches before any change to it is acknowledged (R89). -/
def tcKey (e i : Nat) : Nat := e * 2 ^ 16 + i

def dropCached (c : Core) (e i : Nat) : Core :=
  { c with ext := { c.ext with tcache := amMap c.ext.tcache (fun _ l => l.filter (· != tcKey e i)) } }

/-- A place that frame `i` of a withdrawing extent takes joins the extent's quarantine (R98). -/
def joinQuarantine (c : Core) (e i : Nat) (l : Loc) : Core :=
  match ext? c e with
  | none => c
  | some x => if x.st = .active then c else { c with ext := { c.ext with quarantine := c.ext.quarantine.map (fun r =>
      if r.extent = e then { r with frames := r.frames ++ [(i, x.large, l)] } else r) } }

/-- R100: an UNBACKED frame is backed when the extent is below its quota and the pool has a frame of its class. -/
def backFrame (c : Core) (e i : Nat) : Option Core :=
  match ext? c e with
  | none => none
  | some x =>
    if x.quota ≤ backedFrames x then none
    else (poolTake c x.partition x.cls x.large).map (fun (l, c) =>
      dropCached (joinQuarantine (modFrame c e i (fun f => { f with st := .resident, loc := some l })) e i l) e i)

/-- A write that waits for frame `i` of an extent need wait no longer: the quota and the pool allow the backing, or the frame
holds data (R101, R108). -/
def backingClear (c : Core) (e i : Nat) : Bool :=
  match ext? c e with
  | none => true
  | some x => x.st != .active || (match (frameOf x i).st with
      | .unbacked => (backFrame c e i).isSome
      | .compressed | .decompressing => false
      | _ => true)

/-! ### Translation caches and counters (R89, R110) -/

/-- A translated operation of plinth `p` that touches frame `i`: its access counter (R110) and the plinth's cache, which
keeps the newest 8,192 entries (R89). -/
def touchFrame (c : Core) (p e i : Nat) : Core :=
  let c := modFrame c e i (fun f => { f with count := satAdd 16 f.count 1 })
  let l := amGet c.ext.tcache p []
  let k := tcKey e i
  let c := if l.contains k then c.perf (EXT_TC_HIT p) else c.perf (EXT_TC_MISS p)
  { c with ext := { c.ext with tcache := amSet c.ext.tcache p ((k :: l.filter (· != k)).take 8192) } }

def touchRange (c : Core) (p e off len : Nat) : Core :=
  match ext? c e with
  | some x => (framesTouched x off len).foldl (fun c i => touchFrame c p e i) c
  | none => c

/-- Every entry of an extent leaves the caches. -/
def dropCachedExt (c : Core) (e : Nat) : Core :=
  { c with ext := { c.ext with tcache := amMap c.ext.tcache (fun _ l => l.filter (fun k => k / 2 ^ 16 != e)) } }

/-! ### Reading and writing pool bytes of an extent of this chip -/

/-- A COMPRESSED frame that is accessed begins its restore (Table 3-5, R107); a frame being compressed is left RESIDENT
(R106). -/
def wakeFrame (c : Core) (e i : Nat) : Core :=
  match (ext? c e).map (fun x => (frameOf x i).st) with
  | some .compressed => dropCached (modFrame c e i (fun f => { f with st := .decompressing })) e i
  | _ => modFrame c e i (fun f => { f with compressing := false })

/-- What an access of frames waits for, if anything (R107, R109): the first frame that is not ready. -/
def frameWait (c : Core) (e off len : Nat) (wr : Bool) : Core × Option ParkCause :=
  match ext? c e with
  | none => (c, none)
  | some x =>
    let fs := framesTouched x off len
    let c := fs.foldl (fun c i => wakeFrame c e i) c
    let (c, k) := cohWait c e off len wr
    if k.isSome then (c, k)
    else match fs.find? (fun i => match (frameOf x i).st with
      | .compressed | .decompressing | .migrating => true
      | _ => false) with
    | some i => (c, some (.frame e i (max off (i * frameBytes x))))
    | none => (c, (fs.findSome? (fun i => match (frameOf x i).loc with
      | none => none
      | some l =>
        let lo := max off (i * frameBytes x)
        let hi := min (off + len) ((i + 1) * frameBytes x)
        let running := match l with
          | .x n g => stepHolds c x.partition n (g + lo % frameBytes x) (hi - lo)
          | _ => false
        if running then some (.fetch stepKey)
        else (sleepingStack c x.partition l (lo % frameBytes x) (hi - lo) wr).map (fun n => .power (36 + n)))))

/-- Stack word `w` (index within the extent): zeros of an UNBACKED frame (R99), else the word of its backing frame. -/
def readExtWord (m : M) (e w : Nat) : M × WordRead :=
  match ext? m.core e with
  | none => (m, .good zeroWord)
  | some x =>
    let off := 32 * w
    match (frameOf x (off / frameBytes x)).loc with
    | none => (m, .good zeroWord)
    | some l => readLoc m x.partition l (off % frameBytes x)

/-- Words from `w`, with a mark on each poisoned one, and whether one must be fetched from the partner. -/
def readExtWords : Nat → M → Nat → Nat → M × List (List Byte × Bool) × Option Nat
  | 0, m, _, _ => (m, [], none)
  | n + 1, m, e, w =>
    let (m, r) := readExtWord m e w
    let (m, rest, need) := readExtWords n m e (w + 1)
    match r with
    | .good d => (m, (d, false) :: rest, need)
    | .poison d => (m, (d, true) :: rest, need)
    | .bad d => (m, (d, true) :: rest, some w)
    | .gone => (m, (zeroWord, true) :: rest, some w)

/-- The result of reading pool bytes: the bytes and the poison of each word they lie in, or what the read waits for. -/
inductive ReadRes where
  | got (bytes : List Byte) (poisons : List Bool)
  | wait (cause : ParkCause)
deriving DecidableEq, Repr

/-! ### Flits of pair links (R18, R581) -/

/-- The pair link between two plinths and the direction from the first to the second, as ECC_FLIP_CTRL numbers them: 0 from the
lower-numbered plinth. -/
def linkOf (a b : Nat) : Option (Nat × Nat) :=
  ((List.range 6).find? (fun l => linkPlinths l == (min a b, max a b))).map (fun l => (l, if a < b then 0 else 1))

/-- Link `l` is in service. -/
def linkGood (c : Core) (l : Nat) : Bool := !bitOf (c.fld GLB_FENCED GLB_FENCED_LINKS) l

/-- The hops of a flit from plinth `a` to plinth `b`: the direct link, or, when that is fenced, two links by the lowest other plinth
whose links to both are in service (R20). DESIGN CHOICE, assumption 27 (unsafe). -/
def hopsOf (c : Core) (a b : Nat) : List (Nat × Nat) :=
  let good := fun (x y : Nat) => (linkOf x y).any (fun l => linkGood c l.1)
  if a = b then []
  else if good a b then [(a, b)]
  else match (List.range 4).find? (fun v => v ≠ a && v ≠ b && good a v && good v b) with
    | some v => [(a, v), (v, b)]
    | none => []

/-- The hop of a flit from one plinth to another at which the armed mask counts it. -/
def flitHit (c : Core) (a b : Nat) : Option (Nat × Nat) :=
  (hopsOf c a b).find? (fun h => (linkOf h.1 h.2).any (fun l =>
    c.fld ECC_FLIP_CTRL ECC_FLIP_CTRL_UNIT == l.1 && c.fld ECC_FLIP_CTRL ECC_FLIP_CTRL_LINK_DIR == l.2))

def flipLink (c : Core) : Bool := c.flag ECC_FLIP_CTRL ECC_FLIP_CTRL_ARMED && c.fld ECC_FLIP_CTRL ECC_FLIP_CTRL_KIND == 4

/-- The flit of a word under the mask reaches the router of plinth `b`: it is corrected, or goes on poisoned. -/
def flipFlit (c : Core) (a b : Nat) (data : List Byte) (poison : Bool) : Core × List Byte × Bool :=
  let (dm, cm) := flipMask c
  let d := (if poison then poisonMask else 0) ^^^ cm ^^^ checksOf dm
  let bad := xorBytes (padTo 32 0 data) dm
  let l := ((linkOf a b).map (·.1)).getD 0
  let c := c.setFld ECC_FLIP_CTRL ECC_FLIP_CTRL_ARMED 0
  match classify d with
  | .clean => (c, bad, false)
  | .poisoned => (c, bad, true)
  | .corrected k e => (raise (c.count (AMT_CORRECTED b)) .armFlitCorrected 6 l, correctData bad k e, false)
  | .uncorrectable => (raise (c.count (AMT_POISONED b)) .armFlitPoisoned 6 l, bad, true)

/-- The plinth of the stack that holds word `w` of an extent. -/
def wordPlinth (c : Core) (e w : Nat) : Option Nat :=
  match ext? c e with
  | none => none
  | some x => ((frameOf x (32 * w / frameBytes x)).loc).bind (fun l =>
      ((stacksUsed c x.partition l (32 * w % frameBytes x) false).head?).map (· / 4))

/-- The words of a read on their way to plinth `p`. DEDUCED, assumption 68 (safe). -/
def armRead (m : M) (p e w0 : Nat) (ws : List (List Byte × Bool)) : M × List (List Byte × Bool) :=
  if !flipLink m.core then (m, ws)
  else match (List.range ws.length).findSome? (fun k => (wordPlinth m.core e (w0 + k)).bind (fun a =>
      (flitHit m.core a p).map (k, ·))) with
    | none => (m, ws)
    | some (k, h) =>
      let x := ws.getD k ([], false)
      let (c, d, bad) := flipFlit m.core h.1 h.2 x.1 x.2
      ({ m with core := c }, listMod ws k (fun _ => (d, bad)))

/-- The words of a write on their way from plinth `p`, once it is made: one that a flit leaves poisoned is stored so.
DEDUCED, assumption 68 (safe). -/
def armWrite (m : M) (p e w0 n : Nat) : M :=
  if !flipLink m.core then m
  else match (List.range n).findSome? (fun k => (wordPlinth m.core e (w0 + k)).bind (fun b =>
      (flitHit m.core p b).map (k, ·))) with
    | none => m
    | some (k, h) =>
      let (m, r) := readExtWord m e (w0 + k)
      let (data, poison) := match r with | .good d => (d, false) | .poison d => (d, true) | .bad d => (d, true) | .gone => (zeroWord, true)
      let (c, d, bad) := flipFlit m.core h.1 h.2 data poison
      let m := { m with core := c }
      match ext? c e with
      | none => m
      | some x => match (frameOf x (32 * (w0 + k) / frameBytes x)).loc with
        | none => m
        | some l =>
          let m := if bad && !poison then m.on (·.count ECC_POISON_WRITTEN) else m
          writeLoc m x.partition l (32 * (w0 + k) % frameBytes x) d bad

/-- `len` bytes at `off` of extent `e`, read by plinth `p` after the checks of R81. Each poisoned word read is counted
(R571). -/
def readBytes (m : M) (p e off len : Nat) : M × ReadRes :=
  if len = 0 then (m, .got [] [])
  else
    let (c, park) := frameWait m.core e off len false
    let m := { m with core := c }
    match park with
    | some (.power n) => (m.on (fun c => noteTranslated c e off len), .wait (.power n))
    | some k => (m, .wait k)
    | none =>
      let w0 := off / 32
      let n := (off + len - 1) / 32 - w0 + 1
      let (m, ws, need) := readExtWords n m e w0
      match need with
      | some w => (m.on (fun c => noteTranslated c e off len), .wait (.fetch (e * 2 ^ 31 + w)))
      | none =>
        let m := m.on (fun c => touchRange (endTranslated c e off len) p e off len)
        let m := m.on (fun c => c.count ECC_POISON_READ ((ws.filter (·.2)).length))
        let m := if ws.any (·.2) then m.on (fun c => cohPoison c e off len) else m
        let (m, ws) := armRead m p e w0 ws
        (m, .got (((ws.map (·.1)).flatten.drop (off % 32)).take len) (ws.map (·.2)))

/-- Reads since `c0` only moved the words they met: none counts as a consumer's read (R570). -/
def movedOnly (c0 : Core) (m : M) : M := m.on (fun c => c.rset ECC_POISON_READ (c0.rget ECC_POISON_READ))

/-- Poison of the word that holds byte `i` of a read that began at `off`. -/
def poisonAt (off : Nat) (poisons : List Bool) (i : Nat) : Bool := poisons.getD ((off % 32 + i) / 32) false

/-- What a write leaves unmade and why, and the first partial word (index in the extent) that was dropped because its word is
poisoned (R572). -/
structure WriteRes where
  rest : List (Nat × List Byte)
  wait : Option ParkCause
  poisonHit : Option Nat
deriving DecidableEq, Repr

/-- A write's bytes cut into whole words: bytes of the first and last word that the write does not supply come from memory;
a poisoned one is left out and reported (R572). -/
def fillWords (m : M) (e off : Nat) (bytes : List Byte) : M × List (Nat × List Byte) × Option Nat :=
  let w0 := off / 32
  let n := (off + bytes.length + 31) / 32 - w0
  (List.range n).foldl (fun (m, ws, hit) k =>
    let w := w0 + k
    let lo := max off (32 * w)
    let hi := min (off + bytes.length) (32 * w + 32)
    let part := (bytes.drop (lo - off)).take (hi - lo)
    if hi - lo = 32 then (m, ws ++ [(w, part)], hit)
    else
      let (m, r) := readExtWord m e w
      match r with
      | .good d => (m, ws ++ [(w, d.take (lo - 32 * w) ++ part ++ d.drop (hi - 32 * w))], hit)
      | _ => (m, ws, hit <|> some w)) (m, [], none)

/-- Words whose indices follow one another are written as one run (R588). -/
def writeWordRuns (m : M) (q : Nat) (l : Loc) (fb : Nat) : List (Nat × List Byte) → M
  | [] => m
  | (w, d) :: t =>
    let run := (w, d) :: (t.zipIdx.takeWhile (fun (x, i) => x.1 = w + 1 + i)).map (·.1)
    if run.length = t.length + 1 then writeRun m q l (32 * w % fb) (run.map (fun x => (x.2, false)))
    else ((w, d) :: t).foldl (fun m x => writeRun m q l (32 * x.1 % fb) [(x.2, false)]) m

/-- The part of a write by plinth `p` that falls in one frame: backed on first touch (R100), else left for R101. `touch` counts it
as an operation on the frame (R110). -/
def writeFramePart (touch : Bool) (m : M) (p e i off : Nat) (bytes : List Byte) (r : WriteRes) : M × WriteRes :=
  match ext? m.core e with
  | none => (m, r)
  | some x =>
    let c := if touch then touchFrame m.core p e i else m.core
    let back := if (frameOf x i).st = .unbacked then backFrame c e i else some c
    match back with
    | none => (m, { r with rest := r.rest ++ [(off, bytes)], wait := r.wait <|> some (.backing e i off) })
    | some c =>
      let c := modFrame c e i (fun f => { f with incompressible := false, compressing := false })
      let m := { m with core := c }
      match ext? c e with
      | none => (m, r)
      | some x =>
        match (frameOf x i).loc with
        | none => (m, r)
        | some l =>
          let (m, ws, hit) := fillWords m e off bytes
          let m := writeWordRuns m x.partition l (frameBytes x) ws
          let m := match l with
            | .x _ _ => m.on (fun c => ws.foldl (fun c w => mirrorX c e i (32 * w.1) [(w.2, false)]) c)
            | _ => m
          (m, { r with poisonHit := r.poisonHit <|> hit })

/-- Bytes written at `off` of extent `e` by plinth `p` after the checks of R81, frame by frame in increasing offset. -/
def writeBytes (m : M) (p e off : Nat) (bytes : List Byte) (touch : Bool := true) : M × WriteRes :=
  if bytes = [] then (m, ⟨[], none, none⟩)
  else
    let (c, park) := frameWait m.core e off bytes.length true
    let m := { m with core := c }
    match park with
    | some (.power n) => (m.on (fun c => noteTranslated c e off bytes.length), ⟨[(off, bytes)], some (.power n), none⟩)
    | some k => (m, ⟨[(off, bytes)], some k, none⟩)
    | none =>
      let m := m.on (fun c => endTranslated c e off bytes.length)
      match ext? c e with
      | none => (m, ⟨[], none, none⟩)
      | some x =>
        let fb := frameBytes x
        let (m, r) := (framesTouched x off bytes.length).foldl (fun (m, r) i =>
          let lo := max off (i * fb)
          let hi := min (off + bytes.length) ((i + 1) * fb)
          writeFramePart touch m p e i lo ((bytes.drop (lo - off)).take (hi - lo)) r) (m, ⟨[], none, none⟩)
        (armWrite m p e (off / 32) ((off + bytes.length - 1) / 32 - off / 32 + 1), r)

/-- Segments written one after another. What has no backing is left (R101); poison in a partial word is reported (R572). -/
def writeSegments (m : M) (p e : Nat) (l : List (Nat × List Byte)) : M × WriteRes :=
  l.foldl (fun (m, r) s =>
    let (m, x) := writeBytes m p e s.1 s.2
    (m, ⟨r.rest ++ x.rest, r.wait <|> x.wait, r.poisonHit <|> x.poisonHit⟩)) (m, ⟨[], none, none⟩)

def isBacking : ParkCause → Bool
  | .backing _ _ _ => true
  | _ => false

/-- Whole words written with their poison marks, in frames already backed or backed now; a word whose frame has no backing
is left out and reported. -/
def writeMarked (m : M) (p e w : Nat) (ws : List (List Byte × Bool)) : M × WriteRes :=
  let c := touchRange m.core p e (32 * w) (32 * ws.length)
  let (m, r) := ws.zipIdx.foldl (fun (m, r) (d, k) =>
    match ext? m.core e with
    | none => (m, r)
    | some x =>
      let i := 32 * (w + k) / frameBytes x
      let back := if (frameOf x i).st = .unbacked then backFrame m.core e i else some m.core
      match back with
      | none => (m, { r with rest := r.rest ++ [(32 * (w + k), d.1)], wait := r.wait <|> some (.backing e i (32 * (w + k))) })
      | some c =>
        let c := modFrame c e i (fun f => { f with incompressible := false, compressing := false })
        match ((ext? c e).bind (fun x => (frameOf x i).loc)) with
        | none => ({ m with core := c }, r)
        | some l =>
          let m := { m with core := c }
          let m := if d.2 then m.on (·.count ECC_POISON_WRITTEN) else m
          let m := writeLoc m x.partition l (32 * (w + k) % frameBytes x) d.1 d.2
          let m := match l with
            | .x _ _ => m.on (fun c => mirrorX c e i (32 * (w + k)) [d])
            | _ => m
          (m, r)) ({ m with core := c }, ⟨[], none, none⟩)
  (armWrite m p e w ws.length, r)

/-! ### Withdrawal and quarantine (R94 to R97) -/

/-- The frames an extent holds: index, size and place. -/
def heldFrames (x : Extent) : List (Nat × Bool × Loc) :=
  x.frames.filterMap (fun (i, f) => f.loc.map (fun l => (i, x.large, l)))
    ++ x.frames.filterMap (fun (i, f) => f.dest.map (fun l => (i, x.large, l)))
    ++ x.released.map (fun l => (0, x.large, l))

/-- A quarantine record for extent `e`: the op tags live now and the frames of the extent (R94, R96). -/
def takeSnapshot (c : Core) (e : Nat) (tags : List Nat) : Core :=
  match ext? c e with
  | none => c
  | some x =>
    let rec' : Quarantine := { extent := e, tags := tags, frames := heldFrames x, age := 0 }
    modExt { c with ext := { c.ext with quarantine := c.ext.quarantine ++ [rec'] } } e
      (fun x => { x with deferred := false, released := [] })

/-- An ACTIVE extent enters WITHDRAWING (R94): later translations are refused from now; the snapshot is taken at once or,
with no record free, deferred (R97). -/
def enterWithdrawing (c : Core) (e : Nat) (tags : List Nat) : Core :=
  match ext? c e with
  | none => c
  | some x =>
    if x.st ≠ .active then c
    else
      let fs := amMap x.frames (fun _ f => { f with compressing := false })
      let c := dropCachedExt (modExt c e (fun x => { x with st := .withdrawing, migrateTo := none, frames := fs })) e
      let c := { c with ext := { c.ext with regions := c.ext.regions.filter (fun r => r.2.extent != e) } }
      if c.ext.quarantine.length < 256 then takeSnapshot c e tags
      else
        let c := { c with ext := { c.ext with waiting := c.ext.waiting ++ [e] } }
        raise (modExt c e (fun x => { x with deferred := true })) .extQuarantineFull 10 e

/-- What the pair keeps of an extent ends with its withdrawal (R605, R606, R616). -/
def forgetPair (c : Core) (e : Nat) : Core :=
  let of := fun (k : Nat) => k / 2 ^ 16 == e
  { c with pair := { c.pair with
      lost := c.pair.lost.filter (fun k => !of k), dirty := c.pair.dirty.filter (fun k => !of k),
      copied := c.pair.copied.filter (fun k => !of k), fseq := c.pair.fseq.filter (fun k => !of k.1),
      early := c.pair.early.filter (·.extent != e), digests := c.pair.digests.filter (·.1 != e) } }

/-- The snapshot's last op tag has retired (R96): the extent is WITHDRAWN and its frames go to the fill list. -/
def retireSnapshot (c : Core) (e : Nat) : Core × Bool :=
  match c.ext.quarantine.find? (fun r => r.extent == e && r.tags.isEmpty), ext? c e with
  | some r, some x =>
    let c := { c with ext := { c.ext with quarantine := c.ext.quarantine.filter (fun t => t.extent != e) } }
    let c := r.frames.foldl (fun c (_, large, l) => toFill c x.partition l large) c
    let c := forgetPair { c with mem := { c.mem with lostFrames := c.mem.lostFrames.filter (fun k => k / 2 ^ 16 != e) } } e
    (modExt c e (fun x => { x with st := .withdrawn, frames := [], released := [] }), true)
  | _, _ => (c, false)

/-- Op tag `t` retires from every snapshot that holds it. -/
def retireTag (c : Core) (t : Nat) : Core :=
  { c with ext := { c.ext with
      quarantine := c.ext.quarantine.map (fun r => { r with tags := r.tags.filter (· != t) }),
      translated := c.ext.translated.filter (fun x => x.1 != t) } }

/-- A record has freed: the oldest waiting withdrawal takes its snapshot (R97). `some e` names it, for its
acknowledgement. -/
def nextWaiting (c : Core) (tags : List Nat) : Core × Option Nat :=
  match c.ext.waiting with
  | [] => (c, none)
  | e :: t =>
    if c.ext.quarantine.length < 256 then
      (takeSnapshot { c with ext := { c.ext with waiting := t } } e tags, some e)
    else (c, none)

/-- DISCARD of frames (Table 3-7, R91): backed frames become UNBACKED and their places wait for the extent's next snapshot. Table
3-5 gives the step of a RESIDENT frame; the others of the range leave their states the same way, a compressed form being freed and
a migration's new place released too. DESIGN CHOICE, assumption 34 (unsafe). -/
def discardFrames (c : Core) (e first count : Nat) : Core :=
  (List.range count).foldl (fun c k =>
    match ext? c e with
    | none => c
    | some x =>
      let f := frameOf x (first + k)
      if f.st ≠ .unbacked && first + k < x.size then
        let c := modExt c e (fun x => { x with released := x.released ++ f.loc.toList ++ f.dest.toList })
        dropCached (setFrame c e (first + k) { freshFrame with count := f.count, disarmed := f.disarmed }) e (first + k)
      else c) c

/-! ### Compression (R103 to R108) and migration (R109) -/

/-- The words of a frame at `l`, with poison marks. -/
def readFrame (m : M) (q : Nat) (l : Loc) (words : Nat) : M × List (List Byte × Bool) :=
  (List.range words).foldl (fun (m, ws) i =>
    let (m, r) := readLoc m q l (32 * i) false
    match r with
    | .good d => (m, ws ++ [(d, false)])
    | .poison d => (m, ws ++ [(d, true)])
    | .bad d => (m, ws ++ [(d, true)])
    | .gone => (m, ws ++ [(zeroWord, true)])) (m, [])

/-- The words a compressed form keeps: those not all zero, and poisoned ones (R104). DESIGN CHOICE, assumption 34 (unsafe). -/
def packWords (ws : List (List Byte × Bool)) : List PackedWord :=
  ws.zipIdx.filterMap (fun ((d, p), i) => if p || d.any (· != 0) then some ⟨i, d, p⟩ else none)

/-- Chunks of 64 KiB of the smaller form: zero-codeword elision, or rows of `stride` words (R104). -/
def packedChunks (kept words stride : Nat) : Nat :=
  let zero := words / 8 + 32 * kept
  let rows := if stride = 0 then zero else (words + stride - 1) / stride * 2 + 34 * kept
  (min zero rows + 65535) / 65536

/-- A restored frame's words. -/
def unpackInto (m : M) (q : Nat) (l : Loc) (ps : List PackedWord) : M :=
  ps.foldl (fun m p => writeLoc m q l (32 * p.idx) p.data p.poisoned) m

/-! ### Regions (R118 to R123) -/

def region? (c : Core) (r : Nat) : Option Region := amGet? c.ext.regions r

/-- PUBLISH's comparison (R119): the version is the expected one and the new one is newer in serial arithmetic. -/
def publishOk (cur expected new : Nat) : Bool := cur == expected && serialNewer new cur

end Sys2Proof.Machine
end

