-- ==== Sys2Proof/Machine/Numfmt.lean ====
section
/-! DEFINITION. Number formats and arithmetic (chapter 4): exact values, decoding (R127 to R134), encoding and rounding (R146
to R159), FP32 arithmetic (R164 to R171) and sums in an order that the hardware chooses (R167). -/

namespace Sys2Proof.Machine
open Sys2Proof

/-! ### Formats (R125, R144) -/

/-- The formats of Table 4-1. -/
inductive Fmt where
  | fp32 | bf16 | fp16 | f8a | f8b | i8 | i4 | bk8 | bk4 | bq4 | cb4 | i32
deriving DecidableEq, Repr

def fmtOfCode : Nat → Option Fmt
  | 0x0 => some .fp32 | 0x1 => some .bf16 | 0x2 => some .fp16 | 0x3 => some .f8a | 0x4 => some .f8b
  | 0x5 => some .i8 | 0x6 => some .i4 | 0x8 => some .bk8 | 0x9 => some .bk4 | 0xA => some .bq4
  | 0xB => some .cb4 | 0xC => some .i32 | _ => none

def roundOfCode : Nat → Option Round
  | 0 => some .even | 1 => some .zero | 2 => some .stoch | _ => none

/-- A format word's fields (Table 4-7). -/
structure FmtWord where
  fmt : Fmt
  toInf : Bool
  round : Round
  fitted : Bool
  codebook : Nat
deriving DecidableEq, Repr

def isBlock : Fmt → Bool
  | .bk8 | .bk4 | .bq4 | .cb4 => true
  | _ => false

/-- Format word `w`, unless it breaks R144. -/
def fmtWord? (w : Nat) : Option FmtWord :=
  match fmtOfCode (bitsOf w 3 0), roundOfCode (bitsOf w 5 4) with
  | some f, some r =>
    let cb := bitsOf w 15 8
    let fit := bitOf w 7
    if bitsOf w 31 16 ≠ 0 || (cb ≠ 0 && f ≠ .cb4) || (fit && !isBlock f) then none
    else some { fmt := f, toInf := bitOf w 6, round := r, fitted := fit, codebook := cb }
  | _, _ => none

/-- The FORMAT, OVERFLOW and CODEBOOK of two words agree (R145). -/
def sameTableFmt (a b : FmtWord) : Bool := a.fmt == b.fmt && a.toInf == b.toInf && a.codebook == b.codebook

/-- Bits of an element. -/
def elemBits : Fmt → Nat
  | .fp32 | .i32 => 32
  | .bf16 | .fp16 => 16
  | .i4 | .bk4 | .bq4 | .cb4 => 4
  | _ => 8

/-- Scale bytes per block (Table 4-3). -/
def scaleBytes : Fmt → Nat
  | .bq4 => 2
  | .bk8 | .bk4 | .cb4 => 1
  | _ => 0

/-- A narrow element format (R164). -/
def isNarrow : Fmt → Bool
  | .fp32 | .bf16 | .fp16 | .i32 => false
  | _ => true

def isInt : Fmt → Bool
  | .i8 | .i4 | .i32 => true
  | _ => false

/-- A row length that the format admits (R135). -/
def rowLenOk : Fmt → Nat → Bool
  | .bk8, n => n % 32 == 0
  | .bk4, n | .bq4, n | .cb4, n => n % 64 == 0
  | _, _ => true

/-- Bytes of `n` elements. -/
def elemsBytes (f : Fmt) (n : Nat) : Nat := (n * elemBits f + 7) / 8

/-! ### Exact values -/

def FVal.zero : FVal := .fin false 0 0
def FVal.ofInt (i : Int) : FVal := .fin (decide (i < 0)) i.natAbs 0

def FVal.isFin : FVal → Bool
  | .fin _ _ _ => true
  | _ => false

def FVal.isZero : FVal → Bool
  | .fin _ 0 _ => true
  | _ => false

def FVal.isNeg : FVal → Bool
  | .fin n _ _ => n
  | .inf n _ => n
  | .nan => false

def FVal.neg : FVal → FVal
  | .fin n m e => .fin (!n) m e
  | .inf n o => .inf (!n) o
  | .nan => .nan

def FVal.abs : FVal → FVal
  | .fin _ m e => .fin false m e
  | .inf _ o => .inf false o
  | .nan => .nan

/-- The signed mantissa of a finite number on the grid of 2^e0, e0 not above its exponent. -/
def alignTo (neg : Bool) (m : Nat) (e e0 : Int) : Int :=
  let k : Int := (m * 2 ^ (e - e0).toNat : Nat)
  if neg then -k else k

/-- The exact sum. A zero sum is −0 only when both are −0. -/
def FVal.add : FVal → FVal → FVal
  | .nan, _ => .nan
  | _, .nan => .nan
  | .inf a o, .inf b p => if a = b then .inf a (o && p) else .nan
  | .inf a o, _ => .inf a o
  | _, .inf b p => .inf b p
  | .fin n m e, .fin n' m' e' =>
    let e0 := min e e'
    let s := alignTo n m e e0 + alignTo n' m' e' e0
    if s = 0 then .fin (n && n') 0 0 else .fin (decide (s < 0)) s.natAbs e0

def FVal.sub (a b : FVal) : FVal := a.add b.neg

/-- The exact product by IEEE 754 rules: 0 × ∞ is NaN. -/
def FVal.mul : FVal → FVal → FVal
  | .nan, _ => .nan
  | _, .nan => .nan
  | .inf a o, .inf b p => .inf (a != b) (o && p)
  | .inf a o, .fin n m _ => if m = 0 then .nan else .inf (a != n) o
  | .fin n m _, .inf b p => if m = 0 then .nan else .inf (b != n) p
  | .fin n m e, .fin n' m' e' => .fin (n != n') (m * m') (e + e')

/-- A value times 2^k. -/
def FVal.scale (k : Int) : FVal → FVal
  | .fin n m e => .fin n m (e + k)
  | v => v

/-- Comparison of two values that are not NaN: negative, zero or positive as a is below, equal to or above b. -/
def FVal.cmp : FVal → FVal → Int
  | .inf a _, .inf b _ => if a = b then 0 else if a then -1 else 1
  | .inf a _, _ => if a then -1 else 1
  | _, .inf b _ => if b then 1 else -1
  | .fin n m e, .fin n' m' e' =>
    let e0 := min e e'
    alignTo n m e e0 - alignTo n' m' e' e0
  | _, _ => 0

def FVal.lt (a b : FVal) : Bool := a != .nan && b != .nan && decide (a.cmp b < 0)
def FVal.le (a b : FVal) : Bool := a != .nan && b != .nan && decide (a.cmp b ≤ 0)
def FVal.eqv (a b : FVal) : Bool := a != .nan && b != .nan && decide (a.cmp b = 0)

/-- R170: the larger, with +0 above −0 and NaN when either is NaN. -/
def FVal.maxR (a b : FVal) : FVal :=
  if a = .nan ∨ b = .nan then .nan
  else if a.lt b then b
  else if b.lt a then a
  else if a.isNeg then b else a

/-! ### Rounding (R146, R147) -/

/-- The integer that `num / den` rounds to, and whether it was inexact. `x` is the 16-bit draw of R147. -/
def roundQ (r : Round) (x num den : Nat) : Nat × Bool :=
  let t := num / den
  let rem := num % den
  let up := match r with
    | .even => den < 2 * rem || (2 * rem == den && t % 2 == 1)
    | .zero => false
    | .stoch => 65536 ≤ rem * 65536 / den + x
  (if rem = 0 then t else if up then t + 1 else t, rem != 0)

def bitLen (m : Nat) : Nat := if m = 0 then 0 else Nat.log2 m + 1

/-- Binary float formats: precision, exponent of the least subnormal, largest finite value as significand and exponent. -/
structure FloatFmt where
  prec : Nat
  qmin : Int
  maxM : Nat
  maxQ : Int
deriving DecidableEq, Repr

def ffFp32 : FloatFmt := ⟨24, -149, 2 ^ 24 - 1, 104⟩
def ffBf16 : FloatFmt := ⟨8, -133, 255, 120⟩
def ffFp16 : FloatFmt := ⟨11, -24, 2047, 5⟩
def ffF8a : FloatFmt := ⟨4, -9, 14, 5⟩
def ffF8b : FloatFmt := ⟨3, -16, 7, 13⟩
/-- E2M1 (R132). -/
def ffE2m1 : FloatFmt := ⟨2, -1, 3, 1⟩

/-- A magnitude m × 2^e rounded to the format with the exponent range unbounded above: significand, its exponent, and whether
inexact. -/
def roundMag (f : FloatFmt) (r : Round) (x m : Nat) (e : Int) : Nat × Int × Bool :=
  if m = 0 then (0, f.qmin, false)
  else
    let q := max f.qmin ((bitLen m : Int) + e - f.prec)
    if q ≤ e then (m * 2 ^ (e - q).toNat, q, false)
    else
      let (k, inexact) := roundQ r x m (2 ^ (q - e).toNat)
      if k = 2 ^ f.prec then (2 ^ (f.prec - 1), q + 1, inexact) else (k, q, inexact)

/-- A rounded magnitude above the largest finite one (R151). -/
def overMax (f : FloatFmt) (k : Nat) (q : Int) : Bool :=
  decide (alignTo false f.maxM f.maxQ (min q f.maxQ) < alignTo false k q (min q f.maxQ))

/-- Exponent field and fraction of a rounded magnitude. -/
def packMag (f : FloatFmt) (k : Nat) (q : Int) : Nat :=
  if k < 2 ^ (f.prec - 1) then k else (q - f.qmin + 1).toNat * 2 ^ (f.prec - 1) + (k - 2 ^ (f.prec - 1))

/-- The exact value of exponent and fraction bits, for a pattern that is not an infinity or NaN. -/
def unpackMag (f : FloatFmt) (neg : Bool) (mag : Nat) : FVal :=
  let h := 2 ^ (f.prec - 1)
  if mag < h then .fin neg mag f.qmin else .fin neg (h + mag % h) (f.qmin + (mag / h : Nat) - 1)

/-! ### Decoding (R127, R132, R134) -/

/-- A float pattern of `w` bits with infinities and NaNs in the top exponent. -/
def decodeIeee (f : FloatFmt) (w b : Nat) : FVal :=
  let neg := bitOf b (w - 1)
  let mag := b % 2 ^ (w - 1)
  let h := 2 ^ (f.prec - 1)
  let top := 2 ^ (w - 1) / h - 1
  if mag / h = top then (if mag % h = 0 then .inf neg false else .nan) else unpackMag f neg mag

def decodeFp32 (b : Nat) : FVal := decodeIeee ffFp32 32 b
def decodeBf16 (b : Nat) : FVal := decodeIeee ffBf16 16 b
def decodeFp16 (b : Nat) : FVal := decodeIeee ffFp16 16 b
def decodeF8a (b : Nat) : FVal := if b % 128 = 127 then .nan else unpackMag ffF8a (bitOf b 7) (b % 128)
def decodeE2m1 (b : Nat) : FVal := unpackMag ffE2m1 (bitOf b 3) (b % 8)

/-- A scalar element. Block formats give their element before the scale; a CB4 code is looked up by the caller. -/
def decodeElem : Fmt → Nat → FVal
  | .fp32, b => decodeFp32 b
  | .bf16, b => decodeBf16 b
  | .fp16, b => decodeFp16 b
  | .f8a, b | .bk8, b => decodeF8a b
  | .f8b, b => decodeIeee ffF8b 8 b
  | .i8, b => FVal.ofInt (sext 8 b)
  | .i4, b | .bq4, b => FVal.ofInt (sext 4 b)
  | .i32, b => FVal.ofInt (sext 32 b)
  | .bk4, b | .cb4, b => decodeE2m1 b

/-- A block's scale as a value, NaN for a NaN block (R133, R134). -/
def scaleNum (f : Fmt) (code : Nat) : FVal :=
  match f with
  | .bq4 => decodeBf16 code
  | .bk8 | .bk4 | .cb4 => if code = 255 then .nan else .fin false 1 ((code : Int) - 127)
  | _ => .fin false 1 0

/-- A scale that makes a NaN block (R133, R158). -/
def nanScale (f : Fmt) (code : Nat) : Bool := isBlock f && scaleNum f code == .nan

/-- An element of a block or scalar format before its scale; `cb` are the codebook's values. -/
def elemValue (f : Fmt) (cb : List FVal) (b : Nat) : FVal :=
  match f with
  | .cb4 => cb.getD b .nan
  | f => decodeElem f b

/-- R134. -/
def decodeValue (f : Fmt) (cb : List FVal) (scale b : Nat) : FVal := (elemValue f cb b).mul (scaleNum f scale)

/-! ### Encoding (R146 to R159) -/

/-- What one encoding gives: the bits; what it adds to the flags; OVF and UNF of R187; and whether it makes its block a NaN
block. -/
structure Enc where
  bits : Nat
  sat : Bool := false
  nonfin : Bool := false
  stoch : Bool := false
  ovf : Bool := false
  unf : Bool := false
  nanBlock : Bool := false
deriving DecidableEq, Repr

/-- The pattern of an infinity and the canonical NaN of a scalar float (R153). -/
def infBits : Fmt → Nat
  | .fp32 => 0x7F800000 | .bf16 => 0x7F80 | .fp16 => 0x7C00 | .f8b => 0x7C | _ => 0x7F

def nanBits : Fmt → Nat
  | .fp32 => 0x7FC00000 | .bf16 => 0x7FC0 | .fp16 => 0x7E00 | .f8b => 0x7E | _ => 0x7F

def floatFmt : Fmt → FloatFmt
  | .fp32 => ffFp32 | .bf16 => ffBf16 | .fp16 => ffFp16 | .f8b => ffF8b | .bk4 => ffE2m1 | _ => ffF8a

def hasInf : Fmt → Bool
  | .fp32 | .bf16 | .fp16 | .f8b => true
  | _ => false

/-- Encoding into a float pattern of `w` bits: a scalar float, or a BK8 or BK4 element of a value already divided by its
scale. -/
def encodeFloat (f : Fmt) (r : Round) (toInf : Bool) (x : Nat) (v : FVal) : Enc :=
  let ff := floatFmt f
  let sb := 2 ^ (elemBits f - 1)
  let largest := packMag ff ff.maxM ff.maxQ
  -- a value beyond the range: a finite overflow, or an infinite input of a format without infinities
  let ofl := fun (neg : Bool) (isOvf : Bool) =>
    let s := if neg then sb else 0
    if !toInf then ({ bits := s + largest, sat := true, ovf := isOvf } : Enc)
    else if hasInf f then { bits := s + infBits f, nonfin := true, ovf := isOvf }
    else if f = .bk4 then { bits := 0, nonfin := true, ovf := isOvf, nanBlock := true }
    else { bits := 0x7F, nonfin := true, ovf := isOvf }
  match v with
  | .nan =>
    if f = .bk4 then { bits := 0, nonfin := true, nanBlock := true } else { bits := nanBits f, nonfin := true }
  | .inf neg true => ofl neg true
  | .inf neg false =>
    if hasInf f then { bits := (if neg then sb else 0) + infBits f, nonfin := true } else ofl neg false
  | .fin neg m e =>
    let (k, q, inexact) := roundMag ff r x m e
    if overMax ff k q then { ofl neg true with stoch := inexact && r == .stoch }
    else { bits := (if neg then sb else 0) + packMag ff k q, stoch := inexact && r == .stoch, unf := k == 0 && m != 0 }

/-- A quotient num/den with sign rounded into a two's-complement integer of `w` bits (R151, R163). -/
def encodeIntQ (w : Nat) (r : Round) (x : Nat) (neg : Bool) (num den : Nat) : Enc :=
  let (k, inexact) := roundQ r x num den
  let st := inexact && r == .stoch
  let top := if neg then 2 ^ (w - 1) else 2 ^ (w - 1) - 1
  let val := fun (n : Nat) => if neg then (2 ^ w - n) % 2 ^ w else n
  if top < k then { bits := val top, sat := true, ovf := true, stoch := st }
  else { bits := val k, stoch := st, unf := k == 0 && num != 0 }

/-- Encoding into I8, I4 or I32 (Table 4-8, R163). -/
def encodeInt (w : Nat) (r : Round) (x : Nat) (v : FVal) : Enc :=
  match v with
  | .nan => { bits := 0, nonfin := true }
  | .inf neg ofl =>
    { bits := if neg then 2 ^ (w - 1) else 2 ^ (w - 1) - 1, sat := true, nonfin := !ofl, ovf := ofl }
  | .fin neg m e =>
    if 0 ≤ e then encodeIntQ w r x neg (m * 2 ^ e.toNat) 1 else encodeIntQ w r x neg m (2 ^ (-e).toNat)

/-- A BQ4 element against scale `s` (R152, Table 4-8). With a scale of zero every non-zero value overflows; with an infinite
scale the spec states no element for a finite value, and `free` gives it. DESIGN CHOICE, assumption 87 (safe). -/
def encodeBq4 (r : Round) (toInf : Bool) (x free : Nat) (s v : FVal) : Enc :=
  let ofl := fun (neg : Bool) (isOvf : Bool) =>
    if toInf then ({ bits := 0, nonfin := true, ovf := isOvf, nanBlock := true } : Enc)
    else { bits := if neg then 8 else 7, sat := true, ovf := isOvf }
  match v, s with
  | .nan, _ => { bits := 0, nonfin := true, nanBlock := true }
  | .inf neg o, s => ofl (neg != s.isNeg) o
  | .fin neg m e, .fin sn sm se =>
    if m = 0 then { bits := 0 }
    else if sm = 0 then ofl (neg != sn) true
    else
      let n := if 0 ≤ e - se then m * 2 ^ (e - se).toNat else m
      let d := if 0 ≤ e - se then sm else sm * 2 ^ (se - e).toNat
      let en := encodeIntQ 4 r x (neg != sn) n d
      if en.ovf then { ofl (neg != sn) true with stoch := en.stoch } else en
  | .fin _ _ _, _ => { bits := free % 16 }

/-- The code among `es` (codebook entries that are candidates, with their codes) for which `better` holds against every
earlier one. -/
def pickEntry (better : FVal → FVal → Bool) : List (Nat × FVal) → Option (Nat × FVal)
  | [] => none
  | a :: t => match pickEntry better t with
    | none => some a
    | some b => if better b.2 a.2 then some b else some a

/-- The nearest entry to `v`; ties go to the lower code. -/
def nearestEntry (v : FVal) (es : List (Nat × FVal)) : Option (Nat × FVal) :=
  pickEntry (fun b a => ((b.sub v).abs).lt ((a.sub v).abs)) es

/-- A CB4 element of `v`, already divided by its scale, among the codebook's entries (R159, Table 4-8). Of equal or equally near
entries the lower code is taken in every mode. DESIGN CHOICE, assumption 92 (unsafe). -/
def encodeCb4 (r : Round) (toInf : Bool) (x : Nat) (cb : List FVal) (v : FVal) : Enc :=
  let es := cb.zipIdx.map (fun (n, i) => (i, n))
  let lowest := pickEntry (fun b a => b.lt a) es
  let highest := pickEntry (fun b a => a.lt b) es
  let outer := fun (neg : Bool) => ((if neg then lowest else highest).map (·.1)).getD 0
  let outerV := fun (neg : Bool) => ((if neg then lowest else highest).map (·.2)).getD FVal.zero
  -- the largest entry of a sign, when an entry has that sign
  let hasSign := fun (neg : Bool) => !(outerV neg).isZero && (outerV neg).isNeg == neg
  let ofl := fun (neg : Bool) (isOvf : Bool) =>
    if toInf then ({ bits := 0, nonfin := true, ovf := isOvf, nanBlock := true } : Enc)
    else { bits := outer neg, sat := true, ovf := isOvf }
  match v with
  | .nan => { bits := 0, nonfin := true, nanBlock := true }
  | .inf neg o => ofl neg o
  | .fin neg m e =>
    let v := FVal.fin neg m e
    let nz := m != 0
    let mk := fun (i : Nat) (st : Bool) => ({ bits := i, stoch := st, unf := nz && (cb.getD i FVal.zero).isZero } : Enc)
    if (outerV false).lt v then (if hasSign false && !neg then ofl false true else mk (outer false) false)
    else if v.lt (outerV true) then (if hasSign true && neg then ofl true true else mk (outer true) false)
    else
      let near := ((nearestEntry v es).map (·.1)).getD 0
      match es.find? (fun a => a.2.eqv v) with
      | some a => mk a.1 false
      | none =>
        match r with
        | .even => mk near false
        | .zero =>
          let inside := es.filter (fun a => if neg then v.le a.2 && a.2.le FVal.zero else a.2.le v && FVal.zero.le a.2)
          mk (((nearestEntry v inside).map (·.1)).getD near) false
        | .stoch =>
          let lo := nearestEntry v (es.filter (fun a => a.2.le v))
          let hi := nearestEntry v (es.filter (fun a => v.le a.2))
          match lo, hi with
          | some l, some h =>
            -- D is the fraction (v − c_lo) / (c_hi − c_lo) to 16 bits
            let d := match v.sub l.2, h.2.sub l.2 with
              | .fin _ a ea, .fin _ b eb =>
                let e0 := min ea eb
                ((alignTo false a ea e0).toNat * 65536) / max 1 (alignTo false b eb e0).toNat
              | _, _ => 0
            mk (if 65536 ≤ d + x then h.1 else l.1) true
          | _, _ => mk near false

/-- A value against a block scale or into a scalar format, by the format's own rule. -/
def encodeOwn (w : FmtWord) (cb : List FVal) (scale x free : Nat) (v : FVal) : Enc :=
  match w.fmt with
  | .i8 => encodeInt 8 w.round x v
  | .i4 => encodeInt 4 w.round x v
  | .i32 => encodeInt 32 w.round x v
  | .bk8 | .bk4 => encodeFloat w.fmt w.round w.toInf x (v.scale (127 - (scale : Int)))
  | .bq4 => encodeBq4 w.round w.toInf x free (decodeBf16 scale) v
  | .cb4 => encodeCb4 w.round w.toInf x cb (v.scale (127 - (scale : Int)))
  | f => encodeFloat f w.round w.toInf x v

/-- A value against a block scale or into a scalar format (R146, R152). `free` serves a result that the spec does not
state: the bits of an element that makes its block a NaN block are such a one. DESIGN CHOICE, assumption 87 (safe). -/
def encodeValue (w : FmtWord) (cb : List FVal) (scale x free : Nat) (v : FVal) : Enc :=
  let e := encodeOwn w cb scale x free v
  if e.nanBlock then { e with bits := free % 2 ^ elemBits w.fmt } else e

/-- A value as numbers, to name what a free element code depends on. -/
def FVal.key : FVal → List Int
  | .fin n m e => [0, if n then 1 else 0, (m : Int), e]
  | .inf n o => [1, if n then 1 else 0, if o then 1 else 0]
  | .nan => [2]

def Fmt.code : Fmt → Nat
  | .fp32 => 0 | .bf16 => 1 | .fp16 => 2 | .f8a => 3 | .f8b => 4 | .i8 => 5 | .i4 => 6
  | .bk8 => 8 | .bk4 => 9 | .bq4 => 10 | .cb4 => 11 | .i32 => 12

/-- The free code of element `i` of a block: a function of the format, the codebook, the scale, the old elements and the values
written, so that an encoding gives the same bits on every run (R177); under STOCHASTIC also of the draw `x`. -/
def freeCode (w : FmtWord) (cb : List FVal) (scale : Nat) (old : List Nat) (vals : List (Option FVal)) (x i : Nat) : Nat :=
  let round : Int := match w.round with | .even => 0 | .zero => 1 | .stoch => 2
  Config.freeElem ([(w.fmt.code : Int), if w.toInf then 1 else 0, round, if w.fitted then 1 else 0, scale, i, if w.round = .stoch then x else 0] ++
    cb.flatMap FVal.key ++ old.map Int.ofNat ++ vals.flatMap (fun v => match v with | some v => 3 :: v.key | none => [4]))

/-- The scale that marks a NaN block when written (Table 4-8). -/
def nanScaleBits : Fmt → Nat
  | .bq4 => 0x7FC0
  | _ => 0xFF

/-! ### Fitted scales (R156) -/

/-- A magnitude rounded up to a BF16 pattern (Table 4-9, R184), at most the largest finite one. -/
def bf16Up (m : Nat) (e : Int) : Nat :=
  let (k, q, inexact) := roundMag ffBf16 .zero 0 m e
  let b := packMag ffBf16 k q + (if inexact then 1 else 0)
  min b 0x7F7F

/-- A quotient m/d × 2^e rounded up to a BF16 pattern. -/
def bf16UpQ (m d : Nat) (e : Int) : Nat :=
  let n := m * 2 ^ 24 / d
  let b := bf16Up (2 * n + (if m * 2 ^ 24 % d = 0 then 0 else 1)) (e - 25)
  b

/-- The largest entry magnitude of a codebook. -/
def largestEntry (cb : List FVal) : FVal := cb.foldl (fun a b => if a.lt b.abs then b.abs else a) FVal.zero

/-- The least σ with amax ≤ M × 2^σ, from −127, clamped to 127. -/
def leastSigma (amax mm : FVal) : Nat → Int → Int
  | 0, σ => σ
  | n + 1, σ => if amax.le (mm.scale σ) then σ else leastSigma amax mm n (σ + 1)

/-- R156: the scale for a largest magnitude `amax`, zero when none is finite. -/
def fitScale (f : Fmt) (cb : List FVal) (amax : FVal) : Nat :=
  match f with
  | .bq4 => match amax with
    | .fin _ m e => if m = 0 then 0 else bf16UpQ m 7 e
    | _ => 0
  | f =>
    let mm := match f with
      | .bk8 => FVal.ofInt 448
      | .bk4 => FVal.ofInt 6
      | _ => largestEntry cb
    if amax.isZero || mm.isZero || !amax.isFin then 0 else (leastSigma amax mm 254 (-127) + 127).toNat

/-- The larger of two scales; BQ4 compares numbers (R192). -/
def largerScale (f : Fmt) (a b : Nat) : Nat :=
  match f with
  | .bq4 => if (decodeBf16 a).lt (decodeBf16 b) then b else a
  | _ => max a b

/-! ### FP32 arithmetic (R164 to R169) -/

/-- A value rounded once to FP32 under NEAREST_EVEN; a finite value that overflows is a marked infinity (R168). -/
def toFp32 (v : FVal) : FVal :=
  match v with
  | .fin neg m e =>
    let (k, q, _) := roundMag ffFp32 .even 0 m e
    if overMax ffFp32 k q then .inf neg true else .fin neg k q
  | v => v

def addFp32 (a b : FVal) : FVal := toFp32 (a.add b)
def mulFp32 (a b : FVal) : FVal := toFp32 (a.mul b)

/-- A quotient rounded to FP32: two guard bits and a sticky bit decide. -/
def divFp32 (a b : FVal) : FVal :=
  match a, b with
  | .nan, _ => .nan
  | _, .nan => .nan
  | .inf _ _, .inf _ _ => .nan
  | .inf n o, .fin n' _ _ => .inf (n != n') o
  | .fin n _ _, .inf n' _ => .fin (n != n') 0 0
  | .fin n m e, .fin n' m' e' =>
    if m' = 0 then (if m = 0 then .nan else .inf (n != n') false)
    else if m = 0 then .fin (n != n') 0 0
    else
      let k := 60 + bitLen m' - min (60 + bitLen m') (bitLen m)
      let num := m * 2 ^ k
      let s := if num % m' = 0 then 0 else 1
      toFp32 (.fin (n != n') (2 * (num / m') + s) (e - e' - k - 1))

/-- The square root rounded to FP32. −0 gives −0 and other negative values NaN. -/
def sqrtFp32 (a : FVal) : FVal :=
  match a with
  | .nan => .nan
  | .inf neg _ => if neg then .nan else a
  | .fin neg m e =>
    if m = 0 then .fin neg 0 0
    else if neg then .nan
    else
      -- an even exponent, with at least 60 bits in the root
      let k : Nat := 120 + (if e % 2 = 0 then 0 else 1)
      let v := m * 2 ^ k
      let r := Nat.sqrt v
      toFp32 (.fin false (2 * r + (if r * r = v then 0 else 1)) ((e - (k : Int)) / 2 - 1))

/-- The FP32 pattern of a value that is already an FP32 value. -/
def fp32Bits (v : FVal) : Nat := (encodeFloat .fp32 .even true 0 v).bits

/-! ### Sums (R167) -/

/-- Two partial sums, chosen by the hardware, are added into one: repeated, this is any order of addition and any split into
accumulators. `d` numbers the free choices. -/
def sumStep (d : Nat) (l : List FVal) : List FVal :=
  let i := Config.choice d % l.length
  let rest := l.eraseIdx i
  let j := Config.choice (d + 1) % rest.length
  addFp32 (l.getD i FVal.zero) (rest.getD j FVal.zero) :: rest.eraseIdx j

def sumSteps : Nat → Nat → List FVal → List FVal
  | 0, _, l => l
  | n + 1, d, l => if l.length ≤ 1 then l else sumSteps n (d + 2) (sumStep d l)

/-- The FP32 sum of terms in an order that the hardware chooses from draw `d` on (R167); a sum of one term is the term
rounded to FP32. DESIGN CHOICE, assumption 49 (safe). -/
def sumTerms (d : Nat) (l : List FVal) : FVal := toFp32 ((sumSteps l.length d l).headD FVal.zero)

/-- R164 and R165: the block term of two blocks of narrow elements with their scales. A scale that is not finite makes the decoded
elements infinite or NaN, and their products decide. -/
def blockTerm (as bs : List FVal) (sa sb : FVal) : FVal :=
  if sa.isFin && sb.isFin then toFp32 ((((as.zip bs).map (fun (a, b) => a.mul b)).foldl FVal.add FVal.zero).mul sa |>.mul sb)
  else toFp32 (((as.zip bs).map (fun (a, b) => (a.mul sa).mul (b.mul sb))).foldl FVal.add FVal.zero)

/-- The bits that a significand needs. -/
def sigBits (m : Nat) : Nat := if m = 0 then 0 else bitLen (m / Nat.gcd m (2 ^ bitLen m))

/-- R166: a product of decoded elements of which one is BF16, FP16 or FP32. It is exact when the significands of the two values
together need at most 24 bits. -/
def wideTerm (a b : FVal) : FVal :=
  match a, b with
  | .fin _ m _, .fin _ k _ => if sigBits m + sigBits k ≤ 24 then a.mul b else mulFp32 a b
  | _, _ => mulFp32 a b

/-- R169. -/
def meanFp32 (sum : FVal) (n : Nat) : FVal := divFp32 sum (FVal.ofInt n)

/-! ### Packing elements (R130, R131) -/

/-- Element `i` of packed bytes. -/
def getElem (f : Fmt) (bytes : List Byte) (i : Nat) : Nat :=
  match elemBits f with
  | 32 => leNat ((bytes.drop (4 * i)).take 4)
  | 16 => leNat ((bytes.drop (2 * i)).take 2)
  | 4 => ((bytes.getD (i / 2) 0).toNat / 2 ^ (4 * (i % 2))) % 16
  | _ => (bytes.getD i 0).toNat

def getElems (f : Fmt) (bytes : List Byte) (n : Nat) : List Nat := (List.range n).map (getElem f bytes)

/-- Elements packed into bytes. -/
def packElems (f : Fmt) (es : List Nat) : List Byte :=
  match elemBits f with
  | 32 => es.flatMap (natLe 4)
  | 16 => es.flatMap (natLe 2)
  | 4 => (List.range ((es.length + 1) / 2)).map (fun i => BitVec.ofNat 8 (es.getD (2 * i) 0 % 16 + 16 * (es.getD (2 * i + 1) 0 % 16)))
  | _ => es.map (BitVec.ofNat 8)

/-! ### Draws -/

/-- `n` fresh draws: the number of the first. -/
def Core.drawN (c : Core) (n : Nat) : Core × Nat := ({ c with glb := { c.glb with draws := c.glb.draws + n } }, c.glb.draws)

/-- The 16-bit draw of a stochastic generator (R147 to R149). -/
def draw16 (d : Nat) : Nat := (Config.random d).toNat % 65536

end Sys2Proof.Machine
end

