-- ==== Sys2Proof/Machine/Sync.lean ====
section
/-! DEFINITION. Contexts and works in flight as the chip finds them, messages it sends, op tags, and sync objects
(R411 to R431). -/

namespace Sys2Proof.Machine
open Sys2Proof

/-! ### Statuses (Table 6-6) and refusal codes (R722) -/

def statusCode : Status → Nat
  | .done => 0x00 | .badDescriptor => 0x10 | .formatUnsupported => 0x11 | .accessDenied => 0x12
  | .extentWithdrawn => 0x20 | .noBacking => 0x21 | .versionConflict => 0x22 | .poisoned => 0x30 | .keyRevoked => 0x31
  | .linkLost => 0x40 | .outcomeUnknown => 0x41 | .domainDown => 0x50 | .abortedDeadline => 0x60 | .abortedFlush => 0x61
  | .internalFault => 0x7F

def statusOfCode (n : Nat) : Status :=
  match n with
  | 0x00 => .done | 0x10 => .badDescriptor | 0x11 => .formatUnsupported | 0x12 => .accessDenied
  | 0x20 => .extentWithdrawn | 0x21 => .noBacking | 0x22 => .versionConflict | 0x30 => .poisoned | 0x31 => .keyRevoked
  | 0x40 => .linkLost | 0x41 => .outcomeUnknown | 0x50 => .domainDown | 0x60 => .abortedDeadline | 0x61 => .abortedFlush
  | _ => .internalFault

/-! ### Messages -/

/-- A NOTICE to an agent (Table 13-8): kind, context, TARGET, OPERAND, COMPARE. -/
def Core.notice (c : Core) (agent kind ctx target operand compare : Nat) : Core :=
  c.send { dst := .agent agent, type := 0x38, cls := 0, ctx := ctx, body := [target, 0, kind + ctx % 4096 * 2 ^ 16, operand, compare],
           data := [], work := none }

/-- A management request of the chip's own to the fabric manager: MOP and fields (R493, R494). -/
def Core.toFm (c : Core) (mop : Nat) (body : List Nat) : Core :=
  c.send { dst := .fm, type := 0x60, cls := 2, ctx := 0xFFFF, body := mop :: body, data := [], work := none }

/-- Waits for frame `i` of extent `e` to be ready, or to be backed. -/
def atFrame (e i : Nat) : ParkCause → Bool
  | .frame x f _ => x == e && f == i
  | _ => false
def atBacking (e i : Nat) : ParkCause → Bool
  | .backing x f _ => x == e && f == i
  | _ => false

/-- An access finds no backing: the event is logged once for the extent in a tick (R101). -/
def noteBacking (c : Core) (e f : Nat) : Core :=
  if ((ext? c e).map (·.noBackingLogged)) = some false then
    raise (modExt c e (fun x => { x with noBackingLogged := true })) .extNoBacking 10 e f
  else c

/-- An access parks: at a line it waits ahead of every member (R450); for backing it tells the fabric manager, and the event is
logged (R101). -/
def notePark (c : Core) (who : ParkRef) (k : ParkCause) : Core :=
  match k with
  | .backing e f _ => noteBacking (c.toFm 0x0106 [e, f]) e f
  | k => claimLine c who k

/-! ### Contexts -/

def ctxState (c : Core) (x : Nat) : Nat := c.fld (CTX_CFG0 x) CTX_CFG0_STATE
def ctxPart (c : Core) (x : Nat) : Nat := c.fld (CTX_CFG0 x) CTX_CFG0_PARTITION
def ctxOwner (c : Core) (x : Nat) : Nat := c.fld (CTX_CFG0 x) CTX_CFG0_OWNER
def ctxRdma (c : Core) (x : Nat) : Bool := c.flag (CTX_CFG0 x) CTX_CFG0_PRODUCER
def ctxAbort (c : Core) (x : Nat) : Bool := c.flag (CTX_CFG0 x) CTX_CFG0_ABORT_ON_DEADLINE
def ctxInflight (c : Core) (x : Nat) : Nat := c.fld (CTX_CFG1 x) CTX_CFG1_MAX_INFLIGHT_M1 + 1

def freshCtx : CtxX :=
  { whole := [], walk := 0, flushPending := false, flushing := [], lastSeq := 0, deficit := 0, tickSet := [], reads := 0, missed := 0 }

def ctxX (c : Core) (x : Nat) : CtxX := amGet c.work.ctx x freshCtx
def setCtxX (c : Core) (x : Nat) (v : CtxX) : Core := wroteCtrl (x % 4) (.context x) { c with work := { c.work with ctx := amSet c.work.ctx x v } }
def modCtxX (c : Core) (x : Nat) (f : CtxX → CtxX) : Core := setCtxX c x (f (ctxX c x))

/-! ### Works in flight -/

/-- DESIGN CHOICE, assumption 42 (safe). -/
def wkey (ctx num : Nat) : Nat := ctx * 2 ^ 64 + num
def work? (c : Core) (ctx num : Nat) : Option Work := amGet? c.work.flight (wkey ctx num)
def setWork (c : Core) (w : Work) : Core :=
  { c with work := { c.work with flight := amSet c.work.flight (wkey w.ctx w.num) w } }
def delWork (c : Core) (ctx num : Nat) : Core :=
  { c with work := { c.work with flight := amDel c.work.flight (wkey ctx num) } }
def modWork (c : Core) (ctx num : Nat) (f : Work → Work) : Core :=
  { c with work := { c.work with flight := amMod c.work.flight (wkey ctx num) f } }
def worksOf (c : Core) (ctx : Nat) : List Work := (c.work.flight.map (·.2)).filter (·.ctx == ctx)

/-- A slice of a built-in work runs on cluster `k` (R407); one that waits for another chip's reply in mid-step runs on. -/
def onCluster (k : Nat) (w : Work) : Bool :=
  w.cluster == some k && w.prog.isNone && (match w.phase with | .running => true | .parked (.remote _) => true | _ => false)

/-- The slices of built-in works on cluster `k`. -/
def slicesOn (c : Core) (k : Nat) : List Work := (c.work.flight.map (·.2)).filter (onCluster k)

/-- Works of a context in flight count against MAX_INFLIGHT (R245). -/
def inflight (c : Core) (ctx : Nat) : Nat := (worksOf c ctx).length

/-! ### Op tags (R94, R484) -/

/-- A fresh op tag, unless all 65,536 are in use. DEDUCED, assumption 39 (unsafe). -/
def newTag (c : Core) : Core × Option Nat :=
  if 65536 ≤ c.work.tags.length then (c, none)
  else
    let t := c.work.nextTag
    ({ c with work := { c.work with tags := c.work.tags ++ [t], nextTag := t + 1 } }, some t)

/-- A forwarded request under the tag awaits its reply, so that the tag is still consumed (R31). -/
def tagOut (c : Core) (t : Nat) : Bool := c.ring.fwds.any (fun f => f.tag == t)

/-- An op tag retires: from the tags in use and from every snapshot (R96). One that a forwarded request consumes is held until
that request is resolved (R31). -/
def dropTag (c : Core) (t : Nat) : Core :=
  if tagOut c t then c
  else retireTag { c with work := { c.work with tags := c.work.tags.filter (· != t) } } t

/-- A live work or a request that is served still holds the tag. -/
def tagHeld (c : Core) (t : Nat) : Bool :=
  c.work.flight.any (fun w => w.2.tag == t && (match w.2.phase with | .ended | .recorded => false | _ => true)) ||
  c.net.requests.any (fun r => r.tag == t)

/-- A forwarded request is resolved: a tag that nothing holds any more retires. -/
def freeTag (c : Core) (t : Nat) : Core := if tagHeld c t then c else dropTag c t

/-! ### Sync objects -/

def sync? (c : Core) (s : Nat) : Option SyncObj := amGet? c.sync.objs s

/-- A sync object is written, on its home plinth (R16). -/
def setSync (c : Core) (s : Nat) (o : SyncObj) : Core :=
  wroteCtrl (s % 4) (.sync s) { c with sync := { c.sync with objs := amSet c.sync.objs s o } }
def modSync (c : Core) (s : Nat) (f : SyncObj → SyncObj) : Core :=
  wroteCtrl (s % 4) (.sync s) { c with sync := { c.sync with objs := amMod c.sync.objs s f } }

/-- Granted to partition `part` (R417). -/
def syncOf (c : Core) (s part : Nat) : Bool :=
  match sync? c s with
  | some o => o.partition == part
  | none => false

def syncPoisoned (c : Core) (s : Nat) : Bool := match sync? c s with | some o => o.poisoned | none => false

def syncFrozen (c : Core) (s : Nat) : Bool := match sync? c s with | some o => o.frozen | none => false

/-- Wait entries in use on plinth `p` (R419). -/
def waitEntries (c : Core) (p : Nat) : Nat :=
  (c.sync.objs.map (fun (s, o) => if s % 4 = p then (o.waiters.filter (·.entry)).length else 0)).foldl (· + ·) 0

/-- A waiter's value is reached: it may go on (R420). A waiting work becomes ready; a thread is passed to the cluster. -/
def releaseWaiter (c : Core) (who : ParkRef) : Core :=
  match who with
  | .work ctx num => modWork c ctx num (fun w =>
      match w.phase with
      | .preWait | .parked _ => { w with phase := .ready, waited := 0 }
      | _ => w)
  | k => { c with sync := { c.sync with released := c.sync.released ++ [k] } }

/-- A SYNC_NOTICE (R425, R426): kind 1 REACHED, 2 LATE. -/
def syncNotice (c : Core) (s kind : Nat) : Core :=
  match sync? c s with
  | some o => if o.ownerValid then (c.notice o.owner kind 0 s o.count c.tick).count SYN_NOTICES else c
  | none => c

/-- R420 and R425 once COUNT has changed: waiters whose value is reached are released, but for those without an entry (R421), and an
armed target reached gives its notice. -/
def syncCheck (c : Core) (s : Nat) : Core :=
  match sync? c s with
  | none => c
  | some o =>
    let go := o.waiters.filter (fun w => w.entry && w.value ≤ o.count)
    let c := setSync c s { o with waiters := o.waiters.filter (fun w => !(w.entry && w.value ≤ o.count)) }
    let c := go.foldl (fun c w => releaseWaiter c w.who) c
    if o.armed && o.target ≤ o.count then syncNotice (modSync c s (fun o => { o with armed := false })) s 1 else c

/-- An increment by a work, thread or message of partition `part` reaches the object (R413, R431). -/
def syncInc (c : Core) (s part : Nat) : Core :=
  match sync? c s with
  | some o =>
    if o.partition == part && !o.frozen && !o.poisoned then
      syncCheck ((setSync c s { o with count := o.count + 1 }).count SYN_INCREMENTS) s
    else c
  | none => c

/-- An increment of a work that leaves flight is on its way (R29, R415). DEDUCED, assumption 53 (safe). -/
def syncSend (c : Core) (s part : Nat) : Core := { c with sync := { c.sync with sent := c.sync.sent ++ [(s, part)] } }

/-- A waiter that finds the pool of the object's plinth full waits without an entry (R421); the event is logged at the
boundary, once for the plinth. -/
def noteFull (c : Core) (p : Nat) : Core :=
  let c := c.count SYN_POOL_FULL
  { c with sync := { c.sync with fullLogged := c.sync.fullLogged ++ [p] } }

/-- R419: whether value `v` is reached already; otherwise the waiter joins the object's list. -/
def syncWait (c : Core) (s v : Nat) (who : ParkRef) : Core × Bool :=
  match sync? c s with
  | none => (c, false)
  | some o =>
    if v ≤ o.count then (c, true)
    else
      let free := waitEntries c (s % 4) < 65536
      let c := setSync c s { o with waiters := o.waiters ++ [⟨who, v, free⟩] }
      ((if free then c else noteFull c (s % 4)), false)

/-- A waiter leaves every wait list, and its entry is free (R423, R429). -/
def unwait (c : Core) (who : ParkRef) : Core :=
  { c with sync := { c.sync with objs := amMap c.sync.objs (fun _ o => { o with waiters := o.waiters.filter (·.who != who) }) } }

/-- R421 at a boundary, for the waiters without an entry of one object. -/
def syncPoll (c : Core) (s : Nat) : Core :=
  match sync? c s with
  | none => c
  | some o =>
    o.waiters.foldl (fun c w =>
      if w.entry then c
      else if w.value ≤ o.count then
        releaseWaiter (modSync c s (fun o => { o with waiters := o.waiters.filter (· != w) })) w.who
      else if waitEntries c (s % 4) < 65536 then
        modSync c s (fun o => { o with waiters := o.waiters.map (fun x => if x = w then { x with entry := true } else x) })
      else noteFull c (s % 4)) c

end Sys2Proof.Machine
end

