-- ==== Sys2Proof/Machine/Tables.lean ====
section
/-! DEFINITION. Tables: reading and writing rows through a table (R136 to R142, R155 to R159, R182, R206 to R211, R266, R267,
R723) and what the patina unit keeps (R184 to R190). -/

namespace Sys2Proof.Machine
open Sys2Proof

/-- What a step obtains: a result, a cause to park, or a failure with the DETAIL of its record. -/
inductive Res (α : Type) where
  | ok (a : α)
  | park (k : ParkCause)
  | fail (s : Status) (d : W64)

/-- The next computation when the first one gave a result. -/
def andThen {α β : Type} (x : M × Res α) (f : M → α → M × Res β) : M × Res β :=
  match x with
  | (m, .ok a) => f m a
  | (m, .park k) => (m, .park k)
  | (m, .fail s d) => (m, .fail s d)

/-- One computation after another over a list, stopping at the first that gives no result. -/
def forEach {α σ : Type} (f : M → σ → α → M × Res σ) : M → σ → List α → M × Res σ
  | m, s, [] => (m, .ok s)
  | m, s, a :: t =>
    match f m s a with
    | (m, .ok s) => forEach f m s t
    | (m, .park k) => (m, .park k)
    | (m, .fail x d) => (m, .fail x d)

/-! ### Table layout -/

def table? (c : Core) (t : Nat) : Option Table := amGet? c.work.tables t
def setTable (c : Core) (t : Nat) (v : Table) : Core := { c with work := { c.work with tables := amSet c.work.tables t v } }
def modTable (c : Core) (t : Nat) (f : Table → Table) : Core :=
  { c with work := { c.work with tables := amMod c.work.tables t f } }

/-- The active codebook's values (R138, R141). -/
def codebook (c : Core) (n : Nat) : List FVal := (padTo 16 0 (amGet c.work.codebooks n [])).map decodeFp16

def tblFmt (t : Table) : FmtWord := (fmtWord? t.fmt).getD ⟨.fp32, false, .even, false, 0⟩
def tblCb (c : Core) (t : Table) : List FVal := if (tblFmt t).fmt = .cb4 then codebook c (tblFmt t).codebook else []

/-- Row size in bytes of whole stack words (Table 5-1). -/
def rowSize (t : Table) : Nat := (elemsBytes (tblFmt t).fmt t.rowLen + 31) / 32 * 32
def rowBlocks (t : Table) : Nat := (t.rowLen + 31) / 32
def blockFmt (t : Table) : Bool := isBlock (tblFmt t).fmt

def rowOff (t : Table) (r : Nat) : Nat := t.elemOff + r * rowSize t
def slotOff (t : Table) (s : Nat) : Nat := t.shadow + s * rowSize t

/-- The offset of the scale of block `b` of row `r` in a plane (R136). -/
def scaleOff (t : Table) (planeB : Bool) (r b : Nat) : Nat :=
  (if planeB then t.planeB else t.planeA) + (r * rowBlocks t + b) * scaleBytes (tblFmt t).fmt

/-! ### Pool bytes of a table's extent -/

/-- `len` bytes of extent `e` read for table `t`'s plinth. -/
def tblRead (m : M) (tn e off len : Nat) : M × Res (List Byte × List Bool) :=
  match readBytes m (tn % 4) e off len with
  | (m, .got b p) => (m, .ok (b, p))
  | (m, .wait k) => (m, .park k)

def tblWrite (m : M) (tn e off : Nat) (bytes : List Byte) : M := (writeBytes m (tn % 4) e off bytes).1

/-- Frames that a write will touch are made ready: an untouched one is backed (R100), or the write waits (R101, R107,
R109). -/
def readyWrite (m : M) (e off len : Nat) : M × Option ParkCause :=
  if len = 0 then (m, none)
  else
    let (c, k) := frameWait m.core e off len true
    let m := { m with core := c }
    match k, ext? c e with
    | some k, _ => (m, some k)
    | none, none => (m, none)
    | none, some x =>
      (framesTouched x off len).foldl (fun (m, k) i =>
        match k with
        | some k => (m, some k)
        | none =>
          match ext? m.core e with
          | none => (m, none)
          | some x =>
            if (frameOf x i).st = .unbacked then
              match backFrame m.core e i with
              | some c => ({ m with core := c }, none)
              | none => (m, some (.backing e i (max off (i * frameBytes x))))
            else (m, none)) (m, none)

/-- DEDUCED, assumption 41 (unsafe). -/
def readyWrites (m : M) (e : Nat) : List (Nat × Nat) → M × Option ParkCause
  | [] => (m, none)
  | (off, len) :: t =>
    match readyWrite m e off len with
    | (m, none) => readyWrites m e t
    | (m, some k) => (m, some k)

/-! ### Rows -/

/-- A row as a read sees it (R206): element bits, poison of each stack word of the row, scales and their poison by block, the
epoch bit, the poison of the epoch map's word (R137), and the bytes of the row's last word past its elements, which a write of
elements leaves (R572). -/
structure RowImg where
  elems : List Nat
  words : List Bool
  scales : List Nat
  scalePoison : List Bool
  epoch : Bool
  rowPoison : Bool
  pad : List Byte
deriving DecidableEq, Repr

/-- The epoch bit of row `r`, and whether its word is poisoned. -/
def readEpoch (m : M) (tn : Nat) (t : Table) (r : Nat) : M × Res (Bool × Bool) :=
  if !blockFmt t then (m, .ok (false, false))
  else andThen (tblRead m tn t.extent (t.epoch + r / 8) 1) (fun m (b, p) =>
    (m, .ok (bitOf ((b.headD 0).toNat) (r % 8), p.headD false)))

/-- The stack word of the row that holds element `i`. -/
def elemWord (f : Fmt) (i : Nat) : Nat := i * elemBits f / 256

/-- A row under a poisoned epoch word: every block reads as poisoned (R137). -/
def darkRow (t : Table) : RowImg :=
  { elems := List.replicate t.rowLen 0, words := List.replicate (rowSize t / 32) false, scales := List.replicate (rowBlocks t) 0,
    scalePoison := List.replicate (rowBlocks t) false, epoch := false, rowPoison := true, pad := [] }

/-- Reads since `c0` met `n` poisoned words that count. -/
def metOnly (c0 : Core) (n : Nat) (m : M) : M := (movedOnly c0 m).on (fun c => c.count ECC_POISON_READ n)

/-- Row `r` from home or from its shadow slot, with the scales of a plane. The scales of the blocks of a poisoned element word are
not consulted (R137). -/
def readRowAt (m : M) (tn : Nat) (t : Table) (r : Nat) (slot : Option Nat) (epoch : Bool) : M × Res RowImg :=
  let f := (tblFmt t).fmt
  let off := match slot with | some s => slotOff t s | none => rowOff t r
  andThen (tblRead m tn t.extent off (rowSize t)) (fun m (b, p) =>
    if !blockFmt t then
      let img : RowImg :=
        { elems := getElems f b t.rowLen, words := p, scales := [], scalePoison := [], epoch := false, rowPoison := false,
          pad := b.drop (elemsBytes f t.rowLen) }
      (m, .ok img)
    else
      let w := scaleBytes f
      let so := scaleOff t epoch r 0
      let c0 := m.core
      andThen (tblRead m tn t.extent so (rowBlocks t * w)) (fun m (sb, sp) =>
        let used := (List.range (rowBlocks t)).filter (fun k => !p.getD (elemWord f (32 * k)) false)
        let met := (List.range sp.length).filter (fun j => sp.getD j false && used.any (fun k => (so % 32 + k * w) / 32 == j))
        let img : RowImg :=
          { elems := getElems f b t.rowLen, words := p,
            scales := (List.range (rowBlocks t)).map (fun k => leNat ((sb.drop (k * w)).take w)),
            scalePoison := (List.range (rowBlocks t)).map (fun k => used.contains k && poisonAt so sp (k * w)),
            epoch := epoch, rowPoison := false, pad := b.drop (elemsBytes f t.rowLen) }
        (metOnly c0 met.length m, .ok img)))

/-- A read of a row through its table sees a matched pair in every state (R206, R266). -/
def readRow (m : M) (tn : Nat) (t : Table) (r : Nat) : M × Res RowImg :=
  andThen (readEpoch m tn t r) (fun m (ep, bad) =>
    if bad then (m, .ok (darkRow t))
    else
      let slot := match amGet? t.window r with
        | some ⟨.flipped, s⟩ => some s
        | some ⟨.copying, s⟩ => some s
        | _ => none
      readRowAt m tn t r slot ep)

/-- Element `i` reads as poisoned (R137). -/
def elemPoison (f : Fmt) (img : RowImg) (i : Nat) : Bool :=
  img.rowPoison || img.words.getD (elemWord f i) false || img.scalePoison.getD (i / 32) false

def imgPoisoned (img : RowImg) : Bool := img.rowPoison || img.words.any id || img.scalePoison.any id

/-- The decoded values of a row (R134). -/
def imgValues (f : Fmt) (cb : List FVal) (img : RowImg) : List FVal :=
  img.elems.zipIdx.map (fun (b, i) => decodeValue f cb (img.scales.getD (i / 32) 0) b)

/-- The pool pointer of the first poisoned word of a row, for DETAIL (R250). -/
def firstPoison (c : Core) (t : Table) (r : Nat) (img : RowImg) : W64 :=
  let here := fun off => extPtr c t.extent (off / 32 * 32)
  if img.rowPoison then here (t.epoch + r / 8)
  else match img.words.findIdx? id with
    | some k => here (rowOff t r + 32 * k)
    | none => here (scaleOff t img.epoch r ((img.scalePoison.findIdx? id).getD 0))

/-- The pool pointer of the poisoned word that element `i` of a row lies under: the epoch word, its element word or its
scale's. -/
def poisonOf (c : Core) (t : Table) (r : Nat) (img : RowImg) (i : Nat) : W64 :=
  let here := fun off => extPtr c t.extent (off / 32 * 32)
  let k := elemWord (tblFmt t).fmt i
  if img.rowPoison then here (t.epoch + r / 8)
  else if img.words.getD k false then here (rowOff t r + 32 * k)
  else here (scaleOff t img.epoch r (i / 32))

/-! ### Flags and statistics -/

/-- What a write adds to its work's flags and its context's counts (R150, R154, R155) and to the table's counts (R187). -/
structure Flags where
  sat : Nat := 0
  nonfin : Nat := 0
  stoch : Bool := false
  written : Nat := 0
  ovf : Nat := 0
  unf : Nat := 0
deriving DecidableEq, Repr

def Flags.add (a b : Flags) : Flags :=
  { sat := a.sat + b.sat, nonfin := a.nonfin + b.nonfin, stoch := a.stoch || b.stoch, written := a.written + b.written,
    ovf := a.ovf + b.ovf, unf := a.unf + b.unf }

/-- A saturating count of a context advances; the event is logged when it fills (R706). -/
def ctxCount (c : Core) (x a : Nat) (n : Nat) : Core :=
  let v := (c.rget a).toNat
  if n = 0 then c
  else
    let v' := satAdd 32 v n
    let c := c.rset a (BitVec.ofNat 64 v')
    if v' = 2 ^ 32 - 1 ∧ v ≠ 2 ^ 32 - 1 then raise c .ctxCountSaturated 7 x else c

/-- Flags and counts of the writing work and its context. -/
def addFlags (c : Core) (ctx num : Nat) (f : Flags) : Core :=
  let c := ctxCount c ctx (CTX_SAT_COUNT ctx) f.sat
  let c := ctxCount c ctx (CTX_NONFINITE_COUNT ctx) f.nonfin
  modWork c ctx num (fun w =>
    { w with sat := w.sat || f.sat != 0, nonfin := w.nonfin || f.nonfin != 0, stoch := w.stoch || f.stoch })

/-- Patina count `i` of a table: OVF, UNF, ZEROS, NONFINITE, then the histogram's bins. -/
def patinaCount (t : Table) : Nat → Nat
  | 0 => t.ovf
  | 1 => t.unf
  | 2 => t.zeros
  | 3 => t.nonfinite
  | i + 4 => amGet t.hist i 0

/-- The table with patina count `i` at its saturated value (Table 16-4). -/
def patinaFull (t : Table) (i : Nat) : Table :=
  let v := 2 ^ 32 - 1
  match i with
  | 0 => { t with ovf := v }
  | 1 => { t with unf := v }
  | 2 => { t with zeros := v }
  | 3 => { t with nonfinite := v }
  | i + 4 => { t with hist := amSet t.hist i v }

/-- A table with new patina counts: those that change are written, on the table's home plinth (R181). -/
def setPatina (c : Core) (tn : Nat) (old t : Table) : Core :=
  ((List.range 68).filter (fun i => patinaCount old i != patinaCount t i)).foldl (fun c i => wroteCtrl (tn % 4) (.patina tn i) c)
    (setTable c tn t)

/-- The patina unit's counts of a WRITE (R187, R188, R190). -/
def noteWrite (c : Core) (tn : Nat) (f : Flags) : Core :=
  if c.flag CAL_CTRL CAL_CTRL_PATINA_EN then
    match table? c tn with
    | some t => if bitOf t.sources 0 then
        setPatina c tn t { t with written := (t.written + f.written) % 2 ^ 64, ovf := satAdd 32 t.ovf f.ovf, unf := satAdd 32 t.unf f.unf }
      else c
    | none => c
  else c

/-- The histogram bin of a finite magnitude m × 2^e, m not 0 (R186). -/
def histBin (hbase : Int) (m : Nat) (e : Int) : Nat :=
  -- floor of log2 of the magnitude
  let k := (bitLen m : Int) + e - 1 - hbase
  if k < 0 then 0 else min 63 (k.toNat + 1)

/-- Values of one block binned (R186). -/
def binBlock (t : Table) (vals : List FVal) : Table :=
  vals.foldl (fun t v => match v with
    | .fin _ m e =>
      if m = 0 then { t with zeros := satAdd 32 t.zeros 1 }
      else let b := histBin t.hbase m e
           { t with hist := amSet t.hist b (satAdd 32 (amGet t.hist b 0) 1) }
    | _ => { t with nonfinite := satAdd 32 t.nonfinite 1 }) t

/-- A block of values offered by source `src` (0 WRITE, 1 UPDATE, 2 REDUCE): binned with probability 2^−RATE, and dropped
when the unit's input queue is full (R185, R189, R190). DESIGN CHOICE, assumption 51 (safe). -/
def offerBlock (c : Core) (tn src : Nat) (vals : List FVal) : Core :=
  match table? c tn with
  | none => c
  | some t =>
    if !c.flag CAL_CTRL CAL_CTRL_PATINA_EN || !bitOf t.sources src || vals = [] then c
    else
      let (c, d) := c.draw
      if (Config.random d).toNat % 2 ^ t.rate ≠ 0 then c
      else
        let (c, full) := c.choose 2
        if full = 1 then (modTable c tn (fun t => { t with drops := t.drops + 1 })).count CAL_PATINA_DROP
        else setPatina c tn t (binBlock t vals)

def chunks32 {α : Type} (l : List α) : List (List α) :=
  (List.range ((l.length + 31) / 32)).map (fun k => (l.drop (32 * k)).take 32)

def offerRow (c : Core) (tn src : Nat) (vals : List FVal) : Core := (chunks32 vals).foldl (fun c b => offerBlock c tn src b) c

/-- The largest finite magnitude among values. -/
def maxMag (l : List FVal) : FVal := l.foldl (fun a v => if v.isFin && a.lt v.abs then v.abs else a) FVal.zero

/-- R184: row `r`'s maximum takes the largest finite value written, rounded up to BF16; a poisoned word of maxima is
rewritten with the largest finite value. -/
def noteRowMax (m : M) (tn r : Nat) (vals : List FVal) : M :=
  match table? m.core tn with
  | none => m
  | some t =>
    if !bitOf t.sources 0 || !vals.any (·.isFin) then m
    else
      let new := match maxMag vals with | .fin _ k e => if k = 0 then 0 else bf16Up k e | _ => 0
      let off := t.stats + 2 * r
      match tblRead m tn t.extent (off / 32 * 32) 32 with
      | (m, .ok (b, p)) =>
        if p.any id then tblWrite m tn t.extent (off / 32 * 32) ((List.replicate 16 (natLe 2 0x7F7F)).flatten)
        else
          let old := leNat ((b.drop (off % 32)).take 2)
          if old < new then tblWrite m tn t.extent off (natLe 2 new) else m
      | (m, _) => m

/-! ### Encoding a block (R146 to R159) -/

/-- A block written: element bits, scale, and what it adds to the flags. -/
structure BlockEnc where
  elems : List Nat
  scale : Nat
  flags : Flags
deriving DecidableEq, Repr

/-- Flags of the elements that a work writes into one block that ends as a NaN block or not (R155, R158). -/
def blockFlags (ens : List Enc) (nanBlock : Bool) : Flags :=
  { sat := (ens.filter (·.sat)).length, nonfin := if nanBlock then ens.length else (ens.filter (·.nonfin)).length,
    stoch := ens.any (·.stoch), written := ens.length, ovf := (ens.filter (·.ovf)).length, unf := (ens.filter (·.unf)).length }

/-- Values `vals` (none: not written) into a block of `old` elements at scale `scale`. Draws from `d` on: one for rounding
and one for an unstated element, per element. -/
def encodeBlock (w : FmtWord) (cb : List FVal) (old : List Nat) (scale : Nat) (vals : List (Option FVal)) (d : Nat) :
    BlockEnc :=
  let f := w.fmt
  let en := fun (sc i : Nat) (v : FVal) => encodeValue w cb sc (draw16 (d + 2 * i)) (freeCode w cb sc old vals (draw16 (d + 2 * i + 1)) i) v
  let written := vals.filterMap id
  if !isBlock f then
    let es := vals.zipIdx.map (fun (v, i) => v.map (en 0 i))
    { elems := (es.zip old).map (fun (e, o) => match e with | some e => e.bits | none => o), scale := 0,
      flags := blockFlags (es.filterMap id) false }
  else
    let olds := old.map (decodeValue f cb scale)
    let full := vals.all (·.isSome)
    let amax := maxMag ((vals.zip olds).map (fun (v, o) => v.getD o))
    let sc := if w.fitted then fitScale f cb amax else scale
    let zeros := w.fitted && f == .bq4 && amax.isZero
    if !w.fitted && nanScale f scale then
      { elems := old, scale := scale,
        flags := { nonfin := written.length, written := written.length } }
    else
      let keep := !w.fitted || (sc = scale && !full)
      let es := ((vals.zip old).zip olds).zipIdx.map (fun (((v, o), dv), i) =>
        match v with
        | some v => (true, let e := en sc i v; if zeros then { e with bits := 0 } else e)
        | none => (false, if keep then { bits := o } else en sc i dv))
      let nan := es.any (fun e => e.2.nanBlock)
      let mine := (es.filter (fun e => e.1)).map (fun e => e.2)
      let fl := blockFlags mine nan
      { elems := es.map (·.2.bits), scale := if nan then nanScaleBits f else sc,
        flags := { fl with unf := fl.unf + ((es.filter (fun e => !e.1 && e.2.unf)).length) } }

/-! ### Writing a row -/

/-- Bytes of a row's new elements in whole words, padded with zeros. -/
def rowBytes (t : Table) (elems : List Nat) (pad : List Byte) : List Byte :=
  padTo (rowSize t) 0 (packElems (tblFmt t).fmt elems ++ pad)

/-- A whole row of words with marks is written at an offset of the table's extent. -/
def writeRowWords (m : M) (tn : Nat) (t : Table) (off : Nat) (bytes : List Byte) (which poison : Nat → Bool) : M :=
  (List.range (rowSize t / 32)).foldl (fun m k =>
    if which k then
      (writeMarked m (tn % 4) t.extent (off / 32 + k) [((bytes.drop (32 * k)).take 32, poison k)]).1
    else m) m

/-- The scales of a row in a plane are written. -/
def writeScales (m : M) (tn : Nat) (t : Table) (planeB : Bool) (r : Nat) (scales : List Nat) : M :=
  tblWrite m tn t.extent (scaleOff t planeB r 0) (scales.flatMap (natLe (scaleBytes (tblFmt t).fmt)))

/-- The epoch bit of a row. -/
def writeEpoch (m : M) (tn : Nat) (t : Table) (r : Nat) (v : Bool) : M :=
  match tblRead m tn t.extent (t.epoch + r / 8) 1 with
  | (m, .ok (b, _)) =>
    tblWrite m tn t.extent (t.epoch + r / 8) [BitVec.ofNat 8 (setBits (b.headD 0).toNat (r % 8) (r % 8) (b2n v))]
  | (m, _) => m

/-- A slot of the SHADOW area that no row uses (R204, R267). -/
def freeSlot (t : Table) : Option Nat := t.freeSlots.head?

/-- The whole row goes to new scales as one recast step of that row alone (R267), by free slot `s`: shadow slot, inactive plane, epoch
flip, home. The slot is free again as the step ends. -/
def flipRow (m : M) (tn : Nat) (t : Table) (s r : Nat) (img : RowImg) (bytes : List Byte) (poison : Nat → Bool)
    (scales : List Nat) : M :=
  let m := writeRowWords m tn t (slotOff t s) bytes (fun _ => true) poison
  let m := writeScales m tn t (!img.epoch) r scales
  let m := writeEpoch m tn t r (!img.epoch)
  writeRowWords m tn t (rowOff t r) bytes (fun _ => true) poison

/-- Blocks that a write cannot make because something it reads is poisoned (R137, R723): those of a poisoned epoch word; a
poisoned scale unless the write is FITTED and supplies the whole block; a poisoned element word that is not wholly
supplied. An addition (`add`) reads both. -/
def badBlock (t : Table) (w : FmtWord) (img : RowImg) (vals : List (Option FVal)) (add : Bool) (b : Nat) : Bool :=
  let f := (tblFmt t).fmt
  let full := fun (k : Nat) => ((vals.drop (32 * k)).take 32).all (·.isSome) && 32 * k + 32 ≤ vals.length
  if isBlock f then
    img.rowPoison || (img.scalePoison.getD b false && !(w.fitted && full b && !add)) ||
      (let wd := elemWord f (32 * b)
       img.words.getD wd false && !(!add && if f = .bk8 then full b else full (2 * wd) && full (2 * wd + 1)))
  else false

/-- Elements of a scalar row in a poisoned word that the write does not wholly supply, or adds to, are not written (R572). -/
def badElem (t : Table) (img : RowImg) (vals : List (Option FVal)) (add : Bool) (i : Nat) : Bool :=
  let f := (tblFmt t).fmt
  let k := elemWord f i
  let per := 256 / elemBits f
  img.words.getD k false && !(!add && (List.range per).all (fun j => k * per + j < vals.length && (vals.getD (k * per + j) none).isSome))

/-- A row write's outcome: blocks that poison kept from being written, whether one was written, the flags, and the poisoned
words that the write read. -/
structure RowWrite where
  bad : List Nat
  some_ : Bool
  flags : Flags
  met : List W64
deriving DecidableEq, Repr

/-- The first poisoned pointer, for DETAIL. -/
def RowWrite.ptr (x : RowWrite) : W64 := x.met.headD 0

/-- A row's new elements and scales as a write makes them, the values that it makes, and its outcome. -/
structure RowEnc where
  vals : List (Option FVal)
  elems : List Nat
  scales : List Nat
  out : RowWrite
deriving DecidableEq, Repr

/-- The values of block `b`. -/
def ofBlock {α : Type} (l : List α) (b : Nat) : List α := (l.drop (32 * b)).take 32

/-- Values against a row's image under format word `w` (R157, R158, R723). Element `i` of `vals` is none where the write has no value;
with `add` the values rest on the row's own. -/
def encodeRow (m : M) (t : Table) (r : Nat) (img : RowImg) (w : FmtWord) (vals : List (Option FVal)) (add : Bool) : M × RowEnc :=
  let f := tblFmt t |>.fmt
  let cb := tblCb m.core t
  let vals := padTo t.rowLen none vals
  let bad := (List.range (rowBlocks t)).filter (fun b => badBlock t w img vals add b)
  let made := vals.zipIdx.map (fun (v, i) => if bad.contains (i / 32) || (!isBlock f && badElem t img vals add i) then none else v)
  let lost := (vals.zip made).any (fun (a, b) => a.isSome && b.isNone)
  let met := distinctOf (((vals.zip made).zipIdx.filter (fun (x, _) => x.1.isSome && x.2.isNone)).map (fun (_, i) =>
    poisonOf m.core t r img (if isBlock f then i / 32 * 32 else i)))
  let bad := if lost && bad = [] then [0] else bad.filter (fun b => (ofBlock vals b).any (·.isSome))
  let (c, d) := m.core.drawN (2 * t.rowLen)
  let encs := (List.range (rowBlocks t)).map (fun b =>
    let old := ofBlock img.elems b
    if (ofBlock made b).any (·.isSome) then encodeBlock w cb old (img.scales.getD b 0) (ofBlock made b) (d + 64 * b)
    else { elems := old, scale := img.scales.getD b 0, flags := {} })
  ({ m with core := c },
    { vals := made, elems := encs.flatMap (·.elems), scales := encs.map (·.scale),
      out := { bad := bad, some_ := made.any (·.isSome), flags := encs.foldl (fun a e => a.add e.flags) {}, met := met } })

/-- The words of a row that hold a value written. -/
def RowEnc.touched (f : Fmt) (x : RowEnc) (k : Nat) : Bool := x.vals.zipIdx.any (fun (v, i) => v.isSome && elemWord f i == k)

/-- What the patina unit keeps of a row written: the counts, the samples and the row maximum (R184, R185, R187). -/
def noteRow (m : M) (tn r : Nat) (fl : Flags) (vals : List FVal) : M :=
  noteRowMax (m.on (fun c => offerRow (noteWrite c tn fl) tn 0 vals)) tn r vals

/-- Values written into row `r`, which is HOME (R157, R158, R266, R267, R723). A row that takes new scales carries the poison of
blocks that are not written in their element words, and needs a free shadow slot. -/
def writeRowHome (m : M) (tn : Nat) (t : Table) (r : Nat) (img : RowImg) (w : FmtWord) (vals : List (Option FVal))
    (add : Bool := false) : M × Res RowWrite :=
  let f := tblFmt t |>.fmt
  let (m, x) := encodeRow m t r img w vals add
  if !x.out.some_ then (m, .ok x.out)
  else
    let bytes := rowBytes t x.elems img.pad
    let made := fun (b : Nat) => (ofBlock x.vals b).any (·.isSome)
    let healed := (List.range (rowBlocks t)).any (fun b => made b && img.scalePoison.getD b false)
    let done := fun (m : M) => (noteRow m tn r x.out.flags (x.vals.filterMap id), Res.ok x.out)
    if isBlock f && (healed || x.scales != img.scales) then
      match freeSlot t with
      | none => (m, .park (.slot tn))
      | some s => done (flipRow m tn t s r img bytes (fun k => (List.range (rowBlocks t)).any (fun b => elemWord f (32 * b) == k &&
          !made b && (img.words.getD k false || img.scalePoison.getD b false))) x.scales)
    else done (writeRowWords m tn t (rowOff t r) bytes (x.touched f) (fun _ => false))

/-- A row is in the row-state window, or its queued writes are still to be replayed: writes to it join the queue (R208). -/
def rowBusy (t : Table) (r : Nat) : Bool := (amGet? t.window r).isSome || t.mq.any (·.row == r)

/-- Whether a row is mid-recast or its lock is held, so that a read-modify-write waits (R208, R209, R288). -/
def midRecast (t : Table) (r : Nat) : Bool := rowBusy t r || t.locked.contains r

/-- A write or addition to a row mid-recast enters the merge queue, a block at a time (R208, R210). -/
def mqPut (c : Core) (tn : Nat) (es : List MqEntry) : Core :=
  let (c, es) := es.foldl (fun (c, l) e => let (c, k) := struck c (tn % 4); (c, l ++ [{ e with err := k }])) (c, ([] : List MqEntry))
  modTable c tn (fun t => { t with mq := t.mq ++ es, mqPeak := max t.mqPeak (t.mq.length + es.length) })

/-- R211: the running step is abandoned for rows not yet FLIPPED: they return to HOME, and their queued writes are replayed at
the old encoding by `replay`. -/
def abandonRows (t : Table) : List Nat := (t.window.filter (fun e => e.2.st = .prepared)).map (·.1)

/-- The current values plus the queued ones, or the queued ones (R210). -/
def mqValues (f : Fmt) (cb : List FVal) (img : RowImg) (e : MqEntry) (rowLen : Nat) : List (Option FVal) :=
  (List.range rowLen).map (fun i =>
    if i / 32 = e.block then
      match e.vals.getD (i % 32) none with
      | some v =>
        some (if e.add then addFp32 (decodeValue f cb (img.scales.getD (i / 32) 0) (img.elems.getD i 0)) v else v)
      | none => none
    else none)

/-- What a replay gives its work: flags, and, of an addition, its row's place in COUNT (R280); a poisoned block leaves it undone, its
positions POISONED and its work too (R302, R723). -/
def replayed (c : Core) (tn : Nat) (e : MqEntry) (res : RowWrite) : Core :=
  let c := addFlags (c.count ECC_POISON_READ res.met.length) e.ctx e.work res.flags
  let c := modTable c tn (fun t => { t with mq := t.mq.erase e })
  modWork c e.ctx e.work (fun k =>
    let first := e.add && res.some_ && !k.rows.contains e.row
    let k := { k with queued := k.queued - 1, rows := if first then e.row :: k.rows else k.rows, count := if first then k.count + 1 else k.count }
    if res.bad = [] then k
    else { k with items := e.items.foldl (fun l i => amPut 0 l i 2) k.items, status := k.status <|> some .poisoned,
                  detail := if k.status.isNone then res.ptr else k.detail })

/-- What a write into row `r` needs ready: the row, its maximum, and for block formats the slot, planes and epoch map. -/
def rowRanges (t : Table) (r : Nat) : List (Nat × Nat) :=
  (rowOff t r, rowSize t) :: (if bitOf t.sources 0 then [(t.stats + 2 * r, 2)] else []) ++
  (if blockFmt t then
    let n := rowBlocks t * scaleBytes (tblFmt t).fmt
    [(scaleOff t false r 0, n), (scaleOff t true r 0, n), (t.epoch + r / 8, 1), (slotOff t ((freeSlot t).getD 0), rowSize t)]
   else [])

/-- The replay of an entry whose words were uncorrectable writes its block poisoned, and its work is POISONED (R566). -/
def spoiltReplay (m : M) (tn : Nat) (t : Table) (e : MqEntry) : M :=
  let at_ := fun k => elemWord (tblFmt t).fmt (32 * e.block) ≤ k && k ≤ elemWord (tblFmt t).fmt (min t.rowLen (32 * e.block + 32) - 1)
  let m := (writeRowWords m tn t (rowOff t e.row) (List.replicate (rowSize t) 0) at_ (fun _ => true)).on (·.count ECC_POISON_WRITTEN)
  let ptr := extPtr m.core t.extent (rowOff t e.row + 32 * elemWord (tblFmt t).fmt (32 * e.block))
  m.on (fun c => replayed c tn e { bad := [e.block], some_ := false, flags := {}, met := [ptr] })

/-- One queued entry replayed into a row that is HOME again (R210), unless its frames are not ready or it needs a slot and none is
free: then the entry stays. -/
def replayOne (m : M) (tn : Nat) (e : MqEntry) : M × Bool :=
  match table? m.core tn with
  | none => (m, false)
  | some t =>
    match readyWrites m t.extent (rowRanges t e.row) with
    | (m, some _) => (m, false)
    | (m, none) =>
      let m := m.on (fun c => if e.err = .corrected then correctedStaging c (tn % 4) 1
        else if e.err = .uncorrectable then noteStaging c (tn % 4) else c)
      if e.err = .poisoned ∨ e.err = .uncorrectable then (spoiltReplay m tn t e, true) else
      let c0 := m.core
      match readRow m tn t e.row with
      | (m, .ok img) =>
        let f := tblFmt t
        let w : FmtWord := { f with round := e.round, fitted := e.fitted }
        match writeRowHome (movedOnly c0 m) tn t e.row img w (mqValues f.fmt (tblCb m.core t) img e t.rowLen) e.add with
        | (m', .ok res) => (m'.on (fun c => replayed c tn e res), true)
        | _ => (m, false)
      | (m, _) => (m, false)

/-- Entries in the order they entered, as far as they can be replayed. -/
def replayAll (tn : Nat) : List MqEntry → M → M
  | [], m => m
  | e :: l, m => match replayOne m tn e with
    | (m, true) => replayAll tn l m
    | (m, false) => m

/-- The queued entries of row `r` in the order they entered (R210), once the row has left the window.
DEDUCED, assumption 84 (unsafe). -/
def replayRow (m : M) (tn r : Nat) : M :=
  match table? m.core tn with
  | none => m
  | some t => replayAll tn (t.mq.filter (·.row == r)) m

/-- A row leaves the window for HOME (Table 5-7) and its queued writes are replayed. Its slot is free, or is held while reads
go through its redirect (R207). A row that was not flipped is taken again in a later step (R211). -/
def rowHome (m : M) (tn r : Nat) (hold : Bool) : M :=
  match (table? m.core tn).bind (fun t => amGet? t.window r) with
  | none => m
  | some rw =>
    let m := m.on (fun c => modTable c tn (fun t =>
      { t with window := amDel t.window r, stepRows := t.stepRows.filter (· != r),
               again := if rw.st = .prepared then t.again ++ [r] else t.again,
               freeSlots := if hold then t.freeSlots else t.freeSlots ++ [rw.slot],
               heldSlots := if hold then t.heldSlots ++ [rw.slot] else t.heldSlots }))
    replayRow m tn r

/-- R211: every row not yet FLIPPED returns to HOME. DEDUCED, assumption 84 (unsafe). -/
def abandonStep (m : M) (tn : Nat) : M :=
  match table? m.core tn with
  | none => m
  | some t => (abandonRows t).foldl (fun m r => rowHome m tn r false) m

/-- The values of a row's blocks as merge-queue entries of positions `items`. -/
def mqOf (r : Nat) (add : Bool) (w : FmtWord) (ctx num : Nat) (items : List Nat) (vals : List (Option FVal)) : List MqEntry :=
  (chunks32 vals).zipIdx.filterMap (fun (vs, b) =>
    if vs.any (·.isSome) then some ⟨r, b, add, padTo 32 none vs, w.round, w.fitted, ctx, num, items, .fine⟩ else none)

/-- The values that an addition or a write gives a row. -/
def addedVals (t : Table) (cb : List FVal) (img : RowImg) (add : Bool) (vals : List (Option FVal)) : List (Option FVal) :=
  if add then ((padTo t.rowLen none vals).zip (imgValues (tblFmt t).fmt cb img)).map (fun (v, o) => v.map (addFp32 o)) else vals

/-- The overflowing write of R211 to a row FLIPPED or COPYING: into its shadow slot at the new scales, whatever its SCALE says, and
with COPYING also into its home; R723 holds of it as of any write. A block that it makes a NaN block takes its scale in the plane that
reads select. DEDUCED, assumption 84 (unsafe). -/
def writeOverflow (m : M) (tn : Nat) (t : Table) (r : Nat) (rw : RowWin) (w : FmtWord) (add : Bool)
    (vals : List (Option FVal)) : M × Res RowWrite :=
  let c0 := m.core
  andThen (readRow m tn t r) (fun m img =>
    let f := (tblFmt t).fmt
    let (m, x) := encodeRow (movedOnly c0 m) t r img { w with fitted := false } (addedVals t (tblCb m.core t) img add vals) add
    let m := m.on (fun c => c.count ECC_POISON_READ x.out.met.length)
    if !x.out.some_ then (m, .ok x.out)
    else
      let bytes := rowBytes t x.elems img.pad
      let m := writeRowWords m tn t (slotOff t rw.slot) bytes (x.touched f) (fun _ => false)
      let m := if rw.st = .copying then writeRowWords m tn t (rowOff t r) bytes (x.touched f) (fun _ => false) else m
      let m := if x.scales = img.scales then m else writeScales m tn t img.epoch r x.scales
      (noteRow m tn r x.out.flags (x.vals.filterMap id), .ok x.out))

/-- A write of part of a block under HELD: a read-modify-write (R209). -/
def heldPart (w : FmtWord) (add : Bool) (vals : List (Option FVal)) : Bool :=
  !add && !w.fitted && (chunks32 vals).any (fun b => b.any (·.isSome) && b.any (·.isNone))

/-- A SET or ADD of values into row `r` through its table by work (ctx, num), for the positions `items` (R208, R209, R211, R267). The
frames that it touches are ready. -/
def writeRow (m : M) (tn r : Nat) (w : FmtWord) (add : Bool) (ctx num : Nat) (vals : List (Option FVal)) (items : List Nat := []) :
    M × Res RowWrite :=
  match table? m.core tn with
  | none => (m, .fail .accessDenied 0)
  | some t =>
    let direct := fun (m : M) (t : Table) =>
      let c0 := m.core
      andThen (readRow m tn t r) (fun m img =>
        andThen (writeRowHome (movedOnly c0 m) tn t r img w (addedVals t (tblCb m.core t) img add vals) add) (fun m res =>
          (m.on (fun c => c.count ECC_POISON_READ res.met.length), .ok res)))
    if t.locked.contains r then (m, .park (.rowLock tn r))
    else if !rowBusy t r then direct m t
    else if heldPart w add (padTo t.rowLen none vals) then (m, .park (.rowLock tn r))
    else
      let es := mqOf r add w ctx num items (padTo t.rowLen none vals)
      if t.mq.length + es.length ≤ t.mqDepth then
        let m := m.on (fun c => modWork (mqPut c tn es) ctx num (fun k => { k with queued := k.queued + es.length }))
        (m, .ok ⟨[], !add, {}, []⟩)
      else
        let m := abandonStep m tn
        let m := m.on (fun c => raise (c.count CAL_MQ_OVERFLOW) .calMergeOverflow 9 tn)
        match table? m.core tn with
        | none => (m, .fail .accessDenied 0)
        | some t =>
          match amGet? t.window r with
          | none => direct m t
          | some rw => writeOverflow m tn t r rw w add vals

/-- Values of a row that is not poisoned there. -/
def goodValues (f : Fmt) (cb : List FVal) (img : RowImg) : List FVal :=
  (imgValues f cb img).zipIdx.filterMap (fun (v, i) => if elemPoison f img i then none else some v)

/-- What a copy of bits counts: its values and those that are not finite (R155, R187). -/
def bitFlags (vals : List FVal) : Flags := { written := vals.length, nonfin := (vals.filter (fun v => !v.isFin)).length }

/-- A row's bits, scales and poison marks written as they are (R162, R297, R570), as one step when a scale changes (R267).
Without bytes past its elements, the row keeps its own, and a poisoned word that holds some is left (R572). A row mid-recast takes
the decoded values into its queue under the ROUND and SCALE of `w` (R210), unless the source holds poison, which waits. -/
def writeRowBits (m : M) (tn r : Nat) (w : FmtWord) (src : RowImg) (ctx num : Nat) : M × Res RowWrite :=
  match table? m.core tn with
  | none => (m, .fail .accessDenied 0)
  | some t =>
    let f := tblFmt t
    let vals := goodValues f.fmt (tblCb m.core t) src
    if t.locked.contains r then (m, .park (.rowLock tn r))
    else if rowBusy t r then
      if imgPoisoned src then (m, .park (.rowLock tn r))
      else writeRow m tn r { f with round := w.round, fitted := w.fitted } false ctx num (vals.map some)
    else
      let c0 := m.core
      andThen (readRow m tn t r) (fun m img =>
        if img.rowPoison then (m, .ok ⟨[0], false, {}, [firstPoison m.core t r img]⟩)
        else
          let m := movedOnly c0 m
          let bytes := rowBytes t src.elems (if src.pad = [] then img.pad else src.pad)
          let last := rowSize t / 32 - 1
          let held := src.pad = [] && img.pad ≠ [] && img.words.getD last false
          let marks := fun k => src.words.getD k false || src.rowPoison || (held && k == last) ||
            (List.range (rowBlocks t)).any (fun b => src.scalePoison.getD b false && elemWord f.fmt (32 * b) == k)
          let done := fun (m : M) => (noteRow m tn r (bitFlags vals) vals,
            Res.ok (if held then ⟨[rowBlocks t - 1], true, bitFlags vals, [extPtr m.core t.extent (rowOff t r + 32 * last)]⟩
              else ⟨[], true, bitFlags vals, []⟩))
          if blockFmt t && (img.scalePoison.any id || src.scales != img.scales) then
            match freeSlot t with
            | none => (m, .park (.slot tn))
            | some s => done (flipRow m tn t s r img bytes marks src.scales)
          else done (writeRowWords m tn t (rowOff t r) bytes (fun k => !(held && k == last)) marks))

/-- The words of a row that hold poisoned results are written poisoned, its scales as stored (Table 7-15). A row under a poisoned
epoch word is left (R137), and a row mid-recast is waited for. -/
def poisonRow (m : M) (tn r : Nat) (words : Nat → Bool) : M × Res Unit :=
  match table? m.core tn with
  | none => (m, .fail .accessDenied 0)
  | some t =>
    if midRecast t r then (m, .park (.rowLock tn r))
    else andThen (readEpoch m tn t r) (fun m (_, bad) =>
      (if bad then m else writeRowWords m tn t (rowOff t r) (List.replicate (rowSize t) 0) words (fun _ => true), .ok ()))

end Sys2Proof.Machine
end

