-- ==== Sys2Proof/Machine/RingBase.lean ====
section
/-! DEFINITION. Ring routes (R508, R517) and forwarded requests (R31, R520 to R523). -/

namespace Sys2Proof.Machine
open Sys2Proof

def ringState (c : Core) : Nat := c.fld RING_STATUS RING_STATUS_STATE

/-- This chip is on the ring. -/
def onRing (c : Core) : Bool := ringState c == 2 || ringState c == 3

def ringPortLink (c : Core) (i : Nat) : Bool := bitOf (c.fld RING_STATUS RING_STATUS_LINK) i

/-- A direction is UP while a port of its receiving and one of its sending side have link (R508). West is ports 12 and 13. -/
def dirUp (c : Core) (_d : Nat) : Bool :=
  (ringPortLink c 0 || ringPortLink c 1) && (ringPortLink c 2 || ringPortLink c 3)

/-- The sending side of a direction: direction 0 sends on the east side, ports 14 and 15. -/
def dirPorts (d : Nat) : Nat × Nat := if d = 0 then (14, 15) else (12, 13)

/-- The direction in which a message that a ring port received travels (R507). -/
def portDir (port : Nat) : Nat := if port ≤ 13 then 0 else 1

/-- The port for an op tag, or, for a ring control message, the lower one with link (R508). -/
def dirPort (c : Core) (d : Nat) (tag : Option Nat) : Nat :=
  let (a, b) := dirPorts d
  let la := ringPortLink c (a - 12)
  let lb := ringPortLink c (b - 12)
  match tag with
  | none => if la then a else b
  | some t => if t % 2 = 0 then (if la then a else b) else (if lb then b else a)

/-- The place of a chip in the member list. -/
def memberIdx (c : Core) (chip : Nat) : Option Nat := c.ring.members.findIdx? (fun m => m.1 == chip)

/-- A route: hops in each direction and which directions reach (R517). A BROKEN or CLOSING link is not crossed. -/
structure Route where
  hops0 : Nat
  hops1 : Nat
  reach0 : Bool
  reach1 : Bool
deriving DecidableEq, Repr

def Route.prefer (r : Route) : Option Nat :=
  if r.reach0 && (!r.reach1 || r.hops0 ≤ r.hops1) then some 0 else if r.reach1 then some 1 else none

/-- The eastward links from member index `i` over `n` hops are all UP. -/
def linksUp (ms : List (Nat × Nat)) (i n : Nat) : Bool :=
  (List.range n).all (fun k => ((ms.getD ((i + k) % ms.length) (0, 2)).2) == 0)

/-- The route from member `src` to `dst` in a member list. -/
def routeIn (ms : List (Nat × Nat)) (src dst : Nat) : Option Route :=
  match ms.findIdx? (fun m => m.1 == src), ms.findIdx? (fun m => m.1 == dst) with
  | some i, some j =>
    let n := ms.length
    let h0 := (j + n - i) % n
    let h1 := (i + n - j) % n
    some { hops0 := h0, hops1 := h1, reach0 := linksUp ms i h0, reach1 := linksUp ms j h1 }
  | _, _ => none

def routeTo (c : Core) (chip : Nat) : Option Route := routeIn c.ring.members c.chipId chip

/-- A FORWARD message (Table 14-2): origin, destination, hop limit, direction, op tag, partition, context, then the inner
message's TYPE and fields. -/
def fwdMsg (c : Core) (dst dir tag part ctx type : Nat) (body : List Nat) (data : List Byte) : OutMsg :=
  { dst := .dir dir, type := 0x74, cls := 0, ctx := 0xFFFF,
    body := [c.chipId, dst, c.ring.members.length, dir, tag, part, ctx, type] ++ body, data := data, work := none }

/-- Hops to a chip by its preferred direction. -/
def hopsTo (c : Core) (chip : Nat) : Option Nat :=
  (routeTo c chip).bind (fun r => r.prefer.map (fun d => if d = 0 then r.hops0 else r.hops1))

/-- The chip that a pool pointer's CHIP is forwarded to (R602): a pair ID stands for the partner, or, in PAIR_TABLE, for the
member that fewer hops reach. -/
def ringTarget (c : Core) (chip : Nat) : Nat :=
  if isPairId c chip then c.fld PAIR_LAYOUT PAIR_LAYOUT_PARTNER
  else match c.pair.table.find? (fun e => e.1 == chip) with
    | some (_, a, b) => match hopsTo c a, hopsTo c b with
      | some x, some y => if x ≤ y then a else b
      | none, some _ => b
      | _, _ => a
    | none => chip

/-- A request for a chip cannot be forwarded at all (R522, R523). -/
def noRoute (c : Core) (chip : Nat) : Bool := ((routeTo c (ringTarget c chip)).bind Route.prefer).isNone

/-- The remote-extent cache takes the extent that a forwarded request names by the pool pointer it begins with (R92). -/
def noteRemote (c : Core) (chip dir type : Nat) (body : List Nat) : Core :=
  let e := ptrExtent (BitVec.ofNat 64 (body.getD 0 0))
  if !((0x10 ≤ type && type ≤ 0x12) || (0x30 ≤ type && type ≤ 0x34)) || c.ext.remote.any (fun r => r.chip == chip && r.extent == e) then c
  else { c with ext := { c.ext with remote := c.ext.remote ++ [⟨chip, e, dir, false⟩] } }

/-- The request of `who` for chip `chip` goes out under op tag `tag`, or waits for a drain (R518, R520). `kind` says who asks:
0 a work, 1 a session's request, 2 a queue pair's, 3 an expert entry, 4 a rasp thread. -/
def forward (c : Core) (chip tag part ctx type : Nat) (body : List Nat) (data : List Byte) (idem : Bool) (kind : Nat)
    (who : Nat × Nat × Nat) : Core :=
  let chip := ringTarget c chip
  match (routeTo c chip).bind Route.prefer with
  | none => c
  | some d =>
    let msg := fwdMsg c chip d tag part ctx type body data
    let f : Fwd := { tag := tag, dst := chip, dir := d, sentTick := c.tick, resent := false, idem := idem, draining := false,
                     who := who, kind := kind, part := part, ctx := ctx, type := type, body := body, data := data }
    let c := noteRemote { c with ring := { c.ring with fwds := c.ring.fwds ++ [f] } } chip d type body
    if c.ring.draining.any (fun x => x.1 == chip) then { c with ring := { c.ring with held := c.ring.held ++ [msg] } }
    else c.send msg

/-- Forwarded requests that await a reply (`RING_FWD_OUTSTANDING`). -/
def fwdOut (c : Core) : Nat := c.ring.fwds.length

end Sys2Proof.Machine
end

