-- ==== Sys2Proof/Machine/WorkBase.lean ====
section
/-! DEFINITION. What every work shares: pool accesses under its context's partition (R25, R81), result addresses and writes
(R225, R491, R504), parking (R246, R247), and how a work ends (R28, R254, R263, R326, R203, R334). -/

namespace Sys2Proof.Machine
open Sys2Proof

/-! ### Engines, clusters and placement (R16, R27, R355) -/

/-- Engines of a partition in service (R355, R358). -/
def enginesOf (c : Core) (q : Nat) : List Nat :=
  (List.range 16).filter (fun n =>
    let a := stackReg CE_CFG n
    c.flag a CE_CFG_ASSIGNED && c.fld a CE_CFG_PARTITION == q && !bitOf (c.fld GLB_FENCED GLB_FENCED_ENGINES) n)

/-- Clusters of a partition in service. -/
def clustersOf (c : Core) (q : Nat) : List Nat :=
  (List.range 16).filter (fun k =>
    let a := stackReg RSP_CFG k
    c.flag a RSP_CFG_ASSIGNED && c.fld a RSP_CFG_PARTITION == q && !bitOf (c.fld GLB_FENCED GLB_FENCED_CLUSTERS) k)

/-! ### Parking -/

/-- The engine that a slice of the work holds is given up. -/
def giveEngine (c : Core) (w : Work) : Core :=
  match w.engine with
  | none => c
  | some e => { c with work := { c.work with engines := amMod c.work.engines e (fun x =>
      { x with holder := none, acts := [], accs := [], busy := [] }) } }

/-- A wait for another chip's reply, which no rule calls a park. -/
def isRemote : ParkCause → Bool
  | .remote _ => true
  | _ => false

/-- A cause that a work waits for without a park: another chip's reply, or a WAIT's count, since a WAIT holds no thread and no
engine (R423). -/
def noPark : ParkCause → Bool
  | .remote _ | .sync _ _ => true
  | _ => false

/-- The work parks and gives up its engine, so that it redoes its step (R246, R247, R357); or it waits for another chip's reply,
which is no park, and keeps its engine (R356); or for a count. DEDUCED, assumption 41 (unsafe). -/
def parkWork (c : Core) (ctx num : Nat) (k : ParkCause) : Core :=
  match work? c ctx num with
  | none => c
  | some w =>
    if isRemote k then modWork c ctx num (fun w => { w with phase := .parked k, waited := 0 })
    else
      let c := notePark (giveEngine c w) (.work ctx num) k
      let c := modWork c ctx num (fun v => { v with phase := .parked k, engine := none, waited := 0, redo := w.engine.isSome })
      if noPark k then c else c.count (CTX_PARKS ctx)

/-! ### Result addresses -/

/-- A result address names a window and an offset (R225). -/
def resOk (c : Core) (ctx : Nat) (a : W64) (len : Nat) : Bool :=
  let win := bitsOf a.toNat 63 62
  let off := bitsOf a.toNat 61 0
  let wl := (c.rget (CTX_WIN_LEN ctx win)).toNat
  wl ≠ 0 && off + len ≤ wl

/-- Bytes written into the agent's memory for a work (R225, R491, R504). `rec` marks the completion record. -/
def agentWrite (c : Core) (ctx num : Nat) (a : W64) (bytes : List Byte) (isRec : Bool := false) : Core :=
  if bytes = [] then c
  else
    let win := bitsOf a.toNat 63 62
    let off := bitsOf a.toNat 61 0
    let c := c.send {
      dst := .agent (ctxOwner c ctx), type := 0x13, cls := 0, ctx := ctx,
      body := [off, bytes.length, (c.rget (CTX_WIN_KEY ctx win)).toNat, (c.rget (CTX_WIN_BASE ctx win)).toNat], data := bytes,
      work := some (ctx, num, isRec) }
    if isRec then c else modWork c ctx num (fun w => { w with unacked := w.unacked + 1 })

/-- The size of a result row (R272). -/
def rowStride (f : Fmt) (n : Nat) : Nat := (elemsBytes f n + 31) / 32 * 32

/-! ### Pool accesses of a work -/

/-- A check of R81 for a work's local access. -/
def workCheck (c : Core) (w : Work) (ptr : W64) (len : Nat) (rd wr : Bool) : Option Status :=
  ptrCheck c (ctxPart c w.ctx) ptr len rd wr

/-- A pool read of a work, on this chip or over the ring (R31, R80). -/
def poolRead (m : M) (w : Work) (ptr : W64) (len : Nat) : M × Res (List Byte × List Bool) :=
  if len = 0 then (m, .ok ([], []))
  else if servedHere m.core (ptrChip ptr) then
    match workCheck m.core w ptr len true false with
    | some s => (m, .fail s ptr)
    | none =>
      match readBytes m (w.ctx % 4) (ptrExtent ptr) (ptrOffset ptr) len with
      | (m, .got b p) => (m, .ok (b, p))
      | (m, .wait k) => (m, .park k)
  else
    match w.fetched.find? (fun f => f.ptr == ptr && f.len == len && !f.write) with
    | some f => if f.status = .done then (m, .ok (f.data, f.poisons)) else (m, .fail f.status ptr)
    | none =>
      if pairPark m.core (ptrChip ptr) then (m, .park .pair)
      else if noRoute m.core (ptrChip ptr) then (m, .fail .linkLost 0)
      else
        (m.on (fun c => forward c (ptrChip ptr) w.tag (ctxPart c w.ctx) w.ctx 0x10 [ptr.toNat, len] [] true 0
          (w.ctx, w.num, 0)), .park (.remote w.tag))

/-- A part of a write is due: all of it, or what an earlier try of the step left for want of backing (R101); what an earlier try made
is not made again. With the first poisoned word that it met. -/
def duePart (l : List Fetched) (ptr : W64) (bytes : List Byte) : List (Nat × List Byte) × Option Nat :=
  match l.find? (fun f => f.ptr == ptr && f.len == bytes.length && f.write) with
  | some f => (f.rest.map (fun s => (s.1, (f.data.drop (s.1 - ptrOffset ptr)).take s.2)), f.hit)
  | none => ([(ptrOffset ptr, bytes)], none)

/-- What a try of a local write has made and left. -/
def noteWritten (l : List Fetched) (ptr : W64) (bytes : List Byte) (rest : List (Nat × List Byte)) (hit : Option Nat) : List Fetched :=
  let same := fun (f : Fetched) => f.ptr == ptr && f.len == bytes.length && f.write
  let data := if rest = [] then [] else ((l.find? same).map (·.data)).getD bytes
  { ptr := ptr, len := bytes.length, write := true, data := data, poisons := [], status := .done,
    rest := rest.map (fun s => (s.1, s.2.length)), hit := hit } :: l.filter (fun f => !same f)

/-- A pool write of a work. Of a local one, the part whose frames are or can be backed is made, and the rest parks (R101). The answer
names the first word that was left out because it is poisoned (R572). -/
def poolWrite (m : M) (w : Work) (ptr : W64) (bytes : List Byte) : M × Res (Option W64) :=
  if bytes = [] then (m, .ok none)
  else if servedHere m.core (ptrChip ptr) then
    let (segs, hit) := duePart w.fetched ptr bytes
    match segs.findSome? (fun s => workCheck m.core w (mkPtr (ptrChip ptr) (ptrExtent ptr) s.1) s.2.length false true) with
    | some s => (m, .fail s ptr)
    | none =>
      let (m, r) := writeSegments m (w.ctx % 4) (ptrExtent ptr) segs
      let hit := hit <|> r.poisonHit
      let m := m.on (fun c => modWork c w.ctx w.num (fun v => { v with fetched := noteWritten v.fetched ptr bytes r.rest hit }))
      match r.wait with
      | some k => (m, .park k)
      | none => (m, .ok (hit.map (fun k => mkPtr (ptrChip ptr) (ptrExtent ptr) (32 * k))))
  else
    match w.fetched.find? (fun f => f.ptr == ptr && f.len == bytes.length && f.write) with
    | some f => if f.status = .done then (m, .ok (f.hit.map (fun k => mkPtr (ptrChip ptr) (ptrExtent ptr) (32 * k))))
      else (m, .fail f.status ptr)
    | none =>
      if pairPark m.core (ptrChip ptr) then (m, .park .pair)
      else if noRoute m.core (ptrChip ptr) then (m, .fail .linkLost 0)
      else
        (m.on (fun c => forward c (ptrChip ptr) w.tag (ctxPart c w.ctx) w.ctx 0x11 [ptr.toNat, bytes.length] bytes
          (bitOf w.flags 2) 0 (w.ctx, w.num, 1)), .park (.remote w.tag))

/-- Reads that must not meet poison: the first poisoned pointer is the failure's DETAIL (R302). -/
def poolReadGood (m : M) (w : Work) (ptr : W64) (len : Nat) : M × Res (List Byte) :=
  andThen (poolRead m w ptr len) (fun m (b, p) =>
    match p.findIdx? id with
    | some k => (m, .fail .poisoned (BitVec.ofNat 64 ((ptr.toNat / 32 + k) * 32)))
    | none => (m, .ok b))

/-- Bytes `off` to `off + len` of the descriptor's array field, inline or in the pool (R261). -/
def arrayRead (m : M) (w : Work) (inl : Bool) (field : W64) (off len : Nat) : M × Res (List Byte) :=
  if inl then (m, .ok ((w.desc.drop (field.toNat + off)).take len))
  else poolReadGood m w (field + BitVec.ofNat 64 off) len

/-- The same with poison marks left to the caller, one for each byte. -/
def arrayReadMarked (m : M) (w : Work) (inl : Bool) (field : W64) (off len : Nat) : M × Res (List Byte × List Bool) :=
  if inl then (m, .ok ((w.desc.drop (field.toNat + off)).take len, List.replicate len false))
  else
    let p := field + BitVec.ofNat 64 off
    andThen (poolRead m w p len) (fun m (b, ps) =>
      (m, .ok (b, (List.range len).map (fun i => poisonAt (ptrOffset p) ps i))))

/-- Whether an array field of `len` bytes, aligned to `al`, keeps the limits of R261. -/
def arrayOk (w : Work) (bodyEnd : Nat) (inl : Bool) (field : W64) (len al : Nat) : Bool :=
  field.toNat % al == 0 && (!inl || (bodyEnd ≤ field.toNat && field.toNat + len ≤ w.length * 32))

/-- The check of R81 of a pool array's whole length before the work starts (R261). -/
def arrayCheck (c : Core) (w : Work) (inl : Bool) (field : W64) (len : Nat) : Option Status :=
  if inl || len = 0 || !servedHere c (ptrChip field) then none else workCheck c w field len true false

/-! ### Fields of a descriptor -/

/-- `n` bytes of the body at an offset from descriptor byte 64 (R258). -/
def Work.field (w : Work) (off n : Nat) : Nat := leNat ((w.desc.drop (64 + off)).take n)
def Work.ptr (w : Work) (off : Nat) : W64 := BitVec.ofNat 64 (w.field off 8)

/-- Every byte of the body from `lo` up to `hi` is zero: reserved fields (R11). -/
def Work.zero (w : Work) (lo hi : Nat) : Bool := ((w.desc.drop (64 + lo)).take (hi - lo)).all (· == 0)

/-! ### How a work ends -/

/-- The item status array as bytes: 2 bits an item (R263). -/
def itemBytes (w : Work) : List Byte :=
  (List.range ((w.nItems + 3) / 4)).map (fun j =>
    BitVec.ofNat 8 (((List.range 4).map (fun k => amGet w.items (4 * j + k) 0 * 4 ^ k)).foldl (· + ·) 0))

def assignCode : AssignSt → Nat
  | .computed => 0 | .agent => 1 | .dropped => 2 | .failed => 3 | .notDone => 4 | .none_ => 5

/-- The gate applied, as the record gives it: 0 for a DROPPED or FAILED assignment (Table 8-8). The spec gives none for one that was
never decided. DESIGN CHOICE, assumption 95 (safe). -/
def appliedGate (a : Assign) : Nat :=
  match a.st with
  | .dropped | .failed => 0
  | .notDone => (Config.undecidedGate a.gate).toNat
  | .computed | .agent | .none_ => a.gate

/-- The assignment record's entries of one token (R326). -/
def assignBytes (k : Nat) (r : Option RouteTok) : List Byte :=
  match r with
  | none => (List.replicate k (natLe 8 (0xFFFF + 4 * 2 ^ 16))).flatten
  | some r => r.assigns.flatMap (fun a => natLe 8 (a.expert + assignCode a.st * 2 ^ 16 + appliedGate a * 2 ^ 32))

def planCode : PlanState → Nat
  | .none => 0 | .committed => 1 | .running => 2 | .halted => 3 | .stopped => 4 | .done => 5

/-- The progress record of a RECAST (R203): its own rows, none of one that was refused, and the plan of the table that it names. Of a
table that its partition has not it tells nothing. DESIGN CHOICE, assumption 97 (unsafe). -/
def progressBytes (c : Core) (w : Work) : List Byte :=
  match (table? c (w.field 0 2)).filter (fun t => t.partition == ctxPart c w.ctx) with
  | some t =>
    natLe 4 (if w.started then t.flippedBy else 0) ++ natLe 4 (if w.started then t.skippedBy else 0) ++ natLe 4 t.nextRow ++
    natLe 4 t.poisonRow ++ natLe 4 (planCode t.plan) ++ natLe 4 t.planNo ++ List.replicate 8 0
  | none => natLe 4 0 ++ natLe 4 0 ++ natLe 4 0 ++ natLe 4 0xFFFFFFFF ++ List.replicate 16 0

/-- R334: the entries of a route that stops early whose token group has not started leave the batches of this chip, and every
other holding chip is told to cancel. -/
def cancelRoute (c : Core) (w : Work) : Core :=
  let c := { c with work := { c.work with batches := c.work.batches.map (fun b =>
    { b with ents := b.ents.filter (fun e => !(e.fromChip == c.chipId && e.ctx == w.ctx && e.work == w.num)) }) } }
  let outs := c.ring.fwds.filter (fun f => f.kind == 3 && f.who.1 == w.ctx && f.who.2.1 == w.num)
  let chips := distinctOf (outs.map (·.dst))
  let c := chips.foldl (fun c d => match (routeTo c d).bind Route.prefer with
    | some dir => c.send {
        dst := .dir dir, type := 0x74, cls := 0, ctx := 0xFFFF,
        body := [c.chipId, d, c.ring.members.length, dir, w.tag, ctxPart c w.ctx, w.ctx, 0x101, w.num], data := [], work := none }
    | none => c) c
  let c := { c with ring := { c.ring with fwds := c.ring.fwds.filter (fun f => !(f.kind == 3 && f.who.1 == w.ctx && f.who.2.1 == w.num)) } }
  outs.foldl (fun c f => dropTag c f.tag) c

/-- What a work writes to the agent before its completion record, whatever its status: the item status array (R263), the
assignment record (R326) and the progress record (R203); none when the status is KEY_REVOKED, and the first two only once the
work has started. -/
def finalWrites (c : Core) (w : Work) : Core :=
  if w.status = some .keyRevoked && w.opcode ≠ 0x21 then c
  else
    let c := match w.statusAddr with
      | some a => if w.started then agentWrite c w.ctx w.num a (itemBytes w) else c
      | none => c
    if w.opcode = 0x21 then
      (if resOk c w.ctx (w.ptr 0x10) 32 then agentWrite c w.ctx w.num (w.ptr 0x10) (progressBytes c w) else c)
    else match w.recordAddr with
    | none => c
    | some a =>
      if w.opcode = 0x10 && w.started then agentWrite c w.ctx w.num a
          ((List.range w.nItems).flatMap (fun i => assignBytes w.perItem (amGet? w.route i)))
      else c

/-- The plan of a RECAST that ends before its rows are done (Table 5-10). -/
def endRecast (c : Core) (w : Work) : Core :=
  { c with work := { c.work with tables := amMap c.work.tables (fun _ t =>
    if t.recast = some (w.ctx, w.num) then
      { t with recast := none,
               plan := if t.plan = .running && (w.status = some .abortedFlush || w.status = some .abortedDeadline) then
                 .committed else t.plan }
    else t) } }

/-- The work ends with a status (DONE when it met no failure): it gives up its engine and wait entries, makes its last writes, once
its queued updates are made, and waits for them before its record (R28, R208). Its op tag retires. -/
def endWork (c : Core) (ctx num : Nat) : Core :=
  match work? c ctx num with
  | none => c
  | some w =>
    match w.phase with
    | .ended | .recorded => c
    | _ =>
      let c := giveEngine c w
      let c := unwait c (.work ctx num)
      let c := if w.opcode = 0x10 && w.route.any (fun r => !r.2.done) then cancelRoute c w else c
      let c := endRecast c w
      let c := modWork c ctx num (fun w => { w with phase := .ended, engine := none })
      let c := { c with rasp := { c.rasp with windows := amDel c.rasp.windows (wkey ctx num) } }
      let c := match work? c ctx num with
        | some w => if w.queued = 0 then finalWrites c w else modWork c ctx num (fun w => { w with owes := true })
        | none => c
      dropTag c w.tag

/-- The last writes of a work whose queued updates have been made. -/
def owedWrites (c : Core) : Core :=
  c.work.flight.foldl (fun c x =>
    if x.2.owes && x.2.queued == 0 then finalWrites (modWork c x.2.ctx x.2.num (fun w => { w with owes := false })) x.2 else c) c

/-- The pointer of the word that holds a byte: poison is a property of words, and DETAIL names the poisoned one (R302, R490). -/
def wordPtr (d : W64) : W64 := BitVec.ofNat 64 (d.toNat / 32 * 32)

/-- A status that nothing replaces: an abort already decided, or KEY_REVOKED, which overrides all others (R254, R72). -/
def decidedStatus (w : Work) : Bool :=
  match w.status with
  | some .abortedDeadline | some .abortedFlush | some .keyRevoked => true
  | _ => false

/-- The status that replaces what a work had met, where one may (R254). -/
def overrideStatus (s : Status) (w : Work) : Work := if decidedStatus w then w else { w with status := some s, detail := 0 }

/-- The work meets a failure (R254): the first one it meets is its status, but KEY_REVOKED replaces any other. -/
def noteFail (c : Core) (ctx num : Nat) (s : Status) (d : W64) : Core :=
  modWork c ctx num (fun w => match w.status with
    | some _ => if s = .keyRevoked then overrideStatus s w else w
    | none => { w with status := some s, detail := if (0x20 ≤ statusCode s ∧ statusCode s ≤ 0x31) ∨ s = .internalFault then (if s = .poisoned then wordPtr d else d) else 0 })

/-- The work stops with a status. -/
def stopWork (c : Core) (ctx num : Nat) (s : Status) (d : W64 := 0) : Core := endWork (noteFail c ctx num s d) ctx num

/-- The work stops with a status that replaces what it had met, where one may (R254). -/
def overrideStop (c : Core) (ctx num : Nat) (s : Status) : Core :=
  match work? c ctx num with
  | some w => match w.phase with
    | .recorded => c
    | .ended => modWork c ctx num (overrideStatus s)
    | _ => endWork (modWork c ctx num (overrideStatus s)) ctx num
  | none => c

/-- An item's status code (R263). -/
def setItem (c : Core) (ctx num i code : Nat) : Core := modWork c ctx num (fun w => { w with items := amPut 0 w.items i code })

/-- What a step counts before it parks counts when the step is made: COUNT, flags and items of the work, and the context's
counts of saturated and non-finite values, are those of `c0`, before the step. -/
def uncounted (c0 c : Core) (ctx num : Nat) : Core :=
  match work? c0 ctx num with
  | none => c
  | some w0 =>
    let c := modWork c ctx num (fun w => { w with
      count := w0.count, sat := w0.sat, nonfin := w0.nonfin, items := w0.items, rows := w0.rows })
    (c.rset (CTX_SAT_COUNT ctx) (c0.rget (CTX_SAT_COUNT ctx))).rset (CTX_NONFINITE_COUNT ctx) (c0.rget (CTX_NONFINITE_COUNT ctx))

/-- What is done under op tag `t`: its X writes and its translated accesses are the tag's (R94, R605). -/
def underTag (t : Nat) (f : M → M) (m : M) : M :=
  let own := m.core.pair.opTag
  (f (m.on (fun c => { c with pair := { c.pair with opTag := t } }))).on (fun c => { c with pair := { c.pair with opTag := own } })

/-- A wait that leaves a step wholly unmade: for a row, or for a shadow slot. -/
def wholePark : ParkCause → Bool
  | .rowLock _ _ | .slot _ => true
  | _ => false

/-- A computed step's outcome, from the chip before it, carried to the work: it goes on, parks or stops. A step that parks is made
again from its beginning (R247); one that waits for a row or a slot has made nothing. -/
def applyStep (m0 : M) (x : M × Res Unit) (ctx num : Nat) (next : Core → Core) : M :=
  match x with
  | (m, .ok _) => m.on next
  | (m, .park k) =>
    if wholePark k then m0.on (fun c => parkWork c ctx num k)
    else m.on (fun c => parkWork (uncounted m0.core c ctx num) ctx num k)
  | (m, .fail s d) => m.on (fun c => stopWork c ctx num s d)

/-- The step is done: the next one is due, and remote data of it is dropped. -/
def stepDone (c : Core) (ctx num : Nat) : Core := modWork c ctx num (fun w => { w with step := w.step + 1, fetched := [] })

end Sys2Proof.Machine
end

