-- ==== Sys2Proof/Machine/MgmtBase.lean ====
section
/-! DEFINITION. What management requests share (R493, R722), the staging-store ways of a partition (R623), and the budget of
housekeeping steps (R56 to R64). -/

namespace Sys2Proof.Machine
open Sys2Proof

/-! ### Replies -/

/-- A management body's outcome: the state, ACCEPTED or a refusal code, and the fields of the reply. -/
abbrev Mg := M × MgmtCode × List Nat

def accept (m : M) (body : List Nat := []) : Mg := (m, .accepted, body)

/-- A refusal changes nothing. -/
def refuse (m : M) (k : MgmtCode) : Mg := (m, k, [])

/-- The first condition of a list that fails decides the refusal (R722). -/
def firstRefusal (l : List (Bool × MgmtCode)) : Option MgmtCode := (l.find? (fun x => !x.1)).map (·.2)

/-- The request is carried out unless a condition fails. -/
def checked (m : M) (l : List (Bool × MgmtCode)) (f : M → Mg) : Mg :=
  match firstRefusal l with
  | some k => refuse m k
  | none => f m

/-- The agent that an endpoint ID names (R467): kind 0 in the top bits, agent ID in bits 15:0. -/
def epAgent (ep : Nat) : Option Nat := if ep < 65536 then some ep else none

def srcFm : Src → Bool
  | .agent _ => false
  | _ => true

/-- The agent of a request, and the context that it names (R493). -/
def srcAgent : Src → Option Nat
  | .agent p => some (p.srcEp % 65536)
  | _ => none

def srcCtx : Src → Nat
  | .agent p => p.ctx
  | _ => 0xFFFF

/-- Partition q is ACTIVE (R626). -/
def partActive (c : Core) (q : Nat) : Bool := q < 16 && c.fld (SEC_PART q) SEC_PART_STATE == 2

/-- The owner of a loaded key slot (R635). -/
def slotOwner (c : Core) (n : Nat) : Option Nat := (amGet? c.sec.slots n).map (·.owner)

/-! ### Answers to messages of agents (R488) -/

/-- How a message is answered: a REPLY, nothing, or later, once what it waits for has come (R247). -/
inductive Ans where
  | reply (r : Rep)
  | drop
  | park (k : ParkCause)
  /-- Another chip has the extent: forwarded under the op tag (R31). -/
  | fwd (tag : Nat)
deriving DecidableEq, Repr

def failed (s : Status) (d : W64 := 0) : Ans := .reply { status := s, detail := d }

/-! ### Staging-store ways (R623) -/

def popcount : Nat → Nat → Nat
  | 0, _ => 0
  | n + 1, v => v % 2 + popcount n (v / 2)

/-- Bytes of partition q's ways on plinth p. MASK's bit 0 is way 8. -/
def waysBytes (c : Core) (q p : Nat) : Nat := popcount 24 (c.fld (SEC_WAYS q p) SEC_WAYS_MASK) * 4194304

def quantFmt : Nat → Fmt
  | 0 => .bf16
  | 1 => .bk8
  | _ => .bk4

/-- Bytes of an encoded token x̃ of `d` elements under QUANT. -/
def quantBytes (q d : Nat) : Nat :=
  elemsBytes (quantFmt q) d + (if isBlock (quantFmt q) then d / 32 * scaleBytes (quantFmt q) else 0)

/-- An entry takes the bytes of x̃ plus 32 (R329). -/
def entBytes (e : BatchEnt) : Nat := quantBytes e.quant e.elems.length + 32

/-- Combine-slot bytes of a route (R327): D × 4 for each token routed and not done. -/
def combineBytes (w : Work) : Nat :=
  if w.opcode = 0x10 then (w.route.filter (fun r => !r.2.done)).length * (w.field 8 4 * 4) else 0

def sumNat (l : List Nat) : Nat := l.foldl (· + ·) 0

/-- The work still holds its window and combine slots. -/
def liveWork (w : Work) : Bool := match w.phase with | .ended | .recorded => false | _ => true

/-- Work windows, combine slots, merge queues and batch entries that partition q holds on plinth p.
DEDUCED, assumption 43 (unsafe). -/
def windowsUsed (c : Core) (q p : Nat) : Nat :=
  sumNat ((c.work.flight.map (·.2)).map (fun w => if w.ctx % 4 = p ∧ ctxPart c w.ctx = q ∧ liveWork w then w.winBytes else 0))
def combineUsed (c : Core) (q p : Nat) : Nat :=
  sumNat ((c.work.flight.map (·.2)).map (fun w => if w.ctx % 4 = p ∧ ctxPart c w.ctx = q ∧ liveWork w then combineBytes w else 0))
def queuesUsed (c : Core) (q p : Nat) : Nat :=
  sumNat (c.work.tables.map (fun (t, v) => if t % 4 = p ∧ v.partition = q then v.mqDepth * 160 else 0))
def batchUsed (c : Core) (q p : Nat) : Nat :=
  sumNat (c.work.batches.map (fun b =>
    if ptrExtent b.image % 4 = p then sumNat ((b.ents.filter (·.part == q)).map entBytes) else 0))

/-- DEDUCED, assumption 43 (unsafe). -/
def waysUsed (c : Core) (q p : Nat) : Nat := windowsUsed c q p + combineUsed c q p + queuesUsed c q p + batchUsed c q p

/-- Room for `n` more bytes in partition q's ways on plinth p. -/
def waysRoom (c : Core) (q p n : Nat) : Bool := waysUsed c q p + n ≤ waysBytes c q p

/-! ### Housekeeping slices (Table 2-1) -/

/-- The period in ns. -/
def periodNs (c : Core) : Nat := c.fld TCK_CONFIG TCK_CONFIG_PERIOD_US * 1000

/-- Housekeeping slices in the order in which R63 takes an excess: 0 recast, 1 scrub, 2 retraining, 3 rebuild. Their
allotments in ns before any cut: halved while ESCALATED, but for retraining (R64). -/
def baseAllot (c : Core) (k : Nat) : Nat :=
  let b0 := c.tck.budget0.toNat
  let b1 := c.tck.budget1.toNat
  let half := if c.flag TCK_OVERRUN TCK_OVERRUN_ESCALATED then 2 else 1
  let share := fun (f : Fld) => periodNs c * bitsOf b1 f.hi f.lo / 1000 / half
  match k with
  | 0 => share TCK_BUDGET1_RECAST
  | 1 => share TCK_BUDGET1_SCRUB_CAP
  | 2 => bitsOf b0 TCK_BUDGET0_RETRAIN_PC.hi TCK_BUDGET0_RETRAIN_PC.lo * 2000
  | _ => share TCK_BUDGET1_REBUILD

def allotNs (c : Core) (k : Nat) : Nat := baseAllot c k - c.tck.cut.getD k 0

/-- A step of slice k with an estimate of `ns` ends within the slice's allotment of this tick (R62). -/
def stepFits (c : Core) (k ns : Nat) : Bool := c.tck.used.getD k 0 + ns ≤ allotNs c k

def useSlice (c : Core) (k ns : Nat) : Core :=
  { c with tck := { c.tck with used := listMod (padTo 4 0 c.tck.used) k (· + ns) } }

end Sys2Proof.Machine
end

