-- ==== Sys2Proof/Machine/Works1.lean ====
section
/-! DEFINITION. The lookup and update works (chapter 7): GATHER, GATHER_REDUCE, SCATTER_ADD, ROW_UPDATE, ATOMIC, COPY, FILL,
CONVERT. Each definition `…Check` gives the status of a work that does not start; each `…Step` makes one step. -/

namespace Sys2Proof.Machine
open Sys2Proof

/-! ### Index lists (R258 to R260) -/

/-- What reading one LEB128 value finds. -/
inductive Leb where
  | val (z : Nat) (rest : List (Byte × Bool))
  | bad
  | poison
  | done

/-- The value whose bytes so far give `acc` at shift 7 × `n`. -/
def lebGo : Nat → Nat → Nat → List (Byte × Bool) → Leb
  | 0, _, _, _ => .bad
  | fuel + 1, n, acc, l =>
    match l with
    | [] => if n = 0 then .done else .bad
    | (b, p) :: t =>
      if p then .poison
      else
        let acc := acc + b.toNat % 128 * 2 ^ (7 * n)
        if n = 4 then (if b.toNat ≤ 0x0F then .val acc t else .bad)
        else if b.toNat < 128 then .val acc t
        else lebGo fuel (n + 1) acc t

def lebNext (l : List (Byte × Bool)) : Leb := lebGo 6 0 0 l

/-- d = (z >> 1) XOR −(z AND 1), added to the previous index (R259). -/
def nextIndex (prev z : Nat) : Nat :=
  let d := if z % 2 = 1 then 2 ^ 32 - 1 - z / 2 else z / 2
  (prev + d) % 2 ^ 32

/-- A varint stream decoded: its indices, and why it stopped before its end. -/
inductive ListEnd where
  | end_
  | bad
  | poison
deriving DecidableEq, Repr

def decodeList : Nat → Nat → List (Byte × Bool) → List Nat × ListEnd
  | 0, _, _ => ([], .end_)
  | fuel + 1, prev, l =>
    match lebNext l with
    | .done => ([], .end_)
    | .bad => ([], .bad)
    | .poison => ([], .poison)
    | .val z rest =>
      let i := nextIndex prev z
      let (t, e) := decodeList fuel i rest
      (i :: t, e)

/-- The indices of positions `lo` up to `hi` of a list without bags, malformed or poisoned where the step needs one that the stream
does not hold; and whether a stream holds bytes past position NIDX, which the last step finds (R260). -/
def indices (m : M) (w : Work) (lo hi : Nat) (idxOff vbytesOff : Nat) : M × Res (List Nat × Bool) :=
  let flags := w.field 2 2
  let inl := bitOf flags 0
  if bitOf flags 1 then
    let vb := w.field vbytesOff 4
    andThen (arrayReadMarked m w inl (w.ptr idxOff) 0 vb) (fun m (b, p) =>
      let (l, e) := decodeList (vb + 1) 0 (b.zip p)
      if l.length < hi then
        match e with
        | .poison => (m, .fail .poisoned ((w.ptr idxOff) + BitVec.ofNat 64 (p.findIdx id / 32 * 32)))
        | _ => (m, .fail .badDescriptor 0)
      else (m, .ok ((l.drop lo).take (hi - lo), w.field 4 4 < l.length || e ≠ .end_)))
  else
    andThen (arrayRead m w inl (w.ptr idxOff) (4 * lo) (4 * (hi - lo))) (fun m b =>
      (m, .ok ((List.range (hi - lo)).map (fun k => leNat ((b.drop (4 * k)).take 4)), false)))

/-- A work whose list names no position still has a last step when its stream holds bytes (R260). -/
def listSteps (w : Work) (steps : Nat) : Nat := if steps = 0 && bitOf (w.field 2 2) 1 && w.field 8 4 ≠ 0 then 1 else steps

def nullIndex : Nat := 0xFFFFFFFF

/-! ### Checks shared by the works -/

/-- The table of a work (R264) and its format word (R265): the refusal, or the table. -/
def workTable (c : Core) (w : Work) (tn fmt : Nat) : Status ⊕ (Table × FmtWord) :=
  match table? c tn with
  | none => .inl .accessDenied
  | some t =>
    if t.partition ≠ ctxPart c w.ctx then .inl .accessDenied
    else match fmtWord? fmt with
      | none => .inl .badDescriptor
      | some f => if sameTableFmt f (tblFmt t) then .inr (t, f) else .inl .badDescriptor

/-- A codebook of the context's partition (R139). -/
def cbOk (c : Core) (w : Work) (f : FmtWord) : Bool := f.fmt ≠ .cb4 || f.codebook / 16 == ctxPart c w.ctx

/-- The check of R81 for a work's accesses to a table's extent. -/
def tblAccess (c : Core) (w : Work) (t : Table) (wr : Bool) : Option (Status × W64) :=
  (accessCheck c (ctxPart c w.ctx) t.extent t.elemOff (rowSize t * t.rows) true wr).map
    (fun s => (s, extPtr c t.extent t.elemOff))

/-- The same for a table that is only written: a block format's scales and epoch map are read too. -/
def tblWritable (c : Core) (w : Work) (t : Table) : Option (Status × W64) :=
  (accessCheck c (ctxPart c w.ctx) t.extent t.elemOff (rowSize t * t.rows) (blockFmt t) true).map
    (fun s => (s, extPtr c t.extent t.elemOff))

/-- Formats between which a conversion copies bits (R162). -/
def sameBits (a b : FmtWord) : Bool := a.fmt == b.fmt && a.codebook == b.codebook

/-- The status array of `n` items fits its window. -/
def statusOk (c : Core) (w : Work) (en : Bool) (a : W64) (n : Nat) : Bool :=
  !en || resOk c w.ctx a ((n + 3) / 4)

/-- The first check that fails. -/
def firstFail (l : List (Bool × Status)) : Option Status := (l.find? (fun x => !x.1)).map (·.2)

/-- The work has started: its status array and items are known. -/
def startWork (c : Core) (w : Work) (en : Bool) (a : W64) (items : Nat) : Core :=
  modWork c w.ctx w.num (fun v => { v with
    started := true, nItems := items, statusAddr := if en then some a else none, readsAt := (ctxX c w.ctx).reads })

/-- A work whose next step may run: its slice runs, or it needs neither thread nor engine (Table 6-8). -/
def active (w : Work) : Bool := w.phase == .running || (0x3E ≤ w.opcode && w.phase == .ready)

/-- The driver of a work's command: the named work must be running the named opcode. An unstarted work is checked and
refused or started; then one step is made; after `total` steps it ends. -/
def runWork (opcode ctx num : Nat) (check : M → Work → M × Res Unit) (start : Core → Work → Core)
    (step : M → Work → M × Res Unit) (total : M → Work → Nat) (m : M) : M :=
  match work? m.core ctx num with
  | none => m
  | some w =>
    if w.opcode ≠ opcode ∨ !active w then m
    else
      let go := fun (m : M) =>
        match work? m.core ctx num with
        | none => m
        | some w =>
          if total m w ≤ w.step then m.on (fun c => endWork c ctx num)
          else
            let m := underTag w.tag (fun m => applyStep m (step m w) ctx num (fun c => stepDone c ctx num)) m
            match work? m.core ctx num with
            | some w => if active w ∧ total m w ≤ w.step then m.on (fun c => endWork c ctx num) else m
            | none => m
      if w.started then go m
      else match check m w with
        | (m, .ok _) => go (m.on (fun c => start c w))
        | (m, .park k) => m.on (fun c => parkWork c ctx num k)
        | (m, .fail s d) => m.on (fun c => stopWork c ctx num s d)

/-- An encoding of scalar values with fresh draws: the bits and the flags. -/
def encodeScalars (c : Core) (f : FmtWord) (vals : List FVal) : Core × List Nat × Flags :=
  let (c, d) := c.drawN (2 * vals.length)
  let es := vals.zipIdx.map (fun (v, i) => encodeValue f [] 0 (draw16 (d + 2 * i)) 0 v)
  (c, es.map (·.bits), blockFlags es false)

/-- Result bytes of a row, padded to the stride (R272). -/
def resultRow (f : Fmt) (bits : List Nat) : List Byte := padTo (rowStride f bits.length) 0 (packElems f bits)

/-! ### GATHER and GATHER_REDUCE (R271 to R278) -/

/-- The row size of a result: elements, and for a block format its scale bytes (R272). -/
def outStride (f : Fmt) (n : Nat) : Nat :=
  if isBlock f then (elemsBytes f n + n / 32 * scaleBytes f + 31) / 32 * 32 else rowStride f n

def gatherCheck (reduce : Bool) (m : M) (w : Work) : M × Res Unit :=
  let c := m.core
  let flags := w.field 2 2
  let nidx := w.field 4 4
  let vb := w.field 8 4
  let bags := w.field 0x14 4
  let inl := bitOf flags 0
  let varint := bitOf flags 1
  let outTab := bitOf flags 4
  let mode := bitsOf flags 7 6
  let items := if reduce then bags else nidx
  match workTable c w (w.field 0 2) (w.field 0x0C 4), fmtWord? (w.field 0x10 4) with
  | .inl s, _ => (m, .fail s 0)
  | .inr _, none => (m, .fail .badDescriptor 0)
  | .inr (t, f), some o =>
    let outT := table? c (bitsOf (w.field 0x20 8) 41 32)
    let first := bitsOf (w.field 0x20 8) 31 0
    let idxLen := if varint then vb else 4 * nidx
    let offLen := if reduce then 4 * (bags + 1) else 0
    let wgtLen := if reduce && mode = 1 then 4 * nidx else 0
    let bad := firstFail [
      (bitsOf flags 15 8 == 0 && bitsOf flags 3 2 != 3 && (reduce || mode == 0), .badDescriptor),
      (nidx ≤ 67108864 && (varint || vb == 0), .badDescriptor),
      (if reduce then 1 ≤ bags && bags ≤ 16777216 else bags == 0 && w.zero 0x30 0x40, .badDescriptor),
      (!reduce || mode == 1 || w.field 0x38 8 == 0, .badDescriptor),
      (arrayOk w 128 inl (w.ptr 0x18) idxLen (if varint then 1 else 4), .badDescriptor),
      (!reduce || arrayOk w 128 inl (w.ptr 0x30) offLen 4, .badDescriptor),
      (wgtLen == 0 || arrayOk w 128 inl (w.ptr 0x38) wgtLen 4, .badDescriptor),
      (cbOk c w f && cbOk c w o, .accessDenied),
      (outTab || (if isBlock o.fmt then !reduce && sameTableFmt o f
                  else o.fmt ≠ .i32 || (reduce && (mode == 0 || mode == 3) && (f.fmt == .i8 || f.fmt == .i4))),
        .formatUnsupported),
      (!outTab || (match outT with | some q => q.partition == ctxPart c w.ctx | none => false), .accessDenied),
      (!outTab || (match outT with
        | some q => sameTableFmt o (tblFmt q) && q.rowLen == t.rowLen && first + items ≤ q.rows &&
            bitsOf (w.field 0x20 8) 63 42 == 0
        | none => false), .badDescriptor),
      (outTab || resOk c w.ctx (w.ptr 0x20) (items * outStride o.fmt t.rowLen), .badDescriptor),
      (statusOk c w (bitOf flags 5) (w.ptr 0x28) items, .badDescriptor)]
    match bad with
    | some s => (m, .fail s 0)
    | none =>
      match (arrayCheck c w inl (w.ptr 0x18) idxLen).map (·, w.ptr 0x18) <|>
          (arrayCheck c w inl (w.ptr 0x30) offLen).map (·, w.ptr 0x30) <|>
          (arrayCheck c w inl (w.ptr 0x38) wgtLen).map (·, w.ptr 0x38) with
      | some (s, d) => (m, .fail s d)
      | none =>
        if !reduce then (m, .ok ())
        else andThen (arrayRead m w inl (w.ptr 0x30) 0 offLen) (fun m b =>
          let offs := (List.range (bags + 1)).map (fun k => leNat ((b.drop (4 * k)).take 4))
          let up := (offs.zip offs.tail).all (fun (x, y) => decide (x ≤ y))
          if offs.headD 1 = 0 ∧ up ∧ offs.getLastD 0 = (if varint then vb else nidx) then (m, .ok ())
          else (m, .fail .badDescriptor 0))

def gatherStart (reduce : Bool) (c : Core) (w : Work) : Core :=
  startWork c w (bitOf (w.field 2 2) 5) (w.ptr 0x28) (if reduce then w.field 0x14 4 else w.field 4 4)

/-- DEDUP of the work: 0 NONE, 1 WORK, 2 TICK (Table 7-1). -/
def dedupOf (w : Work) : Nat := bitsOf (w.field 2 2) 3 2

/-- A read of row `r` is shared with one made already: by the work's running slice, or under TICK by a work of the context since this
one started (R268, R269). -/
def sharedRead (c : Core) (w : Work) (tn r : Nat) : Bool :=
  let k := tn * 2 ^ 32 + r
  match dedupOf w with
  | 0 => false
  | 1 => (work? c w.ctx w.num).any (fun v => v.sliceRows.contains k)
  | _ => ((amGet? (ctxX c w.ctx).tickSet k).map (fun n => decide (w.readsAt ≤ n))).getD false

/-- A read that others may share is noted; a tick set takes 65,536 rows of a table, and those beyond are not shared (R270). -/
def noteRead (c : Core) (w : Work) (tn r : Nat) : Core :=
  let k := tn * 2 ^ 32 + r
  match dedupOf w with
  | 0 => c
  | 1 => modWork c w.ctx w.num (fun v => { v with sliceRows := k :: v.sliceRows })
  | _ => modCtxX c w.ctx (fun x =>
    if (amGet? x.tickSet k).isNone && 65536 ≤ (x.tickSet.filter (fun j => j.1 / 2 ^ 32 == tn)).length then x
    else { x with tickSet := amSet x.tickSet k x.reads, reads := x.reads + 1 })

/-- Row `r` read by a work under its DEDUP. A shared read touches memory no more. -/
def dedupRow (m : M) (w : Work) (tn : Nat) (t : Table) (r : Nat) : M × Res RowImg :=
  if sharedRead m.core w tn r then
    match readRow m tn t r with
    | (_, .ok img) => (m, .ok img)
    | x => x
  else andThen (readRow m tn t r) (fun m img => (m.on (fun c => noteRead c w tn r), .ok img))

/-- One result of GATHER or GATHER_REDUCE: values with their row's image, or poison with the pointer met first and the elements that
are poisoned, or null. -/
inductive GRes where
  | vals (l : List FVal) (same : Option RowImg)
  | poison (ptr : W64) (elems : Nat → Bool)
  | null

/-- The frames of rows that a write touches are made ready. -/
def rowFrames (m : M) (t : Table) (rows : List Nat) : M × Res Unit :=
  match readyWrites m t.extent (rows.flatMap (rowRanges t)) with
  | (m, some k) => (m, .park k)
  | (m, none) => (m, .ok ())

/-- Result `i` written to the agent or to the output table; gives the item's code and the bytes for the agent. Of a row that holds
poisoned results, the words that hold them are written poisoned and no other (Table 7-15). DESIGN CHOICE, assumption 93 (unsafe). -/
def gatherPut (m : M) (w : Work) (t : Table) (o : FmtWord) (i : Nat) (g : GRes) : M × Res (Nat × List Byte) :=
  let outTab := bitOf (w.field 2 2) 4
  let q := bitsOf (w.field 0x20 8) 41 32
  let r := bitsOf (w.field 0x20 8) 31 0 + i
  let zeros := List.replicate (outStride o.fmt t.rowLen) (0 : Byte)
  let item := fun (m : M) (code : Nat) => m.on (fun c => setItem c w.ctx w.num i code)
  -- a row written into the output table; poison in its way makes the item POISONED
  let put := fun (x : M × Res RowWrite) (code : Nat) => andThen x (fun m res =>
    let m := m.on (fun c => addFlags c w.ctx w.num res.flags)
    if res.bad = [] then (item m code, Res.ok (code, ([] : List Byte)))
    else ((item m 2).on (fun c => noteFail c w.ctx w.num .poisoned res.ptr), .ok (2, [])))
  match g with
  | .poison p bad =>
    let m := (item m 2).on (fun c => noteFail c w.ctx w.num .poisoned p)
    if outTab then
      andThen (poisonRow m q r (fun k => (List.range t.rowLen).any (fun i => bad i && elemWord o.fmt i == k))) (fun m _ => (m, .ok (2, [])))
    else (m, .ok (2, zeros))
  | .null =>
    if outTab then put (writeRow m q r o false w.ctx w.num (List.replicate t.rowLen (some FVal.zero)) [i]) 3
    else (item m 3, .ok (3, zeros))
  | .vals l same =>
    if outTab then
      put (match same with
        | some img => writeRowBits m q r o { img with pad := [] } w.ctx w.num
        | none => writeRow m q r o false w.ctx w.num (l.map some) [i]) 1
    else
      let m := item m 1
      match same with
      | some img =>
        let b := packElems o.fmt img.elems ++ img.scales.flatMap (natLe (scaleBytes o.fmt))
        (m.on (fun c => addFlags c w.ctx w.num (bitFlags l)), .ok (1, padTo (outStride o.fmt t.rowLen) 0 b))
      | none =>
        let (c, bits, fl) := encodeScalars m.core o l
        (({ m with core := addFlags c w.ctx w.num fl }), .ok (1, resultRow o.fmt bits))

/-- The output table of results `lo` to `lo + n`: checked by R81 (Table 3-2), and its frames made ready. -/
def outReady (m : M) (w : Work) (lo n : Nat) : M × Res Unit :=
  if bitOf (w.field 2 2) 4 then
    match table? m.core (bitsOf (w.field 0x20 8) 41 32) with
    | none => (m, .fail .accessDenied 0)
    | some t => match tblWritable m.core w t with
      | some (s, d) => (m, .fail s d)
      | none => rowFrames m t ((List.range n).map (fun k => bitsOf (w.field 0x20 8) 31 0 + lo + k))
  else (m, .ok ())

/-- Rows read in order. -/
def readRows (m : M) (w : Work) (tn : Nat) (t : Table) : List Nat → M × Res (List (Nat × RowImg))
  | [] => (m, .ok [])
  | r :: rs =>
    if r = nullIndex then andThen (readRows m w tn t rs) (fun m l => (m, .ok l))
    else andThen (dedupRow m w tn t r) (fun m img => andThen (readRows m w tn t rs) (fun m l => (m, .ok ((r, img) :: l))))

def findRow (l : List (Nat × RowImg)) (r : Nat) : Option RowImg := (l.find? (·.1 == r)).map (·.2)

def countOne (c : Core) (w : Work) (code : Nat) : Core :=
  if code = 1 then modWork c w.ctx w.num (fun w => { w with count := w.count + 1 }) else c

/-- GATHER: 64 positions (R274). -/
def gatherStep (m : M) (w : Work) : M × Res Unit :=
  let tn := w.field 0 2
  match table? m.core tn, fmtWord? (w.field 0x10 4) with
  | some t, some o =>
    let lo := 64 * w.step
    let hi := min (lo + 64) (w.field 4 4)
    match tblAccess m.core w t false with
    | some (s, d) => (m, .fail s d)
    | none =>
      andThen (indices m w lo hi 0x18 8) (fun m (idx, extra) =>
        if extra && hi = w.field 4 4 then (m, .fail .badDescriptor 0)
        else if idx.any (fun i => i ≠ nullIndex && t.rows ≤ i) then (m, .fail .accessDenied 0)
        else andThen (outReady m w lo (hi - lo)) (fun m _ =>
          andThen (readRows m w tn t idx) (fun m rows =>
            let f := tblFmt t
            let cb := tblCb m.core t
            andThen (forEach (fun m (out : List Byte) (p : Nat × Nat) =>
              let g := match findRow rows p.1 with
                | none => GRes.null
                | some img =>
                  if imgPoisoned img then .poison (firstPoison m.core t p.1 img) (elemPoison f.fmt img)
                  else .vals (imgValues f.fmt cb img) (if sameBits o f then some img else none)
              andThen (gatherPut m w t o (lo + p.2) g) (fun m (code, b) => (m.on (fun c => countOne c w code), .ok (out ++ b))))
                m [] (idx.zipIdx)) (fun m out =>
              (m.on (fun c => agentWrite c w.ctx w.num (w.ptr 0x20 + BitVec.ofNat 64 (lo * outStride o.fmt t.rowLen)) out),
                .ok ())))))
  | _, _ => (m, .fail .accessDenied 0)

/-- The positions of bag `i` and the index of the first: from the offsets array (R275). -/
def bagIndices (m : M) (w : Work) (i : Nat) : M × Res (List Nat × Nat) :=
  let flags := w.field 2 2
  let inl := bitOf flags 0
  andThen (arrayRead m w inl (w.ptr 0x30) (4 * i) 8) (fun m b =>
    let lo := leNat (b.take 4)
    let hi := leNat (b.drop 4)
    if bitOf flags 1 then
      -- weights are counted by position, so the stream is read from its start
      andThen (arrayReadMarked m w inl (w.ptr 0x18) 0 hi) (fun m (s, p) =>
        let z := s.zip p
        let before := ((z.take lo).filter (fun x => decide (x.1.toNat < 128))).length
        let (l, e) := decodeList (hi + 1) 0 ((z.drop lo).take (hi - lo))
        match e with
        | .end_ =>
          if w.field 4 4 < before + l.length || (i + 1 = w.field 0x14 4 && before + l.length ≠ w.field 4 4) then
            (m, .fail .badDescriptor 0)
          else (m, .ok (l, before))
        | .bad => (m, .fail .badDescriptor 0)
        | .poison => (m, .fail .poisoned (w.ptr 0x18)))
    else andThen (arrayRead m w inl (w.ptr 0x18) (4 * lo) (4 * (hi - lo))) (fun m s =>
      (m, .ok ((List.range (hi - lo)).map (fun k => leNat ((s.drop (4 * k)).take 4)), lo))))

/-- The reduction of R276, element by element: terms of each row, weights for WSUM. -/
def reduceRow (d mode : Nat) (toI32 : Bool) (rowLen : Nat) (rows : List (List FVal × FVal)) : List FVal :=
  (List.range rowLen).map (fun i =>
    let xs := rows.map (fun (r, w) => if mode = 1 then (r.getD i FVal.zero).mul w else r.getD i FVal.zero)
    if xs = [] then FVal.zero
    else if mode = 3 then (xs.tail.foldl FVal.maxR (xs.headD FVal.zero))
    else if toI32 then xs.foldl FVal.add FVal.zero
    else
      let s := sumTerms (d + 2 * i * (rows.length + 1)) xs
      if mode = 2 then meanFp32 s rows.length else s)

/-- GATHER_REDUCE: one bag (R276 to R278). -/
def reduceStep (m : M) (w : Work) : M × Res Unit :=
  let tn := w.field 0 2
  match table? m.core tn, fmtWord? (w.field 0x10 4) with
  | some t, some o =>
    let flags := w.field 2 2
    let mode := bitsOf flags 7 6
    match tblAccess m.core w t false with
    | some (s, d) => (m, .fail s d)
    | none =>
      andThen (bagIndices m w w.step) (fun m (idx, first) =>
        if idx.any (fun i => i ≠ nullIndex && t.rows ≤ i) then (m, .fail .accessDenied 0)
        else andThen (outReady m w w.step 1) (fun m _ =>
          andThen (readRows m w tn t (if dedupOf w = 0 then idx else distinctOf idx)) (fun m rows =>
            andThen (if mode = 1 then arrayRead m w (bitOf flags 0) (w.ptr 0x38) (4 * first) (4 * idx.length) else (m, .ok []))
              (fun m wb =>
                let f := tblFmt t
                let cb := tblCb m.core t
                let used := idx.zipIdx.filter (fun x => x.1 ≠ nullIndex)
                let imgs := used.filterMap (fun x => (findRow rows x.1).map (fun img => (x.1, img)))
                let bad := (imgs.find? (fun x => imgPoisoned x.2)).map (fun x => firstPoison m.core t x.1 x.2)
                let (c, d) := m.core.drawN (2 * t.rowLen * (used.length + 1))
                let m := { m with core := c }
                let vals := used.map (fun x => (((findRow rows x.1).map (imgValues f.fmt cb)).getD [],
                  decodeFp32 (leNat ((wb.drop (4 * x.2)).take 4))))
                let res := reduceRow d mode (o.fmt == .i32) t.rowLen vals
                let m := if bad.isNone then m.on (fun c => offerRow c tn 2 res) else m
                let g := match bad with
                  | some p => GRes.poison p (fun i => imgs.any (fun x => elemPoison f.fmt x.2 i))
                  | none => .vals res none
                andThen (gatherPut m w t o w.step g) (fun m (code, b) =>
                  (m.on (fun c => agentWrite (countOne c w code) w.ctx w.num
                    (w.ptr 0x20 + BitVec.ofNat 64 (w.step * outStride o.fmt t.rowLen)) b), .ok ())))))) 
  | _, _ => (m, .fail .accessDenied 0)

def gatherWork (ctx num : Nat) : M → M :=
  runWork 0x01 ctx num (gatherCheck false) (gatherStart false) gatherStep (fun _ w => listSteps w ((w.field 4 4 + 63) / 64))

def reduceWork (ctx num : Nat) : M → M :=
  runWork 0x02 ctx num (gatherCheck true) (gatherStart true) reduceStep (fun _ w => w.field 0x14 4)

/-! ### SCATTER_ADD (R279 to R282) -/

def isGrad (f : FmtWord) : Bool := f.fmt == .fp32 || f.fmt == .bf16 || f.fmt == .fp16

def scatterCheck (m : M) (w : Work) : M × Res Unit :=
  let c := m.core
  let flags := w.field 2 2
  let nidx := w.field 4 4
  let vb := w.field 8 4
  let inl := bitOf flags 0
  let varint := bitOf flags 1
  match workTable c w (w.field 0 2) (w.field 0x0C 4), fmtWord? (w.field 0x10 4) with
  | .inl s, _ => (m, .fail s 0)
  | .inr _, none => (m, .fail .badDescriptor 0)
  | .inr (t, f), some g =>
    let idxLen := if varint then vb else 4 * nidx
    let gradLen := nidx * rowStride g.fmt t.rowLen
    let bad := firstFail [
      (bitsOf flags 15 6 == 0 && bitsOf flags 4 2 == 0 && w.zero 0x30 0x40, .badDescriptor),
      (nidx ≤ 67108864 && (varint || vb == 0), .badDescriptor),
      (arrayOk w 128 inl (w.ptr 0x18) idxLen (if varint then 1 else 4), .badDescriptor),
      (arrayOk w 128 inl (w.ptr 0x20) gradLen 32, .badDescriptor),
      (cbOk c w f, .accessDenied),
      (isGrad g, .formatUnsupported),
      (statusOk c w (bitOf flags 5) (w.ptr 0x28) nidx, .badDescriptor)]
    match bad with
    | some s => (m, .fail s 0)
    | none =>
      match (arrayCheck c w inl (w.ptr 0x18) idxLen).map (·, w.ptr 0x18) <|>
          (arrayCheck c w inl (w.ptr 0x20) gradLen).map (·, w.ptr 0x20) with
      | some (s, d) => (m, .fail s d)
      | none => (m, .ok ())

def scatterStart (c : Core) (w : Work) : Core := startWork c w (bitOf (w.field 2 2) 5) (w.ptr 0x28) (w.field 4 4)

/-- Positions from the front of `l` that name at most 64 distinct rows. -/
def takeRows : List Nat → List Nat → Nat → Nat
  | [], _, n => n
  | i :: t, seen, n =>
    if i = nullIndex || seen.contains i then takeRows t seen (n + 1)
    else if seen.length = 64 then n
    else takeRows t (i :: seen) (n + 1)

/-- The gradient row of a position: its values, or the first poisoned word (Table 7-15). -/
def gradRow (m : M) (w : Work) (t : Table) (g : FmtWord) (inl : Bool) (field : W64) (p : Nat) : M × Res (W64 ⊕ List FVal) :=
  let s := rowStride g.fmt t.rowLen
  andThen (arrayReadMarked m w inl field (p * s) s) (fun m (b, ps) =>
    let used := elemsBytes g.fmt t.rowLen
    (m, .ok (match (ps.take used).findIdx? id with
      | some k => .inl (wordPtr (field + BitVec.ofNat 64 (p * s + k)))
      | none => .inr ((getElems g.fmt b t.rowLen).map (decodeElem g.fmt)))))

/-- Gradient rows of positions. -/
def gradRows (m : M) (w : Work) (t : Table) (g : FmtWord) (inl : Bool) (field : W64) :
    List (Nat × Nat) → M × Res (List (Nat × Nat × (W64 ⊕ List FVal)))
  | [] => (m, .ok [])
  | (i, p) :: l =>
    if i = nullIndex then gradRows m w t g inl field l
    else andThen (gradRow m w t g inl field p) (fun m v =>
      andThen (gradRows m w t g inl field l) (fun m r => (m, .ok ((i, p, v) :: r))))

/-- The values of a gradient that is not poisoned. -/
def gradGood : W64 ⊕ List FVal → Option (List FVal)
  | .inl _ => none
  | .inr l => some l

/-- Sums element by element of rows of terms, in an order the hardware chooses. -/
def sumRows (d rowLen : Nat) (rows : List (List FVal)) : List FVal :=
  (List.range rowLen).map (fun i => sumTerms (d + 2 * i * (rows.length + 1)) (rows.map (fun r => r.getD i FVal.zero)))

/-- The addend of a row: one exact term, which the addition alone rounds (Table 4-12), or the FP32 sum of several. -/
def addend (d rowLen : Nat) : List (List FVal) → List FVal
  | [l] => l
  | rows => sumRows d rowLen rows

/-- One row of a SCATTER_ADD step: its terms summed and added (R280), with Table 7-15 for poison. -/
def scatterRow (w : Work) (tn : Nat) (t : Table) (f : FmtWord) (alpha : FVal) (m : M) (_u : Unit)
    (x : Nat × List (Nat × (W64 ⊕ List FVal))) : M × Res Unit :=
  let (r, ps) := x
  let good := ps.filterMap (fun (_, v) => (gradGood v).map (fun l => l.map alpha.mul))
  let (c, d) := m.core.drawN (2 * t.rowLen * (good.length + 1))
  let c := good.foldl (fun c l => offerRow c tn 1 l) c
  let c := ps.foldl (fun c (p, v) => match v with
    | .inr _ => setItem c w.ctx w.num p 1
    | .inl d => noteFail (setItem c w.ctx w.num p 2) w.ctx w.num .poisoned d) c
  let m := { m with core := c }
  if good = [] then (m, .ok ())
  else
    andThen (writeRow m tn r f true w.ctx w.num ((addend d t.rowLen good).map some) (ps.map (·.1))) (fun m res =>
      let c := addFlags m.core w.ctx w.num res.flags
      let c := if res.some_ then modWork c w.ctx w.num (fun w =>
          if w.rows.contains r then w else { w with rows := r :: w.rows, count := w.count + 1 }) else c
      let c := if res.bad = [] then c else
          noteFail (ps.foldl (fun c (p, _) => setItem c w.ctx w.num p 2) c) w.ctx w.num .poisoned res.ptr
      ({ m with core := c }, .ok ()))

/-- The positions of a step of SCATTER_ADD from position `lo` on, which name at most 64 distinct rows (Table 7-14): the list is read
64 positions at a time, as far as the step needs it. -/
def scatterIdx (m : M) (w : Work) (lo : Nat) : Nat → List Nat → M × Res (List Nat × Bool)
  | 0, acc => (m, .ok (acc, false))
  | fuel + 1, acc =>
    let at_ := lo + acc.length
    let hi := min (at_ + 64) (w.field 4 4)
    andThen (indices m w at_ hi 0x18 8) (fun m (l, extra) =>
      let all := acc ++ l
      let n := takeRows all [] 0
      if n < all.length || hi = w.field 4 4 then (m, .ok (all.take n, extra && lo + n = w.field 4 4))
      else scatterIdx m w lo fuel all)

/-- SCATTER_ADD: positions that name up to 64 distinct rows (R280, Table 7-14). Here `step` counts positions made. -/
def scatterStep (m : M) (w : Work) : M × Res Unit :=
  let tn := w.field 0 2
  match table? m.core tn, fmtWord? (w.field 0x0C 4), fmtWord? (w.field 0x10 4) with
  | some t, some f, some g =>
    match tblAccess m.core w t true with
    | some (s, d) => (m, .fail s d)
    | none =>
      andThen (scatterIdx m w w.step ((w.field 4 4 - w.step) / 64 + 1) []) (fun m (idx, extra) =>
        let n := idx.length
        if extra then (m, .fail .badDescriptor 0)
        else if idx.any (fun i => i ≠ nullIndex && t.rows ≤ i) then (m, .fail .accessDenied 0)
        else
          let rows := (distinctOf idx).filter (· ≠ nullIndex)
          andThen (rowFrames m t rows) (fun m _ =>
            andThen (gradRows m w t g (bitOf (w.field 2 2) 0) (w.ptr 0x20) (idx.zipIdx.map (fun (i, k) => (i, w.step + k))))
              (fun m gs =>
                let m := m.on (fun c => (idx.zipIdx).foldl (fun c (i, k) =>
                  if i = nullIndex then setItem c w.ctx w.num (w.step + k) 3 else c) c)
                andThen (forEach (scatterRow w tn t f (decodeFp32 (w.field 0x14 4))) m ()
                  (rows.map (fun r => (r, (gs.filter (·.1 == r)).map (·.2))))) (fun m _ =>
                  (m.on (fun c => modWork c w.ctx w.num (fun w => { w with step := w.step + n - 1 })), .ok ())))))
  | _, _, _ => (m, .fail .accessDenied 0)

def scatterWork (ctx num : Nat) : M → M :=
  runWork 0x03 ctx num scatterCheck scatterStart scatterStep (fun _ w => listSteps w (w.field 4 4))

/-! ### ROW_UPDATE (R283 to R288) -/

/-- b^t rounded once to FP32. -/
def powFp32 (b : FVal) (t : Nat) : FVal :=
  match b with
  | .fin _ m e => toFp32 (.fin false (m ^ t) (e * t))
  | v => v

def fOne : FVal := .fin false 1 0
def subFp32 (a b : FVal) : FVal := addFp32 a b.neg

/-- mean(g²) over the row, in FP32 (R285). -/
def meanSquare (d : Nat) (g : List FVal) : FVal := meanFp32 (sumTerms d (g.map (fun x => mulFp32 x x))) g.length

/-- The parameters of a step as FP32 values. -/
structure OptParams where
  rule : Nat
  lr : FVal
  eps : FVal
  b1 : FVal
  b2 : FVal
  wd : FVal
  step : Nat
deriving DecidableEq, Repr

/-- One element's new weight from its update direction (Table 7-7). -/
def optWeight (p : OptParams) (w dir : FVal) : FVal := subFp32 w (mulFp32 p.lr (addFp32 dir (mulFp32 p.wd w)))

/-- Table 7-7: new weights, moments and state from the row's weights, moments, state and summed gradient. -/
def optStep (p : OptParams) (ws ms : List FVal) (st : FVal) (g : List FVal) (d : Nat) : List FVal × List FVal × FVal :=
  match p.rule with
  | 0 => ((ws.zip g).map (fun (w, g) => optWeight p w g), ms, st)
  | 1 =>
    let st := addFp32 st (meanSquare d g)
    let den := addFp32 (sqrtFp32 st) p.eps
    ((ws.zip g).map (fun (w, g) => optWeight p w (divFp32 g den)), ms, st)
  | _ =>
    let ms := (ms.zip g).map (fun (m, g) => addFp32 (mulFp32 p.b1 m) (mulFp32 (subFp32 fOne p.b1) g))
    let st := addFp32 (mulFp32 p.b2 st) (mulFp32 (subFp32 fOne p.b2) (meanSquare d g))
    let c1 := subFp32 fOne (powFp32 p.b1 p.step)
    let c2 := subFp32 fOne (powFp32 p.b2 p.step)
    let den := addFp32 (sqrtFp32 (divFp32 st c2)) p.eps
    ((ws.zip ms).map (fun (w, m) => optWeight p w (divFp32 (divFp32 m c1) den)), ms, st)

def optParams (w : Work) : OptParams :=
  { rule := w.field 0x14 1, lr := decodeFp32 (w.field 0x20 4), eps := decodeFp32 (w.field 0x24 4),
    b1 := decodeFp32 (w.field 0x28 4), b2 := decodeFp32 (w.field 0x2C 4), wd := decodeFp32 (w.field 0x30 4),
    step := w.field 0x1C 4 }

/-- RULE PROGRAM with a moment table (R406). -/
def ruleMoment (w : Work) : Bool := w.field 0x16 2 != 0 || w.field 0x18 4 != 0

def updateCheck (m : M) (w : Work) : M × Res Unit :=
  let c := m.core
  let flags := w.field 2 2
  let nidx := w.field 4 4
  let vb := w.field 8 4
  let inl := bitOf flags 0
  let varint := bitOf flags 1
  let rule := w.field 0x14 1
  let p := optParams w
  let unit := fun (b : FVal) => b.isFin && FVal.zero.le b && b.lt fOne
  match workTable c w (w.field 0 2) (w.field 0x0C 4), fmtWord? (w.field 0x10 4) with
  | .inl s, _ => (m, .fail s 0)
  | .inr _, none => (m, .fail .badDescriptor 0)
  | .inr (t, f), some g =>
    let mom := workTable c w (w.field 0x16 2) (w.field 0x18 4)
    let idxLen := if varint then vb else 4 * nidx
    let gradLen := nidx * rowStride g.fmt t.rowLen
    let bad := firstFail [
      (6 ≤ w.length && bitsOf flags 15 6 == 0 && bitsOf flags 4 2 == 0, .badDescriptor),
      (w.field 0x15 1 == 0 && w.zero 0x34 0x38 && w.zero 0x60 0x80 && rule ≤ 3, .badDescriptor),
      (nidx ≤ 67108864 && (varint || vb == 0), .badDescriptor),
      (arrayOk w 192 inl (w.ptr 0x38) idxLen (if varint then 1 else 4), .badDescriptor),
      (arrayOk w 192 inl (w.ptr 0x40) gradLen 32, .badDescriptor),
      (rule == 3 || (p.lr.isFin && p.wd.isFin), .badDescriptor),
      (!(rule == 1 || rule == 2) || (p.eps.isFin && FVal.zero.lt p.eps && w.field 0x48 8 % 4 == 0), .badDescriptor),
      (rule ≠ 2 || (unit p.b1 && unit p.b2 && 1 ≤ p.step), .badDescriptor),
      (rule ≠ 2 || (match mom with | .inr (q, _) => q.rows == t.rows && q.rowLen == t.rowLen | .inl _ => true), .badDescriptor),
      (rule ≠ 2 || (match mom with | .inr _ => true | .inl s => s ≠ .accessDenied), .accessDenied),
      (rule ≠ 2 || (match mom with | .inr _ => true | .inl _ => false), .badDescriptor),
      -- fields the rule does not use are zero (R284); PROGRAM may use every parameter, the state and a moment (R288, R406)
      (rule == 2 || rule == 3 || (w.field 0x16 2 == 0 && w.zero 0x18 0x20 && w.zero 0x28 0x30), .badDescriptor),
      (rule ≠ 0 || (w.zero 0x24 0x28 && w.zero 0x48 0x50), .badDescriptor),
      (rule ≠ 3 || w.field 0x48 8 % 4 == 0, .badDescriptor),
      (rule ≠ 3 || !ruleMoment w || (match mom with | .inr (q, _) => q.rows == t.rows && q.rowLen == t.rowLen | .inl _ => true),
        .badDescriptor),
      (rule ≠ 3 || !ruleMoment w || (match mom with | .inr _ => true | .inl s => s ≠ .accessDenied), .accessDenied),
      (rule ≠ 3 || !ruleMoment w || (match mom with | .inr _ => true | .inl _ => false), .badDescriptor),
      (rule == 3 || w.zero 0x58 0x60, .badDescriptor),
      (cbOk c w f && (!(rule == 2 || (rule == 3 && ruleMoment w)) || (match mom with | .inr (_, mf) => cbOk c w mf | .inl _ => true)),
        .accessDenied),
      (isGrad g, .formatUnsupported),
      (statusOk c w (bitOf flags 5) (w.ptr 0x50) nidx, .badDescriptor)]
    match bad with
    | some s => (m, .fail s 0)
    | none =>
      match (arrayCheck c w inl (w.ptr 0x38) idxLen).map (·, w.ptr 0x38) <|>
          (arrayCheck c w inl (w.ptr 0x40) gradLen).map (·, w.ptr 0x40) with
      | some (s, d) => (m, .fail s d)
      | none => (m, .ok ())

def updateStart (c : Core) (w : Work) : Core := startWork c w (bitOf (w.field 2 2) 5) (w.ptr 0x50) (w.field 4 4)

/-- One row's optimizer step under its lock (R285, R286): all of it or, with poison in a weight, state, moment or gradient,
none (Table 7-15). -/
def updateRow (w : Work) (tn : Nat) (t : Table) (f : FmtWord) (m : M) (_u : Unit)
    (x : Nat × List (Nat × (W64 ⊕ List FVal))) : M × Res Unit :=
  let (r, ps) := x
  let p := optParams w
  let items := fun (c : Core) (code : Nat) => ps.foldl (fun c (q, _) => setItem c w.ctx w.num q code) c
  let skip := fun (m : M) (d : W64) => (m.on (fun c => noteFail (items c 2) w.ctx w.num .poisoned d), Res.ok ())
  let mom := w.field 0x16 2
  let stPtr := w.ptr 0x48 + BitVec.ofNat 64 (4 * r)
  match ps.findSome? (fun x => match x.2 with | .inl d => some d | .inr _ => none) with
  | some d => skip m d
  | none =>
    andThen (readRow m tn t r) (fun m img =>
      if imgPoisoned img then skip m (firstPoison m.core t r img)
      else
        andThen (match (if p.rule = 2 then table? m.core mom else none) with
          | some q => andThen (readRow m mom q r) (fun m i => (m, .ok (some (q, i))))
          | none => (m, .ok none)) (fun m mo =>
          match mo with
          | some (q, i) => if imgPoisoned i then skip m (firstPoison m.core q r i) else
              andThen (poolRead m w stPtr 4) (fun m (sb, sp) =>
                if sp.any id then skip m stPtr else (finish m img (some (q, i)) sb items mom stPtr p))
          | none =>
            if p.rule = 1 then andThen (poolRead m w stPtr 4) (fun m (sb, sp) =>
              if sp.any id then skip m stPtr else finish m img none sb items mom stPtr p)
            else finish m img none [] items mom stPtr p))
where
  /-- The new weights, moments and state computed and written. -/
  finish (m : M) (img : RowImg) (mo : Option (Table × RowImg)) (sb : List Byte) (items : Core → Nat → Core) (mom : Nat)
      (stPtr : W64) (p : OptParams) : M × Res Unit :=
    let (r, ps) := x
    let gs := ps.filterMap (fun x => gradGood x.2)
    let (c, d) := m.core.drawN (2 * (t.rowLen + 1) * (gs.length + 1))
    let m := { m with core := c }
    let g := sumRows d t.rowLen gs
    let ws := imgValues (tblFmt t).fmt (tblCb m.core t) img
    let ms := match mo with | some (q, i) => imgValues (tblFmt q).fmt (tblCb m.core q) i | none => []
    let (c, d2) := m.core.drawN (2 * (t.rowLen + 1))
    let m := { m with core := offerRow c tn 1 g }
    let (ws', ms', st') := optStep p ws ms (decodeFp32 (leNat sb)) g d2
    andThen (writeRowHome m tn t r img f (ws'.map some)) (fun m res =>
      let m := m.on (fun c => addFlags c w.ctx w.num res.flags)
      andThen (match mo, fmtWord? (w.field 0x18 4) with
        | some (q, i), some mf => andThen (writeRowHome m mom q r i mf (ms'.map some)) (fun m res =>
            (m.on (fun c => addFlags c w.ctx w.num res.flags), .ok ()))
        | _, _ => (m, .ok ())) (fun m _ =>
        let m := if sb = [] then m
          else (writeBytes m (w.ctx % 4) (ptrExtent stPtr) (ptrOffset stPtr) (natLe 4 (fp32Bits st'))).1.on (fun c =>
            addFlags c w.ctx w.num { nonfin := b2n (!st'.isFin) })
        (m.on (fun c => modWork (items c 1) w.ctx w.num (fun w => { w with count := w.count + 1 })), .ok ())))

/-- ROW_UPDATE: 64 distinct rows (R285). A row or moment row mid-recast parks the step (R209, R286). A row's positions lie anywhere in
the list, so that the first step needs all of it. -/
def updateStep (m : M) (w : Work) : M × Res Unit :=
  let tn := w.field 0 2
  let mn := w.field 0x16 2
  match table? m.core tn, fmtWord? (w.field 0x0C 4), fmtWord? (w.field 0x10 4) with
  | some t, some f, some g =>
    let rule := w.field 0x14 1
    let mom := if rule = 2 then table? m.core mn else none
    match tblAccess m.core w t true <|> mom.bind (fun q => tblAccess m.core w q true) with
    | some (s, d) => (m, .fail s d)
    | none =>
      let nidx := w.field 4 4
      andThen (indices m w 0 nidx 0x38 8) (fun m (idx, extra) =>
        let all := (distinctOf idx).filter (· ≠ nullIndex)
        let rows := (all.drop (64 * w.step)).take 64
        if extra && all.length ≤ 64 * (w.step + 1) then (m, .fail .badDescriptor 0)
        else if rows.any (fun i => t.rows ≤ i) then (m, .fail .accessDenied 0)
        else
          let busy := (rows.find? (midRecast t)).map (fun r => ParkCause.rowLock tn r) <|>
            mom.bind (fun q => (rows.find? (midRecast q)).map (fun r => ParkCause.rowLock mn r))
          match busy with
          | some k => (m, .park k)
          | none =>
            andThen (rowFrames m t rows) (fun m _ =>
              andThen (match mom with | some q => rowFrames m q rows | none => (m, .ok ())) (fun m _ =>
                let st := fun (r : Nat) => w.ptr 0x48 + BitVec.ofNat 64 (4 * r)
                let stRows := if rule = 1 ∨ rule = 2 then rows else []
                match stRows.findSome? (fun r => (workCheck m.core w (st r) 4 true true).map (·, st r)) with
                | some (s, d) => (m, .fail s d)
                | none =>
                  match readyWrites m (ptrExtent (st 0)) (stRows.map (fun r => (ptrOffset (st r), 4))) with
                  | (m, some k) => (m, .park k)
                  | (m, none) =>
                    let pos := idx.zipIdx.filter (fun x => rows.contains x.1)
                    andThen (gradRows m w t g (bitOf (w.field 2 2) 0) (w.ptr 0x40) pos) (fun m gs =>
                      let m := if w.step = 0 then m.on (fun c => idx.zipIdx.foldl (fun c (i, k) =>
                        if i = nullIndex then setItem c w.ctx w.num k 3 else c) c) else m
                      let m := m.on (fun c => modWork c w.ctx w.num (fun w => { w with perItem := all.length }))
                      forEach (updateRow w tn t f) m () (rows.map (fun r => (r, (gs.filter (·.1 == r)).map (·.2)))))))) 
  | _, _, _ => (m, .fail .accessDenied 0)

/-- ROW_UPDATE by a built-in rule; RULE PROGRAM runs by the rasp program's instances (R288, R408). -/
def updateWork (ctx num : Nat) : M → M :=
  runWork 0x04 ctx num updateCheck updateStart updateStep
    (fun _ w => if w.step = 0 then 1 else (w.perItem + 63) / 64)

/-! ### ATOMIC (R289 to R294) -/

def atomicCheck (m : M) (w : Work) : M × Res Unit :=
  let c := m.core
  let n := w.field 0 4
  let flags := w.field 4 2
  let inl := bitOf flags 0
  let bad := firstFail [
    (1 ≤ n && n ≤ 65536 && w.field 6 2 == 0 && w.zero 0x20 0x40, .badDescriptor),
    (bitsOf flags 15 6 == 0 && bitsOf flags 3 1 == 0, .badDescriptor),
    (arrayOk w 128 inl (w.ptr 8) (32 * n) 4, .badDescriptor),
    (!bitOf flags 4 || resOk c w.ctx (w.ptr 0x10) (8 * n), .badDescriptor),
    (statusOk c w (bitOf flags 5) (w.ptr 0x18) n, .badDescriptor)]
  match bad with
  | some s => (m, .fail s 0)
  | none => match arrayCheck c w inl (w.ptr 8) (32 * n) with
    | some s => (m, .fail s (w.ptr 8))
    | none => (m, .ok ())

def atomicStart (c : Core) (w : Work) : Core := startWork c w (bitOf (w.field 4 2) 5) (w.ptr 0x18) (w.field 0 4)

/-- The new word of an integer operation on a value of `bits` bits (Table 7-11); `none` where it is not permitted. -/
def atomicOp (op bits old operand compare : Nat) : Option Nat :=
  let md := 2 ^ bits
  let a := old % md
  let b := operand % md
  match op with
  | 0 => some ((a + b) % md)
  | 1 => if bits = 32 then some (fp32Bits (addFp32 (decodeFp32 a) (decodeFp32 b))) else none
  | 2 => some (a &&& b)
  | 3 => some (a ||| b)
  | 4 => some (a ^^^ b)
  | 5 => some (if sext bits a < sext bits b then b else a)
  | 6 => some (if sext bits b < sext bits a then b else a)
  | 7 => some b
  | 8 => some (if a = compare % md then b else a)
  | _ => none

/-- A RAW atomic on a word of `bits` bits of this chip for partition `part` (R291, R292): the old value, or the status. -/
def rawAtomic (m : M) (plinth part : Nat) (ptr : W64) (op bits operand compare : Nat) : M × Res Nat :=
  let n := bits / 8
  if ptr.toNat % n ≠ 0 || (atomicOp op bits 0 0 0).isNone then (m, .fail .badDescriptor 0)
  else match ptrCheck m.core part ptr n true true with
    | some s => (m, .fail s ptr)
    | none =>
      match readyWrite m (ptrExtent ptr) (ptrOffset ptr) n with
      | (m, some k) => (m, .park k)
      | (m, none) =>
        match readBytes m plinth (ptrExtent ptr) (ptrOffset ptr) n with
        | (m, .wait k) => (m, .park k)
        | (m, .got b p) =>
          if p.any id then (m, .fail .poisoned (BitVec.ofNat 64 (ptr.toNat / 32 * 32)))
          else
            let old := leNat b
            let new := (atomicOp op bits old operand compare).getD old
            ((writeBytes m plinth (ptrExtent ptr) (ptrOffset ptr) (natLe n new) false).1, .ok old)

/-- A TABLE atomic on one element, held scales, NEAREST_EVEN (R290, R291); the old element as FP32 (R293). -/
def tableAtomic (m : M) (w : Work) (tn r i op : Nat) (operand : Nat) : M × Res Nat :=
  match table? m.core tn with
  | none => (m, .fail .accessDenied 0)
  | some t =>
    if t.partition ≠ ctxPart m.core w.ctx || t.rows ≤ r then (m, .fail .accessDenied 0)
    else if t.rowLen ≤ i || !(op = 0 || op = 5 || op = 6 || op = 7) then (m, .fail .badDescriptor 0)
    else match tblAccess m.core w t true with
      | some (s, d) => (m, .fail s d)
      | none =>
        if midRecast t r then (m, .park (.rowLock tn r))
        else match readyWrites m t.extent (rowRanges t r) with
          | (m, some k) => (m, .park k)
          | (m, none) =>
            let c0 := m.core
            andThen (readRow m tn t r) (fun m img =>
              let f := tblFmt t
              let m := movedOnly c0 m
              if elemPoison f.fmt img i then (m.on (·.count ECC_POISON_READ), .fail .poisoned (poisonOf m.core t r img i))
              else
                let old := (imgValues f.fmt (tblCb m.core t) img).getD i FVal.zero
                let x := decodeFp32 operand
                let new := match op with
                  | 0 => addFp32 old x
                  | 5 => old.maxR x
                  | 6 => (old.neg.maxR x.neg).neg
                  | _ => x
                let vals := (List.range t.rowLen).map (fun j => if j = i then some new else none)
                andThen (writeRowHome m tn t r img { f with round := .even, fitted := false } vals) (fun m res =>
                  (m.on (fun c => addFlags c w.ctx w.num res.flags),
                    .ok (encodeValue ⟨.fp32, true, .even, false, 0⟩ [] 0 0 0 old).bits)))

/-- A RAW operation leaves a value that is not finite: FADD alone gives values (R155). -/
def rawFlags (op old operand : Nat) : Flags :=
  { nonfin := b2n (op == 1 && !(addFp32 (decodeFp32 (old % 2 ^ 32)) (decodeFp32 (operand % 2 ^ 32))).isFin) }

/-- The fields of an entry (Table 7-10). -/
structure AtomicEnt where
  target : Nat
  operand : Nat
  compare : Nat
  op : Nat
  form : Nat
  table : Nat
  rsv : Nat
deriving DecidableEq, Repr

def readEnt (b : List Byte) : AtomicEnt :=
  { target := leNat (b.take 8), operand := leNat ((b.drop 8).take 8), compare := leNat ((b.drop 16).take 8),
    op := leNat ((b.drop 24).take 1), form := leNat ((b.drop 25).take 1), table := leNat ((b.drop 26).take 2),
    rsv := leNat ((b.drop 28).take 4) }

def AtomicEnt.ptr (e : AtomicEnt) : W64 := BitVec.ofNat 64 e.target
def AtomicEnt.bits (e : AtomicEnt) : Nat := if e.form = 0 then 32 else 64

/-- The entry breaks R294's fields, whatever it names. -/
def AtomicEnt.malformed (e : AtomicEnt) : Bool :=
  e.rsv ≠ 0 || 2 < e.form || (e.form < 2 && (e.table ≠ 0 || e.target % (e.bits / 8) ≠ 0 || (atomicOp e.op e.bits 0 0 0).isNone))

/-- What an earlier try of the step, or another chip, gave for RAW entry `i`. -/
def atomicDone (w : Work) (e : AtomicEnt) (i : Nat) : Option Fetched :=
  if e.form = 2 then none else w.fetched.find? (fun f => f.ptr == e.ptr && f.len == i && f.write)

/-- A RAW entry that this chip has applied is not applied again when its step is redone. -/
def noteAtomic (c : Core) (w : Work) (e : AtomicEnt) (i old : Nat) : Core :=
  if e.form = 2 then c
  else modWork c w.ctx w.num (fun v => { v with fetched :=
    { ptr := e.ptr, len := i, write := true, data := natLe 8 old, poisons := [], status := .done } :: v.fetched })

/-- One entry (R292, R294): a failure fails the entry alone. -/
def atomicEntry (w : Work) (m : M) (out : List Byte) (x : List Byte × Nat) : M × Res (List Byte) :=
  let e := readEnt x.1
  let i := x.2
  let got : M × Res Nat :=
    if e.malformed then (m, .fail .badDescriptor 0)
    else match atomicDone w e i with
      | some f => if f.status = .done then (m, .ok (leNat f.data)) else (m, .fail f.status e.ptr)
      | none =>
        if e.form = 2 then tableAtomic m w e.table (e.target / 2 ^ 32) (e.target % 2 ^ 32) e.op e.operand
        else if !servedHere m.core (ptrChip e.ptr) then (m, .fail .linkLost 0)
        else andThen (rawAtomic m (w.ctx % 4) (ctxPart m.core w.ctx) e.ptr e.op e.bits e.operand e.compare) (fun m old =>
          (m.on (fun c => noteAtomic c w e i old), .ok old))
  match got with
  | (m, .ok old) =>
    let m := if e.form = 2 then m else m.on (fun c => addFlags c w.ctx w.num (rawFlags e.op old e.operand))
    (m.on (fun c => modWork (setItem c w.ctx w.num i 1) w.ctx w.num (fun w => { w with count := w.count + 1 })),
      .ok (out ++ natLe 8 old))
  | (m, .park k) => (m, .park k)
  | (m, .fail s d) =>
    (m.on (fun c => noteFail (if s = .poisoned then setItem c w.ctx w.num i 2 else c) w.ctx w.num s d), .ok (out ++ natLe 8 0))

/-- What an entry waits for, looked at before any entry of the step is applied: a frame or a row that is not ready, or the reply of
another chip (R31). -/
def atomicWait (w : Work) (m : M) (b : List Byte) (i : Nat) : M × Option ParkCause :=
  let e := readEnt b
  let part := ctxPart m.core w.ctx
  if e.malformed || (atomicDone w e i).isSome then (m, none)
  else if e.form = 2 then
    let r := e.target / 2 ^ 32
    match table? m.core e.table with
    | some t =>
      if t.partition = part && r < t.rows then
        if midRecast t r then (m, some (.rowLock e.table r)) else readyWrites m t.extent (rowRanges t r)
      else (m, none)
    | none => (m, none)
  else if servedHere m.core (ptrChip e.ptr) then
    match ptrCheck m.core part e.ptr (e.bits / 8) true true with
    | some _ => (m, none)
    | none => readyWrite m (ptrExtent e.ptr) (ptrOffset e.ptr) (e.bits / 8)
  else if pairPark m.core (ptrChip e.ptr) then (m, some .pair)
  else if noRoute m.core (ptrChip e.ptr) then (m, none)
  else
    (m.on (fun c => forward c (ptrChip e.ptr) w.tag part w.ctx 0x12
      [e.target, 0, e.op + e.form * 256, e.operand, e.compare] [] false 0 (w.ctx, w.num, 2 + i)), some (.remote w.tag))

/-- ATOMIC: 64 entries, in entry order. -/
def atomicStep (m : M) (w : Work) : M × Res Unit :=
  let lo := 64 * w.step
  let n := min 64 (w.field 0 4 - lo)
  andThen (arrayRead m w (bitOf (w.field 4 2) 0) (w.ptr 8) (32 * lo) (32 * n)) (fun m b =>
    let es := (List.range n).map (fun k => ((b.drop (32 * k)).take 32, lo + k))
    match es.foldl (fun (m, k) e => match k with | some k => (m, some k) | none => atomicWait w m e.1 e.2)
        (m, (none : Option ParkCause)) with
    | (m, some k) => (m, .park k)
    | (m, none) =>
      andThen (forEach (atomicEntry w) m [] es) (fun m out =>
        (if bitOf (w.field 4 2) 4 then m.on (fun c => agentWrite c w.ctx w.num (w.ptr 0x10 + BitVec.ofNat 64 (8 * lo)) out) else m,
          .ok ())))

def atomicWork (ctx num : Nat) : M → M :=
  runWork 0x05 ctx num atomicCheck atomicStart atomicStep (fun _ w => (w.field 0 4 + 63) / 64)

end Sys2Proof.Machine
end

