-- ==== Sys2Proof/Machine/Calib.lean ====
section
/-! DEFINITION. Live calibration and recast (chapter 5): TABLE_DEFINE, TABLE_DELETE, the CALIBRATE and RECAST works, the steps
of a recast, and what stops one. -/

namespace Sys2Proof.Machine
open Sys2Proof

/-! ### TABLE_DEFINE and TABLE_DELETE (R179 to R183) -/

/-- The areas of a table: offset and length (Table 5-1). -/
def tableAreas (t : Table) : List (Nat × Nat) :=
  let n := t.rows * rowBlocks t * scaleBytes (tblFmt t).fmt
  [(t.elemOff, t.rows * rowSize t), (t.stats, 2 * t.rows)] ++
  (if blockFmt t then [(t.planeA, n), (t.planeB, n), (t.epoch, (t.rows + 7) / 8), (t.shadow, 128 * rowSize t)] else [])

def disjointAreas : List (Nat × Nat) → Bool
  | [] => true
  | a :: l => l.all (fun b => a.2 == 0 || b.2 == 0 || a.1 + a.2 ≤ b.1 || b.1 + b.2 ≤ a.1) && disjointAreas l

/-- A table's format word without ROUND and SCALE, which a definition ignores (Table 5-1). -/
def defFmt (v : Nat) : Nat := setBits (setBits v 7 7 0) 5 4 0

/-- A table as defined: empty statistics and no plan. -/
def freshTable (d : TableDef) (part : Nat) : Table :=
  { partition := part, extent := d.extent, elemOff := d.elemOff, rows := d.rows, rowLen := d.rowLen, fmt := defFmt d.fmt,
    planeA := d.planeA, planeB := d.planeB, epoch := d.epoch, stats := d.stats, shadow := d.shadow,
    hbase := if d.hbase = 0 then -40 else d.hbase, sources := d.sources, rate := d.rate, mqDepth := d.mqDepth,
    hist := [], zeros := 0, nonfinite := 0, written := 0, ovf := 0, unf := 0, drops := 0,
    plan := .none, planNo := 0, mode := 0, headroom := 0, planRound := .even, firstRow := 0, rowCount := 0, planPtr := 0,
    nextRow := 0, poisonRow := 0xFFFFFFFF, pend := [], stepOpen := false, window := [], freeSlots := List.range 128, stepRows := [],
    again := [], stepEnd := 0, heldSlots := [], mq := [], mqPeak := 0, locked := [], recast := none, flippedBy := 0, skippedBy := 0,
    takenBy := 0 }

/-- The right that an agent's request needs on an extent, in the partition of the context it names (R179). -/
def agentMay (c : Core) (src : Src) (e : Nat) (wr : Bool) : Bool :=
  srcFm src || (match ext? c e with
    | some x => x.partition == ctxPart c (srcCtx src) && (!wr || x.writable)
    | none => false)

/-- The refusals of TABLE_DEFINE in the order of R180. -/
def tableChecks (c : Core) (src : Src) (d : TableDef) : List (Bool × MgmtCode) :=
  let x := ext? c d.extent
  let part := (x.map (·.partition)).getD 0
  let f := fmtWord? (defFmt d.fmt)
  let t := freshTable d part
  let mqs := sumNat (c.work.tables.map (fun (_, v) => if v.partition = part then v.mqDepth * 160 else 0))
  [ ((table? c d.table).isNone, .conflict),
    ((x.map (·.st)) == some .active && partActive c part, .badState),
    (agentMay c src d.extent true, .notPermitted),
    (d.table < 1024 && d.extent < 65536 && 1 ≤ d.rows && d.rows < 2 ^ 31 && -128 ≤ d.hbase && d.hbase ≤ 127 && d.sources < 8 &&
      d.rate ≤ 15 && 64 ≤ d.mqDepth && d.mqDepth ≤ 4096, .badField),
    ((match f with | some w => w.fmt ≠ .i32 && rowLenOk w.fmt d.rowLen && 1 ≤ d.rowLen | none => false), .badField),
    (blockFmt t || (d.planeA == 0 && d.planeB == 0 && d.epoch == 0 && d.shadow == 0), .badField),
    ([d.elemOff, d.planeA, d.planeB, d.epoch, d.stats, d.shadow].all (fun o => o % 32 == 0), .badField),
    ((tableAreas t).all (fun a => a.1 + a.2 ≤ (x.map extBytes).getD 0), .notPermitted),
    (disjointAreas (tableAreas t), .conflict),
    (mqs + d.mqDepth * 160 ≤ 67108864, .noResource),
    (waysRoom c part (d.table % 4) (d.mqDepth * 160), .noResource)]

/-- TABLE_DEFINE (R180). -/
def tableDefine (src : Src) (d : TableDef) (m : M) : Mg :=
  checked m (tableChecks m.core src d) (fun m => accept (m.on (fun c =>
    setTable c d.table (freshTable d (((ext? c d.extent).map (·.partition)).getD 0)))))

/-- The shadow elements of a row are carried home (R204 step 5), with the marks they are read with: whether poison was met, or none
while a frame of the slot or the home is not ready. -/
def copyHome (m : M) (tn r : Nat) : M × Option Bool :=
  match (table? m.core tn).bind (fun t => (amGet? t.window r).map (fun rw => (t, rw.slot))) with
  | none => (m, none)
  | some (t, s) =>
    match readyWrites m t.extent [(rowOff t r, rowSize t)] with
    | (m, some _) => (m, none)
    | (m, none) =>
      let c0 := m.core
      match tblRead m tn t.extent (slotOff t s) (rowSize t) with
      | (m, .ok (b, p)) =>
        (writeRowWords (movedOnly c0 m) tn t (rowOff t r) b (fun _ => true) (fun k => p.getD k false), some (p.any id))
      | (m, _) => (m, none)

/-- Every row of the window ends its step: rows not yet FLIPPED go back, the others are carried home (Table 5-7); whether all could. -/
def finishRows (m : M) (tn : Nat) : M × Bool :=
  let m := abandonStep m tn
  match table? m.core tn with
  | none => (m, true)
  | some t => (t.window.map (·.1)).foldl (fun (m, ok) r => match copyHome m tn r with
      | (m, some _) => (rowHome m tn r false, ok)
      | (m, none) => (m, false)) (m, true)

def dropTable (c : Core) (tn : Nat) : Core := { c with work := { c.work with tables := amDel c.work.tables tn } }

/-- TABLE_DELETE (R183): refused while the plan is RUNNING. Rows that a halted recast still carries home end first; while a frame of
theirs is not ready it is refused too. DESIGN CHOICE, assumption 97 (unsafe). -/
def tableDelete (src : Src) (tn : Nat) (m : M) : Mg :=
  match table? m.core tn with
  | none => refuse m .badState
  | some t => checked m [(agentMay m.core src t.extent true, .notPermitted), (t.plan ≠ .running, .badState)] (fun m =>
      match finishRows m tn with
      | (m, true) => accept (m.on (fun c => dropTable c tn))
      | (m, false) => refuse m .badState)

/-! ### CALIBRATE (R195 to R200) -/

def fmtOf (t : Table) : Fmt := (tblFmt t).fmt

/-- Row maxima, a poisoned word counting as the largest finite value (R184). -/
def readMaxima (m : M) (tn : Nat) (t : Table) : M × Res (List Nat) :=
  andThen (tblRead m tn t.extent t.stats (2 * t.rows)) (fun m (b, p) =>
    (m, .ok ((List.range t.rows).map (fun r =>
      if poisonAt t.stats p (2 * r) then 0x7F7F else leNat ((b.drop (2 * r)).take 2)))))

/-- The proposal's headroom (R198). -/
def proposedH (c : Core) (t : Table) : Nat :=
  let h := c.fld CAL_CTRL CAL_CTRL_DEFAULT_HEADROOM
  if t.written < t.ovf * 1024 then min 7 (h + 1) else h

/-- The scale of a block format code `a` is above that of `b`. -/
def scaleAbove (f : Fmt) (a b : Nat) : Bool := a ≠ b && largerScale f a b == a

/-- The report (Table 5-5). For a scalar format the count of rows at 0x024 rests on no scale, and `free` gives it. -/
def calReport (c : Core) (t : Table) (maxima : List Nat) (free : Nat) : List Byte :=
  let h := proposedH c t
  let f := fmtOf t
  let cb := tblCb c t
  let grow := (maxima.filter (fun k =>
    scaleAbove f (fitScale f cb ((decodeBf16 k).scale (h : Int))) (fitScale f cb (decodeBf16 k)))).length
  natLe 4 t.planNo ++ natLe 4 (planCode t.plan) ++ natLe 8 t.written ++ natLe 4 t.ovf ++ natLe 4 t.unf ++ natLe 4 t.zeros ++
  natLe 4 t.nonfinite ++ natLe 2 (maxima.foldl max 0) ++ natLe 1 h ++ natLe 1 0 ++ natLe 4 (if blockFmt t then grow else free) ++
  natLe 8 t.drops ++ List.replicate 16 0 ++ (List.range 64).flatMap (fun b => natLe 4 (amGet t.hist b 0))

/-- The check of R81 of CALIBRATE's accesses to the row-statistics plane, which CLEAR writes. -/
def calAccess (c : Core) (w : Work) (t : Table) : Option (Status × W64) :=
  (accessCheck c (ctxPart c w.ctx) t.extent t.stats (2 * t.rows) true (bitOf (w.field 2 2) 2)).map (fun s => (s, extPtr c t.extent t.stats))

def calCheck (m : M) (w : Work) : M × Res Unit :=
  let c := m.core
  let flags := w.field 2 2
  let mode := w.field 4 1
  match table? c (w.field 0 2) with
  | none => (m, .fail .accessDenied 0)
  | some t =>
    if t.partition ≠ ctxPart c w.ctx then (m, .fail .accessDenied 0)
    else if bitOf flags 0 && !blockFmt t then (m, .fail .formatUnsupported 0)
    else
      let prop := bitOf flags 3
      let own := bitOf flags 0 && !prop
      let cnt := w.field 0x0C 4
      let ok := bitsOf flags 15 4 == 0 && (prop || (mode ≤ 2 && w.field 5 1 ≤ 7 && (mode == 2 || w.field 0x10 8 == 0))) &&
        (w.field 6 1 == 0 || w.field 6 1 == 2) && w.field 7 1 == 0 && w.zero 0x24 0x40 &&
        (!own || (w.field 8 4 < t.rows && w.field 8 4 + cnt ≤ t.rows)) && resOk c w.ctx (w.ptr 0x18) 320
      if !ok then (m, .fail .badDescriptor 0)
      else match calAccess c w t with
        | some (s, d) => (m, .fail s d)
        | none => (m, .ok ())

/-- The plan that CALIBRATE commits: the proposal or the body's (R198). -/
def planOf (c : Core) (w : Work) (t : Table) : PlanSet :=
  let prop := bitOf (w.field 2 2) 3
  let first := if prop then 0 else w.field 8 4
  { mode := if prop then 1 else w.field 4 1, headroom := if prop then proposedH c t else w.field 5 1,
    round := (roundOfCode (w.field 6 1)).getD .even, firstRow := first,
    rowCount := if prop || w.field 0x0C 4 = 0 then t.rows - first else w.field 0x0C 4, ptr := if prop then 0 else w.ptr 0x10 }

/-- A commit, which takes effect at the next step boundary: at once when no step is under way (R197). -/
def commitPlan (c : Core) (w : Work) (t : Table) : Table := { t with pend := t.pend ++ [planOf c w t] }

/-- The last of the commits that wait becomes the plan, and each counts in its number (R191, R196). -/
def takePlan (t : Table) : Table :=
  match t.pend.getLast? with
  | none => t
  | some p =>
    { t with plan := .committed, planNo := (t.planNo + t.pend.length) % 2 ^ 32, mode := p.mode, headroom := p.headroom,
             planRound := p.round, firstRow := p.firstRow, rowCount := p.rowCount, planPtr := p.ptr, nextRow := p.firstRow,
             stepEnd := p.firstRow, again := [], pend := [] }

/-- R196's conflict: another plan number than expected, of a plan that is still to be carried out, without SUPERSEDE. -/
def planConflict (w : Work) (t : Table) : Bool :=
  let live := match t.plan with | .committed | .running | .halted => true | _ => false
  t.planNo ≠ w.field 0x20 4 && live && !bitOf (w.field 2 2) 1

/-! ### The end of a recast step (R197, R204, R212, R218) -/

/-- The extent of a table is no longer ACTIVE. -/
def tableLeaving (c : Core) (t : Table) : Bool := match ext? c t.extent with | some x => x.st ≠ .active | none => true

/-- A plan that is still to be carried out becomes STOPPED (R217, R218). -/
def stopPlan (t : Table) : Table :=
  match t.plan with
  | .committed | .running | .halted => { t with plan := .stopped }
  | _ => t

/-- Once every row of the step is HOME: the plan's next row advances, a commit that waits takes effect, and the RECAST ends when the
plan was replaced, the extent is being withdrawn, an abort waits, the last row is done, or MAX_ROWS rows have been taken. -/
def stepBoundary (m : M) (tn : Nat) : M :=
  match table? m.core tn with
  | none => m
  | some t =>
    if t.stepRows ≠ [] then m
    else
      let leaving := tableLeaving m.core t
      let next := match t.again with | [] => t.stepEnd | r :: rs => rs.foldl min r
      let advance := fun (t : Table) => if t.recast.isSome && t.plan = .running then { t with nextRow := next } else t
      let m := m.on (fun c => modTable c tn (fun t =>
        let t := { takePlan (advance t) with stepOpen := false }
        if leaving then stopPlan t else t))
      match t.recast with
      | none => m
      | some (ctx, num) =>
        if t.pend ≠ [] then m.on (fun c => stopWork c ctx num .versionConflict)
        else if leaving then m.on (fun c => overrideStop c ctx num .extentWithdrawn)
        else match work? m.core ctx num with
          | none => m
          | some w =>
            if w.status.isSome then m.on (fun c => endWork c ctx num)
            else if t.firstRow + t.rowCount ≤ next && t.again = [] then
              (m.on (fun c => modTable c tn (fun t => { t with plan := .done }))).on (fun c => endWork c ctx num)
            else if w.field 8 4 ≠ 0 && w.field 8 4 ≤ t.takenBy then m.on (fun c => endWork c ctx num)
            else m

/-- CALIBRATE: the report, a commit, and the clear (R196 to R200). The report tells the plan as the commit leaves it. -/
def calStep (m : M) (w : Work) : M × Res Unit :=
  let tn := w.field 0 2
  let flags := w.field 2 2
  match table? m.core tn with
  | none => (m, .fail .accessDenied 0)
  | some t =>
    match calAccess m.core w t, (if bitOf flags 2 then readyWrite m t.extent t.stats (2 * t.rows) else (m, none)) with
    | some (s, d), _ => (m, .fail s d)
    | none, (m, some k) => (m, .park k)
    | none, (m, none) =>
      andThen (readMaxima m tn t) (fun m maxima =>
        let bad := bitOf flags 0 && planConflict w t
        let t' := if bitOf flags 0 && !bad then commitPlan m.core w t else t
        let (c, d) := m.core.draw
        let report := calReport c (takePlan t') maxima (Config.freeWord d).toNat
        let t' := if bitOf flags 2 then
            { t' with hist := [], zeros := 0, nonfinite := 0, written := 0, ovf := 0, unf := 0, drops := 0 } else t'
        let m := { m with core := agentWrite (setTable c tn t') w.ctx w.num (w.ptr 0x18) report }
        let m := if bitOf flags 2 then tblWrite m tn t.extent t.stats (List.replicate (2 * t.rows) 0) else m
        let m := stepBoundary m tn
        if bad then (m, .fail .versionConflict 0) else (m, .ok ()))

def calWork (ctx num : Nat) : M → M :=
  runWork 0x20 ctx num calCheck (fun c w => startWork c w false 0 0) calStep (fun _ _ => 1)

/-! ### RECAST (R201 to R219) -/

/-- R202, with the reserved fields and the result address. -/
def recastCheck (c : Core) (w : Work) : Option Status :=
  match table? c (w.field 0 2) with
  | none => some .accessDenied
  | some t =>
    if t.partition ≠ ctxPart c w.ctx then some .accessDenied
    else if w.field 2 2 ≠ 0 || !w.zero 0x0C 0x10 || !w.zero 0x18 0x40 || !resOk c w.ctx (w.ptr 0x10) 32 then some .badDescriptor
    else if !blockFmt t then some .formatUnsupported
    else if w.field 4 4 ≠ t.planNo || !(t.plan = .committed || t.plan = .running || t.plan = .halted) || t.recast.isSome then
      some .versionConflict
    else none

/-- The RECAST is accepted: its plan runs. One that was HALTED goes on after the poisoned row (R214). -/
def recastStart (c : Core) (w : Work) : Core :=
  let c := modWork c w.ctx w.num (fun w => { w with started := true })
  modTable c (w.field 0 2) (fun t =>
    { t with plan := .running, recast := some (w.ctx, w.num), flippedBy := 0, skippedBy := 0, takenBy := 0,
             again := if t.plan = .halted then [] else t.again,
             nextRow := if t.plan = .halted then t.poisonRow + 1 else t.nextRow,
             stepEnd := if t.plan = .halted then t.poisonRow + 1 else t.nextRow })

/-- RECAST is taken up: refused by R202, or its steps begin. A plan with no row left ends at once. -/
def recastWork (ctx num : Nat) (m : M) : M :=
  match work? m.core ctx num with
  | none => m
  | some w =>
    if w.opcode ≠ 0x21 ∨ !active w ∨ w.started then m
    else match recastCheck m.core w with
      | some s => m.on (fun c => stopWork c ctx num s)
      | none => stepBoundary (m.on (fun c => recastStart c w)) (w.field 0 2)

/-- The group of a step: rows to take again, or the next 64 of the plan, as far as MAX_ROWS and the free shadow slots let it
(R204, R211). -/
def stepGroup (t : Table) (maxRows : Nat) : List Nat :=
  let n := min 64 t.freeSlots.length
  let n := if maxRows = 0 then n else min n (maxRows - t.takenBy)
  match t.again with
  | [] => (List.range (min n (t.firstRow + t.rowCount - t.nextRow))).map (t.nextRow + ·)
  | l => l.take n

/-- What a recast read gives for one row: its image, the row maximum and the plan entry, or that it met poison. -/
inductive RecRead where
  | row (img : RowImg) (rowMax : FVal) (entry : Nat)
  | poison

/-- A row is read for recast (R192, R214). A poisoned row-statistics word under ROWMAX halts by R214 or reads as the largest
value by R184: the spec says both, and the device chooses. DEDUCED, assumption 50 (unsafe). -/
def recastRead (m : M) (w : Work) (tn : Nat) (t : Table) (r : Nat) : M × Res RecRead :=
  andThen (readRow m tn t r) (fun m img =>
    if imgPoisoned img then (m, .ok .poison)
    else if t.mode = 1 then
      andThen (tblRead m tn t.extent (t.stats + 2 * r) 2) (fun m (b, p) =>
        if p.any id then
          let (c, k) := m.core.choose 2
          ({ m with core := c }, .ok (if k = 0 then .poison else .row img (decodeBf16 0x7F7F) 0))
        else (m, .ok (.row img (decodeBf16 (leNat b)) 0)))
    else if t.mode = 2 then
      let n := scaleBytes (fmtOf t)
      andThen (poolRead m w (t.planPtr + BitVec.ofNat 64 ((r - t.firstRow) * n)) n) (fun m (b, p) =>
        (m, .ok (if p.any id then .poison else .row img FVal.zero (leNat b))))
    else (m, .ok (.row img FVal.zero 0)))

/-- The new scales of a row's blocks (R192, R193). DEDUCED, assumption 50 (unsafe). -/
def newScales (c : Core) (t : Table) (img : RowImg) (rowMax : FVal) (entry : Nat) : List Nat :=
  let f := fmtOf t
  let cb := tblCb c t
  let vals := imgValues f cb img
  img.scales.zipIdx.map (fun (s, b) =>
    if nanScale f s then s
    else
      let a := maxMag ((vals.drop (32 * b)).take 32)
      let target := match t.mode with
        | 0 => fitScale f cb (a.scale (t.headroom : Int))
        | 1 => fitScale f cb (rowMax.scale (t.headroom : Int))
        | _ => if nanScale f entry then fitScale f cb a else entry
      largerScale f (fitScale f cb a) target)

/-- A row re-encoded at its new scales (R194): elements of blocks that change. -/
def recode (t : Table) (cb : List FVal) (img : RowImg) (scales : List Nat) (d : Nat) : List Nat :=
  let f := tblFmt t
  let w : FmtWord := { f with round := t.planRound, fitted := false }
  img.elems.zipIdx.map (fun (b, i) =>
    let s := img.scales.getD (i / 32) 0
    let s' := scales.getD (i / 32) 0
    if s' = s then b
    else (encodeValue w cb s' (draw16 (d + 2 * i)) (Config.freeWord (d + 2 * i + 1)).toNat (decodeValue f.fmt cb s b)).bits)

/-- A row is PREPARED (R204 steps 1 to 3), or skipped when no block changes. -/
def prepareRow (m : M) (tn : Nat) (x : Nat × RecRead) : M :=
  match table? m.core tn, x.2 with
  | some t, .row img rowMax entry =>
    let scales := newScales m.core t img rowMax entry
    let taken := fun (m : M) (f : Table → Table) => m.on (fun c => modTable c tn (fun t => f { t with takenBy := t.takenBy + 1 }))
    if scales = img.scales then taken m (fun t => { t with skippedBy := t.skippedBy + 1 })
    else match t.freeSlots with
      | [] => m
      | s :: rest =>
        let (c, d) := m.core.drawN (2 * t.rowLen)
        let elems := recode t (tblCb c t) img scales d
        let m := writeRowWords { m with core := c } tn t (slotOff t s) (rowBytes t elems img.pad) (fun _ => true) (fun _ => false)
        let m := writeScales m tn t (!img.epoch) x.1 scales
        taken m (fun t => { t with window := amSet t.window x.1 ⟨.prepared, s⟩, freeSlots := rest, stepRows := t.stepRows ++ [x.1] })
  | _, _ => m

/-- A rebuild runs on the chip (R216). -/
def rebuilding (c : Core) : Bool := c.fld PAIR_REBUILD PAIR_REBUILD_STATE == 1

/-- The tick's expert share, ns (R56): the floor in force. -/
def expertShare (c : Core) : Nat :=
  periodNs c * bitsOf c.tck.budget0.toNat TCK_BUDGET0_EXPERT.hi TCK_BUDGET0_EXPERT.lo / 1000

def expertUsed (c : Core) (q : Nat) : Nat := amGet c.work.batchNs q 0

/-- A batch's partition: that of its entries. -/
def batchPart (b : Batch) : Nat := ((b.ents.head?).map (·.part)).getD 16

/-- A batch is to be computed in the running tick, or is late (R330). -/
def batchDue (c : Core) (q : Nat) (b : Batch) : Bool := b.ents != [] && batchPart b == q && b.tick < c.tick

/-- Cluster time of a tick that expert batches leave to partition `q`'s recast steps, ns (R61). -/
def clusterLeft (c : Core) (q : Nat) : Nat :=
  periodNs c - (if c.work.batches.any (batchDue c q) then max (expertShare c) (expertUsed c q) else expertUsed c q)

/-- While a rebuild runs, the recast of a P class table yields to it, with REBUILD_YIELD set (R216). -/
def yields (c : Core) (t : Table) : Bool :=
  rebuilding c && c.flag CAL_CTRL CAL_CTRL_REBUILD_YIELD && (match ext? c t.extent with | some x => x.cls == .p | none => false)

/-- A range of an extent meets an area of a table. -/
def meetsTable (t : Table) (e off len : Nat) : Bool :=
  t.extent == e && (tableAreas t).any (fun a => a.1 < off + len && off < a.1 + a.2)

/-- A PUBLISH of a range of the table is not decided yet (R215). -/
def publishHeld (c : Core) (t : Table) : Bool :=
  c.net.requests.any (fun r => r.type == 0x31 && r.reply.isNone &&
    (amGet? c.ext.regions (r.body.getD 2 0 % 2 ^ 14)).any (fun g => meetsTable t g.extent g.offset g.len))

/-- What keeps a recast step of a table from starting: no budget or cluster time (R61, R62), a rebuild (R216), a PUBLISH (R215), a step
under way, a commit that waits, or a RECAST that does not run or has met its end. -/
def recastMayStep (c : Core) (t : Table) (ns left : Nat) : Bool :=
  t.plan == .running && t.locked == [] && t.stepRows == [] && t.pend == [] && !yields c t && !publishHeld c t && stepFits c 0 ns &&
  ns ≤ min left (clusterLeft c t.partition) &&
  (match t.recast with
   | some (ctx, num) => (match work? c ctx num with | some w => active w && w.status.isNone | none => false)
   | none => false)

/-- R214: the channel halts at row `r`; rows not yet FLIPPED return to HOME. -/
def recastHalt (m : M) (tn r ctx num : Nat) : M :=
  (abandonStep m tn).on (fun c =>
    let c := modTable c tn (fun t => { t with plan := .halted, poisonRow := r, again := [] })
    let c := raise c .calRecastPoison 9 tn r
    match table? c tn with
    | some t => stopWork c ctx num .poisoned (extPtr c t.extent (rowOff t r))
    | none => c)

/-- A recast step begins: the group is read, new scales chosen, and the rows that change are PREPARED. `ns` is the step's
estimate and `left` the cluster time that batches leave. -/
def recastStep (tn ns left : Nat) (m : M) : M :=
  match table? m.core tn with
  | none => m
  | some t =>
    match t.recast with
    | none => m
    | some (ctx, num) =>
      if !recastMayStep m.core t ns left then m
      else match work? m.core ctx num with
        | none => m
        | some w =>
          let rows := stepGroup t (w.field 8 4)
          let need := rows.flatMap (fun r => rowRanges t r) ++ (t.freeSlots.take rows.length).map (fun s => (slotOff t s, rowSize t))
          match readyWrites m t.extent need with
          | (m, some k) => m.on (fun c => parkWork c ctx num k)
          | (m, none) =>
            match forEach (fun m l r => andThen (recastRead m w tn t r) (fun m x => (m, .ok (l ++ [(r, x)])))) m [] rows with
            | (m, .park k) => m.on (fun c => parkWork c ctx num k)
            | (m, .fail s d) => m.on (fun c => stopWork c ctx num s d)
            | (m, .ok reads) =>
              let m := m.on (fun c => useSlice c 0 ns)
              match reads.find? (fun x => match x.2 with | .poison => true | _ => false) with
              | some x => recastHalt m tn x.1 ctx num
              | none =>
                let m := m.on (fun c => modTable c tn (fun t =>
                  { t with stepOpen := true, again := t.again.filter (fun r => !rows.contains r),
                           stepEnd := if t.again = [] then t.nextRow + rows.length else t.stepEnd }))
                let m := reads.foldl (fun m x => prepareRow m tn x) m
                stepBoundary (m.on (fun c => modWork c ctx num (fun w => { w with fetched := [] }))) tn

/-- Elements of a row that its re-encoding made zero (R194). -/
def recastUnf (f : Fmt) (cb : List FVal) (old new : RowImg) : Nat :=
  (((imgValues f cb old).zip (imgValues f cb new)).filter (fun (a, b) => a.isFin && !a.isZero && b.isZero)).length

/-- The elements that a PREPARED row's re-encoding made zero, as memory holds both encodings. -/
def flipUnf (m : M) (tn : Nat) (t : Table) (r s : Nat) (ep : Bool) : Nat :=
  match (readRowAt m tn t r none ep).2, (readRowAt m tn t r (some s) (!ep)).2 with
  | .ok a, .ok b => recastUnf (fmtOf t) (tblCb m.core t) a b
  | _, _ => 0

/-- A PREPARED row's epoch bit flips and its redirect is set, together (R204 step 4), once the frame of the epoch map is ready. -/
def rowFlip (tn r : Nat) (m : M) : M :=
  match table? m.core tn with
  | none => m
  | some t => match amGet? t.window r with
    | some ⟨.prepared, s⟩ =>
      match readyWrites m t.extent [(t.epoch + r / 8, 1)] with
      | (m, some _) => m
      | (m, none) => match readEpoch m tn t r with
        | (m, .ok (ep, _)) =>
          let unf := flipUnf m tn t r s ep
          let m := writeEpoch m tn t r (!ep)
          m.on (fun c =>
            let c := noteWrite c tn { unf := unf }
            let c := c.count CAL_ROWS_FLIPPED
            modTable c tn (fun t => { t with window := amSet t.window r ⟨.flipped, s⟩, flippedBy := t.flippedBy + 1 }))
        | (m, _) => m
    | _ => m

/-- Every read that selected the old plane has retired: the copy-back starts (R207). -/
def copyBackStart (tn r : Nat) (m : M) : M :=
  m.on (fun c => modTable c tn (fun t => match amGet? t.window r with
    | some ⟨.flipped, s⟩ => { t with window := amSet t.window r ⟨.copying, s⟩ }
    | _ => t))

/-- The copy is complete: the redirect is cleared and the queued writes replayed, under one row lock (Table 5-7). The slot is
held until the reads through its redirect have retired (R207). A copy whose frames are not ready is not complete. Poison that the
copy's read of the slot meets goes home as it is, and the channel halts (R214, R573). -/
def copyBackDone (tn r : Nat) (m : M) : M :=
  let rec? := (table? m.core tn).bind (·.recast)
  match (table? m.core tn).bind (fun t => amGet? t.window r) with
  | some ⟨.copying, _⟩ =>
    match copyHome m tn r with
    | (m, none) => m
    | (m, some bad) =>
      let m := rowHome m tn r true
      let m := match bad, rec? with
        | true, some (ctx, num) => recastHalt m tn r ctx num
        | _, _ => m
      stepBoundary m tn
  | _ => m

def shadowSlotFree (tn s : Nat) (m : M) : M :=
  m.on (fun c => modTable c tn (fun t =>
    if t.heldSlots.contains s then
      { t with heldSlots := t.heldSlots.filter (· != s), freeSlots := t.freeSlots ++ [s] } else t))

/-! ### What stops a recast -/

/-- A thread ends its instance: its engine and wait entry are free; its commands finish unheard (R394). -/
def dropThread (c : Core) (t : Nat) : Core :=
  match amGet? c.rasp.threads t with
  | none => c
  | some th =>
    let c := unwait c (.thread t)
    let c := match th.engine with
      | some e => { c with work := { c.work with engines := amMod c.work.engines e (fun x =>
          { x with holder := none, panes := [], acts := [], accs := [], busy := [] }) } }
      | none => c
    { c with rasp := { c.rasp with threads := amDel c.rasp.threads t } }

/-- Threads that run instances of a work. -/
def threadsOf (c : Core) (ctx num : Nat) : List (Nat × Thread) := c.rasp.threads.filter (fun x => x.2.ctx == ctx && x.2.num == num)

/-- The rows of a RULE PROGRAM step are unlocked (R288, R406). -/
def unlockRule (c : Core) (w : Work) : Core :=
  match w.prog with
  | some p =>
    let c := modTable c (w.field 0 2) (fun t => { t with locked := t.locked.filter (fun r => !(p.isRule && p.ruleRows.contains r)) })
    let c := if p.isRule && ruleMoment w then modTable c (w.field 0x16 2) (fun t =>
      { t with locked := t.locked.filter (fun r => !p.ruleRows.contains r) }) else c
    modWork c w.ctx w.num (fun w => { w with prog := w.prog.map (fun p => { p with ruleRows := [] }) })
  | none => c

/-- A program's work completes once every instance has exited or stopped (R405): COUNT is the sum of the exits. -/
def progEndCheck (c : Core) (ctx num : Nat) : Core :=
  match work? c ctx num with
  | none => c
  | some w => match w.prog with
    | none => c
    | some p =>
      let running := threadsOf c ctx num != [] || c.rasp.saved.any (fun s => s.thread.ctx == ctx && s.thread.num == num)
      if running || !(p.stopping || (!p.isRule && p.insts ≤ p.ended)) then c
      else endWork (modWork (unlockRule c w) ctx num (fun w =>
        { w with count := if p.isRule then w.count else min p.count (2 ^ 32 - 1) })) ctx num

/-- Every instance of a program's work stops at its next STEP; one that is parked or has yielded stops where it stands. -/
def stopProgram (c : Core) (ctx num : Nat) : Core :=
  let c := modWork c ctx num (fun w => { w with prog := w.prog.map (fun p => { p with stopping := true }) })
  let c := (threadsOf c ctx num).foldl (fun c (t, th) => match th.wait with | .parked _ => dropThread c t | _ => c) c
  let c := { c with rasp := { c.rasp with saved := c.rasp.saved.filter (fun s => !(s.thread.ctx == ctx && s.thread.num == num)) } }
  progEndCheck c ctx num

/-- The work stops at its next step boundary with an abort status (R70, R242). Between two commands a work stands at a step
boundary, but for a RECAST whose step has rows on their way (R212) and a program whose instances run on to their next STEP. -/
def abortWork (c : Core) (ctx num : Nat) (s : Status) : Core :=
  match work? c ctx num with
  | none => c
  | some w =>
    if w.prog.isSome && liveWork w then stopProgram (modWork c ctx num (overrideStatus s)) ctx num
    else
    let mid := w.opcode = 0x21 && c.work.tables.any (fun (_, t) => t.recast == some (ctx, num) && t.stepRows != [])
    if mid then modWork c ctx num (overrideStatus s) else overrideStop c ctx num s

/-- R217: the keys of partition q are destroyed. -/
def killTables (c : Core) (q : Nat) : Core :=
  c.work.tables.foldl (fun c (tn, t) =>
    if t.partition ≠ q then c
    else
      let c := t.mq.foldl (fun c e => overrideStop (modWork c e.ctx e.work (fun w => { w with queued := 0 })) e.ctx e.work .keyRevoked) c
      let c := modTable c tn (fun t =>
        { t with window := [], stepRows := [], again := [], mq := [], freeSlots := List.range 128, heldSlots := [],
                 pend := [], stepOpen := false, plan := (stopPlan t).plan })
      match t.recast with
      | some (ctx, num) => overrideStop c ctx num .keyRevoked
      | none => c) c

/-- R218: extent `e` has entered WITHDRAWING: plans stop, a running step first ending. -/
def withdrawTables (m : M) (e : Nat) : M :=
  m.core.work.tables.foldl (fun m (tn, t) => if t.extent = e then stepBoundary m tn else m) m

/-- R183: the extent is WITHDRAWN and its tables go. -/
def deleteTablesOf (c : Core) (e : Nat) : Core :=
  { c with work := { c.work with tables := c.work.tables.filter (fun x => x.2.extent != e) } }

/-- A PUBLISH of this range waits for the step under way of an overlapping table (R215). -/
def publishWaits (c : Core) (e off len : Nat) : Option Nat :=
  (c.work.tables.find? (fun (_, t) => t.stepRows != [] && meetsTable t e off len)).map (·.1)

/-! ### What a step leaves to be done once its causes clear -/

/-- Rows that are HOME again with queued writes still to be replayed. -/
def replayRows (t : Table) : List Nat := distinctOf ((t.mq.filter (fun e => (amGet? t.window e.row).isNone)).map (·.row))

/-- The RECAST of a table that yields to a rebuild and has not parked yet (R216). -/
def yieldDue (c : Core) (t : Table) : Option (Nat × Nat) :=
  if t.stepRows = [] && yields c t then t.recast.filter (fun x => (work? c x.1 x.2).any active) else none

/-- A table has replays, a step boundary or a park to come. -/
def tableDue (c : Core) (t : Table) : Bool :=
  (t.stepOpen && t.stepRows == []) || replayRows t != [] || (yieldDue c t).isSome

/-- Replays that waited are made; a step all of whose rows are HOME meets its boundary; a RECAST yields to a rebuild; and works whose
queued updates are made make their last writes. -/
def settleTables (m : M) : M :=
  (m.core.work.tables.foldl (fun m x => match table? m.core x.1 with
    | none => m
    | some t =>
      let m := (replayRows t).foldl (fun m r => replayRow m x.1 r) m
      let m := if t.stepOpen && t.stepRows == [] then stepBoundary m x.1 else m
      match yieldDue m.core t with
      | some (ctx, num) => m.on (fun c => parkWork c ctx num (.rebuild x.1))
      | none => m) m).on owedWrites

end Sys2Proof.Machine
end

