-- ==== Sys2Proof/Machine/Ctx.lean ====
section
/-! DEFINITION. Contexts, work rings and completions (chapter 6): grants, doorbells and the walk, taking works, slices,
deadlines, flushes, and completion records. -/

namespace Sys2Proof.Machine
open Sys2Proof

def stActive : Nat := 1
def stFlushing : Nat := 2
def stReset : Nat := 3
def stRevoking : Nat := 4

def setCtxState (c : Core) (x st : Nat) : Core := wroteCtrl (x % 4) (.context x) <| c.setFld (CTX_CFG0 x) CTX_CFG0_STATE st

def regN (c : Core) (a : Nat) : Nat := (c.rget a).toNat
def setN (c : Core) (a v : Nat) : Core := c.rset a (BitVec.ofNat 64 v)

/-- Difference of two free-running 32-bit counts. -/
def sub32 (a b : Nat) : Nat := (a % 2 ^ 32 + 2 ^ 32 - b % 2 ^ 32) % 2 ^ 32

def ringLog2 (c : Core) (x : Nat) : Nat := c.fld (CTX_CFG1 x) CTX_CFG1_RING_LOG2
def cqLog2 (c : Core) (x : Nat) : Nat := c.fld (CTX_CFG1 x) CTX_CFG1_CQ_LOG2

/-- The plinth of the port that carried a work's doorbell (R27). -/
def portHome (w : Work) : Nat := portPlinth w.port

def rejectDoorbell (c : Core) (x : Nat) : Core := raise c .ctxDoorbellRejected 7 x

/-- The packet counter and SPILLING follow the ring (R227, Table 6-14). -/
def ringView (c : Core) (x : Nat) : Core :=
  let c := c.setFld (CTX_QUEUE x) CTX_QUEUE_PACKETS (ctxX c x).whole.length
  c.setFld (CTX_STATUS x) CTX_STATUS_SPILLING (b2n (512 < sub32 (regN c (CTX_WP_A x)) (regN c (CTX_RP_A x))))

def setPtrs (c : Core) (x wp rp : Nat) : Core :=
  ringView (setN (setN (setN (setN c (CTX_WP_A x) wp) (CTX_WP_B x) wp) (CTX_RP_A x) rp) (CTX_RP_B x) rp) x

/-- Either pair of pointer copies disagrees (R235). -/
def copiesDiffer (c : Core) (x : Nat) : Bool :=
  c.rget (CTX_WP_A x) != c.rget (CTX_WP_B x) || c.rget (CTX_RP_A x) != c.rget (CTX_RP_B x)

/-- R235: the ring is reset. -/
def ringReset (c : Core) (x : Nat) : Core :=
  let c := modCtxX c x (fun k => { k with whole := [], walk := 0 })
  let c := setPtrs c x 0 0
  let c := raise c .ctxRingReset 7 x
  let c := c.setFld (CTX_STATUS x) CTX_STATUS_RING_RESET 1
  if ctxState c x = stRevoking then c
  else
    let c := setCtxState c x stReset
    c.notice (ctxOwner c x) 4 x 0 (regN c (CTX_TAKEN x)) (ctxX c x).lastSeq

/-! ### Leaving flight, flushes and revocation (R223, R242, R245) -/

/-- FLUSH_DONE once no work in flight at the flush point is left. -/
def flushCheck (c : Core) (x : Nat) : Core :=
  let k := ctxX c x
  if k.flushPending && !(worksOf c x).any (fun w => k.flushing.contains w.num) then
    let c := modCtxX c x (fun k => { k with flushPending := false, flushing := [] })
    let c := c.setFld (CTX_CTRL x) CTX_CTRL_FLUSH 0
    let c := if ctxState c x = stFlushing then setCtxState c x stActive else c
    c.notice (ctxOwner c x) 5 x 0 (regN c (CTX_TAKEN x)) c.tick
  else c

/-- A REVOKING context with no work in flight is FREE, and the fabric manager is told. -/
def revokeCheck (c : Core) (x : Nat) : Core :=
  if ctxState c x = stRevoking && worksOf c x = [] then (setCtxState c x 0).toFm 0x0133 [x] else c

/-- The work leaves flight: the increments of its sync objects are sent (R238), and a flush or revocation may end. -/
def leaveFlight (c : Core) (x num : Nat) : Core :=
  match work? c x num with
  | none => c
  | some w =>
    let c := delWork c x num
    let c := c.count (CTX_COMPLETED x)
    let q := ctxPart c x
    let c := if !w.noSync && bitOf w.syncEn 0 then syncSend c w.sync0 q else c
    let c := if !w.noSync && bitOf w.syncEn 1 then syncSend c w.sync1 q else c
    revokeCheck (flushCheck c x) x

/-- A work of a descriptor's bytes, as the dispatcher finds it when it takes it. -/
def workOf (x num : Nat) (b : List Byte) (tick tag : Nat) : Work :=
  let f := fun (o n : Nat) => leNat ((b.drop o).take n)
  { ctx := x, num := num, desc := b, opcode := f 0 1, flags := f 1 1, length := f 2 2, seq := f 4 4, deadline := f 8 2,
    sync0 := f 0x0C 2, sync1 := f 0x0E 2, syncEn := f 0x10 1, preSync := f 0x12 2, preValue := f 0x18 8,
    user := BitVec.ofNat 64 (f 0x20 8), tick := tick, tag := tag, phase := .ready, started := false, noSync := false, step := 0,
    status := none, detail := 0, count := 0, sat := false, late := false, nonfin := false, stoch := false, items := [], rows := [],
    fetched := [], unacked := 0, queued := 0, engine := none, route := [], waited := 0, statusAddr := none, nItems := 0,
    recordAddr := none, perItem := 0, winBytes := 0, winNeed := 0, prog := none, recordHeld := false }

/-- No op tag. -/
def noTag : Nat := 2 ^ 64

/-- Whether a sync object that the header names lies outside the context's partition (R238). -/
def foreignSync (c : Core) (w : Work) : Bool :=
  let q := ctxPart c w.ctx
  (bitOf w.syncEn 0 && !syncOf c w.sync0 q) || (bitOf w.syncEn 1 && !syncOf c w.sync1 q) ||
  (bitOf w.flags 1 && !syncOf c w.preSync q)

/-- A whole descriptor leaves the ring: the read pointer passes it and it counts as taken. -/
def popWhole (c : Core) (x : Nat) (d : WholeDesc) (seq : Nat) : Core :=
  let c := modCtxX c x (fun k => { k with whole := k.whole.tail, lastSeq := seq })
  let c := c.count (CTX_TAKEN x)
  setPtrs c x (regN c (CTX_WP_A x)) ((d.ptr + d.words) % 2 ^ 32)

/-- The work's last tick (R68). -/
def lastTick (w : Work) : Option Nat := if w.deadline = 0 then none else some (w.tick + w.deadline)

def overdue (c : Core) (w : Work) : Bool := match lastTick w with | some t => t < c.tick | none => false

/-- A whole descriptor has missed its deadline in the ring (R70). -/
def descOverdue (c : Core) (d : WholeDesc) : Bool := overdue c (workOf 0 0 d.hdr d.tick 0)

/-- A work misses its deadline (R69, R70): it is LATE, counts for its context's event of the tick, and is stopped when the
context aborts on a deadline. -/
def missDeadline (c : Core) (x num : Nat) (count : Bool) : Core :=
  let c := modWork c x num (fun w => { w with late := true })
  let c := if count then modCtxX c x (fun k => { k with missed := k.missed + 1 }) else c
  if ctxAbort c x then abortWork c x num .abortedDeadline else c

/-- The last result write has started, and the work will write no record (R240). -/
def suppressed (w : Work) : Bool :=
  bitOf w.flags 0 && w.status.isNone && !w.sat && !w.late && !w.nonfin && !w.stoch

/-- The work has met its deadline, or has not reached it, or its miss is known (R69, R240). -/
def notMissed (c : Core) (w : Work) : Bool :=
  !overdue c w || w.late || w.phase == .recorded || (w.phase == .ended && suppressed w && w.queued == 0 && !w.owes)

/-- Deadlines of a context's works that have passed: each work, in flight or still in the ring, is LATE (R70). -/
def missDeadlines (c : Core) (x : Nat) : Core :=
  let c := (worksOf c x).foldl (fun c w => if notMissed c w then c else missDeadline c x w.num true) c
  let gone := fun (d : WholeDesc) => !d.missed && descOverdue c d
  let n := ((ctxX c x).whole.filter gone).length
  modCtxX c x (fun k => { k with whole := k.whole.map (fun d => if gone d then { d with missed := true } else d),
                                 missed := k.missed + n })

/-- A whole descriptor not yet taken completes without starting: ABORTED_FLUSH (R242), or ABORTED_DEADLINE when it has missed its
deadline in a context that aborts on one (R70, R72). -/
def flushDesc (c : Core) (x : Nat) (d : WholeDesc) : Core :=
  let num := regN c (CTX_TAKEN x)
  let w := workOf x num d.hdr d.tick noTag
  let s : Status := if d.missed && ctxAbort c x then .abortedDeadline else .abortedFlush
  let w := { w with noSync := !d.readable || foreignSync c w, late := d.missed, phase := .ended, status := some s }
  setWork (popWhole c x d w.seq) w

/-- A flush takes effect (R242): descriptors not yet taken and works in flight are aborted. A deadline that has ended by then
comes first (R72), and pointer copies that disagree reset the ring (R235). -/
def flushNow (c : Core) (x : Nat) : Core :=
  let c := missDeadlines c x
  let c := if copiesDiffer c x then ringReset c x else (ctxX c x).whole.foldl (fun c d => flushDesc c x d) c
  (worksOf c x).foldl (fun c w => abortWork c x w.num .abortedFlush) c

/-- A flush request, by the context's state (R242). `doorbell` says that it came as a FLUSH doorbell (R236). -/
def flushRequest (c : Core) (x : Nat) (doorbell : Bool) : Core :=
  let st := ctxState c x
  if st = stActive ∨ (st = stReset ∧ !doorbell) then
    let c := c.setFld (CTX_CTRL x) CTX_CTRL_FLUSH 1
    let c := if st = stActive then setCtxState c x stFlushing else c
    let c := flushNow c x
    let c := modCtxX c x (fun k => { k with flushPending := true, flushing := (worksOf c x).map (·.num) })
    flushCheck c x
  else c

/-- The context is revoked (R223): flushed without a FLUSH_DONE, and its doorbells refused from now. -/
def revokeCtx (c : Core) (x : Nat) : Core :=
  if ctxState c x = 0 ∨ ctxState c x = stRevoking then c
  else
    let c := setCtxState c x stRevoking
    let c := flushNow c x
    let c := modCtxX c x (fun k => { k with flushPending := false, flushing := [] })
    revokeCheck (c.setFld (CTX_CTRL x) CTX_CTRL_FLUSH 0) x

/-! ### Management messages -/

/-- The refusals of R222 in their order, R626 and R636. -/
def grantChecks (c : Core) (d : CtxGrant) : List (Bool × MgmtCode) :=
  let win := (d.wins[bitsOf d.cq.toNat 63 62]?).map (·.len)
  let cqOff := bitsOf d.cq.toNat 61 0
  [ (4096 ≤ d.ctx || ctxState c d.ctx == 0, .conflict),
    (16 ≤ d.partition || partActive c d.partition, .badState),
    (d.ctx < 4096 && d.partition < 16 && d.owner < 65536 && d.keySlot < 4096 && 8 ≤ d.ringLog2 && d.ringLog2 ≤ 20 &&
      d.wins.length == 4 && d.wins.all (fun w => w.len < 2 ^ 32) && 6 ≤ d.cqLog2 && d.cqLog2 ≤ 16 &&
      1 ≤ d.weight && d.weight ≤ 255 && 1 ≤ d.maxInflight && d.maxInflight ≤ 256, .badField),
    (d.ringBase.toNat % 32 == 0, .badField),
    (slotOwner c d.keySlot == some d.partition, .notPermitted),
    (ptrChip d.ringBase == c.chipId && (accessCheck c d.partition (ptrExtent d.ringBase) (ptrOffset d.ringBase)
      (2 ^ d.ringLog2 * 32) false true).isNone, .notPermitted),
    ((match win with | some l => l != 0 && cqOff + 2 ^ d.cqLog2 * 32 ≤ l | none => false), .badField)]

/-- Registers of a context that a grant sets to 0. -/
def ctxZeros (x : Nat) : List Nat :=
  [CTX_WP_A x, CTX_WP_B x, CTX_RP_A x, CTX_RP_B x, CTX_QUEUE x, CTX_CQ_HEAD x, CTX_CQ_TAIL x, CTX_TAKEN x,
   CTX_COMPLETED x, CTX_SAT_COUNT x, CTX_NONFINITE_COUNT x, CTX_LATE x, CTX_PARKS x]

/-- The context as granted: ACTIVE, with an empty ring (R222). -/
def grantedCtx (d : CtxGrant) (c : Core) : Core :=
  let x := d.ctx
  let c := c.rset (CTX_CFG0 x) 0
  let c := c.setFld (CTX_CFG0 x) CTX_CFG0_PARTITION d.partition
  let c := c.setFld (CTX_CFG0 x) CTX_CFG0_PRODUCER (b2n d.rdma)
  let c := c.setFld (CTX_CFG0 x) CTX_CFG0_ABORT_ON_DEADLINE (b2n d.abort)
  let c := c.setFld (CTX_CFG0 x) CTX_CFG0_OWNER d.owner
  let c := c.rset (CTX_CFG1 x) 0
  let c := c.setFld (CTX_CFG1 x) CTX_CFG1_WEIGHT d.weight
  let c := c.setFld (CTX_CFG1 x) CTX_CFG1_MAX_INFLIGHT_M1 (d.maxInflight - 1)
  let c := c.setFld (CTX_CFG1 x) CTX_CFG1_CQ_LOG2 d.cqLog2
  let c := c.setFld (CTX_CFG1 x) CTX_CFG1_RING_LOG2 d.ringLog2
  let c := setN c (CTX_CTRL x) d.keySlot
  let c := c.rset (CTX_RING_BASE x) d.ringBase
  let c := c.rset (CTX_CQ x) d.cq
  let c := d.wins.zipIdx.foldl (fun c (w, i) =>
    setN (setN (c.rset (CTX_WIN_BASE x i) w.base) (CTX_WIN_LEN x i) w.len) (CTX_WIN_KEY x i) w.key.toNat) c
  let c := (ctxZeros x).foldl (fun c a => c.rset a 0) c
  let c := (c.setFld (CTX_STATUS x) CTX_STATUS_CQ_FULL 0).setFld (CTX_STATUS x) CTX_STATUS_SPILLING 0
  setCtxState (setCtxX c x freshCtx) x stActive

/-- CTX_GRANT (R222). -/
def ctxGrant (src : Src) (d : CtxGrant) (m : M) : Mg :=
  checked m ((srcFm src, .notPermitted) :: grantChecks m.core d) (fun m => accept (m.on (grantedCtx d)))

/-- CTX_REVOKE (R223). -/
def ctxRevoke (src : Src) (x : Nat) (m : M) : Mg :=
  checked m [(srcFm src, .notPermitted), (x < 4096, .badField), (ctxState m.core x ≠ 0, .badState)]
    (fun m => accept (m.on (fun c => revokeCtx c x)))

/-- CTX_FLUSH (R242). -/
def ctxFlush (src : Src) (x : Nat) (m : M) : Mg :=
  checked m [(srcFm src || srcCtx src == x, .notPermitted), (x < 4096, .badField), (ctxState m.core x ≠ 0, .badState)]
    (fun m => accept (m.on (fun c => flushRequest c x false)))

/-! ### The ring and its doorbells (R226 to R236) -/

/-- The dispatcher's copy of ring word `i` is read (R566): a corrected one is counted and written back, an uncorrectable one is
poisoned. -/
def ringErr (c : Core) (x i : Nat) : Core × Bool :=
  let w : CtrlWord := .ring x i
  match ctrlErr c w with
  | .fine => (c, false)
  | .corrected => (correctedStaging (ctrlMend c w) (x % 4) 1, false)
  | .poisoned => (c, true)
  | .uncorrectable =>
    let c := noteStaging (ctrlMend c w) (x % 4)
    ({ c with mem := { c.mem with ctrl := c.mem.ctrl ++ [(w, .poisoned)] } }, true)

/-- Word `i` of a ring, with its poison, read from the ring's backing. -/
def ringWord (m : M) (x i : Nat) : M × Res (List Byte × Bool) :=
  let base := m.core.rget (CTX_RING_BASE x)
  let off := ptrOffset base + 32 * (i % 2 ^ ringLog2 m.core x)
  let ptr := mkPtr m.core.chipId (ptrExtent base) off
  match accessCheck m.core (ctxPart m.core x) (ptrExtent base) off 32 true false with
  | some s => (m, .fail s ptr)
  | none =>
    match readBytes m (x % 4) (ptrExtent base) off 32 with
    | (m, .got b p) =>
      let (c, bad) := ringErr m.core x (i % 2 ^ ringLog2 m.core x)
      ({ m with core := c }, .ok (b, bad || p.any id))
    | (m, .wait k) => (m, .park k)

/-- Words `p` to `p + n` of a ring: their bytes, or the first failure or poison with its pointer. -/
def ringWords : Nat → M → Nat → Nat → M × Res (List Byte)
  | 0, m, _, _ => (m, .ok [])
  | n + 1, m, x, p =>
    andThen (ringWord m x p) (fun m (b, bad) =>
      if bad then
        let base := m.core.rget (CTX_RING_BASE x)
        (m, .fail .poisoned (mkPtr m.core.chipId (ptrExtent base) (ptrOffset base + 32 * (p % 2 ^ ringLog2 m.core x))))
      else andThen (ringWords n m x (p + 1)) (fun m r => (m, .ok (b ++ r))))

/-- The walk of R231 and R232 from pointer `p` with `left` words up to WP: the descriptors that are whole, in order, and where
it stops. -/
def walkRing (port : Nat) : Nat → M → Nat → Nat → Nat → M × Res (List WholeDesc × Nat)
  | 0, m, _, p, _ => (m, .ok ([], p))
  | fuel + 1, m, x, p, left =>
    if left < 2 then (m, .ok ([], p))
    else
      let rest := fun (m : M) (d : WholeDesc) =>
        andThen (walkRing port fuel m x ((p + d.words) % 2 ^ 32) (left - d.words)) (fun m (l, q) => (m, .ok (d :: l, q)))
      match ringWords 2 m x p with
      | (m, .park k) => (m, .park k)
      | (m, .fail s d) => rest m ⟨p, 2, m.core.tick, some s, d, false, List.replicate 64 0, false, port⟩
      | (m, .ok b) =>
        let len := leNat ((b.drop 2).take 2)
        if len < 2 ∨ 1024 < len ∨ 2 ^ ringLog2 m.core x < len then
          rest m ⟨p, 2, m.core.tick, some .badDescriptor, 0, true, b, false, port⟩
        else if len ≤ left then rest m ⟨p, len, m.core.tick, none, 0, true, b, false, port⟩
        else (m, .ok ([], p))

/-- A RING doorbell with VALUE `v` (R229, R231): what it waits for, when a ring word cannot be read yet.
DEDUCED, assumption 38 (unsafe). -/
def ringDoorbell (port x v : Nat) (m : M) : M × Option ParkCause :=
  let c := m.core
  if copiesDiffer c x then (m.on (fun c => ringReset c x), none)
  else
    let wp := regN c (CTX_WP_A x)
    let rp := regN c (CTX_RP_A x)
    let d := sub32 v wp
    if d = 0 ∨ 2 ^ 31 ≤ d then (m, none)
    else if 2 ^ ringLog2 c x < sub32 v rp then (m.on (fun c => rejectDoorbell c x), none)
    else
      let walk := (ctxX c x).walk
      match walkRing port (2 ^ 20) m x walk (sub32 v walk) with
      | (m, .ok (l, p)) =>
        (m.on (fun c => setPtrs (modCtxX c x (fun k => { k with whole := k.whole ++ l, walk := p })) x (v % 2 ^ 32) rp), none)
      | (m, .park k) => (m, some k)
      | (m, .fail _ _) => (m, none)

/-- A CQ doorbell with VALUE `h` (R230). -/
def cqDoorbell (x h : Nat) (c : Core) : Core :=
  let h0 := regN c (CTX_CQ_HEAD x)
  let d := sub32 h h0
  if d = 0 ∨ 2 ^ 31 ≤ d then c
  else if sub32 (regN c (CTX_CQ_TAIL x)) h0 < d then rejectDoorbell c x
  else
    let c := setN c (CTX_CQ_HEAD x) (h % 2 ^ 32)
    let c := c.setFld (CTX_STATUS x) CTX_STATUS_CQ_FULL 0
    (worksOf c x).foldl (fun c w => modWork c x w.num (fun w => { w with recordHeld := false })) c

/-- A doorbell word of kind `kind` for context `x`, from its owner over its transport (R228 to R236).
DEDUCED, assumption 38 (unsafe). -/
def doorbell (port kind x : Nat) (word : W64) (m : M) : M × Ans :=
  let done : Ans := .reply {}
  let v := bitsOf word.toNat 31 0
  let st := ctxState m.core x
  if bitsOf word.toNat 61 32 ≠ 0 ∨ (2 ≤ kind ∧ v ≠ 0) then (m.on (fun c => rejectDoorbell c x), done)
  else if st = stRevoking then ((if kind = 2 then m else m.on (fun c => rejectDoorbell c x)), done)
  else if st = stReset then
    ((if kind = 3 then m.on (fun c => setCtxState c x (if (ctxX c x).flushPending then stFlushing else stActive)) else m), done)
  else match kind with
    | 0 => match ringDoorbell port x v m with
      | (m, some k) => (m, .park k)
      | (m, none) => (m, done)
    | 1 => (m.on (cqDoorbell x v), done)
    | 2 => (m.on (fun c => flushRequest c x true), done)
    | _ => (m, done)

/-- A RING_WRITE (R233): its words, and then its doorbell when the flag is set. -/
def ringWrite (port x ptr len : Nat) (flag : Bool) (data : List Byte) (m : M) : M × Ans :=
  if len % 32 ≠ 0 ∨ 65536 < len ∨ data.length ≠ len then (m, failed .badDescriptor)
  else
    let c := m.core
    let base := c.rget (CTX_RING_BASE x)
    let size := 2 ^ ringLog2 c x * 32
    match accessCheck c (ctxPart c x) (ptrExtent base) (ptrOffset base) size false true with
    | some s => (m, failed s base)
    | none =>
      let at_ := fun i => ptrOffset base + 32 * ((ptr + i) % 2 ^ ringLog2 c x)
      match readyWrites m (ptrExtent base) ((List.range (len / 32)).map (fun i => (at_ i, 32))) with
      | (m, some k) => (m, .park k)
      | (m, none) =>
        let m := (List.range (len / 32)).foldl (fun m i =>
          ((writeBytes m (x % 4) (ptrExtent base) (at_ i) ((data.drop (32 * i)).take 32)).1).on
            (wroteCtrl (x % 4) (.ring x ((ptr + i) % 2 ^ ringLog2 c x)))) m
        if flag then doorbell port 0 x (BitVec.ofNat 64 ((ptr + len / 32) % 2 ^ 32)) m else (m, .reply {})

/-- CTX_QUERY (R496). -/
def ctxQuery (x : Nat) (m : M) : M × Ans :=
  let c := m.core
  (m, .reply { count := c.fld (CTX_QUEUE x) CTX_QUEUE_PACKETS,
               detail := BitVec.ofNat 64 (regN c (CTX_CQ_TAIL x) * 2 ^ 32 + ctxState c x),
               value := c.rget (CTX_TAKEN x),
               value2 := BitVec.ofNat 64 (regN c (CTX_WP_A x) * 2 ^ 32 + regN c (CTX_RP_A x)) })

/-! ### Taking a work (R227, R237 to R245, R255, R381, R403, R409) -/

/-- LENGTH fits the body of a work (R256 and the works' chapters). -/
def lengthOk (opcode len : Nat) : Bool :=
  match opcode with
  | 0x3F => len == 2
  | 0x3E => len == 3
  | 0x04 => 6 ≤ len
  | 0x10 | 0x11 | 0x12 => 5 ≤ len
  | _ => 4 ≤ len

/-- The opcodes of Table 6-8. -/
def opcodeOk (o : Nat) : Bool :=
  [0x01, 0x02, 0x03, 0x04, 0x05, 0x06, 0x07, 0x08, 0x10, 0x11, 0x12, 0x20, 0x21, 0x30, 0x3E, 0x3F].contains o

/-- IDEMPOTENT is permitted by Table 6-8; RASP_PROGRAM's image decides (R403), and never with ACCUM (R337). -/
def idemOk (w : Work) : Bool :=
  match w.opcode with
  | 0x12 => !bitOf (w.field 0x34 2) 1
  | o => [0x01, 0x02, 0x06, 0x07, 0x08, 0x11, 0x30, 0x3E, 0x3F].contains o

/-- A registered program by its handle, for a context of partition `q` (R400, R403). -/
def progSlot (c : Core) (q : Nat) (h : W64) : Status ⊕ (Nat × ProgSlot) :=
  let n := h.toNat
  if 4096 ≤ n then .inl .badDescriptor
  else if n / 256 ≠ q then .inl .accessDenied
  else match amGet? c.rasp.slots n with
    | some p => .inr (n, p)
    | none => .inl .badDescriptor

def progRun (n : Nat) (p : ProgSlot) (entry insts window : Nat) (args : W64) (trap : Option W64) (isRule : Bool) : ProgRun :=
  { slot := n, image := p.image, codeBytes := p.codeBytes, saveBytes := p.saveBytes, entry := p.entries.getD entry 0,
    insts := insts, window := window, args := args, trap := trap, next := 0, ended := 0, count := 0, stopping := false,
    isRule := isRule, ruleRows := [] }

/-- Bytes of one row's record of a RULE PROGRAM frame (R406). -/
def ruleRecord (rowLen : Nat) (moment : Bool) : Nat := (8 + 4 * rowLen * (2 + b2n moment) + 31) / 32 * 32

/-- The program that runs a work, if one does: RASP_PROGRAM, a binding of its opcode, or RULE PROGRAM. -/
def workProg (c : Core) (w : Work) : Status ⊕ Option ProgRun :=
  let q := ctxPart c w.ctx
  match amGet? c.rasp.binds (q * 64 + w.opcode) with
  | some b => match amGet? c.rasp.slots b.slot with
    | some p =>
      if bitOf w.flags 2 && !bitOf p.flags 0 then .inl .badDescriptor
      else .inr (some (progRun b.slot p 0 b.insts b.window 0 none false))
    | none => .inr none
  | none =>
    if w.opcode = 0x30 then
      let insts := w.field 8 4
      let flags := w.field 0x0C 2
      let win := w.field 0x10 4
      if bitsOf flags 15 1 ≠ 0 || w.field 0x0F 1 ≠ 0 || !w.zero 0x14 0x18 || !w.zero 0x28 0x40 || insts < 1 || 1024 < insts ||
          15 < w.field 0x0E 1 || win % 32 ≠ 0 || 4194304 < win ||
          (if bitOf flags 0 then !resOk c w.ctx (w.ptr 0x20) 32 else w.field 0x20 8 ≠ 0) then .inl .badDescriptor
      else match progSlot c q (w.ptr 0) with
        | .inl s => .inl s
        | .inr (n, p) =>
          if bitOf w.flags 2 && !bitOf p.flags 0 then .inl .badDescriptor
          else .inr (some (progRun n p (w.field 0x0E 1) insts win (w.ptr 0x18) (if bitOf flags 0 then some (w.ptr 0x20) else none) false))
    else if w.opcode = 0x04 && w.field 0x14 1 = 3 then
      match progSlot c q (w.ptr 0x58) with
      | .inl s => .inl s
      | .inr (n, p) =>
        match table? c (w.field 0 2) with
        | some t =>
          if !bitOf p.flags 1 || 4096 < t.rowLen then .inl .badDescriptor
          else .inr (some (progRun n p 0 1 (0x20 + 64 * ruleRecord t.rowLen (ruleMoment w)) 0 none true))
        | none => .inr none
    else .inr none

/-- Whether a binding replaces the built-in program, so that the body is not checked (R409). -/
def isBound (c : Core) (w : Work) : Bool := (amGet? c.rasp.binds (ctxPart c w.ctx * 64 + w.opcode)).isSome

/-- The checks of the header, in the order taken here: reserved fields (R11), sync objects (R238), opcode (R255), IDEMPOTENT
(R241) and LENGTH (R256). -/
def headerFail (c : Core) (w : Work) : Option Status :=
  let z := fun (lo hi : Nat) => ((w.desc.drop lo).take (hi - lo)).all (· == 0)
  firstFail [
    (bitsOf w.flags 7 3 == 0 && z 0x0A 0x0C && bitsOf w.syncEn 7 2 == 0 && z 0x11 0x12 && z 0x14 0x18 && z 0x28 0x40,
      .badDescriptor),
    (!foreignSync c w, .accessDenied),
    (opcodeOk w.opcode, .badDescriptor),
    (!bitOf w.flags 2 || idemOk w, .badDescriptor),
    (isBound c w || lengthOk w.opcode w.length, .badDescriptor)]

/-- A window is allocated from the ways on the context's home plinth, or waited for (R381). -/
def allotWindow (c : Core) (w : Work) : Core :=
  if w.winNeed = 0 then c
  else if waysRoom c (ctxPart c w.ctx) (w.ctx % 4) w.winNeed then
    let c := modWork c w.ctx w.num (fun w => { w with winBytes := w.winNeed, winNeed := 0 })
    -- the descriptor's copy is what the window's store takes first (R581)
    let (c, e) := struck c (w.ctx % 4)
    let area : Area := { bytes := [], bad := if e = .poisoned then [0] else [],
                         err := match e with | .corrected => [(0, false)] | .uncorrectable => [(0, true)] | _ => [] }
    { c with rasp := { c.rasp with windows := amSet c.rasp.windows (wkey w.ctx w.num) ⟨w.desc, area⟩ } }
  else c

/-- RSP_FENCED's code, the DETAIL of a work that finds no rasp cluster (R32, R250). -/
def rspFencedCode : W64 := BitVec.ofNat 64 (evCode .rspFenced)

/-- The work just taken is refused, waits for its count, or is ready. -/
def admitWork (c : Core) (w : Work) (fail : Option (Status × W64)) (missed : Bool) : Core :=
  let c := setWork c w
  let c := match fail with
    | some (s, d) => stopWork c w.ctx w.num s d
    | none =>
      if clustersOf c (ctxPart c w.ctx) = [] then stopWork c w.ctx w.num .internalFault rspFencedCode
      else match workProg c w with
        | .inl s => stopWork c w.ctx w.num s
        | .inr p =>
          let need := match p with | some p => 0x8000 + p.window | none => 0
          let c := modWork c w.ctx w.num (fun w => { w with prog := p, winNeed := need })
          let c := match work? c w.ctx w.num with | some w => allotWindow c w | none => c
          if bitOf w.flags 1 && syncFrozen c w.preSync then stopWork c w.ctx w.num .keyRevoked
          else if bitOf w.flags 1 && syncPoisoned c w.preSync then stopWork c w.ctx w.num .poisoned
          else if bitOf w.flags 1 then
            let (c, go) := syncWait c w.preSync w.preValue (.work w.ctx w.num)
            if go then c else (modWork c w.ctx w.num (fun w => { w with phase := .preWait })).count (CTX_PARKS w.ctx)
          else c
  if missed || overdue c w then missDeadline c w.ctx w.num (!missed) else c

/-- The dispatcher takes the next whole descriptor (R227, R245): only in ACTIVE, with an in-flight slot and an op tag free. -/
def takeWork (x : Nat) (m : M) : M :=
  let c := m.core
  if ctxState c x ≠ stActive ∨ ctxInflight c x ≤ inflight c x ∨ 65536 ≤ c.work.tags.length then m
  else if copiesDiffer c x then m.on (fun c => ringReset c x)
  else match (ctxX c x).whole with
    | [] => m
    | d :: _ =>
      let num := regN c (CTX_TAKEN x)
      let go := fun (m : M) (b : List Byte) (fail : Option (Status × W64)) =>
        m.on (fun c =>
          match newTag c with
          | (c, none) => c
          | (c, some tag) =>
            let w := workOf x num b d.tick tag
            let w := { w with noSync := !d.readable || foreignSync c w, port := d.port }
            admitWork (popWhole c x d w.seq) w (fail <|> (headerFail c w).map (·, 0)) d.missed)
      match d.refused with
      | some s => go m d.hdr (some (s, d.detail))
      | none =>
        match ringWords d.words m x d.ptr with
        | (m, .ok b) => go m b none
        | (m, .park _) => m
        | (m, .fail s p) => go m d.hdr (some (s, p))

/-! ### Slices (R246 to R249) -/

/-- Power domain `d` takes new work: it is ON and its pads are not held (R669, R672). -/
def domainServes (c : Core) (d : Nat) : Bool :=
  c.fld (PWR_DOMAIN d) PWR_DOMAIN_STATE == 0 && !c.flag (PWR_DOMAIN d) PWR_DOMAIN_PAD_HELD

/-- The cluster's threads run: it is ON, or still ends its steps. -/
def clusterRuns (c : Core) (k : Nat) : Bool :=
  let s := c.fld (stackReg RSP_STATUS k) RSP_STATUS_STATE
  s == 2 || s == 3

/-- The cluster takes new work. -/
def clusterUp (c : Core) (k : Nat) : Bool := clusterRuns c k && domainServes c (20 + k)

/-- The key by which a context's ready slices are ordered (R249): deadline, continuation before new, order taken.
DEDUCED, assumption 40 (safe). -/
def sliceBefore (a b : Work) : Bool :=
  match lastTick a, lastTick b with
  | some x, some y => x < y || (x == y && (a.started && !b.started || (a.started == b.started && a.num ≤ b.num)))
  | some _, none => true
  | none, some _ => false
  | none, none => a.num ≤ b.num

def readyWorks (c : Core) (x : Nat) : List Work :=
  (worksOf c x).filter (fun w => w.phase == .ready && w.opcode < 0x3E && w.winNeed == 0)

/-- An engine of the partition that is ON and free (R356, R358). -/
def engineFree (c : Core) (n : Nat) : Bool :=
  let s := c.fld (stackReg CE_STATUS n) CE_STATUS_STATE
  (s == 2 || s == 3) && domainServes c (4 + n) && (match amGet? c.work.engines n with | some e => e.holder.isNone | none => true)

/-- An engine taken: invalidated for its new holder (R352). -/
def holdEngine (c : Core) (n ctx num : Nat) : Core :=
  let old := amGet? c.work.engines n
  let e : Engine := { holder := some (ctx, num), panes := [], acts := [], accs := [], cbCache := [], lastCols := 0, busy := [],
                      badWords := [], errTicks := (old.map (·.errTicks)).getD [] }
  { c with work := { c.work with engines := amSet c.work.engines n e } }

def needsEngine (o : Nat) : Bool := o == 0x11 || o == 0x12

/-- A tick's time for works of partition `q` (R60, R66): the period less the first microsecond's telemetry, what housekeeping has
used of its caps, and the expert share while a batch of the partition may still use it. DEDUCED, assumption 40 (safe). -/
def workTime (c : Core) (q : Nat) : Nat :=
  clusterLeft c q - 1000 - sumNat c.tck.used

/-- An estimate of a slice of partition `q`, made to fit within one tick's work time (R66). -/
def fitSlice (c : Core) (q ns : Nat) : Nat := 1 + ns % max 1 (workTime c q)

/-- The estimate of a work's next slice. -/
def sliceEst (c : Core) (w : Work) : Nat := fitSlice c (ctxPart c w.ctx) (Config.sliceNs w.ctx w.num w.step)

/-- Whether the parts that a ready slice needs are there (R356, R358): a cluster that runs, and, for a matrix work, an engine that
is free. A work of a partition that has none at all is dispatched to its failure (R32). -/
def mayDispatch (c : Core) (w : Work) : Bool :=
  let q := ctxPart c w.ctx
  clustersOf c q == [] || ((clustersOf c q).any (clusterUp c) &&
    (!needsEngine w.opcode || w.prog.isSome || enginesOf c q == [] || (enginesOf c q).any (engineFree c)))

/-- The slice that a context's turn goes to (R249): the first of those that can start. -/
def headSlice (c : Core) (x : Nat) : Option Work :=
  let l := (readyWorks c x).filter (mayDispatch c)
  l.find? (fun w => l.all (fun v => sliceBefore w v))

/-- Rounds of WEIGHT × 1 µs that a context needs before it can spend `ns`. -/
def roundsFor (deficit : Int) (weight ns : Nat) : Nat :=
  if (ns : Int) ≤ deficit then 0 else (((ns : Int) - deficit).toNat + weight * 1000 - 1) / max 1 (weight * 1000)

def ctxWeight (c : Core) (x : Nat) : Nat := c.fld (CTX_CFG1 x) CTX_CFG1_WEIGHT

/-- Rounds until context `x` can spend the estimate of its slice, when it has one. -/
def roundsOf (c : Core) (x : Nat) : Option Nat :=
  (headSlice c x).map (fun w => roundsFor (ctxX c x).deficit (ctxWeight c x) (sliceEst c w))

/-- Deficit round robin (R248): no other context of the partition comes to its slice in fewer rounds than context `x` needs to spend
`ns`. -/
def drrTurn (c : Core) (x ns : Nat) : Bool :=
  let k := roundsFor (ctxX c x).deficit (ctxWeight c x) ns
  c.work.ctx.all (fun e => e.1 == x || ctxPart c e.1 ≠ ctxPart c x || (match roundsOf c e.1 with | some j => k ≤ j | none => true))

/-- The rounds pass that let context `x` spend `ns`; contexts with no ready slice keep nothing. -/
def spendDeficit (c : Core) (x ns : Nat) : Core :=
  let k := roundsFor (ctxX c x).deficit (ctxWeight c x) ns
  let c' := { c with work := { c.work with ctx := amMap c.work.ctx (fun y v =>
    if ctxPart c y ≠ ctxPart c x then v
    else if readyWorks c y = [] then { v with deficit := 0 }
    else { v with deficit := v.deficit + k * ctxWeight c y * 1000 }) } }
  modCtxX c' x (fun v => { v with deficit := v.deficit - ns })

/-- An expert batch of the partition comes before its works (R67, R248): one is due, its share of the tick is not used, and an
engine is free for it. -/
def expertsFirst (c : Core) (q : Nat) : Bool :=
  c.work.batches.any (fun b => batchDue c q b && !b.parked) && expertUsed c q < expertShare c && (enginesOf c q).any (engineFree c)

/-- Engines, or clusters, in the dispatcher's order of preference: those on the plinth of the doorbell's port, when there are any
(R27). -/
def preferred (w : Work) (es : List Nat) : List Nat :=
  let near := es.filter (fun e => e / 4 == portHome w)
  if near = [] then es else near

/-- The cluster of a built-in work's slice, of those that run, as the device chooses among the preferred (R4, R27, R407). -/
def placeSlice (c : Core) (w : Work) : Core × Option Nat :=
  if w.prog.isSome then (c, none)
  else match preferred w ((clustersOf c (ctxPart c w.ctx)).filter (clusterUp c)) with
    | [] => (c, none)
    | k :: ks => let (c, i) := c.choose (ks.length + 1); (c, (k :: ks)[i]?)

/-- A slice that resumes after a park runs its step again on this engine (R357). -/
def countRedo (c : Core) (w : Work) (n : Nat) : Core := if w.redo then c.perf (stackReg CE_STEPS_REDONE n) else c

/-- The dispatcher starts the ready slice of a work (R248, R249), by an estimate of `ns` that it makes fit: behind the partition's
expert batches, when it is its context's turn and the work is the context's first, on a powered cluster and, for a matrix work, with a
free engine of the partition. DEDUCED, assumption 40 (safe). -/
def startSlice (x num ns : Nat) (c : Core) : Core :=
  match work? c x num with
  | none => c
  | some w =>
    let c := if w.phase = .ready then allotWindow c w else c
    let q := ctxPart c x
    let ns := fitSlice c q ns
    match headSlice c x with
    | none => c
    | some w =>
      if w.num ≠ num then c
      else if clustersOf c q = [] then stopWork c x num .internalFault rspFencedCode
      else if expertsFirst c q || !drrTurn c x ns then c
      else if needsEngine w.opcode && w.prog.isNone then
        if enginesOf c q = [] then stopWork c x num .formatUnsupported
        else match preferred w ((enginesOf c q).filter (engineFree c)) with
          | [] => c
          | e :: es =>
            let (c, k) := placeSlice c w
            let (c, i) := c.choose (es.length + 1)
            let n := (e :: es).getD i e
            let c := holdEngine (countRedo (spendDeficit c x ns) w n) n x num
            modWork c x num (fun w => { w with phase := .running, engine := some n, cluster := k, redo := false, sliceRows := [] })
      else
        let (c, k) := placeSlice c w
        modWork (spendDeficit c x ns) x num (fun w => { w with phase := .running, cluster := k, sliceRows := [] })

/-- A boundary passes: running slices end their step and yield; the next slice is queued (R67). -/
def yieldSlices (c : Core) : Core :=
  c.work.flight.foldl (fun c (_, w) =>
    if w.phase = .running && w.opcode ≠ 0x21 && w.prog.isNone then
      modWork (giveEngine c w) w.ctx w.num (fun w => { w with phase := .ready, engine := none })
    else c) c

/-! ### Deadlines (R68 to R72) -/

/-- The event of a context's works that missed their deadline in the running tick (R71). -/
def missEvent (c : Core) (x : Nat) : Core :=
  let k := (ctxX c x).missed
  if k = 0 then c else modCtxX (raise c .deadlineMissed 7 x 0 (min k 65535)) x (fun v => { v with missed := 0 })

/-- WORK_DEADLINE: the deadlines of a context's works that have passed, and one event with their number (R70, R71). -/
def workDeadline (x : Nat) (c : Core) : Core := missEvent (missDeadlines c x) x

/-! ### Completion records (R28, R29, R240, R250 to R254) -/

def statusOf (w : Work) : Status := w.status.getD .done

def flagsOf (w : Work) : Nat := b2n w.sat + 2 * b2n w.late + 4 * b2n w.nonfin + 8 * b2n w.stoch

/-- The record of Table 6-5 for the `t`-th completion. -/
def recordBytes (w : Work) (t log2 tick : Nat) : List Byte :=
  let phase := if bitOf t log2 then 0 else 128
  natLe 4 w.seq ++ natLe 1 w.opcode ++ natLe 1 (statusCode (statusOf w)) ++ natLe 1 (flagsOf w + phase) ++ natLe 1 0 ++
  natLe 8 w.user.toNat ++ natLe 8 w.detail.toNat ++ natLe 4 tick ++ natLe 4 w.count

/-- Every write of the work is acknowledged, and no update of it waits in a merge queue (R28). -/
def mayRecord (c : Core) (w : Work) : Bool := w.phase == .ended && w.unacked == 0 && w.queued == 0 && !w.owes && writesMade c w.tag

/-- A work of a partition that is being removed: its record goes out once and the work is out of flight (R649). -/
def removingWork (c : Core) (w : Work) : Bool := c.fld (SEC_PART (ctxPart c w.ctx)) SEC_PART_STATE == 3

/-- The completion record of an ended work is written (R250), unless SUPPRESS leaves it out (R240) or the completion ring is
full (R251). -/
def writeRecord (x num : Nat) (c : Core) : Core :=
  match work? c x num with
  | none => c
  | some w =>
    if !mayRecord c w then c
    else
      let c := if notMissed c w then c else missDeadline c x num true
      match work? c x num with
      | none => c
      | some w =>
        if suppressed w then leaveFlight c x num
        else
          let t := regN c (CTX_CQ_TAIL x)
          if 2 ^ cqLog2 c x ≤ sub32 t (regN c (CTX_CQ_HEAD x)) then
            (modWork c x num (fun w => { w with recordHeld := true })).setFld (CTX_STATUS x) CTX_STATUS_CQ_FULL 1
          else
            let b := recordBytes w t (cqLog2 c x) c.tick
            let c := setN c (CTX_CQ_TAIL x) ((t + 1) % 2 ^ 32)
            let c := if w.late then (c.count (CTX_LATE x)).count TCK_LATE else c
            let a := c.rget (CTX_CQ x) + BitVec.ofNat 64 (t % 2 ^ cqLog2 c x * 32)
            if removingWork c w then
              let win := bitsOf a.toNat 63 62
              let c := c.send {
                dst := .agent (ctxOwner c x), type := 0x13, cls := 0, ctx := if ctxRdma c x then x else 0xFFFF,
                body := [bitsOf a.toNat 61 0, 32, regN c (CTX_WIN_KEY x win), regN c (CTX_WIN_BASE x win)], data := b, work := none }
              leaveFlight c x num
            else
              let c := modWork c x num (fun w => { w with phase := .recorded })
              agentWrite c x num a b true

/-- The agent's transport has acknowledged the record: the work leaves flight (R29). -/
def recordAcked (x num : Nat) (c : Core) : Core :=
  match work? c x num with
  | some w =>
    if w.phase = .recorded && c.net.ackedRecords.contains (x, num) then
      leaveFlight { c with net := { c.net with ackedRecords := c.net.ackedRecords.filter (· != (x, num)) } } x num
    else c
  | none => c

end Sys2Proof.Machine
end

