-- ==== Sys2Proof/Machine/Ports.lean ====
section
/-! DEFINITION. Ports: links, egress scheduling (R528 to R531), and ingress policing (R532 to R534). -/

namespace Sys2Proof.Machine
open Sys2Proof

def freshPort : PortSt := { queue := [], last := [], head := [], sending := none, paused := [], policers := [] }

def portSt (c : Core) (n : Nat) : PortSt := amGet c.net.ports n freshPort
def setPort (c : Core) (n : Nat) (p : PortSt) : Core := { c with net := { c.net with ports := amSet c.net.ports n p } }

/-- Sub-port n.k has link. -/
def linkUp (c : Core) (n k : Nat) : Bool := bitOf (c.fld (MAC_STATUS n) MAC_STATUS_LINK_UP) k

/-- Sub-ports of a mode (Table 13-1). -/
def subPorts (c : Core) (n : Nat) : Nat :=
  match c.fld (MAC_CFG n) MAC_CFG_MODE with | 0 => 1 | 1 => 2 | _ => 4

/-- A logical port that exists. -/
def portOk (c : Core) (n k : Nat) : Bool := n < 16 && k < subPorts c n

def ringPort (n : Nat) : Bool := 12 ≤ n && n < 16

/-! ### Flows -/

/-- Message types of the first level of R528: ACK, PROBE and PROBE_REPLY everywhere; on ring ports also TICK, HEARTBEAT and
the ring management messages. -/
def strictType (port type : Nat) : Bool :=
  type == 1 || type == 2 || type == 3 ||
    (ringPort port && (type == 0x70 || type == 0x71 || type == 0x72 || type == 0x73 || (0x76 ≤ type && type ≤ 0x79)))

/-- The flow of a packet and its weight (R529). Flow numbers: a context's own; 4,096 + q for partition q; 4,112 for
management; 4,113 for housekeeping. -/
def flowOf (c : Core) (port type ctx : Nat) (part : Option Nat) : Nat × Nat :=
  if ringPort port && type == 0x7A then (4113, c.fld (SCH_CTRL port) SCH_CTRL_HK_WEIGHT)
  else if !ringPort port && ctx < 4096 then (ctx, c.fld (CTX_CFG1 ctx) CTX_CFG1_WEIGHT)
  else match part with
    | some q => (4096 + q, c.fld (SCH_PART port q) SCH_PART_WEIGHT)
    | none => (4112, c.fld (SCH_CTRL port) SCH_CTRL_MGT_WEIGHT)

/-- The DSCP of a Frieze packet (R531). -/
def dscpOf (c : Core) (port cls type : Nat) : Nat :=
  let a := SCH_DSCP port
  if strictType port type then c.fld a SCH_DSCP_MGT
  else match cls with
    | 0 => c.fld a SCH_DSCP_REQ
    | 1 => c.fld a SCH_DSCP_RSP
    | _ => c.fld a SCH_DSCP_MGT

/-! ### The egress queue (R530) -/

/-- Bytes waiting in the port's queues (`SCH_QUEUE`), and their greatest number. -/
def queueBytes (p : PortSt) : Nat := (p.queue.map (·.len)).foldl (· + ·) 0

def noteQueue (c : Core) (n : Nat) : Core :=
  let b := min (queueBytes (portSt c n)) (2 ^ 24 - 1)
  let c := c.setFld (SCH_QUEUE n) SCH_QUEUE_BYTES b
  if c.fld (SCH_QUEUE_PEAK n) SCH_QUEUE_PEAK_BYTES < b then c.setFld (SCH_QUEUE_PEAK n) SCH_QUEUE_PEAK_BYTES b else c

/-- The tag of a packet that reaches the head of its flow: S + ceil((L + OVERHEAD) × 256 / w), modulo 2^32. -/
def finishTag (c : Core) (n s len weight : Nat) : Nat :=
  (s + ((len + c.fld (SCH_CTRL n) SCH_CTRL_OVERHEAD) * 256 + weight - 1) / max 1 weight) % 2 ^ 32

/-- The head packet of a flow is given its tag, from `s`. -/
def tagHead (c : Core) (n flow s : Nat) : Core :=
  let p := portSt c n
  match p.queue.find? (fun f => !f.strict && f.flow == flow) with
  | none => setPort c n { p with head := amDel p.head flow }
  | some f =>
    let t := finishTag c n s f.len f.weight
    setPort c n { p with head := amSet p.head flow t, last := amSet p.last flow t }

/-- A frame can start: its sub-port has link and PFC does not pause its priority. -/
def frameReady (c : Core) (n : Nat) (f : EgFrame) : Bool :=
  linkUp c n f.sub && amGet (portSt c n).paused (Config.pfcPriority f.dscp % 8) 0 ≤ c.glb.now

/-- Tag `a` is less than `b` in serial arithmetic, the lower flow first among equals. -/
def tagBefore (a b : Nat × Nat) : Bool := serialNewer b.2 a.2 || (a.2 == b.2 && a.1 < b.1)

/-- The flow whose head has the least tag. -/
def leastHead : List (Nat × Nat) → Option (Nat × Nat)
  | [] => none
  | h :: t => match leastHead t with
    | none => some h
    | some b => some (if tagBefore b h then b else h)

/-- Element `i` of a list taken out. -/
def dropAt {α : Type} (l : List α) (i : Nat) : List α := l.take i ++ l.drop (i + 1)

/-- An idle port starts a frame: the first of the first level, else the head with the least tag, whose tag becomes V. A port
that has frames and can start none stalls. -/
def startPort (c : Core) (n : Nat) : Core :=
  let p := portSt c n
  if p.sending.isSome || p.queue = [] then c
  else match p.queue.findIdx? (fun f => f.strict && frameReady c n f) with
    | some i => noteQueue (setPort c n { p with sending := p.queue[i]?, queue := dropAt p.queue i }) n
    | none =>
      let heads := p.head.filter (fun h => match p.queue.find? (fun f => !f.strict && f.flow == h.1) with
        | some f => frameReady c n f
        | none => false)
      match leastHead heads with
      | none => let (c, k) := c.draw; c.perf (SCH_STALL_CYCLES n) (Config.choice k)
      | some (flow, tag) =>
        match p.queue.findIdx? (fun f => !f.strict && f.flow == flow) with
        | none => c
        | some i =>
          let c := setPort c n { p with sending := p.queue[i]?, queue := dropAt p.queue i }
          let c := c.rset (SCH_VTIME n) (BitVec.ofNat 64 tag)
          noteQueue (tagHead c n flow tag) n

/-- A frame joins the port's queue. -/
def enqueueFrame (c : Core) (n : Nat) (f : EgFrame) : Core :=
  let p := portSt c n
  let fresh := !f.strict && !p.queue.any (fun g => !g.strict && g.flow == f.flow)
  let c := setPort c n { p with queue := p.queue ++ [f] }
  let c := if fresh then tagHead c n f.flow (c.rget (SCH_VTIME n)).toNat else c
  startPort (noteQueue c n) n

/-- A port finishes sending a frame and starts the next (R530). -/
def frameSent (n : Nat) (c : Core) : Core :=
  let p := portSt c n
  match p.sending with
  | none => c
  | some f =>
    let c := setPort c n { p with sending := none }
    let c := c.perf (MAC_TX_FRAMES n f.sub)
    let c := if f.type < 0x80 then c.perf (FZT_TX_PACKETS n) else c
    let c := c.perf (SCH_TX_BYTES n) f.len
    let c := if f.transit then c.perf (SCH_TRANSIT_PACKETS n) else c
    startPort c n

/-- A PFC frame (R464): a priority enabled in PFC_EN pauses for its quanta of 512 bit times, or resumes with none.
DESIGN CHOICE, assumption 59 (safe). -/
def pfcFrame (n : Nat) (quanta : List Nat) (c : Core) : Core :=
  let rate := match c.fld (MAC_CFG n) MAC_CFG_MODE with | 0 => 800 | 1 => 400 | _ => 200
  let c := quanta.zipIdx.foldl (fun c (q, j) =>
    if q < 65536 && j < 8 && bitOf (c.fld (MAC_CTRL n) MAC_CTRL_PFC_EN) j then
      let p := portSt c n
      setPort c n { p with paused := amPut 0 p.paused j (if q = 0 then 0 else c.glb.now + (q * 512 + rate - 1) / rate) }
    else c) c
  startPort c n

/-! ### Ingress -/

/-- A frame longer than MAC_MAX_FRAME.BYTES is dropped and counted (R465); any other is counted as received. -/
def rxFrame (c : Core) (n k len : Nat) : Core × Bool :=
  if c.fld (MAC_MAX_FRAME n) MAC_MAX_FRAME_BYTES < len then (c.count (MAC_FCS_ERRORS n k), false)
  else ((c.perf (MAC_RX_FRAMES n k)).perf (SCH_RX_BYTES n) len, true)

/-- A policer that no register write has changed (Table 14-7): its buckets are full. -/
def freshPolicer : Policer :=
  { regs := [8 * 2 ^ 16 + 10 * 2 ^ 8 + 4, 800000, 800000, 1048576, 1048576, 0, 0, 0, 0], tc := 1048576 * 8000,
    tp := 1048576 * 8000, time := 0 }

def polReg (p : Policer) (i : Nat) : Nat := (p.regs.getD i 0).toNat

def policer (c : Core) (n k : Nat) : Policer := amGet (portSt c n).policers k freshPolicer
def setPolicer (c : Core) (n k : Nat) (p : Policer) : Core :=
  let q := portSt c n
  setPort c n { q with policers := amSet q.policers k p }

/-- The buckets filled up to the time base: MBPS is bits in each µs, so one part in 8,000 of a byte for each ns (R533). -/
def refill (c : Core) (p : Policer) : Policer :=
  let dt := c.glb.now - p.time
  { p with tc := min (p.tc + polReg p 1 % 2 ^ 20 * dt) (polReg p 3 * 8000),
           tp := min (p.tp + polReg p 2 % 2 ^ 20 * dt) (polReg p 4 * 8000), time := c.glb.now }

/-- The colour of a packet of `len` bytes with an arriving DSCP (Table 14-5): 0 green, 1 yellow, 2 red; and the buckets after
it. -/
def colour (p : Policer) (len dscp : Nat) : Nat × Policer :=
  let ctl := polReg p 0
  let b := len * 8000
  let arr := if !bitOf ctl 0 then 0 else if dscp == bitsOf ctl 21 16 then 2 else if dscp == bitsOf ctl 13 8 then 1 else 0
  if arr = 2 ∨ p.tp < b then (2, p)
  else if arr = 1 ∨ p.tc < b then (1, { p with tp := p.tp - b })
  else (0, { p with tp := p.tp - b, tc := p.tc - b })

/-- A request packet of partition `q` on fabric port `n` is policed (R532 to R534): whether it is dropped. -/
def police (c : Core) (n q len dscp : Nat) : Core × Bool :=
  let a := SCH_PART n q
  if ringPort n || !c.flag a SCH_PART_POLICE_EN then (c, false)
  else
    let k := c.fld a SCH_PART_POLICER
    let (col, p) := colour (refill c (policer c n k)) len dscp
    let drop := (col = 1 && bitOf (polReg p 0) 1) || (col = 2 && bitOf (polReg p 0) 2)
    let frozen := c.flag GLB_CTRL GLB_CTRL_PERF_FREEZE
    let bump := fun (l : List W64) i => if frozen then l else listMod l i (fun v => perfAdd v 1)
    let regs := bump p.regs (5 + col)
    (setPolicer c n k { p with regs := if drop then bump regs 8 else regs }, drop)

end Sys2Proof.Machine
end

