-- ==== Sys2Proof/Machine/NetBase.lean ====
section
/-! DEFINITION. Frieze sessions (R466 to R497): sending under credits and the window, acknowledgement, retransmission, the
checks of a packet that arrives, and the states of a session. -/

namespace Sys2Proof.Machine
open Sys2Proof

/-! ### Endpoints and sessions -/

/-- Endpoint IDs (R466). -/
def agentEp (id : Nat) : Nat := id
def chipEp (id : Nat) : Nat := 2 ^ 28 + id
def fmEp (inst : Nat) : Nat := 2 * 2 ^ 28 + inst

/-- A well-formed endpoint ID. -/
def epOk (ep : Nat) : Bool :=
  ep < 65536 || (2 ^ 28 ≤ ep && ep < 2 ^ 28 + 4096) || (2 * 2 ^ 28 ≤ ep && ep < 2 * 2 ^ 28 + 65536)

def sess? (c : Core) (s : Nat) : Option Session := amGet? c.net.sessions s
def setSess (c : Core) (s : Nat) (x : Session) : Core := { c with net := { c.net with sessions := amSet c.net.sessions s x } }
def modSess (c : Core) (s : Nat) (f : Session → Session) : Core :=
  { c with net := { c.net with sessions := amMod c.net.sessions s f } }

/-- Packet state flows: OPEN or HOLD. -/
def sessLive (x : Session) : Bool := x.st == .opened || x.st == .hold

/-- The ring session of ring port n (R509). -/
def ringSess (n : Nat) : Nat := 8188 + (n - 12)

/-- The lowest session that a peer holds: live ones first, then lost ones. -/
def sessionOf (c : Core) (want : Session → Bool) : Option Nat :=
  match c.net.sessions.find? (fun s => s.1 < 8188 && want s.2 && sessLive s.2) with
  | some s => some s.1
  | none => (c.net.sessions.find? (fun s => s.1 < 8188 && want s.2 && s.2.st == .lost)).map (·.1)

/-- The session a message goes on. -/
def peerSession (c : Core) : Peer → Option Nat
  | .session s => some s
  | .agent a => sessionOf c (fun x => x.remote == agentEp a)
  | .fm => sessionOf c (fun x => x.remote / 2 ^ 28 == 2)
  | .dir d =>
    let n := dirPort c d none
    some (ringSess n)
  | .sideband => none

/-! ### Credits and sizes -/

def cut16 (a b : Nat) : Nat := (a % 2 ^ 16 + 2 ^ 16 - b % 2 ^ 16) % 2 ^ 16
def cut32 (a b : Nat) : Nat := (a % 2 ^ 32 + 2 ^ 32 - b % 2 ^ 32) % 2 ^ 32

/-- Datagram bytes around a payload: header, NONCE_CTR and tag when encrypted, CRC (R471). -/
def datagram (payload : Nat) (enc : Bool) : Nat := 48 + payload + 4 + (if enc then 24 else 0)

/-- A credit is 256 bytes (R481). -/
def pktCost (d : Nat) : Nat := (d + 255) / 256

/-- The frame that carries a datagram: MAC addresses, tag, type, IP and UDP headers, FCS. DEDUCED, assumption 83 (safe). -/
def frameLen (vlan ip d : Nat) : Nat :=
  14 + (if vlan = 0 then 0 else 4) + (if ip / 2 ^ 32 = 0xFFFF then 20 else 40) + 8 + d + 4

/-- A message's data travels in packets of 4,096 bytes (R485). -/
def dataTypes (t : Nat) : Bool := t == 0x13 || t == 0x14 || t == 0x74 || t == 0x75 || t == 0x7A
def pktCount (m : OutMsg) : Nat := if dataTypes m.type then max 1 ((m.data.length + 4095) / 4096) else 1

/-- Payload bytes of the packet at an offset (Tables 13-9 to 13-11, R493). -/
def payloadBytes (m : OutMsg) (off : Nat) : Nat :=
  let chunk := min 4096 (m.data.length - off)
  if m.type == 0x13 || m.type == 0x14 then 32 + chunk
  else if m.type == 0x1F || m.type == 0x38 then 32
  else if m.type == 0x40 then 24 + m.data.length
  else min 4128 (Config.bodyBytes m.type m.body % 4129 + chunk)

def getCr (x : Session) (cls : Nat) : Credits := x.credits.getD cls ⟨0, 0, 0, 0, 0, 0, 0, 0⟩
def modCr (x : Session) (cls : Nat) (f : Credits → Credits) : Session := { x with credits := listMod x.credits cls f }

/-- Normal credits available for a class, and replay credits (R481, R483). -/
def crLeft (k : Credits) : Nat := k.allow - cut16 k.used k.freed
def rcrLeft (k : Credits) : Nat := k.rallow - cut16 k.rused k.rfreed

/-! ### Sending -/

/-- A message that will not be sent any more: its op tag retires. -/
def dropOut (c : Core) (m : OutMsg) : Core := match m.tag with | some t => dropTag c t | none => c

/-- A work whose results or record are discarded leaves flight without a record (Table 13-3, R497). -/
def abandonWork (c : Core) (x num : Nat) : Core :=
  match work? c x num with
  | none => c
  | some w => revokeCheck (flushCheck (delWork (dropTag (unwait c (.work x num)) w.tag) x num) x) x

/-- A message that no session can carry or hold is discarded. -/
def discardOut (c : Core) (m : OutMsg) : Core :=
  let c := dropOut c m
  match m.work with
  | some (x, num, _) => abandonWork c x num
  | none => c

/-- The context is REVOKING and its owner holds no lease: the expiry flushed it, and its writes are discarded (R497).
DEDUCED, assumption 36 (unsafe). -/
def leaseGone (c : Core) (x : Nat) : Bool := x < 4096 && ctxState c x == 4 && (amGet? c.ext.leases (ctxOwner c x)).isNone

/-- A message joins a session: packets that wait to be sent, a write held while the session is LOST, or nothing (Table
13-13). DESIGN CHOICE, assumption 56 (safe). -/
def queueMsg (c : Core) (s : Nat) (m : OutMsg) : Core :=
  match sess? c s with
  | none => discardOut c m
  | some x =>
    if sessLive x then
      let uid := x.nextUid
      let pkts := (List.range (pktCount m)).map (fun i =>
        ({ uid := uid, off := 4096 * i, bytes := payloadBytes m (4096 * i), path := 0, seq := 0, sent := 0, lastSent := 0,
           doublings := 0, due := false } : TxPkt))
      setSess c s { x with
        nextUid := uid + 1, txPkts := x.txPkts ++ pkts, txMsgs := x.txMsgs ++ [⟨uid, m, pkts.length⟩],
        asked := if m.type = 0x7A then x.asked ++ [(uid % 2 ^ 32, m)] else x.asked }
    else if x.st = .lost && m.type = 0x13 && !leaseGone c m.ctx then setSess c s { x with held := x.held ++ [m] }
    else discardOut c m

/-- Paths that are UP, by index. -/
def upPaths (x : Session) : List Nat := (List.range x.paths.length).filter (fun i => (x.paths[i]?).any (·.up))

/-- The path for a packet: that of its message's other packets while it is UP, for a retransmission another one when there
is one, else one that the device chooses (R469, R479). DESIGN CHOICE, assumption 56 (safe). -/
def choosePath (c : Core) (x : Session) (p : TxPkt) : Core × Option Nat :=
  let ups := upPaths x
  let used := if 0 < p.sent then [] else
    ((x.txPkts.filter (fun q => q.uid == p.uid && 0 < q.sent)).map (·.path)).filter (ups.contains ·)
  let pool := if 0 < p.sent && 1 < ups.length then ups.filter (· != p.path) else ups
  match used, pool with
  | i :: _, _ => (c, some i)
  | [], [] => (c, none)
  | [], l => let (c, k) := c.choose l.length; (c, l[k]?)

/-- The oldest unacknowledged SEQ. -/
def oldestSeq (x : Session) : Nat :=
  ((x.txPkts.filter (0 < ·.sent)).map (·.seq)).foldl (fun a s => if cut32 x.txSeq a < cut32 x.txSeq s then s else a) x.txSeq

/-- The packet may be transmitted now: a first copy within the window and the normal credits, a retransmission within the
replay credits (R476, R481, R483). -/
def maySend (x : Session) (m : OutMsg) (p : TxPkt) : Bool :=
  let cost := pktCost (datagram p.bytes true)
  if p.sent = 0 then cost ≤ crLeft (getCr x m.cls) && cut32 x.txSeq (oldestSeq x) < 4096
  else cost ≤ rcrLeft (getCr x m.cls)

/-- The ACK_MAP of what has landed beyond rxBase: bit i for rxBase + 1 + i (Table 13-4). -/
def ackMap (x : Session) : Nat := (x.landed.map (fun q => 2 ^ (cut32 q (x.rxBase + 1)))).foldl (· + ·) 0

/-- The headers of a packet of session `s` on a path, under a key slot whose NONCE_CTR advances with every packet (R471 to R473).
No first copy asks for an acknowledgement by ACK_REQ. DESIGN CHOICE, assumption 104 (unsafe). -/
def frameHead (c : Core) (s : Nat) (x : Session) (a : Path) (cls slot : Nat) (first last : Bool) : Core × FrameHead :=
  let n := amGet c.net.nonce slot 0
  ({ c with net := { c.net with nonce := amSet c.net.nonce slot (n + 1) } }, {
    mac := a.mac, vlan := a.vlan, ip := a.ip, udpSrc := 0xC000 + s % 16384, udpDst := c.fld FZT_CTRL FZT_CTRL_UDP_PORT, cls := cls,
    enc := true, srcEp := chipEp c.chipId, dstEp := x.remote, epoch := x.epoch, ackBase := x.rxBase, ackMap := ackMap x % 2 ^ 64,
    crReq := (getCr x 0).given, crRsp := (getCr x 1).given, crMgt := (getCr x 2).given, first := first, last := last,
    key := slot, nonce := n })

/-- The partition a message belongs to, for its flow. -/
def msgPart (m : OutMsg) : Option Nat :=
  if m.type = 0x74 then m.body[5]? else if m.type = 0x75 then m.body[2]? else none

/-- A copy of packet `p` of message `t` goes to the port of a path. -/
def transmit (c : Core) (s : Nat) (t : TxMsg) (p : TxPkt) : Core :=
  match sess? c s with
  | none => c
  | some x => match choosePath c x p with
    | (c, none) => c
    | (c, some i) => match x.paths[i]? with
      | none => c
      | some a =>
        let d := datagram p.bytes true
        let cost := pktCost d
        let first := p.sent == 0
        let seq := if first then x.txSeq else p.seq
        let m := t.msg
        let (flow, w) := flowOf c a.port m.type m.ctx (msgPart m)
        let slot := if m.ctx < 4096 then c.fld (CTX_CTRL m.ctx) CTX_CTRL_KEY_SLOT else x.peerKey
        let off := (m.part.map (·.1)).getD 0 + p.off
        let (c, head) := frameHead c s x a m.cls slot (off == 0)
          (!dataTypes m.type || ((m.part.map (·.2)).getD m.data.length) ≤ off + 4096)
        let fr : EgFrame := {
          sub := a.sub, strict := strictType a.port m.type, flow := flow, weight := w, len := frameLen a.vlan a.ip d,
          dscp := dscpOf c a.port m.cls m.type, type := m.type, ctx := m.ctx, session := s, seq := seq,
          xid := m.xid.getD (t.uid % 2 ^ 32), off := off, retx := !first, transit := m.transit, body := m.body,
          data := (m.data.drop p.off).take 4096, head := head }
        let x := modCr x m.cls (fun k => if first then { k with used := (k.used + cost) % 2 ^ 16 }
          else { k with rused := (k.rused + cost) % 2 ^ 16 })
        let x := { x with
          txSeq := if first then (x.txSeq + 1) % 2 ^ 32 else x.txSeq, sinceAck := 0,
          txPkts := x.txPkts.map (fun q => if q.uid = p.uid ∧ q.off = p.off then
            { q with seq := seq, sent := q.sent + 1, lastSent := c.glb.now, path := i, due := false } else q) }
        let c := setSess c s x
        let c := if first then c else c.count (FZT_RETRANSMITS a.port)
        enqueueFrame c a.port fr

/-- A first copy waits for credits: its port stalls (`SCH_STALL_CYCLES`), for as long as the spec leaves open. -/
def creditStall (c : Core) (x : Session) : Core :=
  match (upPaths x).head?.bind (x.paths[·]?) with
  | some a => let (c, k) := c.draw; c.perf (SCH_STALL_CYCLES a.port) (Config.choice k)
  | none => c

/-- Packets of an OPEN session that may go out do: retransmissions that are due, and first copies in order within their
class. `stuck` lists the classes of which a first copy waits. -/
def pumpPkts : Core → Nat → List Nat → List TxPkt → Core
  | c, _, _, [] => c
  | c, s, stuck, p :: t =>
    match (sess? c s).bind (fun x => (x.txMsgs.find? (fun m => m.uid == p.uid)).map (fun m => (x, m))) with
    | none => pumpPkts c s stuck t
    | some (x, m) =>
      let wants := p.due || p.sent == 0
      if !wants || (p.sent == 0 && stuck.contains m.msg.cls) then pumpPkts c s stuck t
      else if maySend x m.msg p then pumpPkts (transmit c s m p) s stuck t
      else if p.sent == 0 then pumpPkts (creditStall c x) s (m.msg.cls :: stuck) t
      else pumpPkts c s stuck t

def pump (c : Core) (s : Nat) : Core :=
  match sess? c s with
  | some x => if x.st = .opened then pumpPkts c s [] x.txPkts else c
  | none => c

/-- An ACK, PROBE or PROBE_REPLY goes out on a path: SEQ 0, no credits (R478), under the peer key. Its header acknowledges too
(R477). -/
def sendPlain (c : Core) (s i type : Nat) (payload : Nat) (body : List Nat) : Core :=
  match sess? c s with
  | none => c
  | some x => match x.paths[i]? with
    | none => c
    | some a =>
      let (c, head) := frameHead c s x a 0 x.peerKey true true
      let c := modSess c s (fun x => { x with sinceAck := 0 })
      enqueueFrame c a.port {
        sub := a.sub, strict := true, flow := 0, weight := 1, len := frameLen a.vlan a.ip (datagram payload true),
        dscp := c.fld (SCH_DSCP a.port) SCH_DSCP_MGT, type := type, ctx := 0xFFFF, session := s, seq := 0, xid := 0, off := 0,
        retx := false, transit := false, body := body, data := [], head := head }

/-- An ACK packet (Table 13-6). While the session is HOLD only PROBEs go out (R495). -/
def sendAck (c : Core) (s : Nat) : Core :=
  match sess? c s with
  | none => c
  | some x =>
    if x.st ≠ .opened then c
    else match upPaths x with
      | [] => c
      | ups =>
        let (c, k) := c.choose ups.length
        let bytes := (x.landed.map (fun q => cut32 q (x.rxBase + 1) / 8 + 1)).foldl max 0
        sendPlain c s (ups.getD k 0) 1 (16 + bytes)
          [x.rxBase, bytes, (getCr x 0).rgiven, (getCr x 1).rgiven, (getCr x 2).rgiven, ackMap x]

/-! ### Acknowledgement from the peer -/

/-- Every packet of a message is acknowledged: an op tag retires, and a work's write or record is acknowledged (R484,
R491). -/
def msgAcked (c : Core) (m : OutMsg) : Core :=
  let c := dropOut c m
  match m.work with
  | some w => { c with net := { c.net with ackedWrites := c.net.ackedWrites ++ [w] } }
  | none => c

/-- Messages without an unacknowledged packet are finished. -/
def finishMsgs (c : Core) (s : Nat) : Core :=
  match sess? c s with
  | none => c
  | some x =>
    let left := fun (t : TxMsg) => (x.txPkts.filter (fun p => p.uid == t.uid)).length
    let done := x.txMsgs.filter (fun t => left t == 0)
    let rest := (x.txMsgs.filter (fun t => left t != 0)).map (fun t => { t with left := left t })
    done.foldl (fun c t => msgAcked c t.msg) (setSess c s { x with txMsgs := rest })

/-- Acknowledgement `base` with later sequence numbers `landed` (a test), which arrived on a port (R477, R479). -/
def ackRx (c : Core) (s base : Nat) (landed : Nat → Bool) (port sub : Nat) : Core :=
  match sess? c s with
  | none => c
  | some x =>
    let acked := fun (p : TxPkt) => 0 < p.sent && ((0 < cut32 base p.seq && cut32 base p.seq ≤ 2 ^ 31) || landed p.seq)
    let rto := c.fld FZT_TIMER0 FZT_TIMER0_RTO_US * 1000
    let later := fun (p : TxPkt) => (x.txPkts.filter (fun q => 0 < q.sent && landed q.seq && 0 < cut32 q.seq p.seq &&
      cut32 q.seq p.seq < 2 ^ 31)).length
    let laterSeen := fun (p : TxPkt) => max (later p)
      ((List.range 4096).filter (fun i => landed ((p.seq + 1 + i) % 2 ^ 32))).length
    let pk := (x.txPkts.filter (fun p => !acked p)).map (fun p =>
      if 0 < p.sent && 3 ≤ laterSeen p && (p.sent = 1 || p.lastSent + rto ≤ c.glb.now) then { p with due := true } else p)
    let paths := x.paths.map (fun a => if a.port = port ∧ a.sub = sub then { a with timeouts := 0 } else a)
    finishMsgs (setSess c s { x with txPkts := pk, paths := paths }) s

/-- Bit j of an acknowledgement's map stands for base + 1 + j. -/
def mapTest (base : Nat) (map bits : Nat) (q : Nat) : Bool :=
  let d := cut32 q (base + 1)
  d < bits && bitOf map d

/-! ### Session states (Table 13-3) -/

/-- Path `i` goes DOWN; the last one puts the session in HOLD and starts the grace timer (R469, R470). -/
def pathDown (c : Core) (s i : Nat) : Core :=
  match sess? c s with
  | none => c
  | some x =>
    let x := { x with paths := listMod x.paths i (fun a => { a with up := false }) }
    if x.st = .opened && upPaths x = [] then
      setSess c s { x with st := .hold, graceEnd := c.glb.now + c.fld FZT_TIMER1 FZT_TIMER1_GRACE_MS * 1000000 }
    else
      -- unacknowledged packets of the path are resent on another (R479)
      let pkts := x.txPkts.map (fun p => if x.st = .opened && 0 < p.sent && p.path = i then { p with due := true } else p)
      setSess c s { x with txPkts := pkts }

/-- A path comes UP: a HOLD session is OPEN again and resends what is unacknowledged. -/
def pathUp (c : Core) (s i : Nat) : Core :=
  match sess? c s with
  | none => c
  | some x =>
    let x := { x with paths := listMod x.paths i (fun a => { a with up := true, timeouts := 0 }) }
    if x.st = .hold then
      pump (setSess c s { x with st := .opened, txPkts := x.txPkts.map (fun p => if 0 < p.sent then { p with due := true } else p) }) s
    else pump (setSess c s x) s

/-- The packet state of a session is discarded (R495, R496): work writes are held, every other message is discarded, the op
tags of its requests are released. -/
def flushSession (c : Core) (s : Nat) (st : SessSt) : Core :=
  match sess? c s with
  | none => c
  | some x =>
    let writes := (x.txMsgs.filter (fun t => t.msg.type == 0x13 && t.msg.work.isSome)).map (·.msg)
    let others := (x.txMsgs.filter (fun t => !(t.msg.type == 0x13 && t.msg.work.isSome))).map (·.msg)
    let c := others.foldl dropOut c
    let mine := fun (r : Request) => match r.sender with | .session t _ => t == s | _ => false
    let c := (c.net.requests.filter mine).foldl (fun c r => dropTag (unwait c (.request r.tag)) r.tag) c
    let c := (c.net.mgmtTags.filter (fun t => t.1 == x.remote)).foldl (fun c t => dropTag c t.2.2) c
    let c := { c with net := { c.net with
      mgmtTags := c.net.mgmtTags.filter (fun t => t.1 != x.remote),
      requests := c.net.requests.filter (fun r => !mine r), stalled := c.net.stalled.filter (fun r => !mine r.1) } }
    setSess c s { x with
      st := st, txSeq := 0, rxBase := 0, landed := [], sinceAck := 0, txPkts := [], txMsgs := [], asm := [], asked := [],
      credits := [], rxCredits := 0, paths := [], held := x.held ++ writes }

/-- Held work writes are discarded; their works leave flight without a record. -/
def discardHeld (c : Core) (s : Nat) : Core :=
  match sess? c s with
  | none => c
  | some x => x.held.foldl discardOut (setSess c s { x with held := [] })

/-- Domains in which an agent is a member go DOWN, with that member as the dead agent (R454). -/
def downForAgent (c : Core) (agent cause : Nat) : Core :=
  c.coh.domains.foldl (fun c (d, x) =>
    match x.members.find? (fun m => m.2.1 == agent) with
    | some (i, _) => cohFail c d cause (some i)
    | none => c) c

/-- The grace ends in HOLD: the session is LOST (R495). -/
def loseSession (c : Core) (s : Nat) : Core :=
  match sess? c s with
  | none => c
  | some x =>
    let c := flushSession c s .lost
    let c := (c.toFm 0x0003 [s, x.remote, x.epoch]).count FZT_SESSIONS_LOST
    if x.remote < 65536 then downForAgent c x.remote 5 else c

/-- Receive credits allocated from a plinth's pool: those of its sessions, and those that start-up sets aside for its ring
session (R468). -/
def rxAllocated (c : Core) (p : Nat) : Nat :=
  (if c.fld BOOT_STATUS BOOT_STATUS_STAGE = 0 then 0 else 18428) + ((c.net.sessions.filter (fun s => s.1 % 4 == p && s.1 < 8188)).map (fun s => s.2.rxCredits)).foldl (· + ·) 0

/-- A session starts afresh. -/
def openSession (c : Core) (s remote epoch key : Nat) (paths : List Path) (tx rx : Nat) (allow : List (Nat × Nat))
    (rxCredits : Nat) : Core :=
  let held := match sess? c s with | some x => x.held | none => []
  let x : Session := {
    st := .opened, remote := remote, epoch := epoch, peerKey := key, paths := paths, txSeq := tx, rxBase := rx, landed := [],
    sinceAck := 0, firstUnacked := 0, credits := allow.map (fun a => ⟨a.1, a.2, 0, 0, 0, 0, 0, 0⟩), rxCredits := rxCredits,
    nextUid := 0, txPkts := [], txMsgs := [], asm := [], asked := [], graceEnd := 0, held := [] }
  let c := setSess { c with net := { c.net with epochs := amSet c.net.epochs s epoch } } s x
  -- held work writes are sent again in full
  let c := held.foldl (fun c m => queueMsg c s m) c
  pump c s

/-! ### A packet arrives (Table 13-5) -/

/-- The session that a packet names (check 3): the ring session on a ring port, else by endpoint and EPOCH. -/
def rxSession (c : Core) (p : Pkt) : Option Nat :=
  let ok := fun (x : Session) => sessLive x && x.remote == p.srcEp && x.epoch == p.epoch
  if ringPort p.port then
    if (sess? c (ringSess p.port)).any ok then some (ringSess p.port) else none
  else (c.net.sessions.find? (fun s => s.1 < 8188 && ok s.2)).map (·.1)

/-- The key slot under which a packet comes: its context's, or the session's peer key (R473). -/
def rxKey (c : Core) (s ctx : Nat) : Nat :=
  if ctx < 4096 then c.fld (CTX_CTRL ctx) CTX_CTRL_KEY_SLOT else ((sess? c s).map (·.peerKey)).getD 0

/-- The packet verifies under the key of slot `n`, or under the one it replaced while that still counts (R641). -/
def keyVerifies (c : Core) (n : Nat) (p : Pkt) : Bool :=
  match amGet? c.sec.slots n with
  | none => false
  | some k => p.tagOk || (p.oldOk && (match k.oldUntil with | some t => c.glb.now < t | none => false))

/-- The key that a slot held before counts no more. -/
def endOldKey (c : Core) (n : Nat) : Core :=
  { c with sec := { c.sec with slots := amMod c.sec.slots n (fun k => { k with oldUntil := none }) } }

/-- Checks 1 to 4 of Table 13-5, after the MAC and the policer: the session of a packet that passes. `plain` says that the
message is one that travels with ENC clear before any key exists. -/
def checkPkt (c : Core) (p : Pkt) (plain : Bool) : Core × Option Nat :=
  let c := c.at p.time
  if !portOk c p.port p.sub || !linkUp c p.port p.sub then (c, none)
  else
    let (c, fits) := rxFrame c p.port p.sub p.frameLen
    if !fits || !c.flag (FZT_PORT_CTRL p.port) FZT_PORT_CTRL_FZT_EN then (c, none)
    else
      let c := c.perf (FZT_RX_PACKETS p.port)
      let part := if p.ctx < 4096 && ctxState c p.ctx ≠ 0 then some (ctxPart c p.ctx) else none
      let (c, dropped) := match part with
        | some q => if p.cls = 0 then police c p.port q p.frameLen p.dscp else (c, false)
        | none => (c, false)
      if dropped then (c, none)
      else if p.ver ≠ 1 || 4128 < p.len || p.frameLen < datagram p.len p.enc + 46 then (c.count (FZT_DROPS_SESSION p.port), none)
      else if !p.crcOk then (c.count (FZT_DROPS_CRC p.port), none)
      else match rxSession c p with
        | none => (c.count (FZT_DROPS_SESSION p.port), none)
        | some s =>
          if p.dstEp ≠ chipEp c.chipId || (p.ctx ≠ 0xFFFF && (4096 ≤ p.ctx || ctxState c p.ctx = 0)) then
            (c.count (FZT_DROPS_SESSION p.port), none)
          else if !p.enc && !plain then (c.count (FZT_DROPS_PLAIN p.port), none)
          else if p.enc && !keyVerifies c (rxKey c s p.ctx) p then (c.count (FZT_DROPS_AUTH p.port), none)
          else if p.enc && p.tagOk then (endOldKey c (rxKey c s p.ctx), some s)
          else (c, some s)

/-- What the header of a packet acknowledges and releases (R477, R481). -/
def headerRx (c : Core) (s : Nat) (p : Pkt) : Core :=
  let c := modSess c s (fun x => modCr (modCr (modCr x 0 (fun k => { k with freed := p.crReq % 2 ^ 16 })) 1
    (fun k => { k with freed := p.crRsp % 2 ^ 16 })) 2 (fun k => { k with freed := p.crMgt % 2 ^ 16 }))
  ackRx c s p.ackBase (mapTest p.ackBase p.ackMap.toNat 64) p.port p.sub

/-- rxBase passes every landed sequence number that follows it. -/
def advanceBase : Nat → Nat → List Nat → Nat × List Nat
  | 0, b, l => (b, l)
  | n + 1, b, l => if l.contains b then advanceBase n ((b + 1) % 2 ^ 32) (l.filter (· != b)) else (b, l)

/-- Credits of a packet are returned (R482, R483). `first` says that no earlier copy had landed. A first copy that comes late, after
its retransmission, returns its normal credits as R482 says, although R483 has returned them. DEDUCED, assumption 100 (unsafe). -/
def releaseCr (c : Core) (s cls cost : Nat) (retx first : Bool) : Core :=
  modSess c s (fun x => modCr x cls (fun k =>
    let k := if retx then { k with rgiven := (k.rgiven + cost) % 2 ^ 16 } else k
    if !retx || first then { k with given := (k.given + cost) % 2 ^ 16 } else k))

/-- No op tag is free (R484). -/
def tagsFull (c : Core) : Bool := 65536 ≤ c.work.tags.length

/-- A packet with a SEQ: every check of Table 13-5. It lands, is acknowledged as R477 says, and its credits return at once
unless they are to be kept: those of a request-class packet while no op tag is free (R484), or its transit queue is full (R520).
The session of a packet that lands. -/
def landPkt (c : Core) (p : Pkt) (plain : Bool := false) (keep : Bool := p.cls == 0 && tagsFull c) : Core × Option Nat :=
  match checkPkt c p plain with
  | (c, none) => (c, none)
  | (c, some s) =>
    let c := headerRx c s p
    match sess? c s with
    | none => (c, none)
    | some x =>
      let d := cut32 p.seq x.rxBase
      let cost := pktCost (datagram p.len p.enc)
      if 4096 ≤ d ∧ d < 2 ^ 31 then (pump (c.count (FZT_DROPS_WINDOW p.port)) s, none)
      else if 2 ^ 31 ≤ d ∨ x.landed.contains p.seq then
        let c := releaseCr (c.count (FZT_DUPLICATES p.port)) s p.cls cost p.retx false
        (pump (sendAck c s) s, none)
      else
        let (base, landed) := advanceBase 4096 x.rxBase (p.seq :: x.landed)
        let x := { x with rxBase := base, landed := landed, sinceAck := x.sinceAck + 1,
                          firstUnacked := if x.sinceAck = 0 then c.glb.now else x.firstUnacked }
        let c := setSess c s x
        let c := if keep then c else releaseCr c s p.cls cost p.retx true
        let c := if p.ackReq || landed ≠ [] || c.fld FZT_CTRL FZT_CTRL_ACK_EVERY ≤ x.sinceAck then sendAck c s else c
        (pump c s, some s)

/-- A packet of a message of `total` data bytes has landed: the whole message's data once every byte has (R485). -/
def assemble (c : Core) (s xid off total part : Nat) (data : List Byte) : Core × Option (List Byte) :=
  match sess? c s with
  | none => (c, none)
  | some x =>
    let old := ((x.asm.find? (fun a => a.xid == xid)).map (·.parts)).getD []
    let parts := (old.filter (fun q => q.1 != off)) ++ [(off, data)]
    let need := max 1 ((total + 4095) / 4096)
    let whole := (List.range need).all (fun i => parts.any (fun q => q.1 == 4096 * i && q.2.length == min 4096 (total - 4096 * i)))
    let rest := x.asm.filter (fun a => a.xid != xid)
    if whole then
      (setSess c s { x with asm := rest },
        some ((List.range need).flatMap (fun i => ((parts.find? (fun q => q.1 == 4096 * i)).map (·.2)).getD [])))
    else (setSess c s { x with asm := rest ++ [⟨xid, part, parts⟩] }, none)

/-! ### Commands of the transport -/

/-- An ACK packet (Table 13-6): replay credits and the whole map. -/
def ackPacket (p : Pkt) (base : Nat) (rcr : List Nat) (map : List Byte) (c : Core) : Core :=
  match checkPkt c p false with
  | (c, none) => c
  | (c, some s) =>
    let c := headerRx c s p
    let c := (List.range 3).foldl (fun c i => modSess c s (fun x => modCr x i (fun k => { k with rfreed := rcr.getD i 0 % 2 ^ 16 }))) c
    pump (ackRx c s base (mapTest base (leNat map) (8 * map.length)) p.port p.sub) s

/-- The path of a session that uses a sub-port. -/
def pathAt (x : Session) (port sub : Nat) : Option Nat := x.paths.findIdx? (fun a => a.port == port && a.sub == sub)

/-- A PROBE is answered with its timestamp. -/
def probe (p : Pkt) (stamp : W64) (c : Core) : Core :=
  match checkPkt c p false with
  | (c, none) => c
  | (c, some s) =>
    let c := headerRx c s p
    match (sess? c s).bind (fun x => pathAt x p.port p.sub) with
    | some i => pump (sendPlain c s i 3 8 [stamp.toNat]) s
    | none => pump c s

/-- A PROBE_REPLY lands: its path comes UP. DEDUCED, assumption 61 (safe). -/
def probeReply (p : Pkt) (c : Core) : Core :=
  match checkPkt c p false with
  | (c, none) => c
  | (c, some s) =>
    let c := headerRx c s p
    match (sess? c s).bind (fun x => pathAt x p.port p.sub) with
    | some i => pump (pathUp c s i) s
    | none => pump c s

/-- The probe period ends: a PROBE on each DOWN path with link (R469). Its timestamp is the time base. -/
def probeTimer (s : Nat) (c : Core) : Core :=
  match sess? c s with
  | none => c
  | some x =>
    if !sessLive x then c
    else (List.range x.paths.length).foldl (fun c i => match x.paths[i]? with
      | some a => if !a.up && linkUp c a.port a.sub then sendPlain c s i 2 8 [c.glb.now] else c
      | none => c) c

/-- ACK_DELAY_NS after the first unacknowledged landing (R477). -/
def ackDelay (s : Nat) (c : Core) : Core :=
  match sess? c s with
  | some x => if 0 < x.sinceAck && x.firstUnacked + c.fld FZT_TIMER0 FZT_TIMER0_ACK_DELAY_NS ≤ c.glb.now then sendAck c s else c
  | none => c

/-- The retransmission timer of packet `seq` runs out (R479): it is resent, its timer doubles up to 16 times, and a path with
PATH_TIMEOUTS in a row goes DOWN (R469). The first timeout doubles and counts as the further ones do. DEDUCED, assumption 100
(unsafe). -/
def rtoExpiry (s seq : Nat) (c : Core) : Core :=
  match sess? c s with
  | none => c
  | some x =>
    match x.txPkts.find? (fun p => 0 < p.sent && p.seq == seq) with
    | none => c
    | some p =>
      let rto := c.fld FZT_TIMER0 FZT_TIMER0_RTO_US * 1000 * 2 ^ min p.doublings 4
      if x.st ≠ .opened || c.glb.now < p.lastSent + rto then c
      else
        let c := match x.paths[p.path]? with
          | some a => c.count (FZT_TIMEOUTS a.port)
          | none => c
        let x := { x with
          txPkts := x.txPkts.map (fun q => if 0 < q.sent ∧ q.seq = seq then
            { q with due := true, doublings := min 4 (q.doublings + 1) } else q),
          paths := listMod x.paths p.path (fun a => { a with timeouts := a.timeouts + 1 }) }
        let c := setSess c s x
        let c := if (x.paths[p.path]?).any (fun a => a.up && c.fld FZT_TIMER1 FZT_TIMER1_PATH_TIMEOUTS ≤ a.timeouts) then
          pathDown c s p.path else c
        pump c s

/-- The grace of a HOLD session ends (R495). -/
def graceEnds (s : Nat) (c : Core) : Core :=
  match sess? c s with
  | some x => if x.st = .hold && x.graceEnd ≤ c.glb.now then loseSession c s else c
  | none => c

/-- A RESULT_WRITE's every packet is acknowledged (R491): a result no longer holds its work's record back (R28), or a record
is acknowledged (R29). -/
def writeAcked (x num : Nat) (c : Core) : Core :=
  match c.net.ackedWrites.findIdx? (fun w => w.1 == x && w.2.1 == num) with
  | none => c
  | some i =>
    let isRec := ((c.net.ackedWrites[i]?).map (·.2.2)).getD false
    let c := { c with net := { c.net with ackedWrites := dropAt c.net.ackedWrites i } }
    if isRec then { c with net := { c.net with ackedRecords := c.net.ackedRecords ++ [(x, num)] } }
    else modWork c x num (fun w => { w with unacked := w.unacked - 1 })

/-- Sessions whose paths use a sub-port. -/
def sessionsOn (c : Core) (n k : Nat) : List (Nat × Nat) :=
  c.net.sessions.flatMap (fun (s, x) => (List.range x.paths.length).filterMap (fun i =>
    if (x.paths[i]?).any (fun a => a.port == n && a.sub == k) then some (s, i) else none))

/-- A sub-port loses link: its paths go DOWN (R469). -/
def pathsDown (c : Core) (n k : Nat) : Core :=
  (sessionsOn c n k).foldl (fun c (s, i) => pump (pathDown c s i) s) c

end Sys2Proof.Machine
end

