-- ==== Sys2Proof/Machine/Mgmt.lean ====
section
/-! DEFINITION. How a management request reaches its meaning and is answered (R23, R493, R494, R662, R688, R722). -/

namespace Sys2Proof.Machine
open Sys2Proof

/-- RESULT (R722, Table 20-9). -/
def mgmtCode : MgmtCode → Nat
  | .accepted => 0 | .badField => 0x0080 | .badState => 0x0081 | .noResource => 0x0082 | .notPermitted => 0x0083
  | .conflict => 0x0084 | .unknownMop => 0x0085 | .regUnmapped => 0x0002 | .secBusy => 0x0502 | .recoveryOnly => 0x0206

/-! ### Start-up stages as management sees them (Table 19-11) -/

def bootStage (c : Core) : Nat := c.fld BOOT_STATUS BOOT_STATUS_STAGE
def stReady : Nat := 8
def stRecovery : Nat := 9
def stQuiescing : Nat := 10
def stQuiesced : Nat := 11

/-- The chip runs: PWR_GOOD is high, RESET_N is released, it has not stopped or tripped, and SYSREF, clock 0, runs (R652, R677,
R703, R716, R719). -/
def powered (c : Core) : Bool :=
  c.pins.pwrGood && !c.pins.resetAsserted && !c.glb.chipStopped && !c.pins.thermTrip && !c.pins.stoppedClocks.contains 0

/-- The data path runs: start-up has ended, and no FATAL has stopped it (R656, R703). DEDUCED, assumption 13 (unsafe). -/
def inService (c : Core) : Bool :=
  powered c && !c.glb.dataStopped && (bootStage c == stReady || bootStage c == stQuiescing || bootStage c == stQuiesced)

/-- Management is answered over Frieze: start-up has ended, whatever FATAL has stopped (R661, R703). -/
def mgmtServes (c : Core) : Bool :=
  powered c && (bootStage c == stReady || bootStage c == stQuiescing || bootStage c == stQuiesced)

/-! ### Replies -/

/-- The packet of a request that came over Frieze. -/
def srcPkt : Src → Option Pkt
  | .fm p => some p
  | .agent p => some p
  | .sideband => none

/-- Management requests that are owed a reply later. -/
def owedReplies (c : Core) : List Src :=
  (c.ext.invals.filterMap (·.src)) ++ (c.ext.withdrawers.map (·.2)) ++ (c.boot.doms.flatMap (fun d => d.2.asked.map (·.1))) ++
  c.pair.promoting.toList ++ c.pair.releasing.toList ++ c.ring.preparer.toList ++
  (c.coh.domains.flatMap (fun d => d.2.removing.map (·.2))) ++ (c.sec.attest.map (·.src))

/-- A reply to a management request: RESULT, then the fields of the reply (R493), unless the atelier has restarted since it was taken
(R23). One over the sideband port leaves the chip at once; the model keeps the last. -/
def mgmtReply (c : Core) (src : Src) (mop : Nat) (code : MgmtCode) (body : List Nat) : Core :=
  match srcPkt src with
  | none =>
    if c.net.lost.contains src then { c with net := { c.net with lost := c.net.lost.filter (· != src) } }
    else { c with boot := { c.boot with sbSent := [mop, mgmtCode code] ++ body } }
  | some p =>
    let mine := fun (t : Nat × Nat × Nat) => t.1 == p.srcEp && t.2.1 == p.xid
    let tag := (c.net.mgmtTags.find? mine).map (·.2.2)
    let owed := !c.net.lost.contains src
    let c := { c with net := { c.net with mgmtTags := c.net.mgmtTags.filter (fun t => !mine t),
                                          lost := c.net.lost.filter (· != src) } }
    match (if owed then rxSession c p else none) with
    | none => match tag with | some t => dropTag c t | none => c
    | some s => c.send { dst := .session s, type := 0x60, cls := 1, ctx := p.ctx, body := [mop, mgmtCode code] ++ body,
                         data := [], work := none, xid := some p.xid, tag := tag }

/-- Who sent it, by the endpoint of its packet (R466). -/
def realSrc : Src → Src
  | .fm p => if p.srcEp / 2 ^ 28 = 2 then .fm p else .agent p
  | .agent p => if p.srcEp / 2 ^ 28 = 2 then .fm p else .agent p
  | .sideband => .sideband

/-! ### Requests -/

/-- What a request may do: it is one that the sideband port carries, that the recovery loader takes, or that grants
something and so is refused while the chip quiesces (Table 19-8). -/
structure MopInfo where
  mop : Nat
  sideband : Bool := false
  recovery : Bool := false
  grant : Bool := false
  /-- It travels with ENC clear too (R637). -/
  plain : Bool := false
  /-- Over Frieze it is taken under slot 0 alone (R663, R688). -/
  slot0 : Bool := false
deriving DecidableEq, Repr

/-- The context that a request names (R493): the fabric manager names none, an agent one that it owns. -/
def srcNames (c : Core) (src : Src) : Bool :=
  match src with
  | .sideband => true
  | .fm p => p.ctx == 0xFFFF
  | .agent p => p.ctx < 4096 && ctxState c p.ctx ≠ 0 && ctxOwner c p.ctx == p.srcEp % 65536

/-- The request came under the management slot. -/
def underSlot0 (c : Core) (src : Src) : Bool :=
  match srcPkt src with
  | none => true
  | some p => ((rxSession c p).bind (sess? c)).any (fun x => x.peerKey == 0)

/-- A body's outcome: the state, and RESULT with the reply's fields, or `none` when the reply comes later. -/
abbrev MgLater := M × Option (MgmtCode × List Nat)

def now (x : Mg) : MgLater := (x.1, some (x.2.1, x.2.2))

/-- Answers of the start-up stage and the path before the body is asked. DEDUCED, assumption 18 (unsafe). -/
def mopRefusal (c : Core) (i : MopInfo) (src : Src) : Option MgmtCode :=
  if bootStage c = stRecovery && !i.recovery then some .recoveryOnly
  else if src == .sideband && bootStage c ≠ stRecovery && !i.sideband then some .unknownMop
  else if bootStage c ≠ stRecovery && !srcNames c src then some .notPermitted
  else if i.slot0 && !underSlot0 c src then some .notPermitted
  else if (bootStage c == stQuiescing || bootStage c == stQuiesced) && i.grant then some .badState
  else none

/-- A management request arrives: its packet lands, the atelier core answers unless it restarts or is halted (R23), and the
request takes an op tag (R484), or goes on without one when none is free. Before start-up has ended no path is open, but for the
sideband port of the recovery loader (R661, R662). `true` when the body is asked; a refusal is answered at once. -/
def arrive (i : MopInfo) (src : Src) (m : M) : M × Bool :=
  let src := realSrc src
  if !powered m.core || bootStage m.core < stReady then (m, false)
  else
    let (c, ok) : Core × Bool := match srcPkt src with
      | none => (m.core, true)
      | some p =>
        if !mgmtServes m.core then (m.core, false)
        else match landPkt m.core { p with cls := 2 } (i.plain && p.srcEp / 2 ^ 28 == 2 && p.ctx == 0xFFFF) with
          | (c, s) => (c, s.isSome)
    if !ok || c.glb.atelier ≠ .running then ({ m with core := c }, false)
    else
      let c := match srcPkt src with
        | some p => match newTag c with
          | (c, some t) => { c with net := { c.net with mgmtTags := c.net.mgmtTags ++ [(p.srcEp, p.xid, t)] } }
          | (c, none) => c
        | none => c
      match mopRefusal c i src with
      | some k => ({ m with core := mgmtReply c src i.mop k [] }, false)
      | none => ({ m with core := c }, true)

/-- A management request: once it has arrived, the body's outcome is answered to the sender, at once or later. -/
def mgmtLater (i : MopInfo) (src : Src) (body : Src → M → MgLater) (m : M) : M :=
  match arrive i src m with
  | (m, false) => m
  | (m, true) => match body (realSrc src) m with
    | (m, some (k, b)) => m.on (fun c => mgmtReply c (realSrc src) i.mop k b)
    | (m, none) => m

def mgmt (i : MopInfo) (src : Src) (body : Src → M → Mg) (m : M) : M := mgmtLater i src (fun src m => now (body src m)) m

/-- A request that only the fabric manager may make. DEDUCED, assumption 18 (unsafe). -/
def fmOnly (body : M → Mg) (src : Src) (m : M) : Mg := if srcFm src then body m else refuse m .notPermitted

end Sys2Proof.Machine
end

