-- ==== Sys2Proof/Machine/Engines.lean ====
section
/-! DEFINITION. Matrix objects (R303 to R308) and the carving engines: operand store, commands, skipping, poison and errors
(R340 to R362). -/

namespace Sys2Proof.Machine
open Sys2Proof

/-! ### Reading pool memory of this chip -/

/-- Bytes of this chip's memory for partition `part` on plinth `p`, checked by R81. -/
def localRead (m : M) (p part : Nat) (ptr : W64) (len : Nat) : M × Res (List Byte × List Bool) :=
  if len = 0 then (m, .ok ([], []))
  else match ptrCheck m.core part ptr len true false with
    | some s => (m, .fail s ptr)
    | none => match readBytes m p (ptrExtent ptr) (ptrOffset ptr) len with
      | (m, .got b ps) => (m, .ok (b, ps))
      | (m, .wait k) => (m, .park k)

/-- How a loader reads pool memory: a slice on its plinth for its partition, or a thread. -/
abbrev Reader := M → W64 → Nat → M × Res (List Byte × List Bool)

def localReader (p part : Nat) : Reader := fun m ptr len => localRead m p part ptr len

/-! ### Matrix objects -/

/-- A matrix object as its header gives it (Table 8-1), with its tile bitmap and the poison of the bitmap's bytes. -/
structure MatHdr where
  ptr : W64
  rows : Nat
  cols : Nat
  fw : FmtWord
  s : Nat
  ntiles : Nat
  indexOff : Nat
  tileOff : Nat
  scaleOff : Nat
  metaOff : Nat
  bits : List Byte
  bad : List Bool
deriving DecidableEq, Repr

def MatHdr.tr (h : MatHdr) : Nat := h.rows / 32
def MatHdr.tc (h : MatHdr) : Nat := h.cols / (32 * h.s)
/-- Element bytes of a tile (R305). -/
def tileBytes (f : Fmt) : Nat := if f = .bk8 then 1024 else 512

/-- Tile (tr, tc) is present (R304). -/
def MatHdr.present (h : MatHdr) (tr tc : Nat) : Bool :=
  let q := tr * h.tc + tc
  bitOf (h.bits.getD (q / 8) 0).toNat (q % 8)

/-- A poisoned bitmap word holds a position of tile row `tr`. -/
def MatHdr.rowBad (h : MatHdr) (tr : Nat) : Bool :=
  (List.range h.tc).any (fun tc => h.bad.getD ((tr * h.tc + tc) / 8) false)

/-- Present tiles at positions below `q`. -/
def MatHdr.rank (h : MatHdr) (q : Nat) : Nat :=
  ((h.bits.take (q / 8)).foldl (fun a b => a + popcount 8 b.toNat) 0) +
    popcount 8 ((h.bits.getD (q / 8) 0).toNat % 2 ^ (q % 8))

/-- Bytes of an object at offset `off` from its start. -/
def objRead (m : M) (rd : Reader) (ptr : W64) (off len : Nat) : M × Res (List Byte × List Bool) :=
  andThen (rd m (ptr + BitVec.ofNat 64 off) len) (fun m (b, ps) =>
    (m, .ok (b, (List.range len).map (poisonAt (ptrOffset ptr + off) ps))))

/-- The object at `ptr`, checked as a step that first loads it does (R307): `none` when its header is poisoned. -/
def matHeader (m : M) (rd : Reader) (ptr : W64) : M × Res (Option MatHdr) :=
  andThen (objRead m rd ptr 0 64) (fun m (b, bad) =>
    if bad.any id then (m, .ok none)
    else
      let n := fun (o k : Nat) => leNat ((b.drop o).take k)
      let s := 2 ^ n 0x0C 1
      let rows := n 0 4
      let cols := n 4 4
      let ntiles := n 0x10 4
      let offs := [n 0x18 8, n 0x20 8, n 0x28 8, n 0x30 8, n 0x38 8]
      match fmtWord? (n 8 4) with
      | none => (m, .fail .badDescriptor 0)
      | some fw =>
        let tc := cols / (32 * s)
        let tr := rows / 32
        let room := (match ext? m.core (ptrExtent ptr) with | some x => extBytes x | none => 0) - ptrOffset ptr
        let bitBytes := (tr * tc + 7) / 8
        let lens := [bitBytes, 4 * (tr + 1), ntiles * tileBytes fw.fmt, ntiles * 32 * scaleBytes fw.fmt,
          if s = 1 then 0 else ntiles * 256]
        if !(isBlock fw.fmt && fw.round == .even && !fw.fitted && n 0x0C 1 ≤ 2 && n 0x0D 3 == 0 && n 0x14 4 == 0 &&
             rows % 32 == 0 && 32 ≤ rows && rows ≤ 65536 && cols % (32 * s) == 0 && 32 * s ≤ cols && cols ≤ 65536 &&
             offs.all (· % 32 == 0) && (s ≠ 1 || n 0x38 8 == 0) &&
             (offs.zip lens).all (fun (o, l) => decide (o + l ≤ room))) then (m, .fail .badDescriptor 0)
        else
          andThen (objRead m rd ptr (n 0x18 8) bitBytes) (fun m (bits, bbad) =>
            -- bits past the last position belong to no tile
            let bits := if tr * tc % 8 = 0 then bits else
              listMod bits (bitBytes - 1) (fun b => BitVec.ofNat 8 (b.toNat % 2 ^ (tr * tc % 8)))
            let h : MatHdr := { ptr := ptr, rows := rows, cols := cols, fw := fw, s := s, ntiles := ntiles,
                                indexOff := n 0x20 8, tileOff := n 0x28 8, scaleOff := n 0x30 8, metaOff := n 0x38 8,
                                bits := bits, bad := bbad }
            if !bbad.any id && h.rank (tr * tc) ≠ ntiles then (m, .fail .badDescriptor 0) else (m, .ok (some h))))

/-- The logical column, within its tile, of stored element `j` (Table 8-2). -/
def tileCol (s : Nat) (md : W64) (j : Nat) : Nat :=
  match s with
  | 1 => j
  | 2 => 4 * (j / 2) + bitsOf md.toNat (4 * (j / 2) + 2 * (j % 2) + 1) (4 * (j / 2) + 2 * (j % 2))
  | _ => 4 * j + bitsOf md.toNat (2 * j + 1) (2 * j)

/-- In TWO_OF_FOUR the selectors of every group rise strictly (R307). -/
def metaOk (s : Nat) (md : W64) : Bool :=
  s ≠ 2 || (List.range 16).all (fun q => decide (tileCol 2 md (2 * q) < tileCol 2 md (2 * q + 1)))

/-- Where the loader first met poison, if it did. -/
abbrev FirstBad := Option W64

def orBad (a b : FirstBad) : FirstBad := match a with | some x => some x | none => b

/-- The byte at which poison marks begin, as a pool pointer. -/
def markPtr (ptr : W64) (off : Nat) (bad : List Bool) : FirstBad :=
  (bad.findIdx? id).map (fun k => BitVec.ofNat 64 ((ptr.toNat + off + k) / 32 * 32))

/-- Tile `n` of an object, in tile column `tc`, as the loader finds it (R305, R346, R360). -/
def loadTile (m : M) (rd : Reader) (h : MatHdr) (n tc : Nat) : M × Res (TileSlot × FirstBad) :=
  let f := h.fw.fmt
  let e := tileBytes f
  let sb := scaleBytes f
  andThen (objRead m rd h.ptr (h.tileOff + n * e) e) (fun m (eb, ebad) =>
    andThen (objRead m rd h.ptr (h.scaleOff + 32 * n * sb) (32 * sb)) (fun m (scb, scbad) =>
      andThen (if h.s = 1 then (m, .ok (List.replicate 256 0, [])) else
          objRead m rd h.ptr (h.metaOff + 32 * n * 8) 256) (fun m (mb, mbad) =>
        let scales := (List.range 32).map (fun i => leNat ((scb.drop (i * sb)).take sb))
        let metas := (List.range 32).map (fun i => BitVec.ofNat 64 (leNat ((mb.drop (8 * i)).take 8)))
        let mdBad := fun i => mbad.getD (8 * i) false
        if (List.range 32).any (fun i => !mdBad i && !metaOk h.s (metas.getD i 0)) then (m, .fail .badDescriptor 0)
        else
          let rowBad := (List.range 32).map (fun i => ebad.getD (i * (e / 32)) false || scbad.getD (i * sb) false || mdBad i)
          (m, .ok ({ elems := getElems f eb 1024, scales := scales, metas := metas, col := tc,
                     nonfin := scales.any (fun sc => !(scaleNum f sc).isFin), poison := rowBad.all id, rowPoison := rowBad },
                   orBad (markPtr h.ptr (h.tileOff + n * e) ebad)
                     (orBad (markPtr h.ptr (h.scaleOff + 32 * n * sb) scbad) (markPtr h.ptr (h.metaOff + 32 * n * 8) mbad)))))))

/-- One lane of a pane: the present tiles of tile row `tr` in columns k0 to k0 + 511 (Table 9-4), and whether the bitmap or
the index poisons the whole row. The INDEX values of the row are checked where the bitmap is good (R307). -/
def loadLane (m : M) (rd : Reader) (h : MatHdr) (tr k0 : Nat) : M × Res (List TileSlot × Bool × FirstBad) :=
  if h.tr ≤ tr then (m, .ok ([], false, none))
  else andThen (objRead m rd h.ptr (h.indexOff + 4 * tr) 8) (fun m (ib, ibad) =>
    let idx := fun k => leNat ((ib.drop (4 * k)).take 4)
    let known := fun k => !(h.bad.take ((tr + k) * h.tc / 8 + 1)).any id && !ibad.getD (4 * k) false
    if (known 0 && idx 0 ≠ h.rank (tr * h.tc)) || (known 1 && idx 1 ≠ h.rank ((tr + 1) * h.tc)) then (m, .fail .badDescriptor 0)
    else if h.rowBad tr then (m, .ok ([], true, some h.ptr))
    else if ibad.getD 0 false then (m, .ok ([], true, markPtr h.ptr (h.indexOff + 4 * tr) ibad))
    else
      let all := (List.range h.tc).filter (h.present tr)
      let tiles := all.zipIdx.filter (fun x => k0 ≤ x.1 && x.1 < k0 + 512)
      if h.ntiles < idx 0 + all.length then (m, .fail .badDescriptor 0)
      else andThen (forEach (fun m (acc : List TileSlot × FirstBad) (x : Nat × Nat) =>
          andThen (loadTile m rd h (idx 0 + x.2) x.1) (fun m (t, b) => (m, .ok (acc.1 ++ [t], orBad acc.2 b)))) m ([], none) tiles)
        (fun m (ts, b) => (m, .ok (ts, false, b))))

/-! ### The operand store as bytes (Tables 9-2 and 9-3, R347, R348) -/

def freshEngine : Engine :=
  { holder := none, panes := [], acts := [], accs := [], cbCache := [], lastCols := 0, busy := [], badWords := [], errTicks := [] }

def eng (c : Core) (n : Nat) : Engine := (amGet? c.work.engines n).getD freshEngine
def setEng (c : Core) (n : Nat) (e : Engine) : Core := { c with work := { c.work with engines := amSet c.work.engines n e } }
def modEng (c : Core) (n : Nat) (f : Engine → Engine) : Core := setEng c n (f (eng c n))

def slotAddr (pane lane k : Nat) : Nat := 0x400000 * pane + (512 * lane + k) * 2048
def actSize (fmt : Nat) : Nat := if fmtOfCode (fmt % 16) = some .bf16 then 128 else 64
def actAddr (fmt perTok t j : Nat) : Nat := 0x800000 + (t * perTok + j) * actSize fmt
def accAddr (i t : Nat) : Nat := 0xC00000 + (128 * t + i) * 4

/-- A tile slot's bytes. -/
def slotBytes (f : Fmt) (t : TileSlot) : List Byte :=
  padTo 0x400 0 (packElems f t.elems) ++ padTo 0x40 0 (t.scales.flatMap (natLe (scaleBytes f))) ++
  t.metas.flatMap (fun w => natLe 8 w.toNat) ++ natLe 4 t.col ++ [BitVec.ofNat 8 (b2n t.nonfin + 2 * b2n t.poison)]

/-- The tile slot that bytes hold. -/
def bytesSlot (f : Fmt) (b : List Byte) (rowPoison : List Bool) : TileSlot :=
  let sb := scaleBytes f
  let fl := (b.getD 0x544 0).toNat
  { elems := getElems f b 1024, scales := (List.range 32).map (fun i => leNat ((b.drop (0x400 + i * sb)).take sb)),
    metas := (List.range 32).map (fun i => BitVec.ofNat 64 (leNat ((b.drop (0x440 + 8 * i)).take 8))),
    col := leNat ((b.drop 0x540).take 4), nonfin := bitOf fl 0, poison := bitOf fl 1, rowPoison := rowPoison }

/-- An activation slot's bytes. -/
def actBytes (a : ActSlot) : List Byte :=
  let f := (fmtOfCode (a.fmt % 16)).getD .bk8
  let flags := [BitVec.ofNat 8 (b2n a.zero + 2 * b2n a.nonfin + 4 * b2n a.poison)]
  if f = .bf16 then packElems f a.elems ++ flags else padTo 32 0 (packElems f a.elems) ++ natLe 2 a.scale ++ flags

def bytesAct (fmt : Nat) (b : List Byte) (poison : Bool) : ActSlot :=
  let f := (fmtOfCode (fmt % 16)).getD .bk8
  let fl := (b.getD (if f = .bf16 then 64 else 34) 0).toNat
  { fmt := fmt, elems := getElems f b 32, scale := if f = .bf16 then 0 else leNat ((b.drop 32).take 2), zero := bitOf fl 0,
    nonfin := bitOf fl 1, poison := bitOf fl 2 || poison }

/-! ### Operand-store errors (R359, R362, R581) -/

/-- What the flip mask leaves of a word written to the operand store as it will be read: the data, poison, and the error that
a read finds (`some true`: uncorrectable). -/
def flippedWord (c : Core) (data : List Byte) : List Byte × Bool × Option Bool :=
  let (dm, cm) := flipMask c
  let d := xorBytes (padTo 32 0 data) dm
  match classify (cm ^^^ checksOf dm) with
  | .clean => (d, false, none)
  | .poisoned => (d, true, none)
  | .corrected k e => (correctData d k e, false, some false)
  | .uncorrectable => (d, true, some true)

/-- Among operand-store words written from byte address `a`, the one the armed flip mask changes: its index. -/
def flipIn (c : Core) (n a words : Nat) : Option Nat :=
  (List.range words).find? (fun k => flipHits c 2 n (a + 32 * k))

/-- Bytes written at operand-store address `a` of engine `n`: the bytes as read back, the index of a word that reads as
poisoned, and the state with the mask used up and the error remembered. -/
def storeBytes (c : Core) (n a : Nat) (b : List Byte) : Core × List Byte × Option Nat :=
  let words := (b.length + 31) / 32
  let clear := fun (c : Core) => modEng c n (fun e => { e with badWords := e.badWords.filter (fun w => !(a ≤ w.1 && w.1 < a + 32 * words)) })
  match flipIn c n a words with
  | none => (clear c, b, none)
  | some k =>
    let (d, poison, err) := flippedWord c ((b.drop (32 * k)).take 32)
    let c := (clear c).setFld ECC_FLIP_CTRL ECC_FLIP_CTRL_ARMED 0
    let c := if poison && err.isNone then c.count ECC_POISON_WRITTEN else c
    let c := match err with
      | none => c
      | some u => modEng c n (fun e => { e with badWords := amSet e.badWords (a + 32 * k) u })
    (c, (b.take (32 * k) ++ d ++ b.drop (32 * k + 32)).take (max b.length (32 * k + 32)), if poison then some k else none)

/-- An engine is fenced with event `e` (R32, R33): the slice that runs on it completes INTERNAL_FAULT. The thread that holds it loses
it. -/
def loseEngine (c : Core) (n : Nat) (e : Ev) : Core :=
  if bitOf (c.fld GLB_FENCED GLB_FENCED_ENGINES) n then c
  else
    let holder := (eng c n).holder
    let c := c.setFld GLB_FENCED GLB_FENCED_ENGINES (c.fld GLB_FENCED GLB_FENCED_ENGINES + 2 ^ n)
    let c := raise c e 3 n
    let c := setEng c n { freshEngine with errTicks := (eng c n).errTicks }
    match holder with
    | none => c
    | some (ctx, num) =>
      let c := modWork c ctx num (fun w => { w with engine := none })
      stopWork c ctx num .internalFault (BitVec.ofNat 64 (evCode e))

/-- An engine is fenced (R362). -/
def fenceEngine (c : Core) (n : Nat) : Core := loseEngine c n .ceFenced

/-- The operand-store words that `reads` tells are read: a correctable error is corrected in the store and counted, an uncorrectable
one counted and logged; the third tick with one within 1,000 ticks fences the engine. -/
def readStore (c : Core) (n : Nat) (reads : Nat → Bool) : Core :=
  let hit := (eng c n).badWords.filter (fun w => reads w.1)
  let cor := (hit.filter (fun w => !w.2)).length
  let unc := (hit.filter (fun w => w.2)).length
  if hit = [] then c
  else
    let c := c.satFld (stackReg CE_OS_ECC n) CE_OS_ECC_CORRECTED cor
    let c := c.satFld (stackReg CE_OS_ECC n) CE_OS_ECC_UNCORRECTED unc
    let c := modEng c n (fun e => { e with badWords := e.badWords.filter (fun w => w.2 || !reads w.1) })
    if unc = 0 then c
    else
      let c := hit.foldl (fun c w => if w.2 then noteUncorrected c 2 n w.1 else c) c
      let c := raise c .ceOsUncorrected 3 n 0 unc
      let c := modEng c n (fun e =>
        { e with errTicks := ((e.errTicks.filter (fun t => t + 1000 > c.tick && t ≠ c.tick)) ++ [c.tick]) })
      if 3 ≤ (eng c n).errTicks.length then fenceEngine c n else c

/-! ### The codebook cache -/

/-- The cache takes the partition's 16 active codebooks when an operand in CB4 is loaded. -/
def fillCache (c : Core) (n q : Nat) : Core :=
  let bytes := (List.range 16).flatMap (fun i => (padTo 16 0 (amGet c.work.codebooks (16 * q + i) [])).flatMap (natLe 2))
  let (c, b, bad) := storeBytes c n 0xF00000 bytes
  modEng c n (fun e => { e with cbCache := b, cbBad := bad.toList })

/-- The values of codebook `cb` as cached. -/
def cachedBook (e : Engine) (cb : Nat) : List FVal :=
  (List.range 16).map (fun i => decodeFp16 (leNat ((e.cbCache.drop (32 * (cb % 16) + 2 * i)).take 2)))

/-- The cached codebook reads as poisoned. -/
def bookBad (e : Engine) (fmt : Nat) : Bool :=
  fmtOfCode (fmt % 16) == some .cb4 && e.cbBad.contains (bitsOf fmt 15 8 % 16)

/-! ### LOAD_PANE -/

/-- A slot stored in the operand store, with what the flip mask does to it. -/
def storeSlot (c : Core) (n pane lane k : Nat) (f : Fmt) (t : TileSlot) : Core × TileSlot :=
  if !c.flag ECC_FLIP_CTRL ECC_FLIP_CTRL_ARMED then
    (modEng c n (fun e => { e with badWords := e.badWords.filter (fun w => w.1 / 2048 ≠ slotAddr pane lane k / 2048) }), t)
  else
    let (c, b, bad) := storeBytes c n (slotAddr pane lane k) (slotBytes f t)
    match bad with
    | none => (c, bytesSlot f b t.rowPoison)
    | some w =>
      -- rows whose elements, scale or metadata lie in the poisoned word; the slot's own flags poison every row
      let hit := fun (i : Nat) =>
        if w < 0x20 then i * (tileBytes f / 32) / 32 == w
        else if w < 0x22 then (0x400 + i * scaleBytes f) / 32 == w
        else if w < 0x2A then (0x440 + 8 * i) / 32 == w
        else true
      (c, bytesSlot f b ((List.range 32).map (fun i => t.rowPoison.getD i false || hit i)))

def storeLane (n pane lane : Nat) (f : Fmt) (c : Core) (ts : List TileSlot) : Core × AMap TileSlot :=
  ts.zipIdx.foldl (fun (c, acc) (t, k) =>
    let (c, t) := storeSlot c n pane lane k f t
    (c, amSet acc (512 * lane + k) t)) (c, [])

/-- LOAD_PANE of group `g` of object `h` into a pane of engine `n`, from column k0 (R349). DEDUCED, assumption 48 (unsafe). -/
def loadPane (m : M) (n : Nat) (rd : Reader) (part pane : Nat) (h : MatHdr) (fmt g k0 : Nat) : M × Res FirstBad :=
  let m := m.on (fun c => modEng c n (fun e => { e with lastCols := h.cols }))
  let m := if h.fw.fmt = .cb4 then m.on (fun c => fillCache c n part) else m
  andThen (forEach (fun m (acc : AMap TileSlot × List Bool × FirstBad) lane =>
      andThen (loadLane m rd h (4 * g + lane) k0) (fun m (ts, bad, fb) =>
        let (c, sl) := storeLane n pane lane h.fw.fmt m.core ts
        ({ m with core := c }, .ok (sl.foldl (fun a (k, t) => amSet a k t) acc.1, acc.2.1 ++ [bad], orBad acc.2.2 fb))))
      m ([], [], none) (List.range 4))
    (fun m (slots, lanes, fb) =>
      let pn : Pane := { fmt := fmt, s := h.s, slots := slots, lanePoison := lanes, cols := h.cols }
      (m.on (fun c => modEng c n (fun e => { e with panes := amSet e.panes pane pn })), .ok fb))

/-! ### LOAD_ACT -/

/-- Every element of a block decodes to +0 or −0: a product with an infinite scale may be a NaN, and with a scale of zero is zero
(R134, R343). -/
def blockZero (f : Fmt) (cb : List FVal) (elems : List Nat) (scale : Nat) : Bool :=
  elems.all (fun e => (if isBlock f then decodeValue f cb scale e else elemValue f cb e).isZero)

/-- An activation block of element bits and scale with its marks (R343, R347). `fmt` is its format word. -/
def actSlot (fmt : Nat) (cb : List FVal) (elems : List Nat) (scale : Nat) (poison : Bool) : ActSlot :=
  let f := (fmtOfCode (fmt % 16)).getD .bk8
  let nan := nanScale f scale
  { fmt := fmt, elems := elems, scale := scale, zero := blockZero f cb elems scale && !nan && !poison,
    nonfin := nan || !(elems.map (elemValue f cb)).all FVal.isFin || !(scaleNum f scale).isFin, poison := poison }

/-- QUANT's format (Table 8-6): blocks of 32 under FITTED and NEAREST_EVEN; an infinity or a NaN makes its block NaN (R315). -/
def quantWord (q : Nat) : FmtWord :=
  { fmt := quantFmt q, toInf := true, round := .even, fitted := isBlock (quantFmt q), codebook := 0 }
def quantCode (q : Nat) : Nat := match q with | 0 => 1 | 1 => 8 | _ => 9

/-- Stage 1 of Table 8-5: values quantised in blocks of 32, with what they add to the flags (R316).
DEDUCED, assumption 50 (unsafe). -/
def quantise (c : Core) (q : Nat) (vals : List FVal) : Core × List (List Nat × Nat) × Flags :=
  (chunks32 vals).foldl (fun (c, bs, fl) b =>
    let (c, d) := c.drawN (2 * b.length)
    let e := encodeBlock (quantWord q) [] (List.replicate b.length 0) 0 (b.map some) d
    (c, bs ++ [(e.elems, e.scale)], fl.add e.flags)) (c, [], {})

/-- Activation blocks of token `t` stored in engine `n`. -/
def storeActs (c : Core) (n t : Nat) (blocks : List ActSlot) : Core :=
  blocks.zipIdx.foldl (fun c (a, j) =>
    let put := fun (c : Core) (a : ActSlot) => modEng c n (fun e => { e with acts := amSet e.acts (t * 2 ^ 16 + j) a })
    if !c.flag ECC_FLIP_CTRL ECC_FLIP_CTRL_ARMED then
      put (modEng c n (fun e => { e with badWords := e.badWords.filter (fun w =>
        !(actAddr a.fmt blocks.length t j ≤ w.1 && w.1 < actAddr a.fmt blocks.length t j + actSize a.fmt)) })) a
    else
      let (c, b, bad) := storeBytes c n (actAddr a.fmt blocks.length t j) (actBytes a)
      put c (bytesAct a.fmt b (a.poison || bad.isSome))) c

/-! ### RUN (R340 to R344, R353, R360) -/

/-- W of Table 9-1. -/
def beatWidth (wf af : Fmt) : Nat :=
  if af = .bf16 then 32
  else if (wf = .bk4 || wf = .bq4) && (af = .bk4 || af = .bq4) then 256 else 128

/-- Terms of one weight row of a tile against a token's blocks (R164 to R166, R315). -/
def tileTerms (wf : Fmt) (wcb : List FVal) (s : Nat) (t : TileSlot) (i : Nat) (af : Fmt) (acb : List FVal)
    (act : Nat → ActSlot) : List FVal :=
  let md := t.metas.getD i 0
  let sw := scaleNum wf (t.scales.getD i 0)
  let ws := (List.range 32).map (fun j => (tileCol s md j, elemValue wf wcb (t.elems.getD (32 * i + j) 0)))
  (List.range s).flatMap (fun b =>
    let a := act (t.col * s + b)
    let mine := ws.filter (fun x => x.1 / 32 == b)
    let av := fun (col : Nat) => elemValue af acb (a.elems.getD (col % 32) 0)
    if af = .bf16 then mine.map (fun x => wideTerm (x.2.mul sw) (av x.1))
    else if mine = [] then [] else [blockTerm (mine.map (·.2)) (mine.map (fun x => av x.1)) sw (scaleNum af a.scale)])

/-- Lane `l`'s tiles in order of slot. -/
def laneTiles (pn : Pane) (l : Nat) : List TileSlot := (pn.slots.filter (fun x => x.1 / 512 == l)).map (·.2)

def noAct : ActSlot := { fmt := 8, elems := [], scale := 0, zero := true, nonfin := false, poison := false }

/-- Every activation slot that the pane's tiles read is valid for the token (R352). -/
def actsValid (e : Engine) (pn : Pane) (t : Nat) : Bool :=
  pn.slots.all (fun x => (List.range pn.s).all (fun b => (amGet? e.acts (t * 2 ^ 16 + x.2.col * pn.s + b)).isSome))

/-- What one token's pass adds to the counters: beats, beats skipped, tiles multiplied and accumulators poisoned. -/
structure PassCount where
  beats : Nat := 0
  skipped : Nat := 0
  tiles : Nat := 0
  poisoned : Nat := 0
deriving DecidableEq, Repr

/-- The lanes' tiles that beat `b` reads. -/
def beatTiles {α : Type} (perBeat : Nat) (lanes : List (List α)) (b : Nat) : List α :=
  lanes.flatMap (fun l => (l.drop (b * perBeat)).take perBeat)

/-- A RUN of tokens `first` to `first + cnt` through a pane reads the operand-store word at `a`: of each tile slot its elements, scales,
metadata unless DENSE, column and flags; the activation blocks that the tiles name; under ACCUM its tokens' accumulators; and
the codebooks of CB4 operands (R345 to R348). -/
def runReads (e : Engine) (pn : Pane) (pane first cnt : Nat) (clear : Bool) (a : Nat) : Bool :=
  let mine := fun (t : Nat) => first ≤ t && t < first + cnt
  if a < 0x800000 then
    let o := a % 2048
    let eb := tileBytes ((fmtOfCode (pn.fmt % 16)).getD .bk8)
    a / 0x400000 == pane && (amGet? pn.slots (a % 0x400000 / 2048)).isSome &&
      (o < eb || (0x400 ≤ o && o < 0x440) || (pn.s ≠ 1 && 0x440 ≤ o && o < 0x540) || o / 32 == 0x540 / 32)
  else if a < 0xC00000 then
    e.acts.any (fun x =>
      let t := x.1 / 2 ^ 16
      let j := x.1 % 2 ^ 16
      let per := (e.acts.filter (fun y => y.1 / 2 ^ 16 == t)).length
      let w := actAddr x.2.fmt per t j
      mine t && pn.slots.any (fun s => s.2.col == j / pn.s) && w ≤ a && a < w + actSize x.2.fmt)
  else if a < 0xF00000 then !clear && mine ((a - 0xC00000) / 512)
  else
    let book := fun (fmt : Nat) => fmtOfCode (fmt % 16) == some .cb4 && bitsOf fmt 15 8 % 16 == (a - 0xF00000) / 32
    book pn.fmt || e.acts.any (fun x => mine (x.1 / 2 ^ 16) && book x.2.fmt)

/-- One token streamed through a pane into its 128 accumulators. -/
def runToken (n : Nat) (pn : Pane) (clear : Bool) (c : Core) (k : PassCount) (t : Nat) : Core × PassCount :=
  let e := eng c n
  let wf := (fmtOfCode (pn.fmt % 16)).getD .bk8
  let act := fun j => (amGet? e.acts (t * 2 ^ 16 + j)).getD noAct
  let blocks := (e.acts.filter (fun a => a.1 / 2 ^ 16 == t)).map (·.2)
  let af := (fmtOfCode ((blocks.headD noAct).fmt % 16)).getD .bk8
  let wcb := if wf = .cb4 then cachedBook e (bitsOf pn.fmt 15 8) else []
  let acb := if af = .cb4 then cachedBook e (bitsOf (blocks.headD noAct).fmt 15 8) else []
  let lanes := (List.range 4).map (laneTiles pn)
  let perBeat := beatWidth wf af / 32
  let most := (lanes.map List.length).foldl max 0
  let beats := (most + perBeat - 1) / perBeat
  let skip := fun (b : Nat) =>
    let ts := beatTiles perBeat lanes b
    c.flag (stackReg CE_CTRL n) CE_CTRL_ACT_SKIP_EN &&
      ts.all (fun x => !x.nonfin && (List.range pn.s).all (fun j => (act (x.col * pn.s + j)).zero))
  let skips := (List.range beats).filter skip
  let all := bookBad e pn.fmt || bookBad e (blocks.headD noAct).fmt ||
    lanes.flatten.any (fun x => (List.range pn.s).any (fun j => (act (x.col * pn.s + j)).poison))
  let (c, k') := (List.range 128).foldl (fun (c, (k : PassCount)) i =>
    let e := eng c n
    let ts := lanes.getD (i / 32) []
    let old := if clear then ({ val := FVal.zero, poison := false } : AccSlot)
      else (amGet? e.accs (128 * t + i)).getD { val := FVal.zero, poison := false }
    -- a skipped beat adds nothing
    let used := (ts.zipIdx.filter (fun x => !skips.contains (x.2 / perBeat))).map (·.1)
    let terms := used.flatMap (fun x => tileTerms wf wcb pn.s x (i % 32) af acb act)
    let bad := all || pn.lanePoison.getD (i / 32) false || ts.any (fun x => x.poison || x.rowPoison.getD (i % 32) false)
    let (c, d) := c.drawN (2 * (terms.length + 1))
    let acc : AccSlot := { val := sumTerms d (old.val :: terms), poison := old.poison || bad }
    (modEng c n (fun e => { e with accs := amSet e.accs (128 * t + i) acc }),
     { k with poisoned := k.poisoned + b2n (bad && !old.poison) })) (c, k)
  let skippedTiles := sumNat (skips.map (fun b => (beatTiles perBeat lanes b).length))
  (c, { k' with beats := k'.beats + beats, skipped := k'.skipped + skips.length,
                tiles := k'.tiles + (lanes.flatten.length - skippedTiles) })

/-- The flip mask on an accumulator word that a RUN writes: eight accumulators (R348). -/
def flipAccs (c : Core) (n first cnt : Nat) : Core :=
  if !c.flag ECC_FLIP_CTRL ECC_FLIP_CTRL_ARMED then c
  else
    let bits := fun (c : Core) (w : Nat) => (List.range 8).flatMap (fun i =>
      natLe 4 (fp32Bits ((amGet? (eng c n).accs (8 * w + i)).getD { val := FVal.zero, poison := false }).val))
    match flipIn c n (accAddr 0 first) (16 * cnt) with
    | none => c
    | some k =>
      let w := 16 * first + k
      let (c, b, bad) := storeBytes c n (0xC00000 + 32 * w) (bits c w)
      (List.range 8).foldl (fun c i => modEng c n (fun e => { e with accs := amMod e.accs (8 * w + i) (fun a =>
        let v := decodeFp32 (leNat ((b.drop (4 * i)).take 4))
        { val := if fp32Bits a.val = fp32Bits v then a.val else v, poison := a.poison || bad.isSome }) })) c

/-- A pane into which the step has loaded nothing: it holds no tile. -/
def emptyPane : Pane := { fmt := 9, s := 1, slots := [], lanePoison := [], cols := 0 }

/-- RUN of tokens `first` to `first + cnt` through a pane (R349, R353), with its counters. How long the loads kept it waiting
is free. -/
def runPane (c : Core) (n pane first cnt : Nat) (clear : Bool) : Core :=
    let pn := (amGet? (eng c n).panes pane).getD emptyPane
    let c := readStore c n (runReads (eng c n) pn pane first cnt clear)
    -- the accumulators are written anew
    let c := modEng c n (fun e => { e with badWords := e.badWords.filter (fun w =>
      !(accAddr 0 first ≤ w.1 && w.1 < accAddr 0 (first + cnt))) })
    let (c, k) := (List.range cnt).foldl (fun (c, k) t => runToken n pn clear c k (first + t)) (c, {})
    let c := flipAccs c n first cnt
    let c := c.setFld (stackReg CE_STATUS n) CE_STATUS_PANE pane
    let (c, d) := c.draw
    let stall := Config.choice d
    let c := c.perf (stackReg CE_RUN_CYCLES n) (k.beats - k.skipped)
    let c := c.perf (stackReg CE_SWITCH_CYCLES n) 16
    let c := c.perf (stackReg CE_LOAD_STALL_CYCLES n) stall
    let c := c.perf (stackReg CE_BUSY_CYCLES n) (k.beats - k.skipped + 16 + stall)
    let c := c.perf (stackReg CE_TILES_FORMED n) k.tiles
    let c := c.perf (stackReg CE_BEATS_SKIPPED n) k.skipped
    c.perf (stackReg CE_POISON_TERMS n) k.poisoned

/-- One accumulator as a DRAIN finds it: none when it is invalid, which a DRAIN returns as +0 (R352). -/
def readAcc? (c : Core) (n i t : Nat) : Option AccSlot := amGet? (eng c n).accs (128 * t + i)

def readAcc (c : Core) (n i t : Nat) : AccSlot := (readAcc? c n i t).getD { val := FVal.zero, poison := false }

/-- Accumulators of rows `lo` to `lo + rows` of tokens are read for a DRAIN. -/
def drainRead (c : Core) (n first cnt lo rows : Nat) : Core :=
  readStore c n (fun a => 0xC00000 ≤ a && a < 0xF00000 &&
    (let i := (a - 0xC00000) / 4
     first ≤ i / 128 && i / 128 < first + cnt && lo < i % 128 + 8 && i % 128 < lo + rows))

/-! ### A product of an object and vectors -/

/-- Rows `128 g` to `128 g + 127` of an object times each token whose blocks the engine holds, tokens 0 to `cnt`: passes of
512 tile columns into the same accumulators (R317, R346). -/
def groupProduct (m : M) (n p part : Nat) (h : MatHdr) (fmt cnt g : Nat) : M × Res (List (List AccSlot) × FirstBad) :=
  let passes := (h.tc + 511) / 512
  andThen (forEach (fun m (fb : FirstBad) k =>
      andThen (loadPane m n (localReader p part) part (k % 2) h fmt g (512 * k)) (fun m b =>
        (m.on (fun c => runPane c n (k % 2) 0 cnt (k == 0)), .ok (orBad fb b)))) m none (List.range passes))
    (fun m fb =>
      let live := min 128 (h.rows - 128 * g)
      let m := m.on (fun c => drainRead c n 0 cnt 0 live)
      (m, .ok ((List.range cnt).map (fun t => (List.range live).map (fun i => readAcc m.core n i t)), fb)))

/-- Tokens that the activation area holds at once for `blocks` blocks of a format (Table 9-2). -/
def actRoom (fmt blocks : Nat) : Nat := max 1 (min 6144 (0x400000 / (blocks * actSize fmt)))

def chunksOf {α : Type} (k : Nat) (l : List α) : List (List α) :=
  (List.range ((l.length + k - 1) / k)).map (fun i => (l.drop (k * i)).take k)

/-- Rows `lo` to `hi` of groups of an object times tokens given as activation blocks: for each token its accumulators in row
order. The engine starts from invalid slots. -/
def product (m : M) (n p part : Nat) (h : MatHdr) (fmt : Nat) (groups : List Nat) (toks : List (List ActSlot)) :
    M × Res (List (List AccSlot) × FirstBad) :=
  let afmt := ((toks.headD []).headD noAct).fmt
  let room := actRoom afmt (max 1 (toks.headD []).length)
  forEach (fun m (acc : List (List AccSlot) × FirstBad) (ch : List (List ActSlot)) =>
    let m := m.on (fun c => modEng c n (fun e => { e with acts := [], accs := [] }))
    let m := if fmtOfCode (afmt % 16) = some .cb4 then m.on (fun c => fillCache c n part) else m
    let m := m.on (fun c => ch.zipIdx.foldl (fun c (bs, t) => storeActs c n t bs) c)
    andThen (forEach (fun m (r : List (List AccSlot) × FirstBad) g =>
        andThen (groupProduct m n p part h fmt ch.length g) (fun m (rows, fb) =>
          (m, .ok ((r.1.zip rows).map (fun (a, b) => a ++ b), orBad r.2 fb)))) m (ch.map (fun _ => []), none) groups)
      (fun m (rows, fb) => (m, .ok (acc.1 ++ rows, orBad acc.2 fb)))) m ([], none) (chunksOf room toks)

/-- A step ends: nothing of it survives in the operand store (R357). -/
def endStepStore (c : Core) (n : Nat) : Core := modEng c n (fun e => { e with panes := [], acts := [], accs := [], cbCache := [], cbBad := [] })

end Sys2Proof.Machine
end

