-- ==== Sys2Proof/Machine/Works1b.lean ====
section
/-! DEFINITION. COPY, FILL and CONVERT (R295 to R300), NOP and WAIT (R256, R422, R423). -/

namespace Sys2Proof.Machine
open Sys2Proof

/-- A reference (Table 7-12). -/
inductive Ref where
  | raw (ptr : W64)
  | table (t row : Nat)
  | bad
deriving DecidableEq, Repr

def readRef (w : Work) (off : Nat) : Ref :=
  let kind := w.field off 1
  let tn := w.field (off + 2) 2
  let row := w.field (off + 4) 4
  if w.field (off + 1) 1 ≠ 0 then .bad
  else if kind = 0 then (if tn = 0 ∧ row = 0 then .raw (w.ptr (off + 8)) else .bad)
  else if kind = 1 then (if w.field (off + 8) 8 = 0 then .table tn row else .bad)
  else .bad

/-- R295's checks of a TABLE reference that reaches `rows` rows. -/
def refCheck (c : Core) (w : Work) (r : Ref) (rows : Nat) : Option Status :=
  match r with
  | .bad => some .badDescriptor
  | .raw _ => none
  | .table tn first => match table? c tn with
    | none => some .accessDenied
    | some t => if t.partition ≠ ctxPart c w.ctx then some .accessDenied
                else if rows ≠ 0 && t.rows < first + rows then some .badDescriptor else none

/-- Bytes of an extent, as its pointers name it. -/
structure Span where
  ext : W64
  off : Nat
  len : Nat
deriving DecidableEq, Repr

/-- Where a reference's data lies: `bytes` of a RAW side; the rows of a TABLE side, and the scales of a block format in both planes. -/
def refSpans (c : Core) (r : Ref) (rows bytes : Nat) : List Span :=
  match r with
  | .raw p => [⟨mkPtr (ptrChip p) (ptrExtent p) 0, ptrOffset p, bytes⟩]
  | .table tn first => match table? c tn with
    | none => []
    | some t =>
      let e := extPtr c t.extent 0
      let n := rows * rowBlocks t * scaleBytes (tblFmt t).fmt
      [⟨e, rowOff t first, rows * rowSize t⟩, ⟨e, scaleOff t false first 0, n⟩, ⟨e, scaleOff t true first 0, n⟩]
  | .bad => []

/-- Source and destination share bytes (R300). -/
def overlap (a b : List Span) : Bool :=
  a.any (fun x => b.any (fun y => x.ext == y.ext && x.off < y.off + y.len && y.off < x.off + x.len))

/-- Rows of a table read by a work. -/
def workRows (m : M) (w : Work) (tn first n : Nat) : M × Res (List RowImg) :=
  match table? m.core tn with
  | none => (m, .fail .accessDenied 0)
  | some t =>
    match tblAccess m.core w t false with
    | some (s, d) => (m, .fail s d)
    | none => forEach (fun m l r => andThen (readRow m tn t r) (fun m img => (m, .ok (l ++ [img])))) m []
        ((List.range n).map (first + ·))

def addCount (c : Core) (w : Work) (n : Nat) : Core := modWork c w.ctx w.num (fun w => { w with count := w.count + n })

/-! ### COPY (R297) -/

/-- The units COUNT counts and a step's worth of them: rows, or bytes between RAW references. -/
def copyUnit (w : Work) : Nat :=
  match readRef w 0, readRef w 0x10 with
  | .raw _, .raw _ => 65536
  | _, _ => 64

/-- Bytes of the RAW side of a COPY of `n` units (R297). -/
def copyBytes (c : Core) (src dst : Ref) (n : Nat) : Nat :=
  match src, dst with
  | .table t _, .raw _ | .raw _, .table t _ => n * ((table? c t).map rowSize).getD 0
  | _, _ => n

/-- The whole work is one step when source and destination overlap (R300). -/
def copyStepSize (c : Core) (w : Work) : Nat :=
  let n := w.field 0x20 4
  let src := readRef w 0
  let dst := readRef w 0x10
  let b := copyBytes c src dst n
  if overlap (refSpans c src n b) (refSpans c dst n b) then max 1 n else copyUnit w

def copyCheck (m : M) (w : Work) : M × Res Unit :=
  let c := m.core
  let src := readRef w 0
  let dst := readRef w 0x10
  let n := w.field 0x20 4
  if !w.zero 0x24 0x40 then (m, .fail .badDescriptor 0)
  else match refCheck c w src n <|> refCheck c w dst n with
    | some s => (m, .fail s 0)
    | none =>
      let pair := match src, dst with
        | .raw _, .raw _ => true
        | .table t _, .table u _ => match table? c t, table? c u with
          | some t, some u => sameTableFmt (tblFmt t) (tblFmt u) && t.rowLen == u.rowLen
          | _, _ => false
        | .table t _, .raw _ | .raw _, .table t _ => match table? c t with
          | some t => !blockFmt t
          | none => false
        | _, _ => false
      if pair then (m, .ok ()) else (m, .fail .formatUnsupported 0)

/-- What a row write does for its work: flags, and poison in its way stops the work at that step (Table 7-15); else `n` more count. -/
def rowMade (w : Work) (n : Nat) (x : M × Res RowWrite) : M × Res Unit :=
  andThen x (fun m res =>
    let m := m.on (fun c => addFlags c w.ctx w.num res.flags)
    if res.bad = [] then (m.on (fun c => addCount c w n), .ok ()) else (m, .fail .poisoned res.ptr))

/-- Bytes written to a RAW side; `n` more count. -/
def rawMade (m : M) (w : Work) (n : Nat) (ptr : W64) (b : List Byte) : M × Res Unit :=
  andThen (poolWrite m w ptr b) (fun m hit => match hit with
    | some d => (m, .fail .poisoned d)
    | none => (m.on (fun c => addCount c w n), .ok ()))

/-- A row of a scalar table from its bytes. -/
def rowOfBytes (t : Table) (b : List Byte) : RowImg :=
  { elems := getElems (tblFmt t).fmt b t.rowLen, words := [], scales := [], scalePoison := [], epoch := false, rowPoison := false,
    pad := b.drop (elemsBytes (tblFmt t).fmt t.rowLen) }

/-- COPY names no ROUND and SCALE: what it queues is fitted under NEAREST_EVEN (R210). DESIGN CHOICE, assumption 99 (unsafe). -/
def copyWord (t : Table) : FmtWord := { tblFmt t with round := .even, fitted := blockFmt t }

/-- Rows of images written from row `first` of table `u` on. -/
def putRows (m : M) (w : Work) (u first count : Nat) (f : FmtWord) (rows : List RowImg) : M × Res Unit :=
  forEach (fun m (_u : Unit) (x : RowImg × Nat) => rowMade w count (writeRowBits m u (first + x.2) f x.1 w.ctx w.num)) m () rows.zipIdx

/-- A table that a work is about to write rows of: checked by R81, with its frames made ready. -/
def rowsReady (m : M) (w : Work) (u first n : Nat) : M × Res Table :=
  match table? m.core u with
  | none => (m, .fail .accessDenied 0)
  | some t => match tblWritable m.core w t with
    | some (s, d) => (m, .fail s d)
    | none => andThen (rowFrames m t ((List.range n).map (first + ·))) (fun m _ => (m, .ok t))

def copyStep (m : M) (w : Work) : M × Res Unit :=
  let n := w.field 0x20 4
  let sz := copyStepSize m.core w
  let lo := w.step * sz
  let k := min sz (n - lo)
  match readRef w 0, readRef w 0x10 with
  | .raw p, .raw q =>
    andThen (poolReadGood m w (p + BitVec.ofNat 64 lo) k) (fun m b => rawMade m w k (q + BitVec.ofNat 64 lo) b)
  | .table t r, .table u s =>
    let c0 := m.core
    andThen (workRows m w t (r + lo) k) (fun m rows =>
      andThen (rowsReady (movedOnly c0 m) w u (s + lo) k) (fun m x => putRows m w u (s + lo) 1 (copyWord x) rows))
  | .table t r, .raw q =>
    andThen (workRows m w t (r + lo) k) (fun m rows =>
      match table? m.core t with
      | none => (m, .fail .accessDenied 0)
      | some x =>
        match rows.zipIdx.find? (fun i => imgPoisoned i.1) with
        | some (i, j) => (m, .fail .poisoned (firstPoison m.core x (r + lo + j) i))
        | none =>
          let f := (tblFmt x).fmt
          let m := m.on (fun c => addFlags c w.ctx w.num (bitFlags (rows.flatMap (imgValues f []))))
          rawMade m w k (q + BitVec.ofNat 64 (lo * rowSize x)) (rows.flatMap (fun i => padTo (rowSize x) 0 (packElems f i.elems))))
  | .raw p, .table u s =>
    andThen (rowsReady m w u (s + lo) k) (fun m x =>
      andThen (poolReadGood m w (p + BitVec.ofNat 64 (lo * rowSize x)) (k * rowSize x)) (fun m b =>
        putRows m w u (s + lo) 1 (copyWord x)
          ((List.range k).map (fun j => rowOfBytes x ((b.drop (j * rowSize x)).take (rowSize x))))))
  | _, _ => (m, .fail .badDescriptor 0)

def plainStart (c : Core) (w : Work) : Core := startWork c w false 0 0

def copyWork (ctx num : Nat) : M → M :=
  runWork 0x06 ctx num copyCheck plainStart copyStep
    (fun m w => let z := copyStepSize m.core w; (w.field 0x20 4 + z - 1) / z)

/-! ### FILL (R299) -/

def fillCheck (m : M) (w : Work) : M × Res Unit :=
  let c := m.core
  let dst := readRef w 0
  let n := w.field 0x10 4
  if !w.zero 0x1C 0x20 then (m, .fail .badDescriptor 0)
  else match dst with
    | .raw _ => if w.field 0x14 4 = 0 ∧ w.field 0x18 4 = 0 then (m, .ok ()) else (m, .fail .badDescriptor 0)
    | .table tn _ =>
      if !w.zero 0x20 0x40 then (m, .fail .badDescriptor 0)
      else match refCheck c w dst n with
        | some s => (m, .fail s 0)
        | none => match workTable c w tn (w.field 0x14 4) with
          | .inl s => (m, .fail s 0)
          | .inr (_, f) => if cbOk c w f then (m, .ok ()) else (m, .fail .accessDenied 0)
    | .bad => (m, .fail .badDescriptor 0)

def fillSize (w : Work) : Nat := match readRef w 0 with | .raw _ => 65536 | _ => 64

def fillStep (m : M) (w : Work) : M × Res Unit :=
  let n := w.field 0x10 4
  let lo := w.step * fillSize w
  let k := min (fillSize w) (n - lo)
  match readRef w 0 with
  | .raw q =>
    let pat := (w.desc.drop (64 + 0x20)).take 32
    rawMade m w k (q + BitVec.ofNat 64 lo) ((List.range k).map (fun i => pat.getD ((lo + i) % 32) 0))
  | .table tn r =>
    match fmtWord? (w.field 0x14 4) with
    | none => (m, .fail .badDescriptor 0)
    | some f => andThen (rowsReady m w tn (r + lo) k) (fun m t =>
        let vals := List.replicate t.rowLen (some (decodeFp32 (w.field 0x18 4)))
        forEach (fun m (_u : Unit) (j : Nat) => rowMade w 1 (writeRow m tn (r + lo + j) f false w.ctx w.num vals)) m () (List.range k))
  | .bad => (m, .fail .badDescriptor 0)

def fillWork (ctx num : Nat) : M → M :=
  runWork 0x07 ctx num fillCheck plainStart fillStep (fun _ w => (w.field 0x10 4 + fillSize w - 1) / fillSize w)

/-! ### CONVERT (R298) -/

/-- The row length that a CONVERT is cut by: a table's, or none. -/
def refRowLen (c : Core) (r : Ref) : Option Nat :=
  match r with
  | .table t _ => (table? c t).map (·.rowLen)
  | _ => none

/-- Pairs of Table 4-11: only I32 gives I32. -/
def pairOk (src dst : Fmt) : Bool := dst ≠ .i32 || src == .i32

def convertCheck (m : M) (w : Work) : M × Res Unit :=
  let c := m.core
  let src := readRef w 0
  let dst := readRef w 0x10
  let n := w.field 0x20 4
  match fmtWord? (w.field 0x24 4), fmtWord? (w.field 0x28 4) with
  | some sf, some df =>
    let side := fun (r : Ref) (f : FmtWord) (word : Nat) => match r with
      | .table tn _ => match workTable c w tn word with
        | .inl s => some s
        | .inr (t, _) => if n % t.rowLen ≠ 0 then some .badDescriptor else refCheck c w r (n / t.rowLen)
      | .raw _ => if isBlock f.fmt then some .formatUnsupported else none
      | .bad => some .badDescriptor
    let bad := (if w.zero 0x2C 0x40 then none else some .badDescriptor) <|>
      side src sf (w.field 0x24 4) <|> side dst df (w.field 0x28 4) <|>
      (if pairOk sf.fmt df.fmt then none else some Status.formatUnsupported) <|>
      (if cbOk c w sf && cbOk c w df then none else some .accessDenied)
    match bad with
    | some s => (m, .fail s 0)
    | none => (m, .ok ())
  | _, _ => (m, .fail .badDescriptor 0)

/-- Bytes of the RAW side of a CONVERT. -/
def rawBytes (f : Option FmtWord) (n : Nat) : Nat := elemsBytes ((f.map (·.fmt)).getD .fp32) n

/-- Where a side of a CONVERT of `n` elements lies. -/
def convertSpans (c : Core) (w : Work) (off word n : Nat) : List Span :=
  let r := readRef w off
  refSpans c r (n / max 1 ((refRowLen c r).getD 1)) (rawBytes (fmtWord? (w.field word 4)) n)

/-- Elements of a step: 64 rows where a table is reached, else 65,536 elements; all of them when the sides overlap (R300). -/
def convertSize (c : Core) (w : Work) : Nat :=
  let n := w.field 0x20 4
  if overlap (convertSpans c w 0 0x24 n) (convertSpans c w 0x10 0x28 n) then max 1 n
  else match refRowLen c (readRef w 0), refRowLen c (readRef w 0x10) with
    | some a, some b => 64 * a * b / Nat.gcd a b
    | some a, none => 64 * a
    | none, some b => 64 * b
    | none, none => 65536

/-- The element bits and values of the source, with the row images of a table source. -/
def convertRead (m : M) (w : Work) (sf : FmtWord) (lo k : Nat) : M × Res (List FVal × List RowImg × List Nat) :=
  match readRef w 0 with
  | .raw p =>
    let a := lo * elemBits sf.fmt / 8
    andThen (poolReadGood m w (p + BitVec.ofNat 64 a) (elemsBytes sf.fmt k)) (fun m b =>
      let es := getElems sf.fmt b k
      (m, .ok (es.map (decodeElem sf.fmt), [], es)))
  | .table tn r =>
    match table? m.core tn with
    | none => (m, .fail .accessDenied 0)
    | some t => andThen (workRows m w tn (r + lo / t.rowLen) (k / t.rowLen)) (fun m rows =>
        (m, .ok (rows.flatMap (imgValues sf.fmt (tblCb m.core t)), rows, rows.flatMap (·.elems))))
  | .bad => (m, .fail .badDescriptor 0)

/-- The first poisoned word of rows read, for a conversion that consumes it (Table 7-15). -/
def rowsPoison (c : Core) (w : Work) (lo : Nat) (rows : List RowImg) : Option W64 :=
  match readRef w 0 with
  | .table tn r => match table? c tn with
    | some t => (rows.zipIdx.find? (fun x => imgPoisoned x.1)).map (fun (i, j) => firstPoison c t (r + lo / t.rowLen + j) i)
    | none => none
  | _ => none

/-- Rows seen as rows of `n` elements, with their bits, scales and poison marks: a conversion between identical formats (R162). -/
def regroup (f : Fmt) (n : Nat) (rows : List RowImg) : List RowImg :=
  let elems := rows.flatMap (·.elems)
  let bad := rows.flatMap (fun i => (List.range i.elems.length).map (fun k => i.rowPoison || i.words.getD (elemWord f k) false))
  let scales := rows.flatMap (·.scales)
  let scaleBad := rows.flatMap (·.scalePoison)
  (List.range (elems.length / max 1 n)).map (fun j =>
    let b := (bad.drop (j * n)).take n
    { elems := (elems.drop (j * n)).take n,
      words := (List.range ((n * elemBits f + 255) / 256)).map (fun k => b.zipIdx.any (fun (x, i) => x && elemWord f i == k)),
      scales := (scales.drop (j * (n / 32))).take (n / 32), scalePoison := (scaleBad.drop (j * (n / 32))).take (n / 32),
      epoch := false, rowPoison := false, pad := [] })

/-- CONVERT: between identical formats it copies bits (R162), else it decodes and encodes (R160). -/
def convertStep (m : M) (w : Work) : M × Res Unit :=
  let n := w.field 0x20 4
  let sz := convertSize m.core w
  let lo := w.step * sz
  let k := min sz (n - lo)
  match fmtWord? (w.field 0x24 4), fmtWord? (w.field 0x28 4) with
  | some sf, some df =>
    let same := sameBits sf df
    let c0 := m.core
    andThen (convertRead m w sf lo k) (fun m (vals, rows, bits) =>
      match readRef w 0x10 with
      | .raw q =>
        match rowsPoison m.core w lo rows with
        | some d => (m, .fail .poisoned d)
        | none =>
          let (c, out, fl) := if same then (m.core, bits, bitFlags vals) else encodeScalars m.core df vals
          rawMade { m with core := addFlags c w.ctx w.num fl } w k (q + BitVec.ofNat 64 (lo * elemBits df.fmt / 8)) (packElems df.fmt out)
      | .table u s =>
        let moved := same && rows != []
        match (if moved then none else rowsPoison m.core w lo rows) with
        | some d => (m, .fail .poisoned d)
        | none =>
          let len := max 1 ((refRowLen m.core (.table u s)).getD 1)
          let first := s + lo / len
          andThen (rowsReady (if moved then movedOnly c0 m else m) w u first (k / len)) (fun m t =>
            if moved then putRows m w u first t.rowLen df (regroup df.fmt t.rowLen rows)
            else if same then putRows m w u first t.rowLen df ((List.range (k / len)).map (fun j =>
              ⟨(bits.drop (j * len)).take len, [], [], [], false, false, []⟩))
            else forEach (fun m (_u : Unit) (j : Nat) =>
              rowMade w t.rowLen (writeRow m u (first + j) df false w.ctx w.num (((vals.drop (j * len)).take len).map some))) m ()
                (List.range (k / len)))
      | .bad => (m, .fail .badDescriptor 0))
  | _, _ => (m, .fail .badDescriptor 0)

def convertWork (ctx num : Nat) : M → M :=
  runWork 0x08 ctx num convertCheck plainStart convertStep
    (fun m w => let z := convertSize m.core w; (w.field 0x20 4 + z - 1) / z)

/-! ### NOP (R256) and WAIT (R422, R423) -/

def nopWork (ctx num : Nat) : M → M :=
  runWork 0x3F ctx num (fun m _ => (m, .ok ())) plainStart (fun m _ => (m, .ok ())) (fun _ _ => 0)

/-- A WAIT that names an object of another partition is refused; a frozen one gives KEY_REVOKED (R431). -/
def waitCheck (m : M) (w : Work) : M × Res Unit :=
  let s := w.field 0 2
  if !(w.zero 2 8 && w.zero 16 32) then (m, .fail .badDescriptor 0)
  else if !syncOf m.core s (ctxPart m.core w.ctx) then (m, .fail .accessDenied 0)
  else if syncFrozen m.core s then (m, .fail .keyRevoked 0)
  else if syncPoisoned m.core s then (m, .fail .poisoned 0)
  else (m, .ok ())

/-- The WAIT goes on when SYNC has reached VALUE; otherwise it waits on the object. -/
def waitStep (m : M) (w : Work) : M × Res Unit :=
  let s := w.field 0 2
  let v := w.field 8 8
  match sync? m.core s with
  | none => (m, .fail .accessDenied 0)
  | some o =>
    if o.frozen then (m, .fail .keyRevoked 0)
    else if o.poisoned then (m, .fail .poisoned 0)
    else if v ≤ o.count then (m, .ok ())
    else
      let (c, _) := syncWait m.core s v (.work w.ctx w.num)
      ({ m with core := c }, .park (.sync s v))

def waitWork (ctx num : Nat) : M → M := runWork 0x3E ctx num waitCheck plainStart waitStep (fun _ _ => 1)

end Sys2Proof.Machine
end

