-- ==== Sys2Proof/Machine/Expert.lean ====
section
/-! DEFINITION. Expert images and the feed-forward stages (R309 to R317), EXPERT_FFN (R318 to R320) and SPMM (R335 to R337). -/

namespace Sys2Proof.Machine
open Sys2Proof

/-! ### Activation functions (R312, R313)

A function with a bound takes any FP32 value within the bound of its exact value. The exact value is computed here to about
140 bits. -/

def cutF : FVal → FVal
  | .fin n m e => let b := bitLen m; if b ≤ 160 then .fin n m e else .fin n (m / 2 ^ (b - 160)) (e + ((b - 160 : Nat) : Int))
  | v => v

def mulP (a b : FVal) : FVal := cutF (a.mul b)
def addP (a b : FVal) : FVal := cutF (a.add b)

def divP : FVal → FVal → FVal
  | .fin n m e, .fin n' m' e' => if m' = 0 then .nan else
      let k := 200 + bitLen m'
      cutF (.fin (n != n') (m * 2 ^ k / m') (e - e' - (k : Int)))
  | _, _ => .nan

/-- Taylor terms from the i-th: `term` is y^i / i!. -/
def expTerms : Nat → FVal → FVal → Nat → FVal → FVal
  | 0, _, _, _, acc => acc
  | n + 1, y, term, i, acc =>
    let t := divP (mulP term y) (FVal.ofInt (i + 1))
    expTerms n y t (i + 1) (addP acc t)

def squares : Nat → FVal → FVal
  | 0, v => v
  | n + 1, v => squares n (mulP v v)

/-- e^v of a finite value. Beyond ±300 the result stands for every value so large or so small. -/
def expP (v : FVal) : FVal :=
  let v := if (FVal.ofInt 300).lt v then FVal.ofInt 300 else if v.lt (FVal.ofInt (-300)) then FVal.ofInt (-300) else v
  squares 16 (expTerms 20 (cutF (v.scale (-16))) fOne 0 fOne)

/-- An FP32 value within 2^−rel × abs(v) + 2^−149 of `v`, as draw `d` chooses. -/
def pickNear (d rel : Nat) (v : FVal) : FVal :=
  match toFp32 v with
  | .fin n k q =>
    let o : Int := (Config.choice d % 33 : Nat) - 16
    let cand := toFp32 ((FVal.fin n k q).add (.fin (decide (o < 0)) o.natAbs q))
    if ((cand.sub v).abs).le ((v.abs.scale (-(rel : Int))).add (.fin false 1 (-149))) then cand else .fin n k q
  | w => w

/-- x / (1 + e^−y). -/
def sigTimes (x y : FVal) : FVal := divP x (addP fOne (expP y.neg))

/-- An activation table's segments: X, A and B as FP32 values. -/
abbrev ActTable := List (FVal × FVal × FVal)

/-- R313's conditions on the bytes of a table. -/
def actTableOk (b : List Byte) (t : ActTable) : Bool :=
  t.all (fun x => x.1.isFin && x.2.1.isFin && x.2.2.isFin) &&
  ((t.drop 1).zip (t.drop 2)).all (fun (x, y) => x.1.lt y.1) &&
  (List.range 256).all (fun i => ((b.drop (16 * i + 12)).take 4).all (· == 0))

def readActTable (b : List Byte) : ActTable :=
  (List.range 256).map (fun i =>
    let f := fun k => decodeFp32 (leNat ((b.drop (16 * i + k)).take 4))
    (f 0, f 4, f 8))

/-- f of Table 8-4 on an FP32 value. -/
def actFn (act : Nat) (tab : ActTable) (d : Nat) (x : FVal) : FVal :=
  match act, x with
  | 3, .nan => .nan
  | 3, .inf neg o =>
    let (_, a, b) := tab.getD (if neg then 0 else 255) (FVal.zero, FVal.zero, FVal.zero)
    if a.isZero then b else .inf (neg != a.isNeg) o
  | 3, x =>
    let i := (((List.range 256).drop 1).filter (fun i => (tab.getD i (FVal.zero, FVal.zero, FVal.zero)).1.le x)).getLastD 0
    let (_, a, b) := tab.getD i (FVal.zero, FVal.zero, FVal.zero)
    toFp32 ((a.mul x).add b)
  | _, .nan => .nan
  | 2, .inf neg o => if neg then FVal.zero else .inf false o
  | 2, x => if x.isNeg || x.isZero then FVal.zero else toFp32 (x.mul x)
  | _, .inf neg o => if neg then .fin true 0 0 else .inf false o
  | 0, x => pickNear d 22 (sigTimes x x)
  | _, x =>
    -- 0.5 x (1 + tanh z) = x / (1 + e^−2z), z = √(2/π) (x + 0.044715 x³), √(2/π) rounded to FP32
    let x3 := mulP (mulP x x) x
    let z := mulP (decodeFp32 0x3F4C422A) (addP x (mulP (divP (FVal.ofInt 44715) (FVal.ofInt 1000000)) x3))
    pickNear d 22 (sigTimes x (z.scale 1))

/-! ### Images (R309, R310) -/

structure ImgHdr where
  ptr : W64
  act : Nat
  d : Nat
  f : Nat
  capacity : Nat
  gate : W64
  up : W64
  down : W64
  table : W64
deriving DecidableEq, Repr

/-- An image header's bytes checked by R309. DEDUCED, assumption 48 (unsafe). -/
def parseImage (c : Core) (ptr : W64) (b : List Byte) : Option ImgHdr :=
  let n := fun (o k : Nat) => leNat ((b.drop o).take k)
  let room := (match ext? c (ptrExtent ptr) with | some x => extBytes x | none => 0) - ptrOffset ptr
  let d := n 8 4
  let f := n 0x0C 4
  let at_ := fun (o : Nat) => ptr + BitVec.ofNat 64 (n o 8)
  let okOff := fun (o len : Nat) => n o 8 % 32 == 0 && n o 8 + len ≤ room
  if n 0 4 = 0x54535542 ∧ n 4 2 = 1 ∧ n 6 1 ≤ 3 ∧ n 7 1 = 0 ∧ d % 128 = 0 ∧ 128 ≤ d ∧ d ≤ 16384 ∧ f % 128 = 0 ∧ 128 ≤ f ∧
     f ≤ 65536 ∧ n 0x10 4 ≤ 16384 ∧ n 0x14 4 = 0 ∧ (b.drop 0x38).all (· == 0) ∧ okOff 0x18 64 ∧ okOff 0x20 64 ∧ okOff 0x28 64 ∧
     (if n 6 1 = 3 then okOff 0x30 4096 else n 0x30 8 == 0) then
    some { ptr := ptr, act := n 6 1, d := d, f := f, capacity := n 0x10 4, gate := at_ 0x18, up := at_ 0x20, down := at_ 0x28,
           table := at_ 0x30 }
  else none

/-- A matrix of an image (R310). `none` when its header is poisoned. -/
def imageObj (m : M) (p part : Nat) (ptr : W64) (rows cols : Nat) : M × Res (Option MatHdr) :=
  andThen (matHeader m (localReader p part) ptr) (fun m h =>
    match h with
    | none => (m, .ok none)
    | some h =>
      if h.fw.fmt = .bk8 ∨ h.rows ≠ rows ∨ h.cols ≠ cols then (m, .fail .badDescriptor 0)
      else if h.fw.fmt = .cb4 ∧ h.fw.codebook / 16 ≠ part then (m, .fail .accessDenied 0)
      else (m, .ok (some h)))

/-! ### The stages (R314) -/

/-- What an evaluation of a token gives: y, whether poison reached it, and what stage 4 adds to the flags. -/
structure FfnOut where
  vals : List FVal
  poison : Bool
  flags : Flags
deriving DecidableEq, Repr

def fmtCode (h : MatHdr) : Nat :=
  (match h.fw.fmt with | .bk8 => 8 | .bk4 => 9 | .bq4 => 10 | _ => 11) + 256 * h.fw.codebook

def poisonedOuts (toks : List α) (d : Nat) : List FfnOut :=
  toks.map (fun _ => { vals := List.replicate d FVal.zero, poison := true, flags := {} })

/-- Stage 3 on one token's accumulators: h with poison marks, and stage 4: the blocks of h̃ with theirs. -/
def hidden (c : Core) (img : ImgHdr) (tab : ActTable) (quant : Nat) (gs us : List AccSlot) : Core × List ActSlot × Flags :=
  let (c, d) := c.drawN gs.length
  let hs := (gs.zip us).zipIdx.map (fun ((g, u), i) => mulFp32 (actFn img.act tab (d + i) g.val) u.val)
  let bad := chunks32 ((gs.zip us).map (fun (g, u) => g.poison || u.poison))
  let (c, bs, fl) := quantise c quant hs
  (c, (bs.zip bad).map (fun (b, p) => actSlot (quantCode quant) [] b.1 b.2 (p.any id)), fl)

/-- Tokens, given as the blocks of x̃, through one image on engine `n` (Table 8-5, stages 2 to 5). -/
def feedForward (m : M) (n p part : Nat) (img : ImgHdr) (quant : Nat) (toks : List (List (List Nat × Nat))) :
    M × Res (List FfnOut × FirstBad) :=
  andThen (imageObj m p part img.gate img.f img.d) (fun m g =>
    andThen (imageObj m p part img.up img.f img.d) (fun m u =>
      andThen (imageObj m p part img.down img.d img.f) (fun m dn =>
        andThen (if img.act = 3 then localRead m p part img.table 4096 else (m, .ok ([], []))) (fun m (tb, tbad) =>
          let tab := if img.act = 3 then readActTable tb else []
          if img.act = 3 && !tbad.any id && !actTableOk tb tab then (m, .fail .badDescriptor 0)
          else match g, u, dn with
            | some g, some u, some dn =>
              let acts := toks.map (fun bs => bs.map (fun b => actSlot (quantCode quant) [] b.1 b.2 false))
              andThen (product m n p part g (fmtCode g) (List.range (img.f / 128)) acts) (fun m (gs, b1) =>
                andThen (product m n p part u (fmtCode u) (List.range (img.f / 128)) acts) (fun m (us, b2) =>
                  let (c, hs) := (gs.zip us).foldl (fun (c, l) (g, u) =>
                    let (c, h, fl) := hidden c img tab quant g u
                    (c, l ++ [(h, fl)])) (m.core, [])
                  let m := { m with core := c }
                  andThen (product m n p part dn (fmtCode dn) (List.range (img.d / 128)) (hs.map (·.1))) (fun m (ys, b3) =>
                    let tp := tbad.any id
                    let fb := orBad (orBad b1 b2) (orBad b3 (if tp then some img.table else none))
                    (m.on (fun c => endStepStore c n),
                     .ok ((ys.zip hs).map (fun (y, h) =>
                       { vals := y.map (·.val), poison := tp || y.any (·.poison), flags := h.2 }), fb)))))
            | _, _, _ => (m, .ok (poisonedOuts toks img.d, some img.ptr))))))

/-! ### Rows of tokens -/

def scalar3 (f : Fmt) : Bool := f == .fp32 || f == .bf16 || f == .fp16

/-- Rows `i` of scalar values at stride S of an array field: the values, or poison with its pointer. -/
def tokenRow (m : M) (w : Work) (inl : Bool) (field : W64) (f : Fmt) (len i : Nat) : M × Res (List FVal × FirstBad) :=
  let s := rowStride f len
  andThen (arrayReadMarked m w inl field (i * s) (elemsBytes f len)) (fun m (b, bad) =>
    (m, .ok ((getElems f b len).map (decodeElem f),
      if bad.any id then some (field + BitVec.ofNat 64 (i * s)) else none)))

/-- The work still runs: no fence met in the step has ended it (R33). -/
def stillRuns (c : Core) (w : Work) : Bool := match work? c w.ctx w.num with | some w => liveWork w | none => false

/-- An FP32 result row encoded by its format word (stage 7) and padded to the stride. -/
def outRow (c : Core) (w : Work) (o : FmtWord) (vals : List FVal) : Core × List Byte :=
  let (c, bits, fl) := encodeScalars c o vals
  (addFlags c w.ctx w.num fl, resultRow o.fmt bits)

def freshTok (tok : Nat) : RouteTok := { tok := tok, assigns := [], combine := [], poisoned := false, done := false }
def modTok (c : Core) (w : Work) (tok : Nat) (f : RouteTok → RouteTok) : Core :=
  modWork c w.ctx w.num (fun w => { w with route := amSet w.route tok (f ((amGet? w.route tok).getD (freshTok tok))) })

/-! ### EXPERT_FFN (R318 to R320) -/

def ffnCheck (m : M) (w : Work) : M × Res Unit :=
  let c := m.core
  let ntok := w.field 0 4
  let nimg := w.field 4 1
  let k := w.field 5 1
  let flags := w.field 6 2
  let d := w.field 8 4
  let inl := bitOf flags 0
  match fmtWord? (w.field 0x0C 4), fmtWord? (w.field 0x10 4) with
  | some x, some o =>
    let xs := ntok * rowStride x.fmt d
    let bad := firstFail [
      (1 ≤ ntok && ntok ≤ 65536 && 1 ≤ nimg && nimg ≤ 64 && 1 ≤ k && k ≤ 8, .badDescriptor),
      (bitsOf flags 4 1 == 0 && bitsOf flags 15 6 == 0 && w.field 0x14 1 ≤ 2 && w.zero 0x15 0x18 && w.zero 0x40 0x60, .badDescriptor),
      (d % 128 == 0 && 128 ≤ d && d ≤ 16384, .badDescriptor),
      (scalar3 x.fmt && scalar3 o.fmt, .formatUnsupported),
      (arrayOk w 160 inl (w.ptr 0x18) xs 1, .badDescriptor),
      (arrayOk w 160 inl (w.ptr 0x20) (8 * nimg) 4, .badDescriptor),
      (arrayOk w 160 inl (w.ptr 0x28) (8 * ntok * k) 4, .badDescriptor),
      (resOk c w.ctx (w.ptr 0x30) (ntok * rowStride o.fmt d), .badDescriptor),
      (statusOk c w (bitOf flags 5) (w.ptr 0x38) ntok, .badDescriptor)]
    match bad with
    | some s => (m, .fail s 0)
    | none =>
      match (arrayCheck c w inl (w.ptr 0x18) xs).map (·, w.ptr 0x18) <|>
          (arrayCheck c w inl (w.ptr 0x20) (8 * nimg)).map (·, w.ptr 0x20) <|>
          (arrayCheck c w inl (w.ptr 0x28) (8 * ntok * k)).map (·, w.ptr 0x28) with
      | some (s, e) => (m, .fail s e)
      | none =>
        andThen (arrayRead m w inl (w.ptr 0x20) 0 (8 * nimg)) (fun m ib =>
          andThen (arrayRead m w inl (w.ptr 0x28) 0 (8 * ntok * k)) (fun m ab =>
            let here := (List.range nimg).all (fun i => ptrChip (BitVec.ofNat 64 (leNat ((ib.drop (8 * i)).take 8))) == c.chipId)
            let ents := (List.range (ntok * k)).map (fun i => leNat ((ab.drop (8 * i)).take 8))
            let entOk := fun (e : Nat) =>
              (bitsOf e 7 0 == 0xFF || bitsOf e 7 0 < nimg) && bitsOf e 31 8 == 0 && (decodeFp32 (bitsOf e 63 32)).isFin
            if here && ents.all entOk then (m, .ok ()) else (m, .fail .badDescriptor 0)))
  | _, _ => (m, .fail .badDescriptor 0)

def ffnStart (c : Core) (w : Work) : Core := startWork c w (bitOf (w.field 6 2) 5) (w.ptr 0x38) (w.field 0 4)

/-- Stage 6 and 7 of one token of EXPERT_FFN: its row, its item and its place in COUNT (R320). -/
def ffnFinish (w : Work) (o : FmtWord) (d : Nat) (imgs : List W64) (c : Core) (x : Nat × List Nat) : Core :=
  let (tok, ents) := x
  let live := ents.filter (fun e => bitsOf e 7 0 ≠ 0xFF)
  let s := rowStride o.fmt d
  let put := fun (c : Core) (b : List Byte) => agentWrite c w.ctx w.num (w.ptr 0x30 + BitVec.ofNat 64 (tok * s)) b
  let st := ((work? c w.ctx w.num).bind (fun w => amGet? w.route tok)).getD (freshTok tok)
  let c := modWork c w.ctx w.num (fun w => { w with route := amDel w.route tok })
  if live = [] then
    let (c, b) := outRow c w o (List.replicate d FVal.zero)
    setItem (put c b) w.ctx w.num tok 3
  else if st.poisoned then setItem (put c (List.replicate s 0)) w.ctx w.num tok 2
  else
    let y := fun (e : Nat) => ((st.combine.find? (fun q => imgs.getD q.1 0 == imgs.getD (bitsOf e 7 0) 0)).map (·.2)).getD []
    let rows := live.map (fun e => (y e).map (mulFp32 (decodeFp32 (bitsOf e 63 32))))
    let (c, dr) := c.drawN (2 * d * (live.length + 1))
    let (c, b) := outRow c w o (sumRows dr d rows)
    addCount (setItem (put c b) w.ctx w.num tok 1) w 1

/-- EXPERT_FFN: a group of 32 tokens through one image; the group's rows are written with its last image. -/
def ffnStep (m : M) (w : Work) : M × Res Unit :=
  let ntok := w.field 0 4
  let nimg := w.field 4 1
  let k := w.field 5 1
  let inl := bitOf (w.field 6 2) 0
  let d := w.field 8 4
  let quant := w.field 0x14 1
  let part := ctxPart m.core w.ctx
  let grp := w.step / nimg
  let slot := w.step % nimg
  let first := 32 * grp
  let cnt := min 32 (ntok - first)
  match fmtWord? (w.field 0x0C 4), fmtWord? (w.field 0x10 4), w.engine with
  | some xf, some o, some n =>
    andThen (arrayRead m w inl (w.ptr 0x20) 0 (8 * nimg)) (fun m ib =>
      andThen (arrayRead m w inl (w.ptr 0x28) (8 * k * first) (8 * k * cnt)) (fun m ab =>
        let imgs := (List.range nimg).map (fun i => BitVec.ofNat 64 (leNat ((ib.drop (8 * i)).take 8)))
        let img := imgs.getD slot 0
        let toks := (List.range cnt).map (fun i =>
          (first + i, (List.range k).map (fun j => leNat ((ab.drop (8 * (k * i + j))).take 8))))
        let uses := fun (es : List Nat) => es.any (fun e => bitsOf e 7 0 ≠ 0xFF && imgs.getD (bitsOf e 7 0) 0 == img)
        let mine := if imgs.idxOf img < slot then [] else (toks.filter (fun t => uses t.2)).map (·.1)
        let fin := fun (m : M) => if slot + 1 = nimg then m.on (fun c => toks.foldl (ffnFinish w o d imgs) c) else m
        if mine = [] then (fin m, .ok ())
        else
          andThen (forEach (fun m (acc : List (Nat × List FVal × FirstBad)) t =>
              andThen (tokenRow m w inl (w.ptr 0x18) xf.fmt d t) (fun m (v, b) => (m, .ok (acc ++ [(t, v, b)])))) m [] mine)
            (fun m rows =>
              andThen (localRead m (w.ctx % 4) part img 256) (fun m (hb, hbad) =>
                let bad := rows.filter (fun r => r.2.2.isSome)
                let good := rows.filter (fun r => r.2.2.isNone)
                let spoil := fun (c : Core) (t : Nat) (p : W64) =>
                  noteFail (modTok c w t (fun r => { r with poisoned := true })) w.ctx w.num .poisoned p
                let m := m.on (fun c => bad.foldl (fun c r => spoil c r.1 (r.2.2.getD 0)) c)
                if hbad.any id then (fin (m.on (fun c => good.foldl (fun c r => spoil c r.1 img) c)), .ok ())
                else match parseImage m.core img hb with
                  | none => (m, .fail .badDescriptor 0)
                  | some ih =>
                    if ih.d ≠ d then (m, .fail .badDescriptor 0)
                    else
                      let (c, qs, fl) := good.foldl (fun (c, l, fl) r =>
                        let (c, bs, f) := quantise c quant r.2.1
                        (c, l ++ [bs], fl.add f)) (m.core, [], ({} : Flags))
                      let m := { m with core := c }
                      andThen (feedForward m n (w.ctx % 4) part ih quant qs) (fun m (ys, fb) =>
                        if !stillRuns m.core w then (m, .fail .internalFault 0)
                        else
                          let c := addFlags m.core w.ctx w.num ((ys.map (·.flags)).foldl Flags.add fl)
                          let c := (good.zip ys).foldl (fun c (r, y) =>
                            if y.poison then spoil c r.1 (fb.getD img)
                            else modTok c w r.1 (fun t => { t with combine := t.combine ++ [(slot, y.vals)] })) c
                          (fin { m with core := c }, .ok ()))))))
  | _, _, _ => (m, .fail .badDescriptor 0)

def ffnWork (ctx num : Nat) : M → M :=
  runWork 0x11 ctx num ffnCheck ffnStart ffnStep (fun _ w => (w.field 0 4 + 31) / 32 * w.field 4 1)

/-! ### SPMM (R335 to R337) -/

/-- The object of an SPMM, whose header is good. -/
def spmmObj (m : M) (w : Work) : M × Res MatHdr :=
  andThen (matHeader m (localReader (w.ctx % 4) (ctxPart m.core w.ctx)) (w.ptr 0)) (fun m h =>
    match h with
    | none => (m, .fail .poisoned (w.ptr 0))
    | some h => if h.fw.fmt = .cb4 ∧ h.fw.codebook / 16 ≠ ctxPart m.core w.ctx then (m, .fail .accessDenied 0) else (m, .ok h))

/-- A side of SPMM agrees with its table (R265, R336), or is a RAW side of scalar rows. -/
def spmmSide (c : Core) (w : Work) (r : Ref) (f : FmtWord) (n : Nat) (wr : Bool) : Option (Status × W64) :=
  match r with
  | .bad => some (.badDescriptor, 0)
  | .raw _ => if isBlock f.fmt then some (.formatUnsupported, 0) else none
  | .table tn _ => match refCheck c w r n, table? c tn with
    | some s, _ => some (s, 0)
    | none, some t => if !sameTableFmt f (tblFmt t) then some (.badDescriptor, 0) else tblAccess c w t wr
    | none, none => some (.accessDenied, 0)

/-- A side's rows have `len` elements (R336), and a RAW side of this chip may be accessed whole (R81). -/
def sideFits (c : Core) (w : Work) (r : Ref) (f : FmtWord) (len n : Nat) (rd wr : Bool) : Option (Status × W64) :=
  match r with
  | .raw p => if !servedHere c (ptrChip p) then none else (workCheck c w p (n * rowStride f.fmt len) rd wr).map (·, p)
  | .table tn _ => if (table? c tn).all (fun t => t.rowLen == len) then none else some (.badDescriptor, 0)
  | .bad => some (.badDescriptor, 0)

/-- The sides of an SPMM fit the dimensions of its object (R225, R336); with ACCUM the destination is read as well. -/
def spmmFits (c : Core) (w : Work) (bf cf : FmtWord) (h : MatHdr) : Option (Status × W64) :=
  let n := w.field 0x30 4
  let flags := w.field 0x34 2
  sideFits c w (readRef w 8) bf h.cols n true false <|>
  (if bitOf flags 0 then
    if resOk c w.ctx (w.ptr 0x28) (n * rowStride cf.fmt h.rows) then none else some (.badDescriptor, 0)
  else sideFits c w (readRef w 0x18) cf h.rows n (bitOf flags 1) true)

/-- Before an SPMM starts, its body is checked, and against its object where that can be read. A malformed, poisoned or unreadable
object stops the work at its step (R307, Table 8-11). -/
def spmmCheck (m : M) (w : Work) : M × Res Unit :=
  let c := m.core
  let n := w.field 0x30 4
  let flags := w.field 0x34 2
  let toAgent := bitOf flags 0
  let accum := bitOf flags 1
  match fmtWord? (w.field 0x38 4), fmtWord? (w.field 0x3C 4) with
  | some bf, some cf =>
    let bad := firstFail [
      (ptrChip (w.ptr 0) == c.chipId && 1 ≤ n && n ≤ 1048576, .badDescriptor),
      (bitsOf flags 4 2 == 0 && bitsOf flags 15 6 == 0 && !(accum && toAgent), .badDescriptor),
      (w.field 0x36 1 ≤ 2 && w.field 0x37 1 == 0 && w.zero 0x44 0x48 && w.zero 0x50 0x60, .badDescriptor),
      ((decodeFp32 (w.field 0x40 4)).isFin, .badDescriptor),
      (if toAgent then w.zero 0x18 0x28 else w.field 0x28 8 == 0, .badDescriptor),
      (scalar3 bf.fmt || isBlock bf.fmt, .formatUnsupported),
      (cf.fmt != .i32 && (!toAgent || !isBlock cf.fmt), .formatUnsupported),
      (cbOk c w bf && cbOk c w cf, .accessDenied),
      (statusOk c w (bitOf flags 5) (w.ptr 0x48) n, .badDescriptor)]
    let sides := bad.map (·, (0 : W64)) <|> spmmSide c w (readRef w 8) bf n false <|>
      (if toAgent then none else spmmSide c w (readRef w 0x18) cf n true) <|>
      (if accum then spmmSide c w (readRef w 0x18) cf n false else none)
    match sides with
    | some (s, d) => (m, .fail s d)
    | none => match spmmObj m w with
      | (m, .ok h) => (m, match spmmFits m.core w bf cf h with
        | some (s, d) => .fail s d
        | none => .ok ())
      | (m, .park k) => (m, .park k)
      | (_, .fail _ _) => (m, .ok ())
  | _, _ => (m, .fail .badDescriptor 0)

def spmmStart (c : Core) (w : Work) : Core := startWork c w (bitOf (w.field 0x34 2) 5) (w.ptr 0x48) (w.field 0x30 4)

/-- Column `j` of B as activation blocks; poison of the column, with its pointer. -/
def spmmColumn (m : M) (w : Work) (bf : FmtWord) (cols j : Nat) : M × Res (List ActSlot × Flags × FirstBad) :=
  let scalars := fun (m : M) (vals : List FVal) (fb : FirstBad) =>
    let (c, bs, fl) := quantise m.core (w.field 0x36 1) vals
    (({ m with core := c }, .ok (bs.map (fun b => actSlot (quantCode (w.field 0x36 1)) [] b.1 b.2 false), fl, fb)) :
      M × Res (List ActSlot × Flags × FirstBad))
  match readRef w 8 with
  | .raw p => andThen (tokenRow m w false p bf.fmt cols j) (fun m (v, fb) => scalars m v fb)
  | .table tn first =>
    match table? m.core tn with
    | none => (m, .fail .accessDenied 0)
    | some t =>
      match tblAccess m.core w t false with
      | some (s, d) => (m, .fail s d)
      | none =>
        andThen (readRow m tn t (first + j)) (fun m img =>
          let fb := if imgPoisoned img then some (firstPoison m.core t (first + j) img) else none
          let cb := tblCb m.core t
          if isBlock bf.fmt then
            let code := (w.field 0x38 4) % 16 + 256 * bf.codebook
            (m, .ok ((chunks32 img.elems).zipIdx.map (fun (e, i) => actSlot code cb e (img.scales.getD i 0) false), {}, fb))
          else scalars m (imgValues bf.fmt cb img) fb)
  | .bad => (m, .fail .badDescriptor 0)

/-- A read whose data a later try of the step uses again: ACCUM reads what the work then writes (R337). -/
def keptRead (m : M) (w : Work) (p : W64) (len : Nat) : M × Res (List Byte × List Bool) :=
  match w.fetched.find? (fun f => f.ptr == p && f.len == len && !f.write) with
  | some f => if f.status = .done then (m, .ok (f.data, f.poisons)) else (m, .fail f.status p)
  | none => andThen (poolRead m w p len) (fun m (b, ps) =>
      (m.on (fun c => modWork c w.ctx w.num (fun v => { v with
        fetched := { ptr := p, len := len, write := false, data := b, poisons := ps, status := .done } :: v.fetched })), .ok (b, ps)))

/-- The stored values of part of a row of C with poison marks (R337), for ACCUM. -/
def spmmOld (m : M) (w : Work) (cf : FmtWord) (rows j lo n : Nat) : M × Res (List FVal × List Bool) :=
  match readRef w 0x18 with
  | .raw p =>
    let q := p + BitVec.ofNat 64 (j * rowStride cf.fmt rows + elemsBytes cf.fmt lo)
    andThen (keptRead m w q (elemsBytes cf.fmt n)) (fun m (b, ps) =>
      (m, .ok ((getElems cf.fmt b n).map (decodeElem cf.fmt),
        (List.range n).map (fun i => poisonAt (ptrOffset q) ps (i * elemBits cf.fmt / 8)))))
  | .table tn first =>
    match table? m.core tn with
    | none => (m, .fail .accessDenied 0)
    | some t =>
      if midRecast t (first + j) then (m, .park (.rowLock tn (first + j)))
      else andThen (readRow m tn t (first + j)) (fun m img =>
        (m, .ok (((imgValues cf.fmt (tblCb m.core t) img).drop lo).take n,
          (List.range n).map (fun i => elemPoison cf.fmt img (lo + i)))))
  | .bad => (m, .fail .badDescriptor 0)

/-- Column `j` met poison at `d`: its item is POISONED (Table 8-11). -/
def spoilColumn (m : M) (w : Work) (j : Nat) (d : W64) : M :=
  m.on (fun c => noteFail (setItem c w.ctx w.num j 2) w.ctx w.num .poisoned d)

/-- The words, by number in the extent, that hold the poisoned values of a scalar row part at offset `off`. -/
def spoiltWords (f : Fmt) (off : Nat) (vals : List (FVal × Bool)) : List Nat :=
  distinctOf ((vals.zipIdx.filter (fun x => x.1.2)).map (fun x => (off + x.2 * elemBits f / 8) / 32))

/-- The part of column `j`'s result row that a step makes, written to the agent, to the pool or to a table. Values come with
poison marks: a poisoned one is never encoded, and its word is written poisoned (R361); data that holds one is not sent to another
chip (R574). -/
def spmmPut (m : M) (w : Work) (cf : FmtWord) (rows j lo : Nat) (vals : List (FVal × Bool)) (spoilt last : Bool) : M × Res Unit :=
  let s := rowStride cf.fmt rows
  let off := j * s + elemsBytes cf.fmt lo
  let pad := List.replicate (if last then s - elemsBytes cf.fmt rows else 0) (0 : Byte)
  let clean := vals.map (fun v => if v.2 then FVal.zero else v.1)
  if bitOf (w.field 0x34 2) 0 then
    if spoilt then
      (m.on (fun c => agentWrite c w.ctx w.num (w.ptr 0x28 + BitVec.ofNat 64 (j * s)) (List.replicate s 0)), .ok ())
    else
      let (c, bits, fl) := encodeScalars m.core cf clean
      let c := addFlags c w.ctx w.num fl
      ({ m with core := agentWrite c w.ctx w.num (w.ptr 0x28 + BitVec.ofNat 64 off) (packElems cf.fmt bits ++ pad) }, .ok ())
  else match readRef w 0x18 with
    | .raw q =>
      let here := servedHere m.core (ptrChip q)
      if !here && vals.any (·.2) then (m, .ok ())
      else
        let (c, bits, fl) := encodeScalars m.core cf clean
        let m := { m with core := addFlags c w.ctx w.num fl }
        andThen (poolWrite m w (q + BitVec.ofNat 64 off) (packElems cf.fmt bits ++ pad)) (fun m hit =>
          let m := match hit with
            | some d => spoilColumn m w j d
            | none => m
          ((spoiltWords cf.fmt (ptrOffset q + off) vals).foldl (fun m k =>
            (writeMarked m (w.ctx % 4) (ptrExtent q) k [(List.replicate 32 0, true)]).1) m, .ok ()))
    | .table tn first =>
      let row := first + j
      let ws := distinctOf ((vals.zipIdx.filter (fun x => x.1.2)).map (fun x => elemWord cf.fmt (lo + x.2)))
      let full := List.replicate lo none ++ vals.map (fun v => if v.2 then none else some v.1) ++
        List.replicate (rows - lo - vals.length) none
      andThen (if vals.all (·.2) then (m, .ok ⟨[], false, {}, []⟩) else writeRow m tn row cf false w.ctx w.num full) (fun m res =>
        let m := m.on (fun c => addFlags c w.ctx w.num res.flags)
        let m := if res.bad = [] then m else spoilColumn m w j res.ptr
        if ws = [] then (m, .ok ()) else poisonRow m tn row (fun k => ws.contains k))
    | .bad => (m, .fail .badDescriptor 0)

/-- SPMM: 128 rows of A against 32 columns. Step s makes row group s mod G of columns 32 × floor(s / G). -/
def spmmStep (m : M) (w : Work) : M × Res Unit :=
  let n := w.field 0x30 4
  let accum := bitOf (w.field 0x34 2) 1
  let alpha := decodeFp32 (w.field 0x40 4)
  match fmtWord? (w.field 0x38 4), fmtWord? (w.field 0x3C 4), w.engine with
  | some bf, some cf, some en =>
    andThen (spmmObj m w) (fun m h =>
      let groups := (h.rows + 127) / 128
      let g := w.step % groups
      let j0 := 32 * (w.step / groups)
      let cols := (List.range (min 32 (n - j0))).map (j0 + ·)
      let lo := 128 * g
      let live := min 128 (h.rows - lo)
      let dest := if bitOf (w.field 0x34 2) 0 then none else match readRef w 0x18 with
        | .table tn first => some (tn, first + j0)
        | _ => none
      match spmmFits m.core w bf cf h with
      | some (s, d) => (m, .fail s d)
      | none =>
        andThen (match dest with
          | some (tn, r) => andThen (rowsReady m w tn r cols.length) (fun m _ => (m, Res.ok ()))
          | none => (m, Res.ok ())) (fun m _ =>
        andThen (forEach (fun m (acc : List (List ActSlot × Flags × FirstBad)) j =>
            andThen (spmmColumn m w bf h.cols j) (fun m x => (m, .ok (acc ++ [x])))) m [] cols) (fun m bs =>
          andThen (if accum then forEach (fun m (acc : List (List FVal × List Bool)) j =>
              andThen (spmmOld m w cf h.rows j lo live) (fun m x => (m, .ok (acc ++ [x])))) m [] cols
            else (m, .ok (cols.map (fun _ => ([], []))))) (fun m olds =>
            andThen (product m en (w.ctx % 4) (ctxPart m.core w.ctx) h (fmtCode h) [g] (bs.map (·.1))) (fun m (accs, fb) =>
              let m := m.on (fun c => endStepStore c en)
              if !stillRuns m.core w then (m, .fail .internalFault 0)
              else
                -- stage 1's flags count once, with the column's first group
                let m := if g = 0 then m.on (fun c => bs.foldl (fun c b => if b.2.2.isSome then c else addFlags c w.ctx w.num b.2.1) c) else m
                forEach (fun m (_u : Unit) (x : Nat × (List ActSlot × Flags × FirstBad) × (List FVal × List Bool) × List AccSlot) =>
                  let (j, b, old, acc) := x
                  let vals := acc.zipIdx.map (fun (a, i) =>
                    let v := mulFp32 alpha a.val
                    (if accum then addFp32 (old.1.getD i FVal.zero) v else v, a.poison || b.2.2.isSome || old.2.getD i false))
                  let bad := vals.any (·.2)
                  let m := if bad then spoilColumn m w j ((orBad b.2.2 fb).getD (w.ptr 0)) else m
                  let spoilt := match work? m.core w.ctx w.num with | some w => amGet w.items j 0 == 2 | none => false
                  andThen (spmmPut m w cf h.rows j lo vals spoilt (g + 1 == groups)) (fun m _ =>
                    let now := match work? m.core w.ctx w.num with | some w => amGet w.items j 0 | none => 0
                    if g + 1 = groups ∧ now ≠ 2 then (m.on (fun c => addCount (setItem c w.ctx w.num j 1) w 1), .ok ())
                    else (m, .ok ()))) m () (cols.zip (bs.zip (olds.zip accs))))))))
  | _, _, _ => (m, .fail .badDescriptor 0)

/-- Steps of an SPMM: none is known before its object's header is read. -/
def spmmSteps (m : M) (w : Work) : Nat :=
  match spmmObj m w with
  | (_, .ok h) => (h.rows + 127) / 128 * ((w.field 0x30 4 + 31) / 32)
  | _ => w.step + 1

def spmmWork (ctx num : Nat) : M → M := runWork 0x12 ctx num spmmCheck spmmStart spmmStep spmmSteps

end Sys2Proof.Machine
end

