-- ==== Sys2Proof/Machine/RaspIns.lean ====
section
/-! DEFINITION. The encoding of rasp instructions (R371 to R373): an instruction as its form's fields, which words are
reserved, and the word of each instruction. -/

namespace Sys2Proof.Machine
open Sys2Proof

/-- An instruction by its form and fields (Table 10-4). Immediates and offsets are the field's bits. -/
inductive RIns where
  | fT (major d a b func : Nat)
  | fI (major d a imm : Nat)
  | fB (major a b off : Nat)
  | fJ (major off : Nat)
  | fV (major vd va vb m w func : Nat)
  | fX (major vd va s m w func : Nat)
deriving DecidableEq, Repr

/-- The forms of Table 10-5 and Table 10-6 by MAJOR. -/
inductive RForm where
  | t | i | b | j | v | x
deriving DecidableEq, Repr

def formOf (major : Nat) : Option RForm :=
  if major = 0x01 ∨ major = 0x1F ∨ major = 0x20 ∨ major = 0x21 ∨ major = 0x28 ∨ major = 0x2C ∨ major = 0x2D ∨ major = 0x2E ∨
     major = 0x3F then some .t
  else if (0x02 ≤ major ∧ major ≤ 0x09) ∨ (0x0C ≤ major ∧ major ≤ 0x17) then some .i
  else if 0x18 ≤ major ∧ major ≤ 0x1D then some .b
  else if major = 0x1E then some .j
  else if major = 0x24 ∨ major = 0x25 then some .v
  else if major = 0x26 then some .x
  else none

/-- FUNC values of form T by MAJOR, and whether B must be zero for one (Table 10-5). -/
def funcT (major func b : Nat) : Bool :=
  match major with
  | 0x01 => func ≤ 13 || (16 ≤ func && func ≤ 22) || (24 ≤ func && func ≤ 26 && b == 0)
  | 0x1F => func == 0 && b == 0
  | 0x20 => func ≤ 12 && (!(func == 4 || func == 11 || func == 12) || b == 0)
  | 0x21 => func == 0
  | 0x28 => func ≤ 1
  | 0x2C => func ≤ 3
  | 0x2D => func ≤ 3
  | 0x2E => func ≤ 1
  | 0x3F => func ≤ 7
  | _ => false

/-- Special registers (Table 10-3): 15 of them, of which FMT and DVPREV can be written. -/
def specialRw (n : Nat) : Bool := n == 11 || n == 12

/-- The instruction is not reserved (R372, R368): every field fits, its FUNC is listed, fields required to be zero are, its W
is permitted and a pair it writes begins at an even register. DEDUCED, assumption 45 (unsafe). -/
def RIns.legal : RIns → Bool
  | .fT major d a b func =>
    formOf major == some .t && d < 32 && a < 32 && b < 32 && func < 2048 && funcT major func b &&
    (major ≠ 0x3F || (func ≠ 2 || b ≤ 14) && (func ≠ 3 || specialRw d))
  | .fI major d a imm =>
    formOf major == some .i && d < 32 && a < 32 && imm < 65536 &&
    (major ≠ 0x06 || imm / 64 ≤ 2) && (major ≠ 0x08 || a == 0) && (major ≠ 0x09 || a ≤ 3)
  | .fB major a b off => formOf major == some .b && a < 32 && b < 32 && off < 65536
  | .fJ major off => formOf major == some .j && off < 67108864
  | .fV major vd va vb m w func =>
    formOf major == some .v && vd < 16 && va < 16 && vb < 16 && m < 4 && w < 4 && func < 1024 &&
    (if major = 0x24 then
      (func ≤ 12 || (16 ≤ func && func ≤ 18 && vd ≤ 3) || (20 ≤ func && func ≤ 27) ||
        (func == 28 && w == 0 && m == 0 && vd % 2 == 0) || (func == 29 && w == 0))
     else func ≤ 12 && w == 0 && (!(8 ≤ func && func ≤ 10) || vd ≤ 3))
  | .fX major vd va s m w func =>
    formOf major == some .x && vd < 16 && va < 16 && s < 32 && m < 4 && w < 4 && func < 512 && func ≤ 14 &&
    (!(8 ≤ func && func ≤ 10) || w == 0) && (func ≠ 11 || vd % 2 == 0)

/-- An instruction with the fields that it does not use read as zeros: R372 asks zeros of no such field.
DEDUCED, assumption 45 (unsafe). -/
def RIns.canon : RIns → RIns
  | .fT major d a b func =>
    if major = 0x28 then .fT major d a 0 func
    else if major = 0x2C then
      (if func = 0 then .fT major d 0 0 func else if func = 3 then .fT major 0 0 0 func else .fT major d a 0 func)
    else if major = 0x2D then
      (if func = 0 then .fT major 0 a 0 func else if func = 1 then .fT major d a 0 func
       else if func = 2 then .fT major 0 a b func else .fT major d a b func)
    else if major = 0x3F then
      (if func = 1 then .fT major 0 a b func else if func = 2 then .fT major d 0 b func
       else if func = 3 then .fT major d a 0 func else .fT major 0 0 0 func)
    else .fT major d a b func
  | .fV major vd va vb m w func =>
    if major = 0x24 ∧ (func = 22 ∨ 24 ≤ func) ∨ major = 0x25 ∧ (func = 4 ∨ 11 ≤ func) then .fV major vd va 0 m w func
    else .fV major vd va vb m w func
  | .fX major vd va s m w func =>
    if func = 0 ∨ func = 10 then .fX major vd 0 s m w func
    else if func = 1 then .fX major 0 va s 0 w func
    else if func = 2 ∨ func = 4 ∨ func = 6 then .fX major vd 0 s m w func
    else if func = 3 ∨ func = 5 ∨ func = 7 ∨ func = 12 then .fX major vd 0 s 0 0 func
    else if func = 11 then .fX major vd 0 s m 0 func
    else if func = 13 then .fX major vd va s m 0 func
    else if func = 14 then .fX major 0 0 s m w func
    else .fX major vd va s m w func
  | i => i

/-- The word of an instruction (Table 10-4). -/
def encodeRasp : RIns → Nat
  | .fT major d a b func => major * 2 ^ 26 + d * 2 ^ 21 + a * 2 ^ 16 + b * 2 ^ 11 + func
  | .fI major d a imm => major * 2 ^ 26 + d * 2 ^ 21 + a * 2 ^ 16 + imm
  | .fB major a b off => major * 2 ^ 26 + a * 2 ^ 21 + b * 2 ^ 16 + off
  | .fJ major off => major * 2 ^ 26 + off
  | .fV major vd va vb m w func => major * 2 ^ 26 + vd * 2 ^ 22 + va * 2 ^ 18 + vb * 2 ^ 14 + m * 2 ^ 12 + w * 2 ^ 10 + func
  | .fX major vd va s m w func => major * 2 ^ 26 + vd * 2 ^ 22 + va * 2 ^ 18 + s * 2 ^ 13 + m * 2 ^ 11 + w * 2 ^ 9 + func

/-- The fields of a word by the form of its MAJOR. -/
def fieldsOf (w : Nat) : Option RIns :=
  let major := w / 2 ^ 26
  match formOf major with
  | some .t => some (.fT major (bitsOf w 25 21) (bitsOf w 20 16) (bitsOf w 15 11) (bitsOf w 10 0))
  | some .i => some (.fI major (bitsOf w 25 21) (bitsOf w 20 16) (bitsOf w 15 0))
  | some .b => some (.fB major (bitsOf w 25 21) (bitsOf w 20 16) (bitsOf w 15 0))
  | some .j => some (.fJ major (bitsOf w 25 0))
  | some .v => some (.fV major (bitsOf w 25 22) (bitsOf w 21 18) (bitsOf w 17 14) (bitsOf w 13 12) (bitsOf w 11 10) (bitsOf w 9 0))
  | some .x => some (.fX major (bitsOf w 25 22) (bitsOf w 21 18) (bitsOf w 17 13) (bitsOf w 12 11) (bitsOf w 10 9) (bitsOf w 8 0))
  | none => none

/-- The instruction that a word encodes; `none` for a reserved word (R372). -/
def decodeRasp (w : Nat) : Option RIns :=
  match fieldsOf w with
  | some i => if i.legal then some i else none
  | none => none

/-- A signed field of `w` bits. -/
def immS (imm : Nat) : Int := sext 16 imm

end Sys2Proof.Machine
end

