-- ==== Sys2Proof/Machine/RaspVec.lean ====
section
/-! DEFINITION. What rasp instructions compute (R373 to R377): 64-bit and lane integers, FP32, lanes and masks. -/

namespace Sys2Proof.Machine
open Sys2Proof

/-! ### Integers (R374) -/

/-- A result of width `w` from an integer. -/
def wrapI (w : Nat) (i : Int) : Nat := (i % (2 ^ w : Nat)).toNat

def clz (w v : Nat) : Nat := w - bitLen v

/-- Integer operations of MAJOR 0x01 on values of `w` bits; the vector operations of MAJOR 0x24 use those they share. -/
def intOp (w func a b : Nat) : Nat :=
  let sa := sext w a
  let sb := sext w b
  let k := b % w
  match func with
  | 0 => (a + b) % 2 ^ w
  | 1 => (a + 2 ^ w - b) % 2 ^ w
  | 2 => a &&& b
  | 3 => a ||| b
  | 4 => a ^^^ b
  | 5 => a * 2 ^ k % 2 ^ w
  | 6 => a / 2 ^ k
  | 7 => wrapI w (sa / (2 ^ k : Nat))
  | 8 => b2n (decide (sa < sb))
  | 9 => b2n (decide (a < b))
  | 10 => if sa ≤ sb then a else b
  | 11 => if sa ≤ sb then b else a
  | 12 => min a b
  | 13 => max a b
  | 16 => a * b % 2 ^ w
  | 17 => wrapI w (sa * sb / (2 ^ w : Nat))
  | 18 => a * b / 2 ^ w
  | 19 => if b = 0 then 2 ^ w - 1 else wrapI w (sa.tdiv sb)
  | 20 => if b = 0 then 2 ^ w - 1 else a / b
  | 21 => if b = 0 then a else wrapI w (sa.tmod sb)
  | 22 => if b = 0 then a else a % b
  | 24 => clz w a
  | 25 => popcount a
  | _ => leNat (natBe 8 a)
where
  /-- Set bits of a 64-bit value. -/
  popcount (v : Nat) : Nat := ((List.range 64).filter (bitOf v)).length

/-! ### FP32 (R375) -/

/-- An FP32 pattern as an exact value: an infinity is not one that overflow made. -/
def fpOf (b : Nat) : FVal := decodeFp32 (b % 2 ^ 32)

/-- FMIN or FMAX as R170 orders values, NaN when either is NaN. -/
def fpMin (a b : FVal) : FVal := ((a.neg).maxR b.neg).neg

/-- FTOI: to nearest even, NaN to 0, saturating. -/
def fpToInt (v : FVal) : Nat := (encodeInt 64 .even 0 v).bits

/-- The operations of MAJOR 0x20 and 0x25 on FP32 patterns, d being the third operand of FFMA. -/
def fpOp (func d a b : Nat) : Nat :=
  let x := fpOf a
  let y := fpOf b
  match func with
  | 0 => fp32Bits (addFp32 x y)
  | 1 => fp32Bits (addFp32 x y.neg)
  | 2 => fp32Bits (mulFp32 x y)
  | 3 => fp32Bits (divFp32 x y)
  | 4 => fp32Bits (sqrtFp32 x)
  | 5 => fp32Bits (fpMin x y)
  | 6 => fp32Bits (x.maxR y)
  | 7 => fp32Bits (toFp32 ((x.mul y).add (fpOf d)))
  | 8 => b2n (x.eqv y)
  | 9 => b2n (x.lt y)
  | _ => b2n (x.le y)

/-- ITOF. -/
def intToFp (a : Nat) : Nat := fp32Bits (toFp32 (FVal.ofInt (sext 64 a)))

/-! ### Lanes -/

/-- Lane width in bits and number of lanes (R367). -/
def laneBits : Nat → Nat
  | 0 => 32 | 1 => 16 | 2 => 8 | _ => 64
def laneCount (w : Nat) : Nat := 512 / laneBits w

def lanesOf (bits : Nat) (v : W512) : List Nat := (List.range (512 / bits)).map (fun i => v.toNat / 2 ^ (bits * i) % 2 ^ bits)
def ofLanes (bits : Nat) (l : List Nat) : W512 :=
  BitVec.ofNat 512 ((l.zipIdx.map (fun (x, i) => x % 2 ^ bits * 2 ^ (bits * i))).foldl (· + ·) 0)

/-- Enabled lanes take the new value; the others keep the old one. -/
def merge (mask : Nat) (old new : List Nat) : List Nat :=
  (old.zip new).zipIdx.map (fun ((o, n), i) => if bitOf mask i then n else o)

/-- Comparison bits of enabled lanes replace those of a mask. -/
def mergeMask (mask old : Nat) (res : List Bool) : W64 :=
  BitVec.ofNat 64 (((List.range 64).map (fun i =>
    let b := if i < res.length && bitOf mask i then res.getD i false else bitOf old i
    b2n b * 2 ^ i)).foldl (· + ·) 0)

/-- Lane-wise integer functions of MAJOR 0x24 as functions of MAJOR 0x01. -/
def vecFunc : Nat → Nat
  | 8 => 10 | 9 => 11 | 10 => 12 | 11 => 13 | 12 => 16 | f => f

/-- Insertion into a list of (value, lane) sorted by value, after equal values. -/
def sortIns (x : Nat × Nat) : List (Nat × Nat) → List (Nat × Nat)
  | [] => [x]
  | y :: t => if x.1 < y.1 then x :: y :: t else y :: sortIns x t

/-- Stable sort, ascending and unsigned. -/
def sortPairs (l : List (Nat × Nat)) : List (Nat × Nat) := l.foldl (fun acc x => sortIns x acc) []

/-- VSCAN over the enabled lanes. -/
def scanLanes (w mask : Nat) (l : List Nat) : List Nat :=
  (l.zipIdx.foldl (fun (acc, sum) (x, i) =>
    let s := if bitOf mask i then (sum + x) % 2 ^ laneBits w else sum
    (acc ++ [s], s)) (([] : List Nat), 0)).1

/-- The enabled lanes in order. -/
def enabled (mask : Nat) (l : List Nat) : List Nat := (l.zipIdx.filter (fun x => bitOf mask x.2)).map (·.1)

/-- VEXP: low lanes of `l` into the enabled lanes in order. -/
def expandLanes (mask : Nat) (old l : List Nat) : List Nat :=
  (old.zipIdx.foldl (fun (acc, k) (o, i) => if bitOf mask i then (acc ++ [l.getD k 0], k + 1) else (acc ++ [o], k))
    (([] : List Nat), 0)).1

/-- The fixed tree of VFREDSUM (R375). DESIGN CHOICE, assumption 49 (safe). -/
def treeSum : Nat → List FVal → FVal
  | 0, l => l.headD FVal.zero
  | n + 1, l => treeSum n ((List.range (l.length / 2)).map (fun i => fpFix (addFp32 (l.getD (2 * i) FVal.zero) (l.getD (2 * i + 1) FVal.zero))))
where
  /-- An infinity of a partial sum is one like any other. -/
  fpFix : FVal → FVal
    | .inf n _ => .inf n false
    | v => v

/-- What a vector instruction of MAJOR 0x24 or 0x25 does: lanes of the destination, a mask, or lanes of a pair. -/
inductive VRes where
  | lanes (l : List Nat)
  | mask (l : List Bool)
  | pair (l h : List Nat)
deriving DecidableEq, Repr

/-- MAJOR 0x24. `free` stands for a reduction over no lane, which the spec does not state. -/
def vecInt (w func mask free : Nat) (old a b : List Nat) : VRes :=
  let bits := laneBits w
  let n := a.length
  let first := fun (x : Nat) => VRes.lanes ((List.range n).map (fun i => if i = 0 then x else 0))
  let red := fun (f : Nat) => match enabled mask a with
    | [] => first (free % 2 ^ bits)
    | x :: t => first (t.foldl (intOp bits f) x)
  match func with
  | 16 => .mask ((a.zip b).map (fun (x, y) => x == y))
  | 17 => .mask ((a.zip b).map (fun (x, y) => decide (sext bits x < sext bits y)))
  | 18 => .mask ((a.zip b).map (fun (x, y) => decide (x < y)))
  | 20 => .lanes ((a.zip b).zipIdx.map (fun ((x, y), i) => if bitOf mask i then x else y))
  | 21 => .lanes (merge mask old (b.map (fun y => a.getD (y % n) 0)))
  | 22 => .lanes (padTo n 0 (enabled mask a))
  | 23 => .lanes (expandLanes mask old a)
  | 24 => .lanes (merge mask old (scanLanes w mask a))
  | 25 => first ((enabled mask a).foldl (intOp bits 0) 0)
  | 26 => red 11
  | 27 => red 13
  | 28 => let s := sortPairs a.zipIdx
          .pair (s.map (·.1)) (s.map (·.2))
  | 29 => .mask (a.zipIdx.map (fun (x, i) => i == 0 || x != a.getD (i - 1) 0))
  | f => .lanes (merge mask old ((a.zip b).map (fun (x, y) => intOp bits (vecFunc f) x y)))

/-- MAJOR 0x25: FP32 lanes. -/
def vecFp (func mask free : Nat) (old a b : List Nat) : VRes :=
  let n := a.length
  let first := fun (x : Nat) => VRes.lanes ((List.range n).map (fun i => if i = 0 then x else 0))
  match func with
  | 8 | 9 | 10 => .mask ((a.zip b).map (fun (x, y) => fpOp func 0 x y == 1))
  | 11 => first (fp32Bits (treeSum 4 (a.zipIdx.map (fun (x, i) => if bitOf mask i then fpOf x else FVal.zero))))
  | 12 => match enabled mask a with
    | [] => first (free % 2 ^ 32)
    | x :: t => first (t.foldl (fpOp 6 0) x)
  | f => .lanes (merge mask old ((old.zip (a.zip b)).map (fun (o, x, y) => fpOp f o x y)))

end Sys2Proof.Machine
end

