-- ==== Sys2Proof/Machine/RaspBase.lean ====
section
/-! DEFINITION. Rasp threads: registers and their poison (R367 to R370), scratch and window (R379 to R381, R572), pool accesses
(R382), traps (R392 to R394) and the fencing of a cluster (R398). -/

namespace Sys2Proof.Machine
open Sys2Proof

/-! ### Threads and registers -/

def thr? (c : Core) (t : Nat) : Option Thread := amGet? c.rasp.threads t
def setThr (c : Core) (t : Nat) (th : Thread) : Core := { c with rasp := { c.rasp with threads := amSet c.rasp.threads t th } }
def modThr (c : Core) (t : Nat) (f : Thread → Thread) : Core :=
  { c with rasp := { c.rasp with threads := amMod c.rasp.threads t f } }

/-- The cluster of a hardware thread: four threads a core, 16 cores a cluster (R364). -/
def thrCluster (t : Nat) : Nat := t / 64

/-- The instruction caches of the clusters that `is` names are invalidated (R648, R671). -/
def icClear (c : Core) (is : Nat → Bool) : Core :=
  { c with rasp := { c.rasp with icache := c.rasp.icache.filter (fun e => !is (e.1 / 16)) } }

def Thread.sreg (th : Thread) (n : Nat) : Nat := if n = 0 then 0 else (th.s.getD n 0).toNat
def Thread.sbad (th : Thread) (n : Nat) : Bool := n ≠ 0 && bitOf th.sp n
def setBit1 (v i : Nat) (b : Bool) : Nat := setBits v i i (b2n b)

/-- s0 ignores writes. -/
def Thread.setS (th : Thread) (n v : Nat) (bad : Bool) : Thread :=
  if n = 0 then th else { th with s := listMod th.s n (fun _ => BitVec.ofNat 64 v), sp := setBit1 th.sp n bad }

def Thread.vreg (th : Thread) (n : Nat) : W512 := th.v.getD n 0
/-- Poison of half `h` of a vector register. -/
def Thread.vbad (th : Thread) (n h : Nat) : Bool := bitOf th.vp (2 * n + h)
def Thread.vany (th : Thread) (n : Nat) : Bool := th.vbad n 0 || th.vbad n 1
def Thread.setV (th : Thread) (n : Nat) (v : W512) (lo hi : Bool) : Thread :=
  { th with v := listMod th.v n (fun _ => v), vp := setBit1 (setBit1 th.vp (2 * n) lo) (2 * n + 1) hi }

/-- m0 reads all ones and ignores writes. -/
def Thread.mreg (th : Thread) (n : Nat) : Nat := if n = 0 then 2 ^ 64 - 1 else (th.m.getD n 0).toNat
def Thread.setM (th : Thread) (n : Nat) (v : W64) : Thread := if n = 0 then th else { th with m := listMod th.m n (fun _ => v) }

/-- A thread at the start of an instance (R370). -/
def freshThread (ctx num inst ninst entry : Nat) : Thread :=
  { ctx := ctx, num := num, inst := inst, pc := entry,
    s := listMod (listMod (List.replicate 32 0) 1 (fun _ => BitVec.ofNat 64 inst)) 2 (fun _ => BitVec.ofNat 64 ninst),
    v := List.replicate 16 0, m := List.replicate 4 0, sp := 0, vp := 0, fmt := 0, dvprev := 0, poisonOut := 0, wait := .ready,
    units := [], engine := none, cmds := [], nextCmd := 0, lost := false, fetched := [], background := [], waited := 0 }

/-- A thread parks (R246, R247): counted for its context and its cluster. A thread that parks while it holds an engine loses
it (R357, R389). One that waits for another chip's reply keeps it. -/
def parkThread (c : Core) (t : Nat) (k : ParkCause) : Core :=
  match thr? c t with
  | none => c
  | some th =>
    if isRemote k then modThr c t (fun th => { th with wait := .parked k, waited := 0 })
    else
      let c := match th.engine with
        | some e => modEng c e (fun x => { x with holder := none, panes := [], acts := [], accs := [], busy := [] })
        | none => c
      let c := modThr c t (fun th => { th with wait := .parked k, waited := 0, engine := none, lost := th.lost || th.engine.isSome,
                                               cmds := [] })
      notePark ((c.count (CTX_PARKS th.ctx)).perf (stackReg RSP_PARKS (thrCluster t))) (.thread t) k

/-! ### Stores of 32-byte words -/

def emptyArea : Area := { bytes := [], bad := [], err := [] }

def Area.read (a : Area) (off len : Nat) : List Byte := (List.range len).map (fun i => amGet a.bytes (off + i) 0)
def Area.poisoned (a : Area) (off len : Nat) : Bool := a.bad.any (fun w => off / 32 ≤ w && w ≤ (off + len - 1) / 32)

def Area.put (a : Area) (off : Nat) (b : List Byte) : Area :=
  { a with bytes := b.zipIdx.foldl (fun m (x, i) => amPut 0 m (off + i) x) a.bytes }

/-- Bytes within one word are stored: a store of part of a poisoned word is dropped, a whole word clears its poison, and
poison marks the word (R369, R572). -/
def Area.storePart (a : Area) (off : Nat) (b : List Byte) (poison : Bool) : Area :=
  let w := off / 32
  if poison then { (a.put off b) with bad := w :: a.bad.filter (· != w), err := amDel a.err w }
  else if b.length = 32 then { (a.put off b) with bad := a.bad.filter (· != w), err := amDel a.err w }
  else if a.bad.contains w then a
  else a.put off b

/-- The parts of a range by word: offset and bytes. -/
def wordParts (off : Nat) (b : List Byte) : List (Nat × List Byte) :=
  if b = [] then []
  else (List.range ((off + b.length - 1) / 32 - off / 32 + 1)).map (fun k =>
    let lo := max off ((off / 32 + k) * 32)
    (lo, (b.drop (lo - off)).take ((off / 32 + k + 1) * 32 - lo)))

/-- Bytes are stored with a poison mark for each word touched; the flip mask may strike one of the words, numbered by the
store's kind and unit and the word's byte address there (R581). -/
def storeArea (c : Core) (kind unit base : Nat) (a : Area) (off : Nat) (b : List Byte) (poison : Nat → Bool) : Core × Area :=
  (wordParts off b).zipIdx.foldl (fun (c, a) ((o, part), k) =>
    let a := a.storePart o part (poison k)
    let w := o / 32
    if flipHits c kind unit (base + w * 32) then
      let (d, bad, err) := flippedWord c (a.read (w * 32) 32)
      let c := c.setFld ECC_FLIP_CTRL ECC_FLIP_CTRL_ARMED 0
      let c := if bad && err.isNone && !a.bad.contains w then c.count ECC_POISON_WRITTEN else c
      let a := a.put (w * 32) d
      (c, { a with bad := if bad && err.isNone then w :: a.bad.filter (· != w) else a.bad,
                   err := match err with | some u => amSet a.err w u | none => a.err })
    else (c, a)) (c, a)

/-- Errors that a read of a range finds: (corrected words, uncorrectable words); both are written back, corrected or as
poison (Table 16-3). -/
def Area.errors (a : Area) (off len : Nat) : List Nat × List Nat :=
  let hit := a.err.filter (fun e => off / 32 ≤ e.1 && e.1 ≤ (off + len - 1) / 32)
  ((hit.filter (fun e => !e.2)).map (·.1), (hit.filter (fun e => e.2)).map (·.1))

def Area.settle (a : Area) (off len : Nat) : Area :=
  { a with err := a.err.filter (fun e => !(off / 32 ≤ e.1 && e.1 ≤ (off + len - 1) / 32)),
           bad := (a.errors off len).2 ++ a.bad }

/-! ### Fencing a cluster (R398, R32, R33) -/

/-- The cluster is fenced with event `e`: works with a slice on it complete INTERNAL_FAULT (R33), and every work of a partition
that has none left (R32). -/
def loseCluster (c : Core) (k : Nat) (e : Ev) : Core :=
  if bitOf (c.fld GLB_FENCED GLB_FENCED_CLUSTERS) k then c
  else
    let q := c.fld (stackReg RSP_CFG k) RSP_CFG_PARTITION
    let only := clustersOf c q == [k]
    let c := c.setFld GLB_FENCED GLB_FENCED_CLUSTERS (c.fld GLB_FENCED GLB_FENCED_CLUSTERS + 2 ^ k)
    let c := raise c e 4 k
    let d := BitVec.ofNat 64 (evCode e)
    let here := distinctOf ((c.rasp.threads.filter (fun x => thrCluster x.1 == k)).map (fun x => (x.2.ctx, x.2.num)) ++
      (slicesOn c k).map (fun w => (w.ctx, w.num)))
    let c := (c.rasp.threads.filter (fun x => thrCluster x.1 == k)).foldl (fun c x => dropThread c x.1) c
    let c := here.foldl (fun c (ctx, num) => stopWork c ctx num .internalFault d) c
    if !only then c
    else c.work.flight.foldl (fun c (_, w) =>
      if ctxPart c w.ctx ≠ q || !liveWork w then c else stopWork c w.ctx w.num .internalFault d) c

/-- A cluster is fenced (R398). -/
def fenceCluster (c : Core) (k : Nat) : Core := loseCluster c k .rspFenced

/-- An uncorrectable scratch error is recorded: the third tick with one within 1,000 ticks fences the cluster. -/
def noteScratchError (c : Core) (k : Nat) : Core :=
  let old := amGet c.rasp.errTicks k []
  let ts := old.filter (fun t => t + 1000 > c.tick && t ≠ c.tick) ++ [c.tick]
  let c := { c with rasp := { c.rasp with errTicks := amSet c.rasp.errTicks k ts } }
  if 3 ≤ ts.length then fenceCluster c k else c

/-! ### Scratch and window -/

def scratchOf (c : Core) (t : Nat) : Area := amGet c.rasp.scratch t emptyArea
def setScratch (c : Core) (t : Nat) (a : Area) : Core := { c with rasp := { c.rasp with scratch := amSet c.rasp.scratch t a } }

/-- A scratch word's byte address within its cluster (R581): 256 KiB a core, 64 KiB a thread. -/
def scratchBase (t : Nat) : Nat := t % 64 * 65536

/-- Scratch bytes read: the bytes, and poison by byte. -/
def scratchRead (c : Core) (t off len : Nat) : Core × List Byte × List Bool :=
  let (cor, unc) := (scratchOf c t).errors off len
  let k := thrCluster t
  let c := setScratch c t ((scratchOf c t).settle off len)
  let c := c.satFld (stackReg RSP_ECC k) RSP_ECC_CORRECTED cor.length
  let c := c.satFld (stackReg RSP_ECC k) RSP_ECC_UNCORRECTED unc.length
  let c := c.count ECC_POISON_WRITTEN unc.length
  let c := unc.foldl (fun c w => noteScratchError (noteUncorrected c 3 k (scratchBase t + 32 * w)) k) c
  let a := scratchOf c t
  (c, a.read off len, (List.range len).map (fun i => a.bad.contains ((off + i) / 32)))

def scratchWrite (c : Core) (t off : Nat) (b : List Byte) (poison : Nat → Bool) : Core :=
  let (c, a) := storeArea c 3 (thrCluster t) (scratchBase t) (scratchOf c t) off b poison
  setScratch c t a

/-- Poisoned words that a load of `len` bytes at `off` meets: each is consumed (R571). -/
def badWordsIn (off : Nat) (bad : List Bool) : Nat :=
  (bad.zipIdx.filter (fun x => x.1 && (x.2 == 0 || (off + x.2) % 32 == 0))).length

/-- Words that a store of poisoned registers or accumulators poisons (R369, R361). -/
def poisonedParts (off : Nat) (b : List Byte) (poison : Nat → Bool) : Nat :=
  ((wordParts off b).zipIdx.filter (fun x => poison x.2)).length

/-- A load of scratch bytes, and a store from registers: poison consumed and made is counted (R569, R571). -/
def scratchLoad (c : Core) (t off len : Nat) : Core × List Byte × List Bool :=
  let (c, b, bad) := scratchRead c t off len
  (c.count ECC_POISON_READ (badWordsIn off bad), b, bad)
def scratchStore (c : Core) (t off : Nat) (b : List Byte) (poison : Nat → Bool) : Core :=
  (scratchWrite c t off b poison).count ECC_POISON_WRITTEN (poisonedParts off b poison)

def winOf (c : Core) (ctx num : Nat) : Win := (amGet? c.rasp.windows (wkey ctx num)).getD ⟨[], emptyArea⟩
def setWin (c : Core) (ctx num : Nat) (a : Area) : Core :=
  { c with rasp := { c.rasp with windows := amMod c.rasp.windows (wkey ctx num) (fun w => { w with area := a }) } }

/-- Window bytes read: the descriptor's copy below 0x8000, zeros past its end, and the work area (R381). -/
def winRead (c : Core) (ctx num off len : Nat) : Core × List Byte × List Bool :=
  let w := winOf c ctx num
  let (cor, unc) := w.area.errors off len
  let c := setWin c ctx num (w.area.settle off len)
  let c := correctedStaging c (ctx % 4) cor.length
  let c := c.count ECC_POISON_WRITTEN unc.length
  let c := unc.foldl (fun c _ => raise (noteStaging c (ctx % 4)) .eccUncorrected 1 (ctx % 4)) c
  let a := (winOf c ctx num).area
  (c, (List.range len).map (fun i => if off + i < 0x8000 then w.desc.getD (off + i) 0 else amGet a.bytes (off + i) 0),
    (List.range len).map (fun i => a.bad.contains ((off + i) / 32)))

def winWrite (c : Core) (ctx num off : Nat) (b : List Byte) (poison : Nat → Bool) : Core :=
  let (c, a) := storeArea c 1 (ctx % 4) noAddr (winOf c ctx num).area off b poison
  setWin c ctx num a

/-- The same for the window. -/
def winLoad (c : Core) (ctx num off len : Nat) : Core × List Byte × List Bool :=
  let (c, b, bad) := winRead c ctx num off len
  (c.count ECC_POISON_READ (badWordsIn off bad), b, bad)
def winStore (c : Core) (ctx num off : Nat) (b : List Byte) (poison : Nat → Bool) : Core :=
  (winWrite c ctx num off b poison).count ECC_POISON_WRITTEN (poisonedParts off b poison)

/-! ### Traps (R393, R394) -/

/-- Table 10-10. -/
inductive TrapCode where
  | illegal | misaligned | bound | varint | format | ceRefused | stepLimit | break_ | poisonFetch | poisonUse | access
  | noBacking | link
deriving DecidableEq, Repr

def trapNum : TrapCode → Nat
  | .illegal => 0x01 | .misaligned => 0x02 | .bound => 0x03 | .varint => 0x04 | .format => 0x05 | .ceRefused => 0x06
  | .stepLimit => 0x07 | .break_ => 0x08 | .poisonFetch => 0x10 | .poisonUse => 0x11 | .access => 0x20 | .noBacking => 0x21
  | .link => 0x22

/-- A trap: its code, the status that it ends the work with, and the address at fault. -/
structure Trap where
  code : TrapCode
  status : Status
  addr : W64
deriving DecidableEq, Repr

def trapOf (k : TrapCode) (addr : W64 := 0) : Trap :=
  { code := k, addr := addr, status := match k with
    | .poisonFetch | .poisonUse => .poisoned
    | .access => .accessDenied
    | .noBacking => .noBacking
    | .link => .linkLost
    | _ => .badDescriptor }

/-- The trap for a pool access that failed with a status. -/
def accessTrap (s : Status) (addr : W64) : Trap :=
  match s with
  | .noBacking => trapOf .noBacking addr
  | .linkLost | .outcomeUnknown => trapOf .link addr
  | .poisoned => trapOf .poisonUse addr
  | s => { code := .access, status := s, addr := addr }

/-- The thread traps: it stops at once, its work takes the status and its other instances stop at their next STEP. -/
def trapThread (c : Core) (t word : Nat) (x : Trap) : Core :=
  match thr? c t with
  | none => c
  | some th =>
    match work? c th.ctx th.num with
    | none => dropThread c t
    | some w =>
      let first := match w.prog with | some p => !p.stopping | none => false
      let c := c.count (stackReg RSP_TRAPS (thrCluster t))
      let c := noteFail c th.ctx th.num x.status x.addr
      let c := match (w.prog.bind (·.trap)) with
        | some a => if first then agentWrite c th.ctx th.num a
            (natLe 1 (trapNum x.code) ++ [0] ++ natLe 2 t ++ natLe 4 th.pc ++ natLe 8 x.addr.toNat ++ natLe 4 th.inst ++
              natLe 4 word ++ natLe 8 c.tick) else c
        | none => c
      let c := if c.rasp.trapLogged.contains th.ctx then c
        else
          let c := raise c .rspTrap 7 th.ctx (trapNum x.code)
          { c with rasp := { c.rasp with trapLogged := th.ctx :: c.rasp.trapLogged } }
      let c := dropThread c t
      let c := modWork c th.ctx th.num (fun w => { w with prog := w.prog.map (fun p => { p with ended := p.ended + 1 }) })
      stopProgram c th.ctx th.num

/-! ### Pool accesses of a thread (R382) -/

/-- The op tag of a thread: that of its work. -/
def thrTag (c : Core) (th : Thread) : Nat := ((work? c th.ctx th.num).map (·.tag)).getD (2 ^ 64)

/-- What decodes with the active codebooks of a slice (R141). -/
def withBooks (b : Option (AMap (List Nat))) (f : M → M) (m : M) : M :=
  match b with
  | none => f m
  | some b =>
    let own := m.core.work.codebooks
    (f (m.on (fun c => { c with work := { c.work with codebooks := b } }))).on (fun c => { c with work := { c.work with codebooks := own } })

/-- What thread `t` or one of its commands does: under its work's op tag, with its slice's codebooks. -/
def asThread (t : Nat) (f : M → M) (m : M) : M :=
  match thr? m.core t with
  | none => f m
  | some th => underTag (thrTag m.core th) (withBooks th.books f) m

/-- Remote data or statuses of the thread's own accesses, or of its commands. -/
def Thread.got (th : Thread) (bg : Bool) : List Fetched := if bg then th.background else th.fetched

/-- A pool read of a thread, or of a command of it (`bg`), of this chip or over the ring. -/
def thrRead (m : M) (t : Nat) (th : Thread) (ptr : W64) (len : Nat) (bg : Bool := false) : M × Res (List Byte × List Bool) :=
  if servedHere m.core (ptrChip ptr) then localRead m (th.ctx % 4) (ctxPart m.core th.ctx) ptr len
  else
    match (th.got bg).find? (fun f => f.ptr == ptr && f.len == len && !f.write) with
    | some f => if f.status = .done then (m, .ok (f.data, f.poisons)) else (m, .fail f.status ptr)
    | none =>
      let tag := ((work? m.core th.ctx th.num).map (·.tag)).getD 0
      if pairPark m.core (ptrChip ptr) then (m, .park .pair)
      else if noRoute m.core (ptrChip ptr) then (m, .fail .linkLost ptr)
      else if m.core.ring.fwds.any (fun f => f.kind == 4 && f.who.1 == t && f.body == [ptr.toNat, len]) then (m, .park (.remote tag))
      else (m.on (fun c => forward c (ptrChip ptr) tag (ctxPart c th.ctx) th.ctx 0x10 [ptr.toNat, len] [] true 4
          (t, th.inst, 2 * b2n bg)), .park (.remote tag))

/-- Words stored in this chip's memory by a thread: whole words with their marks, parts by read-modify-write. A part whose word is
poisoned is dropped, and the work completes no better than POISONED (R572). -/
def thrWords (m : M) (th : Thread) (ptr : W64) (parts : List ((Nat × List Byte) × Nat)) (poison : Nat → Bool) : M :=
  parts.foldl (fun m ((o, part), k) =>
    if poison k then
      let c0 := m.core
      match readBytes m (th.ctx % 4) (ptrExtent ptr) (o / 32 * 32) 32 with
      | (m, .got old _) =>
        let m := movedOnly c0 m
        let word := (old.take (o % 32)) ++ part ++ old.drop (o % 32 + part.length)
        (writeMarked m (th.ctx % 4) (ptrExtent ptr) (o / 32) [(word, true)]).1
      | (m, _) => m
    else if part.length = 32 then (writeMarked m (th.ctx % 4) (ptrExtent ptr) (o / 32) [(part, false)]).1
    else
      let (m, r) := writeBytes m (th.ctx % 4) (ptrExtent ptr) o part
      match r.poisonHit with
      | some w => m.on (fun c => noteFail c th.ctx th.num .poisoned (mkPtr (ptrChip ptr) (ptrExtent ptr) (32 * w)))
      | none => m) m

/-- The words of a thread's write that are due: all, or those that an earlier try left for want of backing (R101). -/
def thrDue (th : Thread) (ptr : W64) (b : List Byte) (bg : Bool) : List ((Nat × List Byte) × Nat) :=
  let all := (wordParts (ptrOffset ptr) b).zipIdx
  match (th.got bg).find? (fun f => f.ptr == ptr && f.len == b.length && f.write) with
  | some f => all.filter (fun x => f.rest.any (fun r => r.1 == x.1.1))
  | none => all

def thrStore (m : M) (th : Thread) (ptr : W64) (b : List Byte) (poison : Nat → Bool) (bg : Bool := false) : M :=
  thrWords m th ptr (thrDue th ptr b bg) poison

/-- The part of a thread's write whose frames are backed is made, and the rest noted for the next try (R101). -/
def thrPart (m : M) (t : Nat) (th : Thread) (ptr : W64) (b : List Byte) (poison : Nat → Bool) (bg : Bool) : M :=
  let e := ptrExtent ptr
  let bare := fun (o : Nat) => (ext? m.core e).any (fun x => (frameOf x (o / frameBytes x)).loc.isNone)
  let due := thrDue th ptr b bg
  let m := thrWords m th ptr (due.filter (fun x => !bare x.1.1)) poison
  let left := (due.filter (fun x => bare x.1.1)).map (fun x => (x.1.1, x.1.2.length))
  let note : Fetched := { ptr := ptr, len := b.length, write := true, data := [], poisons := [], status := .done, rest := left }
  let put := fun (l : List Fetched) => note :: l.filter (fun f => !(f.ptr == ptr && f.len == b.length && f.write))
  m.on (fun c => modThr c t (fun th => if bg then { th with background := put th.background } else { th with fetched := put th.fetched }))

/-- What a pool write of a thread needs: the check of R81 and its frames ready. A remote write of poisoned words is not sent
(R574); `.ok false` says that the other chip has made it. -/
def thrWriteReady (m : M) (t : Nat) (th : Thread) (ptr : W64) (b : List Byte) (poison : Nat → Bool) (bad : Bool)
    (bg : Bool := false) : M × Res Bool :=
  if servedHere m.core (ptrChip ptr) then
    match ptrCheck m.core (ctxPart m.core th.ctx) ptr b.length false true with
    | some s => (m, .fail s ptr)
    | none => match readyWrite m (ptrExtent ptr) (ptrOffset ptr) b.length with
      | (m, some k) => if isBacking k then (thrPart m t th ptr b poison bg, .park k) else (m, .park k)
      | (m, none) => (m, .ok true)
  else if bad then (m, .fail .poisoned ptr)
  else
    match (th.got bg).find? (fun f => f.ptr == ptr && f.len == b.length && f.write) with
    | some f =>
      if f.status ≠ .done then (m, .fail f.status ptr)
      else match f.hit with
        | some w => (m.on (fun c => noteFail c th.ctx th.num .poisoned (mkPtr (ptrChip ptr) (ptrExtent ptr) (32 * w))), .ok false)
        | none => (m, .ok false)
    | none =>
      let tag := ((work? m.core th.ctx th.num).map (·.tag)).getD 0
      let idem := match work? m.core th.ctx th.num with | some w => bitOf w.flags 2 | none => false
      if pairPark m.core (ptrChip ptr) then (m, .park .pair)
      else if noRoute m.core (ptrChip ptr) then (m, .fail .linkLost ptr)
      else if m.core.ring.fwds.any (fun f => f.kind == 4 && f.who.1 == t && f.body == [ptr.toNat, b.length]) then
        (m, .park (.remote tag))
      else (m.on (fun c => forward c (ptrChip ptr) tag (ctxPart c th.ctx) th.ctx 0x11 [ptr.toNat, b.length] b idem 4
          (t, th.inst, 2 * b2n bg + 1)), .park (.remote tag))

/-! ### Outcomes of an instruction -/

/-- An instruction's outcome: it goes on to the next one or to a target with the thread's new registers, waits without being
complete, traps, or has ended the thread's run. -/
inductive Out where
  | next (th : Thread)
  | jump (th : Thread) (pc : Nat)
  | wait (k : ThreadWait)
  | park (k : ParkCause)
  | trap (x : Trap)
  | gone
deriving DecidableEq, Repr

/-- An address of a space: within its range, then aligned (R379). -/
def spaceTrap (addr len limit align : Nat) : Option Trap :=
  if limit < addr + len then some (trapOf .bound (BitVec.ofNat 64 addr))
  else if addr % align ≠ 0 then some (trapOf .misaligned (BitVec.ofNat 64 addr)) else none

/-- Register + signed immediate, modulo 2^64. -/
def effAddr (a : Nat) (imm : Int) : Nat := (((a : Int) + imm) % (2 ^ 64 : Nat)).toNat

/-- The window's end. -/
def winEnd (c : Core) (th : Thread) : Nat :=
  0x8000 + (((work? c th.ctx th.num).bind (·.prog)).map (·.window)).getD 0

/-- What a window access needs: its range and alignment; a write lies at or above 0x8000. -/
def winTrap (c : Core) (th : Thread) (addr len align : Nat) (write : Bool) : Option Trap :=
  if write && addr < 0x8000 then some (trapOf .bound (BitVec.ofNat 64 addr)) else spaceTrap addr len (winEnd c th) align

end Sys2Proof.Machine
end

