-- ==== Sys2Proof/Machine/RaspUnit.lean ====
section
/-! DEFINITION. Unit commands of rasp threads (R384 to R388): what UPOST checks, and what each command does as it ends. A
command's data moves as it ends; R383 orders a thread's own accesses, not those of its commands. -/

namespace Sys2Proof.Machine
open Sys2Proof

/-- The fields of a unit block (Table 10-8). -/
structure UBlk where
  cmd : Nat
  f0 : Nat
  f8 : Nat
  f10 : Nat
  f14 : Nat
  f18 : Nat
  rest : Nat
deriving DecidableEq, Repr

def ublk (b : List Byte) : UBlk :=
  let n := fun (o k : Nat) => leNat ((b.drop o).take k)
  { cmd := n 0x1C 1, f0 := n 0 8, f8 := n 8 8, f10 := n 0x10 4, f14 := n 0x14 4, f18 := n 0x18 4, rest := n 0x1D 3 }

/-- What UPOST finds: the command is posted, the thread parks, or it traps. -/
inductive Post where
  | ok
  | wait (k : ParkCause)
  | trap (x : Trap)
deriving DecidableEq, Repr

def firstTrap (l : List (Option Trap)) : Option Trap := l.findSome? id

def orIllegal (ok : Bool) : Option Trap := if ok then none else some (trapOf .illegal)

def scratchTrap (addr len align : Nat) : Option Trap := spaceTrap addr len 65536 align

/-- A pool range as a unit command reaches it: aligned, permitted, and its frames ready (R382). -/
def poolPost (m : M) (th : Thread) (ptr : W64) (len align : Nat) (rd wr : Bool) : M × Post :=
  if ptr.toNat % align ≠ 0 then (m, .trap (trapOf .misaligned ptr))
  else if !servedHere m.core (ptrChip ptr) then
    if pairPark m.core (ptrChip ptr) then (m, .wait .pair)
    else if noRoute m.core (ptrChip ptr) then (m, .trap (trapOf .link ptr)) else (m, .ok)
  else match ptrCheck m.core (ctxPart m.core th.ctx) ptr len rd wr with
    | some s => (m, .trap (accessTrap s ptr))
    | none =>
      if wr then match readyWrite m (ptrExtent ptr) (ptrOffset ptr) len with
        | (m, some k) => (m, .wait k)
        | (m, none) => (m, .ok)
      else match frameWait m.core (ptrExtent ptr) (ptrOffset ptr) len false with
        | (c, some k) => ({ m with core := c }, .wait k)
        | (c, none) => ({ m with core := c }, .ok)

/-- FMT agrees with a table (R265, R386). -/
def fmtAgrees (t : Table) (fmt : Nat) : Bool :=
  match fmtWord? fmt with | some f => sameTableFmt f (tblFmt t) | none => false

/-- A table command's checks: the table of the partition, the row, the format and the blocks. Records hold elements of at most
8 bits. DEDUCED, assumption 47 (unsafe). -/
def tablePost (m : M) (th : Thread) (b : UBlk) (fmt perBlock : Nat) (wr : Bool) : M × Post :=
  let tn := b.f0 % 65536
  let r := b.f0 / 2 ^ 32
  let deny : Trap := { code := .access, status := .accessDenied, addr := 0 }
  match firstTrap [orIllegal (b.f18 == 0 && b.f0 / 65536 % 65536 == 0), scratchTrap b.f8 (perBlock * b.f14) 32] with
  | some x => (m, .trap x)
  | none => match table? m.core tn with
    | none => (m, .trap deny)
    | some t =>
      let part := ctxPart m.core th.ctx
      if t.partition ≠ part || t.rows ≤ r || ((tblFmt t).fmt == .cb4 && (tblFmt t).codebook / 16 != part) then (m, .trap deny)
      else if !fmtAgrees t fmt || (b.cmd ≠ 7 && 8 < elemBits (tblFmt t).fmt) then (m, .trap (trapOf .format))
      else if rowBlocks t < b.f10 + b.f14 || t.rowLen < 32 * (b.f10 + b.f14) then (m, .trap (trapOf .bound))
      else match accessCheck m.core t.partition t.extent t.elemOff (rowSize t * t.rows) true wr with
        | some s => (m, .trap (accessTrap s (extPtr m.core t.extent t.elemOff)))
        | none =>
          if wr then match readyWrites m t.extent (rowRanges t r) with
            | (m, some k) => (m, .wait k)
            | (m, none) => (m, .ok)
          else match frameWait m.core t.extent (rowOff t r) (rowSize t) false with
            | (c, some k) => ({ m with core := c }, .wait k)
            | (c, none) => ({ m with core := c }, .ok)

/-- The checks of a unit block as it is posted (R384 to R388). DEDUCED, assumption 46 (safe). -/
def unitPost (m : M) (t : Nat) (th : Thread) (b : UBlk) (fmt : Nat) : M × Post :=
  let len := b.f10
  let ptr : W64 := BitVec.ofNat 64 b.f0
  let dma := orIllegal (len % 32 == 0 && 32 ≤ len && len ≤ 65536 && b.f14 == 0 && b.f18 == 0)
  let end_ := fun (x : Option Trap) => match x with | some x => (m, Post.trap x) | none => (m, .ok)
  if b.rest ≠ 0 then (m, .trap (trapOf .illegal))
  else match b.cmd with
    | 0 => match firstTrap [dma, scratchTrap b.f8 len 32] with
      | some x => (m, .trap x)
      | none => poolPost m th ptr len 32 true false
    | 1 => match firstTrap [dma, scratchTrap b.f8 len 32] with
      | some x => (m, .trap x)
      | none => match poolPost m th ptr len 32 false true with
        | (m, .wait k) =>
          -- the part of it that can be backed is made while the thread waits (R101)
          if isBacking k then
            let (c, d, bad) := scratchRead m.core t b.f8 len
            (thrPart { m with core := c } t th ptr d (fun i => bad.getD (32 * i) false) true, .wait k)
          else (m, .wait k)
        | x => x
    | 2 => end_ (firstTrap [dma, scratchTrap b.f8 len 32,
        if !resOk m.core th.ctx ptr len then some (trapOf .bound ptr)
        else if b.f0 % 32 ≠ 0 then some (trapOf .misaligned ptr) else none])
    | 3 => end_ (firstTrap [dma, scratchTrap b.f8 len 32, winTrap m.core th b.f0 len 32 true])
    | 4 => end_ (firstTrap [dma, scratchTrap b.f8 len 32, winTrap m.core th b.f0 len 32 false])
    | 5 => tablePost m th b fmt 64 false
    | 6 => tablePost m th b fmt 64 true
    | 7 => tablePost m th b fmt 128 true
    | 8 => end_ (firstTrap [orIllegal (len ≤ 4096 && b.f14 ≤ 3 && b.f8 == 0 && b.f18 == 0), scratchTrap b.f0 (8 * len) 8])
    | 9 =>
      let form := b.f18 / 256 % 256
      let bits := if form = 0 then 32 else 64
      if b.f18 / 65536 ≠ 0 || 1 < form || (atomicOp (b.f18 % 256) bits 0 0 0).isNone then (m, .trap (trapOf .illegal))
      else poolPost m th ptr (bits / 8) (bits / 8) true true
    | _ => (m, .trap (trapOf .illegal))

/-! ### Block records (R376) -/

/-- A block record in scratch: element bits, scale, and whether it reads as poisoned. -/
structure Rec where
  elems : List Nat
  scale : Nat
  poison : Bool
deriving DecidableEq, Repr

def readRecord (c : Core) (t off : Nat) (f : Fmt) : Core × Rec :=
  let (c, b, bad) := scratchRead c t off 64
  (c, { elems := getElems f b 32, scale := leNat ((b.drop 32).take 2),
        poison := bitOf (b.getD 34 0).toNat 2 || bad.any id })

/-- The flags byte of a record: ZERO, NONFINITE, POISON (R347). -/
def recordFlags (f : Fmt) (cb : List FVal) (elems : List Nat) (scale : Nat) (poison : Bool) : Nat :=
  let vals := elems.map (elemValue f cb)
  let nan := nanScale f scale
  b2n (blockZero f cb elems scale && !nan && !poison) +
    2 * b2n (nan || !vals.all FVal.isFin || (isBlock f && !(scaleNum f scale).isFin)) + 4 * b2n poison

/-- A record written: elements, scale and flags. Its other bytes keep what they hold. -/
def putRecord (c : Core) (t off : Nat) (f : Fmt) (elems : List Nat) (scale flags : Nat) : Core :=
  let old := (scratchOf c t).read off 64
  let eb := (packElems f elems).take 32
  scratchWrite c t off (eb ++ (old.take 32).drop eb.length ++ natLe 2 scale ++ [BitVec.ofNat 8 flags] ++ old.drop 35) (fun _ => false)

/-! ### Table commands (R386) -/

/-- Block `b` of a row reads as poisoned. -/
def imgBlockBad (f : Fmt) (img : RowImg) (b : Nat) : Bool :=
  img.rowPoison || img.scalePoison.getD b false || (List.range 32).any (fun i => img.words.getD (elemWord f (32 * b + i)) false)

/-- TLD: matched pairs of elements and scale, one record for each block; the number of poisoned blocks.
DEDUCED, assumption 47 (unsafe). -/
def tldRun (m : M) (t : Nat) (b : UBlk) : M × Res (Nat × Bool) :=
  let tn := b.f0 % 65536
  match table? m.core tn with
  | none => (m, .fail .accessDenied 0)
  | some tb =>
    let r := b.f0 / 2 ^ 32
    let f := (tblFmt tb).fmt
    andThen (readRow m tn tb r) (fun m img =>
      let cb := tblCb m.core tb
      let c := (List.range b.f14).foldl (fun c k =>
        let es := (img.elems.drop (32 * (b.f10 + k))).take 32
        let sc := img.scales.getD (b.f10 + k) 0
        putRecord c t (b.f8 + 64 * k) f es sc (recordFlags f cb es sc (imgBlockBad f img (b.f10 + k)))) m.core
      ({ m with core := c }, .ok (((List.range b.f14).filter (fun k => imgBlockBad f img (b.f10 + k))).length, false)))

/-- The blocks that lie in stack word `k` of a row. -/
def wordBlocks (t : Table) (k : Nat) : List Nat := (List.range (rowBlocks t)).filter (fun b => elemWord (tblFmt t).fmt (32 * b) == k)

/-- Records `first` on of a row written as they are. A change of scales is one recast step of the row (R267); a row mid-recast takes
SET entries (R208), unless a record is poisoned, which waits. A poisoned record leaves its block poisoned; a block that shares a
poisoned word with one not supplied is not written (R723). -/
def tstRow (m : M) (th : Thread) (tn r first : Nat) (fw : FmtWord) (recs : List Rec) : M × Res Unit :=
  match table? m.core tn with
  | none => (m, .fail .accessDenied 0)
  | some tb =>
    let f := (tblFmt tb).fmt
    let cb := tblCb m.core tb
    let given := fun (b : Nat) => if first ≤ b && b < first + recs.length then recs[b - first]? else none
    let valsOf := fun (x : Rec) => x.elems.map (decodeValue f cb x.scale)
    if tb.locked.contains r then (m, .park (.rowLock tn r))
    else if rowBusy tb r then
      if recs.any (·.poison) then (m, .park (.rowLock tn r))
      else
        let vals := (List.range tb.rowLen).map (fun i => (given (i / 32)).map (fun x => (valsOf x).getD (i % 32) FVal.zero))
        andThen (writeRow m tn r fw false th.ctx th.num vals) (fun m res =>
          (m.on (fun c => addFlags c th.ctx th.num res.flags), .ok ()))
    else
      let c0 := m.core
      andThen (readRow m tn tb r) (fun m img =>
        let fails := fun (m : M) (p : W64) => m.on (fun c => noteFail (c.count ECC_POISON_READ) th.ctx th.num .poisoned p)
        let m := movedOnly c0 m
        if img.rowPoison then (fails m (firstPoison m.core tb r img), .ok ())
        else
          let left := fun (b : Nat) =>
            let k := elemWord f (32 * b)
            img.words.getD k false && (wordBlocks tb k).any (fun b => (given b).isNone)
          let put := fun (b : Nat) => if left b then none else given b
          let elems := img.elems.zipIdx.map (fun (e, i) => match put (i / 32) with | some x => x.elems.getD (i % 32) 0 | none => e)
          let scales := (List.range (rowBlocks tb)).map (fun k => match put k with | some x => x.scale | none => img.scales.getD k 0)
          let flip := blockFmt tb && (scales != img.scales ||
            (List.range (rowBlocks tb)).any (fun k => (put k).isSome && img.scalePoison.getD k false))
          let marks := fun (k : Nat) => (wordBlocks tb k).any (fun b => match put b with
            | some x => x.poison
            | none => img.words.getD k false || (flip && img.scalePoison.getD b false))
          let bytes := rowBytes tb elems img.pad
          let done := fun (m : M) =>
            let good := ((List.range (rowBlocks tb)).filterMap put).filter (fun x => !x.poison) |>.flatMap valsOf
            let m := m.on (fun c => addFlags c th.ctx th.num (bitFlags good))
            let m := noteRow m tn r (bitFlags good) good
            ((match (List.range (rowBlocks tb)).find? (fun b => (given b).isSome && left b) with
              | some b => fails m (poisonOf m.core tb r img (32 * b))
              | none => m), Res.ok ())
          if flip then
            match freeSlot tb with
            | none => (m, .park (.slot tn))
            | some s => done (flipRow m tn tb s r img bytes marks scales)
          else done (writeRowWords m tn tb (rowOff tb r) bytes (fun k => (wordBlocks tb k).any (fun b => (put b).isSome)) marks))

def tstRun (m : M) (t : Nat) (th : Thread) (b : UBlk) (fmt : Nat) : M × Res (Nat × Bool) :=
  let tn := b.f0 % 65536
  match table? m.core tn, fmtWord? fmt with
  | some tb, some fw =>
    andThen (rowFrames m tb [b.f0 / 2 ^ 32]) (fun m _ =>
      let (c, recs) := (List.range b.f14).foldl (fun (c, acc) k =>
        let (c, x) := readRecord c t (b.f8 + 64 * k) (tblFmt tb).fmt
        (c, acc ++ [x])) (m.core, [])
      andThen (tstRow { m with core := c } th tn (b.f0 / 2 ^ 32) b.f10 fw recs) (fun m _ => (m, .ok (0, false))))
  | _, _ => (m, .fail .accessDenied 0)

/-- TADD: 32 FP32 values for each block added by R280 and R281. A poisoned source or target block is left undone, and the
work completes no better than POISONED. -/
def taddRun (m : M) (t : Nat) (th : Thread) (b : UBlk) (fmt : Nat) : M × Res (Nat × Bool) :=
  let tn := b.f0 % 65536
  let r := b.f0 / 2 ^ 32
  match table? m.core tn, fmtWord? fmt with
  | some tb, some fw =>
    andThen (rowFrames m tb [r]) (fun m _ =>
      let (c, srcs) := (List.range b.f14).foldl (fun (c, acc) k =>
        let (c, d, bad) := scratchRead c t (b.f8 + 128 * k) 128
        (c, acc ++ [if bad.any id then none
          else some ((List.range 32).map (fun i => decodeFp32 (leNat ((d.drop (4 * i)).take 4))))])) (m.core, ([] : List (Option (List FVal))))
      let vals := (List.range tb.rowLen).map (fun i =>
        if i / 32 < b.f10 then none else ((srcs.getD (i / 32 - b.f10) none).map (fun v => v.getD (i % 32) FVal.zero)))
      andThen (writeRow { m with core := c } tn r fw true th.ctx th.num vals) (fun m res =>
        let m := m.on (fun c => srcs.foldl (fun c v => match v with | some v => offerBlock c tn 1 v | none => c) c)
        let m := m.on (fun c => addFlags c th.ctx th.num res.flags)
        let m := if res.bad = [] then m else m.on (fun c => noteFail c th.ctx th.num .poisoned res.ptr)
        let m := if srcs.any Option.isNone then m.on (fun c => noteFail c th.ctx th.num .poisoned 0) else m
        (m, .ok (0, false))))
  | _, _ => (m, .fail .accessDenied 0)

/-! ### SORT (R387) -/

/-- The kept pairs of a sorted list: the first of each run of equal keys, its payload the run length under COUNT. -/
def dedupPairs (count : Bool) (l : List (Nat × Nat)) : List (Nat × Nat) :=
  (l.zipIdx.filter (fun (x, i) => i == 0 || (l.getD (i - 1) (0, 0)).1 != x.1)).map (fun (x, _) =>
    if count then (x.1, (l.filter (fun y => y.1 == x.1)).length) else x)

/-- ceil(log2 n) for n ≥ 2. -/
def log2up (n : Nat) : Nat := bitLen (n - 1)

/-- An earlier SORT of the cluster has not ended. -/
def sortWaits (c : Core) (t : Nat) (u : UnitCmd) : Bool :=
  c.rasp.threads.any (fun x => thrCluster x.1 == thrCluster t &&
    x.2.units.any (fun v => v.result.isNone && (ublk v.block).cmd == 8 && v.order < u.order))

/-- SORT in place. Poison of any pair makes every word of the range, and the count, poisoned. -/
def sortRun (m : M) (t : Nat) (u : UnitCmd) (b : UBlk) : M × Res (Nat × Bool) :=
  if sortWaits m.core t u then (m, .park .unit)
  else
    let n := b.f10
    if n = 0 then (m, .ok (0, false))
    else
      let (c, d, bad) := scratchRead m.core t b.f0 (8 * n)
      let pairs := (List.range n).map (fun i => (leNat ((d.drop (8 * i)).take 4), leNat ((d.drop (8 * i + 4)).take 4)))
      let s := (sortPairs (pairs.zipIdx.map (fun (p, i) => (p.1, i)))).map (fun (k, i) => (k, (pairs.getD i (0, 0)).2))
      let kept := if bitOf b.f14 0 then dedupPairs (bitOf b.f14 1) s else s
      let spoilt := bad.any id
      let c := c.perf (stackReg RSP_SORT_CYCLES (thrCluster t)) (if 2 ≤ n then (n + 31) / 32 * (log2up n + 2) else 0)
      let out := kept.flatMap (fun (k, p) => natLe 4 k ++ natLe 4 p)
      let out := if spoilt then out ++ d.drop out.length else out
      ({ m with core := scratchWrite c t b.f0 out (fun _ => spoilt) }, .ok (kept.length, spoilt))

/-! ### Running a unit command -/

/-- Poison of each 32-byte word of a range of bytes. -/
def wordMarks (bad : List Bool) : List Bool := (List.range (bad.length / 32)).map (fun k => bad.getD (32 * k) false)

def countTrue (l : List Bool) : Nat := (l.filter id).length

/-- PAMO over the ring: the old value of the other chip (R31, R388). -/
def remoteAtomic (m : M) (t : Nat) (th : Thread) (u : UnitCmd) (b : UBlk) : M × Res Nat :=
  let ptr : W64 := BitVec.ofNat 64 b.f0
  match th.background.find? (fun f => f.ptr == ptr && f.len == u.tag && f.write) with
  | some f => if f.status = .done then (m, .ok (leNat f.data)) else (m, .fail f.status ptr)
  | none =>
    let tag := ((work? m.core th.ctx th.num).map (·.tag)).getD 0
    if pairPark m.core (ptrChip ptr) then (m, .park .pair)
    else if noRoute m.core (ptrChip ptr) then (m, .fail .linkLost ptr)
    else if m.core.ring.fwds.any (fun f => f.kind == 4 && f.who == (t, th.inst, 4 + u.tag)) then (m, .park (.remote tag))
    else (m.on (fun c => forward c (ptrChip ptr) tag (ctxPart c th.ctx) th.ctx 0x12
        [b.f0, 0, b.f18 % 65536, b.f8, b.f10 + b.f14 * 2 ^ 32] [] false 4 (t, th.inst, 4 + u.tag)), .park (.remote tag))

/-- A unit command's effect and what UWAIT returns, with its poison; `.park` while it cannot end. -/
def unitRun (m : M) (t : Nat) (th : Thread) (u : UnitCmd) : M × Res (Nat × Bool) :=
  let b := ublk u.block
  let ptr : W64 := BitVec.ofNat 64 b.f0
  match b.cmd with
  | 0 =>
    let c0 := m.core
    andThen (thrRead m t th ptr b.f10 true) (fun m (d, ps) =>
      ((movedOnly c0 m).on (fun c => scratchWrite c t b.f8 d (fun k => ps.getD k false)), .ok (countTrue ps, false)))
  | 1 =>
    let (c, d, bad) := scratchRead m.core t b.f8 b.f10
    let marks := wordMarks bad
    andThen (thrWriteReady { m with core := c } t th ptr d (fun k => marks.getD k false) (marks.any id) true) (fun m local_ =>
      (if local_ then thrStore m th ptr d (fun k => marks.getD k false) true else m, .ok (countTrue marks, false)))
  | 2 =>
    let (c, d, bad) := scratchRead m.core t b.f8 b.f10
    let n := countTrue (wordMarks bad)
    let c := c.count ECC_POISON_READ n
    let c := agentWrite c th.ctx th.num ptr (d.zipIdx.map (fun (x, i) => if bad.getD i false then 0 else x))
    ({ m with core := modThr c t (fun th => { th with poisonOut := th.poisonOut + n }) }, .ok (n, false))
  | 3 =>
    let (c, d, bad) := scratchRead m.core t b.f8 b.f10
    let marks := wordMarks bad
    ({ m with core := winWrite c th.ctx th.num b.f0 d (fun k => marks.getD k false) }, .ok (countTrue marks, false))
  | 4 =>
    let (c, d, bad) := winRead m.core th.ctx th.num b.f0 b.f10
    let marks := wordMarks bad
    ({ m with core := scratchWrite c t b.f8 d (fun k => marks.getD k false) }, .ok (countTrue marks, false))
  | 5 => tldRun m t b
  | 6 => tstRun m t th b u.fmt
  | 7 => taddRun m t th b u.fmt
  | 8 => sortRun m t u b
  | _ =>
    let bits := if b.f18 / 256 % 256 = 0 then 32 else 64
    let r := if servedHere m.core (ptrChip ptr) then
        rawAtomic m (th.ctx % 4) (ctxPart m.core th.ctx) ptr (b.f18 % 256) bits b.f8 (b.f10 + b.f14 * 2 ^ 32)
      else remoteAtomic m t th u b
    match r with
    | (m, .ok old) => (m, .ok (old, false))
    -- a poisoned target is left, and the work completes no better than POISONED (R388, R572)
    | (m, .fail .poisoned _) => (m.on (fun c => noteFail c th.ctx th.num .poisoned ptr), .ok (0, true))
    | (m, .fail s d) => (m, .fail s d)
    | (m, .park k) => (m, .park k)

/-! ### The end of a command -/

/-- No unit or engine command of the thread is under way. -/
def allEnded (th : Thread) : Bool := th.units.all (·.result.isSome) && th.cmds == []

/-- A thread whose wait is over is ready again; its instruction issues once more and completes. -/
def wakeThread (th : Thread) : Thread :=
  match th.wait with
  | .unit tag => if th.units.any (fun u => u.tag == tag && u.result.isNone) then th else { th with wait := .ready }
  | .engine id => if th.cmds.contains id then th else { th with wait := .ready }
  | .fence => if allEnded th then { th with wait := .ready } else th
  | .parked .unit => if 8 ≤ th.units.length && th.units.all (·.result.isNone) then th else { th with wait := .ready }
  | _ => th

end Sys2Proof.Machine
end

