-- ==== Sys2Proof/Machine/RaspEng.lean ====
section
/-! DEFINITION. Engine commands of rasp threads (R349 to R352, R361, R389, Table 10-9). A command's effect comes as it ends, in
an order that R350 leaves open. -/

namespace Sys2Proof.Machine
open Sys2Proof

/-- The fields of an engine block (Table 10-9). -/
structure EBlk where
  cmd : Nat
  f1 : Nat
  f2 : Nat
  f4 : Nat
  f8 : Nat
  fC : Nat
  f10 : Nat
  f18 : Nat
  f1C : Nat
deriving DecidableEq, Repr

def eblk (b : List Byte) : EBlk :=
  let n := fun (o k : Nat) => leNat ((b.drop o).take k)
  { cmd := n 0 1, f1 := n 1 1, f2 := n 2 2, f4 := n 4 4, f8 := n 8 4, fC := n 0x0C 4, f10 := n 0x10 8, f18 := n 0x18 4, f1C := n 0x1C 4 }

def refusedTrap : Trap := trapOf .ceRefused

/-- A format word that an engine command names, under the thread's partition (R351): block formats and the three scalar
floats. -/
def engFmt (c : Core) (th : Thread) (w : Nat) : Option FmtWord :=
  match fmtWord? w with
  | some f => if (isBlock f.fmt || scalar3 f.fmt) && (f.fmt ≠ .cb4 || f.codebook / 16 == ctxPart c th.ctx) then some f else none
  | none => none

/-- Blocks per token of a LOAD_ACT: those of the object of the step's last LOAD_PANE (R347). -/
def blocksPer (e : Engine) : Nat := e.lastCols / 32

/-- The slot size of the blocks that a LOAD_ACT makes, from its source format and QUANT. -/
def loadedSize (f : FmtWord) (quant : Nat) : Nat := if isBlock f.fmt then 64 else if quant = 0 then 128 else 64

/-- Bytes of a token in the source of a LOAD_ACT: a row of scalars, or 64-byte records. -/
def sourceStride (f : FmtWord) (blocks : Nat) : Nat := if isBlock f.fmt then 64 * blocks else rowStride f.fmt (32 * blocks)

/-- Bytes of a token in the destination of a DRAIN. -/
def drainStride (f : FmtWord) (rows : Nat) : Nat := if isBlock f.fmt then 2 * rows else rowStride f.fmt rows

/-- The format of a DRAIN: FP32 as it stands into scratch, else that of its word. -/
def drainFmt (c : Core) (th : Thread) (b : EBlk) : Option FmtWord :=
  if bitOf b.f2 0 then some { fmt := .fp32, toInf := true, round := .even, fitted := false, codebook := 0 } else engFmt c th b.f18

/-- What CEPOST finds in a block before any data is read (R351, Table 10-9). -/
def engPost (c : Core) (th : Thread) (b : EBlk) : Option Trap :=
  let refused := fun (ok : Bool) => if ok then none else some refusedTrap
  match b.cmd with
  | 0 => firstTrap [orIllegal (b.f2 == 0 && b.fC == 0 && b.f18 == 0 && b.f1C == 0), refused (b.f1 ≤ 1),
      if b.f10 % 32 ≠ 0 then some (trapOf .misaligned (BitVec.ofNat 64 b.f10)) else none]
  | 1 => match engFmt c th b.f18 with
    | none => some refusedTrap
    | some f => firstTrap [orIllegal (b.f2 ≤ 1 && b.fC == 0 && b.f1C == 0), refused (b.f1 ≤ 2),
        if b.f10 % 32 ≠ 0 then some (trapOf .misaligned (BitVec.ofNat 64 b.f10)) else none,
        if bitOf b.f2 0 then match th.engine with
          | some e => spaceTrap b.f10 (b.f8 * sourceStride f (blocksPer (eng c e))) (winEnd c th) 32
          | none => none
        else none]
  | 2 => firstTrap [orIllegal (b.f2 ≤ 1 && b.fC == 0 && b.f10 == 0 && b.f18 == 0 && b.f1C == 0),
      refused (b.f1 ≤ 1 && b.f4 + b.f8 ≤ 6144)]
  | 3 =>
    let rows := b.fC / 65536
    match drainFmt c th b with
    | none => some refusedTrap
    | some f =>
      let len := b.f8 * drainStride f rows
      firstTrap [orIllegal (b.f1 == 0 && b.f2 ≤ 1 && (!bitOf b.f2 0 || b.f18 == 0)),
        refused (b.f4 + b.f8 ≤ 6144 && b.fC % 65536 + rows ≤ 128 && (!isBlock f.fmt || rows % 32 == 0)),
        if bitOf b.f2 0 then spaceTrap b.f10 len 65536 32 else winTrap c th b.f10 len 32 true]
  | _ => some (trapOf .illegal)

/-- R350: whether a command may take effect, among those under way that were posted before it. -/
def engMay (before : List EBlk) (b : EBlk) : Bool :=
  match b.cmd with
  | 0 => !before.any (fun x => x.cmd == 2 && x.f1 == b.f1)
  | 2 => !before.any (fun x => (x.cmd == 0 && x.f1 == b.f1) || (x.cmd == 1 && x.f4 < b.f4 + b.f8 && b.f4 < x.f4 + x.f8))
  | _ => true

/-- A command that ends without its effect changes nothing in the operand store, nor uses up the flip mask (R351). -/
def storeKept (m0 : M) (n : Nat) (m : M) : M :=
  m.on (fun c => ((setEng c n (eng m0.core n)).rset ECC_FLIP_CTRL (m0.core.rget ECC_FLIP_CTRL)).rset ECC_POISON_WRITTEN
    (m0.core.rget ECC_POISON_WRITTEN))

/-- LOAD_PANE. A poisoned header leaves every row of the pane poisoned; a malformed object is refused. -/
def engPane (m : M) (t n : Nat) (th : Thread) (b : EBlk) : M × Res (Option Trap) :=
  let rd : Reader := fun m p len => thrRead m t th p len true
  let part := ctxPart m.core th.ctx
  let loaded := andThen (matHeader m rd (BitVec.ofNat 64 b.f10)) (fun m h =>
    match h with
    | none => (m.on (fun c => modEng c n (fun e => { e with
        panes := amSet e.panes b.f1 { emptyPane with lanePoison := List.replicate 4 true } })), .ok none)
    | some h =>
      if h.fw.fmt = .cb4 && h.fw.codebook / 16 ≠ part then (m, .ok (some refusedTrap))
      else andThen (loadPane m n rd part b.f1 h (fmtCode h) b.f4 b.f8) (fun m _ => (m, .ok none)))
  match loaded with
  | (m', .fail .badDescriptor _) => (storeKept m n m', .ok (some refusedTrap))
  | (m', .fail s d) => (storeKept m n m', .ok (some (accessTrap s d)))
  | (m', .park k) => (storeKept m n m', .park k)
  | (m', .ok x) => (m', .ok x)

/-- The source bytes of one token of a LOAD_ACT, with a poison mark for each byte. -/
def actSource (m : M) (t : Nat) (th : Thread) (b : EBlk) (off len : Nat) : M × Res (List Byte × List Bool) :=
  if bitOf b.f2 0 then
    let (c, d, bad) := winLoad m.core th.ctx th.num (b.f10 + off) len
    ({ m with core := c }, .ok (d, bad))
  else
    let p : W64 := BitVec.ofNat 64 (b.f10 + off)
    andThen (thrRead m t th p len true) (fun m (d, ps) =>
      (m, .ok (d, (List.range len).map (poisonAt (ptrOffset p) ps))))

/-- LOAD_ACT: blocks as they are, or scalars quantised by stage 1 of Table 8-5. Poison of a word poisons the blocks in it. -/
def engAct (m : M) (t n : Nat) (th : Thread) (b : EBlk) : M × Res (Option Trap) :=
  match engFmt m.core th b.f18 with
  | none => (m, .ok (some refusedTrap))
  | some f =>
    -- before any LOAD_PANE of the step nothing says how many blocks a token has. DESIGN CHOICE, assumption 94 (safe)
    let (c, d) := m.core.draw
    let m := { m with core := c }
    let nb := if (eng m.core n).lastCols = 0 then Config.choice d % 513 else blocksPer (eng m.core n)
    let s := sourceStride f nb
    let outside := if bitOf b.f2 0 then spaceTrap b.f10 (b.f8 * s) (winEnd m.core th) 32 else none
    if 0x400000 < (b.f4 + b.f8) * nb * loadedSize f b.f1 then (m, .ok (some refusedTrap))
    else if outside.isSome then (m, .ok outside)
    else
      let m := if f.fmt = .cb4 then m.on (fun c => fillCache c n (ctxPart c th.ctx)) else m
      let code := b.f18 % 16 + 256 * f.codebook
      let r := forEach (fun m (acc : List (List Byte × List Bool)) k =>
        andThen (actSource m t th b (k * s) s) (fun m x => (m, .ok (acc ++ [x])))) m [] (List.range b.f8)
      let put := fun (c : Core) (d : List Byte) (bad : List Bool) (tok : Nat) =>
        if isBlock f.fmt then
          let cb := if f.fmt = .cb4 then codebook c f.codebook else []
          storeActs c n tok ((List.range nb).map (fun j =>
            let rec' := (d.drop (64 * j)).take 64
            actSlot code cb (getElems f.fmt rec' 32) (leNat ((rec'.drop 32).take 2))
              (bitOf (rec'.getD 34 0).toNat 2 || ((bad.drop (64 * j)).take 64).any id)))
        else
          let (c, bs, fl) := quantise c b.f1 ((getElems f.fmt d (32 * nb)).map (decodeElem f.fmt))
          let w := elemsBytes f.fmt 32
          storeActs (addFlags c th.ctx th.num fl) n tok (bs.zipIdx.map (fun (x, j) =>
            actSlot (quantCode b.f1) [] x.1 x.2 (((bad.drop (w * j)).take w).any id)))
      match r with
      | (m, .fail s d) => (m, .ok (some (accessTrap s d)))
      | (m, .park k) => (m, .park k)
      | (m, .ok l) => (m.on (fun c => l.zipIdx.foldl (fun c (x, k) => put c x.1 x.2 (b.f4 + k)) c), .ok none)

/-- RUN: refused when the pane or an activation slot that it reads is invalid (R352). -/
def engRun (m : M) (n : Nat) (b : EBlk) : M × Res (Option Trap) :=
  let pn := (amGet? (eng m.core n).panes b.f1).getD emptyPane
  if (List.range b.f8).all (fun k => actsValid (eng m.core n) pn (b.f4 + k)) then
    (m.on (fun c => runPane c n b.f1 b.f4 b.f8 (!bitOf b.f2 0)), .ok none)
  else (m, .ok (some refusedTrap))

/-- One token's drained row: its bytes and the poison of each word of them. A poisoned accumulator is not encoded (R361), and an
invalid one gives +0 whatever ALPHA is (R352). A held NaN scale leaves a record's elements (R158). -/
def drainRow (c : Core) (th : Thread) (n : Nat) (b : EBlk) (f : FmtWord) (old : List Byte) (tok : Nat) : Core × List Byte × List Bool :=
  let rows := b.fC / 65536
  let accs := (List.range rows).map (fun i => readAcc? c n (b.fC % 65536 + i) tok)
  let bad := accs.map (fun a => match a with | some a => a.poison | none => false)
  let vals := accs.map (fun a => match a with
    | some a => if a.poison then FVal.zero else mulFp32 (decodeFp32 b.f1C) a.val
    | none => FVal.zero)
  if isBlock f.fmt then
    let cb := if f.fmt = .cb4 then codebook c f.codebook else []
    (chunks32 vals).zipIdx.foldl (fun (c, out, marks) (v, j) =>
      let (c, d) := c.drawN (2 * v.length)
      let mine := (old.drop (64 * j)).take 64
      let held := leNat ((mine.drop 32).take 2)
      let e := encodeBlock f cb (getElems f.fmt mine v.length) held (v.map some) d
      let spoilt := ((bad.drop (32 * j)).take 32).any id
      let fl := recordFlags f.fmt cb e.elems e.scale spoilt
      let eb := packElems f.fmt e.elems
      let rec' := eb ++ (mine.take 32).drop eb.length ++ natLe 2 e.scale ++ [BitVec.ofNat 8 fl] ++ mine.drop 35
      (if spoilt then c else addFlags c th.ctx th.num e.flags, out ++ rec', marks ++ [spoilt, spoilt])) (c, [], [])
  else
    let (c, bits, fl) := encodeScalars c f vals
    let c := if bitOf b.f2 0 then c else addFlags c th.ctx th.num fl
    let out := resultRow f.fmt bits
    (c, out, (List.range (out.length / 32)).map (fun k => bad.zipIdx.any (fun (a, i) => a && elemWord f.fmt i == k)))

/-- DRAIN into the window, encoded once, or into scratch as FP32. The word that holds a poisoned accumulator's element is
written poisoned (R361). -/
def engDrain (m : M) (t n : Nat) (th : Thread) (b : EBlk) : M × Res (Option Trap) :=
  match drainFmt m.core th b with
  | none => (m, .ok (some refusedTrap))
  | some f =>
    let s := drainStride f (b.fC / 65536)
    let m := m.on (fun c => drainRead c n b.f4 b.f8 (b.fC % 65536) (b.fC / 65536))
    (m.on (fun c => (List.range b.f8).foldl (fun c k =>
      let off := b.f10 + k * s
      let old := if bitOf b.f2 0 then (scratchOf c t).read off s else (winOf c th.ctx th.num).area.read off s
      let (c, d, marks) := drainRow c th n b f old (b.f4 + k)
      if bitOf b.f2 0 then scratchStore c t off d (fun k => marks.getD k false)
      else winStore c th.ctx th.num off d (fun k => marks.getD k false)) c), .ok none)

/-- What an engine command does, by its CMD. -/
def engCmd (m : M) (t n : Nat) (th : Thread) (b : EBlk) : M × Res (Option Trap) :=
  match b.cmd with
  | 0 => engPane m t n th b
  | 1 => engAct m t n th b
  | 2 => engRun m n b
  | _ => engDrain m t n th b

/-! ### Traps, and the end of a command -/

/-- At a trap the commands outstanding finish (R394). -/
def finishUnits (m : M) (t : Nat) : M :=
  match thr? m.core t with
  | none => m
  | some th =>
    let m := (th.units.filter (·.result.isNone)).foldl (fun m u => asThread t (fun m => (unitRun m t th u).1) m) m
    match th.engine with
    | none => m
    | some n => (eng m.core n).busy.foldl (fun m x => asThread t (fun m => (engCmd m t n th (eblk x.2)).1) m) m

/-- The thread traps (R393, R394). -/
def takeTrap (m : M) (t word : Nat) (x : Trap) : M := (finishUnits m t).on (fun c => trapThread c t word x)

/-- A trap that no instruction of the thread raises: its record's instruction word is whatever the thread was at. -/
def lateTrap (m : M) (t : Nat) (x : Trap) : M :=
  let (c, d) := m.core.draw
  takeTrap { m with core := c } t ((Config.freeWord d).toNat % 2 ^ 32) x

/-- UNIT_COMMAND_END: the command under `tag` ends (R384), unless something it needs has still to come. -/
def unitEnd (t tag : Nat) : M → M := asThread t (fun m =>
  match thr? m.core t with
  | none => m
  | some th => match th.units.find? (fun u => u.tag == tag && u.result.isNone) with
    | none => m
    | some u => match unitRun m t th u with
      | (m, .park _) => m
      | (m, .fail s d) => lateTrap m t (accessTrap s d)
      | (m, .ok (v, bad)) =>
        m.on (fun c => modThr c t (fun th => wakeThread { th with
          units := th.units.map (fun x => if x.tag = tag then { x with result := some (BitVec.ofNat 64 v, bad) } else x),
          background := th.background.filter (fun f => f.ptr != BitVec.ofNat 64 (ublk u.block).f0) })))

/-- ENGINE_COMMAND_END: the command takes effect and ends (R350), unless the interlock or data that it needs keep it. -/
def engineEnd (t id : Nat) : M → M := asThread t (fun m =>
  match thr? m.core t with
  | none => m
  | some th => match th.engine with
    | none => m
    | some n =>
      let busy := (eng m.core n).busy
      match busy.find? (·.1 == id) with
      | none => m
      | some (_, blk) =>
        let b := eblk blk
        let before := (busy.takeWhile (·.1 != id)).map (fun x => eblk x.2)
        if !engMay before b then m
        else
          match engCmd m t n th b with
          | (m, .park _) => m
          | (m, .fail s d) => lateTrap m t (accessTrap s d)
          | (m, .ok (some x)) => lateTrap m t x
          | (m, .ok none) =>
            let m := m.on (fun c => if (thr? c t).isSome then
              modEng c n (fun e => { e with busy := e.busy.filter (·.1 != id) }) else c)
            m.on (fun c => modThr c t (fun th =>
              let left := th.background.filter (·.write)
              wakeThread { th with cmds := th.cmds.filter (· != id), background := left })))

end Sys2Proof.Machine
end

