-- ==== Sys2Proof/Machine/Roce.lean ====
section
/-! DEFINITION. The RoCE v2 subset as the chip sends it (R498 to R505): frames, acknowledgements and NAKs, queue pairs in ERROR,
and the RDMA WRITEs of works. -/

namespace Sys2Proof.Machine
open Sys2Proof

def qp? (c : Core) (q : Nat) : Option Qp := amGet? c.net.qps q
def setQp (c : Core) (q : Nat) (x : Qp) : Core := { c with net := { c.net with qps := amSet c.net.qps q x } }
def modQp (c : Core) (q : Nat) (f : Qp → Qp) : Core := { c with net := { c.net with qps := amMod c.net.qps q f } }

def psn24 (n : Nat) : Nat := n % 2 ^ 24
def cut24 (a b : Nat) : Nat := (a % 2 ^ 24 + 2 ^ 24 - b % 2 ^ 24) % 2 ^ 24

/-- The frames of RoCE, numbered above the Frieze types: acknowledge, NAK, READ response, atomic acknowledge, RDMA WRITE,
CNP. -/
def roceAck : Nat := 0x81
def roceNak : Nat := 0x82
def roceRead : Nat := 0x83
def roceAtomic : Nat := 0x84
def roceWrite : Nat := 0x85
def roceCnp : Nat := 0x86

/-- A RoCE packet leaves on its queue pair: IB headers of `hdr` bytes after the 12-byte base header, then data and ICRC. -/
def roceFrame (c : Core) (q type psn hdr : Nat) (body : List Nat) (data : List Byte) : Core :=
  match qp? c q with
  | none => c
  | some x =>
    let len := frameLen x.vlan x.ip (12 + hdr + (data.length + 3) / 4 * 4 + 4)
    let (flow, w) := flowOf c x.port type 0xFFFF (some x.partition)
    enqueueFrame c x.port {
      sub := x.sub, strict := false, flow := flow, weight := w, len := len, dscp := c.fld (SCH_DSCP x.port) SCH_DSCP_ROCE,
      type := type, ctx := 0xFFFF, session := q, seq := psn, xid := x.remoteQpn, off := 0, retx := false, transit := false,
      body := body, data := data,
      head := { mac := x.mac, vlan := x.vlan, ip := x.ip, udpSrc := Config.roceUdp q, udpDst := 4791 } }

/-! ### RDMA WRITEs of works (R504) -/

/-- A work's write waits for its context's next doorbell. -/
def holdRdma (c : Core) (m : OutMsg) : Core :=
  { c with net := { c.net with heldRdma := amSet c.net.heldRdma m.ctx (amGet c.net.heldRdma m.ctx [] ++ [m]) } }

/-- The packets of an RDMA WRITE: offsets of `pmtu` bytes, from a PSN. -/
def writePkts (c : Core) (q psn : Nat) (m : OutMsg) : Core :=
  match qp? c q with
  | none => c
  | some x =>
    let va := m.body.getD 3 0 + m.body.getD 0 0
    let n := max 1 ((m.data.length + x.pmtu - 1) / max 1 x.pmtu)
    (List.range n).foldl (fun c i =>
      roceFrame c q roceWrite (psn24 (psn + i)) (if i = 0 then 16 else 0) [va, m.body.getD 2 0, m.data.length]
        ((m.data.drop (x.pmtu * i)).take x.pmtu)) c

/-- A work's write goes out on a queue pair in RTS, or is held (R504). -/
def sendRdma (c : Core) (m : OutMsg) : Core :=
  match amGet? c.net.doorQp m.ctx with
  | none => holdRdma c m
  | some q => match qp? c q with
    | none => holdRdma c m
    | some x =>
      if x.error then holdRdma c m
      else
        let n := max 1 ((m.data.length + x.pmtu - 1) / max 1 x.pmtu)
        let first := x.sendPsn
        let x := { x with sendPsn := psn24 (first + n), writes := x.writes ++ [(first, psn24 (first + n), m, x.retry, c.glb.now)] }
        writePkts (setQp c q x) q first m

/-- A context's doorbell has come on queue pair `q`: held writes are sent again in full (R504). -/
def rdmaDoorbell (c : Core) (ctx q : Nat) : Core :=
  let held := amGet c.net.heldRdma ctx []
  let c := { c with net := { c.net with doorQp := amSet c.net.doorQp ctx q, heldRdma := amDel c.net.heldRdma ctx } }
  held.foldl sendRdma c

/-- A queue pair enters ERROR (R502): what it was sent and serves is dropped, and unacknowledged writes are held. -/
def qpError (c : Core) (q status : Nat) : Core :=
  match qp? c q with
  | none => c
  | some x =>
    let mine := fun (r : Request) => match r.sender with | .qp p _ => p == q | _ => false
    let c := (c.net.requests.filter mine).foldl (fun c r => dropTag (unwait c (.request r.tag)) r.tag) c
    let c := { c with net := { c.net with requests := c.net.requests.filter (fun r => !mine r) } }
    let c := setQp c q { x with error := true, lastStatus := status, writes := [], wr := none }
    x.writes.foldl (fun c w => holdRdma c w.2.2.1) c

/-- Table 13-15, with OUTCOME_UNKNOWN as R523 adds it. -/
def nakCode (s : Status) : Nat :=
  match s with
  | .badDescriptor | .formatUnsupported => 1
  | .accessDenied | .extentWithdrawn | .keyRevoked => 2
  | _ => 3

/-- A NAK of an access that fails, and ERROR (R502). -/
def sendNak (c : Core) (q psn : Nat) (s : Status) : Core :=
  match qp? c q with
  | none => c
  | some x =>
    let c := roceFrame c q roceNak psn 4 [nakCode s] []
    qpError (c.count (ROCE_NAKS_SENT x.port)) q (statusCode s)

/-- A READ's response packets (R503): each packet's data is checked before it is sent, and the first that holds poison is
replaced by a NAK. `bad` marks the poisoned bytes. -/
def sendRead (c : Core) (q psn : Nat) (data : List Byte) (bad : Nat → Bool) : Core :=
  match qp? c q with
  | none => c
  | some x =>
    let n := max 1 ((data.length + x.pmtu - 1) / max 1 x.pmtu)
    let isBad := fun i => (List.range (min x.pmtu (data.length - x.pmtu * i))).any (fun j => bad (x.pmtu * i + j))
    let stop := ((List.range n).find? isBad).getD n
    let c := (List.range stop).foldl (fun c i =>
      roceFrame c q roceRead (psn24 (psn + i)) (if i = 0 || i + 1 = n then 4 else 0) [i, n] ((data.drop (x.pmtu * i)).take x.pmtu)) c
    if stop < n then sendNak c q (psn24 (psn + stop)) .poisoned else c

end Sys2Proof.Machine
end

