-- ==== Sys2Proof/Machine/Answer.lean ====
section
/-! DEFINITION. How requests are answered (R484, R488, R490, R502, R503, R520), what waits for what, and its release. -/

namespace Sys2Proof.Machine
open Sys2Proof

/-! ### Replies -/

def modReq (c : Core) (tag : Nat) (f : Request → Request) : Core :=
  { c with net := { c.net with requests := c.net.requests.map (fun r => if r.tag = tag then f r else r) } }

def dropReq (c : Core) (tag : Nat) : Core :=
  { c with net := { c.net with requests := c.net.requests.filter (fun r => r.tag != tag) } }

/-- A FORWARD_REPLY to the origin of a FORWARD (Table 14-2): origin chip and op tag, the partition for its flow, then the
REPLY. -/
def fwdReply (c : Core) (origin otag part : Nat) (body : List Nat) (data : List Byte) (tag : Option Nat) : Core :=
  match (routeTo c origin).bind Route.prefer with
  | some d => c.send { dst := .dir d, type := 0x75, cls := 1, ctx := 0xFFFF, body := [origin, otag, part] ++ body, data := data,
                       work := none, tag := tag }
  | none => match tag with | some t => dropTag c t | none => c

def isRead (t : Nat) : Bool := t == 0x10
def isAtomic (t : Nat) : Bool := t == 0x12

/-- The answer to a request on a queue pair. -/
def answerQp (c : Core) (r : Request) (q psn : Nat) (rep : Rep) : Core :=
  if isRead r.type && (rep.status = .done || rep.status = .poisoned) then
    sendRead c q psn rep.data (fun i => poisonAt rep.off rep.poisons i)
  else if rep.status ≠ .done then sendNak c q psn rep.status
  else if isAtomic r.type then roceFrame c q roceAtomic psn 12 [rep.value.toNat] []
  else roceFrame c q roceAck psn 4 [] []

/-- The reply goes to whoever asked, in the form of a contribution for an expert entry (R331), and the op tag retires once it is acknowledged, or, over RoCE and to a session that is
gone, at once. -/
def sendReply (c : Core) (r : Request) (rep : Rep) : Core :=
  let body := [statusCode rep.status, rep.count, rep.detail.toNat, rep.value.toNat, rep.value2.toNat]
  let c := dropReq c r.tag
  match r.sender with
  | .session s xid =>
    let c := if isRead r.type && rep.data ≠ [] then
      c.send { dst := .session s, type := 0x14, cls := 1, ctx := r.ctx, body := [r.body.getD 0 0, rep.data.length, 0, 0, 0],
               data := rep.data, work := none, xid := some xid } else c
    c.send { dst := .session s, type := 0x1F, cls := 1, ctx := r.ctx, body := body, data := [], work := none, xid := some xid,
             tag := some r.tag }
  | .qp q psn => dropTag (answerQp c r q psn rep) r.tag
  | .chip id otag =>
    if r.type = 0x100 then fwdReply c id otag r.part [2 + statusCode rep.status, 0, 0] [] (some r.tag)
    else fwdReply c id otag r.part body rep.data (some r.tag)

/-- A write that came by RDMA, which never waits for backing (R101). -/
def rdmaWrites (r : Request) : Bool :=
  match r.sender with
  | .qp _ _ => !isRead r.type
  | _ => false

/-- A request is answered once every replica of its writes is (R605). -/
def answer (c : Core) (r : Request) (rep : Rep) : Core :=
  if writesMade c r.tag then sendReply c r rep
  else modReq c r.tag (fun r => { r with reply := some rep, cause := some .pair })

/-- A request waits (R247). -/
def parkReq (c : Core) (r : Request) (k : ParkCause) : Core :=
  notePark (modReq c r.tag (fun r => { r with cause := some k })) (.request r.tag) k

/-- What serving a request has come to. -/
def applyAns (r : Request) (x : M × Ans) : M :=
  match x with
  | (m, .reply rep) => m.on (fun c => answer c r rep)
  | (m, .drop) => m.on (fun c => dropTag (dropReq c r.tag) r.tag)
  | (m, .park k) => m.on (fun c => parkReq c r k)
  | (m, .fwd tag) => m.on (fun c => modReq c r.tag (fun r => { r with cause := some (.remote tag) }))

/-- A request that is still served here. -/
def req? (c : Core) (tag : Nat) : Option Request := c.net.requests.find? (fun r => r.tag == tag)

/-- A reply under an op tag, when the request is still there. -/
def answerTag (c : Core) (tag : Nat) (rep : Rep) : Core :=
  match req? c tag with
  | some r => answer c r rep
  | none => c

/-! ### Release of what waits -/

/-- Works, threads and requests that wait for a cause that `p` holds of go on: a work's slice is due again, a thread is ready,
a request is served again. -/
def wakeOn (p : ParkCause → Bool) (c : Core) : Core :=
  let c := { c with work := { c.work with flight := amMap c.work.flight (fun _ w => match w.phase with
    | .parked k => if p k then { w with phase := .ready, waited := 0 } else w
    | _ => w) } }
  let c := { c with rasp := { c.rasp with threads := amMap c.rasp.threads (fun _ t => match t.wait with
    | .parked k => if p k then { t with wait := .ready, waited := 0 } else t
    | _ => t) } }
  { c with net := { c.net with requests := c.net.requests.map (fun r => match r.cause with
    | some k => if p k && r.reply.isNone then { r with cause := none, waited := 0 } else r
    | none => r) } }

/-- Every waiting work, thread or request whose cause `p` holds of fails with a status: a work stops, a thread traps, a
request is answered. -/
def failOn (p : ParkCause → Bool) (s : Status) (d : W64) (m : M) : M :=
  let works := (m.core.work.flight.map (·.2)).filter (fun w => match w.phase with | .parked k => p k | _ => false)
  let m := works.foldl (fun m w => m.on (fun c => stopWork c w.ctx w.num s d)) m
  let thrs := (m.core.rasp.threads.filter (fun t => match t.2.wait with | .parked k => p k | _ => false)).map (·.1)
  let m := thrs.foldl (fun m t => lateTrap m t (accessTrap s d)) m
  let reqs := m.core.net.requests.filter (fun r => r.cause.any p && r.reply.isNone)
  reqs.foldl (fun m r => m.on (fun c => answer c r { status := s, detail := d })) m

/-- Replies that wait for replicas go once those are answered. -/
def sendMade (c : Core) : Core :=
  (c.net.requests.filter (fun r => r.reply.isSome && writesMade c r.tag)).foldl (fun c r => match r.reply with
    | some rep => sendReply c r rep
    | none => c) c

/-! ### A Frieze request lands -/

/-- Partition 16 stands for the fabric manager, whose requests no partition limits. -/
def fmPart : Nat := 16

/-- A request joins those served: with an op tag it is served from now, without one it waits unreleased (R484).
DEDUCED, assumption 39 (unsafe). -/
def admitReq (c : Core) (sender : From) (ctx part type : Nat) (body : List Nat) (data : List Byte) (held : List (Nat × Nat × Bool))
    (port : Nat := 0) : Core :=
  let r : Request := { tag := 0, sender := sender, ctx := ctx, part := part, type := type, body := body, data := data,
                       cause := none, waited := 0, reply := none, port := port }
  match newTag c with
  | (c, some t) => { c with net := { c.net with requests := c.net.requests ++ [{ r with tag := t }] } }
  | (c, none) => { c with net := { c.net with stalled := c.net.stalled ++ [(r, held)] } }

/-- Stalled requests take op tags as they come free, oldest first, and their packets are released. -/
def unstall : Nat → Core → Core
  | 0, c => c
  | n + 1, c =>
    match c.net.stalled with
    | [] => c
    | (r, held) :: rest =>
      match newTag c with
      | (c, none) => c
      | (c, some t) =>
        let c := { c with net := { c.net with stalled := rest, requests := c.net.requests ++ [{ r with tag := t }] } }
        unstall n (held.foldl (fun c h => releaseCr c h.1 0 h.2.1 h.2.2 true) c)

/-- A request message of Table 13-8 in packet `p`: it lands; a context that it names must be its sender's (R489); whole, it
is admitted. -/
def frieze (p : Pkt) (type : Nat) (body : List Nat) (total : Nat) (data : List Byte) (c : Core) : Core :=
  if !inService c then c
  else
    let full := tagsFull c
    match landPkt c { p with cls := 0 } with
    | (c, none) => c
    | (c, some s) =>
      let fm := p.srcEp / 2 ^ 28 == 2
      -- a context may be named by its owner alone (R224, R489); the fabric manager names none
      let named := if p.ctx < 4096 then ctxOwner c p.ctx == p.srcEp else fm && type != 0x20 && type != 0x21
      if !named then
        let held := if full then releaseCr c s 0 (pktCost (datagram p.len p.enc)) p.retx true else c
        if 0x28 ≤ type && type ≤ 0x2B then raise held .synRejected 12 (body.getD 0 0 % 65536)
        else raise held .ctxDoorbellRejected 7 (if p.ctx < 4096 then p.ctx else 0xFFFF)
      else
        match assemble c s p.xid p.msgOff total (if p.ctx < 4096 then ctxPart c p.ctx else 16) data with
        | (c, none) => if full then releaseCr c s 0 (pktCost (datagram p.len p.enc)) p.retx true else c
        | (c, some d) =>
          admitReq c (.session s p.xid) p.ctx (if fm then fmPart else ctxPart c p.ctx) type body d
            (if full then [(s, pktCost (datagram p.len p.enc), p.retx)] else []) p.port

/-- The five words of a data prefix (Table 13-9). -/
def pfxBody (f : Pfx) : List Nat := [f.target.toNat, f.len, f.arg, f.operand.toNat, f.compare.toNat]

end Sys2Proof.Machine
end

