-- ==== Sys2Proof/Machine/Down.lean ====
section
/-! DEFINITION. Lines of coherent windows in memory, and domains going down (R454 to R459). -/

namespace Sys2Proof.Machine
open Sys2Proof

/-! ### The line in memory -/

/-- The four stack words of a line, and whether one is poisoned; `none` while a word must come from the partner (R607). -/
def readLine (m : M) (k : Nat) : M × Option (List Byte × Bool) :=
  let (m, ws, need) := readExtWords 4 m (lineExt k) (lineOff k / 32)
  match need with
  | some _ => (m, none)
  | none => (m, some ((ws.map (·.1)).flatten, ws.any (·.2)))

/-- A line is written: 128 bytes, poisoned or good. -/
def writeLine (m : M) (k : Nat) (data : List Byte) (poison : Bool) : M :=
  let d := padTo 128 0 data
  let ws := (List.range 4).map (fun i => ((d.drop (32 * i)).take 32, poison))
  (writeMarked m (lineOff k / 128 % 4) (lineExt k) (lineOff k / 32) ws).1

/-- The poison pattern goes into every word of a line (R455, R456). -/
def poisonLine (m : M) (d k : Nat) : M :=
  let (m, r) := readLine m k
  let m := writeLine m k ((r.map (·.1)).getD []) true
  m.on (fun c => modDomain (c.count COH_POISONED_LINES) d (fun x => { x with poisoned := min 1023 (x.poisoned + 1) }))

/-! ### Going down (R454 to R456) -/

/-- Lines of a domain. -/
def linesOf (c : Core) (d : Nat) : List (Nat × CohLine) := c.coh.lines.filter (fun l => l.2.domain == d)

/-- The NACK of a request (R445): reason 1 BUSY, 2 HOLD, 3 SET_FULL, 4 MEMBER_FULL, 5 DOWN. -/
def cohNack (c : Core) (d i reason tid k retry : Nat) : Core :=
  let h := match line? c k with | some l => holdLeft c l | none => 0
  let after := h + c.fld COH_TIMING0 COH_TIMING0_BACKOFF_NS * 2 ^ min retry 6
  cohSend (c.perf COH_NACKS) d i 17 1 reason tid k after

/-- The requester of a line's open transaction, and its TID. -/
def txReq (l : CohLine) : Option (Nat × Nat) :=
  match l.busy with
  | some t => match t.kind with
    | .getS r tid => some (r, tid)
    | .getM r tid => some (r, tid)
    | _ => none
  | none => none

/-- The open transactions of a domain are answered NACK DOWN. -/
def nackOpen (c : Core) (d : Nat) : Core :=
  (linesOf c d).foldl (fun c (k, l) => match txReq l with
    | some (r, tid) => cohNack c d r 5 tid k 0
    | none => c) c

/-- A removal of a member that the domain's going down ends is refused. -/
def endRemovals (c : Core) (d : Nat) : Core :=
  match domain? c d with
  | none => c
  | some x => x.removing.foldl (fun c r => mgmtReply c r.2 0x0154 .badState []) (modDomain c d (fun x => { x with removing := [] }))

/-- Every entry of the domain is freed and it is DOWN. TEST_DOWN clears once no domain that it took down still drains. -/
def domainDown (c : Core) (d : Nat) : Core :=
  let c := (linesOf c d).foldl (fun c l => freeLine c l.1) c
  let c := modDomain c d (fun x => { x with st := .down })
  let c := if c.coh.domains.any (fun x => x.2.st == .draining && x.2.cause == 8) then c else c.setFld COH_CTRL COH_CTRL_TEST_DOWN 0
  endHandling c 8 d d

/-- A cause of Table 12-8 takes a domain DOWN (R455, R459): the first one poisons, answers, fails and tells; a later one is
only logged. -/
def goDown (m : M) (d cause : Nat) (dead : Option Nat) : M :=
  let detail := cause + (match dead with | some i => 256 + i * 512 | none => 0)
  match domain? m.core d with
  | none => m
  | some x => match x.st with
    | .down => m
    | .draining => m.on (fun c =>
      let c := raise c .cohDomainDown 8 d detail 1 (some d)
      if cause = 6 ∨ cause = 7 then domainDown c d else c)
    | .up =>
      let gone := fun (l : CohLine) => dead.isSome && (l.owner == dead || (l.busy.bind (·.snooped)) == dead)
      let m := m.on (fun c => modDomain c d (fun x =>
        { x with st := .draining, cause := cause, dead := dead, poisoned := 0, downAt := c.glb.now }))
      let bad := (linesOf m.core d).filter (fun l => gone l.2)
      let m := bad.foldl (fun m l => poisonLine m d l.1) m
      -- a poisoned line is no longer owned
      let m := m.on (fun c => bad.foldl (fun c l => modLine c l.1 (fun l => { l with owner := none, sharers := [] })) c)
      let m := m.on (fun c => nackOpen c d)
      let m := failOn (fun k => match k with | .line e o => inDomain x e o | _ => false) .domainDown 0 m
      let c := { m.core with coh := { m.core.coh with claims := m.core.coh.claims.filter (fun t =>
        !inDomain x (lineExt t.1) (lineOff t.1)) } }
      let c := x.members.foldl (fun c i => if some i.1 = dead then c else
        cohSend c d i.1 18 0 cause Config.homeTid 0 (dead.getD 0xFFFFFFFF)) c
      let c := raise c .cohDomainDown 8 d detail 1 (some d)
      let c := (c.toFm 0x0152 [d, cause, dead.getD 0xFF]).count COH_DOWN_EVENTS
      let c := endRemovals c d
      { m with core := if cause = 6 ∨ cause = 7 then domainDown c d else c }

/-- The domains that the command's effects take down go down. -/
def settleDown (m : M) : M :=
  let l := m.core.coh.toDown
  l.foldl (fun m t => goDown m t.1 t.2.1 t.2.2) (m.on (fun c => { c with coh := { c.coh with toDown := [] } }))

/-- The drain ends (R456). -/
def drainEnd (d time : Nat) (m : M) : M :=
  let m := m.on (fun c => c.at time)
  match domain? m.core d with
  | none => m
  | some x =>
    if x.st ≠ .draining || m.core.glb.now < x.downAt + m.core.fld COH_TIMING1 COH_TIMING1_DRAIN_US * 1000 then m
    else
      let m := ((linesOf m.core d).filter (fun l => l.2.owner.isSome)).foldl (fun m l => poisonLine m d l.1) m
      m.on (fun c => domainDown c d)

end Sys2Proof.Machine
end

