-- ==== Sys2Proof/Machine/RaspExec.lean ====
section
/-! DEFINITION. Rasp instructions (R365 to R383, R389 to R396): issue, and the meaning of each form on the registers of a
thread. -/

namespace Sys2Proof.Machine
open Sys2Proof

/-! ### Issue (R365, R372, R391) -/

/-- A thread that may issue: it is ready, its work has not ended, and its cluster runs. -/
def mayIssue (c : Core) (t : Nat) : Option (Thread × ProgRun) :=
  match thr? c t with
  | some th => match work? c th.ctx th.num with
    | some w => match w.prog with
      | some p => if th.wait == .ready && liveWork w && clusterRuns c (thrCluster t) then some (th, p) else none
      | none => none
    | none => none
  | none => none

/-- What a fetch finds: the word, or a trap, or a wait. -/
inductive Fetch where
  | word (w : Nat)
  | trap (x : Trap)
  | wait (k : ParkCause)
deriving DecidableEq, Repr

/-- Lines of an instruction cache: 32 KiB of 64-byte lines (R364). -/
def icLines : Nat := 512

/-- The line of core `n` that holds address `a`, if its cache has it. -/
def icFind (c : Core) (n a : Nat) : Option ILine := (amGet c.rasp.icache n []).find? (fun l => l.line == a / 64)

/-- A line fills core `n`'s cache, and at most one other line leaves: one does of a full cache. Which one the hardware chooses.
DESIGN CHOICE, assumption 89 (safe). -/
def icFill (c : Core) (n : Nat) (l : ILine) : Core :=
  let old := amGet c.rasp.icache n []
  let (c, i) := c.choose (if old.length < icLines then old.length + 1 else old.length)
  let c := c.perf (stackReg RSP_ICACHE_MISSES (n / 16))
  { c with rasp := { c.rasp with icache := amSet c.rasp.icache n (old.eraseIdx i ++ [l]) } }

/-- The instruction word at address `a` of a line that holds it: its poison is consumed as the thread issues from it (R391). -/
def icWord (m : M) (l : ILine) (a : W64) : M × Fetch :=
  let o := a.toNat % 64
  if l.bad.getD (o / 32) false then (m.on (·.count ECC_POISON_READ), .trap (trapOf .poisonFetch a))
  else (m, .word (leNat ((l.bytes.drop o).take 4)))

/-- The instruction word at the thread's pc (R391): from the core's instruction cache, or, when that misses, through translation
(R401). -/
def fetchWord (m : M) (t : Nat) (th : Thread) (p : ProgRun) : M × Fetch :=
  let a := p.image + BitVec.ofNat 64 (0x80 + th.pc)
  match icFind m.core (t / 4) a.toNat with
  | some l => icWord m l a
  | none => match ptrCheck m.core (ctxPart m.core th.ctx) a 4 true false with
    | some s => (m, .trap { code := .access, status := s, addr := a })
    | none =>
      let c0 := m.core
      match readBytes m (thrCluster t / 4) (ptrExtent a) (ptrOffset a / 64 * 64) 64 with
      | (m, .wait k) => (m, .wait k)
      | (m, .got b ps) =>
        let l : ILine := { line := a.toNat / 64, bytes := b, bad := ps }
        icWord ((movedOnly c0 m).on (fun c => icFill c (t / 4) l)) l a

/-- Performance counts of an instruction that completes; how it paired and what the cluster did is free. -/
def countIssue (c : Core) (t : Nat) : Core :=
  let k := thrCluster t
  let (c, d) := c.drawN 2
  let c := c.perf (stackReg RSP_ISSUED k)
  let c := c.perf (stackReg RSP_DUAL_ISSUED k) (Config.choice d % 2)
  c.perf (stackReg RSP_BUSY_CYCLES k) (Config.choice (d + 1))

/-- An instruction's outcome takes effect. A thread that a fence met on the way has dropped is gone. -/
def finishIssue (t word : Nat) (p : ProgRun) (m : M) (o : Out) : M :=
  match thr? m.core t with
  | none => m
  | some _ =>
    match o with
    | .gone => m
    | .wait k => m.on (fun c => modThr c t (fun th => { th with wait := k }))
    | .park k => m.on (fun c => parkThread c t k)
    | .trap x => takeTrap m t word x
    | .next th => m.on (fun c => countIssue (setThr c t { th with pc := th.pc + 4, fetched := [], wait := .ready }) t)
    | .jump th pc =>
      let x : W64 := BitVec.ofNat 64 pc
      if p.codeBytes ≤ pc then takeTrap m t word (trapOf .bound x)
      else if pc % 4 ≠ 0 then takeTrap m t word (trapOf .misaligned x)
      else m.on (fun c => countIssue (setThr c t { th with pc := pc, fetched := [], wait := .ready }) t)

/-- The driver of every instruction: thread `t` issues the word at its pc. A command whose instruction is not the one there, by
its word or (no outcome) by the block that the word posts, has no effect. -/
def issueWhen (t : Nat) (is : Nat → Bool) (body : M → Thread → M × Option Out) (m : M) : M :=
  match mayIssue m.core t with
  | none => m
  | some (th, p) => asThread t (fun m0 =>
    if p.codeBytes ≤ th.pc then lateTrap m0 t (trapOf .bound (BitVec.ofNat 64 th.pc))
    else match fetchWord m0 t th p with
      | (m, .wait k) => m.on (fun c => parkThread c t k)
      | (m, .trap x) =>
        let (c, d) := m.core.draw
        takeTrap { m with core := c } t ((Config.freeWord d).toNat % 2 ^ 32) x
      | (m, .word w) =>
        if is w then
          match body m th with
          | (m, some o) => finishIssue t w p m o
          | (_, none) => m0
        else m0) m

/-- Thread `t` issues instruction `ins`, whose unused fields are zeros here and any in its word; one that posts a block may not
be the one in it. -/
def issuePost (t : Nat) (ins : RIns) (body : M → Thread → M × Option Out) (m : M) : M :=
  if ins.legal then issueWhen t (fun w => (decodeRasp w).map RIns.canon == some ins) body m else m

/-- Thread `t` issues instruction `ins`. -/
def issue (t : Nat) (ins : RIns) (body : M → Thread → M × Out) : M → M :=
  issuePost t ins (fun m th => ((body m th).1, some (body m th).2))

/-- RESERVED_INSTRUCTION: a word that encodes no instruction traps ILLEGAL (R372). -/
def issueReserved (t word : Nat) (m : M) : M :=
  issueWhen t (fun w => w == word && decodeRasp w == none) (fun m _ => (m, some (.trap (trapOf .illegal)))) m

/-- A result from the registers alone. -/
def pureOut (f : Thread → Out) : M → Thread → M × Out := fun m th => (m, f th)

/-- A use of a poisoned register that traps (R392). -/
def useTrap (a : Nat) : Out := .trap (trapOf .poisonUse (BitVec.ofNat 64 a))

/-! ### Scalar instructions -/

/-- MAJOR 0x01 (R374). -/
def aluT (func d a b : Nat) : M → Thread → M × Out := pureOut (fun th =>
  .next (th.setS d (intOp 64 func (th.sreg a) (th.sreg b)) (th.sbad a || th.sbad b)))

/-- MAJOR 0x02 to 0x07: the second operand is the sign-extended immediate or a shift amount. -/
def aluI (func d a v : Nat) : M → Thread → M × Out := pureOut (fun th =>
  .next (th.setS d (intOp 64 func (th.sreg a) v) (th.sbad a)))

def imm64 (imm : Nat) : Nat := wrapI 64 (immS imm)

def movi (d imm : Nat) : M → Thread → M × Out := pureOut (fun th => .next (th.setS d (imm64 imm) false))

def movk (d c imm : Nat) : M → Thread → M × Out := pureOut (fun th =>
  .next (th.setS d (setBits (th.sreg d) (16 * c + 15) (16 * c) imm) (th.sbad d)))

/-- Branches: the target is pc + 4 × OFFSET (R373). -/
def branch (holds : Nat → Nat → Bool) (a b off : Nat) : M → Thread → M × Out := pureOut (fun th =>
  if th.sbad a || th.sbad b then useTrap 0
  else if holds (th.sreg a) (th.sreg b) then .jump th (((th.pc : Int) + 4 * immS off) % (2 ^ 32 : Nat)).toNat
  else .next th)

def jal (off : Nat) : M → Thread → M × Out := pureOut (fun th =>
  .jump (th.setS 31 (th.pc + 4) false) (((th.pc : Int) + 4 * sext 26 off) % (2 ^ 32 : Nat)).toNat)

def jr (d a : Nat) : M → Thread → M × Out := pureOut (fun th =>
  if th.sbad a then useTrap (th.sreg a) else .jump (th.setS d (th.pc + 4) false) (th.sreg a))

/-- MAJOR 0x20 (R375): FP32 in bits 31:0; FFMA reads d too. -/
def fpT (func d a b : Nat) : M → Thread → M × Out := pureOut (fun th =>
  let bad := th.sbad a || th.sbad b || (func == 7 && th.sbad d)
  let v := if func = 11 then intToFp (th.sreg a) else if func = 12 then fpToInt (fpOf (th.sreg a))
    else fpOp func (th.sreg d) (th.sreg a) (th.sreg b)
  .next (th.setS d v bad))

/-- A scalar pair of format words for CVTS and VCVT (R376): reserved words and excluded pairs trap FORMAT. -/
def convPair (s : Nat) : Trap ⊕ (FmtWord × FmtWord) :=
  match fmtWord? (s % 2 ^ 32), fmtWord? (s / 2 ^ 32 % 2 ^ 32) with
  | some x, some y =>
    if isBlock x.fmt || isBlock y.fmt then .inl (trapOf .format)
    else if !pairOk x.fmt y.fmt then .inl { code := .format, status := .formatUnsupported, addr := 0 }
    else .inr (x, y)
  | _, _ => .inl (trapOf .format)

/-- Elements converted between scalar formats (R160 to R163): equal formats copy bits. -/
def convElems (c : Core) (x y : FmtWord) (es : List Nat) : Core × List Nat × Flags :=
  let vals := es.map (decodeElem x.fmt)
  if x.fmt = y.fmt then (c, es, bitFlags vals) else encodeScalars c y vals

def cvts (d a b : Nat) : M → Thread → M × Out := fun m th =>
  match convPair (th.sreg b) with
  | .inl x => (m, .trap x)
  | .inr (x, y) =>
    let (c, es, fl) := convElems m.core x y [th.sreg a % 2 ^ elemBits x.fmt]
    let bad := th.sbad a || th.sbad b
    ({ m with core := if bad then c else addFlags c th.ctx th.num fl }, .next (th.setS d (es.headD 0) bad))

/-! ### Loads and stores -/

/-- Scratch loads of `n` bytes, zero-extended. -/
def loadScratch (n d a imm : Nat) : M → Thread → (t : Nat) → M × Out := fun m th t =>
  let x := effAddr (th.sreg a) (immS imm)
  if th.sbad a then (m, useTrap x)
  else match scratchTrap x n n with
    | some k => (m, .trap k)
    | none =>
      let (c, b, bad) := scratchLoad m.core t x n
      ({ m with core := c }, .next (th.setS d (leNat b) (bad.any id)))

def storeScratch (n d a imm : Nat) : M → Thread → (t : Nat) → M × Out := fun m th t =>
  let x := effAddr (th.sreg a) (immS imm)
  if th.sbad a then (m, useTrap x)
  else match scratchTrap x n n with
    | some k => (m, .trap k)
    | none => (m.on (fun c => scratchStore c t x (natLe n (th.sreg d)) (fun _ => th.sbad d)), .next th)

def sld64 (d a imm : Nat) : M → Thread → M × Out := fun m th =>
  let x := effAddr (th.sreg a) (immS imm)
  if th.sbad a then (m, useTrap x)
  else match winTrap m.core th x 8 8 false with
    | some k => (m, .trap k)
    | none =>
      let (c, b, bad) := winLoad m.core th.ctx th.num x 8
      ({ m with core := c }, .next (th.setS d (leNat b) (bad.any id)))

def sst64 (d a imm : Nat) : M → Thread → M × Out := fun m th =>
  let x := effAddr (th.sreg a) (immS imm)
  if th.sbad a then (m, useTrap x)
  else match winTrap m.core th x 8 8 true with
    | some k => (m, .trap k)
    | none => (m.on (fun c => winStore c th.ctx th.num x (natLe 8 (th.sreg d)) (fun _ => th.sbad d)), .next th)

/-- A pool load: checked at issue; the thread then waits for the data. `dest` codes the register and, for a vector, its mask
and lane width. -/
def poolLoad (wide : Bool) (dest x : Nat) (bad : Bool) : M → Thread → (t : Nat) → M × Out := fun m th t =>
  let n := if wide then 64 else 8
  let p : W64 := BitVec.ofNat 64 x
  if bad then (m, useTrap x)
  else match poolPost m th p n n true false with
    | (m, .trap k) => (m, .trap k)
    | (m, .wait k) => (m, .park k)
    | (m, .ok) =>
      -- a load of this chip has been translated, and completes whatever becomes of its extent (R94)
      let m := if servedHere m.core (ptrChip p) then m.on (fun c => noteTranslated c (ptrExtent p) (ptrOffset p) n)
        else (thrRead m t th p n).1
      (m, .wait (.load wide dest p))

def pld64 (d a imm : Nat) : M → Thread → (t : Nat) → M × Out := fun m th t =>
  poolLoad false d (effAddr (th.sreg a) (immS imm)) (th.sbad a) m th t

/-- A pool store of whole bytes with a poison mark for each word. -/
def poolStore (x : Nat) (b : List Byte) (addrBad : Bool) (marks : Nat → Bool) : M → Thread → (t : Nat) → M × Out := fun m th t =>
  let p : W64 := BitVec.ofNat 64 x
  if addrBad then (m, useTrap x)
  else if x % b.length ≠ 0 then (m, .trap (trapOf .misaligned p))
  else match thrWriteReady m t th p b marks (marks 0 || marks 1) with
    | (m, .ok local_) =>
      (if local_ then (thrStore m th p b marks).on (·.count ECC_POISON_WRITTEN (poisonedParts (ptrOffset p) b marks)) else m, .next th)
    | (m, .park k) => (m, .park k)
    | (m, .fail s d) => (m, .trap (accessTrap s d))

def pst64 (d a imm : Nat) : M → Thread → (t : Nat) → M × Out := fun m th t =>
  poolStore (effAddr (th.sreg a) (immS imm)) (natLe 8 (th.sreg d)) (th.sbad a) (fun _ => th.sbad d) m th t

/-- SAMO: one window word read and written as one. -/
def samo (cas : Bool) (d a b : Nat) : M → Thread → M × Out := fun m th =>
  let x := th.sreg a
  if th.sbad a then (m, useTrap x)
  else match winTrap m.core th x 8 8 true with
    | some k => (m, .trap k)
    | none =>
      let (c, old, bad) := winLoad m.core th.ctx th.num x 8
      let o := leNat old
      let src := th.sbad b || (cas && th.sbad d)
      let write := !cas || o == th.sreg d || src
      let c := if write && !bad.any id then
          winStore c th.ctx th.num x (natLe 8 (if cas then th.sreg b else o + th.sreg b)) (fun _ => src) else c
      ({ m with core := c }, .next (th.setS d o (bad.any id)))

/-! ### Unit and engine instructions (R384, R389) -/

/-- UPOST of a block whose CMD passes `is` (Table 10-8). DEDUCED, assumption 46 (safe). -/
def upost (is : Nat → Bool) (d a : Nat) : M → Thread → (t : Nat) → M × Option Out := fun m th t =>
  let x := th.sreg a
  let some_ := fun (m : M) (o : Out) => (m, some o)
  if th.sbad a then some_ m (useTrap x)
  else match scratchTrap x 32 32 with
    | some k => some_ m (.trap k)
    | none =>
      let (c, blk, bad) := scratchRead m.core t x 32
      let b := ublk blk
      let m' := { m with core := c }
      if bad.any id then some_ m' (useTrap x)
      else if !is b.cmd then (m, none)
      else
        let fmt := th.fmt.toNat % 2 ^ 32
        let ended := (th.units.filter (·.result.isSome)).map (·.tag)
        let free := (List.range 8).filter (fun k => !th.units.any (·.tag == k))
        match free ++ ended with
        | [] => some_ m' (.park .unit)
        | tag :: _ =>
          match unitPost m' t th b fmt with
          | (m, .trap k) => some_ m (.trap k)
          | (m, .wait k) => some_ m (.park k)
          | (m, .ok) =>
            let u : UnitCmd := { tag := tag, order := m.core.rasp.nextOrder, block := blk, fmt := fmt, result := none }
            let m := m.on (fun c => { c with rasp := { c.rasp with nextOrder := c.rasp.nextOrder + 1 } })
            let m := if (b.cmd == 0 && !servedHere m.core (ptrChip (BitVec.ofNat 64 b.f0))) then
              (thrRead m t th (BitVec.ofNat 64 b.f0) b.f10 true).1 else m
            some_ m (.next { th.setS d tag false with units := th.units.filter (·.tag != tag) ++ [u] })

def uwait (d a : Nat) : M → Thread → M × Out := pureOut (fun th =>
  if th.sbad a then useTrap 0
  else match th.units.find? (fun u => u.tag == th.sreg a) with
    | none => .trap (trapOf .illegal)
    | some u => match u.result with
      | none => .wait (.unit u.tag)
      | some (v, bad) => .next { th.setS d v.toNat bad with units := th.units.filter (·.tag != u.tag) })

/-- CEACQ: an engine of the partition that is ON and free, invalidated (R352); a second one traps. A thread that lost its engine runs
its step again on this one (R357). DEDUCED, assumption 44 (unsafe). -/
def ceacq (d : Nat) : M → Thread → M × Out := fun m th =>
  if th.engine.isSome then (m, .trap (trapOf .illegal))
  else match (enginesOf m.core (ctxPart m.core th.ctx)).filter (engineFree m.core) with
    | [] => (m, .park .engine)
    | e :: es =>
      let (c, i) := m.core.choose (es.length + 1)
      let n := (e :: es).getD i e
      let c := if th.lost then c.perf (stackReg CE_STEPS_REDONE n) else c
      ({ m with core := holdEngine c n th.ctx th.num }, .next { th.setS d n false with engine := some n, lost := false, cmds := [] })

/-- CEPOST of a block whose command number is `cmd`; a thread that has lost its engine only gets an identifier. -/
def cepost (is : Nat → Bool) (d a : Nat) : M → Thread → (t : Nat) → M × Option Out := fun m th t =>
  let x := th.sreg a
  let some_ := fun (m : M) (o : Out) => (m, some o)
  if th.sbad a then some_ m (useTrap x)
  else match scratchTrap x 32 32 with
    | some k => some_ m (.trap k)
    | none =>
      let (c, blk, bad) := scratchRead m.core t x 32
      let b := eblk blk
      let m' := { m with core := c }
      if bad.any id then some_ m' (useTrap x)
      else if !is b.cmd then (m, none)
      else
        let id := th.nextCmd
        match th.engine with
        | none => if th.lost then some_ m' (.next { th.setS d id false with nextCmd := id + 1 }) else some_ m' (.trap refusedTrap)
        | some n => match engPost m'.core th b with
          | some k => some_ m' (.trap k)
          | none => some_ (m'.on (fun c => modEng c n (fun e => { e with busy := e.busy ++ [(id, blk)] })))
              (.next { th.setS d id false with nextCmd := id + 1, cmds := th.cmds ++ [id] })

def cewait (d a : Nat) : M → Thread → M × Out := pureOut (fun th =>
  if th.sbad a then useTrap 0
  else if th.nextCmd ≤ th.sreg a then .trap (trapOf .illegal)
  else if th.lost then .next (th.setS d 1 false)
  else if th.cmds.contains (th.sreg a) then .wait (.engine (th.sreg a))
  else .next (th.setS d 0 false))

/-- The engine is released with its commands. -/
def releaseEngine (c : Core) (th : Thread) : Core :=
  match th.engine with
  | some e => modEng c e (fun x => { x with holder := none, panes := [], acts := [], accs := [], cbCache := [], busy := [] })
  | none => c

def cerel : M → Thread → M × Out := fun m th =>
  (m.on (fun c => releaseEngine c th), .next { th with engine := none, cmds := [] })

/-! ### Sync objects (R390) -/

/-- The object named by a register: a poisoned register, an object of another partition and a poisoned object trap (R566). -/
def syncTrap (c : Core) (th : Thread) (a : Nat) : Option Out :=
  if th.sbad a then some (useTrap 0)
  else if syncOf c (th.sreg a) (ctxPart c th.ctx) && !syncFrozen c (th.sreg a) then
    if syncPoisoned c (th.sreg a) then some (useTrap 0) else none
  else some (.trap (trapOf .access))

def sinc (a : Nat) : M → Thread → M × Out := fun m th =>
  match syncTrap m.core th a with
  | some o => (m, o)
  | none => if allEnded th then (m.on (fun c => syncInc c (th.sreg a) (ctxPart c th.ctx)), .next th) else (m, .wait .fence)

def syncCount (c : Core) (s : Nat) : Nat := ((sync? c s).map (·.count)).getD 0

def sread (d a : Nat) : M → Thread → M × Out := fun m th =>
  match syncTrap m.core th a with
  | some o => (m, o)
  | none => (m, .next (th.setS d (syncCount m.core (th.sreg a)) false))

def swait (a b : Nat) : M → Thread → (t : Nat) → M × Out := fun m th t =>
  match syncTrap m.core th a with
  | some o => (m, o)
  | none =>
    if th.sbad b then (m, useTrap 0)
    else match syncWait m.core (th.sreg a) (th.sreg b) (.thread t) with
      | (c, true) => ({ m with core := c }, .next th)
      | (c, false) => ({ m with core := c }, .park (.sync (th.sreg a) (th.sreg b)))

def stest (d a b : Nat) : M → Thread → M × Out := fun m th =>
  match syncTrap m.core th a with
  | some o => (m, o)
  | none => if th.sbad b then (m, useTrap 0)
    else (m, .next (th.setS d (b2n (th.sreg b ≤ syncCount m.core (th.sreg a))) false))

/-! ### System instructions -/

/-- GETSR (Table 10-3). CYCLE is free. -/
def getsr (d b : Nat) : M → Thread → (t : Nat) → M × Out := fun m th t =>
  let c := m.core
  let w := work? c th.ctx th.num
  let (c, k) := c.draw
  let v := match b with
    | 0 => th.inst
    | 1 => ((w.bind (·.prog)).map (·.insts)).getD 0
    | 2 => th.ctx
    | 3 => ctxPart c th.ctx
    | 4 => c.tick
    | 5 => (Config.freeWord k).toNat
    | 6 => t / 4
    | 7 => t % 4
    | 8 => ((w.bind (·.prog)).map (·.window)).getD 0
    | 9 => ((w.bind (·.prog)).map (·.args.toNat)).getD 0
    | 10 => (w.bind lastTick).getD 0
    | 11 => th.fmt.toNat
    | 12 => th.dvprev.toNat
    | 13 => (w.map (fun w => b2n w.sat + 4 * b2n w.nonfin + 8 * b2n w.stoch)).getD 0
    | _ => th.poisonOut
  ({ m with core := c }, .next (th.setS d v false))

def setsr (d a : Nat) : M → Thread → M × Out := pureOut (fun th =>
  if th.sbad a then useTrap 0
  else if d = 11 then .next { th with fmt := BitVec.ofNat 64 (th.sreg a) }
  else .next { th with dvprev := BitVec.ofNat 64 (th.sreg a) })

def pfence : M → Thread → M × Out := pureOut (fun th => if allEnded th then .next th else .wait .fence)

/-- A thread has ended its instance. -/
def endInstance (c : Core) (t : Nat) (th : Thread) (n : Nat) : Core :=
  let c := dropThread c t
  modWork c th.ctx th.num (fun w => { w with prog := w.prog.map (fun p => { p with ended := p.ended + 1, count := p.count + n }) })

/-- The yielded instance is kept for a later tick (R396). -/
def yieldInstance (c : Core) (t : Nat) (th : Thread) (save : Nat) : Core :=
  let a := scratchOf c t
  let keep : Area := { bytes := a.bytes.filter (fun e => e.1 < save), bad := a.bad.filter (fun w => 32 * w < save),
                       err := a.err.filter (fun e => 32 * e.1 < save) }
  let th := { th with pc := th.pc + 4, engine := none, cmds := [], wait := .ready, fetched := [], books := none }
  let c := dropThread c t
  { c with rasp := { c.rasp with saved := c.rasp.saved ++ [⟨th, keep, c.tick⟩] } }

/-- STEP (R396): the commands end, the engine goes, then a stop applies, or the slice's time is spent and the thread yields, or
it goes on. -/
def stepIns (spent : Bool) : M → Thread → (t : Nat) → M × Out := fun m th t =>
  match (work? m.core th.ctx th.num).bind (·.prog) with
  | none => (m, .gone)
  | some p =>
    if p.isRule then (m, .trap (trapOf .illegal))
    else if !allEnded th then (m, .wait .fence)
    else
      let m := m.on (fun c => releaseEngine c th)
      if p.stopping then (m.on (fun c => progEndCheck (endInstance (countIssue c t) t th 0) th.ctx th.num), .gone)
      else if spent || !domainServes m.core (20 + thrCluster t) then (m.on (fun c => yieldInstance (countIssue c t) t th p.saveBytes), .gone)
      else (m, .next { th with engine := none, cmds := [], books := none })

/-! ### Vector instructions (R367, R369, R374 to R378) -/

/-- Poison of half `h` of a destination: a source's where a lane is written, the old mark where one is not. -/
def halfPoison (mask lanes h : Nat) (old src : Bool) : Bool :=
  let mine := (List.range (lanes / 2)).map (fun i => bitOf mask (h * (lanes / 2) + i))
  (mine.any id && src) || (!mine.all id && old)

/-- Every lane is written. -/
def fullMask : Nat := 2 ^ 64 - 1

/-- A vector written under a mask, with the poison of its sources by half. -/
def Thread.putV (th : Thread) (vd mask w : Nat) (v : W512) (lo hi : Bool) : Thread :=
  let n := laneCount w
  th.setV vd v (halfPoison mask n 0 (th.vbad vd 0) lo) (halfPoison mask n 1 (th.vbad vd 1) hi)

/-- MAJOR 0x24 and 0x25 once the result is known. `cross`: a result lane may come from any lane of a source. -/
def putRes (th : Thread) (vd mask w : Nat) (cross all : Bool) (lo hi : Bool) (r : VRes) : Thread :=
  let (lo, hi) := if cross then (lo || hi, lo || hi) else (lo, hi)
  match r with
  | .lanes l => th.putV vd (if all then fullMask else mask) w (ofLanes (laneBits w) l) lo hi
  | .mask l => th.setM (vd % 4) (mergeMask mask (th.mreg (vd % 4)) l)
  | .pair l h => (th.setV vd (ofLanes (laneBits w) l) lo hi).setV (vd + 1) (ofLanes (laneBits w) h) lo hi

/-- A free value for a reduction over no lane; otherwise none is drawn. -/
def reduceFree (needs : Bool) (m : M) (mask : Nat) (lanes : List Nat) : M × Nat :=
  if needs && enabled mask lanes == [] then
    let (c, d) := m.core.draw
    ({ m with core := c }, (Config.freeWord d).toNat)
  else (m, 0)

def vecI (func vd va vb mk w : Nat) : M → Thread → M × Out := fun m th =>
  let bits := laneBits w
  let (m, free) := reduceFree (func == 26 || func == 27) m (th.mreg mk) (lanesOf bits (th.vreg va))
  let one := func == 22 || (24 ≤ func && func ≤ 29)
  let r := vecInt w func (th.mreg mk) free (lanesOf bits (th.vreg vd)) (lanesOf bits (th.vreg va))
    (lanesOf bits (th.vreg vb))
  let bad := fun (h : Nat) => th.vbad va h || (!(one || func == 23) && th.vbad vb h)
  (m,
    .next (putRes th vd (th.mreg mk) w (21 ≤ func && func ≤ 28) (func == 20 || func == 22 || (25 ≤ func && func ≤ 27))
      (bad 0) (bad 1) r))

def vecF (func vd va vb mk : Nat) : M → Thread → M × Out := fun m th =>
  let (m, free) := reduceFree (func == 12) m (th.mreg mk) (lanesOf 32 (th.vreg va))
  let r := vecFp func (th.mreg mk) free (lanesOf 32 (th.vreg vd)) (lanesOf 32 (th.vreg va))
    (lanesOf 32 (th.vreg vb))
  let one := func == 4 || func == 11 || func == 12
  let bad := fun (h : Nat) => th.vbad va h || (!one && th.vbad vb h) || (func == 7 && th.vbad vd h)
  (m, .next (putRes th vd (th.mreg mk) 0 (11 ≤ func) (11 ≤ func) (bad 0) (bad 1) r))

def vbcast (vd s mk w : Nat) : M → Thread → M × Out := pureOut (fun th =>
  let bits := laneBits w
  let old := lanesOf bits (th.vreg vd)
  let v := ofLanes bits (merge (th.mreg mk) old (old.map (fun _ => th.sreg s % 2 ^ bits)))
  .next (th.putV vd (th.mreg mk) w v (th.sbad s) (th.sbad s)))

def vget (va s w : Nat) : M → Thread → M × Out := pureOut (fun th =>
  .next (th.setS s ((lanesOf (laneBits w) (th.vreg va)).headD 0) (th.vbad va 0)))

/-- 64 bytes loaded under the mask. -/
def Thread.loadV (th : Thread) (vd mk w : Nat) (b : List Byte) (lo hi : Bool) : Thread :=
  let bits := laneBits w
  let v := ofLanes bits (merge (th.mreg mk) (lanesOf bits (th.vreg vd)) (lanesOf bits (BitVec.ofNat 512 (leNat b))))
  th.putV vd (th.mreg mk) w v lo hi

def vbytes (th : Thread) (v : Nat) : List Byte := natLe 64 (th.vreg v).toNat

def vld (vd s mk w : Nat) : M → Thread → (t : Nat) → M × Out := fun m th t =>
  let x := th.sreg s
  if th.sbad s then (m, useTrap x)
  else match scratchTrap x 64 64 with
    | some k => (m, .trap k)
    | none =>
      let (c, b, bad) := scratchLoad m.core t x 64
      ({ m with core := c }, .next (th.loadV vd mk w b (bad.getD 0 false) (bad.getD 32 false)))

/-- Vector stores write all 64 bytes, whatever the mask (R572). -/
def vst (vd s : Nat) : M → Thread → (t : Nat) → M × Out := fun m th t =>
  let x := th.sreg s
  if th.sbad s then (m, useTrap x)
  else match scratchTrap x 64 64 with
    | some k => (m, .trap k)
    | none => (m.on (fun c => scratchStore c t x (vbytes th vd) (th.vbad vd)), .next th)

def vsld (vd s mk w : Nat) : M → Thread → M × Out := fun m th =>
  let x := th.sreg s
  if th.sbad s then (m, useTrap x)
  else match winTrap m.core th x 64 64 false with
    | some k => (m, .trap k)
    | none =>
      let (c, b, bad) := winLoad m.core th.ctx th.num x 64
      ({ m with core := c }, .next (th.loadV vd mk w b (bad.getD 0 false) (bad.getD 32 false)))

def vsst (vd s : Nat) : M → Thread → M × Out := fun m th =>
  let x := th.sreg s
  if th.sbad s then (m, useTrap x)
  else match winTrap m.core th x 64 64 true with
    | some k => (m, .trap k)
    | none => (m.on (fun c => winStore c th.ctx th.num x (vbytes th vd) (th.vbad vd)), .next th)

def vpld (vd s mk w : Nat) : M → Thread → (t : Nat) → M × Out := fun m th t =>
  poolLoad true (vd + 16 * mk + 64 * w) (th.sreg s) (th.sbad s) m th t

def vpst (vd s : Nat) : M → Thread → (t : Nat) → M × Out := fun m th t =>
  poolStore (th.sreg s) (vbytes th vd) (th.sbad s) (th.vbad vd) m th t

/-- The scratch addresses that the enabled lanes of VGATH and VSCAT reach, or the trap of the first that may not. -/
def laneAddrs (th : Thread) (va s mk : Nat) : Out ⊕ List (Nat × Nat) :=
  let ls := (lanesOf 32 (th.vreg va)).zipIdx.filter (fun x => bitOf (th.mreg mk) x.2)
  let as := ls.map (fun (v, i) => (i, (th.sreg s + v) % 2 ^ 64))
  if th.sbad s || ls.any (fun x => th.vbad va (x.2 / 8)) then .inl (useTrap (th.sreg s))
  else match as.findSome? (fun x => scratchTrap x.2 4 4) with
    | some k => .inl (.trap k)
    | none => .inr as

def vgath (vd va s mk : Nat) : M → Thread → (t : Nat) → M × Out := fun m th t =>
  match laneAddrs th va s mk with
  | .inl o => (m, o)
  | .inr as =>
    let (c, l, lo, hi) := as.foldl (fun (c, l, lo, hi) (i, x) =>
      let (c, b, bad) := scratchLoad c t x 4
      (c, listMod l i (fun _ => leNat b), lo || (i < 8 && bad.any id), hi || (8 ≤ i && bad.any id)))
      (m.core, lanesOf 32 (th.vreg vd), false, false)
    ({ m with core := c }, .next (th.putV vd (th.mreg mk) 0 (ofLanes 32 l) lo hi))

def vscat (vd va s mk : Nat) : M → Thread → (t : Nat) → M × Out := fun m th t =>
  match laneAddrs th va s mk with
  | .inl o => (m, o)
  | .inr as =>
    (m.on (fun c => as.foldl (fun c (i, x) =>
      scratchStore c t x (natLe 4 ((lanesOf 32 (th.vreg vd)).getD i 0)) (fun _ => th.vbad vd (i / 8))) c), .next th)

/-- VDVAR's run over the enabled lanes: lanes, address, running index, poison by half and of the address. -/
structure DvRun where
  c : Core
  lanes : List Nat
  addr : Nat
  prev : Nat
  lo : Bool
  hi : Bool
  trap : Option Trap

/-- One LEB128 value (R259, R378): from scratch up to its fifth byte. -/
def dvLane (t : Nat) (r : DvRun) (i : Nat) : DvRun :=
  if r.trap.isSome then r
  else
    let n := min 5 (65536 - r.addr)
    let (c, b, bad) := scratchRead r.c t r.addr n
    match lebNext (b.map (fun x => (x, false))) with
    | .val z rest =>
      let used := n - rest.length
      let p := (bad.take used).any id
      let c := c.count ECC_POISON_READ (badWordsIn r.addr (bad.take used))
      let v := nextIndex r.prev z
      { c := c, lanes := listMod r.lanes i (fun _ => v), addr := r.addr + used, prev := v, lo := r.lo || (p && i < 8),
        hi := r.hi || (p && 8 ≤ i), trap := none }
    | .bad => if n < 5 then { r with trap := some (trapOf .bound (BitVec.ofNat 64 65536)) }
      else { r with trap := some (trapOf .varint (BitVec.ofNat 64 r.addr)) }
    | _ => { r with trap := some (trapOf .bound (BitVec.ofNat 64 r.addr)) }

/-- VDVAR. Poison of bytes that it reads goes to the half of each lane decoded from them and to `s`. -/
def vdvar (vd s mk : Nat) : M → Thread → (t : Nat) → M × Out := fun m th t =>
  let x := th.sreg s
  if th.sbad s then (m, useTrap x)
  else
    let ls := (List.range 16).filter (bitOf (th.mreg mk))
    let r := ls.foldl (dvLane t)
      { c := m.core, lanes := lanesOf 32 (th.vreg vd), addr := x, prev := th.dvprev.toNat % 2 ^ 32, lo := false, hi := false, trap := none }
    match r.trap with
    | some k => ({ m with core := r.c }, .trap k)
    | none =>
      let th := th.putV vd (th.mreg mk) 0 (ofLanes 32 r.lanes) r.lo r.hi
      let th := if ls = [] then th else { th with dvprev := BitVec.ofNat 64 r.prev }
      ({ m with core := r.c }, .next (th.setS s r.addr (r.lo || r.hi)))

/-- The format that FMT names for VDEC and VENC: reserved words and elements over 8 bits trap FORMAT, a codebook outside the
partition ACCESS. -/
def recordFmt (c : Core) (th : Thread) : Trap ⊕ FmtWord :=
  match fmtWord? (th.fmt.toNat % 2 ^ 32) with
  | none => .inl (trapOf .format)
  | some f =>
    if 8 < elemBits f.fmt then .inl (trapOf .format)
    else if f.fmt = .cb4 && f.codebook / 16 ≠ ctxPart c th.ctx then .inl (trapOf .access)
    else .inr f

/-- What VDEC and VENC need of their record's address. -/
def recordTrap (c : Core) (th : Thread) (s : Nat) : Out ⊕ FmtWord :=
  if th.sbad s then .inl (useTrap (th.sreg s))
  else match scratchTrap (th.sreg s) 64 32, recordFmt c th with
    | some k, _ => .inl (.trap k)
    | none, .inl k => .inl (.trap k)
    | none, .inr f => .inr f

def vdec (vd s mk : Nat) : M → Thread → (t : Nat) → M × Out := fun m th t =>
  match recordTrap m.core th s with
  | .inl o => (m, o)
  | .inr f =>
    let (c, r) := readRecord m.core t (th.sreg s) f.fmt
    let c := c.count ECC_POISON_READ (badWordsIn 0 ((scratchRead c t (th.sreg s) 64).2.2))
    let cb := if f.fmt = .cb4 then codebook c f.codebook else []
    let vals := r.elems.map (fun e => fp32Bits (toFp32 (decodeValue f.fmt cb r.scale e)))
    let put := fun (th : Thread) (v : Nat) (l : List Nat) =>
      th.putV v (th.mreg mk) 0 (ofLanes 32 (merge (th.mreg mk) (lanesOf 32 (th.vreg v)) l)) r.poison r.poison
    ({ m with core := c }, .next (put (put th vd (vals.take 16)) (vd + 1) (vals.drop 16)))

/-- VENC: 32 values of VD and VD+1; register 16 does not exist, and its values are free. A poisoned value makes the record
poisoned. -/
def venc (vd s : Nat) : M → Thread → (t : Nat) → M × Out := fun m th t =>
  match recordTrap m.core th s with
  | .inl o => (m, o)
  | .inr f =>
    let (c, d) := m.core.drawN 80
    let hi := if vd = 15 then (List.range 16).map (fun i => (Config.freeWord (d + 64 + i)).toNat % 2 ^ 32) else lanesOf 32 (th.vreg (vd + 1))
    let vals := (lanesOf 32 (th.vreg vd) ++ hi).map fpOf
    let (c, old) := readRecord c t (th.sreg s) f.fmt
    let cb := if f.fmt = .cb4 then codebook c f.codebook else []
    let e := encodeBlock f cb old.elems old.scale (vals.map some) d
    let bad := th.vany vd || th.vany (vd + 1) || (!f.fitted && isBlock f.fmt && old.poison)
    let c := putRecord c t (th.sreg s) f.fmt e.elems e.scale (recordFlags f.fmt cb e.elems e.scale bad)
    let c := if bad then scratchStore c t (th.sreg s) ((scratchOf c t).read (th.sreg s) 64) (fun _ => true) else c
    ({ m with core := if bad then c else addFlags c th.ctx th.num e.flags }, .next th)

/-- VCVT: 512 / b elements, b the larger width, packed (R376). Mask bit i governs element i; m0 every element. -/
def vcvt (vd va s mk : Nat) : M → Thread → M × Out := fun m th =>
  match convPair (th.sreg s) with
  | .inl x => (m, .trap x)
  | .inr (x, y) =>
    let n := 512 / max (elemBits x.fmt) (elemBits y.fmt)
    let src := lanesOf (elemBits x.fmt) (th.vreg va)
    let on := fun (i : Nat) => i < n && (mk == 0 || bitOf (th.mreg mk) i)
    let spoilt := fun (i : Nat) => th.sbad s || th.vbad va (i * elemBits x.fmt / 256)
    -- only elements that are written count, and a poisoned one is no value
    let good := (List.range n).filter (fun i => on i && !spoilt i)
    let rest := (List.range n).filter (fun i => on i && spoilt i)
    let (c, gs, fl) := convElems m.core x y (good.map (src.getD · 0))
    let (c, rs, _) := convElems c x y (rest.map (src.getD · 0))
    let made := good.zip gs ++ rest.zip rs
    let old := lanesOf (elemBits y.fmt) (th.vreg vd)
    let new := old.zipIdx.map (fun (o, i) => ((made.find? (·.1 == i)).map (·.2)).getD o)
    -- a half is poisoned by the source half of an element it takes, and keeps its mark where an element is not written
    let per := old.length / 2
    let half := fun (h : Nat) =>
      let mine := (List.range per).map (fun i => h * per + i)
      mine.any (fun i => on i && th.vbad va (i * elemBits x.fmt / 256)) || th.sbad s && mine.any on ||
        th.vbad vd h && mine.any (fun i => !on i)
    ({ m with core := addFlags c th.ctx th.num fl },
      .next (th.setV vd (ofLanes (elemBits y.fmt) new) (half 0) (half 1)))

def mpopc (s mk w : Nat) : M → Thread → M × Out := pureOut (fun th =>
  .next (th.setS s (((List.range (laneCount w)).filter (bitOf (th.mreg mk))).length) false))

end Sys2Proof.Machine
end

