-- ==== Sys2Proof/Machine/RaspProg.lean ====
section
/-! DEFINITION. Programs (R395, R396, R399 to R409): instances, resumes, pool-load returns, step limits, EXIT, the frames of RULE
PROGRAM, and the program registry. -/

namespace Sys2Proof.Machine
open Sys2Proof

/-! ### Instances (R404, R396) -/

/-- A hardware thread of the partition that runs nothing. -/
def threadFree (c : Core) (q t : Nat) : Bool :=
  t < 1024 && (thr? c t).isNone && (clustersOf c q).contains (thrCluster t) && clusterUp c (thrCluster t)

/-- Steps of a RULE PROGRAM work, from its count of distinct rows. -/
def ruleSteps (w : Work) : Nat := (w.perItem + 63) / 64

/-- INSTANCE_START: the lowest instance not started starts on a free thread (R404); a RULE PROGRAM work has one instance for a
step that waits (R406). -/
def instanceStart (ctx num t : Nat) (c : Core) : Core :=
  match work? c ctx num with
  | none => c
  | some w => match w.prog with
    | none => c
    | some p =>
      if w.phase ≠ .running || !w.started || p.stopping || !threadFree c (ctxPart c ctx) t then c
      else if p.isRule then
        if p.ruleRows = [] || threadsOf c ctx num ≠ [] then c
        else setThr c t (freshThread ctx num w.step (ruleSteps w) p.entry)
      else if p.insts ≤ p.next then c
      else
        let c := setThr c t (freshThread ctx num p.next p.insts p.entry)
        modWork c ctx num (fun w => { w with prog := some { p with next := p.next + 1 } })

/-- THREAD_RESUME: a yielded instance goes on in a later tick on any free thread of the partition. Scratch beyond SAVE_BYTES
is undefined: every byte of it is free. -/
def threadResume (ctx num inst t : Nat) (c : Core) : Core :=
  match c.rasp.saved.find? (fun s => s.thread.ctx == ctx && s.thread.num == num && s.thread.inst == inst) with
  | none => c
  | some s =>
    match (work? c ctx num).bind (·.prog) with
    | none => c
    | some p =>
      if c.tick ≤ s.tick || !threadFree c (ctxPart c ctx) t then c
      else
        let (c, d) := c.drawN 65536
        let rest : AMap Byte := ((List.range (65536 - p.saveBytes)).map (fun i =>
          (p.saveBytes + i, (Config.freeWord (d + i)).setWidth 8))).filter (fun e => e.2 != 0)
        let c := setScratch c t { s.scratch with bytes := s.scratch.bytes ++ rest }
        let c := setThr c t s.thread
        { c with rasp := { c.rasp with saved := c.rasp.saved.filter (· != s) } }

/-! ### Pool loads and step limits -/

/-- POOL_LOAD_RETURN: the data of a pool load comes and the load completes; nothing happens while it cannot come. -/
def loadReturn (t : Nat) : M → M := asThread t (fun m =>
  match thr? m.core t with
  | none => m
  | some th => match th.wait with
    | .load wide dest ptr =>
      let n := if wide then 64 else 8
      match thrRead m t th ptr n with
      | (m, .park _) => m
      | (m, .fail s d) => lateTrap m t (accessTrap s d)
      | (m, .ok (b, ps)) =>
        let th := if wide then th.loadV (dest % 16) (dest / 16 % 4) (dest / 64) b (ps.getD 0 false) (ps.getD 1 false)
          else th.setS dest (leNat b) (ps.any id)
        m.on (fun c => countIssue (setThr c t { th with pc := th.pc + 4, wait := .ready, fetched := [] }) t)
    | _ => m)

/-- STEP_LIMIT_EXPIRY: time parked does not count (R395). -/
def stepLimit (t : Nat) (m : M) : M :=
  match thr? m.core t with
  | none => m
  | some th => match th.wait with
    | .parked _ => m
    | _ => lateTrap m t (trapOf .stepLimit)

/-! ### RULE PROGRAM (R288, R406) -/

/-- Values of a row as FP32 bytes. -/
def fp32Bytes (l : List FVal) : List Byte := l.flatMap (fun v => natLe 4 (fp32Bits (toFp32 v)))

/-- A row of a rule's step: its number, positions with their gradient rows, its image and its moment row's image. -/
structure RuleRow where
  row : Nat
  record : List Byte

/-- The row is left out because something of it is poisoned (Table 7-15): its items read POISONED. -/
def ruleSkip (m : M) (w : Work) (ps : List Nat) (d : W64) : M :=
  m.on (fun c => noteFail (ps.foldl (fun c q => setItem c w.ctx w.num q 2) c) w.ctx w.num .poisoned d)

/-- One row's record (R406): index, state, weights, g and moments; `none` when poison leaves the row out. -/
def ruleRecordOf (w : Work) (tn : Nat) (t : Table) (m : M) (acc : List RuleRow) (x : Nat × List (Nat × (W64 ⊕ List FVal))) :
    M × Res (List RuleRow) :=
  let (r, ps) := x
  let pos := ps.map (·.1)
  let stPtr := w.ptr 0x48 + BitVec.ofNat 64 (4 * r)
  match ps.findSome? (fun x => match x.2 with | .inl d => some d | .inr _ => none) with
  | some d => (ruleSkip m w pos d, .ok acc)
  | none =>
    andThen (readRow m tn t r) (fun m img =>
      if imgPoisoned img then (ruleSkip m w pos (firstPoison m.core t r img), .ok acc)
      else
        andThen (poolRead m w stPtr 4) (fun m (sb, sp) =>
          if sp.any id then (ruleSkip m w pos stPtr, .ok acc)
          else
            let gs := ps.filterMap (fun x => gradGood x.2)
            let (c, d) := m.core.drawN (2 * (t.rowLen + 1) * (gs.length + 1))
            let m := { m with core := c }
            let g := sumRows d t.rowLen gs
            let ws := imgValues (tblFmt t).fmt (tblCb m.core t) img
            let head := natLe 4 r ++ sb
            let mom := if ruleMoment w then (table? m.core (w.field 0x16 2)).map (fun q => (w.field 0x16 2, q)) else none
            match mom with
            | none => (m, .ok (acc ++ [⟨r, head ++ fp32Bytes ws ++ fp32Bytes g⟩]))
            | some (mn, q) =>
              andThen (readRow m mn q r) (fun m i =>
                if imgPoisoned i then (ruleSkip m w pos (firstPoison m.core q r i), .ok acc)
                else (m, .ok (acc ++ [⟨r, head ++ fp32Bytes ws ++ fp32Bytes g ++
                  fp32Bytes (imgValues (tblFmt q).fmt (tblCb m.core q) i)⟩]))))) 

/-- The update frame of a step: its header and records (R406). -/
def ruleFrame (rowLen : Nat) (moment : Bool) (rows : List RuleRow) : List Byte :=
  natLe 4 rows.length ++ natLe 4 rowLen ++ natLe 4 (b2n moment) ++ List.replicate 20 0 ++
    rows.flatMap (fun x => padTo (ruleRecord rowLen moment) 0 x.record)

/-- The rows of a step locked, and its frame put into the window. -/
def ruleArm (w : Work) (tn : Nat) (t : Table) (rows : List RuleRow) (c : Core) : Core :=
  let ids := rows.map (·.row)
  let c := modTable c tn (fun t => { t with locked := t.locked ++ ids })
  let c := if ruleMoment w && w.field 0x16 2 ≠ tn then modTable c (w.field 0x16 2) (fun t => { t with locked := t.locked ++ ids })
    else c
  let a := (emptyArea.put 0x8000 (ruleFrame t.rowLen (ruleMoment w) rows))
  let c := setWin c w.ctx w.num { a with bytes := a.bytes.filter (fun e => e.2 != 0) }
  -- the frame's first word is where a flip mask without MATCH strikes
  let c := winWrite c w.ctx w.num 0x8000 (a.read 0x8000 32) (fun _ => false)
  modWork c w.ctx w.num (fun w => { w with prog := w.prog.map (fun p => { p with ruleRows := ids }) })

/-- The moment table of a RULE PROGRAM, with its number. -/
def ruleMomTable (c : Core) (w : Work) : Option (Nat × Table) :=
  if ruleMoment w then (table? c (w.field 0x16 2)).map (fun q => (w.field 0x16 2, q)) else none

/-- The state word of row `r`. -/
def rulePtr (w : Work) (r : Nat) : W64 := w.ptr 0x48 + BitVec.ofNat 64 (4 * r)

/-- The frames that a step's rows, moment rows and state words lie in, checked by R81 and made ready. -/
def ruleFrames (m : M) (w : Work) (t : Table) (rows : List Nat) : M × Res Unit :=
  let mom := ruleMomTable m.core w
  match tblAccess m.core w t true <|> mom.bind (fun q => tblAccess m.core w q.2 true) <|>
      rows.findSome? (fun r => (workCheck m.core w (rulePtr w r) 4 true true).map (·, rulePtr w r)) with
  | some (s, d) => (m, .fail s d)
  | none => andThen (rowFrames m t rows) (fun m _ =>
      andThen (match mom with | some q => rowFrames m q.2 rows | none => (m, .ok ())) (fun m _ =>
        match readyWrites m (ptrExtent (rulePtr w 0)) (rows.map (fun r => (ptrOffset (rulePtr w r), 4))) with
        | (m, some k) => (m, .park k)
        | (m, none) => (m, .ok ())))

/-- ROW_UPDATE's command under RULE PROGRAM: the next step's rows are checked, read and locked, and wait for their
instance. -/
def rulePrepare (m : M) (w : Work) : M × Res Unit :=
  let tn := w.field 0 2
  match table? m.core tn, fmtWord? (w.field 0x10 4) with
  | some t, some g =>
    andThen (indices m w 0 (w.field 4 4) 0x38 8) (fun m (idx, extra) =>
      let all := (distinctOf idx).filter (· ≠ nullIndex)
      let rows := (all.drop (64 * w.step)).take 64
      let mom := ruleMomTable m.core w
      if extra && all.length ≤ 64 * (w.step + 1) then (m, .fail .badDescriptor 0)
      else if rows.any (fun i => t.rows ≤ i) then (m, .fail .accessDenied 0)
      else
        let busy := (rows.find? (midRecast t)).map (fun r => ParkCause.rowLock tn r) <|>
          mom.bind (fun q => (rows.find? (midRecast q.2)).map (fun r => ParkCause.rowLock q.1 r))
        match busy with
        | some k => (m, .park k)
        | none =>
          andThen (ruleFrames m w t rows) (fun m _ =>
            let pos := idx.zipIdx.filter (fun x => rows.contains x.1)
            andThen (gradRows m w t g (bitOf (w.field 2 2) 0) (w.ptr 0x40) pos) (fun m gs =>
              let m := if w.step = 0 then m.on (fun c => idx.zipIdx.foldl (fun c (i, k) =>
                if i = nullIndex then setItem c w.ctx w.num k 3 else c) c) else m
              let m := m.on (fun c => modWork c w.ctx w.num (fun w => { w with perItem := all.length }))
              andThen (forEach (ruleRecordOf w tn t) m [] (rows.map (fun r => (r, (gs.filter (·.1 == r)).map (·.2)))))
                (fun m recs =>
                  -- a step with no row left needs no instance
                  if recs = [] then (m.on (fun c => stepDone c w.ctx w.num), .ok ())
                  else (m.on (ruleArm w tn t recs), .ok ())))))
  | _, _ => (m, .fail .accessDenied 0)

def ruleWork (ctx num : Nat) (m : M) : M :=
  match work? m.core ctx num with
  | none => m
  | some w =>
    let busy := match w.prog with | some p => p.ruleRows != [] || p.stopping | none => true
    if w.opcode ≠ 0x04 || w.phase ≠ .running || busy then m
    else
      let go := fun (m : M) =>
        match work? m.core ctx num with
        | none => m
        | some w =>
          if 0 < w.step && ruleSteps w ≤ w.step then m.on (fun c => endWork c ctx num)
          else underTag w.tag (fun m => applyStep m (rulePrepare m w) ctx num (fun c => match work? c ctx num with
              | some w => match w.prog with
                | some p => if p.ruleRows = [] && ruleSteps w ≤ w.step then endWork c ctx num else c
                | none => c
              | none => c)) m
      if w.started then go m
      else match updateCheck m w with
        | (m, .ok _) => go (m.on (fun c => updateStart c w))
        | (m, .park k) => m.on (fun c => parkWork c ctx num k)
        | (m, .fail s d) => m.on (fun c => stopWork c ctx num s d)

/-- One row of a step whose program has exited DONE is encoded and written by R286; a row whose record is poisoned is left
as it was. -/
def ruleStore (w : Work) (tn : Nat) (t : Table) (f : FmtWord) (idx : List Nat) (m : M) (_u : Unit) (x : Nat × Nat) : M × Res Unit :=
  let (r, j) := x
  let q := ruleRecord t.rowLen (ruleMoment w)
  let n := t.rowLen
  let (c, b, bad) := winRead m.core w.ctx w.num (0x8020 + j * q) q
  let m := { m with core := c }
  let pos := (idx.zipIdx.filter (fun y => y.1 == r)).map (·.2)
  if (bad.take (8 + 4 * n * (2 + b2n (ruleMoment w)))).any id then (ruleSkip m w pos 0, .ok ())
  else
    let vals := fun (k : Nat) => (List.range n).map (fun i => decodeFp32 (leNat ((b.drop (8 + 4 * (k * n + i))).take 4)))
    andThen (readRow m tn t r) (fun m img =>
      let m := m.on (fun c => offerRow c tn 1 (vals 1))
      andThen (writeRowHome m tn t r img f ((vals 0).map some)) (fun m res =>
        andThen (match ruleMomTable m.core w, fmtWord? (w.field 0x18 4) with
          | some (mn, mt), some mf => andThen (readRow m mn mt r) (fun m i =>
              andThen (writeRowHome m mn mt r i mf ((vals 2).map some)) (fun m x => (m, .ok (some x))))
          | _, _ => (m, .ok none)) (fun m mres =>
          let sp := rulePtr w r
          let m := (writeBytes m (w.ctx % 4) (ptrExtent sp) (ptrOffset sp) ((b.drop 4).take 4)).1
          let outs := res :: mres.toList
          let m := m.on (fun c => outs.foldl (fun c x => addFlags c w.ctx w.num x.flags) c)
          match outs.find? (fun x => x.bad != []) with
          | some x => (ruleSkip m w pos x.ptr, .ok ())
          | none => (m.on (fun c => modWork (pos.foldl (fun c k => setItem c w.ctx w.num k 1) c) w.ctx w.num
              (fun w => { w with count := w.count + 1 })), .ok ()))))

/-- The rows of a step whose instance exits DONE are written, once their frames are ready. -/
def ruleStores (m : M) (w : Work) : M × Res Unit :=
  let rows := (w.prog.map (·.ruleRows)).getD []
  match table? m.core (w.field 0 2), fmtWord? (w.field 0x0C 4) with
  | some t, some f =>
    andThen (indices m w 0 (w.field 4 4) 0x38 8) (fun m (idx, _) =>
      andThen (ruleFrames m w t rows) (fun m _ => forEach (ruleStore w (w.field 0 2) t f idx) m () rows.zipIdx))
  | _, _ => (m, .fail .accessDenied 0)

/-- The instance of a rule's step has exited: its locks go and the next step is due. -/
def ruleExit (c : Core) (ctx num : Nat) : Core :=
  let c := match work? c ctx num with | some w => unlockRule c w | none => c
  let c := stepDone c ctx num
  match work? c ctx num with
  | some w => if liveWork w && ruleSteps w ≤ w.step then endWork c ctx num else progEndCheck c ctx num
  | none => c

/-! ### EXIT (R405) -/

/-- The status that EXIT gives its instance. -/
def exitStatus (v poisonOut : Nat) : Status :=
  match statusOfCode (v % 256) with
  | .done => if v ≠ 0 then .badDescriptor else if poisonOut ≠ 0 then .poisoned else .done
  | s => if v < 256 && (s == .accessDenied || s == .versionConflict || s == .poisoned) then s else .badDescriptor

def exitIns (a b : Nat) : M → Thread → (t : Nat) → M × Out := fun m th t =>
  if th.sbad a || th.sbad b then (m, useTrap 0)
  else if !allEnded th then (m, .wait .fence)
  else
    let s := exitStatus (th.sreg a) th.poisonOut
    let w? := work? m.core th.ctx th.num
    let rule := ((w?.bind (·.prog)).map (·.isRule)).getD false
    let leave := fun (m : M) (st : Status) (d : W64) =>
      let m := m.on (fun c =>
        let c := endInstance (releaseEngine (countIssue c t) th) t th (th.sreg b)
        if st = .done then c else noteFail c th.ctx th.num st d)
      if rule then m.on (fun c => ruleExit c th.ctx th.num) else m.on (fun c => progEndCheck c th.ctx th.num)
    match (if rule && s == .done then w? else none) with
    | none => (leave m s 0, .gone)
    | some w => match ruleStores m w with
      | (m', .ok _) => (leave m' s 0, .gone)
      | (m', .park k) => (if wholePark k then m else m', .park k)
      | (m', .fail st d) => ((leave m' st d).on (fun c => stopWork c th.ctx th.num st d), .gone)

/-! ### Works that programs run (R403, R409) -/

/-- The command of a work that a program runs: it starts, and its instances may. -/
def startProgram (ctx num : Nat) (c : Core) : Core :=
  match work? c ctx num with
  | some w => if w.phase = .running && w.prog.isSome then modWork c ctx num (fun w => { w with started := true }) else c
  | none => c

/-- RASP_PROGRAM (R403): its handle and body were checked as it was taken. -/
def raspWork (ctx num : Nat) (c : Core) : Core :=
  match work? c ctx num with
  | some w => if w.opcode = 0x30 then startProgram ctx num c else c
  | none => c

/-- The command of a work of `opcode`: the built-in program's, or that of the program bound to the opcode (R409). -/
def boundOr (opcode ctx num : Nat) (builtin : M → M) (m : M) : M :=
  match work? m.core ctx num with
  | some w => match w.prog with
    | some p =>
      if w.opcode ≠ opcode then m
      else if p.isRule then ruleWork ctx num m
      else m.on (startProgram ctx num)
    | none => builtin m
  | none => m

/-! ### The registry (R399 to R401, R408) -/

/-- A handle (R400). -/
def handleOf (part slot : Nat) : Nat := part * 256 + slot

/-- The header breaks Table 10-12, or gives a program. -/
def progHeader (image : W64) (b : List Byte) (digest : List W64) : Option ProgSlot :=
  let n := fun (o k : Nat) => leNat ((b.drop o).take k)
  let code := n 8 4
  let save := n 0x0C 4
  let entries := (List.range 16).map (fun e => n (0x10 + 4 * e) 4)
  if n 0 4 = 0x50534152 && n 4 2 = 1 && n 6 2 / 4 = 0 && code % 4 = 0 && 4 ≤ code && code ≤ 262144 && save % 64 = 0 &&
      save ≤ 65536 && entries.all (fun e => e % 4 == 0 && decide (e < code)) && (b.drop 0x50).all (· == 0) then
    some { image := image, flags := n 6 2, codeBytes := code, saveBytes := save, entries := entries, digest := digest }
  else none

/-- A 384-bit measurement in six words. -/
def digestWords (d : Nat) : List W64 := (List.range 6).map (fun i => BitVec.ofNat 64 (d / 2 ^ (64 * i)))

/-- PROG_REGISTER (R400). DEDUCED, assumption 80 (unsafe). -/
def progRegister (src : Src) (part slot : Nat) (image : W64) (m : M) : Mg :=
  let e := ptrExtent image
  let off := ptrOffset image
  let active := match ext? m.core e with | some x => x.st == .active && x.partition == part | none => false
  checked m [
    (agentMay m.core src e true, .notPermitted),
    (part < 16 && slot < 256, .badField),
    ((amGet? m.core.rasp.slots (handleOf part slot)).isNone, .conflict),
    (active && ptrChip image == m.core.chipId, .badState),
    (match ext? m.core e with | some x => off + 128 ≤ extBytes x | none => false, .badField)] (fun m =>
    match readBytes m (part % 4) e off 128 with
    | (m', .got b ps) =>
      let size := 0x80 + leNat ((b.drop 8).take 4)
      let room := match ext? m.core e with | some x => decide (off + size ≤ extBytes x) | none => false
      if ps.any id || !room then refuse m .badField
      else match readBytes m' (part % 4) e off size with
        | (m', .got all ps) =>
          let d := digestWords (Config.sha3 all)
          match progHeader image b d with
          | some p =>
            if ps.any id then refuse m .badField
            else accept (m'.on (fun c => { c with rasp := { c.rasp with slots := amSet c.rasp.slots (handleOf part slot) p } }))
              (handleOf part slot :: d.map (·.toNat))
          | none => refuse m .badField
        | (_, .wait _) => refuse m .badState
    | (_, .wait _) => refuse m .badState)

/-- A slot is free; bindings of its handle end (R401, R408). -/
def dropSlot (c : Core) (h : Nat) : Core :=
  { c with rasp := { c.rasp with slots := amDel c.rasp.slots h, binds := c.rasp.binds.filter (fun b => b.2.slot ≠ h) } }

/-- PROG_UNREGISTER (R401). -/
def progUnregister (src : Src) (handle : Nat) (m : M) : Mg :=
  match amGet? m.core.rasp.slots handle with
  | none => checked m [(srcFm src, .notPermitted)] (fun m => refuse m .badField)
  | some p => checked m [(agentMay m.core src (ptrExtent p.image) true, .notPermitted)] (fun m => accept (m.on (fun c => dropSlot c handle)))

/-- The image's extent enters WITHDRAWING (R401). -/
def unregisterExtent (c : Core) (e : Nat) : Core :=
  (c.rasp.slots.filter (fun s => ptrExtent s.2.image == e)).foldl (fun c s => dropSlot c s.1) c

/-- Opcodes that may be bound (R408). -/
def bindable (o : Nat) : Bool := (1 ≤ o && o ≤ 8) || o == 0x11 || o == 0x12

/-- PROG_BIND (R408). -/
def progBind (src : Src) (part opcode handle insts window : Nat) (m : M) : Mg :=
  checked m [
    (srcFm src, .notPermitted),
    (part < 16 && bindable opcode && handle < 4096 && handle / 256 == part, .badField),
    ((amGet? m.core.rasp.slots handle).isSome, .badField),
    (1 ≤ insts && insts ≤ 1024 && window % 32 == 0 && window ≤ 4194304, .badField)] (fun m =>
    accept (m.on (fun c => { c with rasp := { c.rasp with binds := amSet c.rasp.binds (part * 64 + opcode) ⟨handle, insts, window⟩ } })))

/-- PROG_UNBIND (R408). -/
def progUnbind (src : Src) (part opcode : Nat) (m : M) : Mg :=
  checked m [
    (srcFm src, .notPermitted),
    (part < 16 && bindable opcode, .badField),
    ((amGet? m.core.rasp.binds (part * 64 + opcode)).isSome, .badState)] (fun m =>
    accept (m.on (fun c => { c with rasp := { c.rasp with binds := amDel c.rasp.binds (part * 64 + opcode) } })))

end Sys2Proof.Machine
end

