-- ==== Sys2Proof/Machine/ExtCmds.lean ====
section
/-! DEFINITION. The commands of chapter 3: grants, withdrawals, invalidations along the ring, backing, compression,
migration, hints, leases and regions. -/

namespace Sys2Proof.Machine
open Sys2Proof

/-! ### Grant -/

/-- The partition's stacks provide a class (R85). -/
def classOk (c : Core) (q : Nat) (k : RedClass) : Bool :=
  match k with
  | .p => c.fld (PAIR_P_GIB q) PAIR_P_GIB_F != 0
  | .x => c.flag PAIR_LAYOUT PAIR_LAYOUT_PAIRED
  | _ => true

def extFieldsOk (d : ExtGrant) : Bool :=
  d.extent < 65536 && d.partition < 16 && d.owner < 65536 && 1 ≤ d.size && d.size ≤ (if d.large then 64 else 32768) &&
  d.quota ≤ d.size && (d.readable || d.writable)

/-- EXT_GRANT (R84, R85, Table 3-4). DEDUCED, assumption 33 (unsafe). -/
def extGrant (d : ExtGrant) (m : M) : Mg :=
  checked m [
    ((match ext? m.core d.extent with | none => true | some x => x.st == .withdrawn), .conflict),
    (extFieldsOk d, .badField),
    (classOk m.core d.partition d.cls, .badField),
    (partActive m.core d.partition, .badState)] (fun m =>
    let x : Extent := {
      st := .active, partition := d.partition, owner := d.owner, large := d.large, size := d.size, quota := d.quota,
      cls := d.cls, readable := d.readable, writable := d.writable, compressible := d.compressible, hotNotice := d.hotNotice,
      frames := [], subscribers := [], released := [], deferred := false, noBackingLogged := false, migrateTo := none }
    accept (m.on (fun c => setExt c d.extent x)))

/-! ### Withdrawal (R94 to R98) -/

/-- A cause that waits on a frame of extent `e`. -/
def onExtent (e : Nat) : ParkCause → Bool
  | .backing x _ _ => x == e
  | .frame x _ _ => x == e
  | .line x _ => x == e
  | _ => false

/-- An ACTIVE extent is withdrawn: domains with windows in it go DOWN first (R98), the snapshot is taken or deferred, what
waits on its frames meets EXTENT_WITHDRAWN as it goes on, its recasts stop at their step boundary and its programs are
unregistered. -/
def withdrawExt (m : M) (e : Nat) : M :=
  match ext? m.core e with
  | none => m
  | some x =>
    if x.st ≠ .active then m
    else
      let ds := m.core.coh.domains.filter (fun d => d.2.st != .down && d.2.windows.any (fun w => w.1 == e))
      let m := ds.foldl (fun m d => goDown m d.1 6 none) m
      let c := wakeOn (onExtent e) (enterWithdrawing m.core e m.core.work.tags)
      withdrawTables { m with core := unregisterExtent c e } e

/-- An extent's withdrawal has its snapshot, so that it may be acknowledged. -/
def snapshotTaken (c : Core) (e : Nat) : Bool := match ext? c e with | some x => !x.deferred | none => true

/-- The request waits for its withdrawal's quarantine record, or is accepted now (R97). -/
def ackWithdraw (src : Src) (e : Nat) (m : M) : MgLater :=
  if snapshotTaken m.core e then now (accept m)
  else (m.on (fun c => { c with ext := { c.ext with withdrawers := c.ext.withdrawers ++ [(e, src)] } }), none)

/-- EXT_WITHDRAW (R94, R721). -/
def extWithdraw (e : Nat) (src : Src) (m : M) : MgLater :=
  if !srcFm src then now (refuse m .notPermitted)
  else if 65536 ≤ e then now (refuse m .badField)
  else match ext? m.core e with
    | none => now (refuse m .badState)
    | some _ => ackWithdraw src e (withdrawExt m e)

/-- EXT_FREE: only of a WITHDRAWN extent (Table 3-4). -/
def extFree (e : Nat) (m : M) : Mg :=
  if 65536 ≤ e then refuse m .badField
  else match ext? m.core e with
    | some x => if x.st = .withdrawn then
        accept (m.on (fun c => { c with ext := { c.ext with exts := amDel c.ext.exts e } })) else refuse m .badState
    | none => refuse m .badState

/-- SNAPSHOT_RETIRED (R96): the extent is WITHDRAWN, its tables go (R183), and the fabric manager is told. -/
def snapshotRetired (e : Nat) (c : Core) : Core :=
  match retireSnapshot c e with
  | (c, true) => (deleteTablesOf c e).toFm 0x0105 [e]
  | (c, false) => c

/-- The next frame of a migration is chosen and its new place taken (R109): the lowest backed RESIDENT frame that is not of the
class asked for. With none left the migration has ended. -/
def nextMigration (c : Core) (e : Nat) : Core :=
  match ext? c e with
  | none => c
  | some x =>
    match (if x.st = .active then x.migrateTo else none) with
    | none => c
    | some k =>
      let off := fun (l : Loc) => match l, k with
        | .p _, .p => false | .m _ _, .m => false | .x _ _, .x => false | .n _ _, .n => false | _, _ => true
      if x.frames.any (fun f => f.2.st == .migrating) then c
      else match x.frames.find? (fun f => f.2.st == .resident && (match f.2.loc with | some l => off l | none => false)) with
        | none => modExt c e (fun x => { x with migrateTo := none })
        | some (i, _) => match poolTake c x.partition k x.large with
          | none => c
          | some (l, c) => dropCached (modFrame c e i (fun f =>
              { f with st := .migrating, dest := some l, compressing := false })) e i

/-! ### Invalidation along the ring (R91 to R93) -/

/-- The state of the link that this chip's messages in direction `d` cross: UP, with a port that sends that way. -/
def sendsTo (c : Core) (d : Nat) : Bool :=
  let n := c.ring.members.length
  let st := match memberIdx c c.chipId with
    | some i => ((c.ring.members.getD (if d = 0 then i else (i + n - 1) % n) (0, 2)).2) == 0
    | none => true
  let (a, b) := dirPorts d
  st && (ringPortLink c (a - 12) || ringPortLink c (b - 12))

/-- An INVALIDATE ring message in a direction (Table 14-2): chip, extent, first frame, count, kind, sender, receiving chip. -/
def invalMsg (d : Nat) (body : List Nat) : OutMsg :=
  { dst := .dir d, type := 0x73, cls := 2, ctx := 0xFFFF, body := body, data := [], work := none }

/-- Remote-extent cache entries of an extent go. -/
def dropRemote (c : Core) (chip e : Nat) : Core :=
  { c with ext := { c.ext with remote := c.ext.remote.filter (fun r => !(r.chip == chip && r.extent == e)) } }

/-- An agent holds WRITE rights on an extent: the extent admits writes, and the agent owns it or a context of its partition.
DEDUCED, assumption 37 (unsafe). -/
def agentWrites (c : Core) (agent e : Nat) : Bool :=
  match ext? c e with
  | none => false
  | some x => x.writable && (x.owner == agent ||
      (List.range 4096).any (fun k => ctxState c k != 0 && ctxOwner c k == agent && ctxPart c k == x.partition))

/-- The sender may issue the kind, and no window lies under a DISCARD (R91, R435). -/
def invalOk (c : Core) (ep e first count : Nat) (discard : Bool) : Bool :=
  let fb := match ext? c e with | some x => frameBytes x | none => 1
  (ep / 2 ^ 28 == 2 || (discard && agentWrites c ep e)) && !(discard && underWindow c e (first * fb) (count * fb))

/-- The home chip applies an INVALIDATE: DISCARD makes frames UNBACKED, and a freed quota lets parked writes go on. -/
def applyInval (m : M) (e first count : Nat) (discard : Bool) : M :=
  let m := m.on (fun c => c.count EXT_INVAL_COUNT)
  if discard then
    match ext? m.core e with
    | some x => if x.st = .active then m.on (fun c =>
        let c := discardFrames c e first count
        wakeOn (fun k => match k with
          | .backing y f _ => y == e && backingClear c y f
          | .frame y f _ => y == e && first ≤ f && f < first + count
          | _ => false) (nextMigration c e)) else m
    | none => m
  else withdrawExt m e

/-- Whoever asked for an INVALIDATE is answered: a management request with ACCEPTED, once a deferred withdrawal here has its
record, or an ADVISE DISCARD with DONE. -/
def invalDone (c : Core) (v : InvalOut) : Core :=
  let e := v.body.getD 1 0
  let c := { c with ext := { c.ext with invals := c.ext.invals.filter (· != v) } }
  match v.src, v.req with
  | some s, _ =>
    if v.body.getD 0 0 = c.chipId && !snapshotTaken c e then { c with ext := { c.ext with withdrawers := c.ext.withdrawers ++ [(e, s)] } }
    else mgmtReply c s 0x0104 .accepted []
  | none, some t => answerTag c t {}
  | none, none => c

/-- The chip that receives an INVALIDATE from its sender passes it on both ways and awaits its copies (R92). -/
def startInval (m : M) (src : Option Src) (req : Option Nat) (body : List Nat) : M :=
  let c := m.core
  let dirs := if onRing c then [0, 1].filter (sendsTo c) else []
  let c := dirs.foldl (fun c d => c.send (invalMsg d body)) c
  let v : InvalOut := { src := src, req := req, body := body, out := dirs.length }
  let c := { c with ext := { c.ext with invals := c.ext.invals ++ [v] } }
  { m with core := if dirs = [] then invalDone c v else c }

/-- An INVALIDATE management request (R91, R92, R721). One that breaks the limits of R91 is ignored: it gets no reply. -/
def invalidateReq (chip e first count : Nat) (discard : Bool) (src : Src) (m : M) : MgLater :=
  let ep := match src with | .fm p => p.srcEp | .agent p => p.srcEp | .sideband => fmEp 0
  let home := chip == m.core.chipId
  let ignore : M := m.on (fun c =>
    let mine := fun (t : Nat × Nat × Nat) => match srcPkt src with | some p => t.1 == p.srcEp && t.2.1 == p.xid | none => false
    let c := (c.net.mgmtTags.filter mine).foldl (fun c t => dropTag c t.2.2) c
    raise { c with net := { c.net with mgmtTags := c.net.mgmtTags.filter (fun t => !mine t) } } .extInvalidateRejected 10 e)
  if 4096 ≤ chip || 65536 ≤ e then now (refuse m .badField)
  else if home && !invalOk m.core ep e first count discard || !discard && !srcFm src then (ignore, none)
  else if home && (ext? m.core e).isNone then now (refuse m .badState)
  else
    let body := [chip, e, first, count, b2n discard, ep, m.core.chipId]
    let m := m.on (fun c => dropRemote c chip e)
    (startInval (if home then applyInval m e first count discard else m) (some src) none body, none)

/-- An INVALIDATE ring message (R92): the receiving chip counts its copy as returned; any other member drops its entries,
applies it at the home, and passes it on, back the other way at a chain's end. The home holds it back while its withdrawal is
deferred (R97). -/
def invalidateRing (p : Pkt) (chip e first count : Nat) (discard : Bool) (sender recv : Nat) (m : M) : M :=
  let body := [chip, e, first, count, b2n discard, sender, recv]
  match if inService m.core then landPkt m.core p else (m.core, none) with
  | (c, none) => { m with core := c }
  | (c, some _) =>
    let m := { m with core := dropRemote c chip e }
    if recv = c.chipId then
      match m.core.ext.invals.find? (fun v => v.body == body) with
      | none => m
      | some v =>
        if v.out ≤ 1 then m.on (fun c => invalDone c v)
        else m.on (fun c => { c with ext := { c.ext with
          invals := c.ext.invals.map (fun x => if x = v then { x with out := x.out - 1 } else x) } })
    else
      let seen := m.core.ext.invalSeen.contains body
      let d := portDir p.port
      let turn := !sendsTo m.core d
      let mark := fun (c : Core) =>
        let l := if seen then c.ext.invalSeen.filter (· != body) else if turn then c.ext.invalSeen else c.ext.invalSeen ++ [body]
        { c with ext := { c.ext with invalSeen := l } }
      let m :=
        if chip ≠ m.core.chipId then m
        else
          let m := m.on mark
          if seen then m
          else if invalOk m.core sender e first count discard then applyInval m e first count discard
          else m.on (fun c => raise c .extInvalidateRejected 10 e)
      let out := if turn then 1 - d else d
      if chip = m.core.chipId && !discard && !snapshotTaken m.core e then
        m.on (fun c => { c with ext := { c.ext with heldInval := c.ext.heldInval ++ [(e, out, body)] } })
      else m.on (fun c => c.send (invalMsg out body))

/-- A quarantine record frees (R97): the oldest deferred withdrawal takes its snapshot and is acknowledged. -/
def recordFree (c : Core) : Core :=
  match nextWaiting c c.work.tags with
  | (c, none) => c
  | (c, some e) =>
    let mine := c.ext.withdrawers.filter (fun w => w.1 == e)
    let held := c.ext.heldInval.filter (fun h => h.1 == e)
    let c := { c with ext := { c.ext with withdrawers := c.ext.withdrawers.filter (fun w => w.1 != e),
                                          heldInval := c.ext.heldInval.filter (fun h => h.1 != e) } }
    let c := mine.foldl (fun c w => mgmtReply c w.2 0x0101 .accepted []) c
    held.foldl (fun c h => c.send (invalMsg h.2.1 h.2.2)) c

/-! ### Backing, fill and restore (R96, R101, R108, R580) -/

/-- A run of free frames joins a pool, merged with the runs it touches. -/
def poolAdd (runs : List FreeRun) (r : FreeRun) : List FreeRun :=
  let before := runs.find? (fun t => t.stack = r.stack && t.first + t.count == r.first)
  let after := runs.find? (fun t => t.stack = r.stack && r.first + r.count == t.first)
  let rest := runs.filter (fun t => some t ≠ before && some t ≠ after)
  let first := (before.map (·.first)).getD r.first
  let extra := fun (o : Option FreeRun) => (o.map (·.count)).getD 0
  rest ++ [⟨r.stack, first, r.count + extra before + extra after⟩]

/-- Every word of a run of free frames is written with the zero codeword; the flip mask does not apply (R580, R581). -/
def fillRun (m : M) (q : Nat) (r : FreeRun) : M :=
  let armed := m.core.fld ECC_FLIP_CTRL ECC_FLIP_CTRL_ARMED
  let m := m.on (fun c => c.setFld ECC_FLIP_CTRL ECC_FLIP_CTRL_ARMED 0)
  let loc : Loc := match r.stack with
    | none => .p (r.first * 2 ^ 21)
    | some n => .n n (r.first * 2 ^ 21)
  let m := writeRun m q loc 0 (List.replicate (r.count * 65536) (zeroWord, false))
  m.on (fun c => c.setFld ECC_FLIP_CTRL ECC_FLIP_CTRL_ARMED armed)

/-- What waits for backing of an extent of the partition goes on where the backing has become possible: a pool has more
frames. -/
def wakeBacking (c : Core) (q : Nat) : Core :=
  wakeOn (fun k => match k with
    | .backing e f _ => backingClear c e f && (match ext? c e with | some x => x.partition == q | none => true)
    | _ => false) c

/-- EXT_MIGRATE (R109): refused under a window (R435). -/
def extMigrate (e : Nat) (k : RedClass) (m : M) : Mg :=
  if 65536 ≤ e then refuse m .badField
  else match ext? m.core e with
    | none => refuse m .badState
    | some x => checked m [
        (x.st == .active, .badState),
        (classOk m.core x.partition k, .badField),
        (!underWindow m.core e 0 (extBytes x), .badState)] (fun m =>
        accept (m.on (fun c => nextMigration (modExt c e (fun x => { x with cls := k, migrateTo := some k })) e)))

/-- FRAME_MIGRATED: the copy is complete; what waits goes on, the old place awaits quarantine with the extent's next withdrawal
snapshot (the spec gives no other moment: DESIGN CHOICE, assumption 34 (unsafe)), and the next frame begins. -/
def frameMigrated (e i : Nat) (m : M) : M :=
  match ext? m.core e with
  | none => m
  | some x =>
    let f := frameOf x i
    match f.st, f.loc, f.dest with
    | .migrating, some old, some new =>
      let c0 := m.core
      let (m, ws) := readFrame m x.partition old (frameBytes x / 32)
      let m := movedOnly c0 m
      let m := writeRun m x.partition new 0 ws
      let c := modFrame m.core e i (fun f => { f with st := .resident, loc := some new, dest := none })
      -- a snapshot that has been taken holds both places already
      let keep := x.st == .active || x.deferred
      let c := dropCached (modExt c e (fun x => { x with released := if keep then x.released ++ [old] else x.released })) e i
      let c := wakeOn (atFrame e i) c
      { m with core := nextMigration c e }
    | _, _, _ => m

/-- FRAME_FILL_DONE: the fill of a partition's first waiting run has ended, and its frames can back frames (R96). -/
def frameFillDone (q : Nat) (m : M) : M :=
  match amGet m.core.mem.fill q [] with
  | [] => m
  | r :: rest =>
    let m := fillRun m q r
    m.on (fun c =>
      let c := { c with mem := { c.mem with fill := amSet c.mem.fill q rest,
                                            pool := amSet c.mem.pool q (poolAdd (amGet c.mem.pool q []) r) } }
      let c := wakeBacking c q
      c.ext.exts.foldl (fun c x => if x.2.partition = q then nextMigration c x.1 else c) c)

/-- A frame that may be compressed (R103), and that no window holds RESIDENT (R435). -/
def compressible (c : Core) (e i : Nat) (x : Extent) : Bool :=
  let f := frameOf x i
  c.flag EXT_CTRL EXT_CTRL_COMPRESS_EN && !x.large && x.compressible && x.st == .active && f.st == .resident && f.cold &&
    !f.incompressible && !underWindow c e (i * frameBytes x) (frameBytes x)

/-- COMPRESSION_START (R103). -/
def compressionStart (e i : Nat) (c : Core) : Core :=
  match ext? c e with
  | none => c
  | some x => if compressible c e i x then modFrame c e i (fun f => { f with compressing := true }) else c

/-- COMPRESSION_DONE (R103 to R106): the smaller form is kept when it fits, and the resident frame is released; else the frame
is marked incompressible. A compression that an access aborted, or whose conditions no longer hold, leaves the frame RESIDENT. -/
def compressionDone (e i : Nat) (m : M) : M :=
  match ext? m.core e with
  | none => m
  | some x =>
    match (frameOf x i).compressing && compressible m.core e i x, (frameOf x i).loc with
    | true, some l =>
      let c0 := m.core
      let (m, ws) := readFrame m x.partition l (frameBytes x / 32)
      let m := movedOnly c0 m
      let kept := packWords ws
      let n := packedChunks kept.length (frameBytes x / 32) (Config.rowStride e)
      if n ≤ m.core.fld EXT_COMPRESS EXT_COMPRESS_MAX_CHUNKS then
        m.on (fun c => wakeBacking (dropCached (toFill (modFrame c e i (fun f =>
          { f with st := .compressed, loc := none, compressing := false, packed := kept, chunks := n })) x.partition l false) e i)
          x.partition)
      else m.on (fun c => modFrame c e i (fun f => { f with compressing := false, incompressible := true }))
    | _, _ => m.on (fun c => modFrame c e i (fun f => { f with compressing := false }))

/-- Those that wait for one cause wait for another from now. -/
def recause (q : ParkCause → Option ParkCause) (c : Core) : Core :=
  let c := { c with work := { c.work with flight := amMap c.work.flight (fun _ w => match w.phase with
    | .parked j => (match q j with | some k => { w with phase := .parked k, waited := 0 } | none => w)
    | _ => w) } }
  let c := { c with rasp := { c.rasp with threads := amMap c.rasp.threads (fun _ t => match t.wait with
    | .parked j => (match q j with | some k => { t with wait := .parked k, waited := 0 } | none => t)
    | _ => t) } }
  { c with net := { c.net with requests := c.net.requests.map (fun r => match r.cause with
    | some j => (match q j, r.reply with | some k, none => { r with cause := some k, waited := 0 } | _, _ => r)
    | none => r) } }

/-- A wait for a frame becomes a wait for its backing. -/
def toBacking (e i : Nat) : ParkCause → Option ParkCause
  | .frame x f o => if x == e && f == i then some (.backing e i o) else none
  | _ => none

/-- The frames of the range have their entries in all four caches. -/
def loadCaches (c : Core) (e : Nat) (fs : List Nat) : Core :=
  fs.foldl (fun c i => (List.range 4).foldl (fun c p =>
    let l := amGet c.ext.tcache p []
    { c with ext := { c.ext with tcache := amSet c.ext.tcache p ((tcKey e i :: l.filter (· != tcKey e i)).take 8192) } }) c) c

/-- FRAME_RESTORED (R107): a frame of the pool takes the words, COLD is cleared and what waits goes on. With the pool empty
the accesses wait for backing (R108). -/
def frameRestored (e i : Nat) (m : M) : M :=
  match ext? m.core e with
  | none => m
  | some x =>
    let f := frameOf x i
    if f.st ≠ .decompressing then m
    else
      let mine := fun (k : ParkCause) => atFrame e i k || atBacking e i k
      match poolTake m.core x.partition x.cls x.large with
      | none => m.on (fun c =>
          let rs := c.net.requests.filter (fun r => r.reply.isNone && r.cause.any (atFrame e i))
          let waits := rs.any (fun r => !rdmaWrites r) ||
            c.work.flight.any (fun w => match w.2.phase with | .parked k => atFrame e i k | _ => false) ||
            c.rasp.threads.any (fun t => match t.2.wait with | .parked k => atFrame e i k | _ => false)
          let c := recause (toBacking e i) c
          if waits then notePark c (.request 0) (.backing e i 0) else if rs = [] then c else noteBacking c e i)
      | some (l, c) =>
        let m := unpackInto { m with core := c } x.partition l f.packed
        m.on (fun c =>
          let c := joinQuarantine (modFrame c e i (fun f =>
            { f with st := .resident, loc := some l, cold := false, packed := [], chunks := 0, prefetched := false })) e i l
          let c := dropCached c e i
          wakeOn mine (if f.prefetched && x.st = .active then loadCaches c e [i] else c))

/-! ### Hints (R113) -/

/-- The partition under which a request is checked: the fabric manager's fits every extent. -/
def reqPart (c : Core) (r : Request) (e : Nat) : Nat :=
  if r.part = fmPart then ((ext? c e).map (·.partition)).getD r.part else r.part

/-- PREFETCH (Table 3-7). -/
def prefetchReq (r : Request) (m : M) : M × Ans :=
  let ptr : W64 := BitVec.ofNat 64 (r.body.getD 0 0)
  let len := r.body.getD 1 0
  let e := ptrExtent ptr
  match ptrCheck m.core (reqPart m.core r e) ptr len true false with
  | some s => (m, failed s ptr)
  | none => match ext? m.core e with
    | none => (m, failed .accessDenied ptr)
    | some x =>
      let fs := framesTouched x (ptrOffset ptr) len
      let c := fs.foldl (fun c i =>
        let gone := (frameOf x i).st == .compressed || (frameOf x i).st == .decompressing
        let c := if (frameOf x i).st = .compressed then wakeFrame c e i else c
        let c := modFrame c e i (fun f => { f with cold := false, prefetched := gone })
        if gone then c else loadCaches c e [i]) m.core
      ({ m with core := c }, .reply {})

/-- The agent that sends a request: a session's peer. What a FORWARD carries does not name it, and the spec gives the home no
other way to know it: a free value then. -/
def reqAgent (c : Core) (r : Request) : Core × Nat :=
  match r.sender with
  | .session s _ => (c, (((sess? c s).map (·.remote)).getD 0) % 65536)
  | _ => let (c, k) := c.draw; (c, (Config.freeWord k).toNat % 65536)

/-- ADVISE COLD and WARM on the frames of a range, SUBSCRIBE, UNSUBSCRIBE (Table 3-7). DISCARD goes round the ring as an
INVALIDATE, and is answered once that is done. DESIGN CHOICE, assumption 20 (unsafe). -/
def adviseReq (r : Request) (m : M) : M × Ans :=
  let ptr : W64 := BitVec.ofNat 64 (r.body.getD 0 0)
  let len := r.body.getD 1 0
  let e := ptrExtent ptr
  let k := r.body.getD 2 0
  match ptrCheck m.core (reqPart m.core r e) ptr len (k != 4) (k == 4) with
  | some s => (m, failed s ptr)
  | none => match ext? m.core e with
    | none => (m, failed .accessDenied ptr)
    | some x =>
      let fs := framesTouched x (ptrOffset ptr) len
      let fb := frameBytes x
      match k with
      | 0 => (m.on (fun c => fs.foldl (fun c i => if underWindow c e (i * fb) fb then c else modFrame c e i (fun f =>
          if f.st = .resident then { f with cold := true } else f)) c), .reply {})
      | 1 => (m.on (fun c => fs.foldl (fun c i => modFrame c e i (fun f => { f with cold := false })) c), .reply {})
      | 2 =>
        let (c, a) := reqAgent m.core r
        if x.subscribers.contains a then ({ m with core := c }, .reply {})
        else if 16 ≤ x.subscribers.length then ({ m with core := c }, failed .accessDenied ptr)
        else ({ m with core := modExt c e (fun x => { x with subscribers := x.subscribers ++ [a] }) }, .reply {})
      | 3 =>
        let (c, a) := reqAgent m.core r
        ({ m with core := modExt c e (fun x => { x with subscribers := x.subscribers.filter (· != a) }) }, .reply {})
      | 4 =>
        -- frames that lie whole within the range
        let first := (ptrOffset ptr + fb - 1) / fb
        let count := (ptrOffset ptr + len) / fb - first
        if underWindow m.core e (first * fb) (count * fb) then
          (m.on (fun c => raise c .extInvalidateRejected 10 e), .drop)
        else
          let m := applyInval m e first count true
          let ep := match r.sender with | .session s _ => ((sess? m.core s).map (·.remote)).getD 0 | _ => chipEp m.core.chipId
          (startInval m none (some r.tag) [m.core.chipId, e, first, count, 1, ep, m.core.chipId], .fwd r.tag)
      | _ => (m, failed .badDescriptor)

/-! ### Leases (R115 to R117) -/

/-- A boundary has come at or after the lease's expiry time: it has expired (R116). -/
def leaseOver (c : Core) (l : Lease) : Bool := l.expiry ≤ c.tck.last

/-- Work writes that wait for an agent's session or queue pair are discarded (Table 13-13, R504). -/
def discardWritesOf (c : Core) (agent : Nat) : Core :=
  let c := (c.net.sessions.filter (fun s => s.2.remote == agentEp agent)).foldl (fun c s => discardHeld c s.1) c
  let ctxs := (c.net.heldRdma.filter (fun h => ctxOwner c h.1 == agent)).map (·.1)
  ctxs.foldl (fun c x =>
    let held := amGet c.net.heldRdma x []
    held.foldl discardOut { c with net := { c.net with heldRdma := amDel c.net.heldRdma x } }) c

/-- What an agent has goes with its lease (R116, R117): its extents are withdrawn, its windows go down, its contexts are revoked,
its queue pairs enter the error state, and its objects lose their owner. -/
def dropAgent (agent : Nat) (m : M) : M :=
  let mine := (m.core.ext.exts.filter (fun x => x.2.owner == agent && x.2.st == .active)).map (·.1)
  let m := mine.foldl withdrawExt m
  m.on (fun c =>
    let c := downForAgent c agent 4
    let ctxs := (List.range 4096).filter (fun x => ctxState c x != 0 && ctxOwner c x == agent)
    let c := ctxs.foldl (fun c x => revokeCtx c x) (discardWritesOf c agent)
    let qps := (c.net.qps.filter (fun q => q.2.owner == agent && !q.2.error)).map (·.1)
    let c := qps.foldl (fun c q => qpError c q 0) c
    { c with sync := { c.sync with objs := amMap c.sync.objs (fun _ o =>
        if o.ownerValid && o.owner == agent then { o with ownerValid := false, armed := false } else o) } })

/-- LEASE_EXPIRY at a boundary at or after the lease's expiry time (R116, R117, R430). -/
def leaseExpiry (agent time : Nat) (m : M) : M :=
  let m := m.on (fun c => c.at time)
  match amGet? m.core.ext.leases agent with
  | none => m
  | some l =>
    if !leaseOver m.core l then m
    else
      let c := { m.core with ext := { m.core.ext with leases := amDel m.core.ext.leases agent } }
      dropAgent agent { m with core := (raise (c.toFm 0x0112 [agent]) .extLeaseExpired 0 0 agent).count EXT_LEASE_EXPIRED }

/-- LEASE_GRANT. A lease that has expired ends first. DEDUCED, assumption 36 (unsafe). -/
def leaseGrant (agent ms : Nat) (m : M) : Mg :=
  let d := if ms = 0 then m.core.fld EXT_LEASE EXT_LEASE_DEFAULT_MS else ms
  checked m [
    (agent < 65536 && (ms == 0 || (100 ≤ ms && ms ≤ 60000)), .badField),
    ((amGet? m.core.ext.leases agent).isSome || m.core.ext.leases.length < 8192, .noResource)] (fun m =>
    accept ((leaseExpiry agent m.core.glb.now m).on (fun c => { c with ext := { c.ext with
      leases := amSet c.ext.leases agent ⟨d, c.glb.now + d * 1000000⟩ } })))

/-- LEASE_RENEW, by the agent or by the fabric manager on its behalf: it comes too late for a lease that has expired (R116).
DEDUCED, assumption 36 (unsafe). -/
def leaseRenew (agent : Nat) (src : Src) (m : M) : Mg :=
  if !srcFm src && srcAgent src != some agent then refuse m .notPermitted
  else match amGet? m.core.ext.leases agent with
    | none => refuse m .badState
    | some l =>
      if leaseOver m.core l then refuse (leaseExpiry agent m.core.glb.now m) .badState
      else accept (m.on (fun c => { c with ext := { c.ext with
        leases := amSet c.ext.leases agent { l with expiry := c.glb.now + l.ms * 1000000 } } }))

/-! ### Regions (R118 to R123) -/

/-- REGION_DEFINE; a region of length 0 is malformed. DESIGN CHOICE, assumption 20 (unsafe); DEDUCED, assumption 37 (unsafe). -/
def regionDefine (r : Request) (m : M) : M × Ans :=
  let ptr : W64 := BitVec.ofNat 64 (r.body.getD 0 0)
  let len := r.body.getD 1 0
  let n := r.body.getD 2 0
  let e := ptrExtent ptr
  match ptrCheck m.core (reqPart m.core r e) ptr len false (r.part != fmPart) with
  | some s => (m, failed s ptr)
  | none =>
    if 16384 ≤ n || ptrOffset ptr % 32 ≠ 0 || len % 32 ≠ 0 || len = 0 then (m, failed .badDescriptor)
    else if (region? m.core n).isSome then (m, failed .accessDenied)
    else
      let g : Region := { extent := e, offset := ptrOffset ptr, len := len, version := r.body.getD 3 0 % 2 ^ 32, digest := 0 }
      (m.on (fun c => { c with ext := { c.ext with regions := amSet c.ext.regions n g } }), .reply {})

/-- A region that the request's partition may name; of another one, or an undefined one, the requests answer ACCESS_DENIED. DESIGN
CHOICE, assumption 91 (unsafe). -/
def reqRegion (c : Core) (r : Request) (n : Nat) : Option Region :=
  match region? c n with
  | some g => if r.part = fmPart || ((ext? c g.extent).any (fun x => x.partition == r.part)) then some g else none
  | none => none

def regionPtr (c : Core) (g : Region) : W64 := extPtr c g.extent g.offset

/-- An earlier PUBLISH of the region is not decided yet (R120). -/
def publishAhead (c : Core) (r : Request) (n : Nat) : Bool :=
  (c.net.requests.takeWhile (fun x => x.tag != r.tag)).any (fun x =>
    x.type == 0x31 && x.body.getD 2 0 % 2 ^ 14 == n && x.cause.isSome && x.reply.isNone)

/-- PUBLISH (R119 to R122): it waits for a recast step under way in its range (R215); with DIGEST the CRC-64 of the region
comes before the decision. The rights it needs, the checks before the decision, and the digest that a PUBLISH without DIGEST leaves:
DESIGN CHOICE, assumption 91 (unsafe). -/
def publishReq (r : Request) (m : M) : M × Ans :=
  let n := r.body.getD 2 0 % 2 ^ 14
  let digest := bitOf (r.body.getD 2 0) 31
  let v := r.body.getD 3 0 % 2 ^ 32
  let exp := r.body.getD 4 0 % 2 ^ 32
  match reqRegion m.core r n with
  | none => (m, failed .accessDenied)
  | some g =>
    let ptr := regionPtr m.core g
    match accessCheck m.core (reqPart m.core r g.extent) g.extent g.offset g.len digest (r.part != fmPart) with
    | some s => (m, failed s ptr)
    | none => match (if publishAhead m.core r n then some 0 else publishWaits m.core g.extent g.offset g.len) with
      | some t => (m, .park (.rowLock t 0))
      | none =>
        let decide' := fun (m : M) (d : Nat) =>
          if publishOk g.version exp v then
            (m.on (fun c => { c with ext := { c.ext with
              regions := amSet c.ext.regions n { g with version := v, digest := d } } }),
              Ans.reply { value := BitVec.ofNat 64 v, detail := BitVec.ofNat 64 d })
          else (m, Ans.reply { status := .versionConflict, value := BitVec.ofNat 64 g.version, detail := BitVec.ofNat 64 d })
        if !digest then decide' m g.digest
        else match readBytes m (n % 4) g.extent g.offset g.len with
          | (m, .wait k) => (m, .park k)
          | (m, .got b ps) =>
            match ps.findIdx? id with
            | some i => (m, failed .poisoned (wordPtr (ptr + BitVec.ofNat 64 (32 * i))))
            | none => decide' m (crc64 b).toNat

/-- VERSION_QUERY (R123). -/
def versionQuery (r : Request) (m : M) : M × Ans :=
  match reqRegion m.core r (r.body.getD 2 0) with
  | none => (m, failed .accessDenied)
  | some g => (m, .reply { value := BitVec.ofNat 64 g.version, detail := BitVec.ofNat 64 g.digest })

end Sys2Proof.Machine
end

