-- ==== Sys2Proof/Machine/Redund.lean ====
section
/-! DEFINITION. What a physical word backs (R585, R586, R592), stacks that fail and the rebuild's start (R594, R598), and the
words fetched from the partner of a pair (R607). -/

namespace Sys2Proof.Machine
open Sys2Proof

/-! ### Reads by holder -/

/-- A physical word is read as its redundancy class says (Table 16-3): a P, M or X word is recovered, any other is delivered as
the code gives it. -/
def readHeld (m : M) (w : Nat) (demand : Bool) : M × WordRead :=
  let plain := fun (m : M) => match readPhys m w demand with
    | (m, .bad d) => if knownBad m.core w then (m, .poison d)
        else giveUp (m.on (fun c => noteUncorrected c 0 (physStack w) (physAddr w))) w d .eccUncorrected demand
    | (m, .gone) => (m, .poison zeroWord)
    | x => x
  match wordHolder m.core w with
  | some (q, g, .data _ _ _ .p) =>
    let n := placeStack m.core q (physStack w) g
    let s := stripePos m.core n
    match readPhys m w demand with
    | (m, .bad d) => reconstruct m q s g w d demand
    | (m, .gone) => reconstruct m q s g w zeroWord demand
    | x => x
  | some (q, g, .data _ _ _ .m) =>
    let n := placeStack m.core q (physStack w) g
    match readPhys m w demand with
    | (m, .bad d) => mirrorOther m w (servedWord m.core q (n ^^^ 8) g) (.bad d) demand
    | (m, .gone) => mirrorOther m w (servedWord m.core q (n ^^^ 8) g) .gone demand
    | x => x
  | some (q, g, .data _ _ _ .x) => readX m q (placeStack m.core q (physStack w) g) g demand
  | _ => plain m

/-! ### Stacks and domains -/

def physDomain (n : Nat) : Nat := 36 + n

def domState (c : Core) (d : Nat) : Nat := c.fld (PWR_DOMAIN d) PWR_DOMAIN_STATE
def setDomState (c : Core) (d s : Nat) : Core := c.setFld (PWR_DOMAIN d) PWR_DOMAIN_STATE s

/-- SPARE_STATUS (Table 17-10). DEDUCED, assumption 67 (unsafe). -/
def spareStatus (c : Core) : Core :=
  c.toFm 0x0908 [c.fld PAIR_REBUILD PAIR_REBUILD_STATE, c.fld PAIR_REBUILD PAIR_REBUILD_SPARE,
    c.fld PAIR_REBUILD PAIR_REBUILD_FAILED_STACK]

/-- R594: the rebuild of a failed stripe stack onto the spare starts. The spare's PHY wakes; its training is the wake's. -/
def startRebuild (c : Core) (n : Nat) : Core :=
  let o := outStack c
  if n = o || !c.flag PAIR_LAYOUT PAIR_LAYOUT_SPARE || c.fld PAIR_REBUILD PAIR_REBUILD_SPARE ≠ 0 || c.pair.rebuilt ||
      stackBad c o || baseFenced c (n / 4) then c
  else
    let c := c.setFld (PWR_DOMAIN (physDomain o)) PWR_DOMAIN_TARGET 0
    let s := domState c (physDomain o)
    let c := if s = 2 || s = 3 then
      (setDomState c (physDomain o) 4).setFld (stackReg MEM_STATUS o) MEM_STATUS_STATE 1 else c
    let c := ((c.setFld PAIR_REBUILD PAIR_REBUILD_STATE 1).setFld PAIR_REBUILD PAIR_REBUILD_SPARE 1).setFld
      PAIR_REBUILD PAIR_REBUILD_FAILED_STACK n
    let c := (c.rset PAIR_REBUILD_PROG 0)
    let c := { c with pair := { c.pair with rebuilt := true, rebuildStep := false, rebuildGot := [] } }
    spareStatus (raise c .pairRebuildStart 2 n)

/-- A stack becomes FAILED (R553, R555, R601, R701): its write-backs are dropped (R565), its queues end, and R594 and R598
follow. DEDUCED, assumption 67 (unsafe). -/
def stackFailed (c : Core) (n : Nat) : Core :=
  if stackState c n = 5 then c
  else
    let c := c.setFld (stackReg MEM_STATUS n) MEM_STATUS_STATE 5
    let c := c.setFld GLB_FENCED GLB_FENCED_STACKS (c.fld GLB_FENCED GLB_FENCED_STACKS ||| 2 ^ n)
    let c := (c.mem.wb.filter (fun x => physStack x.1 == n)).foldl (fun c x => dropWb c x.1) c
    let c := { c with mem := { c.mem with
      pcs := c.mem.pcs.filter (fun x => x.1 / 32 != n), training := c.mem.training.filter (fun x => x / 32 != n),
      turnHead := c.mem.turnHead.filter (fun x => x / 32 != n) } }
    if n = outStack c then
      let was := c.fld PAIR_REBUILD PAIR_REBUILD_SPARE
      let c := if c.flag PAIR_LAYOUT PAIR_LAYOUT_SPARE then c.setFld PAIR_REBUILD PAIR_REBUILD_SPARE 2 else c
      if was = 1 && c.fld PAIR_REBUILD PAIR_REBUILD_STATE = 1 then
        raise ({ c with pair := { c.pair with rebuildStep := false, rebuildGot := [] } }.setFld PAIR_REBUILD PAIR_REBUILD_STATE 3)
          .pairRebuildStopped 2 n
      else c
    else startRebuild c n

/-! ### Messages of the pair (R603, Table 17-6) -/

def partnerChip (c : Core) : Nat := c.fld PAIR_LAYOUT PAIR_LAYOUT_PARTNER
def pairState (c : Core) : Nat := c.fld PAIR_STATUS PAIR_STATUS_STATE
def partnerState (c : Core) : Nat := c.fld PAIR_STATUS PAIR_STATUS_PARTNER_STATE

/-- Poison marks as the number of PMAP. -/
def pmapNat : List Bool → Nat
  | [] => 0
  | b :: t => b2n b + 2 * pmapNat t

def pmapBits (n v : Nat) : List Bool := (List.range n).map (fun i => bitOf v i)

/-- A REPLICA message to the partner in a direction: the routing fields of a FORWARD, then KIND, PARTITION, EXTENT, FSEQ, OFFSET,
LEN and PMAP. DEDUCED, assumption 71 (unsafe). -/
def repMsg (c : Core) (dir tag kind part ext fseq off len : Nat) (data : List Byte) (pmap : Nat) : OutMsg :=
  { dst := .dir dir, type := 0x7A, cls := 0, ctx := 0xFFFF,
    body := [c.chipId, partnerChip c, c.ring.members.length, dir, tag, kind, part, ext, fseq, off, len, pmap], data := data,
    work := none }

/-- The direction to the partner. -/
def partnerDir (c : Core) : Option Nat := (routeTo c (partnerChip c)).bind Route.prefer

/-- A REPLICA WRITE, RESYNC or FETCH goes out under an op tag of its own, registered as a forwarded request of kind 5 (write or
resync, by frame: extent × 2^16 + frame, FSEQ, offset) or 6 (fetch, by physical word). Nothing happens without a tag or a
route. -/
def sendReplica (c : Core) (kind part ext fseq off len : Nat) (data : List Byte) (pmap : Nat) (fk : Nat) (who : Nat × Nat × Nat) :
    Core × Option Nat :=
  match partnerDir c, newTag c with
  | some d, (c, some t) =>
    let body := [kind, part, ext, fseq, off, len, pmap]
    let f : Fwd := { tag := t, dst := partnerChip c, dir := d, sentTick := c.tick, resent := false, idem := fk == 6,
                     draining := false, who := who, kind := fk, part := part, ctx := 0xFFFF, type := 0x7A, body := body, data := data }
    (({ c with ring := { c.ring with fwds := c.ring.fwds ++ [f] } }).send (repMsg c d t kind part ext fseq off len data pmap), some t)
  | _, _ => (c, none)

/-- HEALTH or DIGEST, which nothing answers. -/
def sendReplicaPlain (c : Core) (kind part ext fseq off : Nat) (data : List Byte) : Core :=
  match partnerDir c with
  | some d => c.send (repMsg c d 0 kind part ext fseq off data.length data 0)
  | none => c

/-- Mirrored writes that are still to be sent go out (R605). -/
def sendReplicas (c : Core) : Core :=
  c.pair.outstanding.foldl (fun c r =>
    if r.sent.isSome then c
    else match ext? c r.extent with
      | none => c
      | some x =>
        let data := (List.range (r.data.length / 32)).flatMap (fun i =>
          if r.poisons.getD i false then zeroWord else (r.data.drop (32 * i)).take 32)
        match sendReplica c 0 x.partition r.extent r.fseq r.offset r.data.length data (pmapNat r.poisons) 5
            (r.extent * 2 ^ 16 + r.frame, r.fseq, r.offset) with
        | (c, none) => c
        | (c, some t) =>
          let mark := fun (y : Replica) => if y = r then { y with sent := some t } else y
          ({ c with pair := { c.pair with outstanding := c.pair.outstanding.map mark } }).perf PAIR_REPLICA_WRITES) c

/-- Fetches of X words that are still to be asked for go out (R607). -/
def sendFetches (c : Core) : Core :=
  c.pair.fetching.foldl (fun c w =>
    if c.ring.fwds.any (fun f => f.kind == 6 && f.who.1 == w) then c
    else match wordHolder c w with
      | some (q, _, .data e f off .x) => (sendReplica c 2 q e 0 (extOff c e f off) 32 [] 0 6 (w, 0, 0)).1
      | _ => endHandling { c with pair := { c.pair with fetching := c.pair.fetching.filter (· != w) } } 2 (physStack w) w) c

/-! ### Answers of the partner -/

/-- The dirty-list entries of `n` bytes from an offset of an extent: one for each 2 MiB (R606). -/
def unitsOf (e off n : Nat) : List Nat :=
  (List.range ((off + n + 2 ^ 21 - 1) / 2 ^ 21 - off / 2 ^ 21)).map (fun i => e * 2 ^ 16 + off / 2 ^ 21 + i)

/-- A mirrored write that has no answer, or one other than DONE, leaves its frame dirty and the holder alone (R606); a copy of a frame that
fails is to be made again. -/
def replicaFail (c : Core) (r : Replica) : Core :=
  let c := { c with pair := { c.pair with outstanding := c.pair.outstanding.filter (· != r), synced := false } }
  if r.copy then (unitsOf r.extent r.offset (match ext? c r.extent with | some x => frameBytes x | none => 0)).foldl addDirty c
  else
    let c := addDirty c (dirtyKey r.extent r.offset)
    let c := if pairState c = 5 then c.setFld PAIR_STATUS PAIR_STATUS_STATE 6 else c
    raise c .pairOutOfSync 0 0

/-- A fetched word arrives, or its fetch fails (R604, R607): it is written back, kept for readers, or poisoned. -/
def fetchAnswer (m : M) (w : Nat) (rep : Rep) : M :=
  let ok := rep.status = .done && rep.data.length = 32
  let key := match wordHolder m.core w with
    | some (_, _, .data e f off _) => some (e * 2 ^ 31 + extOff m.core e f off / 32)
    | _ => none
  let m := m.on (fun c => { c with pair := { c.pair with fetching := c.pair.fetching.filter (· != w) } })
  let healthy := !stackBad m.core (physStack w)
  let rebuilding := m.core.pair.rebuildStep && physStack w == m.core.fld PAIR_REBUILD PAIR_REBUILD_FAILED_STACK
  let m :=
    if rebuilding then
      let o := outStack m.core
      let t := o * 2 ^ 32 + physAddr w
      let m := if ok then writeWord m t rep.data false
        else (poisonWord m t zeroWord).on (fun c => c.satFld PAIR_REBUILD PAIR_REBUILD_POISONED)
      m.on (fun c => { c with pair := { c.pair with rebuildGot := c.pair.rebuildGot ++ [w] } })
    else if healthy then
      if ok then m.on (fun c => recordWb c w .recovered rep.data true)
      else poisonRec m w (m.mem.word w) true
    else m.on (fun c => endHandling { c with pair := { c.pair with
      got := amSet c.pair.got w (if ok then (rep.data, false) else (zeroWord, true)) } } 2 (physStack w) w)
  match key with
  | some k => m.on (wakeOn (fun x => x == .fetch k))
  | none => m

/-- A frame that a standby asked for after a digest that differed has come (R618, R619): it is held until it is stored as a copy is. -/
def frameAnswer (m : M) (e off : Nat) (rep : Rep) : M :=
  if rep.status ≠ .done || rep.data = [] then m
  else m.on (fun c => match ext? c e with
    | none => c
    | some x =>
      let f := off / frameBytes x
      let r : Replica := { extent := e, frame := f, fseq := amGet c.pair.fseq (e * 2 ^ 16 + f) 0, offset := off, data := rep.data,
                           poisons := [], tick := c.tick, owner := 2 ^ 64, sent := none, copy := true }
      { c with pair := { c.pair with early := c.pair.early ++ [r] } })

/-- The reply to a REPLICA WRITE, RESYNC or FETCH. -/
def pairReply (m : M) (f : Fwd) (rep : Rep) : M :=
  let m := m.on (fun c => dropTag { c with ring := { c.ring with fwds := c.ring.fwds.filter (· != f) } } f.tag)
  if f.kind = 6 then
    if f.who.2.1 = 1 then frameAnswer m (f.who.1 / 2 ^ 36) (f.who.1 % 2 ^ 36) rep else fetchAnswer m f.who.1 rep
  else match m.core.pair.outstanding.find? (fun r => r.sent == some f.tag) with
    | none => m
    | some r =>
      if rep.status = .done then m.on (fun c => { c with pair := { c.pair with outstanding := c.pair.outstanding.filter (· != r) } })
      else m.on (fun c => replicaFail c r)

end Sys2Proof.Machine
end

