-- ==== Sys2Proof/Machine/MemCmds.lean ====
section
/-! DEFINITION. The commands of the memory controllers (chapter 15) and of the code's housekeeping (chapter 16), and the steps of
the rebuild and of the spare's watch (R595 to R601). -/

namespace Sys2Proof.Machine
open Sys2Proof

/-! ### Pseudo-channel queues -/

def freshPc : PcQueue :=
  { reads := [], writes := [], port := [], tracker := [], inOrder := [], openRow := [], streak := [], nextAct := [], refreshEnd := [],
    nextOrder := 0, neighbour := [], refreshes := 0 }

/-- Pseudo-channel `pc` of stack `n` as a key. -/
def pcKey (n pc : Nat) : Nat := n * 32 + pc

def pcQ (c : Core) (k : Nat) : PcQueue := amGet c.mem.pcs k freshPc

def pcA (f : Nat → Nat → Nat → Nat) (k : Nat) : Nat := pcReg f (k / 32) (k % 32)
def stA (f : Nat → Nat → Nat) (k : Nat) : Nat := stackReg f (k / 32)

/-- The queues' use as MEM_PC_STATUS and MEM_PC_PEAK show it. -/
def setPcQ (c : Core) (k : Nat) (q : PcQueue) : Core :=
  let c := { c with mem := { c.mem with pcs := amPut freshPc c.mem.pcs k q } }
  let a := pcA MEM_PC_STATUS k
  let c := ((c.setFld a MEM_PC_STATUS_RD_USED q.reads.length).setFld a MEM_PC_STATUS_WR_USED q.writes.length).setFld a
    MEM_PC_STATUS_TRACKED q.tracker.length
  let p := pcA MEM_PC_PEAK k
  let c := if c.fld p MEM_PC_PEAK_RD_PEAK < q.reads.length then c.setFld p MEM_PC_PEAK_RD_PEAK q.reads.length else c
  if c.fld p MEM_PC_PEAK_WR_PEAK < q.writes.length then c.setFld p MEM_PC_PEAK_WR_PEAK q.writes.length else c

def pcMode (c : Core) (k : Nat) : Nat := c.fld (pcA MEM_PC_STATUS k) MEM_PC_STATUS_MODE
def setMode (c : Core) (k m : Nat) : Core := c.setFld (pcA MEM_PC_STATUS k) MEM_PC_STATUS_MODE m

def ageNs (c : Core) (k : Nat) : Nat := c.fld (stA MEM_CTRL k) MEM_CTRL_WR_AGE_US * 1000

/-- A write has waited WR_AGE_US (R545). -/
def aged (c : Core) (k : Nat) : Bool := (pcQ c k).writes.any (fun w => w.since + ageNs c k ≤ c.glb.now)

/-- Table 15-3: the mode after a change of the queues. -/
def modeCheck (c : Core) (k : Nat) : Core :=
  let w := (pcQ c k).writes.length
  match pcMode c k with
  | 0 => if c.fld (stA MEM_CTRL k) MEM_CTRL_WR_HIGH ≤ w || aged c k then (setMode c k 1).perf (stA MEM_DRAINS k) else c
  | 1 => if w ≤ c.fld (stA MEM_CTRL k) MEM_CTRL_WR_LOW && !aged c k then setMode c k 0 else c
  | _ => c

/-- Two entries of one burst. -/
def sameBurst (b r col b' r' col' : Nat) : Bool := b == b' && r == r' && col == col'

/-- A read that R548 holds: an older UNTRACKED write of its burst is queued. -/
def readHeldBack (q : PcQueue) (r : RdEnt) : Bool :=
  q.writes.any (fun w => !w.tracked && w.order < r.order && sameBurst w.bank w.row w.col r.bank r.row r.col)

/-- An entry is free for a request (R541). -/
def entryFree (hks : List Bool) (hk : Bool) : Bool :=
  hks.length < 64 && (hk || (hks.filter (!·)).length < 56)

/-- A read enters the queue and is checked for hazards (R547, R548). -/
def enterRead (c : Core) (k bank row col : Nat) (hk scrub : Bool) : Core :=
  let q := pcQ c k
  let r : RdEnt := { order := q.nextOrder, bank := bank, row := row, col := col, hk := hk, scrub := scrub }
  let q := { q with reads := q.reads ++ [r], nextOrder := q.nextOrder + 1 }
  let hit := q.tracker.any (fun t => t.bank == bank && t.row == row)
  let fresh := hit && (amGet? q.inOrder bank).isNone
  let q := if hit then { q with inOrder := amSet q.inOrder bank r.order } else q
  let c := setPcQ c k q
  let c := if fresh then c.perf (stA MEM_INORDER k) else c
  if readHeldBack q r then c.perf (stA MEM_COMPARE_HOLDS k) else c

/-- A write enters the queue and is made (R543, R546); write-backs that it supersedes are dropped (R565). -/
def enterWrite (m : M) (k bank row col : Nat) (w0 w1 : Option (List Byte)) (hk : Bool) : M :=
  let q := pcQ m.core k
  let seen := q.tracker.any (fun t => t.bank == bank && t.row == row)
  let room := q.tracker.length < 16
  let bump := fun (t : TrackEnt) => if t.bank = bank ∧ t.row = row then { t with writes := t.writes + 1 } else t
  let tracker := if seen then q.tracker.map bump else if room then q.tracker ++ [⟨bank, row, 1⟩] else q.tracker
  let e : WrEnt := { order := q.nextOrder, bank := bank, row := row, col := col, hk := hk, since := m.core.glb.now,
                     tracked := seen || room }
  let m := m.on (fun c => modeCheck (setPcQ c k { q with
    writes := q.writes ++ [e], tracker := tracker, nextOrder := q.nextOrder + 1 }) k)
  let w := physWord (k / 32) (k % 32) bank row col 0
  let put := fun (m : M) (w : Nat) (d : Option (List Byte)) => match d with
    | some b => writeWord m w b false
    | none => m
  (put (put m w w0) (w + 1) w1).on (fun c => dropWb (dropWb c w) (w + 1))

/-- Requests at the armature port take entries as they come free, in order of each kind (R542). -/
def fillQueues : Nat → Nat → M → M
  | 0, _, m => m
  | n + 1, k, m =>
    let q := pcQ m.core k
    let ok := fun (x : PortReq) => if x.write then entryFree (q.writes.map (·.hk)) x.hk else entryFree (q.reads.map (·.hk)) x.hk
    match q.port.findIdx? ok with
    | none => m
    | some i => match q.port[i]? with
      | none => m
      | some x =>
        let m := m.on (fun c => setPcQ c k { q with port := dropAt q.port i })
        let m := if x.write then enterWrite m k x.bank x.row x.col x.word0 x.word1 x.hk
          else m.on (fun c => enterRead c k x.bank x.row x.col x.hk x.scrub)
        fillQueues n k m

def burstOk (n pc bank row col : Nat) : Bool := n < 16 && pc < 32 && bank < 64 && row < 49152 && col < 16

/-- The stack keeps requests: it is ON, in RETENTION, or being trained (R541, R556). -/
def stackTakes (c : Core) (n : Nat) : Bool := let s := stackState c n; !stackBad c n && (s == 1 || s == 2 || s == 3)

/-- DESIGN CHOICE, assumption 65 (safe). -/
def writeQueueEntry (n pc bank row col : Nat) (w0 w1 : Option (List Byte)) (hk : Bool) (time : Nat) (m : M) : M :=
  let m := m.on (·.at time)
  if !burstOk n pc bank row col || !stackTakes m.core n || !inService m.core then m
  else
    let k := pcKey n pc
    let q := pcQ m.core k
    let x : PortReq := { write := true, bank := bank, row := row, col := col, hk := hk, scrub := false, word0 := w0, word1 := w1 }
    fillQueues 1 k (m.on (fun c => setPcQ c k { q with port := q.port ++ [x] }))

/-- DESIGN CHOICE, assumption 65 (safe). -/
def readQueueEntry (n pc bank row col : Nat) (hk scrub : Bool) (m : M) : M :=
  if !burstOk n pc bank row col || !stackTakes m.core n || !inService m.core then m
  else
    let k := pcKey n pc
    let q := pcQ m.core k
    let x : PortReq := { write := false, bank := bank, row := row, col := col, hk := hk || scrub, scrub := scrub, word0 := none,
                         word1 := none }
    fillQueues 1 k (m.on (fun c => setPcQ c k { q with port := q.port ++ [x] }))

/-! ### Issue (R544, R545, R549, R552) -/

/-- An entry that may issue: whether a write, its order, bank, row and column. -/
structure Cand where
  write : Bool
  order : Nat
  bank : Nat
  row : Nat
  col : Nat
deriving DecidableEq, Repr

def isOpen (q : PcQueue) (bank row : Nat) : Bool := amGet? q.openRow bank == some row

/-- Bank timing allows a burst (R550, Table 15-1): no refresh occupies the bank, and a closed row waits 45 ns after the last
activate. DEDUCED, assumption 64 (unsafe). -/
def bankReady (q : PcQueue) (now bank row : Nat) : Bool :=
  amGet q.refreshEnd bank 0 ≤ now && (isOpen q bank row || amGet q.nextAct bank 0 ≤ now)

/-- A bank in IN_ORDER (R547). -/
def bankInOrder (q : PcQueue) (bank : Nat) : Bool := (amGet? q.inOrder bank).isSome

/-- The oldest entry of a bank. -/
def oldestOf (q : PcQueue) (bank : Nat) : Nat :=
  ((q.reads.filter (·.bank == bank)).map (·.order) ++ (q.writes.filter (·.bank == bank)).map (·.order)).foldl min q.nextOrder

/-- Reads that may issue. -/
def readCands (q : PcQueue) (now : Nat) : List Cand :=
  let ok := fun (r : RdEnt) =>
    let older := q.reads.any (fun x => x.bank == r.bank && x.row != r.row && x.order < r.order)
    !readHeldBack q r && bankReady q now r.bank r.row &&
      (!bankInOrder q r.bank || r.order == oldestOf q r.bank) &&
      !(isOpen q r.bank r.row && older && 16 ≤ amGet q.streak r.bank 0)
  (q.reads.filter ok).map (fun r => ⟨false, r.order, r.bank, r.row, r.col⟩)

/-- A held read makes its bank's writes issue in order (R548). -/
def bankHeld (q : PcQueue) (bank : Nat) : Bool := q.reads.any (fun r => r.bank == bank && readHeldBack q r)

/-- The oldest write of a bank. -/
def oldestWrite (q : PcQueue) (bank : Nat) : Nat :=
  ((q.writes.filter (·.bank == bank)).map (·.order)).foldl min q.nextOrder

/-- Writes that may issue: none before an older read or write of its burst (R549). -/
def writeCands (q : PcQueue) (now : Nat) : List Cand :=
  let ok := fun (w : WrEnt) =>
    bankReady q now w.bank w.row && (!bankInOrder q w.bank || w.order == oldestOf q w.bank) &&
      (!bankHeld q w.bank || w.order == oldestWrite q w.bank) &&
      !q.reads.any (fun r => r.order < w.order && sameBurst r.bank r.row r.col w.bank w.row w.col) &&
      !q.writes.any (fun x => x.order < w.order && sameBurst x.bank x.row x.col w.bank w.row w.col)
  (q.writes.filter ok).map (fun w => ⟨true, w.order, w.bank, w.row, w.col⟩)

def oldestCand : List Cand → Option Cand
  | [] => none
  | h :: t => match oldestCand t with
    | none => some h
    | some x => some (if h.order < x.order then h else x)

/-- Open rows first, then the oldest. -/
def pickCand (q : PcQueue) (l : List Cand) : Option Cand :=
  match oldestCand (l.filter (fun x => isOpen q x.bank x.row)) with
  | some x => some x
  | none => oldestCand l

/-- The next burst (R544, R545, R547, R548): the writes that a held read waits for and the writes of banks IN_ORDER count among
the first whatever the mode; then reads ahead of writes, or writes ahead of reads in DRAIN. -/
def nextBurst (c : Core) (k : Nat) : Option Cand :=
  let q := pcQ c k
  let rs := readCands q c.glb.now
  let ws := writeCands q c.glb.now
  let forced := ws.filter (fun x => bankInOrder q x.bank || bankHeld q x.bank)
  match pcMode c k with
  | 0 => match pickCand q (rs ++ forced) with
    | some x => some x
    | none => oldestCand ws
  | 1 => match pickCand q ws with
    | some x => some x
    | none => pickCand q rs
  | _ => none

/-- A neighbour refresh occupies its bank (R552). -/
def doNeighbour (c : Core) (k bank : Nat) : Core :=
  let q := pcQ c k
  let done := c.glb.now + 130
  let q := { q with refreshEnd := amSet q.refreshEnd bank done, openRow := amDel q.openRow bank, refreshes := q.refreshes + 1 }
  (setPcQ c k q).perf (stA MEM_NEIGHBOUR_REFRESHES k)

/-- One neighbour refresh joins the queue of 8; the oldest of a full one issues at once. -/
def addNeighbour (k bank : Nat) (c : Core) (row : Nat) : Core :=
  let q := pcQ c k
  if q.neighbour.length < 8 then setPcQ c k { q with neighbour := q.neighbour ++ [(bank, row)] }
  else match q.neighbour with
    | h :: t => doNeighbour (setPcQ c k { q with neighbour := t ++ [(bank, row)] }) k h.1
    | [] => c

/-- An activate: the row opens, and with probability 2^−k its neighbours are to be refreshed (R552). -/
def activate (c : Core) (k bank row : Nat) : Core :=
  let q := pcQ c k
  let again := c.glb.now + 45
  let q := { q with openRow := amSet q.openRow bank row, nextAct := amSet q.nextAct bank again }
  let c := (setPcQ c k q).perf (stA MEM_ACTIVATES k)
  let (c, d) := c.draw
  if (Config.random d).toNat % 2 ^ (c.fld (stA MEM_CTRL k) MEM_CTRL_DISTURB_K) ≠ 0 then c
  else ((if row = 0 then [] else [row - 1]) ++ (if row + 1 < 49152 then [row + 1] else [])).foldl (addNeighbour k bank) c

/-- Neighbour refreshes queued to banks that are free issue ahead of requests. -/
def issueNeighbours (c : Core) (k : Nat) : Core :=
  (pcQ c k).neighbour.foldl (fun c x =>
    let q := pcQ c k
    if amGet q.refreshEnd x.1 0 ≤ c.glb.now then
      match q.neighbour.findIdx? (· == x) with
      | some i => doNeighbour (setPcQ c k { q with neighbour := dropAt q.neighbour i }) k x.1
      | none => c
    else c) c

/-- Entries that leave: banks whose order no longer binds leave IN_ORDER (R547). -/
def leaveOrder (q : PcQueue) : PcQueue :=
  { q with inOrder := q.inOrder.filter (fun b => q.writes.any (fun w => w.bank == b.1 && w.order < b.2)) }

/-- BURST_ISSUE: the next burst of the pseudo-channel issues. A read decodes both words of its burst (R562 to R564). -/
def burstIssue (n pc time : Nat) (m : M) : M :=
  let m := m.on (·.at time)
  let k := pcKey n pc
  if 16 ≤ n || 32 ≤ pc || stackState m.core n ≠ 2 || stackBad m.core n || pcMode m.core k = 2 then m
  else
    let m := m.on (fun c => issueNeighbours c k)
    match nextBurst m.core k with
    | none => m
    | some x =>
      let q := pcQ m.core k
      let opened := isOpen q x.bank x.row
      let older := q.reads.any (fun r => r.bank == x.bank && r.row != x.row && r.order < x.order)
      let streak := if !x.write && opened && older then amGet q.streak x.bank 0 + 1 else 0
      let isScrub := q.reads.any (fun r => r.order == x.order && r.scrub)
      let waited := !x.write && bankInOrder q x.bank
      let dec := fun (t : TrackEnt) => if t.bank = x.bank ∧ t.row = x.row then { t with writes := t.writes - 1 } else t
      let tracked := q.writes.any (fun w => w.order == x.order && w.tracked)
      let tracker := if x.write && tracked then (q.tracker.map dec).filter (·.writes != 0) else q.tracker
      let wasHeld := fun (q : PcQueue) => q.reads.filter (readHeldBack q)
      let q' := leaveOrder { q with
        reads := q.reads.filter (·.order != x.order), writes := q.writes.filter (·.order != x.order), tracker := tracker,
        streak := amPut 0 q.streak x.bank streak }
      let freed := (wasHeld q).length != (wasHeld q').length
      let m := m.on (fun c =>
        let c := setPcQ c k q'
        let c := c.perf (if x.write then stA MEM_WR_BURSTS k else stA MEM_RD_BURSTS k)
        let c := if opened then c.perf (stA MEM_ROW_HITS k) else activate c k x.bank x.row
        -- cycles for which reads were held: the spec gives no count of cycles to a command
        let c := if waited || freed then let (c, d) := c.draw; c.perf (pcA MEM_PC_HOLD_CYCLES k) (Config.choice d) else c
        modeCheck c k)
      let w := physWord n pc x.bank x.row x.col 0
      let m := if x.write then m else
        let m := (readHeld m w (!isScrub)).1
        (readHeld m (w + 1) (!isScrub)).1
      fillQueues 128 k m

/-- WRITE_AGE_EXPIRY (R545). -/
def writeAge (n pc time : Nat) (c : Core) : Core :=
  let c := c.at time
  if n < 16 && pc < 32 && aged c (pcKey n pc) then modeCheck c (pcKey n pc) else c

/-- REFRESH: 8 rows of a bank (R550); none while the pseudo-channel is retrained, whose refreshes have issued.
DEDUCED, assumption 64 (unsafe). -/
def refreshCmd (n pc bank : Nat) (c : Core) : Core :=
  let k := pcKey n pc
  if 16 ≤ n || 32 ≤ pc || 64 ≤ bank || stackState c n ≠ 2 || c.mem.training.contains k then c
  else
    let q := pcQ c k
    let done := c.glb.now + 130
    setPcQ c k { q with refreshEnd := amSet q.refreshEnd bank done, openRow := amDel q.openRow bank, refreshes := q.refreshes + 1 }

/-! ### Retraining (R554, R555) -/

def stackOn (c : Core) (n : Nat) : Bool := stackState c n == 2 && !stackBad c n

/-- Temperature of a stack has moved by more than 10 °C since the last training. -/
def drifted (c : Core) (k : Nat) : Bool :=
  let t := c.fld (stA MEM_STATUS k) MEM_STATUS_TEMP_C
  let l := amGet c.mem.trainTemp k t
  10 < t - l || 10 < l - t

/-- The next pseudo-channel: those of MEM_TRAIN.NOW and of lane suspects, which RETRAIN_PC does not count; then drifted ones, then
the turn, which the slice bounds. DEDUCED, assumption 66 (unsafe). -/
def nextRetrain (c : Core) : Option (Nat × Bool) :=
  match c.mem.turnHead.find? (fun k => stackOn c (k / 32)) with
  | some k => some (k, true)
  | none =>
    if !stepFits c 2 2000 then none
    else
      let all := (List.range 512).map (fun i => (c.mem.turn + i) % 512)
      let on := all.filter (fun k => stackOn c (k / 32))
      (on.find? (drifted c) <|> on.head?).map (fun k => (k, false))

/-- Refresh commands due in 2 µs (R554). -/
def dueRefreshes (c : Core) (n : Nat) : Nat := if c.flag (stackReg MEM_STATUS n) MEM_STATUS_HOT then 50 else 25

/-- A pseudo-channel is quiesced for training: refreshes issue and its banks are precharged. -/
def quiescePc (c : Core) (k : Nat) : Core :=
  let q := pcQ c k
  let c := setPcQ c k { q with openRow := [], streak := [], refreshes := q.refreshes + dueRefreshes c (k / 32) }
  setMode { c with mem := { c.mem with training := c.mem.training ++ [k] } } k 2

/-- RETRAIN_PC. -/
def retrainPc (c : Core) : Core :=
  if !inService c || c.mem.training ≠ [] then c
  else match nextRetrain c with
    | none => c
    | some (k, extra) =>
      let head := c.mem.turnHead.filter (· != k)
      let turn := if extra || drifted c k then c.mem.turn else (k + 1) % 512
      let c := quiescePc { c with mem := { c.mem with turnHead := head, turn := turn } } k
      if extra then c else useSlice c 2 2000

/-- A pseudo-channel's training has ended. -/
def trained (c : Core) (k : Nat) (ok : Bool) (margin : Nat) : Core :=
  let n := k / 32
  let t := pcA MEM_PC_TRAIN k
  let nowA := stA MEM_TRAIN k
  let c := c.setFld nowA MEM_TRAIN_LAST_PC (k % 32)
  let c := if c.flag nowA MEM_TRAIN_NOW && c.fld nowA MEM_TRAIN_TARGET_PC == k % 32 then c.setFld nowA MEM_TRAIN_NOW 0 else c
  if ok then
    let c := ((c.setFld t MEM_PC_TRAIN_FAILS 0).setFld t MEM_PC_TRAIN_MARGIN_PS margin).rset (pcA MEM_PC_LAST_TRAIN k)
      (BitVec.ofNat 64 c.tick)
    let temp := c.fld (stA MEM_STATUS k) MEM_STATUS_TEMP_C
    ({ c with mem := { c.mem with trainTemp := amSet c.mem.trainTemp k temp } }).count (stA MEM_RETRAINS k)
  else
    let c := (raise c .memTrainFailed 2 n (k % 32)).count (stA MEM_TRAIN_FAILS k)
    let f := min 3 (c.fld t MEM_PC_TRAIN_FAILS + 1)
    let c := c.setFld t MEM_PC_TRAIN_FAILS f
    if f = 3 then stackFailed (raise c .memStackFailed 2 n) n else c

/-- RETRAIN_END: the queues return to NORMAL and their mode is looked at afresh. -/
def retrainEnd (n pc : Nat) (ok : Bool) (margin : Nat) (c : Core) : Core :=
  let k := pcKey n pc
  if !c.mem.training.contains k then c
  else
    let c := { c with mem := { c.mem with training := c.mem.training.filter (· != k) } }
    modeCheck (trained (setMode c k 0) k ok margin) k

/-- A write of one to MEM_TRAIN.NOW: the pseudo-channel goes ahead of the turn (R555). DEDUCED, assumption 66 (unsafe). -/
def trainNow (c : Core) (n : Nat) : Core :=
  let k := pcKey n (c.fld (stackReg MEM_TRAIN n) MEM_TRAIN_TARGET_PC)
  { c with mem := { c.mem with turnHead := distinctOf (c.mem.turnHead ++ [k]) } }

/-! ### Write-backs and scrub (R565, R567, R575 to R578) -/

/-- WRITE_BACK (R565): a corrected word's is dropped when no housekeeping entry is free, a poison or recovery one waits. -/
def writeBack (w : Nat) (m : M) : M :=
  match amGet? m.core.mem.wb w with
  | none => m
  | some r =>
    let n := physStack w
    let k := pcKey n (physPc w)
    if stackBad m.core n then m.on (fun c => dropWb c w)
    else if !entryFree ((pcQ m.core k).writes.map (·.hk)) true then
      if r.kind = .corrected then m.on (fun c => dropWb c w) else m
    else
      let a := physAddr w
      let m := m.on (fun c => dropWb c w)
      let m := enterWrite m k (a / 2 ^ 21 % 64) (a / 32 % 65536) (a / 2 % 16) none none true
      writeWord m w r.data (r.kind == .poison) r.scrub

/-- LANE_PERIOD_END (R567). -/
def lanePeriodEnd (c : Core) : Core := { c with mem := { c.mem with lane := [] } }

/-- The pass time in ns, and rows of a pass (R576). -/
def passNs (c : Core) : Nat := c.fld ECC_SCRUB ECC_SCRUB_PASS_HOURS * 3600000000000
def passRows : Nat := 3145728

def scrubSt (c : Core) (k : Nat) : ScrubSt := amGet c.mem.scrub k ⟨0, 0⟩

/-- A pass ends: it is counted, and its stack is behind or on time. -/
def passEnd (c : Core) (k : Nat) : Core :=
  let n := k / 32
  let took := c.glb.now - (scrubSt c k).passStart
  let c := { c with mem := { c.mem with scrub := amSet c.mem.scrub k ⟨0, c.glb.now⟩ } }
  let c := c.count ECC_SCRUB_PASSES
  let b := c.fld ECC_STATUS ECC_STATUS_SCRUB_BEHIND
  if passNs c * 11 < took * 10 then
    raise (c.setFld ECC_STATUS ECC_STATUS_SCRUB_BEHIND (b ||| 2 ^ n)) .eccScrubBehind 2 n
  else if took ≤ passNs c then c.setFld ECC_STATUS ECC_STATUS_SCRUB_BEHIND (setBit b n false)
  else c

/-- Words of a row, read in turn. -/
def scrubRow (m : M) (n pc bank row : Nat) : M :=
  (List.range 32).foldl (fun m i => (readHeld m (physWord n pc bank row (i / 2) (i % 2)) false).1) m

/-- SCRUB_STEP (R575, R576): the next row, when the pass is not ahead of its pace and the step fits the scrub slice. -/
def scrubStep (n pc ns time : Nat) (m : M) : M :=
  let m := m.on (·.at time)
  let c := m.core
  let k := pcKey n pc
  let s := scrubSt c k
  if 16 ≤ n || 32 ≤ pc || !c.flag ECC_CTRL ECC_CTRL_SCRUB_EN || !stackOn c n || c.fld ECC_STATUS ECC_STATUS_FILL ≠ 2 ||
      c.mem.training.contains k || !stepFits c 1 ns || (c.glb.now - s.passStart) * passRows < s.done * passNs c then m
  else
    let m := scrubRow m n pc (s.done % 64) (s.done / 64)
    m.on (fun c =>
      let c := useSlice { c with mem := { c.mem with scrub := amSet c.mem.scrub k { s with done := s.done + 1 } } } 1 ns
      let c := if s.done + 1 = passRows then passEnd c k else c
      c.setFld (ECC_SCRUB_ROWS n) ECC_SCRUB_ROWS_F (sumNat ((List.range 32).map (fun p => (scrubSt c (pcKey n p)).done))))

/-! ### The rebuild (R595 to R599) -/

/-- The partition and group address at a place of the walk. -/
def walkAt (c : Core) : Nat → Nat → Option (Nat × Nat)
  | 0, _ => none
  | i + 1, k =>
    let q := 15 - i
    let (v, _, g) := groupOf c q
    let n := if v then 2 ^ g * 3 * 2 ^ 30 / 32 else 0
    if k < n then some (q, 32 * k) else walkAt c i (k - n)

/-- A word of the spare is written poisoned and counted (R595, R598). -/
def rebuildPoison (m : M) (t : Nat) : M :=
  (poisonWord m t zeroWord).on (fun c => c.satFld PAIR_REBUILD PAIR_REBUILD_POISONED)

/-- A REMOVING partition's X words are written poisoned (R650). -/
def partRemoving (c : Core) (q : Nat) : Bool := c.fld (SEC_PART q) SEC_PART_STATE == 3

/-- One word of the walk (Table 17-3): whether it waits for the partner. -/
def rebuildWord (m : M) (q g : Nat) : M × Bool :=
  let c := m.core
  let n := c.fld PAIR_REBUILD PAIR_REBUILD_FAILED_STACK
  let w := placeWord c q n g
  let t := placeWord c q (outStack c) g
  let xorAll := fun (m : M) (pos : Nat) => match xorPositions m q g false ((List.range 15).filter (· != pos)) with
    | (m, some d) => (writeWord m t d false, false)
    | (m, none) => (rebuildPoison m t, false)
  match holderOf c q n g with
  | .none => (m, false)
  | .parity pos => xorAll m pos
  | .data _ _ _ .p => xorAll m (stripePos c n)
  | .data _ _ _ .m => match readPhys m (servedWord c q (n ^^^ 8) g) false with
    | (m, .good d) => (writeWord m t d false, false)
    | (m, .bad d) => (rebuildPoison (meetBad m (servedWord c q (n ^^^ 8) g) d .pairMirrorFailed false) t, false)
    | (m, _) => (rebuildPoison m t, false)
  | .data _ _ _ .n => (rebuildPoison m t, false)
  | .data _ _ _ .x =>
    if c.pair.rebuildGot.contains w then (m, false)
    else if partnerSource c && !partRemoving c q then (m.on (fun c => startFetch c w), true)
    else (rebuildPoison m t, false)

/-- REBUILD_STEP: the next 2 KiB of the walk, within the rebuild slice. A step with X words runs until the partner has sent
them. -/
def rebuildStepCmd (ns : Nat) (m : M) : M :=
  let c := m.core
  if c.fld PAIR_REBUILD PAIR_REBUILD_STATE ≠ 1 || !stackOn c (outStack c) || !inService c then m
  else if !c.pair.rebuildStep && !stepFits c 3 ns then m
  else
    let k := (c.rget PAIR_REBUILD_PROG).toNat
    match walkAt c 16 k with
    | none => m.on (fun c =>
        spareStatus (raise (c.setFld PAIR_REBUILD PAIR_REBUILD_STATE 2) .pairRebuildDone 2 (c.fld PAIR_REBUILD PAIR_REBUILD_FAILED_STACK)))
    | some (q, g) =>
      let m := if c.pair.rebuildStep then m else m.on (fun c => useSlice { c with pair := { c.pair with rebuildStep := true } } 3 ns)
      let (m, wait) := (List.range 64).foldl (fun (s : M × Bool) i =>
        let (m, x) := rebuildWord s.1 q (g + 32 * i)
        (m, s.2 || x)) (m, false)
      if wait then m
      else m.on (fun c => wakeOn (· == .fetch stepKey)
        (({ c with pair := { c.pair with rebuildStep := false, rebuildGot := [] } }).rset PAIR_REBUILD_PROG (BitVec.ofNat 64 (k + 64))))

/-! ### The spare's watch (R600, R601) -/

/-- The physical word of place `i` in the watch's order: row number, bank, pseudo-channel, then the words of the row. -/
def watchWord (n i w : Nat) : Nat := physWord n (i % 32) (i / 32 % 64) (i / 2048) (w / 2) (w % 2)

/-- The place in the watch's order of a physical word. -/
def watchRank (w : Nat) : Nat :=
  let a := physAddr w
  a / 32 % 65536 * 2048 + a / 2 ^ 21 % 64 * 32 + physPc w

/-- Words of a stack that do not hold the zero codeword. -/
def oddWords (m : M) (n : Nat) : List Nat :=
  (distinctOf (m.mem.cells.map (fun x => x.1 / 32) ++ m.mem.delta.map (·.1))).filter (fun w => physStack w == n)

/-- SPARE_WATCH_WAKE: the spare retrains, its first row is tested, and the next rows are read. -/
def spareWatch (matches_ : Bool) (m : M) : M :=
  let c := m.core
  let n := outStack c
  if !c.flag PAIR_CTRL PAIR_CTRL_SPARE_WATCH_EN || !c.flag PAIR_LAYOUT PAIR_LAYOUT_SPARE ||
      c.fld PAIR_REBUILD PAIR_REBUILD_SPARE ≠ 0 || stackState c n ≠ 3 || !inService c then m
  else
    -- the domain is awake for the wake and returns to RETENTION
    let m := m.on (fun c => c.setFld (stackReg MEM_STATUS n) MEM_STATUS_STATE 2)
    let m := m.on (fun c => (List.range 32).foldl (fun c p =>
      let (c, d) := c.draw
      trained c (pcKey n p) true (Config.choice d % 256)) c)
    let total := 100663296
    let hours := c.fld ECC_SCRUB ECC_SCRUB_PASS_HOURS
    let r := (total * c.fld PAIR_SPARE_WATCH PAIR_SPARE_WATCH_PERIOD_MS + hours * 3600000 - 1) / (hours * 3600000)
    let first := c.pair.watchRow
    -- step 2: the first row of the run is written, compared and cleared
    let m := { m with mem := m.mem.clear (watchWord n first 0) (watchWord n first 0 + 32) }
    let inRun := fun (w : Nat) => (watchRank w + total - first) % total < r
    let odd := (oddWords m n).filter inRun
    let before := (m.core.rget ECC_CORRECTED).toNat
    let (m, bad) := odd.foldl (fun (s : M × Bool) w => match readHeld s.1 w false with
      | (m, .good d) => (m, s.2 || d.any (· != 0))
      | (m, _) => (m, true)) (m, !matches_)
    m.on (fun c =>
      let c := c.setFld PAIR_SPARE_WATCH PAIR_SPARE_WATCH_LAST_CORRECTED (min 65535 ((c.rget ECC_CORRECTED).toNat - before))
      let c := { c with pair := { c.pair with watchRow := (first + r) % total } }
      let c := c.setFld (stackReg MEM_STATUS n) MEM_STATUS_STATE 3
      if bad then spareStatus (raise (stackFailed c n) .pairSpareFailed 2 n) else c)

end Sys2Proof.Machine
end

