-- ==== Sys2Proof/Machine/SyncCmds.lean ====
section
/-! DEFINITION. The commands of chapter 11: grants, increments, messages and deadlines of sync objects. -/

namespace Sys2Proof.Machine
open Sys2Proof

/-! ### Grant and free (R412) -/

/-- Some object of a run satisfies `p`. -/
def inRun (first count : Nat) (p : Nat → Bool) : Bool := (List.range count).any (fun i => p (first + i))

def runOk (first count : Nat) : Bool := 1 ≤ count && first + count ≤ 65536

/-- SYNC_GRANT: the whole run is FREE. -/
def syncGrant (first count part owner : Nat) (m : M) : Mg :=
  checked m [
    (runOk first count && part < 16 && owner < 65536, .badField),
    (!inRun first count (fun s => (sync? m.core s).isSome), .conflict),
    (partActive m.core part, .badState)] (fun m =>
    let o : SyncObj := { count := 0, target := 0, deadline := 0, partition := part, owner := owner, ownerValid := true,
                         frozen := false, missed := false, armed := false, poisoned := false, waiters := [] }
    accept (m.on (fun c => (List.range count).foldl (fun c i => setSync c (first + i) o) c)))

/-- SYNC_FREE: no object of the run is FREE or has waiters. A frozen object leaves FROZEN by the removal alone (R431). -/
def syncFree (first count : Nat) (m : M) : Mg :=
  checked m [
    (runOk first count, .badField),
    (!inRun first count (fun s => match sync? m.core s with | none => true | some o => o.frozen || o.waiters != []), .badState)]
    (fun m => accept (m.on (fun c => { c with sync := { c.sync with
      objs := c.sync.objs.filter (fun o => !(first ≤ o.1 && o.1 < first + count)) } })))

/-! ### Increments that works made (R413, R415) -/

/-- The oldest increment on its way to an object reaches the object's home plinth. -/
def syncIncrement (s : Nat) (c : Core) : Core :=
  match c.sync.sent.findIdx? (fun x => x.1 == s) with
  | none => c
  | some i =>
    let part := ((c.sync.sent[i]?).map (·.2)).getD 0
    syncInc { c with sync := { c.sync with sent := dropAt c.sync.sent i } } s part

/-! ### Messages (R416 to R418, R424, R428) -/

/-- TARGET as it is read: 0 when not armed (Table 11-1). -/
def shownTarget (o : SyncObj) : Nat := if o.armed then o.target else 0

/-- SYNC_INC, SYNC_READ, SYNC_ARM and SYNC_RESET at the holding chip. A message that may not touch the object is refused and
SYN_REJECTED is logged; a frozen object answers KEY_REVOKED. DEDUCED, assumption 53 (safe). -/
def syncReq (r : Request) (m : M) : M × Ans :=
  let s := r.body.getD 0 0 % 65536
  let reject : M × Ans := (m.on (fun c => raise c .synRejected 12 s), failed .accessDenied)
  match sync? m.core s with
  | none => reject
  | some o =>
    if r.part ≠ fmPart && o.partition ≠ r.part || r.part = fmPart && r.type ≠ 0x2B then reject
    else if o.frozen then (m, failed .keyRevoked)
    else if o.poisoned then (m, failed .poisoned)
    else match r.type with
      | 0x28 => (m.on (fun c => syncInc c s o.partition), .reply {})
      | 0x29 => (m, .reply { value := BitVec.ofNat 64 o.count, detail := BitVec.ofNat 64 (shownTarget o) })
      | 0x2A =>
        let (c, a) := reqAgent m.core r
        if !o.ownerValid || o.owner ≠ a then (({ m with core := c } : M).on (fun c => raise c .synRejected 12 s), failed .accessDenied)
        else
          let d := r.body.getD 2 0
          let c := setSync c s { o with target := r.body.getD 3 0, armed := true, missed := false,
                                        deadline := if d = 0 then 0 else c.tick + d }
          ({ m with core := syncCheck c s }, .reply {})
      | _ =>
        let (c, a) := if r.part = fmPart then (m.core, o.owner) else reqAgent m.core r
        if o.owner ≠ a then (({ m with core := c } : M).on (fun c => raise c .synRejected 12 s), failed .accessDenied)
        else if o.waiters ≠ [] then ({ m with core := c }, failed .accessDenied)
        else ({ m with core := setSync c s { o with count := 0, target := 0, deadline := 0, armed := false, missed := false } },
          .reply {})

/-! ### Deadlines (R426) -/

/-- The boundary that ends tick DEADLINE finds the object ARMED and its target not reached. -/
def syncDeadline (s : Nat) (c : Core) : Core :=
  match sync? c s with
  | none => c
  | some o =>
    if o.armed && !o.frozen && !o.poisoned && !o.missed && o.deadline ≠ 0 && o.deadline < c.tick && o.count < o.target then
      let c := syncNotice (setSync c s { o with missed := true }) s 2
      raise (c.count SYN_DEADLINE_MISSED) .synDeadlineMissed 12 s
    else c

/-! ### Removal of a partition (R431) -/

/-- Every object of the partition is frozen: its waiters go, and waiting works complete KEY_REVOKED. -/
def freezeObjects (c : Core) (q : Nat) : Core :=
  c.sync.objs.foldl (fun c (s, o) =>
    if o.partition = q then
      let c := setSync c s { o with frozen := true, armed := false, missed := false, waiters := [] }
      o.waiters.foldl (fun c w => match w.who with
        | .work x n => stopWork c x n .keyRevoked
        | _ => c) c
    else c) c

/-- The removal returns the partition's objects to FREE. -/
def freeObjects (c : Core) (q : Nat) : Core :=
  { c with sync := { c.sync with objs := c.sync.objs.filter (fun o => o.2.partition != q) } }

end Sys2Proof.Machine
end

