-- ==== Sys2Proof/Machine/CohCmds.lean ====
section
/-! DEFINITION. The home of coherent windows (chapter 12): requests and answers of members, the directory, domains and their
going down. -/

namespace Sys2Proof.Machine
open Sys2Proof

/-! ### The directory (R438, R439, R448) -/

/-- Two lines share a set of one plinth. -/
def sameSet (a b : Nat) : Bool :=
  let place := fun (k : Nat) => (lineOff k / 128 % 4, (lineOff k / 512 + 4099 * lineExt k) % 131072)
  place a == place b

/-- Entries of the partition's ways in the set of line `k`. -/
def setLines (c : Core) (q k : Nat) : List (Nat × CohLine) :=
  c.coh.lines.filter (fun l => sameSet l.1 k && ((domain? c l.2.domain).any (fun x => x.partition == q)))

/-- The entry least recently granted. DESIGN CHOICE, assumption 55 (unsafe). -/
def oldestGrant : List (Nat × CohLine) → Option (Nat × CohLine)
  | [] => none
  | h :: t => match oldestGrant t with
    | none => some h
    | some b => some (if h.2.grant.getD 0 ≤ b.2.grant.getD 0 then h else b)

/-- With every way in use, the least recently granted entry that is neither BUSY nor held is recalled (R448). -/
def backInval (c : Core) (q k : Nat) : Core :=
  match oldestGrant ((setLines c q k).filter (fun l => l.2.busy.isNone && holdLeft c l.2 == 0)) with
  | none => c
  | some (v, l) => startRecall (c.perf COH_BACK_INVALS) v l .recall false

/-- Member `i` holds the line or may. -/
def holds (l : CohLine) (i : Nat) : Bool := l.owner == some i || l.sharers.contains i

/-- A removal of members goes on (R437): lines that one holds are recalled by R448 as they are not BUSY, and a member that holds
none is out of its index. -/
def removeStep (c : Core) (d : Nat) : Core :=
  match domain? c d with
  | none => c
  | some x => x.removing.foldl (fun c (i, src) =>
      let mine := (linesOf c d).filter (fun l => holds l.2 i || (txReq l.2).any (fun t => t.1 == i))
      if mine = [] then
        mgmtReply (modDomain c d (fun x => { x with members := amDel x.members i, removing := x.removing.filter (·.1 != i) })) src
          0x0154 .accepted []
      else (mine.filter (fun l => l.2.busy.isNone)).foldl (fun c l => startRecall (c.perf COH_BACK_INVALS) l.1 l.2 .recall false) c) c

/-- A transaction has ended: accesses that wait at the line go on once no hold bars them, and a removal goes on. -/
def lineDone (c : Core) (d k : Nat) : Core :=
  let free := match line? c k with | some l => l.busy.isNone && holdLeft c l == 0 | none => true
  let c := if free then wakeOn (· == .line (lineExt k) (lineOff k)) c else c
  removeStep c d

/-- A grant to a member: as owner, or among sharers (R443). -/
def grantLine (c : Core) (k : Nat) (l : CohLine) (owner : Option Nat) (sharers : List Nat) (grantee : Nat) : Core :=
  let l := { l with owner := owner, sharers := sharers, busy := none, grant := some c.glb.now, grantee := grantee,
                    resv := if (l.resv.map (·.1)) = some grantee then none else l.resv }
  lineDone (setLine c k l) l.domain k

/-! ### Requests (R442 to R448) -/

/-- Transactions that a member has open at the home. -/
def openOf (c : Core) (d i : Nat) : Nat :=
  ((linesOf c d).filter (fun l => (txReq l.2).any (fun t => t.1 == i))).length

/-- A hold bars a request that takes the line from its grantee (R446). -/
def barred (c : Core) (l : CohLine) (r : Nat) (want : Bool) : Bool :=
  0 < holdLeft c l && l.grantee != r && (want || l.owner.isSome)

/-- The line's data goes to a member and it is granted; poison takes the domain down (R454), and a word that must come from the
partner makes the member ask again. -/
def dataGrant (m : M) (k : Nat) (l : CohLine) (r tid retry : Nat) (owner : Option Nat) (sharers : List Nat) : M :=
  match readLine m k with
  | (m, none) => m.on (fun c => cohNack c l.domain r 1 tid k retry)
  | (m, some (data, bad)) =>
    if bad then m.on (fun c => cohFail (c.count ECC_POISON_READ) l.domain 3 none)
    else m.on (fun c => grantLine (cohData c l.domain r tid k data false) k l owner sharers r)

/-- The reservation of a request that has been retried often enough, and the last request of the reserved member (R447). -/
def noteRetry (c : Core) (k r retry : Nat) : Core :=
  modLine c k (fun l => match l.resv with
    | none => if c.fld COH_CTRL COH_CTRL_RESERVE_AT ≤ retry then { l with resv := some (r, c.glb.now) } else l
    | some (i, _) => if i = r then { l with resv := some (r, c.glb.now) } else l)

/-- GET_S, or GET_M when `want`, of member `r` (Table 12-4). DEDUCED, assumption 54 (unsafe). -/
def cohGet (m : M) (d : Nat) (x : Domain) (r tid retry k : Nat) (want : Bool) : M :=
  let c := noteRetry m.core k r retry
  let m := { m with core := c }
  let nack := fun (n : Nat) => m.on (fun c => cohNack c d r n tid k retry)
  if 32 ≤ openOf c d r then nack 4
  else match line? c k with
    | none =>
      if c.fld (COH_WAYS x.partition) COH_WAYS_F ≤ (setLines c x.partition k).length then
        (nack 3).on (fun c => backInval c x.partition k)
      else
        let l : CohLine := { domain := d, owner := none, sharers := [], grant := none, grantee := r, resv := none, busy := none }
        dataGrant m k l r tid retry (if want then some r else none) (if want then [] else [r])
    | some l =>
      let waits := c.coh.claims.any (fun t => t.1 == k)
      if l.busy.isSome || waits then nack 1
      else if barred c l r want || (l.resv.any (fun v => v.1 != r)) then nack 2
      else
        let l := if (l.resv.map (·.1)) = some r then { l with resv := none } else l
        let tx : CohTx := { kind := if want then .getM r tid else .getS r tid, invs := [], snooped := l.owner, putCame := false,
                            evictedCame := false, since := c.glb.now }
        match l.owner with
        | some o =>
          if o = r then m.on (fun c => cohFail c d 2 (some r))
          else m.on (fun c => cohSend (setLine (c.perf COH_FORWARDS) k { l with busy := some tx }) d o (if want then 6 else 5) 0 r
            tid k 0)
        | none =>
          let others := l.sharers.filter (· != r)
          if !want then dataGrant m k l r tid retry none (others ++ [r])
          else if others = [] then
            m.on (fun c => grantLine (cohSend c d r 11 1 0 tid k 0) k l (some r) [] r)
          else m.on (fun c => others.foldl (fun c i => cohSend c d i 7 0 r tid k 0) (setLine c k { l with busy := some { tx with invs := others } }))

/-! ### Answers (R443, R448, R449, R453) -/

/-- What a transaction becomes once its line's data is current in memory. -/
def endTx (m : M) (k : Nat) (l : CohLine) (tx : CohTx) (sendData : Bool) : M :=
  match tx.kind with
  | .getS r tid =>
    let sh := (tx.snooped.toList ++ l.sharers).filter (· != r) ++ [r]
    if sendData then dataGrant m k l r tid 0 none sh else m.on (fun c => grantLine c k l none sh r)
  | .getM r tid => if sendData then dataGrant m k l r tid 0 (some r) [] else m.on (fun c => grantLine c k l (some r) [] r)
  | .homeRead => m.on (fun c => lineDone (setLine c k { l with owner := none, sharers := tx.snooped.toList ++ l.sharers, busy := none })
      l.domain k)
  | .recall => m.on (fun c => lineDone (freeLine c k) l.domain k)
  | .homeWrite => m.on (fun c => lineDone (freeLine c k) l.domain k)

/-- A crossing has both its PUT_M and its EVICTED (R453). DATA went to the requester as the PUT_M came. -/
def crossed (m : M) (k : Nat) (l : CohLine) (tx : CohTx) : M :=
  if tx.putCame && tx.evictedCame then endTx m k l tx false else m.on (fun c => setLine c k { l with busy := some tx })

/-- PUT_M. -/
def cohPutM (m : M) (d r tid k : Nat) (data : List Byte) (bad : Bool) : M :=
  let protocol := m.on (fun c => cohFail c d 2 (some r))
  match line? m.core k with
  | none => protocol
  | some l =>
    if bad then m.on (fun c => cohFail c d 3 none)
    else match l.busy with
      | none =>
        if l.owner ≠ some r then protocol
        else (writeLine m k data false).on (fun c => lineDone (freeLine (cohSend c d r 16 1 0 tid k 0) k) d k)
      | some tx =>
        if tx.snooped ≠ some r || tx.putCame then protocol
        else
          let m := (writeLine m k data false).on (fun c => cohSend (c.perf COH_CROSSINGS) d r 16 1 0 tid k 0)
          let m := match tx.kind with
            | .getS i t => m.on (fun c => cohData c d i t k (padTo 128 0 data) false)
            | .getM i t => m.on (fun c => cohData c d i t k (padTo 128 0 data) false)
            | _ => m
          crossed m k l { tx with putCame := true }

/-- PUT_S. -/
def cohPutS (c : Core) (d r tid k : Nat) : Core :=
  let ack := fun (c : Core) => cohSend c d r 16 1 0 tid k 0
  match line? c k with
  | none => ack c
  | some l =>
    if l.busy.isSome then cohNack c d r 1 tid k 0
    else if l.sharers.contains r then
      let rest := l.sharers.filter (· != r)
      lineDone (if rest = [] then freeLine (ack c) k else setLine (ack c) k { l with sharers := rest }) d k
    else ack c

/-- FWD_ACK, or RECALL_ACK when `recalled`, of an owner. -/
def cohAck (m : M) (d r k : Nat) (data : List Byte) (bad recalled : Bool) : M :=
  let protocol := m.on (fun c => cohFail c d 2 (some r))
  match (line? m.core k).bind (fun l => l.busy.map (fun t => (l, t))) with
  | none => protocol
  | some (l, tx) =>
    let isFwd := match tx.kind with | .getS _ _ => true | .getM _ _ => true | _ => false
    let needs := match tx.kind with | .getM _ _ => false | _ => true
    if tx.snooped ≠ some r || tx.putCame || tx.evictedCame || isFwd == recalled || needs != (data != []) then protocol
    else if bad then m.on (fun c => cohFail c d 3 none)
    else endTx (if needs then writeLine m k data false else m) k l tx false

/-- INV_ACK. -/
def cohInvAck (m : M) (d r k : Nat) : M :=
  match (line? m.core k).bind (fun l => l.busy.map (fun t => (l, t))) with
  | none => m.on (fun c => cohFail c d 2 (some r))
  | some (l, tx) =>
    if !tx.invs.contains r then m.on (fun c => cohFail c d 2 (some r))
    else
      let rest := tx.invs.filter (· != r)
      if rest ≠ [] then m.on (fun c => setLine c k { l with busy := some { tx with invs := rest } })
      else match tx.kind with
        | .getM i tid =>
          if l.sharers.contains i then m.on (fun c => grantLine (cohSend c d i 11 1 0 tid k 0) k l (some i) [] i)
          else dataGrant m k l i tid 0 (some i) []
        | _ => endTx m k l tx false

/-- EVICTED. -/
def cohEvicted (m : M) (d r k : Nat) : M :=
  match (line? m.core k).bind (fun l => l.busy.map (fun t => (l, t))) with
  | none => m.on (fun c => cohFail c d 2 (some r))
  | some (l, tx) =>
    if tx.snooped ≠ some r || tx.evictedCame then m.on (fun c => cohFail c d 2 (some r))
    else crossed m k l { tx with evictedCame := true, since := m.core.glb.now }

/-! ### Messages of members (R436, R456) -/

/-- While a domain drains, PUT_M of the recorded owner, or of the requester of an open GET_M, is written; everything else is
answered NACK DOWN. -/
def cohDraining (m : M) (d r sub tid k : Nat) (data : List Byte) : M :=
  let nack := m.on (fun c => cohNack c d r 5 tid k 0)
  match line? m.core k with
  | none => nack
  | some l =>
    let asked := match l.busy.map (·.kind) with
      | some (.getM i _) => i == r
      | _ => false
    if sub = 3 && (asked || l.owner == some r) then
      (writeLine m k data false).on (fun c => setLine (cohSend c d r 16 1 0 tid k 0) k
        { l with owner := none, busy := if asked then none else l.busy })
    else nack

/-- A coherence message reaches the home: SUBTYPE 1 GET_S, 2 GET_M, 3 PUT_M, 4 PUT_S, 12 FWD_ACK, 13 RECALL_ACK, 14 INV_ACK,
15 EVICTED. One that names a domain, member and context that do not match, or a line outside the windows, is dropped and is a
protocol error of the domain (R436). `agent` is the sender, when its packet shows it. -/
def cohServe (agent : Option Nat) (ctx sub : Nat) (x : CohMsg) (m : M) : M :=
  match domain? m.core x.domain with
  | none => m
  | some v =>
    let d := x.domain
    let e := ptrExtent x.line
    let off := ptrOffset x.line
    let k := lineKey e off
    let known := fun (y : Nat × Nat) => y.2 == ctx && (match agent with | some a => y.1 == a | none => true)
    let okMember := match amGet? v.members x.member with | some y => known y | none => false
    let r := x.member
    let bad := bitOf x.arg 0
    let m := if sub = 1 ∨ sub = 2 then m.on (·.perf COH_REQUESTS) else m
    if !okMember || !(inDomain v e off && off % 128 = 0) then
      if v.st = .up then m.on (fun c => cohFail c d 2 ((v.members.find? (fun y => known y.2)).map (·.1))) else m
    else match v.st with
      | .up => match sub with
        | 1 => cohGet m d v r x.tid x.arg k false
        | 2 => cohGet m d v r x.tid x.arg k true
        | 3 => cohPutM m d r x.tid k x.data bad
        | 4 => m.on (fun c => cohPutS c d r x.tid k)
        | 12 => cohAck m d r k x.data bad false
        | 13 => cohAck m d r k x.data bad true
        | 14 => cohInvAck m d r k
        | _ => cohEvicted m d r k
      | .draining => cohDraining m d r sub x.tid k x.data
      | .down => m.on (fun c => cohNack c d r 5 x.tid k 0)

/-- The message's class (Table 12-3): requests, or what completes a transaction. -/
def cohClass (sub : Nat) : Nat := if sub ≤ 4 then 0 else 1

def cohBody (sub : Nat) (x : CohMsg) : List Nat := [x.line.toNat, sub, x.domain, x.member, x.arg, x.tid]
def cohOfBody (b : List Nat) (data : List Byte) : CohMsg :=
  { domain := b.getD 2 0, member := b.getD 3 0, arg := b.getD 4 0, tid := b.getD 5 0, line := BitVec.ofNat 64 (b.getD 0 0), data := data }

/-- A coherence message arrives: it is served here, or forwarded to its home chip under an op tag (R31, R436).
DEDUCED, assumption 54 (unsafe). -/
def cohRx (sub : Nat) (p : Pkt) (x : CohMsg) (m : M) : M :=
  if !inService m.core then m
  else match landPkt m.core { p with cls := cohClass sub } with
    | (c, none) => { m with core := c }
    | (c, some s) =>
      -- what stalls without an op tag (R484) is not this message, whose packet is released
      let c := if p.cls = 0 && tagsFull c then releaseCr c s 0 (pktCost (datagram p.len p.enc)) p.retx true else c
      if servedHere c (ptrChip x.line) then cohServe (some (p.srcEp % 65536)) p.ctx sub x { m with core := c }
      else if noRoute c (ptrChip x.line) then { m with core := c }
      else match newTag c with
        | (c, some t) => { m with core := forward c (ptrChip x.line) t (ctxPart c p.ctx) p.ctx 0x40 (cohBody sub x) x.data false 7 (s, p.xid, 0) }
        | (c, none) => { m with core := c }

/-! ### Times -/

/-- The pool pointer of a line as its key. -/
def lineOf (p : W64) : Nat := lineKey (ptrExtent p) (ptrOffset p)

/-- A reserved member has sent no request for 16 holds (R447). -/
def reservationExpiry (line : W64) (time : Nat) (c : Core) : Core :=
  let c := c.at time
  modLine c (lineOf line) (fun l => match l.resv with
    | some (_, t) => if t + 16 * c.fld COH_TIMING0 COH_TIMING0_HOLD_NS ≤ c.glb.now then { l with resv := none } else l
    | none => l)

/-- The hold after a grant ends (R446, R450). -/
def holdExpiry (line : W64) (time : Nat) (c : Core) : Core :=
  let c := c.at time
  let k := lineOf line
  match line? c k with
  | some l => if holdLeft c l = 0 && l.busy.isNone then wakeOn (· == .line (lineExt k) (lineOff k)) c else c
  | none => wakeOn (· == .line (lineExt k) (lineOff k)) c

/-- No answer within the timeout (R454): the silent member is the dead one. -/
def cohTimeout (line : W64) (time : Nat) (c : Core) : Core :=
  let c := c.at time
  match line? c (lineOf line) with
  | none => c
  | some l => match l.busy with
    | none => c
    | some tx =>
      if c.glb.now < tx.since + c.fld COH_TIMING1 COH_TIMING1_TIMEOUT_US * 1000 || (domain? c l.domain).any (fun x => x.st != .up) then c
      else cohFail c l.domain 1 (if tx.snooped.isSome then tx.snooped else tx.invs.head?)

/-! ### Domains (R433 to R437, R459, R460) -/

def windowsOverlap (a b : Nat × Nat × Nat) : Bool := a.1 == b.1 && a.2.1 < b.2.1 + b.2.2 && b.2.1 < a.2.1 + a.2.2

def pairwiseOverlap : List (Nat × Nat × Nat) → Bool
  | [] => false
  | w :: t => t.any (windowsOverlap w) || pairwiseOverlap t

/-- A member's context is ACTIVE in the partition and its agent owns it. -/
def memberOk (c : Core) (q : Nat) (y : Nat × Nat) : Bool :=
  y.2 < 4096 && ctxState c y.2 == stActive && ctxPart c y.2 == q && ctxOwner c y.2 == y.1

/-- Frames under windows, by extent, that have no place in memory yet: untouched or compressed. -/
def bareFrames (c : Core) (ws : List (Nat × Nat × Nat)) : List (Nat × Nat) :=
  ws.flatMap (fun w => match ext? c w.1 with
    | some x => (framesTouched x w.2.1 w.2.2).filterMap (fun i => if (frameOf x i).loc.isNone then some (w.1, i) else none)
    | none => [])

/-- Bytes of the windows of all domains but `d`. -/
def windowTotal (c : Core) (d : Nat) : Nat :=
  sumNat (c.coh.domains.map (fun x => if x.1 = d then 0 else sumNat (x.2.windows.map (·.2.2))))

/-- A bare frame is backed, or restored when compressed; every frame of a window is RESIDENT without the COLD hint (R435). -/
def backWindow (m : M) (e i : Nat) : M :=
  match ext? m.core e with
  | none => m
  | some x =>
    let f := frameOf x i
    match poolTake m.core x.partition x.cls x.large with
    | none => m
    | some (l, c) =>
      let m := unpackInto { m with core := c } x.partition l f.packed
      m.on (fun c => wakeOn (fun k => atFrame e i k || atBacking e i k) (dropCached (modFrame c e i (fun f =>
        { f with st := .resident, loc := some l, cold := false, packed := [], chunks := 0 })) e i))

/-- ZERO_POISON (R460): zeros go into every poisoned line of a window. -/
def zeroPoison (m : M) (w : Nat × Nat × Nat) : M :=
  (List.range (w.2.2 / 128)).foldl (fun m i =>
    let k := lineKey w.1 (w.2.1 + 128 * i)
    match readLine m k with
    | (m, some (_, true)) => writeLine m k (List.replicate 128 0) false
    | (m, _) => m) m

/-- The partition's pool holds a place for each of the frames, by the class of its extent. -/
def poolHolds (c : Core) (q : Nat) : List (Nat × Nat) → Bool
  | [] => true
  | (e, _) :: t => match (ext? c e).bind (fun x => poolTake c q x.cls x.large) with
    | some (_, c) => poolHolds c q t
    | none => false

/-- What COH_DOMAIN_CREATE checks, in order, with the refusal of each. -/
def createChecks (c : Core) (b : DomainDef) : List (Bool × MgmtCode) :=
  let inside := fun (w : Nat × Nat × Nat) => match ext? c w.1 with
    | some x => w.2.1 + w.2.2 ≤ extBytes x && x.partition == b.partition && !x.large
    | none => false
  let bare := bareFrames c b.windows
  let fits := b.windows.all (fun w => match ext? c w.1 with
    | some x => backedFrames x + (bare.filter (fun t => t.1 == w.1 && (frameOf x t.2).st == .unbacked)).length ≤ x.quota
    | none => false)
  [ (b.domain < 256 && b.partition < 16 && 1 ≤ b.members.length && b.members.length ≤ 64 && 1 ≤ b.windows.length &&
      b.windows.length ≤ 16 && b.windows.all (fun w => w.2.1 % 2 ^ 21 == 0 && w.2.2 % 2 ^ 21 == 0 && w.2.2 != 0), .badField),
    ((match domain? c b.domain with | none => true | some x => x.st == .down), .conflict),
    (partActive c b.partition, .badState),
    (b.windows.all inside, .badField),
    (b.windows.all (fun w => (ext? c w.1).any (fun x => x.st == .active && x.migrateTo.isNone)), .badState),
    (!pairwiseOverlap b.windows && b.windows.all (fun w => c.coh.domains.all (fun x => x.1 == b.domain ||
      !x.2.windows.any (windowsOverlap w))), .conflict),
    (windowTotal c b.domain + sumNat (b.windows.map (·.2.2)) ≤ 2 ^ 34, .noResource),
    (fits && poolHolds c b.partition bare, .noResource),
    (b.members.all (memberOk c b.partition), .badState)]

/-- The frames of a domain's windows are RESIDENT without the COLD hint, and poisoned lines are cleared when asked (R435, R460). -/
def readyWindows (b : DomainDef) (m : M) : M :=
  let m := (bareFrames m.core b.windows).foldl (fun m t => backWindow m t.1 t.2) m
  let m := m.on (fun c => b.windows.foldl (fun c w => match ext? c w.1 with
    | some x => (framesTouched x w.2.1 w.2.2).foldl (fun c i => modFrame c w.1 i (fun f => { f with cold := false, compressing := false })) c
    | none => c) c)
  if b.zeroPoison then b.windows.foldl zeroPoison m else m

/-- COH_DOMAIN_CREATE (R433 to R435, R460). Over a DOWN domain the view keeps its last DOWN (Table 12-17). -/
def domainCreate (b : DomainDef) (m : M) : Mg :=
  checked m (createChecks m.core b) (fun m =>
    let fresh : Domain := { st := .up, partition := b.partition, members := [], windows := [], cause := 0, dead := none, poisoned := 0,
                            downAt := 0, removing := [] }
    accept ((readyWindows b m).on (fun c => setDomain c b.domain {
      (domain? c b.domain).getD fresh with
      st := .up, partition := b.partition, members := b.members.zipIdx.map (fun y => (y.2, y.1)), windows := b.windows })))

/-- COH_DOMAIN_DESTROY: only in DOWN. -/
def domainDestroy (d : Nat) (m : M) : Mg :=
  if 256 ≤ d then refuse m .badField
  else match domain? m.core d with
    | some x => if x.st = .down then
        accept (m.on (fun c => { c with coh := { c.coh with domains := amDel c.coh.domains d } })) else refuse m .badState
    | none => refuse m .badState

/-- COH_DOMAIN_DOWN from the fabric manager: cause 8. -/
def domainDownReq (d : Nat) (m : M) : Mg :=
  if 256 ≤ d then refuse m .badField
  else match domain? m.core d with
    | some x => if x.st = .down then refuse m .badState else accept (m.on (fun c => cohFail c d 8 none))
    | none => refuse m .badState

/-- COH_MEMBER_ADD. -/
def memberAdd (d i agent ctx : Nat) (m : M) : Mg :=
  if 256 ≤ d || 64 ≤ i then refuse m .badField
  else match domain? m.core d with
    | none => refuse m .badState
    | some x => checked m [(x.st == .up, .badState), ((amGet? x.members i).isNone, .conflict), (memberOk m.core x.partition (agent, ctx), .badState)]
        (fun m => accept (m.on (fun c => modDomain c d (fun x => { x with members := amSet x.members i (agent, ctx) }))))

/-- COH_MEMBER_REMOVE: answered once every line that the member holds is recalled. -/
def memberRemove (d i : Nat) (src : Src) (m : M) : MgLater :=
  if !srcFm src then now (refuse m .notPermitted)
  else if 256 ≤ d || 64 ≤ i then now (refuse m .badField)
  else match domain? m.core d with
    | none => now (refuse m .badState)
    | some x =>
      if x.st ≠ .up || (amGet? x.members i).isNone || x.removing.any (fun r => r.1 == i) then now (refuse m .badState)
      else (m.on (fun c => removeStep (modDomain c d (fun x => { x with removing := x.removing ++ [(i, src)] })) d), none)

end Sys2Proof.Machine
end

