-- ==== Sys2Proof/Machine/Route.lean ====
section
/-! DEFINITION. EXPERT_ROUTE: choosing experts and gates (R321 to R326), tick batches at the holding chip (R327 to R330), and
combining at the routing chip (R331 to R334, R338, R339). -/

namespace Sys2Proof.Machine
open Sys2Proof

/-! ### Answers at the routing chip -/

def assignDecided (a : Assign) : Bool := !a.out

/-- The item, row and record of a token whose assignments are all decided (R325, R331). -/
def finishToken (c : Core) (w : Work) (tok : Nat) : Core :=
  match (work? c w.ctx w.num).bind (fun w => amGet? w.route tok), fmtWord? (w.field 0x10 4) with
  | some r, some o =>
    let d := w.field 8 4
    let renorm := bitOf (w.field 7 1) 1
    let kept := fun (a : Assign) => a.st == .computed || a.st == .agent
    let gates := (r.assigns.filter (fun a => a.st ≠ .none_)).map (fun a => decodeFp32 a.gate)
    let (c, d1) := c.drawN (2 * (gates.length + 1))
    let (c, d2) := c.drawN (2 * (gates.length + 1))
    let t := sumTerms d1 gates
    let rr := sumTerms d2 ((r.assigns.filter kept).map (fun a => decodeFp32 a.gate))
    let rescale := fun (v : FVal) => if rr.isZero then mulFp32 v FVal.zero else divFp32 (mulFp32 v t) rr
    let adjust := fun (a : Assign) =>
      if kept a then (if renorm then
          { a with gate := fp32Bits (if rr.isZero then FVal.zero else rescale (decodeFp32 a.gate)) } else a)
      else { a with gate := 0 }
    let rows := r.combine.map (fun x => if renorm then
      x.2.map (fun v => if rr.isZero then FVal.zero else rescale v) else x.2)
    let (c, d3) := c.drawN (2 * d * (rows.length + 1))
    let vals := if rows = [] then List.replicate d FVal.zero else sumRows d3 d rows
    let (c, b) := outRow c w o vals
    let c := agentWrite c w.ctx w.num (w.ptr 0x30 + BitVec.ofNat 64 (tok * rowStride o.fmt d)) b
    let code := if rows ≠ [] || r.assigns.any (fun a => a.st == .agent) then 1 else 3
    let c := setItem c w.ctx w.num tok code
    let c := modTok c w tok (fun r => { r with assigns := r.assigns.map adjust, combine := [], done := true })
    if code = 1 then addCount c w 1 else c
  | _, _ => c

/-- Steps of routing that a work has. -/
def routeSteps (w : Work) : Nat := (w.field 0 4 + 63) / 64

/-- The route completes once every token is decided (R333). -/
def routeCheckEnd (c : Core) (ctx num : Nat) : Core :=
  match work? c ctx num with
  | some w => if liveWork w && w.started && routeSteps w ≤ w.step && w.route.all (fun r => r.2.done) then endWork c ctx num else c
  | none => c

/-- What the holding chip answers for an entry. -/
inductive EntryAns where
  | values (y : List FVal) (flags : Flags)
  | dropped
  | failed (s : Status)
deriving DecidableEq, Repr

/-- The answer for an entry reaches its token's combine slot, once (R331, R338). One that comes when the entry is no longer
awaited is discarded. -/
def contribute (c : Core) (ctx num tok slot : Nat) (ans : EntryAns) : Core :=
  match work? c ctx num with
  | none => c
  | some w =>
    match amGet? w.route tok with
    | none => c
    | some r =>
      if !liveWork w || w.opcode ≠ 0x10 || r.done || !((r.assigns[slot]?).map (·.out)).getD false then c
      else
        let set := fun (c : Core) (st : AssignSt) (more : List (Nat × List FVal)) => modTok c w tok (fun r =>
          { r with assigns := listMod r.assigns slot (fun a => { a with st := st, out := false }), combine := r.combine ++ more })
        let c := match ans with
          | .values y fl => addFlags (set c .computed [(slot, y)]) ctx num fl
          | .dropped => set c .dropped []
          | .failed s =>
            let c := noteFail (set c .failed []) ctx num s 0
            -- keys destroyed at the holding chip stop the route (Table 8-11)
            if s = .keyRevoked then stopWork c ctx num s else c
        let all := ((work? c ctx num).bind (fun w => amGet? w.route tok)).map (fun r => r.assigns.all assignDecided)
        let c := if all = some true then finishToken c w tok else c
        routeCheckEnd c ctx num

/-! ### Acceptance at the holding chip (R328, R329) -/

/-- The partition's batches of tick t and image, and whether the batch buffer of its plinth has room. -/
def batchRoom (c : Core) (e : BatchEnt) (image : W64) : Bool :=
  let p := ptrExtent image % 4
  let used := sumNat (c.work.batches.map (fun b => if ptrExtent b.image % 4 = p then sumNat (b.ents.map entBytes) else 0))
  used + entBytes e ≤ 64 * 1048576 && waysRoom c e.part p (entBytes e)

/-- CAPACITY as read at an acceptance, after the check of R81; a failure gives the answer. -/
def entryCapacity (m : M) (part : Nat) (image : W64) : M × Res Nat :=
  andThen (localRead m (ptrExtent image % 4) part image 256) (fun m (b, bad) =>
    if bad.any id then (m, .fail .poisoned image) else (m, .ok (leNat ((b.drop 0x10).take 4))))

/-- An entry is offered to B(I, t) of the running tick: accepted, or answered at once, or waiting for the image. -/
def offerEntry (m : M) (image : W64) (e : BatchEnt) : M × Res (Option EntryAns) :=
  match entryCapacity m e.part image with
  | (m, .park k) => (m, .park k)
  | (m, .fail s _) => (m, .ok (some (.failed s)))
  | (m, .ok cap) =>
    let c := m.core
    let mine := fun (b : Batch) => b.image == image && b.tick == c.tick
    let old := (c.work.batches.find? mine).getD { image := image, tick := c.tick, ents := [], fullLogged := false, hdr := none }
    let put := fun (c : Core) (b : Batch) =>
      { c with work := { c.work with batches := (c.work.batches.filter (fun x => !mine x)) ++ [b] } }
    if cap ≤ old.ents.length || !batchRoom c e image then
      let c := if old.fullLogged then c else raise c .expertBatchFull 10 (ptrExtent image)
      ({ m with core := put c { old with fullLogged := true } }, .ok (some .dropped))
    else ({ m with core := put c { old with ents := old.ents ++ [e] } }, .ok none)

/-! ### Choosing experts and gates (R322 to R324) -/

/-- An expert map entry: image, AGENT, DISABLED, and whether it keeps R322. -/
structure MapEnt where
  image : W64
  agent : Bool
  disabled : Bool
  ok : Bool
deriving DecidableEq, Repr

def mapEnt (b : List Byte) : MapEnt :=
  let image := BitVec.ofNat 64 (leNat (b.take 8))
  let fl := (b.getD 8 0).toNat
  { image := image, agent := bitOf fl 0, disabled := bitOf fl 1,
    ok := bitsOf fl 7 2 == 0 && (b.drop 9).all (· == 0) && (!bitOf fl 0 || image == 0) }

/-- Qualifying experts with their logits, best first: greater logit, then lower number (R323). -/
def rankInsert (x : Nat × FVal) : List (Nat × FVal) → List (Nat × FVal)
  | [] => [x]
  | y :: t => if y.2.lt x.2 then x :: y :: t else y :: rankInsert x t

def rankExperts (map : List MapEnt) (logits : List FVal) : List (Nat × FVal) :=
  ((map.zip logits).zipIdx.filter (fun x => !x.1.1.disabled && x.1.2 ≠ .nan)).foldl (fun l x => rankInsert (x.2, x.1.2) l) []

/-- The softmax gate of logit `l` in a set, within its bound (R324). With every logit at −∞ the spec states no gate: it is
free. -/
def softmaxGate (d : Nat) (set : List FVal) (l : FVal) : FVal :=
  let isTop := fun (v : FVal) => match v with | .inf n _ => !n | _ => false
  let j := (set.filter isTop).length
  if j ≠ 0 then (if isTop l then pickNear d 21 (divP fOne (FVal.ofInt j)) else FVal.zero)
  else
    let top := set.foldl FVal.maxR (.inf true false)
    match top with
    | .fin _ _ _ =>
      let e := fun (v : FVal) => if v.isFin then expP (v.sub top) else FVal.zero
      pickNear d 21 (divP (e l) (set.foldl (fun a v => addP a (e v)) FVal.zero))
    | _ => decodeFp32 ((Config.freeWord d).toNat % 2 ^ 32)

/-- The selected experts of a token with their gates: mode 0 SOFTMAX_TOPK, 1 SOFTMAX_ALL, 2 LOGIT. -/
def chooseGates (d mode k : Nat) (ranked : List (Nat × FVal)) : List (Nat × FVal) :=
  let sel := ranked.take k
  let set := (if mode = 1 then ranked else sel).map (·.2)
  sel.zipIdx.map (fun (x, i) => (x.1, if mode = 2 then toFp32 x.2 else softmaxGate (d + i) set x.2))

/-! ### The work -/

/-- DEDUCED, assumption 44 (unsafe). -/
def routeCheck (m : M) (w : Work) : M × Res Unit :=
  let c := m.core
  let ntok := w.field 0 4
  let nexp := w.field 4 2
  let k := w.field 6 1
  let flags := w.field 7 1
  let d := w.field 8 4
  let inl := bitOf flags 0
  match fmtWord? (w.field 0x0C 4), fmtWord? (w.field 0x10 4) with
  | some x, some o =>
    let xs := ntok * rowStride x.fmt d
    let bad := firstFail [
      (1 ≤ ntok && ntok ≤ 65536 && 1 ≤ nexp && nexp ≤ 16384 && 1 ≤ k && k ≤ 8, .badDescriptor),
      (bitsOf flags 7 5 == 0 && bitsOf flags 3 2 ≠ 3 && w.field 0x14 1 ≤ 2 && w.zero 0x15 0x18 && w.zero 0x48 0x60, .badDescriptor),
      (d % 128 == 0 && 128 ≤ d && d ≤ 16384, .badDescriptor),
      (scalar3 x.fmt && scalar3 o.fmt, .formatUnsupported),
      (arrayOk w 160 inl (w.ptr 0x18) xs 1, .badDescriptor),
      (arrayOk w 160 inl (w.ptr 0x20) (4 * nexp * ntok) 1, .badDescriptor),
      (resOk c w.ctx (w.ptr 0x30) (ntok * rowStride o.fmt d), .badDescriptor),
      (resOk c w.ctx (w.ptr 0x38) (8 * ntok * k), .badDescriptor),
      (statusOk c w (bitOf flags 4) (w.ptr 0x40) ntok, .badDescriptor),
      (enginesOf c (ctxPart c w.ctx) ≠ [], .formatUnsupported)]
    match bad with
    | some s => (m, .fail s 0)
    | none =>
      match (arrayCheck c w inl (w.ptr 0x18) xs).map (·, w.ptr 0x18) <|>
          (arrayCheck c w inl (w.ptr 0x20) (4 * nexp * ntok)).map (·, w.ptr 0x20) <|>
          (arrayCheck c w false (w.ptr 0x28) (16 * nexp)).map (·, w.ptr 0x28) with
      | some (s, e) => (m, .fail s e)
      | none => (m, .ok ())
  | _, _ => (m, .fail .badDescriptor 0)

def routeStart (c : Core) (w : Work) : Core :=
  let c := startWork c w (bitOf (w.field 7 1) 4) (w.ptr 0x40) (w.field 0 4)
  modWork c w.ctx w.num (fun x => { x with recordAddr := some (w.ptr 0x38), perItem := w.field 6 1 })

/-- A POISONED token: a row of zero bytes, and its assignments never decided (R338). -/
def spoilToken (c : Core) (w : Work) (stride tok : Nat) (p : W64) : Core :=
  let c := noteFail (setItem c w.ctx w.num tok 2) w.ctx w.num .poisoned p
  let none_ : Assign := { expert := 0xFFFF, st := .notDone, gate := 0, out := false, sent := 0 }
  let c := modTok c w tok (fun r => { r with assigns := List.replicate (w.field 6 1) none_, poisoned := true, done := true })
  agentWrite c w.ctx w.num (w.ptr 0x30 + BitVec.ofNat 64 (tok * stride)) (List.replicate stride 0)

/-- One assignment goes out (R327): into a batch of this chip, or over the ring under its own op tag. -/
def sendEntry (w : Work) (part quant : Nat) (q : List (List Nat × Nat)) (m : M) (tok slot : Nat) (image : W64) (gate : Nat) : M :=
  let c := m.core
  let ent : BatchEnt := { fromChip := c.chipId, ctx := w.ctx, work := w.num, tok := tok, slot := slot, tag := 0, part := part,
                          quant := quant, elems := q.flatMap (·.1), scales := q.map (·.2), gate := gate }
  if servedHere c (ptrChip image) then
    match offerEntry m image ent with
    | (m, .ok none) => m
    | (m, .ok (some a)) => m.on (fun c => contribute c w.ctx w.num tok slot a)
    | (m, .fail s _) => m.on (fun c => contribute c w.ctx w.num tok slot (.failed s))
    | (m, .park _) => m
  else if noRoute c (ptrChip image) then m.on (fun c => contribute c w.ctx w.num tok slot (.failed .linkLost))
  else match newTag c with
    | (c, none) => { m with core := contribute c w.ctx w.num tok slot (.failed .linkLost) }
    | (c, some tag) =>
      let c := modTok c w tok (fun r => { r with assigns := listMod r.assigns slot (fun a => { a with sent := tag }) })
      let bytes := padTo (quantBytes quant ent.elems.length) 0 (packElems (quantFmt quant) ent.elems ++
        ent.scales.flatMap (natLe (scaleBytes (quantFmt quant))))
      let c := forward c (ptrChip image) tag part w.ctx 0x100 [image.toNat, w.num, tok, slot, quant, gate] bytes false 3
        (w.ctx, w.num, tok * 8 + slot)
      { m with core := c }

/-- Tags that a step's entries for other chips need. -/
def tagsFree (c : Core) : Nat := 65536 - c.work.tags.length

/-- A token's plan: its number, blocks of x̃, and its chosen experts with gates and entries of the map. -/
structure TokPlan where
  tok : Nat
  blocks : List (List Nat × Nat)
  picks : List (Nat × FVal × MapEnt)
deriving DecidableEq, Repr

/-- What the entries of a step for this chip wait for, looked at before any is sent. -/
def entriesWait (m : M) (part : Nat) (images : List W64) : M × Option ParkCause :=
  images.foldl (fun (m, k) i => match k with
    | some _ => (m, k)
    | none =>
      if !servedHere m.core (ptrChip i) then (m, none)
      else match entryCapacity m part i with
        | (m, .park k) => (m, some k)
        | (m, _) => (m, none)) (m, none)

/-- One token is routed: its slot is taken, its entries go out, and it is decided at once when it has none. -/
def routeToken (w : Work) (part quant k : Nat) (m : M) (t : TokPlan) : M :=
  let nonfin := (t.picks.filter (fun x => !x.2.1.isFin)).length
  let mk := fun (x : Nat × FVal × MapEnt) =>
    let own := x.2.2.agent && x.2.2.ok
    ({ expert := x.1, st := if own then .agent else .notDone, gate := fp32Bits x.2.1, out := !own, sent := 0 } : Assign)
  let none_ : Assign := { expert := 0xFFFF, st := .none_, gate := 0, out := false, sent := 0 }
  let assigns := padTo k none_ (t.picks.map mk)
  let m := m.on (fun c =>
    let c := if nonfin = 0 then c else addFlags c w.ctx w.num { nonfin := nonfin }
    modTok c w t.tok (fun r => { r with assigns := assigns }))
  let m := t.picks.zipIdx.foldl (fun m (x, i) =>
    if !x.2.2.ok then m.on (fun c => contribute c w.ctx w.num t.tok i (.failed .badDescriptor))
    else if x.2.2.agent then m
    else sendEntry w part quant t.blocks m t.tok i x.2.2.image (fp32Bits x.2.1)) m
  if assigns.all assignDecided then m.on (fun c => finishToken c w t.tok) else m

/-- A routing step: up to 64 tokens (R327). -/
def routeStep (m : M) (w : Work) : M × Res Unit :=
  let ntok := w.field 0 4
  let nexp := w.field 4 2
  let k := w.field 6 1
  let flags := w.field 7 1
  let d := w.field 8 4
  let inl := bitOf flags 0
  let quant := w.field 0x14 1
  let part := ctxPart m.core w.ctx
  let lo := 64 * w.step
  let toks := (List.range (min 64 (ntok - lo))).map (lo + ·)
  match fmtWord? (w.field 0x0C 4), fmtWord? (w.field 0x10 4) with
  | some xf, some o =>
    andThen (poolRead m w (w.ptr 0x28) (16 * nexp)) (fun m (mb, mbad) =>
      andThen (forEach (fun m (acc : List (Nat × List FVal × FirstBad × List FVal × FirstBad)) t =>
          andThen (tokenRow m w inl (w.ptr 0x18) xf.fmt d t) (fun m (x, xb) =>
            andThen (arrayReadMarked m w inl (w.ptr 0x20) (4 * nexp * t) (4 * nexp)) (fun m (lb, lbad) =>
              let lp := if lbad.any id then some (w.ptr 0x20 + BitVec.ofNat 64 (4 * nexp * t)) else none
              (m, .ok (acc ++ [(t, x, xb, (getElems .fp32 lb nexp).map decodeFp32, lp)]))))) m [] toks) (fun m rows =>
        let map := (List.range nexp).map (fun e => mapEnt ((mb.drop (16 * e)).take 16))
        let mapBad := if mbad.any id then some (w.ptr 0x28) else none
        let (c, plans) := rows.foldl (fun (c, (l : List (Nat × (FirstBad × TokPlan)))) (t, _x, xb, lg, lb) =>
          let fb := orBad xb (orBad lb mapBad)
          let (c, dr) := c.drawN k
          let picks := (chooseGates dr (bitsOf flags 3 2) k (rankExperts map lg)).map (fun (e, g) =>
            (e, g, map.getD e { image := 0, agent := false, disabled := false, ok := false }))
          (c, l ++ [(t, fb, { tok := t, blocks := [], picks := if fb.isSome then [] else picks })])) (m.core, [])
        let m := { m with core := c }
        let outs := plans.flatMap (fun p => (p.2.2.picks.filter (fun x => !x.2.2.agent && x.2.2.ok)).map (fun x => x.2.2.image))
        match entriesWait m part (distinctOf outs) with
        | (m, some c) => (m, .park c)
        | (m, none) =>
          let go := fun (m : M) (p : Nat × (FirstBad × TokPlan)) (x : List FVal) =>
            match p.2.1 with
            | some b => m.on (fun c => spoilToken c w (rowStride o.fmt d) p.1 b)
            | none =>
              let (c, bs, fl) := quantise m.core quant x
              routeToken w part quant k { m with core := addFlags c w.ctx w.num fl } { p.2.2 with blocks := bs }
          ((plans.zip rows).foldl (fun m (p, r) => go m p r.2.1) m, .ok ())))
  | _, _ => (m, .fail .badDescriptor 0)

/-- Free combine slots for a step's tokens (R327, R623), and an op tag for each entry that may leave the chip. -/
def routeMayStep (c : Core) (w : Work) : Bool :=
  let n := min 64 (w.field 0 4 - 64 * w.step)
  let need := n * w.field 8 4 * 4
  let q := ctxPart c w.ctx
  let p := w.ctx % 4
  combineUsed c q p + need ≤ 32 * 1048576 && waysRoom c q p need && n * w.field 6 1 ≤ tagsFree c

/-- EXPERT_ROUTE: it is checked and starts; a command then routes one group of tokens. With every token routed, the work
holds neither thread nor step and waits for its answers. -/
def routeWork (ctx num : Nat) (m : M) : M :=
  match work? m.core ctx num with
  | none => m
  | some w =>
    if w.opcode ≠ 0x10 ∨ !active w then m
    else
      let go := fun (m : M) =>
        match work? m.core ctx num with
        | none => m
        | some w =>
          if routeSteps w ≤ w.step ∨ !routeMayStep m.core w then m
          else
            let m := underTag w.tag (fun m => applyStep m (routeStep m w) ctx num (fun c => stepDone c ctx num)) m
            m.on (fun c => match work? c ctx num with
              | some w => if active w && routeSteps w ≤ w.step then
                  routeCheckEnd (modWork c ctx num (fun w => { w with phase := .parked .engine })) ctx num else c
              | none => c)
      if w.started then go m
      else match routeCheck m w with
        | (m, .ok _) => go (m.on (fun c => routeStart c w))
        | (m, .park k) => m.on (fun c => parkWork c ctx num k)
        | (m, .fail s d) => m.on (fun c => stopWork c ctx num s d)

/-! ### Batches at the holding chip (R330) -/

/-- The answer of an entry goes to its token, or to its routing chip as a FORWARD_REPLY. -/
def answerEntry (c : Core) (e : BatchEnt) (a : EntryAns) : Core :=
  if e.fromChip = c.chipId then contribute c e.ctx e.work e.tok e.slot a
  else
    match (routeTo c e.fromChip).bind Route.prefer with
    | none => match e.own with | some t => dropTag c t | none => c
    | some dir =>
      let (code, data, fl) := match a with
        | .values y fl => (0, y.flatMap (fun v => natLe 4 (fp32Bits v)), fl)
        | .dropped => (1, [], ({} : Flags))
        | .failed s => (2 + statusCode s, [], {})
      c.send { dst := .dir dir, type := 0x75, cls := 1, ctx := 0xFFFF,
               body := [e.fromChip, e.tag, e.part, code, fl.sat, fl.nonfin], data := data, work := none, tag := e.own }

/-- A late batch of the partition goes ahead of the batches of the tick (R330). -/
def batchTurn (c : Core) (b : Batch) : Bool :=
  c.work.batches.all (fun x => x.ents == [] || batchPart x ≠ batchPart b || b.tick ≤ x.tick)

/-- A token group: up to 32 entries of one QUANT from the front. -/
def tokenGroup (b : Batch) : List BatchEnt :=
  match b.ents with
  | [] => []
  | e :: _ => (b.ents.filter (fun x => x.quant == e.quant)).take 32

/-- Entries are answered and leave the batch; an empty batch is gone. -/
def takeEntries (c : Core) (b : Batch) (es : List BatchEnt) : Core :=
  let bs := c.work.batches.map (fun x =>
    if x.image = b.image ∧ x.tick = b.tick then { x with ents := x.ents.filter (fun e => !es.contains e) } else x)
  { c with work := { c.work with batches := bs.filter (fun x => x.ents ≠ [] || x.tick == c.tick) } }

def blocksOf (quant : Nat) (e : BatchEnt) : List (List Nat × Nat) :=
  (chunks32 e.elems).zipIdx.map (fun (x, i) => (x, if isBlock (quantFmt quant) then e.scales.getD i 0 else 0))

/-- The estimate of a batch's next token group, which fits within the expert share. -/
def groupEst (c : Core) (b : Batch) : Nat :=
  1 + Config.groupNs b.image.toNat b.tick b.ents.length % max 1 (expertShare c)

/-- A token group may start: it fits what is left of the tick's expert share, or no context of the partition has a slice ready for
the time (R56, R248, R330). DEDUCED, assumption 40 (safe). -/
def shareLeft (c : Core) (b : Batch) : Bool :=
  let q := batchPart b
  c.work.ctx.all (fun e => ctxPart c e.1 ≠ q || (headSlice c e.1).isNone) || expertUsed c q + groupEst c b ≤ expertShare c

def setBatch (c : Core) (image : W64) (t : Nat) (f : Batch → Batch) : Core :=
  { c with work := { c.work with batches := c.work.batches.map (fun x => if x.image = image ∧ x.tick = t then f x else x) } }

/-- A token group of batch `b` starts: the time it takes counts against the share. -/
def chargeBatch (c : Core) (b : Batch) : Core :=
  let q := batchPart b
  { c with work := { c.work with batchNs := amSet c.work.batchNs q (expertUsed c q + groupEst c b) } }

/-- EXPERT_BATCH_START: the next token group of B(I, t) is computed on a free engine of its partition, from tick t + 1 on, within
the expert share. A group that parked runs its step again (R357). -/
def batchStart (image : W64) (t : Nat) (m : M) : M :=
  match m.core.work.batches.find? (fun b => b.image == image && b.tick == t) with
  | none => m
  | some b =>
    let es := tokenGroup b
    let part := batchPart b
    if es = [] ∨ m.core.tick ≤ t ∨ !batchTurn m.core b ∨ !shareLeft m.core b then m
    else
      let failAll := fun (c : Core) (s : Status) => es.foldl (fun c e => answerEntry c e (.failed s)) (takeEntries c b es)
      if enginesOf m.core part = [] then
        m.on (fun c => b.ents.foldl (fun c e => answerEntry c e (.failed .formatUnsupported)) (takeEntries c b b.ents))
      else match (enginesOf m.core part).filter (engineFree m.core) with
        | [] => m
        | ens =>
          let (c, i) := m.core.choose ens.length
          let n := ens.getD i 0
          let c := if b.parked then c.perf (stackReg CE_STEPS_REDONE n) else c
          let m := { m with core := setBatch (chargeBatch c b) image t (fun x => { x with parked := false }) }
          let p := ptrExtent image % 4
          match ptrCheck m.core part image 256 true false with
          | some s => m.on (fun c => failAll c s)
          | none =>
            -- the header as the batch's first step reads it
            match (match b.hdr with | some h => (m, Res.ok (h, ([] : List Bool))) | none => localRead m p part image 256) with
            | (m, .park _) => m.on (fun c => setBatch c image t (fun x => { x with parked := true }))
            | (m, .fail s _) => m.on (fun c => failAll c s)
            | (m, .ok (hb, hbad)) =>
              let m := m.on (fun c => setBatch c image t (fun x => { x with hdr := some hb }))
              if hbad.any id then m.on (fun c => failAll c .poisoned)
              else match parseImage m.core image hb with
                | none => m.on (fun c => failAll c .badDescriptor)
                | some ih =>
                  let right := es.filter (fun e => e.elems.length == ih.d)
                  let wrong := es.filter (fun e => e.elems.length ≠ ih.d)
                  let quant := ((es.head?).map (·.quant)).getD 0
                  let m := m.on (fun c => setEng c n { freshEngine with errTicks := (eng c n).errTicks })
                  match feedForward m n p part ih quant (right.map (blocksOf quant)) with
                  | (m, .park _) => m.on (fun c => setBatch (endStepStore c n) image t (fun x => { x with parked := true }))
                  | (m, .fail s _) => m.on (fun c => failAll (endStepStore c n) s)
                  | (m, .ok (ys, _)) => m.on (fun c =>
                    let fenced := bitOf (c.fld GLB_FENCED GLB_FENCED_ENGINES) n
                    let c := takeEntries c b es
                    let c := wrong.foldl (fun c e => answerEntry c e (.failed .badDescriptor)) c
                    (right.zip ys).foldl (fun c (e, y) => answerEntry c e
                      (if fenced then .failed .internalFault
                       else if y.poison then .failed .poisoned
                       else .values (y.vals.map (mulFp32 (decodeFp32 e.gate))) y.flags)) c)

/-- R330 at a boundary: a batch that has not ended at the end of tick t + 1, or of a later one, is late: one event for its image. -/
def lateBatches (c : Core) : Core :=
  let late := (c.work.batches.filter (fun b => b.ents ≠ [] && b.tick + 2 ≤ c.tick)).map (·.image)
  (distinctOf late).foldl (fun c i => raise c .expertBatchLate 10 (ptrExtent i)) c

/-! ### Entries sent to other chips -/

/-- EXPERT_CONTRIBUTION: an answer under an entry's op tag (R331). One that comes late is discarded (R332).
DEDUCED, assumption 52 (unsafe). -/
def contribution (tag : Nat) (ans : EntryAns) (c : Core) : Core :=
  match c.ring.fwds.find? (fun f => f.tag == tag && f.kind == 3) with
  | none => c
  | some f =>
    let c := dropTag { c with ring := { c.ring with fwds := c.ring.fwds.filter (fun g => g.tag ≠ tag) } } tag
    contribute c f.who.1 f.who.2.1 (f.who.2.2 / 8) (f.who.2.2 % 8) ans

/-- EXPERT_ENTRY_TIMEOUT: no answer by the end of tick s + 3 (R332). DEDUCED, assumption 63 (safe). -/
def entryTimeout (tag : Nat) (c : Core) : Core :=
  match c.ring.fwds.find? (fun f => f.tag == tag && f.kind == 3) with
  | none => c
  | some f => if c.tick ≤ f.sentTick + 3 then c else contribution tag (.failed .linkLost) c

/-- EXPERT_CANCEL at the holding chip: entries of a route whose group has not started are removed (R334). -/
def cancelEntries (chip ctx num : Nat) (c : Core) : Core :=
  let gone := c.work.batches.flatMap (fun b => b.ents.filter (fun e => e.fromChip == chip && e.ctx == ctx && e.work == num))
  let c := gone.foldl (fun c e => match e.own with | some t => dropTag c t | none => c) c
  { c with work := { c.work with batches := c.work.batches.map (fun b =>
    { b with ents := b.ents.filter (fun e => !(e.fromChip == chip && e.ctx == ctx && e.work == num)) }) } }

/-- The entry of an expert FORWARD (R328): image, work, token, slot, QUANT, gate, and x̃ as encoded blocks. -/
def entryOf (origin otag : Nat) (r : Request) : W64 × BatchEnt :=
  let b := fun i => r.body.getD i 0
  let f := quantFmt (b 4)
  let n := r.data.length
  let d := if isBlock f then n / (elemsBytes f 32 + scaleBytes f) * 32 else n * 8 / elemBits f
  let scales := if isBlock f then (List.range (d / 32)).map (fun i =>
    leNat ((r.data.drop (elemsBytes f d + i * scaleBytes f)).take (scaleBytes f))) else List.replicate ((d + 31) / 32) 0
  (BitVec.ofNat 64 (b 0), { fromChip := origin, ctx := r.ctx, work := b 1, tok := b 2, slot := b 3, tag := otag, part := r.part,
                            quant := b 4, elems := getElems f r.data d, scales := scales, gate := b 5, own := some r.tag })

/-- An entry from another chip is accepted into a batch, whose entry then holds its op tag (R95), or answered at once (R329); it waits
while its image's frame does. -/
def entryReq (r : Request) (origin otag : Nat) (m : M) : M :=
  let (image, e) := entryOf origin otag r
  match offerEntry m image e with
  | (m, .ok none) => m.on (fun c => dropReq c r.tag)
  | (m, .ok (some a)) => m.on (fun c => answerEntry (dropReq c r.tag) e a)
  | (m, .fail s _) => m.on (fun c => answerEntry (dropReq c r.tag) e (.failed s))
  | (m, .park k) => m.on (fun c => parkReq c r k)

end Sys2Proof.Machine
end

