-- ==== Sys2Proof/Machine/Serve.lean ====
section
/-! DEFINITION. Serving requests (R80, R81, R101, R487 to R490, R500, R503): reads, writes and atomics of pool memory, and the
other request messages, for sessions, queue pairs and forwarded requests. -/

namespace Sys2Proof.Machine
open Sys2Proof

/-- The plinth whose translation cache a request uses. -/
def reqPlinth (r : Request) : Nat := if r.ctx < 4096 then r.ctx % 4 else r.tag % 4

def reqPtr (r : Request) : W64 := BitVec.ofNat 64 (r.body.getD 0 0)

def isQp (r : Request) : Bool := match r.sender with | .qp _ _ => true | _ => false
def isChip (r : Request) : Bool := match r.sender with | .chip _ _ => true | _ => false

/-! ### Reads -/

/-- Bytes with those of poisoned words as zeros (R490). -/
def zeroPoisoned (off : Nat) (b : List Byte) (ps : List Bool) : List Byte :=
  b.zipIdx.map (fun x => if poisonAt off ps x.2 then 0 else x.1)

/-- READ (R490, R503). -/
def serveRead (r : Request) (m : M) : M × Ans :=
  let ptr := reqPtr r
  let len := r.body.getD 1 0
  if 2 ^ 20 < len && !isQp r then (m, failed .badDescriptor)
  else match ptrCheck m.core (reqPart m.core r (ptrExtent ptr)) ptr len true false with
    | some s => (m, failed s ptr)
    | none => match readBytes m (reqPlinth r) (ptrExtent ptr) (ptrOffset ptr) len with
      | (m, .wait k) => (m, .park k)
      | (m, .got b ps) =>
        let rep : Rep := { count := b.length, data := if isQp r then b else zeroPoisoned (ptrOffset ptr) b ps, off := ptrOffset ptr,
                           poisons := ps }
        match ps.findIdx? id with
        | none => (m, .reply rep)
        | some i => (m, .reply { rep with
            status := .poisoned, detail := BitVec.ofNat 64 (ptr.toNat / 32 * 32 + 32 * i) })

/-! ### Writes -/

/-- The rest of a write that waits for backing: an inner type of the model's own, with the pointer, whether a part met poison,
and offset and length of each segment of the data. -/
def restType : Nat := 0x111

def segments (hit : Option Nat) (ptr : W64) (l : List (Nat × List Byte)) : List Nat :=
  [ptr.toNat, (hit.map (· + 1)).getD 0] ++ l.flatMap (fun s => [s.1, s.2.length])

def cutSegments : List Nat → List Byte → List (Nat × List Byte)
  | o :: n :: t, d => (o, d.take n) :: cutSegments t (d.drop n)
  | _, _ => []

/-- The event of a write without backing that does not park. -/
def noteRest (c : Core) (k : ParkCause) : Core :=
  match k with
  | .backing e f _ => noteBacking c e f
  | _ => c

/-- WRITE, and the rest of one. An RDMA WRITE without backing fails at once, with the part made (R101). -/
def serveWrite (r : Request) (m : M) : M × Ans :=
  let ptr := reqPtr r
  let e := ptrExtent ptr
  let first := r.type != restType
  let len := if first then r.body.getD 1 0 else r.data.length
  if first && (r.data.length ≠ len || (2 ^ 20 < len && !isQp r)) then (m, failed .badDescriptor)
  else
    let segs := if first then [(ptrOffset ptr, r.data)] else cutSegments (r.body.drop 2) r.data
    let hit := if !first && r.body.getD 1 0 != 0 then some (r.body.getD 1 0 - 1) else none
    let fault := segs.findSome? (fun s => ptrCheck m.core (reqPart m.core r e) (mkPtr (ptrChip ptr) e s.1) s.2.length false true)
    match fault with
    | some s => (m, failed s ptr)
    | none =>
      let (m, x) := writeSegments m (reqPlinth r) e segs
      let hit := hit <|> x.poisonHit
      match x.wait with
      | none => (m, match hit with
        | some w => failed .poisoned (mkPtr (ptrChip ptr) e (32 * w))
        | none => .reply {})
      | some k =>
        let restPtr := match x.rest with | s :: _ => mkPtr (ptrChip ptr) e s.1 | [] => ptr
        if isBacking k && isQp r then (m.on (fun c => noteRest c k), failed .noBacking restPtr)
        else if isBacking k && m.core.fld EXT_QUOTA EXT_QUOTA_WAIT_TICKS == 0 then
          (m.on (fun c => notePark c (.request r.tag) k), failed .noBacking restPtr)
        else (m.on (fun c => modReq c r.tag (fun r => { r with
          type := restType, body := segments hit ptr x.rest, data := (x.rest.map (·.2)).flatten })), .park k)

/-! ### Atomics -/

/-- ATOMIC64 and the atomics of RoCE: OP in ARG 7:0, FORM in 15:8, RAW32 or RAW64 (R487, R500). -/
def serveAtomic (r : Request) (m : M) : M × Ans :=
  let arg := r.body.getD 2 0
  let form := arg / 256 % 256
  if 2 ≤ form || 65536 ≤ arg then (m, failed .badDescriptor)
  else match rawAtomic m (reqPlinth r) (reqPart m.core r (ptrExtent (reqPtr r))) (reqPtr r) (arg % 256) (if form = 0 then 32 else 64)
      (r.body.getD 3 0) (r.body.getD 4 0) with
    | (m, .ok old) => (m, .reply { value := BitVec.ofNat 64 old })
    | (m, .park k) => if isBacking k && isQp r then (m.on (fun c => noteRest c k), failed .noBacking (reqPtr r)) else (m, .park k)
    | (m, .fail s d) => (m, failed s d)

/-! ### Ring writes and doorbells -/

def serveDoorbell (r : Request) (m : M) : M × Ans :=
  let w : W64 := BitVec.ofNat 64 (r.body.getD 3 0)
  if 4096 ≤ r.ctx then (m, failed .accessDenied) else doorbell r.port (bitsOf w.toNat 63 62) r.ctx w m

def serveRingWrite (r : Request) (m : M) : M × Ans :=
  if 4096 ≤ r.ctx then (m, failed .accessDenied)
  else ringWrite r.port r.ctx (r.body.getD 0 0 % 2 ^ 32) (r.body.getD 1 0) (bitOf (r.body.getD 2 0) 0) r.data m

/-! ### Every request -/

/-- Types whose TARGET begins with a CHIP, and may so name another chip (R80, R418). -/
def namesChip (t : Nat) : Bool :=
  t == 0x10 || t == 0x11 || t == 0x12 || (0x28 ≤ t && t ≤ 0x2B) || t == 0x30 || t == 0x33 || t == 0x34 || t == restType

/-- Idempotent messages of Table 13-8. -/
def idemReq (t arg : Nat) : Bool :=
  t == 0x10 || t == 0x11 || t == 0x29 || t == 0x2A || t == 0x33 || (t == 0x34 && arg != 4)

/-- A request is served where its target lies: here, by the type of its message. -/
def serveHere (r : Request) (m : M) : M × Ans :=
  match r.type with
  | 0x10 => serveRead r m
  | 0x11 => serveWrite r m
  | 0x12 => serveAtomic r m
  | 0x20 => serveRingWrite r m
  | 0x21 => serveDoorbell r m
  | 0x22 => if 4096 ≤ r.ctx then (m, failed .accessDenied) else ctxQuery r.ctx m
  | 0x28 => syncReq r m
  | 0x29 => syncReq r m
  | 0x2A => syncReq r m
  | 0x2B => syncReq r m
  | 0x30 => regionDefine r m
  | 0x31 => publishReq r m
  | 0x32 => versionQuery r m
  | 0x33 => prefetchReq r m
  | 0x34 => adviseReq r m
  | 0x111 => serveWrite r m
  | _ => (m, failed .badDescriptor)

/-- The partner has passed the request on: it is passed once (R602). -/
def passedOn (c : Core) (r : Request) : Bool := match r.sender with | .chip o _ => o == partnerChip c | _ => false

/-- A request for another chip goes there under its op tag, one for the pair while this member does not serve goes to the partner once
or waits (R602, R617), and one without a route completes LINK_LOST (R523); any other is served here. -/
def serveReq (r : Request) (m : M) : M × Ans :=
  let chip := ptrChip (reqPtr r)
  if !namesChip r.type || servedHere m.core chip || (isChip r && !isPairId m.core chip) then serveHere r m
  else if pairPark m.core chip || (isPairId m.core chip && passedOn m.core r) then (m, .park .pair)
  else if noRoute m.core chip then (m, failed .linkLost)
  else
    let (kind, who) := match r.sender with
      | .session s xid => (1, (s, xid, 0))
      | .qp q psn => (2, (q, psn, 0))
      | .chip a t => (1, (a, t, 0))
    (m.on (fun c => forward c chip r.tag r.part r.ctx r.type r.body r.data (idemReq r.type (r.body.getD 2 0)) kind who), .fwd r.tag)

/-- One request that is ready is served under its op tag (R605). -/
def serveOne (tag : Nat) (m : M) : M :=
  match req? m.core tag with
  | none => m
  | some r =>
    if r.cause.isSome || r.reply.isSome then m
    else
      underTag tag (fun m => match r.type, r.sender with
        | 0x100, .chip o t =>
          if isPairId m.core (ptrChip (reqPtr r)) && !pairHolder m.core then applyAns r (m, .park .pair) else entryReq r o t m
        | _, _ =>
          let (m, a) := serveReq r m
          applyAns ((req? m.core tag).getD r) (m, a)) m

/-- A PUBLISH that waits for a recast step tries again. -/
def retryLocks (c : Core) : Core :=
  { c with net := { c.net with requests := c.net.requests.map (fun r => match r.cause with
    | some (.rowLock _ _) => if r.reply.isNone then { r with cause := none } else r
    | _ => r) } }

/-- Every ready request is served, in order of arrival. -/
def serveAll (m : M) : M :=
  let m := m.on retryLocks
  (m.core.net.requests.map (·.tag)).foldl (fun m t => serveOne t m) m

/-! ### Request messages of Table 13-8 -/

/-- Types whose message carries data of LEN bytes. -/
def dataLen (type : Nat) (f : Pfx) : Nat := if type = 0x11 || type = 0x20 then f.len else 0

/-- A request message arrives. A ring write or doorbell of a context whose producer is RDMA is dropped (R224). -/
def requestRx (type : Nat) (p : Pkt) (f : Pfx) (m : M) : M :=
  if (type = 0x20 || type = 0x21) && p.ctx < 4096 && ctxRdma m.core p.ctx && inService m.core then
    match landPkt m.core { p with cls := 0 } with
    | (c, some s) =>
      let c := if tagsFull m.core then releaseCr c s 0 (pktCost (datagram p.len p.enc)) p.retx true else c
      { m with core := raise c .ctxDoorbellRejected 7 p.ctx }
    | (c, none) => { m with core := c }
  else m.on (frieze p type (pfxBody f) (dataLen type f) f.data)

/-- An ADVISE of kind `k`. -/
def adviseRx (k : Nat) (p : Pkt) (f : Pfx) (m : M) : M := requestRx 0x34 p { f with arg := k } m

end Sys2Proof.Machine
end

