-- ==== Sys2Proof/Machine/NetCmds.lean ====
section
/-! DEFINITION. The commands that open and close sessions and queue pairs, and the RoCE packets that arrive (chapter 13). -/

namespace Sys2Proof.Machine
open Sys2Proof

/-! ### Sessions (R467, R468, R470) -/

def pathFieldsOk (p : PathDef) : Bool := p.port < 16 && p.sub < 4 && p.mac < 2 ^ 48 && p.vlan ≤ 4094 && p.ip < 2 ^ 128 && p.udp < 65536

/-- A path names no ring port, and Frieze runs on its port. -/
def pathPortOk (c : Core) (p : PathDef) : Bool × Bool :=
  (!ringPort p.port, c.flag (FZT_PORT_CTRL p.port) FZT_PORT_CTRL_FZT_EN)

/-- Credits that a session's receive buffers take: the allowances of all classes. -/
def sessCredits (d : SessDef) : Nat := sumNat (d.allow.map (fun a => a.1 + a.2))

def mkPath (c : Core) (p : PathDef) : Path :=
  { port := p.port, sub := p.sub, mac := p.mac, vlan := p.vlan, ip := p.ip, udp := p.udp, up := linkUp c p.port p.sub, timeouts := 0 }

/-- SESSION_OPEN, with the refusals of R468 in their order. -/
def sessionOpen (d : SessDef) (m : M) : Mg :=
  let c := m.core
  checked m [
    ((match sess? c d.session with | some x => x.st == .closed || x.st == .lost | none => true), .conflict),
    (amGet? c.net.epochs d.session ≠ some d.epoch, .conflict),
    (d.paths.all (fun p => (pathPortOk c p).1), .badField),
    (d.paths.all (fun p => (pathPortOk c p).2), .badState),
    (d.session < 8192 && epOk d.remote && d.epoch < 65536 && d.keySlot < 4096 && 1 ≤ d.paths.length && d.paths.length ≤ 4 &&
      d.paths.all (fun p => pathFieldsOk p && p.sub < subPorts c p.port) && d.txSeq < 2 ^ 32 && d.rxSeq < 2 ^ 32 &&
      d.allow.length = 3 && d.allow.all (fun a => 17 ≤ a.1 && a.1 ≤ 32767 && 17 ≤ a.2 && a.2 ≤ 32767), .badField),
    (d.session < 8188, .badField),
    (rxAllocated c (d.session % 4) + sessCredits d ≤ 131072, .noResource),
    (slotOwner c d.keySlot = some 255, .notPermitted)] (fun m =>
    accept (m.on (fun c => openSession c d.session d.remote d.epoch d.keySlot (d.paths.map (mkPath c)) d.txSeq d.rxSeq d.allow
      (sessCredits d))))

/-- SESSION_CLOSE: as the end of a grace, then what is held is discarded and the session is CLOSED; its EPOCH stays known. -/
def sessionClose (s : Nat) (m : M) : Mg :=
  if 8188 ≤ s then refuse m .badField
  else match sess? m.core s with
    | none => refuse m .badState
    | some x =>
      if x.st = .closed then refuse m .badState
      else accept (m.on (fun c =>
        let c := if x.st = .lost then c else loseSession c s
        let c := discardHeld c s
        { c with net := { c.net with sessions := amDel c.net.sessions s } }))

/-! ### Queue pairs (R499, R505) -/

/-- QP_CREATE. -/
def qpCreate (d : QpDef) (m : M) : Mg :=
  let c := m.core
  checked m [
    (d.qp < 16384 && d.partition < 16 && d.owner < 65536 && pathFieldsOk d.path && d.remoteQpn < 2 ^ 24 && d.sendPsn < 2 ^ 24 &&
      d.recvPsn < 2 ^ 24 && (d.pmtu == 1024 || d.pmtu == 2048 || d.pmtu == 4096) && 4 ≤ d.ackExp && d.ackExp ≤ 31 && d.retry ≤ 7 &&
      !ringPort d.path.port && d.path.sub < subPorts c d.path.port, .badField),
    ((qp? c d.qp).isNone, .conflict),
    (partActive c d.partition, .badState),
    (!c.flag (SEC_PART d.partition) SEC_PART_LINK_ENC_REQUIRED, .badField)] (fun m =>
    accept (m.on (fun c => setQp c d.qp {
      partition := d.partition, owner := d.owner, port := d.path.port, sub := d.path.sub, mac := d.path.mac, vlan := d.path.vlan,
      ip := d.path.ip, remoteQpn := d.remoteQpn, sendPsn := d.sendPsn, expPsn := d.recvPsn, pmtu := d.pmtu, dataKey := d.dataKey,
      doorKey := d.doorKey, ackExp := d.ackExp, retry := d.retry, error := false, lastStatus := 0, writes := [], wr := none,
      lastCnp := none })))

/-- QP_DESTROY: writes that are not acknowledged wait for the context's next doorbell, as for ERROR. -/
def qpDestroy (q : Nat) (m : M) : Mg :=
  if 16384 ≤ q then refuse m .badField
  else match qp? m.core q with
    | none => refuse m .badState
    | some _ => accept (m.on (fun c =>
        let c := qpError c q 0
        { c with net := { c.net with qps := amDel c.net.qps q, doorQp := c.net.doorQp.filter (fun d => d.2 != q) } }))

/-! ### RoCE packets (R498, R500 to R505) -/

/-- A CNP to the sender of a packet marked CE, at most one per queue pair in 50 µs (R505). -/
def sendCnp (c : Core) (q : Nat) : Core :=
  match qp? c q with
  | none => c
  | some x =>
    if (match x.lastCnp with | some t => decide (t + 50000 ≤ c.glb.now) | none => true) then
      roceFrame ((modQp c q (fun x => { x with lastCnp := some c.glb.now })).count (ROCE_CNPS_SENT x.port)) q roceCnp 0 16 [] []
    else c

/-- The checks of a RoCE packet: link, length, policing, ICRC, queue pair. The queue pair that takes it.
PRESUMED, assumption 58 (unsafe). -/
def roceRx (p : RPkt) (request : Bool) (c : Core) : Core × Option Qp :=
  let c := c.at p.time
  if !inService c || !portOk c p.port p.sub || !linkUp c p.port p.sub then (c, none)
  else match rxFrame c p.port p.sub p.frameLen with
    | (c, false) => (c, none)
    | (c, true) =>
      if !c.flag (FZT_PORT_CTRL p.port) FZT_PORT_CTRL_ROCE_EN || ringPort p.port then (c, none)
      else
        let c := c.perf (ROCE_RX_PACKETS p.port)
        let x := qp? c p.qp
        let (c, dropped) := match request, x with
          | true, some x => police c p.port x.partition p.frameLen p.dscp
          | _, _ => (c, false)
        if dropped then (c, none)
        else if !p.icrcOk then (c.count (ROCE_DROPS_ICRC p.port), none)
        else match x with
          | none => (c, none)
          | some x =>
            let c := if p.ce then sendCnp c p.qp else c
            if x.error then (c, none) else (c, qp? c p.qp)

/-- A packet's place in the sequence: 0 expected, 1 a copy of an earlier one, 2 after a gap. PRESUMED, assumption 58 (unsafe). -/
def psnPlace (x : Qp) (psn : Nat) : Nat :=
  if psn24 psn = x.expPsn then 0 else if cut24 x.expPsn psn ≤ 2 ^ 23 then 1 else 2

/-- A request of a queue pair is served from now, with an op tag or once one is free. -/
def admitQp (c : Core) (p : RPkt) (x : Qp) (type ctx : Nat) (body : List Nat) (data : List Byte) : Core :=
  admitReq c (.qp p.qp (psn24 p.psn)) ctx x.partition type body data []

/-- A packet out of order: an earlier one is acknowledged again, and a gap is reported once by NAK code 0, PSN sequence
error, as the InfiniBand transport does. -/
def roceOther (c : Core) (p : RPkt) (x : Qp) : Core :=
  if psnPlace x p.psn = 1 then roceFrame c p.qp roceAck (psn24 p.psn) 4 [] []
  else roceFrame (c.count (ROCE_NAKS_SENT x.port)) p.qp roceNak x.expPsn 4 [0] []

/-- READs and atomics of a queue pair that are not answered (R499). -/
def qpOpen (c : Core) (q : Nat) : Nat :=
  ((c.net.requests ++ c.net.stalled.map (·.1)).filter (fun r => (isRead r.type || isAtomic r.type) &&
    (match r.sender with | .qp p _ => p == q | _ => false))).length

/-- RDMA WRITE, packet by packet: the first names address, R_Key and length, the others go on from there. Eight bytes at 8c
under DOORBELL_RKEY are the doorbell of context c, in little-endian byte order (R228, R501). -/
def rdmaWrite (p : RPkt) (m : M) : M :=
  match roceRx p true m.core with
  | (c, none) => { m with core := c }
  | (c, some x) =>
    let bad := fun (s : Status) (c : Core) => sendNak c p.qp (psn24 p.psn) s
    if psnPlace x p.psn ≠ 0 then { m with core := roceOther c p x }
    else
      let c := modQp c p.qp (fun x => { x with expPsn := psn24 (p.psn + 1) })
      let start : Option (W64 × W32 × Nat) := if p.first then (if x.wr.isNone then some (p.va, p.rkey, p.len) else none)
        else x.wr.map (fun w => (w.1, w.2.1, w.2.2.1))
      match start with
      | none => { m with core := bad .badDescriptor c }
      | some (va, rkey, left) =>
        let n := p.data.length
        let fits := if p.last then n == left && n ≤ x.pmtu else n == x.pmtu && n < left
        if !fits then { m with core := bad .badDescriptor c }
        else if rkey = x.doorKey && rkey ≠ x.dataKey then
          let k := va.toNat / 8
          if !(p.first && p.last && n = 8 && va.toNat % 8 = 0 && k < 4096) then { m with core := bad .badDescriptor c }
          else if ctxState c k = 0 || ctxOwner c k ≠ x.owner || !ctxRdma c k then
            { m with core := bad .accessDenied (raise c .ctxDoorbellRejected 7 k) }
          else
            let c := rdmaDoorbell c k p.qp
            { m with core := admitQp c p x 0x21 k [0, 8, 0, leNat p.data, 0] [] }
        else if rkey ≠ x.dataKey then { m with core := bad .accessDenied c }
        else
          let c := modQp c p.qp (fun x => { x with
            wr := if p.last then none else some (va + BitVec.ofNat 64 n, rkey, left - n, []) })
          { m with core := admitQp c p x 0x11 0xFFFF [va.toNat, n, 0, 0, 0] p.data }

/-- RDMA READ: its responses take as many PSNs as they have packets. -/
def rdmaRead (p : RPkt) (m : M) : M :=
  match roceRx p true m.core with
  | (c, none) => { m with core := c }
  | (c, some x) =>
    let n := max 1 ((p.len + x.pmtu - 1) / max 1 x.pmtu)
    let c1 := modQp c p.qp (fun x => { x with expPsn := psn24 (p.psn + n) })
    if psnPlace x p.psn = 2 then { m with core := roceOther c p x }
    else
      -- an earlier READ is served again
      let c := if psnPlace x p.psn = 0 then c1 else c
      if 16 ≤ qpOpen c p.qp || 2 ^ 31 < p.len then { m with core := sendNak c p.qp (psn24 p.psn) .badDescriptor }
      else if p.rkey ≠ x.dataKey then { m with core := sendNak c p.qp (psn24 p.psn) .accessDenied }
      else { m with core := admitQp c p x 0x10 0xFFFF [p.va.toNat, p.len, 0, 0, 0] [] }

/-- COMPARE_SWAP and FETCH_ADD: 64-bit atomics in the operations of Table 7-11. -/
def rdmaAtomic (p : RPkt) (op : Nat) (operand compare : W64) (m : M) : M :=
  match roceRx p true m.core with
  | (c, none) => { m with core := c }
  | (c, some x) =>
    if psnPlace x p.psn ≠ 0 then { m with core := if psnPlace x p.psn = 1 then c else roceOther c p x }
    else
      let c := modQp c p.qp (fun x => { x with expPsn := psn24 (p.psn + 1) })
      if 16 ≤ qpOpen c p.qp then { m with core := sendNak c p.qp (psn24 p.psn) .badDescriptor }
      else if p.rkey ≠ x.dataKey then { m with core := sendNak c p.qp (psn24 p.psn) .accessDenied }
      else { m with core := admitQp c p x 0x12 0xFFFF [p.va.toNat, 8, op + 256, operand.toNat, compare.toNat] [] }

/-- A packet of an unsupported opcode (R498). -/
def roceInvalid (p : RPkt) (m : M) : M :=
  match roceRx p true m.core with
  | (c, none) => { m with core := c }
  | (c, some _) => { m with core := sendNak c p.qp (psn24 p.psn) .badDescriptor }

/-! ### The chip as requester (R499, R504) -/

/-- Writes from the first unacknowledged one are sent again. -/
def resendWrites (c : Core) (q : Nat) : Core :=
  match qp? c q with
  | none => c
  | some x => x.writes.foldl (fun c w => writePkts c q w.1 w.2.2.1)
      (setQp c q { x with writes := x.writes.map (fun w => (w.1, w.2.1, w.2.2.1, w.2.2.2.1, c.glb.now)) })

/-- An acknowledgement of the chip's RDMA WRITEs, up to and with its PSN; a NAK of code 0 asks for the rest again, and any
other moves the queue pair to ERROR. -/
def rdmaAck (p : RPkt) (nak : Option Nat) (m : M) : M :=
  match roceRx p false m.core with
  | (c, none) => { m with core := c }
  | (c, some x) =>
    -- a NAK acknowledges what comes before it
    let upTo := match nak with | none => psn24 (p.psn + 1) | some _ => psn24 p.psn
    let done := x.writes.filter (fun w => cut24 upTo w.2.1 < 2 ^ 23)
    let c := setQp c p.qp { x with writes := x.writes.filter (fun w => !(cut24 upTo w.2.1 < 2 ^ 23)) }
    let c := done.foldl (fun c w => msgAcked c w.2.2.1) c
    match nak with
    | none => { m with core := c }
    | some 0 => { m with core := resendWrites c p.qp }
    | some k => { m with core := qpError c p.qp (statusCode (match k with
        | 1 => Status.badDescriptor | 2 => Status.accessDenied | _ => Status.internalFault)) }

/-- The local ACK timeout of the oldest write passes: 4.096 µs × 2^T. It is retried, and after the retry count the queue pair
enters ERROR. -/
def localAckTimeout (q time : Nat) (m : M) : M :=
  let c := m.core.at time
  match qp? c q with
  | none => { m with core := c }
  | some x => match x.writes with
    | [] => { m with core := c }
    | w :: t =>
      if x.error || c.glb.now < w.2.2.2.2 + 4096 * 2 ^ x.ackExp then { m with core := c }
      else if w.2.2.2.1 = 0 then { m with core := qpError c q (statusCode .linkLost) }
      else { m with core := resendWrites (setQp c q { x with
          writes := (w.1, w.2.1, w.2.2.1, w.2.2.2.1 - 1, w.2.2.2.2) :: t }) q }

end Sys2Proof.Machine
end

