-- ==== Sys2Proof/Machine/RingCmds.lean ====
section
/-! DEFINITION. The commands of the ring (R507 to R527): links, neighbours, membership, routes, forwarded requests. -/

namespace Sys2Proof.Machine
open Sys2Proof

/-! ### Small pieces -/

def isMaster (c : Core) : Bool := c.flag TCK_STATUS TCK_STATUS_MASTER

/-- The greatest number of members (R74), for the budget in force. -/
def ringMax (c : Core) : Nat :=
  (periodNs c * bitsOf c.tck.budget0.toNat TCK_BUDGET0_RING_RESERVE.hi TCK_BUDGET0_RING_RESERVE.lo / 1000 - 1000) / 650

/-- A ring management message in a direction, on its ring session. -/
def ringSend (c : Core) (d type : Nat) (body : List Nat) : Core :=
  c.send { dst := .dir d, type := type, cls := 2, ctx := 0xFFFF, body := body, data := [], work := none }

/-- A TICK or HEARTBEAT: SEQ 0, no credits, never sent again (R525). -/
def ringPlain (c : Core) (d type payload : Nat) (body : List Nat) : Core :=
  let s := ringSess (dirPort c d none)
  if (sess? c s).any (fun x => x.st == .opened) then sendPlain c s 0 type payload body else c

/-- RING_BYPASS_N of each direction: low, which is 1 here, unless the chip is JOINING, MEMBER or LEAVING and no test holds it
(R510). -/
def driveBypass (c : Core) : Core :=
  let t := c.fld RING_CTRL RING_CTRL_BYPASS_TEST
  c.setFld RING_STATUS RING_STATUS_BYPASS (if ringState c = 0 then 3 else t)

def setRingState (c : Core) (s : Nat) : Core := driveBypass (c.setFld RING_STATUS RING_STATUS_STATE s)

/-- The chip is OUT: its own master, ALONE (R512). -/
def ringOut (c : Core) : Core :=
  let c := setRingState c 0
  let c := (c.setFld RING_CTRL RING_CTRL_JOIN 0).setFld RING_CTRL RING_CTRL_LEAVE 0
  let c := (c.setFld TCK_STATUS TCK_STATUS_STATE 3).setFld TCK_STATUS TCK_STATUS_MASTER 1
  let c := (c.setFld TCK_STATUS TCK_STATUS_MASTER_ID c.chipId).setFld TCK_RING_MEMBERS TCK_RING_MEMBERS_F 1
  let c := (c.setFld TCK_STATUS TCK_STATUS_HOLDOVER_TICKS 0).setFld RING_STATUS RING_STATUS_CHAIN 0
  { c with ring := { c.ring with members := [], heard := [], requests := [], collectUntil := none } }

/-- Better as a master (R39): lower priority, then lower chip ID. -/
def betterMaster (a b : Nat × Nat) : Bool := a.1 < b.1 || (a.1 == b.1 && a.2 < b.2)

def myRank (c : Core) : Nat × Nat := (c.fld TCK_CONFIG TCK_CONFIG_PRIORITY, c.chipId)

/-- The best candidate of a list of ranks. -/
def bestRank : List (Nat × Nat) → Option (Nat × Nat)
  | [] => none
  | h :: t => match bestRank t with
    | none => some h
    | some b => some (if betterMaster b h then b else h)

/-- Ranks of the candidates heard in the last tick. -/
def heardRanks (c : Core) : List (Nat × Nat) := (c.ring.heard.filter (fun h => h.2.candidate && h.2.lastTick)).map (fun h => (h.2.priority, h.1))

/-! ### Routes (R517 to R519) -/

/-- Direction of a destination in a member list. -/
def dirIn (ms : List (Nat × Nat)) (src dst : Nat) : Option Nat := (routeIn ms src dst).bind Route.prefer

/-- The path from one member to another in a direction crosses no BROKEN link. -/
def unbroken (ms : List (Nat × Nat)) (src dst d : Nat) : Bool :=
  match ms.findIdx? (fun m => m.1 == src), ms.findIdx? (fun m => m.1 == dst) with
  | some i, some j =>
    let n := ms.length
    let start := if d = 0 then i else j
    let hops := if d = 0 then (j + n - i) % n else (i + n - j) % n
    (List.range hops).all (fun k => ((ms.getD ((start + k) % n) (0, 2)).2) != 2)
  | _, _ => false

/-- Destinations that no request of the old route waits for are drained; what was held for them goes out (R518). -/
def drainCheck (c : Core) : Core :=
  let done := c.ring.draining.filter (fun x => !c.ring.fwds.any (fun f => f.draining && f.dst == x.1))
  if done = [] then c
  else
    let mine := fun (m : OutMsg) => done.any (fun x => some x.1 == m.body[1]?)
    let go := c.ring.held.filter mine
    let c := { c with ring := { c.ring with draining := c.ring.draining.filter (fun x => !done.contains x),
                                            held := c.ring.held.filter (fun m => !mine m) } }
    go.foldl (fun c m => match dirIn c.ring.members c.chipId (m.body.getD 1 0) with
      | some d =>
        let tag := m.body.getD 4 0
        let turn := fun (f : Fwd) => if f.tag = tag then { f with dir := d, sentTick := c.tick } else f
        let c := { c with ring := { c.ring with fwds := c.ring.fwds.map turn } }
        c.send { m with dst := .dir d, body := listMod m.body 3 (fun _ => d) }
      | none => c) c

/-- The neighbour from which what travels in direction `d` comes. -/
def fromNeighbour (ms : List (Nat × Nat)) (chip d : Nat) : Option Nat :=
  (ms.findIdx? (fun m => m.1 == chip)).bind (fun i =>
    (ms[if d = 0 then (i + ms.length - 1) % ms.length else (i + 1) % ms.length]?).map (·.1))

/-- The delay of each link to a new neighbour is measured (R40): a free value, which the link gives. -/
def measureLinks (c : Core) (old ms : List (Nat × Nat)) : Core :=
  [0, 1].foldl (fun c d =>
    if fromNeighbour ms c.chipId d = fromNeighbour old c.chipId d then c
    else
      let (c, k) := c.draw
      { c with ring := { c.ring with linkNs := amSet c.ring.linkNs d ((Config.freeWord k).toNat % 2 ^ 32) } }) c

/-- A newer member list is in force (R517): destinations whose preferred direction changes drain, unless the old route crosses
a broken link (R519). -/
def applyRoutes (c : Core) (version : Nat) (ms : List (Nat × Nat)) : Core :=
  let old := c.ring.members
  let dests := distinctOf ((c.ring.fwds.map (·.dst)))
  let moved := dests.filterMap (fun x => match dirIn old c.chipId x, dirIn ms c.chipId x with
    | some d, some e => if d ≠ e && unbroken ms c.chipId x d then some (x, d) else none
    | _, _ => none)
  let fwds := c.ring.fwds.map (fun f => if moved.any (fun x => x.1 == f.dst && x.2 == f.dir) then { f with draining := true } else f)
  let drain := (c.ring.draining.filter (fun x => !moved.any (fun y => y.1 == x.1))) ++ moved
  let c := measureLinks { c with ring := { c.ring with members := ms, fwds := fwds, draining := drain } } old ms
  let c := c.setFld RING_ROUTE RING_ROUTE_VERSION (version % 2 ^ 32)
  let c := c.setFld RING_STATUS RING_STATUS_CHAIN (b2n (ms.any (fun m => m.2 != 0)))
  let c := c.setFld TCK_RING_MEMBERS TCK_RING_MEMBERS_F (max 1 ms.length)
  let c := c.count RING_TOPOLOGY_CHANGES
  drainCheck c

/-- The fields of a ROUTE_UPDATE. -/
def routeBody (version : Nat) (ms : List (Nat × Nat)) : List Nat := [version, ms.length] ++ ms.flatMap (fun m => [m.1, m.2])

/-- The master issues a ROUTE_UPDATE both ways, and follows it. -/
def issueRoute (c : Core) (ms : List (Nat × Nat)) : Core :=
  let v := (c.fld RING_ROUTE RING_ROUTE_VERSION + 1) % 2 ^ 32
  let c := applyRoutes { c with ring := { c.ring with drained := [] } } v ms
  [0, 1].foldl (fun c d => ringSend c d 0x78 (routeBody v ms)) c

/-- A member list without a chip: the link of its west neighbour now leads to its east neighbour. -/
def withoutMember (ms : List (Nat × Nat)) (chip : Nat) : List (Nat × Nat) :=
  match ms.findIdx? (fun m => m.1 == chip) with
  | none => ms
  | some i => dropAt (listMod ms ((i + ms.length - 1) % ms.length) (fun m => (m.1, 0))) i

/-- The list with a chip placed east of member index `i`. -/
def withMember (ms : List (Nat × Nat)) (i chip : Nat) : List (Nat × Nat) :=
  let ms := listMod ms i (fun m => (m.1, 0))
  ms.take (i + 1) ++ [(chip, 0)] ++ ms.drop (i + 1)

/-- The eastward link of a member marked. -/
def markLink (ms : List (Nat × Nat)) (chip st : Nat) : List (Nat × Nat) := ms.map (fun m => if m.1 = chip then (m.1, st) else m)

/-! ### Links of ports (R469, R508, R509, R516) -/

/-- A sub-port's link bits: link, FEC lock, training. -/
def setLink (c : Core) (n k : Nat) (up : Bool) : Core :=
  let c := [MAC_STATUS_LINK_UP, MAC_STATUS_FEC_LOCK, MAC_STATUS_AN_DONE].foldl (fun c f =>
    c.setFld (MAC_STATUS n) f (setBit (c.fld (MAC_STATUS n) f) k up)) c
  if ringPort n then c.setFld RING_STATUS RING_STATUS_LINK (setBit (c.fld RING_STATUS RING_STATUS_LINK) (n - 12) up) else c

/-- A HELLO goes out on a ring port, before any session: chip ID, side, port, ring role. -/
def sendHello (c : Core) (n : Nat) : Core :=
  enqueueFrame c n {
    sub := 0, strict := true, flow := 0, weight := 1, len := frameLen 0 0 (datagram 16 false),
    dscp := c.fld (SCH_DSCP n) SCH_DSCP_MGT, type := 0x70, ctx := 0xFFFF, session := ringSess n, seq := 0, xid := 0, off := 0,
    retx := false, transit := false, body := [c.chipId, if n < 14 then 0 else 1, n, b2n c.pins.ringRole], data := [],
    head := { cls := 2, srcEp := chipEp c.chipId, udpSrc := 0xC000 + ringSess n % 16384, udpDst := c.fld FZT_CTRL FZT_CTRL_UDP_PORT } }

/-- The ring heals at a link of the master's, which tells every member. -/
def healLink (c : Core) (n : Nat) : Core :=
  if isMaster c && onRing c && dirUp c 0 then
    let west := (memberIdx c c.chipId).bind (fun i => c.ring.members[(i + c.ring.members.length - 1) % c.ring.members.length]?)
    let who := if n < 14 then (west.map (·.1)).getD c.chipId else c.chipId
    if c.ring.members.any (fun m => m.1 == who && m.2 == 2) then issueRoute c (markLink c.ring.members who 0) else c
  else c

/-- LINK_UP: a ring port sends its HELLO; what waits at the port may start. -/
def linkUpCmd (n k time : Nat) (c : Core) : Core :=
  let c := c.at time
  let stage := bootStage c
  if !portOk c n k || !powered c || !(6 ≤ stage && stage ≠ stRecovery) || !domainServes c (52 + n) || baseFenced c (portPlinth n) ||
     c.flag (PWR_DOMAIN (52 + n)) PWR_DOMAIN_FENCED || c.pins.stoppedClocks.contains (1 + portPlinth n) then c
  else
    let c := setLink c n k true
    let c := if ringPort n then healLink (sendHello c n) n else c
    startPort c n

/-- LINK_DOWN: paths of the sub-port go DOWN (R469). On a ring port RING_LINK_DOWN is logged, and a master whose direction is
no longer UP marks the link broken (R516). -/
def linkDownCmd (n k time : Nat) (c : Core) : Core :=
  let c := c.at time
  if !portOk c n k || !linkUp c n k then c
  else
    let was := dirUp c 0
    let c := pathsDown (setLink c n k false) n k
    if !ringPort n then c
    else
      let c := { c with ring := { c.ring with hello := amDel c.ring.hello n } }
      let side := if n < 14 then [12, 13] else [14, 15]
      let c := if side.all (fun x => (amGet? c.ring.hello x).isNone) then
        c.setFld RING_NEIGHBOURS (if n < 14 then RING_NEIGHBOURS_WEST_VALID else RING_NEIGHBOURS_EAST_VALID) 0 else c
      let c := raise c .ringLinkDown 5 n
      if was && !dirUp c 0 && isMaster c && onRing c && 1 < c.ring.members.length then
        let west := (memberIdx c c.chipId).bind (fun i => c.ring.members[(i + c.ring.members.length - 1) % c.ring.members.length]?)
        issueRoute c (markLink c.ring.members (if n < 14 then (west.map (·.1)).getD c.chipId else c.chipId) 2)
      else c

/-- PFC_FRAME at a port (R464). -/
def pfcCmd (n k len : Nat) (quanta : List Nat) (time : Nat) (c : Core) : Core :=
  let c := c.at time
  if !portOk c n k || !linkUp c n k then c
  else match rxFrame c n k len with
    | (c, true) => pfcFrame n quanta c
    | (c, false) => c

/-- Bytes of frames in transit that wait at a port (R520). -/
def transitBytes (c : Core) (n : Nat) : Nat := sumNat (((portSt c n).queue.filter (·.transit)).map (·.len))

/-- A message for another chip finds the transit queue of its port full, 8 MiB (R520). -/
def transitFull (c : Core) (dst d tag : Nat) : Bool := dst != c.chipId && 8388608 ≤ transitBytes c (dirPort c d (some tag))

/-- FRAME_TRANSMITTED: the next frame starts; a transit queue with room again releases the credits that were kept for it.
DEDUCED, assumption 62 (unsafe). -/
def frameCmd (n time : Nat) (c : Core) : Core :=
  let c := frameSent n (c.at time)
  if transitBytes c n < 8388608 then
    let held := c.ring.transitHeld.filter (·.1 == n)
    held.foldl (fun c h => releaseCr c h.2.1 0 h.2.2.1 h.2.2.2 true)
      { c with ring := { c.ring with transitHeld := c.ring.transitHeld.filter (·.1 != n) } }
  else c

/-! ### Neighbours (R509, R511) -/

/-- A JOIN_REQUEST of this chip goes out in both directions. -/
def askJoin (c : Core) : Core :=
  [0, 1].foldl (fun c d => ringSend c d 0x76 [c.chipId, c.fld TCK_CONFIG TCK_CONFIG_PRIORITY]) c

/-- RING_HELLO: a loopback opens nothing; a port that names another neighbour than its side's other port carries no traffic;
else the ring session opens, with sequence numbers and EPOCH that the spec leaves open, once slot 4,095 is loaded (R642).
DESIGN CHOICE, assumption 57 (safe); DEDUCED, assumption 61 (safe). -/
def ringHello (p : Pkt) (chip : Nat) (c : Core) : Core :=
  let c := c.at p.time
  if !powered c || !ringPort p.port || !linkUp c p.port 0 || !p.crcOk then c
  else match rxFrame c p.port 0 p.frameLen with
    | (c, false) => c
    | (c, true) =>
      if chip = c.chipId then c
      else
        let other := if p.port % 2 = 0 then p.port + 1 else p.port - 1
        if (amGet? c.ring.hello other).any (· != chip) then
          let c := { c with ring := { c.ring with hello := amSet c.ring.hello p.port chip } }
          raise (if (sess? c (ringSess p.port)).isSome then flushSession c (ringSess p.port) .closed else c) .ringCableMismatch 5 p.port
        else
          let c := { c with ring := { c.ring with hello := amSet c.ring.hello p.port chip } }
          let (fv, fi) := if p.port < 14 then (RING_NEIGHBOURS_WEST_VALID, RING_NEIGHBOURS_WEST_ID)
            else (RING_NEIGHBOURS_EAST_VALID, RING_NEIGHBOURS_EAST_ID)
          let c := (c.setFld RING_NEIGHBOURS fv 1).setFld RING_NEIGHBOURS fi chip
          let s := ringSess p.port
          let open_ := (sess? c s).any (fun x => sessLive x && x.remote == chipEp chip)
          let c :=
            if open_ then
              match sess? c s with
              | some x => if x.st = .hold then pathUp c s 0 else c
              | none => c
            else if (slotOwner c 4095).isNone then c
            else
              let (c, a) := c.draw
              let (c, b) := c.draw
              let (c, e) := c.draw
              let path : Path := { port := p.port, sub := 0, mac := 0, vlan := 0, ip := 0, udp := 0, up := true, timeouts := 0 }
              openSession c s (chipEp chip) ((Config.freeWord e).toNat % 65536) 4095 [path] ((Config.freeWord a).toNat % 2 ^ 32)
                ((Config.freeWord b).toNat % 2 ^ 32) [(8192, 340), (8192, 340), (1024, 340)] 18428
          if ringState c = 1 && (sess? c s).any sessLive then askJoin c else c

/-! ### Membership (R512 to R516) -/

/-- RING_JOIN, or a write of one to RING_CTRL.JOIN, at an OUT chip with a ring role. -/
def startJoin (c : Core) (atStart : Bool) : Core :=
  let c := (setRingState c 1).setFld RING_CTRL RING_CTRL_JOIN 1
  let c := { c with ring := { c.ring with joinSince := c.glb.now, atStart := atStart } }
  [12, 13, 14, 15].foldl (fun c n => if linkUp c n 0 then sendHello c n else c) c

def mayJoin (c : Core) : Bool := ringState c == 0 && c.fld RING_CFG RING_CFG_ROLE == 1 && c.pins.ringRole

/-- DEDUCED, assumption 60 (unsafe). -/
def ringJoin (chip : Nat) (m : M) : Mg :=
  checked m [(chip == m.core.chipId, .badField), (mayJoin m.core, .badState)] (fun m => accept (m.on (fun c => startJoin c false)))

/-- RING_LEAVE, QUIESCE, or a write of one to RING_CTRL.LEAVE: a MEMBER is LEAVING, and the master issues routes without it. -/
def startLeave (c : Core) : Core :=
  let c := (setRingState c 3).setFld RING_CTRL RING_CTRL_LEAVE 1
  if isMaster c then issueRoute c (withoutMember c.ring.members c.chipId) else c

def ringLeave (chip : Nat) (m : M) : Mg :=
  checked m [(chip == m.core.chipId, .badField), (ringState m.core == 2, .badState)] (fun m => accept (m.on startLeave))

/-- The refusal of a chip's admission (R513): 1 its ID belongs to a member, 2 the ring would be too long. -/
def admitRefusal (c : Core) (chip : Nat) : Nat :=
  if c.ring.members.any (fun m => m.1 == chip) then 1 else if ringMax c < c.ring.members.length + 1 then 2 else 0

/-- The event of a refused admission. -/
def logRefusal (c : Core) (chip k : Nat) : Core :=
  let c := c.count RING_JOINS_REFUSED
  raise c (if k = 1 then .ringDuplicateId else .ringJoinRefused) 0 0 chip

/-- RING_PREPARE at the master (R515): answered once every member has reported RING_DRAINED for the version. -/
def ringPrepare (chip west east : Nat) (src : Src) (m : M) : MgLater :=
  let c := m.core
  if !srcFm src then now (refuse m .notPermitted)
  else if !isMaster c || !onRing c || c.ring.prepare.isSome then now (refuse m .badState)
  else
    let k := admitRefusal c chip
    let n := c.ring.members.length
    let adjacent := match memberIdx c west, memberIdx c east with
      | some i, some j => (i + 1) % n == j
      | _, _ => false
    if k ≠ 0 then (logRefusal c chip k |> fun c => (({ m with core := c } : M), some (if k = 1 then MgmtCode.conflict else .noResource, [])))
    else if 4096 ≤ chip || !adjacent then now (refuse m .badField)
    else
      let c := issueRoute c (markLink c.ring.members west 1)
      let v := c.fld RING_ROUTE RING_ROUTE_VERSION
      (({ m with core := { c with ring := { c.ring with prepare := some (chip, west, east, v), preparer := some src } } } : M), none)

/-- A JOIN_ANSWER goes back the way that the request came. DEDUCED, assumption 60 (unsafe). -/
def joinAnswer (c : Core) (d : Nat) (reason : Nat) : Core :=
  ringSend c d 0x77 [if reason = 0 then 0 else 1, reason, c.chipId]

/-- The master admits a chip: between the two members of a RING_PREPARE that named it, or beside the member by which its
request came: east of the master's list by its place. -/
def admitChip (c : Core) (chip d : Nat) : Core :=
  let c := joinAnswer c d 0
  let at_ := match c.ring.prepare with
    | some (x, west, _, _) => if x = chip then memberIdx c west else none
    | none => none
  let self := (memberIdx c c.chipId).getD 0
  let n := c.ring.members.length
  let i := at_.getD (if d = 0 then self else (self + n - 1) % max 1 n)
  let c := { c with ring := { c.ring with prepare := if at_.isSome then none else c.ring.prepare } }
  issueRoute c (withMember c.ring.members i chip)

/-- A ring control message lands on its ring session: the direction in which it travels. -/
def ringRx (c : Core) (p : Pkt) : Core × Option Nat :=
  if !inService c || !ringPort p.port then (c, none)
  else match landPkt c { p with cls := 2 } with
    | (c, some _) => (c, some (portDir p.port))
    | (c, none) => (c, none)

/-- The chip passes ring messages on: it is on the ring, or it is one of those that form a ring at start (R514). -/
def passes (c : Core) (d : Nat) : Bool := (onRing c || (ringState c == 1 && c.ring.atStart)) && sendsTo c d

/-- A member passes a control message on in its direction. DESIGN CHOICE, assumption 31 (safe). -/
def passOn (c : Core) (d type : Nat) (body : List Nat) : Core := if passes c d then ringSend c d type body else c

/-- JOIN_REQUEST (R513, R514): the master decides, or collects at start; others pass it on. -/
def joinRequest (p : Pkt) (chip priority : Nat) (c : Core) : Core :=
  match ringRx c p with
  | (c, none) => c
  | (c, some d) =>
    if !(isMaster c && onRing c) then passOn c d 0x76 [chip, priority]
    else if c.ring.collectUntil.isSome then
      if c.ring.requests.any (fun r => r.1 == chip) then c
      else { c with ring := { c.ring with requests := c.ring.requests ++ [(chip, 1 - d)] } }
    else
      let k := admitRefusal c chip
      if k = 0 then admitChip c chip (1 - d) else joinAnswer (logRefusal c chip k) (1 - d) k

/-- RING_ADMISSION: two ticks of collecting have passed; joiners are admitted in increasing chip ID up to N_max (R514). -/
def admitOne (c : Core) (r : Nat × Nat) : Core :=
  let k := admitRefusal c r.1
  if k = 0 then admitChip c r.1 r.2 else joinAnswer (logRefusal c r.1 k) r.2 k

def insertChip (x : Nat × Nat) : List (Nat × Nat) → List (Nat × Nat)
  | [] => [x]
  | h :: t => if x.1 ≤ h.1 then x :: h :: t else h :: insertChip x t

def ringAdmission (c : Core) : Core :=
  match c.ring.collectUntil with
  | none => c
  | some t =>
    if c.tick < t || !isMaster c then c
    else
      let l := c.ring.requests.foldr insertChip []
      l.foldl admitOne { c with ring := { c.ring with requests := [], collectUntil := none } }

/-- JOIN_ACCEPT (Table 14-1): a JOINING chip is a MEMBER and locks to the master's TICK. -/
def joinAccept (p : Pkt) (master : Nat) (c : Core) : Core :=
  match ringRx c p with
  | (c, none) => c
  | (c, some d) =>
    if ringState c ≠ 1 then passOn c d 0x77 [0, 0, master]
    else
      let c := (setRingState c 2).setFld RING_CTRL RING_CTRL_JOIN 0
      let c := ((c.setFld TCK_STATUS TCK_STATUS_STATE 0).setFld TCK_STATUS TCK_STATUS_MASTER 0).setFld TCK_ALIGN TCK_ALIGN_OFFSET 0
      c.setFld TCK_STATUS TCK_STATUS_MASTER_ID master

/-- JOIN_REFUSED: a JOINING chip is OUT again. -/
def joinRefused (p : Pkt) (reason master : Nat) (c : Core) : Core :=
  match ringRx c p with
  | (c, none) => c
  | (c, some d) =>
    if ringState c ≠ 1 then passOn c d 0x77 [1, reason, master]
    else raise (ringOut c) .ringJoinRefused 0 0 reason

/-- JOIN_TIMEOUT: no neighbour's HELLO within 100 ms. -/
def joinTimeout (time : Nat) (c : Core) : Core :=
  let c := c.at time
  if ringState c = 1 && c.ring.hello.all (fun h => h.2 == c.chipId) && c.ring.joinSince + 100000000 ≤ c.glb.now then
    raise (ringOut c) .ringJoinFailed 0 0
  else c

/-- ROUTE_UPDATE (R517): passed on by every member; a version that is not newer is ignored. -/
def routeUpdate (p : Pkt) (version : Nat) (ms : List (Nat × Nat)) (c : Core) : Core :=
  match ringRx c p with
  | (c, none) => c
  | (c, some d) =>
    if isMaster c && onRing c then c
    else
      let c := passOn c d 0x78 (routeBody version ms)
      if serialNewer version (c.fld RING_ROUTE RING_ROUTE_VERSION) then applyRoutes c version ms else c

/-- RING_PREPARE is answered once every member has drained (R515). -/
def prepareCheck (c : Core) : Core :=
  match c.ring.prepare, c.ring.preparer with
  | some (_, _, _, v), some src =>
    if v = c.fld RING_ROUTE RING_ROUTE_VERSION && c.ring.members.all (fun m => c.ring.drained.contains m.1) then
      mgmtReply { c with ring := { c.ring with preparer := none } } src 0x0A00 .accepted []
    else c
  | _, _ => c

/-- A member's report at the master. -/
def noteDrained (c : Core) (chip version : Nat) : Core :=
  if version = c.fld RING_ROUTE RING_ROUTE_VERSION && !c.ring.drained.contains chip then
    prepareCheck { c with ring := { c.ring with drained := c.ring.drained ++ [chip] } }
  else c

/-- Every route through a LEAVING chip has drained: it is in no member list, nothing that it forwarded or serves for another chip
is open, and nothing in transit is unacknowledged (Table 14-1, R520). -/
def leftRing (c : Core) : Bool :=
  let onWay := fun (s : Nat) => ((sess? c s).map (·.txMsgs)).getD []
  ringState c == 3 && (memberIdx c c.chipId).isNone && c.ring.fwds == [] &&
    c.net.requests.all (fun r => match r.sender with | .chip _ _ => false | _ => true) &&
    ([8188, 8189, 8190, 8191].flatMap onWay).all (fun t => t.msg.type != 0x74 && t.msg.type != 0x75 && t.msg.type != 0x7A)

/-- ROUTE_DRAINED (R518): no destination is draining: RING_DRAINED goes to the master, once for a version; a LEAVING chip whose
routes have drained is OUT. -/
def routeDrained (c : Core) : Core :=
  let v := c.fld RING_ROUTE RING_ROUTE_VERSION
  if c.ring.draining ≠ [] || !onRing c then c
  else
    let report := fun (c : Core) =>
      let c := { c with ring := { c.ring with drainedSent := v } }
      if isMaster c then noteDrained c c.chipId v
      else match dirIn c.ring.members c.chipId (c.fld TCK_STATUS TCK_STATUS_MASTER_ID) with
        | some d => ringSend c d 0x79 [c.chipId, v]
        | none => ringSend c 0 0x79 [c.chipId, v]
    let c := if c.ring.drainedSent == v then c else report c
    if leftRing c then ringOut c else c

/-- RING_DRAINED: taken by the master, passed on by others. -/
def ringDrained (p : Pkt) (chip version : Nat) (c : Core) : Core :=
  match ringRx c p with
  | (c, none) => c
  | (c, some d) => if isMaster c && onRing c then noteDrained c chip version else passOn c d 0x79 [chip, version]

/-- MEMBER_LOST at the master (R516): heartbeats absent in both directions for three ticks. -/
def memberLost (chip : Nat) (c : Core) : Core :=
  match amGet? c.ring.heard chip with
  | none => c
  | some h =>
    if !isMaster c || !onRing c || h.absent < 3 || (memberIdx c chip).isNone then c
    else
      let c := raise c .ringMemberLost 0 0 chip
      issueRoute { c with ring := { c.ring with heard := amDel c.ring.heard chip } } (withoutMember c.ring.members chip)

/-! ### Forwarded requests (R520 to R523) -/

/-- 32-byte words that hold `len` bytes from a pointer. -/
def wordsOf (p : W64) (len : Nat) : Nat := (ptrOffset p % 32 + len + 31) / 32

/-- What a reply brings to the work or thread that asked, `key` the length or the tag that finds it. A POISONED reply to a READ is
taken with every word poisoned (R574), and one to a WRITE names the word that was left out (R572). -/
def arrived (f : Fwd) (key : Nat) (write atomic : Bool) (rep : Rep) : Fetched :=
  let p : W64 := BitVec.ofNat 64 (f.body.getD 0 0)
  let x : Fetched := { ptr := p, len := key, write := write, data := if atomic then natLe 8 rep.value.toNat else rep.data, poisons := [],
                       status := rep.status }
  if rep.status ≠ .poisoned || atomic then x
  else if write then { x with status := .done, hit := some (ptrOffset rep.detail / 32) }
  else { x with status := .done, poisons := List.replicate (wordsOf p key) true }

def fetchedOf (f : Fwd) (k : Nat) (rep : Rep) : Fetched :=
  arrived f (if 2 ≤ k then k - 2 else f.body.getD 1 0) (1 ≤ k) (2 ≤ k) rep

/-- The words of a POISONED reply to a READ are consumed as they come to a work or a thread (R571, R574). -/
def countArrived (c : Core) (x : Fetched) : Core := c.count ECC_POISON_READ (x.poisons.filter id).length

/-- A forwarded request is resolved: whoever asked has its answer. -/
def resolveFwd (c : Core) (f : Fwd) (rep : Rep) : Core :=
  let rest := match c.ring.fwds.findIdx? (· == f) with | some i => dropAt c.ring.fwds i | none => c.ring.fwds
  let c := { c with ring := { c.ring with fwds := rest } }
  let gone := fun (r : RemoteExt) =>
    if r.chip = f.dst ∧ r.extent = ptrExtent (BitVec.ofNat 64 (f.body.getD 0 0)) then { r with withdrawn := true } else r
  let c := if rep.status = .extentWithdrawn then { c with ext := { c.ext with remote := c.ext.remote.map gone } } else c
  let (a, b, k) := f.who
  let c := match f.kind with
    | 0 => modWork (countArrived c (fetchedOf f k rep)) a b (fun w => { w with
        fetched := w.fetched ++ [fetchedOf f k rep],
        phase := if w.phase = .parked (.remote f.tag) then .running else w.phase })
    | 1 => answerTag c f.tag rep
    | 2 => answerTag c f.tag rep
    | 3 => c
    | 4 =>
      let th := amGet? c.rasp.threads a
      let mine := match th with
        | some t => t.inst == b && ((work? c t.ctx t.num).map (·.tag)) == some f.tag
        | none => false
      if !mine then c
      else
        let x := arrived f (if 4 ≤ k then k - 4 else f.body.getD 1 0) (k % 2 == 1 || 4 ≤ k) (4 ≤ k) rep
        -- a DMA command moves its words (R570)
        let c := if k < 2 then countArrived c x else c
        let take := fun (t : Thread) =>
          let t := if k < 2 then { t with fetched := t.fetched ++ [x] } else { t with background := t.background ++ [x] }
          if t.wait = .parked (.remote f.tag) then { t with wait := .ready } else t
        { c with rasp := { c.rasp with threads := amMod c.rasp.threads a take } }
    | _ => c
  drainCheck (freeTag c f.tag)

/-- A request of this chip is resolved, the pair's by its own rules. -/
def resolveAny (f : Fwd) (rep : Rep) (m : M) : M :=
  if f.kind = 5 ∨ f.kind = 6 then (pairReply m f rep).on drainCheck else m.on (fun c => resolveFwd c f rep)

/-- FORWARD_TIMEOUT (R522). EXPERT_ROUTE entries follow R332, mirrored writes R606. DEDUCED, assumption 63 (safe). -/
def forwardTimeout (tag : Nat) (m : M) : M :=
  let c := m.core
  -- one that waits for a drain has not been sent (R518)
  let sent := fun (f : Fwd) => f.draining || c.ring.draining.all (fun x => x.1 != f.dst)
  match c.ring.fwds.find? (fun f => f.tag == tag && f.kind != 3 && f.kind != 5 && sent f &&
      f.sentTick + c.fld RING_FWD RING_FWD_TIMEOUT_TICKS < c.tick) with
  | none => m
  | some f =>
    let c := c.count RING_FWD_TIMEOUTS
    let m := { m with core := c }
    let r := routeTo c f.dst
    let reach := fun (d : Nat) => match r with | some x => if d = 0 then x.reach0 else x.reach1 | none => false
    if f.idem && !f.resent && reach (1 - f.dir) then
      let d := 1 - f.dir
      let again := fun (g : Fwd) => if g = f then { g with dir := d, resent := true, sentTick := c.tick, draining := false } else g
      let c := { c with ring := { c.ring with fwds := c.ring.fwds.map again } }
      let b := fun i => f.body.getD i 0
      let msg := if f.kind = 6 then repMsg c d f.tag (b 0) (b 1) (b 2) (b 3) (b 4) (b 5) f.data (b 6)
        else fwdMsg c f.dst d f.tag f.part f.ctx f.type f.body f.data
      { m with core := drainCheck (c.send msg) }
    else if f.resent || (!reach 0 && !reach 1) then resolveAny f { status := .linkLost } m
    else resolveAny f { status := .outcomeUnknown } m

/-- A packet of a FORWARD, FORWARD_REPLY or REPLICA in transit leaves on its direction, without an op tag, with its place in a
message of `len` bytes (R485, R520). `keep` says that the credits of the packet that it came in are kept. Its XID on the outbound
session is the inbound one in a range of its own. DESIGN CHOICE, assumption 101 (unsafe). -/
def transit (c : Core) (s : Nat) (p : Pkt) (keep : Bool) (d type cls len : Nat) (body : List Nat) (data : List Byte) : Core :=
  let n := dirPort c d (some (body.getD (if type = 0x75 then 1 else 4) 0))
  let c := if keep then
    { c with ring := { c.ring with transitHeld := c.ring.transitHeld ++ [(n, s, pktCost (datagram p.len p.enc), p.retx)] } } else c
  c.send { dst := .dir d, type := type, cls := cls, ctx := 0xFFFF, body := body, data := data, work := none, transit := true,
           part := some (p.msgOff, len), xid := some (2 ^ 31 + p.port % 2 * 2 ^ 30 + p.xid % 2 ^ 30) }

/-- FORWARD (R520, R521): served here when it is for this chip or its pair, passed on otherwise. -/
def forwardRx (p : Pkt) (x : FwdMsg) (m : M) : M :=
  if !inService m.core || !ringPort p.port then m
  else
    let mine := x.dst = m.core.chipId
    let full := tagsFull m.core
    let stuck := transitFull m.core x.dst x.dir x.tag
    match landPkt m.core { p with cls := 0 } false (if mine then full else stuck) with
    | (c, none) => { m with core := c }
    | (c, some s) =>
      let body := [x.origin, x.dst, x.hops - 1, x.dir, x.tag, x.part, x.ctx, x.type] ++ x.body
      let held := if full then [(s, pktCost (datagram p.len p.enc), p.retx)] else []
      let drop := fun (c : Core) =>
        if (if mine then full else stuck) then releaseCr c s 0 (pktCost (datagram p.len p.enc)) p.retx true else c
      if x.hops = 0 || (!mine && (memberIdx c x.dst).isNone) then
        { m with core := raise ((drop c).count RING_UNREACHABLE) .ringUnreachable 0 0 x.dst }
      else if !mine then { m with core := transit c s p stuck x.dir 0x74 0 x.len body x.data }
      else match assemble c s p.xid p.msgOff x.len x.part x.data with
        | (c, none) => { m with core := drop c }
        | (c, some data) =>
          let m := { m with core := c }
          -- a partition that is being removed (R649)
          if x.part < 16 && c.fld (SEC_PART x.part) SEC_PART_STATE == 3 then
            m.on (fun c => let c := drop c
              if x.type = 0x101 then c
              else if x.type = 0x100 then fwdReply c x.origin x.tag x.part [2 + statusCode .keyRevoked, 0, 0] [] none
              else fwdReply c x.origin x.tag x.part [statusCode .keyRevoked, 0, 0, 0, 0] [] none)
          else
          match x.type with
          | 0x40 => (cohServe none x.ctx (x.body.getD 1 0) (cohOfBody x.body data) (m.on drop)).on (fun c =>
              fwdReply c x.origin x.tag x.part [0, 0, 0, 0, 0] [] none)
          | 0x101 => m.on (fun c => cancelEntries x.origin x.ctx (x.body.getD 0 0) (drop c))
          | _ => m.on (fun c => admitReq c (.chip x.origin x.tag) x.ctx x.part x.type x.body data
              held)

/-- FORWARD_REPLY (R520): at its origin it resolves the request; a late one is discarded (R522). -/
def forwardReply (p : Pkt) (x : FwdRep) (m : M) : M :=
  if !inService m.core || !ringPort p.port then m
  else match landPkt m.core { p with cls := 1 } with
    | (c, none) => { m with core := c }
    | (c, some s) =>
      if x.origin ≠ c.chipId then
        { m with core := match (routeTo c x.origin).bind Route.prefer with
        | none => raise (c.count RING_UNREACHABLE) .ringUnreachable 0 0 x.origin
        | some d => transit c s p false d 0x75 1 x.len [x.origin, x.tag, x.part, statusCode x.status, x.count, x.detail.toNat,
            x.value.toNat, x.value2.toNat] x.data }
      else match assemble c s p.xid p.msgOff x.len x.part x.data with
        | (c, none) => { m with core := c }
        | (c, some data) => match c.ring.fwds.find? (fun f => f.tag == x.tag && f.kind != 3) with
          | none => { m with core := c }
          | some f => resolveAny f { status := x.status, count := x.count, detail := x.detail, value := x.value,
                                     value2 := x.value2, data := data } { m with core := c }

/-! ### Answers of expert entries (R331) -/

/-- EXPERT_CONTRIBUTION: code 0 brings gate × y as FP32 values and what stage 4 adds to the counts (R154, R155, R316), 1 is DROPPED, and 2 + status a failure. -/
def expertContribution (p : Pkt) (tag code : Nat) (sat nonfin len : Nat) (data : List Byte) (c : Core) : Core :=
  if !inService c || !ringPort p.port then c
  else match landPkt c { p with cls := 1 } with
    | (c, none) => c
    | (c, some s) => match assemble c s p.xid p.msgOff len
        (((c.ring.fwds.find? (fun f => f.tag == tag && f.kind == 3)).map (·.part)).getD 16) data with
      | (c, none) => c
      | (c, some d) =>
        let vals := (List.range (d.length / 4)).map (fun i => decodeFp32 (leNat ((d.drop (4 * i)).take 4)))
        let ans : EntryAns := match code with
          | 0 => .values vals { sat := sat, nonfin := nonfin }
          | 1 => .dropped
          | k => .failed (statusOfCode (k - 2))
        contribution tag ans c

end Sys2Proof.Machine
end

