-- ==== Sys2Proof/Machine/PairCmds.lean ====
section
/-! DEFINITION. The commands of a pointing pair (R602 to R620). -/

namespace Sys2Proof.Machine
open Sys2Proof

/-! ### States, the key and the fabric manager -/

def setPair (c : Core) (s : Nat) : Core := c.setFld PAIR_STATUS PAIR_STATUS_STATE s

def paired (c : Core) : Bool := c.flag PAIR_LAYOUT PAIR_LAYOUT_PAIRED
def primary (c : Core) : Bool := c.flag PAIR_LAYOUT PAIR_LAYOUT_ROLE_PRIMARY
def keyIn (c : Core) : Bool := c.flag PAIR_STATUS PAIR_STATUS_KEY_IN
def keyOut (c : Core) : Bool := c.flag PAIR_STATUS PAIR_STATUS_KEY_OUT
def keyHeld (c : Core) : Bool := c.flag PAIR_STATUS PAIR_STATUS_KEY_HELD
def setKeyOut (c : Core) (b : Bool) : Core := c.setFld PAIR_STATUS PAIR_STATUS_KEY_OUT (b2n b)

/-- PAIR_STATUS (Table 17-10), with an event code as the reason. DESIGN CHOICE, assumption 73 (safe). -/
def pairStatus (c : Core) (reason : Nat) : Core :=
  c.toFm 0x0903 [pairState c, partnerState c, reason, (c.rget PAIR_HEALTH_RX).toNat]

def mopPromote : Nat := 0x0900
def mopRelease : Nat := 0x0901

/-- The last word of the partner shows the bit (Table 17-8). -/
def partnerBit (c : Core) (i : Nat) : Bool := bitOf (c.rget PAIR_HEALTH_RX).toNat i

/-- Taking stops: the state before it returns, and a promotion is refused (Table 17-9). -/
def stopTaking (c : Core) (retry : Bool) : Core :=
  let before := c.pair.before
  let c := setKeyOut (setPair c before) false
  let again := if retry && primary c then some (c.glb.now + 1000000) else none
  let c := match c.pair.promoting with
    | some src => mgmtReply c src mopPromote .conflict []
    | none => c
  { c with pair := { c.pair with step := .idle, promoting := none, retryAt := again } }

/-- Taking begins: the guard of step 1 of Table 17-7. With IN asserted the key is not taken. -/
def takeKey (c : Core) : Core :=
  let s := pairState c
  let c := setPair { c with pair := { c.pair with before := s, step := .guard, stepSince := c.glb.now, retryAt := none } } 4
  if keyIn c then stopTaking c false else c

/-- The cases of R620 in which a member strapped PRIMARY enters TAKING by itself. -/
def selfReturn (c : Core) : Bool :=
  let s := pairState c
  primary c &&
    ((s == 1 && ((c.pair.aliveRx.isNone && 3 ≤ c.pair.memberTicks) ||
        (c.pair.aliveRx.isSome && !partnerBit c 27 && !partnerBit c 25))) ||
      (s == 9 && !keyOut c) || (c.flag PAIR_CTRL PAIR_CTRL_TEST && (s == 1 || s == 3)))

/-- Every 2 MiB unit of the backed X frames of this chip. -/
def xUnits (c : Core) : List Nat :=
  c.ext.exts.flatMap (fun e => if e.2.cls ≠ .x then [] else
    e.2.frames.flatMap (fun f => if f.2.st = .unbacked then [] else
      (List.range (frameBytes e.2 / 2 ^ 21)).map (fun i => e.1 * 2 ^ 16 + f.1 * (frameBytes e.2 / 2 ^ 21) + i)))

/-- What follows by itself in Table 17-9: self-return, the end of a recovery, a holder's partner that is synced. -/
def pairPoll (c : Core) : Core :=
  if !paired c || bootStage c ≠ stReady then c
  else
    let c := if c.pair.step = .idle && c.pair.retryAt.isNone && selfReturn c then takeKey c else c
    let c := if pairState c = 9 && !keyOut c && !primary c then
      setPair { c with pair := { c.pair with dataValid := false, synced := false, copied := [] } } 2 else c
    let holder := pairState c = 5 || pairState c = 6
    let done := holder && c.pair.dirty = [] && c.pair.outstanding = [] && c.pair.missed < 3 &&
      (partnerState c = 3 || partnerState c = 2)
    let c := if done then { c with pair := { c.pair with synced := true } } else c
    let c := if done && pairState c = 6 && partnerState c = 3 && partnerBit c 26 then setPair c 5 else c
    c.rset PAIR_RESYNC (BitVec.ofNat 64 (if holder then c.pair.dirty.length else 0))

/-- KEY_GUARD_END: the guard time has passed with IN deasserted; OUT is asserted (Table 17-7). -/
def keyGuardEnd (time : Nat) (c : Core) : Core :=
  let c := c.at time
  if pairState c = 4 && c.pair.step = .guard && !keyIn c &&
      c.pair.stepSince + c.fld PAIR_KEY_TIMING PAIR_KEY_TIMING_GUARD_US * 1000 ≤ c.glb.now then
    setKeyOut { c with pair := { c.pair with step := .settle, stepSince := c.glb.now } } true
  else c

/-- Frames not yet copied are lost when a member is promoted from STANDBY_RESYNC (R616). -/
def loseUncopied (c : Core) : Core :=
  if c.pair.before ≠ 2 then c
  else
    let l := if c.pair.dataValid then c.pair.dirty else (xUnits c).filter (fun k => !c.pair.copied.contains k)
    { c with pair := { c.pair with lost := distinctOf (c.pair.lost ++ l) } }

/-- KEY_SETTLE_END: the key is held and X accesses open (step 4). -/
def keySettleEnd (time : Nat) (c : Core) : Core :=
  let c := c.at time
  if pairState c = 4 && c.pair.step = .settle && !keyIn c &&
      c.pair.stepSince + c.fld PAIR_KEY_TIMING PAIR_KEY_TIMING_SETTLE_US * 1000 ≤ c.glb.now then
    let c := loseUncopied c
    let c := (c.setFld PAIR_STATUS PAIR_STATUS_KEY_HELD 1).count PAIR_KEY_CHANGES
    let c := raise c .pairKeyTaken 0 0
    let synced := partnerBit c 26
    let c := setPair c (if synced then 5 else 6)
    let dirty := if partnerState c = 2 && !partnerBit c 25 then xUnits c else []
    let c := { c with pair := { c.pair with step := .idle, dataValid := true, synced := synced, dirty := dirty, copied := [] } }
    let c := match c.pair.promoting with
      | some src => mgmtReply { c with pair := { c.pair with promoting := none } } src mopPromote .accepted []
      | none => c
    wakeOn (· == .pair) c
  else c

/-- KEY_RETRY_TIMER (R620). -/
def keyRetry (time : Nat) (c : Core) : Core :=
  let c := c.at time
  match c.pair.retryAt with
  | some t => if t ≤ c.glb.now then
      let c := { c with pair := { c.pair with retryAt := none } }
      if c.pair.step = .idle && selfReturn c then takeKey c else c
    else c
  | none => c

/-- PAIR_KEY_IN_CHANGE (R609, R610). -/
def keyInChange (asserted : Bool) (c : Core) : Core :=
  if keyIn c = asserted || !powered c then c
  else
    let c := c.setFld PAIR_STATUS PAIR_STATUS_KEY_IN (b2n asserted)
    if asserted then
      if pairState c = 4 && c.pair.step = .guard then stopTaking c false
      else if pairState c = 4 && c.pair.step = .settle then stopTaking (raise c .pairKeyCollision 0 0) true
      else if keyHeld c && (pairState c = 5 || pairState c = 6) then
        pairStatus (raise (setPair c 8) .pairDualKey 0 0) (evCode .pairDualKey)
      else c
    else if pairState c = 8 then wakeOn (· == .pair) (setPair c 6)
    else c

/-- KEY_RELEASE (R611): every started X write is made or resolved; OUT is deasserted. -/
def keyRelease (c : Core) : Core :=
  if (pairState c ≠ 7 && !(pairState c = 9 && keyOut c)) || c.pair.outstanding.any (fun r => !r.copy) then c
  else
    let held := keyHeld c
    let c := (setKeyOut c false).setFld PAIR_STATUS PAIR_STATUS_KEY_HELD 0
    let c := if held then c.count PAIR_KEY_CHANGES else c
    let c := if pairState c = 7 then setPair c (if c.pair.synced then 3 else 2) else c
    let c := { c with pair := { c.pair with copied := [], dirty := [], got := [] } }
    match c.pair.releasing with
    | some src => mgmtReply { c with pair := { c.pair with releasing := none } } src mopRelease .accepted []
    | none => c

/-- A holder begins to release the key. -/
def startRelease (c : Core) : Core := setPair c 7

/-- PAIR_PROMOTE (R616). Its row STARTING stands in Table 17-9 and not in R616: the device may take it or refuse it.
DESIGN CHOICE, assumption 73 (safe). -/
def pairPromote (force : Bool) (src : Src) (m : M) : MgLater :=
  let c := m.core
  if !srcFm src then now (refuse m .notPermitted)
  else
    let s := pairState c
    let (c, k) := if s = 1 then c.choose 2 else (c, 0)
    let m := { m with core := c }
    if !(s = 3 || (s = 2 && force) || (s = 1 && k = 1)) || c.pair.step ≠ .idle then now (refuse m .badState)
    else if keyIn c then now (refuse m .conflict)
    else (m.on (fun c => takeKey { c with pair := { c.pair with promoting := some src } }), none)

/-- PAIR_RELEASE (R611). -/
def pairRelease (src : Src) (m : M) : MgLater :=
  let c := m.core
  if !srcFm src then now (refuse m .notPermitted)
  else if !(pairState c = 5 || pairState c = 6 || pairState c = 8) then now (refuse m .badState)
  else (m.on (fun c => startRelease { c with pair := { c.pair with releasing := some src } }), none)

/-- PAIR_RECOVER (R614). -/
def pairRecover (m : M) : Mg :=
  let s := pairState m.core
  checked m [(paired m.core && s ≠ 0 && s ≠ 1, .badState)] (fun m =>
    accept (m.on (fun c =>
      let c := if s = 4 then stopTaking c false else c
      setPair c 9)))

/-! ### Health (R612, R613) -/

/-- The health word of this chip (Table 17-8), and the alive counter advanced. -/
def healthWord (c : Core) : Nat :=
  let ok := match c.pair.badTick with | some t => t + 1000 ≤ c.tick | none => true
  let all := (xUnits c).length
  let left := if pairState c = 2 && !c.pair.dataValid then ((xUnits c).filter (fun k => !c.pair.copied.contains k)).length
    else c.pair.dirty.length
  let percent := if all = 0 then 100 else 100 * (all - min all left) / all
  c.tick % 2 ^ 32 * 2 ^ 32 + pairState c * 2 ^ 28 + b2n (keyHeld c) * 2 ^ 27 + b2n c.pair.synced * 2 ^ 26 +
    b2n (c.pair.dataValid || keyHeld c) * 2 ^ 25 + b2n ok * 2 ^ 24 + percent * 2 ^ 16 + c.pair.aliveTx % 256 * 2 ^ 8

def sendHealth (c : Core) : Core :=
  if !paired c || pairState c = 0 then c
  else
    let c := { c with pair := { c.pair with aliveTx := (c.pair.aliveTx + 1) % 256 } }
    let w := healthWord c
    sendReplicaPlain (c.rset PAIR_HEALTH_TX (BitVec.ofNat 64 w)) 3 0 0 0 w (natLe 4 (crc32c (natLe 8 w)).toNat)

/-- An intact word of the partner: the member's own state follows (Table 17-9), and a holder whose partner begins to
resynchronise lists what it lacks (R618). -/
def takeHealth (c : Core) (w : Nat) : Core :=
  let fresh := partnerState c ≠ 2 || partnerBit c 25 && !bitOf w 25
  let st := bitsOf w 31 28
  let c := c.rset PAIR_HEALTH_RX (BitVec.ofNat 64 w)
  let c := (c.setFld PAIR_STATUS PAIR_STATUS_PARTNER_STATE st).setFld PAIR_STATUS PAIR_STATUS_HEALTH_AGE 0
  let c := { c with pair := { c.pair with aliveRx := some (bitsOf w 15 8), heard := true, lostActed := false, missed := 0 } }
  let s := pairState c
  let c :=
    if s = 1 && bitOf w 27 then setPair { c with pair := { c.pair with dataValid := false, synced := false, copied := [] } } 2
    else if s = 2 && bitOf w 27 && bitOf w 26 && c.pair.dirty = [] then
      setPair { c with pair := { c.pair with dataValid := true, synced := true } } 3
    else if (s = 5 || s = 6) && st = 2 && fresh then
      let dirty := if bitOf w 25 then c.pair.dirty else xUnits c
      { c with pair := { c.pair with synced := false, copied := [], dirty := dirty } }
    else c
  pairPoll (if partnerServes c then wakeOn (· == .pair) c else c)

/-- PARTNER_LOST (R613). -/
def partnerLost (c : Core) : Core :=
  if !paired c || c.pair.missed < 3 || c.pair.lostActed then c
  else
    let c := pairStatus (raise { c with pair := { c.pair with lostActed := true } } .pairPartnerLost 0 0) (evCode .pairPartnerLost)
    if pairState c = 5 then setPair { c with pair := { c.pair with synced := false } } 6 else c

/-! ### REPLICA messages (R603 to R607, R618, R619) -/

/-- A REPLICA message lands; one for another chip goes on. -/
def replicaLand (kind : Nat) (p : Pkt) (x : RepMsg) (m : M) : M × Option (List Byte) :=
  if !inService m.core || !ringPort p.port then (m, none)
  else
    let stuck := transitFull m.core x.dst x.dir x.tag
    match landPkt m.core { p with cls := 0 } false stuck with
    | (c, none) => ({ m with core := c }, none)
    | (c, some s) =>
      if x.hops = 0 || (x.dst != c.chipId && (memberIdx c x.dst).isNone) then
        let c := if stuck then releaseCr c s 0 (pktCost (datagram p.len p.enc)) p.retx true else c
        ({ m with core := raise (c.count RING_UNREACHABLE) .ringUnreachable 0 0 x.dst }, none)
      else if x.dst ≠ c.chipId then
          let body := [x.origin, x.dst, x.hops - 1, x.dir, x.tag, kind, x.part, x.extent, x.fseq, x.offset, x.len, pmapNat x.pmap]
          ({ m with core := transit c s p stuck x.dir 0x7A 0 x.len body x.data }, none)
      else match assemble c s p.xid p.msgOff x.len x.part x.data with
        | (c, d) => ({ m with core := c }, if x.origin = partnerChip c && paired c then d else none)

/-- DEDUCED, assumption 71 (unsafe). -/
def replyRep (c : Core) (origin tag part : Nat) (s : Status) : Core := fwdReply c origin tag part [statusCode s, 0, 0, 0, 0] [] none

/-- An X extent of this chip and the frame of an offset. -/
def xFrame (c : Core) (e off : Nat) : Option Nat :=
  match ext? c e with
  | some x => if x.cls = .x && off % 32 = 0 && off < extBytes x then some (off / frameBytes x) else none
  | none => none

/-- Words of a mirrored write or a copy are stored, poison by its marks (R604). `none` while the frame cannot be written yet: the message
stays in the staging store. -/
def storeReplica (m : M) (e off : Nat) (data : List Byte) (pmap : List Bool) : M × Option Status :=
  let (c, k) := frameWait m.core e off data.length true
  let m := { m with core := c }
  if k.isSome then (m, none)
  else
    let ws := (List.range (data.length / 32)).map (fun i => ((data.drop (32 * i)).take 32, pmap.getD i false))
    match writeMarked m 0 e (off / 32) ws with
    | (m, r) => (m, some (if r.wait.isSome then .noBacking else .done))

/-- A word of an extent as its frame holds it, compressed or not. -/
def peekWord (m : M) (e w : Nat) : M × WordRead :=
  match ext? m.core e with
  | none => (m, .good zeroWord)
  | some x =>
    let f := frameOf x (32 * w / frameBytes x)
    if f.st = .compressed || f.st = .decompressing then
      match f.packed.find? (fun p => p.idx == 32 * w % frameBytes x / 32) with
      | some p => (m, if p.poisoned then .poison p.data else .good p.data)
      | none => (m, .good zeroWord)
    else readExtWord m e w

/-- Bytes of a frame for a digest or a copy: poisoned words as 0xFF (R604), and which they are. -/
def peekBytes (m : M) (e off n : Nat) : M × List Byte × List Bool :=
  (List.range (n / 32)).foldl (fun (s : M × List Byte × List Bool) i =>
    match peekWord s.1 e (off / 32 + i) with
    | (m, .good d) => (m, s.2.1 ++ d, s.2.2 ++ [false])
    | (m, _) => (m, s.2.1 ++ List.replicate 32 0xFF, s.2.2 ++ [true])) (m, [], [])

/-- Bytes with the poisoned words as zeros (R604). -/
def blankPoison (b : List Byte) (ps : List Bool) : List Byte :=
  (List.range (b.length / 32)).flatMap (fun i => if ps.getD i false then zeroWord else (b.drop (32 * i)).take 32)

/-- A digest of the holder is compared (R618, R619): a frame that differs is fetched again. DEDUCED, assumption 72 (unsafe). -/
def compareDigest (m : M) (e f value : Nat) : M :=
  match ext? m.core e with
  | none => m
  | some x =>
    let n := frameBytes x
    let (m, bytes, _) := peekBytes m e (f * n) n
    if (crc64 bytes).toNat = value then m
    else m.on (fun c =>
      let c := if pairState c = 3 then
          let c := raise (c.count PAIR_VERIFY_MISMATCH) .pairVerifyMismatch 0 0 (e * 2 ^ 36 + f * n)
          { c with pair := { c.pair with badTick := some c.tick } }
        else c
      let c := (unitsOf e (f * n) n).foldl addDirty c
      (sendReplica c 2 x.partition e 0 (f * n) n [] 0 6 (e * 2 ^ 36 + f * n, 1, 0)).1)

/-- Digests whose writes have all been applied are compared. DEDUCED, assumption 72 (unsafe). -/
def runDigests (m : M) (e f : Nat) : M :=
  let key := e * 2 ^ 16 + f
  let due := m.core.pair.digests.filter (fun d => d.1 == e && xFrame m.core e d.2.1 == some f &&
    !serialNewer d.2.2.1 (amGet m.core.pair.fseq key 0))
  let m := m.on (fun c => { c with pair := { c.pair with digests := c.pair.digests.filter (fun d => !due.contains d) } })
  due.foldl (fun m d => if amGet m.core.pair.fseq key 0 == d.2.2.1 then compareDigest m e f d.2.2.2 else m) m

/-- The next message of a frame that a standby may apply: the copy of the frame, or the write that is next in its sequence (R605). -/
def nextReplica (c : Core) (e f : Nat) : Option Replica :=
  let next := (amGet c.pair.fseq (e * 2 ^ 16 + f) 0 + 1) % 2 ^ 32
  c.pair.early.find? (fun r => r.extent == e && r.frame == f && (r.copy || r.fseq == next))

/-- A message applied: the frame sequence is its own, and a copy ends what the frame's lists and earlier writes held. -/
def appliedReplica (c : Core) (r : Replica) : Core :=
  let key := r.extent * 2 ^ 16 + r.frame
  let units := unitsOf r.extent r.offset r.data.length
  let c := { c with pair := { c.pair with early := c.pair.early.filter (· != r), fseq := amSet c.pair.fseq key r.fseq } }
  if r.copy then { c with pair := { c.pair with
      copied := distinctOf (c.pair.copied ++ units), dirty := c.pair.dirty.filter (fun k => !units.contains k),
      early := c.pair.early.filter (fun y => y.copy || !(y.extent == r.extent && y.frame == r.frame && !serialNewer y.fseq r.fseq)) } }
  else c

/-- Messages of a frame are applied in the order of its sequence and answered (R605); one whose frame cannot be written yet waits. -/
def applyEarly : Nat → Nat → Nat → M → M
  | 0, _, _, m => m
  | n + 1, e, f, m =>
    match nextReplica m.core e f with
    | none => runDigests m e f
    | some r =>
      match storeReplica m e r.offset r.data r.poisons with
      | (m, none) => m
      | (m, some s) =>
        let part := match ext? m.core e with | some x => x.partition | none => 0
        let m := m.on (fun c =>
          let c := appliedReplica c r
          if r.owner < 2 ^ 64 then replyRep c (partnerChip c) r.owner part s else c)
        applyEarly n e f (runDigests m e f)

/-- Held messages whose frames can be written now are applied. -/
def applyReady (m : M) : M :=
  (distinctOf (m.core.pair.early.map (fun r => r.extent * 2 ^ 16 + r.frame))).foldl
    (fun m k => applyEarly (m.core.pair.early.length + 1) (k / 2 ^ 16) (k % 2 ^ 16) m) m

/-- A mirrored write or copy is held for its turn and applied when that has come. -/
def holdReplica (m : M) (r : Replica) : M :=
  let m := m.on (fun c => { c with pair := { c.pair with early := c.pair.early ++ [r] } })
  applyEarly (m.core.pair.early.length + 1) r.extent r.frame m

/-- REPLICA_WRITE at a standby. A sequence already applied is answered again. -/
def replicaWrite (p : Pkt) (x : RepMsg) (m : M) : M :=
  match replicaLand 0 p x m with
  | (m, none) => m
  | (m, some data) =>
    let c := m.core
    match xFrame c x.extent x.offset with
    | none => m.on (fun c => replyRep c x.origin x.tag x.part .accessDenied)
    | some f =>
      if !(pairState c = 2 || pairState c = 3) then m.on (fun c => replyRep c x.origin x.tag x.part .accessDenied)
      else
        let last := amGet c.pair.fseq (x.extent * 2 ^ 16 + f) 0
        if !serialNewer x.fseq last then m.on (fun c => replyRep c x.origin x.tag x.part .done)
        else holdReplica m { extent := x.extent, frame := f, fseq := x.fseq, offset := x.offset, data := data, poisons := x.pmap,
                             tick := c.tick, owner := x.tag, sent := none }

/-- REPLICA_RESYNC: a frame's copy at its frame sequence. -/
def replicaResync (p : Pkt) (x : RepMsg) (m : M) : M :=
  match replicaLand 1 p x m with
  | (m, none) => m
  | (m, some data) =>
    match xFrame m.core x.extent x.offset with
    | none => m.on (fun c => replyRep c x.origin x.tag x.part .accessDenied)
    | some f =>
      if !(pairState m.core = 2 || pairState m.core = 3) then m.on (fun c => replyRep c x.origin x.tag x.part .accessDenied)
      else
        holdReplica m { extent := x.extent, frame := f, fseq := x.fseq, offset := x.offset, data := data, poisons := x.pmap,
                        tick := m.core.tick, owner := x.tag, sent := none, copy := true }

/-- REPLICA_FETCH: data of this member's copy; poison is answered POISONED (R604). -/
def replicaFetch (p : Pkt) (x : RepMsg) (m : M) : M :=
  match replicaLand 2 p x m with
  | (m, none) => m
  | (m, some _) =>
    match xFrame m.core x.extent x.offset with
    | none => m.on (fun c => replyRep c x.origin x.tag x.part .accessDenied)
    | some _ =>
      let (m, b, ps) := peekBytes m x.extent x.offset x.len
      let s := if ps.any id then Status.poisoned else .done
      m.on (fun c => fwdReply c x.origin x.tag x.part [statusCode s, b.length, 0, 0, 0] (blankPoison b ps) none)

/-- REPLICA_HEALTH: the CRC and the alive counter are checked (R612). -/
def replicaHealth (p : Pkt) (x : RepMsg) (m : M) : M :=
  match replicaLand 3 p x m with
  | (m, none) => m
  | (m, some data) =>
    let w := x.offset % 2 ^ 64
    if leNat data ≠ (crc32c (natLe 8 w)).toNat || m.core.pair.aliveRx == some (bitsOf w 15 8) then m
    else m.on (fun c => takeHealth c w)

/-- REPLICA_DIGEST at a standby: compared once every write up to its sequence is applied. -/
def replicaDigest (p : Pkt) (x : RepMsg) (m : M) : M :=
  match replicaLand 4 p x m with
  | (m, none) => m
  | (m, some data) =>
    match xFrame m.core x.extent x.offset with
    | none => m
    | some f =>
      if !(pairState m.core = 2 || pairState m.core = 3) then m
      else runDigests (m.on (fun c => { c with pair := { c.pair with
        digests := c.pair.digests ++ [(x.extent, x.offset, x.fseq, leNat data)] } })) x.extent f

/-- REPLICA_WRITE_TIMEOUT (R606). -/
def replicaTimeout (e f q : Nat) (c : Core) : Core :=
  match c.pair.outstanding.find? (fun r => r.extent == e && r.frame == f && r.fseq == q &&
      r.tick + c.fld RING_FWD RING_FWD_TIMEOUT_TICKS < c.tick) with
  | none => c
  | some r =>
    let c := match r.sent with
      | some t => dropTag { c with ring := { c.ring with fwds := c.ring.fwds.filter (fun f => !(f.kind == 5 && f.tag == t)) } } t
      | none => c
    drainCheck (replicaFail c r)

/-- A digest of a frame goes to the partner. -/
def sendDigest (m : M) (e f : Nat) : M :=
  match ext? m.core e with
  | none => m
  | some x =>
    let n := frameBytes x
    let (m, bytes, _) := peekBytes m e (f * n) n
    m.on (fun c => sendReplicaPlain c 4 x.partition e (amGet c.pair.fseq (e * 2 ^ 16 + f) 0) (f * n) (natLe 8 (crc64 bytes).toNat))

/-- PAIR_RESYNC_COPY (R618): the next listed frame is copied and its digest sent. -/
def resyncCopy (ns : Nat) (m : M) : M :=
  let c := m.core
  match c.pair.dirty with
  | [] => m
  | k :: rest =>
    if !pairHolder c || !(partnerState c = 2 || partnerState c = 3) || 3 ≤ c.pair.missed || !stepFits c 3 ns || !inService c then m
    else
      let e := k / 2 ^ 16
      match ext? c e, xFrame c e (k % 2 ^ 16 * 2 ^ 21) with
      | some x, some f =>
        let n := frameBytes x
        let (m, bytes, ps) := peekBytes m e (f * n) n
        let q := amGet m.core.pair.fseq (e * 2 ^ 16 + f) 0
        match sendReplica m.core 1 x.partition e q (f * n) n (blankPoison bytes ps) (pmapNat ps) 5 (e * 2 ^ 16 + f, q, f * n) with
        | (_, none) => m
        | (c, some t) =>
          let r : Replica := { extent := e, frame := f, fseq := q, offset := f * n, data := [], poisons := [], tick := c.tick,
                               owner := 2 ^ 64, sent := some t, copy := true }
          let units := unitsOf e (f * n) n
          let c := { c with pair := { c.pair with
            outstanding := c.pair.outstanding ++ [r], dirty := c.pair.dirty.filter (fun k => !units.contains k),
            copied := distinctOf (c.pair.copied ++ units) } }
          sendDigest { m with core := useSlice (c.count PAIR_RESYNC_FRAMES) 3 ns } e f
      | _, _ => m.on (fun c => { c with pair := { c.pair with dirty := rest } })

/-- The backed X frames of this chip, as extent × 2^16 + frame. -/
def xFrames (c : Core) : List Nat :=
  c.ext.exts.flatMap (fun e => if e.2.cls ≠ .x then [] else
    e.2.frames.filterMap (fun f => if f.2.st = .unbacked then none else some (e.1 * 2 ^ 16 + f.1)))

/-- Digests of the verify turn in a tick (R619). -/
def verifyTick (m : M) : M :=
  let c := m.core
  let l := xFrames c
  if pairState c ≠ 5 || l = [] then m
  else
    let n := min l.length (c.fld PAIR_CTRL PAIR_CTRL_VERIFY_FRAMES)
    let picks := (List.range n).map (fun i => l.getD ((c.pair.verifyTurn + i) % l.length) 0)
    let m := picks.foldl (fun m k => sendDigest m (k / 2 ^ 16) (k % 2 ^ 16)) m
    m.on (fun c => { c with pair := { c.pair with verifyTurn := (c.pair.verifyTurn + n) % l.length } })

/-! ### Answers and waiting (R617) -/

/-- REPLY (R488): the answer to a request of this chip on a session, matched by XID. -/
def replyRx (p : Pkt) (rep : Rep) (m : M) : M :=
  if !inService m.core then m
  else match landPkt m.core { p with cls := 1 } with
    | (c, none) => { m with core := c }
    | (c, some s) => match (sess? c s).bind (fun x => x.asked.find? (fun a => a.1 == p.xid)) with
      | none => { m with core := c }
      | some (xid, msg) =>
        let c := modSess c s (fun x => { x with asked := x.asked.filter (fun a => a.1 != xid) })
        let m := { m with core := c }
        match c.ring.fwds.find? (fun f => some f.tag == msg.body[4]? && (f.kind == 5 || f.kind == 6)) with
        | some f => (pairReply m f rep).on drainCheck
        | none => m

/-- PAIR_PARK_TIMEOUT: WAIT_TICKS boundaries have passed for one that waits for the pair (R617). -/
def pairParkTimeout (who : ParkRef) (m : M) : M :=
  let c := m.core
  let lim := c.fld PAIR_CTRL PAIR_CTRL_WAIT_TICKS
  match who with
  | .work x n => match work? c x n with
    | some w => if w.phase = .parked .pair && lim ≤ w.waited then m.on (fun c => stopWork c x n .linkLost) else m
    | none => m
  | .thread t => match amGet? c.rasp.threads t with
    | some th => if th.wait = .parked .pair && lim ≤ th.waited then lateTrap m t (accessTrap .linkLost 0) else m
    | none => m
  | .request t => match req? c t with
    | some r => if r.cause = some .pair && r.reply.isNone && lim ≤ r.waited then
        m.on (fun c => answer c r { status := .linkLost }) else m
    | none => m

end Sys2Proof.Machine
end

