-- ==== Sys2Proof/Machine/SecCmds.lean ====
section
/-! DEFINITION. The commands of chapter 18: attestation, key messages, the removal of a partition, and the fuses. What a
signature, a decapsulation or an unwrap shows comes with the command as a verdict: the spec names the algorithms and keeps their
keys from every path (R629). -/

namespace Sys2Proof.Machine
open Sys2Proof

def modSec (c : Core) (f : SecSt → SecSt) : Core := { c with sec := f c.sec }

/-- SEC_PART.STATE of Table 18-12. -/
def psVacant : Nat := 1
def psActive : Nat := 2
def psRemoving : Nat := 3

def partState (c : Core) (q : Nat) : Nat := if q < 16 then c.fld (SEC_PART q) SEC_PART_STATE else 0
def setPartState (c : Core) (q st : Nat) : Core := c.setFld (SEC_PART q) SEC_PART_STATE st

/-- Slots that a partition owns (R635). -/
def slotsOf (c : Core) (q : Nat) : List Nat := (c.sec.slots.filter (fun s => s.2.owner == q)).map (·.1)

/-! ### Attestation (R645, R646) -/

def maskOf (l : List Nat) : Nat := sumNat (l.map (2 ^ ·))

/-- Engines and clusters that belong to a partition, fenced or not (R355, R364). -/
def assignedCe (c : Core) (q : Nat) : List Nat := (List.range 16).filter (fun n =>
  c.flag (stackReg CE_CFG n) CE_CFG_ASSIGNED && c.fld (stackReg CE_CFG n) CE_CFG_PARTITION == q)
def assignedRsp (c : Core) (q : Nat) : List Nat := (List.range 16).filter (fun k =>
  c.flag (stackReg RSP_CFG k) RSP_CFG_ASSIGNED && c.fld (stackReg RSP_CFG k) RSP_CFG_PARTITION == q)

def digestBytes (c : Core) (reg : Nat → Nat) : List Byte := (List.range 6).flatMap (fun i => natLe 8 (c.rget (reg i)).toNat)

/-- The bytes of a report that the signatures cover (Table 18-6, 0x000 to 0x5DF). -/
def reportBody (c : Core) (scope nonce : Nat) : List Byte :=
  let chip := scope == 255
  let part := fun (v : Nat) => if chip then 0 else v
  let q := scope
  natLe 4 0x54535441 ++ natLe 2 1 ++ natLe 1 scope ++ natLe 1 (part (partState c q)) ++ natLe 2 c.chipId ++ natLe 2 0 ++
  natLe 4 c.sec.fuses.svnMin ++ natLe 16 c.sec.fuses.serial ++ natLe 32 nonce ++ natLe 8 c.tick ++
  natLe 4 (c.fld SEC_SVN SEC_SVN_IMAGE) ++ natLe 4 0 ++
  digestBytes c SEC_M_ROM ++ digestBytes c SEC_M_IMAGE ++ digestBytes c SEC_M_CONFIG ++
  (if chip then List.replicate 48 0 else digestBytes c (SEC_M_PROG q)) ++
  natLe 2 (part (maskOf (assignedCe c q))) ++ natLe 2 (part (maskOf (assignedRsp c q))) ++
  natLe 1 (part (c.fld (MEM_GROUP 0 0 q) MEM_GROUP_BASE * 8 + c.fld (MEM_GROUP 0 0 q) MEM_GROUP_LOG2)) ++
  natLe 1 (part (c.fld (COH_WAYS q) COH_WAYS_F)) ++ natLe 1 (part (c.fld (SEC_PART q) SEC_PART_LINK_ENC_REQUIRED)) ++ natLe 1 0 ++
  (List.range 4).flatMap (fun p => natLe 4 (part (c.fld (SEC_WAYS q p) SEC_WAYS_MASK * 256))) ++ List.replicate 24 0 ++
  natLe 1184 (Config.kemKey c.sec.kemKey)

/-- The whole report: 4,880 bytes, signed with the identity keys. -/
def report (c : Core) (scope nonce : Nat) : List Byte :=
  let b := reportBody c scope nonce
  b ++ natLe 64 (Config.ed25519 c.sec.edSeed b) ++ natLe 3309 (Config.mldsa65 c.sec.mldsaKey b) ++ natLe 3 0

/-- An agent may ask for the scope of a partition in which it owns a context. -/
def ownsContextIn (c : Core) (agent q : Nat) : Bool :=
  (List.range 4096).any (fun x => ctxState c x ≠ 0 && ctxOwner c x == agent && ctxPart c x == q)

def attestMop : MopInfo := { mop := 0x0800, plain := true }

/-- DEDUCED, assumption 74 (unsafe). -/
def attestAsk (scope nonce : Nat) (src : Src) (m : M) : MgLater :=
  let c := m.core
  if !(scope < 16 || scope == 255) then now (refuse m .badField)
  else if !(match srcAgent src with | some a => scope < 16 && ownsContextIn c a scope | none => true) then
    now (refuse m .notPermitted)
  else if 16 ≤ c.sec.attest.length then now (refuse m .secBusy)
  else (m.on (fun c => modSec c (fun s => { s with attest := s.attest ++ [⟨src, scope, nonce⟩] })), none)

/-- The report at the head of the queue goes out, and its NONCE counts as issued. DEDUCED, assumption 74 (unsafe). -/
def attestSign (c : Core) : Core :=
  match c.sec.attest with
  | [] => c
  | a :: t =>
    let b := report c a.scope a.nonce
    let c := modSec c (fun s => { s with
      attest := t, nonces := (s.nonces.filter (fun n => c.glb.now ≤ n.2 + 10000000000)) ++ [(a.nonce, c.glb.now)] })
    mgmtReply (c.count SEC_ATTESTS) a.src 0x0800 .accepted (b.map (·.toNat))

/-- ATTEST. The signing unit works while the chip is powered. -/
def attestCmd (x : AttestStep) (m : M) : M :=
  match x with
  | .ask src scope nonce time => mgmtLater attestMop src (fun s m => attestAsk scope nonce s (m.on (·.at time))) m
  | .sign time => if inService m.core then m.on (fun c => attestSign (c.at time)) else m

/-! ### Key messages (R638 to R642) -/

/-- The NONCE of a report issued within the last 10 s. -/
def nonceOk (c : Core) (n : Nat) : Bool := c.sec.nonces.any (fun x => x.1 == n && c.glb.now ≤ x.2 + 10000000000)

/-- DEDUCED, assumption 75 (unsafe). -/
def loadSlot (c : Core) (n owner : Nat) (old : Option Nat) (key : BitVec 256) : Core :=
  let c := modSec c (fun s => { s with slots := amSet s.slots n ⟨owner, old, key⟩ })
  { c with net := { c.net with nonce := amSet c.net.nonce n 0 } }

/-- A refused key establishment counts. -/
def countRefused (a : Nat) (x : Mg) : Mg := match x.2.1 with | .accepted => x | _ => (x.1.on (fun c => c.count a), x.2)

/-- MGMT_KEY_ESTABLISH. `sigOk` says that both signatures verify under one key pair of the configuration's list.
DEDUCED, assumption 75 (unsafe). -/
def mgmtKeyEstablish (nonce : Nat) (sigOk : Bool) (src : Src) (m : M) : Mg :=
  countRefused SEC_ESTABLISH_REFUSED (checked m [
    (srcFm src, .notPermitted),
    (sigOk && m.core.boot.mgmt.keys ≠ [], .notPermitted),
    (nonceOk m.core nonce, .notPermitted)] (fun m => accept (m.on (fun c =>
      let (c, d) := c.draw
      loadSlot c 0 255 none (Config.kmac256 (Config.secret d) (ascii "mgmt" ++ natLe 2 c.chipId ++ natLe 32 nonce))))))

/-- PART_KEY_ESTABLISH: the KEK is set; from VACANT the program chain starts anew (Table 18-2, Table 18-5). -/
def partKeyEstablish (q nonce : Nat) (src : Src) (m : M) : Mg :=
  let st := partState m.core q
  countRefused SEC_ESTABLISH_REFUSED (checked m [
    (srcFm src, .notPermitted),
    (q < 16, .badField),
    (nonceOk m.core nonce, .notPermitted),
    (st == psVacant || st == psActive, .badState)] (fun m => accept (m.on (fun c =>
      let c := if st = psVacant then (List.range 6).foldl (fun c i => c.rset (SEC_M_PROG q i) 0) c else c
      let (c, d) := c.draw
      let kek := Config.kmac256 (Config.secret d) (ascii "part" ++ natLe 2 c.chipId ++ natLe 1 q ++ natLe 32 nonce)
      let c := modSec c (fun s => { s with keks := amSet s.keks q kek })
      (setPartState c q psActive).setFld (SEC_PART q) SEC_PART_KEK 1))))

/-- With slot 4,095 loaded, READY with JOIN_AT_START counts (R642). -/
def joinNow (c : Core) : Core :=
  if bootStage c == stReady && c.flag RING_CFG RING_CFG_JOIN_AT_START && mayJoin c && (slotOwner c 4095).isSome then startJoin c true
  else c

/-- KEY_LOAD (R640, R641). `unwraps` says that the wrapped key passes its integrity check under the KEK, or slot 0's key, which it cannot
while slot 0 is empty. Every refusal counts, and the four of the rule are logged. DESIGN CHOICE, assumption 19 (unsafe). -/
def keyLoad (slot owner : Nat) (unwraps : Bool) (src : Src) (m : M) : Mg :=
  let c := m.core
  let none := owner == 255
  let old := slotOwner c slot
  let fields := srcFm src && slot < 4096 && (owner < 16 || none)
  let x := checked m [
    (srcFm src, .notPermitted),
    (slot < 4096 && (owner < 16 || none), .badField),
    ((slot ≠ 0 && slot ≠ 4095) || none, .notPermitted),
    (old.isNone || old == some owner, .conflict),
    (none || partActive c owner, .badState),
    (slot ≠ 0 || old.isSome, .badState),
    (!none || (slotOwner c 0).isSome, .badState),
    (unwraps, .notPermitted)] (fun m => accept (m.on (fun c =>
      let (c, d) := c.draw
      let c := loadSlot (c.count SEC_KEY_LOADS) slot owner (old.map (fun _ => c.glb.now + 100000000)) (BitVec.ofNat 256 (Config.secret d))
      if slot = 4095 && old.isNone then joinNow c else c)))
  match x.2.1 with
  | .accepted => x
  | _ => (x.1.on (fun c =>
      let c := c.count SEC_KEY_REFUSED
      if fields then raise c .secKeyRefused 0 0 slot else c), x.2)

/-- OLD_KEY_EXPIRY. -/
def oldKeyExpiry (slot : Nat) (c : Core) : Core :=
  match (amGet? c.sec.slots slot).bind (·.oldUntil) with
  | some t => if t ≤ c.glb.now then endOldKey c slot else c
  | none => c

/-- A granted context or an open session names the slot. -/
def slotNamed (c : Core) (n : Nat) : Bool :=
  (List.range 4096).any (fun x => ctxState c x ≠ 0 && c.fld (CTX_CTRL x) CTX_CTRL_KEY_SLOT == n) ||
  c.net.sessions.any (fun s => sessLive s.2 && s.2.peerKey == n)

def dropSlots (c : Core) (l : List Nat) : Core :=
  let c := modSec c (fun s => { s with slots := s.slots.filter (fun x => !l.contains x.1) })
  { c with net := { c.net with nonce := c.net.nonce.filter (fun x => !l.contains x.1) } }

/-- KEY_UNLOAD (R642, R650). DESIGN CHOICE, assumption 19 (unsafe). -/
def keyUnload (n : Nat) (m : M) : Mg :=
  checked m [
    (n < 4096, .badField),
    ((slotOwner m.core n).isSome && !slotNamed m.core n, .badState)] (fun m => accept (m.on (fun c => dropSlots c [n])))

/-! ### Removing a tenant (R648 to R650) -/

/-- The context belongs to partition q. -/
def ctxIn (c : Core) (q x : Nat) : Bool := x < 4096 && ctxState c x ≠ 0 && ctxPart c x == q

/-- A message of a context of the partition. -/
def msgOf (c : Core) (q : Nat) (m : OutMsg) : Bool := ctxIn c q m.ctx

/-- Outbound data not yet encrypted, held writes and partly assembled messages of the partition are discarded (R649): the messages that no packet has
gone out of; of the others, the packets that have not. -/
def dropOutbound (c : Core) (q : Nat) : Core :=
  let mine := msgOf c q
  let c := (c.net.out.filter mine).foldl dropOut c
  let rdma := c.net.heldRdma.filter (fun h => !ctxIn c q h.1)
  let c := { c with net := { c.net with out := c.net.out.filter (fun m => !mine m), heldRdma := rdma } }
  c.net.sessions.foldl (fun c (s, x) =>
    let uids := (x.txMsgs.filter (fun t => mine t.msg)).map (·.uid)
    let pkts := x.txPkts.filter (fun p => !(uids.contains p.uid && p.sent == 0))
    let gone := x.txMsgs.filter (fun t => uids.contains t.uid && !pkts.any (fun p => p.uid == t.uid))
    let c := gone.foldl (fun c t => dropOut c t.msg) c
    setSess c s { x with
      txPkts := pkts, txMsgs := x.txMsgs.filter (fun t => !gone.contains t), held := x.held.filter (fun m => !mine m),
      asm := x.asm.filter (fun a => a.part != q) }) c

/-- The works of partition `q` whose status no key revocation replaces, by their keys: ABORTED_FLUSH decided already (R254). -/
def flushedWorks (c : Core) (q : Nat) : List Nat :=
  (c.work.flight.filter (fun e => ctxPart c e.2.ctx == q && e.2.status == some .abortedFlush)).map (·.1)

/-- A work of the partition completes KEY_REVOKED, unless its abort was decided before (R254): `kept` names those that a flush had
stopped. One whose record has been sent leaves flight with it. -/
def revokeWork (kept : List Nat) (c : Core) (w : Work) : Core :=
  let revoked := fun (w : Work) =>
    if w.status == some .abortedFlush && !kept.contains (wkey w.ctx w.num) then { w with status := some .keyRevoked, detail := 0 }
    else overrideStatus .keyRevoked w
  let c := (threadsOf c w.ctx w.num).foldl (fun c t => dropThread c t.1) c
  let c := { c with rasp := { c.rasp with saved := c.rasp.saved.filter (fun s => !(s.thread.ctx == w.ctx && s.thread.num == w.num)) } }
  let c := unlockRule c w
  match w.phase with
  | .recorded => leaveFlight c w.ctx w.num
  | _ =>
    let c := endWork (modWork c w.ctx w.num (fun w => { revoked w with prog := none, statusAddr := none })) w.ctx w.num
    modWork c w.ctx w.num (fun w => { revoked w with unacked := 0, queued := 0, recordHeld := false })

/-- The reply to a forwarded request of the partition that holds no op tag yet. -/
def revokedReply (c : Core) (origin tag part type : Nat) : Core :=
  if type = 0x100 then fwdReply c origin tag part [2 + statusCode .keyRevoked, 0, 0] [] none
  else fwdReply c origin tag part [statusCode .keyRevoked, 0, 0, 0, 0] [] none

/-- A request of the partition: one forwarded from another chip completes KEY_REVOKED, any other is dropped with what it was
to send. -/
def revokeReq (c : Core) (r : Request) : Core :=
  let c := unwait c (.request r.tag)
  match r.sender with
  | .chip _ _ => answer c r { status := .keyRevoked }
  | _ => dropTag (dropReq c r.tag) r.tag

/-- The partition's contexts, recasts, works, requests and queue pairs end: the revocation's own flush decides nothing, since the keys
are gone (R649), and a plan is STOPPED before its RECAST writes its progress record (R203, R217). DEDUCED, assumption 76 (unsafe). -/
def revokePart (c : Core) (q : Nat) : Core :=
  let kept := flushedWorks c q
  let c := ((List.range 4096).filter (ctxIn c q)).foldl revokeCtx c
  let c := killTables (dropOutbound c q) q
  let c := ((c.work.flight.map (·.2)).filter (fun w => ctxPart c w.ctx == q)).foldl (revokeWork kept) c
  let c := (c.net.requests.filter (fun r => r.part == q)).foldl revokeReq c
  let c := (c.net.stalled.filter (fun r => r.1.part == q)).foldl (fun c r =>
    let c := r.2.foldl (fun c h => releaseCr c h.1 0 h.2.1 h.2.2 true) c
    match r.1.sender with
    | .chip o t => revokedReply c o t r.1.part r.1.type
    | _ => c) c
  let c := { c with net := { c.net with stalled := c.net.stalled.filter (fun r => r.1.part != q) } }
  let c := c.work.batches.foldl (fun c b =>
    let es := b.ents.filter (fun e => e.part == q)
    if es == [] then c else takeEntries (es.foldl (fun c e => answerEntry c e (.failed .keyRevoked)) c) b es) c
  (c.net.qps.filter (fun x => x.2.partition == q)).foldl (fun c x => qpError c x.1 (statusCode .keyRevoked)) c

/-- Step 1: the keys go. -/
def destroyKeys (c : Core) (q : Nat) : Core :=
  let c := dropSlots c (slotsOf c q)
  let c := modSec c (fun s => { s with memKeys := amDel s.memKeys q, keks := amDel s.keks q })
  (setPartState c q psRemoving).setFld (SEC_PART q) SEC_PART_KEK 0

def setStep (c : Core) (q k : Nat) : Core := c.setFld (SEC_PART q) SEC_PART_REMOVE_STEP k

/-- Step 3: extents are withdrawn, programs and bindings go, and codebooks are zero. -/
def stripPart (m : M) (q : Nat) : M :=
  let m := (m.core.ext.exts.filter (fun x => x.2.partition == q)).foldl (fun m x => withdrawExt m x.1) m
  m.on (fun c =>
    let c := (c.rasp.slots.filter (fun s => s.1 / 256 == q)).foldl (fun c s => dropSlot c s.1) c
    let c := { c with rasp := { c.rasp with binds := c.rasp.binds.filter (fun b => b.1 / 64 != q) },
                      work := { c.work with codebooks := c.work.codebooks.filter (fun b => b.1 / 16 != q) } }
    (List.range 16).foldl (fun c i => (List.range 8).foldl (fun c r => c.rset (CAL_CB (16 * q + i) r) 0) c) c)

/-- PART_REMOVE: steps 1 to 3 of Table 18-7; step 4 then waits. -/
def partRemove (q : Nat) (m : M) : Mg :=
  let st := partState m.core q
  if 16 ≤ q then refuse m .badField
  else if st = psVacant then accept m [0]
  else if st = psRemoving then accept m [m.core.fld (SEC_PART q) SEC_PART_REMOVE_STEP]
  else if st = psActive then
    let m := m.on (fun c => freezeObjects (revokePart (destroyKeys c q) q) q)
    let m := (m.core.coh.domains.filter (fun d => d.2.partition == q)).foldl (fun m d => goDown m d.1 7 none) m
    let m := stripPart m q
    accept (m.on (fun c => setStep c q 4)) [4]
  else refuse m .badState

/-- Step 4 is over: no work of the partition is in flight, no request or message of it holds an op tag, and its extents are
WITHDRAWN. -/
def partRetired (c : Core) (q : Nat) : Bool :=
  (c.work.flight.map (·.2)).all (fun w => ctxPart c w.ctx != q) &&
  c.net.requests.all (fun r => r.part != q) && c.ring.fwds.all (fun f => f.part != q) &&
  c.net.sessions.all (fun s => s.2.txMsgs.all (fun t => !(t.msg.tag.isSome && msgOf c q t.msg))) &&
  (c.ext.exts.filter (fun x => x.2.partition == q)).all (fun x => x.2.st == .withdrawn)

/-- A scrubbed engine: its operand store holds zero codewords, and nothing that it had loaded is left. -/
def blankEngine (e : Engine) : Engine :=
  { e with panes := [], acts := [], accs := [], cbCache := [], cbBad := [], lastCols := 0, busy := [], badWords := [] }

/-- REMOVAL_RETIRED: step 5 scrubs what the partition used on the chip. DEDUCED, assumption 76 (unsafe). -/
def removalRetired (q : Nat) (c : Core) : Core :=
  if !(partState c q == psRemoving && c.fld (SEC_PART q) SEC_PART_REMOVE_STEP == 4 && partRetired c q) then c
  else
    let es := assignedCe c q
    let ks := assignedRsp c q
    let c := { c with
      work := { c.work with
        engines := amMap c.work.engines (fun n e => if es.contains n then blankEngine e else e),
        tables := c.work.tables.filter (fun t => t.2.partition != q) },
      rasp := { c.rasp with
        scratch := c.rasp.scratch.filter (fun s => !ks.contains (thrCluster s.1)),
        windows := c.rasp.windows.filter (fun w => ctxPart c (w.1 / 2 ^ 64) != q) } }
    let c := icClear c ks.contains
    let c := (c.coh.domains.filter (fun d => d.2.partition == q && d.2.st == .draining)).foldl (fun c d => domainDown c d.1) c
    setStep c q 5

/-- PART_REMOVED: step 6. -/
def partRemoved (q : Nat) (c : Core) : Core :=
  if !(partState c q == psRemoving && c.fld (SEC_PART q) SEC_PART_REMOVE_STEP == 5) then c
  else
    let c := freeObjects c q
    let (c, k) := c.drawN 8
    let c := modSec c (fun s => { s with memKeys := amSet s.memKeys q k })
    let c := setStep (setPartState c q psVacant) q 0
    (c.count SEC_REMOVALS).toFm 0x0808 [q, c.tick]

/-! ### The program chain (R647) -/

/-- C ← SHA3-384(C ‖ k ‖ s ‖ o ‖ m). -/
def chainProgram (c : Core) (q k slot op : Nat) (digest : List W64) : Core :=
  let d := Config.sha3 (digestBytes c (SEC_M_PROG q) ++ natLe 1 k ++ natLe 1 slot ++ natLe 1 op ++
    digest.flatMap (fun w => natLe 8 w.toNat))
  (digestWords d).zipIdx.foldl (fun c (w, i) => c.rset (SEC_M_PROG q i) w) c

/-- PROG_REGISTER of an ACTIVE partition extends its chain (R626, R647). DEDUCED, assumption 80 (unsafe). -/
def registerProgram (src : Src) (part slot : Nat) (image : W64) (m : M) : Mg :=
  if part < 16 && !partActive m.core part then refuse m .badState
  else match progRegister src part slot image m with
    | (m, .accepted, b) =>
      (m.on (fun c => match amGet? c.rasp.slots (handleOf part slot) with
        | some p => chainProgram c part 1 slot 0 p.digest
        | none => c), .accepted, b)
    | x => x

/-- PROG_BIND of an ACTIVE partition extends its chain. -/
def bindProgram (src : Src) (part opcode handle insts window : Nat) (m : M) : Mg :=
  if part < 16 && !partActive m.core part then refuse m .badState
  else match progBind src part opcode handle insts window m with
    | (m, .accepted, b) =>
      (m.on (fun c => match amGet? c.rasp.slots handle with
        | some p => chainProgram c part 2 (handle % 256) opcode p.digest
        | none => c), .accepted, b)
    | x => x

/-! ### Fuses (R633, R634) -/

/-- OWNER_PROVISION: the recovery loader burns OWNER_KH from the owner's two public keys. -/
def ownerProvision (edPub mldsaPub : Nat) (m : M) : Mg :=
  if m.core.sec.fuses.ownerKh.isSome then refuse m .badState
  else accept (m.on (fun c => modSec c (fun s => { s with fuses := { s.fuses with
    ownerKh := some (Config.sha3 (natLe 32 edPub ++ natLe 1952 mldsaPub)) } })))

/-- A write of one to SEC_CTRL.SVN_COMMIT: SVN_MIN rises to the running image's SVN. A fuse is never cleared. -/
def svnCommit (c : Core) : Core :=
  let v := c.fld SEC_SVN SEC_SVN_IMAGE
  modSec c (fun s => { s with fuses := { s.fuses with svnMin := max s.fuses.svnMin v } })

end Sys2Proof.Machine
end

