-- ==== Sys2Proof/Machine/PowerCmds.lean ====
section
/-! DEFINITION. Operating points (R665, R666), power domains and watch mode (R667 to R673), quiesce (R675) and the loss of power
(R677). -/

namespace Sys2Proof.Machine
open Sys2Proof

def modBoot (c : Core) (f : BootSt → BootSt) : Core := { c with boot := f c.boot }

/-! ### Operating points (R665, R666) -/

/-- The arithmetic clock of a point in MHz (Table 0-1); 4 is the boot oscillator. -/
def opMhz : Nat → Nat
  | 0 => 1500 | 1 => 1200 | 2 => 900 | 3 => 600 | _ => 500

def opNow (c : Core) : Nat := c.fld PWR_OP PWR_OP_CURRENT
def setVid (c : Core) (v : Nat) : Core := c.setFld PWR_VF PWR_VF_VID v
/-- DEDUCED, assumption 77 (unsafe). -/
def setOpStep (c : Core) (s : OpStep) : Core := modBoot c (fun b => { b with op := s })

/-- The next step of a change, from the point reached to TARGET: the voltage first on the way up, last on the way down. A change
back to the point reached only restores its voltage. DEDUCED, assumption 77 (unsafe). -/
def opAdvance (c : Core) : Core :=
  let t := c.fld PWR_OP PWR_OP_TARGET
  let cur := opNow c
  if t = cur then
    ((setOpStep (setVid c t) .idle).setFld PWR_OP PWR_OP_BUSY 0).count PWR_OP_CHANGES
  else
    let c := c.setFld PWR_OP PWR_OP_BUSY 1
    if opMhz cur < opMhz t then setOpStep (setVid c t) (.settle t) else setOpStep c (.lock t)

/-- A write to PWR_OP.TARGET: a change under way lets its step finish first. -/
def opTarget (c : Core) (t : Nat) : Core :=
  let c := c.setFld PWR_OP PWR_OP_TARGET t
  match c.boot.op with
  | .idle => if t = opNow c then c else opAdvance c
  | _ => c

/-- VID_SETTLE_END. -/
def vidSettled (c : Core) : Core :=
  match c.boot.op with
  | .settle t => if c.fld PWR_OP PWR_OP_TARGET = t then setOpStep c (.lock t) else opAdvance c
  | _ => c

/-- PLL_LOCK: the clock switches. -/
def pllLock (c : Core) : Core :=
  match c.boot.op with
  | .lock t => opAdvance (setVid (c.setFld PWR_OP PWR_OP_CURRENT t) t)
  | _ => c

/-! ### Parts and their domains (Table 19-6) -/

/-- The part of domain `d` is fenced, or the die that it needs. -/
def domFenced (c : Core) (d : Nat) : Bool :=
  let f := fun (x : Fld) (i : Nat) => bitOf (c.fld GLB_FENCED x) i
  if d < 4 then f GLB_FENCED_COMPUTE d || f GLB_FENCED_BASE d
  else if d < 20 then f GLB_FENCED_ENGINES (d - 4) || f GLB_FENCED_COMPUTE ((d - 4) / 4) || f GLB_FENCED_BASE ((d - 4) / 4)
  else if d < 36 then f GLB_FENCED_CLUSTERS (d - 20) || f GLB_FENCED_COMPUTE ((d - 20) / 4) || f GLB_FENCED_BASE ((d - 20) / 4)
  else if d < 52 then f GLB_FENCED_STACKS (d - 36) || f GLB_FENCED_BASE ((d - 36) / 4)
  else f GLB_FENCED_BASE (portPlinth (d - 52)) || c.flag (PWR_DOMAIN d) PWR_DOMAIN_FENCED

/-- The compute die of an engine or cluster domain. -/
def dieOf (d : Nat) : Nat := if d < 20 then (d - 4) / 4 else (d - 20) / 4

/-- Engines and clusters of compute die `p`, as domains. -/
def dieParts (p : Nat) : List Nat := (List.range 4).flatMap (fun i => [4 + 4 * p + i, 20 + 4 * p + i])

/-- The management session (Table 19-4). DEDUCED, assumption 22 (safe). -/
def mgmtSession (c : Core) : Option Nat :=
  (c.net.sessions.find? (fun s => sessLive s.2 && s.2.remote == c.boot.mgmt.ep && s.1 < 8188)).map (·.1)

/-- The port that carries the only UP path of the management session. -/
def mgmtPort (c : Core) : Option Nat :=
  match (mgmtSession c).bind (sess? c) with
  | none => none
  | some x => match x.paths.filter (·.up) with
    | [a] => some a.port
    | _ => none

/-- A backing frame uses stack `n`. -/
def locUses (c : Core) (n : Nat) (l : Loc) : Bool :=
  match l with
  | .p _ => (stripeStacks c).contains n || (n == outStack c && c.fld PAIR_REBUILD PAIR_REBUILD_SPARE == 1)
  | .m s _ => s == n || s ^^^ 8 == n
  | .x s _ => s == n
  | .n s _ => s == n

/-- A frame on the stack is backed, or a rebuild uses the stack. -/
def stackUsed (c : Core) (n : Nat) : Bool :=
  c.ext.exts.any (fun x => x.2.frames.any (fun f => (match f.2.loc with | some l => locUses c n l | none => false) ||
    (match f.2.dest with | some l => locUses c n l | none => false))) ||
  (c.fld PAIR_REBUILD PAIR_REBUILD_STATE == 1 && n == outStack c)

/-! ### Commands (R668) -/

/-- A target that R668 refuses. DEDUCED, assumption 78 (unsafe). -/
def pwrRefusal (c : Core) (d t : Nat) : Bool :=
  let st := domState c d
  let off := t ≠ 0
  (d < 4 && off && (dieParts d).any (fun x => domState c x == 0)) ||
  (4 ≤ d && d < 36 && t == 0 && domState c (dieOf d) ≠ 0) ||
  (36 ≤ d && d < 52 && t == 2 && stackUsed c (d - 36)) ||
  (52 ≤ d && off && ((d < 64 && domState c d == 0 && ((List.range 12).filter (fun n => domState c (52 + n) == 0)).length == 1) ||
    mgmtPort c == some (d - 52))) ||
  (st == 3 && t == 1) ||
  (domFenced c d && t == 0)

def freshDom : DomX := { goal := 0, next := none, asked := [], release := false, fromOff := false }
def domX (c : Core) (d : Nat) : DomX := amGet c.boot.doms d freshDom
def modDom (c : Core) (d : Nat) (f : DomX → DomX) : Core := modBoot c (fun b => { b with doms := amSet b.doms d (f (domX c d)) })

/-- PWR_SET. -/
def mopPwr : Nat := 0x0B00

/-- A state is reached: the requests that asked for it are answered, and all of them when no transition follows. -/
def domReached (c : Core) (d : Nat) : Core :=
  let x := domX c d
  let st := domState c d
  let reached := if st = 0 then 0 else if st = 2 then 1 else 2
  let mine := x.asked.filter (fun a => x.next.isNone || a.2 == reached)
  let c := modDom c d (fun x => { x with asked := x.asked.filter (fun a => !mine.contains a) })
  mine.foldl (fun c a => mgmtReply c a.1 mopPwr .accepted [st]) c

/-- The status register of an engine or cluster, or a stack's, follows its domain. -/
def showState (c : Core) (d : Nat) (on ret off : Nat) : Core :=
  let st := domState c d
  let v := if st = 3 then off else if st = 2 || st = 5 then ret else on
  if 4 ≤ d && d < 20 then c.setFld (stackReg CE_STATUS (d - 4)) CE_STATUS_STATE v
  else if 20 ≤ d && d < 36 then c.setFld (stackReg RSP_STATUS (d - 20)) RSP_STATUS_STATE v
  else c

/-- 0 OFF, 1 RETENTION, 2 IDLE as a register shows them; a fenced part keeps what it shows. -/
def showPart (c : Core) (d : Nat) : Core := if domFenced c d then c else showState c d 2 1 0

/-- The wake of a domain starts (R671). -/
def startWake (c : Core) (d : Nat) : Core :=
  let off := domState c d == 3
  let c := modDom (setDomState c d 4) d (fun x => { x with fromOff := off, next := none })
  if 36 ≤ d && d < 52 && !stackBad c (d - 36) then c.setFld (stackReg MEM_STATUS (d - 36)) MEM_STATUS_STATE 1 else c

/-- An entry starts (R669): the dispatcher places nothing new on the domain; a stack's queues are quiesced; a port's links end. -/
def startEntry (c : Core) (d t : Nat) : Core :=
  let c := modDom (setDomState c d 1) d (fun x => { x with goal := t, next := none })
  if 36 ≤ d && d < 52 then (List.range 32).foldl (fun c p => quiescePc c (pcKey (d - 36) p)) c
  else if 52 ≤ d then (List.range 8).foldl (fun c k => pathsDown c (d - 52) k) c
  else c

/-- The domain goes OFF: signals and pads are latched, and nothing is kept (R671, R672). -/
def enterOff (m : M) (d : Nat) : M :=
  let m := m.on (fun c => (setDomState c d 3).setFld (PWR_DOMAIN d) PWR_DOMAIN_PAD_HELD 1)
  let m := m.on (fun c => showPart (c.count PWR_ENTRIES) d)
  if 4 ≤ d && d < 20 then m.on (fun c =>
    { c with work := { c.work with engines := amMod c.work.engines (d - 4) blankEngine } })
  else if 20 ≤ d && d < 36 then m.on (fun c =>
    icClear { c with rasp := { c.rasp with scratch := c.rasp.scratch.filter (fun s => thrCluster s.1 != d - 20) } } (· == d - 20))
  else if 36 ≤ d && d < 52 then
    let n := d - 36
    { core := if stackBad m.core n then m.core else m.core.setFld (stackReg MEM_STATUS n) MEM_STATUS_STATE 4,
      mem := m.mem.clear (n * 2 ^ 32) ((n + 1) * 2 ^ 32) }
  else m

/-- The domain reaches RETENTION. -/
def enterRetention (c : Core) (d : Nat) : Core :=
  let c := showPart ((setDomState c d 2).count PWR_ENTRIES) d
  if 36 ≤ d && d < 52 && !stackBad c (d - 36) then c.setFld (stackReg MEM_STATUS (d - 36)) MEM_STATUS_STATE 3 else c

/-- A domain that is ON: a pad hold ends when a release has been asked for, or AUTO_RELEASE is set (R672). -/
def releaseOn (c : Core) (d : Nat) : Core :=
  let c := if (domX c d).release || c.flag (PWR_DOMAIN d) PWR_DOMAIN_AUTO_RELEASE then c.setFld (PWR_DOMAIN d) PWR_DOMAIN_PAD_HELD 0 else c
  modDom c d (fun y => { y with release := false })

/-- A command for a domain takes effect (Table 19-8). DEDUCED, assumption 78 (unsafe). -/
def driveDomain (m : M) (d t : Nat) : M :=
  let m := m.on (fun c => c.setFld (PWR_DOMAIN d) PWR_DOMAIN_TARGET t)
  let x := domX m.core d
  match domState m.core d with
  | 0 => if t = 0 then m.on (fun c => domReached (releaseOn c d) d) else m.on (fun c => startEntry c d t)
  | 1 => m.on (fun c => modDom c d (fun y =>
      if t = x.goal then { y with next := none }
      else if t = 1 then { y with goal := 1, next := none }
      else { y with next := some t }))
  | 2 =>
    if t = 0 then m.on (fun c => startWake c d)
    else if t = 1 then m.on (fun c => domReached c d)
    else (enterOff m d).on (fun c => domReached c d)
  | 3 => if t = 0 then m.on (fun c => startWake c d) else m.on (fun c => domReached c d)
  | 4 => m.on (fun c => modDom c d (fun y => { y with next := if t = 0 then none else some t }))
  | _ => m.on (fun c => modDom c d (fun y => { y with next := if t = 1 then none else some t }))

/-- PWR_REFUSED (R668). -/
def pwrRefused (m : M) (d : Nat) (k : MgmtCode) : Mg := refuse (m.on (fun c => raise c .pwrRefused 0 0 d)) k

/-- The spare stack's PHY, whose watch chapter 17 governs. -/
def isSpare (c : Core) (d : Nat) : Bool := c.flag PAIR_LAYOUT PAIR_LAYOUT_SPARE && d == physDomain (outStack c)

/-- PWR_SET: domain, target, flags (bit 0 WATCH, bit 1 RELEASE) and period. -/
def pwrSet (d t flags period : Nat) (src : Src) (m : M) : MgLater :=
  if !srcFm src then now (refuse m .notPermitted)
  else if !(d < 68 && t ≤ 2 && flags < 4) then now (refuse m .badField)
  else
    let watch := bitOf flags 0
    if watch && (d < 4 || t ≠ 1) then now (pwrRefused m d .badField)
    else if watch && !(100 ≤ period && period ≤ 60000) then now (refuse m .badField)
    else if pwrRefusal m.core d t then now (pwrRefused m d .badState)
    else
      let m := m.on (fun c =>
        let c := if isSpare c d then
            (if watch then (c.setFld PAIR_CTRL PAIR_CTRL_SPARE_WATCH_EN 1).setFld PAIR_SPARE_WATCH PAIR_SPARE_WATCH_PERIOD_MS period
             else c)
          else
            let c := c.setFld (PWR_DOMAIN d) PWR_DOMAIN_WATCH (b2n watch)
            if watch then c.setFld (PWR_WATCH d) PWR_WATCH_PERIOD_MS period else c
        modDom c d (fun x => { x with release := x.release || bitOf flags 1, asked := x.asked ++ [(src, t)] }))
      (driveDomain m d t, none)

/-- Why a REG_WRITE that takes PWR_DOMAIN[d] from `old` to TARGET `t` and WATCH `watch` is refused, if it is (R668). A write that
leaves both is no command. -/
def domainRefusal (c : Core) (d : Nat) (old : W64) (t : Nat) (watch : Bool) : Option MgmtCode :=
  let was := bitsOf old.toNat PWR_DOMAIN_TARGET.hi PWR_DOMAIN_TARGET.lo
  let watched := bitOf old.toNat PWR_DOMAIN_WATCH.lo
  if t = was && watch = watched then none
  else if watch && (d < 4 || t ≠ 1) then some .badField
  else if t ≠ was && pwrRefusal c d t then some .badState
  else none

/-- A REG_WRITE of PWR_DOMAIN[d] that has stored its fields over `old`: a refused command changes nothing; the reply to another does not
wait for the transition. -/
def domainWrite (d : Nat) (old : W64) (release : Bool) (m : M) : M :=
  let a := PWR_DOMAIN d
  let t := m.core.fld a PWR_DOMAIN_TARGET
  let was := bitsOf old.toNat PWR_DOMAIN_TARGET.hi PWR_DOMAIN_TARGET.lo
  match domainRefusal m.core d old t (m.core.flag a PWR_DOMAIN_WATCH) with
  | some _ => m.on (fun c => raise (c.rset a old) .pwrRefused 0 0 d)
  | none =>
    let m := if release then m.on (fun c => c.setFld a PWR_DOMAIN_PAD_HELD 0) else m
    if t = was then m else driveDomain (m.on (fun c => c.setFld a PWR_DOMAIN_TARGET was)) d t

/-- A work leaves an engine that is to be entered: its step has ended, and it takes another engine. -/
def freeEngine (c : Core) (n : Nat) : Core :=
  match amGet? c.work.engines n with
  | none => c
  | some e => match e.holder with
    | none => c
    | some (x, num) =>
      let c := modWork c x num (fun w => if w.engine = some n then { w with engine := none, phase := if w.phase = .running then .ready else w.phase }
        else w)
      { c with work := { c.work with engines := amMod c.work.engines n (fun e => { e with holder := none, busy := [] }) } }

/-- An engine is at a step boundary (R358): no thread holds it, and its work does not wait for a reply in mid-step. -/
def engineAtBoundary (c : Core) (n : Nat) : Bool :=
  match (amGet? c.work.engines n).bind (·.holder) with
  | none => true
  | some (x, num) => c.rasp.threads.all (fun t => t.2.engine ≠ some n) &&
      (match work? c x num with | some w => w.engine ≠ some n || (match w.phase with | .parked _ => false | _ => true) | none => true)

/-- A parked thread is saved as at a yield; it executes its instruction again when it resumes (R669). -/
def saveParked (c : Core) (t : Nat) (th : Thread) : Core :=
  match th.wait, (work? c th.ctx th.num).bind (·.prog) with
  | .parked _, some p =>
    if p.isRule then c else yieldInstance c t { th with pc := th.pc - 4 } p.saveBytes
  | _, _ => c

/-- A slice of a built-in work leaves a cluster that is to be entered: its step has ended, and its next slice goes elsewhere. -/
def leaveCluster (c : Core) (w : Work) : Core :=
  modWork (giveEngine c w) w.ctx w.num (fun w => { w with phase := .ready, engine := none, cluster := none })

/-- What the entry waits for (Table 19-7) has come. -/
def entryReady (c : Core) (d : Nat) : Bool :=
  if 4 ≤ d && d < 20 then engineAtBoundary c (d - 4)
  else if 20 ≤ d && d < 36 then (slicesOn c (d - 20)).all (·.phase == .running) &&
    (c.rasp.threads.filter (fun x => thrCluster x.1 == d - 20)).all (fun x => match x.2.wait with | .parked _ => true | _ => false)
  else if 52 ≤ d then (portSt c (d - 52)).sending.isNone
  else true

/-- DOMAIN_ENTRY_END. -/
def domainEntryEnd (d : Nat) (m : M) : M :=
  if !(d < 68 && domState m.core d == 1 && entryReady m.core d) then m
  else
    let m := m.on (fun c =>
      if 4 ≤ d && d < 20 then freeEngine c (d - 4)
      else if 20 ≤ d && d < 36 then
        let c := (c.rasp.threads.filter (fun x => thrCluster x.1 == d - 20)).foldl (fun c x => saveParked c x.1 x.2) c
        (slicesOn c (d - 20)).foldl leaveCluster c
      else if 52 ≤ d then c.setFld (MAC_STATUS (d - 52)) MAC_STATUS_LINK_UP 0
      else c)
    if 20 ≤ d && d < 36 && m.core.rasp.threads.any (fun x => thrCluster x.1 == d - 20) then m
    else
      let x := domX m.core d
      let m := if x.goal = 2 then enterOff m d else m.on (fun c => enterRetention c d)
      let m := m.on (fun c => domReached c d)
      match x.next with
      | some 0 => m.on (fun c => startWake c d)
      | some 2 => (enterOff (m.on (fun c => modDom c d (fun x => { x with next := none }))) d).on (fun c => domReached c d)
      | _ => m

/-- DOMAIN_WAKE_END. `ok`: a stack's training centred every lane. -/
def domainWakeEnd (d : Nat) (ok : Bool) (m : M) : M :=
  if !(d < 68 && domState m.core d == 4) then m
  else
    let x := domX m.core d
    let m := m.on (fun c => setDomState c d 0)
    let m := m.on (fun c => modDom (releaseOn c d) d (fun y => { y with fromOff := false }))
    let m := m.on (fun c => showPart c d)
    let m :=
      if 36 ≤ d && d < 52 && !stackBad m.core (d - 36) then
        let n := d - 36
        if ok then m.on (fun c =>
          let c := (List.range 32).foldl (fun c p =>
            let (c, k) := c.draw
            setMode (trained c (pcKey n p) true (Config.choice k % 256)) (pcKey n p) 0) c
          let c := c.setFld (stackReg MEM_STATUS n) MEM_STATUS_STATE 2
          spareStatus' c n)
        else m.on (fun c => stackFailed (raise c .memTrainFailed 2 n) n)
      else m
    let m := m.on (fun c => wakeOn (fun k => match k with | .power e => e == d | _ => false) c)
    let m := m.on (fun c => domReached c d)
    match x.next with
    | some t => m.on (fun c => startEntry c d t)
    | none => m
where
  /-- The fabric manager hears of the spare's wake for a rebuild. -/
  spareStatus' (c : Core) (n : Nat) : Core :=
    if n = outStack c && c.fld PAIR_REBUILD PAIR_REBUILD_STATE == 1 then spareStatus c else c

/-- A release of a domain's pad hold (R672). -/
def holdRelease (d : Nat) (c : Core) : Core := if d < 68 then c.setFld (PWR_DOMAIN d) PWR_DOMAIN_PAD_HELD 0 else c

/-! ### Watch mode (R673) -/

/-- A check finds a mismatch. -/
def watchMismatch (c : Core) (d : Nat) : Core :=
  let c := (c.satFld (PWR_WATCH d) PWR_WATCH_MISMATCHES).count PWR_WATCH_FAILS
  if d < 20 then loseEngine c (d - 4) .pwrWatchFailed
  else if d < 36 then loseCluster c (d - 20) .pwrWatchFailed
  else if d < 52 then
    let (c, p) := c.choose 32
    trained c (pcKey (d - 36) p) false 0
  else raise c .pwrWatchFailed 5 (d - 52)

/-- WATCH_WAKE: the domain wakes for its check, and returns to RETENTION or goes on to a target commanded during it. -/
def watchWake (d : Nat) (x : WatchStep) (m : M) : M :=
  let c := m.core
  if !(4 ≤ d && d < 68) || isSpare c d || domFenced c d then m
  else match x with
    | .wake => if domState c d == 2 && c.flag (PWR_DOMAIN d) PWR_DOMAIN_WATCH then m.on (fun c => setDomState c d 5) else m
    | .done bad =>
      if domState c d ≠ 5 then m
      else
        let m := m.on (fun c => if bad then watchMismatch c d else c)
        let m := m.on (fun c => setDomState c d 2)
        match (domX m.core d).next with
        | some 0 => if domFenced m.core d then m.on (fun c => domReached (modDom c d (fun x => { x with next := none })) d)
                    else m.on (fun c => startWake c d)
        | some _ => (enterOff (m.on (fun c => modDom c d (fun x => { x with next := none }))) d).on (fun c => domReached c d)
        | none => m

/-! ### Quiesce (R675) -/

def setStage (c : Core) (s : Nat) : Core := c.setFld BOOT_STATUS BOOT_STATUS_STAGE s

/-- QUIESCE: steps 1 and 2. -/
def quiesceReq (drainMs : Nat) (src : Src) (m : M) : Mg :=
  checked m [(srcFm src, .notPermitted), (drainMs < 65536, .badField), (bootStage m.core == stReady, .badState)] (fun m =>
    accept (m.on (fun c =>
      let c := setStage c stQuiescing
      let c := modBoot c (fun b => { b with quiesce := some src, drainEnd := c.glb.now + drainMs * 1000000, drained := false })
      let c := if ringState c = 2 then startLeave c else if ringState c = 1 then ringOut c else c
      if pairState c == 5 || pairState c == 6 then startRelease c else c)))

/-- QUIESCE_DRAIN_END: step 3. -/
def quiesceDrainEnd (c : Core) : Core :=
  if bootStage c ≠ stQuiescing || c.boot.drained || c.glb.now < c.boot.drainEnd then c
  else
    let c := (List.range 4096).foldl (fun c x => if ctxState c x ≠ 0 then flushRequest c x false else c) c
    modBoot c (fun b => { b with drained := true })

/-- Step 4: the ring is OUT, the key is released, no work is in flight, and only the management session holds op tags. -/
def quiesceIdle (c : Core) : Bool :=
  c.boot.drained && ringState c == 0 && !keyHeld c && !keyOut c && c.work.flight == [] &&
  c.work.tags.all (fun t => c.net.mgmtTags.any (fun x => x.1 == c.boot.mgmt.ep && x.2.2 == t) ||
    c.net.sessions.any (fun s => s.2.remote == c.boot.mgmt.ep && s.2.txMsgs.any (fun y => y.msg.tag == some t)))

/-- QUIESCED: steps 5 to 7. -/
def quiesced (m : M) : M :=
  if bootStage m.core ≠ stQuiescing || !quiesceIdle m.core then m
  else
    let m := (m.core.coh.domains.map (·.1)).foldl (fun m d => goDown m d 8 none) m
    let keep := mgmtSession m.core
    let m := m.on (fun c => (c.net.sessions.filter (fun s => some s.1 ≠ keep && s.2.st ≠ .closed)).foldl (fun c s =>
      discardHeld (flushSession c s.1 .closed) s.1) c)
    let port := ((keep.bind (sess? m.core)).bind (fun x => (x.paths.find? (·.up)).map (·.port)))
    let m := (List.range 68).foldl (fun m d =>
      if some d = port.map (52 + ·) || domState m.core d == 3 then m
      else
        let m := m.on (fun c => c.setFld (PWR_DOMAIN d) PWR_DOMAIN_TARGET 2)
        let m := if 52 ≤ d then m.on (fun c => c.setFld (MAC_STATUS (d - 52)) MAC_STATUS_LINK_UP 0) else m
        (enterOff m d).on (fun c => domReached (modDom c d (fun x => { x with next := none })) d)) m
    m.on (fun c => setStage (c.toFm 0x0B03 [c.chipId]) stQuiesced)

/-! ### Loss of power (R677, R719) -/

/-- PAIR_KEY_OUT_N is deasserted, the bypass switches close, and no stack is written any more. -/
def powerLost (c : Core) : Core :=
  let c := setKeyOut (c.setFld RING_STATUS RING_STATUS_BYPASS 3) false
  { c with pins := { c.pins with pwrGood := false } }

end Sys2Proof.Machine
end

