-- ==== Sys2Proof/Machine/Reset.lean ====
section
/-! DEFINITION. The chip right after a reset (R652, R653): the reset values of the register map, and every other part of the
state empty. A register that is not listed resets to zero. -/

namespace Sys2Proof.Machine
open Sys2Proof

/-- Reset values of the blocks below 0x0010_0000 (Tables 2-6 to 20-3). -/
def resetLow : AMap W64 := [
  (GLB_ID, 0x40161151), (TCK_CTRL, 2), (TCK_CONFIG, 100), (TCK_STATUS, 7), (TCK_BUDGET0, 420044804), (TCK_BUDGET1, 104908820),
  (TCK_RING_MEMBERS, 1), (PWR_OP, 67), (PWR_VF, 196658), (COH_CTRL, 32), (COH_TIMING0, 131072200), (COH_TIMING1, 6554600),
  (EXT_CTRL, 6), (EXT_HOT, 268451840), (EXT_QUOTA, 10), (EXT_LEASE, 2000), (EXT_COMPRESS, 24), (PAIR_CTRL, 838926338),
  (PAIR_KEY_TIMING, 1310725), (PAIR_SPARE_WATCH, 65536000), (CAL_CTRL, 14), (ECC_CTRL, 4099), (ECC_SCRUB, 24)]

/-- Those of plinth `p`: its stacks, engines and clusters. -/
def resetPlinth (p : Nat) : AMap W64 :=
  (List.range 4).map (fun n => (MEM_CTRL p n, 168374288)) ++ (List.range 4).map (fun n => (CE_CTRL p n, 4)) ++
  (List.range 4).map (fun k => (RSP_CTRL p k, 64))

/-- Those of port `n`. The blocks of port 0 and of port 12 hold the registers of FZT and RING too. -/
def resetPort (n : Nat) : AMap W64 :=
  [(MAC_MAX_FRAME n, 9216), (FZT_PORT_CTRL n, 1)] ++
  (if n = 0 then [(FZT_CTRL, 268480768), (FZT_TIMER0, 131072040), (FZT_TIMER1, 73662474)] else []) ++
  [(SCH_CTRL n, 2162452), (SCH_DSCP n, 439362074)] ++ (List.range 16).map (fun q => (SCH_PART n q, 64)) ++
  (if n = 12 then [(RING_STATUS, 12), (RING_FWD, 3)] else [])

/-- DESIGN CHOICE, assumption 1 (unsafe). -/
def resetRegs : AMap W64 := resetLow ++ (List.range 4).flatMap resetPlinth ++ (List.range 16).flatMap resetPort

/-- What a warm reset keeps of register `a`'s value `v`: its sticky fields (R653). -/
def stickyOf (c : Core) : AMap W64 :=
  let keep := fun (a : Nat) (fs : List Fld) => (a, BitVec.ofNat 64 (fs.foldl (fun v f => setBits v f.hi f.lo (c.fld a f)) 0))
  [keep GLB_STATUS [GLB_STATUS_ATELIER_RESTARTS, GLB_STATUS_LOG_LOST],
   keep GLB_LAST_FATAL [GLB_LAST_FATAL_CODE, GLB_LAST_FATAL_KIND, GLB_LAST_FATAL_UNIT, GLB_LAST_FATAL_TICK],
   keep BOOT_CAUSE [BOOT_CAUSE_WARM_COUNT, BOOT_CAUSE_F], keep BOOT_IMAGE_WRITES [BOOT_IMAGE_WRITES_COUNT]] ++
  (List.range 16).map (fun n => keep (ECC_LANE n) [ECC_LANE_VALID]) ++
  (c.regs.filter (fun r => CTX_STATUS 0 ≤ r.1 && r.1 < CTX_STATUS 4096 && r.1 % 0x100 == CTX_STATUS 0 % 0x100)).map
    (fun r => keep r.1 [CTX_STATUS_RING_RESET])

def resetGlb (now draws : Nat) : GlbSt :=
  { now := now, dataStopped := false, chipStopped := false, atelier := .running, restartEnd := none, handling := [], toAct := [],
    log := [], i2cPtr := 0, i2cLatch := none, i2cData := 0, draws := draws }

def resetMem : MemSt :=
  { pcs := [], scrub := [], wb := [], lane := [], corrected := [], turn := 0, turnHead := [], trainTemp := [], training := [],
    pool := [], fill := [], unfilled := [], ctrl := [], lostFrames := [] }

def resetPair : PairSt :=
  { rebuilt := false, rebuildStep := false, watchRow := 0, before := 0, step := .idle, dataValid := false, synced := false,
    fseq := [], early := [], outstanding := [], dirty := [], copied := [], lost := [], verifyTurn := 0, aliveTx := 0,
    aliveRx := none, missed := 0, heard := false, promoting := none, releasing := none, badTick := none, fetching := [], got := [],
    rebuildGot := [], lostActed := false, digests := [], memberTicks := 0, stepSince := 0, retryAt := none, table := [],
    opTag := 2 ^ 64, watchAwake := false }

def resetExt : ExtSt :=
  { exts := [], quarantine := [], waiting := [], tcache := [], remote := [], invals := [], withdrawers := [], heldInval := [],
    invalSeen := [], leases := [], regions := [], hotSent := 0 }

def resetWork : WorkSt :=
  { ctx := [], flight := [], tags := [], nextTag := 0, tables := [], engines := [], batches := [], codebooks := [] }

/-- The identity keys, derived from UDS (R628). -/
def edSeedOf (f : Fuses) : BitVec 256 := Config.kmac256 f.uds (ascii "YN4016 identity Ed25519")
def mldsaKeyOf (f : Fuses) : Nat := Config.mldsaKey (Config.kmac256 f.uds (ascii "YN4016 identity ML-DSA-65"))

def resetSec (f : Fuses) : SecSt := { fuses := f, slots := [], nonces := [], attest := [], memKeys := [], kemKey := 0, keks := [],
                                       edSeed := edSeedOf f, mldsaKey := mldsaKeyOf f }

def resetBoot (flash : AMap Byte) (start : Nat) : BootSt :=
  { flash := flash, hdr := none, cfg := none, mgmt := { keys := [], ep := 0, paths := [], sideband := 0 }, image := [],
    start := start, doms := [], op := .idle, quiesce := none, drainEnd := 0, drained := false, restart := none, jtag := 0, jtagData := 0,
    extest := [], sbSent := [] }

def resetNet : NetSt :=
  { out := [], sessions := [], epochs := [], qps := [], ports := [], requests := [], stalled := [], mgmtTags := [], doorQp := [],
    heldRdma := [], ackedWrites := [], ackedRecords := [], nonce := [] }

def resetRing : RingSt :=
  { members := [], draining := [], held := [], transitHeld := [], drainedSent := 0, hello := [], heard := [], alive := 0,
    fwds := [], joinSince := 0, atStart := false, requests := [], collectUntil := none, drained := [], prepare := none,
    preparer := none }

def resetTck : TickSt :=
  { next := 0, last := 0, got := none, episode := false, budget0 := 420044804, budget1 := 104908820, cut := [], used := [],
    grid := none, refLost := false, circuit := none }

/-- The chip with nothing but its fuses, its flash, its pins, and the registers given. -/
def startCore (regs : AMap W64) (f : Fuses) (flash : AMap Byte) (pins : PinSt) (now draws : Nat) : Core :=
  { regs := regs, glb := resetGlb now draws, pins := pins, mem := resetMem, pair := resetPair, ext := resetExt, work := resetWork,
    rasp := { threads := [], scratch := [], icache := [], nextOrder := 0, saved := [], slots := [], binds := [], windows := [], errTicks := [],
              trapLogged := [] },
    sec := resetSec f, boot := resetBoot flash now, sync := { objs := [], sent := [], fullLogged := [], released := [] },
    coh := { domains := [], lines := [], claims := [], toDown := [] }, net := resetNet, ring := resetRing, tck := resetTck }

end Sys2Proof.Machine
end

