-- ==== Sys2Proof/Machine/BootCmds.lean ====
section
/-! DEFINITION. The commands of start-up, the flash image and recovery (R652 to R664). -/

namespace Sys2Proof.Machine
open Sys2Proof

/-! ### Flash (R658) -/

/-- The byte at flash offset `a`; an erased byte reads 0xFF. -/
def flashByte (c : Core) (a : Nat) : Byte := amGet c.boot.flash a 0xFF
def flashBytes (c : Core) (a n : Nat) : List Byte := (List.range n).map (fun i => flashByte c (a + i))
def flashNat (c : Core) (a n : Nat) : Nat := leNat (flashBytes c a n)

/-- A 4 KiB sector is erased and programmed. -/
def programSector (c : Core) (a : Nat) (data : List Byte) : Core :=
  modBoot c (fun b => { b with flash := (padTo 4096 0xFF data).zipIdx.foldl (fun f (v, i) => amPut 0xFF f (a + i) v) b.flash })

/-! ### The header (R659) -/

def envBytes : Nat := 5424

/-- Where the envelope of an object lies. -/
def envAt (off len : Nat) : Nat := off + len - envBytes

def readHdr (c : Core) : FlashHdr :=
  { flags := flashNat c 6 2, readCmd := flashNat c 8 1, dummy := flashNat c 9 1, clockMhz := flashNat c 0xA 1, mib := flashNat c 0xC 4,
    imageOff := flashNat c 0x10 4, imageLen := flashNat c 0x14 4, configOff := flashNat c 0x18 4, configLen := flashNat c 0x1C 4,
    certOff := flashNat c 0x20 4, certLen := flashNat c 0x24 4 }

/-- Two objects overlap. -/
def overlaps (a n b m : Nat) : Bool := a < b + m && b < a + n && 0 < n && 0 < m

def hdrOk (c : Core) : Bool :=
  let h := readHdr c
  let size := h.mib * 2 ^ 20
  let objs := [(h.imageOff, h.imageLen), (h.configOff, h.configLen), (h.certOff, h.certLen)]
  flashNat c 0 4 == 0x48534C46 && flashNat c 4 2 == 1 && h.flags / 8 == 0 && h.dummy ≤ 31 && 25 ≤ h.clockMhz && h.clockMhz ≤ 100 &&
  flashNat c 0xB 1 == 0 && 16 ≤ h.mib && h.mib ≤ 512 && (flashBytes c 0x28 20).all (· == 0) &&
  flashNat c 0x3C 4 == (crc32c (flashBytes c 0 0x3C)).toNat &&
  envBytes ≤ h.imageLen && h.imageLen ≤ envBytes + 14 * 2 ^ 20 && envBytes ≤ h.configLen && h.configLen ≤ envBytes + 2 ^ 20 &&
  h.certLen ≤ 65536 &&
  objs.all (fun o => o.1 % 4096 == 0 && o.1 + o.2 ≤ size) &&
  !overlaps h.imageOff h.imageLen h.configOff h.configLen && !overlaps h.imageOff h.imageLen h.certOff h.certLen &&
  !overlaps h.configOff h.configLen h.certOff h.certLen &&
  h.imageLen == flashNat c (envAt h.imageOff h.imageLen + 0xC) 4 + envBytes &&
  h.configLen == flashNat c (envAt h.configOff h.configLen + 0xC) 4 + envBytes

/-! ### Stages -/

/-- Step i ends at `time`; STAGE shows the next one under way. DEDUCED, assumption 21 (safe). -/
def endStep (c : Core) (i time : Nat) : Core :=
  let c := c.at time
  setStage (c.rset (BOOT_STEP_US i) (BitVec.ofNat 64 ((c.glb.now - c.boot.start) / 1000 % 2 ^ 32))) i

/-- RECOVERY (R661): the bypass switches close and the pair key is off. -/
def enterRecovery (c : Core) (e : Ev) : Core :=
  let c := setStage ((raise c e 0 0).setFld BOOT_STATUS BOOT_STATUS_FAIL_CODE (evCode e)) stRecovery
  setKeyOut (c.setFld RING_STATUS RING_STATUS_BYPASS 3) false

/-- Start-up is at this step. DEDUCED, assumption 21 (safe). -/
def atStep (c : Core) (i : Nat) : Bool := powered c && bootStage c == i

/-- PWR_GOOD_RISE: power-on reset. -/
def powerOn (c : Core) : Core :=
  if c.pins.pwrGood then c
  else startCore resetRegs c.sec.fuses c.boot.flash { c.pins with
    pwrGood := true, tickOut := false, fault := false, thermAlert := false, thermTrip := false, stoppedClocks := [],
    ringRole := c.pins.ringRolePin, i2cAddr := c.pins.i2cAddrPin, pairRole := c.pins.pairRolePin } 0 c.glb.draws

/-- PWR_GOOD_FALL (R677): what the chip holds is lost. -/
def powerOff (c : Core) : Core :=
  if !c.pins.pwrGood then c
  else
    let c := powerLost c
    let pins := { c.pins with tickOut := false, fault := false, thermAlert := false, alerting := [] }
    startCore resetRegs c.sec.fuses c.boot.flash pins c.glb.now c.glb.draws

/-- A warm reset (R652, R653): cause 1 RESET_N, 2 REGISTER, 3 RECOVERY_RESTART. -/
def warmReset (c : Core) (cause : Nat) : Core :=
  let c := (c.satFld BOOT_CAUSE BOOT_CAUSE_WARM_COUNT).setFld BOOT_CAUSE BOOT_CAUSE_F cause
  let regs := (stickyOf c).foldl (fun r x => if x.2 = 0 then r else amSet r x.1 x.2) resetRegs
  let pins := { c.pins with tickOut := false, fault := false, ringRole := c.pins.ringRolePin, i2cAddr := c.pins.i2cAddrPin,
                            pairRole := c.pins.pairRolePin,
                            resetAsserted := cause == 1 }
  startCore regs c.sec.fuses c.boot.flash pins c.glb.now c.glb.draws

/-- WARM_RESET by the pin. -/
def resetPin (c : Core) : Core := if !c.pins.pwrGood || c.pins.resetAsserted || c.pins.thermTrip then c else warmReset c 1

/-- RESET_N_RELEASE: step 1 begins to count. -/
def resetRelease (time : Nat) (c : Core) : Core :=
  if !c.pins.resetAsserted then c
  else
    let c := c.at time
    modBoot { c with pins := { c.pins with resetAsserted := false } } (fun b => { b with start := c.glb.now })

/-- BOOT_ROM_START: step 1 ends. M_ROM is taken and the key pair of this start is generated. -/
def bootRomStart (time : Nat) (c : Core) : Core :=
  if !atStep c 0 || time < c.boot.start + 50000 then c
  else
    let c := endStep c 1 time
    let c := (List.range 6).foldl (fun c i => c.rset (SEC_M_ROM i) (Config.romDigest i)) c
    let (c, k) := c.draw
    modSec c (fun s => { s with kemKey := k })

/-- FLASH_HEADER_CHECK: step 2 has ended at `end2`. -/
def flashHeaderCheck (end2 : Nat) (c : Core) : Core :=
  if !atStep c 1 then c
  else
    let c := endStep c 2 end2
    if !hdrOk c then enterRecovery c .bootHeaderBad
    else
      let h := readHdr c
      let c := c.setFld BOOT_FLASH BOOT_FLASH_CLOCK_MHZ h.clockMhz
      let c := c.setFld BOOT_FLASH BOOT_FLASH_FLASH_MIB h.mib
      let c := c.setFld BOOT_FLASH BOOT_FLASH_LANES (h.flags % 4)
      modBoot c (fun b => { b with hdr := some h, image := flashBytes c h.imageOff (h.imageLen - envBytes) })

/-! ### Signed objects (R632) -/

/-- Checks 1, 2, 3 and 6 of an object; 4 and 5 are the verdicts. -/
def objectOk (c : Core) (off len kind kh : Nat) (svn : Bool) (edOk mldsaOk : Bool) : Bool :=
  let e := envAt off len
  let f := fun (o n : Nat) => flashNat c (e + o) n
  let c1 := f 0 4 == 0x4E564C45 && f 4 2 == kind && f 6 2 == 0 && f 0x152D 3 == 0
  let c2 := Config.sha3 (flashBytes c (e + 0x40) 1984) % 2 ^ 384 == kh
  let c3 := !svn || (c.sec.fuses.svnMin ≤ f 8 4 && f 8 4 ≤ 64)
  let c6 := Config.sha3 (flashBytes c off (len - envBytes)) % 2 ^ 384 == f 0x10 48
  c1 && c2 && c3 && edOk && mldsaOk && c6

def setDigest (c : Core) (reg : Nat → Nat) (d : Nat) : Core :=
  (digestWords d).zipIdx.foldl (fun c (w, i) => c.rset (reg i) w) c

/-- SIGNED_OBJECT_VERIFY: step 3 ends. The image is judged first; a blank OWNER_KH keeps the chip in recovery (R633). -/
def signedObjectVerify (imgEd imgMl cfgEd cfgMl : Bool) (time : Nat) (c : Core) : Core :=
  match c.boot.hdr with
  | none => c
  | some h =>
    if !atStep c 2 then c
    else
      let c := endStep c 3 time
      if !objectOk c h.imageOff h.imageLen 1 c.sec.fuses.vendorKh true imgEd imgMl then enterRecovery c .bootSignatureBad
      else match c.sec.fuses.ownerKh with
        | none => enterRecovery c .bootOwnerBlank
        | some kh =>
          if !objectOk c h.configOff h.configLen 2 kh false cfgEd cfgMl then enterRecovery c .bootSignatureBad
          else
            let ie := envAt h.imageOff h.imageLen
            let ce := envAt h.configOff h.configLen
            let c := setDigest c SEC_M_IMAGE (flashNat c (ie + 0x10) 48)
            let c := setDigest c SEC_M_CONFIG (flashNat c (ce + 0x10) 48)
            c.setFld SEC_SVN SEC_SVN_IMAGE (flashNat c (ie + 8) 4)

/-! ### The structural configuration (R660, R624) -/

/-- The tags of a configuration body's sections, in order; `none` when a section does not fit. -/
def sectionTags : Nat → List Byte → Option (List Nat)
  | 0, l => if l = [] then some [] else none
  | n + 1, l =>
    if l = [] then some []
    else if l.length < 4 then none
    else
      let tag := leNat (l.take 2)
      let len := leNat ((l.drop 2).take 2)
      let whole := (4 + len + 7) / 8 * 8
      let pad := (l.drop (4 + len)).take (whole - 4 - len)
      if l.length < whole || pad.any (· != 0) then none
      else (sectionTags n (l.drop whole)).map (tag :: ·)

/-- No unknown or repeated tag, and every required section. -/
def tagsOk (l : List Nat) : Bool :=
  l.all (fun t => 1 ≤ t && t ≤ 9) && (distinctOf l).length == l.length &&
  [1, 2, 3, 6, 7, 9].all (fun t => l.contains t)

/-- Pseudo-channels of a partition's group. -/
def groupPcs (p : PartDef) : List Nat := (List.range (2 ^ p.g)).map (p.base + ·)

/-- The fields of a configured partition lie in their ranges. -/
def partRange (p : PartDef) : Bool :=
  p.clusters < 65536 && p.engines < 65536 && p.g ≤ 5 && p.base % 2 ^ p.g == 0 && p.base + 2 ^ p.g ≤ 32 && p.ways.length == 4 &&
  p.ways.all (· < 2 ^ 24) && p.dirWays ≤ 16 && p.pGib ≤ 3 * 2 ^ p.g

/-- No bit is set in two masks. -/
def masksApart : List Nat → Bool
  | [] => true
  | a :: t => t.all (fun b => a &&& b == 0) && masksApart t

def liveParts (d : ConfigDef) : List PartDef := d.parts.filter (·.configured)

/-- R624: no resource of Table 18-1 is given twice, and directory ways stay within 16. -/
def partsApart (d : ConfigDef) : Bool :=
  let l := liveParts d
  masksApart (l.map (·.clusters)) && masksApart (l.map (·.engines)) &&
  (List.range 4).all (fun p => masksApart (l.map (fun x => x.ways.getD p 0))) &&
  (distinctOf (l.flatMap groupPcs)).length == (l.flatMap groupPcs).length && sumNat (l.map (·.dirWays)) ≤ 16

/-- Every field lies in its range (Tables 2-5, 14-8, 17-2, 19-4). -/
def cfgRange (d : ConfigDef) : Bool :=
  d.range && d.chipId < 4096 && d.startOp < 4 && d.parts.length == 16 && (liveParts d).all partRange &&
  20 ≤ d.period && d.period ≤ 2000 && d.source < 4 && d.priority < 16 && d.ptpPort < 16 &&
  (match d.pair with | some (i, p, t) => i < 4096 && p < 4096 && t.length ≤ 256 * 3 | none => true) &&
  d.ports.length == 16 && d.ports.all (fun p => p.mode < 3 && p.macs.all (· < 2 ^ 48)) &&
  d.outStack < 16 &&
  (match d.power with
   | some l => l.length == 68 && l.zipIdx.all (fun (p, i) => p.state < 3 && (!p.watch || (4 ≤ i && p.state == 1)) &&
       100 ≤ p.periodMs && p.periodMs ≤ 60000)
   | none => true) &&
  1 ≤ d.fmKeys.length && d.fmKeys.length ≤ 4 && 1 ≤ d.paths.length && d.paths.length ≤ 4

/-- PAIR_TABLE's entries: a pair ID and its two members. -/
def pairEntries : List Nat → List (Nat × Nat × Nat)
  | a :: b :: d :: t => (a, b, d) :: pairEntries t
  | _ => []

/-- The free frames of partition `q` (R585). -/
def partPool (d : ConfigDef) (p : PartDef) : List FreeRun :=
  let units := 3 * 2 ^ p.g * 512
  let pu := p.pGib * 512
  let stripe := (List.range 16).filter (· != d.outStack)
  (if pu = 0 then [] else [⟨none, 0, pu * 14⟩]) ++
  (if pu = units then [] else stripe.map (fun n => ⟨some n, pu, units - pu⟩)) ++
  (if d.spare then [] else [⟨some d.outStack, 0, units⟩])

def applyPart (d : ConfigDef) (c : Core) (q : Nat) (p : PartDef) : Core :=
  if !p.configured then c
  else
    let c := setPartState c q psVacant
    let c := c.setFld (SEC_PART q) SEC_PART_LINK_ENC_REQUIRED (b2n p.linkEnc)
    let c := (List.range 4).foldl (fun c i => c.setFld (SEC_WAYS q i) SEC_WAYS_MASK (p.ways.getD i 0)) c
    let c := c.setFld (COH_WAYS q) COH_WAYS_F p.dirWays
    let c := c.setFld (PAIR_P_GIB q) PAIR_P_GIB_F p.pGib
    let c := (List.range 16).foldl (fun c n =>
      let a := MEM_GROUP (n / 4) (n % 4) q
      ((c.setFld a MEM_GROUP_VALID 1).setFld a MEM_GROUP_BASE p.base).setFld a MEM_GROUP_LOG2 p.g) c
    let c := (List.range 16).foldl (fun c n => if bitOf p.engines n then
      (c.setFld (stackReg CE_CFG n) CE_CFG_ASSIGNED 1).setFld (stackReg CE_CFG n) CE_CFG_PARTITION q else c) c
    let c := (List.range 16).foldl (fun c k => if bitOf p.clusters k then
      (c.setFld (stackReg RSP_CFG k) RSP_CFG_ASSIGNED 1).setFld (stackReg RSP_CFG k) RSP_CFG_PARTITION q else c) c
    let (c, k) := c.drawN 8
    let c := modSec c (fun s => { s with memKeys := amSet s.memKeys q k })
    { c with mem := { c.mem with pool := amSet c.mem.pool q (partPool d p) } }

def applyPort (c : Core) (n : Nat) (p : PortDef) : Core :=
  let c := c.setFld (MAC_CFG n) MAC_CFG_MODE p.mode
  let c := if n < 12 then c.setFld (FZT_PORT_CTRL n) FZT_PORT_CTRL_ROCE_EN (b2n p.roceEn) else c
  p.macs.zipIdx.foldl (fun c (v, k) => if k < 4 then c.setFld (MAC_ADDR n k) MAC_ADDR_F v else c) c

/-- The tick's part of the configuration (Table 2-5). Boundaries run from now; a period that PPS or PTP cannot align falls back to
INTERNAL (R51). -/
def applyTick (c : Core) (d : ConfigDef) : Core :=
  let c := c.setFld TCK_CONFIG TCK_CONFIG_PRIORITY d.priority
  let c := c.setFld TCK_CONFIG TCK_CONFIG_CANDIDATE (b2n d.candidate)
  let c := c.setFld TCK_CONFIG TCK_CONFIG_SOURCE d.source
  let c := c.setFld TCK_CONFIG TCK_CONFIG_PTP_PORT d.ptpPort
  let c := c.setFld TCK_CONFIG TCK_CONFIG_PERIOD_US d.period
  let c := { c with tck := { c.tck with next := c.glb.now + d.period * 1000, last := c.glb.now } }
  if 2 ≤ d.source && 1000000 % d.period ≠ 0 then raise c .tickConfigFallback 0 0 else c

/-- The configuration is applied, and the stacks begin to train. -/
def applyConfig (c : Core) (d : ConfigDef) : Core :=
  let c := (c.setFld GLB_CHIP GLB_CHIP_CHIP_ID d.chipId).setFld BOOT_CFG BOOT_CFG_START_OP d.startOp
  let c := (d.parts.zipIdx).foldl (fun c (p, q) => applyPart d c q p) c
  let c := applyTick c d
  let c := (d.ports.zipIdx).foldl (fun c (p, n) => applyPort c n p) c
  let member := (match d.ring with | some (r, _) => r | none => false) && c.pins.ringRole
  let c := c.setFld RING_CFG RING_CFG_CHIP_ID d.chipId
  let c := c.setFld RING_CFG RING_CFG_ROLE (b2n member)
  let c := c.setFld RING_CFG RING_CFG_JOIN_AT_START (match d.ring with | some (_, j) => b2n j | none => 0)
  let c := c.setFld TCK_STATUS TCK_STATUS_MASTER_ID d.chipId
  let c := c.setFld PAIR_LAYOUT PAIR_LAYOUT_OUT_STACK d.outStack
  let c := c.setFld PAIR_LAYOUT PAIR_LAYOUT_SPARE (b2n d.spare)
  let c := c.setFld PAIR_REBUILD PAIR_REBUILD_SPARE (if d.spare then 0 else 3)
  let c := match d.pair with
    | none => c
    | some (i, p, t) =>
      let c := c.setFld PAIR_LAYOUT PAIR_LAYOUT_PAIR_ID i
      let c := c.setFld PAIR_LAYOUT PAIR_LAYOUT_PARTNER p
      let c := c.setFld PAIR_LAYOUT PAIR_LAYOUT_PAIRED 1
      let c := c.setFld PAIR_LAYOUT PAIR_LAYOUT_ROLE_PRIMARY (b2n c.pins.pairRole)
      { c with pair := { c.pair with table := pairEntries t } }
  let c := (List.range 68).foldl (fun c i => match d.power.bind (fun l => l[i]?) with
    | none => c
    | some p =>
      let c := (c.setFld (PWR_DOMAIN i) PWR_DOMAIN_AUTO_RELEASE (b2n p.autoRelease)).setFld (PWR_DOMAIN i) PWR_DOMAIN_WATCH (b2n p.watch)
      c.setFld (PWR_WATCH i) PWR_WATCH_PERIOD_MS p.periodMs) c
  let c := (List.range 16).foldl (fun c n =>
    let a := stackReg MEM_CFG n
    let c := (c.setFld a MEM_CFG_STACK n).setFld a MEM_CFG_SPARE (b2n (d.spare && n == d.outStack))
    c.setFld (stackReg MEM_STATUS n) MEM_STATUS_STATE 1) c
  modBoot c (fun b => { b with cfg := some d, mgmt := { keys := d.fmKeys, ep := d.fmEp, paths := d.paths, sideband := d.sideband } })

/-- The configuration's body reads whole, with the sections that its fields come from. -/
def configWhole (c : Core) (h : FlashHdr) (d : ConfigDef) : Bool :=
  let body := flashBytes c h.configOff (h.configLen - envBytes)
  match sectionTags body.length body with
  | some l => tagsOk l && (l.contains 4 || d.ring.isNone) && (l.contains 5 || d.pair.isNone) && (l.contains 8 || d.power.isNone)
  | none => false

/-- CONFIGURATION_APPLY: step 4 ends. -/
def configurationApply (d : ConfigDef) (time : Nat) (m : M) : M :=
  match m.core.boot.hdr with
  | none => m
  | some h =>
    if !atStep m.core 3 then m
    else
      let m := m.on (fun c => endStep c 4 time)
      if !configWhole m.core h d || !cfgRange d || !partsApart d then m.on (fun c => enterRecovery c .bootConfigBad)
      else m.on (fun c => applyConfig c d)

/-! ### Stacks, operating point, programs (steps 5 to 8) -/

/-- STACK_TRAINING_END: stacks that failed are FAILED; the fill of the others begins. -/
def stackTrainingEnd (failed : List Nat) (time : Nat) (c : Core) : Core :=
  let c := c.at time
  if !atStep c 4 || c.fld ECC_STATUS ECC_STATUS_FILL ≠ 0 then c
  else
    let c := (List.range 16).foldl (fun c n =>
      if failed.contains n then stackFailed (raise c .memTrainFailed 2 n) n
      else c.setFld (stackReg MEM_STATUS n) MEM_STATUS_STATE 2) c
    let c := { c with mem := { c.mem with unfilled := (List.range 16).filter (fun n => !failed.contains n) } }
    c.setFld ECC_STATUS ECC_STATUS_FILL 1

/-- FILL_DONE: every word of the trained stacks holds the zero codeword, scrub starts its first pass, and step 6 begins: the
firmware writes START_OP to PWR_OP.TARGET (R655). -/
def fillDone (time : Nat) (m : M) : M :=
  let m := m.on (fun c => c.at time)
  if !atStep m.core 4 || m.core.fld ECC_STATUS ECC_STATUS_FILL ≠ 1 then m
  else
    let m := m.core.mem.unfilled.foldl (fun (m : M) n => { m with mem := m.mem.clear (n * 2 ^ 32) ((n + 1) * 2 ^ 32) }) m
    m.on (fun c =>
      let c := endStep (c.setFld ECC_STATUS ECC_STATUS_FILL 2) 5 time
      let scrub := (List.range 512).map (fun k => (k, (⟨0, c.glb.now⟩ : ScrubSt)))
      let c := { c with mem := { c.mem with unfilled := [], scrub := scrub } }
      opTarget c (c.fld BOOT_CFG BOOT_CFG_START_OP))

/-- BOOT_LOADER_HALT (R657): the object is reloaded once; a second halt goes to recovery. During a service restart it is FATAL
(R664). -/
def bootLoaderHalt (c : Core) : Core :=
  if !powered c then c
  else if c.glb.atelier == .restarting then fatal (raise c .bootLoadPoison 14 0) (evCode .bootLoadPoison) 14 0
  else if !(bootStage c == 2 || bootStage c == 6) then c
  else
    let c := c.satFld BOOT_STATUS BOOT_STATUS_LOAD_TRIES
    if c.fld BOOT_STATUS BOOT_STATUS_LOAD_TRIES = 2 then enterRecovery c .bootLoadPoison else c

/-- The configured state of domain `d` is applied at step 7 (Table 19-8): a domain to be off or retained is entered from ON. -/
def applyDomain (m : M) (d : Nat) : M :=
  let want := ((m.core.boot.cfg.bind (·.power)).bind (fun l => (l[d]?).map (·.state))).getD 0
  let m := m.on (fun c => c.setFld (PWR_DOMAIN d) PWR_DOMAIN_TARGET want)
  if domFenced m.core d then m
  else if want = 1 then m.on (fun c => enterRetention c d)
  else if want = 2 then enterOff m d
  else m.on (fun c => showPart c d)

/-- The management session is opened, with no key loaded (R637). The spec states neither its number nor its EPOCH, sequence
numbers and allowances: they are free. DEDUCED, assumption 22 (safe). -/
def openMgmt (c : Core) : Core :=
  let (c, n) := c.choose 8188
  let (c, e) := c.draw
  let (c, a) := c.draw
  let (c, b) := c.draw
  let w := fun (k : Nat) => (Config.freeWord k).toNat
  let paths := c.boot.mgmt.paths.map (mkPath c)
  let allow := (List.range 3).map (fun i => (w (e + i) / 2 ^ 16 % 8193, w (e + i) / 2 ^ 32 % 8193))
  openSession c n c.boot.mgmt.ep (w e % 65536) 0 paths (w a % 2 ^ 32) (w b % 2 ^ 32) allow (w b / 2 ^ 32 % 8193)

/-- The minimum service set (R34). -/
def minimumSet (c : Core) : Bool :=
  !baseFenced c 0 && (List.range 16).any (fun n => !stackBad c n) && (List.range 12).any (fun n => !domFenced c (52 + n))

def fencedMask (c : Core) (f : Fld) : Nat := c.fld GLB_FENCED f

/-- PLL_LOCK: the clock switches, which at start-up ends step 6. -/
def pllLockCmd (time : Nat) (c : Core) : Core :=
  let c := pllLock (c.at time)
  if atStep c 5 && !c.flag PWR_OP PWR_OP_BUSY then endStep c 6 time else c

/-- The chip is READY: its management session opens, and the fabric manager hears of it; it joins its ring, and its pair's state
table starts. -/
def becomeReady (c : Core) : Core :=
  let c := c.rset (BOOT_STEP_US 8) (c.rget (BOOT_STEP_US 7))
  let c := openMgmt (setStage c stReady)
  let c := joinNow (c.toFm 0x0B04 [c.chipId, c.tick, fencedMask c GLB_FENCED_ENGINES, fencedMask c GLB_FENCED_CLUSTERS,
    fencedMask c GLB_FENCED_STACKS])
  if paired c then setPair c 1 else c

/-- START_PROGRAMS_PLACED: step 7 ends, and the chip is READY (R655, R656). -/
def startProgramsPlaced (time : Nat) (m : M) : M :=
  let c := m.core
  if !atStep c 6 || c.fld ECC_STATUS ECC_STATUS_FILL ≠ 2 || c.flag PWR_OP PWR_OP_BUSY || !minimumSet c then m
  else
    let m := (List.range 68).foldl applyDomain m
    m.on (fun c => becomeReady (endStep c 7 time))

/-! ### Messages of Table 19-5 -/

/-- Bytes of the flash: as its header says, or the greatest size before one is accepted. -/
def flashSize (c : Core) : Nat := if c.boot.hdr.isSome then (c.fld BOOT_FLASH BOOT_FLASH_FLASH_MIB) * 2 ^ 20 else 512 * 2 ^ 20

/-- DEDUCED, assumption 23 (unsafe). -/
def imageWrite (off : Nat) (data : List Byte) (m : M) : Mg :=
  checked m [(off % 4096 == 0 && off + 4096 ≤ flashSize m.core && data.length == 4096, .badField)] (fun m =>
    accept (m.on (fun c => (programSector c off data).count BOOT_IMAGE_WRITES)))

def imageRead (off : Nat) (m : M) : Mg :=
  checked m [(off % 4096 == 0 && off + 4096 ≤ flashSize m.core, .badField)] (fun m => accept m ((flashBytes m.core off 4096).map (·.toNat)))

/-- RECOVERY_RESTART: a warm reset follows the reply. -/
def recoveryRestart (m : M) : Mg := accept (m.on (fun c => modBoot c (fun b => { b with restart := some 3 })))

/-- A reply of the management type still has to leave the chip. -/
def replyLeaving (c : Core) : Bool :=
  c.net.out.any (fun m => m.type == 0x60) ||
  c.net.sessions.any (fun s => s.2.st == .opened && s.2.txMsgs.any (fun t => t.msg.type == 0x60 &&
    s.2.txPkts.any (fun p => p.uid == t.uid && p.sent == 0))) ||
  c.net.ports.any (fun p => (p.2.queue ++ p.2.sending.toList).any (fun f => f.type == 0x60))

/-- The warm reset that a write or RECOVERY_RESTART asked for. -/
def pendingRestart (c : Core) : Core :=
  match c.boot.restart with
  | some k => if k = 2 || !replyLeaving c then warmReset c k else c
  | none => c

/-! ### The recovery loader on the sideband port (R662) -/

/-- Its link-local address: fe80::/64 with the modified EUI-64 of its MAC, 0x02 and the low 40 bits of SERIAL. -/
def loaderMac (c : Core) : Nat := 0x02 * 2 ^ 40 + c.sec.fuses.serial % 2 ^ 40
def loaderIp (c : Core) : Nat :=
  let m := loaderMac c
  let eui := (m / 2 ^ 24 ^^^ 0x020000) * 2 ^ 40 + 0xFFFE * 2 ^ 24 + m % 2 ^ 24
  0xFE80 * 2 ^ 112 + eui

/-- NEIGHBOR_DISCOVERY: a solicitation for the loader's address is answered with its MAC address: an advertisement, ICMPv6 type
136. -/
def neighborDiscovery (target : Nat) (c : Core) : Core :=
  if powered c && bootStage c == stRecovery && target == loaderIp c then
    modBoot c (fun b => { b with sbSent := [136, loaderIp c, loaderMac c] })
  else c

end Sys2Proof.Machine
end

