-- ==== Sys2Proof/Machine/Tick.lean ====
section
/-! DEFINITION. The pool tick (R36 to R77): boundaries, the master, alignment, overruns, and what follows every boundary. -/

namespace Sys2Proof.Machine
open Sys2Proof

def modTck (c : Core) (f : TickSt → TickSt) : Core := { c with tck := f c.tck }

/-- The source in use: a period that does not divide a million µs leaves PPS and PTP for INTERNAL (R51). -/
def tickSource (c : Core) : Nat :=
  let s := c.fld TCK_CONFIG TCK_CONFIG_SOURCE
  if 2 ≤ s && 1000000 % c.fld TCK_CONFIG TCK_CONFIG_PERIOD_US ≠ 0 then 0 else s

/-- Ticks run from the configuration on, not in recovery. -/
def ticking (c : Core) : Bool := powered c && 4 ≤ bootStage c && bootStage c ≠ stRecovery && periodNs c ≠ 0

/-! ### Overruns (R63 to R65) -/

/-- Bound `n` of each slice's share of an excess, in the order of R63. -/
def cutSlices (c : Core) : List Nat → Nat → List Nat
  | [], _ => []
  | k :: t, n => let d := min n (baseAllot c k); d :: cutSlices c t (n - d)

/-- The time by which slices exceeded their allotments. -/
def overUse (c : Core) : Nat := sumNat ((List.range 4).map (fun k => c.tck.used.getD k 0 - allotNs c k))

/-- Budgets written since the last boundary take effect (R57). -/
def takeBudgets (c : Core) : Core :=
  modTck c (fun t => { t with budget0 := (c.rget TCK_BUDGET0).setWidth 32, budget1 := (c.rget TCK_BUDGET1).setWidth 32 })

/-- A housekeeping step runs at the boundary (R63): a pseudo-channel in training, a row group of a recast that is not HOME again, or a
stripe whose rebuilding waits for the partner. -/
def stepRuns (c : Core) : Bool :=
  c.mem.training ≠ [] || c.work.tables.any (fun t => t.2.stepRows ≠ []) || c.pair.rebuildStep

/-- The tick just ended is judged, with `excess` the measured excess of steps over their estimates; a step may still run. The new budgets are in force for the tick that begins. -/
def judgeTick (c : Core) (excess : Nat) : Core :=
  let spent := excess + overUse c
  let running := stepRuns c
  let c := takeBudgets c
  if spent = 0 && !running then
    let c := c.setFld TCK_OVERRUN TCK_OVERRUN_CONSECUTIVE 0
    modTck (c.satFld TCK_OVERRUN TCK_OVERRUN_CLEAN_TICKS) (fun t => { t with cut := [], used := [] })
  else
    let c := raise c .tickOverrun 0 0 spent
    let c := c.setFld TCK_OVERRUN TCK_OVERRUN_LAST_NS (min spent (2 ^ 22 - 1))
    let c := (c.satFld TCK_OVERRUN TCK_OVERRUN_CONSECUTIVE).setFld TCK_OVERRUN TCK_OVERRUN_CLEAN_TICKS 0
    let c := c.count TCK_OVERRUN_TOTAL
    modTck c (fun t => { t with cut := cutSlices c [0, 1, 2, 3] spent, used := [] })

/-- TICK_OVERRUN_ESCALATED (R64): three overruns in a row. DEDUCED, assumption 32 (safe). -/
def overrunEscalated (c : Core) : Core :=
  if c.fld TCK_OVERRUN TCK_OVERRUN_CONSECUTIVE = 3 && !c.flag TCK_OVERRUN TCK_OVERRUN_ESCALATED then
    (raise c .tickOverrunEscalated 0 0).setFld TCK_OVERRUN TCK_OVERRUN_ESCALATED 1
  else c

/-- OVERRUN_CLEARED (R65): 64 ticks in a row without overrun. -/
def overrunCleared (c : Core) : Core :=
  if 64 ≤ c.fld TCK_OVERRUN TCK_OVERRUN_CLEAN_TICKS && c.flag TCK_OVERRUN TCK_OVERRUN_ESCALATED then
    c.setFld TCK_OVERRUN TCK_OVERRUN_ESCALATED 0
  else c

/-! ### Master and count (R39 to R48) -/

def modHeard (c : Core) (f : Nat → Heard → Heard) : Core := { c with ring := { c.ring with heard := amMap c.ring.heard f } }

/-- The heartbeats of the tick just ended. -/
def rollHeard (c : Core) : Core :=
  modHeard c (fun _ h => { h with lastTick := h.thisTick, thisTick := false, dirs := [],
                                  absent := if h.thisTick then 0 else h.absent + 1 })

/-- The greatest count that a heartbeat of the tick just ended carried. -/
def heardCount (c : Core) : Nat := c.ring.heard.foldl (fun n h => if h.2.lastTick then max n h.2.count else n) 0

/-- The count of the tick that begins (R46, R47). -/
def nextCount (c : Core) : Nat :=
  let own := c.tick + 1
  if isMaster c then max own (heardCount c + 1)
  else match c.tck.got with
    | some (n, _, _) => max own n
    | none => own

/-- This chip is the master from this boundary on. -/
def becomeMaster (c : Core) : Core :=
  let c := (c.setFld TCK_STATUS TCK_STATUS_MASTER 1).setFld TCK_STATUS TCK_STATUS_STATE 0
  let c := (c.setFld TCK_STATUS TCK_STATUS_MASTER_ID c.chipId).setFld TCK_STATUS TCK_STATUS_HOLDOVER_TICKS 0
  modTck c (fun t => { t with episode := false, elected := false, sent := [] })

/-- The chip is a member under a master: TCK_ALIGN reads 0; TCK_RING_CIRCUIT keeps the last values measured. DESIGN CHOICE,
assumption 102 (unsafe). -/
def followMaster (c : Core) (id : Nat) : Core :=
  let c := (c.setFld TCK_STATUS TCK_STATUS_MASTER 0).setFld TCK_STATUS TCK_STATUS_STATE 0
  let c := (c.setFld TCK_STATUS TCK_STATUS_MASTER_ID id).setFld TCK_STATUS TCK_STATUS_HOLDOVER_TICKS 0
  modTck (c.setFld TCK_ALIGN TCK_ALIGN_OFFSET 0) (fun t => { t with episode := false, elected := false, sent := [] })

/-- A member's boundary: locked by a TICK, which may name it as the new master, its own as the master that was elected, or made in
holdover (R42, R43, R44). -/
def memberEnd (c : Core) : Core :=
  match c.tck.got with
  | some (_, id, _) => if id = c.chipId then becomeMaster (raise c .tickMasterChange 0 0 c.chipId) else followMaster c id
  | none => if c.tck.elected then becomeMaster c else
    let c := c.satFld TCK_STATUS TCK_STATUS_HOLDOVER_TICKS
    let c := if c.fld TCK_STATUS TCK_STATUS_STATE = 2 then c else c.setFld TCK_STATUS TCK_STATUS_STATE 1
    if c.tck.episode then c else modTck (raise c .tickHoldover 0 0) (fun t => { t with episode := true })

/-- The master of the tick after this one, with its priority: this chip, or, on a handover, the best other candidate heard. -/
def nextMaster (c : Core) : Nat × Nat :=
  if c.flag TCK_CTRL TCK_CTRL_HANDOVER && onRing c then (bestRank (heardRanks c)).getD (myRank c) else myRank c

/-- The master's boundary on a ring: it yields when told to, and in either case HANDOVER clears (R44). -/
def masterEnd (c : Core) : Core :=
  let (_, id) := nextMaster c
  if id = c.chipId then c else followMaster (raise c .tickMasterChange 0 0 id) id

/-- A chip joining at start becomes the first member: it has heard other joiners and no ring, and is the best candidate (R39,
R514). It collects requests for two ticks. -/
def startElection (c : Core) : Core :=
  let heard := (c.ring.heard.filter (fun h => h.2.lastTick)).map (·.2)
  if ringState c = 1 && c.ring.atStart && c.ring.hello.any (fun h => h.2 != c.chipId) && c.flag TCK_CONFIG TCK_CONFIG_CANDIDATE &&
      heard ≠ [] && heard.all (fun h => h.state == 1) && bestRank (myRank c :: heardRanks c) == some (myRank c) then
    let c := (setRingState c 2).setFld RING_CTRL RING_CTRL_JOIN 0
    let c := c.setFld TCK_STATUS TCK_STATUS_STATE 0
    { c with ring := { c.ring with members := [(c.chipId, 0)], collectUntil := some (c.tick + 2) } }
  else c

/-- TICK_MASTER_CHANGE (R43): after three holdover ticks the best candidate heard in the last tick, this chip counted, is the
master from its next boundary on; another chip waits for its TICK. -/
def masterChange (c : Core) : Core :=
  let own := if c.flag TCK_CONFIG TCK_CONFIG_CANDIDATE then [myRank c] else []
  if !ticking c || isMaster c || !onRing c || c.fld TCK_STATUS TCK_STATUS_HOLDOVER_TICKS < 3 || c.tck.got.isSome || c.tck.elected then c
  else match bestRank (own ++ heardRanks c) with
    | none => c
    | some (_, id) =>
      if id = c.chipId then modTck ((raise c .tickMasterChange 0 0 id).setFld TCK_STATUS TCK_STATUS_STATE 2) (fun t => { t with elected := true })
      else if id = c.fld TCK_STATUS TCK_STATUS_MASTER_ID then c
      else (((raise c .tickMasterChange 0 0 id).setFld TCK_STATUS TCK_STATUS_MASTER_ID id).setFld TCK_STATUS TCK_STATUS_STATE 2)

/-- HANDOVER: a write of one to TCK_CTRL.HANDOVER, ignored on a member (R44). -/
def askHandover (c : Core) : Core := if isMaster c then c.setFld TCK_CTRL TCK_CTRL_HANDOVER 1 else c

/-! ### Alignment (R49 to R54) -/

/-- The signed offset of a time from the second grid, in which every tick of an aligned master begins.
DEDUCED, assumption 29 (safe). -/
def gridOffset (c : Core) (t : Nat) : Int :=
  match c.tck.grid with
  | none => 0
  | some g =>
    let p : Int := periodNs c
    if p = 0 then 0 else ((t : Int) + g + p / 2) % p - p / 2

/-- The next boundary of a master that boundary `t` begins (R52). -/
def nextBoundary (c : Core) (t : Nat) : Nat :=
  let p : Int := periodNs c
  if isMaster c && 2 ≤ tickSource c && !c.tck.refLost then
    let o := gridOffset c t
    let len : Int := if p < 4 * o then 2 * p - o else if 4 * o < -p then p - o
      else p - max (-(p / 2000)) (min (p / 2000) o)
    t + len.toNat
  else t + periodNs c

/-- Registers of the boundary's time (TCK_BOUNDARY_TIME, TCK_ALIGN). -/
def showBoundary (c : Core) (t : Nat) : Core :=
  let ptp := tickSource c = 3
  let shown := if ptp then ((t : Int) + c.tck.grid.getD 0).toNat else t
  let c := c.rset TCK_BOUNDARY_TIME (BitVec.ofNat 64 shown)
  c.setFld TCK_ALIGN TCK_ALIGN_OFFSET (if isMaster c && 2 ≤ tickSource c then (gridOffset c t % 2 ^ 32).toNat else 0)

/-- A reference of the second grid arrives: alignment goes on (R52, R54). -/
def takeReference (c : Core) (g : Int) : Core := modTck c (fun t => { t with grid := some g, refLost := false })

/-- PPS_EDGE: a second begins at this time. -/
def ppsEdge (time : Nat) (c : Core) : Core :=
  let c := c.at time
  if !ticking c || tickSource c ≠ 2 then c else takeReference c (-(time : Int))

/-- An offset is known: PTP time less the time base. -/
def ptpSynced (c : Core) : Core :=
  match c.tck.ptp.last, c.tck.ptp.delay with
  | some r, some d => takeReference c (r + d)
  | _, _ => c

/-- A Sync is whole: origin plus correction less arrival is kept, and a delay request goes out, some time later. -/
def ptpSync (c : Core) (raw : Int) : Core :=
  let (c, k) := c.draw
  let t := c.glb.now + (Config.freeWord k).toNat % 2 ^ 32
  ptpSynced (modTck c (fun x => { x with ptp := { x.ptp with
    sync := none, last := some raw, req := some (x.ptp.seq, t), seq := (x.ptp.seq + 1) % 65536 } }))

/-- The mean path delay is measured. -/
def ptpDelay (c : Core) (d : Int) : Core := ptpSynced (modTck c (fun x => { x with ptp := { x.ptp with delay := some d, req := none, resp := none } }))

/-- What the slave clock makes of a message that arrives now (R53): offset from Sync, one-step or two-step, and the mean path delay by
either mechanism. PRESUMED, assumption 98 (unsafe). -/
def ptpTake (msg : PtpMsg) (c : Core) : Core :=
  let t := c.glb.now
  let p := c.tck.ptp
  match msg with
  | .sync seq two origin corr =>
    if two then modTck c (fun x => { x with ptp := { x.ptp with sync := some (seq, t, corr) } }) else ptpSync c (origin + corr - t)
  | .followUp seq origin corr => match p.sync with
    | some (n, at_, k) => if n = seq then ptpSync c (origin + k + corr - at_) else c
    | none => c
  | .delayResp seq receive corr => match p.req, p.last with
    | some (n, t3), some raw => if n = seq then ptpDelay c ((receive - t3 - corr - raw) / 2) else c
    | _, _ => c
  | .pdelayResp seq two receipt corr => match p.req with
    | some (n, t1) =>
      if n ≠ seq then c
      else if two then modTck c (fun x => { x with ptp := { x.ptp with resp := some (seq, receipt, t, corr) } })
      else ptpDelay c (((t : Int) - t1 - corr) / 2)
    | none => c
  | .pdelayFollowUp seq origin corr => match p.req, p.resp with
    | some (n, t1), some (r, t2, t4, k) =>
      if n = seq ∧ r = seq then ptpDelay c (((t4 : Int) - t1 - ((origin : Int) - t2) - k - corr) / 2) else c
    | _, _ => c

/-- PTP_MESSAGE: every port timestamps it, and the slave clock takes those of the port named in the configuration, over whichever
transport (R53). -/
def ptpMessage (port : Nat) (p : PtpPkt) (time : Nat) (c : Core) : Core :=
  let c := c.at time
  if !ticking c || tickSource c ≠ 3 || port ≠ c.fld TCK_CONFIG TCK_CONFIG_PTP_PORT || !(List.range 4).any (linkUp c port) then c
  else ptpTake p.msg c

/-- TICK_REFERENCE_LOST (R54). -/
def referenceLost (c : Core) : Core :=
  if ticking c && isMaster c && 2 ≤ tickSource c && !c.tck.refLost then
    raise (modTck c (fun t => { t with refLost := true })) .tickReferenceLost 0 0
  else c

/-! ### Messages of the tick (R40, R45, R526) -/

/-- The TICK of tick `n` in a direction. -/
def sendTick (c : Core) (d n corr : Nat) (master : Nat × Nat) : Core := ringPlain c d 0x71 15 [n, corr, master.2, master.1]

/-- The candidate priority that a heartbeat carries: 255 for a chip that is no candidate. -/
def shownPriority (c : Core) : Nat := if c.flag TCK_CONFIG TCK_CONFIG_CANDIDATE then c.fld TCK_CONFIG TCK_CONFIG_PRIORITY else 255

/-- The payload of a HEARTBEAT before its CRC-32C, its fields aligned by R493, and the CRC. -/
def beatCrc (origin priority alive count state : Nat) : Nat :=
  (crc32c (natLe 2 origin ++ natLe 1 priority ++ natLe 1 alive ++ natLe 4 0 ++ natLe 8 count ++ natLe 1 state ++ natLe 3 0)).toNat

/-- The chip's heartbeat of this tick goes out both ways. -/
def sendBeats (c : Core) : Core :=
  if ringState c = 0 || !inService c then c
  else
    let c := { c with ring := { c.ring with alive := (c.ring.alive + 1) % 256 } }
    let body := [c.chipId, shownPriority c, c.ring.alive, c.tick, ringState c]
    let crc := beatCrc c.chipId (shownPriority c) c.ring.alive c.tick (ringState c)
    [0, 1].foldl (fun c d => if sendsTo c d then ringPlain c d 0x72 24 (body ++ [crc]) else c) c

/-- A TICK or HEARTBEAT lands: SEQ 0 and no credits (R525). DEDUCED, assumption 30 (unsafe); DESIGN CHOICE, assumption 31 (safe). -/
def plainRx (c : Core) (p : Pkt) : Core × Option Nat :=
  if !inService c || !ringPort p.port then (c, none)
  else match checkPkt c { p with cls := 2 } false with
    | (c, some s) => (headerRx c s p, some (portDir p.port))
    | (c, none) => (c, none)

/-- TICK: the master meets its own after a circuit; a worse master yields to a better one (R45); a member takes the first
intact copy, or a better master's, and passes it on with its residence time, a free value, and the measured link delay added (R40).
The circuit of a tick is the greater of its two directions for the reserve, and LAST_NS keeps the one that came last, also once the
chip is master no more (R76, R78). DEDUCED, assumption 30 (unsafe); DESIGN CHOICE, assumption 102 (unsafe). -/
def tickRx (p : Pkt) (n corr master priority : Nat) (c : Core) : Core :=
  match plainRx c p with
  | (c, none) => c
  | (c, some d) =>
    if isMaster c && master = c.chipId then
      match c.tck.sent.find? (fun x => x.1 == n) with
      | some (_, t) =>
        let took := c.glb.now - t
        let c := c.setFld TCK_RING_CIRCUIT TCK_RING_CIRCUIT_LAST_NS (took % 2 ^ 32)
        let c := if c.fld TCK_RING_MAX TCK_RING_MAX_MAX_NS < took then c.setFld TCK_RING_MAX TCK_RING_MAX_MAX_NS (min took (2 ^ 32 - 1)) else c
        modTck c (fun t => { t with circuit := some (max took (t.circuit.getD 0)) })
      | none => c
    else if !onRing c then c
    else
      let better := betterMaster (priority, master) (myRank c)
      let c := if isMaster c && better then followMaster (raise c .tickMasterChange 0 0 master) master else c
      let fresh := c.tick < n && (match c.tck.got with
        | none => true
        | some (_, id, pri) => betterMaster (priority, master) (pri, id))
      let c := if !isMaster c && fresh then
          modTck c (fun t => { t with got := some (n, master, priority), next := c.glb.now + periodNs c - min corr (periodNs c) })
        else c
      if master = c.chipId || !passes c d then c
      else
        let (c, k) := c.draw
        sendTick c d n ((corr + (Config.freeWord k).toNat % 2 ^ 32 + amGet c.ring.linkNs d 0) % 2 ^ 32) (priority, master)

/-- HEARTBEAT: checked by its CRC and its alive counter, taken, and passed on until it meets its origin (R526). A master that
hears a LEAVING member leaves it out of the routes. -/
def heartbeatRx (p : Pkt) (origin priority alive count state : Nat) (crc : W32) (c : Core) : Core :=
  match plainRx c p with
  | (c, none) => c
  | (c, some d) =>
    if origin = c.chipId then c
    else
      let old := amGet? c.ring.heard origin
      if crc.toNat ≠ beatCrc origin priority alive count state || (old.map (·.alive)) == some (alive % 256) then
        c.count RING_HB_REJECTED
      else
        let h : Heard := { priority := priority, candidate := priority ≤ 15, alive := alive % 256, count := count, state := state,
                           thisTick := true, lastTick := (old.map (·.lastTick)).getD false, absent := 0,
                           dirs := distinctOf ((old.map (·.dirs)).getD [] ++ [d]) }
        let c := { c with ring := { c.ring with heard := amSet c.ring.heard origin h } }
        let c := if state = 3 && isMaster c && onRing c && (memberIdx c origin).isSome then
          issueRoute c (withoutMember c.ring.members origin) else c
        if passes c d then ringPlain c d 0x72 24 [origin, priority, alive, count, state, crc.toNat] else c

/-! ### What a boundary does beyond the tick itself -/

/-- Refresh share of the tick just ended (R551): thousandths of the period, rounded up, largest over the pseudo-channels. -/
def refreshShare (c : Core) : Core :=
  let p := 64 * periodNs c
  let share := c.mem.pcs.foldl (fun n q => max n ((q.2.refreshes * 130 * 1000 + p - 1) / max 1 p)) 0
  let c := c.setFld TCK_REFRESH TCK_REFRESH_SHARE (min share 1023)
  c.mem.pcs.foldl (fun c q => setPcQ c q.1 { q.2 with refreshes := 0 }) c

/-- Corrections of the tick just ended, one event for each store (R567). -/
def eccTick (c : Core) : Core :=
  let c' := c.mem.corrected.foldl (fun c (n, k) =>
    if n < 16 then raise c .eccCorrected 2 n 0 (min k 65535) else raise c .eccCorrected 1 (n - 16) 0 (min k 65535)) c
  { c' with mem := { c'.mem with corrected := [] } }

/-- Stack temperatures sampled in the tick, and the refresh window that they call for (R550). -/
def sampleTemps (c : Core) (temps : List Nat) : Core :=
  temps.zipIdx.foldl (fun c (t, n) =>
    if 16 ≤ n then c
    else
      let a := stackReg MEM_STATUS n
      let c := c.setFld a MEM_STATUS_TEMP_C (min t 255)
      if 85 < t then c.setFld a MEM_STATUS_HOT 1 else if t ≤ 80 then c.setFld a MEM_STATUS_HOT 0 else c) c

/-- A hot notice to one subscriber, while the tick's allowance lasts (R112). -/
def hotNotice (c : Core) (e f : Nat) (fb value : Nat) (agent : Nat) : Core :=
  if c.ext.hotSent < c.fld EXT_HOT EXT_HOT_MAX_PER_TICK then
    let c := { c with ext := { c.ext with hotSent := c.ext.hotSent + 1 } }
    c.notice agent 3 0 (extPtr c e (f * fb)).toNat value c.tick
  else c.count EXT_HOT_DROPPED

/-- The access counter of a frame is compared with the threshold and halved (R111, R112). -/
def sampleFrame (c : Core) (e f : Nat) : Core :=
  match ext? c e with
  | none => c
  | some x =>
    let v := (frameOf x f).count
    let t := c.fld EXT_HOT EXT_HOT_THRESHOLD
    let on := x.hotNotice && c.flag EXT_CTRL EXT_CTRL_HOT_EN
    let hot := on && t ≤ v && !(frameOf x f).disarmed
    let c := if hot then x.subscribers.foldl (fun c a => hotNotice c e f (frameBytes x) v a) c else c
    modFrame c e f (fun y => { y with count := v / 2, disarmed := hot || (y.disarmed && !(2 * v < t)) })

def sampleFrames (c : Core) : Core :=
  let c := { c with ext := { c.ext with hotSent := 0 } }
  c.ext.exts.foldl (fun c (e, x) => x.frames.foldl (fun c f => sampleFrame c e f.1) c) c

/-- Shadow codebooks become active. A thread whose slice goes on past the boundary keeps the copy it had up to its STEP (R67, R141). -/
def activateBooks (c : Core) : Core :=
  let mine := c.regs.filter (fun r => CAL_CB 0 0 ≤ r.1 && r.1 < CAL_CB 256 0)
  let add := fun (m : AMap (List Nat)) (r : Nat × W64) =>
    let b := (r.1 - CAL_CB 0 0) / 32
    let i := 2 * ((r.1 - CAL_CB 0 0) / 4 % 8)
    let v := r.2.toNat
    amSet m b (listMod (listMod (padTo 16 0 (amGet m b [])) i (fun _ => v % 65536)) (i + 1) (fun _ => v / 65536 % 65536))
  let new := mine.foldl add []
  let old := c.work.codebooks
  if new = old then c
  else { c with work := { c.work with codebooks := new }
                rasp := { c.rasp with threads := c.rasp.threads.map (fun x => (x.1, { x.2 with books := x.2.books <|> some old })) } }

/-- Accesses that wait have met one more boundary (R101, R617). -/
def countWaits (c : Core) : Core :=
  let w := fun (x : Work) => match x.phase with | .parked _ => { x with waited := x.waited + 1 } | _ => x
  let t := fun (x : Thread) => match x.wait with | .parked _ => { x with waited := x.waited + 1 } | _ => x
  let r := fun (x : Request) => if x.cause.isSome then { x with waited := x.waited + 1 } else x
  let c := { c with work := { c.work with flight := amMap c.work.flight (fun _ x => w x) } }
  let c := { c with rasp := { c.rasp with threads := amMap c.rasp.threads (fun _ x => t x) } }
  { c with net := { c.net with requests := c.net.requests.map r } }

/-- Deadlines that passed by the tick just ended and that no WORK_DEADLINE has met: works that miss them, and one event for each
context (R69, R70, R71). -/
def lateEvents (c : Core) : Core := c.work.ctx.foldl (fun c (x, _) => workDeadline x c) c

/-- What was logged once for the tick may be logged again, and tick sets empty (R101, R270, R394, R421). -/
def clearMarks (c : Core) : Core :=
  let c := { c with work := { c.work with ctx := amMap c.work.ctx (fun _ k => { k with tickSet := [] }) } }
  let c := { c with ext := { c.ext with exts := amMap c.ext.exts (fun _ x => { x with noBackingLogged := false }) } }
  let older := c.ext.quarantine.map (fun (r : Quarantine) => { r with age := satAdd 32 r.age 1 })
  let c := { c with ext := { c.ext with quarantine := older } }
  let c := { c with rasp := { c.rasp with trapLogged := [] } }
  let full := distinctOf c.sync.fullLogged
  let c := full.foldl (fun c p => raise c .synWaitPoolFull 1 p) { c with sync := { c.sync with fullLogged := [] } }
  c.sync.objs.foldl (fun c o => syncPoll c o.1) c

/-- Health of the pair (R612, R613, R620). -/
def pairTick (c : Core) : Core :=
  if !paired c || !inService c then c
  else
    let c := { c with pair := { c.pair with memberTicks := if onRing c then min 3 (c.pair.memberTicks + 1) else 0 } }
    let c := if c.pair.heard then { c with pair := { c.pair with heard := false } }
      else if pairState c = 0 then c
      else
        let c := (c.count PAIR_HEALTH_MISSED).satFld PAIR_STATUS PAIR_STATUS_HEALTH_AGE
        { c with pair := { c.pair with missed := c.pair.missed + 1 } }
    sendHealth c

/-- A circuit that has come back in the tick just ended and took longer than the ring reserve (R76): logged at the boundary, with the
circuit time as DETAIL. DESIGN CHOICE, assumption 102 (unsafe). -/
def ringTick (c : Core) : Core :=
  let reserve := periodNs c * bitsOf c.tck.budget0.toNat TCK_BUDGET0_RING_RESERVE.hi TCK_BUDGET0_RING_RESERVE.lo / 1000
  let c := match c.tck.circuit with
    | some k => if isMaster c && reserve < k then raise c .ringReserveExceeded 0 0 k else c
    | none => c
  modTck c (fun t => { t with circuit := none })

/-- The tick just ended: housekeeping, the ring's reserve, late works, corrections, refresh. -/
def endTick (c : Core) (excess : Nat) : Core :=
  refreshShare (eccTick (lateEvents (judgeTick (ringTick c) excess)))

/-- The boundary itself: mastership, the count, the time, and the messages of the ring. -/
def turnTick (c : Core) (t : Nat) : Core :=
  let c := rollHeard c
  let was := isMaster c
  let new := nextMaster c
  let n := nextCount c
  let jump := c.tick + 1 < n
  let c := if !was then memberEnd c else if onRing c then masterEnd c else c
  let c := c.setFld TCK_CTRL TCK_CTRL_HANDOVER 0
  let c := startElection (c.rset TCK_COUNT (BitVec.ofNat 64 n))
  let c := if jump then raise c .tickJump 0 0 (n - 1) else c
  let c := showBoundary c t
  let c := modTck c (fun k => { k with next := nextBoundary c t, last := t, got := none })
  let c := { c with pins := { c.pins with tickOut := c.flag TCK_CTRL TCK_CTRL_TICKOUT_EN } }
  let by_ := if was then new else myRank c
  let c := if (was || isMaster c) && onRing c && inService c then
    let c := modTck c (fun k => { k with sent := ((n + 1, t) :: k.sent).take 64 })
    [0, 1].foldl (fun c d => if sendsTo c d then sendTick c d (n + 1) 0 by_ else c) c else c
  sendBeats c

/-- The tick that begins. -/
def beginTick (c : Core) (temps : List Nat) : Core :=
  let c := activateBooks (countWaits (clearMarks (pairTick c)))
  let c := { c with work := { c.work with batchNs := [] } }
  lateBatches (yieldSlices (sampleFrames (sampleTemps c temps)))

/-- Every effect of a boundary at time `t`. DEDUCED, assumption 28 (safe). -/
def boundary (t excess : Nat) (temps : List Nat) (m : M) : M :=
  let m := m.on (fun c => beginTick (turnTick (endTick (c.at t) excess) t) temps)
  if inService m.core then verifyTick (m.on pairPoll) else m

/-- A master with source TICK_IN. -/
def edgeDriven (c : Core) : Bool := isMaster c && tickSource c == 1

/-- TICK_BOUNDARY: the expected boundary has come. DEDUCED, assumption 28 (safe). -/
def tickBoundary (time excess : Nat) (temps : List Nat) (m : M) : M :=
  if !ticking m.core || edgeDriven m.core || max m.core.glb.now time < m.core.tck.next then m
  else (boundary m.core.tck.next excess temps m).on (fun c => c.at time)

/-- TICK_IN_EDGE (R50): an edge within 1 % of P around the expected boundary is the boundary. -/
def tickInEdge (time excess : Nat) (temps : List Nat) (m : M) : M :=
  let c := m.core
  if !ticking c || !edgeDriven c then m.on (fun c => c.at time)
  else
    let due := c.tck.last + periodNs c
    let w := periodNs c / 100
    if due - w ≤ time && time ≤ due + w then boundary time excess temps m
    else m.on (fun c => raise (c.at time) .tickInRejected 0 0)

/-- TICK_IN_MISSING (R50): no edge by P + 1 %; the master makes the boundary and logs TICK_HOLDOVER. -/
def tickInMissing (time excess : Nat) (temps : List Nat) (m : M) : M :=
  let c := m.core
  let due := c.tck.last + periodNs c + periodNs c / 100
  if !ticking c || !edgeDriven c || max c.glb.now time < due then m.on (fun c => c.at time)
  else (boundary due excess temps (m.on (fun c => raise c .tickHoldover 0 0))).on (fun c => c.at time)

/-- TICK_OUT_PULSE_END (R55): 1 µs after the boundary. -/
def tickOutEnd (time : Nat) (c : Core) : Core :=
  let c := c.at time
  if c.tck.last + 1000 ≤ c.glb.now then { c with pins := { c.pins with tickOut := false } } else c

end Sys2Proof.Machine
end

