-- ==== Sys2Proof/Machine/RegView.lean ====
section
/-! DEFINITION. What registers show (R685, R686): the register at an address, and the values that follow from the state of the
chip and are stored nowhere else. -/

namespace Sys2Proof.Machine
open Sys2Proof

/-! ### The register at an address -/

/-- An offset lies on an element of an array with these counts and strides. -/
def dimHit : List (Nat × Nat) → Nat → Bool
  | [], off => off == 0
  | (n, s) :: t, off => off / s < n && dimHit t (off % s)

/-- The rows of the block that an address lies in (Table 20-1). -/
def blockRows (a : Nat) : List RegRow :=
  if a < 0x100000 then match a / 65536 with
    | 0 => regRowsGlb | 1 => regRowsTck | 2 => regRowsBoot | 3 => regRowsPwr | 4 => regRowsEvt | 5 => regRowsSec
    | 6 => regRowsSyn | 7 => regRowsCoh | 8 => regRowsExt | 9 => regRowsPair | 10 => regRowsCal | 11 => regRowsChk
    | 12 => regRowsEcc | _ => []
  else if a < 0x200000 then match a % 0x40000 / 65536 with
    | 0 => regRowsMem | 1 => regRowsAmt | 2 => regRowsCe | _ => regRowsRsp
  else if a < 0x300000 then (if RING_CFG ≤ a && a < RING_CFG + 0x1000 then regRowsRing else regRowsPort)
  else if 0x400000 ≤ a && a < 0x500000 then regRowsCtx
  else if 0x1000000 ≤ a && a < 0x1200000 then regRowsSob
  else []

/-- The register at address `a`, if one begins there. -/
def rowAt (a : Nat) : Option RegRow :=
  if a = BOOT_STEP_US 0 then none else (blockRows a).find? (fun r => r.base ≤ a && dimHit r.dims (a - r.base))

/-- The event log's words (R705). -/
def inLog (a : Nat) : Bool := 0xE0000 ≤ a && a < 0x100000

/-- The address lies in a block (R685). -/
def mapped (a : Nat) : Bool :=
  a < 0xD0000 || inLog a || (0x100000 ≤ a && a < 0x300000) || (0x400000 ≤ a && a < 0x500000) ||
  (0x1000000 ≤ a && a < 0x1200000)

/-- The plinth whose base die holds the registers of an address: a plinth block's or a port's.
DESIGN CHOICE, assumption 17 (unsafe). -/
def regPlinth (a : Nat) : Option Nat :=
  if 0x100000 ≤ a && a < 0x200000 then some ((a - 0x100000) / 0x40000)
  else if 0x200000 ≤ a && a < 0x300000 then some (portPlinth ((a - 0x200000) / 65536)) else none

/-- Registers of a fenced base die read zero, and writes to them are ignored (R685). DESIGN CHOICE, assumption 17 (unsafe). -/
def regDark (c : Core) (a : Nat) : Bool := match regPlinth a with | some p => baseFenced c p | none => false

/-! ### Values that follow from the state -/

/-- A register's value from fields. -/
def word (l : List (Fld × Nat)) : W64 := BitVec.ofNat 64 (l.foldl (fun v f => setBits v f.1.hi f.1.lo f.2) 0)

/-- A stored register with some fields replaced. -/
def over_ (c : Core) (a : Nat) (l : List (Fld × Nat)) : W64 :=
  BitVec.ofNat 64 (l.foldl (fun v f => setBits v f.1.hi f.1.lo f.2) (c.rget a).toNat)

/-- The element of an array with `n` elements `s` apart from `base`. -/
def elemOf (a base s n : Nat) : Option Nat :=
  if base ≤ a && (a - base) % s == 0 && (a - base) / s < n then some ((a - base) / s) else none

/-- Ready is reported (R656). -/
def readyShown (c : Core) : Bool := bootStage c == stReady || bootStage c == stQuiescing || bootStage c == stQuiesced

/-- DESIGN CHOICE, assumption 81 (unsafe). -/
def viewGlb (c : Core) (a : Nat) : Option W64 :=
  if a = GLB_STATUS then some (over_ c a [(GLB_STATUS_READY, b2n (readyShown c))])
  else if a = GLB_TIME then some (BitVec.ofNat 64 c.glb.now)
  else none

/-- N_max for the budget in force (R74), once boundaries run. -/
def viewTck (c : Core) (a : Nat) : Option W64 :=
  if a = TCK_RING_MEMBERS && c.tck.next != 0 then some (over_ c a [(TCK_RING_MEMBERS_N_MAX, min (ringMax c) 8191)])
  else none

/-- Links of plinth `p` in increasing number of the other plinth (R695). -/
def linksOf (p : Nat) : List Nat := (List.range 6).filter (fun l => (linkPlinths l).1 == p || (linkPlinths l).2 == p)

/-- DESIGN CHOICE, assumption 81 (unsafe). -/
def viewAmt (c : Core) (a : Nat) : Option W64 :=
  (elemOf a (AMT_STATUS 0) 0x40000 4).map (fun p =>
    let down := (linksOf p).map (fun l => bitOf (c.fld GLB_FENCED GLB_FENCED_LINKS) l)
    let gone := (linksOf p).map (fun l => baseFenced c (linkPlinths l).1 || baseFenced c (linkPlinths l).2)
    let bits := fun (l : List Bool) => ((l.zipIdx).map (fun x => if x.1 then 2 ^ x.2 else 0)).foldl (· + ·) 0
    word [(AMT_STATUS_DETOUR, bits ((down.zip gone).map (fun x => x.1 && !x.2))),
          (AMT_STATUS_LINK_UP, bits ((down.zip gone).map (fun x => !x.1 && !x.2)))])

def viewPwr (c : Core) (a : Nat) : Option W64 :=
  if a = PWR_STATUS then
    let n := fun (p : Nat → Bool) => ((List.range 68).filter (fun d => p (domState c d))).length
    some (word [(PWR_STATUS_OFF, n (· == 3)), (PWR_STATUS_RETENTION, n (fun s => s == 2 || s == 5)), (PWR_STATUS_ON, n (· == 0))])
  else match elemOf a (PWR_DOMAIN 0) 4 68 with
    | some d => some (over_ c a [(PWR_DOMAIN_FENCED, b2n (domFenced c d))])
    | none => match elemOf a (PWR_WATCH 0) 4 68 with
      | some d => if isSpare c d then
          some (over_ c a [(PWR_WATCH_PERIOD_MS, c.fld PAIR_SPARE_WATCH PAIR_SPARE_WATCH_PERIOD_MS),
                           (PWR_WATCH_MISMATCHES, c.fld PAIR_SPARE_WATCH PAIR_SPARE_WATCH_LAST_CORRECTED)]) else none
      | none => none

def viewSec (c : Core) (a : Nat) : Option W64 :=
  if a = SEC_STATUS then some (word [
    (SEC_STATUS_OWNER_SET, b2n c.sec.fuses.ownerKh.isSome), (SEC_STATUS_MGMT_KEY, b2n (slotOwner c 0).isSome),
    (SEC_STATUS_RING_KEY, b2n (slotOwner c 4095).isSome), (SEC_STATUS_RECOVERY, b2n (bootStage c == stRecovery)),
    (SEC_STATUS_ATTEST_QUEUE, c.sec.attest.length), (SEC_STATUS_SLOTS_USED, c.sec.slots.length)])
  else if a = SEC_SVN then some (over_ c a [(SEC_SVN_FUSED, c.sec.fuses.svnMin)])
  else if a = SEC_SERIAL_LO then some (BitVec.ofNat 64 c.sec.fuses.serial)
  else if a = SEC_SERIAL_HI then some (BitVec.ofNat 64 (c.sec.fuses.serial / 2 ^ 64))
  else (elemOf a (SEC_PART 0) 4 16).map (fun q => over_ c a [(SEC_PART_SLOTS, (slotsOf c q).length)])

def viewSyn (c : Core) (a : Nat) : Option W64 :=
  if a = SYN_STATUS then some (word [(SYN_STATUS_GRANTED, c.sync.objs.length)])
  else match elemOf a (SYN_WAIT 0) 4 4 with
    | some p => some (word [(SYN_WAIT_USED, waitEntries c p)])
    | none =>
      if a < 0x1000000 then none
      else
        let o := amGet? c.sync.objs ((a - 0x1000000) / 32)
        match o, (a - 0x1000000) % 32 with
        | none, _ => some 0
        | some o, 0 => some (BitVec.ofNat 64 o.count)
        | some o, 8 => some (BitVec.ofNat 64 (shownTarget o))
        | some o, 16 => some (BitVec.ofNat 64 o.deadline)
        | some o, 24 => some (word [
            (SYN_OBJ_CONTROL_OWNER, o.owner), (SYN_OBJ_CONTROL_WAITERS, o.waiters.length),
            (SYN_OBJ_CONTROL_PARTITION, o.partition), (SYN_OBJ_CONTROL_OWNER_VALID, b2n o.ownerValid),
            (SYN_OBJ_CONTROL_FROZEN, b2n o.frozen), (SYN_OBJ_CONTROL_MISSED, b2n o.missed),
            (SYN_OBJ_CONTROL_ARMED, b2n o.armed), (SYN_OBJ_CONTROL_GRANTED, 1)])
        | _, _ => some 0

def domCode : DomState → Nat
  | .up => 1 | .draining => 2 | .down => 3

def viewCoh (c : Core) (a : Nat) : Option W64 :=
  let n := fun (p : DomState → Bool) => (c.coh.domains.filter (fun d => p d.2.st)).length
  let sel := amGet? c.coh.domains (c.fld COH_SELECT COH_SELECT_DOMAIN)
  if a = COH_STATUS then some (word [(COH_STATUS_UP, n (· == .up)), (COH_STATUS_DOWN, n (· != .up))])
  else if a = COH_D_STATE then match sel with
    | none => some 0
    | some x => some (word [
        (COH_D_STATE_PARTITION, x.partition), (COH_D_STATE_DEAD_MEMBER, x.dead.getD 0), (COH_D_STATE_DEAD_VALID, b2n x.dead.isSome),
        (COH_D_STATE_CAUSE, x.cause), (COH_D_STATE_POISONED, min x.poisoned 1023), (COH_D_STATE_WINDOWS, x.windows.length),
        (COH_D_STATE_F, domCode x.st)])
  else if a = COH_D_MEMBERS then some (BitVec.ofNat 64 (match sel with
    | some x => (x.members.map (fun m => 2 ^ m.1)).foldl (· + ·) 0
    | none => 0))
  else if a = COH_D_WINDOW_BYTES then some (BitVec.ofNat 64 (match sel with
    | some x => (x.windows.map (fun w => w.2.2)).foldl (· + ·) 0
    | none => 0))
  else (elemOf a (COH_DIR_USED 0) 4 4).map (fun p =>
    word [(COH_DIR_USED_F, (c.coh.lines.filter (fun l => lineOff l.1 / 128 % 4 == p)).length)])

def viewExt (c : Core) (a : Nat) : Option W64 :=
  if a = EXT_STATUS then some (word [
    (EXT_STATUS_ACTIVE, (c.ext.exts.filter (fun x => x.2.st != .withdrawn)).length),
    (EXT_STATUS_QUARANTINE, c.ext.quarantine.length), (EXT_STATUS_WAITING, b2n (c.ext.waiting != []))])
  else if a = EXT_QUARANTINE then some (word [(EXT_QUARANTINE_OLDEST_TICKS, c.ext.quarantine.foldl (fun n r => max n r.age) 0)])
  else (elemOf a (EXT_PART_FREE 0) 4 16).map (fun q =>
    word [(EXT_PART_FREE_F, min 1048575 (((amGet c.mem.pool q []).map (·.count)).foldl (· + ·) 0))])

def viewCal (c : Core) (a : Nat) : Option W64 :=
  let n := fun (s : PlanState) => (c.work.tables.filter (fun t => t.2.plan == s)).length
  let sel := amGet? c.work.tables (c.fld CAL_SELECT CAL_SELECT_TABLE)
  let of := fun (f : Table → Nat) => some (BitVec.ofNat 64 (match sel with | some t => f t | none => 0))
  if a = CAL_STATUS then some (word [(CAL_STATUS_RUNNING, n .running), (CAL_STATUS_HALTED, n .halted)])
  else if a = CAL_T_STATE then match sel with
    | some t => some (word [(CAL_T_STATE_DEFINED, 1), (CAL_T_STATE_F, planCode t.plan)])
    | none => some 0
  else if a = CAL_T_PLANNO then of (·.planNo)
  else if a = CAL_T_NEXT_ROW then of (·.nextRow)
  else if a = CAL_T_POISON_ROW then some (match sel with | some t => BitVec.ofNat 64 t.poisonRow | none => 0xFFFFFFFF)
  else if a = CAL_T_OVF then of (·.ovf)
  else if a = CAL_T_UNF then of (·.unf)
  else if a = CAL_T_ZEROS then of (·.zeros)
  else if a = CAL_T_NONFINITE then of (·.nonfinite)
  else if a = CAL_T_WRITTEN then of (·.written)
  else if a = CAL_T_MQ then match sel with
    | some t => some (word [(CAL_T_MQ_PEAK, t.mqPeak), (CAL_T_MQ_USED, t.mq.length)])
    | none => some 0
  else match elemOf a (CAL_T_HIST 0) 4 64 with
    | some b => of (fun t => amGet t.hist b 0)
    | none => none

def sessCode : SessSt → Nat
  | .closed => 0 | .opened => 1 | .hold => 2 | .lost => 3

/-- Registers of the selected session and queue pair, and the counts beside them. -/
def viewFzt (c : Core) (a : Nat) : Option W64 :=
  let n := fun (p : SessSt → Bool) => (c.net.sessions.filter (fun s => p s.2.st)).length
  let sel := sess? c (c.fld FZT_SELECT FZT_SELECT_SESSION)
  let of := fun (f : Session → W64) => some (match sel with | some s => f s | none => 0)
  if a = FZT_STATUS then some (word [(FZT_STATUS_HOLD, n (· == .hold)), (FZT_STATUS_OPEN, n (fun s => s == .opened || s == .hold))])
  else if a = FZT_OPTAGS then some (word [(FZT_OPTAGS_USED, c.work.tags.length)])
  else if a = FZT_S_STATE then of (fun s => word [
    (FZT_S_STATE_EPOCH, s.epoch), (FZT_S_STATE_PATHS_UP, ((s.paths.zipIdx).map (fun p => if p.1.up then 2 ^ p.2 else 0)).foldl (· + ·) 0),
    (FZT_S_STATE_F, sessCode s.st)])
  else if a = FZT_S_PEER then of (fun s => BitVec.ofNat 64 s.remote)
  else if a = FZT_S_TX_SEQ then of (fun s => BitVec.ofNat 64 s.txSeq)
  else if a = FZT_S_RX_BASE then of (fun s => BitVec.ofNat 64 s.rxBase)
  else if a = FZT_S_CREDITS then of (fun s => word [
    (FZT_S_CREDITS_MGT, crLeft (getCr s 2)), (FZT_S_CREDITS_RSP, crLeft (getCr s 1)), (FZT_S_CREDITS_REQ, crLeft (getCr s 0))])
  else if a = FZT_Q_STATE then some (match amGet? c.net.qps (c.fld FZT_SELECT FZT_SELECT_QP) with
    | some q => word [(FZT_Q_STATE_LAST_STATUS, q.lastStatus), (FZT_Q_STATE_PORT, q.port), (FZT_Q_STATE_F, if q.error then 2 else 1)]
    | none => 0)
  else (elemOf a (FZT_RXPOOL 0) 4 4).map (fun p => word [(FZT_RXPOOL_ALLOCATED, rxAllocated c p)])

/-- The policer register of port `n` at an offset from 0x2104: its place in the list. -/
def polIdx (off : Nat) : Option Nat :=
  if off < 20 && off % 4 == 0 then some (off / 4)
  else if off = 20 then some 5 else if off = 28 then some 6 else if off = 36 then some 7 else if off = 44 then some 8 else none

/-- Port and place of a policer register. -/
def polAt (a : Nat) : Option (Nat × Nat) :=
  if 0x202104 ≤ a && a < 0x300000 then (polIdx ((a - 0x202104) % 65536)).map (fun i => ((a - 0x200000) / 65536, i)) else none

def viewPol (c : Core) (a : Nat) : Option W64 :=
  (polAt a).map (fun (n, i) => ((policer c n (c.fld (POL_SELECT n) POL_SELECT_POLICER)).regs.getD i 0))

/-- While EXTEST is loaded, boundary cells 1 and 2 drive RING_BYPASS_N and cell 3 drives PAIR_KEY_OUT_N (R720). -/
def extestOn (c : Core) : Bool := c.boot.jtag == 3
def cell (c : Core) (i : Nat) : Bool := c.boot.extest.getD i true
def bypassPads (c : Core) : Nat :=
  if extestOn c then b2n (!cell c 1) + 2 * b2n (!cell c 2) else c.fld RING_STATUS RING_STATUS_BYPASS
def keyPad (c : Core) : Nat := if extestOn c then b2n (!cell c 3) else c.fld PAIR_STATUS PAIR_STATUS_KEY_OUT

def viewRing (c : Core) (a : Nat) : Option W64 :=
  if a = RING_STATUS then some (over_ c a [(RING_STATUS_BYPASS, bypassPads c)])
  else if a = RING_FWD_OUTSTANDING then some (word [(RING_FWD_OUTSTANDING_COUNT, fwdOut c)])
  else if a = RING_ROUTE_ENTRY then
    let chip := c.fld RING_ROUTE_SELECT RING_ROUTE_SELECT_CHIP
    some (match routeTo c chip with
    | none => 0
    | some r => word [
        (RING_ROUTE_ENTRY_REACH1, b2n r.reach1), (RING_ROUTE_ENTRY_REACH0, b2n r.reach0),
        (RING_ROUTE_ENTRY_PREFERRED, r.prefer.getD 0), (RING_ROUTE_ENTRY_DRAINING, b2n (c.ring.draining.any (fun d => d.1 == chip))),
        (RING_ROUTE_ENTRY_HOPS1, r.hops1), (RING_ROUTE_ENTRY_HOPS0, r.hops0)])
  else none

/-- States of engines and clusters: FENCED, then BUSY when a slice or thread holds them (Tables 9-10 and 10-17). -/
def viewUnits (c : Core) (a : Nat) : Option W64 :=
  match (List.range 16).find? (fun n => stackReg CE_STATUS n == a) with
  | some n =>
    let holder := (amGet? c.work.engines n).bind (·.holder)
    let st := if domFenced c (4 + n) then 4 else if holder.isSome && c.fld a CE_STATUS_STATE == 2 then 3 else c.fld a CE_STATUS_STATE
    some (over_ c a [(CE_STATUS_STATE, st), (CE_STATUS_CONTEXT, match holder with | some (x, _) => x | none => 0)])
  | none => match (List.range 16).find? (fun k => stackReg RSP_STATUS k == a) with
    | some k =>
      let busy := min 64 ((c.rasp.threads.filter (fun t => thrCluster t.1 == k)).length +
        sumNat ((slicesOn c k).map (fun w => 1 + Config.sliceThreads w.ctx w.num % 64)))
      let st := if domFenced c (20 + k) then 4 else if busy ≠ 0 && c.fld a RSP_STATUS_STATE == 2 then 3 else c.fld a RSP_STATUS_STATE
      some (over_ c a [(RSP_STATUS_THREADS_BUSY, busy), (RSP_STATUS_STATE, st)])
    | none => none

/-- What register `a` holds as it is read. -/
def regView (c : Core) (a : Nat) : W64 :=
  let v :=
    if a < 0x100000 then match a / 65536 with
      | 0 => viewGlb c a
      | 1 => viewTck c a
      | 9 => if a = PAIR_STATUS then some (over_ c a [(PAIR_STATUS_KEY_OUT, keyPad c)]) else none
      | 3 => viewPwr c a | 5 => viewSec c a | 6 => viewSyn c a | 7 => viewCoh c a | 8 => viewExt c a
      | 10 => viewCal c a | _ => none
    else if a < 0x200000 then (viewAmt c a <|> viewUnits c a)
    else if a < 0x300000 then (viewFzt c a <|> viewPol c a <|> viewRing c a)
    else if 0x1000000 ≤ a then viewSyn c a else none
  v.getD (c.rget a)

end Sys2Proof.Machine
end

