-- ==== Sys2Proof/Machine/Regs.lean ====
section
/-! DEFINITION. Register reads and writes and what they do (R8 to R13, R685 to R693), injected events (R707), and the check
units (R678 to R681, R684). -/

namespace Sys2Proof.Machine
open Sys2Proof

/-! ### The event log's words -/

/-- An entry as 256 bits (R705). -/
def logBits (e : LogEntry) : Nat :=
  e.seq % 2 ^ 64 + e.tick % 2 ^ 64 * 2 ^ 64 + e.code % 2 ^ 16 * 2 ^ 128 + (e.sev % 8 + 8 * b2n e.escalated) * 2 ^ 144 +
  e.kind % 256 * 2 ^ 152 + e.unit % 2 ^ 16 * 2 ^ 160 + e.count % 2 ^ 16 * 2 ^ 176 + e.detail % 2 ^ 64 * 2 ^ 192

/-- A register of the log: a read that reaches an entry's SEQ word marks the entry as read (R706).
DESIGN CHOICE, assumption 15 (safe). -/
def logRead (c : Core) (a w : Nat) : Core × W64 :=
  let i := (a - 0xE0000) / 32
  match amGet? c.glb.log i with
  | none => (c, 0)
  | some e =>
    let v := logBits e / 2 ^ (8 * (a % 32)) % 2 ^ (8 * w)
    let c := if a % 32 = 0 then { c with glb := { c.glb with log := amSet c.glb.log i { e with read := true } } } else c
    (c, BitVec.ofNat 64 v)

/-! ### Reading -/

/-- The rc fields of a register clear as it is read (R8). -/
def clearRc (c : Core) (a : Nat) (r : RegRow) : Core :=
  let c := r.flds.foldl (fun c f => if f.acc == .rc then c.setFld a f 0 else c) c
  if a = CAL_T_MQ then
    { c with work := { c.work with tables := amMod c.work.tables (c.fld CAL_SELECT CAL_SELECT_TABLE) (fun t => { t with mqPeak := 0 }) } }
  else c

/-- One register is read (R685, R686, R689): `w` is its width in bytes. -/
def regRead (c : Core) (a w : Nat) : Core × W64 :=
  if regDark c a then (c, 0)
  else if inLog a then logRead c a w
  else match rowAt a with
    | none => (c, 0)
    | some r => (if r.flds.any (·.acc == .rc) then clearRc c a r else c, regView c a)

def regReads (c : Core) (a w : Nat) : Nat → Core × List W64
  | 0 => (c, [])
  | n + 1 =>
    let (c, v) := regRead c a w
    let (c, l) := regReads c (a + w) w n
    (c, v :: l)

/-! ### Check units (R678 to R681) -/

def chkOne (algo : Nat) (st : W64) (l : List Byte) : W64 :=
  if algo = 1 then crc64Run st l else (crc32Run (st.setWidth 32) l).setWidth 64

/-- A unit that serves management software. -/
def chkMgmt (u : Nat) : Bool := u < 16 && u % 4 == 3

def chkBusy (c : Core) (u : Nat) : Bool := c.flag (CHK_STATUS u) CHK_STATUS_BUSY

/-- START: STATE takes the initial value unless CONTINUE is set. A unit that is BUSY takes no second one.
DEDUCED, assumption 79 (unsafe). -/
def chkStart (c : Core) (u : Nat) : Core :=
  if !chkMgmt u || chkBusy c u then c
  else
    let c := if c.flag (CHK_CTRL u) CHK_CTRL_CONTINUE then c
      else c.rset (CHK_STATE u) (if c.fld (CHK_CTRL u) CHK_CTRL_ALGO = 1 then 0 else 0xFFFFFFFF)
    c.setFld (CHK_STATUS u) CHK_STATUS_BUSY 1

/-- The unit stops, with a flag of CHK_STATUS set; RESULT is left undefined. -/
def chkStop (c : Core) (u : Nat) (f : Fld) : Core :=
  let (c, k) := c.draw
  let c := c.rset (CHK_RESULT u) (Config.freeWord k)
  (c.setFld (CHK_STATUS u) CHK_STATUS_BUSY 0).setFld (CHK_STATUS u) f 1

/-- The first `n` bytes of the buffer are processed: STATE runs on, and SRC and LEN hold the rest. -/
def chkTake (c : Core) (u n : Nat) (l : List Byte) : Core :=
  let c := c.rset (CHK_STATE u) (chkOne (c.fld (CHK_CTRL u) CHK_CTRL_ALGO) (c.rget (CHK_STATE u)) (l.take n))
  let c := c.rset (CHK_SRC u) (c.rget (CHK_SRC u) + BitVec.ofNat 64 n)
  c.setFld (CHK_LEN u) CHK_LEN_F (c.fld (CHK_LEN u) CHK_LEN_F - n)

/-- How many bytes stand before the `k`-th aligned word of a buffer that begins at `off`. -/
def bytesBefore (off k : Nat) : Nat := if k = 0 then 0 else 32 * k - off % 32

/-- The buffer of a BUSY unit is processed up to its end or, when `stop` names a word, up to that word (R681). A read or an alive
byte that must wait leaves the unit BUSY. DEDUCED, assumption 79 (unsafe). -/
def chkRun (u : Nat) (stop : Nat → Core → Core × Nat) (fin : Core → Core) (m : M) : M :=
  let c := m.core
  let len := c.fld (CHK_LEN u) CHK_LEN_F
  let src := c.rget (CHK_SRC u)
  let q := c.fld (CHK_CTRL u) CHK_CTRL_PARTITION
  let at_ := c.fld (CHK_ALIVE_OFF u) CHK_ALIVE_OFF_F
  let alive := c.flag (CHK_CTRL u) CHK_CTRL_ALIVE_EN && at_ < len
  let e := ptrExtent src
  let off := ptrOffset src
  if len = 0 then m.on fin
  else if (ptrCheck c q src len true alive).isSome then m.on (fun c => chkStop c u CHK_STATUS_BOUND)
  else match readBytes m (u / 4) e off len with
    | (m, .wait _) => m
    | (m1, .got l bad) =>
      let (c, words) := stop bad.length m1.core
      let m1 := { m1 with core := c }
      let poisoned := (bad.zipIdx.find? (·.1)).map (·.2)
      let upTo := match poisoned with | some k => min k words | none => words
      let n := min len (if upTo < bad.length then bytesBefore off upTo else len)
      let finish := fun (m : M) => m.on (fun c => match poisoned with
        | some k => if k < words then chkStop c u CHK_STATUS_POISON else fin c
        | none => fin c)
      if alive && at_ < n then
        let b := BitVec.ofNat 8 (c.fld (CHK_STATUS u) CHK_STATUS_ALIVE)
        match writeBytes m1 (u / 4) e (off + at_) [b] with
        | (m2, r) => if r.wait.isSome then m
          else finish (m2.on (fun c =>
            (chkTake c u n (listMod l at_ (fun _ => b))).setFld (CHK_STATUS u) CHK_STATUS_ALIVE
              ((c.fld (CHK_STATUS u) CHK_STATUS_ALIVE + 1) % 256)))
      else finish (m1.on (fun c => chkTake c u n l))

/-- The end of a buffer: RESULT when FINAL is set, inverted for CRC-32C, and DONE. -/
def chkFin (u : Nat) (c : Core) : Core :=
  let c := if c.flag (CHK_CTRL u) CHK_CTRL_FINAL then
      c.rset (CHK_RESULT u) (if c.fld (CHK_CTRL u) CHK_CTRL_ALGO = 1 then c.rget (CHK_STATE u)
        else c.rget (CHK_STATE u) ^^^ 0xFFFFFFFF)
    else c
  (c.setFld (CHK_STATUS u) CHK_STATUS_BUSY 0).setFld (CHK_STATUS u) CHK_STATUS_DONE 1

/-- CHK_DONE: a unit reaches the end of its buffer. -/
def chkDone (u : Nat) (m : M) : M :=
  if !chkMgmt u || !chkBusy m.core u then m
  else chkRun u (fun n c => (c, n)) (chkFin u) m

/-- ABORT: a unit stops at its next word; how many it has processed the device chooses. -/
def chkAbort (u : Nat) (m : M) : M :=
  if !chkMgmt u || !chkBusy m.core u then m
  else chkRun u (fun n c => c.choose n) (fun c => c.setFld (CHK_STATUS u) CHK_STATUS_BUSY 0) m

/-! ### Writing -/

/-- Each performance counter and its OVF is cleared (R697). -/
def perfClear (c : Core) : Core :=
  let c := { c with regs := c.regs.filter (fun r => match rowAt r.1 with | some w => !w.perf | none => true) }
  let zero := fun (p : Policer) => { p with regs := p.regs.take 5 ++ [0, 0, 0, 0] }
  (List.range 16).foldl (fun c n =>
    let q := portSt c n
    if q.policers == [] then c else setPort c n { q with policers := amMap q.policers (fun _ p => zero p) }) c

/-- What a write of `w` gives field `f` by the range of `f` alone, `old` being the register before it. -/
def writtenField (old w : Nat) (f : Fld) : Nat :=
  let x := bitsOf w f.hi f.lo
  match f.legal with
  | some (lo, hi) => if x < lo || hi < x then bitsOf old f.hi f.lo else x
  | none => x

/-- The units that KIND of ECC_FLIP_CTRL names: plinths, links, or sixteen of a kind (Table 16-10). -/
def flipUnits (kind : Nat) : Nat := if kind = 1 then 4 else if kind = 4 then 6 else 16

/-- A write of `w` to ECC_FLIP_CTRL gives KIND a value whose unit, new or left, does not exist. -/
def flipKindBad (old w : Nat) : Bool :=
  let kind := writtenField old w ECC_FLIP_CTRL_KIND
  let unit := bitsOf w ECC_FLIP_CTRL_UNIT.hi ECC_FLIP_CTRL_UNIT.lo
  flipUnits kind ≤ unit && flipUnits kind ≤ bitsOf old ECC_FLIP_CTRL_UNIT.hi ECC_FLIP_CTRL_UNIT.lo

/-- R10: reserved encodings of rw fields that no range of the field alone states, in a write of `w`. `v` is the register as the
earlier fields of the write leave it. A MEM_CTRL write that would leave WR_LOW not below WR_HIGH leaves both (Table 15-7).
DEDUCED, assumption 82 (safe). -/
def reservedHere (c : Core) (a w : Nat) (v : Nat) (f : Fld) (x : Nat) : Bool :=
  if (f == MEM_CTRL_WR_LOW || f == MEM_CTRL_WR_HIGH) && (List.range 16).any (fun n => stackReg MEM_CTRL n == a) then
    writtenField (c.rget a).toNat w MEM_CTRL_WR_HIGH ≤ writtenField (c.rget a).toNat w MEM_CTRL_WR_LOW
  else if a = ECC_FLIP_CTRL then
    (f == ECC_FLIP_CTRL_KIND && flipKindBad (c.rget a).toNat w) ||
    (f == ECC_FLIP_CTRL_UNIT && flipUnits (bitsOf v ECC_FLIP_CTRL_KIND.hi ECC_FLIP_CTRL_KIND.lo) ≤ x)
  else if CAL_CB 0 0 ≤ a && a < CAL_CB 256 0 then x / 1024 % 32 == 31
  else if a = FZT_PORT_CTRL 12 || a = FZT_PORT_CTRL 13 || a = FZT_PORT_CTRL 14 || a = FZT_PORT_CTRL 15 then
    f == FZT_PORT_CTRL_ROCE_EN && x == 1
  else if CTX_CFG0 0 ≤ a && a < CTX_CFG0 4096 && a % 0x100 == 4 then f == CTX_CFG1_WEIGHT && x == 0 && ctxState c (a / 0x100 % 4096) ≠ 0
  else if CHK_CTRL 0 ≤ a && a < CHK_CTRL 16 then
    chkBusy c (a / 0x40 % 16) && (a % 0x40 == 0x08 || a % 0x40 == 0x10 || a % 0x40 == 0x18)
  else if ECC_FLIP_MASK 0 ≤ a && a < ECC_FLIP_MASK 9 then c.flag ECC_FLIP_CTRL ECC_FLIP_CTRL_ARMED
  else false

/-- R10's test of a value that a write gives an rw field. -/
def reservedValue (c : Core) (a w v : Nat) (f : Fld) (x : Nat) : Bool :=
  (match f.legal with | some (lo, hi) => x < lo || hi < x | none => false) || reservedHere c a w v f x

/-- A write of `v` to fields: what the register then holds, and whether R10 left a field unchanged. -/
def writeFlds (bad : Nat → Fld → Nat → Bool) (v : Nat) (s : Nat × Bool) (f : Fld) : Nat × Bool :=
  let x := bitsOf v f.hi f.lo
  match f.acc with
  | .rw => if bad s.1 f x then (s.1, true) else (setBits s.1 f.hi f.lo x, s.2)
  | .w1c => if x = 1 then (setBits s.1 f.hi f.lo 0, s.2) else s
  | _ => s

def logReserved (c : Core) (r : Bool) : Core := if r then raise c .regReservedWrite 0 0 else c

/-- A write to a register of the selected policer (Table 14-7): PIR below CIR is reserved. -/
def polWrite (c : Core) (n i : Nat) (r : RegRow) (v : W64) : Core :=
  let k := c.fld (POL_SELECT n) POL_SELECT_POLICER
  let p := refill c (policer c n k)
  let bad := fun (_ : Nat) (f : Fld) (x : Nat) =>
    (match f.legal with | some (lo, hi) => x < lo || hi < x | none => false) ||
    (i == 1 && polReg p 2 < x) || (i == 2 && x < polReg p 1)
  let (w, rsv) := r.flds.foldl (writeFlds bad v.toNat) (polReg p i, false)
  logReserved (setPolicer c n k { p with regs := listMod p.regs i (fun _ => BitVec.ofNat 64 w) }) rsv

/-- A unit of a kind that the chip has (Table 20-7). -/
def unitExists (kind unit : Nat) : Bool :=
  match kind with
  | 0 | 14 => unit == 0
  | 1 => unit < 4
  | 2 | 3 | 4 | 5 | 13 => unit < 16
  | 6 => unit < 6
  | 7 => unit < 4096
  | 8 => unit < 256
  | 9 => unit < 1024
  | 10 | 12 => unit < 65536
  | 11 => unit < 8192
  | _ => false

/-- A write to EVT_INJECT (R707): the event is logged as if detected, with escalation; no action of its rule ends its handling. -/
def evtInject (c : Core) (v : W64) : Core :=
  let code := bitsOf v.toNat EVT_INJECT_CODE.hi EVT_INJECT_CODE.lo
  let kind := bitsOf v.toNat EVT_INJECT_KIND.hi EVT_INJECT_KIND.lo
  let unit := bitsOf v.toNat EVT_INJECT_UNIT.hi EVT_INJECT_UNIT.lo
  match evTable.find? (fun r => r.2.1 == code) with
  | none => logReserved c true
  | some r => if unitExists kind unit then raise c r.1 kind unit 0 1 (some (2 ^ 64)) else logReserved c true

/-- The number of the unit whose register, by `f`, lies at `a`. DESIGN CHOICE, assumption 12 (safe). -/
def unitAt (f : Nat → Nat → Nat) (a : Nat) : Option Nat := (List.range 16).find? (fun n => stackReg f n == a)

/-- What a write of `v` to register `a` does beside storing its fields (TICK_OUT is high from a boundary for 1 µs while TICKOUT_EN
is 1, whenever that was set, R55: DEDUCED, assumption 103 (unsafe)); `old` is the register before it. -/
def regAct (a : Nat) (old v : W64) (m : M) : M :=
  let one := fun (f : Fld) => bitOf v.toNat f.lo
  if a = GLB_CTRL then (if one GLB_CTRL_PERF_CLEAR then m.on perfClear else m)
  else if a = TCK_CTRL then
    m.on (fun c =>
      let c := if one TCK_CTRL_HANDOVER then askHandover c else c
      let high := c.flag TCK_CTRL TCK_CTRL_TICKOUT_EN && 0 < c.tick && c.glb.now < c.tck.last + 1000
      { c with pins := { c.pins with tickOut := high } })
  else if a = TCK_BUDGET1 then
    m.on (fun c =>
      let sum := c.fld TCK_BUDGET1 TCK_BUDGET1_SCRUB_CAP + c.fld TCK_BUDGET1 TCK_BUDGET1_REBUILD + c.fld TCK_BUDGET1 TCK_BUDGET1_RECAST
      if 600 < sum then raise (c.rset TCK_BUDGET1 old) .tickBudgetRejected 0 0 else c)
  else if a = BOOT_CTRL then
    (if one BOOT_CTRL_WARM_RESET then m.on (fun c => { c with boot := { c.boot with restart := some 2 } }) else m)
  else if a = PWR_OP then m.on (fun c => opTarget c (c.fld PWR_OP PWR_OP_TARGET))
  else if PWR_DOMAIN 0 ≤ a && a < PWR_DOMAIN 68 then
    domainWrite ((a - PWR_DOMAIN 0) / 4) old (one PWR_DOMAIN_HOLD_RELEASE) m
  else if a = EVT_INJECT then m.on (fun c => evtInject c v)
  else if a = SEC_CTRL then (if one SEC_CTRL_SVN_COMMIT then m.on svnCommit else m)
  else if a = COH_CTRL then
    let d := m.core.fld COH_SELECT COH_SELECT_DOMAIN
    if one COH_CTRL_TEST_DOWN then m.on (fun c =>
      cohFail (if (domain? c d).any (fun x => x.st == .up) then c.setFld a COH_CTRL_TEST_DOWN 1 else c) d 8 none) else m
  else if CHK_CTRL 0 ≤ a && a < CHK_CTRL 16 && a % 0x40 == 0 then
    let u := a / 0x40 % 16
    let m := if one CHK_CTRL_START then m.on (fun c => chkStart c u) else m
    if one CHK_CTRL_ABORT then chkAbort u m else m
  else if a = ECC_FLIP_CTRL then (if one ECC_FLIP_CTRL_ARMED then m.on (fun c => c.setFld a ECC_FLIP_CTRL_ARMED 1) else m)
  else if a = RING_CTRL then
    m.on (fun c =>
      let c := driveBypass c
      let c := if one RING_CTRL_JOIN && mayJoin c then startJoin c false else c
      if one RING_CTRL_LEAVE && ringState c == 2 then startLeave c else c)
  else if CTX_CFG0 0 ≤ a && a < CTX_CFG0 4096 && a % 0x100 == 8 then
    (if one CTX_CTRL_FLUSH then m.on (fun c => flushRequest c (a / 0x100 % 4096) false) else m)
  else if 0x100000 ≤ a && a < 0x200000 then
    match unitAt MEM_TRAIN a, unitAt CE_CTRL a, unitAt RSP_CTRL a with
    | some n, _, _ => if one MEM_TRAIN_NOW then m.on (fun c => trainNow (c.setFld a MEM_TRAIN_NOW 1) n) else m
    | _, some n, _ => if one CE_CTRL_TEST_FENCE then m.on (fun c => fenceEngine (c.setFld a CE_CTRL_TEST_FENCE 1) n) else m
    | _, _, some k => if one RSP_CTRL_TEST_FENCE then m.on (fun c => fenceCluster (c.setFld a RSP_CTRL_TEST_FENCE 1) k) else m
    | none, none, none => m
  else m

/-- Writes to the control registers of a check unit that serves Salsin's own users are ignored, and so is one of ALIVE while a
unit is BUSY (R678, Table 19-16). -/
def chkIgnores (c : Core) (a : Nat) (f : Fld) : Bool :=
  CHK_CTRL 0 ≤ a && a < CHK_CTRL 16 &&
  (!chkMgmt (a / 0x40 % 16) || (chkBusy c (a / 0x40 % 16) && a % 0x40 == 4 && f == CHK_STATUS_ALIVE))

/-- One register is written (R8 to R10, R685, R686, R689). -/
def regWrite (a : Nat) (v : W64) (m : M) : M :=
  let c := m.core
  if regDark c a then m
  else match rowAt a with
    | none => m
    | some r =>
      match polAt a with
      | some (n, i) => m.on (fun c => polWrite c n i r v)
      | none =>
        let old := c.rget a
        let flds := r.flds.filter (fun f => !chkIgnores c a f)
        let (w, rsv) := flds.foldl (writeFlds (reservedValue c a v.toNat) v.toNat) (old.toNat, false)
        let m := m.on (fun c => logReserved (c.rset a (BitVec.ofNat 64 w)) rsv)
        if flds = [] then m else regAct a old v m

def regWrites (a w : Nat) : List W64 → M → M
  | [], m => m
  | v :: t, m => regWrites (a + w) w t (regWrite a v m)

/-- The reason of the first command for a power domain that the writes give and R668 refuses. -/
def writesRefused (a w : Nat) : List W64 → M → Option MgmtCode
  | [], _ => none
  | v :: t, m =>
    let m' := regWrite a v m
    let here := if PWR_DOMAIN 0 ≤ a && a < PWR_DOMAIN 68 && a % 4 == 0 then
        let x := bitsOf v.toNat PWR_DOMAIN_TARGET.hi PWR_DOMAIN_TARGET.lo
        domainRefusal m.core ((a - PWR_DOMAIN 0) / 4) (m.core.rget a) (if x = 3 then m.core.fld a PWR_DOMAIN_TARGET else x)
          (bitOf v.toNat PWR_DOMAIN_WATCH.lo)
      else none
    here <|> writesRefused (a + w) w t m'

/-! ### Requests (R687 to R690) -/

/-- The register that an access of width `w` at `a` reaches has that width: no wider register covers the place, and an access of
8 bytes covers no narrower ones. A place that names no register has none (R686). DESIGN CHOICE, assumption 15 (safe). -/
def widthFits (a w : Nat) : Bool :=
  let wideAt := fun (b : Nat) => match rowAt b with | some r => r.wide | none => false
  let slimAt := fun (b : Nat) => match rowAt b with | some r => !r.wide | none => false
  if inLog a then true
  else if w = 4 then !(wideAt a || (a % 8 == 4 && wideAt (a - 4)))
  else !(slimAt a || slimAt (a + 4))

/-- Why a request is refused (R690), if it is. -/
def regRefusal (a w n : Nat) : Option MgmtCode :=
  let places := (List.range n).map (fun i => a + w * i)
  if !((w == 4 || w == 8) && 1 ≤ n && n ≤ 128 && a % w == 0) then some .badField
  else if !places.all (fun b => widthFits b w) then some .badField
  else if !places.all mapped then some .regUnmapped
  else none

/-- The blocks that the recovery loader lets be read (R662). -/
def regOpen (c : Core) (a w n : Nat) : Bool :=
  bootStage c ≠ stRecovery || (a / 65536 == (a + w * n - 1) / 65536 && (a / 65536 == 2 || a / 65536 == 5))

def regRefused (m : M) (k : MgmtCode) : Mg := (m.on (fun c => c.count GLB_REG_REFUSED), k, [])

/-- REG_READ. -/
def regReadReq (a w n : Nat) : Src → M → Mg := fmOnly (fun m =>
  if !regOpen m.core a w n then refuse m .recoveryOnly
  else match regRefusal a w n with
    | some k => regRefused m k
    | none => let (c, l) := regReads m.core a w n; accept { m with core := c } (l.map (·.toNat)))

/-- REG_WRITE. -/
def regWriteReq (a w : Nat) (data : List W64) : Src → M → Mg := fmOnly (fun m =>
  match regRefusal a w data.length with
  | some k => regRefused m k
  | none =>
    let l := data.map (fun v => if w = 4 then v &&& 0xFFFFFFFF else v)
    match writesRefused a w l m with
    | some k => (regWrites a w l m, k, [])
    | none => accept (regWrites a w l m))

def mopRead : MopInfo := { mop := 0x0200, sideband := true, recovery := true, slot0 := true }
def mopWrite : MopInfo := { mop := 0x0201, sideband := true, slot0 := true }

def readCmd (src : Src) (a w n : Nat) : M → M := mgmt mopRead src (regReadReq a w n)
/-- DEDUCED, assumption 16 (safe). -/
def writeCmd (src : Src) (a w : Nat) (data : List W64) : M → M := mgmt mopWrite src (regWriteReq a w data)

/-- A read of the register at `a` alone, in its own width. -/
def readOne (src : Src) (a : Nat) : M → M :=
  readCmd src a (match rowAt a with | some r => if r.wide then 8 else 4 | none => 4) 1

/-- A write of a one-bit w1s field, every rw field of the register as it stands. DEDUCED, assumption 16 (safe). -/
def writeBit (src : Src) (a : Nat) (f : Fld) (m : M) : M :=
  writeCmd src a 4 [BitVec.ofNat 64 (setBits (regView m.core a).toNat f.hi f.lo 1)] m

/-! ### I²C (R693) -/

/-- Registers that I²C reaches. -/
def i2cMay (a : Nat) : Bool :=
  a < 0x10000 || a == BOOT_STATUS || a == BOOT_CAUSE || a == PWR_OP || a == PWR_STATUS ||
  (List.range 16).any (fun n => stackReg MEM_STATUS n == a) || a == SEC_STATUS || (0x40000 ≤ a && a < 0x40100)

/-- The target acknowledges its address from step 2 of start-up on, but not while the atelier core restarts (R23, R717); after a
trip it answers reads (R719). -/
def i2cAnswers (c : Core) : Bool :=
  if c.pins.thermTrip then c.pins.pwrGood else powered c && 1 ≤ bootStage c && c.glb.atelier == .running

/-- A write transaction sets the pointer, or, with the pointer there, writes GLB_SCRATCH. -/
def i2cWrite (toScratch : Bool) (v : W32) (m : M) : M :=
  if !i2cAnswers m.core || m.core.pins.thermTrip then m
  else if toScratch then (if m.core.glb.i2cPtr = GLB_SCRATCH then regWrite GLB_SCRATCH (v.setWidth 64) m else m)
  else if i2cMay v.toNat && v.toNat % 4 == 0 then m.on (fun c => { c with glb := { c.glb with i2cPtr := v.toNat } })
  else m

/-- A read transaction: four bytes at the pointer, which moves on; a low half latches its high half. -/
def i2cRead (c : Core) : Core :=
  let a := c.glb.i2cPtr
  if !i2cAnswers c || !i2cMay a then c
  else
    let wideAt := fun (b : Nat) => match rowAt b with | some r => r.wide | none => false
    let (c, v) :=
      if a % 8 = 4 && wideAt (a - 4) then
        match c.glb.i2cLatch with
        | some (b, h) => if b = a then (c, h) else (c, (regView c (a - 4)).toNat / 2 ^ 32)
        | none => (c, (regView c (a - 4)).toNat / 2 ^ 32)
      else
        let (c, v) := regRead c a 4
        (if wideAt a then { c with glb := { c.glb with i2cLatch := some (a + 4, v.toNat / 2 ^ 32) } } else c, v.toNat % 2 ^ 32)
    { c with glb := { c.glb with i2cPtr := a + 4, i2cData := v } }

end Sys2Proof.Machine
end

