-- ==== Sys2Proof/Machine/Pins.lean ====
section
/-! DEFINITION. The atelier core (R20 to R24, R664), the reference clocks (R716), temperature (R718, R719), the test access port
(R630, R720), and the actions of escalated errors (R701, Table 20-8). -/

namespace Sys2Proof.Machine
open Sys2Proof

/-! ### The atelier core -/

/-- The atelier restarts (R22): what it had taken and not answered gets no reply, and it signs no report of before (R23). -/
def restartAtelier (c : Core) : Core :=
  let c := c.setFld GLB_STATUS GLB_STATUS_ATELIER_RESTARTS 1
  let lost := distinctOf (c.net.lost ++ owedReplies c)
  let c := lost.foldl (fun c s => match srcPkt s with
    | some p => (c.net.mgmtTags.filter (fun t => t.1 == p.srcEp && t.2.1 == p.xid)).foldl (fun c t => dropTag
        { c with net := { c.net with mgmtTags := c.net.mgmtTags.filter (· != t) } } t.2.2) c
    | none => c) c
  { c with glb := { c.glb with atelier := .restarting }, net := { c.net with lost := lost }, sec := { c.sec with attest := [] } }

def soonAgain (c : Core) : Bool :=
  match c.glb.restartEnd with | some e => c.glb.now ≤ e + 1000000000 | none => false

/-- ATELIER_WATCHDOG. DEDUCED, assumption 26 (unsafe). -/
def atelierWatchdog (time : Nat) (c : Core) : Core :=
  let c := c.at time
  if !powered c || c.glb.atelier != .running then c
  else if soonAgain c then raise c .atlWatchdogRepeat 14 0
  else restartAtelier (raise c .atlWatchdog 14 0 0 1 (some 0))

/-- ATELIER_RESTART_END: the boot ROM has measured the retained image again (R664). -/
def atelierRestartEnd (time : Nat) (measured : List W64) (c : Core) : Core :=
  let c := c.at time
  if !powered c || c.glb.atelier != .restarting then c
  else if measured != (List.range 6).map (fun i => c.rget (SEC_M_IMAGE i)) then raise c .atlImageMismatch 14 0
  else endHandling { c with glb := { c.glb with atelier := .running, restartEnd := some c.glb.now } } 14 0 0

/-! ### Pair links (R20) -/

/-- DESIGN CHOICE, assumption 27 (unsafe). -/
def fenceLink (c : Core) (l : Nat) : Core :=
  let v := c.fld GLB_FENCED GLB_FENCED_LINKS
  if bitOf v l then c else c.setFld GLB_FENCED GLB_FENCED_LINKS (v + 2 ^ l)

/-- PAIR_LINK_FAILURE: the link's traffic takes another plinth from now on. -/
def pairLinkFailure (l : Nat) (c : Core) : Core :=
  if !powered c || 6 ≤ l || bitOf (c.fld GLB_FENCED GLB_FENCED_LINKS) l then c
  else raise (fenceLink c l) .armLinkFailed 6 l

/-! ### Escalated errors (Table 20-8) -/

/-- A port is fenced: its domain is out of service, and its links are down. -/
def fencePort (c : Core) (n : Nat) : Core :=
  let c := [0, 1, 2, 3].foldl (fun c k => linkDownCmd n k 0 c) c
  c.setFld (PWR_DOMAIN (52 + n)) PWR_DOMAIN_FENCED 1

/-- The clusters and engines of plinth `p`'s compute die are fenced. -/
def fenceCompute (c : Core) (p : Nat) : Core :=
  let v := c.fld GLB_FENCED GLB_FENCED_COMPUTE
  if bitOf v p then c
  else
    let c := c.setFld GLB_FENCED GLB_FENCED_COMPUTE (v + 2 ^ p)
    let c := [0, 1, 2, 3].foldl (fun c i => fenceEngine c (4 * p + i)) c
    [0, 1, 2, 3].foldl (fun c i => fenceCluster c (4 * p + i)) c

/-- A base die goes out of service with its compute die, its stacks and its ports. Contexts and sync objects homed on it keep
working. DESIGN CHOICE, assumption 90 (unsafe). -/
def fenceBase (c : Core) (p : Nat) : Core :=
  let v := c.fld GLB_FENCED GLB_FENCED_BASE
  if bitOf v p then c
  else
    let c := [0, 1, 2, 3].foldl (fun c i => stackFailed c (4 * p + i)) c
    let c := fenceCompute c p
    let c := ((List.range 16).filter (fun n => portPlinth n == p)).foldl fencePort c
    c.setFld GLB_FENCED GLB_FENCED_BASE (c.fld GLB_FENCED GLB_FENCED_BASE + 2 ^ p)

/-- The plinth that fences a die for a unit, and whether the die is its base die. -/
def unitDie (kind unit : Nat) : Option (Nat × Bool) :=
  match kind with
  | 1 => some (unit, true)
  | 2 => some (unit / 4, true)
  | 3 | 4 => some (unit / 4, false)
  | 5 => some (portPlinth unit, true)
  | _ => none

/-- CONTAINED on the unit. -/
def containUnit (c : Core) (kind unit : Nat) : Core :=
  match kind with
  | 2 => stackFailed c unit
  | 3 => fenceEngine c unit
  | 4 => fenceCluster c unit
  | 5 => fencePort c unit
  | 6 => fenceLink c unit
  | 7 => revokeCtx c unit
  | 14 => if c.glb.atelier == .running then restartAtelier c else c
  | _ => c

/-- The action of one escalated error. DEDUCED, assumption 14 (unsafe). -/
def escalated (c : Core) (e : Escalation) : Core :=
  match e.sev with
  | 2 => containUnit c e.kind e.unit
  | 3 => if e.kind = 8 then cohFail c e.unit 2 none else containUnit c e.kind e.unit
  | 4 => match unitDie e.kind e.unit with
    | none => c
    | some (p, base) => raise (if base then fenceBase c p else fenceCompute c p) .plinthFenced 1 p
  | _ => c

/-- The escalated errors that wait; those their actions raise join the end of the list. -/
def escalations : Nat → Core → Core
  | 0, c => c
  | n + 1, c => match c.glb.toAct with
    | [] => c
    | e :: t => escalations n (escalated { c with glb := { c.glb with toAct := t } } e)

/-! ### Clocks and temperature -/

/-- The ports that SDS_REFCLK[p] feeds. -/
def portStopped (c : Core) (n : Nat) : Bool := c.pins.stoppedClocks.contains (1 + portPlinth n)

/-- REFERENCE_CLOCK_STOP: what the clock feeds stops. -/
def referenceClockStop (k : Nat) (c : Core) : Core :=
  if 5 ≤ k || !c.pins.pwrGood || c.pins.stoppedClocks.contains k then c
  else
    let c := { c with pins := { c.pins with stoppedClocks := k :: c.pins.stoppedClocks } }
    (List.range 16).foldl (fun c n =>
      if portStopped c n then [0, 1, 2, 3].foldl (fun c i => linkDownCmd n i 0 c) c else c) c

/-- Alert threshold of a sensor (Table 21-6): 0–31 compute dies, 32–47 base dies, 48–63 stacks. -/
def alertAt (s : Nat) : Nat := if s < 48 then 100 else 90
def tripAt (s : Nat) : Nat := if s < 48 then 115 else 105

/-- THERM_TRIP: the chip acts as when power is lost, and holds THERM_TRIP_N. DEDUCED, assumption 25 (unsafe). -/
def thermTrip (sensor : Nat) (c : Core) : Core :=
  if 64 ≤ sensor || !c.pins.pwrGood || c.pins.thermTrip then c
  else
    let c := setKeyOut (c.setFld RING_STATUS RING_STATUS_BYPASS 3) false
    { c with pins := { c.pins with thermTrip := true } }

/-- THERM_ALERT: a sensor shows a temperature in °C. THERM_ALERT_N is asserted at a threshold, and released once every sensor is
5 °C below its own. DEDUCED, assumption 25 (unsafe). -/
def thermAlert (sensor temp : Nat) (c : Core) : Core :=
  if 64 ≤ sensor || !c.pins.pwrGood || c.pins.thermTrip then c
  else
    let rest := c.pins.alerting.filter (· != sensor)
    let warm := if alertAt sensor < temp + 5 then sensor :: rest else rest
    let on := if alertAt sensor ≤ temp then true else if warm = [] then false else c.pins.thermAlert
    let c := { c with pins := { c.pins with alerting := warm, thermAlert := on } }
    if tripAt sensor ≤ temp then thermTrip sensor c else c

/-! ### Test access (R630, R720) -/

/-- PRESUMED, assumption 24 (unsafe). -/
def setJtag (c : Core) (i d : Nat) : Core :=
  if c.pins.pwrGood then { c with boot := { c.boot with jtag := i, jtagData := d } } else c

/-- Output pads by boundary cell: TICK_OUT, RING_BYPASS_N[0] and [1], PAIR_KEY_OUT_N, VID_CORE[0] and [1], THERM_ALERT_N,
THERM_TRIP_N, FAULT_N. -/
def outPads (c : Core) : List Bool :=
  if extestOn c then padTo 9 true c.boot.extest
  else
    let v := c.fld PWR_VF PWR_VF_VID
    [c.pins.tickOut, !bitOf (bypassPads c) 0, !bitOf (bypassPads c) 1, keyPad c == 0, bitOf v 0, bitOf v 1, !c.pins.thermAlert,
     !c.pins.thermTrip, !c.pins.fault]

/-- Input pads whose level the state holds: PWR_GOOD, RESET_N, PAIR_KEY_IN_N, PAIR_ROLE, RING_ROLE, I2C_ADDR[2:0]. -/
def inPads (c : Core) : List Bool :=
  [c.pins.pwrGood, !c.pins.resetAsserted, !c.flag PAIR_STATUS PAIR_STATUS_KEY_IN, c.pins.pairRolePin, c.pins.ringRolePin,
   bitOf c.pins.i2cAddrPin 0, bitOf c.pins.i2cAddrPin 1, bitOf c.pins.i2cAddrPin 2]

def packBits (l : List Bool) : Nat := l.foldr (fun b n => b2n b + 2 * n) 0

/-- SAMPLE/PRELOAD: the pads' levels are captured and the boundary cells are loaded. PRESUMED, assumption 24 (unsafe). -/
def jtagSample (cells : List Bool) (c : Core) : Core :=
  if !c.pins.pwrGood then c
  else
    let d := packBits (outPads c ++ inPads c)
    let c := setJtag c 2 d
    { c with boot := { c.boot with extest := cells } }

end Sys2Proof.Machine
end

