-- ==== Sys2Proof/Machine/State.lean ====
section
/-! DEFINITION. The state of the block, why a step can stop, and the state right after power-on reset. -/

namespace Sys2Proof.Machine

/-- Why the machine stops with a fault. It never does: the spec describes what every command does to the chip, a request that
names what does not exist is refused by a reply of the chip, and nothing here raises a fault. DEDUCED, assumption 11 (safe). -/
inductive Fault where
deriving DecidableEq, Repr

/-- Why a command has no meaning. -/
inductive Refusal where
  /-- Raised by an arm of `exec` for a command with no meaning yet; safe: the machine stops. -/
  | notModelled (mnemonic : String)
deriving DecidableEq, Repr

/-- The chip, the contents of its stacks, and the commands that wait, first in, first out. -/
structure State where
  core : Core
  mem : Mem
  pending : List Instr
deriving DecidableEq, Repr

/-- Pins right after PWR_GOOD has risen (Table 21-4): outputs are off, RESET_N is released, and the straps are low.
DESIGN CHOICE, assumption 86 (safe). -/
def resetPins : PinSt :=
  { pwrGood := true, resetAsserted := false, tickOut := false, thermAlert := false, thermTrip := false, fault := false,
    pairRolePin := false, ringRolePin := false, i2cAddrPin := 0, ringRole := false, i2cAddr := 0, pairRole := false, alerting := [],
    stoppedClocks := [] }

/-- Fuses as the factory leaves them (R634): OWNER_KH is blank and no SVN is committed. -/
def factoryFuses : Fuses :=
  { uds := Config.uds, serial := Config.serial, vendorKh := Config.vendorKh, ownerKh := none, svnMin := 0 }

/-- Right after power-on reset (R652): step 1 of start-up begins, the flash is erased, and no command waits.
DESIGN CHOICE, assumption 1 (unsafe). -/
def State.reset : State :=
  { core := startCore resetRegs factoryFuses [] resetPins 0 0, mem := { cells := [], delta := [] }, pending := [] }

end Sys2Proof.Machine
end

