-- ==== Sys2Proof/Machine/Run.lean ====
section
/-! DEFINITION. What follows a command's own effect within the same step: messages leave, waiting requests are served, domains go
down, escalated errors are acted on. How a command's meaning becomes a step of the block. -/

namespace Sys2Proof.Machine
open Sys2Proof

/-! ### What waits -/

/-- A parked work, thread or request goes on: it tries its access again (R247). -/
def resumeRef (ok : ParkCause → Bool) (who : ParkRef) (c : Core) : Core :=
  match who with
  | .work x n => modWork c x n (fun w => match w.phase with
      | .parked k => if ok k then { w with phase := .ready, waited := 0 } else w
      | _ => w)
  | .thread t => { c with rasp := { c.rasp with threads := amMod c.rasp.threads t (fun th => match th.wait with
      | .parked k => if ok k then { th with wait := .ready, waited := 0 } else th
      | _ => th) } }
  | .request t => modReq c t (fun r => match r.cause with
      | some k => if ok k && r.reply.isNone then { r with cause := none, waited := 0 } else r
      | none => r)

/-- The cause of a park has cleared, for what belongs to partition `q`. A count, an answer of another chip or a line's
transaction ends its waiters' park itself. DEDUCED, assumption 35 (unsafe).
DEDUCED, assumption 33 (unsafe); DEDUCED, assumption 35 (unsafe). -/
def causeClear (c : Core) (q : Nat) : ParkCause → Bool
  | .backing e f _ => backingClear c e f
  | .frame e f _ => (match ext? c e with
      | none => true
      | some x => (match (frameOf x f).st with
          | .compressed | .decompressing | .migrating => false
          | _ => true))
  | .fetch k => !(k == stepKey && c.pair.rebuildStep) && !c.pair.fetching.any (fun w => match wordHolder c w with
      | some (_, _, .data e f off _) => e * 2 ^ 31 + extOff c e f off / 32 == k
      | _ => false)
  | .pair => pairHolder c || partnerServes c
  | .rowLock t r => (match table? c t with
      | none => true
      | some tb => !midRecast tb r)
  | .slot t => (match table? c t with
      | none => true
      | some tb => tb.freeSlots != [])
  | .rebuild t => (match table? c t with
      | none => true
      | some tb => !yields c tb)
  | .engine => (enginesOf c q).any (engineFree c)
  | .power d => !stackSleeps c (d - 36)
  | .unit => true
  | .sync _ _ | .line _ _ | .remote _ => false

/-- The partition of what waits. -/
def refPart (c : Core) : ParkRef → Nat
  | .work x _ => ctxPart c x
  | .thread t => (match amGet? c.rasp.threads t with | some th => ctxPart c th.ctx | none => 0)
  | .request t => (match req? c t with | some r => r.part | none => 0)

/-- PARK_RESUME: what has parked goes on once the cause of its park has cleared (R247). DEDUCED, assumption 35 (unsafe). -/
def parkResume (who : ParkRef) (c : Core) : Core := resumeRef (causeClear c (refPart c who)) who c

/-- Threads and requests that a count has released go on (R420). -/
def resumeReleased (c : Core) : Core :=
  c.sync.released.foldl (fun c who => resumeRef (fun k => match k with | .sync _ _ => true | _ => false) who c)
    { c with sync := { c.sync with released := [] } }

/-- Where a parked request stands: the pointer of the first byte not made. -/
def reqRest (r : Request) : W64 :=
  if r.type = restType then mkPtr (ptrChip (reqPtr r)) (ptrExtent (reqPtr r)) (r.body.getD 2 0) else reqPtr r

/-- What waits for backing completes NO_BACKING. -/
def failWait (who : ParkRef) (m : M) : M :=
  let c := m.core
  match who with
  | .work x n => match (work? c x n).map Work.phase with
    | some (.parked (.backing e _ off)) => m.on (fun c => stopWork c x n .noBacking (extPtr c e off))
    | _ => m
  | .thread t => match (thr? c t).map Thread.wait with
    | some (.parked (.backing e _ off)) => lateTrap m t (accessTrap .noBacking (extPtr c e off))
    | _ => m
  | .request t => match req? c t with
    | some r => if r.reply.isNone && r.cause.any isBacking then
        m.on (fun c => answer c r { status := .noBacking, detail := reqRest r }) else m
    | none => m

/-- Boundaries that a work, thread or request has waited. -/
def waitedOf (c : Core) : ParkRef → Nat
  | .work x n => ((work? c x n).map (·.waited)).getD 0
  | .thread t => ((thr? c t).map (·.waited)).getD 0
  | .request t => ((req? c t).map (·.waited)).getD 0

/-- QUOTA_WAIT_EXPIRY: a write that has waited WAIT_TICKS boundaries for backing completes NO_BACKING (R101).
DEDUCED, assumption 35 (unsafe). -/
def quotaExpiry (who : ParkRef) (m : M) : M :=
  if m.core.fld EXT_QUOTA EXT_QUOTA_WAIT_TICKS ≤ waitedOf m.core who then failWait who m else m

/-- Those that wait for backing and may not: RDMA writes, and all when WAIT_TICKS is 0 (R101, R108, `EXT_QUOTA`). -/
def outOfWait (c : Core) : List ParkRef :=
  let none_ := c.fld EXT_QUOTA EXT_QUOTA_WAIT_TICKS == 0
  (c.work.flight.filter (fun x => none_ && (match x.2.phase with | .parked k => isBacking k | _ => false))).map (fun x => .work x.2.ctx x.2.num) ++
  (c.rasp.threads.filter (fun x => none_ && (match x.2.wait with | .parked k => isBacking k | _ => false))).map (fun x => .thread x.1) ++
  (c.net.requests.filter (fun r => (none_ || rdmaWrites r) && r.reply.isNone && r.cause.any isBacking)).map (fun r => .request r.tag)

/-- What may not wait for backing completes NO_BACKING at once. -/
def expireNow (m : M) : M :=
  match outOfWait m.core with
  | [] => m
  | l => serveAll (l.foldl (fun m who => failWait who m) m)

/-! ### Messages leave -/

/-- The session of a message: that of its ring port, which the op tag of a forwarded request picks (R508), or its peer's. -/
def msgSession (c : Core) (m : OutMsg) : Option Nat :=
  match m.dst with
  | .dir d =>
    let tag := if m.type = 0x74 || m.type = 0x7A then m.body[4]? else if m.type = 0x75 then m.body[1]? else none
    some (ringSess (dirPort c d tag))
  | p => peerSession c p

/-- A message joins its session; a result or record of a context whose producer is RDMA goes out on a queue pair (R504).
DEDUCED, assumption 83 (safe). -/
def packetise (c : Core) (m : OutMsg) : Core :=
  match m.work with
  | some (x, n, r) => if ctxRdma c x then sendRdma c m else
      match msgSession c { m with work := some (x, n, r) } with
      | some s => queueMsg c s m
      | none => discardOut c m
  | none => match msgSession c m with
    | some s => queueMsg c s m
    | none => discardOut c m

/-- After a FATAL only management messages leave (R703). -/
def leaves (c : Core) (m : OutMsg) : Bool := !c.glb.dataStopped || m.type == 0x60

def sendOut (c : Core) : Core :=
  let l := c.net.out
  let c := l.foldl (fun c m => if leaves c m then packetise c m else c) { c with net := { c.net with out := [] } }
  (c.net.sessions.map (·.1)).foldl (fun c s =>
    if c.glb.dataStopped && !((sess? c s).any (fun x => x.remote / 2 ^ 28 == 2)) then c else pump c s) c

/-! ### Control words in error (R566) -/

/-- A sync object whose words were uncorrectable: its waiters complete POISONED, and so does every operation until it is freed and
granted anew. -/
def poisonSync (s : Nat) (m : M) : M :=
  match sync? m.core s with
  | none => m
  | some o =>
    let m := m.on (fun c => raise { c with sync := { c.sync with
      objs := amSet c.sync.objs s { o with poisoned := true, armed := false, waiters := [] } } } .synPoisoned 12 s)
    o.waiters.foldl (fun m w => match w.who with
      | .work x n => m.on (fun c => stopWork c x n .poisoned)
      | .thread t => lateTrap m t (trapOf .poisonUse)
      | .request _ => m) m

/-- Another replica gives a translation entry, which repairs plinth `p`'s and is logged with the tick's corrections (R567); when none does, the frame is lost to every access until
its extent is withdrawn. -/
def mendTrans (p e i : Nat) (c : Core) : Core :=
  let bad := fun q => match ctrlErr c (.trans q e i) with | .poisoned | .uncorrectable => true | _ => false
  if (List.range 4).all bad then { c with mem := { c.mem with lostFrames := distinctOf (c.mem.lostFrames ++ [e * 2 ^ 16 + i]) } }
  else correctedStaging c p 1

/-- Table 16-4: what follows from an uncorrectable control word. -/
def ctrlLost (w : CtrlWord) (m : M) : M :=
  match w with
  | .trans p e i => m.on (mendTrans p e i)
  | .ring _ _ => m
  | .context x => m.on (fun c => if ctxState c x = 0 then c else raise (revokeCtx c x) .ctxPoisoned 7 x)
  | .sync s => poisonSync s m
  | .line k => m.on (fun c => match line? c k with | some l => cohFail c l.domain 3 none | none => c)
  | .patina tn i => m.on (fun c => modTable c tn (fun t => patinaFull t i))
  | .event i => m.on (fun c => ({ c with glb := { c.glb with log := amDel c.glb.log i } }.count EVT_LOST).setFld GLB_STATUS GLB_STATUS_LOG_LOST 1)

/-- The plinth whose staging store holds a control word (R15, R16, R181, R438, R705). -/
def ctrlPlinth : CtrlWord → Nat
  | .trans p _ _ => p
  | .ring x _ => x % 4
  | .context x => x % 4
  | .sync s => s % 4
  | .line k => linePlinth k
  | .patina tn _ => tn % 4
  | .event _ => 0

/-- A word of a ring is met when the dispatcher reads it; every other control word at once. -/
def ctrlDue (x : CtrlWord × CtrlErr) : Bool := match x.1 with | .ring _ _ => false | _ => true

/-- One control word in error is met: corrected and written back, or lost. -/
def meetCtrl (m : M) (x : CtrlWord × CtrlErr) : M :=
  let p := ctrlPlinth x.1
  match x.2 with
  | .fine => m
  | .corrected => m.on (fun c => correctedStaging c p 1)
  | .poisoned => ctrlLost x.1 m
  | .uncorrectable => ctrlLost x.1 (m.on (fun c => noteStaging c p))

/-- Control words in error are met. DESIGN CHOICE, assumption 96 (unsafe). -/
def settleCtrl (m : M) : M :=
  let l := m.core.mem.ctrl.filter ctrlDue
  if l = [] then m
  else (l.foldl meetCtrl m).on (fun c =>
    { c with mem := { c.mem with ctrl := c.mem.ctrl.filter (fun x => !ctrlDue x || !l.contains x) } })

/-! ### Settling -/

/-- The pair's state table has nothing to do. -/
def pairStill (c : Core) : Bool := !paired c || bootStage c != stReady || pairPoll c == c

/-- A packet of the session waits to be sent. -/
def hasDue (x : Session) : Bool := x.st == .opened && x.txPkts.any (fun p => p.due || p.sent == 0)

/-- A request waits to be served, or its reply to be sent. -/
def reqDue (c : Core) (r : Request) : Bool :=
  match r.reply, r.cause with
  | some _, _ => writesMade c r.tag
  | none, none => true
  | none, some (.rowLock _ _) => true
  | none, some _ => false

/-- Nothing waits for this command's step to settle it. -/
def quiet (c : Core) : Bool :=
  !c.mem.ctrl.any ctrlDue && c.coh.toDown == [] && c.glb.toAct == [] && c.sync.released == [] && c.net.out == [] && c.net.stalled == [] &&
  c.net.requests.all (fun r => !reqDue c r) && c.pair.outstanding.all (fun r => r.sent.isSome) && c.pair.fetching == [] && c.pair.early == [] &&
  c.net.sessions.all (fun s => !hasDue s.2) && c.ring.draining == [] && c.boot.restart.isNone && outOfWait c == [] && pairStill c &&
  c.work.tables.all (fun t => !tableDue c t.2) && c.work.flight.all (fun w => !(w.2.owes && w.2.queued == 0))

/-- The data path's share: domains go down, requests are served, and X writes go to the partner. -/
def settleData (m : M) : M :=
  let m := settleTables (settleDown (settleCtrl m))
  let m := m.on resumeReleased
  let m := m.on (fun c => unstall c.net.stalled.length c)
  let m := expireNow (serveAll (applyReady m))
  let m := settleDown m
  m.on (fun c => drainCheck (pairPoll (sendMade (sendFetches (sendReplicas c)))))

def settleAll (m : M) : M :=
  let acts := fun (m : M) => m.on (fun c => escalations (c.glb.toAct.length + 64) c)
  let m := acts m
  let m := if inService m.core then acts (settleData m) else m.on (fun c => { c with coh := { c.coh with toDown := [] } })
  let m := m.on sendOut
  m.on pendingRestart

/-- What a command's effect sets off; a chip with nothing waiting stays as it is. DESIGN CHOICE, assumption 4 (unsafe). -/
def settle (m : M) : M := if quiet m.core then m else settleAll m

/-! ### Doorbells, and sessions after a FATAL -/

/-- A doorbell of kind `k`: bits 63:62 of its word (R228). A message of another kind is not this command. -/
def doorbellRx (k : Nat) (via : Via) (m : M) : M :=
  match via with
  | .frieze p f => if f.operand.toNat / 2 ^ 62 = k then requestRx 0x21 p f m else m
  | .rdma p => if leNat p.data / 2 ^ 62 % 4 = k then rdmaWrite p m else m

/-- A session goes on: any while the data path runs, and after a FATAL the fabric manager's (R703). -/
def linkServes (c : Core) (fm : Bool) : Bool := inService c || (fm && mgmtServes c)

/-- A packet of the transport itself. -/
def fromPeer (p : Pkt) (f : Core → Core) (m : M) : M := if linkServes m.core (p.srcEp / 2 ^ 28 == 2) then m.on f else m

/-- A timer of a session. -/
def ofSession (n time : Nat) (f : Core → Core) (m : M) : M :=
  let m := m.on (fun c => c.at time)
  if linkServes m.core ((sess? m.core n).any (fun x => x.remote / 2 ^ 28 == 2)) then m.on f else m

/-! ### A command becomes a step -/

/-- The block with a command's own effect made, once what that set off has settled, and memory in canonical form. -/
def settled (s : State) (m : M) : State :=
  let m := settle m
  { s with core := m.core, mem := m.mem.norm }

/-- The step of a meaning. -/
def run (f : M → M) (s : State) : Host.Outcome State Fault Refusal := .next (settled s (f { core := s.core, mem := s.mem }))

/-- A meaning on the chip alone. -/
def runCore (f : Core → Core) : State → Host.Outcome State Fault Refusal := run (fun m => m.on f)

/-- A meaning of a part of the data path: nothing happens while it does not run (R656, R703). -/
def served (f : M → M) (m : M) : M := if inService m.core then f m else m
def runServed (f : M → M) : State → Host.Outcome State Fault Refusal := run (served f)
def runServedCore (f : Core → Core) : State → Host.Outcome State Fault Refusal := run (served (fun m => m.on f))

/-- A meaning of hardware that runs whenever the chip does. -/
def runPowered (f : M → M) : State → Host.Outcome State Fault Refusal := run (fun m => if powered m.core then f m else m)
def runPoweredCore (f : Core → Core) : State → Host.Outcome State Fault Refusal := runPowered (fun m => m.on f)

/-- A management request's step. -/
def runManaged (i : MopInfo) (src : Src) (body : Src → M → Mg) : State → Host.Outcome State Fault Refusal := run (mgmt i src body)

end Sys2Proof.Machine
end

