-- ==== Sys2Proof/Machine/ExecBoot.lean ====
section
/-! DEFINITION. Bring-up, resets, recovery, and the test access port (chapters 18, 19, 21): the meaning of each command. -/

namespace Sys2Proof.Machine
open Sys2Proof

/-- PWR_GOOD_RISE (R652): PWR_GOOD rises and power-on reset begins, running the start-up sequence from step 1. -/
def execPwrGoodRise (s : State) : Host.Outcome State Fault Refusal :=
  runCore powerOn s

/-- PWR_GOOD_FALL (R677): PWR_GOOD falls; within 1 µs the chip releases the pair key, closes both bypass switches and issues no further stack write. -/
def execPwrGoodFall (s : State) : Host.Outcome State Fault Refusal :=
  runCore powerOff s

/-- WARM_RESET (R652): RESET_N is asserted or one is written to BOOT_CTRL.WARM_RESET; a warm reset runs the start-up sequence and keeps only sticky fields and fuses. -/
def execWarmReset (pin : Bool) (src : Src) (s : State) : Host.Outcome State Fault Refusal :=
  run (if pin then (fun m => m.on resetPin) else writeBit src BOOT_CTRL BOOT_CTRL_WARM_RESET) s

/-- RESET_N_RELEASE (R652): RESET_N is released, and step 1 of start-up begins to count its 50 µs. -/
def execResetNRelease (time : Nat) (s : State) : Host.Outcome State Fault Refusal :=
  runCore (resetRelease time) s

/-- BOOT_ROM_START (R654): Step 1 ends and the boot ROM starts; the hardware takes M_ROM and fills ways 0–7 of plinth 0. -/
def execBootRomStart (time : Nat) (s : State) : Host.Outcome State Fault Refusal :=
  runCore (bootRomStart time) s

/-- FLASH_HEADER_CHECK (R659): The flash header has been read and is checked; on success the objects are loaded in the header's mode. -/
def execFlashHeaderCheck (end2 : Nat) (s : State) : Host.Outcome State Fault Refusal :=
  runCore (flashHeaderCheck end2) s

/-- SIGNED_OBJECT_VERIFY (R632): The loaded image and configuration section are verified by all six checks of R632. -/
def execSignedObjectVerify (imgEd imgMl cfgEd cfgMl : Bool) (time : Nat) (s : State) : Host.Outcome State Fault Refusal :=
  runCore (signedObjectVerify imgEd imgMl cfgEd cfgMl time) s

/-- CONFIGURATION_APPLY (R660): The structural configuration is checked and applied at start-up step 4. -/
def execConfigurationApply (d : ConfigDef) (time : Nat) (s : State) : Host.Outcome State Fault Refusal :=
  run (configurationApply d time) s

/-- STACK_TRAINING_END (R553): Start-up training of all stacks ends, stacks that failed are marked FAILED, and the fill begins. -/
def execStackTrainingEnd (failed : List Nat) (time : Nat) (s : State) : Host.Outcome State Fault Refusal :=
  runCore (stackTrainingEnd failed time) s

/-- FILL_DONE (R579): The start-up fill of every trained stack ends; patrol scrub starts and ECC_STATUS.FILL reads DONE. -/
def execFillDone (time : Nat) (s : State) : Host.Outcome State Fault Refusal :=
  run (fillDone time) s

/-- BOOT_LOADER_HALT (R657): The boot-loader channel halts on poison; the object is reloaded once, or a second halt sends the chip to recovery. -/
def execBootLoaderHalt (s : State) : Host.Outcome State Fault Refusal :=
  runCore bootLoaderHalt s

/-- START_PROGRAMS_PLACED (R654): Start-up step 7 places built-in programs, applies power-domain states, releases clusters, enables ports and opens the management session. -/
def execStartProgramsPlaced (time : Nat) (s : State) : Host.Outcome State Fault Refusal :=
  run (startProgramsPlaced time) s

/-- IMAGE_WRITE (R663): A flash sector is erased and programmed. -/
def execImageWrite (src : Src) (off : Nat) (data : List Byte) (s : State) : Host.Outcome State Fault Refusal :=
  runManaged { mop := 0x0B05, recovery := true, slot0 := true } src (fmOnly (imageWrite off data)) s

/-- IMAGE_READ (R663): A flash sector is read and returned. -/
def execImageRead (src : Src) (off : Nat) (s : State) : Host.Outcome State Fault Refusal :=
  runManaged { mop := 0x0B06, recovery := true, slot0 := true } src (fmOnly (imageRead off)) s

/-- RECOVERY_RESTART (R663): A warm reset follows the reply. -/
def execRecoveryRestart (src : Src) (s : State) : Host.Outcome State Fault Refusal :=
  runManaged { mop := 0x0B07, recovery := true } src (fmOnly recoveryRestart) s

/-- NEIGHBOR_DISCOVERY (R662): An IPv6 Neighbor Discovery message reaches the recovery loader on the sideband port and is answered for its link-local address. -/
def execNeighborDiscovery (target : Nat) (s : State) : Host.Outcome State Fault Refusal :=
  runCore (neighborDiscovery target) s

/-- JTAG_BYPASS (R630): The test access port's BYPASS instruction. -/
def execJtagBypass (s : State) : Host.Outcome State Fault Refusal :=
  runCore (setJtag · 1 0) s

/-- JTAG_IDCODE (R720): The test access port's IDCODE instruction. -/
def execJtagIdcode (s : State) : Host.Outcome State Fault Refusal :=
  runCore (setJtag · 0 0x1401656B) s

/-- JTAG_SAMPLE_PRELOAD (R630): The test access port's SAMPLE/PRELOAD instruction. -/
def execJtagSamplePreload (cells : List Bool) (s : State) : Host.Outcome State Fault Refusal :=
  runCore (jtagSample cells) s

/-- JTAG_EXTEST (R720): The test access port's EXTEST instruction drives pads from boundary cells. -/
def execJtagExtest (s : State) : Host.Outcome State Fault Refusal :=
  runCore (setJtag · 3 0) s

/-- THERM_ALERT (R718): A sensor crosses its alert threshold and THERM_ALERT_N changes. -/
def execThermAlert (sensor temp : Nat) (s : State) : Host.Outcome State Fault Refusal :=
  runCore (thermAlert sensor temp) s

/-- THERM_TRIP (R719): A sensor reaches its trip threshold; THERM_TRIP_N asserts and the chip acts as on power loss. -/
def execThermTrip (sensor : Nat) (s : State) : Host.Outcome State Fault Refusal :=
  runCore (fun c => if powered c then thermTrip sensor c else c) s

/-- REFERENCE_CLOCK_STOP (R716): A reference clock stops and the plinths and ports it feeds stop. -/
def execReferenceClockStop (clock : Nat) (s : State) : Host.Outcome State Fault Refusal :=
  runCore (referenceClockStop clock) s

/-- ATELIER_WATCHDOG (R22): The atelier watchdog expires and the atelier core alone restarts in service-restart mode, or the event is FATAL on a repeat. -/
def execAtelierWatchdog (time : Nat) (s : State) : Host.Outcome State Fault Refusal :=
  runCore (atelierWatchdog time) s

/-- ATELIER_RESTART_END (R664): The atelier service restart ends after the retained image is re-measured and compared. -/
def execAtelierRestartEnd (time : Nat) (measured : List W64) (s : State) : Host.Outcome State Fault Refusal :=
  runCore (atelierRestartEnd time measured) s

/-- PAIR_LINK_FAILURE (R20): An armature pair link fails and its traffic is detoured through another plinth. -/
def execPairLinkFailure (link : Nat) (s : State) : Host.Outcome State Fault Refusal :=
  runCore (pairLinkFailure link) s

end Sys2Proof.Machine
end

