-- ==== Sys2Proof/Machine/ExecExt.lean ====
section
/-! DEFINITION. Extents, leases, regions and requests about them (chapter 3): the meaning of each command. -/

namespace Sys2Proof.Machine
open Sys2Proof

/-- EXT_GRANT (R84): The fabric manager grants an extent, which becomes ACTIVE unless refused. -/
def execExtGrant (src : Src) (body : ExtGrant) (s : State) : Host.Outcome State Fault Refusal :=
  runManaged { mop := 0x0100, grant := true } src (fmOnly (extGrant body)) s

/-- EXT_WITHDRAW (R94): An extent enters WITHDRAWING: its snapshot is taken, later translations are refused and parked accesses fail. -/
def execExtWithdraw (src : Src) (extent : Nat) (s : State) : Host.Outcome State Fault Refusal :=
  run (mgmtLater { mop := 0x0101 } src (extWithdraw extent)) s

/-- EXT_FREE (R86): A WITHDRAWN extent returns to FREE. -/
def execExtFree (src : Src) (extent : Nat) (s : State) : Host.Outcome State Fault Refusal :=
  runManaged { mop := 0x0102 } src (fmOnly (extFree extent)) s

/-- EXT_MIGRATE (R109): Migration of an extent's frames to a new redundancy class begins, frame by frame. -/
def execExtMigrate (src : Src) (extent : Nat) (cls : RedClass) (s : State) : Host.Outcome State Fault Refusal :=
  runManaged { mop := 0x0103 } src (fmOnly (extMigrate extent cls)) s

/-- FRAME_MIGRATED (R109): A frame's migration copy completes; it becomes RESIDENT and its parked accesses are released. -/
def execFrameMigrated (extent frame : Nat) (s : State) : Host.Outcome State Fault Refusal :=
  runServed (frameMigrated extent frame) s

/-- INVALIDATE_WITHDRAW (R91): An INVALIDATE of kind WITHDRAW from the fabric manager withdraws an extent and is passed round the ring. -/
def execInvalidateWithdraw (src : Src) (chip extent first count : Nat) (s : State) : Host.Outcome State Fault Refusal :=
  run (mgmtLater { mop := 0x0104 } src (invalidateReq chip extent first count false)) s

/-- INVALIDATE_DISCARD (R91): An INVALIDATE of kind DISCARD makes frames UNBACKED and releases them through quarantine. -/
def execInvalidateDiscard (src : Src) (chip extent first count : Nat) (s : State) : Host.Outcome State Fault Refusal :=
  run (mgmtLater { mop := 0x0104 } src (invalidateReq chip extent first count true)) s

/-- INVALIDATE (R92): An INVALIDATE ring message arrives; the member drops matching cache entries and passes it on, and the receiver acknowledges once both copies return. -/
def execInvalidate (p : Pkt) (chip extent first count : Nat) (discard : Bool) (sender recv : Nat) (s : State) : Host.Outcome State Fault Refusal :=
  runServed (invalidateRing p chip extent first count discard sender recv) s

/-- SNAPSHOT_RETIRED (R96): The last op tag of an extent's snapshot retires: the extent becomes WITHDRAWN and its frames go to the fill list. -/
def execSnapshotRetired (extent : Nat) (s : State) : Host.Outcome State Fault Refusal :=
  runServedCore (snapshotRetired extent) s

/-- QUARANTINE_RECORD_FREE (R97): A quarantine record frees and a deferred withdrawal takes its snapshot and acknowledgement. -/
def execQuarantineRecordFree (s : State) : Host.Outcome State Fault Refusal :=
  runServedCore recordFree s

/-- FRAME_FILL_DONE (R580): A frame on the fill list has been filled with zero codewords and returns to its partition's pool. -/
def execFrameFillDone (partition : Nat) (s : State) : Host.Outcome State Fault Refusal :=
  runServed (frameFillDone partition) s

/-- COMPRESSION_START (R103): Salsin begins compressing a cold RESIDENT frame on idle stack cycles. -/
def execCompressionStart (extent frame : Nat) (s : State) : Host.Outcome State Fault Refusal :=
  runServedCore (compressionStart extent frame) s

/-- COMPRESSION_DONE (R105): A compression completes and the frame becomes COMPRESSED, or is marked incompressible. -/
def execCompressionDone (extent frame : Nat) (s : State) : Host.Outcome State Fault Refusal :=
  runServed (compressionDone extent frame) s

/-- FRAME_RESTORED (R107): A COMPRESSED frame has been restored; it becomes RESIDENT and its parked accesses are released. -/
def execFrameRestored (extent frame : Nat) (s : State) : Host.Outcome State Fault Refusal :=
  runServed (frameRestored extent frame) s

/-- LEASE_GRANT (R115): The fabric manager grants a lease for an agent ID. -/
def execLeaseGrant (src : Src) (agent ms : Nat) (s : State) : Host.Outcome State Fault Refusal :=
  runManaged { mop := 0x0110, grant := true } src (fmOnly (leaseGrant agent ms)) s

/-- LEASE_RENEW (R115): A renewal sets the lease's expiry to its arrival plus the duration. -/
def execLeaseRenew (src : Src) (agent : Nat) (s : State) : Host.Outcome State Fault Refusal :=
  runManaged { mop := 0x0111 } src (leaseRenew agent) s

/-- LEASE_EXPIRY (R117): A lease expires at a boundary: extents are withdrawn, domains taken down, contexts flushed and queue pairs put in error. -/
def execLeaseExpiry (agent time : Nat) (s : State) : Host.Outcome State Fault Refusal :=
  runServed (leaseExpiry agent time) s

/-- REGION_DEFINE (R118): A region is defined with its extent, offset, length and initial version. -/
def execRegionDefine (p : Pkt) (f : Pfx) (s : State) : Host.Outcome State Fault Refusal :=
  run (requestRx 0x30 p f) s

/-- PUBLISH (R119): A PUBLISH compares versions in serial arithmetic and sets the new version, with an optional digest. -/
def execPublish (p : Pkt) (f : Pfx) (s : State) : Host.Outcome State Fault Refusal :=
  run (requestRx 0x31 p f) s

/-- VERSION_QUERY (R123): VERSION_QUERY returns a region's current version and digest. -/
def execVersionQuery (p : Pkt) (f : Pfx) (s : State) : Host.Outcome State Fault Refusal :=
  run (requestRx 0x32 p f) s

/-- PREFETCH (R113): PREFETCH restores compressed frames in a range, loads translation caches and clears COLD. -/
def execPrefetch (p : Pkt) (f : Pfx) (s : State) : Host.Outcome State Fault Refusal :=
  run (requestRx 0x33 p f) s

/-- ADVISE_COLD (R113): ADVISE COLD sets the COLD hint on RESIDENT frames in a range. -/
def execAdviseCold (p : Pkt) (f : Pfx) (s : State) : Host.Outcome State Fault Refusal :=
  run (adviseRx 0 p f) s

/-- ADVISE_WARM (R113): ADVISE WARM clears the COLD hint in a range. -/
def execAdviseWarm (p : Pkt) (f : Pfx) (s : State) : Host.Outcome State Fault Refusal :=
  run (adviseRx 1 p f) s

/-- ADVISE_SUBSCRIBE (R113): ADVISE SUBSCRIBE adds the sender as a hot-notice subscriber of the extent. -/
def execAdviseSubscribe (p : Pkt) (f : Pfx) (s : State) : Host.Outcome State Fault Refusal :=
  run (adviseRx 2 p f) s

/-- ADVISE_UNSUBSCRIBE (R113): ADVISE UNSUBSCRIBE removes the sender as a subscriber. -/
def execAdviseUnsubscribe (p : Pkt) (f : Pfx) (s : State) : Host.Outcome State Fault Refusal :=
  run (adviseRx 3 p f) s

/-- ADVISE_DISCARD (R113): ADVISE DISCARD is sent as INVALIDATE DISCARD over the range. -/
def execAdviseDiscard (p : Pkt) (f : Pfx) (s : State) : Host.Outcome State Fault Refusal :=
  run (adviseRx 4 p f) s

/-- QUOTA_WAIT_EXPIRY (R101): A parked write has waited EXT_QUOTA.WAIT_TICKS boundaries and completes NO_BACKING. -/
def execQuotaWaitExpiry (who : ParkRef) (s : State) : Host.Outcome State Fault Refusal :=
  runServed (quotaExpiry who) s

/-- PARK_RESUME (R247): The cause of a park clears and the work resumes at the step where it parked. -/
def execParkResume (who : ParkRef) (s : State) : Host.Outcome State Fault Refusal :=
  runServedCore (parkResume who) s

end Sys2Proof.Machine
end

