-- ==== Sys2Proof/Machine/ExecMem.lean ====
section
/-! DEFINITION. Memory controllers, integrity, redundancy and the pair (chapters 15 to 17): the meaning of each command. -/

namespace Sys2Proof.Machine
open Sys2Proof

/-- WRITE_QUEUE_ENTRY (R543): A write enters a pseudo-channel write queue and is made. -/
def execWriteQueueEntry (stack pc bank row col : Nat) (word0 word1 : Option (List Byte)) (hk : Bool) (time : Nat) (s : State) : Host.Outcome State Fault Refusal :=
  run (writeQueueEntry stack pc bank row col word0 word1 hk time) s

/-- READ_QUEUE_ENTRY (R547): A read enters a pseudo-channel read queue and is checked for hazards. -/
def execReadQueueEntry (stack pc bank row col : Nat) (hk scrub : Bool) (s : State) : Host.Outcome State Fault Refusal :=
  run (readQueueEntry stack pc bank row col hk scrub) s

/-- BURST_ISSUE (R544): The controller issues a read or write burst by its scheduling mode. -/
def execBurstIssue (stack pc time : Nat) (s : State) : Host.Outcome State Fault Refusal :=
  runPowered (burstIssue stack pc time) s

/-- WRITE_AGE_EXPIRY (R545): A write has waited WR_AGE_US and the pseudo-channel enters DRAIN. -/
def execWriteAgeExpiry (stack pc time : Nat) (s : State) : Host.Outcome State Fault Refusal :=
  runPoweredCore (writeAge stack pc time) s

/-- REFRESH (R550): A refresh command falls due and issues ahead of queued requests. -/
def execRefresh (stack pc bank : Nat) (s : State) : Host.Outcome State Fault Refusal :=
  runPoweredCore (refreshCmd stack pc bank) s

/-- RETRAIN_PC (R554): A pseudo-channel is quiesced and retrained in the retraining slice. -/
def execRetrainPc (s : State) : Host.Outcome State Fault Refusal :=
  runCore retrainPc s

/-- RETRAIN_END (R555): Retraining ends; the queues return to NORMAL, and repeated failures fail the stack. -/
def execRetrainEnd (stack pc : Nat) (centred : Bool) (marginPs : Nat) (s : State) : Host.Outcome State Fault Refusal :=
  runPoweredCore (retrainEnd stack pc centred marginPs) s

/-- MEM_TRAIN_NOW (R555): A write of one to MEM_TRAIN.NOW retrains a pseudo-channel in the next slice. -/
def execMemTrainNow (src : Src) (stack target : Nat) (s : State) : Host.Outcome State Fault Refusal :=
  run (fun m => writeCmd src (stackReg MEM_TRAIN stack) 4 [BitVec.ofNat 64 (setBits (setBits (regView m.core (stackReg MEM_TRAIN stack)).toNat MEM_TRAIN_TARGET_PC.hi MEM_TRAIN_TARGET_PC.lo target) MEM_TRAIN_NOW.hi MEM_TRAIN_NOW.lo 1)] m) s

/-- WRITE_BACK (R565): A corrected, poisoned or recovered word's write-back enters a housekeeping entry or is dropped. -/
def execWriteBack (word : Nat) (s : State) : Host.Outcome State Fault Refusal :=
  runPowered (writeBack word) s

/-- LANE_PERIOD_END (R567): A 1,024-tick period ends and the per-symbol correction counts clear. -/
def execLanePeriodEnd (s : State) : Host.Outcome State Fault Refusal :=
  runPoweredCore lanePeriodEnd s

/-- SCRUB_STEP (R575): Patrol scrub reads one row of a pseudo-channel in the scrub slice. -/
def execScrubStep (stack pc ns time : Nat) (s : State) : Host.Outcome State Fault Refusal :=
  runPowered (scrubStep stack pc ns time) s

/-- ECC_FLIP_ARM (R581): A write of one to ECC_FLIP_CTRL.ARMED arms the flip mask for the next write to its target. -/
def execEccFlipArm (src : Src) (s : State) : Host.Outcome State Fault Refusal :=
  run (writeBit src ECC_FLIP_CTRL ECC_FLIP_CTRL_ARMED) s

/-- REBUILD_STEP (R595): The rebuild writes the next 2 KiB of the failed stack onto the spare in the rebuild slice. -/
def execRebuildStep (ns : Nat) (s : State) : Host.Outcome State Fault Refusal :=
  run (rebuildStepCmd ns) s

/-- SPARE_WATCH_WAKE (R600): The spare is woken on its period, retrained, tested and scrubbed. -/
def execSpareWatchWake (patternMatches : Bool) (s : State) : Host.Outcome State Fault Refusal :=
  run (spareWatch patternMatches) s

/-- REPLICA_WRITE (R605): A standby applies a mirrored write in frame-sequence order and answers. -/
def execReplicaWrite (p : Pkt) (x : RepMsg) (s : State) : Host.Outcome State Fault Refusal :=
  run (replicaWrite p x) s

/-- REPLICA_RESYNC (R618): A standby stores a resynchronisation copy of a frame. -/
def execReplicaResync (p : Pkt) (x : RepMsg) (s : State) : Host.Outcome State Fault Refusal :=
  run (replicaResync p x) s

/-- REPLICA_FETCH (R607): A member serves a word of its copy to its partner. -/
def execReplicaFetch (p : Pkt) (x : RepMsg) (s : State) : Host.Outcome State Fault Refusal :=
  run (replicaFetch p x) s

/-- REPLICA_HEALTH (R612): The partner's health word arrives and is checked. -/
def execReplicaHealth (p : Pkt) (x : RepMsg) (s : State) : Host.Outcome State Fault Refusal :=
  run (replicaHealth p x) s

/-- REPLICA_DIGEST (R619): A standby compares a frame digest from the holder. -/
def execReplicaDigest (p : Pkt) (x : RepMsg) (s : State) : Host.Outcome State Fault Refusal :=
  run (replicaDigest p x) s

/-- REPLICA_WRITE_TIMEOUT (R606): A mirrored write goes unanswered; the frame is dirtied and the holder enters ACTIVE_ALONE. -/
def execReplicaWriteTimeout (extent frame fseq : Nat) (s : State) : Host.Outcome State Fault Refusal :=
  runServedCore (replicaTimeout extent frame fseq) s

/-- PARTNER_LOST (R613): Three ticks end without an intact health word from the partner. -/
def execPartnerLost (s : State) : Host.Outcome State Fault Refusal :=
  runServedCore partnerLost s

/-- PAIR_PARK_TIMEOUT (R617): A request parked for the pair waits WAIT_TICKS boundaries and completes LINK_LOST. -/
def execPairParkTimeout (who : ParkRef) (s : State) : Host.Outcome State Fault Refusal :=
  runServed (pairParkTimeout who) s

/-- PAIR_KEY_IN_CHANGE (R610): The filtered PAIR_KEY_IN_N changes level; an assertion while holding fences X access. -/
def execPairKeyInChange (asserted : Bool) (s : State) : Host.Outcome State Fault Refusal :=
  runCore (keyInChange asserted) s

/-- KEY_GUARD_END (R609): The guard time passes with IN deasserted and the chip asserts OUT. -/
def execKeyGuardEnd (time : Nat) (s : State) : Host.Outcome State Fault Refusal :=
  runServedCore (keyGuardEnd time) s

/-- KEY_SETTLE_END (R609): The settle time passes without IN asserting and KEY_HELD is set. -/
def execKeySettleEnd (time : Nat) (s : State) : Host.Outcome State Fault Refusal :=
  runServedCore (keySettleEnd time) s

/-- KEY_RETRY_TIMER (R620): 1 ms after a collision a self-returning primary tries to take the key again. -/
def execKeyRetryTimer (time : Nat) (s : State) : Host.Outcome State Fault Refusal :=
  runServedCore (keyRetry time) s

/-- KEY_RELEASE (R611): Every started X write is made or resolved and the chip deasserts OUT. -/
def execKeyRelease (s : State) : Host.Outcome State Fault Refusal :=
  runServedCore keyRelease s

/-- PAIR_PROMOTE (R616): The fabric manager tells a standby to take the key. -/
def execPairPromote (src : Src) (force : Bool) (s : State) : Host.Outcome State Fault Refusal :=
  run (mgmtLater { mop := 0x0900 } src (pairPromote force)) s

/-- PAIR_RELEASE (R611): The fabric manager tells the holder to release the key. -/
def execPairRelease (src : Src) (s : State) : Host.Outcome State Fault Refusal :=
  run (mgmtLater { mop := 0x0901 } src pairRelease) s

/-- PAIR_RECOVER (R614): A member releases and enters RECOVERY. -/
def execPairRecover (src : Src) (s : State) : Host.Outcome State Fault Refusal :=
  runManaged { mop := 0x0902 } src (fmOnly pairRecover) s

/-- PAIR_RESYNC_COPY (R618): The holder copies the next dirty frame to the standby. -/
def execPairResyncCopy (ns : Nat) (s : State) : Host.Outcome State Fault Refusal :=
  runServed (resyncCopy ns) s

end Sys2Proof.Machine
end

