-- ==== Sys2Proof/Machine/ExecNet.lean ====
section
/-! DEFINITION. The Frieze transport, RoCE, the ring and the ports (chapters 13 and 14): the meaning of each command. -/

namespace Sys2Proof.Machine
open Sys2Proof

/-- SESSION_OPEN (R468): The fabric manager opens a Frieze session. -/
def execSessionOpen (src : Src) (body : SessDef) (s : State) : Host.Outcome State Fault Refusal :=
  runManaged { mop := 0x0001 } src (fmOnly (sessionOpen body)) s

/-- SESSION_CLOSE (R470): A session is closed and its held writes discarded. -/
def execSessionClose (src : Src) (session : Nat) (s : State) : Host.Outcome State Fault Refusal :=
  runManaged { mop := 0x0002 } src (fmOnly (sessionClose session)) s

/-- ACK (R478): An ACK packet updates acknowledgement and replay credits and may trigger fast retransmission. -/
def execAck (p : Pkt) (base : Nat) (rcr : List Nat) (map : List Byte) (s : State) : Host.Outcome State Fault Refusal :=
  run (fromPeer p (ackPacket p base rcr map)) s

/-- PROBE (R469): A PROBE arrives and is answered with PROBE_REPLY. -/
def execProbe (p : Pkt) (stamp : W64) (s : State) : Host.Outcome State Fault Refusal :=
  run (fromPeer p (probe p stamp)) s

/-- PROBE_REPLY (R469): A PROBE_REPLY lands and its path comes UP. -/
def execProbeReply (p : Pkt) (s : State) : Host.Outcome State Fault Refusal :=
  run (fromPeer p (probeReply p)) s

/-- PROBE_TIMER (R469): The probe period ends and a PROBE is sent on each DOWN path with link. -/
def execProbeTimer (session time : Nat) (s : State) : Host.Outcome State Fault Refusal :=
  run (ofSession session time (probeTimer session)) s

/-- ACK_DELAY_EXPIRY (R477): ACK_DELAY_NS after an unacknowledged landing passes and an ACK is sent. -/
def execAckDelayExpiry (session time : Nat) (s : State) : Host.Outcome State Fault Refusal :=
  run (ofSession session time (ackDelay session)) s

/-- RETRANSMIT_TIMEOUT (R479): RTO passes without acknowledgement; the packet is resent and the path may go DOWN. -/
def execRetransmitTimeout (session seq time : Nat) (s : State) : Host.Outcome State Fault Refusal :=
  run (ofSession session time (rtoExpiry session seq)) s

/-- GRACE_END (R495): A HOLD session's grace ends; it becomes LOST and outstanding requests are resolved. -/
def execGraceEnd (session time : Nat) (s : State) : Host.Outcome State Fault Refusal :=
  run (ofSession session time (graceEnds session)) s

/-- READ (R490): A Frieze READ returns pool data as READ_DATA and a REPLY. -/
def execRead (p : Pkt) (f : Pfx) (s : State) : Host.Outcome State Fault Refusal :=
  run (requestRx 0x10 p f) s

/-- WRITE (R489): A Frieze WRITE writes pool data and is replied to. -/
def execWrite (p : Pkt) (f : Pfx) (s : State) : Host.Outcome State Fault Refusal :=
  run (requestRx 0x11 p f) s

/-- ATOMIC64 (R487): A Frieze 64-bit atomic returns the old value. -/
def execAtomic64 (p : Pkt) (f : Pfx) (s : State) : Host.Outcome State Fault Refusal :=
  run (requestRx 0x12 p f) s

/-- REPLY (R488): A REPLY lands and resolves the request it answers. -/
def execReply (p : Pkt) (status : Status) (count : Nat) (detail value value2 : W64) (s : State) : Host.Outcome State Fault Refusal :=
  run (replyRx p { status := status, count := count, detail := detail, value := value, value2 := value2 }) s

/-- QP_CREATE (R499): A RoCE queue pair is created in RTS. -/
def execQpCreate (src : Src) (body : QpDef) (s : State) : Host.Outcome State Fault Refusal :=
  runManaged { mop := 0x0010 } src (fmOnly (qpCreate body)) s

/-- QP_DESTROY (R499): A queue pair is removed. -/
def execQpDestroy (src : Src) (qp : Nat) (s : State) : Host.Outcome State Fault Refusal :=
  runManaged { mop := 0x0011 } src (fmOnly (qpDestroy qp)) s

/-- RDMA_WRITE (R500): An RDMA WRITE writes pool data, or rings a doorbell under DOORBELL_RKEY. -/
def execRdmaWrite (p : RPkt) (s : State) : Host.Outcome State Fault Refusal :=
  run (rdmaWrite p) s

/-- RDMA_READ (R503): An RDMA READ returns pool data, with a NAK for poison. -/
def execRdmaRead (p : RPkt) (s : State) : Host.Outcome State Fault Refusal :=
  run (rdmaRead p) s

/-- COMPARE_SWAP (R500): A RoCE compare-and-swap atomic on a pool word. -/
def execCompareSwap (p : RPkt) (swap compare : W64) (s : State) : Host.Outcome State Fault Refusal :=
  run (rdmaAtomic p 8 swap compare) s

/-- FETCH_ADD (R500): A RoCE fetch-and-add atomic on a pool word. -/
def execFetchAdd (p : RPkt) (add : W64) (s : State) : Host.Outcome State Fault Refusal :=
  run (rdmaAtomic p 0 add 0) s

/-- ROCE_INVALID_REQUEST (R498): A RoCE packet of an unsupported opcode gets NAK Invalid Request and its queue pair enters ERROR. -/
def execRoceInvalidRequest (p : RPkt) (s : State) : Host.Outcome State Fault Refusal :=
  run (roceInvalid p) s

/-- ROCE_ACK (R504): A RoCE acknowledgement of the chip's RDMA WRITEs arrives. -/
def execRoceAck (p : RPkt) (nak : Option Nat) (s : State) : Host.Outcome State Fault Refusal :=
  run (rdmaAck p nak) s

/-- LOCAL_ACK_TIMEOUT (R499): An RDMA WRITE that the chip sent as requester goes unacknowledged for the local ACK timeout; it is retried, and after the retry count the queue pair enters ERROR and its writes are held. -/
def execLocalAckTimeout (qp time : Nat) (s : State) : Host.Outcome State Fault Refusal :=
  runServed (localAckTimeout qp time) s

/-- LINK_UP (R509): An Ethernet sub-port gains link; ring ports send RING_HELLO. -/
def execLinkUp (port sub time : Nat) (s : State) : Host.Outcome State Fault Refusal :=
  runCore (linkUpCmd port sub time) s

/-- LINK_DOWN (R469): An Ethernet sub-port loses link; its paths go DOWN and ring routes may change. -/
def execLinkDown (port sub time : Nat) (s : State) : Host.Outcome State Fault Refusal :=
  runPoweredCore (linkDownCmd port sub time) s

/-- PFC_FRAME (R464): An IEEE 802.1Qbb priority-based flow-control frame arrives, and the port pauses or resumes sending on the priorities it names. -/
def execPfcFrame (port sub frameLen : Nat) (quanta : List Nat) (time : Nat) (s : State) : Host.Outcome State Fault Refusal :=
  runPoweredCore (pfcCmd port sub frameLen quanta time) s

/-- FRAME_TRANSMITTED (R530): A port finishes sending a frame, and the scheduler starts the head packet with the least finish tag, setting V to its tag. -/
def execFrameTransmitted (port time : Nat) (s : State) : Host.Outcome State Fault Refusal :=
  runPoweredCore (frameCmd port time) s

/-- RING_HELLO (R509): A RING_HELLO arrives; a ring session opens to the neighbour, or a loopback or cable mismatch is found. -/
def execRingHello (p : Pkt) (chip : Nat) (s : State) : Host.Outcome State Fault Refusal :=
  runCore (ringHello p chip) s

/-- RING_JOIN (R512): RING_JOIN, or a write of one to RING_CTRL.JOIN, makes an OUT chip JOINING. -/
def execRingJoin (src : Src) (chip : Nat) (s : State) : Host.Outcome State Fault Refusal :=
  runManaged { mop := 0x0A01 } src (fmOnly (ringJoin chip)) s

/-- RING_LEAVE (R512): RING_LEAVE, or a write of one to RING_CTRL.LEAVE, makes a member LEAVING. -/
def execRingLeave (src : Src) (chip : Nat) (s : State) : Host.Outcome State Fault Refusal :=
  runManaged { mop := 0x0A02 } src (fmOnly (ringLeave chip)) s

/-- RING_PREPARE (R515): The master marks the link where a chip will be inserted as closing. -/
def execRingPrepare (src : Src) (chip west east : Nat) (s : State) : Host.Outcome State Fault Refusal :=
  run (mgmtLater { mop := 0x0A00 } src (ringPrepare chip west east)) s

/-- JOIN_REQUEST (R513): The master decides a joining chip's request. -/
def execJoinRequest (p : Pkt) (chip priority : Nat) (s : State) : Host.Outcome State Fault Refusal :=
  runServedCore (joinRequest p chip priority) s

/-- JOIN_ACCEPT (R512): A JOINING chip is accepted and becomes MEMBER. -/
def execJoinAccept (p : Pkt) (master : Nat) (s : State) : Host.Outcome State Fault Refusal :=
  runServedCore (joinAccept p master) s

/-- JOIN_REFUSED (R512): A JOINING chip is refused and returns to OUT. -/
def execJoinRefused (p : Pkt) (reason master : Nat) (s : State) : Host.Outcome State Fault Refusal :=
  runServedCore (joinRefused p reason master) s

/-- JOIN_TIMEOUT (R512): No neighbour HELLO arrives within 100 ms and the chip returns to OUT. -/
def execJoinTimeout (time : Nat) (s : State) : Host.Outcome State Fault Refusal :=
  runServedCore (joinTimeout time) s

/-- RING_ADMISSION (R514): After two ticks the master admits start-up joiners up to N_max. -/
def execRingAdmission (s : State) : Host.Outcome State Fault Refusal :=
  runServedCore ringAdmission s

/-- ROUTE_UPDATE (R517): A newer ROUTE_UPDATE makes the chip recompute its route table and drain changed routes. -/
def execRouteUpdate (p : Pkt) (version : Nat) (members : List (Nat × Nat)) (s : State) : Host.Outcome State Fault Refusal :=
  runServedCore (routeUpdate p version members) s

/-- ROUTE_DRAINED (R518): No destination is draining; RING_DRAINED is sent, and a LEAVING chip goes OUT. -/
def execRouteDrained (s : State) : Host.Outcome State Fault Refusal :=
  runServedCore routeDrained s

/-- RING_DRAINED (R515): The master receives a member's RING_DRAINED and answers RING_PREPARE when all have. -/
def execRingDrained (p : Pkt) (chip version : Nat) (s : State) : Host.Outcome State Fault Refusal :=
  runServedCore (ringDrained p chip version) s

/-- MEMBER_LOST (R516): A member's heartbeats are absent in both directions for 3 ticks and the master removes it. -/
def execMemberLost (chip : Nat) (s : State) : Host.Outcome State Fault Refusal :=
  runServedCore (memberLost chip) s

/-- FORWARD (R520): A FORWARD arrives; a member passes it on, and the home chip serves it. -/
def execForward (p : Pkt) (x : FwdMsg) (s : State) : Host.Outcome State Fault Refusal :=
  run (forwardRx p x) s

/-- FORWARD_REPLY (R520): A FORWARD_REPLY is routed back to its origin and resolves the forwarded request. -/
def execForwardReply (p : Pkt) (x : FwdRep) (s : State) : Host.Outcome State Fault Refusal :=
  run (forwardReply p x) s

/-- FORWARD_TIMEOUT (R522): A forwarded request has no reply by the timeout; it is sent once more or completes LINK_LOST or OUTCOME_UNKNOWN. -/
def execForwardTimeout (tag : Nat) (s : State) : Host.Outcome State Fault Refusal :=
  runServed (forwardTimeout tag) s

end Sys2Proof.Machine
end

