-- ==== Sys2Proof/Machine/ExecRasp.lean ====
section
/-! DEFINITION. Threads and scalar, unit and engine instructions of the rasp cores (chapters 9 and 10): the meaning of each command. -/

namespace Sys2Proof.Machine
open Sys2Proof

/-- INSTANCE_START (R404): A program instance starts on a free thread, in increasing instance number. -/
def execInstanceStart (ctx num t : Nat) (s : State) : Host.Outcome State Fault Refusal :=
  runServedCore (instanceStart ctx num t) s

/-- THREAD_RESUME (R396): A yielded instance resumes in a later tick with its registers and saved scratch. -/
def execThreadResume (ctx num inst t : Nat) (s : State) : Host.Outcome State Fault Refusal :=
  runServedCore (threadResume ctx num inst t) s

/-- STEP_LIMIT_EXPIRY (R395): A thread has not issued STEP or exited within its step limit and traps STEP_LIMIT. -/
def execStepLimitExpiry (t : Nat) (s : State) : Host.Outcome State Fault Refusal :=
  runServed (stepLimit t) s

/-- POOL_LOAD_RETURN (R366): Data of a pool load returns and the thread becomes ready. -/
def execPoolLoadReturn (t : Nat) (s : State) : Host.Outcome State Fault Refusal :=
  runServed (loadReturn t) s

/-- UNIT_COMMAND_END (R384): A unit command ends and its tag can be waited on. -/
def execUnitCommandEnd (t tag : Nat) (s : State) : Host.Outcome State Fault Refusal :=
  runServed (unitEnd t tag) s

/-- ENGINE_COMMAND_END (R350): A carving-engine command ends, unblocking interlocked commands. -/
def execEngineCommandEnd (t id : Nat) (s : State) : Host.Outcome State Fault Refusal :=
  runServed (engineEnd t id) s

/-- RESERVED_INSTRUCTION (R372): A reserved instruction issues and traps ILLEGAL. -/
def execReservedInstruction (t word : Nat) (s : State) : Host.Outcome State Fault Refusal :=
  runServed (issueReserved t word) s

/-- ADD (R374): Integer add of two scalar registers. -/
def execAdd (t d a b : Nat) (s : State) : Host.Outcome State Fault Refusal :=
  runServed (issue t (.fT 0x01 d a b 0) (aluT 0 d a b)) s

/-- SUB (R374): Integer subtract. -/
def execSub (t d a b : Nat) (s : State) : Host.Outcome State Fault Refusal :=
  runServed (issue t (.fT 0x01 d a b 1) (aluT 1 d a b)) s

/-- AND (R374): Bitwise AND. -/
def execAnd (t d a b : Nat) (s : State) : Host.Outcome State Fault Refusal :=
  runServed (issue t (.fT 0x01 d a b 2) (aluT 2 d a b)) s

/-- OR (R374): Bitwise OR. -/
def execOr (t d a b : Nat) (s : State) : Host.Outcome State Fault Refusal :=
  runServed (issue t (.fT 0x01 d a b 3) (aluT 3 d a b)) s

/-- XOR (R374): Bitwise XOR. -/
def execXor (t d a b : Nat) (s : State) : Host.Outcome State Fault Refusal :=
  runServed (issue t (.fT 0x01 d a b 4) (aluT 4 d a b)) s

/-- SHL (R374): Shift left. -/
def execShl (t d a b : Nat) (s : State) : Host.Outcome State Fault Refusal :=
  runServed (issue t (.fT 0x01 d a b 5) (aluT 5 d a b)) s

/-- SHR (R374): Logical shift right. -/
def execShr (t d a b : Nat) (s : State) : Host.Outcome State Fault Refusal :=
  runServed (issue t (.fT 0x01 d a b 6) (aluT 6 d a b)) s

/-- SAR (R374): Arithmetic shift right. -/
def execSar (t d a b : Nat) (s : State) : Host.Outcome State Fault Refusal :=
  runServed (issue t (.fT 0x01 d a b 7) (aluT 7 d a b)) s

/-- SLT (R373): Signed set-less-than. -/
def execSlt (t d a b : Nat) (s : State) : Host.Outcome State Fault Refusal :=
  runServed (issue t (.fT 0x01 d a b 8) (aluT 8 d a b)) s

/-- SLTU (R373): Unsigned set-less-than. -/
def execSltu (t d a b : Nat) (s : State) : Host.Outcome State Fault Refusal :=
  runServed (issue t (.fT 0x01 d a b 9) (aluT 9 d a b)) s

/-- MIN (R373): Signed minimum. -/
def execMin (t d a b : Nat) (s : State) : Host.Outcome State Fault Refusal :=
  runServed (issue t (.fT 0x01 d a b 10) (aluT 10 d a b)) s

/-- MAX (R373): Signed maximum. -/
def execMax (t d a b : Nat) (s : State) : Host.Outcome State Fault Refusal :=
  runServed (issue t (.fT 0x01 d a b 11) (aluT 11 d a b)) s

/-- MINU (R373): Unsigned minimum. -/
def execMinu (t d a b : Nat) (s : State) : Host.Outcome State Fault Refusal :=
  runServed (issue t (.fT 0x01 d a b 12) (aluT 12 d a b)) s

/-- MAXU (R373): Unsigned maximum. -/
def execMaxu (t d a b : Nat) (s : State) : Host.Outcome State Fault Refusal :=
  runServed (issue t (.fT 0x01 d a b 13) (aluT 13 d a b)) s

/-- MUL (R374): Low half of the 64-bit product. -/
def execMul (t d a b : Nat) (s : State) : Host.Outcome State Fault Refusal :=
  runServed (issue t (.fT 0x01 d a b 16) (aluT 16 d a b)) s

/-- MULH (R374): Signed high half of the product. -/
def execMulh (t d a b : Nat) (s : State) : Host.Outcome State Fault Refusal :=
  runServed (issue t (.fT 0x01 d a b 17) (aluT 17 d a b)) s

/-- MULHU (R374): Unsigned high half of the product. -/
def execMulhu (t d a b : Nat) (s : State) : Host.Outcome State Fault Refusal :=
  runServed (issue t (.fT 0x01 d a b 18) (aluT 18 d a b)) s

/-- DIV (R374): Signed divide with defined results for zero and overflow. -/
def execDiv (t d a b : Nat) (s : State) : Host.Outcome State Fault Refusal :=
  runServed (issue t (.fT 0x01 d a b 19) (aluT 19 d a b)) s

/-- DIVU (R374): Unsigned divide. -/
def execDivu (t d a b : Nat) (s : State) : Host.Outcome State Fault Refusal :=
  runServed (issue t (.fT 0x01 d a b 20) (aluT 20 d a b)) s

/-- REM (R374): Signed remainder. -/
def execRem (t d a b : Nat) (s : State) : Host.Outcome State Fault Refusal :=
  runServed (issue t (.fT 0x01 d a b 21) (aluT 21 d a b)) s

/-- REMU (R374): Unsigned remainder. -/
def execRemu (t d a b : Nat) (s : State) : Host.Outcome State Fault Refusal :=
  runServed (issue t (.fT 0x01 d a b 22) (aluT 22 d a b)) s

/-- CLZ (R373): Count leading zeros. -/
def execClz (t d a : Nat) (s : State) : Host.Outcome State Fault Refusal :=
  runServed (issue t (.fT 0x01 d a 0 24) (aluT 24 d a 0)) s

/-- POPC (R373): Population count. -/
def execPopc (t d a : Nat) (s : State) : Host.Outcome State Fault Refusal :=
  runServed (issue t (.fT 0x01 d a 0 25) (aluT 25 d a 0)) s

/-- BSWAP (R373): Byte swap. -/
def execBswap (t d a : Nat) (s : State) : Host.Outcome State Fault Refusal :=
  runServed (issue t (.fT 0x01 d a 0 26) (aluT 26 d a 0)) s

/-- ADDI (R373): Add sign-extended immediate. -/
def execAddi (t d a imm : Nat) (s : State) : Host.Outcome State Fault Refusal :=
  runServed (issue t (.fI 0x02 d a imm) (aluI 0 d a (imm64 imm))) s

/-- ANDI (R373): AND with immediate. -/
def execAndi (t d a imm : Nat) (s : State) : Host.Outcome State Fault Refusal :=
  runServed (issue t (.fI 0x03 d a imm) (aluI 2 d a (imm64 imm))) s

/-- ORI (R373): OR with immediate. -/
def execOri (t d a imm : Nat) (s : State) : Host.Outcome State Fault Refusal :=
  runServed (issue t (.fI 0x04 d a imm) (aluI 3 d a (imm64 imm))) s

/-- XORI (R373): XOR with immediate. -/
def execXori (t d a imm : Nat) (s : State) : Host.Outcome State Fault Refusal :=
  runServed (issue t (.fI 0x05 d a imm) (aluI 4 d a (imm64 imm))) s

/-- SLTI (R373): Signed set-less-than immediate. -/
def execSlti (t d a imm : Nat) (s : State) : Host.Outcome State Fault Refusal :=
  runServed (issue t (.fI 0x07 d a imm) (aluI 8 d a (imm64 imm))) s

/-- SHLI (R373): Shift left by immediate. -/
def execShli (t d a sh : Nat) (s : State) : Host.Outcome State Fault Refusal :=
  runServed (if sh < 64 then issue t (.fI 0x06 d a (0 + sh)) (aluI 5 d a sh) else id) s

/-- SHRI (R373): Logical shift right by immediate. -/
def execShri (t d a sh : Nat) (s : State) : Host.Outcome State Fault Refusal :=
  runServed (if sh < 64 then issue t (.fI 0x06 d a (64 + sh)) (aluI 6 d a sh) else id) s

/-- SARI (R373): Arithmetic shift right by immediate. -/
def execSari (t d a sh : Nat) (s : State) : Host.Outcome State Fault Refusal :=
  runServed (if sh < 64 then issue t (.fI 0x06 d a (128 + sh)) (aluI 7 d a sh) else id) s

/-- MOVI (R373): Move sign-extended immediate. -/
def execMovi (t d imm : Nat) (s : State) : Host.Outcome State Fault Refusal :=
  runServed (issue t (.fI 0x08 d 0 imm) (movi d imm)) s

/-- MOVK (R373): Insert a 16-bit immediate into one quarter of a register. -/
def execMovk (t d c imm : Nat) (s : State) : Host.Outcome State Fault Refusal :=
  runServed (issue t (.fI 0x09 d c imm) (movk d c imm)) s

/-- LD8U (R379): Scratch byte load. -/
def execLd8u (t d a imm : Nat) (s : State) : Host.Outcome State Fault Refusal :=
  runServed (issue t (.fI 0x0C d a imm) (fun m th => loadScratch 1 d a imm m th t)) s

/-- LD16U (R379): Scratch 16-bit load. -/
def execLd16u (t d a imm : Nat) (s : State) : Host.Outcome State Fault Refusal :=
  runServed (issue t (.fI 0x0D d a imm) (fun m th => loadScratch 2 d a imm m th t)) s

/-- LD32U (R379): Scratch 32-bit load. -/
def execLd32u (t d a imm : Nat) (s : State) : Host.Outcome State Fault Refusal :=
  runServed (issue t (.fI 0x0E d a imm) (fun m th => loadScratch 4 d a imm m th t)) s

/-- LD64 (R379): Scratch 64-bit load. -/
def execLd64 (t d a imm : Nat) (s : State) : Host.Outcome State Fault Refusal :=
  runServed (issue t (.fI 0x0F d a imm) (fun m th => loadScratch 8 d a imm m th t)) s

/-- ST8 (R379): Scratch byte store. -/
def execSt8 (t d a imm : Nat) (s : State) : Host.Outcome State Fault Refusal :=
  runServed (issue t (.fI 0x10 d a imm) (fun m th => storeScratch 1 d a imm m th t)) s

/-- ST16 (R379): Scratch 16-bit store. -/
def execSt16 (t d a imm : Nat) (s : State) : Host.Outcome State Fault Refusal :=
  runServed (issue t (.fI 0x11 d a imm) (fun m th => storeScratch 2 d a imm m th t)) s

/-- ST32 (R379): Scratch 32-bit store. -/
def execSt32 (t d a imm : Nat) (s : State) : Host.Outcome State Fault Refusal :=
  runServed (issue t (.fI 0x12 d a imm) (fun m th => storeScratch 4 d a imm m th t)) s

/-- ST64 (R379): Scratch 64-bit store. -/
def execSt64 (t d a imm : Nat) (s : State) : Host.Outcome State Fault Refusal :=
  runServed (issue t (.fI 0x13 d a imm) (fun m th => storeScratch 8 d a imm m th t)) s

/-- SLD64 (R381): Window 8-byte load. -/
def execSld64 (t d a imm : Nat) (s : State) : Host.Outcome State Fault Refusal :=
  runServed (issue t (.fI 0x14 d a imm) (sld64 d a imm)) s

/-- SST64 (R381): Window 8-byte store. -/
def execSst64 (t d a imm : Nat) (s : State) : Host.Outcome State Fault Refusal :=
  runServed (issue t (.fI 0x15 d a imm) (sst64 d a imm)) s

/-- PLD64 (R382): Pool 8-byte load, checked by R81. -/
def execPld64 (t d a imm : Nat) (s : State) : Host.Outcome State Fault Refusal :=
  runServed (issue t (.fI 0x16 d a imm) (fun m th => pld64 d a imm m th t)) s

/-- PST64 (R382): Pool 8-byte store, checked by R81. -/
def execPst64 (t d a imm : Nat) (s : State) : Host.Outcome State Fault Refusal :=
  runServed (issue t (.fI 0x17 d a imm) (fun m th => pst64 d a imm m th t)) s

/-- BEQ (R373): Branch if equal. -/
def execBeq (t a b off : Nat) (s : State) : Host.Outcome State Fault Refusal :=
  runServed (issue t (.fB 0x18 a b off) (branch (fun x y => x == y) a b off)) s

/-- BNE (R373): Branch if not equal. -/
def execBne (t a b off : Nat) (s : State) : Host.Outcome State Fault Refusal :=
  runServed (issue t (.fB 0x19 a b off) (branch (fun x y => x != y) a b off)) s

/-- BLT (R373): Branch if signed less. -/
def execBlt (t a b off : Nat) (s : State) : Host.Outcome State Fault Refusal :=
  runServed (issue t (.fB 0x1A a b off) (branch (fun x y => decide (sext 64 x < sext 64 y)) a b off)) s

/-- BGE (R373): Branch if signed greater or equal. -/
def execBge (t a b off : Nat) (s : State) : Host.Outcome State Fault Refusal :=
  runServed (issue t (.fB 0x1B a b off) (branch (fun x y => decide (sext 64 y ≤ sext 64 x)) a b off)) s

/-- BLTU (R373): Branch if unsigned less. -/
def execBltu (t a b off : Nat) (s : State) : Host.Outcome State Fault Refusal :=
  runServed (issue t (.fB 0x1C a b off) (branch (fun x y => decide (x < y)) a b off)) s

/-- BGEU (R373): Branch if unsigned greater or equal. -/
def execBgeu (t a b off : Nat) (s : State) : Host.Outcome State Fault Refusal :=
  runServed (issue t (.fB 0x1D a b off) (branch (fun x y => decide (y ≤ x)) a b off)) s

/-- JAL (R373): Jump and link into s31. -/
def execJal (t off : Nat) (s : State) : Host.Outcome State Fault Refusal :=
  runServed (issue t (.fJ 0x1E off) (jal off)) s

/-- JR (R373): Jump to a register target. -/
def execJr (t d a : Nat) (s : State) : Host.Outcome State Fault Refusal :=
  runServed (issue t (.fT 0x1F d a 0 0) (jr d a)) s

/-- FADD (R375): FP32 add. -/
def execFadd (t d a b : Nat) (s : State) : Host.Outcome State Fault Refusal :=
  runServed (issue t (.fT 0x20 d a b 0) (fpT 0 d a b)) s

/-- FSUB (R375): FP32 subtract. -/
def execFsub (t d a b : Nat) (s : State) : Host.Outcome State Fault Refusal :=
  runServed (issue t (.fT 0x20 d a b 1) (fpT 1 d a b)) s

/-- FMUL (R375): FP32 multiply. -/
def execFmul (t d a b : Nat) (s : State) : Host.Outcome State Fault Refusal :=
  runServed (issue t (.fT 0x20 d a b 2) (fpT 2 d a b)) s

/-- FDIV (R375): FP32 correctly rounded divide. -/
def execFdiv (t d a b : Nat) (s : State) : Host.Outcome State Fault Refusal :=
  runServed (issue t (.fT 0x20 d a b 3) (fpT 3 d a b)) s

/-- FSQRT (R375): FP32 correctly rounded square root. -/
def execFsqrt (t d a : Nat) (s : State) : Host.Outcome State Fault Refusal :=
  runServed (issue t (.fT 0x20 d a 0 4) (fpT 4 d a 0)) s

/-- FMIN (R375): FP32 minimum. -/
def execFmin (t d a b : Nat) (s : State) : Host.Outcome State Fault Refusal :=
  runServed (issue t (.fT 0x20 d a b 5) (fpT 5 d a b)) s

/-- FMAX (R375): FP32 maximum. -/
def execFmax (t d a b : Nat) (s : State) : Host.Outcome State Fault Refusal :=
  runServed (issue t (.fT 0x20 d a b 6) (fpT 6 d a b)) s

/-- FFMA (R375): FP32 fused multiply-add. -/
def execFfma (t d a b : Nat) (s : State) : Host.Outcome State Fault Refusal :=
  runServed (issue t (.fT 0x20 d a b 7) (fpT 7 d a b)) s

/-- FEQ (R375): FP32 equal compare. -/
def execFeq (t d a b : Nat) (s : State) : Host.Outcome State Fault Refusal :=
  runServed (issue t (.fT 0x20 d a b 8) (fpT 8 d a b)) s

/-- FLT (R375): FP32 less-than compare. -/
def execFlt (t d a b : Nat) (s : State) : Host.Outcome State Fault Refusal :=
  runServed (issue t (.fT 0x20 d a b 9) (fpT 9 d a b)) s

/-- FLE (R375): FP32 less-or-equal compare. -/
def execFle (t d a b : Nat) (s : State) : Host.Outcome State Fault Refusal :=
  runServed (issue t (.fT 0x20 d a b 10) (fpT 10 d a b)) s

/-- ITOF (R375): Integer to FP32. -/
def execItof (t d a : Nat) (s : State) : Host.Outcome State Fault Refusal :=
  runServed (issue t (.fT 0x20 d a 0 11) (fpT 11 d a 0)) s

/-- FTOI (R375): FP32 to integer, saturating. -/
def execFtoi (t d a : Nat) (s : State) : Host.Outcome State Fault Refusal :=
  runServed (issue t (.fT 0x20 d a 0 12) (fpT 12 d a 0)) s

/-- CVTS (R376): Scalar format conversion. -/
def execCvts (t d a b : Nat) (s : State) : Host.Outcome State Fault Refusal :=
  runServed (issue t (.fT 0x21 d a b 0) (cvts d a b)) s

/-- UWAIT (R384): Wait for a unit command's tag and return its result. -/
def execUwait (t d a : Nat) (s : State) : Host.Outcome State Fault Refusal :=
  runServed (issue t (.fT 0x28 d a 0 1) (uwait d a)) s

/-- CEACQ (R389): Acquire a free ON engine of the partition. -/
def execCeacq (t d : Nat) (s : State) : Host.Outcome State Fault Refusal :=
  runServed (issue t (.fT 0x2C d 0 0 0) (ceacq d)) s

/-- CEWAIT (R389): Wait for an engine command to end. -/
def execCewait (t d a : Nat) (s : State) : Host.Outcome State Fault Refusal :=
  runServed (issue t (.fT 0x2C d a 0 2) (cewait d a)) s

/-- CEREL (R389): Release the thread's engine. -/
def execCerel (t : Nat) (s : State) : Host.Outcome State Fault Refusal :=
  runServed (issue t (.fT 0x2C 0 0 0 3) cerel) s

/-- SINC (R390): Increment a sync object after a PFENCE. -/
def execSinc (t a : Nat) (s : State) : Host.Outcome State Fault Refusal :=
  runServed (issue t (.fT 0x2D 0 a 0 0) (sinc a)) s

/-- SREAD (R390): Read a sync object's count. -/
def execSread (t d a : Nat) (s : State) : Host.Outcome State Fault Refusal :=
  runServed (issue t (.fT 0x2D d a 0 1) (sread d a)) s

/-- SWAIT (R390): Park until a sync count reaches a value. -/
def execSwait (t a b : Nat) (s : State) : Host.Outcome State Fault Refusal :=
  runServed (issue t (.fT 0x2D 0 a b 2) (fun m th => swait a b m th t)) s

/-- STEST (R390): Test whether a sync count has reached a value. -/
def execStest (t d a b : Nat) (s : State) : Host.Outcome State Fault Refusal :=
  runServed (issue t (.fT 0x2D d a b 3) (stest d a b)) s

/-- SAMO_ADD (R373): Atomic add to a window word. -/
def execSamoAdd (t d a b : Nat) (s : State) : Host.Outcome State Fault Refusal :=
  runServed (issue t (.fT 0x2E d a b 0) (samo false d a b)) s

/-- SAMO_CAS (R373): Atomic compare-and-swap on a window word. -/
def execSamoCas (t d a b : Nat) (s : State) : Host.Outcome State Fault Refusal :=
  runServed (issue t (.fT 0x2E d a b 1) (samo true d a b)) s

/-- STEP (R396): Program step boundary: commands end, stops apply and the thread may yield. -/
def execStep (t : Nat) (spent : Bool) (s : State) : Host.Outcome State Fault Refusal :=
  runServed (issue t (.fT 0x3F 0 0 0 0) (fun m th => stepIns spent m th t)) s

/-- EXIT (R405): The instance exits with a status and count. -/
def execExit (t a b : Nat) (s : State) : Host.Outcome State Fault Refusal :=
  runServed (issue t (.fT 0x3F 0 a b 1) (fun m th => exitIns a b m th t)) s

/-- GETSR (R368): Read a special register. -/
def execGetsr (t d b : Nat) (s : State) : Host.Outcome State Fault Refusal :=
  runServed (issue t (.fT 0x3F d 0 b 2) (fun m th => getsr d b m th t)) s

/-- SETSR (R368): Write a special register. -/
def execSetsr (t d a : Nat) (s : State) : Host.Outcome State Fault Refusal :=
  runServed (issue t (.fT 0x3F d a 0 3) (setsr d a)) s

/-- BRK (R393): Trap BREAK. -/
def execBrk (t : Nat) (s : State) : Host.Outcome State Fault Refusal :=
  runServed (issue t (.fT 0x3F 0 0 0 4) (pureOut (fun _ => .trap (trapOf .break_)))) s

/-- YIELD (R373): Yield instruction. -/
def execYield (t : Nat) (s : State) : Host.Outcome State Fault Refusal :=
  runServed (issue t (.fT 0x3F 0 0 0 5) (pureOut (fun th => .next th))) s

/-- NOP_INSTRUCTION (R373): The rasp NOP instruction. -/
def execNopInstruction (t : Nat) (s : State) : Host.Outcome State Fault Refusal :=
  runServed (issue t (.fT 0x3F 0 0 0 6) (pureOut (fun th => .next th))) s

/-- PFENCE (R383): Wait until the thread's commands end and its writes are visible. -/
def execPfence (t : Nat) (s : State) : Host.Outcome State Fault Refusal :=
  runServed (issue t (.fT 0x3F 0 0 0 7) pfence) s

/-- DMA_GET (R385): Unit command copying pool data into scratch. -/
def execDmaGet (t d a : Nat) (s : State) : Host.Outcome State Fault Refusal :=
  runServed (issuePost t (.fT 0x28 d a 0 0) (fun m th => upost (· == 0) d a m th t)) s

/-- DMA_PUT (R385): Unit command copying scratch into pool memory. -/
def execDmaPut (t d a : Nat) (s : State) : Host.Outcome State Fault Refusal :=
  runServed (issuePost t (.fT 0x28 d a 0 0) (fun m th => upost (· == 1) d a m th t)) s

/-- DMA_OUT (R385): Unit command writing scratch to agent memory, poison as zeros. -/
def execDmaOut (t d a : Nat) (s : State) : Host.Outcome State Fault Refusal :=
  runServed (issuePost t (.fT 0x28 d a 0 0) (fun m th => upost (· == 2) d a m th t)) s

/-- DMA_TOWIN (R385): Unit command copying scratch into the window. -/
def execDmaTowin (t d a : Nat) (s : State) : Host.Outcome State Fault Refusal :=
  runServed (issuePost t (.fT 0x28 d a 0 0) (fun m th => upost (· == 3) d a m th t)) s

/-- DMA_FROMWIN (R385): Unit command copying the window into scratch. -/
def execDmaFromwin (t d a : Nat) (s : State) : Host.Outcome State Fault Refusal :=
  runServed (issuePost t (.fT 0x28 d a 0 0) (fun m th => upost (· == 4) d a m th t)) s

/-- TLD (R386): Unit command loading table blocks as matched pairs. -/
def execTld (t d a : Nat) (s : State) : Host.Outcome State Fault Refusal :=
  runServed (issuePost t (.fT 0x28 d a 0 0) (fun m th => upost (· == 5) d a m th t)) s

/-- TST (R386): Unit command storing block records into a table. -/
def execTst (t d a : Nat) (s : State) : Host.Outcome State Fault Refusal :=
  runServed (issuePost t (.fT 0x28 d a 0 0) (fun m th => upost (· == 6) d a m th t)) s

/-- TADD (R386): Unit command adding FP32 values into table blocks. -/
def execTadd (t d a : Nat) (s : State) : Host.Outcome State Fault Refusal :=
  runServed (issuePost t (.fT 0x28 d a 0 0) (fun m th => upost (· == 7) d a m th t)) s

/-- SORT (R387): Unit command sorting key/payload pairs, with optional dedup and count. -/
def execSort (t d a : Nat) (s : State) : Host.Outcome State Fault Refusal :=
  runServed (issuePost t (.fT 0x28 d a 0 0) (fun m th => upost (· == 8) d a m th t)) s

/-- PAMO (R388): Unit command applying one indivisible pool atomic. -/
def execPamo (t d a : Nat) (s : State) : Host.Outcome State Fault Refusal :=
  runServed (issuePost t (.fT 0x28 d a 0 0) (fun m th => upost (9 ≤ ·) d a m th t)) s

/-- LOAD_PANE (R349): Engine command loading present tiles of four tile rows into a pane. -/
def execLoadPane (t d a : Nat) (s : State) : Host.Outcome State Fault Refusal :=
  runServed (issuePost t (.fT 0x2C d a 0 1) (fun m th => cepost (· == 0) d a m th t)) s

/-- LOAD_ACT (R349): Engine command loading, and quantising, activation blocks. -/
def execLoadAct (t d a : Nat) (s : State) : Host.Outcome State Fault Refusal :=
  runServed (issuePost t (.fT 0x2C d a 0 1) (fun m th => cepost (· == 1) d a m th t)) s

/-- RUN (R353): Engine command streaming tokens through a pane into accumulators. -/
def execRun (t d a : Nat) (s : State) : Host.Outcome State Fault Refusal :=
  runServed (issuePost t (.fT 0x2C d a 0 1) (fun m th => cepost (· == 2) d a m th t)) s

/-- DRAIN (R349): Engine command encoding accumulators and writing the results. -/
def execDrain (t d a : Nat) (s : State) : Host.Outcome State Fault Refusal :=
  runServed (issuePost t (.fT 0x2C d a 0 1) (fun m th => cepost (3 ≤ ·) d a m th t)) s

end Sys2Proof.Machine
end

