-- ==== Sys2Proof/Machine/ExecRegs.lean ====
section
/-! DEFINITION. Registers, the event log, check units and power (chapters 1, 5, 9, 19, 20): the meaning of each command. -/

namespace Sys2Proof.Machine
open Sys2Proof

/-- REG_READ (R687): A REG_READ request reads 1 to 128 registers and returns their data. -/
def execRegRead (src : Src) (addr width count : Nat) (s : State) : Host.Outcome State Fault Refusal :=
  run (readCmd src addr width count) s

/-- REG_WRITE (R687): A REG_WRITE request writes registers one at a time, for registers with no step of their own. -/
def execRegWrite (src : Src) (addr width : Nat) (data : List W64) (s : State) : Host.Outcome State Fault Refusal :=
  run (writeCmd src addr width data) s

/-- READ_CLEAR (R12): A read of an rc field returns its value and clears it. -/
def execReadClear (src : Src) (addr : Nat) (s : State) : Host.Outcome State Fault Refusal :=
  run (readOne src addr) s

/-- EVENT_LOG_READ (R706): A read that reaches an event-log entry's SEQ word marks the entry as read. -/
def execEventLogRead (src : Src) (index : Nat) (s : State) : Host.Outcome State Fault Refusal :=
  run (readCmd src (0xE0000 + 32 * index) 8 4) s

/-- I2C_POINTER_WRITE (R693): A four-byte I²C write transaction sets the register pointer, or writes GLB_SCRATCH. -/
def execI2cPointerWrite (toScratch : Bool) (value : W32) (s : State) : Host.Outcome State Fault Refusal :=
  run (i2cWrite toScratch value) s

/-- I2C_READ (R693): An I²C read transaction returns four bytes from the pointer and advances it. -/
def execI2cRead (s : State) : Host.Outcome State Fault Refusal :=
  runCore i2cRead s

/-- PERF_CLEAR (R697): A write of one to GLB_CTRL.PERF_CLEAR clears every performance counter and its OVF. -/
def execPerfClear (src : Src) (s : State) : Host.Outcome State Fault Refusal :=
  run (writeBit src GLB_CTRL GLB_CTRL_PERF_CLEAR) s

/-- EVT_INJECT (R707): A write to EVT_INJECT logs the named event as if detected, with escalation. -/
def execEvtInject (src : Src) (code kind unit : Nat) (s : State) : Host.Outcome State Fault Refusal :=
  run (writeCmd src EVT_INJECT 8 [BitVec.ofNat 64 (code * 2 ^ 48 + kind % 256 * 2 ^ 40 + unit % 65536 * 2 ^ 24)]) s

/-- TEST_FENCE_ENGINE (R362): A write of one to CE_CTRL.TEST_FENCE fences the engine as a fault would. -/
def execTestFenceEngine (src : Src) (engine : Nat) (s : State) : Host.Outcome State Fault Refusal :=
  run (writeBit src (stackReg CE_CTRL engine) CE_CTRL_TEST_FENCE) s

/-- TEST_FENCE_CLUSTER (R398): A write of one to RSP_CTRL.TEST_FENCE fences the cluster as a fault would. -/
def execTestFenceCluster (src : Src) (cluster : Nat) (s : State) : Host.Outcome State Fault Refusal :=
  run (writeBit src (stackReg RSP_CTRL cluster) RSP_CTRL_TEST_FENCE) s

/-- CODEBOOK_WRITE (R141): A write to a CAL_CB register updates the shadow codebook, or is refused for a non-finite entry.
DEDUCED, assumption 82 (safe). -/
def execCodebookWrite (src : Src) (codebook reg : Nat) (value : W32) (s : State) : Host.Outcome State Fault Refusal :=
  run (writeCmd src (CAL_CB codebook reg) 4 [value.setWidth 64]) s

/-- CHK_START (R680): A write of one to CHK_CTRL.START starts a check unit's CRC over pool bytes. -/
def execChkStart (src : Src) (unit : Nat) (s : State) : Host.Outcome State Fault Refusal :=
  run (writeBit src (CHK_CTRL unit) CHK_CTRL_START) s

/-- CHK_ABORT (R681): A write of one to CHK_CTRL.ABORT stops a check unit at its next word. -/
def execChkAbort (src : Src) (unit : Nat) (s : State) : Host.Outcome State Fault Refusal :=
  run (writeBit src (CHK_CTRL unit) CHK_CTRL_ABORT) s

/-- CHK_DONE (R680): A check unit finishes and sets DONE, or stops on poison or a refused read. -/
def execChkDone (unit : Nat) (s : State) : Host.Outcome State Fault Refusal :=
  runServed (chkDone unit) s

/-- OPERATING_POINT_CHANGE (R666): A write to PWR_OP.TARGET starts a change of operating point. -/
def execOperatingPointChange (src : Src) (target : Nat) (s : State) : Host.Outcome State Fault Refusal :=
  run (fun m => writeCmd src PWR_OP 4 [BitVec.ofNat 64 (setBits (regView m.core PWR_OP).toNat PWR_OP_TARGET.hi PWR_OP_TARGET.lo target)] m) s

/-- VID_SETTLE_END (R666): SETTLE_US passes after a VID change and the next step of the change proceeds. -/
def execVidSettleEnd (s : State) : Host.Outcome State Fault Refusal :=
  runPoweredCore vidSettled s

/-- PLL_LOCK (R666): The PLL locks and the arithmetic clock switches. -/
def execPllLock (time : Nat) (s : State) : Host.Outcome State Fault Refusal :=
  runPoweredCore (pllLockCmd time) s

/-- PWR_SET (R668): PWR_SET or a write to PWR_DOMAIN.TARGET commands a power domain. -/
def execPwrSet (src : Src) (domain target flags period : Nat) (s : State) : Host.Outcome State Fault Refusal :=
  run (mgmtLater { mop := 0x0B00 } src (pwrSet domain target flags period)) s

/-- DOMAIN_ENTRY_END (R670): A domain's entry ends and it reaches RETENTION or OFF. -/
def execDomainEntryEnd (domain : Nat) (s : State) : Host.Outcome State Fault Refusal :=
  runPowered (domainEntryEnd domain) s

/-- DOMAIN_WAKE_END (R671): A domain's wake ends and it is ON. -/
def execDomainWakeEnd (domain : Nat) (ok : Bool) (s : State) : Host.Outcome State Fault Refusal :=
  runPowered (domainWakeEnd domain ok) s

/-- HOLD_RELEASE (R672): A write of one to PWR_DOMAIN.HOLD_RELEASE releases a domain's pad hold. -/
def execHoldRelease (src : Src) (domain : Nat) (s : State) : Host.Outcome State Fault Refusal :=
  run (writeBit src (PWR_DOMAIN domain) PWR_DOMAIN_HOLD_RELEASE) s

/-- WATCH_WAKE (R673): A watched domain wakes on its period and runs its check. -/
def execWatchWake (domain : Nat) (x : WatchStep) (s : State) : Host.Outcome State Fault Refusal :=
  runPowered (watchWake domain x) s

/-- QUIESCE (R675): QUIESCE begins preparing the chip for removal. -/
def execQuiesce (src : Src) (drainMs : Nat) (s : State) : Host.Outcome State Fault Refusal :=
  runManaged { mop := 0x0B02 } src (quiesceReq drainMs) s

/-- QUIESCE_DRAIN_END (R675): The quiesce drain time ends and every context is flushed. -/
def execQuiesceDrainEnd (time : Nat) (s : State) : Host.Outcome State Fault Refusal :=
  runServedCore (fun c => quiesceDrainEnd (c.at time)) s

/-- QUIESCED (R675): Ring, key and works have drained; domains are turned OFF and QUIESCED sent. -/
def execQuiesced (s : State) : Host.Outcome State Fault Refusal :=
  runServed quiesced s

end Sys2Proof.Machine
end

