-- ==== Sys2Proof/Machine/ExecSec.lean ====
section
/-! DEFINITION. Partitions, keys, attestation and programs (chapters 10 and 18): the meaning of each command. -/

namespace Sys2Proof.Machine
open Sys2Proof

/-- ATTEST (R646): The signing unit assembles and signs an attestation report. -/
def execAttest (x : AttestStep) (s : State) : Host.Outcome State Fault Refusal :=
  run (attestCmd x) s

/-- MGMT_KEY_ESTABLISH (R639): The management key in slot 0 is established from a signed KEM ciphertext. -/
def execMgmtKeyEstablish (src : Src) (nonce : Nat) (sigOk : Bool) (time : Nat) (s : State) : Host.Outcome State Fault Refusal :=
  runManaged { mop := 0x0801, plain := true } src (fun src m => mgmtKeyEstablish nonce sigOk src (m.on (·.at time))) s

/-- PART_KEY_ESTABLISH (R625): A partition's KEK is set and the partition becomes ACTIVE. -/
def execPartKeyEstablish (src : Src) (partition nonce time : Nat) (s : State) : Host.Outcome State Fault Refusal :=
  runManaged { mop := 0x0802 } src (fun src m => partKeyEstablish partition nonce src (m.on (·.at time))) s

/-- KEY_LOAD (R640): A wrapped key is unwrapped into a link key slot. -/
def execKeyLoad (src : Src) (slot owner : Nat) (unwraps : Bool) (time : Nat) (s : State) : Host.Outcome State Fault Refusal :=
  runManaged { mop := 0x0803 } src (fun src m => keyLoad slot owner unwraps src (m.on (·.at time))) s

/-- OLD_KEY_EXPIRY (R641): 100 ms after a key replacement, the old key stops verifying packets. -/
def execOldKeyExpiry (slot time : Nat) (s : State) : Host.Outcome State Fault Refusal :=
  runPoweredCore (fun c => oldKeyExpiry slot (c.at time)) s

/-- KEY_UNLOAD (R642): A link key slot is emptied. -/
def execKeyUnload (src : Src) (slot : Nat) (s : State) : Host.Outcome State Fault Refusal :=
  runManaged { mop := 0x0804 } src (fmOnly (keyUnload slot)) s

/-- PART_REMOVE (R648): A partition enters REMOVING; its keys are destroyed and its contexts, threads, recasts, objects and domains stopped. -/
def execPartRemove (src : Src) (partition : Nat) (s : State) : Host.Outcome State Fault Refusal :=
  runManaged { mop := 0x0806 } src (fmOnly (partRemove partition)) s

/-- REMOVAL_RETIRED (R648): Every op tag and work of a removing partition has retired, and its resources are scrubbed. -/
def execRemovalRetired (partition : Nat) (s : State) : Host.Outcome State Fault Refusal :=
  runServedCore (removalRetired partition) s

/-- PART_REMOVED (R648): The scrub ends; objects are freed, a new memory key drawn and the partition is VACANT. -/
def execPartRemoved (partition : Nat) (s : State) : Host.Outcome State Fault Refusal :=
  runServedCore (partRemoved partition) s

/-- OWNER_PROVISION (R633): The recovery loader burns OWNER_KH from the owner's public keys. -/
def execOwnerProvision (src : Src) (edPub mldsaPub : Nat) (s : State) : Host.Outcome State Fault Refusal :=
  runManaged { mop := 0x0807, recovery := true } src (fmOnly (ownerProvision edPub mldsaPub)) s

/-- SVN_COMMIT (R634): A write of one to SEC_CTRL.SVN_COMMIT burns SVN_MIN up to the running image's SVN. -/
def execSvnCommit (src : Src) (s : State) : Host.Outcome State Fault Refusal :=
  run (writeBit src SEC_CTRL SEC_CTRL_SVN_COMMIT) s

/-- PROG_REGISTER (R400): A program image is registered in a slot and its measurement returned. -/
def execProgRegister (src : Src) (part slot : Nat) (image : W64) (s : State) : Host.Outcome State Fault Refusal :=
  runManaged { mop := 0x0160 } src (fun src => registerProgram src part slot image) s

/-- PROG_UNREGISTER (R401): A program slot is freed. -/
def execProgUnregister (src : Src) (handle : Nat) (s : State) : Host.Outcome State Fault Refusal :=
  runManaged { mop := 0x0161 } src (fun src => progUnregister src handle) s

/-- PROG_BIND (R408): An opcode of a partition is bound to a registered program. -/
def execProgBind (src : Src) (part opcode handle insts window : Nat) (s : State) : Host.Outcome State Fault Refusal :=
  runManaged { mop := 0x0162 } src (fun src => bindProgram src part opcode handle insts window) s

/-- PROG_UNBIND (R408): An opcode binding ends and the built-in program serves again. -/
def execProgUnbind (src : Src) (part opcode : Nat) (s : State) : Host.Outcome State Fault Refusal :=
  runManaged { mop := 0x0163 } src (fun src => progUnbind src part opcode) s

end Sys2Proof.Machine
end

