-- ==== Sys2Proof/Machine/ExecSync.lean ====
section
/-! DEFINITION. Sync objects and coherent windows (chapters 11 and 12): the meaning of each command. -/

namespace Sys2Proof.Machine
open Sys2Proof

/-- SYNC_GRANT (R412): A run of sync objects is granted to a partition and owner. -/
def execSyncGrant (src : Src) (first count partition owner : Nat) (s : State) : Host.Outcome State Fault Refusal :=
  runManaged { mop := 0x0140, grant := true } src (fmOnly (syncGrant first count partition owner)) s

/-- SYNC_FREE (R412): A run of sync objects returns to FREE. -/
def execSyncFree (src : Src) (first count : Nat) (s : State) : Host.Outcome State Fault Refusal :=
  runManaged { mop := 0x0141 } src (fmOnly (syncFree first count)) s

/-- SYNC_INCREMENT (R413): An increment reaches the object's home plinth and adds one to COUNT, releasing waiters. -/
def execSyncIncrement (object : Nat) (s : State) : Host.Outcome State Fault Refusal :=
  runServedCore (syncIncrement object) s

/-- SYNC_INC (R417): A SYNC_INC message increments an object. -/
def execSyncInc (p : Pkt) (f : Pfx) (s : State) : Host.Outcome State Fault Refusal :=
  run (requestRx 0x28 p f) s

/-- SYNC_READ (R417): A SYNC_READ message returns an object's count and target. -/
def execSyncRead (p : Pkt) (f : Pfx) (s : State) : Host.Outcome State Fault Refusal :=
  run (requestRx 0x29 p f) s

/-- SYNC_ARM (R424): SYNC_ARM sets an object's target and deadline. -/
def execSyncArm (p : Pkt) (f : Pfx) (s : State) : Host.Outcome State Fault Refusal :=
  run (requestRx 0x2A p f) s

/-- SYNC_RESET (R428): SYNC_RESET zeroes an object with no waiters. -/
def execSyncReset (p : Pkt) (f : Pfx) (s : State) : Host.Outcome State Fault Refusal :=
  run (requestRx 0x2B p f) s

/-- SYNC_DEADLINE (R426): An armed object's deadline ends unreached; MISSED is set and a LATE notice sent. -/
def execSyncDeadline (object : Nat) (s : State) : Host.Outcome State Fault Refusal :=
  runServedCore (syncDeadline object) s

/-- COH_DOMAIN_CREATE (R434): A coherence domain is created with its members and windows. -/
def execCohDomainCreate (src : Src) (body : DomainDef) (s : State) : Host.Outcome State Fault Refusal :=
  runManaged { mop := 0x0150 } src (fmOnly (domainCreate body)) s

/-- COH_DOMAIN_DESTROY (R437): A DOWN domain returns to FREE. -/
def execCohDomainDestroy (src : Src) (domain : Nat) (s : State) : Host.Outcome State Fault Refusal :=
  runManaged { mop := 0x0151 } src (fmOnly (domainDestroy domain)) s

/-- COH_DOMAIN_DOWN (R454): COH_DOMAIN_DOWN from the fabric manager or COH_CTRL.TEST_DOWN takes a domain DOWN with cause 8. -/
def execCohDomainDown (src : Src) (domain : Nat) (s : State) : Host.Outcome State Fault Refusal :=
  runManaged { mop := 0x0152 } src (fmOnly (domainDownReq domain)) s

/-- COH_MEMBER_ADD (R437): An agent and context are placed in a free member index. -/
def execCohMemberAdd (src : Src) (domain member agent ctx : Nat) (s : State) : Host.Outcome State Fault Refusal :=
  runManaged { mop := 0x0153 } src (fmOnly (memberAdd domain member agent ctx)) s

/-- COH_MEMBER_REMOVE (R437): A member's lines are recalled and its index cleared. -/
def execCohMemberRemove (src : Src) (domain member : Nat) (s : State) : Host.Outcome State Fault Refusal :=
  run (mgmtLater { mop := 0x0154 } src (memberRemove domain member)) s

/-- GET_S (R443): A member asks the home for a shared copy of a line. -/
def execGetS (p : Pkt) (x : CohMsg) (s : State) : Host.Outcome State Fault Refusal :=
  run (cohRx 1 p x) s

/-- GET_M (R443): A member asks the home for the only copy of a line. -/
def execGetM (p : Pkt) (x : CohMsg) (s : State) : Host.Outcome State Fault Refusal :=
  run (cohRx 2 p x) s

/-- PUT_M (R453): An owner evicts a modified line to the home. -/
def execPutM (p : Pkt) (x : CohMsg) (s : State) : Host.Outcome State Fault Refusal :=
  run (cohRx 3 p x) s

/-- PUT_S (R443): A sharer drops its copy. -/
def execPutS (p : Pkt) (x : CohMsg) (s : State) : Host.Outcome State Fault Refusal :=
  run (cohRx 4 p x) s

/-- FWD_ACK (R443): An owner reports it has supplied the requester; the transaction ends. -/
def execFwdAck (p : Pkt) (x : CohMsg) (s : State) : Host.Outcome State Fault Refusal :=
  run (cohRx 12 p x) s

/-- RECALL_ACK (R448): An owner returns recalled data to the home. -/
def execRecallAck (p : Pkt) (x : CohMsg) (s : State) : Host.Outcome State Fault Refusal :=
  run (cohRx 13 p x) s

/-- INV_ACK (R443): A sharer acknowledges an invalidation. -/
def execInvAck (p : Pkt) (x : CohMsg) (s : State) : Host.Outcome State Fault Refusal :=
  run (cohRx 14 p x) s

/-- EVICTED (R453): An owner reports the forwarded line was already sent by PUT_M. -/
def execEvicted (p : Pkt) (x : CohMsg) (s : State) : Host.Outcome State Fault Refusal :=
  run (cohRx 15 p x) s

/-- RESERVATION_EXPIRY (R447): A reserved member sends no request for 16 holds and the line's reservation ends. -/
def execReservationExpiry (line : W64) (time : Nat) (s : State) : Host.Outcome State Fault Refusal :=
  runServedCore (reservationExpiry line time) s

/-- HOLD_EXPIRY (R446): The hold after a grant on a coherent line ends, and an uncached access of the home that waits on the held line is served. -/
def execHoldExpiry (line : W64) (time : Nat) (s : State) : Host.Outcome State Fault Refusal :=
  runServedCore (holdExpiry line time) s

/-- COH_TIMEOUT (R454): A snoop, recall or PUT_M after EVICTED goes unanswered and the domain goes DOWN. -/
def execCohTimeout (line : W64) (time : Nat) (s : State) : Host.Outcome State Fault Refusal :=
  runServedCore (cohTimeout line time) s

/-- DRAIN_END (R456): The drain after DOWN ends; remaining owned lines are poisoned and the domain is DOWN. -/
def execDrainEnd (domain time : Nat) (s : State) : Host.Outcome State Fault Refusal :=
  runServed (drainEnd domain time) s

end Sys2Proof.Machine
end

