-- ==== Sys2Proof/Machine/ExecTick.lean ====
section
/-! DEFINITION. The tick, its master and its references (chapter 2): the meaning of each command. -/

namespace Sys2Proof.Machine
open Sys2Proof

/-- TICK_BOUNDARY (R46): A tick boundary falls: the counter advances, heartbeats and health words go out, budgets, codebooks and tick sets take effect, and the telemetry slice samples counters. -/
def execTickBoundary (time excess : Nat) (temps : List Nat) (s : State) : Host.Outcome State Fault Refusal :=
  run (tickBoundary time excess temps) s

/-- TICK_MASTER_CHANGE (R43): After three consecutive holdover ticks the best heard candidate becomes master at its next boundary. -/
def execTickMasterChange (s : State) : Host.Outcome State Fault Refusal :=
  runServedCore masterChange s

/-- HANDOVER (R44): A write of one to TCK_CTRL.HANDOVER at the master requests a yield to the best other candidate at the next boundary. -/
def execHandover (src : Src) (s : State) : Host.Outcome State Fault Refusal :=
  run (writeBit src TCK_CTRL TCK_CTRL_HANDOVER) s

/-- TICK (R40): A TICK ring message arrives; a member takes the first intact copy, sets its next boundary and passes the message on. -/
def execTick (p : Pkt) (tick correction master priority : Nat) (s : State) : Host.Outcome State Fault Refusal :=
  runServedCore (tickRx p tick correction master priority) s

/-- TICK_IN_EDGE (R50): A rising edge on TICK_IN is taken as the master's boundary, or is ignored and logged TICK_IN_REJECTED outside its window. -/
def execTickInEdge (time excess : Nat) (temps : List Nat) (s : State) : Host.Outcome State Fault Refusal :=
  run (tickInEdge time excess temps) s

/-- TICK_IN_MISSING (R50): No TICK_IN edge has come by P + 1 %, so the master makes the boundary itself and logs TICK_HOLDOVER. -/
def execTickInMissing (time excess : Nat) (temps : List Nat) (s : State) : Host.Outcome State Fault Refusal :=
  run (tickInMissing time excess temps) s

/-- PPS_EDGE (R52): A rising PPS edge marks the second, and the master adjusts its tick lengths to align. -/
def execPpsEdge (time : Nat) (s : State) : Host.Outcome State Fault Refusal :=
  runCore (ppsEdge time) s

/-- PTP_MESSAGE (R53): An IEEE 1588 message arrives on the configured PTP port and is timestamped for slave synchronisation. -/
def execPtpMessage (port : Nat) (packet : PtpPkt) (time : Nat) (s : State) : Host.Outcome State Fault Refusal :=
  runCore (ptpMessage port packet time) s

/-- TICK_REFERENCE_LOST (R54): PPS edges or PTP synchronisation stop, and the master keeps period P from its own time base. -/
def execTickReferenceLost (s : State) : Host.Outcome State Fault Refusal :=
  runCore referenceLost s

/-- TICK_OUT_PULSE_END (R55): The 1 µs TICK_OUT pulse that began at a boundary ends. -/
def execTickOutPulseEnd (time : Nat) (s : State) : Host.Outcome State Fault Refusal :=
  runPoweredCore (tickOutEnd time) s

/-- TICK_BUDGET1_WRITE (R58): A write to TCK_BUDGET1 is checked field by field and then as a sum against 600. -/
def execTickBudget1Write (src : Src) (value : W32) (s : State) : Host.Outcome State Fault Refusal :=
  run (writeCmd src TCK_BUDGET1 4 [value.setWidth 64]) s

/-- TICK_OVERRUN_ESCALATED (R64): A third consecutive overrun halves the recast, scrub and rebuild allotments. -/
def execTickOverrunEscalated (s : State) : Host.Outcome State Fault Refusal :=
  runPoweredCore overrunEscalated s

/-- OVERRUN_CLEARED (R65): After 64 consecutive ticks without overrun, ESCALATED clears and the allotments are restored. -/
def execOverrunCleared (s : State) : Host.Outcome State Fault Refusal :=
  runPoweredCore overrunCleared s

/-- HEARTBEAT (R526): A HEARTBEAT ring message arrives and is checked, taken and passed on, or rejected. -/
def execHeartbeat (p : Pkt) (origin priority alive count state : Nat) (crc : W32) (s : State) : Host.Outcome State Fault Refusal :=
  runServedCore (heartbeatRx p origin priority alive count state crc) s

end Sys2Proof.Machine
end

