-- ==== Sys2Proof/Machine/ExecVec.lean ====
section
/-! DEFINITION. Vector instructions of the rasp cores (chapter 10): the meaning of each command. -/

namespace Sys2Proof.Machine
open Sys2Proof

/-- VADD (R373): Lane-wise add. -/
def execVadd (t vd va vb mk w : Nat) (s : State) : Host.Outcome State Fault Refusal :=
  runServed (issue t (.fV 0x24 vd va vb mk w 0) (vecI 0 vd va vb mk w)) s

/-- VSUB (R373): Lane-wise subtract. -/
def execVsub (t vd va vb mk w : Nat) (s : State) : Host.Outcome State Fault Refusal :=
  runServed (issue t (.fV 0x24 vd va vb mk w 1) (vecI 1 vd va vb mk w)) s

/-- VAND (R373): Lane-wise AND. -/
def execVand (t vd va vb mk w : Nat) (s : State) : Host.Outcome State Fault Refusal :=
  runServed (issue t (.fV 0x24 vd va vb mk w 2) (vecI 2 vd va vb mk w)) s

/-- VOR (R373): Lane-wise OR. -/
def execVor (t vd va vb mk w : Nat) (s : State) : Host.Outcome State Fault Refusal :=
  runServed (issue t (.fV 0x24 vd va vb mk w 3) (vecI 3 vd va vb mk w)) s

/-- VXOR (R373): Lane-wise XOR. -/
def execVxor (t vd va vb mk w : Nat) (s : State) : Host.Outcome State Fault Refusal :=
  runServed (issue t (.fV 0x24 vd va vb mk w 4) (vecI 4 vd va vb mk w)) s

/-- VSHL (R373): Lane-wise shift left. -/
def execVshl (t vd va vb mk w : Nat) (s : State) : Host.Outcome State Fault Refusal :=
  runServed (issue t (.fV 0x24 vd va vb mk w 5) (vecI 5 vd va vb mk w)) s

/-- VSHR (R373): Lane-wise logical shift right. -/
def execVshr (t vd va vb mk w : Nat) (s : State) : Host.Outcome State Fault Refusal :=
  runServed (issue t (.fV 0x24 vd va vb mk w 6) (vecI 6 vd va vb mk w)) s

/-- VSAR (R373): Lane-wise arithmetic shift right. -/
def execVsar (t vd va vb mk w : Nat) (s : State) : Host.Outcome State Fault Refusal :=
  runServed (issue t (.fV 0x24 vd va vb mk w 7) (vecI 7 vd va vb mk w)) s

/-- VMIN (R373): Lane-wise signed minimum. -/
def execVmin (t vd va vb mk w : Nat) (s : State) : Host.Outcome State Fault Refusal :=
  runServed (issue t (.fV 0x24 vd va vb mk w 8) (vecI 8 vd va vb mk w)) s

/-- VMAX (R373): Lane-wise signed maximum. -/
def execVmax (t vd va vb mk w : Nat) (s : State) : Host.Outcome State Fault Refusal :=
  runServed (issue t (.fV 0x24 vd va vb mk w 9) (vecI 9 vd va vb mk w)) s

/-- VMINU (R373): Lane-wise unsigned minimum. -/
def execVminu (t vd va vb mk w : Nat) (s : State) : Host.Outcome State Fault Refusal :=
  runServed (issue t (.fV 0x24 vd va vb mk w 10) (vecI 10 vd va vb mk w)) s

/-- VMAXU (R373): Lane-wise unsigned maximum. -/
def execVmaxu (t vd va vb mk w : Nat) (s : State) : Host.Outcome State Fault Refusal :=
  runServed (issue t (.fV 0x24 vd va vb mk w 11) (vecI 11 vd va vb mk w)) s

/-- VMUL (R373): Lane-wise multiply, low half. -/
def execVmul (t vd va vb mk w : Nat) (s : State) : Host.Outcome State Fault Refusal :=
  runServed (issue t (.fV 0x24 vd va vb mk w 12) (vecI 12 vd va vb mk w)) s

/-- VCEQ (R373): Lane-wise equal compare into a mask. -/
def execVceq (t vd va vb mk w : Nat) (s : State) : Host.Outcome State Fault Refusal :=
  runServed (issue t (.fV 0x24 vd va vb mk w 16) (vecI 16 vd va vb mk w)) s

/-- VCLT (R373): Lane-wise signed less-than into a mask. -/
def execVclt (t vd va vb mk w : Nat) (s : State) : Host.Outcome State Fault Refusal :=
  runServed (issue t (.fV 0x24 vd va vb mk w 17) (vecI 17 vd va vb mk w)) s

/-- VCLTU (R373): Lane-wise unsigned less-than into a mask. -/
def execVcltu (t vd va vb mk w : Nat) (s : State) : Host.Outcome State Fault Refusal :=
  runServed (issue t (.fV 0x24 vd va vb mk w 18) (vecI 18 vd va vb mk w)) s

/-- VSEL (R373): Lane select by mask. -/
def execVsel (t vd va vb mk w : Nat) (s : State) : Host.Outcome State Fault Refusal :=
  runServed (issue t (.fV 0x24 vd va vb mk w 20) (vecI 20 vd va vb mk w)) s

/-- VPERM (R373): Lane permute. -/
def execVperm (t vd va vb mk w : Nat) (s : State) : Host.Outcome State Fault Refusal :=
  runServed (issue t (.fV 0x24 vd va vb mk w 21) (vecI 21 vd va vb mk w)) s

/-- VCOMP (R373): Compress enabled lanes. -/
def execVcomp (t vd va mk w : Nat) (s : State) : Host.Outcome State Fault Refusal :=
  runServed (issue t (.fV 0x24 vd va 0 mk w 22) (vecI 22 vd va 0 mk w)) s

/-- VEXP (R373): Expand low lanes into enabled lanes. -/
def execVexp (t vd va vb mk w : Nat) (s : State) : Host.Outcome State Fault Refusal :=
  runServed (issue t (.fV 0x24 vd va vb mk w 23) (vecI 23 vd va vb mk w)) s

/-- VSCAN (R373): Inclusive prefix sum. -/
def execVscan (t vd va mk w : Nat) (s : State) : Host.Outcome State Fault Refusal :=
  runServed (issue t (.fV 0x24 vd va 0 mk w 24) (vecI 24 vd va 0 mk w)) s

/-- VREDADD (R373): Add reduction into lane 0. -/
def execVredadd (t vd va mk w : Nat) (s : State) : Host.Outcome State Fault Refusal :=
  runServed (issue t (.fV 0x24 vd va 0 mk w 25) (vecI 25 vd va 0 mk w)) s

/-- VREDMAX (R373): Signed max reduction. -/
def execVredmax (t vd va mk w : Nat) (s : State) : Host.Outcome State Fault Refusal :=
  runServed (issue t (.fV 0x24 vd va 0 mk w 26) (vecI 26 vd va 0 mk w)) s

/-- VREDMAXU (R373): Unsigned max reduction. -/
def execVredmaxu (t vd va mk w : Nat) (s : State) : Host.Outcome State Fault Refusal :=
  runServed (issue t (.fV 0x24 vd va 0 mk w 27) (vecI 27 vd va 0 mk w)) s

/-- VSORT (R377): Sort 16 lanes with their original lane numbers. -/
def execVsort (t vd va : Nat) (s : State) : Host.Outcome State Fault Refusal :=
  runServed (issue t (.fV 0x24 vd va 0 0 0 28) (vecI 28 vd va 0 0 0)) s

/-- VUNIQ (R377): Mask of lanes differing from the previous lane. -/
def execVuniq (t vd va mk : Nat) (s : State) : Host.Outcome State Fault Refusal :=
  runServed (issue t (.fV 0x24 vd va 0 mk 0 29) (vecI 29 vd va 0 mk 0)) s

/-- VFADD (R375): Lane-wise FP32 add. -/
def execVfadd (t vd va vb mk : Nat) (s : State) : Host.Outcome State Fault Refusal :=
  runServed (issue t (.fV 0x25 vd va vb mk 0 0) (vecF 0 vd va vb mk)) s

/-- VFSUB (R375): Lane-wise FP32 subtract. -/
def execVfsub (t vd va vb mk : Nat) (s : State) : Host.Outcome State Fault Refusal :=
  runServed (issue t (.fV 0x25 vd va vb mk 0 1) (vecF 1 vd va vb mk)) s

/-- VFMUL (R375): Lane-wise FP32 multiply. -/
def execVfmul (t vd va vb mk : Nat) (s : State) : Host.Outcome State Fault Refusal :=
  runServed (issue t (.fV 0x25 vd va vb mk 0 2) (vecF 2 vd va vb mk)) s

/-- VFDIV (R375): Lane-wise FP32 divide. -/
def execVfdiv (t vd va vb mk : Nat) (s : State) : Host.Outcome State Fault Refusal :=
  runServed (issue t (.fV 0x25 vd va vb mk 0 3) (vecF 3 vd va vb mk)) s

/-- VFSQRT (R375): Lane-wise FP32 square root. -/
def execVfsqrt (t vd va mk : Nat) (s : State) : Host.Outcome State Fault Refusal :=
  runServed (issue t (.fV 0x25 vd va 0 mk 0 4) (vecF 4 vd va 0 mk)) s

/-- VFMIN (R375): Lane-wise FP32 minimum. -/
def execVfmin (t vd va vb mk : Nat) (s : State) : Host.Outcome State Fault Refusal :=
  runServed (issue t (.fV 0x25 vd va vb mk 0 5) (vecF 5 vd va vb mk)) s

/-- VFMAX (R375): Lane-wise FP32 maximum. -/
def execVfmax (t vd va vb mk : Nat) (s : State) : Host.Outcome State Fault Refusal :=
  runServed (issue t (.fV 0x25 vd va vb mk 0 6) (vecF 6 vd va vb mk)) s

/-- VFFMA (R375): Lane-wise FP32 fused multiply-add. -/
def execVffma (t vd va vb mk : Nat) (s : State) : Host.Outcome State Fault Refusal :=
  runServed (issue t (.fV 0x25 vd va vb mk 0 7) (vecF 7 vd va vb mk)) s

/-- VFEQ (R375): Lane-wise FP32 equal compare into a mask. -/
def execVfeq (t vd va vb mk : Nat) (s : State) : Host.Outcome State Fault Refusal :=
  runServed (issue t (.fV 0x25 vd va vb mk 0 8) (vecF 8 vd va vb mk)) s

/-- VFLT (R375): Lane-wise FP32 less-than into a mask. -/
def execVflt (t vd va vb mk : Nat) (s : State) : Host.Outcome State Fault Refusal :=
  runServed (issue t (.fV 0x25 vd va vb mk 0 9) (vecF 9 vd va vb mk)) s

/-- VFLE (R375): Lane-wise FP32 less-or-equal into a mask. -/
def execVfle (t vd va vb mk : Nat) (s : State) : Host.Outcome State Fault Refusal :=
  runServed (issue t (.fV 0x25 vd va vb mk 0 10) (vecF 10 vd va vb mk)) s

/-- VFREDSUM (R375): FP32 sum reduction in a fixed tree. -/
def execVfredsum (t vd va mk : Nat) (s : State) : Host.Outcome State Fault Refusal :=
  runServed (issue t (.fV 0x25 vd va 0 mk 0 11) (vecF 11 vd va 0 mk)) s

/-- VFREDMAX (R375): FP32 max reduction. -/
def execVfredmax (t vd va mk : Nat) (s : State) : Host.Outcome State Fault Refusal :=
  runServed (issue t (.fV 0x25 vd va 0 mk 0 12) (vecF 12 vd va 0 mk)) s

/-- VBCAST (R373): Broadcast a scalar to enabled lanes. -/
def execVbcast (t vd sr mk w : Nat) (s : State) : Host.Outcome State Fault Refusal :=
  runServed (issue t (.fX 0x26 vd 0 sr mk w 0) (vbcast vd sr mk w)) s

/-- VGET (R373): Move lane 0 to a scalar register. -/
def execVget (t va sr w : Nat) (s : State) : Host.Outcome State Fault Refusal :=
  runServed (issue t (.fX 0x26 0 va sr 0 w 1) (vget va sr w)) s

/-- VLD (R379): 64-byte scratch load. -/
def execVld (t vd sr mk w : Nat) (s : State) : Host.Outcome State Fault Refusal :=
  runServed (issue t (.fX 0x26 vd 0 sr mk w 2) (fun m th => vld vd sr mk w m th t)) s

/-- VST (R379): 64-byte scratch store. -/
def execVst (t vd sr : Nat) (s : State) : Host.Outcome State Fault Refusal :=
  runServed (issue t (.fX 0x26 vd 0 sr 0 0 3) (fun m th => vst vd sr m th t)) s

/-- VSLD (R381): 64-byte window load. -/
def execVsld (t vd sr mk w : Nat) (s : State) : Host.Outcome State Fault Refusal :=
  runServed (issue t (.fX 0x26 vd 0 sr mk w 4) (vsld vd sr mk w)) s

/-- VSST (R381): 64-byte window store. -/
def execVsst (t vd sr : Nat) (s : State) : Host.Outcome State Fault Refusal :=
  runServed (issue t (.fX 0x26 vd 0 sr 0 0 5) (vsst vd sr)) s

/-- VPLD (R382): 64-byte pool load. -/
def execVpld (t vd sr mk w : Nat) (s : State) : Host.Outcome State Fault Refusal :=
  runServed (issue t (.fX 0x26 vd 0 sr mk w 6) (fun m th => vpld vd sr mk w m th t)) s

/-- VPST (R382): 64-byte pool store. -/
def execVpst (t vd sr : Nat) (s : State) : Host.Outcome State Fault Refusal :=
  runServed (issue t (.fX 0x26 vd 0 sr 0 0 7) (fun m th => vpst vd sr m th t)) s

/-- VGATH (R373): Gather 4-byte values from scratch. -/
def execVgath (t vd va sr mk : Nat) (s : State) : Host.Outcome State Fault Refusal :=
  runServed (issue t (.fX 0x26 vd va sr mk 0 8) (fun m th => vgath vd va sr mk m th t)) s

/-- VSCAT (R373): Scatter 4-byte values to scratch. -/
def execVscat (t vd va sr mk : Nat) (s : State) : Host.Outcome State Fault Refusal :=
  runServed (issue t (.fX 0x26 vd va sr mk 0 9) (fun m th => vscat vd va sr mk m th t)) s

/-- VDVAR (R378): Decode delta-varint indices from scratch. -/
def execVdvar (t vd sr mk : Nat) (s : State) : Host.Outcome State Fault Refusal :=
  runServed (issue t (.fX 0x26 vd 0 sr mk 0 10) (fun m th => vdvar vd sr mk m th t)) s

/-- VDEC (R376): Decode a block record into 32 FP32 values. -/
def execVdec (t vd sr mk : Nat) (s : State) : Host.Outcome State Fault Refusal :=
  runServed (issue t (.fX 0x26 vd 0 sr mk 0 11) (fun m th => vdec vd sr mk m th t)) s

/-- VENC (R376): Encode 32 FP32 values into a block record. -/
def execVenc (t vd sr : Nat) (s : State) : Host.Outcome State Fault Refusal :=
  runServed (issue t (.fX 0x26 vd 0 sr 0 0 12) (fun m th => venc vd sr m th t)) s

/-- VCVT (R376): Lane format conversion. -/
def execVcvt (t vd va sr mk : Nat) (s : State) : Host.Outcome State Fault Refusal :=
  runServed (issue t (.fX 0x26 vd va sr mk 0 13) (vcvt vd va sr mk)) s

/-- MPOPC (R373): Count set bits of a mask. -/
def execMpopc (t sr mk w : Nat) (s : State) : Host.Outcome State Fault Refusal :=
  runServed (issue t (.fX 0x26 0 0 sr mk w 14) (mpopc sr mk w)) s

end Sys2Proof.Machine
end

