-- ==== Sys2Proof/Machine/ExecWork.lean ====
section
/-! DEFINITION. Contexts, works, tables, calibration and expert batches (chapters 5 to 8): the meaning of each command. -/

namespace Sys2Proof.Machine
open Sys2Proof

/-- DOORBELL_RING (R229): A RING doorbell advances the write pointer and end-marks whole descriptors. -/
def execDoorbellRing (via : Via) (s : State) : Host.Outcome State Fault Refusal :=
  run (doorbellRx 0 via) s

/-- DOORBELL_CQ (R230): A CQ doorbell advances the completion-ring head, letting waiting records be written. -/
def execDoorbellCq (via : Via) (s : State) : Host.Outcome State Fault Refusal :=
  run (doorbellRx 1 via) s

/-- DOORBELL_FLUSH (R242): A FLUSH doorbell requests a flush of the context. -/
def execDoorbellFlush (via : Via) (s : State) : Host.Outcome State Fault Refusal :=
  run (doorbellRx 2 via) s

/-- DOORBELL_RESYNC (R236): A RESYNC doorbell returns a RESET context to ACTIVE or FLUSHING. -/
def execDoorbellResync (via : Via) (s : State) : Host.Outcome State Fault Refusal :=
  run (doorbellRx 3 via) s

/-- RING_WRITE (R233): A RING_WRITE message writes ring words and, with DOORBELL set, then applies a RING doorbell. -/
def execRingWrite (p : Pkt) (f : Pfx) (s : State) : Host.Outcome State Fault Refusal :=
  run (requestRx 0x20 p f) s

/-- CTX_GRANT (R222): The fabric manager grants a context, which becomes ACTIVE unless refused. -/
def execCtxGrant (src : Src) (body : CtxGrant) (s : State) : Host.Outcome State Fault Refusal :=
  runManaged { mop := 0x0130, grant := true } src (fun src => ctxGrant src body) s

/-- CTX_REVOKE (R223): A context enters REVOKING, is flushed and refuses doorbells. -/
def execCtxRevoke (src : Src) (ctx : Nat) (s : State) : Host.Outcome State Fault Refusal :=
  runManaged { mop := 0x0131 } src (fun src => ctxRevoke src ctx) s

/-- CTX_FLUSH (R242): A CTX_FLUSH message or a write of one to CTX_CTRL.FLUSH requests a flush at the next work boundary. -/
def execCtxFlush (src : Src) (ctx : Nat) (s : State) : Host.Outcome State Fault Refusal :=
  runManaged { mop := 0x0132 } src (fun src => ctxFlush src ctx) s

/-- CTX_QUERY (R496): CTX_QUERY returns the context's taken count, pointers, completion tail, state and packet counter. -/
def execCtxQuery (p : Pkt) (s : State) : Host.Outcome State Fault Refusal :=
  run (requestRx 0x22 p { target := 0, len := 0, arg := 0, operand := 0, compare := 0, data := [] }) s

/-- WORK_TAKE (R227): The dispatcher takes the next whole descriptor while the packet counter is non-zero and an in-flight slot is free. -/
def execWorkTake (ctx : Nat) (s : State) : Host.Outcome State Fault Refusal :=
  runServed (fun m => if bootStage m.core = stReady then takeWork ctx m else m) s

/-- WORK_SLICE_START (R248): The dispatcher starts a ready slice on the partition's clusters or engines by expert floor, deficit round robin and earliest deadline. -/
def execWorkSliceStart (ctx num ns : Nat) (s : State) : Host.Outcome State Fault Refusal :=
  runServedCore (startSlice ctx num ns) s

/-- WORK_DEADLINE (R70): A work's deadline boundary passes; it gets LATE and, under abort-on-deadline, stops ABORTED_DEADLINE. -/
def execWorkDeadline (ctx : Nat) (s : State) : Host.Outcome State Fault Refusal :=
  runServedCore (workDeadline ctx) s

/-- COMPLETION_RECORD_WRITE (R28): Once all writes of a work are visible and acknowledged, its completion record is written. -/
def execCompletionRecordWrite (ctx num : Nat) (s : State) : Host.Outcome State Fault Refusal :=
  runServedCore (writeRecord ctx num) s

/-- COMPLETION_ACKNOWLEDGED (R29): The agent's transport acknowledges a completion record; the work leaves flight and its sync increments are sent. -/
def execCompletionAcknowledged (ctx num : Nat) (s : State) : Host.Outcome State Fault Refusal :=
  runServedCore (recordAcked ctx num) s

/-- RESULT_WRITE_ACKNOWLEDGED (R491): Every packet of a RESULT_WRITE has been acknowledged. -/
def execResultWriteAcknowledged (ctx num : Nat) (s : State) : Host.Outcome State Fault Refusal :=
  runServedCore (writeAcked ctx num) s

/-- GATHER (R274): GATHER returns table rows by index, converted to the result format. -/
def execGather (ctx num : Nat) (s : State) : Host.Outcome State Fault Refusal :=
  runServed (boundOr 0x01 ctx num (gatherWork ctx num)) s

/-- GATHER_REDUCE (R276): GATHER_REDUCE reduces bags of rows into one result row per bag. -/
def execGatherReduce (ctx num : Nat) (s : State) : Host.Outcome State Fault Refusal :=
  runServed (boundOr 0x02 ctx num (reduceWork ctx num)) s

/-- SCATTER_ADD (R280): SCATTER_ADD adds scaled gradient rows into table rows. -/
def execScatterAdd (ctx num : Nat) (s : State) : Host.Outcome State Fault Refusal :=
  runServed (boundOr 0x03 ctx num (scatterWork ctx num)) s

/-- ROW_UPDATE (R285): ROW_UPDATE applies one optimizer step to each distinct named row. -/
def execRowUpdate (ctx num : Nat) (s : State) : Host.Outcome State Fault Refusal :=
  runServed (boundOr 0x04 ctx num (updateWork ctx num)) s

/-- ATOMIC (R292): ATOMIC applies a batch of indivisible operations to pool words or table elements. -/
def execAtomic (ctx num : Nat) (s : State) : Host.Outcome State Fault Refusal :=
  runServed (boundOr 0x05 ctx num (atomicWork ctx num)) s

/-- COPY (R297): COPY copies bits between table or raw references. -/
def execCopy (ctx num : Nat) (s : State) : Host.Outcome State Fault Refusal :=
  runServed (boundOr 0x06 ctx num (copyWork ctx num)) s

/-- FILL (R299): FILL writes a value into table rows or a pattern into raw bytes. -/
def execFill (ctx num : Nat) (s : State) : Host.Outcome State Fault Refusal :=
  runServed (boundOr 0x07 ctx num (fillWork ctx num)) s

/-- CONVERT (R298): CONVERT converts elements between formats. -/
def execConvert (ctx num : Nat) (s : State) : Host.Outcome State Fault Refusal :=
  runServed (boundOr 0x08 ctx num (convertWork ctx num)) s

/-- EXPERT_ROUTE (R327): EXPERT_ROUTE chooses each token's experts and sends entries to the chips holding them. -/
def execExpertRoute (ctx num : Nat) (s : State) : Host.Outcome State Fault Refusal :=
  runServed (routeWork ctx num) s

/-- EXPERT_FFN (R320): EXPERT_FFN evaluates tokens through local expert images without batching. -/
def execExpertFfn (ctx num : Nat) (s : State) : Host.Outcome State Fault Refusal :=
  runServed (boundOr 0x11 ctx num (ffnWork ctx num)) s

/-- SPMM (R337): SPMM multiplies a matrix object by dense columns and writes the result rows. -/
def execSpmm (ctx num : Nat) (s : State) : Host.Outcome State Fault Refusal :=
  runServed (boundOr 0x12 ctx num (spmmWork ctx num)) s

/-- CALIBRATE (R196): CALIBRATE writes a table's statistics report and may commit a scale plan. -/
def execCalibrate (ctx num : Nat) (s : State) : Host.Outcome State Fault Refusal :=
  runServed (calWork ctx num) s

/-- RECAST (R202): RECAST carries out a committed plan in steps of row groups. -/
def execRecast (ctx num : Nat) (s : State) : Host.Outcome State Fault Refusal :=
  runServed (recastWork ctx num) s

/-- RASP_PROGRAM (R403): RASP_PROGRAM runs instances of a registered program. -/
def execRaspProgram (ctx num : Nat) (s : State) : Host.Outcome State Fault Refusal :=
  runServedCore (raspWork ctx num) s

/-- WAIT (R423): WAIT holds until a sync object's count reaches a value. -/
def execWait (ctx num : Nat) (s : State) : Host.Outcome State Fault Refusal :=
  runServed (waitWork ctx num) s

/-- NOP (R256): NOP completes DONE with no body. -/
def execNop (ctx num : Nat) (s : State) : Host.Outcome State Fault Refusal :=
  runServed (nopWork ctx num) s

/-- TABLE_DEFINE (R180): A table is defined over an extent and its statistics and merge queue are allocated on its home plinth. -/
def execTableDefine (src : Src) (body : TableDef) (s : State) : Host.Outcome State Fault Refusal :=
  runManaged { mop := 0x0120 } src (fun src => tableDefine src body) s

/-- TABLE_DELETE (R183): A table number is freed unless its plan is RUNNING. -/
def execTableDelete (src : Src) (table : Nat) (s : State) : Host.Outcome State Fault Refusal :=
  runManaged { mop := 0x0121 } src (fun src => tableDelete src table) s

/-- RECAST_STEP (R204): A recast step takes the next group of up to 64 rows, reads them, computes new scales and writes shadows and inactive planes. -/
def execRecastStep (table ns left : Nat) (s : State) : Host.Outcome State Fault Refusal :=
  runServed (recastStep table ns left) s

/-- ROW_FLIP (R205): A PREPARED row's shadow and inactive plane are written; its epoch bit flips and its redirect is set. -/
def execRowFlip (table row : Nat) (s : State) : Host.Outcome State Fault Refusal :=
  runServed (rowFlip table row) s

/-- COPY_BACK_START (R207): Every read of a FLIPPED row that selected the old plane has retired, and the copy-back starts. -/
def execCopyBackStart (table row : Nat) (s : State) : Host.Outcome State Fault Refusal :=
  runServed (copyBackStart table row) s

/-- COPY_BACK_DONE (R205): The copy-back completes: the redirect clears, queued writes replay at the new encoding, and the row is HOME. -/
def execCopyBackDone (table row : Nat) (s : State) : Host.Outcome State Fault Refusal :=
  runServed (copyBackDone table row) s

/-- SHADOW_SLOT_FREE (R207): Every read through a slot's redirect has retired and the slot returns to the table's free slots. -/
def execShadowSlotFree (table slot : Nat) (s : State) : Host.Outcome State Fault Refusal :=
  runServed (shadowSlotFree table slot) s

/-- EXPERT_BATCH_START (R330): In tick t + 1 the holding chip starts computing batch B(I, t) within the partition's expert share. -/
def execExpertBatchStart (image : W64) (tick : Nat) (s : State) : Host.Outcome State Fault Refusal :=
  runServed (batchStart image tick) s

/-- EXPERT_CONTRIBUTION (R331): A contribution or refusal arrives at the routing chip and is combined into the token's slot. -/
def execExpertContribution (p : Pkt) (tag code sat nonfin len : Nat) (data : List Byte) (s : State) : Host.Outcome State Fault Refusal :=
  runCore (expertContribution p tag code sat nonfin len data) s

/-- EXPERT_ENTRY_TIMEOUT (R332): A forwarded entry has no answer by tick s + 3 and its assignment is FAILED with LINK_LOST. -/
def execExpertEntryTimeout (tag : Nat) (s : State) : Host.Outcome State Fault Refusal :=
  runServedCore (entryTimeout tag) s

/-- EXPERT_CANCEL (R334): A route that stops early tells holding chips to cancel its remaining entries. -/
def execExpertCancel (chip ctx num : Nat) (s : State) : Host.Outcome State Fault Refusal :=
  runServedCore (cancelEntries chip ctx num) s

end Sys2Proof.Machine
end

