-- ==== Sys2Proof/Machine/Dispatch.lean ====
section
/-! DEFINITION. One arm per command: the meaning of each is one definition of an Exec file. -/

namespace Sys2Proof.Machine
open Sys2Proof

-- Obligations of the user (R3) are not enforced here. DESIGN CHOICE, assumption 85 (unsafe).
def exec (i : Instr) (s : State) : Host.Outcome State Fault Refusal :=
  match i with
  | .pwrGoodRise => Sys2Proof.Machine.execPwrGoodRise s
  | .pwrGoodFall => Sys2Proof.Machine.execPwrGoodFall s
  | .warmReset pin src => Sys2Proof.Machine.execWarmReset pin src s
  | .bootRomStart time => Sys2Proof.Machine.execBootRomStart time s
  | .flashHeaderCheck end2 => Sys2Proof.Machine.execFlashHeaderCheck end2 s
  | .signedObjectVerify imgEd imgMl cfgEd cfgMl time => Sys2Proof.Machine.execSignedObjectVerify imgEd imgMl cfgEd cfgMl time s
  | .configurationApply d time => Sys2Proof.Machine.execConfigurationApply d time s
  | .stackTrainingEnd failed time => Sys2Proof.Machine.execStackTrainingEnd failed time s
  | .fillDone time => Sys2Proof.Machine.execFillDone time s
  | .bootLoaderHalt => Sys2Proof.Machine.execBootLoaderHalt s
  | .startProgramsPlaced time => Sys2Proof.Machine.execStartProgramsPlaced time s
  | .tickBoundary time excess temps => Sys2Proof.Machine.execTickBoundary time excess temps s
  | .tickMasterChange => Sys2Proof.Machine.execTickMasterChange s
  | .handover src => Sys2Proof.Machine.execHandover src s
  | .tick p tick correction master priority => Sys2Proof.Machine.execTick p tick correction master priority s
  | .tickInEdge time excess temps => Sys2Proof.Machine.execTickInEdge time excess temps s
  | .tickInMissing time excess temps => Sys2Proof.Machine.execTickInMissing time excess temps s
  | .ppsEdge time => Sys2Proof.Machine.execPpsEdge time s
  | .ptpMessage port packet time => Sys2Proof.Machine.execPtpMessage port packet time s
  | .tickReferenceLost => Sys2Proof.Machine.execTickReferenceLost s
  | .tickOutPulseEnd time => Sys2Proof.Machine.execTickOutPulseEnd time s
  | .tickBudget1Write src value => Sys2Proof.Machine.execTickBudget1Write src value s
  | .tickOverrunEscalated => Sys2Proof.Machine.execTickOverrunEscalated s
  | .overrunCleared => Sys2Proof.Machine.execOverrunCleared s
  | .heartbeat p origin priority alive count state crc => Sys2Proof.Machine.execHeartbeat p origin priority alive count state crc s
  | .codebookWrite src codebook reg value => Sys2Proof.Machine.execCodebookWrite src codebook reg value s
  | .regRead src addr width count => Sys2Proof.Machine.execRegRead src addr width count s
  | .regWrite src addr width data => Sys2Proof.Machine.execRegWrite src addr width data s
  | .readClear src addr => Sys2Proof.Machine.execReadClear src addr s
  | .eventLogRead src index => Sys2Proof.Machine.execEventLogRead src index s
  | .i2cPointerWrite toScratch value => Sys2Proof.Machine.execI2cPointerWrite toScratch value s
  | .i2cRead => Sys2Proof.Machine.execI2cRead s
  | .perfClear src => Sys2Proof.Machine.execPerfClear src s
  | .evtInject src code kind unit => Sys2Proof.Machine.execEvtInject src code kind unit s
  | .atelierWatchdog time => Sys2Proof.Machine.execAtelierWatchdog time s
  | .atelierRestartEnd time measured => Sys2Proof.Machine.execAtelierRestartEnd time measured s
  | .pairLinkFailure link => Sys2Proof.Machine.execPairLinkFailure link s
  | .testFenceEngine src engine => Sys2Proof.Machine.execTestFenceEngine src engine s
  | .testFenceCluster src cluster => Sys2Proof.Machine.execTestFenceCluster src cluster s
  | .extGrant src body => Sys2Proof.Machine.execExtGrant src body s
  | .extWithdraw src extent => Sys2Proof.Machine.execExtWithdraw src extent s
  | .extFree src extent => Sys2Proof.Machine.execExtFree src extent s
  | .extMigrate src extent cls => Sys2Proof.Machine.execExtMigrate src extent cls s
  | .frameMigrated extent frame => Sys2Proof.Machine.execFrameMigrated extent frame s
  | .invalidateWithdraw src chip extent first count => Sys2Proof.Machine.execInvalidateWithdraw src chip extent first count s
  | .invalidateDiscard src chip extent first count => Sys2Proof.Machine.execInvalidateDiscard src chip extent first count s
  | .invalidate p chip extent first count discard sender recv => Sys2Proof.Machine.execInvalidate p chip extent first count discard sender recv s
  | .snapshotRetired extent => Sys2Proof.Machine.execSnapshotRetired extent s
  | .quarantineRecordFree => Sys2Proof.Machine.execQuarantineRecordFree s
  | .frameFillDone partition => Sys2Proof.Machine.execFrameFillDone partition s
  | .quotaWaitExpiry who => Sys2Proof.Machine.execQuotaWaitExpiry who s
  | .compressionStart extent frame => Sys2Proof.Machine.execCompressionStart extent frame s
  | .compressionDone extent frame => Sys2Proof.Machine.execCompressionDone extent frame s
  | .frameRestored extent frame => Sys2Proof.Machine.execFrameRestored extent frame s
  | .leaseGrant src agent ms => Sys2Proof.Machine.execLeaseGrant src agent ms s
  | .leaseRenew src agent => Sys2Proof.Machine.execLeaseRenew src agent s
  | .leaseExpiry agent time => Sys2Proof.Machine.execLeaseExpiry agent time s
  | .regionDefine p f => Sys2Proof.Machine.execRegionDefine p f s
  | .publish p f => Sys2Proof.Machine.execPublish p f s
  | .versionQuery p f => Sys2Proof.Machine.execVersionQuery p f s
  | .prefetch p f => Sys2Proof.Machine.execPrefetch p f s
  | .adviseCold p f => Sys2Proof.Machine.execAdviseCold p f s
  | .adviseWarm p f => Sys2Proof.Machine.execAdviseWarm p f s
  | .adviseSubscribe p f => Sys2Proof.Machine.execAdviseSubscribe p f s
  | .adviseUnsubscribe p f => Sys2Proof.Machine.execAdviseUnsubscribe p f s
  | .adviseDiscard p f => Sys2Proof.Machine.execAdviseDiscard p f s
  | .tableDefine src body => Sys2Proof.Machine.execTableDefine src body s
  | .tableDelete src table => Sys2Proof.Machine.execTableDelete src table s
  | .recastStep table ns left => Sys2Proof.Machine.execRecastStep table ns left s
  | .rowFlip table row => Sys2Proof.Machine.execRowFlip table row s
  | .copyBackStart table row => Sys2Proof.Machine.execCopyBackStart table row s
  | .copyBackDone table row => Sys2Proof.Machine.execCopyBackDone table row s
  | .shadowSlotFree table slot => Sys2Proof.Machine.execShadowSlotFree table slot s
  | .doorbellRing via => Sys2Proof.Machine.execDoorbellRing via s
  | .doorbellCq via => Sys2Proof.Machine.execDoorbellCq via s
  | .doorbellFlush via => Sys2Proof.Machine.execDoorbellFlush via s
  | .doorbellResync via => Sys2Proof.Machine.execDoorbellResync via s
  | .ringWrite p f => Sys2Proof.Machine.execRingWrite p f s
  | .ctxGrant src body => Sys2Proof.Machine.execCtxGrant src body s
  | .ctxRevoke src ctx => Sys2Proof.Machine.execCtxRevoke src ctx s
  | .ctxFlush src ctx => Sys2Proof.Machine.execCtxFlush src ctx s
  | .ctxQuery p => Sys2Proof.Machine.execCtxQuery p s
  | .workTake ctx => Sys2Proof.Machine.execWorkTake ctx s
  | .workSliceStart ctx num ns => Sys2Proof.Machine.execWorkSliceStart ctx num ns s
  | .workDeadline ctx => Sys2Proof.Machine.execWorkDeadline ctx s
  | .parkResume who => Sys2Proof.Machine.execParkResume who s
  | .completionRecordWrite ctx num => Sys2Proof.Machine.execCompletionRecordWrite ctx num s
  | .completionAcknowledged ctx num => Sys2Proof.Machine.execCompletionAcknowledged ctx num s
  | .gather ctx num => Sys2Proof.Machine.execGather ctx num s
  | .gatherReduce ctx num => Sys2Proof.Machine.execGatherReduce ctx num s
  | .scatterAdd ctx num => Sys2Proof.Machine.execScatterAdd ctx num s
  | .rowUpdate ctx num => Sys2Proof.Machine.execRowUpdate ctx num s
  | .atomic ctx num => Sys2Proof.Machine.execAtomic ctx num s
  | .copy ctx num => Sys2Proof.Machine.execCopy ctx num s
  | .fill ctx num => Sys2Proof.Machine.execFill ctx num s
  | .convert ctx num => Sys2Proof.Machine.execConvert ctx num s
  | .expertRoute ctx num => Sys2Proof.Machine.execExpertRoute ctx num s
  | .expertFfn ctx num => Sys2Proof.Machine.execExpertFfn ctx num s
  | .spmm ctx num => Sys2Proof.Machine.execSpmm ctx num s
  | .calibrate ctx num => Sys2Proof.Machine.execCalibrate ctx num s
  | .recast ctx num => Sys2Proof.Machine.execRecast ctx num s
  | .raspProgram ctx num => Sys2Proof.Machine.execRaspProgram ctx num s
  | .wait ctx num => Sys2Proof.Machine.execWait ctx num s
  | .nop ctx num => Sys2Proof.Machine.execNop ctx num s
  | .expertBatchStart image tick => Sys2Proof.Machine.execExpertBatchStart image tick s
  | .expertContribution p tag code sat nonfin len data => Sys2Proof.Machine.execExpertContribution p tag code sat nonfin len data s
  | .expertEntryTimeout tag => Sys2Proof.Machine.execExpertEntryTimeout tag s
  | .expertCancel chip ctx num => Sys2Proof.Machine.execExpertCancel chip ctx num s
  | .instanceStart ctx num t => Sys2Proof.Machine.execInstanceStart ctx num t s
  | .threadResume ctx num inst t => Sys2Proof.Machine.execThreadResume ctx num inst t s
  | .stepLimitExpiry t => Sys2Proof.Machine.execStepLimitExpiry t s
  | .poolLoadReturn t => Sys2Proof.Machine.execPoolLoadReturn t s
  | .unitCommandEnd t tag => Sys2Proof.Machine.execUnitCommandEnd t tag s
  | .engineCommandEnd t id => Sys2Proof.Machine.execEngineCommandEnd t id s
  | .reservedInstruction t word => Sys2Proof.Machine.execReservedInstruction t word s
  | .add t d a b => Sys2Proof.Machine.execAdd t d a b s
  | .sub t d a b => Sys2Proof.Machine.execSub t d a b s
  | .and t d a b => Sys2Proof.Machine.execAnd t d a b s
  | .or t d a b => Sys2Proof.Machine.execOr t d a b s
  | .xor t d a b => Sys2Proof.Machine.execXor t d a b s
  | .shl t d a b => Sys2Proof.Machine.execShl t d a b s
  | .shr t d a b => Sys2Proof.Machine.execShr t d a b s
  | .sar t d a b => Sys2Proof.Machine.execSar t d a b s
  | .slt t d a b => Sys2Proof.Machine.execSlt t d a b s
  | .sltu t d a b => Sys2Proof.Machine.execSltu t d a b s
  | .min t d a b => Sys2Proof.Machine.execMin t d a b s
  | .max t d a b => Sys2Proof.Machine.execMax t d a b s
  | .minu t d a b => Sys2Proof.Machine.execMinu t d a b s
  | .maxu t d a b => Sys2Proof.Machine.execMaxu t d a b s
  | .mul t d a b => Sys2Proof.Machine.execMul t d a b s
  | .mulh t d a b => Sys2Proof.Machine.execMulh t d a b s
  | .mulhu t d a b => Sys2Proof.Machine.execMulhu t d a b s
  | .div t d a b => Sys2Proof.Machine.execDiv t d a b s
  | .divu t d a b => Sys2Proof.Machine.execDivu t d a b s
  | .rem t d a b => Sys2Proof.Machine.execRem t d a b s
  | .remu t d a b => Sys2Proof.Machine.execRemu t d a b s
  | .clz t d a => Sys2Proof.Machine.execClz t d a s
  | .popc t d a => Sys2Proof.Machine.execPopc t d a s
  | .bswap t d a => Sys2Proof.Machine.execBswap t d a s
  | .addi t d a imm => Sys2Proof.Machine.execAddi t d a imm s
  | .andi t d a imm => Sys2Proof.Machine.execAndi t d a imm s
  | .ori t d a imm => Sys2Proof.Machine.execOri t d a imm s
  | .xori t d a imm => Sys2Proof.Machine.execXori t d a imm s
  | .shli t d a sh => Sys2Proof.Machine.execShli t d a sh s
  | .shri t d a sh => Sys2Proof.Machine.execShri t d a sh s
  | .sari t d a sh => Sys2Proof.Machine.execSari t d a sh s
  | .slti t d a imm => Sys2Proof.Machine.execSlti t d a imm s
  | .movi t d imm => Sys2Proof.Machine.execMovi t d imm s
  | .movk t d c imm => Sys2Proof.Machine.execMovk t d c imm s
  | .ld8u t d a imm => Sys2Proof.Machine.execLd8u t d a imm s
  | .ld16u t d a imm => Sys2Proof.Machine.execLd16u t d a imm s
  | .ld32u t d a imm => Sys2Proof.Machine.execLd32u t d a imm s
  | .ld64 t d a imm => Sys2Proof.Machine.execLd64 t d a imm s
  | .st8 t d a imm => Sys2Proof.Machine.execSt8 t d a imm s
  | .st16 t d a imm => Sys2Proof.Machine.execSt16 t d a imm s
  | .st32 t d a imm => Sys2Proof.Machine.execSt32 t d a imm s
  | .st64 t d a imm => Sys2Proof.Machine.execSt64 t d a imm s
  | .sld64 t d a imm => Sys2Proof.Machine.execSld64 t d a imm s
  | .sst64 t d a imm => Sys2Proof.Machine.execSst64 t d a imm s
  | .pld64 t d a imm => Sys2Proof.Machine.execPld64 t d a imm s
  | .pst64 t d a imm => Sys2Proof.Machine.execPst64 t d a imm s
  | .beq t a b off => Sys2Proof.Machine.execBeq t a b off s
  | .bne t a b off => Sys2Proof.Machine.execBne t a b off s
  | .blt t a b off => Sys2Proof.Machine.execBlt t a b off s
  | .bge t a b off => Sys2Proof.Machine.execBge t a b off s
  | .bltu t a b off => Sys2Proof.Machine.execBltu t a b off s
  | .bgeu t a b off => Sys2Proof.Machine.execBgeu t a b off s
  | .jal t off => Sys2Proof.Machine.execJal t off s
  | .jr t d a => Sys2Proof.Machine.execJr t d a s
  | .fadd t d a b => Sys2Proof.Machine.execFadd t d a b s
  | .fsub t d a b => Sys2Proof.Machine.execFsub t d a b s
  | .fmul t d a b => Sys2Proof.Machine.execFmul t d a b s
  | .fdiv t d a b => Sys2Proof.Machine.execFdiv t d a b s
  | .fsqrt t d a => Sys2Proof.Machine.execFsqrt t d a s
  | .fmin t d a b => Sys2Proof.Machine.execFmin t d a b s
  | .fmax t d a b => Sys2Proof.Machine.execFmax t d a b s
  | .ffma t d a b => Sys2Proof.Machine.execFfma t d a b s
  | .feq t d a b => Sys2Proof.Machine.execFeq t d a b s
  | .flt t d a b => Sys2Proof.Machine.execFlt t d a b s
  | .fle t d a b => Sys2Proof.Machine.execFle t d a b s
  | .itof t d a => Sys2Proof.Machine.execItof t d a s
  | .ftoi t d a => Sys2Proof.Machine.execFtoi t d a s
  | .cvts t d a b => Sys2Proof.Machine.execCvts t d a b s
  | .uwait t d a => Sys2Proof.Machine.execUwait t d a s
  | .ceacq t d => Sys2Proof.Machine.execCeacq t d s
  | .cewait t d a => Sys2Proof.Machine.execCewait t d a s
  | .cerel t => Sys2Proof.Machine.execCerel t s
  | .sinc t a => Sys2Proof.Machine.execSinc t a s
  | .sread t d a => Sys2Proof.Machine.execSread t d a s
  | .swait t a b => Sys2Proof.Machine.execSwait t a b s
  | .stest t d a b => Sys2Proof.Machine.execStest t d a b s
  | .samoAdd t d a b => Sys2Proof.Machine.execSamoAdd t d a b s
  | .samoCas t d a b => Sys2Proof.Machine.execSamoCas t d a b s
  | .step t spent => Sys2Proof.Machine.execStep t spent s
  | .exit t a b => Sys2Proof.Machine.execExit t a b s
  | .getsr t d b => Sys2Proof.Machine.execGetsr t d b s
  | .setsr t d a => Sys2Proof.Machine.execSetsr t d a s
  | .brk t => Sys2Proof.Machine.execBrk t s
  | .yield t => Sys2Proof.Machine.execYield t s
  | .nopInstruction t => Sys2Proof.Machine.execNopInstruction t s
  | .pfence t => Sys2Proof.Machine.execPfence t s
  | .vadd t vd va vb mk w => Sys2Proof.Machine.execVadd t vd va vb mk w s
  | .vsub t vd va vb mk w => Sys2Proof.Machine.execVsub t vd va vb mk w s
  | .vand t vd va vb mk w => Sys2Proof.Machine.execVand t vd va vb mk w s
  | .vor t vd va vb mk w => Sys2Proof.Machine.execVor t vd va vb mk w s
  | .vxor t vd va vb mk w => Sys2Proof.Machine.execVxor t vd va vb mk w s
  | .vshl t vd va vb mk w => Sys2Proof.Machine.execVshl t vd va vb mk w s
  | .vshr t vd va vb mk w => Sys2Proof.Machine.execVshr t vd va vb mk w s
  | .vsar t vd va vb mk w => Sys2Proof.Machine.execVsar t vd va vb mk w s
  | .vmin t vd va vb mk w => Sys2Proof.Machine.execVmin t vd va vb mk w s
  | .vmax t vd va vb mk w => Sys2Proof.Machine.execVmax t vd va vb mk w s
  | .vminu t vd va vb mk w => Sys2Proof.Machine.execVminu t vd va vb mk w s
  | .vmaxu t vd va vb mk w => Sys2Proof.Machine.execVmaxu t vd va vb mk w s
  | .vmul t vd va vb mk w => Sys2Proof.Machine.execVmul t vd va vb mk w s
  | .vceq t vd va vb mk w => Sys2Proof.Machine.execVceq t vd va vb mk w s
  | .vclt t vd va vb mk w => Sys2Proof.Machine.execVclt t vd va vb mk w s
  | .vcltu t vd va vb mk w => Sys2Proof.Machine.execVcltu t vd va vb mk w s
  | .vsel t vd va vb mk w => Sys2Proof.Machine.execVsel t vd va vb mk w s
  | .vperm t vd va vb mk w => Sys2Proof.Machine.execVperm t vd va vb mk w s
  | .vcomp t vd va mk w => Sys2Proof.Machine.execVcomp t vd va mk w s
  | .vexp t vd va vb mk w => Sys2Proof.Machine.execVexp t vd va vb mk w s
  | .vscan t vd va mk w => Sys2Proof.Machine.execVscan t vd va mk w s
  | .vredadd t vd va mk w => Sys2Proof.Machine.execVredadd t vd va mk w s
  | .vredmax t vd va mk w => Sys2Proof.Machine.execVredmax t vd va mk w s
  | .vredmaxu t vd va mk w => Sys2Proof.Machine.execVredmaxu t vd va mk w s
  | .vsort t vd va => Sys2Proof.Machine.execVsort t vd va s
  | .vuniq t vd va mk => Sys2Proof.Machine.execVuniq t vd va mk s
  | .vfadd t vd va vb mk => Sys2Proof.Machine.execVfadd t vd va vb mk s
  | .vfsub t vd va vb mk => Sys2Proof.Machine.execVfsub t vd va vb mk s
  | .vfmul t vd va vb mk => Sys2Proof.Machine.execVfmul t vd va vb mk s
  | .vfdiv t vd va vb mk => Sys2Proof.Machine.execVfdiv t vd va vb mk s
  | .vfsqrt t vd va mk => Sys2Proof.Machine.execVfsqrt t vd va mk s
  | .vfmin t vd va vb mk => Sys2Proof.Machine.execVfmin t vd va vb mk s
  | .vfmax t vd va vb mk => Sys2Proof.Machine.execVfmax t vd va vb mk s
  | .vffma t vd va vb mk => Sys2Proof.Machine.execVffma t vd va vb mk s
  | .vfeq t vd va vb mk => Sys2Proof.Machine.execVfeq t vd va vb mk s
  | .vflt t vd va vb mk => Sys2Proof.Machine.execVflt t vd va vb mk s
  | .vfle t vd va vb mk => Sys2Proof.Machine.execVfle t vd va vb mk s
  | .vfredsum t vd va mk => Sys2Proof.Machine.execVfredsum t vd va mk s
  | .vfredmax t vd va mk => Sys2Proof.Machine.execVfredmax t vd va mk s
  | .vbcast t vd sr mk w => Sys2Proof.Machine.execVbcast t vd sr mk w s
  | .vget t va sr w => Sys2Proof.Machine.execVget t va sr w s
  | .vld t vd sr mk w => Sys2Proof.Machine.execVld t vd sr mk w s
  | .vst t vd sr => Sys2Proof.Machine.execVst t vd sr s
  | .vsld t vd sr mk w => Sys2Proof.Machine.execVsld t vd sr mk w s
  | .vsst t vd sr => Sys2Proof.Machine.execVsst t vd sr s
  | .vpld t vd sr mk w => Sys2Proof.Machine.execVpld t vd sr mk w s
  | .vpst t vd sr => Sys2Proof.Machine.execVpst t vd sr s
  | .vgath t vd va sr mk => Sys2Proof.Machine.execVgath t vd va sr mk s
  | .vscat t vd va sr mk => Sys2Proof.Machine.execVscat t vd va sr mk s
  | .vdvar t vd sr mk => Sys2Proof.Machine.execVdvar t vd sr mk s
  | .vdec t vd sr mk => Sys2Proof.Machine.execVdec t vd sr mk s
  | .venc t vd sr => Sys2Proof.Machine.execVenc t vd sr s
  | .vcvt t vd va sr mk => Sys2Proof.Machine.execVcvt t vd va sr mk s
  | .mpopc t sr mk w => Sys2Proof.Machine.execMpopc t sr mk w s
  | .dmaGet t d a => Sys2Proof.Machine.execDmaGet t d a s
  | .dmaPut t d a => Sys2Proof.Machine.execDmaPut t d a s
  | .dmaOut t d a => Sys2Proof.Machine.execDmaOut t d a s
  | .dmaTowin t d a => Sys2Proof.Machine.execDmaTowin t d a s
  | .dmaFromwin t d a => Sys2Proof.Machine.execDmaFromwin t d a s
  | .tld t d a => Sys2Proof.Machine.execTld t d a s
  | .tst t d a => Sys2Proof.Machine.execTst t d a s
  | .tadd t d a => Sys2Proof.Machine.execTadd t d a s
  | .sort t d a => Sys2Proof.Machine.execSort t d a s
  | .pamo t d a => Sys2Proof.Machine.execPamo t d a s
  | .loadPane t d a => Sys2Proof.Machine.execLoadPane t d a s
  | .loadAct t d a => Sys2Proof.Machine.execLoadAct t d a s
  | .run t d a => Sys2Proof.Machine.execRun t d a s
  | .drain t d a => Sys2Proof.Machine.execDrain t d a s
  | .progRegister src part slot image => Sys2Proof.Machine.execProgRegister src part slot image s
  | .progUnregister src handle => Sys2Proof.Machine.execProgUnregister src handle s
  | .progBind src part opcode handle insts window => Sys2Proof.Machine.execProgBind src part opcode handle insts window s
  | .progUnbind src part opcode => Sys2Proof.Machine.execProgUnbind src part opcode s
  | .syncGrant src first count partition owner => Sys2Proof.Machine.execSyncGrant src first count partition owner s
  | .syncFree src first count => Sys2Proof.Machine.execSyncFree src first count s
  | .syncIncrement object => Sys2Proof.Machine.execSyncIncrement object s
  | .syncInc p f => Sys2Proof.Machine.execSyncInc p f s
  | .syncRead p f => Sys2Proof.Machine.execSyncRead p f s
  | .syncArm p f => Sys2Proof.Machine.execSyncArm p f s
  | .syncReset p f => Sys2Proof.Machine.execSyncReset p f s
  | .syncDeadline object => Sys2Proof.Machine.execSyncDeadline object s
  | .cohDomainCreate src body => Sys2Proof.Machine.execCohDomainCreate src body s
  | .cohDomainDestroy src domain => Sys2Proof.Machine.execCohDomainDestroy src domain s
  | .cohDomainDown src domain => Sys2Proof.Machine.execCohDomainDown src domain s
  | .cohMemberAdd src domain member agent ctx => Sys2Proof.Machine.execCohMemberAdd src domain member agent ctx s
  | .cohMemberRemove src domain member => Sys2Proof.Machine.execCohMemberRemove src domain member s
  | .getS p x => Sys2Proof.Machine.execGetS p x s
  | .getM p x => Sys2Proof.Machine.execGetM p x s
  | .putM p x => Sys2Proof.Machine.execPutM p x s
  | .putS p x => Sys2Proof.Machine.execPutS p x s
  | .fwdAck p x => Sys2Proof.Machine.execFwdAck p x s
  | .recallAck p x => Sys2Proof.Machine.execRecallAck p x s
  | .invAck p x => Sys2Proof.Machine.execInvAck p x s
  | .evicted p x => Sys2Proof.Machine.execEvicted p x s
  | .reservationExpiry line time => Sys2Proof.Machine.execReservationExpiry line time s
  | .cohTimeout line time => Sys2Proof.Machine.execCohTimeout line time s
  | .drainEnd domain time => Sys2Proof.Machine.execDrainEnd domain time s
  | .sessionOpen src body => Sys2Proof.Machine.execSessionOpen src body s
  | .sessionClose src session => Sys2Proof.Machine.execSessionClose src session s
  | .ack p base rcr map => Sys2Proof.Machine.execAck p base rcr map s
  | .probe p stamp => Sys2Proof.Machine.execProbe p stamp s
  | .probeReply p => Sys2Proof.Machine.execProbeReply p s
  | .probeTimer session time => Sys2Proof.Machine.execProbeTimer session time s
  | .ackDelayExpiry session time => Sys2Proof.Machine.execAckDelayExpiry session time s
  | .retransmitTimeout session seq time => Sys2Proof.Machine.execRetransmitTimeout session seq time s
  | .graceEnd session time => Sys2Proof.Machine.execGraceEnd session time s
  | .read p f => Sys2Proof.Machine.execRead p f s
  | .write p f => Sys2Proof.Machine.execWrite p f s
  | .atomic64 p f => Sys2Proof.Machine.execAtomic64 p f s
  | .reply p status count detail value value2 => Sys2Proof.Machine.execReply p status count detail value value2 s
  | .resultWriteAcknowledged ctx num => Sys2Proof.Machine.execResultWriteAcknowledged ctx num s
  | .qpCreate src body => Sys2Proof.Machine.execQpCreate src body s
  | .qpDestroy src qp => Sys2Proof.Machine.execQpDestroy src qp s
  | .rdmaWrite p => Sys2Proof.Machine.execRdmaWrite p s
  | .rdmaRead p => Sys2Proof.Machine.execRdmaRead p s
  | .compareSwap p swap compare => Sys2Proof.Machine.execCompareSwap p swap compare s
  | .fetchAdd p add => Sys2Proof.Machine.execFetchAdd p add s
  | .roceInvalidRequest p => Sys2Proof.Machine.execRoceInvalidRequest p s
  | .roceAck p nak => Sys2Proof.Machine.execRoceAck p nak s
  | .linkUp port sub time => Sys2Proof.Machine.execLinkUp port sub time s
  | .linkDown port sub time => Sys2Proof.Machine.execLinkDown port sub time s
  | .ringHello p chip => Sys2Proof.Machine.execRingHello p chip s
  | .ringJoin src chip => Sys2Proof.Machine.execRingJoin src chip s
  | .ringLeave src chip => Sys2Proof.Machine.execRingLeave src chip s
  | .ringPrepare src chip west east => Sys2Proof.Machine.execRingPrepare src chip west east s
  | .joinRequest p chip priority => Sys2Proof.Machine.execJoinRequest p chip priority s
  | .joinAccept p master => Sys2Proof.Machine.execJoinAccept p master s
  | .joinRefused p reason master => Sys2Proof.Machine.execJoinRefused p reason master s
  | .joinTimeout time => Sys2Proof.Machine.execJoinTimeout time s
  | .ringAdmission => Sys2Proof.Machine.execRingAdmission s
  | .routeUpdate p version members => Sys2Proof.Machine.execRouteUpdate p version members s
  | .routeDrained => Sys2Proof.Machine.execRouteDrained s
  | .ringDrained p chip version => Sys2Proof.Machine.execRingDrained p chip version s
  | .memberLost chip => Sys2Proof.Machine.execMemberLost chip s
  | .forward p x => Sys2Proof.Machine.execForward p x s
  | .forwardReply p x => Sys2Proof.Machine.execForwardReply p x s
  | .forwardTimeout tag => Sys2Proof.Machine.execForwardTimeout tag s
  | .writeQueueEntry stack pc bank row col word0 word1 hk time => Sys2Proof.Machine.execWriteQueueEntry stack pc bank row col word0 word1 hk time s
  | .readQueueEntry stack pc bank row col hk scrub => Sys2Proof.Machine.execReadQueueEntry stack pc bank row col hk scrub s
  | .burstIssue stack pc time => Sys2Proof.Machine.execBurstIssue stack pc time s
  | .writeAgeExpiry stack pc time => Sys2Proof.Machine.execWriteAgeExpiry stack pc time s
  | .refresh stack pc bank => Sys2Proof.Machine.execRefresh stack pc bank s
  | .retrainPc => Sys2Proof.Machine.execRetrainPc s
  | .retrainEnd stack pc centred marginPs => Sys2Proof.Machine.execRetrainEnd stack pc centred marginPs s
  | .memTrainNow src stack target => Sys2Proof.Machine.execMemTrainNow src stack target s
  | .writeBack word => Sys2Proof.Machine.execWriteBack word s
  | .lanePeriodEnd => Sys2Proof.Machine.execLanePeriodEnd s
  | .scrubStep stack pc ns time => Sys2Proof.Machine.execScrubStep stack pc ns time s
  | .eccFlipArm src => Sys2Proof.Machine.execEccFlipArm src s
  | .rebuildStep ns => Sys2Proof.Machine.execRebuildStep ns s
  | .spareWatchWake patternMatches => Sys2Proof.Machine.execSpareWatchWake patternMatches s
  | .replicaWrite p x => Sys2Proof.Machine.execReplicaWrite p x s
  | .replicaResync p x => Sys2Proof.Machine.execReplicaResync p x s
  | .replicaFetch p x => Sys2Proof.Machine.execReplicaFetch p x s
  | .replicaHealth p x => Sys2Proof.Machine.execReplicaHealth p x s
  | .replicaDigest p x => Sys2Proof.Machine.execReplicaDigest p x s
  | .replicaWriteTimeout extent frame fseq => Sys2Proof.Machine.execReplicaWriteTimeout extent frame fseq s
  | .partnerLost => Sys2Proof.Machine.execPartnerLost s
  | .pairParkTimeout who => Sys2Proof.Machine.execPairParkTimeout who s
  | .pairKeyInChange asserted => Sys2Proof.Machine.execPairKeyInChange asserted s
  | .keyGuardEnd time => Sys2Proof.Machine.execKeyGuardEnd time s
  | .keySettleEnd time => Sys2Proof.Machine.execKeySettleEnd time s
  | .keyRetryTimer time => Sys2Proof.Machine.execKeyRetryTimer time s
  | .keyRelease => Sys2Proof.Machine.execKeyRelease s
  | .pairPromote src force => Sys2Proof.Machine.execPairPromote src force s
  | .pairRelease src => Sys2Proof.Machine.execPairRelease src s
  | .pairRecover src => Sys2Proof.Machine.execPairRecover src s
  | .pairResyncCopy ns => Sys2Proof.Machine.execPairResyncCopy ns s
  | .attest x => Sys2Proof.Machine.execAttest x s
  | .mgmtKeyEstablish src nonce sigOk time => Sys2Proof.Machine.execMgmtKeyEstablish src nonce sigOk time s
  | .partKeyEstablish src partition nonce time => Sys2Proof.Machine.execPartKeyEstablish src partition nonce time s
  | .keyLoad src slot owner unwraps time => Sys2Proof.Machine.execKeyLoad src slot owner unwraps time s
  | .oldKeyExpiry slot time => Sys2Proof.Machine.execOldKeyExpiry slot time s
  | .keyUnload src slot => Sys2Proof.Machine.execKeyUnload src slot s
  | .partRemove src partition => Sys2Proof.Machine.execPartRemove src partition s
  | .removalRetired partition => Sys2Proof.Machine.execRemovalRetired partition s
  | .partRemoved partition => Sys2Proof.Machine.execPartRemoved partition s
  | .ownerProvision src edPub mldsaPub => Sys2Proof.Machine.execOwnerProvision src edPub mldsaPub s
  | .svnCommit src => Sys2Proof.Machine.execSvnCommit src s
  | .jtagBypass => Sys2Proof.Machine.execJtagBypass s
  | .jtagIdcode => Sys2Proof.Machine.execJtagIdcode s
  | .jtagSamplePreload cells => Sys2Proof.Machine.execJtagSamplePreload cells s
  | .jtagExtest => Sys2Proof.Machine.execJtagExtest s
  | .operatingPointChange src target => Sys2Proof.Machine.execOperatingPointChange src target s
  | .vidSettleEnd => Sys2Proof.Machine.execVidSettleEnd s
  | .pllLock time => Sys2Proof.Machine.execPllLock time s
  | .pwrSet src domain target flags period => Sys2Proof.Machine.execPwrSet src domain target flags period s
  | .domainEntryEnd domain => Sys2Proof.Machine.execDomainEntryEnd domain s
  | .domainWakeEnd domain ok => Sys2Proof.Machine.execDomainWakeEnd domain ok s
  | .holdRelease src domain => Sys2Proof.Machine.execHoldRelease src domain s
  | .watchWake domain x => Sys2Proof.Machine.execWatchWake domain x s
  | .quiesce src drainMs => Sys2Proof.Machine.execQuiesce src drainMs s
  | .quiesceDrainEnd time => Sys2Proof.Machine.execQuiesceDrainEnd time s
  | .quiesced => Sys2Proof.Machine.execQuiesced s
  | .imageWrite src off data => Sys2Proof.Machine.execImageWrite src off data s
  | .imageRead src off => Sys2Proof.Machine.execImageRead src off s
  | .recoveryRestart src => Sys2Proof.Machine.execRecoveryRestart src s
  | .chkStart src unit => Sys2Proof.Machine.execChkStart src unit s
  | .chkAbort src unit => Sys2Proof.Machine.execChkAbort src unit s
  | .chkDone unit => Sys2Proof.Machine.execChkDone unit s
  | .thermAlert sensor temp => Sys2Proof.Machine.execThermAlert sensor temp s
  | .thermTrip sensor => Sys2Proof.Machine.execThermTrip sensor s
  | .referenceClockStop clock => Sys2Proof.Machine.execReferenceClockStop clock s
  | .holdExpiry line time => Sys2Proof.Machine.execHoldExpiry line time s
  | .localAckTimeout qp time => Sys2Proof.Machine.execLocalAckTimeout qp time s
  | .resetNRelease time => Sys2Proof.Machine.execResetNRelease time s
  | .pfcFrame port sub frameLen quanta time => Sys2Proof.Machine.execPfcFrame port sub frameLen quanta time s
  | .frameTransmitted port time => Sys2Proof.Machine.execFrameTransmitted port time s
  | .neighborDiscovery target => Sys2Proof.Machine.execNeighborDiscovery target s

end Sys2Proof.Machine
end

