-- ==== Sys2Proof/WellFormed.lean ====
section
/-! DEFINITION. Which commands are well formed: every operand that names a part of the chip or fills a field of an encoding lies
in its range. -/

namespace Sys2Proof

/-- A context number (R220). -/
def ctxOk (n : Nat) : Bool := n < 4096

/-- An extent, an agent or a sync object: 16 bits (R82, R410, R467). -/
def idOk (n : Nat) : Bool := n < 65536

/-- A partition (R622). -/
def partOk (n : Nat) : Bool := n < 16

/-- A physical port (R14). -/
def portOk (n : Nat) : Bool := n < 16

/-- A sub-port (R464). -/
def subOk (n : Nat) : Bool := n < 4

/-- A stack, an engine, a cluster or a check unit (R14, R679). -/
def stackOk (n : Nat) : Bool := n < 16

/-- A pseudo-channel of a stack (R536). -/
def pcOk (n : Nat) : Bool := n < 32

/-- A bank (R536). -/
def bankOk (n : Nat) : Bool := n < 64

/-- A row of a bank (R536). -/
def rowOk (n : Nat) : Bool := n < 49152

/-- A burst of a row (R536). -/
def colOk (n : Nat) : Bool := n < 16

/-- A session (R468). -/
def sessOk (n : Nat) : Bool := n < 8192

/-- A table (R180). -/
def tableOk (n : Nat) : Bool := n < 1024

/-- A chip ID (R18). -/
def chipOk (n : Nat) : Bool := n < 4096

/-- A codebook, a coherence domain or a program slot (R139, R400, R434). -/
def byteOk (n : Nat) : Bool := n < 256

/-- A power domain (R667). -/
def powerOk (n : Nat) : Bool := n < 68

/-- A pair link (R20). -/
def linkOk (n : Nat) : Bool := n < 6

/-- A temperature sensor (R718). -/
def sensorOk (n : Nat) : Bool := n < 64

/-- A reference clock: SYSREF, then the SDS of each plinth (R716). -/
def clockOk (n : Nat) : Bool := n < 5

/-- A key slot (R635). -/
def keySlotOk (n : Nat) : Bool := n < 4096

/-- A register of a codebook (R141). -/
def codeRegOk (n : Nat) : Bool := n < 8

/-- An entry of the event log (R705). -/
def logOk (n : Nat) : Bool := n < 4096

/-- An operating point (R665). -/
def pointOk (n : Nat) : Bool := n < 4

/-- A thread: 4 of each of 256 cores (R364). -/
def threadOk (n : Nat) : Bool := n < 1024

/-- A scalar register (R366). -/
def sregOk (n : Nat) : Bool := n < 32

/-- A vector register (R366). -/
def vregOk (n : Nat) : Bool := n < 16

/-- A mask register (R366). -/
def maskOk (n : Nat) : Bool := n < 4

/-- A lane width (R367). -/
def laneOk (n : Nat) : Bool := n < 4

/-- A 16-bit immediate or branch offset (R371). -/
def immOk (n : Nat) : Bool := n < 65536

/-- The offset of form J (R371). -/
def jumpOk (n : Nat) : Bool := n < 67108864

/-- A shift amount (R373). -/
def shiftOk (n : Nat) : Bool := n < 64

/-- A quarter of a register (R373). -/
def quarterOk (n : Nat) : Bool := n < 4

/-- A special register (R368). -/
def specialOk (n : Nat) : Bool := n < 15

/-- The tag of a unit command (R384). -/
def tagOk (n : Nat) : Bool := n < 8

/-- An instruction word (R365). -/
def wordOk (n : Nat) : Bool := n < 4294967296

/-- A special register that SETSR may write: FMT or DVPREV (R368). -/
def writableOk (n : Nat) : Bool := n == 11 || n == 12

/-- Requests for registers carry 1 to 128 of them (R687). -/
def countOk (n : Nat) : Bool := 1 ≤ n && n ≤ 128

/-- VD of a pair of registers is even (R372). -/
def pairOk (n : Nat) : Bool := n < 16 && n % 2 == 0

/-- A well-formed command. -/
def wellFormed (i : Instr) : Bool :=
  match i with
  | .pwrGoodRise => true
  | .pwrGoodFall => true
  | .warmReset _ _ => true
  | .bootRomStart _ => true
  | .flashHeaderCheck _ => true
  | .signedObjectVerify _ _ _ _ _ => true
  | .configurationApply _ _ => true
  | .stackTrainingEnd _ _ => true
  | .fillDone _ => true
  | .bootLoaderHalt => true
  | .startProgramsPlaced _ => true
  | .tickBoundary _ _ _ => true
  | .tickMasterChange => true
  | .handover _ => true
  | .tick _ _ _ _ _ => true
  | .tickInEdge _ _ _ => true
  | .tickInMissing _ _ _ => true
  | .ppsEdge _ => true
  | .ptpMessage port _ _ => portOk port
  | .tickReferenceLost => true
  | .tickOutPulseEnd _ => true
  | .tickBudget1Write _ _ => true
  | .tickOverrunEscalated => true
  | .overrunCleared => true
  | .heartbeat _ _ _ _ _ _ _ => true
  | .codebookWrite _ codebook reg _ => byteOk codebook && codeRegOk reg
  | .regRead _ _ _ count => countOk count
  | .regWrite _ _ _ _ => true
  | .readClear _ _ => true
  | .eventLogRead _ index => logOk index
  | .i2cPointerWrite _ _ => true
  | .i2cRead => true
  | .perfClear _ => true
  | .evtInject _ _ _ _ => true
  | .atelierWatchdog _ => true
  | .atelierRestartEnd _ _ => true
  | .pairLinkFailure link => linkOk link
  | .testFenceEngine _ engine => stackOk engine
  | .testFenceCluster _ cluster => stackOk cluster
  | .extGrant _ _ => true
  | .extWithdraw _ extent => idOk extent
  | .extFree _ extent => idOk extent
  | .extMigrate _ extent _ => idOk extent
  | .frameMigrated extent _ => idOk extent
  | .invalidateWithdraw _ chip extent _ _ => chipOk chip && idOk extent
  | .invalidateDiscard _ chip extent _ _ => chipOk chip && idOk extent
  | .invalidate _ chip extent _ _ _ _ _ => chipOk chip && idOk extent
  | .snapshotRetired extent => idOk extent
  | .quarantineRecordFree => true
  | .frameFillDone partition => partOk partition
  | .quotaWaitExpiry _ => true
  | .compressionStart extent _ => idOk extent
  | .compressionDone extent _ => idOk extent
  | .frameRestored extent _ => idOk extent
  | .leaseGrant _ agent _ => idOk agent
  | .leaseRenew _ agent => idOk agent
  | .leaseExpiry agent _ => idOk agent
  | .regionDefine _ _ => true
  | .publish _ _ => true
  | .versionQuery _ _ => true
  | .prefetch _ _ => true
  | .adviseCold _ _ => true
  | .adviseWarm _ _ => true
  | .adviseSubscribe _ _ => true
  | .adviseUnsubscribe _ _ => true
  | .adviseDiscard _ _ => true
  | .tableDefine _ _ => true
  | .tableDelete _ table => tableOk table
  | .recastStep table _ _ => tableOk table
  | .rowFlip table _ => tableOk table
  | .copyBackStart table _ => tableOk table
  | .copyBackDone table _ => tableOk table
  | .shadowSlotFree table _ => tableOk table
  | .doorbellRing _ => true
  | .doorbellCq _ => true
  | .doorbellFlush _ => true
  | .doorbellResync _ => true
  | .ringWrite _ _ => true
  | .ctxGrant _ _ => true
  | .ctxRevoke _ ctx => ctxOk ctx
  | .ctxFlush _ ctx => ctxOk ctx
  | .ctxQuery _ => true
  | .workTake ctx => ctxOk ctx
  | .workSliceStart ctx _ _ => ctxOk ctx
  | .workDeadline ctx => ctxOk ctx
  | .parkResume _ => true
  | .completionRecordWrite ctx _ => ctxOk ctx
  | .completionAcknowledged ctx _ => ctxOk ctx
  | .gather ctx _ => ctxOk ctx
  | .gatherReduce ctx _ => ctxOk ctx
  | .scatterAdd ctx _ => ctxOk ctx
  | .rowUpdate ctx _ => ctxOk ctx
  | .atomic ctx _ => ctxOk ctx
  | .copy ctx _ => ctxOk ctx
  | .fill ctx _ => ctxOk ctx
  | .convert ctx _ => ctxOk ctx
  | .expertRoute ctx _ => ctxOk ctx
  | .expertFfn ctx _ => ctxOk ctx
  | .spmm ctx _ => ctxOk ctx
  | .calibrate ctx _ => ctxOk ctx
  | .recast ctx _ => ctxOk ctx
  | .raspProgram ctx _ => ctxOk ctx
  | .wait ctx _ => ctxOk ctx
  | .nop ctx _ => ctxOk ctx
  | .expertBatchStart _ _ => true
  | .expertContribution _ _ _ _ _ _ _ => true
  | .expertEntryTimeout _ => true
  | .expertCancel chip ctx _ => chipOk chip && ctxOk ctx
  | .instanceStart ctx _ t => ctxOk ctx && threadOk t
  | .threadResume ctx _ _ t => ctxOk ctx && threadOk t
  | .stepLimitExpiry t => threadOk t
  | .poolLoadReturn t => threadOk t
  | .unitCommandEnd t tag => threadOk t && tagOk tag
  | .engineCommandEnd t _ => threadOk t
  | .reservedInstruction t word => threadOk t && wordOk word
  | .add t d a b => threadOk t && sregOk d && sregOk a && sregOk b
  | .sub t d a b => threadOk t && sregOk d && sregOk a && sregOk b
  | .and t d a b => threadOk t && sregOk d && sregOk a && sregOk b
  | .or t d a b => threadOk t && sregOk d && sregOk a && sregOk b
  | .xor t d a b => threadOk t && sregOk d && sregOk a && sregOk b
  | .shl t d a b => threadOk t && sregOk d && sregOk a && sregOk b
  | .shr t d a b => threadOk t && sregOk d && sregOk a && sregOk b
  | .sar t d a b => threadOk t && sregOk d && sregOk a && sregOk b
  | .slt t d a b => threadOk t && sregOk d && sregOk a && sregOk b
  | .sltu t d a b => threadOk t && sregOk d && sregOk a && sregOk b
  | .min t d a b => threadOk t && sregOk d && sregOk a && sregOk b
  | .max t d a b => threadOk t && sregOk d && sregOk a && sregOk b
  | .minu t d a b => threadOk t && sregOk d && sregOk a && sregOk b
  | .maxu t d a b => threadOk t && sregOk d && sregOk a && sregOk b
  | .mul t d a b => threadOk t && sregOk d && sregOk a && sregOk b
  | .mulh t d a b => threadOk t && sregOk d && sregOk a && sregOk b
  | .mulhu t d a b => threadOk t && sregOk d && sregOk a && sregOk b
  | .div t d a b => threadOk t && sregOk d && sregOk a && sregOk b
  | .divu t d a b => threadOk t && sregOk d && sregOk a && sregOk b
  | .rem t d a b => threadOk t && sregOk d && sregOk a && sregOk b
  | .remu t d a b => threadOk t && sregOk d && sregOk a && sregOk b
  | .clz t d a => threadOk t && sregOk d && sregOk a
  | .popc t d a => threadOk t && sregOk d && sregOk a
  | .bswap t d a => threadOk t && sregOk d && sregOk a
  | .addi t d a imm => threadOk t && sregOk d && sregOk a && immOk imm
  | .andi t d a imm => threadOk t && sregOk d && sregOk a && immOk imm
  | .ori t d a imm => threadOk t && sregOk d && sregOk a && immOk imm
  | .xori t d a imm => threadOk t && sregOk d && sregOk a && immOk imm
  | .shli t d a sh => threadOk t && sregOk d && sregOk a && shiftOk sh
  | .shri t d a sh => threadOk t && sregOk d && sregOk a && shiftOk sh
  | .sari t d a sh => threadOk t && sregOk d && sregOk a && shiftOk sh
  | .slti t d a imm => threadOk t && sregOk d && sregOk a && immOk imm
  | .movi t d imm => threadOk t && sregOk d && immOk imm
  | .movk t d c imm => threadOk t && sregOk d && quarterOk c && immOk imm
  | .ld8u t d a imm => threadOk t && sregOk d && sregOk a && immOk imm
  | .ld16u t d a imm => threadOk t && sregOk d && sregOk a && immOk imm
  | .ld32u t d a imm => threadOk t && sregOk d && sregOk a && immOk imm
  | .ld64 t d a imm => threadOk t && sregOk d && sregOk a && immOk imm
  | .st8 t d a imm => threadOk t && sregOk d && sregOk a && immOk imm
  | .st16 t d a imm => threadOk t && sregOk d && sregOk a && immOk imm
  | .st32 t d a imm => threadOk t && sregOk d && sregOk a && immOk imm
  | .st64 t d a imm => threadOk t && sregOk d && sregOk a && immOk imm
  | .sld64 t d a imm => threadOk t && sregOk d && sregOk a && immOk imm
  | .sst64 t d a imm => threadOk t && sregOk d && sregOk a && immOk imm
  | .pld64 t d a imm => threadOk t && sregOk d && sregOk a && immOk imm
  | .pst64 t d a imm => threadOk t && sregOk d && sregOk a && immOk imm
  | .beq t a b off => threadOk t && sregOk a && sregOk b && immOk off
  | .bne t a b off => threadOk t && sregOk a && sregOk b && immOk off
  | .blt t a b off => threadOk t && sregOk a && sregOk b && immOk off
  | .bge t a b off => threadOk t && sregOk a && sregOk b && immOk off
  | .bltu t a b off => threadOk t && sregOk a && sregOk b && immOk off
  | .bgeu t a b off => threadOk t && sregOk a && sregOk b && immOk off
  | .jal t off => threadOk t && jumpOk off
  | .jr t d a => threadOk t && sregOk d && sregOk a
  | .fadd t d a b => threadOk t && sregOk d && sregOk a && sregOk b
  | .fsub t d a b => threadOk t && sregOk d && sregOk a && sregOk b
  | .fmul t d a b => threadOk t && sregOk d && sregOk a && sregOk b
  | .fdiv t d a b => threadOk t && sregOk d && sregOk a && sregOk b
  | .fsqrt t d a => threadOk t && sregOk d && sregOk a
  | .fmin t d a b => threadOk t && sregOk d && sregOk a && sregOk b
  | .fmax t d a b => threadOk t && sregOk d && sregOk a && sregOk b
  | .ffma t d a b => threadOk t && sregOk d && sregOk a && sregOk b
  | .feq t d a b => threadOk t && sregOk d && sregOk a && sregOk b
  | .flt t d a b => threadOk t && sregOk d && sregOk a && sregOk b
  | .fle t d a b => threadOk t && sregOk d && sregOk a && sregOk b
  | .itof t d a => threadOk t && sregOk d && sregOk a
  | .ftoi t d a => threadOk t && sregOk d && sregOk a
  | .cvts t d a b => threadOk t && sregOk d && sregOk a && sregOk b
  | .uwait t d a => threadOk t && sregOk d && sregOk a
  | .ceacq t d => threadOk t && sregOk d
  | .cewait t d a => threadOk t && sregOk d && sregOk a
  | .cerel t => threadOk t
  | .sinc t a => threadOk t && sregOk a
  | .sread t d a => threadOk t && sregOk d && sregOk a
  | .swait t a b => threadOk t && sregOk a && sregOk b
  | .stest t d a b => threadOk t && sregOk d && sregOk a && sregOk b
  | .samoAdd t d a b => threadOk t && sregOk d && sregOk a && sregOk b
  | .samoCas t d a b => threadOk t && sregOk d && sregOk a && sregOk b
  | .step t _ => threadOk t
  | .exit t a b => threadOk t && sregOk a && sregOk b
  | .getsr t d b => threadOk t && sregOk d && specialOk b
  | .setsr t d a => threadOk t && writableOk d && sregOk a
  | .brk t => threadOk t
  | .yield t => threadOk t
  | .nopInstruction t => threadOk t
  | .pfence t => threadOk t
  | .vadd t vd va vb mk w => threadOk t && vregOk vd && vregOk va && vregOk vb && maskOk mk && laneOk w
  | .vsub t vd va vb mk w => threadOk t && vregOk vd && vregOk va && vregOk vb && maskOk mk && laneOk w
  | .vand t vd va vb mk w => threadOk t && vregOk vd && vregOk va && vregOk vb && maskOk mk && laneOk w
  | .vor t vd va vb mk w => threadOk t && vregOk vd && vregOk va && vregOk vb && maskOk mk && laneOk w
  | .vxor t vd va vb mk w => threadOk t && vregOk vd && vregOk va && vregOk vb && maskOk mk && laneOk w
  | .vshl t vd va vb mk w => threadOk t && vregOk vd && vregOk va && vregOk vb && maskOk mk && laneOk w
  | .vshr t vd va vb mk w => threadOk t && vregOk vd && vregOk va && vregOk vb && maskOk mk && laneOk w
  | .vsar t vd va vb mk w => threadOk t && vregOk vd && vregOk va && vregOk vb && maskOk mk && laneOk w
  | .vmin t vd va vb mk w => threadOk t && vregOk vd && vregOk va && vregOk vb && maskOk mk && laneOk w
  | .vmax t vd va vb mk w => threadOk t && vregOk vd && vregOk va && vregOk vb && maskOk mk && laneOk w
  | .vminu t vd va vb mk w => threadOk t && vregOk vd && vregOk va && vregOk vb && maskOk mk && laneOk w
  | .vmaxu t vd va vb mk w => threadOk t && vregOk vd && vregOk va && vregOk vb && maskOk mk && laneOk w
  | .vmul t vd va vb mk w => threadOk t && vregOk vd && vregOk va && vregOk vb && maskOk mk && laneOk w
  | .vceq t vd va vb mk w => threadOk t && maskOk vd && vregOk va && vregOk vb && maskOk mk && laneOk w
  | .vclt t vd va vb mk w => threadOk t && maskOk vd && vregOk va && vregOk vb && maskOk mk && laneOk w
  | .vcltu t vd va vb mk w => threadOk t && maskOk vd && vregOk va && vregOk vb && maskOk mk && laneOk w
  | .vsel t vd va vb mk w => threadOk t && vregOk vd && vregOk va && vregOk vb && maskOk mk && laneOk w
  | .vperm t vd va vb mk w => threadOk t && vregOk vd && vregOk va && vregOk vb && maskOk mk && laneOk w
  | .vcomp t vd va mk w => threadOk t && vregOk vd && vregOk va && maskOk mk && laneOk w
  | .vexp t vd va vb mk w => threadOk t && vregOk vd && vregOk va && vregOk vb && maskOk mk && laneOk w
  | .vscan t vd va mk w => threadOk t && vregOk vd && vregOk va && maskOk mk && laneOk w
  | .vredadd t vd va mk w => threadOk t && vregOk vd && vregOk va && maskOk mk && laneOk w
  | .vredmax t vd va mk w => threadOk t && vregOk vd && vregOk va && maskOk mk && laneOk w
  | .vredmaxu t vd va mk w => threadOk t && vregOk vd && vregOk va && maskOk mk && laneOk w
  | .vsort t vd va => threadOk t && pairOk vd && vregOk va
  | .vuniq t vd va mk => threadOk t && maskOk vd && vregOk va && maskOk mk
  | .vfadd t vd va vb mk => threadOk t && vregOk vd && vregOk va && vregOk vb && maskOk mk
  | .vfsub t vd va vb mk => threadOk t && vregOk vd && vregOk va && vregOk vb && maskOk mk
  | .vfmul t vd va vb mk => threadOk t && vregOk vd && vregOk va && vregOk vb && maskOk mk
  | .vfdiv t vd va vb mk => threadOk t && vregOk vd && vregOk va && vregOk vb && maskOk mk
  | .vfsqrt t vd va mk => threadOk t && vregOk vd && vregOk va && maskOk mk
  | .vfmin t vd va vb mk => threadOk t && vregOk vd && vregOk va && vregOk vb && maskOk mk
  | .vfmax t vd va vb mk => threadOk t && vregOk vd && vregOk va && vregOk vb && maskOk mk
  | .vffma t vd va vb mk => threadOk t && vregOk vd && vregOk va && vregOk vb && maskOk mk
  | .vfeq t vd va vb mk => threadOk t && maskOk vd && vregOk va && vregOk vb && maskOk mk
  | .vflt t vd va vb mk => threadOk t && maskOk vd && vregOk va && vregOk vb && maskOk mk
  | .vfle t vd va vb mk => threadOk t && maskOk vd && vregOk va && vregOk vb && maskOk mk
  | .vfredsum t vd va mk => threadOk t && vregOk vd && vregOk va && maskOk mk
  | .vfredmax t vd va mk => threadOk t && vregOk vd && vregOk va && maskOk mk
  | .vbcast t vd sr mk w => threadOk t && vregOk vd && sregOk sr && maskOk mk && laneOk w
  | .vget t va sr w => threadOk t && vregOk va && sregOk sr && laneOk w
  | .vld t vd sr mk w => threadOk t && vregOk vd && sregOk sr && maskOk mk && laneOk w
  | .vst t vd sr => threadOk t && vregOk vd && sregOk sr
  | .vsld t vd sr mk w => threadOk t && vregOk vd && sregOk sr && maskOk mk && laneOk w
  | .vsst t vd sr => threadOk t && vregOk vd && sregOk sr
  | .vpld t vd sr mk w => threadOk t && vregOk vd && sregOk sr && maskOk mk && laneOk w
  | .vpst t vd sr => threadOk t && vregOk vd && sregOk sr
  | .vgath t vd va sr mk => threadOk t && vregOk vd && vregOk va && sregOk sr && maskOk mk
  | .vscat t vd va sr mk => threadOk t && vregOk vd && vregOk va && sregOk sr && maskOk mk
  | .vdvar t vd sr mk => threadOk t && vregOk vd && sregOk sr && maskOk mk
  | .vdec t vd sr mk => threadOk t && pairOk vd && sregOk sr && maskOk mk
  | .venc t vd sr => threadOk t && vregOk vd && sregOk sr
  | .vcvt t vd va sr mk => threadOk t && vregOk vd && vregOk va && sregOk sr && maskOk mk
  | .mpopc t sr mk w => threadOk t && sregOk sr && maskOk mk && laneOk w
  | .dmaGet t d a => threadOk t && sregOk d && sregOk a
  | .dmaPut t d a => threadOk t && sregOk d && sregOk a
  | .dmaOut t d a => threadOk t && sregOk d && sregOk a
  | .dmaTowin t d a => threadOk t && sregOk d && sregOk a
  | .dmaFromwin t d a => threadOk t && sregOk d && sregOk a
  | .tld t d a => threadOk t && sregOk d && sregOk a
  | .tst t d a => threadOk t && sregOk d && sregOk a
  | .tadd t d a => threadOk t && sregOk d && sregOk a
  | .sort t d a => threadOk t && sregOk d && sregOk a
  | .pamo t d a => threadOk t && sregOk d && sregOk a
  | .loadPane t d a => threadOk t && sregOk d && sregOk a
  | .loadAct t d a => threadOk t && sregOk d && sregOk a
  | .run t d a => threadOk t && sregOk d && sregOk a
  | .drain t d a => threadOk t && sregOk d && sregOk a
  | .progRegister _ part slot _ => partOk part && byteOk slot
  | .progUnregister _ _ => true
  | .progBind _ _ _ _ _ _ => true
  | .progUnbind _ _ _ => true
  | .syncGrant _ _ _ partition _ => partOk partition
  | .syncFree _ _ _ => true
  | .syncIncrement object => idOk object
  | .syncInc _ _ => true
  | .syncRead _ _ => true
  | .syncArm _ _ => true
  | .syncReset _ _ => true
  | .syncDeadline object => idOk object
  | .cohDomainCreate _ _ => true
  | .cohDomainDestroy _ domain => byteOk domain
  | .cohDomainDown _ domain => byteOk domain
  | .cohMemberAdd _ domain _ agent ctx => byteOk domain && idOk agent && ctxOk ctx
  | .cohMemberRemove _ domain _ => byteOk domain
  | .getS _ _ => true
  | .getM _ _ => true
  | .putM _ _ => true
  | .putS _ _ => true
  | .fwdAck _ _ => true
  | .recallAck _ _ => true
  | .invAck _ _ => true
  | .evicted _ _ => true
  | .reservationExpiry _ _ => true
  | .cohTimeout _ _ => true
  | .drainEnd domain _ => byteOk domain
  | .sessionOpen _ _ => true
  | .sessionClose _ session => sessOk session
  | .ack _ _ _ _ => true
  | .probe _ _ => true
  | .probeReply _ => true
  | .probeTimer session _ => sessOk session
  | .ackDelayExpiry session _ => sessOk session
  | .retransmitTimeout session _ _ => sessOk session
  | .graceEnd session _ => sessOk session
  | .read _ _ => true
  | .write _ _ => true
  | .atomic64 _ _ => true
  | .reply _ _ _ _ _ _ => true
  | .resultWriteAcknowledged ctx _ => ctxOk ctx
  | .qpCreate _ _ => true
  | .qpDestroy _ _ => true
  | .rdmaWrite _ => true
  | .rdmaRead _ => true
  | .compareSwap _ _ _ => true
  | .fetchAdd _ _ => true
  | .roceInvalidRequest _ => true
  | .roceAck _ _ => true
  | .linkUp port sub _ => portOk port && subOk sub
  | .linkDown port sub _ => portOk port && subOk sub
  | .ringHello _ chip => chipOk chip
  | .ringJoin _ chip => chipOk chip
  | .ringLeave _ chip => chipOk chip
  | .ringPrepare _ chip west east => chipOk chip && chipOk west && chipOk east
  | .joinRequest _ chip _ => chipOk chip
  | .joinAccept _ _ => true
  | .joinRefused _ _ _ => true
  | .joinTimeout _ => true
  | .ringAdmission => true
  | .routeUpdate _ _ _ => true
  | .routeDrained => true
  | .ringDrained _ chip _ => chipOk chip
  | .memberLost chip => chipOk chip
  | .forward _ _ => true
  | .forwardReply _ _ => true
  | .forwardTimeout _ => true
  | .writeQueueEntry stack pc bank row col _ _ _ _ => stackOk stack && pcOk pc && bankOk bank && rowOk row && colOk col
  | .readQueueEntry stack pc bank row col _ _ => stackOk stack && pcOk pc && bankOk bank && rowOk row && colOk col
  | .burstIssue stack pc _ => stackOk stack && pcOk pc
  | .writeAgeExpiry stack pc _ => stackOk stack && pcOk pc
  | .refresh stack pc bank => stackOk stack && pcOk pc && bankOk bank
  | .retrainPc => true
  | .retrainEnd stack pc _ _ => stackOk stack && pcOk pc
  | .memTrainNow _ stack target => stackOk stack && pcOk target
  | .writeBack _ => true
  | .lanePeriodEnd => true
  | .scrubStep stack pc _ _ => stackOk stack && pcOk pc
  | .eccFlipArm _ => true
  | .rebuildStep _ => true
  | .spareWatchWake _ => true
  | .replicaWrite _ _ => true
  | .replicaResync _ _ => true
  | .replicaFetch _ _ => true
  | .replicaHealth _ _ => true
  | .replicaDigest _ _ => true
  | .replicaWriteTimeout extent _ _ => idOk extent
  | .partnerLost => true
  | .pairParkTimeout _ => true
  | .pairKeyInChange _ => true
  | .keyGuardEnd _ => true
  | .keySettleEnd _ => true
  | .keyRetryTimer _ => true
  | .keyRelease => true
  | .pairPromote _ _ => true
  | .pairRelease _ => true
  | .pairRecover _ => true
  | .pairResyncCopy _ => true
  | .attest _ => true
  | .mgmtKeyEstablish _ _ _ _ => true
  | .partKeyEstablish _ partition _ _ => partOk partition
  | .keyLoad _ slot _ _ _ => keySlotOk slot
  | .oldKeyExpiry slot _ => keySlotOk slot
  | .keyUnload _ slot => keySlotOk slot
  | .partRemove _ partition => partOk partition
  | .removalRetired partition => partOk partition
  | .partRemoved partition => partOk partition
  | .ownerProvision _ _ _ => true
  | .svnCommit _ => true
  | .jtagBypass => true
  | .jtagIdcode => true
  | .jtagSamplePreload _ => true
  | .jtagExtest => true
  | .operatingPointChange _ target => pointOk target
  | .vidSettleEnd => true
  | .pllLock _ => true
  | .pwrSet _ domain _ _ _ => powerOk domain
  | .domainEntryEnd domain => powerOk domain
  | .domainWakeEnd domain _ => powerOk domain
  | .holdRelease _ domain => powerOk domain
  | .watchWake domain _ => powerOk domain
  | .quiesce _ _ => true
  | .quiesceDrainEnd _ => true
  | .quiesced => true
  | .imageWrite _ _ _ => true
  | .imageRead _ _ => true
  | .recoveryRestart _ => true
  | .chkStart _ unit => stackOk unit
  | .chkAbort _ unit => stackOk unit
  | .chkDone unit => stackOk unit
  | .thermAlert sensor _ => sensorOk sensor
  | .thermTrip sensor => sensorOk sensor
  | .referenceClockStop clock => clockOk clock
  | .holdExpiry _ _ => true
  | .localAckTimeout _ _ => true
  | .resetNRelease _ => true
  | .pfcFrame port sub _ _ _ => portOk port && subOk sub
  | .frameTransmitted port _ => portOk port
  | .neighborDiscovery _ => true

end Sys2Proof
end

