-- ==== Sys2Proof/Safety.lean ====
section
/-! DEFINITION. The terms in which claims are stated: the effect that a command's step makes, when an instruction issues, and
which states are sound. -/

namespace Sys2Proof.Machine
open Sys2Proof

/-! ### Effects -/

/-- What a meaning works on. -/
abbrev State.m (s : State) : M := { core := s.core, mem := s.mem }

/-- The command's step answers a next state: the block with `m` as the command's own effect, settled. -/
def does (i : Instr) (s : State) (m : M) : Prop := exec i s = .next (settled s m)

/-- The effect is on the chip alone. -/
def doesTo (i : Instr) (s : State) (c : Core) : Prop := does i s { core := c, mem := s.mem }

/-- The memory of every stack is in canonical form. -/
def State.memOk (s : State) : Prop := s.mem.wf = true

/-- There is an effect with the property that the command's step makes. -/
def doesSome (i : Instr) (s : State) (P : M → Prop) : Prop := ∃ m, does i s m ∧ P m

/-! ### Management -/

/-- A request of the fabric manager arrives and its body is asked; `m` is the block with the request landed and its op tag
taken. -/
def FmAsks (i : MopInfo) (src : Src) (s : State) (m : M) : Prop := arrive i src s.m = (m, true) ∧ srcFm (realSrc src) = true

/-- The same of any requester. -/
def Asks (i : MopInfo) (src : Src) (s : State) (m : M) : Prop := arrive i src s.m = (m, true)

/-- The request is answered ACCEPTED with the fields of its reply. -/
def accepted (m : M) (src : Src) (mop : Nat) (body : List Nat := []) : M :=
  m.on (fun c => mgmtReply c (realSrc src) mop .accepted body)

/-- A command that writes 1 to a bit, of the register and the field (R8, R687). -/
def BitCmd (cmd : Src → Instr) (a : Nat) (f : Fld) : Prop :=
  (cmd, a, f) ∈ [(Instr.warmReset false, BOOT_CTRL, BOOT_CTRL_WARM_RESET), (.handover, TCK_CTRL, TCK_CTRL_HANDOVER),
    (.perfClear, GLB_CTRL, GLB_CTRL_PERF_CLEAR), (.eccFlipArm, ECC_FLIP_CTRL, ECC_FLIP_CTRL_ARMED),
    (.svnCommit, SEC_CTRL, SEC_CTRL_SVN_COMMIT)] ∨
  (∃ n, n < 16 ∧ (cmd, a, f) ∈ [((Instr.testFenceEngine · n), stackReg CE_CTRL n, CE_CTRL_TEST_FENCE),
    ((.testFenceCluster · n), stackReg RSP_CTRL n, RSP_CTRL_TEST_FENCE), ((.chkStart · n), CHK_CTRL n, CHK_CTRL_START),
    ((.chkAbort · n), CHK_CTRL n, CHK_CTRL_ABORT)]) ∨
  (∃ d, d < 68 ∧ (cmd, a, f) = ((Instr.holdRelease · d), PWR_DOMAIN d, PWR_DOMAIN_HOLD_RELEASE))

/-! ### Requests of agents -/

/-- A command that is a request message: its type, and its ARG where the command fixes it (Table 13-8). -/
def RequestCmd (cmd : Pkt → Pfx → Instr) (type : Nat) (arg : Option Nat) : Prop :=
  (cmd, type, arg) ∈ [(Instr.read, 0x10, none), (.write, 0x11, none), (.atomic64, 0x12, none), (.ringWrite, 0x20, none),
    (.syncInc, 0x28, none), (.syncRead, 0x29, none), (.syncArm, 0x2A, none), (.syncReset, 0x2B, none), (.regionDefine, 0x30, none),
    (.publish, 0x31, none), (.versionQuery, 0x32, none), (.prefetch, 0x33, none), (.adviseCold, 0x34, some 0),
    (.adviseWarm, 0x34, some 1), (.adviseSubscribe, 0x34, some 2), (.adviseUnsubscribe, 0x34, some 3), (.adviseDiscard, 0x34, some 4)]

/-! ### Coherence -/

/-- A directory entry as it is made, for a request of member `r`. -/
def freshLine (d r : Nat) : CohLine :=
  { domain := d, owner := none, sharers := [], grant := none, grantee := r, resv := none, busy := none }

/-- A coherence message of SUBTYPE `sub` lands at the home of its line, from a member of a domain that is UP; `c` is the block once
its packet has landed, and `k` the line's key (R436). -/
structure CohArrives (s : State) (sub : Nat) (p : Pkt) (x : CohMsg) (c : Core) (v : Domain) (k : Nat) : Prop where
  serves : inService s.core = true
  lands : ∃ n, landPkt s.core { p with cls := cohClass sub } = (c, some n)
  tags : tagsFull c = false
  home : servedHere c (ptrChip x.line) = true
  domain : domain? c x.domain = some v
  up : v.st = .up
  member : amGet? v.members x.member = some (p.srcEp % 65536, p.ctx)
  inside : inDomain v (ptrExtent x.line) (ptrOffset x.line) = true
  aligned : ptrOffset x.line % 128 = 0
  key : k = lineKey (ptrExtent x.line) (ptrOffset x.line)

/-! ### Works -/

/-- A work of opcode `op` runs by its built-in program, has started, and its next step is due. -/
structure Stepping (op : Nat) (s : State) (ctx num : Nat) (w : Work) : Prop where
  serves : inService s.core = true
  there : work? s.core ctx num = some w
  opcode : w.opcode = op
  running : w.phase = .running
  builtin : w.prog = none
  started : w.started = true
  key : w.ctx = ctx ∧ w.num = num

/-- A built-in work: its command and opcode, what it checks and notes before it starts, its step, and how many it has. -/
structure WorkKind where
  cmd : Nat → Nat → Instr
  op : Nat
  check : M → Work → M × Res Unit
  start : Core → Work → Core
  step : M → Work → M × Res Unit
  total : M → Work → Nat

/-- The built-in works that go step by step to their end (Table 6-8). -/
def WorkKind.BuiltIn (k : WorkKind) : Prop := k ∈ [
  ⟨.gather, 0x01, gatherCheck false, gatherStart false, gatherStep, fun _ w => listSteps w ((w.field 4 4 + 63) / 64)⟩,
  ⟨.gatherReduce, 0x02, gatherCheck true, gatherStart true, reduceStep, fun _ w => w.field 0x14 4⟩,
  ⟨.scatterAdd, 0x03, scatterCheck, scatterStart, scatterStep, fun _ w => listSteps w (w.field 4 4)⟩,
  ⟨.rowUpdate, 0x04, updateCheck, updateStart, updateStep, fun _ w => if w.step = 0 then 1 else (w.perItem + 63) / 64⟩,
  ⟨.atomic, 0x05, atomicCheck, atomicStart, atomicStep, fun _ w => (w.field 0 4 + 63) / 64⟩,
  ⟨.copy, 0x06, copyCheck, plainStart, copyStep,
    fun m w => (w.field 0x20 4 + copyStepSize m.core w - 1) / copyStepSize m.core w⟩,
  ⟨.fill, 0x07, fillCheck, plainStart, fillStep, fun _ w => (w.field 0x10 4 + fillSize w - 1) / fillSize w⟩,
  ⟨.convert, 0x08, convertCheck, plainStart, convertStep,
    fun m w => (w.field 0x20 4 + convertSize m.core w - 1) / convertSize m.core w⟩,
  ⟨.expertFfn, 0x11, ffnCheck, ffnStart, ffnStep, fun _ w => (w.field 0 4 + 31) / 32 * w.field 4 1⟩,
  ⟨.spmm, 0x12, spmmCheck, spmmStart, spmmStep, spmmSteps⟩,
  ⟨.calibrate, 0x20, calCheck, plainStart, calStep, fun _ _ => 1⟩]

/-- The block as a step of the work finds it: under the work's op tag (R94, R605). -/
def asWork (m : M) (w : Work) : M := m.on (fun c => { c with pair := { c.pair with opTag := w.tag } })

/-- What the work's step leaves, from the block before it. -/
def offWork (m0 m : M) : M := m.on (fun c => { c with pair := { c.pair with opTag := m0.core.pair.opTag } })

/-- A step has been made from `m0`: the next one is due or, after the last of `total`, the work ends. -/
def afterStep (m0 m : M) (w : Work) (total : Nat) : M :=
  (offWork m0 (m.on (fun c => stepDone c w.ctx w.num))).on (fun c =>
    if total ≤ w.step + 1 then endWork c w.ctx w.num else c)

/-- The work runs on at the step that it was about to make. -/
def StillRuns (c : Core) (w : Work) : Prop :=
  ∃ v, work? c w.ctx w.num = some v ∧ v.step = w.step ∧ v.desc = w.desc ∧ v.phase = .running

/-- `n` more items of the work are done. -/
def counted (c : Core) (w : Work) (n : Nat) : Core := modWork c w.ctx w.num (fun w => { w with count := w.count + n })

/-- The bytes of a row's image in a result (R272, R273). -/
def imgBytes (f : Fmt) (rowLen : Nat) (img : RowImg) : List Byte :=
  padTo (outStride f rowLen) 0 (packElems f img.elems ++ img.scales.flatMap (natLe (scaleBytes f)))

/-- One position of a GATHER in the table's own format (R274, R278): its item code, what else it notes, and its bytes. -/
def gatherOne (w : Work) (t : Table) (rows : List (Nat × RowImg)) (lo : Nat) (cb : List FVal) (c : Core) (x : Nat × Nat) : Core :=
  match findRow rows x.1 with
  | none => setItem c w.ctx w.num (lo + x.2) 3
  | some img => if imgPoisoned img then
      noteFail (setItem c w.ctx w.num (lo + x.2) 2) w.ctx w.num .poisoned (firstPoison c t x.1 img)
    else counted (addFlags (setItem c w.ctx w.num (lo + x.2) 1) w.ctx w.num
      (bitFlags (imgValues (tblFmt t).fmt cb img))) w 1

def gatherBytes (t : Table) (o : FmtWord) (rows : List (Nat × RowImg)) (r : Nat) : List Byte :=
  match findRow rows r with
  | none => List.replicate (outStride o.fmt t.rowLen) 0
  | some img => if imgPoisoned img then List.replicate (outStride o.fmt t.rowLen) 0 else imgBytes o.fmt t.rowLen img

/-- Batch `b` is the one of its image and of the running tick. -/
def putBatch (c : Core) (image : W64) (b : Batch) : Core :=
  { c with work := { c.work with
      batches := c.work.batches.filter (fun y => !(y.image == image && y.tick == c.tick)) ++ [b] } }

/-- A token group of the batch starts on engine `n`; of one that parked, its step is made again (R330, R357). -/
def groupStarts (c : Core) (image : W64) (t : Nat) (b : Batch) (n : Nat) : Core :=
  setBatch (chargeBatch (if b.parked then c.perf (stackReg CE_STEPS_REDONE n) else c) b) image t (fun x => { x with parked := false })

/-- A recast step of a table has ended: a running plan goes on at row `next`, and a commit that waited takes effect (R197, R204). -/
def stepEnds (next : Nat) (v : Table) : Table :=
  { takePlan (if v.recast.isSome && v.plan = .running then { v with nextRow := next } else v) with stepOpen := false }

/-- The batches of the chip replaced. -/
def setBatches (c : Core) (l : List Batch) : Core := { c with work := { c.work with batches := l } }

/-- Where the scrub of a pseudo-channel stands. -/
def setScrub (c : Core) (k : Nat) (v : ScrubSt) : Core := { c with mem := { c.mem with scrub := amSet c.mem.scrub k v } }

/-- The forwarded requests of an op tag are no longer awaited, and the tag retires. -/
def dropFwd (c : Core) (tag : Nat) : Core :=
  dropTag { c with ring := { c.ring with fwds := c.ring.fwds.filter (fun g => g.tag ≠ tag) } } tag

/-! ### The pair -/

/-- REPLICA messages by their KIND (Table 17-6). -/
def ReplicaCmd (cmd : Pkt → RepMsg → Instr) (kind : Nat) : Prop :=
  (cmd, kind) ∈ [(Instr.replicaWrite, 0), (.replicaResync, 1), (.replicaFetch, 2), (.replicaHealth, 3), (.replicaDigest, 4)]

/-- A REPLICA message of the partner is whole at this chip: its packet lands at a ring port, `data` are the message's bytes, and
`m` is the block then (R603). -/
structure Replicated (s : State) (p : Pkt) (x : RepMsg) (m : M) (data : List Byte) : Prop where
  serves : inService s.core = true
  ring : ringPort p.port = true
  lands : ∃ c n c', x.hops ≠ 0 ∧ landPkt s.core { p with cls := 0 } false (transitFull s.core x.dst x.dir x.tag) = (c, some n) ∧
    x.dst = c.chipId ∧ assemble c n p.xid p.msgOff x.len x.part x.data = (c', some data) ∧ x.origin = partnerChip c' ∧ paired c' = true ∧
    m = { core := c', mem := s.mem }

/-- The chip is a standby, synced or not. -/
def standby (c : Core) : Bool := pairState c == 2 || pairState c == 3

/-- The sequence that a frame of an extent has reached, and the frame at another. -/
def frameSeq (c : Core) (e f : Nat) : Nat := amGet c.pair.fseq (e * 2 ^ 16 + f) 0
def atSeq (c : Core) (e f q : Nat) : Core := { c with pair := { c.pair with fseq := amSet c.pair.fseq (e * 2 ^ 16 + f) q } }

/-- The pair's bookkeeping replaced. -/
def onPair (c : Core) (f : PairSt → PairSt) : Core := { c with pair := f c.pair }

/-- A mirrored write, or a frame's copy, as a standby holds it until its turn. -/
def heldEarly (copy : Bool) (x : RepMsg) (f : Nat) (data : List Byte) (tick : Nat) : Replica :=
  { extent := x.extent, frame := f, fseq := x.fseq, offset := x.offset, data := data, poisons := x.pmap, tick := tick,
    owner := x.tag, sent := none, copy := copy }

/-- The standby holds the message behind those it holds already. -/
def holdsIt (c : Core) (r : Replica) : Core := onPair c (fun v => { v with early := v.early ++ [r] })

/-- A standby's held message is applied: its frame has its sequence; a copy marks its units copied, clears them from the dirty
list and drops the earlier writes of the frame that waited. -/
def appliedAt (c : Core) (r : Replica) : Core :=
  onPair c (fun v =>
    let early := v.early.filter (· != r)
    let fseq := amSet v.fseq (r.extent * 2 ^ 16 + r.frame) r.fseq
    let units := unitsOf r.extent r.offset r.data.length
    if r.copy then
      { v with fseq := fseq, copied := distinctOf (v.copied ++ units), dirty := v.dirty.filter (fun k => !units.contains k),
               early := early.filter (fun y => y.copy || !(y.extent == r.extent && y.frame == r.frame && !serialNewer y.fseq r.fseq)) }
    else { v with early := early, fseq := fseq })

/-- The partition of an extent that is defined. -/
def partOf (c : Core) (e : Nat) : Nat := match ext? c e with | some x => x.partition | none => 0

/-! ### The network -/

/-- What SESSION_OPEN asks of its fields (R467, R468). -/
structure SessionOk (c : Core) (d : SessDef) : Prop where
  free : ∀ x, sess? c d.session = some x → x.st = .closed ∨ x.st = .lost
  fresh : amGet? c.net.epochs d.session ≠ some d.epoch
  number : d.session < 8188
  remote : epOk d.remote = true ∧ d.epoch < 65536
  slot : d.keySlot < 4096 ∧ slotOwner c d.keySlot = some 255
  paths : 1 ≤ d.paths.length ∧ d.paths.length ≤ 4 ∧ ∀ p ∈ d.paths, p.port < 12 ∧
    c.flag (FZT_PORT_CTRL p.port) FZT_PORT_CTRL_FZT_EN = true ∧ p.sub < subPorts c p.port ∧ p.mac < 2 ^ 48 ∧ p.vlan ≤ 4094 ∧
    p.ip < 2 ^ 128 ∧ p.udp < 65536
  seqs : d.txSeq < 2 ^ 32 ∧ d.rxSeq < 2 ^ 32
  allow : d.allow.length = 3 ∧ ∀ a ∈ d.allow, 17 ≤ a.1 ∧ a.1 ≤ 32767 ∧ 17 ≤ a.2 ∧ a.2 ≤ 32767
  pool : rxAllocated c (d.session % 4) + sessCredits d ≤ 131072

/-- What QP_CREATE asks of its fields (R499). -/
structure QpOk (c : Core) (d : QpDef) : Prop where
  number : d.qp < 16384 ∧ (qp? c d.qp).isNone = true
  part : partActive c d.partition = true ∧ c.flag (SEC_PART d.partition) SEC_PART_LINK_ENC_REQUIRED = false
  owner : d.owner < 65536
  path : d.path.port < 12 ∧ d.path.sub < subPorts c d.path.port ∧ d.path.mac < 2 ^ 48 ∧ d.path.vlan ≤ 4094 ∧ d.path.ip < 2 ^ 128 ∧
    d.path.udp < 65536 ∧ d.path.sub < 4
  psns : d.remoteQpn < 2 ^ 24 ∧ d.sendPsn < 2 ^ 24 ∧ d.recvPsn < 2 ^ 24
  pmtu : d.pmtu = 1024 ∨ d.pmtu = 2048 ∨ d.pmtu = 4096
  retry : 4 ≤ d.ackExp ∧ d.ackExp ≤ 31 ∧ d.retry ≤ 7

/-- The queue pair of a QP_CREATE, in RTS. -/
def newQp (d : QpDef) : Qp :=
  { partition := d.partition, owner := d.owner, port := d.path.port, sub := d.path.sub, mac := d.path.mac, vlan := d.path.vlan,
    ip := d.path.ip, remoteQpn := d.remoteQpn, sendPsn := d.sendPsn, expPsn := d.recvPsn, pmtu := d.pmtu, dataKey := d.dataKey,
    doorKey := d.doorKey, ackExp := d.ackExp, retry := d.retry, error := false, lastStatus := 0, writes := [], wr := none,
    lastCnp := none }

/-- A session's packet `seq` and its path after a timeout of the retransmission timer (R469, R479). -/
def timedOut (x : Session) (p : TxPkt) : Session :=
  { x with
    txPkts := x.txPkts.map (fun q => if 0 < q.sent ∧ q.seq = p.seq then
      { q with due := true, doublings := min 4 (q.doublings + 1) } else q),
    paths := listMod x.paths p.path (fun a => { a with timeouts := a.timeouts + 1 }) }

/-- A RoCE packet of an unsupported form, or any request of a queue pair. -/
def RoceRequest (cmd : RPkt → Instr) : Prop :=
  cmd = .rdmaWrite ∨ cmd = .rdmaRead ∨ (∃ a b, cmd = (.compareSwap · a b)) ∨ (∃ a, cmd = (.fetchAdd · a)) ∨ cmd = .roceInvalidRequest

/-- Where an RDMA WRITE's packet goes on: address, R_Key and bytes due. -/
def writeStart (p : RPkt) (x : Qp) : Option (W64 × W32 × Nat) :=
  if p.first then (if x.wr.isNone then some (p.va, p.rkey, p.len) else none) else x.wr.map (fun w => (w.1, w.2.1, w.2.2.1))

/-- The packet's bytes fit what is due. -/
def writeFits (p : RPkt) (x : Qp) (left : Nat) : Bool :=
  if p.last then p.data.length == left && p.data.length ≤ x.pmtu else p.data.length == x.pmtu && p.data.length < left

/-- The next PSN that a queue pair expects. -/
def expect (c : Core) (q psn : Nat) : Core := modQp c q (fun x => { x with expPsn := psn24 psn })

/-- A RING_HELLO reaches a powered chip intact at a ring port with link; `c` is the block once its frame is counted. -/
structure HelloHeard (s : State) (p : Pkt) (c : Core) : Prop where
  powered : powered s.core = true
  ring : ringPort p.port = true
  link : linkUp s.core p.port 0 = true
  crc : p.crcOk = true
  frame : rxFrame (s.core.at p.time) p.port 0 p.frameLen = (c, true)

/-- A ring port's neighbour as RING_HELLO names it. -/
def heardHello (c : Core) (port chip : Nat) : Core := { c with ring := { c.ring with hello := amSet c.ring.hello port chip } }
def noteNeighbour (c : Core) (port chip : Nat) : Core :=
  if port < 14 then ((heardHello c port chip).setFld RING_NEIGHBOURS RING_NEIGHBOURS_WEST_VALID 1).setFld RING_NEIGHBOURS
    RING_NEIGHBOURS_WEST_ID chip
  else ((heardHello c port chip).setFld RING_NEIGHBOURS RING_NEIGHBOURS_EAST_VALID 1).setFld RING_NEIGHBOURS RING_NEIGHBOURS_EAST_ID chip

/-- The other ring port of a side. -/
def sidePort (port : Nat) : Nat := if port % 2 = 0 then port + 1 else port - 1

/-- Messages of the ring that a member passes on, with their types and fields (R511, R513, R515, R517). -/
def RingCmd (cmd : Pkt → Instr) (type : Nat) (body : List Nat) : Prop :=
  (∃ chip pri, cmd = (.joinRequest · chip pri) ∧ type = 0x76 ∧ body = [chip, pri]) ∨
  (∃ m, cmd = (.joinAccept · m) ∧ type = 0x77 ∧ body = [0, 0, m]) ∨
  (∃ r m, cmd = (.joinRefused · r m) ∧ type = 0x77 ∧ body = [1, r, m]) ∨
  (∃ v ms, cmd = (.routeUpdate · v ms) ∧ type = 0x78 ∧ body = routeBody v ms) ∨
  (∃ chip v, cmd = (.ringDrained · chip v) ∧ type = 0x79 ∧ body = [chip, v])

/-- The master of a ring. -/
def masters (c : Core) : Bool := isMaster c && onRing c

/-- The ring's bookkeeping replaced. -/
def onRingSt (c : Core) (f : RingSt → RingSt) : Core := { c with ring := f c.ring }

/-- The member west of this chip on its ring. -/
def westOf (c : Core) : Nat :=
  (((memberIdx c c.chipId).bind (fun i => c.ring.members[(i + c.ring.members.length - 1) % c.ring.members.length]?)).map (·.1)).getD
    c.chipId

/-- A FORWARD's credits are kept back: no op tag is free at the chip that it names (R484), or the transit queue of its way on is full
(R520). -/
def keptBack (c : Core) (x : FwdMsg) : Bool := if x.dst = c.chipId then tagsFull c else transitFull c x.dst x.dir x.tag

/-- A FORWARD lands at a ring port: `c` is the block with its packet landed on session `n`. -/
structure Forwarded (s : State) (p : Pkt) (x : FwdMsg) (c : Core) (n : Nat) : Prop where
  serves : inService s.core = true
  ring : ringPort p.port = true
  lands : landPkt s.core { p with cls := 0 } false (keptBack s.core x) = (c, some n)

/-- The credits that a packet kept back are returned (R484, R520). -/
def dropCredits (c : Core) (p : Pkt) (n : Nat) (full : Bool) : Core :=
  if full then releaseCr c n 0 (pktCost (datagram p.len p.enc)) p.retx true else c

/-! ### Rasp instructions -/

/-- The block as what thread `th` does finds it: its work's op tag is the one that accesses are made under, and the active
codebooks are those of its slice (R94, R141). -/
def seenBy (m : M) (th : Thread) : M :=
  let m := m.on (fun c => { c with pair := { c.pair with opTag := thrTag c th } })
  match th.books with
  | none => m
  | some b => m.on (fun c => { c with work := { c.work with codebooks := b } })

/-- The block after what thread `th` did from `m0`: the op tag of accesses and the active codebooks are the chip's again. -/
def leftBy (m0 : M) (th : Thread) (m : M) : M :=
  (match th.books with
    | none => m
    | some _ => m.on (fun c => { c with work := { c.work with codebooks := m0.core.work.codebooks } })).on
    (fun c => { c with pair := { c.pair with opTag := m0.core.pair.opTag } })

/-- The command's step is what thread `th` does, with `m` as its effect as the thread finds the block. -/
def doesAs (th : Thread) (i : Instr) (s : State) (m : M) : Prop := does i s (leftBy s.m th m)

/-- Thread `t`, which runs an instance of program `p` as `th`, issues instruction `i`: it may issue, its pc lies in the code, and
the word there is one of the instruction; `m` is the block once the word is fetched. -/
structure Issues (s : State) (t : Nat) (i : RIns) (th : Thread) (p : ProgRun) (m : M) : Prop where
  serves : inService s.core = true
  may : mayIssue s.core t = some (th, p)
  inside : th.pc < p.codeBytes
  legal : i.legal = true
  fetched : ∃ w, fetchWord (seenBy s.m th) t th p = (m, .word w) ∧ (decodeRasp w).map RIns.canon = some i
  stays : (thr? m.core t).isSome = true

/-- The thread goes on at the next instruction with the registers of `th`; the instruction is counted. -/
def advance (m : M) (t : Nat) (th : Thread) : M :=
  m.on (fun c => countIssue (setThr c t { th with pc := th.pc + 4, fetched := [], wait := .ready }) t)

/-- The thread goes on at `pc`. -/
def jumped (m : M) (t : Nat) (th : Thread) (pc : Nat) : M :=
  m.on (fun c => countIssue (setThr c t { th with pc := pc, fetched := [], wait := .ready }) t)

/-- The thread still runs: no fence met on the way has dropped it. -/
def stays (m : M) (t : Nat) : Prop := (thr? m.core t).isSome = true

/-- A 64-bit value from a number. -/
abbrev w64 (n : Nat) : W64 := BitVec.ofNat 64 n

/-- A scalar operation on 64-bit values (R374). -/
structure ScalarOp where
  cmd : Nat → Nat → Nat → Nat → Instr
  func : Nat
  op : W64 → W64 → W64

/-- A truth value as 1 or 0. -/
def one (b : Bool) : W64 := if b then 1 else 0

/-- The two-operand instructions of MAJOR 0x01 (Table 10-5, R374). -/
def scalarOps : List ScalarOp := [
  ⟨.add, 0, fun a b => a + b⟩, ⟨.sub, 1, fun a b => a - b⟩, ⟨.and, 2, fun a b => a &&& b⟩, ⟨.or, 3, fun a b => a ||| b⟩,
  ⟨.xor, 4, fun a b => a ^^^ b⟩, ⟨.shl, 5, fun a b => a <<< (b.toNat % 64)⟩, ⟨.shr, 6, fun a b => a >>> (b.toNat % 64)⟩,
  ⟨.sar, 7, fun a b => a.sshiftRight (b.toNat % 64)⟩, ⟨.slt, 8, fun a b => one (a.slt b)⟩, ⟨.sltu, 9, fun a b => one (a.ult b)⟩,
  ⟨.min, 10, fun a b => if a.sle b then a else b⟩, ⟨.max, 11, fun a b => if a.sle b then b else a⟩,
  ⟨.minu, 12, fun a b => if a.ule b then a else b⟩, ⟨.maxu, 13, fun a b => if a.ule b then b else a⟩,
  ⟨.mul, 16, fun a b => a * b⟩, ⟨.mulh, 17, fun a b => BitVec.ofInt 64 (a.toInt * b.toInt / 2 ^ 64)⟩,
  ⟨.mulhu, 18, fun a b => w64 (a.toNat * b.toNat / 2 ^ 64)⟩,
  ⟨.div, 19, fun a b => if b = 0 then BitVec.allOnes 64 else a.sdiv b⟩,
  ⟨.divu, 20, fun a b => if b = 0 then BitVec.allOnes 64 else a / b⟩,
  ⟨.rem, 21, fun a b => if b = 0 then a else a.srem b⟩, ⟨.remu, 22, fun a b => if b = 0 then a else a % b⟩]

/-- One-operand instructions of MAJOR 0x01: leading zeros, set bits, reversed bytes. -/
def unaryOps : List ((Nat → Nat → Nat → Instr) × Nat × (W64 → Nat)) := [
  (.clz, 24, fun a => ((List.range 64).takeWhile (fun i => !a.getLsbD (63 - i))).length),
  (.popc, 25, fun a => ((List.range 64).filter a.getLsbD).length),
  (.bswap, 26, fun a => leNat (natLe 8 a.toNat).reverse)]

/-- A signed 16-bit field as a 64-bit value. -/
def signed16 (imm : Nat) : W64 := (BitVec.ofNat 16 imm).signExtend 64

/-- Immediate instructions by MAJOR: the operand is the sign-extended field (R373, R374). -/
def immOps : List ScalarOp := [
  ⟨.addi, 2, fun a b => a + b⟩, ⟨.andi, 3, fun a b => a &&& b⟩, ⟨.ori, 4, fun a b => a ||| b⟩, ⟨.xori, 5, fun a b => a ^^^ b⟩,
  ⟨.slti, 7, fun a b => one (a.slt b)⟩]

/-- Shifts by an immediate amount: the selector of IMM[7:6], and the operation. -/
def shiftOps : List ((Nat → Nat → Nat → Nat → Instr) × Nat × (W64 → Nat → W64)) := [
  (.shli, 0, fun a k => a <<< k), (.shri, 1, fun a k => a >>> k), (.sari, 2, fun a k => a.sshiftRight k)]

/-- Branches by MAJOR: when each is taken. -/
def branchOps : List ((Nat → Nat → Nat → Nat → Instr) × Nat × (W64 → W64 → Bool)) := [
  (.beq, 0x18, fun a b => a == b), (.bne, 0x19, fun a b => a != b), (.blt, 0x1A, fun a b => a.slt b),
  (.bge, 0x1B, fun a b => b.sle a), (.bltu, 0x1C, fun a b => a.ult b), (.bgeu, 0x1D, fun a b => b.ule a)]

/-- FP32 instructions of MAJOR 0x20 on d, a and b: the pattern that each writes (R375). -/
def floatOps : List ((Nat → Nat → Nat → Nat → Instr) × Nat × (Nat → Nat → Nat → Nat)) := [
  (.fadd, 0, fun _ a b => fp32Bits (addFp32 (fpOf a) (fpOf b))), (.fsub, 1, fun _ a b => fp32Bits (addFp32 (fpOf a) (fpOf b).neg)),
  (.fmul, 2, fun _ a b => fp32Bits (mulFp32 (fpOf a) (fpOf b))), (.fdiv, 3, fun _ a b => fp32Bits (divFp32 (fpOf a) (fpOf b))),
  (.fmin, 5, fun _ a b => fp32Bits (fpMin (fpOf a) (fpOf b))), (.fmax, 6, fun _ a b => fp32Bits ((fpOf a).maxR (fpOf b))),
  (.ffma, 7, fun d a b => fp32Bits (toFp32 (((fpOf a).mul (fpOf b)).add (fpOf d)))),
  (.feq, 8, fun _ a b => if (fpOf a).eqv (fpOf b) then 1 else 0), (.flt, 9, fun _ a b => if (fpOf a).lt (fpOf b) then 1 else 0),
  (.fle, 10, fun _ a b => if (fpOf a).le (fpOf b) then 1 else 0)]

/-- One-operand FP32 instructions. -/
def floatUnaryOps : List ((Nat → Nat → Nat → Instr) × Nat × (Nat → Nat)) := [
  (.fsqrt, 4, fun a => fp32Bits (sqrtFp32 (fpOf a))), (.itof, 11, fun a => fp32Bits (toFp32 (FVal.ofInt (w64 a).toInt))),
  (.ftoi, 12, fun a => fpToInt (fpOf a))]

/-- Scratch loads and stores by MAJOR, with their bytes. -/
def loadOps : List ((Nat → Nat → Nat → Nat → Instr) × Nat × Nat) := [(.ld8u, 0x0C, 1), (.ld16u, 0x0D, 2), (.ld32u, 0x0E, 4), (.ld64, 0x0F, 8)]
def storeOps : List ((Nat → Nat → Nat → Nat → Instr) × Nat × Nat) := [(.st8, 0x10, 1), (.st16, 0x11, 2), (.st32, 0x12, 4), (.st64, 0x13, 8)]

/-- The address of a base register and a signed 16-bit offset, modulo 2^64 (R379). -/
def Thread.addr (th : Thread) (a imm : Nat) : Nat := (w64 (th.sreg a) + signed16 imm).toNat

/-- Special registers that GETSR reads, but CYCLE, with their values (Table 10-3). -/
def specialRegs (c : Core) (t : Nat) (th : Thread) (w : Work) (p : ProgRun) : List (Nat × Nat) := [
  (0, th.inst), (1, p.insts), (2, th.ctx), (3, ctxPart c th.ctx), (4, c.tick), (6, t / 4), (7, t % 4), (8, p.window),
  (9, p.args.toNat), (10, (lastTick w).getD 0), (11, th.fmt.toNat), (12, th.dvprev.toNat),
  (13, b2n w.sat + 4 * b2n w.nonfin + 8 * b2n w.stoch), (14, th.poisonOut)]

/-- The tag that a command posted takes: the lowest free one, else one whose result waits (R384). -/
def Thread.nextTag (th : Thread) : Option Nat :=
  ((List.range 8).filter (fun k => !th.units.any (·.tag == k)) ++ (th.units.filter (·.result.isSome)).map (·.tag)).head?

/-- Unit commands by their CMD (Table 10-8), and engine commands by theirs (Table 10-9). -/
def UnitCmdOf (cmd : Nat → Nat → Nat → Instr) (k : Nat) : Prop :=
  (cmd, k) ∈ [(Instr.dmaGet, 0), (.dmaPut, 1), (.dmaOut, 2), (.dmaTowin, 3), (.dmaFromwin, 4), (.tld, 5), (.tst, 6), (.tadd, 7),
    (.sort, 8), (.pamo, 9)]

def EngineCmdOf (cmd : Nat → Nat → Nat → Instr) (k : Nat) : Prop :=
  (cmd, k) ∈ [(Instr.loadPane, 0), (.loadAct, 1), (.run, 2), (.drain, 3)]

/-! ### Vectors -/

/-- Lane-wise operations of MAJOR 0x24, on lanes of any width (R367, R374). -/
structure LaneOp where
  cmd : Nat → Nat → Nat → Nat → Nat → Nat → Instr
  func : Nat
  op : (w : Nat) → BitVec w → BitVec w → BitVec w

def laneOps : List LaneOp := [
  ⟨.vadd, 0, fun _ a b => a + b⟩, ⟨.vsub, 1, fun _ a b => a - b⟩, ⟨.vand, 2, fun _ a b => a &&& b⟩, ⟨.vor, 3, fun _ a b => a ||| b⟩,
  ⟨.vxor, 4, fun _ a b => a ^^^ b⟩, ⟨.vshl, 5, fun w a b => a <<< (b.toNat % w)⟩, ⟨.vshr, 6, fun w a b => a >>> (b.toNat % w)⟩,
  ⟨.vsar, 7, fun w a b => a.sshiftRight (b.toNat % w)⟩, ⟨.vmin, 8, fun _ a b => if a.sle b then a else b⟩,
  ⟨.vmax, 9, fun _ a b => if a.sle b then b else a⟩, ⟨.vminu, 10, fun _ a b => if a.ule b then a else b⟩,
  ⟨.vmaxu, 11, fun _ a b => if a.ule b then b else a⟩, ⟨.vmul, 12, fun _ a b => a * b⟩]

/-- Lane comparisons into a mask. -/
structure LaneCmp where
  cmd : Nat → Nat → Nat → Nat → Nat → Nat → Instr
  func : Nat
  op : (w : Nat) → BitVec w → BitVec w → Bool

def laneCmps : List LaneCmp := [
  ⟨.vceq, 16, fun _ a b => a == b⟩, ⟨.vclt, 17, fun _ a b => a.slt b⟩, ⟨.vcltu, 18, fun _ a b => a.ult b⟩]

/-- The lanes of a register. -/
def Thread.lanes (th : Thread) (w n : Nat) : List Nat := lanesOf (laneBits w) (th.vreg n)

/-- Lane-wise FP32 operations of MAJOR 0x25 on the old lane and two sources. -/
def laneFloats : List ((Nat → Nat → Nat → Nat → Nat → Instr) × Nat × (Nat → Nat → Nat → Nat)) := [
  (.vfadd, 0, fun _ a b => fp32Bits (addFp32 (fpOf a) (fpOf b))), (.vfsub, 1, fun _ a b => fp32Bits (addFp32 (fpOf a) (fpOf b).neg)),
  (.vfmul, 2, fun _ a b => fp32Bits (mulFp32 (fpOf a) (fpOf b))), (.vfdiv, 3, fun _ a b => fp32Bits (divFp32 (fpOf a) (fpOf b))),
  (.vfmin, 5, fun _ a b => fp32Bits (fpMin (fpOf a) (fpOf b))), (.vfmax, 6, fun _ a b => fp32Bits ((fpOf a).maxR (fpOf b))),
  (.vffma, 7, fun d a b => fp32Bits (toFp32 (((fpOf a).mul (fpOf b)).add (fpOf d))))]

/-- FP32 lane comparisons. -/
def laneFloatCmps : List ((Nat → Nat → Nat → Nat → Nat → Instr) × Nat × (Nat → Nat → Bool)) := [
  (.vfeq, 8, fun a b => (fpOf a).eqv (fpOf b)), (.vflt, 9, fun a b => (fpOf a).lt (fpOf b)), (.vfle, 10, fun a b => (fpOf a).le (fpOf b))]

/-- A value in lane 0, zeros in the others. -/
def lane0 (n v : Nat) : List Nat := (List.range n).map (fun i => if i = 0 then v else 0)

end Sys2Proof.Machine
end

