-- ==== Sys2Proof/Certificates/Slice0/Obligations.lean ====
section
/-! DEFINITION. Statements about the block, chapter by chapter. -/

open Sys2Proof Sys2Proof.Machine

/-! ### Rasp instructions (chapter 10) -/

/-- Every two-operand and one-operand integer instruction writes its result and its sources' poison to d and goes on (R374). -/
def Obligations.ScalarIntegerInstructions : Prop :=
  (∀ e ∈ scalarOps, ∀ (s : State) (t d a b : Nat) (th : Thread) (p : ProgRun) (m : M),
    Issues s t (.fT 0x01 d a b e.func) th p m →
    doesAs th (e.cmd t d a b) s
      (advance m t (th.setS d (e.op (w64 (th.sreg a)) (w64 (th.sreg b))).toNat (th.sbad a || th.sbad b)))) ∧
  (∀ e ∈ unaryOps, ∀ (s : State) (t d a : Nat) (th : Thread) (p : ProgRun) (m : M),
    Issues s t (.fT 0x01 d a 0 e.2.1) th p m →
    doesAs th (e.1 t d a) s (advance m t (th.setS d (e.2.2 (w64 (th.sreg a))) (th.sbad a))))

/-- Immediate instructions (Table 10-5, R374). -/
def Obligations.ScalarImmediateInstructions : Prop :=
  (∀ e ∈ immOps, ∀ (s : State) (t d a imm : Nat) (th : Thread) (p : ProgRun) (m : M),
    Issues s t (.fI e.func d a imm) th p m →
    doesAs th (e.cmd t d a imm) s (advance m t (th.setS d (e.op (w64 (th.sreg a)) (signed16 imm)).toNat (th.sbad a)))) ∧
  (∀ e ∈ shiftOps, ∀ (s : State) (t d a sh : Nat) (th : Thread) (p : ProgRun) (m : M), sh < 64 →
    Issues s t (.fI 0x06 d a (64 * e.2.1 + sh)) th p m →
    doesAs th (e.1 t d a sh) s (advance m t (th.setS d (e.2.2 (w64 (th.sreg a)) sh).toNat (th.sbad a)))) ∧
  (∀ (s : State) (t d imm : Nat) (th : Thread) (p : ProgRun) (m : M), Issues s t (.fI 0x08 d 0 imm) th p m →
    doesAs th (.movi t d imm) s (advance m t (th.setS d (signed16 imm).toNat false))) ∧
  (∀ (s : State) (t d c imm : Nat) (th : Thread) (p : ProgRun) (m : M), Issues s t (.fI 0x09 d c imm) th p m →
    doesAs th (.movk t d c imm) s (advance m t (th.setS d
      ((w64 (th.sreg d) &&& ~~~(w64 0xFFFF <<< (16 * c))) ||| (w64 imm <<< (16 * c))).toNat (th.sbad d))))

/-- A branch whose operands compare so goes to pc + 4 × OFFSET, and one whose operands do not goes on; JAL and JR leave the next
pc in s31 and d (R373). Targets lie in the code and are aligned. -/
def Obligations.BranchesAndJumps : Prop :=
  (∀ e ∈ branchOps, ∀ (s : State) (t a b off : Nat) (th : Thread) (p : ProgRun) (m : M),
    Issues s t (.fB e.2.1 a b off) th p m → th.sbad a = false → th.sbad b = false →
    (e.2.2 (w64 (th.sreg a)) (w64 (th.sreg b)) = false → doesAs th (e.1 t a b off) s (advance m t th)) ∧
    (e.2.2 (w64 (th.sreg a)) (w64 (th.sreg b)) = true → ∀ k : Nat, (k : Int) = th.pc + 4 * (BitVec.ofNat 16 off).toInt →
      k < p.codeBytes → k < 2 ^ 32 → k % 4 = 0 → doesAs th (e.1 t a b off) s (jumped m t th k))) ∧
  (∀ (s : State) (t off : Nat) (th : Thread) (p : ProgRun) (m : M), Issues s t (.fJ 0x1E off) th p m →
    ∀ k : Nat, (k : Int) = th.pc + 4 * (BitVec.ofNat 26 off).toInt → k < p.codeBytes → k < 2 ^ 32 → k % 4 = 0 →
    doesAs th (.jal t off) s (jumped m t (th.setS 31 (th.pc + 4) false) k)) ∧
  (∀ (s : State) (t d a : Nat) (th : Thread) (p : ProgRun) (m : M), Issues s t (.fT 0x1F d a 0 0) th p m → th.sbad a = false →
    th.sreg a < p.codeBytes → th.sreg a % 4 = 0 →
    doesAs th (.jr t d a) s (jumped m t (th.setS d (th.pc + 4) false) (th.sreg a)))

/-- FP32 instructions and CVTS write the rounded result and go on (R375, R376). -/
def Obligations.ScalarFloatInstructions : Prop :=
  (∀ e ∈ floatOps, ∀ (s : State) (t d a b : Nat) (th : Thread) (p : ProgRun) (m : M),
    Issues s t (.fT 0x20 d a b e.2.1) th p m →
    doesAs th (e.1 t d a b) s (advance m t (th.setS d (e.2.2 (th.sreg d) (th.sreg a) (th.sreg b))
      (th.sbad a || th.sbad b || (e.2.1 == 7 && th.sbad d))))) ∧
  (∀ e ∈ floatUnaryOps, ∀ (s : State) (t d a : Nat) (th : Thread) (p : ProgRun) (m : M),
    Issues s t (.fT 0x20 d a 0 e.2.1) th p m →
    doesAs th (e.1 t d a) s (advance m t (th.setS d (e.2.2 (th.sreg a)) (th.sbad a)))) ∧
  (∀ (s : State) (t d a b : Nat) (th : Thread) (p : ProgRun) (m : M) (x y : FmtWord),
    Issues s t (.fT 0x21 d a b 0) th p m →
    fmtWord? (th.sreg b % 2 ^ 32) = some x → fmtWord? (th.sreg b / 2 ^ 32 % 2 ^ 32) = some y → isBlock x.fmt = false →
    isBlock y.fmt = false → pairOk x.fmt y.fmt = true →
    (th.sbad a || th.sbad b) = false →
    (x.fmt = y.fmt → ∀ c : Core, c = addFlags m.core th.ctx th.num (bitFlags [decodeElem x.fmt (th.sreg a % 2 ^ elemBits x.fmt)]) →
      stays { m with core := c } t →
      doesAs th (.cvts t d a b) s (advance { m with core := c } t (th.setS d (th.sreg a % 2 ^ elemBits x.fmt) false))) ∧
    (x.fmt ≠ y.fmt → ∀ (c : Core) (e : Nat) (f : Flags),
      encodeScalars m.core y [decodeElem x.fmt (th.sreg a % 2 ^ elemBits x.fmt)] = (c, [e], f) →
      stays { m with core := addFlags c th.ctx th.num f } t →
      doesAs th (.cvts t d a b) s (advance { m with core := addFlags c th.ctx th.num f } t (th.setS d e false)))) ∧
  (∀ (s : State) (t d a b : Nat) (th : Thread) (p : ProgRun) (m : M) (x y : FmtWord),
    Issues s t (.fT 0x21 d a b 0) th p m →
    fmtWord? (th.sreg b % 2 ^ 32) = some x → fmtWord? (th.sreg b / 2 ^ 32 % 2 ^ 32) = some y → isBlock x.fmt = false →
    isBlock y.fmt = false → pairOk x.fmt y.fmt = true → (th.sbad a || th.sbad b) = true →
    ∃ (c : Core) (e : Nat), (x.fmt = y.fmt → c = m.core) ∧ (stays { m with core := c } t →
      doesAs th (.cvts t d a b) s (advance { m with core := c } t (th.setS d e true))))

/-- Scratch is read and written at base + offset, zero-extended, in range and aligned; a vector load or store takes 64 bytes
(R379, R367, R572). -/
def Obligations.ScratchLoadsAndStores : Prop :=
  (∀ e ∈ loadOps, ∀ (s : State) (t d a imm : Nat) (th : Thread) (p : ProgRun) (m : M) (c : Core) (b : List Byte) (bad : List Bool),
    Issues s t (.fI e.2.1 d a imm) th p m → th.sbad a = false → th.addr a imm + e.2.2 ≤ 65536 → th.addr a imm % e.2.2 = 0 →
    scratchLoad m.core t (th.addr a imm) e.2.2 = (c, b, bad) → stays { m with core := c } t →
    doesAs th (e.1 t d a imm) s (advance { m with core := c } t (th.setS d (leNat b) (bad.any id)))) ∧
  (∀ e ∈ storeOps, ∀ (s : State) (t d a imm : Nat) (th : Thread) (p : ProgRun) (m : M),
    Issues s t (.fI e.2.1 d a imm) th p m → th.sbad a = false → th.addr a imm + e.2.2 ≤ 65536 → th.addr a imm % e.2.2 = 0 →
    stays (m.on (fun c => scratchStore c t (th.addr a imm) (natLe e.2.2 (th.sreg d)) (fun _ => th.sbad d))) t →
    doesAs th (e.1 t d a imm) s
      (advance (m.on (fun c => scratchStore c t (th.addr a imm) (natLe e.2.2 (th.sreg d)) (fun _ => th.sbad d))) t th)) ∧
  (∀ (s : State) (t vd sr mk w : Nat) (th : Thread) (p : ProgRun) (m : M) (c : Core) (b : List Byte) (bad : List Bool),
    Issues s t (.fX 0x26 vd 0 sr mk w 2) th p m → th.sbad sr = false → th.sreg sr + 64 ≤ 65536 → th.sreg sr % 64 = 0 →
    scratchLoad m.core t (th.sreg sr) 64 = (c, b, bad) → stays { m with core := c } t →
    doesAs th (.vld t vd sr mk w) s (advance { m with core := c } t (th.loadV vd mk w b (bad.getD 0 false) (bad.getD 32 false)))) ∧
  (∀ (s : State) (t vd sr : Nat) (th : Thread) (p : ProgRun) (m : M),
    Issues s t (.fX 0x26 vd 0 sr 0 0 3) th p m → th.sbad sr = false → th.sreg sr + 64 ≤ 65536 → th.sreg sr % 64 = 0 →
    stays (m.on (fun c => scratchStore c t (th.sreg sr) (natLe 64 (th.vreg vd).toNat) (th.vbad vd))) t →
    doesAs th (.vst t vd sr) s
      (advance (m.on (fun c => scratchStore c t (th.sreg sr) (natLe 64 (th.vreg vd).toNat) (th.vbad vd))) t th)) ∧
  (∀ (s : State) (t vd va sr mk : Nat) (th : Thread) (p : ProgRun) (m m' : M) (as : List (Nat × Nat)) (r : Core × List Nat × Bool × Bool),
    Issues s t (.fX 0x26 vd va sr mk 0 8) th p m → laneAddrs th va sr mk = .inr as →
    r = as.foldl (fun r x =>
      let l := scratchLoad r.1 t x.2 4
      (l.1, listMod r.2.1 x.1 (fun _ => leNat l.2.1), r.2.2.1 || (x.1 < 8 && l.2.2.any id), r.2.2.2 || (8 ≤ x.1 && l.2.2.any id)))
      (m.core, th.lanes 0 vd, false, false) →
    m' = { m with core := r.1 } → stays m' t →
    doesAs th (.vgath t vd va sr mk) s (advance m' t (th.putV vd (th.mreg mk) 0 (ofLanes 32 r.2.1) r.2.2.1 r.2.2.2))) ∧
  (∀ (s : State) (t vd va sr mk : Nat) (th : Thread) (p : ProgRun) (m m' : M) (as : List (Nat × Nat)),
    Issues s t (.fX 0x26 vd va sr mk 0 9) th p m → laneAddrs th va sr mk = .inr as →
    m' = m.on (fun c => as.foldl (fun c x =>
      scratchStore c t x.2 (natLe 4 ((lanesOf 32 (th.vreg vd)).getD x.1 0)) (fun _ => th.vbad vd (x.1 / 8))) c) → stays m' t →
    doesAs th (.vscat t vd va sr mk) s (advance m' t th))

/-- The window is read at any place of it and written at or above 0x8000; SAMO writes and gives the old word in one (R381).
Rests on the model's choices (assumption 43). -/
def Obligations.WindowAccesses : Prop :=
  (∀ (s : State) (t d a imm : Nat) (th : Thread) (p : ProgRun) (m : M) (c : Core) (b : List Byte) (bad : List Bool),
    Issues s t (.fI 0x14 d a imm) th p m → th.sbad a = false → th.addr a imm + 8 ≤ winEnd m.core th → th.addr a imm % 8 = 0 →
    winLoad m.core th.ctx th.num (th.addr a imm) 8 = (c, b, bad) → stays { m with core := c } t →
    doesAs th (.sld64 t d a imm) s (advance { m with core := c } t (th.setS d (leNat b) (bad.any id)))) ∧
  (∀ (s : State) (t d a imm : Nat) (th : Thread) (p : ProgRun) (m m' : M),
    Issues s t (.fI 0x15 d a imm) th p m → th.sbad a = false → 0x8000 ≤ th.addr a imm → th.addr a imm + 8 ≤ winEnd m.core th →
    th.addr a imm % 8 = 0 →
    m' = m.on (fun c => winStore c th.ctx th.num (th.addr a imm) (natLe 8 (th.sreg d)) (fun _ => th.sbad d)) → stays m' t →
    doesAs th (.sst64 t d a imm) s (advance m' t th)) ∧
  (∀ (s : State) (t vd sr mk w : Nat) (th : Thread) (p : ProgRun) (m : M) (c : Core) (b : List Byte) (bad : List Bool),
    Issues s t (.fX 0x26 vd 0 sr mk w 4) th p m → th.sbad sr = false → th.sreg sr + 64 ≤ winEnd m.core th → th.sreg sr % 64 = 0 →
    winLoad m.core th.ctx th.num (th.sreg sr) 64 = (c, b, bad) → stays { m with core := c } t →
    doesAs th (.vsld t vd sr mk w) s (advance { m with core := c } t (th.loadV vd mk w b (bad.getD 0 false) (bad.getD 32 false)))) ∧
  (∀ (s : State) (t vd sr : Nat) (th : Thread) (p : ProgRun) (m m' : M),
    Issues s t (.fX 0x26 vd 0 sr 0 0 5) th p m → th.sbad sr = false → 0x8000 ≤ th.sreg sr → th.sreg sr + 64 ≤ winEnd m.core th →
    th.sreg sr % 64 = 0 →
    m' = m.on (fun c => winStore c th.ctx th.num (th.sreg sr) (natLe 64 (th.vreg vd).toNat) (th.vbad vd)) → stays m' t →
    doesAs th (.vsst t vd sr) s (advance m' t th)) ∧
  (∀ (s : State) (t d a b : Nat) (th : Thread) (p : ProgRun) (m : M) (c : Core) (old : List Byte),
    Issues s t (.fT 0x2E d a b 0) th p m → th.sbad a = false → th.sbad b = false → 0x8000 ≤ th.sreg a →
    th.sreg a + 8 ≤ winEnd m.core th → th.sreg a % 8 = 0 →
    winLoad m.core th.ctx th.num (th.sreg a) 8 = (c, old, List.replicate 8 false) →
    stays { m with core := winStore c th.ctx th.num (th.sreg a) (natLe 8 (leNat old + th.sreg b)) (fun _ => false) } t →
    doesAs th (.samoAdd t d a b) s
      (advance { m with core := winStore c th.ctx th.num (th.sreg a) (natLe 8 (leNat old + th.sreg b)) (fun _ => false) } t
        (th.setS d (leNat old) false))) ∧
  (∀ (s : State) (t d a b : Nat) (th : Thread) (p : ProgRun) (m m' : M) (c : Core) (old : List Byte),
    Issues s t (.fT 0x2E d a b 1) th p m → th.sbad a = false → th.sbad b = false → th.sbad d = false → 0x8000 ≤ th.sreg a →
    th.sreg a + 8 ≤ winEnd m.core th → th.sreg a % 8 = 0 →
    winLoad m.core th.ctx th.num (th.sreg a) 8 = (c, old, List.replicate 8 false) →
    m' = { m with core := if leNat old = th.sreg d then winStore c th.ctx th.num (th.sreg a) (natLe 8 (th.sreg b)) (fun _ => false)
      else c } → stays m' t →
    doesAs th (.samoCas t d a b) s (advance m' t (th.setS d (leNat old) false)))

/-- A pool load is checked and then waits for its data, which a POOL_LOAD_RETURN brings; a pool store is made before the thread
goes on (R382, R383). Rests on the model's choices (assumption 41). -/
def Obligations.PoolAccesses : Prop :=
  (∀ (s : State) (t d a imm : Nat) (th : Thread) (p : ProgRun) (m m' m'' : M), Issues s t (.fI 0x16 d a imm) th p m →
    th.sbad a = false → poolPost m th (w64 (th.addr a imm)) 8 8 true false = (m', .ok) →
    m'' = (if servedHere m'.core (ptrChip (w64 (th.addr a imm)))
      then m'.on (fun c => noteTranslated c (ptrExtent (w64 (th.addr a imm))) (ptrOffset (w64 (th.addr a imm))) 8) else (thrRead m' t th (w64 (th.addr a imm)) 8).1) →
    stays m'' t → doesAs th (.pld64 t d a imm) s (m''.on (fun c => modThr c t (fun x => { x with wait := .load false d (w64 (th.addr a imm)) })))) ∧
  (∀ (s : State) (t vd sr mk w : Nat) (th : Thread) (p : ProgRun) (m m' m'' : M), Issues s t (.fX 0x26 vd 0 sr mk w 6) th p m →
    th.sbad sr = false → poolPost m th (w64 (th.sreg sr)) 64 64 true false = (m', .ok) →
    m'' = (if servedHere m'.core (ptrChip (w64 (th.sreg sr)))
      then m'.on (fun c => noteTranslated c (ptrExtent (w64 (th.sreg sr))) (ptrOffset (w64 (th.sreg sr))) 64) else (thrRead m' t th (w64 (th.sreg sr)) 64).1) →
    stays m'' t → doesAs th (.vpld t vd sr mk w) s
      (m''.on (fun c => modThr c t (fun x => { x with wait := .load true (vd + 16 * mk + 64 * w) (w64 (th.sreg sr)) })))) ∧
  (∀ (s : State) (t : Nat) (th : Thread) (dest : Nat) (ptr : W64) (m : M) (b : List Byte) (ps : List Bool),
    inService s.core = true → thr? s.core t = some th → th.wait = .load false dest ptr →
    thrRead (seenBy s.m th) t th ptr 8 = (m, .ok (b, ps)) → doesAs th (.poolLoadReturn t) s (advance m t (th.setS dest (leNat b) (ps.any id)))) ∧
  (∀ (s : State) (t : Nat) (th : Thread) (dest : Nat) (ptr : W64) (m : M) (b : List Byte) (ps : List Bool),
    inService s.core = true → thr? s.core t = some th → th.wait = .load true dest ptr →
    thrRead (seenBy s.m th) t th ptr 64 = (m, .ok (b, ps)) →
    doesAs th (.poolLoadReturn t) s
      (advance m t (th.loadV (dest % 16) (dest / 16 % 4) (dest / 64) b (ps.getD 0 false) (ps.getD 1 false)))) ∧
  (∀ (s : State) (t d a imm : Nat) (th : Thread) (p : ProgRun) (m m' m'' : M) (here : Bool),
    Issues s t (.fI 0x17 d a imm) th p m → th.sbad a = false → th.addr a imm % 8 = 0 →
    thrWriteReady m t th (w64 (th.addr a imm)) (natLe 8 (th.sreg d)) (fun _ => th.sbad d) (th.sbad d) = (m', .ok here) →
    m'' = (if here then (thrStore m' th (w64 (th.addr a imm)) (natLe 8 (th.sreg d)) (fun _ => th.sbad d)).on
      (·.count ECC_POISON_WRITTEN (poisonedParts (ptrOffset (w64 (th.addr a imm))) (natLe 8 (th.sreg d)) (fun _ => th.sbad d))) else m') → stays m'' t →
    doesAs th (.pst64 t d a imm) s (advance m'' t th)) ∧
  (∀ (s : State) (t vd sr : Nat) (th : Thread) (p : ProgRun) (m m' m'' : M) (here : Bool),
    Issues s t (.fX 0x26 vd 0 sr 0 0 7) th p m → th.sbad sr = false → th.sreg sr % 64 = 0 →
    thrWriteReady m t th (w64 (th.sreg sr)) (natLe 64 (th.vreg vd).toNat) (th.vbad vd) (th.vbad vd 0 || th.vbad vd 1) =
      (m', .ok here) →
    m'' = (if here then (thrStore m' th (w64 (th.sreg sr)) (natLe 64 (th.vreg vd).toNat) (th.vbad vd)).on
      (·.count ECC_POISON_WRITTEN (poisonedParts (ptrOffset (w64 (th.sreg sr))) (natLe 64 (th.vreg vd).toNat) (th.vbad vd))) else m') → stays m'' t →
    doesAs th (.vpst t vd sr) s (advance m'' t th))

/-- UPOST posts the block under a tag, given in d; the command's end leaves its result under the tag; UWAIT of an ended tag gives
the result and frees the tag (R384). Rests on the model's choices (assumption 46). -/
def Obligations.UnitCommands : Prop :=
  (∀ cmd k, UnitCmdOf cmd k → ∀ (s : State) (t d a tag : Nat) (th : Thread) (p : ProgRun) (m m' m'' : M) (c : Core) (blk : List Byte),
    Issues s t (.fT 0x28 d a 0 0) th p m → th.sbad a = false → th.sreg a + 32 ≤ 65536 → th.sreg a % 32 = 0 →
    scratchRead m.core t (th.sreg a) 32 = (c, blk, List.replicate 32 false) → (ublk blk).cmd = k → th.nextTag = some tag →
    unitPost { m with core := c } t th (ublk blk) (th.fmt.toNat % 2 ^ 32) = (m', .ok) →
    m'' = m'.on (fun c => { c with rasp := { c.rasp with nextOrder := c.rasp.nextOrder + 1 } }) →
    (k = 0 → servedHere m''.core (ptrChip (w64 (ublk blk).f0)) = true) → stays m'' t →
    doesAs th (cmd t d a) s (advance m'' t
      { th.setS d tag false with units := th.units.filter (·.tag != tag) ++
        [⟨tag, m'.core.rasp.nextOrder, blk, th.fmt.toNat % 2 ^ 32, none⟩] })) ∧
  (∀ (s : State) (t d a : Nat) (th : Thread) (p : ProgRun) (m : M) (u : UnitCmd) (v : W64) (bad : Bool),
    Issues s t (.fT 0x28 d a 0 1) th p m → th.sbad a = false → th.units.find? (fun u => u.tag == th.sreg a) = some u →
    u.result = some (v, bad) →
    doesAs th (.uwait t d a) s (advance m t { th.setS d v.toNat bad with units := th.units.filter (·.tag != u.tag) })) ∧
  (∀ (s : State) (t tag : Nat) (th : Thread) (u : UnitCmd) (m : M) (v : Nat) (bad : Bool),
    inService s.core = true → thr? s.core t = some th → th.units.find? (fun u => u.tag == tag && u.result.isNone) = some u →
    unitRun (seenBy s.m th) t th u = (m, .ok (v, bad)) →
    doesAs th (.unitCommandEnd t tag) s (m.on (fun c => modThr c t (fun th => wakeThread { th with
      units := th.units.map (fun x => if x.tag = tag then { x with result := some (w64 v, bad) } else x),
      background := th.background.filter (fun f => f.ptr != w64 (ublk u.block).f0) }))))

/-- CEACQ takes a free engine, CEPOST posts a command of it, the command's end applies it, CEWAIT of an ended command goes on,
and CEREL gives the engine back (R389, R350, R352). Rests on the model's choices (assumptions 44, 94). -/
def Obligations.EngineCommands : Prop :=
  (∀ (s : State) (t d : Nat) (th : Thread) (p : ProgRun) (m : M), Issues s t (.fT 0x2C d 0 0 0) th p m → th.engine = none →
    (enginesOf m.core (ctxPart m.core th.ctx)).filter (engineFree m.core) ≠ [] →
    ∃ n ∈ (enginesOf m.core (ctxPart m.core th.ctx)).filter (engineFree m.core), ∃ c,
      c = (m.core.choose ((enginesOf m.core (ctxPart m.core th.ctx)).filter (engineFree m.core)).length).1 ∧
      ∀ c' : Core, c' = holdEngine (if th.lost then c.perf (stackReg CE_STEPS_REDONE n) else c) n th.ctx th.num →
      stays { m with core := c' } t →
        doesAs th (.ceacq t d) s (advance { m with core := c' } t
          { th.setS d n false with engine := some n, lost := false, cmds := [] })) ∧
  (∀ cmd k, EngineCmdOf cmd k → ∀ (s : State) (t d a n : Nat) (th : Thread) (p : ProgRun) (m : M) (c : Core) (blk : List Byte),
    Issues s t (.fT 0x2C d a 0 1) th p m → th.sbad a = false → th.sreg a + 32 ≤ 65536 → th.sreg a % 32 = 0 →
    scratchRead m.core t (th.sreg a) 32 = (c, blk, List.replicate 32 false) → (eblk blk).cmd = k → th.engine = some n →
    engPost c th (eblk blk) = none → stays { m with core := modEng c n (fun e => { e with busy := e.busy ++ [(th.nextCmd, blk)] }) } t →
    doesAs th (cmd t d a) s (advance { m with core := modEng c n (fun e => { e with busy := e.busy ++ [(th.nextCmd, blk)] }) } t
      { th.setS d th.nextCmd false with nextCmd := th.nextCmd + 1, cmds := th.cmds ++ [th.nextCmd] })) ∧
  (∀ cmd k, EngineCmdOf cmd k → ∀ (s : State) (t d a : Nat) (th : Thread) (p : ProgRun) (m : M) (c : Core) (blk : List Byte),
    Issues s t (.fT 0x2C d a 0 1) th p m → th.sbad a = false → th.sreg a + 32 ≤ 65536 → th.sreg a % 32 = 0 →
    scratchRead m.core t (th.sreg a) 32 = (c, blk, List.replicate 32 false) → (eblk blk).cmd = k → th.engine = none →
    th.lost = true → stays { m with core := c } t →
    doesAs th (cmd t d a) s (advance { m with core := c } t { th.setS d th.nextCmd false with nextCmd := th.nextCmd + 1 })) ∧
  (∀ (s : State) (t d a : Nat) (th : Thread) (p : ProgRun) (m : M), Issues s t (.fT 0x2C d a 0 2) th p m → th.sbad a = false →
    th.sreg a < th.nextCmd →
    (th.lost = true → doesAs th (.cewait t d a) s (advance m t (th.setS d 1 false))) ∧
    (th.lost = false → th.cmds.contains (th.sreg a) = false → doesAs th (.cewait t d a) s (advance m t (th.setS d 0 false))) ∧
    (th.lost = false → th.cmds.contains (th.sreg a) = true →
      doesAs th (.cewait t d a) s (m.on (fun c => modThr c t (fun x => { x with wait := .engine (th.sreg a) }))))) ∧
  (∀ (s : State) (t : Nat) (th : Thread) (p : ProgRun) (m : M), Issues s t (.fT 0x2C 0 0 0 3) th p m →
    stays (m.on (fun c => releaseEngine c th)) t →
    doesAs th (.cerel t) s (advance (m.on (fun c => releaseEngine c th)) t { th with engine := none, cmds := [] })) ∧
  (∀ (s : State) (t id n : Nat) (th : Thread) (blk : List Byte) (m : M), inService s.core = true → thr? s.core t = some th →
    th.engine = some n → (eng s.core n).busy.find? (·.1 == id) = some (id, blk) →
    engMay (((eng s.core n).busy.takeWhile (·.1 != id)).map (fun x => eblk x.2)) (eblk blk) = true →
    engCmd (seenBy s.m th) t n th (eblk blk) = (m, .ok none) → stays m t →
    doesAs th (.engineCommandEnd t id) s (m.on (fun c => modThr (modEng c n (fun e => { e with busy := e.busy.filter (·.1 != id) })) t
      (fun th => wakeThread { th with cmds := th.cmds.filter (· != id), background := th.background.filter (·.write) }))))

/-- SINC, SREAD, SWAIT and STEST act on the objects of the thread's partition; PFENCE goes on once every command has ended
(R390, R383). Rests on the model's choices (assumption 41). -/
def Obligations.SyncInstructions : Prop :=
  (∀ (s : State) (t a : Nat) (th : Thread) (p : ProgRun) (m : M), Issues s t (.fT 0x2D 0 a 0 0) th p m →
    syncTrap m.core th a = none → allEnded th = true →
    stays (m.on (fun c => syncInc c (th.sreg a) (ctxPart c th.ctx))) t →
    doesAs th (.sinc t a) s (advance (m.on (fun c => syncInc c (th.sreg a) (ctxPart c th.ctx))) t th)) ∧
  (∀ (s : State) (t a : Nat) (th : Thread) (p : ProgRun) (m : M), Issues s t (.fT 0x2D 0 a 0 0) th p m →
    syncTrap m.core th a = none → allEnded th = false →
    doesAs th (.sinc t a) s (m.on (fun c => modThr c t (fun x => { x with wait := .fence })))) ∧
  (∀ (s : State) (t d a : Nat) (th : Thread) (p : ProgRun) (m : M) (o : SyncObj), Issues s t (.fT 0x2D d a 0 1) th p m →
    syncTrap m.core th a = none → sync? m.core (th.sreg a) = some o →
    doesAs th (.sread t d a) s (advance m t (th.setS d o.count false))) ∧
  (∀ (s : State) (t a b : Nat) (th : Thread) (p : ProgRun) (m : M) (c : Core), Issues s t (.fT 0x2D 0 a b 2) th p m →
    syncTrap m.core th a = none → th.sbad b = false →
    (syncWait m.core (th.sreg a) (th.sreg b) (.thread t) = (c, true) → stays { m with core := c } t →
      doesAs th (.swait t a b) s (advance { m with core := c } t th)) ∧
    (syncWait m.core (th.sreg a) (th.sreg b) (.thread t) = (c, false) → stays { m with core := c } t →
      doesAs th (.swait t a b) s { m with core := parkThread c t (.sync (th.sreg a) (th.sreg b)) })) ∧
  (∀ (s : State) (t d a b : Nat) (th : Thread) (p : ProgRun) (m : M) (o : SyncObj), Issues s t (.fT 0x2D d a b 3) th p m →
    syncTrap m.core th a = none → th.sbad b = false → sync? m.core (th.sreg a) = some o →
    doesAs th (.stest t d a b) s (advance m t (th.setS d (if th.sreg b ≤ o.count then 1 else 0) false))) ∧
  (∀ (s : State) (t : Nat) (th : Thread) (p : ProgRun) (m : M), Issues s t (.fT 0x3F 0 0 0 7) th p m →
    (allEnded th = true → doesAs th (.pfence t) s (advance m t th)) ∧
    (allEnded th = false → doesAs th (.pfence t) s (m.on (fun c => modThr c t (fun x => { x with wait := .fence })))))

/-- STEP, EXIT, GETSR, SETSR, BRK, YIELD and NOP (R394, R396, R405, Table 10-3). Rests on the model's choices (assumptions 8, 41). -/
def Obligations.SystemInstructions : Prop :=
  (∀ (s : State) (t : Nat) (spent : Bool) (th : Thread) (p q : ProgRun) (m m' : M), Issues s t (.fT 0x3F 0 0 0 0) th p m →
    (work? m.core th.ctx th.num).bind (·.prog) = some q → q.isRule = false → allEnded th = true →
    m' = m.on (fun c => releaseEngine c th) →
    (q.stopping = true →
      doesAs th (.step t spent) s (m'.on (fun c => progEndCheck (endInstance (countIssue c t) t th 0) th.ctx th.num))) ∧
    (q.stopping = false → (spent || !domainServes m'.core (20 + t / 64)) = true →
      doesAs th (.step t spent) s (m'.on (fun c => yieldInstance (countIssue c t) t th q.saveBytes))) ∧
    (q.stopping = false → spent = false → domainServes m'.core (20 + t / 64) = true → stays m' t →
      doesAs th (.step t spent) s (advance m' t { th with engine := none, cmds := [], books := none }))) ∧
  (∀ (s : State) (t a b : Nat) (th : Thread) (p q : ProgRun) (m : M), Issues s t (.fT 0x3F 0 a b 1) th p m →
    (work? m.core th.ctx th.num).bind (·.prog) = some q → q.isRule = false → th.sbad a = false → th.sbad b = false →
    allEnded th = true →
    (exitStatus (th.sreg a) th.poisonOut = .done → doesAs th (.exit t a b) s (m.on (fun c =>
      progEndCheck (endInstance (releaseEngine (countIssue c t) th) t th (th.sreg b)) th.ctx th.num))) ∧
    (exitStatus (th.sreg a) th.poisonOut ≠ .done → doesAs th (.exit t a b) s (m.on (fun c =>
      progEndCheck (noteFail (endInstance (releaseEngine (countIssue c t) th) t th (th.sreg b)) th.ctx th.num
        (exitStatus (th.sreg a) th.poisonOut) 0) th.ctx th.num)))) ∧
  (∀ (s : State) (t a b : Nat) (th : Thread) (p q : ProgRun) (w : Work) (m : M), Issues s t (.fT 0x3F 0 a b 1) th p m →
    work? m.core th.ctx th.num = some w → w.prog = some q → q.isRule = true → th.sbad a = false → th.sbad b = false →
    allEnded th = true →
    (exitStatus (th.sreg a) th.poisonOut = .done → ∀ m' : M, ruleStores m w = (m', .ok ()) → doesAs th (.exit t a b) s
      (m'.on (fun c => ruleExit (endInstance (releaseEngine (countIssue c t) th) t th (th.sreg b)) th.ctx th.num))) ∧
    (exitStatus (th.sreg a) th.poisonOut ≠ .done → doesAs th (.exit t a b) s
      (m.on (fun c => ruleExit (noteFail (endInstance (releaseEngine (countIssue c t) th) t th (th.sreg b)) th.ctx th.num
        (exitStatus (th.sreg a) th.poisonOut) 0) th.ctx th.num)))) ∧
  (∀ (s : State) (t d b : Nat) (th : Thread) (p q : ProgRun) (w : Work) (m : M) (v : Nat), Issues s t (.fT 0x3F d 0 b 2) th p m →
    work? m.core th.ctx th.num = some w → w.prog = some q → (b, v) ∈ specialRegs m.core t th w q →
    doesAs th (.getsr t d b) s (advance { m with core := m.core.draw.1 } t (th.setS d v false))) ∧
  (∀ (s : State) (t d : Nat) (th : Thread) (p : ProgRun) (m : M), Issues s t (.fT 0x3F d 0 5 2) th p m →
    ∃ v : W64, doesAs th (.getsr t d 5) s (advance { m with core := m.core.draw.1 } t (th.setS d v.toNat false))) ∧
  (∀ (s : State) (t a : Nat) (th : Thread) (p : ProgRun) (m : M), Issues s t (.fT 0x3F 11 a 0 3) th p m → th.sbad a = false →
    doesAs th (.setsr t 11 a) s (advance m t { th with fmt := w64 (th.sreg a) })) ∧
  (∀ (s : State) (t a : Nat) (th : Thread) (p : ProgRun) (m : M), Issues s t (.fT 0x3F 12 a 0 3) th p m → th.sbad a = false →
    doesAs th (.setsr t 12 a) s (advance m t { th with dvprev := w64 (th.sreg a) })) ∧
  (∀ (s : State) (t : Nat) (th : Thread) (p : ProgRun) (m : M), Issues s t (.fT 0x3F 0 0 0 4) th p m →
    ∃ w, fetchWord (seenBy s.m th) t th p = (m, .word w) ∧ doesAs th (.brk t) s (takeTrap m t w (trapOf .break_))) ∧
  (∀ (s : State) (t : Nat) (th : Thread) (p : ProgRun) (m : M), Issues s t (.fT 0x3F 0 0 0 5) th p m →
    doesAs th (.yield t) s (advance m t th)) ∧
  (∀ (s : State) (t : Nat) (th : Thread) (p : ProgRun) (m : M), Issues s t (.fT 0x3F 0 0 0 6) th p m →
    doesAs th (.nopInstruction t) s (advance m t th))

/-- Lane-wise integer instructions write the enabled lanes, comparisons the enabled bits of a mask; the others rearrange or
reduce the enabled lanes (R367, R374, R377). Rests on the model's choices (assumption 49). -/
def Obligations.VectorIntegerInstructions : Prop :=
  (∀ e ∈ laneOps, ∀ (s : State) (t vd va vb mk w : Nat) (th : Thread) (p : ProgRun) (m : M),
    Issues s t (.fV 0x24 vd va vb mk w e.func) th p m →
    doesAs th (e.cmd t vd va vb mk w) s (advance m t (th.putV vd (th.mreg mk) w (ofLanes (laneBits w) (merge (th.mreg mk) (th.lanes w vd)
      ((th.lanes w va).zipWith (fun x y => (e.op (laneBits w) (BitVec.ofNat _ x) (BitVec.ofNat _ y)).toNat) (th.lanes w vb))))
      (th.vbad va 0 || th.vbad vb 0) (th.vbad va 1 || th.vbad vb 1)))) ∧
  (∀ e ∈ laneCmps, ∀ (s : State) (t vd va vb mk w : Nat) (th : Thread) (p : ProgRun) (m : M),
    Issues s t (.fV 0x24 vd va vb mk w e.func) th p m →
    doesAs th (e.cmd t vd va vb mk w) s (advance m t (th.setM vd (mergeMask (th.mreg mk) (th.mreg vd)
      ((th.lanes w va).zipWith (fun x y => e.op (laneBits w) (BitVec.ofNat _ x) (BitVec.ofNat _ y)) (th.lanes w vb)))))) ∧
  (∀ (s : State) (t vd va vb mk w : Nat) (th : Thread) (p : ProgRun) (m : M), Issues s t (.fV 0x24 vd va vb mk w 20) th p m →
    doesAs th (.vsel t vd va vb mk w) s (advance m t (th.putV vd fullMask w
      (ofLanes (laneBits w) (merge (th.mreg mk) (th.lanes w vb) (th.lanes w va)))
      (th.vbad va 0 || th.vbad vb 0) (th.vbad va 1 || th.vbad vb 1)))) ∧
  (∀ (s : State) (t vd va vb mk w : Nat) (th : Thread) (p : ProgRun) (m : M), Issues s t (.fV 0x24 vd va vb mk w 21) th p m →
    doesAs th (.vperm t vd va vb mk w) s (advance m t (th.putV vd (th.mreg mk) w (ofLanes (laneBits w) (merge (th.mreg mk) (th.lanes w vd)
      ((th.lanes w vb).map (fun y => (th.lanes w va).getD (y % laneCount w) 0))))
      (th.vany va || th.vany vb) (th.vany va || th.vany vb)))) ∧
  (∀ (s : State) (t vd va mk w : Nat) (th : Thread) (p : ProgRun) (m : M), Issues s t (.fV 0x24 vd va 0 mk w 22) th p m →
    doesAs th (.vcomp t vd va mk w) s (advance m t (th.putV vd fullMask w
      (ofLanes (laneBits w) (enabled (th.mreg mk) (th.lanes w va))) (th.vany va) (th.vany va)))) ∧
  (∀ (s : State) (t vd va vb mk w : Nat) (th : Thread) (p : ProgRun) (m : M), Issues s t (.fV 0x24 vd va vb mk w 23) th p m →
    doesAs th (.vexp t vd va vb mk w) s (advance m t (th.putV vd (th.mreg mk) w
      (ofLanes (laneBits w) (expandLanes (th.mreg mk) (th.lanes w vd) (th.lanes w va))) (th.vany va) (th.vany va)))) ∧
  (∀ (s : State) (t vd va mk w : Nat) (th : Thread) (p : ProgRun) (m : M), Issues s t (.fV 0x24 vd va 0 mk w 24) th p m →
    doesAs th (.vscan t vd va mk w) s (advance m t (th.putV vd (th.mreg mk) w (ofLanes (laneBits w) (merge (th.mreg mk) (th.lanes w vd)
      ((List.range (laneCount w)).map (fun i =>
        (enabled (th.mreg mk) ((th.lanes w va).take (i + 1))).foldl (· + ·) 0 % 2 ^ laneBits w)))) (th.vany va) (th.vany va)))) ∧
  (∀ (s : State) (t vd va mk w : Nat) (th : Thread) (p : ProgRun) (m : M), Issues s t (.fV 0x24 vd va 0 mk w 25) th p m →
    doesAs th (.vredadd t vd va mk w) s (advance m t (th.putV vd fullMask w (ofLanes (laneBits w)
      [(enabled (th.mreg mk) (th.lanes w va)).foldl (· + ·) 0 % 2 ^ laneBits w]) (th.vany va) (th.vany va)))) ∧
  (∀ (s : State) (t vd va mk w : Nat) (th : Thread) (p : ProgRun) (m : M) (x : Nat) (xs : List Nat),
    Issues s t (.fV 0x24 vd va 0 mk w 26) th p m → enabled (th.mreg mk) (th.lanes w va) = x :: xs →
    doesAs th (.vredmax t vd va mk w) s (advance m t (th.putV vd fullMask w (ofLanes (laneBits w)
      [xs.foldl (fun a b => if (BitVec.ofNat (laneBits w) a).sle (BitVec.ofNat (laneBits w) b) then b else a) x])
      (th.vany va) (th.vany va)))) ∧
  (∀ (s : State) (t vd va mk w : Nat) (th : Thread) (p : ProgRun) (m : M) (x : Nat) (xs : List Nat),
    Issues s t (.fV 0x24 vd va 0 mk w 27) th p m → enabled (th.mreg mk) (th.lanes w va) = x :: xs →
    doesAs th (.vredmaxu t vd va mk w) s (advance m t (th.putV vd fullMask w (ofLanes (laneBits w) [xs.foldl max x])
      (th.vany va) (th.vany va)))) ∧
  (∀ (s : State) (t vd va mk w : Nat) (th : Thread) (p : ProgRun) (m : M), enabled (th.mreg mk) (th.lanes w va) = [] →
    (Issues s t (.fV 0x24 vd va 0 mk w 26) th p m → ∃ v, doesAs th (.vredmax t vd va mk w) s (advance { m with core := m.core.draw.1 } t
      (th.putV vd fullMask w (ofLanes (laneBits w) [v]) (th.vany va) (th.vany va)))) ∧
    (Issues s t (.fV 0x24 vd va 0 mk w 27) th p m → ∃ v, doesAs th (.vredmaxu t vd va mk w) s (advance { m with core := m.core.draw.1 } t
      (th.putV vd fullMask w (ofLanes (laneBits w) [v]) (th.vany va) (th.vany va))))) ∧
  (∀ (s : State) (t vd va : Nat) (th : Thread) (p : ProgRun) (m : M), Issues s t (.fV 0x24 vd va 0 0 0 28) th p m →
    doesAs th (.vsort t vd va) s (advance m t (((th.setV vd (ofLanes 32 ((sortPairs (th.lanes 0 va).zipIdx).map (·.1)))
      (th.vany va) (th.vany va))).setV (vd + 1) (ofLanes 32 ((sortPairs (th.lanes 0 va).zipIdx).map (·.2))) (th.vany va) (th.vany va)))) ∧
  (∀ (s : State) (t vd va mk : Nat) (th : Thread) (p : ProgRun) (m : M), Issues s t (.fV 0x24 vd va 0 mk 0 29) th p m →
    doesAs th (.vuniq t vd va mk) s (advance m t (th.setM (vd % 4) (mergeMask (th.mreg mk) (th.mreg (vd % 4)) ((List.range 16).map (fun i =>
      i == 0 || (th.lanes 0 va).getD i 0 != (th.lanes 0 va).getD (i - 1) 0))))))

/-- FP32 lanes (R375). Rests on the model's choices (assumption 49). -/
def Obligations.VectorFloatInstructions : Prop :=
  (∀ e ∈ laneFloats, ∀ (s : State) (t vd va vb mk : Nat) (th : Thread) (p : ProgRun) (m : M),
    Issues s t (.fV 0x25 vd va vb mk 0 e.2.1) th p m →
    doesAs th (e.1 t vd va vb mk) s (advance m t (th.putV vd (th.mreg mk) 0 (ofLanes 32 (merge (th.mreg mk) (th.lanes 0 vd)
      ((List.range 16).map (fun i => e.2.2 ((th.lanes 0 vd).getD i 0) ((th.lanes 0 va).getD i 0) ((th.lanes 0 vb).getD i 0)))))
      (th.vbad va 0 || th.vbad vb 0 || (e.2.1 == 7 && th.vbad vd 0)) (th.vbad va 1 || th.vbad vb 1 || (e.2.1 == 7 && th.vbad vd 1))))) ∧
  (∀ (s : State) (t vd va mk : Nat) (th : Thread) (p : ProgRun) (m : M), Issues s t (.fV 0x25 vd va 0 mk 0 4) th p m →
    doesAs th (.vfsqrt t vd va mk) s (advance m t (th.putV vd (th.mreg mk) 0 (ofLanes 32 (merge (th.mreg mk) (th.lanes 0 vd)
      ((th.lanes 0 va).map (fun x => fp32Bits (sqrtFp32 (fpOf x)))))) (th.vbad va 0) (th.vbad va 1)))) ∧
  (∀ e ∈ laneFloatCmps, ∀ (s : State) (t vd va vb mk : Nat) (th : Thread) (p : ProgRun) (m : M),
    Issues s t (.fV 0x25 vd va vb mk 0 e.2.1) th p m →
    doesAs th (e.1 t vd va vb mk) s (advance m t (th.setM vd (mergeMask (th.mreg mk) (th.mreg vd)
      ((th.lanes 0 va).zipWith e.2.2 (th.lanes 0 vb)))))) ∧
  (∀ (s : State) (t vd va mk : Nat) (th : Thread) (p : ProgRun) (m : M), Issues s t (.fV 0x25 vd va 0 mk 0 11) th p m →
    doesAs th (.vfredsum t vd va mk) s (advance m t (th.putV vd fullMask 0 (ofLanes 32 [fp32Bits (treeSum 4 ((th.lanes 0 va).zipIdx.map
      (fun x => if bitOf (th.mreg mk) x.2 then fpOf x.1 else FVal.zero)))]) (th.vany va) (th.vany va)))) ∧
  (∀ (s : State) (t vd va mk : Nat) (th : Thread) (p : ProgRun) (m : M) (x : Nat) (xs : List Nat),
    Issues s t (.fV 0x25 vd va 0 mk 0 12) th p m → enabled (th.mreg mk) (th.lanes 0 va) = x :: xs →
    doesAs th (.vfredmax t vd va mk) s (advance m t (th.putV vd fullMask 0
      (ofLanes 32 [xs.foldl (fun a b => fp32Bits ((fpOf a).maxR (fpOf b))) x]) (th.vany va) (th.vany va)))) ∧
  (∀ (s : State) (t vd va mk : Nat) (th : Thread) (p : ProgRun) (m : M), Issues s t (.fV 0x25 vd va 0 mk 0 12) th p m →
    enabled (th.mreg mk) (th.lanes 0 va) = [] → ∃ v, doesAs th (.vfredmax t vd va mk) s (advance { m with core := m.core.draw.1 } t
      (th.putV vd fullMask 0 (ofLanes 32 [v]) (th.vany va) (th.vany va))))

/-- Broadcast, lane 0, counts, conversions and the record instructions (R376 to R378).
Rests on the model's choices (assumption 47). -/
def Obligations.VectorMovesAndRecords : Prop :=
  (∀ (s : State) (t vd sr mk w : Nat) (th : Thread) (p : ProgRun) (m : M), Issues s t (.fX 0x26 vd 0 sr mk w 0) th p m →
    doesAs th (.vbcast t vd sr mk w) s (advance m t (th.putV vd (th.mreg mk) w (ofLanes (laneBits w) (merge (th.mreg mk) (th.lanes w vd)
      (List.replicate (laneCount w) (th.sreg sr % 2 ^ laneBits w)))) (th.sbad sr) (th.sbad sr)))) ∧
  (∀ (s : State) (t va sr w : Nat) (th : Thread) (p : ProgRun) (m : M), Issues s t (.fX 0x26 0 va sr 0 w 1) th p m →
    doesAs th (.vget t va sr w) s (advance m t (th.setS sr ((th.vreg va).toNat % 2 ^ laneBits w) (th.vbad va 0)))) ∧
  (∀ (s : State) (t sr mk w : Nat) (th : Thread) (p : ProgRun) (m : M), Issues s t (.fX 0x26 0 0 sr mk w 14) th p m →
    doesAs th (.mpopc t sr mk w) s (advance m t (th.setS sr ((List.range (laneCount w)).filter (bitOf (th.mreg mk))).length false))) ∧
  (∀ (s : State) (t vd va sr mk : Nat) (th : Thread) (p : ProgRun) (m m' : M) (x : FmtWord × FmtWord),
    Issues s t (.fX 0x26 vd va sr mk 0 13) th p m → convPair (th.sreg sr) = .inr x → m' = (vcvt vd va sr mk m th).1 → stays m' t →
    ∃ (v : W512) (lo hi : Bool), doesAs th (.vcvt t vd va sr mk) s (advance m' t (th.setV vd v lo hi)) ∧ m'.mem = m.mem ∧
      (x.1.fmt = x.2.fmt → th.sbad sr = false → th.vany va = false →
        v = ofLanes (elemBits x.1.fmt) ((List.range (512 / elemBits x.1.fmt)).map (fun i =>
          if mk = 0 ∨ bitOf (th.mreg mk) i = true then (lanesOf (elemBits x.1.fmt) (th.vreg va)).getD i 0
          else (lanesOf (elemBits x.1.fmt) (th.vreg vd)).getD i 0)))) ∧
  (∀ (s : State) (t vd sr mk : Nat) (th : Thread) (p : ProgRun) (m : M) (r : DvRun), Issues s t (.fX 0x26 vd 0 sr mk 0 10) th p m →
    th.sbad sr = false → r = ((List.range 16).filter (bitOf (th.mreg mk))).foldl (dvLane t)
      { c := m.core, lanes := th.lanes 0 vd, addr := th.sreg sr, prev := th.dvprev.toNat % 2 ^ 32, lo := false, hi := false, trap := none } →
    r.trap = none → stays { m with core := r.c } t →
    doesAs th (.vdvar t vd sr mk) s (advance { m with core := r.c } t
      ({ th.putV vd (th.mreg mk) 0 (ofLanes 32 r.lanes) r.lo r.hi with
        dvprev := if (List.range 16).filter (bitOf (th.mreg mk)) = [] then th.dvprev else w64 r.prev }.setS sr r.addr
          (r.lo || r.hi)))) ∧
  (∀ (s : State) (t vd sr mk : Nat) (th : Thread) (p : ProgRun) (m : M) (f : FmtWord) (c : Core) (r : Rec) (v : List Nat),
    Issues s t (.fX 0x26 vd 0 sr mk 0 11) th p m → recordTrap m.core th sr = .inr f →
    c = ((readRecord m.core t (th.sreg sr) f.fmt).1.count ECC_POISON_READ
      (badWordsIn 0 (scratchRead (readRecord m.core t (th.sreg sr) f.fmt).1 t (th.sreg sr) 64).2.2)) →
    r = (readRecord m.core t (th.sreg sr) f.fmt).2 → stays { m with core := c } t →
    v = r.elems.map (fun e => fp32Bits (toFp32 (decodeValue f.fmt (if f.fmt = .cb4 then codebook c f.codebook else []) r.scale e))) →
    ∃ th', doesAs th (.vdec t vd sr mk) s (advance { m with core := c } t th') ∧
      th' = (th.putV vd (th.mreg mk) 0 (ofLanes 32 (merge (th.mreg mk) (th.lanes 0 vd) (v.take 16))) r.poison r.poison).putV (vd + 1)
        (th.mreg mk) 0 (ofLanes 32 (merge (th.mreg mk) (th.lanes 0 (vd + 1)) (v.drop 16))) r.poison r.poison) ∧
  (∀ (s : State) (t vd sr : Nat) (th : Thread) (p : ProgRun) (m m' : M) (f : FmtWord), Issues s t (.fX 0x26 vd 0 sr 0 0 12) th p m →
    recordTrap m.core th sr = .inr f → m' = (venc vd sr m th t).1 → stays m' t → doesAs th (.venc t vd sr) s (advance m' t th)) ∧
  (∀ (s : State) (t vd sr : Nat) (th : Thread) (p : ProgRun) (m : M) (f : FmtWord) (x : Core × Rec) (cb : List FVal) (e : BlockEnc)
      (c : Core), Issues s t (.fX 0x26 vd 0 sr 0 0 12) th p m → recordTrap m.core th sr = .inr f → vd < 15 →
    (th.vany vd || th.vany (vd + 1)) = false → x = readRecord (m.core.drawN 80).1 t (th.sreg sr) f.fmt → x.2.poison = false →
    cb = (if f.fmt = .cb4 then codebook x.1 f.codebook else []) →
    e = encodeBlock f cb x.2.elems x.2.scale ((th.lanes 0 vd ++ th.lanes 0 (vd + 1)).map (fun v => some (fpOf v))) m.core.glb.draws →
    c = addFlags (putRecord x.1 t (th.sreg sr) f.fmt e.elems e.scale (recordFlags f.fmt cb e.elems e.scale false)) th.ctx th.num e.flags →
    stays { m with core := c } t → doesAs th (.venc t vd sr) s (advance { m with core := c } t th))

/-- Instances start, resume, and overrun their step limit; a reserved word traps ILLEGAL (R404, R396, R395, R372).
Rests on the model's choices (assumptions 40, 46, 89). -/
def Obligations.ThreadsAndTraps : Prop :=
  (∀ (s : State) (ctx num t : Nat) (w : Work) (p : ProgRun), inService s.core = true → work? s.core ctx num = some w →
    w.prog = some p → w.phase = .running → w.started = true → p.stopping = false → threadFree s.core (ctxPart s.core ctx) t = true →
    p.isRule = false → p.next < p.insts →
    doesTo (.instanceStart ctx num t) s (modWork (setThr s.core t (freshThread ctx num p.next p.insts p.entry)) ctx num
      (fun w => { w with prog := some { p with next := p.next + 1 } }))) ∧
  (∀ (s : State) (ctx num inst t : Nat) (v : SavedInst) (p : ProgRun), inService s.core = true →
    s.core.rasp.saved.find? (fun s => s.thread.ctx == ctx && s.thread.num == num && s.thread.inst == inst) = some v →
    (work? s.core ctx num).bind (·.prog) = some p → v.tick < s.core.tick → threadFree s.core (ctxPart s.core ctx) t = true →
    ∃ rest : AMap Byte, (∀ e ∈ rest, p.saveBytes ≤ e.1) ∧
      ∃ c, c = setThr (setScratch (s.core.drawN 65536).1 t { v.scratch with bytes := v.scratch.bytes ++ rest }) t v.thread ∧
        doesTo (.threadResume ctx num inst t) s { c with rasp := { c.rasp with saved := s.core.rasp.saved.filter (· != v) } }) ∧
  (∀ (s : State) (t : Nat) (th : Thread), inService s.core = true → thr? s.core t = some th → (∀ k, th.wait ≠ .parked k) →
    does (.stepLimitExpiry t) s (lateTrap s.m t (trapOf .stepLimit))) ∧
  (∀ (s : State) (t w : Nat) (th : Thread) (p : ProgRun) (m : M), inService s.core = true → mayIssue s.core t = some (th, p) →
    th.pc < p.codeBytes → fetchWord (seenBy s.m th) t th p = (m, .word w) → decodeRasp w = none → stays m t →
    doesAs th (.reservedInstruction t w) s (takeTrap m t w (trapOf .illegal)))

/-! ### Bring-up, resets and recovery (chapters 18, 19, 21) -/

/-- Power-on reset keeps the fuses, the flash and the pins alone, and latches the straps; each step of start-up begins at its
command and shows the next (R652 to R656). Rests on the model's choices (assumptions 1, 21, 22). -/
def Obligations.StartUpSteps : Prop :=
  (∀ s : State, s.core.pins.pwrGood = false →
    doesTo .pwrGoodRise s (startCore resetRegs s.core.sec.fuses s.core.boot.flash { s.core.pins with
      pwrGood := true, tickOut := false, fault := false, thermAlert := false, thermTrip := false, stoppedClocks := [],
      ringRole := s.core.pins.ringRolePin, i2cAddr := s.core.pins.i2cAddrPin, pairRole := s.core.pins.pairRolePin } 0
      s.core.glb.draws)) ∧
  (∀ (s : State) (time : Nat), s.core.pins.resetAsserted = true →
    doesTo (.resetNRelease time) s { s.core with
      glb := { s.core.glb with now := max s.core.glb.now time }, pins := { s.core.pins with resetAsserted := false },
      boot := { s.core.boot with start := max s.core.glb.now time } }) ∧
  (∀ (s : State) (time : Nat), atStep s.core 0 = true → s.core.boot.start + 50000 ≤ time → ∃ k,
    doesTo (.bootRomStart time) s (modSec ((List.range 6).foldl (fun c i => c.rset (SEC_M_ROM i) (Config.romDigest i))
      (endStep s.core 1 time)).draw.1 (fun x => { x with kemKey := k }))) ∧
  (∀ (s : State) (time : Nat) (c : Core) (h : FlashHdr), atStep s.core 1 = true → c = endStep s.core 2 time → hdrOk c = true →
    h = readHdr c →
    doesTo (.flashHeaderCheck time) s (modBoot (((c.setFld BOOT_FLASH BOOT_FLASH_CLOCK_MHZ h.clockMhz).setFld BOOT_FLASH
      BOOT_FLASH_FLASH_MIB h.mib).setFld BOOT_FLASH BOOT_FLASH_LANES (h.flags % 4)) (fun b =>
        { b with hdr := some h, image := flashBytes c h.imageOff (h.imageLen - envBytes) }))) ∧
  (∀ (s : State) (a b c d : Bool) (time : Nat) (h : FlashHdr) (kh : Nat) (x : Core), s.core.boot.hdr = some h →
    atStep s.core 2 = true → x = endStep s.core 3 time → x.sec.fuses.ownerKh = some kh →
    objectOk x h.imageOff h.imageLen 1 x.sec.fuses.vendorKh true a b = true →
    objectOk x h.configOff h.configLen 2 kh false c d = true →
    doesTo (.signedObjectVerify a b c d time) s ((setDigest (setDigest x SEC_M_IMAGE
      (flashNat x (envAt h.imageOff h.imageLen + 0x10) 48)) SEC_M_CONFIG (flashNat x (envAt h.configOff h.configLen + 0x10) 48)).setFld
      SEC_SVN SEC_SVN_IMAGE (flashNat (setDigest (setDigest x SEC_M_IMAGE (flashNat x (envAt h.imageOff h.imageLen + 0x10) 48))
        SEC_M_CONFIG (flashNat x (envAt h.configOff h.configLen + 0x10) 48)) (envAt h.imageOff h.imageLen + 8) 4))) ∧
  (∀ (s : State) (d : ConfigDef) (time : Nat) (h : FlashHdr) (c : Core), s.core.boot.hdr = some h → atStep s.core 3 = true →
    c = endStep s.core 4 time → configWhole c h d = true → cfgRange d = true → partsApart d = true →
    doesTo (.configurationApply d time) s (applyConfig c d)) ∧
  (∀ (s : State) (failed : List Nat) (time : Nat), atStep (s.core.at time) 4 = true →
    s.core.fld ECC_STATUS ECC_STATUS_FILL = 0 →
    ∃ c, c = (List.range 16).foldl (fun c n => if failed.contains n then stackFailed (raise c .memTrainFailed 2 n) n
        else c.setFld (stackReg MEM_STATUS n) MEM_STATUS_STATE 2) (s.core.at time) ∧
      doesTo (.stackTrainingEnd failed time) s ({ c with mem := { c.mem with
        unfilled := (List.range 16).filter (fun n => !failed.contains n) } }.setFld ECC_STATUS ECC_STATUS_FILL 1)) ∧
  (∀ (s : State) (time : Nat), atStep (s.core.at time) 4 = true → s.core.fld ECC_STATUS ECC_STATUS_FILL = 1 →
    ∃ c, c = endStep ((s.core.at time).setFld ECC_STATUS ECC_STATUS_FILL 2) 5 time ∧
      does (.fillDone time) s
        { core := opTarget { c with mem := { c.mem with
            unfilled := [], scrub := (List.range 512).map (fun k => (k, ⟨0, c.glb.now⟩)) } }
            (c.fld BOOT_CFG BOOT_CFG_START_OP),
          mem := s.core.mem.unfilled.foldl (fun (m : Mem) n => m.clear (n * 2 ^ 32) ((n + 1) * 2 ^ 32)) s.mem }) ∧
  (∀ (s : State) (time : Nat), atStep s.core 6 = true → s.core.fld ECC_STATUS ECC_STATUS_FILL = 2 →
    s.core.flag PWR_OP PWR_OP_BUSY = false → minimumSet s.core = true →
    does (.startProgramsPlaced time) s (((List.range 68).foldl applyDomain s.m).on (fun c => becomeReady (endStep c 7 time)))) ∧
  (∀ s : State, powered s.core = true → s.core.glb.atelier ≠ .restarting → bootStage s.core = 2 ∨ bootStage s.core = 6 →
    ∃ c, c = s.core.satFld BOOT_STATUS BOOT_STATUS_LOAD_TRIES ∧
      (c.fld BOOT_STATUS BOOT_STATUS_LOAD_TRIES = 2 → doesTo .bootLoaderHalt s (enterRecovery c .bootLoadPoison)) ∧
      (c.fld BOOT_STATUS BOOT_STATUS_LOAD_TRIES ≠ 2 → doesTo .bootLoaderHalt s c))

/-- A bad header, object or configuration takes the chip to RECOVERY (R633, R659, R660, R661).
Rests on the model's choices (assumptions 6, 21). -/
def Obligations.BadBootObjectsGoToRecovery : Prop :=
  (∀ (s : State) (time : Nat), atStep s.core 1 = true → hdrOk (endStep s.core 2 time) = false →
    doesTo (.flashHeaderCheck time) s (enterRecovery (endStep s.core 2 time) .bootHeaderBad)) ∧
  (∀ (s : State) (a b c d : Bool) (time : Nat) (h : FlashHdr), s.core.boot.hdr = some h → atStep s.core 2 = true →
    a = false ∨ b = false →
    doesTo (.signedObjectVerify a b c d time) s (enterRecovery (endStep s.core 3 time) .bootSignatureBad)) ∧
  (∀ (s : State) (a b c d : Bool) (time : Nat) (h : FlashHdr) (x : Core), s.core.boot.hdr = some h → atStep s.core 2 = true →
    x = endStep s.core 3 time → objectOk x h.imageOff h.imageLen 1 x.sec.fuses.vendorKh true a b = true →
    x.sec.fuses.ownerKh = none → doesTo (.signedObjectVerify a b c d time) s (enterRecovery x .bootOwnerBlank)) ∧
  (∀ (s : State) (d : ConfigDef) (time : Nat) (h : FlashHdr), s.core.boot.hdr = some h → atStep s.core 3 = true →
    partsApart d = false →
    doesTo (.configurationApply d time) s (enterRecovery (endStep s.core 4 time) .bootConfigBad))

/-- Power that falls loses all but fuses, flash and pins; a warm reset keeps the sticky fields too; the recovery loader reads and
writes the flash and restarts (R653, R661, R662, R677). Rests on the model's choices (assumptions 1, 18, 23). -/
def Obligations.ResetsAndRecovery : Prop :=
  (∀ s : State, s.core.pins.pwrGood = true → ∃ pins,
    pins.pwrGood = false ∧ pins.tickOut = false ∧ pins.fault = false ∧ pins.thermTrip = s.core.pins.thermTrip ∧
    doesTo .pwrGoodFall s (startCore resetRegs s.core.sec.fuses s.core.boot.flash pins s.core.glb.now s.core.glb.draws)) ∧
  (∀ (s : State) (src : Src), s.core.pins.pwrGood = true → s.core.pins.resetAsserted = false → s.core.pins.thermTrip = false →
    ∃ c pins regs, c = (s.core.satFld BOOT_CAUSE BOOT_CAUSE_WARM_COUNT).setFld BOOT_CAUSE BOOT_CAUSE_F 1 ∧
      pins = { s.core.pins with
        tickOut := false, fault := false, ringRole := s.core.pins.ringRolePin,
        i2cAddr := s.core.pins.i2cAddrPin, pairRole := s.core.pins.pairRolePin, resetAsserted := true } ∧
      regs = (stickyOf c).foldl (fun r x => if x.2 = 0 then r else amSet r x.1 x.2) resetRegs ∧
      doesTo (.warmReset true src) s (startCore regs s.core.sec.fuses s.core.boot.flash pins s.core.glb.now s.core.glb.draws)) ∧
  (∀ (s : State) (src : Src) (off : Nat) (data : List Byte) (m : M), FmAsks { mop := 0x0B05, recovery := true, slot0 := true } src s m →
    off % 4096 = 0 → off + 4096 ≤ flashSize m.core → data.length = 4096 →
    does (.imageWrite src off data) s (accepted (m.on (fun c => (programSector c off data).count BOOT_IMAGE_WRITES)) src 0x0B05)) ∧
  (∀ (s : State) (src : Src) (off : Nat) (m : M), FmAsks { mop := 0x0B06, recovery := true, slot0 := true } src s m →
    off % 4096 = 0 → off + 4096 ≤ flashSize m.core →
    does (.imageRead src off) s (accepted m src 0x0B06 ((flashBytes m.core off 4096).map (·.toNat)))) ∧
  (∀ (s : State) (src : Src) (m : M), FmAsks { mop := 0x0B07, recovery := true } src s m →
    does (.recoveryRestart src) s
      (accepted (m.on (fun c => { c with boot := { c.boot with restart := some 3 } })) src 0x0B07)) ∧
  (∀ s : State, powered s.core = true → bootStage s.core = 9 →
    doesTo (.neighborDiscovery (loaderIp s.core)) s { s.core with
      boot := { s.core.boot with sbSent := [136, loaderIp s.core, loaderMac s.core] } })

/-- The test access port, the temperature pins, the reference clocks, the atelier's watchdog and the pair links (R20 to R24, R630,
R664, R716 to R720). Rests on the model's choices (assumptions 24, 25, 26, 27). -/
def Obligations.PinsAndTestAccess : Prop :=
  (∀ s : State, s.core.pins.pwrGood = true →
    doesTo .jtagBypass s { s.core with boot := { s.core.boot with jtag := 1, jtagData := 0 } } ∧
    doesTo .jtagIdcode s { s.core with boot := { s.core.boot with jtag := 0, jtagData := 0x1401656B } } ∧
    doesTo .jtagExtest s { s.core with boot := { s.core.boot with jtag := 3, jtagData := 0 } } ∧
    ∀ cells, doesTo (.jtagSamplePreload cells) s { s.core with boot := { s.core.boot with
      jtag := 2, jtagData := packBits (outPads s.core ++ inPads s.core), extest := cells } }) ∧
  (∀ (s : State) (n temp : Nat), n < 64 → s.core.pins.pwrGood = true → s.core.pins.thermTrip = false → alertAt n ≤ temp →
    temp < tripAt n → doesTo (.thermAlert n temp) s { s.core with pins := { s.core.pins with
      thermAlert := true, alerting := n :: s.core.pins.alerting.filter (· != n) } }) ∧
  (∀ (s : State) (n temp : Nat), n < 64 → s.core.pins.pwrGood = true → s.core.pins.thermTrip = false → temp + 5 ≤ alertAt n →
    s.core.pins.alerting.filter (· != n) = [] → doesTo (.thermAlert n temp) s { s.core with pins := { s.core.pins with
      thermAlert := false, alerting := [] } }) ∧
  (∀ (s : State) (n : Nat), n < 64 → powered s.core = true → ∃ c,
    c = setKeyOut (s.core.setFld RING_STATUS RING_STATUS_BYPASS 3) false ∧
    doesTo (.thermTrip n) s { c with pins := { c.pins with thermTrip := true } }) ∧
  (∀ s : State, s.core.pins.pwrGood = true → s.core.pins.stoppedClocks.contains 0 = false → ∃ c,
    doesTo (.referenceClockStop 0) s c ∧ c.pins.stoppedClocks = 0 :: s.core.pins.stoppedClocks ∧ powered c = false) ∧
  (∀ (s : State) (time : Nat), powered s.core = true → s.core.glb.atelier = .running → soonAgain (s.core.at time) = false →
    doesTo (.atelierWatchdog time) s (restartAtelier (raise (s.core.at time) .atlWatchdog 14 0 0 1 (some 0)))) ∧
  (∀ (s : State) (time : Nat) (l : List W64), powered s.core = true → s.core.glb.atelier = .restarting →
    l = (List.range 6).map (fun i => s.core.rget (SEC_M_IMAGE i)) →
    doesTo (.atelierRestartEnd time l) s (endHandling { s.core with glb := { s.core.glb with
      now := max s.core.glb.now time, atelier := .running, restartEnd := some (max s.core.glb.now time) } } 14 0 0)) ∧
  (∀ (s : State) (l : Nat), powered s.core = true → l < 6 → bitOf (s.core.fld GLB_FENCED GLB_FENCED_LINKS) l = false →
    doesTo (.pairLinkFailure l) s (raise (s.core.setFld GLB_FENCED GLB_FENCED_LINKS
      (s.core.fld GLB_FENCED GLB_FENCED_LINKS + 2 ^ l)) .armLinkFailed 6 l))

/-! ### The tick (chapter 2) -/

/-- A boundary comes when the expected time does, or at an edge of TICK_IN (R36, R50).
Rests on the model's choices (assumption 28). -/
def Obligations.TickBoundaries : Prop :=
  (∀ (s : State) (time excess : Nat) (temps : List Nat), ticking s.core = true → edgeDriven s.core = false →
    s.core.tck.next ≤ max s.core.glb.now time →
    does (.tickBoundary time excess temps) s ((boundary s.core.tck.next excess temps s.m).on (fun c => c.at time))) ∧
  (∀ (s : State) (time excess : Nat) (temps : List Nat), ticking s.core = true → edgeDriven s.core = true →
    (s.core.tck.last + periodNs s.core - periodNs s.core / 100 ≤ time → time ≤ s.core.tck.last + periodNs s.core + periodNs s.core / 100 →
      does (.tickInEdge time excess temps) s (boundary time excess temps s.m)) ∧
    (time < s.core.tck.last + periodNs s.core - periodNs s.core / 100 ∨
        s.core.tck.last + periodNs s.core + periodNs s.core / 100 < time →
      doesTo (.tickInEdge time excess temps) s (raise (s.core.at time) .tickInRejected 0 0)) ∧
    (s.core.tck.last + periodNs s.core + periodNs s.core / 100 ≤ max s.core.glb.now time →
      does (.tickInMissing time excess temps) s
        ((boundary (s.core.tck.last + periodNs s.core + periodNs s.core / 100) excess temps
          (s.m.on (fun c => raise c .tickHoldover 0 0))).on (fun c => c.at time)))) ∧
  (∀ (s : State) (time : Nat), powered s.core = true → s.core.tck.last + 1000 ≤ max s.core.glb.now time →
    doesTo (.tickOutPulseEnd time) s { s.core with
      glb := { s.core.glb with now := max s.core.glb.now time }, pins := { s.core.pins with tickOut := false } })

/-- The references align the second grid; their loss is logged (R52 to R54); overruns escalate and clear (R64, R65).
Rests on the model's choices (assumptions 29, 32, 98). -/
def Obligations.TickReferencesAndOverruns : Prop :=
  (∀ (s : State) (time : Nat), ticking s.core = true → tickSource s.core = 2 →
    doesTo (.ppsEdge time) s (modTck (s.core.at time) (fun t => { t with grid := some (-(time : Int)), refLost := false }))) ∧
  (∀ (s : State) (port : Nat) (p : PtpPkt) (time : Nat), ticking s.core = true → tickSource s.core = 3 →
    port = s.core.fld TCK_CONFIG TCK_CONFIG_PTP_PORT → (List.range 4).any (linkUp (s.core.at time) port) = true →
    doesTo (.ptpMessage port p time) s (ptpTake p.msg (s.core.at time)) ∧
    ∀ (seq t a : Nat) (d : Int), p.msg = .sync seq false t d → ∀ delay, s.core.tck.ptp.delay = some delay →
      a = max s.core.glb.now time →
      (ptpTake p.msg (s.core.at time)).tck.grid = some ((t : Int) + d - a + delay) ∧ (ptpTake p.msg (s.core.at time)).tck.refLost = false) ∧
  (∀ s : State, ticking s.core = true → isMaster s.core = true → 2 ≤ tickSource s.core → s.core.tck.refLost = false →
    doesTo .tickReferenceLost s (raise (modTck s.core (fun t => { t with refLost := true })) .tickReferenceLost 0 0)) ∧
  (∀ s : State, powered s.core = true → s.core.fld TCK_OVERRUN TCK_OVERRUN_CONSECUTIVE = 3 →
    s.core.flag TCK_OVERRUN TCK_OVERRUN_ESCALATED = false →
    doesTo .tickOverrunEscalated s
      ((raise s.core .tickOverrunEscalated 0 0).setFld TCK_OVERRUN TCK_OVERRUN_ESCALATED 1)) ∧
  (∀ s : State, powered s.core = true → 64 ≤ s.core.fld TCK_OVERRUN TCK_OVERRUN_CLEAN_TICKS →
    s.core.flag TCK_OVERRUN TCK_OVERRUN_ESCALATED = true →
    doesTo .overrunCleared s (s.core.setFld TCK_OVERRUN TCK_OVERRUN_ESCALATED 0)) ∧
  (∀ (s : State) (src : Src) (v : W32) (m : M), FmAsks mopWrite src s m →
    does (.tickBudget1Write src v) s (accepted (regWrite TCK_BUDGET1 (v.setWidth 64) m) src 0x0201))

/-- TICK and HEARTBEAT messages, and the change of master (R40, R43, R45, R526).
Rests on the model's choices (assumptions 30, 31, 102). -/
def Obligations.TickMessages : Prop :=
  (∀ (s : State) (own : List (Nat × Nat)) (pri id : Nat), inService s.core = true → ticking s.core = true →
    isMaster s.core = false → onRing s.core = true → 3 ≤ s.core.fld TCK_STATUS TCK_STATUS_HOLDOVER_TICKS → s.core.tck.got = none →
    s.core.tck.elected = false →
    own = (if s.core.flag TCK_CONFIG TCK_CONFIG_CANDIDATE then [myRank s.core] else []) →
    bestRank (own ++ heardRanks s.core) = some (pri, id) →
    (id = s.core.chipId → ∃ c, doesTo .tickMasterChange s c ∧
      c = modTck ((raise s.core .tickMasterChange 0 0 id).setFld TCK_STATUS TCK_STATUS_STATE 2) (fun t => { t with elected := true }) ∧
      memberEnd c = becomeMaster c) ∧
    (id ≠ s.core.chipId → id ≠ s.core.fld TCK_STATUS TCK_STATUS_MASTER_ID → doesTo .tickMasterChange s
      (((raise s.core .tickMasterChange 0 0 id).setFld TCK_STATUS TCK_STATUS_MASTER_ID id).setFld TCK_STATUS TCK_STATUS_STATE 2))) ∧
  (∀ (s : State) (p : Pkt) (n corr master pri d : Nat) (c : Core), inService s.core = true → plainRx s.core p = (c, some d) →
    isMaster c = true → master = c.chipId →
    (c.tck.sent.find? (fun x => x.1 == n) = none → doesTo (.tick p n corr master pri) s c) ∧
    (∀ t, c.tck.sent.find? (fun x => x.1 == n) = some (n, t) → ∃ took x, took = c.glb.now - t ∧ x = c.setFld TCK_RING_CIRCUIT TCK_RING_CIRCUIT_LAST_NS (took % 2 ^ 32) ∧
      doesTo (.tick p n corr master pri) s (modTck (if x.fld TCK_RING_MAX TCK_RING_MAX_MAX_NS < took then
        x.setFld TCK_RING_MAX TCK_RING_MAX_MAX_NS (min took (2 ^ 32 - 1)) else x)
        (fun t => { t with circuit := some (max took (t.circuit.getD 0)) })))) ∧
  (∀ (s : State) (p : Pkt) (n corr master pri d : Nat) (c : Core), inService s.core = true → plainRx s.core p = (c, some d) →
    isMaster c = false → onRing c = true → c.tick < n → c.tck.got = none → passes c d = false →
    doesTo (.tick p n corr master pri) s (modTck c (fun t => { t with
      got := some (n, master, pri), next := c.glb.now + periodNs c - min corr (periodNs c) }))) ∧
  (∀ (s : State) (p : Pkt) (origin pri alive count state d : Nat) (crc : W32) (c : Core), inService s.core = true →
    plainRx s.core p = (c, some d) → origin ≠ c.chipId → crc.toNat ≠ beatCrc origin pri alive count state →
    doesTo (.heartbeat p origin pri alive count state crc) s (c.count RING_HB_REJECTED)) ∧
  (∀ (s : State) (p : Pkt) (origin pri alive count d : Nat) (crc : W32) (c : Core), inService s.core = true →
    plainRx s.core p = (c, some d) → origin ≠ c.chipId → amGet? c.ring.heard origin = none →
    crc.toNat = beatCrc origin pri alive count 2 → passes c d = false → ∀ h : Heard,
    h = { priority := pri, candidate := pri ≤ 15, alive := alive % 256, count := count, state := 2, thisTick := true,
          lastTick := false, absent := 0, dirs := distinctOf [d] } →
    doesTo (.heartbeat p origin pri alive count 2 crc) s { c with ring := { c.ring with heard := amSet c.ring.heard origin h } })

/-! ### Registers, the log, check units and power (chapters 1, 5, 9, 19, 20) -/

/-- REG_READ and REG_WRITE reach their registers in order of address, and the commands that write one bit or one field are writes
of it (R8, R687 to R690). Rests on the model's choices (assumptions 16, 17, 18). -/
def Obligations.RegisterRequests : Prop :=
  (∀ (s : State) (src : Src) (a w n : Nat) (m : M) (c : Core) (l : List W64), FmAsks mopRead src s m → regOpen m.core a w n = true →
    regRefusal a w n = none → regReads m.core a w n = (c, l) →
    does (.regRead src a w n) s (accepted { m with core := c } src 0x0200 (l.map (·.toNat)))) ∧
  (∀ (s : State) (src : Src) (a w n : Nat) (m : M) (k : MgmtCode), FmAsks mopRead src s m → regOpen m.core a w n = true →
    regRefusal a w n = some k →
    does (.regRead src a w n) s (m.on (fun c => mgmtReply (c.count GLB_REG_REFUSED) (realSrc src) 0x0200 k []))) ∧
  (∀ (s : State) (src : Src) (a w : Nat) (data : List W64) (m : M), FmAsks mopWrite src s m → regRefusal a w data.length = none →
    ∀ l, l = data.map (fun v => if w = 4 then v &&& 0xFFFFFFFF else v) →
    (writesRefused a w l m = none → does (.regWrite src a w data) s (accepted (regWrites a w l m) src 0x0201)) ∧
    ∀ k, writesRefused a w l m = some k →
      does (.regWrite src a w data) s ((regWrites a w l m).on (fun c => mgmtReply c (realSrc src) 0x0201 k []))) ∧
  (∀ (s : State) (src : Src) (a : Nat) (r : RegRow) (m : M) (c : Core) (v : W64), FmAsks mopRead src s m → rowAt a = some r →
    regOpen m.core a (if r.wide then 8 else 4) 1 = true → regRefusal a (if r.wide then 8 else 4) 1 = none →
    regRead m.core a (if r.wide then 8 else 4) = (c, v) →
    does (.readClear src a) s (accepted { m with core := c } src 0x0200 [v.toNat])) ∧
  (∀ (s : State) (src : Src) (i : Nat) (m : M) (c : Core) (l : List W64), FmAsks mopRead src s m → i < 4096 →
    regOpen m.core (0xE0000 + 32 * i) 8 4 = true → regReads m.core (0xE0000 + 32 * i) 8 4 = (c, l) →
    does (.eventLogRead src i) s (accepted { m with core := c } src 0x0200 (l.map (·.toNat)))) ∧
  (∀ cmd a f, BitCmd cmd a f → ∀ (s : State) (src : Src) (m : M) (v : W64), FmAsks mopWrite src s m → regRefusal a 4 1 = none →
    v = (BitVec.ofNat 64 (setBits (regView s.core a).toNat f.hi f.lo 1)) &&& 0xFFFFFFFF → writesRefused a 4 [v] m = none →
    does (cmd src) s (accepted (regWrite a v m) src 0x0201)) ∧
  (∀ (s : State) (src : Src) (code kind unit : Nat) (m : M), FmAsks mopWrite src s m → regRefusal EVT_INJECT 8 1 = none →
    does (.evtInject src code kind unit) s (accepted (regWrite EVT_INJECT
      (w64 (code * 2 ^ 48 + kind % 256 * 2 ^ 40 + unit % 65536 * 2 ^ 24)) m) src 0x0201)) ∧
  (∀ (s : State) (src : Src) (b r : Nat) (v : W32) (m : M), FmAsks mopWrite src s m → regRefusal (CAL_CB b r) 4 1 = none →
    does (.codebookWrite src b r v) s (accepted (regWrite (CAL_CB b r) (v.setWidth 64) m) src 0x0201)) ∧
  (∀ (s : State) (src : Src) (target : Nat) (m : M), FmAsks mopWrite src s m → regRefusal PWR_OP 4 1 = none →
    does (.operatingPointChange src target) s (accepted (regWrite PWR_OP ((BitVec.ofNat 64
      (setBits (regView s.core PWR_OP).toNat PWR_OP_TARGET.hi PWR_OP_TARGET.lo target)) &&& 0xFFFFFFFF) m) src 0x0201)) ∧
  (∀ (s : State) (src : Src) (n pc : Nat) (m : M), FmAsks mopWrite src s m → regRefusal (stackReg MEM_TRAIN n) 4 1 = none →
    does (.memTrainNow src n pc) s (accepted (regWrite (stackReg MEM_TRAIN n) ((BitVec.ofNat 64 (setBits (setBits
      (regView s.core (stackReg MEM_TRAIN n)).toNat MEM_TRAIN_TARGET_PC.hi MEM_TRAIN_TARGET_PC.lo pc)
      MEM_TRAIN_NOW.hi MEM_TRAIN_NOW.lo 1)) &&& 0xFFFFFFFF) m) src 0x0201))

/-- What a register write does to some registers (R8, R581, R634): a dark register takes no write; GLB_SCRATCH takes all 32 bits; one
written to ECC_FLIP_CTRL.ARMED arms it and touches no memory; one written to SEC_CTRL.SVN_COMMIT raises SVN_MIN to the image's.
Rests on the model's choices (assumptions 16, 17). -/
def Obligations.RegisterWriteStores : Prop :=
  (∀ (m : M) (a : Nat) (v : W64), regDark m.core a = true → regWrite a v m = m) ∧
  (∀ (m : M) (v : W64), regDark m.core GLB_SCRATCH = false →
    regWrite GLB_SCRATCH v m = m.on (fun c => c.rset GLB_SCRATCH (v &&& 0xFFFFFFFF))) ∧
  (∀ (m : M) (v : W64), regDark m.core ECC_FLIP_CTRL = false → bitOf v.toNat ECC_FLIP_CTRL_ARMED.lo = true →
    (regWrite ECC_FLIP_CTRL v m).core.flag ECC_FLIP_CTRL ECC_FLIP_CTRL_ARMED = true ∧ (regWrite ECC_FLIP_CTRL v m).mem = m.mem) ∧
  (∀ (m : M) (v : W64), regDark m.core SEC_CTRL = false → bitOf v.toNat SEC_CTRL_SVN_COMMIT.lo = true →
    m.core.sec.fuses.svnMin < m.core.fld SEC_SVN SEC_SVN_IMAGE →
    (regWrite SEC_CTRL v m).core.sec.fuses.svnMin = m.core.fld SEC_SVN SEC_SVN_IMAGE)

/-- I²C moves its pointer, writes GLB_SCRATCH there, and reads four bytes at the pointer (R693).
Rests on the model's choices (assumption 25). -/
def Obligations.I2cTransactions : Prop :=
  (∀ (s : State) (v : W32), i2cAnswers s.core = true → s.core.pins.thermTrip = false → i2cMay v.toNat = true → v.toNat % 4 = 0 →
    doesTo (.i2cPointerWrite false v) s { s.core with glb := { s.core.glb with i2cPtr := v.toNat } }) ∧
  (∀ (s : State) (v : W32), i2cAnswers s.core = true → s.core.pins.thermTrip = false → s.core.glb.i2cPtr = GLB_SCRATCH →
    does (.i2cPointerWrite true v) s (regWrite GLB_SCRATCH (v.setWidth 64) s.m)) ∧
  (∀ (s : State) (c : Core) (v : W64) (r : RegRow), i2cAnswers s.core = true → i2cMay s.core.glb.i2cPtr = true →
    s.core.glb.i2cPtr % 8 = 0 → rowAt s.core.glb.i2cPtr = some r → regRead s.core s.core.glb.i2cPtr 4 = (c, v) →
    (r.wide = false → doesTo .i2cRead s { c with glb := { c.glb with i2cPtr := s.core.glb.i2cPtr + 4, i2cData := v.toNat % 2 ^ 32 } }) ∧
    (r.wide = true → doesTo .i2cRead s { c with glb := { c.glb with
      i2cPtr := s.core.glb.i2cPtr + 4, i2cData := v.toNat % 2 ^ 32,
      i2cLatch := some (s.core.glb.i2cPtr + 4, v.toNat / 2 ^ 32) } }))

/-- A check unit that reaches the end of a sound buffer shows DONE, with RESULT when FINAL is set; operating points change in
steps; domains enter and wake; the chip quiesces (R666, R669 to R673, R675, R681).
Rests on the model's choices (assumptions 19, 77, 78, 79). -/
def Obligations.PowerAndCheckUnits : Prop :=
  (∀ (s : State) (u : Nat), inService s.core = true → chkMgmt u = true → chkBusy s.core u = true →
    s.core.fld (CHK_LEN u) CHK_LEN_F = 0 → doesTo (.chkDone u) s (chkFin u s.core)) ∧
  (∀ (s : State) (u len : Nat) (src : W64) (l : List Byte) (bad : List Bool) (m : M), inService s.core = true →
    chkMgmt u = true → chkBusy s.core u = true → len = s.core.fld (CHK_LEN u) CHK_LEN_F → len ≠ 0 → src = s.core.rget (CHK_SRC u) →
    s.core.flag (CHK_CTRL u) CHK_CTRL_ALIVE_EN = false →
    ptrCheck s.core (s.core.fld (CHK_CTRL u) CHK_CTRL_PARTITION) src len true false = none →
    readBytes s.m (u / 4) (ptrExtent src) (ptrOffset src) len = (m, .got l bad) → (∀ x ∈ bad, x = false) →
    does (.chkDone u) s (m.on (fun c => chkFin u (chkTake c u len l)))) ∧
  (∀ (s : State) (t : Nat), powered s.core = true → s.core.boot.op = .settle t → s.core.fld PWR_OP PWR_OP_TARGET = t →
    doesTo .vidSettleEnd s (setOpStep s.core (.lock t))) ∧
  (∀ (s : State) (t time : Nat) (c : Core), powered s.core = true → s.core.boot.op = .lock t → bootStage s.core = 8 →
    c = opAdvance (setVid ((s.core.at time).setFld PWR_OP PWR_OP_CURRENT t) t) → atStep c 5 = false →
    doesTo (.pllLock time) s c) ∧
  (∀ (s : State) (src : Src) (d t : Nat) (m : M), FmAsks { mop := 0x0B00 } src s m → d < 68 → t ≤ 2 →
    pwrRefusal m.core d t = false → isSpare m.core d = false →
    does (.pwrSet src d t 0 0) s (driveDomain (m.on (fun c => modDom (c.setFld (PWR_DOMAIN d) PWR_DOMAIN_WATCH 0) d
      (fun x => { x with asked := x.asked ++ [(realSrc src, t)] }))) d t)) ∧
  (∀ (s : State) (d : Nat), powered s.core = true → d < 4 → domState s.core d = 1 → (domX s.core d).goal = 1 →
    (domX s.core d).next = none → doesTo (.domainEntryEnd d) s (domReached (enterRetention s.core d) d)) ∧
  (∀ (s : State) (d : Nat), powered s.core = true → d < 4 → domState s.core d = 1 → (domX s.core d).goal = 2 →
    (domX s.core d).next = none → does (.domainEntryEnd d) s ((enterOff s.m d).on (fun c => domReached c d))) ∧
  (∀ (s : State) (d : Nat) (ok : Bool), powered s.core = true → d < 4 → domState s.core d = 4 →
    (domX s.core d).next = none → doesTo (.domainWakeEnd d ok) s (domReached (wakeOn (fun k => match k with
      | .power e => e == d | _ => false) (showPart (modDom (releaseOn (setDomState s.core d 0) d) d
        (fun y => { y with fromOff := false })) d)) d)) ∧
  (∀ (s : State) (d : Nat), powered s.core = true → 4 ≤ d → d < 68 → isSpare s.core d = false → domFenced s.core d = false →
    (domState s.core d = 2 → s.core.flag (PWR_DOMAIN d) PWR_DOMAIN_WATCH = true →
      doesTo (.watchWake d .wake) s (setDomState s.core d 5)) ∧
    (domState s.core d = 5 → (domX (setDomState s.core d 2) d).next = none →
      doesTo (.watchWake d (.done false)) s (setDomState s.core d 2))) ∧
  (∀ (s : State) (src : Src) (ms : Nat) (m : M), FmAsks { mop := 0x0B02 } src s m → ms < 65536 → bootStage m.core = 8 →
    ringState m.core = 0 → pairState m.core = 0 →
    does (.quiesce src ms) s (accepted (m.on (fun c => modBoot (setStage c 10) (fun b => { b with
      quiesce := some (realSrc src), drainEnd := c.glb.now + ms * 1000000, drained := false }))) src 0x0B02)) ∧
  (∀ (s : State) (time : Nat), inService s.core = true → bootStage s.core = 10 → s.core.boot.drained = false →
    s.core.boot.drainEnd ≤ max s.core.glb.now time →
    doesTo (.quiesceDrainEnd time) s (modBoot ((List.range 4096).foldl (fun c x =>
      if ctxState c x ≠ 0 then flushRequest c x false else c) (s.core.at time)) (fun b => { b with drained := true }))) ∧
  (∀ s : State, inService s.core = true → bootStage s.core = 10 → quiesceIdle s.core = true →
    ∃ (c : Core) (mem : Mem), does .quiesced s { core := setStage (c.toFm 0x0B03 [c.chipId]) 11, mem := mem })

/-! ### Extents, leases and regions (chapter 3) -/

/-- A grant makes an ACTIVE extent with the fields asked for and no frame; withdrawal, freeing, migration and leases follow, each
answered ACCEPTED (R84, R85, R94, R97, R109, R115). Rests on the model's choices (assumptions 19, 33, 36). -/
def Obligations.ExtentAndLeaseRequests : Prop :=
  (∀ (s : State) (src : Src) (d : ExtGrant) (m : M), FmAsks { mop := 0x0100, grant := true } src s m →
    (∀ x, ext? m.core d.extent = some x → x.st = .withdrawn) → extFieldsOk d = true → classOk m.core d.partition d.cls = true →
    partActive m.core d.partition = true →
    does (.extGrant src d) s (accepted (m.on (fun c => setExt c d.extent {
      st := .active, partition := d.partition, owner := d.owner, large := d.large, size := d.size, quota := d.quota, cls := d.cls,
      readable := d.readable, writable := d.writable, compressible := d.compressible, hotNotice := d.hotNotice, frames := [],
      subscribers := [], released := [], deferred := false, noBackingLogged := false, migrateTo := none })) src 0x0100)) ∧
  (∀ (s : State) (src : Src) (e : Nat) (m : M), FmAsks { mop := 0x0101 } src s m → e < 65536 → (ext? m.core e).isSome = true →
    (snapshotTaken (withdrawExt m e).core e = true → does (.extWithdraw src e) s (accepted (withdrawExt m e) src 0x0101)) ∧
    (snapshotTaken (withdrawExt m e).core e = false → does (.extWithdraw src e) s ((withdrawExt m e).on (fun c =>
      { c with ext := { c.ext with withdrawers := c.ext.withdrawers ++ [(e, realSrc src)] } })))) ∧
  (∀ (s : State) (src : Src) (e : Nat) (m : M) (x : Extent), FmAsks { mop := 0x0102 } src s m → e < 65536 →
    ext? m.core e = some x → x.st = .withdrawn → does (.extFree src e) s
      (accepted (m.on (fun c => { c with ext := { c.ext with exts := amDel c.ext.exts e } })) src 0x0102)) ∧
  (∀ (s : State) (src : Src) (e : Nat) (k : RedClass) (m : M) (x : Extent), FmAsks { mop := 0x0103 } src s m → e < 65536 →
    ext? m.core e = some x → x.st = .active → classOk m.core x.partition k = true → underWindow m.core e 0 (extBytes x) = false →
    does (.extMigrate src e k) s
      (accepted (m.on (fun c => nextMigration (modExt c e (fun x => { x with cls := k, migrateTo := some k })) e)) src 0x0103)) ∧
  (∀ (s : State) (src : Src) (a ms d : Nat) (m : M), FmAsks { mop := 0x0110, grant := true } src s m → a < 65536 →
    ms = 0 ∨ (100 ≤ ms ∧ ms ≤ 60000) → m.core.ext.leases.length < 8192 →
    d = (if ms = 0 then m.core.fld EXT_LEASE EXT_LEASE_DEFAULT_MS else ms) →
    (∀ l, amGet? m.core.ext.leases a = some l → leaseOver m.core l = false) →
    does (.leaseGrant src a ms) s (accepted (m.on (fun c => { c with ext := { c.ext with
      leases := amSet c.ext.leases a ⟨d, c.glb.now + d * 1000000⟩ } })) src 0x0110)) ∧
  (∀ (s : State) (src : Src) (a : Nat) (m : M) (l : Lease), Asks { mop := 0x0111 } src s m →
    srcFm (realSrc src) = true ∨ srcAgent (realSrc src) = some a → amGet? m.core.ext.leases a = some l → leaseOver m.core l = false →
    does (.leaseRenew src a) s (accepted (m.on (fun c => { c with ext := { c.ext with
      leases := amSet c.ext.leases a { l with expiry := c.glb.now + l.ms * 1000000 } } })) src 0x0111)) ∧
  (∀ (s : State) (a time : Nat) (l : Lease), inService s.core = true → amGet? s.core.ext.leases a = some l →
    l.expiry ≤ s.core.tck.last → ∃ c, c = s.core.at time ∧
    does (.leaseExpiry a time) s (dropAgent a (s.m.on (fun _ => (raise (Core.toFm { c with ext := { c.ext with
      leases := amDel c.ext.leases a } } 0x0112 [a]) .extLeaseExpired 0 0 a).count EXT_LEASE_EXPIRED))))

/-- The chip that receives an INVALIDATE passes it both ways; the home applies it, another member drops its entries; the copies
that return end it (R91, R92). Rests on the model's choices (assumption 33). -/
def Obligations.Invalidations : Prop :=
  (∀ (s : State) (p : Pkt) (chip e first n : Nat) (m : M), Asks { mop := 0x0104 } (.fm p) s m → p.srcEp / 2 ^ 28 = 2 → chip < 4096 →
    e < 65536 → chip ≠ m.core.chipId →
    does (.invalidateWithdraw (.fm p) chip e first n) s (startInval (m.on (fun c => dropRemote c chip e)) (some (.fm p)) none
      [chip, e, first, n, 0, p.srcEp, m.core.chipId]) ∧
    does (.invalidateDiscard (.fm p) chip e first n) s
      (startInval (m.on (fun c => dropRemote c chip e)) (some (.fm p)) none [chip, e, first, n, 1, p.srcEp, m.core.chipId])) ∧
  (∀ (s : State) (p : Pkt) (e first n : Nat) (m : M), Asks { mop := 0x0104 } (.fm p) s m → p.srcEp / 2 ^ 28 = 2 → e < 65536 →
    m.core.chipId < 4096 → (ext? m.core e).isSome = true →
    does (.invalidateWithdraw (.fm p) m.core.chipId e first n) s
      (startInval (applyInval (m.on (fun c => dropRemote c m.core.chipId e)) e first n false) (some (.fm p)) none
        [m.core.chipId, e, first, n, 0, p.srcEp, m.core.chipId]) ∧
    (invalOk m.core p.srcEp e first n true = true → does (.invalidateDiscard (.fm p) m.core.chipId e first n) s
      (startInval (applyInval (m.on (fun c => dropRemote c m.core.chipId e)) e first n true) (some (.fm p)) none
        [m.core.chipId, e, first, n, 1, p.srcEp, m.core.chipId]))) ∧
  (∀ (s : State) (p : Pkt) (chip e first n sender recv d ss : Nat) (discard : Bool) (c : Core), inService s.core = true →
    landPkt s.core p = (c, some ss) → recv ≠ c.chipId → chip ≠ c.chipId → d = portDir p.port →
    doesTo (.invalidate p chip e first n discard sender recv) s ((dropRemote c chip e).send
      (invalMsg (if sendsTo (dropRemote c chip e) d then d else 1 - d) [chip, e, first, n, b2n discard, sender, recv]))) ∧
  (∀ (s : State) (p : Pkt) (chip e first n sender recv ss : Nat) (discard : Bool) (c : Core) (v : InvalOut), inService s.core = true →
    landPkt s.core p = (c, some ss) → recv = c.chipId →
    c.ext.invals.find? (fun v => v.body == [chip, e, first, n, b2n discard, sender, recv]) = some v → v.out ≤ 1 →
    doesTo (.invalidate p chip e first n discard sender recv) s (invalDone (dropRemote c chip e) v)) ∧
  (∀ (s : State) (e : Nat) (c : Core), inService s.core = true → retireSnapshot s.core e = (c, true) →
    doesTo (.snapshotRetired e) s ((deleteTablesOf c e).toFm 0x0105 [e])) ∧
  (∀ (s : State) (e : Nat) (c c' : Core), inService s.core = true → nextWaiting s.core s.core.work.tags = (c, some e) →
    c' = { c with ext := { c.ext with withdrawers := c.ext.withdrawers.filter (fun w => w.1 != e),
                                      heldInval := c.ext.heldInval.filter (fun h => h.1 != e) } } →
    doesTo .quarantineRecordFree s ((c.ext.heldInval.filter (fun h => h.1 == e)).foldl (fun c h => c.send (invalMsg h.2.1 h.2.2))
      ((c.ext.withdrawers.filter (fun w => w.1 == e)).foldl (fun c w => mgmtReply c w.2 0x0101 .accepted []) c')))

/-- Frames are filled, migrated, compressed and restored, and what waits for them goes on or times out (R96, R101, R103 to R109,
R247). Rests on the model's choices (assumptions 34, 35). -/
def Obligations.FramesAndParks : Prop :=
  (∀ (s : State) (q : Nat) (r : FreeRun) (rest : List FreeRun), inService s.core = true → amGet s.core.mem.fill q [] = r :: rest →
    ∃ m c, m = fillRun s.m q r ∧ c = wakeBacking { m.core with mem := { m.core.mem with
      fill := amSet m.core.mem.fill q rest, pool := amSet m.core.mem.pool q (poolAdd (amGet m.core.mem.pool q []) r) } } q ∧
    does (.frameFillDone q) s { m with core := c.ext.exts.foldl (fun c x => if x.2.partition = q then nextMigration c x.1 else c) c }) ∧
  (∀ (s : State) (e i : Nat) (x : Extent) (f : Frame) (old new : Loc) (m m1 : M) (ws : List (List Byte × Bool)),
    inService s.core = true → ext? s.core e = some x → f = frameOf x i → f.st = .migrating → f.loc = some old → f.dest = some new →
    readFrame s.m x.partition old (frameBytes x / 32) = (m, ws) → m1 = writeRun (movedOnly s.core m) x.partition new 0 ws →
    does (.frameMigrated e i) s (m1.on (fun c => nextMigration (wakeOn (atFrame e i) (dropCached (modExt
      (modFrame c e i (fun f => { f with st := .resident, loc := some new, dest := none })) e
      (fun y => { y with released := if x.st = .active ∨ x.deferred = true then y.released ++ [old] else y.released })) e i)) e))) ∧
  (∀ (s : State) (e i : Nat) (x : Extent), inService s.core = true → ext? s.core e = some x →
    s.core.flag EXT_CTRL EXT_CTRL_COMPRESS_EN = true → x.large = false → x.compressible = true → x.st = .active →
    (frameOf x i).st = .resident → (frameOf x i).cold = true → (frameOf x i).incompressible = false →
    underWindow s.core e (i * frameBytes x) (frameBytes x) = false →
    doesTo (.compressionStart e i) s (modFrame s.core e i (fun f => { f with compressing := true }))) ∧
  (∀ (s : State) (e i : Nat) (x : Extent) (l : Loc) (m : M) (ws : List (List Byte × Bool)) (n : Nat), inService s.core = true →
    ext? s.core e = some x → (frameOf x i).compressing = true → compressible s.core e i x = true → (frameOf x i).loc = some l →
    readFrame s.m x.partition l (frameBytes x / 32) = (m, ws) →
    n = packedChunks (packWords ws).length (frameBytes x / 32) (Config.rowStride e) →
    (n ≤ (movedOnly s.core m).core.fld EXT_COMPRESS EXT_COMPRESS_MAX_CHUNKS →
      does (.compressionDone e i) s ((movedOnly s.core m).on (fun c => wakeBacking (dropCached (toFill (modFrame c e i (fun f =>
        { f with st := .compressed, loc := none, compressing := false, packed := packWords ws, chunks := n })) x.partition l false) e i)
        x.partition))) ∧
    ((movedOnly s.core m).core.fld EXT_COMPRESS EXT_COMPRESS_MAX_CHUNKS < n →
      does (.compressionDone e i) s ((movedOnly s.core m).on (fun c => modFrame c e i (fun f =>
        { f with compressing := false, incompressible := true }))))) ∧
  (∀ (s : State) (e i : Nat) (x : Extent) (l : Loc) (c : Core), inService s.core = true → ext? s.core e = some x →
    (frameOf x i).st = .decompressing → poolTake s.core x.partition x.cls x.large = some (l, c) →
    does (.frameRestored e i) s ((unpackInto { s.m with core := c } x.partition l (frameOf x i).packed).on (fun c =>
      let r := dropCached (joinQuarantine (modFrame c e i (fun f =>
        { f with st := .resident, loc := some l, cold := false, packed := [], chunks := 0, prefetched := false })) e i l) e i;
      wakeOn (fun k => atFrame e i k || atBacking e i k)
        (if (frameOf x i).prefetched = true ∧ x.st = .active then loadCaches r e [i] else r)))) ∧
  (∀ (s : State) (x n e f off : Nat) (w : Work), inService s.core = true → work? s.core x n = some w → w.phase = .parked (.backing e f off) →
    s.core.fld EXT_QUOTA EXT_QUOTA_WAIT_TICKS ≤ w.waited →
    doesTo (.quotaWaitExpiry (.work x n)) s (stopWork s.core x n .noBacking (extPtr s.core e off))) ∧
  (∀ (s : State) (t e f off : Nat) (r : Request), inService s.core = true → req? s.core t = some r → r.cause = some (.backing e f off) →
    r.reply = none → s.core.fld EXT_QUOTA EXT_QUOTA_WAIT_TICKS ≤ r.waited →
    doesTo (.quotaWaitExpiry (.request t)) s (answer s.core r { status := .noBacking, detail := reqRest r })) ∧
  (∀ (s : State) (t e f off : Nat) (th : Thread), inService s.core = true → thr? s.core t = some th → th.wait = .parked (.backing e f off) →
    s.core.fld EXT_QUOTA EXT_QUOTA_WAIT_TICKS ≤ th.waited →
    does (.quotaWaitExpiry (.thread t)) s (lateTrap s.m t (accessTrap .noBacking (extPtr s.core e off)))) ∧
  (∀ (s : State) (x n : Nat), inService s.core = true → doesTo (.parkResume (.work x n)) s (modWork s.core x n (fun w =>
    match w.phase with
    | .parked k => if causeClear s.core (ctxPart s.core x) k then { w with phase := .ready, waited := 0 } else w
    | _ => w)))

/-! ### Requests of agents (chapters 3, 5, 11, 13) -/

/-- A request message that lands from a context's owner takes an op tag and joins the requests served in the same step (R484 to
R489). Rests on the model's choices (assumptions 38, 39). -/
def Obligations.RequestsAreAdmitted : Prop :=
  ∀ cmd type arg, RequestCmd cmd type arg → ∀ (s : State) (p : Pkt) (f f' : Pfx) (c c1 c2 : Core) (ss t : Nat) (d : List Byte),
    f' = (match arg with | some a => { f with arg := a } | none => f) →
    inService s.core = true → (type = 0x20 → ctxRdma s.core p.ctx = false) → landPkt s.core { p with cls := 0 } = (c, some ss) →
    (if p.ctx < 4096 then ctxOwner c p.ctx = p.srcEp else p.srcEp / 2 ^ 28 = 2 ∧ type ≠ 0x20) → tagsFull s.core = false →
    assemble c ss p.xid p.msgOff (if type = 0x11 ∨ type = 0x20 then f.len else 0) (if p.ctx < 4096 then ctxPart c p.ctx else 16) f.data
      = (c1, some d) → newTag c1 = (c2, some t) →
    doesTo (cmd p f) s { c2 with net := { c2.net with requests := c2.net.requests ++ [{
      tag := t, sender := .session ss p.xid, ctx := p.ctx, part := if p.srcEp / 2 ^ 28 = 2 then fmPart else ctxPart c1 p.ctx,
      type := type, body := [f'.target.toNat, f'.len, f'.arg, f'.operand.toNat, f'.compare.toNat], data := d, cause := none,
      waited := 0, reply := none, port := p.port }] } }

/-- What serving a request on regions and hints does (R113, R118 to R123). PUBLISH sets the version and replies DONE when C = E and
(V − C) mod 2^32 lies from 1 to 2^31 − 1, and else replies VERSION_CONFLICT with C (R119).
Rests on the model's choices (assumptions 20, 37, 91). -/
def Obligations.RegionAndHintService : Prop :=
  (∀ (m : M) (r : Request) (ptr : W64) (e : Nat), r.type = 0x30 → ptr = reqPtr r → e = ptrExtent ptr →
    ptrCheck m.core (reqPart m.core r e) ptr (r.body.getD 1 0) false (r.part != fmPart) = none → r.body.getD 2 0 < 16384 →
    ptrOffset ptr % 32 = 0 → r.body.getD 1 0 % 32 = 0 → r.body.getD 1 0 ≠ 0 → region? m.core (r.body.getD 2 0) = none →
    ∀ g : Region, g = { extent := e, offset := ptrOffset ptr, len := r.body.getD 1 0, version := r.body.getD 3 0 % 2 ^ 32,
                        digest := 0 } →
    serveHere r m = (m.on (fun c => { c with ext := { c.ext with regions := amSet c.ext.regions (r.body.getD 2 0) g } }),
      .reply {})) ∧
  (∀ (m : M) (r : Request) (g : Region) (n v : Nat), r.type = 0x31 → n = r.body.getD 2 0 % 2 ^ 14 →
    bitOf (r.body.getD 2 0) 31 = false → v = r.body.getD 3 0 % 2 ^ 32 → reqRegion m.core r n = some g →
    accessCheck m.core (reqPart m.core r g.extent) g.extent g.offset g.len false (r.part != fmPart) = none →
    publishAhead m.core r n = false → publishWaits m.core g.extent g.offset g.len = none →
    (publishOk g.version (r.body.getD 4 0 % 2 ^ 32) v = true → serveHere r m = (m.on (fun c => { c with ext := { c.ext with
        regions := amSet c.ext.regions n { g with version := v } } }),
      .reply { value := w64 v, detail := w64 g.digest })) ∧
    (publishOk g.version (r.body.getD 4 0 % 2 ^ 32) v = false → serveHere r m = (m, .reply {
      status := .versionConflict, value := w64 g.version, detail := w64 g.digest }))) ∧
  (∀ (m m1 : M) (r : Request) (g : Region) (n v : Nat) (l : List Byte) (bad : List Bool), r.type = 0x31 →
    n = r.body.getD 2 0 % 2 ^ 14 → bitOf (r.body.getD 2 0) 31 = true → v = r.body.getD 3 0 % 2 ^ 32 → reqRegion m.core r n = some g →
    accessCheck m.core (reqPart m.core r g.extent) g.extent g.offset g.len true (r.part != fmPart) = none →
    publishAhead m.core r n = false → publishWaits m.core g.extent g.offset g.len = none → readBytes m (n % 4) g.extent g.offset g.len = (m1, .got l bad) →
    (∀ x ∈ bad, x = false) →
    (publishOk g.version (r.body.getD 4 0 % 2 ^ 32) v = true → serveHere r m = (m1.on (fun c => { c with ext := { c.ext with
        regions := amSet c.ext.regions n { g with version := v, digest := (crc64 l).toNat } } }),
      .reply { value := w64 v, detail := w64 (crc64 l).toNat })) ∧
    (publishOk g.version (r.body.getD 4 0 % 2 ^ 32) v = false → serveHere r m = (m1, .reply {
      status := .versionConflict, value := w64 g.version, detail := w64 (crc64 l).toNat }))) ∧
  (∀ c e v : Nat, c < 2 ^ 32 → v < 2 ^ 32 → (publishOk c e v = true ↔
    c = e ∧ 1 ≤ (v + 2 ^ 32 - c) % 2 ^ 32 ∧ (v + 2 ^ 32 - c) % 2 ^ 32 ≤ 2 ^ 31 - 1)) ∧
  (∀ (m : M) (r : Request) (g : Region), r.type = 0x32 → reqRegion m.core r (r.body.getD 2 0) = some g →
    serveHere r m = (m, .reply { value := w64 g.version, detail := w64 g.digest })) ∧
  (∀ (m : M) (r : Request) (x : Extent) (ptr : W64) (e : Nat), ptr = reqPtr r → e = ptrExtent ptr → ext? m.core e = some x →
    ptrCheck m.core (reqPart m.core r e) ptr (r.body.getD 1 0) true false = none →
    (r.type = 0x33 → serveHere r m = ({ m with core := (framesTouched x (ptrOffset ptr) (r.body.getD 1 0)).foldl (fun c i =>
        if (frameOf x i).st = .compressed ∨ (frameOf x i).st = .decompressing then
          modFrame (if (frameOf x i).st = .compressed then wakeFrame c e i else c) e i (fun f => { f with cold := false, prefetched := true })
        else loadCaches (modFrame c e i (fun f => { f with cold := false, prefetched := false })) e [i]) m.core }, .reply {})) ∧
    (r.type = 0x34 → r.body.getD 2 0 = 1 → serveHere r m = (m.on (fun c =>
      (framesTouched x (ptrOffset ptr) (r.body.getD 1 0)).foldl (fun c i => modFrame c e i (fun f => { f with cold := false })) c),
      .reply {})) ∧
    (∀ ss xid y, r.type = 0x34 → r.body.getD 2 0 = 2 → r.sender = .session ss xid → sess? m.core ss = some y →
      x.subscribers.contains (y.remote % 65536) = false → x.subscribers.length < 16 → serveHere r m =
        (m.on (fun c => modExt c e (fun x => { x with subscribers := x.subscribers ++ [y.remote % 65536] })), .reply {})) ∧
    (∀ ss xid y, r.type = 0x34 → r.body.getD 2 0 = 3 → r.sender = .session ss xid → sess? m.core ss = some y → serveHere r m =
        (m.on (fun c => modExt c e (fun x => { x with subscribers := x.subscribers.filter (· != y.remote % 65536) })), .reply {})))

/-! ### Sync objects and coherent windows (chapters 11, 12) -/

/-- Objects that are FREE are granted and become unarmed, and runs of them are freed; increments arrive oldest first; a missed
deadline gives its notice (R412, R413, R415, R426), and messages read, increment, arm and reset an object (R416 to R418, R424, R428).
Rests on the model's choices (assumptions 20, 53). -/
def Obligations.SyncObjects : Prop :=
  (∀ (s : State) (src : Src) (first n q owner : Nat) (m : M), FmAsks { mop := 0x0140, grant := true } src s m → 1 ≤ n →
    first + n ≤ 65536 → q < 16 → owner < 65536 → (∀ i < n, sync? m.core (first + i) = none) → partActive m.core q = true →
    does (.syncGrant src first n q owner) s (accepted (m.on (fun c => (List.range n).foldl (fun c i => setSync c (first + i) {
      count := 0, target := 0, deadline := 0, partition := q, owner := owner, ownerValid := true, frozen := false, missed := false,
      armed := false, poisoned := false, waiters := [] }) c)) src 0x0140)) ∧
  (∀ (s : State) (src : Src) (first n : Nat) (m : M), FmAsks { mop := 0x0141 } src s m → 1 ≤ n → first + n ≤ 65536 →
    (∀ i < n, ∃ o, sync? m.core (first + i) = some o ∧ o.frozen = false ∧ o.waiters = []) →
    does (.syncFree src first n) s (accepted (m.on (fun c => { c with sync := { c.sync with
      objs := c.sync.objs.filter (fun o => !(first ≤ o.1 && o.1 < first + n)) } })) src 0x0141)) ∧
  (∀ (s : State) (k i q : Nat), inService s.core = true → s.core.sync.sent.findIdx? (fun x => x.1 == k) = some i →
    s.core.sync.sent[i]? = some (k, q) → doesTo (.syncIncrement k) s
      (syncInc { s.core with sync := { s.core.sync with sent := dropAt s.core.sync.sent i } } k q)) ∧
  (∀ (s : State) (k : Nat) (o : SyncObj), inService s.core = true → sync? s.core k = some o → o.armed = true → o.frozen = false →
    o.poisoned = false → o.missed = false → o.deadline ≠ 0 → o.deadline < s.core.tick → o.count < o.target →
    doesTo (.syncDeadline k) s (raise ((syncNotice (setSync s.core k { o with missed := true }) k 2).count SYN_DEADLINE_MISSED)
      .synDeadlineMissed 12 k)) ∧
  (∀ (m : M) (r : Request) (k : Nat) (o : SyncObj), k = r.body.getD 0 0 % 65536 → sync? m.core k = some o → o.frozen = false →
    o.poisoned = false → r.part ≠ fmPart → r.part = o.partition →
    (r.type = 0x28 → serveHere r m = (m.on (fun c => syncInc c k o.partition), .reply {})) ∧
    (r.type = 0x29 → serveHere r m = (m, .reply { value := w64 o.count, detail := w64 (if o.armed then o.target else 0) })) ∧
    (∀ ss xid y, r.sender = .session ss xid → sess? m.core ss = some y → o.owner = y.remote % 65536 →
      (r.type = 0x2A → o.ownerValid = true → r.body.getD 2 0 ≠ 0 → serveHere r m = ({ m with core := syncCheck (setSync m.core k { o with
        target := r.body.getD 3 0, armed := true, missed := false, deadline := m.core.tick + r.body.getD 2 0 }) k }, .reply {})) ∧
      (r.type = 0x2B → o.waiters = [] → serveHere r m = ({ m with core := setSync m.core k { o with
        count := 0, target := 0, deadline := 0, armed := false, missed := false } }, .reply {}))))

/-- Domains are created, destroyed, taken down and change their members by the fabric manager; a domain that drains long enough is
DOWN (R433 to R437, R456, R460). Rests on the model's choices (assumptions 19, 54). -/
def Obligations.CoherenceDomains : Prop :=
  (∀ (s : State) (src : Src) (b : DomainDef) (m : M), FmAsks { mop := 0x0150 } src s m → (∀ x ∈ createChecks m.core b, x.1 = true) →
    ∀ old : Domain, old = ((domain? (readyWindows b m).core b.domain).getD
      ⟨.up, b.partition, [], [], 0, none, 0, 0, []⟩) →
    does (.cohDomainCreate src b) s (accepted ((readyWindows b m).on (fun c => setDomain c b.domain
      { old with st := .up, partition := b.partition, members := b.members.zipIdx.map (fun y => (y.2, y.1)), windows := b.windows }))
      src 0x0150)) ∧
  (∀ (s : State) (src : Src) (d : Nat) (x : Domain) (m : M), FmAsks { mop := 0x0151 } src s m → d < 256 → domain? m.core d = some x →
    x.st = .down → does (.cohDomainDestroy src d) s
      (accepted (m.on (fun c => { c with coh := { c.coh with domains := amDel c.coh.domains d } })) src 0x0151)) ∧
  (∀ (s : State) (src : Src) (d : Nat) (x : Domain) (m : M), FmAsks { mop := 0x0152 } src s m → d < 256 → domain? m.core d = some x →
    x.st ≠ .down → does (.cohDomainDown src d) s (accepted (m.on (fun c => cohFail c d 8 none)) src 0x0152)) ∧
  (∀ (s : State) (src : Src) (d i agent ctx : Nat) (x : Domain) (m : M), FmAsks { mop := 0x0153 } src s m → d < 256 → i < 64 →
    domain? m.core d = some x → x.st = .up → amGet? x.members i = none → memberOk m.core x.partition (agent, ctx) = true →
    does (.cohMemberAdd src d i agent ctx) s
      (accepted (m.on (fun c => modDomain c d (fun x => { x with members := amSet x.members i (agent, ctx) }))) src 0x0153)) ∧
  (∀ (s : State) (src : Src) (d i : Nat) (x : Domain) (m : M), FmAsks { mop := 0x0154 } src s m → d < 256 → i < 64 →
    domain? m.core d = some x → x.st = .up → (amGet? x.members i).isSome = true → x.removing.any (fun r => r.1 == i) = false →
    does (.cohMemberRemove src d i) s
      (m.on (fun c => removeStep (modDomain c d (fun x => { x with removing := x.removing ++ [(i, realSrc src)] })) d))) ∧
  (∀ (s : State) (d time : Nat) (x : Domain) (m : M), inService s.core = true → m = s.m.on (fun c => c.at time) →
    domain? m.core d = some x → x.st = .draining → x.downAt + m.core.fld COH_TIMING1 COH_TIMING1_DRAIN_US * 1000 ≤ m.core.glb.now →
    does (.drainEnd d time) s ((((linesOf m.core d).filter (fun l => l.2.owner.isSome)).foldl (fun m l => poisonLine m d l.1) m).on
      (fun c => domainDown c d)))

/-- Requests of members at the home (Table 12-4, R442 to R448): an Invalid line is granted with its data, an owned one is forwarded
to its owner, a shared one is invalidated elsewhere; written-back and dropped lines are acknowledged.
Rests on the model's choices (assumptions 54, 55). -/
def Obligations.CoherenceRequests : Prop :=
  (∀ (s : State) (p : Pkt) (x : CohMsg) (c c1 : Core) (v : Domain) (k : Nat), CohArrives s 1 p x c v k →
    c1 = noteRetry (c.perf COH_REQUESTS) k x.member x.arg → openOf c1 x.domain x.member < 32 →
    (line? c1 k = none → (setLines c1 v.partition k).length < c1.fld (COH_WAYS v.partition) COH_WAYS_F →
      does (.getS p x) s (dataGrant { s.m with core := c1 } k (freshLine x.domain x.member) x.member x.tid x.arg none [x.member])) ∧
    (∀ l o, line? c1 k = some l → l.busy = none → c1.coh.claims.any (fun t => t.1 == k) = false →
      barred c1 l x.member false = false → l.resv = none → l.owner = some o → o ≠ x.member →
      ∀ tx : CohTx, tx = ⟨.getS x.member x.tid, [], some o, false, false, c1.glb.now⟩ → doesTo (.getS p x) s
        (cohSend (setLine (c1.perf COH_FORWARDS) k { l with busy := some tx }) x.domain o 5 0 x.member x.tid k 0)) ∧
    (∀ l, line? c1 k = some l → l.busy = none → c1.coh.claims.any (fun t => t.1 == k) = false →
      barred c1 l x.member false = false → l.resv = none → l.owner = none →
      does (.getS p x) s (dataGrant { s.m with core := c1 } k l x.member x.tid x.arg none
        (l.sharers.filter (· != x.member) ++ [x.member])))) ∧
  (∀ (s : State) (p : Pkt) (x : CohMsg) (c c1 : Core) (v : Domain) (k : Nat), CohArrives s 2 p x c v k →
    c1 = noteRetry (c.perf COH_REQUESTS) k x.member x.arg → openOf c1 x.domain x.member < 32 →
    (line? c1 k = none → (setLines c1 v.partition k).length < c1.fld (COH_WAYS v.partition) COH_WAYS_F →
      does (.getM p x) s (dataGrant { s.m with core := c1 } k (freshLine x.domain x.member) x.member x.tid x.arg (some x.member) [])) ∧
    (∀ l o, line? c1 k = some l → l.busy = none → c1.coh.claims.any (fun t => t.1 == k) = false →
      barred c1 l x.member true = false → l.resv = none → l.owner = some o → o ≠ x.member →
      ∀ tx : CohTx, tx = ⟨.getM x.member x.tid, [], some o, false, false, c1.glb.now⟩ → doesTo (.getM p x) s
        (cohSend (setLine (c1.perf COH_FORWARDS) k { l with busy := some tx }) x.domain o 6 0 x.member x.tid k 0)) ∧
    (∀ l, line? c1 k = some l → l.busy = none → c1.coh.claims.any (fun t => t.1 == k) = false →
      barred c1 l x.member true = false → l.resv = none → l.owner = none → l.sharers.filter (· != x.member) ≠ [] →
      ∀ tx : CohTx, tx = ⟨.getM x.member x.tid, l.sharers.filter (· != x.member), none, false, false, c1.glb.now⟩ →
      doesTo (.getM p x) s ((l.sharers.filter (· != x.member)).foldl (fun c i => cohSend c x.domain i 7 0 x.member x.tid k 0)
        (setLine c1 k { l with busy := some tx })))) ∧
  (∀ (s : State) (p : Pkt) (x : CohMsg) (c : Core) (v : Domain) (k : Nat) (l : CohLine), CohArrives s 3 p x c v k →
    line? c k = some l → l.busy = none → l.owner = some x.member → bitOf x.arg 0 = false →
    does (.putM p x) s ((writeLine { s.m with core := c } k x.data false).on (fun c =>
      lineDone (freeLine (cohSend c x.domain x.member 16 1 0 x.tid k 0) k) x.domain k))) ∧
  (∀ (s : State) (p : Pkt) (x : CohMsg) (c : Core) (v : Domain) (k : Nat), CohArrives s 4 p x c v k →
    (line? c k = none → doesTo (.putS p x) s (cohSend c x.domain x.member 16 1 0 x.tid k 0)) ∧
    (∀ l, line? c k = some l → l.busy = none → l.sharers.contains x.member = true → l.sharers.filter (· != x.member) ≠ [] →
      doesTo (.putS p x) s (lineDone (setLine (cohSend c x.domain x.member 16 1 0 x.tid k 0) k
        { l with sharers := l.sharers.filter (· != x.member) }) x.domain k)))

/-- Answers of members end the home's transactions (R443, R448, R449, R453); holds, reservations and timeouts expire (R446, R447,
R454). Rests on the model's choices (assumptions 54, 55). -/
def Obligations.CoherenceAnswers : Prop :=
  (∀ (s : State) (p : Pkt) (x : CohMsg) (c : Core) (v : Domain) (k r tid : Nat) (l : CohLine) (tx : CohTx), CohArrives s 12 p x c v k →
    line? c k = some l → l.busy = some tx → tx.kind = .getS r tid → tx.snooped = some x.member → tx.putCame = false →
    tx.evictedCame = false → x.data ≠ [] → bitOf x.arg 0 = false →
    does (.fwdAck p x) s ((writeLine { s.m with core := c } k x.data false).on (fun c =>
      grantLine c k l none ((x.member :: l.sharers).filter (· != r) ++ [r]) r))) ∧
  (∀ (s : State) (p : Pkt) (x : CohMsg) (c : Core) (v : Domain) (k r tid : Nat) (l : CohLine) (tx : CohTx), CohArrives s 12 p x c v k →
    line? c k = some l → l.busy = some tx → tx.kind = .getM r tid → tx.snooped = some x.member → tx.putCame = false →
    tx.evictedCame = false → x.data = [] → bitOf x.arg 0 = false → doesTo (.fwdAck p x) s (grantLine c k l (some r) [] r)) ∧
  (∀ (s : State) (p : Pkt) (x : CohMsg) (c : Core) (v : Domain) (k : Nat) (l : CohLine) (tx : CohTx), CohArrives s 13 p x c v k →
    line? c k = some l → l.busy = some tx → tx.kind = .recall → tx.snooped = some x.member → tx.putCame = false →
    tx.evictedCame = false → x.data ≠ [] → bitOf x.arg 0 = false →
    does (.recallAck p x) s ((writeLine { s.m with core := c } k x.data false).on (fun c =>
      lineDone (freeLine c k) l.domain k))) ∧
  (∀ (s : State) (p : Pkt) (x : CohMsg) (c : Core) (v : Domain) (k r tid : Nat) (l : CohLine) (tx : CohTx), CohArrives s 14 p x c v k →
    line? c k = some l → l.busy = some tx → tx.kind = .getM r tid → tx.invs.contains x.member = true →
    (tx.invs.filter (· != x.member) ≠ [] → doesTo (.invAck p x) s
      (setLine c k { l with busy := some { tx with invs := tx.invs.filter (· != x.member) } })) ∧
    (tx.invs.filter (· != x.member) = [] → l.sharers.contains r = true → doesTo (.invAck p x) s
      (grantLine (cohSend c x.domain r 11 1 0 tid k 0) k l (some r) [] r)) ∧
    (tx.invs.filter (· != x.member) = [] → l.sharers.contains r = false → does (.invAck p x) s
      (dataGrant { s.m with core := c } k l r tid 0 (some r) []))) ∧
  (∀ (s : State) (p : Pkt) (x : CohMsg) (c : Core) (v : Domain) (k : Nat) (l : CohLine) (tx : CohTx), CohArrives s 15 p x c v k →
    line? c k = some l → l.busy = some tx → tx.snooped = some x.member → tx.putCame = false → tx.evictedCame = false →
    doesTo (.evicted p x) s (setLine c k { l with busy := some { tx with evictedCame := true, since := c.glb.now } })) ∧
  (∀ (s : State) (line : W64) (time : Nat), inService s.core = true → doesTo (.reservationExpiry line time) s
    (modLine (s.core.at time) (lineOf line) (fun l => match l.resv with
      | some v => if v.2 + 16 * s.core.fld COH_TIMING0 COH_TIMING0_HOLD_NS ≤ max s.core.glb.now time then { l with resv := none } else l
      | none => l))) ∧
  (∀ (s : State) (line : W64) (time : Nat) (l : CohLine), inService s.core = true → line? s.core (lineOf line) = some l →
    holdLeft (s.core.at time) l = 0 → l.busy = none → doesTo (.holdExpiry line time) s
      (wakeOn (· == .line (lineExt (lineOf line)) (lineOff (lineOf line))) (s.core.at time))) ∧
  (∀ (s : State) (line : W64) (time : Nat) (l : CohLine) (tx : CohTx) (v : Domain), inService s.core = true →
    line? s.core (lineOf line) = some l → l.busy = some tx → domain? s.core l.domain = some v → v.st = .up →
    tx.since + s.core.fld COH_TIMING1 COH_TIMING1_TIMEOUT_US * 1000 ≤ max s.core.glb.now time →
    doesTo (.cohTimeout line time) s
      (cohFail (s.core.at time) l.domain 1 (if tx.snooped.isSome then tx.snooped else tx.invs.head?)))

/-! ### Contexts, work rings and works (chapter 6) -/

/-- A grant makes a context ACTIVE with the fields asked for, an empty ring and counts of 0, and leaves every other register alone; an
idle context is revoked and flushed at once (R222, R223, R242). Rests on the model's choices (assumption 18). -/
def Obligations.ContextManagement : Prop :=
  (∀ (s : State) (src : Src) (b : CtxGrant) (m : M), FmAsks { mop := 0x0130, grant := true } src s m →
    (∀ y ∈ grantChecks m.core b, y.1 = true) →
    ∃ c : Core, does (.ctxGrant src b) s (accepted (m.on (fun _ => c)) src 0x0130) ∧
      (∀ r e, r = c.regs → e = c.mem.ctrl → c = { m.core with
        regs := r, mem := { m.core.mem with ctrl := e }, work := { m.core.work with ctx := amSet m.core.work.ctx b.ctx freshCtx } }) ∧
      (∀ a, a / 0x100 ≠ 0x4000 + b.ctx → a ≠ ECC_FLIP_CTRL → a ≠ ECC_POISON_WRITTEN → c.rget a = m.core.rget a) ∧
      (m.core.flag ECC_FLIP_CTRL ECC_FLIP_CTRL_ARMED = false →
        c.rget ECC_FLIP_CTRL = m.core.rget ECC_FLIP_CTRL ∧ c.rget ECC_POISON_WRITTEN = m.core.rget ECC_POISON_WRITTEN) ∧
      ctxState c b.ctx = 1 ∧ ctxPart c b.ctx = b.partition ∧ ctxOwner c b.ctx = b.owner ∧ ctxRdma c b.ctx = b.rdma ∧
      ctxAbort c b.ctx = b.abort ∧ ctxInflight c b.ctx = b.maxInflight ∧ c.fld (CTX_CFG1 b.ctx) CTX_CFG1_WEIGHT = b.weight ∧
      cqLog2 c b.ctx = b.cqLog2 ∧ ringLog2 c b.ctx = b.ringLog2 ∧ c.fld (CTX_CTRL b.ctx) CTX_CTRL_KEY_SLOT = b.keySlot ∧
      c.rget (CTX_RING_BASE b.ctx) = b.ringBase ∧ c.rget (CTX_CQ b.ctx) = b.cq ∧
      (∀ i w, b.wins[i]? = some w → c.rget (CTX_WIN_BASE b.ctx i) = w.base ∧ regN c (CTX_WIN_LEN b.ctx i) = w.len ∧
        regN c (CTX_WIN_KEY b.ctx i) = w.key.toNat) ∧
      (∀ a ∈ ctxZeros b.ctx, c.rget a = 0)) ∧
  (∀ (s : State) (src : Src) (x : Nat) (m : M) (c1 c2 c3 : Core), FmAsks { mop := 0x0131 } src s m → x < 4096 →
    ctxState m.core x = 1 ∨ ctxState m.core x = 2 ∨ ctxState m.core x = 3 → (ctxX m.core x).whole = [] → worksOf m.core x = [] →
    c1 = missDeadlines (setCtxState m.core x 4) x →
    c2 = modCtxX (if copiesDiffer c1 x then ringReset c1 x else c1) x (fun k => { k with flushPending := false, flushing := [] }) →
    c3 = setCtxState (c2.setFld (CTX_CTRL x) CTX_CTRL_FLUSH 0) x 0 →
    does (.ctxRevoke src x) s (accepted (m.on (fun _ => c3.toFm 0x0133 [x])) src 0x0131)) ∧
  (∀ (s : State) (src : Src) (x : Nat) (m : M) (c1 c2 c3 c4 : Core), Asks { mop := 0x0132 } src s m → x < 4096 →
    srcFm (realSrc src) = true ∨ srcCtx (realSrc src) = x → ctxState m.core x = 1 → (ctxX m.core x).whole = [] →
    worksOf m.core x = [] → c1 = missDeadlines (setCtxState (m.core.setFld (CTX_CTRL x) CTX_CTRL_FLUSH 1) x 2) x →
    copiesDiffer c1 x = false → c2 = modCtxX c1 x (fun k => { k with flushPending := true, flushing := [] }) →
    c3 = modCtxX c2 x (fun k => { k with flushPending := false, flushing := [] }) →
    c4 = setCtxState (c3.setFld (CTX_CTRL x) CTX_CTRL_FLUSH 0) x 1 →
    does (.ctxFlush src x) s
      (accepted (m.on (fun _ => c4.notice (ctxOwner c4 x) 5 x 0 (regN c4 (CTX_TAKEN x)) c4.tick)) src 0x0132)) ∧
  (∀ (c : Core) (x : Nat), worksOf c x = [] → (ctxX c x).whole = [] →
    missDeadlines c x = modCtxX c x (fun k => { k with missed := k.missed + 0 })) ∧
  (∀ (c : Core) (x : Nat) (d : WholeDesc) (w : Work) (c1 : Core) (b : Bool), ctxState c x = 1 → (ctxX c x).whole = [d] →
    worksOf c x = [] → x < 4096 → c1 = missDeadlines (setCtxState (c.setFld (CTX_CTRL x) CTX_CTRL_FLUSH 1) x 2) x →
    copiesDiffer c1 x = false → d.missed = true ∨ descOverdue c d = false →
    w = workOf x (regN c1 (CTX_TAKEN x)) d.hdr d.tick noTag → work? c x w.num = none →
    flushRequest c x b = modCtxX (setWork (popWhole c1 x d w.seq) { w with
        noSync := !d.readable || foreignSync c1 w, late := d.missed, phase := .ended,
        status := some (if d.missed = true ∧ ctxAbort c1 x = true then .abortedDeadline else .abortedFlush) }) x
      (fun k => { k with flushPending := true, flushing := [w.num] }))

/-- A doorbell of an agent joins the requests served, and by RDMA it is the WRITE itself; serving it moves the write pointer and
end-marks whole descriptors, moves the completion head, flushes, or ends a ring reset (R228 to R236, R242, R496).
Rests on the model's choices (assumption 38). -/
def Obligations.Doorbells : Prop :=
  (∀ cmd k, (cmd, k) ∈ [(Instr.doorbellRing, 0), (.doorbellCq, 1), (.doorbellFlush, 2), (.doorbellResync, 3)] →
    (∀ (s : State) (p : Pkt) (f : Pfx) (c c1 c2 : Core) (ss t : Nat) (d : List Byte), f.operand.toNat / 2 ^ 62 = k →
      inService s.core = true → ctxRdma s.core p.ctx = false → landPkt s.core { p with cls := 0 } = (c, some ss) →
      p.ctx < 4096 → ctxOwner c p.ctx = p.srcEp → p.srcEp / 2 ^ 28 ≠ 2 → tagsFull s.core = false →
      assemble c ss p.xid p.msgOff 0 (ctxPart c p.ctx) f.data = (c1, some d) → newTag c1 = (c2, some t) →
      doesTo (cmd (.frieze p f)) s { c2 with net := { c2.net with requests := c2.net.requests ++ [{
        tag := t, sender := .session ss p.xid, ctx := p.ctx, part := ctxPart c1 p.ctx, type := 0x21,
        body := [f.target.toNat, f.len, f.arg, f.operand.toNat, f.compare.toNat], data := d, cause := none, waited := 0,
        reply := none, port := p.port }] } }) ∧
    (∀ (s : State) (p : RPkt) (m : M), leNat p.data / 2 ^ 62 % 4 = k → does (.rdmaWrite p) s m → does (cmd (.rdma p)) s m)) ∧
  (∀ (s : State) (p : Pkt) (c c1 c2 : Core) (ss t : Nat) (d : List Byte),
      inService s.core = true → landPkt s.core { p with cls := 0 } = (c, some ss) →
      p.ctx < 4096 → ctxOwner c p.ctx = p.srcEp → p.srcEp / 2 ^ 28 ≠ 2 → tagsFull s.core = false →
      assemble c ss p.xid p.msgOff 0 (ctxPart c p.ctx) [] = (c1, some d) → newTag c1 = (c2, some t) →
      doesTo (.ctxQuery p) s { c2 with net := { c2.net with requests := c2.net.requests ++ [{
        tag := t, sender := .session ss p.xid, ctx := p.ctx, part := ctxPart c1 p.ctx, type := 0x22,
        body := [0, 0, 0, 0, 0], data := d, cause := none, waited := 0, reply := none, port := p.port }] } }) ∧
  (∀ (m : M) (r : Request), r.type = 0x22 → r.ctx < 4096 → serveHere r m = (m, .reply {
      count := m.core.fld (CTX_QUEUE r.ctx) CTX_QUEUE_PACKETS,
      detail := w64 (regN m.core (CTX_CQ_TAIL r.ctx) * 2 ^ 32 + ctxState m.core r.ctx), value := m.core.rget (CTX_TAKEN r.ctx),
      value2 := w64 (regN m.core (CTX_WP_A r.ctx) * 2 ^ 32 + regN m.core (CTX_RP_A r.ctx)) })) ∧
  (∀ (m : M) (r : Request) (x v : Nat), r.type = 0x21 → x = r.ctx → x < 4096 → v < 2 ^ 32 →
    (r.body.getD 3 0 = v → ctxState m.core x = 1 ∨ ctxState m.core x = 2 → copiesDiffer m.core x = true →
      serveHere r m = (m.on (fun c => ringReset c x), .reply {})) ∧
    (r.body.getD 3 0 = v → ctxState m.core x = 1 ∨ ctxState m.core x = 2 → copiesDiffer m.core x = false →
      sub32 v (regN m.core (CTX_WP_A x)) ≠ 0 → sub32 v (regN m.core (CTX_WP_A x)) < 2 ^ 31 →
      (2 ^ ringLog2 m.core x < sub32 v (regN m.core (CTX_RP_A x)) →
        serveHere r m = (m.on (fun c => raise c .ctxDoorbellRejected 7 x), .reply {})) ∧
      (∀ m' b len p, sub32 v (regN m.core (CTX_RP_A x)) ≤ 2 ^ ringLog2 m.core x → p = (ctxX m.core x).walk →
        2 ≤ sub32 v p → ringWords 2 m x p = (m', .ok b) → len = leNat ((b.drop 2).take 2) → 2 ≤ len → len ≤ 1024 →
        len ≤ 2 ^ ringLog2 m'.core x →
        (len = sub32 v p → serveHere r m = (m'.on (fun c => setPtrs (modCtxX c x (fun k => { k with
          whole := k.whole ++ [⟨p, len, m'.core.tick, none, 0, true, b, false, r.port⟩], walk := (p + len) % 2 ^ 32 })) x v
          (regN m.core (CTX_RP_A x))), .reply {})) ∧
        (sub32 v p < len → serveHere r m = (m'.on (fun c => setPtrs (modCtxX c x (fun k => { k with
          whole := k.whole ++ [], walk := p })) x v (regN m.core (CTX_RP_A x))), .reply {})))) ∧
    (r.body.getD 3 0 = 2 ^ 62 + v → ctxState m.core x = 1 ∨ ctxState m.core x = 2 →
      sub32 v (regN m.core (CTX_CQ_HEAD x)) ≠ 0 → sub32 v (regN m.core (CTX_CQ_HEAD x)) < 2 ^ 31 →
      (sub32 (regN m.core (CTX_CQ_TAIL x)) (regN m.core (CTX_CQ_HEAD x)) < sub32 v (regN m.core (CTX_CQ_HEAD x)) →
        serveHere r m = (m.on (fun c => raise c .ctxDoorbellRejected 7 x), .reply {})) ∧
      (sub32 v (regN m.core (CTX_CQ_HEAD x)) ≤ sub32 (regN m.core (CTX_CQ_TAIL x)) (regN m.core (CTX_CQ_HEAD x)) →
        serveHere r m = (m.on (fun c => (worksOf c x).foldl (fun c w => modWork c x w.num (fun w => { w with recordHeld := false }))
          ((c.rset (CTX_CQ_HEAD x) (w64 v)).setFld (CTX_STATUS x) CTX_STATUS_CQ_FULL 0)), .reply {}))) ∧
    (r.body.getD 3 0 = 2 * 2 ^ 62 → ctxState m.core x = 1 → serveHere r m = (m.on (fun c => flushRequest c x true), .reply {})) ∧
    (r.body.getD 3 0 = 3 * 2 ^ 62 → ctxState m.core x = 3 → serveHere r m = (m.on (fun c => setCtxState c x
      (if (ctxX c x).flushPending then 2 else 1)), .reply {})) ∧
    (ctxState m.core x = 4 → r.body.getD 3 0 / 2 ^ 62 ≠ 2 → r.body.getD 3 0 < 2 ^ 64 →
      serveHere r m = (m.on (fun c => raise c .ctxDoorbellRejected 7 x), .reply {})))

/-- The dispatcher takes a whole descriptor, its work waits for PRE_SYNC or is ready, or is refused with its status (R227, R238,
R239, R255); its slice starts on a cluster or with an engine (R248, R249, R356); a passed deadline makes it LATE (R70, R71).
Rests on the model's choices (assumptions 9, 40, 42). -/
def Obligations.WorksTakenAndStarted : Prop :=
  (∀ (s : State) (x : Nat) (d : WholeDesc) (rest : List WholeDesc) (m : M) (b : List Byte) (c1 c2 : Core) (tag : Nat) (w : Work),
    inService s.core = true → bootStage s.core = 8 → ctxState s.core x = 1 → inflight s.core x < ctxInflight s.core x →
    s.core.work.tags.length < 65536 → copiesDiffer s.core x = false → (ctxX s.core x).whole = d :: rest → d.refused = none →
    d.missed = false → ringWords d.words s.m x d.ptr = (m, .ok b) → newTag m.core = (c1, some tag) →
    w = { workOf x (regN s.core (CTX_TAKEN x)) b d.tick tag with
      noSync := !d.readable || foreignSync c1 (workOf x (regN s.core (CTX_TAKEN x)) b d.tick tag), port := d.port } →
    c2 = setWork (popWhole c1 x d w.seq) w → overdue c2 w = false →
    (∀ st, headerFail c1 w = some st → overdue (stopWork c2 x w.num st 0) w = false →
      does (.workTake x) s { m with core := stopWork c2 x w.num st 0 }) ∧
    (∀ c3, headerFail c1 w = none → clustersOf c2 (ctxPart c2 x) ≠ [] → workProg c2 w = .inr none →
      c3 = modWork c2 x w.num (fun w => { w with prog := none, winNeed := 0 }) →
      (bitOf w.flags 1 = false → does (.workTake x) s { m with core := c3 }) ∧
      (∀ o, bitOf w.flags 1 = true → sync? c3 w.preSync = some o → o.frozen = false → o.poisoned = false →
        (w.preValue ≤ o.count → does (.workTake x) s { m with core := c3 }) ∧
        (∀ c4, o.count < w.preValue → waitEntries c3 (w.preSync % 4) < 65536 →
          c4 = setSync c3 w.preSync { o with waiters := o.waiters ++ [⟨.work x w.num, w.preValue, true⟩] } →
          does (.workTake x) s
            { m with core := (modWork c4 x w.num (fun w => { w with phase := .preWait })).count (CTX_PARKS x) })))) ∧
  (∀ (s : State) (x num ns q ns' : Nat) (w : Work), inService s.core = true → work? s.core x num = some w → w.winNeed = 0 →
    headSlice s.core x = some w → w.num = num → q = ctxPart s.core x → clustersOf s.core q ≠ [] → ns' = fitSlice s.core q ns →
    expertsFirst s.core q = false → drrTurn s.core x ns' = true →
    (∀ c k, placeSlice s.core w = (c, k) → (w.prog.isSome = true → k = none) ∧
      (w.prog = none → (clustersOf s.core q).any (clusterUp s.core) = true →
        ∃ n, k = some n ∧ n ∈ clustersOf s.core q ∧ clusterUp s.core n = true) ∧
      (needsEngine w.opcode = false ∨ w.prog.isSome = true → doesTo (.workSliceStart x num ns) s
        (modWork (spendDeficit c x ns') x num (fun w => { w with phase := .running, cluster := k, sliceRows := [] })))) ∧
    (∀ e es c k c2 i n, needsEngine w.opcode = true → w.prog = none →
      preferred w ((enginesOf s.core q).filter (engineFree s.core)) = e :: es → placeSlice s.core w = (c, k) →
      c.choose (es.length + 1) = (c2, i) → n = (e :: es).getD i e → doesTo (.workSliceStart x num ns) s
        (modWork (holdEngine (countRedo (spendDeficit c2 x ns') w n) n x num) x num
          (fun w => { w with phase := .running, engine := some n, cluster := k, redo := false, sliceRows := [] })))) ∧
  (∀ (s : State) (x : Nat) (w : Work) (c c2 : Core), inService s.core = true → worksOf s.core x = [w] → (ctxX s.core x).whole = [] →
    notMissed s.core w = false → ctxAbort s.core x = false →
    c = modCtxX (modWork s.core x w.num (fun w => { w with late := true })) x (fun k => { k with missed := k.missed + 1 }) →
    c2 = modCtxX c x (fun k => { k with missed := k.missed + 0 }) →
    doesTo (.workDeadline x) s (modCtxX (raise c2 .deadlineMissed 7 x 0 (min ((ctxX s.core x).missed + 1) 65535)) x
      (fun v => { v with missed := 0 })))

/-- An ended work whose writes are made has its record written, unless SUPPRESS leaves it out or the ring is full; acknowledged, it
leaves flight and its sync increments go out (R28, R29, R238, R240, R250, R251, R491); NOP, WAIT and RASP_PROGRAM (R256, R403, R423).
Rests on the model's choices (assumption 42). -/
def Obligations.CompletionsAndWaits : Prop :=
  (∀ (s : State) (x num t : Nat) (w : Work), inService s.core = true → work? s.core x num = some w → w.phase = .ended →
    w.unacked = 0 → w.queued = 0 → w.owes = false → writesMade s.core w.tag = true → notMissed s.core w = true →
    t = regN s.core (CTX_CQ_TAIL x) →
    (suppressed w = true → doesTo (.completionRecordWrite x num) s (leaveFlight s.core x num)) ∧
    (suppressed w = false → 2 ^ cqLog2 s.core x ≤ sub32 t (regN s.core (CTX_CQ_HEAD x)) →
      doesTo (.completionRecordWrite x num) s
        ((modWork s.core x num (fun w => { w with recordHeld := true })).setFld (CTX_STATUS x) CTX_STATUS_CQ_FULL 1)) ∧
    (∀ (c0 c : Core) (a : W64) (m : OutMsg), suppressed w = false →
      sub32 t (regN s.core (CTX_CQ_HEAD x)) < 2 ^ cqLog2 s.core x → removingWork s.core w = false →
      c0 = s.core.rset (CTX_CQ_TAIL x) (w64 ((t + 1) % 2 ^ 32)) →
      c = modWork (if w.late then (c0.count (CTX_LATE x)).count TCK_LATE else c0) x num (fun w => { w with phase := .recorded }) →
      a = s.core.rget (CTX_CQ x) + w64 (t % 2 ^ cqLog2 s.core x * 32) →
      m = { dst := .agent (ctxOwner s.core x), type := 0x13, cls := 0, ctx := x, work := some (x, num, true),
            body := [bitsOf a.toNat 61 0, 32, regN s.core (CTX_WIN_KEY x (bitsOf a.toNat 63 62)),
              regN s.core (CTX_WIN_BASE x (bitsOf a.toNat 63 62))],
            data := natLe 4 w.seq ++ natLe 1 w.opcode ++ natLe 1 (statusCode (w.status.getD .done)) ++
              natLe 1 (b2n w.sat + 2 * b2n w.late + 4 * b2n w.nonfin + 8 * b2n w.stoch +
                (if bitOf t (cqLog2 s.core x) then 0 else 128)) ++ [0] ++
              natLe 8 w.user.toNat ++ natLe 8 w.detail.toNat ++ natLe 4 s.core.tick ++ natLe 4 w.count } →
      doesTo (.completionRecordWrite x num) s (c.send m))) ∧
  (∀ (s : State) (x num : Nat) (w : Work), inService s.core = true → work? s.core x num = some w → w.phase = .recorded →
    s.core.net.ackedRecords.contains (x, num) = true → ∀ c : Core,
    c = { s.core with net := { s.core.net with ackedRecords := s.core.net.ackedRecords.filter (· != (x, num)) } } →
    doesTo (.completionAcknowledged x num) s (leaveFlight c x num)) ∧
  (∀ (c c1 : Core) (x num : Nat) (w : Work), work? c x num = some w → ctxState c x = 1 → (ctxX c x).flushPending = false →
    w.noSync = false → c1 = (delWork c x num).count (CTX_COMPLETED x) →
    leaveFlight c x num = { c1 with sync := { c1.sync with sent := c1.sync.sent ++
      ((if bitOf w.syncEn 0 then [(w.sync0, ctxPart c x)] else []) ++ (if bitOf w.syncEn 1 then [(w.sync1, ctxPart c x)] else [])) } }) ∧
  (∀ (s : State) (x num i : Nat) (r : Bool) (c : Core), inService s.core = true →
    s.core.net.ackedWrites.findIdx? (fun w => w.1 == x && w.2.1 == num) = some i → s.core.net.ackedWrites[i]? = some (x, num, r) →
    c = { s.core with net := { s.core.net with ackedWrites := dropAt s.core.net.ackedWrites i } } →
    (r = false → doesTo (.resultWriteAcknowledged x num) s (modWork c x num (fun w => { w with unacked := w.unacked - 1 }))) ∧
    (r = true → doesTo (.resultWriteAcknowledged x num) s
      { c with net := { c.net with ackedRecords := c.net.ackedRecords ++ [(x, num)] } })) ∧
  (∀ (s : State) (x num : Nat) (w : Work), inService s.core = true → work? s.core x num = some w → w.ctx = x → w.num = num →
    w.phase = .ready → w.started = false → w.step = 0 →
    (w.opcode = 0x3F → doesTo (.nop x num) s (endWork (plainStart s.core w) x num)) ∧
    (∀ o : SyncObj, w.opcode = 0x3E → w.zero 2 8 = true → w.zero 16 32 = true → sync? s.core (w.field 0 2) = some o →
      o.partition = ctxPart s.core x → o.frozen = false → o.poisoned = false →
      (w.field 8 8 ≤ o.count → doesTo (.wait x num) s (endWork (stepDone (plainStart s.core w) x num) x num)) ∧
      (∀ m1 c2, o.count < w.field 8 8 → waitEntries s.core (w.field 0 2 % 4) < 65536 →
        m1 = asWork (s.m.on (fun c => plainStart c w)) w → c2 = setSync m1.core (w.field 0 2)
          { o with waiters := o.waiters ++ [⟨.work x num, w.field 8 8, true⟩] } → does (.wait x num) s (offWork s.m (m1.on (fun c =>
            parkWork (uncounted c c2 x num) x num (.sync (w.field 0 2) (w.field 8 8)))))))) ∧
  (∀ (s : State) (x num : Nat) (w : Work), inService s.core = true → work? s.core x num = some w → w.opcode = 0x30 →
    w.phase = .running → w.prog.isSome = true →
    doesTo (.raspProgram x num) s (modWork s.core x num (fun w => { w with started := true }))) ∧
  (∀ (c c1 c2 : Core) (x num : Nat) (w : Work), work? c x num = some w → w.ctx = x → w.num = num → w.opcode = 0x3E ∨ w.opcode = 0x3F →
    w.phase = .ready → w.engine = none → w.queued = 0 → w.statusAddr = none → w.recordAddr = none →
    (∀ t ∈ c.work.tables, t.2.recast ≠ some (x, num)) →
    c1 = modWork (unwait c (.work x num)) x num (fun w => { w with phase := .ended, engine := none }) →
    c2 = { c1 with rasp := { c1.rasp with windows := amDel c1.rasp.windows (wkey x num) } } →
    endWork c x num = dropTag c2 w.tag)

/-! ### Works on tables and pool (chapter 7) -/

/-- GATHER returns rows, zeros for null and poisoned ones, in the table's format, and converts or stores them (R274, R278);
GATHER_REDUCE returns one row for each bag (R276, R277); a row read already under DEDUP is not read again (R268).
Rests on the model's choices (assumptions 42, 93). -/
def Obligations.LookupWorks : Prop :=
  (∀ (s : State) (x num tn lo hi : Nat) (w : Work) (t : Table) (o : FmtWord) (m0 m1 m2 : M) (idx : List Nat) (extra : Bool)
      (rows : List (Nat × RowImg)), Stepping 0x01 s x num w → m0 = asWork s.m w → tn = w.field 0 2 → table? s.core tn = some t →
    fmtWord? (w.field 0x10 4) = some o → lo = 64 * w.step → lo < w.field 4 4 → hi = min (lo + 64) (w.field 4 4) →
    tblAccess m0.core w t false = none → indices m0 w lo hi 0x18 8 = (m1, .ok (idx, extra)) → extra = false ∨ hi < w.field 4 4 →
    (∀ i ∈ idx, i = nullIndex ∨ i < t.rows) → readRows m1 w tn t idx = (m2, .ok rows) → StillRuns m2.core w →
    bitOf (w.field 2 2) 4 = false →
    (sameBits o (tblFmt t) = true → does (.gather x num) s (afterStep s.m (m2.on (fun c =>
      agentWrite (idx.zipIdx.foldl (gatherOne w t rows lo (tblCb m2.core t)) c) x num
        (w.ptr 0x20 + w64 (lo * outStride o.fmt t.rowLen)) (idx.flatMap (gatherBytes t o rows)))) w
        (listSteps w ((w.field 4 4 + 63) / 64)))) ∧
    (∀ r img c bits fl, sameBits o (tblFmt t) = false → idx = [r] → findRow rows r = some img → imgPoisoned img = false →
      encodeScalars (setItem m2.core x num lo 1) o (imgValues (tblFmt t).fmt (tblCb m2.core t) img) = (c, bits, fl) →
      does (.gather x num) s (afterStep s.m (m2.on (fun _ => agentWrite (counted (addFlags c x num fl) w 1) x num
        (w.ptr 0x20 + w64 (lo * outStride o.fmt t.rowLen)) (resultRow o.fmt bits))) w
        (listSteps w ((w.field 4 4 + 63) / 64))))) ∧
  (∀ (s : State) (x num tn first mode d : Nat) (w : Work) (t : Table) (o : FmtWord) (m0 m1 m2 m3 : M) (idx : List Nat) (c c2 : Core)
      (rows : List (Nat × RowImg)) (wb : List Byte) (vals : List (List FVal × FVal)) (res : List FVal) (bits : List Nat) (fl : Flags),
    Stepping 0x02 s x num w → m0 = asWork s.m w → tn = w.field 0 2 → table? s.core tn = some t →
    fmtWord? (w.field 0x10 4) = some o → w.step < w.field 0x14 4 → tblAccess m0.core w t false = none →
    bitOf (w.field 2 2) 4 = false → mode = bitsOf (w.field 2 2) 7 6 → bagIndices m0 w w.step = (m1, .ok (idx, first)) →
    (∀ i ∈ idx, i < t.rows ∧ i ≠ nullIndex) →
    readRows m1 w tn t (if dedupOf w = 0 then idx else distinctOf idx) = (m2, .ok rows) →
    (∀ i ∈ idx, ∃ img, findRow rows i = some img ∧ imgPoisoned img = false) →
    (if mode = 1 then arrayRead m2 w (bitOf (w.field 2 2) 0) (w.ptr 0x38) (4 * first) (4 * idx.length) else (m2, .ok [])) =
      (m3, .ok wb) → StillRuns m3.core w →
    m3.core.drawN (2 * t.rowLen * (idx.length + 1)) = (c, d) →
    vals = idx.zipIdx.map (fun y => (((findRow rows y.1).map (imgValues (tblFmt t).fmt (tblCb m3.core t))).getD [],
      decodeFp32 (leNat ((wb.drop (4 * y.2)).take 4)))) →
    res = reduceRow d mode (o.fmt == .i32) t.rowLen vals →
    encodeScalars (setItem (offerRow c tn 2 res) x num w.step 1) o res = (c2, bits, fl) →
    StillRuns c2 w →
    does (.gatherReduce x num) s (afterStep s.m (m3.on (fun _ => agentWrite (counted (addFlags c2 x num fl) w 1) x num
      (w.ptr 0x20 + w64 (w.step * outStride o.fmt t.rowLen)) (resultRow o.fmt bits))) w (w.field 0x14 4))) ∧
  (∀ (m m' : M) (w : Work) (tn r : Nat) (t : Table) (img : RowImg), readRow m tn t r = (m', .ok img) →
    (sharedRead m.core w tn r = true → dedupRow m w tn t r = (m, .ok img)) ∧
    (dedupOf w = 0 → dedupRow m w tn t r = (m', .ok img)) ∧
    (dedupOf w = 1 → sharedRead m.core w tn r = false → StillRuns m'.core w → ∃ m2, dedupRow m w tn t r = (m2, .ok img) ∧
      sharedRead m2.core w tn r = true)) ∧
  (∀ (d n i : Nat) (rows : List (List FVal × FVal)), rows ≠ [] → i < n →
    (reduceRow d 0 true n rows).getD i .nan = (rows.map (fun r => r.1.getD i FVal.zero)).foldl FVal.add FVal.zero ∧
    (reduceRow d 0 false n rows).getD i .nan =
      sumTerms (d + 2 * i * (rows.length + 1)) (rows.map (fun r => r.1.getD i FVal.zero)) ∧
    (reduceRow d 1 false n rows).getD i .nan =
      sumTerms (d + 2 * i * (rows.length + 1)) (rows.map (fun r => (r.1.getD i FVal.zero).mul r.2)) ∧
    (reduceRow d 2 false n rows).getD i .nan =
      meanFp32 (sumTerms (d + 2 * i * (rows.length + 1)) (rows.map (fun r => r.1.getD i FVal.zero))) rows.length ∧
    (reduceRow d 3 false n rows).getD i .nan =
      (rows.map (fun r => r.1.getD i FVal.zero)).tail.foldl FVal.maxR ((rows.map (fun r => r.1.getD i FVal.zero)).headD FVal.zero))

/-- SCATTER_ADD adds each row's scaled gradients, ROW_UPDATE applies its optimizer's step (Table 7-7) and ATOMIC its entries'
operations (Table 7-11), row by row and entry by entry (R280, R285, R290 to R294).
Rests on the model's choices (assumptions 42, 49). -/
def Obligations.UpdateWorks : Prop :=
  (∀ (s : State) (x num tn n : Nat) (w : Work) (t : Table) (f g : FmtWord) (m0 m1 m2 m3 m4 : M) (idx rows : List Nat)
      (gs : List (Nat × Nat × (W64 ⊕ List FVal))), Stepping 0x03 s x num w → m0 = asWork s.m w → tn = w.field 0 2 →
    table? s.core tn = some t → fmtWord? (w.field 0x0C 4) = some f → fmtWord? (w.field 0x10 4) = some g →
    tblAccess m0.core w t true = none → w.step < w.field 4 4 →
    scatterIdx m0 w w.step ((w.field 4 4 - w.step) / 64 + 1) [] = (m1, .ok (idx, false)) → n = idx.length →
    (∀ i ∈ idx, i = nullIndex ∨ i < t.rows) → rows = (distinctOf idx).filter (· ≠ nullIndex) →
    rowFrames m1 t rows = (m2, .ok ()) →
    gradRows m2 w t g (bitOf (w.field 2 2) 0) (w.ptr 0x20) (idx.zipIdx.map (fun y => (y.1, w.step + y.2))) = (m3, .ok gs) →
    forEach (scatterRow w tn t f (decodeFp32 (w.field 0x14 4))) (m3.on (fun c => idx.zipIdx.foldl (fun c y =>
        if y.1 = nullIndex then setItem c x num (w.step + y.2) 3 else c) c)) ()
      (rows.map (fun r => (r, (gs.filter (·.1 == r)).map (·.2)))) = (m4, .ok ()) → StillRuns m4.core w → 1 ≤ n →
    does (.scatterAdd x num) s (afterStep s.m (m4.on (fun c => modWork c x num (fun w => { w with step := w.step + n - 1 })))
      { w with step := w.step + n - 1 } (listSteps w (w.field 4 4)))) ∧
  (∀ (m m' : M) (w : Work) (tn r d : Nat) (t : Table) (f : FmtWord) (alpha : FVal) (ps : List (Nat × List FVal)) (c c' : Core)
      (res : RowWrite), ps ≠ [] → m.core.drawN (2 * t.rowLen * (ps.length + 1)) = (c, d) →
    c' = ps.foldl (fun c p => setItem c w.ctx w.num p.1 1) (ps.foldl (fun c p => offerRow c tn 1 (p.2.map alpha.mul)) c) →
    writeRow { m with core := c' } tn r f true w.ctx w.num ((addend d t.rowLen (ps.map (fun p => p.2.map alpha.mul))).map some)
      (ps.map (·.1)) = (m', .ok res) → res.bad = [] →
    scatterRow w tn t f alpha m () (r, ps.map (fun p => (p.1, .inr p.2))) = (m'.on (fun c =>
      if res.some_ then modWork (addFlags c w.ctx w.num res.flags) w.ctx w.num (fun w =>
        if w.rows.contains r then w else { w with rows := r :: w.rows, count := w.count + 1 })
      else addFlags c w.ctx w.num res.flags), .ok ())) ∧
  (∀ (d n : Nat) (l : List FVal) (rows : List (List FVal)), addend d n [l] = l ∧
    (2 ≤ rows.length → addend d n rows = (List.range n).map (fun i =>
      sumTerms (d + 2 * i * (rows.length + 1)) (rows.map (fun r => r.getD i FVal.zero))))) ∧
  (∀ (s : State) (x num tn rule : Nat) (w : Work) (t : Table) (f g : FmtWord) (m0 m1 m2 m3 m4 m5 m6 : M) (idx all rows st : List Nat)
      (extra : Bool) (mom : Option Table) (gs : List (Nat × Nat × (W64 ⊕ List FVal))), Stepping 0x04 s x num w → m0 = asWork s.m w →
    tn = w.field 0 2 → table? s.core tn = some t → fmtWord? (w.field 0x0C 4) = some f → fmtWord? (w.field 0x10 4) = some g →
    rule = w.field 0x14 1 → rule ≤ 2 → mom = (if rule = 2 then table? s.core (w.field 0x16 2) else none) →
    tblAccess m0.core w t true = none → (∀ q, mom = some q → tblAccess m0.core w q true = none) →
    w.step = 0 ∨ 64 * w.step < w.perItem →
    indices m0 w 0 (w.field 4 4) 0x38 8 = (m1, .ok (idx, extra)) → all = (distinctOf idx).filter (· ≠ nullIndex) →
    extra = false ∨ 64 * (w.step + 1) < all.length →
    rows = (all.drop (64 * w.step)).take 64 → (∀ r ∈ rows, r < t.rows) →
    (∀ r ∈ rows, midRecast t r = false ∧ ∀ q, mom = some q → midRecast q r = false) →
    rowFrames m1 t rows = (m2, .ok ()) →
    (match mom with | some q => rowFrames m2 q rows | none => (m2, .ok ())) = (m3, .ok ()) →
    st = (if rule = 1 ∨ rule = 2 then rows else []) →
    (∀ r ∈ st, workCheck m3.core w (w.ptr 0x48 + w64 (4 * r)) 4 true true = none) →
    readyWrites m3 (ptrExtent (w.ptr 0x48)) (st.map (fun r => (ptrOffset (w.ptr 0x48 + w64 (4 * r)), 4))) = (m4, none) →
    gradRows m4 w t g (bitOf (w.field 2 2) 0) (w.ptr 0x40) (idx.zipIdx.filter (fun y => rows.contains y.1)) = (m5, .ok gs) →
    forEach (updateRow w tn t f) (m5.on (fun c => modWork (if w.step = 0 then idx.zipIdx.foldl (fun c y =>
        if y.1 = nullIndex then setItem c x num y.2 3 else c) c else c) x num (fun w => { w with perItem := all.length }))) ()
      (rows.map (fun r => (r, (gs.filter (·.1 == r)).map (·.2)))) = (m6, .ok ()) →
    (∃ w', work? m6.core x num = some w' ∧ w'.step = w.step ∧ w'.perItem = all.length ∧ w'.phase = .running) →
    does (.rowUpdate x num) s (afterStep s.m m6 w ((all.length + 63) / 64))) ∧
  (∀ (m m1 m2 : M) (w : Work) (tn r d d2 : Nat) (t : Table) (f : FmtWord) (img : RowImg) (ps : List (Nat × List FVal)) (c c2 : Core)
      (res : RowWrite) (g : List FVal) (p : OptParams), p = optParams w → p.rule = 0 → readRow m tn t r = (m1, .ok img) →
    imgPoisoned img = false → m1.core.drawN (2 * (t.rowLen + 1) * (ps.length + 1)) = (c, d) →
    g = sumRows d t.rowLen (ps.map (·.2)) → c.drawN (2 * (t.rowLen + 1)) = (c2, d2) →
    writeRowHome { m1 with core := offerRow c2 tn 1 g } tn t r img f (((imgValues (tblFmt t).fmt (tblCb c t) img).zip g).map
      (fun y => some (subFp32 y.1 (mulFp32 p.lr (addFp32 y.2 (mulFp32 p.wd y.1)))))) = (m2, .ok res) →
    updateRow w tn t f m () (r, ps.map (fun p => (p.1, .inr p.2))) = (m2.on (fun c =>
      counted (ps.foldl (fun c y => setItem c w.ctx w.num y.1 1) (addFlags c w.ctx w.num res.flags)) w 1), .ok ())) ∧
  (∀ (p : OptParams) (ws ms g : List FVal) (st : FVal) (d : Nat),
    (p.rule = 1 → optStep p ws ms st g d = ((ws.zip g).map (fun y => subFp32 y.1 (mulFp32 p.lr (addFp32
        (divFp32 y.2 (addFp32 (sqrtFp32 (addFp32 st (meanSquare d g))) p.eps)) (mulFp32 p.wd y.1)))), ms,
      addFp32 st (meanSquare d g))) ∧
    (∀ m2 s2, p.rule = 2 → m2 = (ms.zip g).map (fun y => addFp32 (mulFp32 p.b1 y.1) (mulFp32 (subFp32 fOne p.b1) y.2)) →
      s2 = addFp32 (mulFp32 p.b2 st) (mulFp32 (subFp32 fOne p.b2) (meanSquare d g)) →
      optStep p ws ms st g d = ((ws.zip m2).map (fun y => subFp32 y.1 (mulFp32 p.lr (addFp32
        (divFp32 (divFp32 y.2 (subFp32 fOne (powFp32 p.b1 p.step)))
          (addFp32 (sqrtFp32 (divFp32 s2 (subFp32 fOne (powFp32 p.b2 p.step)))) p.eps)) (mulFp32 p.wd y.1)))), m2, s2))) ∧
  (∀ (s : State) (x num lo n : Nat) (w : Work) (m1 m2 m3 : M) (b out : List Byte) (es : List (List Byte × Nat)),
    Stepping 0x05 s x num w → lo = 64 * w.step → lo < w.field 0 4 → n = min 64 (w.field 0 4 - lo) →
    arrayRead (asWork s.m w) w (bitOf (w.field 4 2) 0) (w.ptr 8) (32 * lo) (32 * n) = (m1, .ok b) →
    es = (List.range n).map (fun k => ((b.drop (32 * k)).take 32, lo + k)) →
    es.foldl (fun y e => match y.2 with | some k => (y.1, some k) | none => atomicWait w y.1 e.1 e.2) (m1, none) = (m2, none) →
    forEach (atomicEntry w) m2 [] es = (m3, .ok out) → StillRuns m3.core w →
    does (.atomic x num) s (afterStep s.m (m3.on (fun c => if bitOf (w.field 4 2) 4 then
      agentWrite c x num (w.ptr 0x10 + w64 (8 * lo)) out else c)) w ((w.field 0 4 + 63) / 64))) ∧
  (∀ (m m1 m2 : M) (w : Work) (tgt : W64) (operand cmp op form n i new : Nat) (out b ent : List Byte) (p : List Bool),
    operand < 2 ^ 64 → cmp < 2 ^ 64 → op < 256 → form ≤ 1 → n = 4 * (form + 1) → servedHere m.core (ptrChip tgt) = true →
    tgt.toNat % n = 0 → ptrCheck m.core (ctxPart m.core w.ctx) tgt n true true = none →
    ent = natLe 8 tgt.toNat ++ natLe 8 operand ++ natLe 8 cmp ++ natLe 1 op ++ natLe 1 form ++ natLe 6 0 →
    atomicDone w (readEnt ent) i = none →
    readyWrite m (ptrExtent tgt) (ptrOffset tgt) n = (m1, none) →
    readBytes m1 (w.ctx % 4) (ptrExtent tgt) (ptrOffset tgt) n = (m2, .got b p) → p.any id = false →
    atomicOp op (8 * n) 0 0 0 ≠ none → atomicOp op (8 * n) (leNat b) operand cmp = some new →
    atomicEntry w m out (ent, i) =
      (((writeBytes m2 (w.ctx % 4) (ptrExtent tgt) (ptrOffset tgt) (natLe n new) false).1).on (fun c =>
        counted (setItem (addFlags (noteAtomic c w (readEnt ent) i (leNat b)) w.ctx w.num (rawFlags op (leNat b) operand))
          w.ctx w.num i 1) w 1), .ok (out ++ natLe 8 (leNat b)))) ∧
  (∀ (n : Nat) (a b cmp : BitVec n), 0 < n →
    atomicOp 0 n a.toNat b.toNat cmp.toNat = some (a + b).toNat ∧ atomicOp 2 n a.toNat b.toNat cmp.toNat = some (a &&& b).toNat ∧
    atomicOp 3 n a.toNat b.toNat cmp.toNat = some (a ||| b).toNat ∧ atomicOp 4 n a.toNat b.toNat cmp.toNat = some (a ^^^ b).toNat ∧
    atomicOp 5 n a.toNat b.toNat cmp.toNat = some (if a.slt b then b else a).toNat ∧
    atomicOp 6 n a.toNat b.toNat cmp.toNat = some (if b.slt a then b else a).toNat ∧
    atomicOp 7 n a.toNat b.toNat cmp.toNat = some b.toNat ∧
    atomicOp 8 n a.toNat b.toNat cmp.toNat = some (if a = cmp then b else a).toNat)

/-- COPY copies bits, FILL writes a value or a pattern and CONVERT converts elements, in steps (R297, R298, R299).
Rests on the model's choices (assumptions 42, 99). -/
def Obligations.CopyFillAndConvert : Prop :=
  (∀ (s : State) (x num lo k : Nat) (w : Work) (p q : W64) (m1 m2 : M) (b : List Byte), Stepping 0x06 s x num w →
    readRef w 0 = .raw p → readRef w 0x10 = .raw q → lo = w.step * copyStepSize s.core w → lo < w.field 0x20 4 →
    k = min (copyStepSize s.core w) (w.field 0x20 4 - lo) → poolReadGood (asWork s.m w) w (p + w64 lo) k = (m1, .ok b) →
    poolWrite m1 w (q + w64 lo) b = (m2, .ok none) → StillRuns m2.core w →
    does (.copy x num) s (afterStep s.m (m2.on (fun c => counted c w k)) w
      ((w.field 0x20 4 + copyStepSize s.core w - 1) / copyStepSize s.core w))) ∧
  (∀ (s : State) (x num t u r r' lo : Nat) (w : Work) (m0 m1 m2 m3 : M) (img : RowImg) (v : Table) (res : RowWrite),
    Stepping 0x06 s x num w → m0 = asWork s.m w → readRef w 0 = .table t r → readRef w 0x10 = .table u r' →
    lo = w.step * copyStepSize s.core w → w.field 0x20 4 = lo + 1 → workRows m0 w t (r + lo) 1 = (m1, .ok [img]) →
    rowsReady (movedOnly m0.core m1) w u (r' + lo) 1 = (m2, .ok v) →
    writeRowBits m2 u (r' + lo) (copyWord v) img x num = (m3, .ok res) → res.bad = [] → StillRuns m3.core w →
    copyStepSize m3.core w = copyStepSize s.core w →
    does (.copy x num) s (afterStep s.m (m3.on (fun c => counted (addFlags c x num res.flags) w 1)) w (w.step + 1))) ∧
  (∀ (s : State) (x num lo k : Nat) (w : Work) (q : W64) (m1 : M), Stepping 0x07 s x num w → readRef w 0 = .raw q →
    lo = 65536 * w.step → lo < w.field 0x10 4 → k = min 65536 (w.field 0x10 4 - lo) →
    poolWrite (asWork s.m w) w (q + w64 lo) ((List.range k).map (fun i => ((w.desc.drop 96).take 32).getD ((lo + i) % 32) 0)) =
      (m1, .ok none) → StillRuns m1.core w →
    does (.fill x num) s (afterStep s.m (m1.on (fun c => counted c w k)) w ((w.field 0x10 4 + 65535) / 65536))) ∧
  (∀ (s : State) (x num tn r lo : Nat) (w : Work) (m1 m2 : M) (t : Table) (f : FmtWord) (res : RowWrite), Stepping 0x07 s x num w →
    readRef w 0 = .table tn r → lo = 64 * w.step → w.field 0x10 4 = lo + 1 → fmtWord? (w.field 0x14 4) = some f →
    rowsReady (asWork s.m w) w tn (r + lo) 1 = (m1, .ok t) →
    writeRow m1 tn (r + lo) f false x num (List.replicate t.rowLen (some (decodeFp32 (w.field 0x18 4)))) = (m2, .ok res) →
    res.bad = [] → StillRuns m2.core w →
    does (.fill x num) s (afterStep s.m (m2.on (fun c => counted (addFlags c x num res.flags) w 1)) w (w.step + 1))) ∧
  (∀ (s : State) (x num lo k : Nat) (w : Work) (p q : W64) (sf df : FmtWord) (m1 m2 : M) (b : List Byte) (c : Core)
      (out es : List Nat) (fl : Flags), Stepping 0x08 s x num w → readRef w 0 = .raw p → readRef w 0x10 = .raw q →
    fmtWord? (w.field 0x24 4) = some sf → fmtWord? (w.field 0x28 4) = some df → lo = w.step * convertSize s.core w →
    lo < w.field 0x20 4 → k = min (convertSize s.core w) (w.field 0x20 4 - lo) →
    poolReadGood (asWork s.m w) w (p + w64 (lo * elemBits sf.fmt / 8)) (elemsBytes sf.fmt k) = (m1, .ok b) →
    es = getElems sf.fmt b k →
    (if sameBits sf df then (m1.core, es, bitFlags (es.map (decodeElem sf.fmt)))
      else encodeScalars m1.core df (es.map (decodeElem sf.fmt))) = (c, out, fl) →
    poolWrite (m1.on (fun _ => addFlags c x num fl)) w (q + w64 (lo * elemBits df.fmt / 8)) (packElems df.fmt out) = (m2, .ok none) →
    StillRuns m2.core w →
    does (.convert x num) s (afterStep s.m (m2.on (fun c => counted c w k)) w
      ((w.field 0x20 4 + convertSize s.core w - 1) / convertSize s.core w)))

/-- Built-in works are refused, started and stepped alike; EXPERT_ROUTE routes a group of tokens; EXPERT_FFN combines gate × y, SPMM
puts its rows; CALIBRATE reports and RECAST starts its plan (R196 to R203, R254, R320, R323, R327, R329, R337).
Rests on the model's choices (assumptions 44, 49, 50). -/
def Obligations.MatrixAndCalibrationWorks : Prop :=
  (∀ (k : WorkKind) (s : State) (x num : Nat) (w : Work), k.BuiltIn → inService s.core = true → work? s.core x num = some w →
    w.opcode = k.op → w.phase = .running → w.prog = none →
    (∀ m st d, w.started = false → k.check s.m w = (m, .fail st d) → does (k.cmd x num) s (m.on (fun c => stopWork c x num st d))) ∧
    (∀ m p, w.started = false → k.check s.m w = (m, .park p) → does (k.cmd x num) s (m.on (fun c => parkWork c x num p))) ∧
    (∀ m w1 m0, (w.started = true ∧ m = s.m) ∨ (∃ m0, w.started = false ∧ k.check s.m w = (m0, .ok ()) ∧ m = m0.on (fun c => k.start c w)) →
      work? m.core x num = some w1 → m0 = asWork m w1 →
      (k.total m w1 ≤ w1.step → does (k.cmd x num) s (m.on (fun c => endWork c x num))) ∧
      (∀ m2 st d, w1.step < k.total m w1 → k.step m0 w1 = (m2, .fail st d) →
        (∃ w2, work? (stopWork m2.core x num st d) x num = some w2 ∧ active w2 = false) →
        does (k.cmd x num) s (offWork m (m2.on (fun c => stopWork c x num st d)))) ∧
      (∀ m2 p, w1.step < k.total m w1 → k.step m0 w1 = (m2, .park p) →
        does (k.cmd x num) s (offWork m (if wholePark p then m0.on (fun c => parkWork c x num p)
          else m2.on (fun c => parkWork (uncounted m0.core c x num) x num p)))) ∧
      (∀ m2 m3 w2 w3, w1.step < k.total m w1 → k.step m0 w1 = (m2, .ok ()) → work? m2.core x num = some w2 → active w2 = true →
        w3 = { w2 with step := w2.step + 1, fetched := [] } → m3 = offWork m (m2.on (fun c => stepDone c x num)) →
        does (k.cmd x num) s (if k.total m3 w3 ≤ w3.step then m3.on (fun c => endWork c x num) else m3)))) ∧
  (∀ (s : State) (x num : Nat) (w w2 : Work) (m m1 : M), inService s.core = true → work? s.core x num = some w →
    w.opcode = 0x10 → w.phase = .running → w.started = true → w.step < routeSteps w → routeMayStep s.core w = true →
    routeStep (asWork s.m w) w = (m, .ok ()) → work? m.core x num = some w2 → w2.phase = .running →
    m1 = offWork s.m (m.on (fun c => stepDone c x num)) →
    (w2.step + 1 < routeSteps w2 → does (.expertRoute x num) s m1) ∧
    (routeSteps w2 ≤ w2.step + 1 → does (.expertRoute x num) s
      (m1.on (fun c => routeCheckEnd (modWork c x num (fun w => { w with phase := .parked .engine })) x num)))) ∧
  (∀ (map : List MapEnt) (logits : List FVal) (e : Nat) (l : FVal), (e, l) ∈ rankExperts map logits ↔
    (∃ y, map[e]? = some y ∧ y.disabled = false) ∧ logits[e]? = some l ∧ l ≠ .nan) ∧
  (∀ (a b : MapEnt) (x y : FVal), a.disabled = false → b.disabled = false → x ≠ .nan → y ≠ .nan →
    rankExperts [a, b] [x, y] = if x.lt y then [(1, y), (0, x)] else [(0, x), (1, y)]) ∧
  (∀ (d k i : Nat) (ranked : List (Nat × FVal)) (e : Nat) (l : FVal), i < k → ranked[i]? = some (e, l) →
    (chooseGates d 2 k ranked)[i]? = some (e, toFp32 l) ∧
    (chooseGates d 0 k ranked)[i]? = some (e, softmaxGate (d + i) ((ranked.take k).map (·.2)) l) ∧
    (chooseGates d 1 k ranked)[i]? = some (e, softmaxGate (d + i) (ranked.map (·.2)) l)) ∧
  (∀ (m m1 : M) (image : W64) (e : BatchEnt) (cap : Nat) (b : Batch), entryCapacity m e.part image = (m1, .ok cap) →
    b = (m1.core.work.batches.find? (fun b => b.image == image && b.tick == m1.core.tick)).getD
      { image := image, tick := m1.core.tick, ents := [], fullLogged := false, hdr := none } →
    (b.ents.length < cap → batchRoom m1.core e image = true →
      offerEntry m image e = (m1.on (fun c => putBatch c image { b with ents := b.ents ++ [e] }), .ok none)) ∧
    (cap ≤ b.ents.length ∨ batchRoom m1.core e image = false → ∀ c, c = (if b.fullLogged then m1.core
        else raise m1.core .expertBatchFull 10 (ptrExtent image)) → c.tick = m1.core.tick →
      offerEntry m image e = (m1.on (fun _ => putBatch c image { b with fullLogged := true }), .ok (some .dropped)))) ∧
  (∀ (w : Work) (o : FmtWord) (d tok e f dr : Nat) (imgs : List W64) (c c1 c2 : Core) (b : List Byte) (y1 y2 : List FVal) (r : RouteTok),
    (work? c w.ctx w.num).bind (fun w => amGet? w.route tok) = some r → r.poisoned = false → r.combine = [(0, y1), (1, y2)] →
    imgs.length = 2 → imgs[0]? ≠ imgs[1]? → bitsOf e 7 0 = 0 → bitsOf f 7 0 = 1 →
    (modWork c w.ctx w.num (fun w => { w with route := amDel w.route tok })).drawN (2 * d * 3) = (c1, dr) →
    outRow c1 w o (sumRows dr d [y1.map (mulFp32 (decodeFp32 (bitsOf e 63 32))), y2.map (mulFp32 (decodeFp32 (bitsOf f 63 32)))]) = (c2, b) →
    ffnFinish w o d imgs c (tok, [e, f]) =
      counted (setItem (agentWrite c2 w.ctx w.num (w.ptr 0x30 + w64 (tok * rowStride o.fmt d)) b) w.ctx w.num tok 1) w 1) ∧
  (∀ (m : M) (w : Work) (cf : FmtWord) (rows j lo : Nat) (vals : List (FVal × Bool)) (last : Bool) (c : Core) (bits : List Nat)
      (fl : Flags), bitOf (w.field 0x34 2) 0 = true → encodeScalars m.core cf (vals.map (fun v => if v.2 then FVal.zero else v.1)) =
      (c, bits, fl) →
    spmmPut m w cf rows j lo vals false last = (m.on (fun _ => agentWrite (addFlags c w.ctx w.num fl) w.ctx w.num
      (w.ptr 0x28 + w64 (j * rowStride cf.fmt rows + elemsBytes cf.fmt lo))
      (packElems cf.fmt bits ++ List.replicate (if last then rowStride cf.fmt rows - elemsBytes cf.fmt rows else 0) 0)), .ok ())) ∧
  (∀ (s : State) (x num tn d : Nat) (w : Work) (t t' : Table) (m0 m1 m m2 m3 : M) (maxima : List Nat) (c : Core) (clear : Bool),
    Stepping 0x20 s x num w → w.step = 0 → tn = w.field 0 2 → table? s.core tn = some t → m0 = asWork s.m w →
    calAccess m0.core w t = none → clear = bitOf (w.field 2 2) 2 →
    (if clear then readyWrite m0 t.extent t.stats (2 * t.rows) else (m0, none)) = (m1, none) →
    readMaxima m1 tn t = (m, .ok maxima) → bitOf (w.field 2 2) 0 = false ∨ planConflict w t = false →
    t' = (if bitOf (w.field 2 2) 0 then commitPlan m.core w t else t) → m.core.draw = (c, d) →
    m2 = m.on (fun _ => agentWrite (setTable c tn (if clear then { t' with
      hist := [], zeros := 0, nonfinite := 0, written := 0, ovf := 0, unf := 0, drops := 0 } else t')) x num (w.ptr 0x18)
      (calReport c (takePlan t') maxima (Config.freeWord d).toNat)) →
    m3 = stepBoundary (if clear then tblWrite m2 tn t.extent t.stats (List.replicate (2 * t.rows) 0) else m2) tn →
    StillRuns m3.core w → does (.calibrate x num) s (afterStep s.m m3 w 1)) ∧
  (∀ (s : State) (x num tn : Nat) (w : Work) (t : Table), inService s.core = true → work? s.core x num = some w → w.opcode = 0x21 →
    w.phase = .running → w.started = false → w.ctx = x → w.num = num → tn = w.field 0 2 →
    (∀ st, recastCheck s.core w = some st → doesTo (.recast x num) s (stopWork s.core x num st)) ∧
    (table? s.core tn = none → recastCheck s.core w = some .accessDenied) ∧
    (table? s.core tn = some t → recastCheck s.core w = none → t.plan = .committed → t.stepRows = [] → t.pend = [] →
      t.again = [] → tableLeaving s.core t = false → w.status = none → t.nextRow < t.firstRow + t.rowCount →
      table? (recastStart s.core w) tn = some { t with
        plan := .running, recast := some (x, num), flippedBy := 0, skippedBy := 0, takenBy := 0, stepEnd := t.nextRow } ∧
      work? (recastStart s.core w) x num = some { w with started := true } ∧
      doesTo (.recast x num) s (modTable (recastStart s.core w) tn (stepEnds t.nextRow))))

/-! ### Tables and recast (chapter 5) -/

/-- Tables are defined and deleted; a recast step reads a group of rows, prepares those that change or halts at poison; a row flips, is
carried home and gives its slot back; the step's end ends the plan or goes on (R180, R183, R192, R204, R205, R207, R212, R214).
Rests on the model's choices (assumptions 84, 97). -/
def Obligations.TablesAndRecast : Prop :=
  (∀ (s : State) (src : Src) (d : TableDef) (m : M) (x : Extent), Asks { mop := 0x0120 } src s m →
    (∀ y ∈ tableChecks m.core (realSrc src) d, y.1 = true) → ext? m.core d.extent = some x →
    does (.tableDefine src d) s (accepted (m.on (fun c => setTable c d.table (freshTable d x.partition))) src 0x0120)) ∧
  (∀ (s : State) (src : Src) (tn : Nat) (m : M) (t : Table), Asks { mop := 0x0121 } src s m → table? m.core tn = some t →
    agentMay m.core (realSrc src) t.extent true = true → t.plan ≠ .running → t.window = [] →
    does (.tableDelete src tn) s (accepted (m.on (fun c => { c with work := { c.work with tables := amDel c.work.tables tn } }))
      src 0x0121)) ∧
  (∀ (s : State) (tn ns left x num : Nat) (t : Table) (w : Work) (rows : List Nat) (m1 m2 m3 : M) (reads : List (Nat × RecRead)),
    inService s.core = true → table? s.core tn = some t → t.recast = some (x, num) → recastMayStep s.core t ns left = true →
    work? s.core x num = some w → rows = stepGroup t (w.field 8 4) →
    readyWrites s.m t.extent (rows.flatMap (rowRanges t) ++ (t.freeSlots.take rows.length).map (fun k => (slotOff t k, rowSize t))) =
      (m1, none) →
    forEach (fun m l r => andThen (recastRead m w tn t r) (fun m y => (m, .ok (l ++ [(r, y)])))) m1 [] rows = (m2, .ok reads) →
    m3 = m2.on (fun c => useSlice c 0 ns) →
    (∀ r c m5, reads.find? (fun y => match y.2 with | .poison => true | _ => false) = some (r, .poison) → m5 = abandonStep m3 tn →
      c = raise (modTable m5.core tn (fun t => { t with plan := .halted, poisonRow := r, again := [] })) .calRecastPoison 9 tn r →
      (∀ v, table? c tn = some v → does (.recastStep tn ns left) s
        { m5 with core := stopWork c x num .poisoned (extPtr c v.extent (rowOff v r)) })) ∧
    (∀ m4, (∀ y ∈ reads, y.2 ≠ .poison) → m4 = m3.on (fun c => modTable c tn (fun t => { t with
        stepOpen := true, again := t.again.filter (fun r => !rows.contains r),
        stepEnd := if t.again = [] then t.nextRow + rows.length else t.stepEnd })) →
      does (.recastStep tn ns left) s (stepBoundary ((reads.foldl (fun m y => prepareRow m tn y) m4).on (fun c =>
        modWork c x num (fun w => { w with fetched := [] }))) tn))) ∧
  (∀ (m : M) (tn r entry : Nat) (img : RowImg) (rowMax : FVal) (t : Table) (sc : List Nat), table? m.core tn = some t →
    sc = newScales m.core t img rowMax entry →
    (sc = img.scales → prepareRow m tn (r, .row img rowMax entry) = m.on (fun c => modTable c tn (fun t =>
      { t with takenBy := t.takenBy + 1, skippedBy := t.skippedBy + 1 }))) ∧
    (∀ k rest c d m1 m2, sc ≠ img.scales → t.freeSlots = k :: rest → m.core.drawN (2 * t.rowLen) = (c, d) →
      m1 = writeRowWords { m with core := c } tn t (slotOff t k) (rowBytes t (recode t (tblCb c t) img sc d) img.pad) (fun _ => true)
        (fun _ => false) →
      m2 = writeScales m1 tn t (!img.epoch) r sc →
      prepareRow m tn (r, .row img rowMax entry) = m2.on (fun c => modTable c tn (fun v => { v with
        takenBy := v.takenBy + 1, window := amSet v.window r ⟨.prepared, k⟩, freeSlots := rest, stepRows := v.stepRows ++ [r] })))) ∧
  (∀ (c : Core) (t : Table) (img : RowImg) (rowMax : FVal) (entry b k : Nat), img.scales[b]? = some k →
    (nanScale (fmtOf t) k = true → (newScales c t img rowMax entry)[b]? = some k) ∧
    (∀ a f cb, nanScale (fmtOf t) k = false → f = fmtOf t → cb = tblCb c t →
      a = maxMag (((imgValues f cb img).drop (32 * b)).take 32) →
      (t.mode = 0 → (newScales c t img rowMax entry)[b]? =
        some (largerScale f (fitScale f cb a) (fitScale f cb (a.scale (t.headroom : Int))))) ∧
      (t.mode = 1 → (newScales c t img rowMax entry)[b]? =
        some (largerScale f (fitScale f cb a) (fitScale f cb (rowMax.scale (t.headroom : Int))))) ∧
      (t.mode = 2 → nanScale f entry = false → (newScales c t img rowMax entry)[b]? =
        some (largerScale f (fitScale f cb a) entry)))) ∧
  (∀ (s : State) (tn r k : Nat) (t : Table) (ep bad : Bool) (a b : RowImg) (m0 m1 m2 m3 m4 : M), inService s.core = true →
    table? s.core tn = some t → amGet? t.window r = some ⟨.prepared, k⟩ →
    readyWrites s.m t.extent [(t.epoch + r / 8, 1)] = (m0, none) → readEpoch m0 tn t r = (m1, .ok (ep, bad)) →
    readRowAt m1 tn t r none ep = (m2, .ok a) → readRowAt m1 tn t r (some k) (!ep) = (m3, .ok b) →
    m4 = writeEpoch m1 tn t r (!ep) →
    does (.rowFlip tn r) s (m4.on (fun c => modTable ((noteWrite c tn { unf := recastUnf (fmtOf t) (tblCb m1.core t) a b }).count
      CAL_ROWS_FLIPPED) tn (fun v => { v with window := amSet v.window r ⟨.flipped, k⟩, flippedBy := v.flippedBy + 1 })))) ∧
  (∀ (s : State) (tn r k : Nat) (t : Table), inService s.core = true → table? s.core tn = some t →
    amGet? t.window r = some ⟨.flipped, k⟩ → ∃ c tables, doesTo (.copyBackStart tn r) s c ∧
      c = { s.core with work := { s.core.work with tables := tables } } ∧
      table? c tn = some { t with window := amSet t.window r ⟨.copying, k⟩ } ∧ ∀ n, n ≠ tn → table? c n = table? s.core n) ∧
  (∀ (s : State) (tn r k : Nat) (t : Table) (m0 m1 : M) (b : List Byte) (p : List Bool), inService s.core = true →
    table? s.core tn = some t → amGet? t.window r = some ⟨.copying, k⟩ →
    readyWrites s.m t.extent [(rowOff t r, rowSize t)] = (m0, none) →
    tblRead m0 tn t.extent (slotOff t k) (rowSize t) = (m1, .ok (b, p)) → ∀ m2 m3 v,
    m2 = writeRowWords (movedOnly m0.core m1) tn t (rowOff t r) b (fun _ => true) (fun i => p.getD i false) →
    table? m2.core tn = some v → v.window = t.window → v.mq.filter (·.row == r) = [] →
    m3 = m2.on (fun c => modTable c tn (fun t => { t with
      window := amDel t.window r, stepRows := t.stepRows.filter (· != r), again := t.again, freeSlots := t.freeSlots,
      heldSlots := t.heldSlots ++ [k] })) →
    (p.any id = false ∨ t.recast = none → does (.copyBackDone tn r) s (stepBoundary m3 tn)) ∧
    (∀ y n, p.any id = true → t.recast = some (y, n) → does (.copyBackDone tn r) s (stepBoundary (recastHalt m3 tn r y n) tn))) ∧
  (∀ (s : State) (tn k : Nat) (t : Table), inService s.core = true → table? s.core tn = some t → t.heldSlots.contains k = true →
    ∃ c tables, doesTo (.shadowSlotFree tn k) s c ∧ c = { s.core with work := { s.core.work with tables := tables } } ∧
      table? c tn = some { t with heldSlots := t.heldSlots.filter (· != k), freeSlots := t.freeSlots ++ [k] } ∧
      ∀ n, n ≠ tn → table? c n = table? s.core n) ∧
  (∀ (m : M) (tn x num : Nat) (t : Table) (w : Work), table? m.core tn = some t → t.stepRows = [] → t.recast = some (x, num) →
    t.again = [] → tableLeaving m.core t = false →
    (t.pend ≠ [] → stepBoundary m tn = m.on (fun c => stopWork (modTable c tn (stepEnds t.stepEnd)) x num .versionConflict)) ∧
    (t.pend = [] → t.plan = .running → work? m.core x num = some w → w.status = none →
      (t.firstRow + t.rowCount ≤ t.stepEnd → stepBoundary m tn = m.on (fun c => endWork (modTable (modTable c tn
        (stepEnds t.stepEnd)) tn (fun v => { v with plan := .done })) x num)) ∧
      (t.stepEnd < t.firstRow + t.rowCount → w.field 8 4 = 0 ∨ t.takenBy < w.field 8 4 →
        stepBoundary m tn = m.on (fun c => modTable c tn (stepEnds t.stepEnd))))) ∧
  (∀ (t : Table) (p : PlanSet) (l : List PlanSet), t.pend = l ++ [p] → (takePlan t).plan = .committed ∧
    (takePlan t).planNo = (t.planNo + (l.length + 1)) % 2 ^ 32 ∧ (takePlan t).nextRow = p.firstRow ∧ (takePlan t).pend = [] ∧
    (takePlan t).mode = p.mode ∧ (takePlan t).headroom = p.headroom ∧ (takePlan t).planRound = p.round)

/-! ### Expert batches (chapter 8) -/

/-- The holding chip computes the next token group of a batch on an engine of its partition and answers its entries; an answer of
another chip reaches its token's slot, times out or is cancelled (R330 to R332, R334, R338).
Rests on the model's choices (assumptions 40, 44, 52). -/
def Obligations.ExpertBatches : Prop :=
  (∀ (s : State) (image : W64) (t : Nat) (b : Batch) (es : List BatchEnt), inService s.core = true →
    s.core.work.batches.find? (fun b => b.image == image && b.tick == t) = some b → es = tokenGroup b → es ≠ [] → t < s.core.tick →
    batchTurn s.core b = true → shareLeft s.core b = true →
    (enginesOf s.core (batchPart b) = [] → doesTo (.expertBatchStart image t) s
      (b.ents.foldl (fun c e => answerEntry c e (.failed .formatUnsupported)) (takeEntries s.core b b.ents))) ∧
    (∀ n st c, (enginesOf s.core (batchPart b)).filter (engineFree s.core) = [n] → c = groupStarts s.core image t b n →
      ptrCheck c (batchPart b) image 256 true false = some st → doesTo (.expertBatchStart image t) s
        (es.foldl (fun c e => answerEntry c e (.failed st)) (takeEntries c b es))) ∧
    (∀ n hb ih (c0 c : Core) m1 ys fb right fenced, (enginesOf s.core (batchPart b)).filter (engineFree s.core) = [n] →
      c0 = groupStarts s.core image t b n → ptrCheck c0 (batchPart b) image 256 true false = none → b.hdr = some hb →
      c = setBatch c0 image t (fun y => { y with hdr := some hb }) → parseImage c image hb = some ih →
      right = es.filter (fun e => e.elems.length == ih.d) →
      feedForward { s.m with core := setEng c n { freshEngine with errTicks := (eng c n).errTicks } } n (ptrExtent image % 4)
        (batchPart b) ih ((es.head?.map (·.quant)).getD 0) (right.map (blocksOf ((es.head?.map (·.quant)).getD 0))) =
        (m1, .ok (ys, fb)) → fenced = bitOf (m1.core.fld GLB_FENCED GLB_FENCED_ENGINES) n →
      does (.expertBatchStart image t) s (m1.on (fun c => (right.zip ys).foldl (fun c y => answerEntry c y.1
        (if fenced then .failed .internalFault else if y.2.poison then .failed .poisoned
         else .values (y.2.vals.map (mulFp32 (decodeFp32 y.1.gate))) y.2.flags))
        ((es.filter (fun e => e.elems.length ≠ ih.d)).foldl (fun c e => answerEntry c e (.failed .badDescriptor))
          (takeEntries c b es)))))) ∧
  (∀ (c : Core) (e : BatchEnt) (y : List FVal) (fl : Flags) (r : Route) (dir : Nat), e.fromChip ≠ c.chipId →
    routeTo c e.fromChip = some r → r.prefer = some dir →
    ∀ o : OutMsg, o = { dst := .dir dir, type := 0x75, cls := 1, ctx := 0xFFFF, work := none, tag := e.own,
                        body := [e.fromChip, e.tag, e.part, 0, fl.sat, fl.nonfin],
                        data := y.flatMap (fun v => natLe 4 (fp32Bits v)) } → answerEntry c e (.values y fl) = c.send o) ∧
  (∀ (s : State) (p : Pkt) (tag code sat nonfin ss len : Nat) (data d : List Byte) (c c1 : Core) (f : Fwd),
    inService s.core = true → ringPort p.port = true → landPkt s.core { p with cls := 1 } = (c, some ss) →
    assemble c ss p.xid p.msgOff len (((c.ring.fwds.find? (fun f => f.tag == tag && f.kind == 3)).map (·.part)).getD 16) data =
      (c1, some d) → c1.ring.fwds.find? (fun f => f.tag == tag && f.kind == 3) = some f →
    ∀ c2, c2 = dropFwd c1 tag →
    (code = 0 → doesTo (.expertContribution p tag code sat nonfin len data) s
      (contribute c2 f.who.1 f.who.2.1 (f.who.2.2 / 8) (f.who.2.2 % 8) (.values
        ((List.range (d.length / 4)).map (fun i => decodeFp32 (leNat ((d.drop (4 * i)).take 4))))
        { sat := sat, nonfin := nonfin }))) ∧
    (code = 1 → doesTo (.expertContribution p tag code sat nonfin len data) s
      (contribute c2 f.who.1 f.who.2.1 (f.who.2.2 / 8) (f.who.2.2 % 8) .dropped)) ∧
    (2 ≤ code → doesTo (.expertContribution p tag code sat nonfin len data) s
      (contribute c2 f.who.1 f.who.2.1 (f.who.2.2 / 8) (f.who.2.2 % 8) (.failed (statusOfCode (code - 2)))))) ∧
  (∀ (s : State) (tag : Nat) (f : Fwd), inService s.core = true →
    s.core.ring.fwds.find? (fun f => f.tag == tag && f.kind == 3) = some f → f.sentTick + 3 < s.core.tick →
    doesTo (.expertEntryTimeout tag) s (contribute (dropFwd s.core tag) f.who.1 f.who.2.1 (f.who.2.2 / 8) (f.who.2.2 % 8) (.failed .linkLost))) ∧
  (∀ (s : State) (chip x num : Nat) (gone : List BatchEnt) (c : Core), inService s.core = true →
    gone = s.core.work.batches.flatMap (fun b => b.ents.filter (fun e => e.fromChip == chip && e.ctx == x && e.work == num)) →
    c = gone.foldl (fun c e => match e.own with | some t => dropTag c t | none => c) s.core →
    doesTo (.expertCancel chip x num) s (setBatches c (c.work.batches.map (fun b =>
      { b with ents := b.ents.filter (fun e => !(e.fromChip == chip && e.ctx == x && e.work == num)) })))) ∧
  (∀ (c : Core) (x num tok slot : Nat) (w : Work) (r : RouteTok) (a a2 : Assign) (y : List FVal) (fl : Flags),
    work? c x num = some w → w.ctx = x → w.num = num → liveWork w = true → w.opcode = 0x10 → amGet? w.route tok = some r →
    r.done = false → r.assigns[slot]? = some a → a.out = true → (∃ i, i ≠ slot ∧ r.assigns[i]? = some a2) → a2.out = true →
    contribute c x num tok slot (.values y fl) = routeCheckEnd (addFlags (modTok c w tok (fun r => { r with
      assigns := listMod r.assigns slot (fun a => { a with st := .computed, out := false }),
      combine := r.combine ++ [(slot, y)] })) x num fl) x num ∧
    (∀ st, st ≠ .keyRevoked → contribute c x num tok slot (.failed st) = routeCheckEnd (noteFail (modTok c w tok (fun r => { r with
      assigns := listMod r.assigns slot (fun a => { a with st := .failed, out := false }),
      combine := r.combine ++ [] })) x num st 0) x num))

/-! ### Memory controllers and the code's upkeep (chapters 15 to 17) -/

/-- A write enters its queue and is made, a read enters and meets the row tracker; a burst issues open rows first and the oldest of
them; an aged write drains, and a refresh occupies its bank (R541 to R550, Table 15-3).
Rests on the model's choices (assumptions 64, 65). -/
def Obligations.MemoryQueues : Prop :=
  (∀ (s : State) (n pc bank row col time k : Nat) (d0 d1 : List Byte) (hk : Bool) (q : PcQueue), burstOk n pc bank row col = true →
    stackTakes s.core n = true → inService s.core = true → k = pcKey n pc → q = pcQ s.core k → q.port = [] →
    q.writes.length < 64 → hk = true ∨ (q.writes.filter (fun w => !w.hk)).length < 56 →
    s.core.flag ECC_FLIP_CTRL ECC_FLIP_CTRL_ARMED = false →
    ∃ m : M, does (.writeQueueEntry n pc bank row col (some d0) (some d1) hk time) s m ∧
      m.mem = (s.mem.setWord (physWord n pc bank row col 0) d0 0).setWord (physWord n pc bank row col 0 + 1) d1 0 ∧
      (∀ e, e = WrEnt.mk q.nextOrder bank row col hk (max s.core.glb.now time)
          (q.tracker.any (fun t => t.bank == bank && t.row == row) || decide (q.tracker.length < 16)) →
        (pcQ m.core k).writes = q.writes ++ [e]) ∧ (pcQ m.core k).reads = q.reads ∧ (pcQ m.core k).nextOrder = q.nextOrder + 1 ∧
      ((∀ t ∈ q.tracker, t.bank ≠ bank ∨ t.row ≠ row) → q.tracker.length < 16 →
        (pcQ m.core k).tracker = q.tracker ++ [⟨bank, row, 1⟩]) ∧
      (pcMode s.core k = 0 → s.core.fld (stA MEM_CTRL k) MEM_CTRL_WR_HIGH ≤ q.writes.length + 1 → pcMode m.core k = 1)) ∧
  (∀ (s : State) (n pc bank row col k : Nat) (hk scrub : Bool) (q : PcQueue), burstOk n pc bank row col = true →
    stackTakes s.core n = true → inService s.core = true → k = pcKey n pc → q = pcQ s.core k → q.port = [] →
    q.reads.length < 64 → hk = true ∨ (q.reads.filter (fun r => !r.hk)).length < 56 →
    ∃ c : Core, doesTo (.readQueueEntry n pc bank row col hk scrub) s c ∧
      (pcQ c k).reads = q.reads ++ [⟨q.nextOrder, bank, row, col, hk || scrub, scrub⟩] ∧ (pcQ c k).writes = q.writes ∧
      ((∃ t ∈ q.tracker, t.bank = bank ∧ t.row = row) → amGet? (pcQ c k).inOrder bank = some q.nextOrder) ∧
      ((∀ t ∈ q.tracker, t.bank ≠ bank ∨ t.row ≠ row) → (pcQ c k).inOrder = q.inOrder)) ∧
  (∀ (s : State) (n pc time k : Nat) (m1 : M) (x : Cand), powered s.core = true → n < 16 → pc < 32 → k = pcKey n pc →
    stackOn s.core n = true → pcMode s.core k ≠ 2 → m1 = s.m.on (fun c => issueNeighbours (c.at time) k) →
    (nextBurst m1.core k = none → does (.burstIssue n pc time) s m1) ∧
    (nextBurst m1.core k = some x → ∃ m2 m3 : M, m2.mem = s.mem ∧
      (pcQ m2.core k).reads = (pcQ m1.core k).reads.filter (·.order != x.order) ∧
      (pcQ m2.core k).writes = (pcQ m1.core k).writes.filter (·.order != x.order) ∧ ((pcQ m1.core k).neighbour.length ≤ 6 → isOpen (pcQ m2.core k) x.bank x.row = true) ∧
      (x.write = true → m3 = m2) ∧
      (x.write = false → ∃ sc, m3 = (readHeld (readHeld m2 (physWord n pc x.bank x.row x.col 0) sc).1
        (physWord n pc x.bank x.row x.col 0 + 1) sc).1) ∧
      does (.burstIssue n pc time) s (fillQueues 128 k m3))) ∧
  (∀ (q : PcQueue) (l : List Cand) (x : Cand), pickCand q l = some x → x ∈ l ∧
    ((∃ y ∈ l, isOpen q y.bank y.row = true) → isOpen q x.bank x.row = true) ∧
    ∀ y ∈ l, isOpen q y.bank y.row = isOpen q x.bank x.row → x.order ≤ y.order) ∧
  (∀ (s : State) (n pc time k : Nat) (c : Core), powered s.core = true → n < 16 → pc < 32 → k = pcKey n pc → c = s.core.at time →
    aged c k = true → pcMode s.core k = 0 →
    doesTo (.writeAgeExpiry n pc time) s ((c.setFld (pcA MEM_PC_STATUS k) MEM_PC_STATUS_MODE 1).perf (stA MEM_DRAINS k))) ∧
  (∀ (s : State) (n pc bank k : Nat) (q : PcQueue), powered s.core = true → n < 16 → pc < 32 → bank < 64 → stackState s.core n = 2 →
    k = pcKey n pc → s.core.mem.training.contains k = false → q = pcQ s.core k →
    doesTo (.refresh n pc bank) s (setPcQ s.core k { q with refreshEnd := amSet q.refreshEnd bank (s.core.glb.now + 130),
                                                            openRow := amDel q.openRow bank, refreshes := q.refreshes + 1 }))

/-- Retraining quiesces a pseudo-channel and ends in success or towards a failed stack; write-backs, scrub, rebuild and the spare's watch
take their steps (R554, R555, R565, R567, R575, R576, R595, R600). Rests on the model's choices (assumptions 66, 67). -/
def Obligations.MemoryUpkeep : Prop :=
  (∀ (s : State) (k : Nat) (extra : Bool), inService s.core = true → s.core.mem.training = [] → nextRetrain s.core = some (k, extra) →
    ∃ c : Core, doesTo .retrainPc s c ∧ c.mem.training = [k] ∧ pcMode c k = 2 ∧ (pcQ c k).openRow = [] ∧
      (pcQ c k).reads = (pcQ s.core k).reads ∧ (pcQ c k).writes = (pcQ s.core k).writes ∧
      c.mem.turnHead = s.core.mem.turnHead.filter (· != k) ∧
      (extra = false → drifted s.core k = false → c.mem.turn = (k + 1) % 512)) ∧
  (∀ (s : State) (n pc margin k : Nat), powered s.core = true → n < 16 → pc < 32 → k = pcKey n pc →
    s.core.mem.training.contains k = true →
    (margin < 256 → ∃ c, doesTo (.retrainEnd n pc true margin) s c ∧ c.mem.training = s.core.mem.training.filter (· != k) ∧
      c.fld (pcA MEM_PC_TRAIN k) MEM_PC_TRAIN_FAILS = 0 ∧ c.fld (pcA MEM_PC_TRAIN k) MEM_PC_TRAIN_MARGIN_PS = margin ∧
      (c.rget (pcA MEM_PC_LAST_TRAIN k)).toNat = s.core.tick ∧
      amGet? c.mem.trainTemp k = some (s.core.fld (stA MEM_STATUS k) MEM_STATUS_TEMP_C)) ∧
    (s.core.fld (pcA MEM_PC_TRAIN k) MEM_PC_TRAIN_FAILS = 2 → ∃ c, doesTo (.retrainEnd n pc false margin) s c ∧ stackState c n = 5) ∧
    (s.core.fld (pcA MEM_PC_TRAIN k) MEM_PC_TRAIN_FAILS < 2 → ∃ c, doesTo (.retrainEnd n pc false margin) s c ∧
      c.fld (pcA MEM_PC_TRAIN k) MEM_PC_TRAIN_FAILS = s.core.fld (pcA MEM_PC_TRAIN k) MEM_PC_TRAIN_FAILS + 1)) ∧
  (∀ (s : State) (w k : Nat) (r : WbRec), powered s.core = true → amGet? s.core.mem.wb w = some r →
    stackBad s.core (physStack w) = false → k = pcKey (physStack w) (physPc w) →
    ((pcQ s.core k).writes.length < 64 → does (.writeBack w) s (writeWord (enterWrite (s.m.on (fun c => dropWb c w)) k
      (physAddr w / 2 ^ 21 % 64) (physAddr w / 32 % 65536) (physAddr w / 2 % 16) none none true) w r.data (r.kind == .poison) r.scrub)) ∧
    (64 ≤ (pcQ s.core k).writes.length → r.kind = .corrected → doesTo (.writeBack w) s (dropWb s.core w)) ∧
    (64 ≤ (pcQ s.core k).writes.length → r.kind ≠ .corrected → doesTo (.writeBack w) s s.core)) ∧
  (∀ s : State, powered s.core = true → doesTo .lanePeriodEnd s { s.core with mem := { s.core.mem with lane := [] } }) ∧
  (∀ (s : State) (n pc ns time k : Nat) (c : Core) (v : ScrubSt) (m1 : M), powered s.core = true → n < 16 → pc < 32 →
    k = pcKey n pc → c = s.core.at time → v = scrubSt c k → c.flag ECC_CTRL ECC_CTRL_SCRUB_EN = true → stackOn c n = true →
    c.fld ECC_STATUS ECC_STATUS_FILL = 2 → c.mem.training.contains k = false → stepFits c 1 ns = true →
    v.done * passNs c ≤ (c.glb.now - v.passStart) * passRows → v.done + 1 < passRows →
    m1 = scrubRow { core := c, mem := s.mem } n pc (v.done % 64) (v.done / 64) →
    ∀ c1, c1 = useSlice (m1.on (fun c => setScrub c k ⟨v.done + 1, v.passStart⟩)).core 1 ns →
      does (.scrubStep n pc ns time) s (m1.on (fun _ => c1.setFld (ECC_SCRUB_ROWS n) ECC_SCRUB_ROWS_F
        (sumNat ((List.range 32).map (fun p => (scrubSt c1 (pcKey n p)).done)))))) ∧
  (∀ (s : State) (ns k : Nat), inService s.core = true → s.core.fld PAIR_REBUILD PAIR_REBUILD_STATE = 1 →
    stackOn s.core (outStack s.core) = true → s.core.pair.rebuildStep = false → stepFits s.core 3 ns = true →
    k = (s.core.rget PAIR_REBUILD_PROG).toNat →
    (walkAt s.core 16 k = none → doesTo (.rebuildStep ns) s (spareStatus (raise (s.core.setFld PAIR_REBUILD PAIR_REBUILD_STATE 2)
      .pairRebuildDone 2 (s.core.fld PAIR_REBUILD PAIR_REBUILD_FAILED_STACK)))) ∧
    (∀ q g m1 wait (c : Core), walkAt s.core 16 k = some (q, g) →
      c = useSlice { s.core with pair := { s.core.pair with rebuildStep := true } } 3 ns →
      (List.range 64).foldl (fun (y : M × Bool) i => ((rebuildWord y.1 q (g + 32 * i)).1, y.2 || (rebuildWord y.1 q (g + 32 * i)).2))
        ({ core := c, mem := s.mem }, false) = (m1, wait) →
      (wait = true → does (.rebuildStep ns) s m1) ∧
      (wait = false → does (.rebuildStep ns) s (m1.on (fun c => wakeOn (· == .fetch stepKey)
        (({ c with pair := { c.pair with rebuildStep := false, rebuildGot := [] } }).rset PAIR_REBUILD_PROG (w64 (k + 64)))))))) ∧
  (∀ (m : M) (q g w t : Nat), w = placeWord m.core q (m.core.fld PAIR_REBUILD PAIR_REBUILD_FAILED_STACK) g →
    t = placeWord m.core q (outStack m.core) g → ∀ n, n = m.core.fld PAIR_REBUILD PAIR_REBUILD_FAILED_STACK →
    (∀ pos m1 d, holderOf m.core q n g = .parity pos →
      xorPositions m q g false ((List.range 15).filter (· != pos)) = (m1, some d) → rebuildWord m q g = (writeWord m1 t d false, false)) ∧
    (∀ pos m1, holderOf m.core q n g = .parity pos →
      xorPositions m q g false ((List.range 15).filter (· != pos)) = (m1, none) → rebuildWord m q g =
        ((poisonWord m1 t zeroWord).on (fun c => c.satFld PAIR_REBUILD PAIR_REBUILD_POISONED), false)) ∧
    (∀ e f o m1 d, holderOf m.core q n g = .data e f o .m → readPhys m (servedWord m.core q (n ^^^ 8) g) false = (m1, .good d) →
      rebuildWord m q g = (writeWord m1 t d false, false)) ∧
    (∀ e f o, holderOf m.core q n g = .data e f o .n → rebuildWord m q g =
        ((poisonWord m t zeroWord).on (fun c => c.satFld PAIR_REBUILD PAIR_REBUILD_POISONED), false)) ∧
    (∀ e f o, holderOf m.core q n g = .data e f o .x → m.core.pair.rebuildGot.contains w = false →
      (partnerSource m.core = true → partRemoving m.core q = false → rebuildWord m q g = (m.on (fun c => startFetch c w), true)) ∧
      (partnerSource m.core = false ∨ partRemoving m.core q = true → rebuildWord m q g =
        ((poisonWord m t zeroWord).on (fun c => c.satFld PAIR_REBUILD PAIR_REBUILD_POISONED), false)))) ∧
  (∀ (s : State) (n : Nat) (mem : Mem), inService s.core = true → n = outStack s.core →
    s.core.flag PAIR_CTRL PAIR_CTRL_SPARE_WATCH_EN = true → s.core.flag PAIR_LAYOUT PAIR_LAYOUT_SPARE = true →
    s.core.fld PAIR_REBUILD PAIR_REBUILD_SPARE = 0 → stackState s.core n = 3 →
    mem = s.mem.clear (watchWord n s.core.pair.watchRow 0) (watchWord n s.core.pair.watchRow 0 + 32) →
    oddWords { core := s.core, mem := mem } n = [] →
    (∃ c, does (.spareWatchWake true) s { core := c, mem := mem } ∧ stackState c n = 3 ∧
      c.fld PAIR_SPARE_WATCH PAIR_SPARE_WATCH_LAST_CORRECTED = 0 ∧ c.fld PAIR_REBUILD PAIR_REBUILD_SPARE = 0 ∧
      c.pair.watchRow = (s.core.pair.watchRow + (100663296 * s.core.fld PAIR_SPARE_WATCH PAIR_SPARE_WATCH_PERIOD_MS +
        s.core.fld ECC_SCRUB ECC_SCRUB_PASS_HOURS * 3600000 - 1) / (s.core.fld ECC_SCRUB ECC_SCRUB_PASS_HOURS * 3600000)) % 100663296) ∧
    (∃ c, does (.spareWatchWake false) s { core := c, mem := mem } ∧ stackState c n = 5))

/-! ### The pair (chapter 17) -/

/-- A standby makes mirrored writes in the order of their frame's sequence, stores copies, serves fetches, checks health words and
compares digests; a write without an answer leaves the holder alone, and the holder copies what the standby lacks (R603 to R607,
R612, R618, R619, Table 17-6). Rests on the model's choices (assumptions 20, 71, 72). -/
def Obligations.Replication : Prop :=
  (∀ cmd k, ReplicaCmd cmd k → ∀ (s : State) (p : Pkt) (x : RepMsg) (c : Core) (n : Nat) (stuck : Bool), inService s.core = true →
    ringPort p.port = true → stuck = transitFull s.core x.dst x.dir x.tag →
    landPkt s.core { p with cls := 0 } false stuck = (c, some n) →
    (x.hops = 0 ∨ (x.dst ≠ c.chipId ∧ memberIdx c x.dst = none) →
      doesTo (cmd p x) s (raise ((if stuck then releaseCr c n 0 (pktCost (datagram p.len p.enc)) p.retx true else c).count
        RING_UNREACHABLE) .ringUnreachable 0 0 x.dst)) ∧
    (x.hops ≠ 0 → x.dst ≠ c.chipId → (memberIdx c x.dst).isSome = true → doesTo (cmd p x) s (transit c n p stuck x.dir 0x7A 0 x.len
      [x.origin, x.dst, x.hops - 1, x.dir, x.tag, k, x.part, x.extent, x.fseq, x.offset, x.len, pmapNat x.pmap] x.data))) ∧
  (∀ (s : State) (p : Pkt) (x : RepMsg) (m : M) (data : List Byte), Replicated s p x m data →
    xFrame m.core x.extent x.offset = none ∨ standby m.core = false →
    ∀ cmd : Pkt → RepMsg → Instr, cmd = .replicaWrite ∨ cmd = .replicaResync →
    does (cmd p x) s (m.on (fun c => replyRep c x.origin x.tag x.part .accessDenied))) ∧
  (∀ (s : State) (p : Pkt) (x : RepMsg) (m : M) (data : List Byte) (f next : Nat), Replicated s p x m data →
    xFrame m.core x.extent x.offset = some f → standby m.core = true → next = (frameSeq m.core x.extent f + 1) % 2 ^ 32 →
    x.tag < 65536 →
    (serialNewer x.fseq (frameSeq m.core x.extent f) = false →
      does (.replicaWrite p x) s (m.on (fun c => replyRep c x.origin x.tag x.part .done))) ∧
    ((∀ r ∈ m.core.pair.early, ¬ (r.extent = x.extent ∧ r.frame = f ∧ (r.copy = true ∨ r.fseq = next))) →
      ∀ cmd copy, ((cmd, copy) : (Pkt → RepMsg → Instr) × Bool) ∈ [(Instr.replicaWrite, false), (.replicaResync, true)] →
      ∀ (r : Replica) (held : M), r = heldEarly copy x f data m.core.tick → held = m.on (fun c => holdsIt c r) →
      copy = true ∨ serialNewer x.fseq (frameSeq m.core x.extent f) = true →
      (copy = false → x.fseq ≠ next → does (cmd p x) s (runDigests held x.extent f)) ∧
      (copy = true ∨ x.fseq = next →
        (∀ m1, storeReplica held x.extent x.offset data x.pmap = (m1, none) → does (cmd p x) s m1) ∧
        (∀ m1 st, storeReplica held x.extent x.offset data x.pmap = (m1, some st) →
          does (cmd p x) s (applyEarly (m.core.pair.early.length + 1) x.extent f (runDigests
            (m1.on (fun c => replyRep (appliedAt c r) (partnerChip (appliedAt c r)) x.tag (partOf c x.extent) st)) x.extent f)))))) ∧
  (∀ (s : State) (p : Pkt) (x : RepMsg) (m : M) (data : List Byte) (f : Nat), Replicated s p x m data →
    xFrame m.core x.extent x.offset = some f →
    (standby m.core = true → does (.replicaDigest p x) s (runDigests (m.on (fun c => onPair c (fun v =>
      { v with digests := v.digests ++ [(x.extent, x.offset, x.fseq, leNat data)] }))) x.extent f)) ∧
    (standby m.core = false → does (.replicaDigest p x) s m) ∧
    (∀ m1 b ps, peekBytes m x.extent x.offset x.len = (m1, b, ps) → does (.replicaFetch p x) s (m1.on (fun c =>
      fwdReply c x.origin x.tag x.part [statusCode (if ps.any id then .poisoned else .done), b.length, 0, 0, 0] (blankPoison b ps)
        none)))) ∧
  (∀ (s : State) (p : Pkt) (x : RepMsg) (m : M) (data : List Byte) (w : Nat), Replicated s p x m data → w = x.offset % 2 ^ 64 →
    (leNat data ≠ (crc32c (natLe 8 w)).toNat ∨ m.core.pair.aliveRx = some (bitsOf w 15 8) → does (.replicaHealth p x) s m) ∧
    (leNat data = (crc32c (natLe 8 w)).toNat → m.core.pair.aliveRx ≠ some (bitsOf w 15 8) →
      does (.replicaHealth p x) s (m.on (fun c => takeHealth c w)))) ∧
  (∀ (c : Core) (w : Nat), (takeHealth c w).rget PAIR_HEALTH_RX = w64 w ∧ partnerState (takeHealth c w) = bitsOf w 31 28 ∧
    (takeHealth c w).pair.missed = 0 ∧ (takeHealth c w).pair.aliveRx = some (bitsOf w 15 8) ∧
    (pairState c = 1 → bitOf w 27 = true → pairState (takeHealth c w) = 2)) ∧
  (∀ (m : M) (e f v n : Nat) (x : Extent) (m1 : M) (b : List Byte) (ps : List Bool), ext? m.core e = some x → n = frameBytes x →
    peekBytes m e (f * n) n = (m1, b, ps) →
    ((crc64 b).toNat = v → compareDigest m e f v = m1) ∧
    ((crc64 b).toNat ≠ v → (compareDigest m e f v).mem = m1.mem ∧
      ∀ k ∈ unitsOf e (f * n) n, k ∈ (compareDigest m e f v).core.pair.dirty)) ∧
  (∀ (s : State) (e f q : Nat) (r : Replica) (l : Nat), inService s.core = true → l = s.core.fld RING_FWD RING_FWD_TIMEOUT_TICKS →
    s.core.pair.outstanding.find? (fun y => y.extent == e && y.frame == f && y.fseq == q && y.tick + l < s.core.tick) = some r →
    (r.sent = none → doesTo (.replicaWriteTimeout e f q) s (drainCheck (replicaFail s.core r))) ∧
    (∀ t c, r.sent = some t → c = { s.core with ring := { s.core.ring with
        fwds := s.core.ring.fwds.filter (fun g => !(g.kind == 5 && g.tag == t)) } } →
      doesTo (.replicaWriteTimeout e f q) s (drainCheck (replicaFail (dropTag c t) r)))) ∧
  (∀ (c : Core) (r : Replica), r ∉ (replicaFail c r).pair.outstanding ∧ (replicaFail c r).pair.synced = false ∧
    (r.copy = false → dirtyKey r.extent r.offset ∈ (replicaFail c r).pair.dirty ∧
      (pairState c = 5 → pairState (replicaFail c r) = 6)) ∧
    (∀ x, r.copy = true → ext? c r.extent = some x →
      ∀ k ∈ unitsOf r.extent r.offset (frameBytes x), k ∈ (replicaFail c r).pair.dirty)) ∧
  (∀ (s : State) (ns k e f q t n : Nat) (rest units : List Nat) (x : Extent) (m1 : M) (b : List Byte) (ps : List Bool) (c : Core),
    inService s.core = true → s.core.pair.dirty = k :: rest → pairHolder s.core = true →
    partnerState s.core = 2 ∨ partnerState s.core = 3 → s.core.pair.missed < 3 → stepFits s.core 3 ns = true →
    e = k / 2 ^ 16 → ext? s.core e = some x → xFrame s.core e (k % 2 ^ 16 * 2 ^ 21) = some f → n = frameBytes x →
    peekBytes s.m e (f * n) n = (m1, b, ps) → q = frameSeq m1.core e f → units = unitsOf e (f * n) n →
    sendReplica m1.core 1 x.partition e q (f * n) n (blankPoison b ps) (pmapNat ps) 5 (e * 2 ^ 16 + f, q, f * n) = (c, some t) →
    ∀ v, v = onPair c (fun v => { v with
        outstanding := v.outstanding ++ [⟨e, f, q, f * n, [], [], c.tick, 2 ^ 64, some t, true⟩],
        dirty := v.dirty.filter (fun k => !units.contains k), copied := distinctOf (v.copied ++ units) }) →
      does (.pairResyncCopy ns) s (sendDigest { core := useSlice (v.count PAIR_RESYNC_FRAMES) 3 ns, mem := m1.mem } e f)) ∧
  (∀ (s : State) (ns k e : Nat) (rest : List Nat), inService s.core = true → s.core.pair.dirty = k :: rest →
    pairHolder s.core = true → partnerState s.core = 2 ∨ partnerState s.core = 3 → s.core.pair.missed < 3 →
    stepFits s.core 3 ns = true → e = k / 2 ^ 16 → xFrame s.core e (k % 2 ^ 16 * 2 ^ 21) = none →
    doesTo (.pairResyncCopy ns) s (onPair s.core (fun v => { v with dirty := rest })))

/-- The states of Table 17-9 and the dual key: taking, holding, releasing, recovery, and what waits for the pair (R609 to R617,
R620). Rests on the model's choices (assumptions 19, 73). -/
def Obligations.PairStates : Prop :=
  (∀ s : State, inService s.core = true → paired s.core = true → 3 ≤ s.core.pair.missed → s.core.pair.lostActed = false →
    ∃ c, doesTo .partnerLost s c ∧ c.pair.lostActed = true ∧
      (pairState s.core = 5 → pairState c = 6 ∧ c.pair.synced = false) ∧
      (pairState s.core ≠ 5 → pairState c = pairState s.core ∧ c.pair.synced = s.core.pair.synced)) ∧
  (∀ (s : State) (x n lim : Nat) (w : Work), inService s.core = true → lim = s.core.fld PAIR_CTRL PAIR_CTRL_WAIT_TICKS →
    work? s.core x n = some w → w.phase = .parked .pair →
    (lim ≤ w.waited → doesTo (.pairParkTimeout (.work x n)) s (stopWork s.core x n .linkLost)) ∧
    (w.waited < lim → doesTo (.pairParkTimeout (.work x n)) s s.core)) ∧
  (∀ (s : State) (t lim : Nat) (th : Thread), inService s.core = true → lim = s.core.fld PAIR_CTRL PAIR_CTRL_WAIT_TICKS →
    amGet? s.core.rasp.threads t = some th → th.wait = .parked .pair → lim ≤ th.waited →
    does (.pairParkTimeout (.thread t)) s (lateTrap s.m t (accessTrap .linkLost 0))) ∧
  (∀ (s : State) (t lim : Nat) (r : Request), inService s.core = true → lim = s.core.fld PAIR_CTRL PAIR_CTRL_WAIT_TICKS →
    req? s.core t = some r → r.cause = some .pair → r.reply = none → lim ≤ r.waited →
    doesTo (.pairParkTimeout (.request t)) s (answer s.core r { status := .linkLost })) ∧
  (∀ (s : State) (b : Bool), powered s.core = true → keyIn s.core = !b →
    ∃ c, doesTo (.pairKeyInChange b) s c ∧ keyIn c = b ∧
      (b = true → pairState s.core = 4 → s.core.pair.step = .guard ∨ s.core.pair.step = .settle →
        pairState c = s.core.pair.before % 16 ∧ keyOut c = false ∧ c.pair.step = .idle) ∧
      (b = true → pairState s.core = 4 → s.core.pair.step = .settle → primary s.core = true →
        c.pair.retryAt = some (s.core.glb.now + 1000000)) ∧
      (b = true → keyHeld s.core = true → pairState s.core = 5 ∨ pairState s.core = 6 → pairState c = 8 ∧ keyHeld c = true) ∧
      (b = false → pairState s.core = 8 → pairState c = 6)) ∧
  (∀ (s : State) (time : Nat) (c : Core), inService s.core = true → c = s.core.at time → pairState c = 4 → keyIn c = false →
    (c.pair.step = .guard → c.pair.stepSince + c.fld PAIR_KEY_TIMING PAIR_KEY_TIMING_GUARD_US * 1000 ≤ c.glb.now →
      ∃ d, doesTo (.keyGuardEnd time) s d ∧ keyOut d = true ∧ keyHeld d = keyHeld c ∧ d.pair.step = .settle ∧
        d.pair.stepSince = c.glb.now) ∧
    (c.pair.step = .settle → c.pair.stepSince + c.fld PAIR_KEY_TIMING PAIR_KEY_TIMING_SETTLE_US * 1000 ≤ c.glb.now →
      ∃ d, doesTo (.keySettleEnd time) s d ∧ keyHeld d = true ∧ keyOut d = keyOut c ∧ d.pair.step = .idle ∧
        d.pair.dataValid = true ∧ d.pair.promoting = none ∧ pairState d = (if partnerBit c 26 then 5 else 6) ∧
        (c.pair.before = 2 → c.pair.dataValid = true → ∀ k ∈ c.pair.dirty, k ∈ d.pair.lost) ∧
        (c.pair.before = 2 → c.pair.dataValid = false → ∀ k ∈ xUnits c, k ∉ c.pair.copied → k ∈ d.pair.lost) ∧
        (c.pair.before ≠ 2 → d.pair.lost = c.pair.lost))) ∧
  (∀ (s : State) (time t : Nat) (c : Core), inService s.core = true → c = s.core.at time → c.pair.retryAt = some t →
    (c.glb.now < t → doesTo (.keyRetryTimer time) s c) ∧
    (t ≤ c.glb.now → ∀ d, d = onPair c (fun v => { v with retryAt := none }) →
      (c.pair.step = .idle ∧ selfReturn d = true → doesTo (.keyRetryTimer time) s (takeKey d)) ∧
      (c.pair.step ≠ .idle ∨ selfReturn d = false → doesTo (.keyRetryTimer time) s d))) ∧
  (∀ c : Core, (keyIn c = false → pairState (takeKey c) = 4 ∧ (takeKey c).pair.step = .guard ∧
      (takeKey c).pair.stepSince = c.glb.now ∧ (takeKey c).pair.before = pairState c) ∧
    (keyIn c = true → pairState (takeKey c) = pairState c ∧ keyOut (takeKey c) = false ∧ (takeKey c).pair.step = .idle)) ∧
  (∀ s : State, inService s.core = true →
    (pairState s.core = 7 ∨ (pairState s.core = 9 ∧ keyOut s.core = true)) → (∀ r ∈ s.core.pair.outstanding, r.copy = true) →
    ∃ c, doesTo .keyRelease s c ∧ keyOut c = false ∧ keyHeld c = false ∧ c.pair.releasing = none ∧ c.pair.dirty = [] ∧
      (pairState s.core = 7 → pairState c = (if s.core.pair.synced then 3 else 2)) ∧
      (pairState s.core = 9 → pairState c = 9)) ∧
  (∀ s : State, inService s.core = true → (∃ r ∈ s.core.pair.outstanding, r.copy = false) → doesTo .keyRelease s s.core) ∧
  (∀ (s : State) (src : Src) (force : Bool) (m : M), FmAsks { mop := 0x0900 } src s m → m.core.pair.step = .idle → pairState m.core ≠ 1 →
    (pairState m.core = 3 ∨ (pairState m.core = 2 ∧ force = true) → keyIn m.core = false →
      does (.pairPromote src force) s (m.on (fun c => takeKey (onPair c (fun v => { v with promoting := some (realSrc src) }))))) ∧
    (pairState m.core = 3 ∨ (pairState m.core = 2 ∧ force = true) → keyIn m.core = true →
      does (.pairPromote src force) s (m.on (fun c => mgmtReply c (realSrc src) 0x0900 .conflict []))) ∧
    (pairState m.core ≠ 3 → pairState m.core ≠ 2 ∨ force = false →
      does (.pairPromote src force) s (m.on (fun c => mgmtReply c (realSrc src) 0x0900 .badState [])))) ∧
  (∀ (s : State) (src : Src) (force : Bool) (m : M) (c : Core) (k : Nat), FmAsks { mop := 0x0900 } src s m → pairState m.core = 1 →
    m.core.choose 2 = (c, k) →
    (k ≠ 1 ∨ m.core.pair.step ≠ .idle → does (.pairPromote src force) s (M.on { core := c, mem := m.mem } (fun c =>
      mgmtReply c (realSrc src) 0x0900 .badState []))) ∧
    (k = 1 → m.core.pair.step = .idle → keyIn m.core = false → does (.pairPromote src force) s
      { core := takeKey (onPair c (fun v => { v with promoting := some (realSrc src) })), mem := m.mem })) ∧
  (∀ (s : State) (src : Src) (m : M), FmAsks { mop := 0x0901 } src s m →
    (pairState m.core = 5 ∨ pairState m.core = 6 ∨ pairState m.core = 8 → does (.pairRelease src) s (m.on (fun c =>
      setPair (onPair c (fun v => { v with releasing := some (realSrc src) })) 7))) ∧
    (pairState m.core ≠ 5 → pairState m.core ≠ 6 → pairState m.core ≠ 8 →
      does (.pairRelease src) s (m.on (fun c => mgmtReply c (realSrc src) 0x0901 .badState [])))) ∧
  (∀ (s : State) (src : Src) (m : M), FmAsks { mop := 0x0902 } src s m → paired m.core = true →
    (1 < pairState m.core → pairState m.core ≠ 4 →
      does (.pairRecover src) s (accepted (m.on (fun c => setPair c 9)) src 0x0902)) ∧
    (pairState m.core = 4 →
      does (.pairRecover src) s (accepted (m.on (fun c => setPair (stopTaking c false) 9)) src 0x0902)))

/-! ### The transport, RoCE, ports and the ring (chapters 13 and 14) -/

/-- Frieze sessions open and close, acknowledge, probe their paths, send again what is not acknowledged, and end when their grace
has passed (R467 to R470, R477 to R479, R488, R495). Rests on the model's choices (assumptions 19, 56, 100, 104). -/
def Obligations.Sessions : Prop :=
  (∀ (s : State) (src : Src) (d : SessDef) (m : M), FmAsks { mop := 0x0001 } src s m →
    (SessionOk m.core d → does (.sessionOpen src d) s (accepted (m.on (fun c => openSession c d.session d.remote d.epoch d.keySlot
      (d.paths.map (mkPath c)) d.txSeq d.rxSeq d.allow (sessCredits d))) src 0x0001)) ∧
    ((∃ x, sess? m.core d.session = some x ∧ x.st ≠ .closed ∧ x.st ≠ .lost) ∨ amGet? m.core.net.epochs d.session = some d.epoch →
      does (.sessionOpen src d) s (m.on (fun c => mgmtReply c (realSrc src) 0x0001 .conflict [])))) ∧
  (∀ (c : Core) (n remote epoch key : Nat) (paths : List Path) (tx rx : Nat) (allow : List (Nat × Nat)) (cr : Nat),
    sess? c n = none → ∀ c1, c1 = openSession c n remote epoch key paths tx rx allow cr →
    amGet? c1.net.epochs n = some epoch ∧ ∃ x, sess? c1 n = some x ∧ x.st = .opened ∧ x.remote = remote ∧ x.epoch = epoch ∧
      x.peerKey = key ∧ x.paths = paths ∧ x.txSeq = tx ∧ x.rxBase = rx ∧ x.landed = [] ∧ x.txPkts = [] ∧
      x.credits.map (fun k => (k.allow, k.rallow)) = allow) ∧
  (∀ (s : State) (src : Src) (n : Nat) (m : M), FmAsks { mop := 0x0002 } src s m → n < 8188 →
    (∀ x, sess? m.core n = some x → x.st ≠ .closed → ∃ c, sess? c n = none ∧
      does (.sessionClose src n) s (accepted (m.on (fun _ => c)) src 0x0002)) ∧
    (sess? m.core n = none → does (.sessionClose src n) s (m.on (fun c => mgmtReply c (realSrc src) 0x0002 .badState [])))) ∧
  (∀ (s : State) (p : Pkt) (c : Core), linkServes s.core (p.srcEp / 2 ^ 28 == 2) = true → checkPkt s.core p false = (c, none) →
    (∀ base rcr map, doesTo (.ack p base rcr map) s c) ∧ (∀ stamp, doesTo (.probe p stamp) s c) ∧ doesTo (.probeReply p) s c) ∧
  (∀ (s : State) (p : Pkt) (c : Core) (n : Nat), linkServes s.core (p.srcEp / 2 ^ 28 == 2) = true →
    checkPkt s.core p false = (c, some n) → ∀ h, h = headerRx c n p →
    (∀ base map (r0 r1 r2 : Nat), ∀ h2, h2 = modSess (modSess (modSess h n (fun x => modCr x 0 (fun k => { k with rfreed := r0 % 2 ^ 16 })))
        n (fun x => modCr x 1 (fun k => { k with rfreed := r1 % 2 ^ 16 }))) n (fun x => modCr x 2 (fun k => { k with rfreed := r2 % 2 ^ 16 })) →
      doesTo (.ack p base [r0, r1, r2] map) s (pump (ackRx h2 n base (mapTest base (leNat map) (8 * map.length)) p.port p.sub) n)) ∧
    (∀ (stamp : W64) (i : Nat) x, sess? h n = some x → pathAt x p.port p.sub = some i →
      doesTo (.probe p stamp) s (pump (sendPlain h n i 3 8 [stamp.toNat]) n) ∧
      doesTo (.probeReply p) s (pump (pathUp h n i) n)) ∧
    (∀ (stamp : W64) x, sess? h n = some x → pathAt x p.port p.sub = none →
      doesTo (.probe p stamp) s (pump h n) ∧ doesTo (.probeReply p) s (pump h n))) ∧
  (∀ (c : Core) (n base port sub : Nat) (landed : Nat → Bool) (x : Session), sess? c n = some x →
    ∃ y, sess? (ackRx c n base landed port sub) n = some y ∧ (∀ q ∈ y.txPkts, 0 < q.sent →
      landed q.seq = false ∧ ¬ (0 < cut32 base q.seq ∧ cut32 base q.seq ≤ 2 ^ 31)) ∧
      (∀ q ∈ x.txPkts, q.sent = 0 → q ∈ y.txPkts) ∧ y.txSeq = x.txSeq ∧ y.st = x.st) ∧
  (∀ (c : Core) (n i : Nat) (x : Session), sess? c n = some x → x.st = .opened →
    (∀ j a, x.paths[j]? = some a → a.up = true → j = i) → ∃ y, sess? (pathDown c n i) n = some y ∧ y.st = .hold ∧
      y.graceEnd = c.glb.now + c.fld FZT_TIMER1 FZT_TIMER1_GRACE_MS * 1000000 ∧ y.txPkts = x.txPkts) ∧
  (∀ (s : State) (n time : Nat) (c : Core) (x : Session), c = s.core.at time → sess? c n = some x →
    linkServes c (x.remote / 2 ^ 28 == 2) = true →
    (∀ a, sessLive x = true → x.paths = [a] → a.up = false → linkUp c a.port a.sub = true →
      doesTo (.probeTimer n time) s (sendPlain c n 0 2 8 [c.glb.now])) ∧
    (sessLive x = false ∨ (∀ a ∈ x.paths, a.up = true ∨ linkUp c a.port a.sub = false) → doesTo (.probeTimer n time) s c) ∧
    (0 < x.sinceAck → x.firstUnacked + c.fld FZT_TIMER0 FZT_TIMER0_ACK_DELAY_NS ≤ c.glb.now →
      doesTo (.ackDelayExpiry n time) s (sendAck c n)) ∧
    (x.sinceAck = 0 ∨ c.glb.now < x.firstUnacked + c.fld FZT_TIMER0 FZT_TIMER0_ACK_DELAY_NS → doesTo (.ackDelayExpiry n time) s c) ∧
    (x.st = .hold → x.graceEnd ≤ c.glb.now → doesTo (.graceEnd n time) s (loseSession c n)) ∧
    (x.st ≠ .hold ∨ c.glb.now < x.graceEnd → doesTo (.graceEnd n time) s c) ∧
    (∀ seq p a d e, x.txPkts.find? (fun q => decide (0 < q.sent) && q.seq == seq) = some p → x.st = .opened →
      p.lastSent + c.fld FZT_TIMER0 FZT_TIMER0_RTO_US * 1000 * 2 ^ min p.doublings 4 ≤ c.glb.now → x.paths[p.path]? = some a →
      e = c.count (FZT_TIMEOUTS a.port) → d = setSess e n (timedOut x p) →
      (a.up = false ∨ a.timeouts + 1 < e.fld FZT_TIMER1 FZT_TIMER1_PATH_TIMEOUTS →
        doesTo (.retransmitTimeout n seq time) s (pump d n)) ∧
      (a.up = true → e.fld FZT_TIMER1 FZT_TIMER1_PATH_TIMEOUTS ≤ a.timeouts + 1 →
        doesTo (.retransmitTimeout n seq time) s (pump (pathDown d n p.path) n))) ∧
    (∀ seq p, x.txPkts.find? (fun q => decide (0 < q.sent) && q.seq == seq) = some p →
      x.st ≠ .opened ∨ c.glb.now < p.lastSent + c.fld FZT_TIMER0 FZT_TIMER0_RTO_US * 1000 * 2 ^ min p.doublings 4 →
      doesTo (.retransmitTimeout n seq time) s c)) ∧
  (∀ (s : State) (p : Pkt) (rep : Rep) (c : Core) (n : Nat) (x : Session), inService s.core = true →
    landPkt s.core { p with cls := 1 } = (c, some n) → sess? c n = some x → rep = { status := rep.status, count := rep.count, detail := rep.detail, value := rep.value, value2 := rep.value2 } →
    (x.asked.find? (fun a => a.1 == p.xid) = none → doesTo (.reply p rep.status rep.count rep.detail rep.value rep.value2) s c) ∧
    (∀ xid msg f d, x.asked.find? (fun a => a.1 == p.xid) = some (xid, msg) →
      d = modSess c n (fun x => { x with asked := x.asked.filter (fun a => a.1 != xid) }) →
      d.ring.fwds.find? (fun f => some f.tag == msg.body[4]? && (f.kind == 5 || f.kind == 6)) = some f →
      does (.reply p rep.status rep.count rep.detail rep.value rep.value2) s ((pairReply { core := d, mem := s.mem } f rep).on drainCheck)))

/-- RoCE queue pairs are created and removed; their requests are taken in PSN order, doorbells under DOORBELL_RKEY, and what is
refused is answered by a NAK; the chip's own writes are acknowledged, sent again, or end in ERROR (R498 to R505).
Rests on the model's choices (assumptions 9, 19, 58). -/
def Obligations.RoceQueuePairs : Prop :=
  (∀ (s : State) (src : Src) (d : QpDef) (m : M), FmAsks { mop := 0x0010 } src s m → QpOk m.core d →
    does (.qpCreate src d) s (accepted (m.on (fun c => setQp c d.qp (newQp d))) src 0x0010)) ∧
  (∀ (s : State) (src : Src) (q : Nat) (m : M), FmAsks { mop := 0x0011 } src s m → q < 16384 →
    (∀ x, qp? m.core q = some x → ∃ c, qp? c q = none ∧ (∀ d ∈ c.net.doorQp, d.2 ≠ q) ∧
      does (.qpDestroy src q) s (accepted (m.on (fun _ => c)) src 0x0011)) ∧
    (qp? m.core q = none → does (.qpDestroy src q) s (m.on (fun c => mgmtReply c (realSrc src) 0x0011 .badState [])))) ∧
  (∀ cmd, RoceRequest cmd → ∀ (s : State) (p : RPkt) (c : Core), roceRx p true s.core = (c, none) → doesTo (cmd p) s c) ∧
  (∀ (s : State) (p : RPkt) (c : Core) (x : Qp), roceRx p true s.core = (c, some x) →
    (psnPlace x p.psn ≠ 0 → doesTo (.rdmaWrite p) s (roceOther c p x)) ∧
    (psnPlace x p.psn = 0 → ∀ d, d = expect c p.qp (p.psn + 1) →
      (writeStart p x = none → doesTo (.rdmaWrite p) s (sendNak d p.qp (psn24 p.psn) .badDescriptor)) ∧
      (∀ va rkey left, writeStart p x = some (va, rkey, left) →
        (writeFits p x left = false → doesTo (.rdmaWrite p) s (sendNak d p.qp (psn24 p.psn) .badDescriptor)) ∧
        (writeFits p x left = true → rkey = x.dataKey → ∀ wr,
          wr = (if p.last then none else some (va + BitVec.ofNat 64 p.data.length, rkey, left - p.data.length, [])) →
          doesTo (.rdmaWrite p) s (admitQp (modQp d p.qp (fun x => { x with wr := wr })) p x 0x11 0xFFFF
            [va.toNat, p.data.length, 0, 0, 0] p.data)) ∧
        (writeFits p x left = true → rkey ≠ x.dataKey → rkey ≠ x.doorKey →
          doesTo (.rdmaWrite p) s (sendNak d p.qp (psn24 p.psn) .accessDenied)) ∧
        (writeFits p x left = true → rkey ≠ x.dataKey → rkey = x.doorKey → ∀ k, k = va.toNat / 8 → p.first = true → p.last = true →
          p.data.length = 8 → va.toNat % 8 = 0 → k < 4096 →
          (ctxState d k ≠ 0 → ctxOwner d k = x.owner → ctxRdma d k = true →
            doesTo (.rdmaWrite p) s (admitQp (rdmaDoorbell d k p.qp) p x 0x21 k [0, 8, 0, leNat p.data, 0] [])) ∧
          (ctxState d k = 0 ∨ ctxOwner d k ≠ x.owner ∨ ctxRdma d k = false → doesTo (.rdmaWrite p) s
            (sendNak (raise d .ctxDoorbellRejected 7 k) p.qp (psn24 p.psn) .accessDenied))) ∧
        (writeFits p x left = true → rkey ≠ x.dataKey → rkey = x.doorKey →
          (p.first = false ∨ p.last = false ∨ p.data.length ≠ 8 ∨ va.toNat % 8 ≠ 0 ∨ 4096 ≤ va.toNat / 8) →
          doesTo (.rdmaWrite p) s (sendNak d p.qp (psn24 p.psn) .badDescriptor))))) ∧
  (∀ (s : State) (p : RPkt) (c : Core) (x : Qp), roceRx p true s.core = (c, some x) →
    (psnPlace x p.psn = 2 → doesTo (.rdmaRead p) s (roceOther c p x)) ∧
    (∀ n d, n = max 1 ((p.len + x.pmtu - 1) / max 1 x.pmtu) → psnPlace x p.psn ≠ 2 →
      d = (if psnPlace x p.psn = 0 then expect c p.qp (p.psn + n) else c) →
      (qpOpen d p.qp < 16 → p.len ≤ 2 ^ 31 → p.rkey = x.dataKey →
        doesTo (.rdmaRead p) s (admitQp d p x 0x10 0xFFFF [p.va.toNat, p.len, 0, 0, 0] [])) ∧
      (qpOpen d p.qp < 16 → p.len ≤ 2 ^ 31 → p.rkey ≠ x.dataKey →
        doesTo (.rdmaRead p) s (sendNak d p.qp (psn24 p.psn) .accessDenied)) ∧
      (16 ≤ qpOpen d p.qp ∨ 2 ^ 31 < p.len → doesTo (.rdmaRead p) s (sendNak d p.qp (psn24 p.psn) .badDescriptor)))) ∧
  (∀ (s : State) (p : RPkt) (c : Core) (x : Qp) (a b : W64), roceRx p true s.core = (c, some x) →
    ∀ cmd op cmp, (cmd = Instr.compareSwap p a b ∧ op = 8 ∧ cmp = b) ∨ (cmd = Instr.fetchAdd p a ∧ op = 0 ∧ cmp = 0) →
    (psnPlace x p.psn = 1 → doesTo cmd s c) ∧ (psnPlace x p.psn = 2 → doesTo cmd s (roceOther c p x)) ∧
    (psnPlace x p.psn = 0 → ∀ d, d = expect c p.qp (p.psn + 1) →
      (qpOpen d p.qp < 16 → p.rkey = x.dataKey →
        doesTo cmd s (admitQp d p x 0x12 0xFFFF [p.va.toNat, 8, op + 256, a.toNat, cmp.toNat] [])) ∧
      (qpOpen d p.qp < 16 → p.rkey ≠ x.dataKey → doesTo cmd s (sendNak d p.qp (psn24 p.psn) .accessDenied)) ∧
      (16 ≤ qpOpen d p.qp → doesTo cmd s (sendNak d p.qp (psn24 p.psn) .badDescriptor)))) ∧
  (∀ (s : State) (p : RPkt) (c : Core) (x : Qp), roceRx p true s.core = (c, some x) →
    doesTo (.roceInvalidRequest p) s (sendNak c p.qp (psn24 p.psn) .badDescriptor)) ∧
  (∀ (c : Core) (q psn : Nat) (st : Status) (x : Qp), qp? c q = some x → ∃ y, qp? (sendNak c q psn st) q = some y ∧
    y.error = true ∧ y.lastStatus = statusCode st ∧ y.writes = [] ∧ y.wr = none) ∧
  (∀ (s : State) (p : RPkt) (c : Core), roceRx p false s.core = (c, none) → ∀ nak, doesTo (.roceAck p nak) s c) ∧
  (∀ (s : State) (p : RPkt) (c : Core) (x : Qp) (up : Nat) (d : Core), roceRx p false s.core = (c, some x) →
    d = (x.writes.filter (fun w => decide (cut24 up w.2.1 < 2 ^ 23))).foldl (fun c w => msgAcked c w.2.2.1)
      (setQp c p.qp { x with writes := x.writes.filter (fun w => !decide (cut24 up w.2.1 < 2 ^ 23)) }) →
    (up = psn24 (p.psn + 1) → doesTo (.roceAck p none) s d) ∧
    (up = psn24 p.psn → doesTo (.roceAck p (some 0)) s (resendWrites d p.qp) ∧
      doesTo (.roceAck p (some 1)) s (qpError d p.qp (statusCode .badDescriptor)) ∧
      doesTo (.roceAck p (some 2)) s (qpError d p.qp (statusCode .accessDenied)) ∧
      ∀ k, 3 ≤ k → doesTo (.roceAck p (some k)) s (qpError d p.qp (statusCode .internalFault)))) ∧
  (∀ (s : State) (q time : Nat) (c : Core) (x : Qp) (a b : Nat) (msg : OutMsg) (tries sent : Nat) (t : List (Nat × Nat × OutMsg × Nat × Nat)),
    inService s.core = true → c = s.core.at time → qp? c q = some x → x.writes = (a, b, msg, tries, sent) :: t → x.error = false →
    (c.glb.now < sent + 4096 * 2 ^ x.ackExp → doesTo (.localAckTimeout q time) s c) ∧
    (sent + 4096 * 2 ^ x.ackExp ≤ c.glb.now →
      (tries = 0 → doesTo (.localAckTimeout q time) s (qpError c q (statusCode .linkLost))) ∧
      (0 < tries → doesTo (.localAckTimeout q time) s
        (resendWrites (setQp c q { x with writes := (a, b, msg, tries - 1, sent) :: t }) q))))

/-- Links come and go, PFC pauses a priority, and a port that has sent a frame starts the next by its two levels (R464, R469, R509,
R516, R528 to R530). Rests on the model's choices (assumptions 56, 59). -/
def Obligations.Links : Prop :=
  (∀ (s : State) (n k time : Nat) (c : Core), c = s.core.at time → portOk c n k = true → powered c = true →
    6 ≤ bootStage c → bootStage c ≠ 9 → domainServes c (52 + n) = true → baseFenced c (portPlinth n) = false →
    c.flag (PWR_DOMAIN (52 + n)) PWR_DOMAIN_FENCED = false → c.pins.stoppedClocks.contains (1 + portPlinth n) = false →
    (ringPort n = false → doesTo (.linkUp n k time) s (startPort (setLink c n k true) n)) ∧
    (ringPort n = true → doesTo (.linkUp n k time) s (startPort (healLink (sendHello (setLink c n k true) n) n) n))) ∧
  (∀ (c : Core) (n k : Nat) (b : Bool), n < 16 → k < 4 → linkUp (setLink c n k b) n k = b ∧
    ∀ j, j < 4 → j ≠ k → linkUp (setLink c n k b) n j = linkUp c n j) ∧
  (∀ (s : State) (n k time : Nat) (c : Core), powered s.core = true → c = s.core.at time → portOk c n k = true →
    (linkUp c n k = false → doesTo (.linkDown n k time) s c) ∧
    (linkUp c n k = true → ringPort n = false → doesTo (.linkDown n k time) s (pathsDown (setLink c n k false) n k)) ∧
    (linkUp c n k = true → ringPort n = true → ∀ d e g, d = pathsDown (setLink c n k false) n k →
      e = onRingSt d (fun r => { r with hello := amDel r.hello n }) →
      g = raise (if (if n < 14 then [12, 13] else [14, 15]).all (fun j => (amGet? e.ring.hello j).isNone) then
        e.setFld RING_NEIGHBOURS (if n < 14 then RING_NEIGHBOURS_WEST_VALID else RING_NEIGHBOURS_EAST_VALID) 0 else e)
        .ringLinkDown 5 n →
      (dirUp c 0 = true → dirUp g 0 = false → masters g = true → 1 < g.ring.members.length → doesTo (.linkDown n k time) s
        (issueRoute g (markLink g.ring.members (if n < 14 then westOf g else g.chipId) 2))) ∧
      (dirUp c 0 = false ∨ dirUp g 0 = true ∨ masters g = false ∨ g.ring.members.length ≤ 1 → doesTo (.linkDown n k time) s g))) ∧
  (∀ (s : State) (n k len time : Nat) (quanta : List Nat) (c c1 : Core), powered s.core = true → c = s.core.at time →
    portOk c n k = true → linkUp c n k = true →
    (rxFrame c n k len = (c1, true) → doesTo (.pfcFrame n k len quanta time) s (pfcFrame n quanta c1)) ∧
    (rxFrame c n k len = (c1, false) → doesTo (.pfcFrame n k len quanta time) s c1)) ∧
  (∀ (c : Core) (n : Nat) (quanta : List Nat) (j q rate : Nat), quanta[j]? = some q → q < 65536 → j < 8 →
    bitOf (c.fld (MAC_CTRL n) MAC_CTRL_PFC_EN) j = true →
    rate = (match c.fld (MAC_CFG n) MAC_CFG_MODE with | 0 => 800 | 1 => 400 | _ => 200) →
    amGet (portSt (pfcFrame n quanta c) n).paused j 0 = if q = 0 then 0 else c.glb.now + (q * 512 + rate - 1) / rate) ∧
  (∀ (s : State) (n time : Nat), powered s.core = true → s.core.ring.transitHeld = [] →
    doesTo (.frameTransmitted n time) s (frameSent n (s.core.at time))) ∧
  (∀ (s : State) (n time : Nat) (c : Core), powered s.core = true → c = frameSent n (s.core.at time) →
    (8388608 ≤ transitBytes c n → doesTo (.frameTransmitted n time) s c) ∧
    (transitBytes c n < 8388608 → doesTo (.frameTransmitted n time) s ((c.ring.transitHeld.filter (·.1 == n)).foldl
      (fun c h => releaseCr c h.2.1 0 h.2.2.1 h.2.2.2 true)
      (onRingSt c (fun r => { r with transitHeld := r.transitHeld.filter (·.1 != n) }))))) ∧
  (∀ (c : Core) (n : Nat), (portSt c n).sending = none → frameSent n c = c) ∧
  (∀ (c : Core) (n i : Nat) (p : PortSt) (f : EgFrame), p = portSt c n → p.sending = none → p.queue[i]? = some f →
    p.queue.findIdx? (fun f => f.strict && frameReady c n f) = some i →
    (portSt (startPort c n) n).sending = some f ∧ (portSt (startPort c n) n).queue = dropAt p.queue i) ∧
  (∀ (c : Core) (n i flow tag : Nat) (p : PortSt) (f : EgFrame), p = portSt c n → p.sending = none →
    p.queue.findIdx? (fun f => f.strict && frameReady c n f) = none →
    leastHead (p.head.filter (fun h => match p.queue.find? (fun f => !f.strict && f.flow == h.1) with
      | some f => frameReady c n f
      | none => false)) = some (flow, tag) →
    p.queue.findIdx? (fun f => !f.strict && f.flow == flow) = some i → p.queue[i]? = some f → n < 16 →
    (portSt (startPort c n) n).sending = some f ∧ (portSt (startPort c n) n).queue = dropAt p.queue i ∧
      (startPort c n).rget (SCH_VTIME n) = w64 tag)

/-- Neighbours greet each other, chips join and leave, and the master admits, prepares, and makes the routes that members follow
(R509 to R519, Tables 14-1 and 14-2). Rests on the model's choices (assumptions 57, 60, 61). -/
def Obligations.RingMembership : Prop :=
  (∀ (s : State) (p : Pkt) (c : Core), HelloHeard s p c →
    doesTo (.ringHello p c.chipId) s c ∧
    (∀ chip, chip ≠ c.chipId →
      (∀ other, amGet? c.ring.hello (sidePort p.port) = some other → other ≠ chip → sess? c (ringSess p.port) = none →
        doesTo (.ringHello p chip) s (raise (heardHello c p.port chip) .ringCableMismatch 5 p.port)) ∧
      (∀ other x, amGet? c.ring.hello (sidePort p.port) = some other → other ≠ chip → sess? c (ringSess p.port) = some x →
        doesTo (.ringHello p chip) s
          (raise (flushSession (heardHello c p.port chip) (ringSess p.port) .closed) .ringCableMismatch 5 p.port)) ∧
      ((∀ other, amGet? c.ring.hello (sidePort p.port) = some other → other = chip) →
        (sess? c (ringSess p.port) = none → slotOwner c 4095 = none →
          doesTo (.ringHello p chip) s (noteNeighbour c p.port chip)) ∧
        (∀ o, sess? c (ringSess p.port) = none → slotOwner c 4095 = some o → ringState c ≠ 1 → ∃ e a b c1,
          doesTo (.ringHello p chip) s (openSession c1 (ringSess p.port) (chipEp chip) e 4095
            [⟨p.port, 0, 0, 0, 0, 0, true, 0⟩] a b [(8192, 340), (8192, 340), (1024, 340)] 18428) ∧
          e < 65536 ∧ a < 2 ^ 32 ∧ b < 2 ^ 32 ∧ c1.ring = (noteNeighbour c p.port chip).ring ∧
          c1.net = (noteNeighbour c p.port chip).net) ∧
        (∀ x, sess? c (ringSess p.port) = some x → x.st = .hold → x.remote = chipEp chip → ringState c ≠ 1 →
          doesTo (.ringHello p chip) s (pathUp (noteNeighbour c p.port chip) (ringSess p.port) 0)) ∧
        (∀ x, sess? c (ringSess p.port) = some x → x.st = .opened → x.remote = chipEp chip →
          (ringState c ≠ 1 → doesTo (.ringHello p chip) s (noteNeighbour c p.port chip)) ∧
          (ringState c = 1 → doesTo (.ringHello p chip) s (askJoin (noteNeighbour c p.port chip))))))) ∧
  (∀ (s : State) (src : Src) (chip : Nat) (m : M), FmAsks { mop := 0x0A01 } src s m →
    (chip = m.core.chipId → mayJoin m.core = true →
      does (.ringJoin src chip) s (accepted (m.on (fun c => startJoin c false)) src 0x0A01)) ∧
    (chip = m.core.chipId → mayJoin m.core = false →
      does (.ringJoin src chip) s (m.on (fun c => mgmtReply c (realSrc src) 0x0A01 .badState []))) ∧
    (chip ≠ m.core.chipId → does (.ringJoin src chip) s (m.on (fun c => mgmtReply c (realSrc src) 0x0A01 .badField [])))) ∧
  (∀ (s : State) (src : Src) (chip : Nat) (m : M), FmAsks { mop := 0x0A02 } src s m →
    (chip = m.core.chipId → ringState m.core = 2 → does (.ringLeave src chip) s (accepted (m.on startLeave) src 0x0A02)) ∧
    (chip = m.core.chipId → ringState m.core ≠ 2 →
      does (.ringLeave src chip) s (m.on (fun c => mgmtReply c (realSrc src) 0x0A02 .badState [])))) ∧
  (∀ c : Core, ringState (startJoin c false) = 1 ∧ (isMaster c = false → ringState (startLeave c) = 3)) ∧
  (∀ (s : State) (src : Src) (chip west east : Nat) (m : M), FmAsks { mop := 0x0A00 } src s m →
    (masters m.core = false ∨ m.core.ring.prepare.isSome = true →
      does (.ringPrepare src chip west east) s (m.on (fun c => mgmtReply c (realSrc src) 0x0A00 .badState []))) ∧
    (masters m.core = true → m.core.ring.prepare = none →
      (admitRefusal m.core chip = 1 → does (.ringPrepare src chip west east) s
        (m.on (fun c => mgmtReply (logRefusal c chip 1) (realSrc src) 0x0A00 .conflict []))) ∧
      (admitRefusal m.core chip = 2 → does (.ringPrepare src chip west east) s
        (m.on (fun c => mgmtReply (logRefusal c chip 2) (realSrc src) 0x0A00 .noResource []))) ∧
      (admitRefusal m.core chip = 0 → memberIdx m.core west = none ∨ memberIdx m.core east = none →
        does (.ringPrepare src chip west east) s (m.on (fun c => mgmtReply c (realSrc src) 0x0A00 .badField []))) ∧
      (∀ i j c, admitRefusal m.core chip = 0 → chip < 4096 → memberIdx m.core west = some i → memberIdx m.core east = some j →
        (i + 1) % m.core.ring.members.length = j → c = issueRoute m.core (markLink m.core.ring.members west 1) →
        does (.ringPrepare src chip west east) s (m.on (fun _ => onRingSt c (fun r =>
          { r with prepare := some (chip, west, east, c.fld RING_ROUTE RING_ROUTE_VERSION), preparer := some (realSrc src) })))))) ∧
  (∀ cmd type body, RingCmd cmd type body → ∀ (s : State) (p : Pkt) (c : Core), inService s.core = true →
    ringRx s.core p = (c, none) → doesTo (cmd p) s c) ∧
  (∀ cmd type body, RingCmd cmd type body → type ≠ 0x78 → ∀ (s : State) (p : Pkt) (c : Core) (d : Nat), inService s.core = true →
    ringRx s.core p = (c, some d) → masters c = false → ringState c ≠ 1 → doesTo (cmd p) s (passOn c d type body)) ∧
  (∀ (s : State) (p : Pkt) (c : Core) (d : Nat), inService s.core = true → ringRx s.core p = (c, some d) →
    (masters c = true →
      (∀ chip pri, c.ring.collectUntil = none → admitRefusal c chip = 0 → doesTo (.joinRequest p chip pri) s (admitChip c chip (1 - d))) ∧
      (∀ chip pri k, c.ring.collectUntil = none → admitRefusal c chip = k → k ≠ 0 →
        doesTo (.joinRequest p chip pri) s (joinAnswer (logRefusal c chip k) (1 - d) k)) ∧
      (∀ chip pri t, c.ring.collectUntil = some t → (∀ r ∈ c.ring.requests, r.1 ≠ chip) → doesTo (.joinRequest p chip pri) s
        (onRingSt c (fun r => { r with requests := r.requests ++ [(chip, 1 - d)] }))) ∧
      (∀ chip v, doesTo (.ringDrained p chip v) s (noteDrained c chip v)) ∧ (∀ v ms, doesTo (.routeUpdate p v ms) s c)) ∧
    (ringState c = 1 →
      (∀ m, ∃ c1, doesTo (.joinAccept p m) s c1 ∧ ringState c1 = 2 ∧ c1.flag TCK_STATUS TCK_STATUS_MASTER = false ∧
        c1.fld TCK_STATUS TCK_STATUS_STATE = 0 ∧ c1.fld TCK_STATUS TCK_STATUS_MASTER_ID = m % 4096) ∧
      (∀ r m, doesTo (.joinRefused p r m) s (raise (ringOut c) .ringJoinRefused 0 0 r))) ∧
    (masters c = false → ∀ v ms e, e = passOn c d 0x78 (routeBody v ms) →
      (serialNewer v (e.fld RING_ROUTE RING_ROUTE_VERSION) = true → doesTo (.routeUpdate p v ms) s (applyRoutes e v ms)) ∧
      (serialNewer v (e.fld RING_ROUTE RING_ROUTE_VERSION) = false → doesTo (.routeUpdate p v ms) s e))) ∧
  (∀ (c : Core) (v : Nat) (ms : List (Nat × Nat)), (applyRoutes c v ms).ring.members = ms ∧
    (applyRoutes c v ms).fld RING_ROUTE RING_ROUTE_VERSION = v % 2 ^ 32 ∧
    (applyRoutes c v ms).flag RING_STATUS RING_STATUS_CHAIN = ms.any (fun m => m.2 != 0)) ∧
  (∀ c : Core, ringState (ringOut c) = 0 ∧ isMaster (ringOut c) = true ∧ (ringOut c).ring.members = []) ∧
  (∀ (s : State) (time : Nat) (c : Core), inService s.core = true → c = s.core.at time →
    (ringState c = 1 → (∀ h ∈ c.ring.hello, h.2 = c.chipId) → c.ring.joinSince + 100000000 ≤ c.glb.now →
      doesTo (.joinTimeout time) s (raise (ringOut c) .ringJoinFailed 0 0)) ∧
    (ringState c ≠ 1 ∨ (∃ h ∈ c.ring.hello, h.2 ≠ c.chipId) ∨ c.glb.now < c.ring.joinSince + 100000000 →
      doesTo (.joinTimeout time) s c)) ∧
  (∀ (s : State) (t : Nat), inService s.core = true → s.core.ring.collectUntil = some t →
    (s.core.tick < t ∨ isMaster s.core = false → doesTo .ringAdmission s s.core) ∧
    (t ≤ s.core.tick → isMaster s.core = true → doesTo .ringAdmission s ((s.core.ring.requests.foldr insertChip []).foldl admitOne
      (onRingSt s.core (fun r => { r with requests := [], collectUntil := none }))))) ∧
  (∀ l : List (Nat × Nat), (l.foldr insertChip []).Perm l ∧ (l.foldr insertChip []).Pairwise (fun a b => a.1 ≤ b.1)) ∧
  (∀ (s : State) (v : Nat) (c : Core), inService s.core = true → v = s.core.fld RING_ROUTE RING_ROUTE_VERSION →
    c = onRingSt s.core (fun r => { r with drainedSent := v }) →
    (s.core.ring.draining ≠ [] ∨ onRing s.core = false → doesTo .routeDrained s s.core) ∧
    (s.core.ring.draining = [] → onRing s.core = true → s.core.ring.drainedSent = v →
      doesTo .routeDrained s (if leftRing s.core then ringOut s.core else s.core)) ∧
    (s.core.ring.draining = [] → onRing s.core = true → s.core.ring.drainedSent ≠ v →
      (∀ d, isMaster s.core = true → d = noteDrained c c.chipId v →
        doesTo .routeDrained s (if leftRing d then ringOut d else d)) ∧
      (isMaster s.core = false → ∃ k d, d = ringSend c k 0x79 [c.chipId, v] ∧
        doesTo .routeDrained s (if leftRing d then ringOut d else d)))) ∧
  (∀ (s : State) (chip i : Nat) (h : Heard), inService s.core = true → amGet? s.core.ring.heard chip = some h →
    masters s.core = true → 3 ≤ h.absent → memberIdx s.core chip = some i → ∀ c, c = raise s.core .ringMemberLost 0 0 chip →
    doesTo (.memberLost chip) s (issueRoute (onRingSt c (fun r => { r with heard := amDel r.heard chip }))
      (withoutMember c.ring.members chip)))

/-- A FORWARD is passed on, or served at the chip that it names, with its credits; a reply is carried back and resolves its request;
a request without a reply is sent once more or fails (R520 to R523, R649).
Rests on the model's choices (assumptions 62, 63, 101). -/
def Obligations.Forwarding : Prop :=
  (∀ (s : State) (p : Pkt) (x : FwdMsg) (c : Core), inService s.core = true → ringPort p.port = true →
    landPkt s.core { p with cls := 0 } false (keptBack s.core x) = (c, none) → doesTo (.forward p x) s c) ∧
  (∀ (s : State) (p : Pkt) (x : FwdMsg) (c d : Core) (n : Nat), Forwarded s p x c n → d = dropCredits c p n (keptBack s.core x) →
    (x.hops = 0 ∨ (x.dst ≠ s.core.chipId ∧ memberIdx c x.dst = none) →
      doesTo (.forward p x) s (raise (d.count RING_UNREACHABLE) .ringUnreachable 0 0 x.dst)) ∧
    (x.hops ≠ 0 → x.dst ≠ s.core.chipId → (memberIdx c x.dst).isSome = true →
      doesTo (.forward p x) s (transit c n p (keptBack s.core x) x.dir 0x74 0 x.len
        ([x.origin, x.dst, x.hops - 1, x.dir, x.tag, x.part, x.ctx, x.type] ++ x.body) x.data))) ∧
  (∀ (s : State) (p : Pkt) (x : FwdMsg) (c c1 : Core) (n : Nat), Forwarded s p x c n → x.dst = s.core.chipId → x.hops ≠ 0 →
    assemble c n p.xid p.msgOff x.len x.part x.data = (c1, none) →
    doesTo (.forward p x) s (dropCredits c1 p n (keptBack s.core x))) ∧
  (∀ (s : State) (p : Pkt) (x : FwdMsg) (c c1 : Core) (n : Nat) (data : List Byte), Forwarded s p x c n → x.dst = s.core.chipId →
    x.hops ≠ 0 → assemble c n p.xid p.msgOff x.len x.part x.data = (c1, some data) → ∀ d, d = dropCredits c1 p n (keptBack s.core x) →
    (x.part < 16 → c1.fld (SEC_PART x.part) SEC_PART_STATE = 3 →
      (x.type = 0x101 → doesTo (.forward p x) s d) ∧
      (x.type = 0x100 →
        doesTo (.forward p x) s (fwdReply d x.origin x.tag x.part [2 + statusCode .keyRevoked, 0, 0] [] none)) ∧
      (x.type ≠ 0x100 → x.type ≠ 0x101 →
        doesTo (.forward p x) s (fwdReply d x.origin x.tag x.part [statusCode .keyRevoked, 0, 0, 0, 0] [] none))) ∧
    (16 ≤ x.part ∨ c1.fld (SEC_PART x.part) SEC_PART_STATE ≠ 3 →
      (x.type = 0x40 → does (.forward p x) s ((cohServe none x.ctx (x.body.getD 1 0) (cohOfBody x.body data)
        { core := d, mem := s.mem }).on (fun c => fwdReply c x.origin x.tag x.part [0, 0, 0, 0, 0] [] none))) ∧
      (x.type = 0x101 → doesTo (.forward p x) s (cancelEntries x.origin x.ctx (x.body.getD 0 0) d)) ∧
      (x.type ≠ 0x40 → x.type ≠ 0x101 → doesTo (.forward p x) s
        (admitReq c1 (.chip x.origin x.tag) x.ctx x.part x.type x.body data
          (if tagsFull s.core then [(n, pktCost (datagram p.len p.enc), p.retx)] else []))))) ∧
  (∀ (s : State) (p : Pkt) (x : FwdRep) (c : Core) (n : Nat), inService s.core = true → ringPort p.port = true →
    landPkt s.core { p with cls := 1 } = (c, some n) →
    (x.origin ≠ c.chipId → (routeTo c x.origin).bind Route.prefer = none →
      doesTo (.forwardReply p x) s (raise (c.count RING_UNREACHABLE) .ringUnreachable 0 0 x.origin)) ∧
    (∀ d, x.origin ≠ c.chipId → (routeTo c x.origin).bind Route.prefer = some d → doesTo (.forwardReply p x) s (transit c n p false d 0x75 1 x.len
      [x.origin, x.tag, x.part, statusCode x.status, x.count, x.detail.toNat, x.value.toNat, x.value2.toNat] x.data)) ∧
    (∀ c1 data, x.origin = c.chipId → assemble c n p.xid p.msgOff x.len x.part x.data = (c1, some data) →
      (c1.ring.fwds.find? (fun f => f.tag == x.tag && f.kind != 3) = none → doesTo (.forwardReply p x) s c1) ∧
      (∀ f, c1.ring.fwds.find? (fun f => f.tag == x.tag && f.kind != 3) = some f → does (.forwardReply p x) s
        (resolveAny f { status := x.status, count := x.count, detail := x.detail, value := x.value, value2 := x.value2, data := data }
          { core := c1, mem := s.mem }))) ∧
    (∀ c1, x.origin = c.chipId → assemble c n p.xid p.msgOff x.len x.part x.data = (c1, none) → doesTo (.forwardReply p x) s c1)) ∧
  (∀ (c : Core) (f : Fwd) (rep : Rep), c.ring.draining = [] → c.ring.fwds = [f] → f.kind = 0 →
    ∀ w, work? c f.who.1 f.who.2.1 = some w → w.phase = .parked (.remote f.tag) → ∃ y,
      work? (resolveFwd c f rep) f.who.1 f.who.2.1 = some y ∧ y.phase = .running ∧
      y.fetched = w.fetched ++ [fetchedOf f f.who.2.2 rep] ∧ (resolveFwd c f rep).ring.fwds = []) ∧
  (∀ (s : State) (tag : Nat) (f : Fwd) (c : Core) (r : Route), inService s.core = true →
    s.core.ring.fwds.find? (fun f => f.tag == tag && f.kind != 3 && f.kind != 5 &&
      (f.draining || s.core.ring.draining.all (fun x => x.1 != f.dst)) &&
      decide (f.sentTick + s.core.fld RING_FWD RING_FWD_TIMEOUT_TICKS < s.core.tick)) = some f →
    c = s.core.count RING_FWD_TIMEOUTS →
    (routeTo c f.dst = none → does (.forwardTimeout tag) s (resolveAny f { status := .linkLost } { core := c, mem := s.mem })) ∧
    (routeTo c f.dst = some r →
      (f.resent = true ∨ (r.reach0 = false ∧ r.reach1 = false) →
        does (.forwardTimeout tag) s (resolveAny f { status := .linkLost } { core := c, mem := s.mem })) ∧
      (f.idem = false → f.resent = false → r.reach0 = true ∨ r.reach1 = true →
        does (.forwardTimeout tag) s (resolveAny f { status := .outcomeUnknown } { core := c, mem := s.mem })) ∧
      (f.resent = false → f.dir = 0 ∧ r.reach0 = true ∧ r.reach1 = false ∨ f.dir = 1 ∧ r.reach1 = true ∧ r.reach0 = false →
        does (.forwardTimeout tag) s (resolveAny f { status := .outcomeUnknown } { core := c, mem := s.mem })) ∧
      (f.idem = true → f.resent = false → f.dir ≤ 1 → (f.dir = 0 ∧ r.reach1 = true) ∨ (f.dir = 1 ∧ r.reach0 = true) →
        ∀ d, d = onRingSt c (fun v => { v with fwds := v.fwds.map (fun g =>
            if g = f then { g with dir := 1 - f.dir, resent := true, sentTick := c.tick, draining := false } else g) }) →
          doesTo (.forwardTimeout tag) s (drainCheck (d.send (
            if f.kind = 6 then repMsg d (1 - f.dir) f.tag (f.body.getD 0 0) (f.body.getD 1 0) (f.body.getD 2 0) (f.body.getD 3 0)
              (f.body.getD 4 0) (f.body.getD 5 0) f.data (f.body.getD 6 0)
            else fwdMsg d f.dst (1 - f.dir) f.tag f.part f.ctx f.type f.body f.data)))))) ∧
  (∀ (s : State) (tag : Nat), inService s.core = true → (∀ f ∈ s.core.ring.fwds, f.tag ≠ tag ∨ f.kind = 3 ∨ f.kind = 5 ∨
      s.core.tick ≤ f.sentTick + s.core.fld RING_FWD RING_FWD_TIMEOUT_TICKS) → doesTo (.forwardTimeout tag) s s.core)

/-! ### Keys, attestation, partitions and programs (chapters 10 and 18) -/

/-- Reports are asked for and signed, keys are established, loaded, replaced and unloaded, and a refused one is counted (R629, R638 to
R643, R645, R646), and what a stack word is stored as. Rests on the model's choices (assumptions 6, 19, 74, 75). -/
def Obligations.KeysAndAttestation : Prop :=
  (∀ (s : State) (src : Src) (scope nonce time : Nat) (m m1 : M), Asks attestMop src s m → m1 = m.on (·.at time) →
    (16 ≤ scope → scope ≠ 255 → does (.attest (.ask src scope nonce time)) s
      (m1.on (fun c => mgmtReply c (realSrc src) 0x0800 .badField []))) ∧
    (∀ a, scope < 16 ∨ scope = 255 → srcAgent (realSrc src) = some a → (scope = 255 ∨ ownsContextIn m1.core a scope = false) →
      does (.attest (.ask src scope nonce time)) s (m1.on (fun c => mgmtReply c (realSrc src) 0x0800 .notPermitted []))) ∧
    (scope < 16 ∨ scope = 255 → (∀ a, srcAgent (realSrc src) = some a → scope < 16 ∧ ownsContextIn m1.core a scope = true) →
      (16 ≤ m1.core.sec.attest.length → does (.attest (.ask src scope nonce time)) s
        (m1.on (fun c => mgmtReply c (realSrc src) 0x0800 .secBusy []))) ∧
      (m1.core.sec.attest.length < 16 → does (.attest (.ask src scope nonce time)) s (m1.on (fun c => modSec c (fun v =>
        { v with attest := v.attest ++ [⟨realSrc src, scope, nonce⟩] })))))) ∧
  (∀ (s : State) (time : Nat) (c : Core), inService s.core = true → c = s.core.at time →
    (c.sec.attest = [] → doesTo (.attest (.sign time)) s c) ∧
    (∀ a t, c.sec.attest = a :: t → ∃ d, doesTo (.attest (.sign time)) s (mgmtReply (d.count SEC_ATTESTS) a.src 0x0800 .accepted
        ((report c a.scope a.nonce).map (·.toNat))) ∧ d.sec.attest = t ∧ nonceOk d a.nonce = true ∧
      (∀ n, nonceOk c n = true → nonceOk d n = true) ∧ d.mem = c.mem ∧ d.net = c.net)) ∧
  (∀ (c : Core) (scope nonce : Nat), (report c scope nonce).length = 4880 ∧ (reportBody c scope nonce).length = 0x5E0 ∧
    ((reportBody c scope nonce).drop 0x20).take 32 = natLe 32 nonce) ∧
  (∀ (s : State) (src : Src) (nonce time : Nat) (ok : Bool) (m m1 : M), FmAsks { mop := 0x0801, plain := true } src s m →
    m1 = m.on (·.at time) →
    (∀ c k, ok = true → m.core.boot.mgmt.keys ≠ [] → nonceOk m1.core nonce = true → m1.core.draw = (c, k) →
      does (.mgmtKeyEstablish src nonce ok time) s (accepted (m1.on (fun _ => loadSlot c 0 255 none
        (Config.kmac256 (Config.secret k) (ascii "mgmt" ++ natLe 2 c.chipId ++ natLe 32 nonce)))) src 0x0801)) ∧
    (ok = false ∨ m.core.boot.mgmt.keys = [] ∨ nonceOk m1.core nonce = false → does (.mgmtKeyEstablish src nonce ok time) s
      ((m1.on (fun c => c.count SEC_ESTABLISH_REFUSED)).on (fun c => mgmtReply c (realSrc src) 0x0801 .notPermitted [])))) ∧
  (∀ (s : State) (src : Src) (q nonce time : Nat) (m m1 : M), FmAsks { mop := 0x0802 } src s m → m1 = m.on (·.at time) → q < 16 →
    (∀ kek, kek = Config.kmac256 (Config.secret m1.core.draw.2) (ascii "part" ++ natLe 2 m1.core.chipId ++ natLe 1 q ++ natLe 32 nonce) →
      nonceOk m1.core nonce = true →
      (partState m1.core q = 2 → does (.partKeyEstablish src q nonce time) s (accepted (m1.on (fun c =>
        (setPartState (modSec c.draw.1 (fun v => { v with keks := amSet v.keks q kek })) q 2).setFld (SEC_PART q) SEC_PART_KEK 1))
        src 0x0802)) ∧
      (partState m1.core q = 1 → ∃ c, (∀ i, i < 6 → c.rget (SEC_M_PROG q i) = 0) ∧ partState c q = 2 ∧
        c.flag (SEC_PART q) SEC_PART_KEK = true ∧ c.sec = { m1.core.sec with keks := amSet m1.core.sec.keks q kek } ∧
        does (.partKeyEstablish src q nonce time) s (accepted (m1.on (fun _ => c)) src 0x0802))) ∧
    (nonceOk m1.core nonce = false → does (.partKeyEstablish src q nonce time) s
      ((m1.on (fun c => c.count SEC_ESTABLISH_REFUSED)).on (fun c => mgmtReply c (realSrc src) 0x0802 .notPermitted [])))) ∧
  (∀ (s : State) (src : Src) (slot owner time : Nat) (ok : Bool) (m m1 : M), FmAsks { mop := 0x0803 } src s m →
    m1 = m.on (·.at time) → slot < 4096 →
    ((owner = 255 ∧ (slotOwner m1.core 0).isSome = true) ∨
      (owner < 16 ∧ slot ≠ 0 ∧ slot ≠ 4095 ∧ partActive m1.core owner = true) → ok = true →
      ∀ c k key, m1.core.draw = (c, k) → key = BitVec.ofNat 256 (Config.secret k) →
      (slotOwner m1.core slot = some owner → does (.keyLoad src slot owner ok time) s (accepted (m1.on (fun _ =>
        loadSlot (c.count SEC_KEY_LOADS) slot owner (some (c.glb.now + 100000000)) key)) src 0x0803)) ∧
      (slotOwner m1.core slot = none → slot ≠ 0 → slot ≠ 4095 → does (.keyLoad src slot owner ok time) s (accepted
        (m1.on (fun _ => loadSlot (c.count SEC_KEY_LOADS) slot owner none key)) src 0x0803)) ∧
      (slotOwner m1.core slot = none → slot = 4095 → does (.keyLoad src slot owner ok time) s (accepted
        (m1.on (fun _ => joinNow (loadSlot (c.count SEC_KEY_LOADS) slot owner none key))) src 0x0803))) ∧
    (owner < 16 → slot = 0 ∨ slot = 4095 → does (.keyLoad src slot owner ok time) s
      ((m1.on (fun c => raise (c.count SEC_KEY_REFUSED) .secKeyRefused 0 0 slot)).on
        (fun c => mgmtReply c (realSrc src) 0x0803 .notPermitted []))) ∧
    (owner < 16 → slot ≠ 0 → slot ≠ 4095 → (∀ o, slotOwner m1.core slot = some o → o = owner) →
      (partActive m1.core owner = false → does (.keyLoad src slot owner ok time) s
        ((m1.on (fun c => raise (c.count SEC_KEY_REFUSED) .secKeyRefused 0 0 slot)).on
          (fun c => mgmtReply c (realSrc src) 0x0803 .badState []))) ∧
      (partActive m1.core owner = true → ok = false → does (.keyLoad src slot owner ok time) s
        ((m1.on (fun c => raise (c.count SEC_KEY_REFUSED) .secKeyRefused 0 0 slot)).on
          (fun c => mgmtReply c (realSrc src) 0x0803 .notPermitted [])))) ∧
    (owner = 255 → slot = 0 → slotOwner m1.core 0 = none → does (.keyLoad src slot owner ok time) s
      ((m1.on (fun c => raise (c.count SEC_KEY_REFUSED) .secKeyRefused 0 0 slot)).on
        (fun c => mgmtReply c (realSrc src) 0x0803 .badState []))) ∧
    (owner = 255 → (∀ o, slotOwner m1.core slot = some o → o = 255) → (slotOwner m1.core 0).isSome = true → ok = false →
      does (.keyLoad src slot owner ok time) s ((m1.on (fun c => raise (c.count SEC_KEY_REFUSED) .secKeyRefused 0 0 slot)).on
        (fun c => mgmtReply c (realSrc src) 0x0803 .notPermitted []))) ∧
    (∀ o, slotOwner m1.core slot = some o → o ≠ owner → owner = 255 ∨ (owner < 16 ∧ slot ≠ 0 ∧ slot ≠ 4095) →
      does (.keyLoad src slot owner ok time) s ((m1.on (fun c => raise (c.count SEC_KEY_REFUSED) .secKeyRefused 0 0 slot)).on
        (fun c => mgmtReply c (realSrc src) 0x0803 .conflict [])))) ∧
  (∀ (c : Core) (n owner : Nat) (old : Option Nat) (key : BitVec 256),
    amGet? (loadSlot c n owner old key).sec.slots n = some ⟨owner, old, key⟩ ∧
    amGet? (loadSlot c n owner old key).net.nonce n = some 0 ∧
    ∀ k, k ≠ n → slotOwner (loadSlot c n owner old key) k = slotOwner c k) ∧
  (∀ (s : State) (slot time : Nat) (c : Core) (v : KeySlot), powered s.core = true → c = s.core.at time →
    amGet? c.sec.slots slot = some v →
    (∀ t, v.oldUntil = some t → t ≤ c.glb.now → ∃ d, doesTo (.oldKeyExpiry slot time) s d ∧
      amGet? d.sec.slots slot = some { v with oldUntil := none }) ∧
    (∀ t, v.oldUntil = some t → c.glb.now < t → doesTo (.oldKeyExpiry slot time) s c) ∧
    (v.oldUntil = none → doesTo (.oldKeyExpiry slot time) s c)) ∧
  (∀ (key : W512) (tweak : Block) (b : List Byte), (b.length = 32 → openWord key tweak (sealWord key tweak b) = b) ∧
    sealWord key tweak (List.replicate 32 0) = List.replicate 32 0 ∧ openWord key tweak (List.replicate 32 0) = List.replicate 32 0) ∧
  (∀ (c : Core) (w : Nat) (data : List Byte), (∀ k t, sealOf c w = some (k, t) → storedWord c w data = sealWord k t data) ∧
    (∀ k t e, sealOf c w = some (k, t) → e.any (· != 0) = true →
      changeStored c w data e = openWord k t (xorBytes (sealWord k t data) e)) ∧
    (∀ e0 : List Byte, e0.all (· == 0) = true → changeStored c w data e0 = data)) ∧
  (∀ (s : State) (src : Src) (n : Nat) (m : M), FmAsks { mop := 0x0804 } src s m → n < 4096 →
    ((slotOwner m.core n).isSome = true → slotNamed m.core n = false → ∃ c, slotOwner c n = none ∧
      (∀ k, k ≠ n → slotOwner c k = slotOwner m.core k) ∧
      does (.keyUnload src n) s (accepted (m.on (fun _ => c)) src 0x0804)) ∧
    (slotNamed m.core n = true → does (.keyUnload src n) s (m.on (fun c => mgmtReply c (realSrc src) 0x0804 .badState []))))

/-- A partition is removed in the steps of Table 18-7; fuses burn once; programs are registered, bound and released, and the
partition's chain takes each (R400, R401, R408, R633, R647 to R650). Rests on the model's choices (assumptions 19, 76, 80). -/
def Obligations.PartitionsAndPrograms : Prop :=
  (∀ (s : State) (src : Src) (q : Nat) (m : M), FmAsks { mop := 0x0806 } src s m →
    (16 ≤ q → does (.partRemove src q) s (m.on (fun c => mgmtReply c (realSrc src) 0x0806 .badField []))) ∧
    (q < 16 → partState m.core q = 1 → does (.partRemove src q) s (accepted m src 0x0806 [0])) ∧
    (q < 16 → partState m.core q = 3 →
      does (.partRemove src q) s (accepted m src 0x0806 [m.core.fld (SEC_PART q) SEC_PART_REMOVE_STEP])) ∧
    (q < 16 → partState m.core q = 2 → ∀ m1 m2, m1 = m.on (fun c => freezeObjects (revokePart (destroyKeys c q) q) q) →
      m2 = (m1.core.coh.domains.filter (fun d => d.2.partition == q)).foldl (fun m d => goDown m d.1 7 none) m1 →
      does (.partRemove src q) s (accepted ((stripPart m2 q).on (fun c => setStep c q 4)) src 0x0806 [4]))) ∧
  (∀ (c : Core) (q : Nat), q < 16 → partState (destroyKeys c q) q = 3 ∧ (destroyKeys c q).flag (SEC_PART q) SEC_PART_KEK = false ∧
    amGet? (destroyKeys c q).sec.memKeys q = none ∧ amGet? (destroyKeys c q).sec.keks q = none ∧ (∀ x ∈ c.sec.slots, x.2.owner = q → slotOwner (destroyKeys c q) x.1 = none)) ∧
  (∀ (s : State) (q : Nat), inService s.core = true → q < 16 →
    (partState s.core q = 3 → s.core.fld (SEC_PART q) SEC_PART_REMOVE_STEP = 4 → partRetired s.core q = true →
      (∀ d ∈ s.core.coh.domains, d.2.partition = q → d.2.st ≠ .draining) → ∃ c, doesTo (.removalRetired q) s c ∧
      c.fld (SEC_PART q) SEC_PART_REMOVE_STEP = 5 ∧ (∀ t ∈ c.work.tables, t.2.partition ≠ q) ∧
      (∀ n ∈ assignedCe s.core q, ∀ e, amGet? s.core.work.engines n = some e → amGet? c.work.engines n = some (blankEngine e)) ∧
      (∀ x ∈ c.rasp.scratch, thrCluster x.1 ∉ assignedRsp s.core q)) ∧
    (partState s.core q = 3 → s.core.fld (SEC_PART q) SEC_PART_REMOVE_STEP = 4 → partRetired s.core q = true →
      ∃ c : Core, c.coh = s.core.coh ∧ (∀ t ∈ c.work.tables, t.2.partition ≠ q) ∧ doesTo (.removalRetired q) s (setStep
        ((c.coh.domains.filter (fun d => d.2.partition == q && d.2.st == .draining)).foldl (fun c d => domainDown c d.1) c) q 5)) ∧
    (partRetired s.core q = false → doesTo (.removalRetired q) s s.core)) ∧
  (∀ (s : State) (q : Nat), inService s.core = true → q < 16 → partState s.core q = 3 →
    (s.core.fld (SEC_PART q) SEC_PART_REMOVE_STEP = 5 → ∃ c, doesTo (.partRemoved q) s c ∧ partState c q = 1 ∧
      c.fld (SEC_PART q) SEC_PART_REMOVE_STEP = 0 ∧ amGet? c.sec.memKeys q = some (freeObjects s.core q).glb.draws) ∧
    (s.core.fld (SEC_PART q) SEC_PART_REMOVE_STEP ≠ 5 → doesTo (.partRemoved q) s s.core)) ∧
  (∀ (s : State) (src : Src) (ed mldsa : Nat) (m : M), FmAsks { mop := 0x0807, recovery := true } src s m →
    (m.core.sec.fuses.ownerKh = none → ∃ c, c.sec.fuses.ownerKh = some (Config.sha3 (natLe 32 ed ++ natLe 1952 mldsa)) ∧
      c.sec.fuses.svnMin = m.core.sec.fuses.svnMin ∧
      does (.ownerProvision src ed mldsa) s (accepted (m.on (fun _ => c)) src 0x0807)) ∧
    (m.core.sec.fuses.ownerKh ≠ none →
      does (.ownerProvision src ed mldsa) s (m.on (fun c => mgmtReply c (realSrc src) 0x0807 .badState [])))) ∧
  (∀ (s : State) (src : Src) (part slot e off size : Nat) (image : W64) (m m1 m2 : M) (x : Extent) (b all : List Byte)
    (ps ps2 : List Bool) (p : ProgSlot), Asks { mop := 0x0160 } src s m → part < 16 → slot < 256 → partActive m.core part = true →
    e = ptrExtent image → off = ptrOffset image → agentMay m.core (realSrc src) e true = true →
    amGet? m.core.rasp.slots (handleOf part slot) = none → ptrChip image = m.core.chipId → ext? m.core e = some x →
    x.st = .active → x.partition = part → readBytes m (part % 4) e off 128 = (m1, .got b ps) → ps.any id = false →
    size = 0x80 + leNat ((b.drop 8).take 4) → off + 128 ≤ extBytes x → off + size ≤ extBytes x →
    readBytes m1 (part % 4) e off size = (m2, .got all ps2) → ps2.any id = false →
    progHeader image b (digestWords (Config.sha3 all)) = some p →
    does (.progRegister src part slot image) s (accepted ((m2.on (fun c => { c with rasp := { c.rasp with
      slots := amSet c.rasp.slots (handleOf part slot) p } })).on (fun c => chainProgram c part 1 slot 0 p.digest)) src 0x0160
      (handleOf part slot :: (digestWords (Config.sha3 all)).map (·.toNat)))) ∧
  (∀ (s : State) (src : Src) (part slot : Nat) (image : W64) (m : M), Asks { mop := 0x0160 } src s m → part < 16 →
    partActive m.core part = false →
    does (.progRegister src part slot image) s (m.on (fun c => mgmtReply c (realSrc src) 0x0160 .badState []))) ∧
  (∀ (c : Core) (q k slot op : Nat) (l : List W64) (i : Nat), q < 16 → i < 6 → (chainProgram c q k slot op l).rget (SEC_M_PROG q i) =
    w64 (Config.sha3 (digestBytes c (SEC_M_PROG q) ++ natLe 1 k ++ natLe 1 slot ++ natLe 1 op ++
      l.flatMap (fun w => natLe 8 w.toNat)) / 2 ^ (64 * i))) ∧
  (∀ (s : State) (src : Src) (h : Nat) (m : M), Asks { mop := 0x0161 } src s m →
    (∀ p, amGet? m.core.rasp.slots h = some p → agentMay m.core (realSrc src) (ptrExtent p.image) true = true →
      does (.progUnregister src h) s (accepted (m.on (fun c => dropSlot c h)) src 0x0161)) ∧
    (amGet? m.core.rasp.slots h = none → srcFm (realSrc src) = true →
      does (.progUnregister src h) s (m.on (fun c => mgmtReply c (realSrc src) 0x0161 .badField [])))) ∧
  (∀ (c : Core) (h : Nat), amGet? (dropSlot c h).rasp.slots h = none ∧ ∀ b ∈ (dropSlot c h).rasp.binds, b.2.slot ≠ h) ∧
  (∀ (s : State) (src : Src) (part op h insts win : Nat) (m : M) (p : ProgSlot), FmAsks { mop := 0x0162 } src s m → part < 16 →
    partActive m.core part = true → (1 ≤ op ∧ op ≤ 8) ∨ op = 0x11 ∨ op = 0x12 → h < 4096 → h / 256 = part →
    amGet? m.core.rasp.slots h = some p → 1 ≤ insts → insts ≤ 1024 → win % 32 = 0 → win ≤ 4194304 →
    does (.progBind src part op h insts win) s (accepted ((m.on (fun c => { c with rasp := { c.rasp with
      binds := amSet c.rasp.binds (part * 64 + op) ⟨h, insts, win⟩ } })).on (fun c =>
        chainProgram c part 2 (h % 256) op p.digest)) src 0x0162)) ∧
  (∀ (s : State) (src : Src) (part op : Nat) (m : M), FmAsks { mop := 0x0163 } src s m → part < 16 → bindable op = true →
    (∀ b, amGet? m.core.rasp.binds (part * 64 + op) = some b → ∃ c, amGet? c.rasp.binds (part * 64 + op) = none ∧
      c.rasp.slots = m.core.rasp.slots ∧ does (.progUnbind src part op) s (accepted (m.on (fun _ => c)) src 0x0163)) ∧
    (amGet? m.core.rasp.binds (part * 64 + op) = none →
      does (.progUnbind src part op) s (m.on (fun c => mgmtReply c (realSrc src) 0x0163 .badState []))))

/-! ### The block as a whole -/

/-- The command at the front of the queue is executed on the block with the rest of the queue; an empty queue idles (the model's choice,
assumption 2); every command, in every state, answers a next state and touches no waiting command. -/
def Obligations.CommandsRunInOrder : Prop :=
  (∀ (s : State) (i : Instr) (rest : List Instr), s.pending = i :: rest → step s = exec i { s with pending := rest }) ∧
  (∀ s : State, s.pending = [] → step s = .next s) ∧
  (∀ (i : Instr) (s : State), ∃ t, exec i s = .next t ∧ t.pending = s.pending)

/-- Every step keeps the memory of the stacks in canonical form, whatever the state; what a canonical memory reads as determines it, and
bringing a memory into that form changes no byte and no check bits. Rests on the model's choices (assumption 10). -/
def Obligations.MemoryStaysCanonical : Prop :=
  (∀ s t : State, s.memOk → step s = .next t → t.memOk) ∧
  (∀ (i : Instr) (s t : State), exec i s = .next t → t.memOk) ∧
  (∀ a b : Mem, a.wf = true → b.wf = true → (∀ x, a.byte x = b.byte x) → (∀ w, a.checks w = b.checks w) → a = b) ∧
  (∀ (m : Mem) (x : Nat), m.norm.byte x = m.byte x ∧ m.norm.checks x = m.checks x) ∧
  (∀ (m : Mem) (x y : Nat) (b : Byte), m.wf = true → (m.setByte x b).wf = true ∧ (m.setByte x b).byte x = b ∧
    (y ≠ x → (m.setByte x b).byte y = m.byte y))

/-- Every instruction word that is not reserved is read back as written, and every word that decodes is the word of its instruction
(R371, R372): no bit is dropped, and two instructions never share a word. Rests on the model's choices (assumption 45). -/
def Obligations.RaspWordsRoundTrip : Prop :=
  (∀ i : RIns, i.legal = true → encodeRasp i < 2 ^ 32 ∧ decodeRasp (encodeRasp i) = some i) ∧
  (∀ (w : Nat) (i : RIns), w < 2 ^ 32 → decodeRasp w = some i → i.legal = true ∧ encodeRasp i = w) ∧
  (∀ i j : RIns, i.legal = true → j.legal = true → encodeRasp i = encodeRasp j → i = j) ∧
  decodeRasp 0 = none

/-- Right after reset: the memory is in canonical form with nothing listed, no command waits, nothing is granted or open, and the
registers hold the values of their tables. Rests on the model's choices (assumptions 1, 10). -/
def Obligations.ResetState : Prop :=
  State.reset.memOk ∧ State.reset.mem.cells = [] ∧ State.reset.pending = [] ∧ State.reset.core.ext.exts = [] ∧
  State.reset.core.sec.slots = [] ∧ State.reset.core.net.sessions = [] ∧ State.reset.core.tick = 0 ∧
  (∀ x ∈ [(TCK_CONFIG, TCK_CONFIG_PERIOD_US, 100), (EXT_QUOTA, EXT_QUOTA_WAIT_TICKS, 10), (MAC_MAX_FRAME 3, MAC_MAX_FRAME_BYTES, 9216),
      (MEM_CTRL 1 2, MEM_CTRL_WR_HIGH, 48), (MEM_CTRL 1 2, MEM_CTRL_WR_LOW, 16), (RING_FWD, RING_FWD_TIMEOUT_TICKS, 3),
      (FZT_TIMER1, FZT_TIMER1_GRACE_MS, 10), (ECC_SCRUB, ECC_SCRUB_PASS_HOURS, 24), (TCK_STATUS, TCK_STATUS_STATE, 3),
      (SCH_PART 5 7, SCH_PART_WEIGHT, 64)], State.reset.core.fld x.1 x.2.1 = x.2.2)
end

