-- ==== Sys2Proof/Laws/Issue.lean ====
section
/-! SUPPORT. What an issuing instruction does, by the outcome of its body. -/

namespace Sys2Proof.Machine
open Sys2Proof

/-- What a thread does, between taking its op tag and codebooks and giving them back. -/
theorem asThread_eq {t : Nat} {th : Thread} {m : M} (f : M → M) (h : thr? m.core t = some th) :
    asThread t f m = leftBy m th (f (seenBy m th)) := by
  unfold asThread
  simp only [h]
  unfold underTag withBooks leftBy seenBy
  cases th.books <;> rfl

/-- A thread that may issue is one of the chip. -/
theorem mayIssue_thr {c : Core} {t : Nat} {th : Thread} {p : ProgRun} (h : mayIssue c t = some (th, p)) : thr? c t = some th := by
  unfold mayIssue at h
  split at h
  · rename_i x hx
    split at h
    · split at h
      · split at h
        · rw [hx]; simp only [Option.some.injEq, Prod.mk.injEq] at h; rw [h.1]
        · cases h
      · cases h
    · cases h
  · cases h

/-- The driver of instructions once the word is fetched, of one that posts a block. -/
theorem post_word {s : State} {t : Nat} {i : RIns} {th : Thread} {p : ProgRun} {m m' : M} {o : Out} (h : Issues s t i th p m)
    {body : M → Thread → M × Option Out} (hb : body m th = (m', some o)) :
    ∃ w, fetchWord (seenBy s.m th) t th p = (m, .word w) ∧
      served (issuePost t i body) s.m = leftBy s.m th (finishIssue t w p m' o) := by
  obtain ⟨w, hf, hd⟩ := h.fetched
  refine ⟨w, hf, ?_⟩
  have hp : ¬ p.codeBytes ≤ th.pc := Nat.not_le.mpr h.inside
  simp only [served, h.serves, issuePost, h.legal, issueWhen, h.may, hp, if_true, if_false]
  rw [asThread_eq _ (mayIssue_thr h.may)]
  simp only [hf, hd, hb, beq_self_eq_true, if_true]

/-- The same of every other. -/
theorem issue_word {s : State} {t : Nat} {i : RIns} {th : Thread} {p : ProgRun} {m : M} (h : Issues s t i th p m)
    (body : M → Thread → M × Out) :
    ∃ w, fetchWord (seenBy s.m th) t th p = (m, .word w) ∧
      served (issue t i body) s.m = leftBy s.m th (finishIssue t w p (body m th).1 (body m th).2) :=
  post_word h rfl

/-- A posting instruction that completes: the thread goes on behind it. -/
theorem post_next {s : State} {t : Nat} {i : RIns} {th th' : Thread} {p : ProgRun} {m m' : M} (h : Issues s t i th p m)
    {body : M → Thread → M × Option Out} (hb : body m th = (m', some (.next th'))) (hs : (thr? m'.core t).isSome = true) :
    runServed (issuePost t i body) s = .next (settled s (leftBy s.m th (advance m' t th'))) := by
  obtain ⟨w, -, hw⟩ := post_word h hb
  obtain ⟨x, hx⟩ := Option.isSome_iff_exists.mp hs
  simp only [State.m] at hw
  rw [runServed, run, hw]
  simp only [State.m, finishIssue, hx, advance]

/-- The step of an instruction whose body's outcome takes effect as `m'`. -/
theorem issue_does {s : State} {t : Nat} {i : RIns} {th : Thread} {p : ProgRun} {m m' : M} (h : Issues s t i th p m)
    {body : M → Thread → M × Out} (hb : ∀ w, finishIssue t w p (body m th).1 (body m th).2 = m') :
    runServed (issue t i body) s = .next (settled s (leftBy s.m th m')) := by
  obtain ⟨w, -, hw⟩ := issue_word h body
  rw [hb] at hw
  rw [runServed, run, ← hw]

/-- An instruction that completes: the thread goes on behind it. -/
theorem issue_next {s : State} {t : Nat} {i : RIns} {th th' : Thread} {p : ProgRun} {m m' : M} (h : Issues s t i th p m)
    {body : M → Thread → M × Out} (hb : body m th = (m', .next th')) (hs : (thr? m'.core t).isSome = true) :
    runServed (issue t i body) s = .next (settled s (leftBy s.m th (advance m' t th'))) := by
  obtain ⟨x, hx⟩ := Option.isSome_iff_exists.mp hs
  exact issue_does h (fun w => by simp only [hb, finishIssue, hx, advance])

/-- A jump to an aligned place in the code. -/
theorem issue_jump {s : State} {t : Nat} {i : RIns} {th th' : Thread} {p : ProgRun} {m m' : M} {pc : Nat} (h : Issues s t i th p m)
    {body : M → Thread → M × Out} (hb : body m th = (m', .jump th' pc)) (hs : (thr? m'.core t).isSome = true)
    (hpc : pc < p.codeBytes) (hal : pc % 4 = 0) :
    runServed (issue t i body) s = .next (settled s (leftBy s.m th (jumped m' t th' pc))) := by
  obtain ⟨x, hx⟩ := Option.isSome_iff_exists.mp hs
  exact issue_does h (fun w => by
    simp only [hb, finishIssue, hx, jumped, Nat.not_le.mpr hpc, if_false, hal, ne_eq, not_true_eq_false])

/-- An instruction that ends its thread within its own effect. -/
theorem issue_gone {s : State} {t : Nat} {i : RIns} {th : Thread} {p : ProgRun} {m m' : M} (h : Issues s t i th p m)
    {body : M → Thread → M × Out} (hb : body m th = (m', .gone)) :
    runServed (issue t i body) s = .next (settled s (leftBy s.m th m')) :=
  issue_does h (fun w => by simp only [hb, finishIssue]; cases thr? m'.core t <;> rfl)

/-- An instruction that waits. -/
theorem issue_wait {s : State} {t : Nat} {i : RIns} {th : Thread} {p : ProgRun} {m m' : M} {k : ThreadWait} (h : Issues s t i th p m)
    {body : M → Thread → M × Out} (hb : body m th = (m', .wait k)) (hs : (thr? m'.core t).isSome = true) :
    runServed (issue t i body) s =
      .next (settled s (leftBy s.m th (m'.on (fun c => modThr c t (fun th => { th with wait := k }))))) := by
  obtain ⟨x, hx⟩ := Option.isSome_iff_exists.mp hs
  exact issue_does h (fun w => by simp only [hb, finishIssue, hx])

/-- An instruction that parks its thread. -/
theorem issue_park {s : State} {t : Nat} {i : RIns} {th : Thread} {p : ProgRun} {m m' : M} {k : ParkCause} (h : Issues s t i th p m)
    {body : M → Thread → M × Out} (hb : body m th = (m', .park k)) (hs : (thr? m'.core t).isSome = true) :
    runServed (issue t i body) s = .next (settled s (leftBy s.m th (m'.on (fun c => parkThread c t k)))) := by
  obtain ⟨x, hx⟩ := Option.isSome_iff_exists.mp hs
  exact issue_does h (fun w => by simp only [hb, finishIssue, hx])

/-- An instruction that traps: the trap is taken with the word that was fetched. -/
theorem issue_trap {s : State} {t : Nat} {i : RIns} {th : Thread} {p : ProgRun} {m m' : M} {x : Trap} (h : Issues s t i th p m)
    {body : M → Thread → M × Out} (hb : body m th = (m', .trap x)) (hs : (thr? m'.core t).isSome = true) :
    ∃ w, fetchWord (seenBy s.m th) t th p = (m, .word w) ∧
      runServed (issue t i body) s = .next (settled s (leftBy s.m th (takeTrap m' t w x))) := by
  obtain ⟨w, hf, hw⟩ := issue_word h body
  obtain ⟨y, hy⟩ := Option.isSome_iff_exists.mp hs
  refine ⟨w, hf, ?_⟩
  rw [runServed, run]
  simp only [State.m] at hw
  rw [hw]
  simp only [hb, finishIssue, hy]

end Sys2Proof.Machine
end

