-- ==== Sys2Proof/Laws/Maps.lean ====
section
/-! SUPPORT. Sparse collections: what is read after a write, and that operations keep the canonical form. -/

namespace Sys2Proof.Machine
open Sys2Proof

variable {α : Type}

@[simp] theorem amGet?_nil (k : Nat) : amGet? ([] : AMap α) k = none := rfl

/-- A value written is read back, whatever the order of the keys. -/
@[simp] theorem amGet?_amSet_self (m : AMap α) (k : Nat) (v : α) : amGet? (amSet m k v) k = some v := by
  induction m with
  | nil => simp [amSet, amGet?]
  | cons e t ih =>
    obtain ⟨j, w⟩ := e
    unfold amSet
    split
    · simp [amGet?]
    · split
      · simp [amGet?]
      · rename_i h1 h2
        simp [amGet?, ih, Ne.symm h2]

/-- A write leaves every other key alone. -/
theorem amGet?_amSet_ne (m : AMap α) {k l : Nat} (v : α) (h : l ≠ k) : amGet? (amSet m k v) l = amGet? m l := by
  induction m with
  | nil => simp [amSet, amGet?, Ne.symm h]
  | cons e t ih =>
    obtain ⟨j, w⟩ := e
    unfold amSet
    split
    · simp [amGet?, Ne.symm h]
    · split
      · rename_i h2; subst h2; simp [amGet?, Ne.symm h]
      · simp [amGet?, ih]

@[simp] theorem amGet?_amDel_self (m : AMap α) (k : Nat) : amGet? (amDel m k) k = none := by
  induction m with
  | nil => rfl
  | cons e t ih =>
    obtain ⟨j, w⟩ := e
    by_cases h : j = k
    · subst h; simpa [amDel] using ih
    · have : amDel ((j, w) :: t) k = (j, w) :: amDel t k := by simp [amDel, h]
      rw [this]; simp [amGet?, h, ih]

theorem amGet?_amDel_ne (m : AMap α) {k l : Nat} (h : l ≠ k) : amGet? (amDel m k) l = amGet? m l := by
  induction m with
  | nil => rfl
  | cons e t ih =>
    obtain ⟨j, w⟩ := e
    by_cases hj : j = k
    · subst hj
      have : amDel ((j, w) :: t) j = amDel t j := by simp [amDel]
      rw [this, ih]; simp [amGet?, Ne.symm h]
    · have : amDel ((j, w) :: t) k = (j, w) :: amDel t k := by simp [amDel, hj]
      rw [this]; simp [amGet?, ih]

theorem amGet?_amMod (m : AMap α) (k l : Nat) (f : α → α) :
    amGet? (amMod m k f) l = if l = k then (amGet? m k).map f else amGet? m l := by
  induction m with
  | nil => simp [amMod]
  | cons e t ih =>
    obtain ⟨j, w⟩ := e
    simp only [amMod, List.map_cons] at *
    by_cases hj : j = k
    · by_cases h : l = k
      · subst h; simp [hj, amGet?]
      · simp [hj, amGet?, h, ih, Ne.symm h]
    · by_cases h : l = k
      · subst h; simp [hj, amGet?, ih]
      · simp [hj, amGet?, h, ih]

@[simp] theorem amGet_amPut_self [DecidableEq α] (d : α) (m : AMap α) (k : Nat) (v : α) : amGet (amPut d m k v) k d = v := by
  unfold amPut amGet
  split
  · simp_all
  · simp

theorem amGet_amPut_ne [DecidableEq α] (d : α) (m : AMap α) {k l : Nat} (v : α) (h : l ≠ k) :
    amGet (amPut d m k v) l d = amGet m l d := by
  unfold amPut amGet
  split
  · rw [amGet?_amDel_ne m h]
  · rw [amGet?_amSet_ne m v h]

/-! ### The canonical form -/

/-- Rising keys as pairwise order. -/
theorem amRising_iff (m : AMap α) : amRising m = true ↔ m.Pairwise (fun a b => a.1 < b.1) := by
  induction m with
  | nil => simp [amRising]
  | cons e t ih =>
    obtain ⟨j, w⟩ := e
    cases t with
    | nil => simp [amRising]
    | cons f r =>
      obtain ⟨k, v⟩ := f
      simp only [amRising, Bool.and_eq_true, decide_eq_true_eq, ih, List.pairwise_cons]
      constructor
      · rintro ⟨h, h2, h3⟩
        refine ⟨?_, h2, h3⟩
        intro a ha
        rcases List.mem_cons.mp ha with rfl | ha
        · exact h
        · exact Nat.lt_trans h (h2 a ha)
      · rintro ⟨h, h2, h3⟩
        exact ⟨h (k, v) (by simp), h2, h3⟩

theorem amSet_mem (m : AMap α) (k : Nat) (v : α) (e : Nat × α) (h : e ∈ amSet m k v) : e = (k, v) ∨ e ∈ m := by
  induction m with
  | nil => simpa [amSet] using h
  | cons x t ih =>
    obtain ⟨j, w⟩ := x
    unfold amSet at h
    split at h
    · simpa using h
    · split at h
      · rcases List.mem_cons.mp h with h | h
        · exact .inl h
        · exact .inr (List.mem_cons_of_mem _ h)
      · rcases List.mem_cons.mp h with h | h
        · exact .inr (h ▸ List.mem_cons_self)
        · exact (ih h).imp_right (List.mem_cons_of_mem _)

theorem amSet_rising (m : AMap α) (k : Nat) (v : α) (h : amRising m = true) : amRising (amSet m k v) = true := by
  rw [amRising_iff] at *
  induction m with
  | nil => simp [amSet]
  | cons x t ih =>
    obtain ⟨j, w⟩ := x
    rw [List.pairwise_cons] at h
    unfold amSet
    split
    · rename_i hk
      refine List.pairwise_cons.mpr ⟨?_, List.pairwise_cons.mpr h⟩
      intro a ha
      rcases List.mem_cons.mp ha with rfl | ha
      · exact hk
      · exact Nat.lt_trans hk (h.1 a ha)
    · split
      · rename_i hk; subst hk; exact List.pairwise_cons.mpr h
      · rename_i h1 h2
        refine List.pairwise_cons.mpr ⟨?_, ih h.2⟩
        intro a ha
        rcases amSet_mem t k v a ha with rfl | ha
        · exact Nat.lt_of_le_of_ne (Nat.not_lt.mp h1) (Ne.symm h2)
        · exact h.1 a ha

theorem filter_rising (m : AMap α) (p : Nat × α → Bool) (h : amRising m = true) : amRising (m.filter p) = true := by
  rw [amRising_iff] at *
  exact h.sublist List.filter_sublist

/-- Filtering keeps the canonical form. -/
theorem filter_canon [DecidableEq α] (d : α) (m : AMap α) (p : Nat × α → Bool) (h : amCanon d m = true) :
    amCanon d (m.filter p) = true := by
  simp only [amCanon, Bool.and_eq_true, List.all_eq_true] at *
  exact ⟨filter_rising m p h.1, fun x hx => h.2 x ((List.mem_filter.mp hx).1)⟩

/-- A write keeps the canonical form. -/
theorem amPut_canon [DecidableEq α] (d : α) (m : AMap α) (k : Nat) (v : α) (h : amCanon d m = true) :
    amCanon d (amPut d m k v) = true := by
  unfold amPut
  split
  · exact filter_canon d m _ h
  · rename_i hv
    simp only [amCanon, Bool.and_eq_true, List.all_eq_true] at *
    refine ⟨amSet_rising m k v h.1, fun x hx => ?_⟩
    rcases amSet_mem m k v x hx with rfl | hx
    · simpa using hv
    · exact h.2 x hx

/-- The form that `amNorm` brings a collection to. -/
theorem amNorm_canon [DecidableEq α] (d : α) (m : AMap α) : amCanon d (amNorm d m) = true := by
  induction m with
  | nil => simp [amNorm, amCanon, amRising]
  | cons e t ih => exact amPut_canon d _ e.1 e.2 ih

theorem amSet_front (m : AMap α) (k : Nat) (v : α) (h : ∀ e ∈ m, k < e.1) : amSet m k v = (k, v) :: m := by
  cases m with
  | nil => rfl
  | cons x t => obtain ⟨j, w⟩ := x; simp [amSet, h (j, w) List.mem_cons_self]

/-- A canonical collection is itself. -/
theorem amNorm_of_canon [DecidableEq α] (d : α) (m : AMap α) (h : amCanon d m = true) : amNorm d m = m := by
  induction m with
  | nil => rfl
  | cons e t ih =>
    simp only [amCanon, Bool.and_eq_true, List.all_eq_true, amRising_iff, List.pairwise_cons] at h ih
    have ht : amNorm d t = t := ih ⟨h.1.2, fun x hx => h.2 x (List.mem_cons_of_mem _ hx)⟩
    have he : e.2 ≠ d := by simpa using h.2 e List.mem_cons_self
    have : amNorm d (e :: t) = amPut d (amNorm d t) e.1 e.2 := rfl
    rw [this, ht, amPut, if_neg he, amSet_front t e.1 e.2 h.1.1]

end Sys2Proof.Machine
end

