-- ==== Sys2Proof/Laws/Memory.lean ====
section
/-! SUPPORT. The memory of the stacks: a byte written is read back, every other byte stays, and every operation keeps the canonical
form. -/

namespace Sys2Proof.Machine
open Sys2Proof

@[simp] theorem Mem.byte_setByte_self (m : Mem) (a : Nat) (b : Byte) : (m.setByte a b).byte a = b := amGet_amPut_self 0 m.cells a b

theorem Mem.byte_setByte_ne (m : Mem) {a x : Nat} (b : Byte) (h : x ≠ a) : (m.setByte a b).byte x = m.byte x :=
  amGet_amPut_ne 0 m.cells b h

@[simp] theorem Mem.checks_setByte (m : Mem) (a w : Nat) (b : Byte) : (m.setByte a b).checks w = m.checks w := rfl

/-- The bytes of a run are read back. -/
theorem Mem.byte_setBytes (l : List Byte) : ∀ (m : Mem) (a x : Nat),
    (m.setBytes a l).byte x = if a ≤ x ∧ x < a + l.length then l.getD (x - a) 0 else m.byte x := by
  induction l with
  | nil => intro m a x; simp [Mem.setBytes] <;> omega
  | cons b t ih =>
    intro m a x
    rw [Mem.setBytes, ih]
    by_cases h1 : x = a
    · subst h1; simp <;> omega
    · by_cases h2 : a + 1 ≤ x ∧ x < a + 1 + t.length
      · have : a ≤ x ∧ x < a + (b :: t).length := by simp only [List.length_cons]; omega
        rw [if_pos h2, if_pos this]
        have : x - a = (x - (a + 1)) + 1 := by omega
        rw [this, List.getD_cons_succ]
      · have : ¬ (a ≤ x ∧ x < a + (b :: t).length) := by simp only [List.length_cons]; omega
        rw [if_neg h2, if_neg this, Mem.byte_setByte_ne m b h1]

@[simp] theorem Mem.delta_setBytes (l : List Byte) : ∀ (m : Mem) (a : Nat), (m.setBytes a l).delta = m.delta := by
  induction l with
  | nil => intro m a; rfl
  | cons b t ih => intro m a; rw [Mem.setBytes, ih]; rfl

@[simp] theorem Mem.checks_setWord_self (m : Mem) (w : Nat) (l : List Byte) (d : W32) : (m.setWord w l d).checks w = d := by
  simp [Mem.checks, Mem.setWord]

theorem Mem.checks_setWord_ne (m : Mem) {w x : Nat} (l : List Byte) (d : W32) (h : x ≠ w) :
    (m.setWord w l d).checks x = m.checks x := by
  simp [Mem.checks, Mem.setWord, amGet_amPut_ne _ _ _ h]

/-! ### The canonical form -/

theorem Mem.setByte_wf (m : Mem) (a : Nat) (b : Byte) (h : m.wf = true) : (m.setByte a b).wf = true := by
  simp only [Mem.wf, Bool.and_eq_true] at *
  exact ⟨amPut_canon 0 m.cells a b h.1, h.2⟩

theorem Mem.setBytes_wf (l : List Byte) : ∀ (m : Mem) (a : Nat), m.wf = true → (m.setBytes a l).wf = true := by
  induction l with
  | nil => intro m a h; exact h
  | cons b t ih => intro m a h; exact ih _ _ (Mem.setByte_wf m a b h)

theorem Mem.setWord_wf (m : Mem) (w : Nat) (l : List Byte) (d : W32) (h : m.wf = true) : (m.setWord w l d).wf = true := by
  have h1 := Mem.setBytes_wf (padTo 32 0 l) m (w * 32) h
  simp only [Mem.wf, Mem.setWord, Bool.and_eq_true] at *
  exact ⟨h1.1, amPut_canon 0 _ w d h1.2⟩

theorem Mem.clear_wf (m : Mem) (lo hi : Nat) (h : m.wf = true) : (m.clear lo hi).wf = true := by
  simp only [Mem.wf, Mem.clear, Bool.and_eq_true] at *
  exact ⟨filter_canon 0 _ _ h.1, filter_canon 0 _ _ h.2⟩

theorem Mem.norm_wf (m : Mem) : m.norm.wf = true := by
  simp [Mem.wf, Mem.norm, amNorm_canon]

/-- A canonical memory is itself. -/
theorem Mem.norm_of_wf (m : Mem) (h : m.wf = true) : m.norm = m := by
  simp only [Mem.wf, Bool.and_eq_true] at h
  unfold Mem.norm
  rw [amNorm_of_canon 0 m.cells h.1, amNorm_of_canon 0 m.delta h.2]

end Sys2Proof.Machine
end

