-- ==== Sys2Proof/Laws/Regs.lean ====
section
/-! SUPPORT. Registers: a field written is read back, and every other field and register stays. -/

namespace Sys2Proof.Machine
open Sys2Proof

/-! ### Bit fields (R5) -/

theorem setBits_split {hi lo : Nat} (h : lo ≤ hi) (v x : Nat) :
    setBits v hi lo x = (v / 2 ^ (hi + 1) * 2 ^ (hi - lo + 1) + x % 2 ^ (hi - lo + 1)) * 2 ^ lo + v % 2 ^ lo := by
  have e : 2 ^ (hi + 1) = 2 ^ (hi - lo + 1) * 2 ^ lo := by rw [← Nat.pow_add]; congr 1; omega
  unfold setBits
  rw [e, Nat.add_mul, Nat.mul_assoc]

theorem setBits_lt {hi lo : Nat} (h : lo ≤ hi) (hh : hi < 64) (v x : Nat) (hv : v < 2 ^ 64) : setBits v hi lo x < 2 ^ 64 := by
  have e : 2 ^ 64 = 2 ^ (63 - hi) * 2 ^ (hi + 1) := by rw [← Nat.pow_add]; congr 1; omega
  have e2 : 2 ^ (hi + 1) = 2 ^ (hi - lo + 1) * 2 ^ lo := by rw [← Nat.pow_add]; congr 1; omega
  have h1 : v / 2 ^ (hi + 1) < 2 ^ (63 - hi) := by
    rw [Nat.div_lt_iff_lt_mul (Nat.two_pow_pos _), ← e]; exact hv
  have h2 : x % 2 ^ (hi - lo + 1) < 2 ^ (hi - lo + 1) := Nat.mod_lt _ (Nat.two_pow_pos _)
  have h3 : v % 2 ^ lo < 2 ^ lo := Nat.mod_lt _ (Nat.two_pow_pos _)
  have h4 : x % 2 ^ (hi - lo + 1) * 2 ^ lo + v % 2 ^ lo < 2 ^ (hi + 1) := by
    rw [e2]
    calc x % 2 ^ (hi - lo + 1) * 2 ^ lo + v % 2 ^ lo < x % 2 ^ (hi - lo + 1) * 2 ^ lo + 2 ^ lo := by omega
      _ = (x % 2 ^ (hi - lo + 1) + 1) * 2 ^ lo := by rw [Nat.add_mul, Nat.one_mul]
      _ ≤ 2 ^ (hi - lo + 1) * 2 ^ lo := Nat.mul_le_mul_right _ h2
  have h5 : (v / 2 ^ (hi + 1) + 1) * 2 ^ (hi + 1) ≤ 2 ^ 64 := by rw [e]; exact Nat.mul_le_mul_right _ h1
  rw [Nat.add_mul, Nat.one_mul] at h5
  unfold setBits
  omega

theorem bitsOf_setBits_self {hi lo : Nat} (h : lo ≤ hi) (v x : Nat) : bitsOf (setBits v hi lo x) hi lo = x % 2 ^ (hi - lo + 1) := by
  rw [setBits_split h, bitsOf]
  have h3 : v % 2 ^ lo < 2 ^ lo := Nat.mod_lt _ (Nat.two_pow_pos _)
  rw [Nat.add_comm, Nat.add_mul_div_right _ _ (Nat.two_pow_pos _), Nat.div_eq_of_lt h3, Nat.zero_add, Nat.add_comm,
    Nat.add_mul_mod_self_right, Nat.mod_mod]

theorem setBits_mod {hi lo : Nat} (h : lo ≤ hi) (v x : Nat) : setBits v hi lo x % 2 ^ lo = v % 2 ^ lo := by
  rw [setBits_split h, Nat.add_comm, Nat.add_mul_mod_self_right, Nat.mod_mod]

theorem setBits_div {hi lo : Nat} (h : lo ≤ hi) (v x : Nat) : setBits v hi lo x / 2 ^ (hi + 1) = v / 2 ^ (hi + 1) := by
  have e2 : 2 ^ (hi + 1) = 2 ^ lo * 2 ^ (hi - lo + 1) := by rw [← Nat.pow_add]; congr 1; omega
  have h3 : v % 2 ^ lo < 2 ^ lo := Nat.mod_lt _ (Nat.two_pow_pos _)
  have h2 : x % 2 ^ (hi - lo + 1) < 2 ^ (hi - lo + 1) := Nat.mod_lt _ (Nat.two_pow_pos _)
  rw [e2, ← Nat.div_div_eq_div_mul, ← Nat.div_div_eq_div_mul, setBits_split h, Nat.add_comm,
    Nat.add_mul_div_right _ _ (Nat.two_pow_pos _), Nat.div_eq_of_lt h3, Nat.zero_add, Nat.add_comm,
    Nat.add_mul_div_right _ _ (Nat.two_pow_pos _), Nat.div_eq_of_lt h2, Nat.zero_add, e2, ← Nat.div_div_eq_div_mul]

/-- A field above another is untouched by a write of that other. -/
theorem bitsOf_setBits_above {hi lo h2 l2 : Nat} (h : lo ≤ hi) (hd : hi < l2) (v x : Nat) :
    bitsOf (setBits v hi lo x) h2 l2 = bitsOf v h2 l2 := by
  have e : 2 ^ l2 = 2 ^ (hi + 1) * 2 ^ (l2 - (hi + 1)) := by rw [← Nat.pow_add]; congr 1; omega
  unfold bitsOf
  rw [e, ← Nat.div_div_eq_div_mul, ← Nat.div_div_eq_div_mul, setBits_div h]

theorem bitsOf_of_mod {n m hi lo k : Nat} (hk : hi < k) (hl : lo ≤ hi) (h : n % 2 ^ k = m % 2 ^ k) : bitsOf n hi lo = bitsOf m hi lo := by
  have key : ∀ y : Nat, bitsOf y hi lo = (y % 2 ^ k) % 2 ^ (hi + 1) / 2 ^ lo := by
    intro y
    have e : 2 ^ (hi + 1) = 2 ^ lo * 2 ^ (hi - lo + 1) := by rw [← Nat.pow_add]; congr 1; omega
    rw [Nat.mod_mod_of_dvd _ (Nat.pow_dvd_pow 2 (by omega : hi + 1 ≤ k)), e, Nat.mod_mul_right_div_self]
    rfl
  rw [key, key, h]

/-- A field below another is untouched by a write of that other. -/
theorem bitsOf_setBits_below {hi lo h2 l2 : Nat} (h : lo ≤ hi) (hd : h2 < lo) (hl : l2 ≤ h2) (v x : Nat) :
    bitsOf (setBits v hi lo x) h2 l2 = bitsOf v h2 l2 := bitsOf_of_mod hd hl (setBits_mod h v x)

/-! ### Registers -/

@[simp] theorem Core.rget_rset_self (c : Core) (a : Nat) (v : W64) : (c.rset a v).rget a = v := amGet_amPut_self 0 c.regs a v

theorem Core.rget_rset_ne (c : Core) {a b : Nat} (v : W64) (h : b ≠ a) : (c.rset a v).rget b = c.rget b :=
  amGet_amPut_ne 0 c.regs v h

theorem Core.rget_setFld_ne (c : Core) {a b : Nat} (f : Fld) (v : Nat) (h : b ≠ a) : (c.setFld a f v).rget b = c.rget b :=
  c.rget_rset_ne _ h

theorem Core.rget_setFld (c : Core) (a : Nat) (f : Fld) (v : Nat) (h : f.lo ≤ f.hi) (hh : f.hi < 64) :
    ((c.setFld a f v).rget a).toNat = setBits (c.rget a).toNat f.hi f.lo v := by
  rw [Core.setFld, Core.rget_rset_self, BitVec.toNat_ofNat, Nat.mod_eq_of_lt (setBits_lt h hh _ _ (c.rget a).isLt)]

/-- A field reads as it was written, modulo its width. -/
theorem Core.fld_setFld_self (c : Core) (a : Nat) (f : Fld) (v : Nat) (h : f.lo ≤ f.hi) (hh : f.hi < 64) :
    (c.setFld a f v).fld a f = v % 2 ^ (f.hi - f.lo + 1) := by
  rw [Core.fld, c.rget_setFld a f v h hh, bitsOf_setBits_self h]

/-- A write of a field leaves the other fields of its register alone. -/
theorem Core.fld_setFld_other (c : Core) (a : Nat) (f g : Fld) (v : Nat) (h : f.lo ≤ f.hi) (hh : f.hi < 64) (hg : g.lo ≤ g.hi)
    (hd : f.hi < g.lo ∨ g.hi < f.lo) : (c.setFld a f v).fld a g = c.fld a g := by
  rw [Core.fld, c.rget_setFld a f v h hh, Core.fld]
  rcases hd with hd | hd
  · exact bitsOf_setBits_above h hd _ _
  · exact bitsOf_setBits_below h hd hg _ _

/-- A write of a field leaves every other register alone. -/
theorem Core.fld_setFld_ne (c : Core) {a b : Nat} (f g : Fld) (v : Nat) (h : b ≠ a) : (c.setFld a f v).fld b g = c.fld b g := by
  rw [Core.fld, c.rget_setFld_ne f v h, Core.fld]

theorem Core.fld_rset_ne (c : Core) {a b : Nat} (g : Fld) (v : W64) (h : b ≠ a) : (c.rset a v).fld b g = c.fld b g := by
  rw [Core.fld, c.rget_rset_ne v h, Core.fld]

theorem Core.rget_count_ne (c : Core) {a b : Nat} (n : Nat) (h : b ≠ a) : (c.count a n).rget b = c.rget b := c.rget_rset_ne _ h

theorem Core.fld_count_ne (c : Core) {a b : Nat} (g : Fld) (n : Nat) (h : b ≠ a) : (c.count a n).fld b g = c.fld b g :=
  c.fld_rset_ne g _ h

theorem Core.rget_perf_ne (c : Core) {a b : Nat} (n : Nat) (h : b ≠ a) : (c.perf a n).rget b = c.rget b := by
  unfold Core.perf; split
  · rfl
  · exact c.rget_rset_ne _ h

theorem Core.fld_perf_ne (c : Core) {a b : Nat} (g : Fld) (n : Nat) (h : b ≠ a) : (c.perf a n).fld b g = c.fld b g := by
  rw [Core.fld, c.rget_perf_ne n h, Core.fld]

end Sys2Proof.Machine
end

