-- ==== Sys2Proof/Laws/State.lean ====
section
/-! SUPPORT. One lemma for each part of the state and each update: what the update leaves alone. -/

namespace Sys2Proof.Machine
open Sys2Proof

@[simp] theorem Core.rset_glb (c : Core) (a : Nat) (v : W64) : (c.rset a v).glb = c.glb := rfl
@[simp] theorem Core.rset_pins (c : Core) (a : Nat) (v : W64) : (c.rset a v).pins = c.pins := rfl
@[simp] theorem Core.rset_mem (c : Core) (a : Nat) (v : W64) : (c.rset a v).mem = c.mem := rfl
@[simp] theorem Core.rset_pair (c : Core) (a : Nat) (v : W64) : (c.rset a v).pair = c.pair := rfl
@[simp] theorem Core.rset_ext (c : Core) (a : Nat) (v : W64) : (c.rset a v).ext = c.ext := rfl
@[simp] theorem Core.rset_work (c : Core) (a : Nat) (v : W64) : (c.rset a v).work = c.work := rfl
@[simp] theorem Core.rset_rasp (c : Core) (a : Nat) (v : W64) : (c.rset a v).rasp = c.rasp := rfl
@[simp] theorem Core.rset_sec (c : Core) (a : Nat) (v : W64) : (c.rset a v).sec = c.sec := rfl
@[simp] theorem Core.rset_boot (c : Core) (a : Nat) (v : W64) : (c.rset a v).boot = c.boot := rfl
@[simp] theorem Core.rset_sync (c : Core) (a : Nat) (v : W64) : (c.rset a v).sync = c.sync := rfl
@[simp] theorem Core.rset_coh (c : Core) (a : Nat) (v : W64) : (c.rset a v).coh = c.coh := rfl
@[simp] theorem Core.rset_net (c : Core) (a : Nat) (v : W64) : (c.rset a v).net = c.net := rfl
@[simp] theorem Core.rset_ring (c : Core) (a : Nat) (v : W64) : (c.rset a v).ring = c.ring := rfl
@[simp] theorem Core.rset_tck (c : Core) (a : Nat) (v : W64) : (c.rset a v).tck = c.tck := rfl

@[simp] theorem Core.setFld_glb (c : Core) (a : Nat) (f : Fld) (v : Nat) : (c.setFld a f v).glb = c.glb := rfl
@[simp] theorem Core.setFld_pins (c : Core) (a : Nat) (f : Fld) (v : Nat) : (c.setFld a f v).pins = c.pins := rfl
@[simp] theorem Core.setFld_mem (c : Core) (a : Nat) (f : Fld) (v : Nat) : (c.setFld a f v).mem = c.mem := rfl
@[simp] theorem Core.setFld_pair (c : Core) (a : Nat) (f : Fld) (v : Nat) : (c.setFld a f v).pair = c.pair := rfl
@[simp] theorem Core.setFld_ext (c : Core) (a : Nat) (f : Fld) (v : Nat) : (c.setFld a f v).ext = c.ext := rfl
@[simp] theorem Core.setFld_work (c : Core) (a : Nat) (f : Fld) (v : Nat) : (c.setFld a f v).work = c.work := rfl
@[simp] theorem Core.setFld_rasp (c : Core) (a : Nat) (f : Fld) (v : Nat) : (c.setFld a f v).rasp = c.rasp := rfl
@[simp] theorem Core.setFld_sec (c : Core) (a : Nat) (f : Fld) (v : Nat) : (c.setFld a f v).sec = c.sec := rfl
@[simp] theorem Core.setFld_boot (c : Core) (a : Nat) (f : Fld) (v : Nat) : (c.setFld a f v).boot = c.boot := rfl
@[simp] theorem Core.setFld_sync (c : Core) (a : Nat) (f : Fld) (v : Nat) : (c.setFld a f v).sync = c.sync := rfl
@[simp] theorem Core.setFld_coh (c : Core) (a : Nat) (f : Fld) (v : Nat) : (c.setFld a f v).coh = c.coh := rfl
@[simp] theorem Core.setFld_net (c : Core) (a : Nat) (f : Fld) (v : Nat) : (c.setFld a f v).net = c.net := rfl
@[simp] theorem Core.setFld_ring (c : Core) (a : Nat) (f : Fld) (v : Nat) : (c.setFld a f v).ring = c.ring := rfl
@[simp] theorem Core.setFld_tck (c : Core) (a : Nat) (f : Fld) (v : Nat) : (c.setFld a f v).tck = c.tck := rfl

@[simp] theorem Core.count_glb (c : Core) (a n : Nat) : (c.count a n).glb = c.glb := rfl
@[simp] theorem Core.count_pins (c : Core) (a n : Nat) : (c.count a n).pins = c.pins := rfl
@[simp] theorem Core.count_mem (c : Core) (a n : Nat) : (c.count a n).mem = c.mem := rfl
@[simp] theorem Core.count_pair (c : Core) (a n : Nat) : (c.count a n).pair = c.pair := rfl
@[simp] theorem Core.count_ext (c : Core) (a n : Nat) : (c.count a n).ext = c.ext := rfl
@[simp] theorem Core.count_work (c : Core) (a n : Nat) : (c.count a n).work = c.work := rfl
@[simp] theorem Core.count_rasp (c : Core) (a n : Nat) : (c.count a n).rasp = c.rasp := rfl
@[simp] theorem Core.count_sec (c : Core) (a n : Nat) : (c.count a n).sec = c.sec := rfl
@[simp] theorem Core.count_boot (c : Core) (a n : Nat) : (c.count a n).boot = c.boot := rfl
@[simp] theorem Core.count_sync (c : Core) (a n : Nat) : (c.count a n).sync = c.sync := rfl
@[simp] theorem Core.count_coh (c : Core) (a n : Nat) : (c.count a n).coh = c.coh := rfl
@[simp] theorem Core.count_net (c : Core) (a n : Nat) : (c.count a n).net = c.net := rfl
@[simp] theorem Core.count_ring (c : Core) (a n : Nat) : (c.count a n).ring = c.ring := rfl
@[simp] theorem Core.count_tck (c : Core) (a n : Nat) : (c.count a n).tck = c.tck := rfl

@[simp] theorem Core.satFld_glb (c : Core) (a : Nat) (f : Fld) (n : Nat) : (c.satFld a f n).glb = c.glb := rfl
@[simp] theorem Core.satFld_pins (c : Core) (a : Nat) (f : Fld) (n : Nat) : (c.satFld a f n).pins = c.pins := rfl
@[simp] theorem Core.satFld_mem (c : Core) (a : Nat) (f : Fld) (n : Nat) : (c.satFld a f n).mem = c.mem := rfl
@[simp] theorem Core.satFld_pair (c : Core) (a : Nat) (f : Fld) (n : Nat) : (c.satFld a f n).pair = c.pair := rfl
@[simp] theorem Core.satFld_ext (c : Core) (a : Nat) (f : Fld) (n : Nat) : (c.satFld a f n).ext = c.ext := rfl
@[simp] theorem Core.satFld_work (c : Core) (a : Nat) (f : Fld) (n : Nat) : (c.satFld a f n).work = c.work := rfl
@[simp] theorem Core.satFld_rasp (c : Core) (a : Nat) (f : Fld) (n : Nat) : (c.satFld a f n).rasp = c.rasp := rfl
@[simp] theorem Core.satFld_sec (c : Core) (a : Nat) (f : Fld) (n : Nat) : (c.satFld a f n).sec = c.sec := rfl
@[simp] theorem Core.satFld_boot (c : Core) (a : Nat) (f : Fld) (n : Nat) : (c.satFld a f n).boot = c.boot := rfl
@[simp] theorem Core.satFld_sync (c : Core) (a : Nat) (f : Fld) (n : Nat) : (c.satFld a f n).sync = c.sync := rfl
@[simp] theorem Core.satFld_coh (c : Core) (a : Nat) (f : Fld) (n : Nat) : (c.satFld a f n).coh = c.coh := rfl
@[simp] theorem Core.satFld_net (c : Core) (a : Nat) (f : Fld) (n : Nat) : (c.satFld a f n).net = c.net := rfl
@[simp] theorem Core.satFld_ring (c : Core) (a : Nat) (f : Fld) (n : Nat) : (c.satFld a f n).ring = c.ring := rfl
@[simp] theorem Core.satFld_tck (c : Core) (a : Nat) (f : Fld) (n : Nat) : (c.satFld a f n).tck = c.tck := rfl

@[simp] theorem Core.at_regs (c : Core) (t : Nat) : (c.at t).regs = c.regs := rfl
@[simp] theorem Core.at_pins (c : Core) (t : Nat) : (c.at t).pins = c.pins := rfl
@[simp] theorem Core.at_mem (c : Core) (t : Nat) : (c.at t).mem = c.mem := rfl
@[simp] theorem Core.at_pair (c : Core) (t : Nat) : (c.at t).pair = c.pair := rfl
@[simp] theorem Core.at_ext (c : Core) (t : Nat) : (c.at t).ext = c.ext := rfl
@[simp] theorem Core.at_work (c : Core) (t : Nat) : (c.at t).work = c.work := rfl
@[simp] theorem Core.at_rasp (c : Core) (t : Nat) : (c.at t).rasp = c.rasp := rfl
@[simp] theorem Core.at_sec (c : Core) (t : Nat) : (c.at t).sec = c.sec := rfl
@[simp] theorem Core.at_boot (c : Core) (t : Nat) : (c.at t).boot = c.boot := rfl
@[simp] theorem Core.at_sync (c : Core) (t : Nat) : (c.at t).sync = c.sync := rfl
@[simp] theorem Core.at_coh (c : Core) (t : Nat) : (c.at t).coh = c.coh := rfl
@[simp] theorem Core.at_net (c : Core) (t : Nat) : (c.at t).net = c.net := rfl
@[simp] theorem Core.at_ring (c : Core) (t : Nat) : (c.at t).ring = c.ring := rfl
@[simp] theorem Core.at_tck (c : Core) (t : Nat) : (c.at t).tck = c.tck := rfl

@[simp] theorem Core.send_regs (c : Core) (x : OutMsg) : (c.send x).regs = c.regs := rfl
@[simp] theorem Core.send_glb (c : Core) (x : OutMsg) : (c.send x).glb = c.glb := rfl
@[simp] theorem Core.send_pins (c : Core) (x : OutMsg) : (c.send x).pins = c.pins := rfl
@[simp] theorem Core.send_mem (c : Core) (x : OutMsg) : (c.send x).mem = c.mem := rfl
@[simp] theorem Core.send_pair (c : Core) (x : OutMsg) : (c.send x).pair = c.pair := rfl
@[simp] theorem Core.send_ext (c : Core) (x : OutMsg) : (c.send x).ext = c.ext := rfl
@[simp] theorem Core.send_work (c : Core) (x : OutMsg) : (c.send x).work = c.work := rfl
@[simp] theorem Core.send_rasp (c : Core) (x : OutMsg) : (c.send x).rasp = c.rasp := rfl
@[simp] theorem Core.send_sec (c : Core) (x : OutMsg) : (c.send x).sec = c.sec := rfl
@[simp] theorem Core.send_boot (c : Core) (x : OutMsg) : (c.send x).boot = c.boot := rfl
@[simp] theorem Core.send_sync (c : Core) (x : OutMsg) : (c.send x).sync = c.sync := rfl
@[simp] theorem Core.send_coh (c : Core) (x : OutMsg) : (c.send x).coh = c.coh := rfl
@[simp] theorem Core.send_ring (c : Core) (x : OutMsg) : (c.send x).ring = c.ring := rfl
@[simp] theorem Core.send_tck (c : Core) (x : OutMsg) : (c.send x).tck = c.tck := rfl

@[simp] theorem Core.draw_regs (c : Core) : c.draw.1.regs = c.regs := rfl
@[simp] theorem Core.draw_pins (c : Core) : c.draw.1.pins = c.pins := rfl
@[simp] theorem Core.draw_mem (c : Core) : c.draw.1.mem = c.mem := rfl
@[simp] theorem Core.draw_pair (c : Core) : c.draw.1.pair = c.pair := rfl
@[simp] theorem Core.draw_ext (c : Core) : c.draw.1.ext = c.ext := rfl
@[simp] theorem Core.draw_work (c : Core) : c.draw.1.work = c.work := rfl
@[simp] theorem Core.draw_rasp (c : Core) : c.draw.1.rasp = c.rasp := rfl
@[simp] theorem Core.draw_sec (c : Core) : c.draw.1.sec = c.sec := rfl
@[simp] theorem Core.draw_boot (c : Core) : c.draw.1.boot = c.boot := rfl
@[simp] theorem Core.draw_sync (c : Core) : c.draw.1.sync = c.sync := rfl
@[simp] theorem Core.draw_coh (c : Core) : c.draw.1.coh = c.coh := rfl
@[simp] theorem Core.draw_net (c : Core) : c.draw.1.net = c.net := rfl
@[simp] theorem Core.draw_ring (c : Core) : c.draw.1.ring = c.ring := rfl
@[simp] theorem Core.draw_tck (c : Core) : c.draw.1.tck = c.tck := rfl

@[simp] theorem setSess_regs (c : Core) (n : Nat) (x : Session) : (setSess c n x).regs = c.regs := rfl
@[simp] theorem setSess_glb (c : Core) (n : Nat) (x : Session) : (setSess c n x).glb = c.glb := rfl
@[simp] theorem setSess_pins (c : Core) (n : Nat) (x : Session) : (setSess c n x).pins = c.pins := rfl
@[simp] theorem setSess_mem (c : Core) (n : Nat) (x : Session) : (setSess c n x).mem = c.mem := rfl
@[simp] theorem setSess_pair (c : Core) (n : Nat) (x : Session) : (setSess c n x).pair = c.pair := rfl
@[simp] theorem setSess_ext (c : Core) (n : Nat) (x : Session) : (setSess c n x).ext = c.ext := rfl
@[simp] theorem setSess_work (c : Core) (n : Nat) (x : Session) : (setSess c n x).work = c.work := rfl
@[simp] theorem setSess_rasp (c : Core) (n : Nat) (x : Session) : (setSess c n x).rasp = c.rasp := rfl
@[simp] theorem setSess_sec (c : Core) (n : Nat) (x : Session) : (setSess c n x).sec = c.sec := rfl
@[simp] theorem setSess_boot (c : Core) (n : Nat) (x : Session) : (setSess c n x).boot = c.boot := rfl
@[simp] theorem setSess_sync (c : Core) (n : Nat) (x : Session) : (setSess c n x).sync = c.sync := rfl
@[simp] theorem setSess_coh (c : Core) (n : Nat) (x : Session) : (setSess c n x).coh = c.coh := rfl
@[simp] theorem setSess_ring (c : Core) (n : Nat) (x : Session) : (setSess c n x).ring = c.ring := rfl
@[simp] theorem setSess_tck (c : Core) (n : Nat) (x : Session) : (setSess c n x).tck = c.tck := rfl

@[simp] theorem modSess_regs (c : Core) (n : Nat) (f : Session → Session) : (modSess c n f).regs = c.regs := rfl
@[simp] theorem modSess_glb (c : Core) (n : Nat) (f : Session → Session) : (modSess c n f).glb = c.glb := rfl
@[simp] theorem modSess_pins (c : Core) (n : Nat) (f : Session → Session) : (modSess c n f).pins = c.pins := rfl
@[simp] theorem modSess_mem (c : Core) (n : Nat) (f : Session → Session) : (modSess c n f).mem = c.mem := rfl
@[simp] theorem modSess_pair (c : Core) (n : Nat) (f : Session → Session) : (modSess c n f).pair = c.pair := rfl
@[simp] theorem modSess_ext (c : Core) (n : Nat) (f : Session → Session) : (modSess c n f).ext = c.ext := rfl
@[simp] theorem modSess_work (c : Core) (n : Nat) (f : Session → Session) : (modSess c n f).work = c.work := rfl
@[simp] theorem modSess_rasp (c : Core) (n : Nat) (f : Session → Session) : (modSess c n f).rasp = c.rasp := rfl
@[simp] theorem modSess_sec (c : Core) (n : Nat) (f : Session → Session) : (modSess c n f).sec = c.sec := rfl
@[simp] theorem modSess_boot (c : Core) (n : Nat) (f : Session → Session) : (modSess c n f).boot = c.boot := rfl
@[simp] theorem modSess_sync (c : Core) (n : Nat) (f : Session → Session) : (modSess c n f).sync = c.sync := rfl
@[simp] theorem modSess_coh (c : Core) (n : Nat) (f : Session → Session) : (modSess c n f).coh = c.coh := rfl
@[simp] theorem modSess_ring (c : Core) (n : Nat) (f : Session → Session) : (modSess c n f).ring = c.ring := rfl
@[simp] theorem modSess_tck (c : Core) (n : Nat) (f : Session → Session) : (modSess c n f).tck = c.tck := rfl

@[simp] theorem setQp_regs (c : Core) (q : Nat) (x : Qp) : (setQp c q x).regs = c.regs := rfl
@[simp] theorem setQp_glb (c : Core) (q : Nat) (x : Qp) : (setQp c q x).glb = c.glb := rfl
@[simp] theorem setQp_pins (c : Core) (q : Nat) (x : Qp) : (setQp c q x).pins = c.pins := rfl
@[simp] theorem setQp_mem (c : Core) (q : Nat) (x : Qp) : (setQp c q x).mem = c.mem := rfl
@[simp] theorem setQp_pair (c : Core) (q : Nat) (x : Qp) : (setQp c q x).pair = c.pair := rfl
@[simp] theorem setQp_ext (c : Core) (q : Nat) (x : Qp) : (setQp c q x).ext = c.ext := rfl
@[simp] theorem setQp_work (c : Core) (q : Nat) (x : Qp) : (setQp c q x).work = c.work := rfl
@[simp] theorem setQp_rasp (c : Core) (q : Nat) (x : Qp) : (setQp c q x).rasp = c.rasp := rfl
@[simp] theorem setQp_sec (c : Core) (q : Nat) (x : Qp) : (setQp c q x).sec = c.sec := rfl
@[simp] theorem setQp_boot (c : Core) (q : Nat) (x : Qp) : (setQp c q x).boot = c.boot := rfl
@[simp] theorem setQp_sync (c : Core) (q : Nat) (x : Qp) : (setQp c q x).sync = c.sync := rfl
@[simp] theorem setQp_coh (c : Core) (q : Nat) (x : Qp) : (setQp c q x).coh = c.coh := rfl
@[simp] theorem setQp_ring (c : Core) (q : Nat) (x : Qp) : (setQp c q x).ring = c.ring := rfl
@[simp] theorem setQp_tck (c : Core) (q : Nat) (x : Qp) : (setQp c q x).tck = c.tck := rfl

@[simp] theorem modQp_regs (c : Core) (q : Nat) (f : Qp → Qp) : (modQp c q f).regs = c.regs := rfl
@[simp] theorem modQp_glb (c : Core) (q : Nat) (f : Qp → Qp) : (modQp c q f).glb = c.glb := rfl
@[simp] theorem modQp_pins (c : Core) (q : Nat) (f : Qp → Qp) : (modQp c q f).pins = c.pins := rfl
@[simp] theorem modQp_mem (c : Core) (q : Nat) (f : Qp → Qp) : (modQp c q f).mem = c.mem := rfl
@[simp] theorem modQp_pair (c : Core) (q : Nat) (f : Qp → Qp) : (modQp c q f).pair = c.pair := rfl
@[simp] theorem modQp_ext (c : Core) (q : Nat) (f : Qp → Qp) : (modQp c q f).ext = c.ext := rfl
@[simp] theorem modQp_work (c : Core) (q : Nat) (f : Qp → Qp) : (modQp c q f).work = c.work := rfl
@[simp] theorem modQp_rasp (c : Core) (q : Nat) (f : Qp → Qp) : (modQp c q f).rasp = c.rasp := rfl
@[simp] theorem modQp_sec (c : Core) (q : Nat) (f : Qp → Qp) : (modQp c q f).sec = c.sec := rfl
@[simp] theorem modQp_boot (c : Core) (q : Nat) (f : Qp → Qp) : (modQp c q f).boot = c.boot := rfl
@[simp] theorem modQp_sync (c : Core) (q : Nat) (f : Qp → Qp) : (modQp c q f).sync = c.sync := rfl
@[simp] theorem modQp_coh (c : Core) (q : Nat) (f : Qp → Qp) : (modQp c q f).coh = c.coh := rfl
@[simp] theorem modQp_ring (c : Core) (q : Nat) (f : Qp → Qp) : (modQp c q f).ring = c.ring := rfl
@[simp] theorem modQp_tck (c : Core) (q : Nat) (f : Qp → Qp) : (modQp c q f).tck = c.tck := rfl

@[simp] theorem setPort_regs (c : Core) (n : Nat) (p : PortSt) : (setPort c n p).regs = c.regs := rfl
@[simp] theorem setPort_glb (c : Core) (n : Nat) (p : PortSt) : (setPort c n p).glb = c.glb := rfl
@[simp] theorem setPort_pins (c : Core) (n : Nat) (p : PortSt) : (setPort c n p).pins = c.pins := rfl
@[simp] theorem setPort_mem (c : Core) (n : Nat) (p : PortSt) : (setPort c n p).mem = c.mem := rfl
@[simp] theorem setPort_pair (c : Core) (n : Nat) (p : PortSt) : (setPort c n p).pair = c.pair := rfl
@[simp] theorem setPort_ext (c : Core) (n : Nat) (p : PortSt) : (setPort c n p).ext = c.ext := rfl
@[simp] theorem setPort_work (c : Core) (n : Nat) (p : PortSt) : (setPort c n p).work = c.work := rfl
@[simp] theorem setPort_rasp (c : Core) (n : Nat) (p : PortSt) : (setPort c n p).rasp = c.rasp := rfl
@[simp] theorem setPort_sec (c : Core) (n : Nat) (p : PortSt) : (setPort c n p).sec = c.sec := rfl
@[simp] theorem setPort_boot (c : Core) (n : Nat) (p : PortSt) : (setPort c n p).boot = c.boot := rfl
@[simp] theorem setPort_sync (c : Core) (n : Nat) (p : PortSt) : (setPort c n p).sync = c.sync := rfl
@[simp] theorem setPort_coh (c : Core) (n : Nat) (p : PortSt) : (setPort c n p).coh = c.coh := rfl
@[simp] theorem setPort_ring (c : Core) (n : Nat) (p : PortSt) : (setPort c n p).ring = c.ring := rfl
@[simp] theorem setPort_tck (c : Core) (n : Nat) (p : PortSt) : (setPort c n p).tck = c.tck := rfl

@[simp] theorem modWork_regs (c : Core) (x n : Nat) (f : Work → Work) : (modWork c x n f).regs = c.regs := rfl
@[simp] theorem modWork_glb (c : Core) (x n : Nat) (f : Work → Work) : (modWork c x n f).glb = c.glb := rfl
@[simp] theorem modWork_pins (c : Core) (x n : Nat) (f : Work → Work) : (modWork c x n f).pins = c.pins := rfl
@[simp] theorem modWork_mem (c : Core) (x n : Nat) (f : Work → Work) : (modWork c x n f).mem = c.mem := rfl
@[simp] theorem modWork_pair (c : Core) (x n : Nat) (f : Work → Work) : (modWork c x n f).pair = c.pair := rfl
@[simp] theorem modWork_ext (c : Core) (x n : Nat) (f : Work → Work) : (modWork c x n f).ext = c.ext := rfl
@[simp] theorem modWork_rasp (c : Core) (x n : Nat) (f : Work → Work) : (modWork c x n f).rasp = c.rasp := rfl
@[simp] theorem modWork_sec (c : Core) (x n : Nat) (f : Work → Work) : (modWork c x n f).sec = c.sec := rfl
@[simp] theorem modWork_boot (c : Core) (x n : Nat) (f : Work → Work) : (modWork c x n f).boot = c.boot := rfl
@[simp] theorem modWork_sync (c : Core) (x n : Nat) (f : Work → Work) : (modWork c x n f).sync = c.sync := rfl
@[simp] theorem modWork_coh (c : Core) (x n : Nat) (f : Work → Work) : (modWork c x n f).coh = c.coh := rfl
@[simp] theorem modWork_net (c : Core) (x n : Nat) (f : Work → Work) : (modWork c x n f).net = c.net := rfl
@[simp] theorem modWork_ring (c : Core) (x n : Nat) (f : Work → Work) : (modWork c x n f).ring = c.ring := rfl
@[simp] theorem modWork_tck (c : Core) (x n : Nat) (f : Work → Work) : (modWork c x n f).tck = c.tck := rfl

@[simp] theorem setThr_regs (c : Core) (t : Nat) (th : Thread) : (setThr c t th).regs = c.regs := rfl
@[simp] theorem setThr_glb (c : Core) (t : Nat) (th : Thread) : (setThr c t th).glb = c.glb := rfl
@[simp] theorem setThr_pins (c : Core) (t : Nat) (th : Thread) : (setThr c t th).pins = c.pins := rfl
@[simp] theorem setThr_mem (c : Core) (t : Nat) (th : Thread) : (setThr c t th).mem = c.mem := rfl
@[simp] theorem setThr_pair (c : Core) (t : Nat) (th : Thread) : (setThr c t th).pair = c.pair := rfl
@[simp] theorem setThr_ext (c : Core) (t : Nat) (th : Thread) : (setThr c t th).ext = c.ext := rfl
@[simp] theorem setThr_work (c : Core) (t : Nat) (th : Thread) : (setThr c t th).work = c.work := rfl
@[simp] theorem setThr_sec (c : Core) (t : Nat) (th : Thread) : (setThr c t th).sec = c.sec := rfl
@[simp] theorem setThr_boot (c : Core) (t : Nat) (th : Thread) : (setThr c t th).boot = c.boot := rfl
@[simp] theorem setThr_sync (c : Core) (t : Nat) (th : Thread) : (setThr c t th).sync = c.sync := rfl
@[simp] theorem setThr_coh (c : Core) (t : Nat) (th : Thread) : (setThr c t th).coh = c.coh := rfl
@[simp] theorem setThr_net (c : Core) (t : Nat) (th : Thread) : (setThr c t th).net = c.net := rfl
@[simp] theorem setThr_ring (c : Core) (t : Nat) (th : Thread) : (setThr c t th).ring = c.ring := rfl
@[simp] theorem setThr_tck (c : Core) (t : Nat) (th : Thread) : (setThr c t th).tck = c.tck := rfl

@[simp] theorem modSec_regs (c : Core) (f : SecSt → SecSt) : (modSec c f).regs = c.regs := rfl
@[simp] theorem modSec_glb (c : Core) (f : SecSt → SecSt) : (modSec c f).glb = c.glb := rfl
@[simp] theorem modSec_pins (c : Core) (f : SecSt → SecSt) : (modSec c f).pins = c.pins := rfl
@[simp] theorem modSec_mem (c : Core) (f : SecSt → SecSt) : (modSec c f).mem = c.mem := rfl
@[simp] theorem modSec_pair (c : Core) (f : SecSt → SecSt) : (modSec c f).pair = c.pair := rfl
@[simp] theorem modSec_ext (c : Core) (f : SecSt → SecSt) : (modSec c f).ext = c.ext := rfl
@[simp] theorem modSec_work (c : Core) (f : SecSt → SecSt) : (modSec c f).work = c.work := rfl
@[simp] theorem modSec_rasp (c : Core) (f : SecSt → SecSt) : (modSec c f).rasp = c.rasp := rfl
@[simp] theorem modSec_boot (c : Core) (f : SecSt → SecSt) : (modSec c f).boot = c.boot := rfl
@[simp] theorem modSec_sync (c : Core) (f : SecSt → SecSt) : (modSec c f).sync = c.sync := rfl
@[simp] theorem modSec_coh (c : Core) (f : SecSt → SecSt) : (modSec c f).coh = c.coh := rfl
@[simp] theorem modSec_net (c : Core) (f : SecSt → SecSt) : (modSec c f).net = c.net := rfl
@[simp] theorem modSec_ring (c : Core) (f : SecSt → SecSt) : (modSec c f).ring = c.ring := rfl
@[simp] theorem modSec_tck (c : Core) (f : SecSt → SecSt) : (modSec c f).tck = c.tck := rfl

@[simp] theorem onPair_regs (c : Core) (f : PairSt → PairSt) : (onPair c f).regs = c.regs := rfl
@[simp] theorem onPair_glb (c : Core) (f : PairSt → PairSt) : (onPair c f).glb = c.glb := rfl
@[simp] theorem onPair_pins (c : Core) (f : PairSt → PairSt) : (onPair c f).pins = c.pins := rfl
@[simp] theorem onPair_mem (c : Core) (f : PairSt → PairSt) : (onPair c f).mem = c.mem := rfl
@[simp] theorem onPair_ext (c : Core) (f : PairSt → PairSt) : (onPair c f).ext = c.ext := rfl
@[simp] theorem onPair_work (c : Core) (f : PairSt → PairSt) : (onPair c f).work = c.work := rfl
@[simp] theorem onPair_rasp (c : Core) (f : PairSt → PairSt) : (onPair c f).rasp = c.rasp := rfl
@[simp] theorem onPair_sec (c : Core) (f : PairSt → PairSt) : (onPair c f).sec = c.sec := rfl
@[simp] theorem onPair_boot (c : Core) (f : PairSt → PairSt) : (onPair c f).boot = c.boot := rfl
@[simp] theorem onPair_sync (c : Core) (f : PairSt → PairSt) : (onPair c f).sync = c.sync := rfl
@[simp] theorem onPair_coh (c : Core) (f : PairSt → PairSt) : (onPair c f).coh = c.coh := rfl
@[simp] theorem onPair_net (c : Core) (f : PairSt → PairSt) : (onPair c f).net = c.net := rfl
@[simp] theorem onPair_ring (c : Core) (f : PairSt → PairSt) : (onPair c f).ring = c.ring := rfl
@[simp] theorem onPair_tck (c : Core) (f : PairSt → PairSt) : (onPair c f).tck = c.tck := rfl

@[simp] theorem onRingSt_regs (c : Core) (f : RingSt → RingSt) : (onRingSt c f).regs = c.regs := rfl
@[simp] theorem onRingSt_glb (c : Core) (f : RingSt → RingSt) : (onRingSt c f).glb = c.glb := rfl
@[simp] theorem onRingSt_pins (c : Core) (f : RingSt → RingSt) : (onRingSt c f).pins = c.pins := rfl
@[simp] theorem onRingSt_mem (c : Core) (f : RingSt → RingSt) : (onRingSt c f).mem = c.mem := rfl
@[simp] theorem onRingSt_pair (c : Core) (f : RingSt → RingSt) : (onRingSt c f).pair = c.pair := rfl
@[simp] theorem onRingSt_ext (c : Core) (f : RingSt → RingSt) : (onRingSt c f).ext = c.ext := rfl
@[simp] theorem onRingSt_work (c : Core) (f : RingSt → RingSt) : (onRingSt c f).work = c.work := rfl
@[simp] theorem onRingSt_rasp (c : Core) (f : RingSt → RingSt) : (onRingSt c f).rasp = c.rasp := rfl
@[simp] theorem onRingSt_sec (c : Core) (f : RingSt → RingSt) : (onRingSt c f).sec = c.sec := rfl
@[simp] theorem onRingSt_boot (c : Core) (f : RingSt → RingSt) : (onRingSt c f).boot = c.boot := rfl
@[simp] theorem onRingSt_sync (c : Core) (f : RingSt → RingSt) : (onRingSt c f).sync = c.sync := rfl
@[simp] theorem onRingSt_coh (c : Core) (f : RingSt → RingSt) : (onRingSt c f).coh = c.coh := rfl
@[simp] theorem onRingSt_net (c : Core) (f : RingSt → RingSt) : (onRingSt c f).net = c.net := rfl
@[simp] theorem onRingSt_tck (c : Core) (f : RingSt → RingSt) : (onRingSt c f).tck = c.tck := rfl

@[simp] theorem modTck_regs (c : Core) (f : TickSt → TickSt) : (modTck c f).regs = c.regs := rfl
@[simp] theorem modTck_glb (c : Core) (f : TickSt → TickSt) : (modTck c f).glb = c.glb := rfl
@[simp] theorem modTck_pins (c : Core) (f : TickSt → TickSt) : (modTck c f).pins = c.pins := rfl
@[simp] theorem modTck_mem (c : Core) (f : TickSt → TickSt) : (modTck c f).mem = c.mem := rfl
@[simp] theorem modTck_pair (c : Core) (f : TickSt → TickSt) : (modTck c f).pair = c.pair := rfl
@[simp] theorem modTck_ext (c : Core) (f : TickSt → TickSt) : (modTck c f).ext = c.ext := rfl
@[simp] theorem modTck_work (c : Core) (f : TickSt → TickSt) : (modTck c f).work = c.work := rfl
@[simp] theorem modTck_rasp (c : Core) (f : TickSt → TickSt) : (modTck c f).rasp = c.rasp := rfl
@[simp] theorem modTck_sec (c : Core) (f : TickSt → TickSt) : (modTck c f).sec = c.sec := rfl
@[simp] theorem modTck_boot (c : Core) (f : TickSt → TickSt) : (modTck c f).boot = c.boot := rfl
@[simp] theorem modTck_sync (c : Core) (f : TickSt → TickSt) : (modTck c f).sync = c.sync := rfl
@[simp] theorem modTck_coh (c : Core) (f : TickSt → TickSt) : (modTck c f).coh = c.coh := rfl
@[simp] theorem modTck_net (c : Core) (f : TickSt → TickSt) : (modTck c f).net = c.net := rfl
@[simp] theorem modTck_ring (c : Core) (f : TickSt → TickSt) : (modTck c f).ring = c.ring := rfl

@[simp] theorem Core.perf_glb (c : Core) (a n : Nat) : (c.perf a n).glb = c.glb := by unfold Core.perf; split <;> rfl
@[simp] theorem Core.perf_pins (c : Core) (a n : Nat) : (c.perf a n).pins = c.pins := by unfold Core.perf; split <;> rfl
@[simp] theorem Core.perf_mem (c : Core) (a n : Nat) : (c.perf a n).mem = c.mem := by unfold Core.perf; split <;> rfl
@[simp] theorem Core.perf_pair (c : Core) (a n : Nat) : (c.perf a n).pair = c.pair := by unfold Core.perf; split <;> rfl
@[simp] theorem Core.perf_ext (c : Core) (a n : Nat) : (c.perf a n).ext = c.ext := by unfold Core.perf; split <;> rfl
@[simp] theorem Core.perf_work (c : Core) (a n : Nat) : (c.perf a n).work = c.work := by unfold Core.perf; split <;> rfl
@[simp] theorem Core.perf_rasp (c : Core) (a n : Nat) : (c.perf a n).rasp = c.rasp := by unfold Core.perf; split <;> rfl
@[simp] theorem Core.perf_sec (c : Core) (a n : Nat) : (c.perf a n).sec = c.sec := by unfold Core.perf; split <;> rfl
@[simp] theorem Core.perf_boot (c : Core) (a n : Nat) : (c.perf a n).boot = c.boot := by unfold Core.perf; split <;> rfl
@[simp] theorem Core.perf_sync (c : Core) (a n : Nat) : (c.perf a n).sync = c.sync := by unfold Core.perf; split <;> rfl
@[simp] theorem Core.perf_coh (c : Core) (a n : Nat) : (c.perf a n).coh = c.coh := by unfold Core.perf; split <;> rfl
@[simp] theorem Core.perf_net (c : Core) (a n : Nat) : (c.perf a n).net = c.net := by unfold Core.perf; split <;> rfl
@[simp] theorem Core.perf_ring (c : Core) (a n : Nat) : (c.perf a n).ring = c.ring := by unfold Core.perf; split <;> rfl
@[simp] theorem Core.perf_tck (c : Core) (a n : Nat) : (c.perf a n).tck = c.tck := by unfold Core.perf; split <;> rfl

@[simp] theorem M.on_core (m : M) (f : Core → Core) : (m.on f).core = f m.core := rfl
@[simp] theorem M.on_mem (m : M) (f : Core → Core) : (m.on f).mem = m.mem := rfl
@[simp] theorem State.m_core (s : State) : s.m.core = s.core := rfl
@[simp] theorem State.m_mem (s : State) : s.m.mem = s.mem := rfl
@[simp] theorem settled_pending (s : State) (m : M) : (settled s m).pending = s.pending := by unfold settled; rfl
@[simp] theorem Core.at_now (c : Core) (t : Nat) : (c.at t).glb.now = max c.glb.now t := rfl
@[simp] theorem Core.draw_snd (c : Core) : c.draw.2 = c.glb.draws := rfl
@[simp] theorem Core.draw_draws (c : Core) : c.draw.1.glb.draws = c.glb.draws + 1 := rfl
@[simp] theorem Core.send_out (c : Core) (x : OutMsg) : (c.send x).net.out = c.net.out ++ [x] := rfl

/-! ### Reads through updates that touch no register -/

@[simp] theorem rget_Core_at (c : Core) (t : Nat) (r : Nat) : (c.at t).rget r = c.rget r := rfl
@[simp] theorem fld_Core_at (c : Core) (t : Nat) (r : Nat) (g : Fld) : (c.at t).fld r g = c.fld r g := rfl
@[simp] theorem rget_Core_send (c : Core) (x : OutMsg) (r : Nat) : (c.send x).rget r = c.rget r := rfl
@[simp] theorem fld_Core_send (c : Core) (x : OutMsg) (r : Nat) (g : Fld) : (c.send x).fld r g = c.fld r g := rfl
@[simp] theorem rget_Core_draw (c : Core) (r : Nat) : c.draw.1.rget r = c.rget r := rfl
@[simp] theorem fld_Core_draw (c : Core) (r : Nat) (g : Fld) : c.draw.1.fld r g = c.fld r g := rfl
@[simp] theorem rget_setSess (c : Core) (n : Nat) (x : Session) (r : Nat) : (setSess c n x).rget r = c.rget r := rfl
@[simp] theorem fld_setSess (c : Core) (n : Nat) (x : Session) (r : Nat) (g : Fld) : (setSess c n x).fld r g = c.fld r g := rfl
@[simp] theorem rget_modSess (c : Core) (n : Nat) (f : Session → Session) (r : Nat) : (modSess c n f).rget r = c.rget r := rfl
@[simp] theorem fld_modSess (c : Core) (n : Nat) (f : Session → Session) (r : Nat) (g : Fld) : (modSess c n f).fld r g = c.fld r g := rfl
@[simp] theorem rget_setQp (c : Core) (q : Nat) (x : Qp) (r : Nat) : (setQp c q x).rget r = c.rget r := rfl
@[simp] theorem fld_setQp (c : Core) (q : Nat) (x : Qp) (r : Nat) (g : Fld) : (setQp c q x).fld r g = c.fld r g := rfl
@[simp] theorem rget_modQp (c : Core) (q : Nat) (f : Qp → Qp) (r : Nat) : (modQp c q f).rget r = c.rget r := rfl
@[simp] theorem fld_modQp (c : Core) (q : Nat) (f : Qp → Qp) (r : Nat) (g : Fld) : (modQp c q f).fld r g = c.fld r g := rfl
@[simp] theorem rget_setPort (c : Core) (n : Nat) (p : PortSt) (r : Nat) : (setPort c n p).rget r = c.rget r := rfl
@[simp] theorem fld_setPort (c : Core) (n : Nat) (p : PortSt) (r : Nat) (g : Fld) : (setPort c n p).fld r g = c.fld r g := rfl
@[simp] theorem rget_modWork (c : Core) (x n : Nat) (f : Work → Work) (r : Nat) : (modWork c x n f).rget r = c.rget r := rfl
@[simp] theorem fld_modWork (c : Core) (x n : Nat) (f : Work → Work) (r : Nat) (g : Fld) : (modWork c x n f).fld r g = c.fld r g := rfl
@[simp] theorem rget_setThr (c : Core) (t : Nat) (th : Thread) (r : Nat) : (setThr c t th).rget r = c.rget r := rfl
@[simp] theorem fld_setThr (c : Core) (t : Nat) (th : Thread) (r : Nat) (g : Fld) : (setThr c t th).fld r g = c.fld r g := rfl
@[simp] theorem rget_modSec (c : Core) (f : SecSt → SecSt) (r : Nat) : (modSec c f).rget r = c.rget r := rfl
@[simp] theorem fld_modSec (c : Core) (f : SecSt → SecSt) (r : Nat) (g : Fld) : (modSec c f).fld r g = c.fld r g := rfl
@[simp] theorem rget_onPair (c : Core) (f : PairSt → PairSt) (r : Nat) : (onPair c f).rget r = c.rget r := rfl
@[simp] theorem fld_onPair (c : Core) (f : PairSt → PairSt) (r : Nat) (g : Fld) : (onPair c f).fld r g = c.fld r g := rfl
@[simp] theorem rget_onRingSt (c : Core) (f : RingSt → RingSt) (r : Nat) : (onRingSt c f).rget r = c.rget r := rfl
@[simp] theorem fld_onRingSt (c : Core) (f : RingSt → RingSt) (r : Nat) (g : Fld) : (onRingSt c f).fld r g = c.fld r g := rfl
@[simp] theorem rget_modTck (c : Core) (f : TickSt → TickSt) (r : Nat) : (modTck c f).rget r = c.rget r := rfl
@[simp] theorem fld_modTck (c : Core) (f : TickSt → TickSt) (r : Nat) (g : Fld) : (modTck c f).fld r g = c.fld r g := rfl

end Sys2Proof.Machine
end

