-- ==== Sys2Proof/Laws/Step.lean ====
section
/-! SUPPORT. How a meaning becomes a step, and what a management request comes to. -/

namespace Sys2Proof.Machine
open Sys2Proof

/-! ### Steps -/

/-- The step of a meaning whose effect is known. -/
theorem does_of_run {i : Instr} {s : State} {f : M → M} {m : M} (h : exec i s = run f s) (hf : f s.m = m) : does i s m := by
  rw [does, h, run, ← hf]

theorem does_of_served {i : Instr} {s : State} {f : M → M} {m : M} (h : exec i s = runServed f s) (hs : inService s.core = true)
    (hf : f s.m = m) : does i s m := by
  refine does_of_run h ?_
  simp only [served, State.m_core, hs, if_true]
  exact hf

theorem does_of_servedCore {i : Instr} {s : State} {f : Core → Core} {c : Core} (h : exec i s = runServedCore f s)
    (hs : inService s.core = true) (hf : f s.core = c) : doesTo i s c := by
  refine does_of_run h ?_
  simp only [served, State.m_core, hs, if_true]
  rw [← hf]; rfl

theorem does_of_powered {i : Instr} {s : State} {f : M → M} {m : M} (h : exec i s = runPowered f s) (hs : powered s.core = true)
    (hf : f s.m = m) : does i s m := by
  refine does_of_run h ?_
  simp only [State.m_core, hs, if_true]
  exact hf

theorem doesTo_of_core {i : Instr} {s : State} {f : Core → Core} {c : Core} (h : exec i s = runCore f s) (hf : f s.core = c) :
    doesTo i s c := by
  refine does_of_run h ?_
  rw [← hf]; rfl

/-- A step ends with the memory in canonical form. -/
theorem settled_memOk (s : State) (m : M) : (settled s m).memOk := Mem.norm_wf _

/-- A command that leaves nothing waiting changes only what it says. -/
theorem settled_quiet (s : State) (m : M) (h : quiet m.core = true) :
    settled s m = { s with core := m.core, mem := m.mem.norm } := by
  simp [settled, settle, h]

/-- The same over a memory in canonical form. -/
theorem settled_quiet_wf (s : State) (m : M) (h : quiet m.core = true) (hm : m.mem.wf = true) :
    settled s m = { s with core := m.core, mem := m.mem } := by
  rw [settled_quiet s m h, Mem.norm_of_wf _ hm]

/-! ### Management requests -/

/-- A body that accepts. -/
theorem mgmt_accepted {i : MopInfo} {src : Src} {s : State} {m m2 : M} {body : M → Mg} {b : List Nat} (h : FmAsks i src s m)
    (hb : body m = (m2, .accepted, b)) : mgmt i src (fmOnly body) s.m = accepted m2 src i.mop b := by
  obtain ⟨h1, h2⟩ := h
  simp [mgmt, mgmtLater, h1, fmOnly, h2, hb, now, accepted]

/-- A body that refuses. -/
theorem mgmt_refused {i : MopInfo} {src : Src} {s : State} {m m2 : M} {body : M → Mg} {k : MgmtCode} (h : FmAsks i src s m)
    (hb : body m = (m2, k, [])) :
    mgmt i src (fmOnly body) s.m = m2.on (fun c => mgmtReply c (realSrc src) i.mop k []) := by
  obtain ⟨h1, h2⟩ := h
  simp [mgmt, mgmtLater, h1, fmOnly, h2, hb, now]

/-- A request of any sender. -/
theorem mgmt_answered {i : MopInfo} {src : Src} {s : State} {m m2 : M} {body : Src → M → Mg} {k : MgmtCode} {b : List Nat}
    (h : Asks i src s m) (hb : body (realSrc src) m = (m2, k, b)) :
    mgmt i src body s.m = m2.on (fun c => mgmtReply c (realSrc src) i.mop k b) := by
  simp [mgmt, mgmtLater, show arrive i src s.m = (m, true) from h, hb, now]

/-- Only the fabric manager's requests pass. -/
theorem mgmt_notPermitted {i : MopInfo} {src : Src} {s : State} {m : M} {body : M → Mg} (h : Asks i src s m)
    (hs : srcFm (realSrc src) = false) :
    mgmt i src (fmOnly body) s.m = m.on (fun c => mgmtReply c (realSrc src) i.mop .notPermitted []) := by
  simp [mgmt, mgmtLater, show arrive i src s.m = (m, true) from h, fmOnly, hs, refuse, now]

/-- A request that is answered later. -/
theorem mgmt_later {i : MopInfo} {src : Src} {s : State} {m m2 : M} {body : Src → M → MgLater} (h : Asks i src s m)
    (hb : body (realSrc src) m = (m2, none)) : mgmtLater i src body s.m = m2 := by
  simp [mgmtLater, show arrive i src s.m = (m, true) from h, hb]

/-- What a list of conditions comes to when all hold. -/
theorem checked_pass {m : M} {l : List (Bool × MgmtCode)} {f : M → Mg} (h : ∀ x ∈ l, x.1 = true) : checked m l f = f m := by
  have : l.find? (fun x => !x.1) = none := by simpa [List.find?_eq_none] using h
  simp [checked, firstRefusal, this]

/-- The first condition that fails decides the refusal. -/
theorem checked_fail {m : M} {l r : List (Bool × MgmtCode)} {k : MgmtCode} {f : M → Mg} (h : ∀ x ∈ l, x.1 = true) :
    checked m (l ++ (false, k) :: r) f = refuse m k := by
  have : (l ++ (false, k) :: r).find? (fun x => !x.1) = some (false, k) := by
    have h0 : l.find? (fun x => !x.1) = none := by simpa [List.find?_eq_none] using h
    simp [List.find?_append, h0]
  simp [checked, firstRefusal, this]

end Sys2Proof.Machine
end

