-- ==== Sys2Proof/Laws/Works.lean ====
section
/-! SUPPORT. What the driver of the built-in works does with a step, by the step's outcome. -/

namespace Sys2Proof.Machine
open Sys2Proof

@[simp] theorem work?_modWork (c : Core) (x n : Nat) (f : Work → Work) : work? (modWork c x n f) x n = (work? c x n).map f := by
  simp [work?, modWork, amGet?_amMod]

/-- A built-in work's command comes to its driver. -/
theorem boundOr_builtin {op x n : Nat} {f : M → M} {m : M} {w : Work} (h : work? m.core x n = some w) (hp : w.prog = none) :
    boundOr op x n f m = f m := by
  simp [boundOr, h, hp]

/-- A step that is made, up to position `k`: the next one is due, or the work ends. -/
theorem runWork_made_by {op x n total k : Nat} {check step : M → Work → M × Res Unit} {start : Core → Work → Core}
    {tot : M → Work → Nat} {s : State} {w v : Work} {m : M} {u : Unit} (h : Stepping op s x n w) (ht : w.step < tot s.m w)
    (hs : step (asWork s.m w) w = (m, .ok u)) (hv : work? m.core x n = some v) (hr : v.phase = .running) (he : v.step = k)
    (hT : tot (offWork s.m (m.on (fun c => stepDone c x n))) { v with step := v.step + 1, fetched := [] } = total) :
    runWork op x n check start step tot s.m = afterStep s.m m { w with step := k } total := by
  obtain ⟨hk, hn⟩ := h.key
  have hw : work? s.m.core x n = some w := h.there
  have hnext : work? (offWork s.m (m.on (fun c => stepDone c x n))).core x n = some { v with step := v.step + 1, fetched := [] } := by
    show work? (stepDone m.core x n) x n = _
    simp [stepDone, hv]
  have hu : underTag w.tag (fun m => applyStep m (step m w) x n (fun c => stepDone c x n)) s.m =
      offWork s.m (m.on (fun c => stepDone c x n)) := by
    unfold underTag
    show (applyStep (asWork s.m w) (step (asWork s.m w) w) x n _).on _ = _
    rw [hs]; rfl
  obtain ⟨v', hv'⟩ : ∃ v', v' = { v with step := v.step + 1, fetched := [] } := ⟨_, rfl⟩
  have hr' : v'.phase = .running := by rw [hv']; exact hr
  have he' : v'.step = k + 1 := by rw [hv', ← he]
  rw [← hv'] at hT hnext
  simp only [runWork, hw, h.opcode, active, h.running, h.started, if_true, Nat.not_le.mpr ht, if_false, hu, hnext, ne_eq,
    not_true_eq_false, beq_self_eq_true, Bool.true_or, false_or, Bool.not_true, Bool.false_eq_true, hr', hT, true_and, he']
  simp only [afterStep, hk, hn]
  by_cases hh : total ≤ k + 1
  · simp only [hh, if_true]
  · simp only [hh, if_false]; rfl

/-- The same of a step that is one. -/
theorem runWork_made {op x n total : Nat} {check step : M → Work → M × Res Unit} {start : Core → Work → Core}
    {tot : M → Work → Nat} {s : State} {w v : Work} {m : M} {u : Unit} (h : Stepping op s x n w) (ht : w.step < tot s.m w)
    (hs : step (asWork s.m w) w = (m, .ok u)) (hv : work? m.core x n = some v) (hr : v.phase = .running) (he : v.step = w.step)
    (hT : tot (offWork s.m (m.on (fun c => stepDone c x n))) { v with step := v.step + 1, fetched := [] } = total) :
    runWork op x n check start step tot s.m = afterStep s.m m w total :=
  runWork_made_by h ht hs hv hr he hT

end Sys2Proof.Machine
end

