-- ==== Sys2Proof/Laws/Xts.lean ====
section
/-! SUPPORT. Memory encryption: what is stored under a key and tweak gives the plaintext back, and zero is stored as zero (R643). -/

namespace Sys2Proof.Machine
open Sys2Proof

/-! ### Bytes and blocks -/

@[simp] theorem natLe_length (n v : Nat) : (natLe n v).length = n := by
  induction n generalizing v with
  | zero => rfl
  | succ n ih => simp [natLe, ih]

theorem leNat_lt (b : List Byte) : leNat b < 256 ^ b.length := by
  induction b with
  | nil => simp [leNat]
  | cons x t ih =>
    have := x.isLt
    simp only [leNat, List.length_cons, Nat.pow_succ]
    omega

theorem natLe_leNat (b : List Byte) : natLe b.length (leNat b) = b := by
  induction b with
  | nil => rfl
  | cons x t ih =>
    have hx := x.isLt
    simp only [List.length_cons, natLe, leNat]
    rw [show (x.toNat + 256 * leNat t) / 256 = leNat t by omega, ih]
    congr 1
    apply BitVec.eq_of_toNat_eq
    simp
    omega

theorem leNat_natLe (n v : Nat) (h : v < 256 ^ n) : leNat (natLe n v) = v := by
  induction n generalizing v with
  | zero => simp at h; simp [natLe, leNat, h]
  | succ n ih =>
    rw [natLe, leNat, ih (v / 256) (by rw [Nat.pow_succ] at h; omega)]
    simp
    omega

/-- A word of 32 bytes is its two blocks. -/
theorem pairBytes_pairBlocks {b : List Byte} (h : b.length = 32) : pairBytes (pairBlocks b) = b := by
  have h1 : (b.take 16).length = 16 := by simp [h]
  have h2 : ((b.drop 16).take 16).length = 16 := by simp [h]
  have l1 := leNat_lt (b.take 16)
  have l2 := leNat_lt ((b.drop 16).take 16)
  rw [h1] at l1
  rw [h2] at l2
  have e1 := natLe_leNat (b.take 16)
  have e2 := natLe_leNat ((b.drop 16).take 16)
  rw [h1] at e1
  rw [h2] at e2
  simp only [pairBytes, pairBlocks, BitVec.toNat_ofNat]
  rw [Nat.mod_eq_of_lt (by simpa using l1), Nat.mod_eq_of_lt (by simpa using l2), e1, e2,
    List.take_of_length_le (l := b.drop 16) (by simp [h]), List.take_append_drop]

/-- The blocks of the bytes of two blocks. -/
@[simp] theorem pairBlocks_pairBytes (x : Block × Block) : pairBlocks (pairBytes x) = x := by
  have h1 := x.1.isLt
  have h2 := x.2.isLt
  have t1 : (pairBytes x).take 16 = natLe 16 x.1.toNat := by
    rw [pairBytes, List.take_left' (natLe_length _ _)]
  have t2 : ((pairBytes x).drop 16).take 16 = natLe 16 x.2.toNat := by
    rw [pairBytes, List.drop_left' (natLe_length _ _), List.take_of_length_le (by simp)]
  simp only [pairBlocks, t1, t2]
  rw [leNat_natLe _ _ (by simpa using h1), leNat_natLe _ _ (by simpa using h2)]
  simp

/-! ### The block cipher -/

theorem swapBlock_twice (b : Block) (s : Block × Block) : swapBlock (swapBlock b s) s = b := by
  unfold swapBlock
  split
  · next h => subst h; split <;> simp_all
  · split
    · next h => subst h; simp
    · rfl

theorem foldl_swap_reverse (l : List (Block × Block)) (b : Block) : l.reverse.foldl swapBlock (l.foldl swapBlock b) = b := by
  induction l generalizing b with
  | nil => rfl
  | cons s t ih => simp only [List.reverse_cons, List.foldl_append, List.foldl_cons, List.foldl_nil, ih, swapBlock_twice]

@[simp] theorem aesDec_aesEnc (k : BitVec 256) (b : Block) : aesDec k (aesEnc k b) = b := foldl_swap_reverse _ _

/-- A stored block gives its plaintext back under the same key and mask. -/
@[simp] theorem openBlock_sealBlock (key : W512) (t p : Block) : openBlock key t (sealBlock key t p) = p := by
  simp [openBlock, sealBlock, xexDec, xexEnc, BitVec.xor_assoc]

@[simp] theorem sealBlock_zero (key : W512) (t : Block) : sealBlock key t 0 = 0 := by simp [sealBlock]

/-! ### Stack words -/

/-- A stored word gives its plaintext back under the key and tweak that stored it. -/
theorem openWord_sealWord (key : W512) (tweak : Block) {b : List Byte} (h : b.length = 32) :
    openWord key tweak (sealWord key tweak b) = b := by
  simp [openWord, sealWord, pairBytes_pairBlocks h]

theorem pairBlocks_zero : pairBlocks (List.replicate 32 0) = (0, 0) := by decide
theorem pairBytes_zero : pairBytes (0, 0) = List.replicate 32 0 := by decide

/-- A plaintext of zero is stored as zero. -/
theorem sealWord_zero (key : W512) (tweak : Block) : sealWord key tweak (List.replicate 32 0) = List.replicate 32 0 := by
  simp only [sealWord, pairBlocks_zero, sealBlock_zero]
  exact pairBytes_zero

/-- A stored zero decrypts to zero. -/
theorem openWord_zero (key : W512) (tweak : Block) : openWord key tweak (List.replicate 32 0) = List.replicate 32 0 := by
  have h := openWord_sealWord key tweak (b := List.replicate 32 0) (by simp)
  rwa [sealWord_zero] at h

end Sys2Proof.Machine
end

