-- ==== Sys2Proof/Tests/Slice0.lean ====
section
/-! SUPPORT. Tests: the checks of well-formed commands, rasp words written out from the spec's encodings, one step of some
commands against values worked out from the spec, and for every statement a state and operands that meet its hypotheses. -/

namespace Sys2Proof.Tests
open Sys2Proof Sys2Proof.Machine

set_option Elab.async false

/-! ### States to try commands on -/

/-- Fields of registers set. -/
def fields (l : List (Nat × Fld × Nat)) (c : Core) : Core := l.foldl (fun c x => c.setFld x.1 x.2.1 x.2.2) c

/-- Credits of a class with room. -/
def room : Credits := { allow := 1000, rallow := 100, used := 0, rused := 0, freed := 0, rfreed := 0, given := 0, rgiven := 0 }

def onPort (n : Nat) : Path := { port := n, sub := 0, mac := 0, vlan := 0, ip := 0, udp := 0, up := true, timeouts := 0 }

def sessTo (remote epoch port : Nat) : Session :=
  { st := .opened, remote := remote, epoch := epoch, peerKey := 2, paths := [onPort port], txSeq := 0, rxBase := 0, landed := [],
    sinceAck := 0, firstUnacked := 0, credits := [room, room, room], rxCredits := 3000, nextUid := 0, txPkts := [], txMsgs := [],
    asm := [], asked := [], graceEnd := 0, held := [] }

/-- A frame that lies at a place. -/
def frameOn (loc : Loc) : Frame :=
  { st := .resident, loc := some loc, dest := none, cold := false, incompressible := false, compressing := false, packed := [],
    chunks := 0, count := 0, disarmed := false }

def plainExt : Extent :=
  { st := .active, partition := 0, owner := 7, large := false, size := 16, quota := 4, cls := .n, readable := true,
    writable := true, compressible := false, hotNotice := false, frames := [(0, frameOn (.n 0 0))], subscribers := [], released := [],
    deferred := false, noBackingLogged := false, migrateTo := none }

/-- The registers that the tests meet; others read as zero. Chip 5 serves with partition 0 active, context 0 of agent 7 active,
extent 1 backed on stack 0, and sessions to the fabric manager and to agent 7. -/
def live : State :=
  let c := fields ([(GLB_CHIP, GLB_CHIP_CHIP_ID, 5), (BOOT_STATUS, BOOT_STATUS_STAGE, 8), (SEC_PART 0, SEC_PART_STATE, 2),
      (MEM_GROUP 0 0 0, MEM_GROUP_VALID, 1), (CTX_CFG0 0, CTX_CFG0_STATE, 1), (CTX_CFG0 0, CTX_CFG0_OWNER, 7),
      (CTX_CTRL 0, CTX_CTRL_KEY_SLOT, 1)] ++
    [0, 1, 12].flatMap (fun n => [(MAC_STATUS n, MAC_STATUS_LINK_UP, 1), (MAC_MAX_FRAME n, MAC_MAX_FRAME_BYTES, 9216),
      (FZT_PORT_CTRL n, FZT_PORT_CTRL_FZT_EN, 1)]) ++
    (List.range 2).flatMap (fun k => [(stackReg CE_CFG k, CE_CFG_ASSIGNED, 1), (stackReg RSP_CFG k, RSP_CFG_ASSIGNED, 1),
      (stackReg RSP_STATUS k, RSP_STATUS_STATE, 2)])) { State.reset.core with regs := [] }
  { State.reset with core := { c with
      sec := { c.sec with slots := [(0, ⟨255, none, 1⟩), (1, ⟨0, none, 2⟩), (2, ⟨255, none, 3⟩), (4095, ⟨255, none, 4⟩)] },
      net := { c.net with sessions := [(0, { sessTo (2 * 2 ^ 28) 9 0 with peerKey := 0 }), (100, sessTo 7 9 1)] },
      boot := { c.boot with mgmt := { keys := [(1, 2)], ep := 2 * 2 ^ 28, paths := [], sideband := 0 } },
      ext := { c.ext with exts := [(1, plainExt)] } } }


/-! ### Well-formed commands -/

/-- Each check of WellFormed accepts a command at the end of its range. -/
theorem test_well_formed : (([
      .workTake 4095, .snapshotRetired 65535, .frameFillDone 15, .frameTransmitted 15 0, .linkUp 0 3 0, .chkDone 15,
      .writeAgeExpiry 0 31 0, .refresh 0 0 63, .readQueueEntry 0 0 0 49151 0 false false, .readQueueEntry 0 0 0 0 15 false false, .probeTimer 8191 0,
      .copyBackStart 1023 0, .memberLost 4095, .drainEnd 255 0, .domainEntryEnd 67, .pairLinkFailure 5, .thermTrip 63,
      .referenceClockStop 4, .oldKeyExpiry 4095 0, .codebookWrite (.sideband) 0 7 0, .eventLogRead (.sideband) 4095, .operatingPointChange (.sideband) 3,
      .brk 1023, .ceacq 0 31, .vst 0 15 0, .vceq 0 3 0 0 0 0, .vget 0 0 0 3, .addi 0 0 0 65535, .jal 0 67108863, .shli 0 0 0 63,
      .movk 0 0 3 0, .getsr 0 0 14, .unitCommandEnd 0 7, .reservedInstruction 0 4294967295, .setsr 0 12 0, .vsort 0 14 0] : List Instr).all wellFormed) = true := by decide +kernel

/-- Each check of WellFormed refuses a command just past the end of its range. -/
theorem test_ill_formed : (([
      .workTake 4096, .snapshotRetired 65536, .frameFillDone 16, .frameTransmitted 16 0, .linkUp 0 4 0, .chkDone 16,
      .writeAgeExpiry 0 32 0, .refresh 0 0 64, .readQueueEntry 0 0 0 49152 0 false false, .readQueueEntry 0 0 0 0 16 false false, .probeTimer 8192 0,
      .copyBackStart 1024 0, .memberLost 4096, .drainEnd 256 0, .domainEntryEnd 68, .pairLinkFailure 6, .thermTrip 64,
      .referenceClockStop 5, .oldKeyExpiry 4096 0, .codebookWrite (.sideband) 0 8 0, .eventLogRead (.sideband) 4096, .operatingPointChange (.sideband) 4,
      .brk 1024, .ceacq 0 32, .vst 0 16 0, .vceq 0 4 0 0 0 0, .vget 0 0 0 4, .addi 0 0 0 65536, .jal 0 67108864, .shli 0 0 0 64,
      .movk 0 0 4 0, .getsr 0 0 15, .unitCommandEnd 0 8, .reservedInstruction 0 4294967296, .setsr 0 13 0, .vsort 0 15 0, .setsr 0 10 0,
      .vsort 0 16 0] : List Instr).all (fun i => !wellFormed i)) = true := by decide +kernel

/-- A read of registers carries 1 to 128 of them. -/
theorem test_read_count : ([0, 1, 128, 129].map (fun n => wellFormed (.regRead .sideband 0 4 n))) = [false, true, true, false] := by decide +kernel


/-! ### Rasp -/

def progRun : ProgRun :=
  { slot := 0, image := mkPtr 5 1 0, codeBytes := 64, saveBytes := 64, entry := 0, insts := 4, window := 4096, args := 0,
    trap := none, next := 1, ended := 0, count := 0, stopping := false, isRule := false, ruleRows := [] }

/-- A work of context 0 that its program runs. -/
def progWork : Work :=
  { ctx := 0, num := 1, desc := List.replicate 64 0, opcode := 0xC0, flags := 0, length := 64, seq := 0, deadline := 0, sync0 := 0,
    sync1 := 0, syncEn := 0, preSync := 0, preValue := 0, user := 0, tick := 0, tag := 0, phase := .running, started := true,
    noSync := false, step := 0, status := none, detail := 0, count := 0, sat := false, late := false, nonfin := false, stoch := false,
    items := [], rows := [], fetched := [], unacked := 0, queued := 0, engine := none, route := [], waited := 0, statusAddr := none,
    nItems := 0, recordAddr := none, perItem := 0, winBytes := 0, winNeed := 0,
    prog := some progRun, recordHeld := false }

/-- Thread 0 at the first instruction of a program, which is `i`; `f` sets its registers, `g` what else the chip holds. -/
def atIns (i : RIns) (f : Thread → Thread := id) (g : Core → Core := id) : State :=
  let c := g (setThr (setWork live.core progWork) 0 (f (freshThread 0 1 0 4 0)))
  { live with core := c, mem := live.mem.setBytes (placeWord c 0 0 0x80 * 32) (natLe 4 (encodeRasp i)) }

/-- Thread 0 issues `i`, and what it finds passes `f`. -/
def meets (s : State) (i : RIns) (f : Thread → ProgRun → M → Bool := fun _ _ _ => true) : Bool :=
  inService s.core && i.legal && match mayIssue s.core 0 with
  | none => false
  | some (th, p) => match fetchWord (seenBy s.m th) 0 th p with
    | (m, .word w) => decide (th.pc < p.codeBytes) && (decodeRasp w).map RIns.canon == some i && (thr? m.core 0).isSome && f th p m
    | _ => false

theorem meets_issues {s : State} {i : RIns} {f : Thread → ProgRun → M → Bool} (h : meets s i f = true) :
    ∃ th p m, Issues s 0 i th p m ∧ f th p m = true := by
  unfold meets at h
  split at h
  · simp at h
  · rename_i th p hm
    split at h
    · rename_i m w hf
      simp only [Bool.and_eq_true, decide_eq_true_eq, beq_iff_eq] at h
      obtain ⟨⟨h1, h2⟩, ⟨⟨h3, h4⟩, h5⟩, h6⟩ := h
      exact ⟨th, p, m, ⟨h1, hm, h3, h2, ⟨w, hf, h4⟩, h5⟩, h6⟩
    · simp at h

/-- A scalar register set. -/
def setReg (d v : Nat) (th : Thread) : Thread := th.setS d v false

def on (i : RIns) (f : Thread → ProgRun → M → Bool := fun _ _ _ => true) (g : Thread → Thread := id) (h : Core → Core := id) : Bool :=
  meets (atIns i g h) i f

def staysOn (m : M) : Bool := (thr? m.core 0).isSome

theorem test_on_ScalarIntegerInstructions : (scalarOps.all (fun e => on (.fT 1 31 30 31 e.func)) &&
    unaryOps.all (fun e => on (.fT 1 0 31 0 e.2.1))) = true := by decide +kernel

theorem test_on_ScalarImmediateInstructions : (immOps.all (fun e => on (.fI e.func 8 0 0xFFFF)) &&
    shiftOps.all (fun e => on (.fI 6 8 31 (64 * e.2.1 + 63))) && on (.fI 8 31 0 0x8000) && on (.fI 9 8 3 0xFFFF)) = true := by
  decide +kernel

theorem test_on_BranchesAndJumps : (branchOps.all (fun e =>
      [(0, 0), (1, 0), (0, 1)].any (fun x => on (.fB e.2.1 8 9 15) (fun th p _ => !th.sbad 8 && !th.sbad 9 &&
        e.2.2 (w64 (th.sreg 8)) (w64 (th.sreg 9)) && th.pc + 4 * 15 < p.codeBytes) (setReg 9 x.2 ∘ setReg 8 x.1)) &&
      [(0, 0), (1, 0), (0, 1)].any (fun x => on (.fB e.2.1 8 9 15) (fun th _ _ => !th.sbad 8 && !th.sbad 9 &&
        !e.2.2 (w64 (th.sreg 8)) (w64 (th.sreg 9))) (setReg 9 x.2 ∘ setReg 8 x.1))) &&
    on (.fJ 0x1E 15) (fun th p _ => th.pc + 4 * 15 < p.codeBytes) &&
    on (.fT 0x1F 0 8 0 0) (fun th p _ => !th.sbad 8 && th.sreg 8 < p.codeBytes && th.sreg 8 % 4 == 0) (setReg 8 60)) = true := by
  decide +kernel

/-- FMT words of BF16 and FP16, and twice BF16. -/
theorem test_on_ScalarFloatInstructions : (floatOps.all (fun e => on (.fT 0x20 8 9 10 e.2.1)) &&
    floatUnaryOps.all (fun e => on (.fT 0x20 8 9 0 e.2.1)) &&
    [true, false].all (fun same => on (.fT 0x21 8 9 10 0) (fun th _ m =>
      match fmtWord? (th.sreg 10 % 2 ^ 32), fmtWord? (th.sreg 10 / 2 ^ 32 % 2 ^ 32) with
      | some x, some y => !isBlock x.fmt && !isBlock y.fmt && Machine.pairOk x.fmt y.fmt && (x.fmt == y.fmt) == same && staysOn m
      | _, _ => false) (setReg 10 (if same then 0x100000001 else 0x200000001)))) = true := by decide +kernel

theorem test_on_ScratchLoadsAndStores : (loadOps.all (fun e => on (.fI e.2.1 8 9 (0x10000 - e.2.2)) (fun th _ m => !th.sbad 9 &&
      th.addr 9 (0x10000 - e.2.2) + e.2.2 == 65536 && th.addr 9 (0x10000 - e.2.2) % e.2.2 == 0 &&
      staysOn { m with core := (scratchLoad m.core 0 (th.addr 9 (0x10000 - e.2.2)) e.2.2).1 }) (setReg 9 0x10000)) &&
    storeOps.all (fun e => on (.fI e.2.1 8 9 (0x10000 - e.2.2)) (fun th _ m => !th.sbad 9 &&
      th.addr 9 (0x10000 - e.2.2) + e.2.2 == 65536 && th.addr 9 (0x10000 - e.2.2) % e.2.2 == 0 &&
      staysOn (m.on (fun c => scratchStore c 0 (th.addr 9 (0x10000 - e.2.2)) (natLe e.2.2 (th.sreg 8)) (fun _ => th.sbad 8))))
      (setReg 9 0x10000)) &&
    [2, 3].all (fun k => on (.fX 0x26 3 0 9 0 0 k) (fun th _ m => !th.sbad 9 && th.sreg 9 + 64 == 65536 && th.sreg 9 % 64 == 0 &&
      staysOn m) (setReg 9 65472)) &&
    [8, 9].all (fun k => on (.fX 0x26 3 4 9 0 0 k) (fun th _ m => match laneAddrs th 4 9 0 with
      | .inr l => l.length == 16 && staysOn m
      | _ => false)
      (setReg 9 64))) = true := by decide +kernel

theorem test_on_WindowAccesses : (on (.fI 0x14 8 9 0) (fun th _ m => !th.sbad 9 && th.addr 9 0 + 8 == winEnd m.core th &&
      staysOn { m with core := (winLoad m.core th.ctx th.num (th.addr 9 0) 8).1 }) (setReg 9 0x8FF8) &&
    on (.fI 0x15 8 9 0) (fun th _ m => th.addr 9 0 == 0x8000 && th.addr 9 0 + 8 ≤ winEnd m.core th && th.addr 9 0 % 8 == 0 &&
      staysOn (m.on (fun c => winStore c th.ctx th.num (th.addr 9 0) (natLe 8 (th.sreg 8)) (fun _ => th.sbad 8))))
      (setReg 9 0x8000) &&
    [4, 5].all (fun k => on (.fX 0x26 3 0 9 0 0 k) (fun th _ m => th.sreg 9 + 64 == winEnd m.core th && th.sreg 9 % 64 == 0)
      (setReg 9 0x8FC0)) &&
    [0, 1].all (fun k => on (.fT 0x2E 8 9 10 k) (fun th _ m => !th.sbad 9 && !th.sbad 10 && !th.sbad 8 &&
      (winLoad m.core th.ctx th.num (th.sreg 9) 8).2.2 == List.replicate 8 false && th.sreg 9 + 8 == winEnd m.core th &&
      th.sreg 9 % 8 == 0) (setReg 9 0x8FF8))) = true := by decide +kernel

/-- A pointer into frame 0 of the extent. -/
def somePtr : W64 := mkPtr 5 1 0x1000

theorem test_on_PoolAccesses : (on (.fI 0x16 8 9 0) (fun th _ m => !th.sbad 9 && match poolPost m th (w64 (th.addr 9 0)) 8 8 true false with
      | (m, .ok) => staysOn m && servedHere m.core (ptrChip (w64 (th.addr 9 0))) | _ => false) (setReg 9 somePtr.toNat) &&
    on (.fX 0x26 3 0 9 0 0 6) (fun th _ m => match poolPost m th (w64 (th.sreg 9)) 64 64 true false with
      | (m, .ok) => staysOn m | _ => false) (setReg 9 somePtr.toNat) &&
    on (.fI 0x17 8 9 0) (fun th _ m => th.addr 9 0 % 8 == 0 && match thrWriteReady m 0 th (w64 (th.addr 9 0)) (natLe 8 (th.sreg 8)) (fun _ => th.sbad 8) (th.sbad 8) with
      | (m, .ok here) => here && staysOn m | _ => false) (setReg 9 somePtr.toNat) &&
    on (.fX 0x26 3 0 9 0 0 7) (fun th _ m => th.sreg 9 % 64 == 0 && match thrWriteReady m 0 th (w64 (th.sreg 9)) (natLe 64 (th.vreg 3).toNat) (th.vbad 3) (th.vbad 3 0 || th.vbad 3 1) with
      | (m, .ok here) => here && staysOn m | _ => false) (setReg 9 somePtr.toNat) &&
    [8, 64].all (fun n => match thrRead live.m 0 (freshThread 0 1 0 4 0) somePtr n with | (_, .ok _) => true | _ => false)) = true := by
  decide +kernel

/-- Scratch of thread 0 with a block at 64. -/
def withBlock (b : List Byte) (c : Core) : Core := scratchWrite c 0 64 b (fun _ => false)

/-- A unit block. -/
def unitBlk (cmd f0 f8 f10 f14 f18 : Nat) : List Byte := natLe 8 f0 ++ natLe 8 f8 ++ natLe 4 f10 ++ natLe 4 f14 ++ natLe 4 f18 ++ natLe 1 cmd ++ natLe 3 0

def posts (k : Nat) (b : List Byte) (h : Core → Core := id) : Bool :=
  on (.fT 0x28 8 9 0 0) (fun th _ m => !th.sbad 9 && th.sreg 9 + 32 ≤ 65536 && th.sreg 9 % 32 == 0 &&
    match scratchRead m.core 0 (th.sreg 9) 32 with
    | (c, blk, bad) => bad == List.replicate 32 false && (ublk blk).cmd == k && th.nextTag == some 0 &&
      match unitPost { m with core := c } 0 th (ublk blk) (th.fmt.toNat % 2 ^ 32) with
      | (m, .ok) => staysOn m && (k != 0 || servedHere m.core (ptrChip (w64 (ublk blk).f0)))
      | _ => false) (setReg 9 64) (withBlock b ∘ h)

/-- Table 0: 100 rows of 64 BK8 values in the extent. -/
def someTable : Table :=
  freshTable { table := 0, extent := 1, elemOff := 0x10000, rows := 100, rowLen := 64, fmt := 8, planeA := 0x20000, planeB := 0x30000, epoch := 0x40000, stats := 0,
               shadow := 0x50000, hbase := 0, sources := 1, rate := 0, mqDepth := 0 } 0

theorem test_on_UnitCommands : (posts 0 (unitBlk 0 somePtr.toNat 128 32 0 0) && posts 1 (unitBlk 1 somePtr.toNat 128 32 0 0) &&
    posts 2 (unitBlk 2 64 128 32 0 0) (fun c => c.rset (CTX_WIN_LEN 0 0) 96) && posts 3 (unitBlk 3 0x8000 128 32 0 0) &&
    posts 4 (unitBlk 4 0x8FE0 128 32 0 0) && posts 8 (unitBlk 8 128 0 8 0 0) && posts 9 (unitBlk 9 somePtr.toNat 1 0 0 0) &&
    [5, 6, 7].all (fun k => posts k (unitBlk k (99 * 2 ^ 32) 128 0 2 0) (fun c => modThr (setTable c 0 someTable) 0 (fun th => { th with fmt := 8 }))) &&
    on (.fT 0x28 8 9 0 1) (fun th _ _ => !th.sbad 9 && match th.units.find? (fun u => u.tag == th.sreg 9) with
      | some u => u.result.isSome | none => false) (fun th => { th with units := [⟨0, 0, [], 0, some (5, false)⟩] }) &&
    (match unitRun live.m 0 (freshThread 0 1 0 4 0) ⟨0, 0, unitBlk 0 somePtr.toNat 128 32 0 0, 0, none⟩ with
      | (_, .ok _) => true | _ => false)) = true := by decide +kernel

/-- An engine block. -/
def engBlk (cmd f1 f2 f4 f8 fC f10 f18 : Nat) : List Byte :=
  natLe 1 cmd ++ natLe 1 f1 ++ natLe 2 f2 ++ natLe 4 f4 ++ natLe 4 f8 ++ natLe 4 fC ++ natLe 8 f10 ++ natLe 4 f18 ++ natLe 4 0

/-- Engine 0 is held by the work. -/
def withEngine (th : Thread) : Thread := { th with engine := some 0 }

def engPosts (k : Nat) (b : List Byte) (held : Bool) : Bool :=
  on (.fT 0x2C 8 9 0 1) (fun th _ m => !th.sbad 9 && th.sreg 9 + 32 ≤ 65536 && th.sreg 9 % 32 == 0 &&
    match scratchRead m.core 0 (th.sreg 9) 32 with
    | (c, blk, bad) => bad == List.replicate 32 false && (eblk blk).cmd == k &&
      if held then th.engine == some 0 && engPost c th (eblk blk) == none && staysOn { m with core := modEng c 0 id }
      else th.engine == none && th.lost && staysOn { m with core := c })
    (fun th => setReg 9 64 (if held then withEngine th else { th with lost := true })) (withBlock b)

theorem test_on_EngineCommands : (on (.fT 0x2C 8 0 0 0) (fun th _ m => th.engine.isNone &&
      (enginesOf m.core (ctxPart m.core th.ctx)).filter (engineFree m.core) != []) id
      (fun c => c.setFld (stackReg CE_STATUS 0) CE_STATUS_STATE 2) &&
    [true, false].all (fun held => engPosts 0 (engBlk 0 1 0 0 0 0 somePtr.toNat 0) held &&
      engPosts 1 (engBlk 1 0 0 0 1 0 somePtr.toNat 1) held && engPosts 2 (engBlk 2 1 0 6143 1 0 0 0) held &&
      engPosts 3 (engBlk 3 0 1 0 1 (32 * 65536) 128 0) held) &&
    [(true, []), (false, []), (false, [0])].all (fun x => on (.fT 0x2C 8 9 0 2) (fun th _ _ => !th.sbad 9 && th.sreg 9 < th.nextCmd)
      (fun th => { th with lost := x.1, cmds := x.2, nextCmd := 1 })) &&
    on (.fT 0x2C 0 0 0 3) (fun th _ m => staysOn (m.on (fun c => releaseEngine c th))) withEngine &&
    engMay [] (eblk (engBlk 2 1 0 0 1 0 0 0))) = true := by decide +kernel

/-- Sync object 4 of partition 0 with a count of 3. -/
def someSync : SyncObj :=
  { count := 3, target := 5, deadline := 0, partition := 0, owner := 7, ownerValid := true, frozen := false, missed := false,
    armed := false, poisoned := false, waiters := [] }

def withSync (c : Core) : Core := setSync c 4 someSync

def running (th : Thread) : Thread := { th with units := [⟨0, 0, [], 0, none⟩] }

theorem test_on_SyncInstructions : ([false, true].all (fun busy => on (.fT 0x2D 0 9 0 0)
      (fun th _ m => syncTrap m.core th 9 == none && allEnded th == !busy && staysOn (m.on (fun c => syncInc c (th.sreg 9) (ctxPart c th.ctx))))
      (fun th => setReg 9 4 (if busy then running th else th)) withSync && on (.fT 0x3F 0 0 0 7)
      (fun th _ _ => allEnded th == !busy) (fun th => if busy then running th else th)) &&
    [(1, 0), (3, 10)].all (fun k => on (.fT 0x2D 8 9 k.2 k.1) (fun th _ m => syncTrap m.core th 9 == none && !th.sbad 10 &&
      (sync? m.core (th.sreg 9)).isSome) (setReg 9 4) withSync) &&
    [3, 4].all (fun v => on (.fT 0x2D 0 9 10 2) (fun th _ m => syncTrap m.core th 9 == none && !th.sbad 10 &&
      (syncWait m.core (th.sreg 9) (th.sreg 10) (.thread 0)).2 == (v == 3) &&
      staysOn { m with core := (syncWait m.core (th.sreg 9) (th.sreg 10) (.thread 0)).1 }) (setReg 9 4 ∘ setReg 10 v) withSync)) = true := by
  decide +kernel

/-- The work's program otherwise. -/
def withProg (f : ProgRun → ProgRun) (c : Core) : Core := modWork c 0 1 (fun w => { w with prog := w.prog.map f })

theorem test_on_SystemInstructions : ([true, false].all (fun stop => on (.fT 0x3F 0 0 0 0) (fun th _ m =>
      allEnded th && staysOn (m.on (fun c => releaseEngine c th)) && domainServes (m.on (fun c => releaseEngine c th)).core 20 &&
      match (work? m.core th.ctx th.num).bind (·.prog) with
      | some q => !q.isRule && q.stopping == stop
      | none => false) id (withProg (fun q => { q with stopping := stop }))) &&
    [(false, 0), (false, 1), (true, 0)].all (fun x => on (.fT 0x3F 0 8 9 1) (fun th _ m => !th.sbad 8 && !th.sbad 9 && allEnded th &&
      (exitStatus (th.sreg 8) th.poisonOut == .done) == (x.2 == 0) && match (work? m.core th.ctx th.num).bind (·.prog) with
      | some q => q.isRule == x.1 && (!x.1 || match work? m.core th.ctx th.num with
        | some w => (match ruleStores m w with | (_, .ok _) => true | _ => false)
        | none => false)
      | none => false) (setReg 8 x.2) (fun c => setTable (modWork (withProg (fun q => { q with isRule := x.1 }) c) 0 1 (fun w =>
        { w with desc := List.replicate 12 0 ++ [8] ++ List.replicate 51 0 })) 0 someTable)) &&
    [0, 1, 2, 3, 4, 5, 6, 7, 8, 9, 10, 11, 12, 13, 14].all (fun b => on (.fT 0x3F 8 0 b 2) (fun th p m => b == 5 ||
      match work? m.core th.ctx th.num with
      | some w => (specialRegs m.core 0 th w p).any (·.1 == b)
      | none => false)) &&
    [11, 12].all (fun d => on (.fT 0x3F d 9 0 3) (fun th _ _ => !th.sbad 9)) &&
    [4, 5, 6].all (fun k => on (.fT 0x3F 0 0 0 k))) = true := by decide +kernel

theorem test_on_VectorIntegerInstructions : ((laneOps.map LaneOp.func ++ laneCmps.map LaneCmp.func ++ [20, 21, 23]).all (fun k =>
      on (.fV 0x24 3 14 15 3 2 k)) && [22, 24, 25].all (fun k => on (.fV 0x24 15 14 0 3 2 k)) &&
    [26, 27].all (fun k => on (.fV 0x24 15 14 0 3 2 k) (fun th _ _ => enabled (th.mreg 3) (th.lanes 2 14) == []) &&
      on (.fV 0x24 15 14 0 0 2 k) (fun th _ _ => enabled (th.mreg 0) (th.lanes 2 14) != [])) &&
    on (.fV 0x24 14 13 0 0 0 28) && on (.fV 0x24 3 15 0 3 0 29)) = true := by decide +kernel

theorem test_on_VectorFloatInstructions : ((laneFloats.map (·.2.1) ++ laneFloatCmps.map (·.2.1)).all (fun k => on (.fV 0x25 3 14 15 3 0 k)) &&
    [4, 11].all (fun k => on (.fV 0x25 15 14 0 3 0 k)) &&
    on (.fV 0x25 15 14 0 0 0 12) (fun th _ _ => enabled (th.mreg 0) (th.lanes 0 14) != []) &&
    on (.fV 0x25 15 14 0 3 0 12) (fun th _ _ => enabled (th.mreg 3) (th.lanes 0 14) == [])) = true := by decide +kernel

theorem test_on_VectorMovesAndRecords : (on (.fX 0x26 15 0 31 3 2 0) && on (.fX 0x26 0 15 31 0 2 1) && on (.fX 0x26 0 0 31 3 2 14) &&
    on (.fX 0x26 3 4 9 0 0 13) (fun th _ m => match convPair (th.sreg 9) with
      | .inr _ => (match vcvt 3 4 9 0 m th with | (m, .next _) => staysOn m | _ => false)
      | _ => false) (setReg 9 0x100000001) &&
    on (.fX 0x26 3 0 9 0 0 10) (fun th _ m => !th.sbad 9 && (((List.range 16).filter (bitOf (th.mreg 0))).foldl (dvLane 0)
      { c := m.core, lanes := th.lanes 0 3, addr := th.sreg 9, prev := 0, lo := false, hi := false, trap := none }).trap == none) &&
    on (.fX 0x26 14 0 9 0 0 11) (fun th _ m => match recordTrap m.core th 9 with
      | .inr f => staysOn { m with core := (readRecord m.core 0 (th.sreg 9) f.fmt).1 } | _ => false) (fun th => { th with fmt := 8 }) &&
    on (.fX 0x26 3 0 9 0 0 12) (fun th _ m => match recordTrap m.core th 9, venc 3 9 m th 0 with
      | .inr _, (m, .next x) => x == th && staysOn m | _, _ => false) (fun th => { th with fmt := 8 })) = true := by decide +kernel

/-- The program has an instance to start on thread 1, one saved, and an instance that meets a reserved word. -/
theorem test_on_ThreadsAndTraps : ((let s := atIns (.fT 0 0 0 0 0)
      threadFree s.core (ctxPart s.core 0) 1 && progRun.next < progRun.insts && mayIssue s.core 0 != none && decodeRasp 0 == none &&
      match mayIssue s.core 0 with
      | some (th, p) => (match fetchWord s.m 0 th p with | (m, .word w) => w == 0 && staysOn m | _ => false)
      | none => false)) = true := by decide +kernel

/-! ### Bring-up, registers and the tick -/

/-- A packet that arrives with a tag that verifies. -/
def pkt (port srcEp ctx cls : Nat) : Pkt :=
  { port := port, sub := 0, frameLen := 300, dscp := 0, ver := 1, cls := cls, enc := true, retx := false, len := 100, srcEp := srcEp,
    dstEp := 2 ^ 28 + 5, epoch := 9, ctx := ctx, seq := 0, ackBase := 0, ackMap := 0, crReq := 0, crRsp := 0, crMgt := 0,
    ackReq := false, xid := 0, msgOff := 0, crcOk := true, tagOk := true, oldOk := false, time := 100 }

def fmPkt : Pkt := pkt 0 (2 * 2 ^ 28) 0xFFFF 2
def fm : Src := .fm fmPkt
def agPkt (cls : Nat) : Pkt := pkt 1 7 0 cls

/-- The chip with something else in its state. -/
def with_ (f : Core → Core) (s : State := live) : State := { s with core := f s.core }

/-- A request of the fabric manager comes as far as its body, and the chip then passes `f`. -/
def asks (i : MopInfo) (f : M → Bool := fun _ => true) (s : State := live) (src : Src := fm) : Bool :=
  srcFm (realSrc src) && match arrive i src s.m with
  | (m, true) => f m
  | _ => false

theorem asks_fmAsks {i : MopInfo} {f : M → Bool} {s : State} {src : Src} (h : asks i f s src = true) :
    ∃ m, FmAsks i src s m ∧ f m = true := by
  unfold asks at h
  split at h
  · rename_i m hm
    simp only [Bool.and_eq_true] at h
    exact ⟨m, ⟨hm, h.1⟩, h.2⟩
  · simp at h

def staged (k : Nat) (c : Core) : Core := setStage c k

/-- Bytes of the flash from an offset. -/
def put (a : Nat) (l : List Byte) : AMap Byte := l.zipIdx.map (fun x => (a + x.2, x.1))

/-- An envelope at `e` of an object of kind `kind` with no body. -/
def envelope (e kind digest : Nat) : AMap Byte :=
  put e (natLe 4 0x4E564C45 ++ natLe 2 kind ++ natLe 2 0 ++ natLe 4 0 ++ natLe 4 0 ++ natLe 48 digest) ++ put (e + 0x152D) (natLe 3 0)

def hdrBytes : List Byte :=
  natLe 4 0x48534C46 ++ natLe 2 1 ++ natLe 2 0 ++ natLe 1 3 ++ natLe 1 31 ++ natLe 1 100 ++ natLe 1 0 ++ natLe 4 512 ++ natLe 4 0x1000 ++
  natLe 4 5424 ++ natLe 4 0x3000 ++ natLe 4 5424 ++ natLe 4 0x5000 ++ natLe 4 65536 ++ List.replicate 20 0

/-- A flash with a header and two objects without bodies. -/
def someFlash (digest : Nat) : AMap Byte :=
  put 0 hdrBytes ++ put 0x3C (natLe 4 (crc32c hdrBytes).toNat) ++ envelope 0x1000 1 digest ++ envelope 0x3000 2 digest

def someHdr : FlashHdr :=
  { flags := 0, readCmd := 3, dummy := 31, clockMhz := 100, mib := 512, imageOff := 0x1000, imageLen := 5424, configOff := 0x3000,
    configLen := 5424, certOff := 0x5000, certLen := 65536 }

/-- Start-up at step `k`, with the flash above and its header read. -/
def starting (k : Nat) (digest : Nat := 0) : State :=
  with_ (fun c => modBoot (staged k c) (fun b => { b with flash := someFlash digest, hdr := some someHdr }))

/-- The digest of an object without a body. -/
def noBody : Nat := Config.sha3 [] % 2 ^ 384

/-- The same with sound digests and key hashes. -/
def signed : State :=
  with_ (fun c => modSec c (fun x => { x with fuses := { x.fuses with
    vendorKh := Config.sha3 (flashBytes c 0x1040 1984) % 2 ^ 384,
    ownerKh := some (Config.sha3 (flashBytes c 0x3040 1984) % 2 ^ 384), svnMin := 0 } })) (starting 2 noBody)

theorem natLe_back (n v : Nat) : leNat (natLe n v) = v % 256 ^ n := by
  induction n generalizing v with
  | zero => simp [natLe, leNat, Nat.mod_one]
  | succ n ih =>
    simp only [natLe, leNat, ih, BitVec.toNat_ofNat]
    rw [show (256 : Nat) ^ (n + 1) = 256 * 256 ^ n from by rw [Nat.pow_succ, Nat.mul_comm], Nat.mod_mul]

set_option exponentiation.threshold 400 in
theorem noBody_lt : noBody < 256 ^ 48 := by
  have h : (256 : Nat) ^ 48 = 2 ^ 384 := by rw [show (256 : Nat) = 2 ^ 8 from rfl, ← Nat.pow_mul]
  rw [h]
  exact Nat.mod_lt _ (Nat.two_pow_pos 384)

theorem leNat_of_lt {n v : Nat} (h : v < 256 ^ n) : leNat (natLe n v) = v := by rw [natLe_back, Nat.mod_eq_of_lt h]

theorem leNat_noBody : leNat (natLe 48 noBody) = noBody := leNat_of_lt noBody_lt

theorem objectOk_of {c : Core} {off len kind kh z : Nat} {svn : Bool} (a b : Bool)
    (h1 : (flashNat c (envAt off len) 4 == 0x4E564C45 && flashNat c (envAt off len + 4) 2 == kind &&
      flashNat c (envAt off len + 6) 2 == 0 && flashNat c (envAt off len + 0x152D) 3 == 0) = true)
    (h2 : Config.sha3 (flashBytes c (envAt off len + 0x40) 1984) % 2 ^ 384 = kh)
    (h3 : (!svn || (c.sec.fuses.svnMin ≤ flashNat c (envAt off len + 8) 4 && flashNat c (envAt off len + 8) 4 ≤ 64)) = true)
    (hz : Config.sha3 (flashBytes c off (len - envBytes)) % 2 ^ 384 = z) (h6 : flashNat c (envAt off len + 0x10) 48 = z) :
    objectOk c off len kind kh svn a b = (a && b) := by
  have e2 : (Config.sha3 (flashBytes c (envAt off len + 0x40) 1984) % 2 ^ 384 == kh) = true := by rw [h2]; exact beq_self_eq_true kh
  have e6 : (Config.sha3 (flashBytes c off (len - envBytes)) % 2 ^ 384 == flashNat c (envAt off len + 0x10) 48) = true := by
    rw [hz, h6]; exact beq_self_eq_true z
  unfold objectOk
  dsimp only
  rw [Nat.add_zero, h1, e2, h3, e6]
  cases a <;> cases b <;> rfl

set_option maxRecDepth 100000 in
/-- The signed objects stand every check of R633 but the two signatures, whose verdicts come with the command. -/
theorem test_signed_image (a b : Bool) :
    objectOk (endStep signed.core 3 5) 0x1000 5424 1 (endStep signed.core 3 5).sec.fuses.vendorKh true a b = (a && b) :=
  objectOk_of a b (by decide +kernel) rfl (by decide +kernel) rfl leNat_noBody

set_option maxRecDepth 100000 in
theorem test_signed_config (a b : Bool) : ∃ kh, (endStep signed.core 3 5).sec.fuses.ownerKh = some kh ∧
    objectOk (endStep signed.core 3 5) 0x3000 5424 2 kh false a b = (a && b) :=
  ⟨_, rfl, objectOk_of a b (by decide +kernel) rfl (by decide +kernel) rfl leNat_noBody⟩

/-- A body that holds every section. -/
def cfgBody : List Byte := (List.range 9).flatMap (fun t => natLe 2 (t + 1) ++ natLe 2 0 ++ natLe 4 0)

def part0 (configured : Bool) : PartDef :=
  { configured := configured, clusters := 0xFFFF, engines := 0xFFFF, base := 0, g := 5, ways := List.replicate 4 0xFFFFFF,
    dirWays := 16, linkEnc := false, pGib := 40 }

/-- A configuration with one partition, or with two that overlap. -/
def someCfg (two : Bool := false) : ConfigDef :=
  { range := true, chipId := 4095, startOp := 3, parts := part0 true :: part0 two :: List.replicate 14 (part0 false), period := 2000,
    source := 0, candidate := true, priority := 15, ptpPort := 0, ring := none, pair := none,
    ports := List.replicate 16 { mode := 0, roceEn := true, macs := [1, 2, 3, 4] }, outStack := 15, spare := true, power := none,
    fmKeys := [(1, 2)], fmEp := 2 * 2 ^ 28, paths := [{ port := 0, sub := 0, mac := 0, vlan := 0, ip := 0, udp := 0 }], sideband := 0 }

def cfgHdr : FlashHdr := { someHdr with configLen := 5424 + cfgBody.length }

/-- Start-up at step 3 with a configuration whose body holds every section. -/
def configuring : State :=
  with_ (fun c => modBoot (staged 3 c) (fun b => { b with flash := put 0x3000 cfgBody, hdr := some cfgHdr }))

/-- A field of a register set in the chip. -/
def having (a : Nat) (f : Fld) (v : Nat) (s : State := live) : State := with_ (fun c => c.setFld a f v) s

theorem test_on_StartUpSteps : (atStep State.reset.core 0 && atStep (starting 1).core 1 && hdrOk (endStep (starting 1).core 2 300000) &&
    readHdr (endStep (starting 1).core 2 300000) == someHdr && atStep signed.core 2 && atStep configuring.core 3 &&
    configWhole (endStep configuring.core 4 5) cfgHdr someCfg && cfgRange someCfg &&
    partsApart someCfg && atStep (starting 4).core 4 && (starting 4).core.fld ECC_STATUS ECC_STATUS_FILL == 0 &&
    (having ECC_STATUS ECC_STATUS_FILL 1 (starting 4)).core.fld ECC_STATUS ECC_STATUS_FILL == 1 && atStep (starting 6).core 6 &&
    (having ECC_STATUS ECC_STATUS_FILL 2 (starting 6)).core.fld ECC_STATUS ECC_STATUS_FILL == 2 &&
    !(starting 6).core.flag PWR_OP PWR_OP_BUSY && minimumSet (starting 6).core && bootStage (starting 6).core == 6 &&
    [1, 2].all (fun k => (having BOOT_STATUS BOOT_STATUS_LOAD_TRIES (k - 1) (starting 2)).core.satFld BOOT_STATUS BOOT_STATUS_LOAD_TRIES
      |>.fld BOOT_STATUS BOOT_STATUS_LOAD_TRIES |> (· == k))) = true := by decide +kernel

theorem test_on_BadBootObjectsGoToRecovery : (hdrOk (endStep (with_ (staged 1)).core 2 5) == false && (starting 2).core.sec.fuses.ownerKh.isNone &&
    partsApart (someCfg true) == false) = true := by decide +kernel

theorem test_on_ResetsAndRecovery : (live.core.pins.pwrGood && !live.core.pins.resetAsserted && !live.core.pins.thermTrip &&
    asks { mop := 0x0B05, recovery := true, slot0 := true } (fun m => 511 * 2 ^ 20 + 4096 * 255 + 4096 == flashSize m.core)
      (with_ (staged 9)) .sideband && asks { mop := 0x0B07, recovery := true } (s := with_ (staged 9)) (src := .sideband) &&
    bootStage (with_ (staged 9)).core == 9) = true := by decide +kernel

theorem test_on_PinsAndTestAccess : (alertAt 47 ≤ 100 && 100 < tripAt 47 && alertAt 48 ≤ 104 && 104 < tripAt 48 && 95 + 5 ≤ alertAt 0 &&
    live.core.pins.alerting == [] && powered live.core && !live.core.pins.stoppedClocks.contains 0 && !soonAgain live.core &&
    (with_ (fun c => { c with glb := { c.glb with atelier := .restarting } })).core.glb.atelier == .restarting &&
    live.core.glb.atelier == .running && !bitOf (live.core.fld GLB_FENCED GLB_FENCED_LINKS) 5) = true := by decide +kernel

/-- A clock of 100 µs, whose edge is expected at 100,000 ns. -/
def ticks (source : Nat) (c : Core) : Core :=
  modTck (fields [(TCK_CONFIG, TCK_CONFIG_PERIOD_US, 100), (TCK_CONFIG, TCK_CONFIG_SOURCE, source), (TCK_STATUS, TCK_STATUS_MASTER, 1)] c)
    (fun t => { t with next := 100000 })

/-- The window of R50 from both sides: 99,000 to 101,000 ns after the last boundary. -/
theorem test_on_TickBoundaries : (ticking (with_ (ticks 0)).core && !edgeDriven (with_ (ticks 0)).core && (with_ (ticks 0)).core.tck.next ≤ max 0 100000 &&
    ticking (with_ (ticks 1)).core && edgeDriven (with_ (ticks 1)).core && periodNs (with_ (ticks 1)).core - periodNs (with_ (ticks 1)).core / 100 == 99000 &&
    periodNs (with_ (ticks 1)).core + periodNs (with_ (ticks 1)).core / 100 == 101000 && (with_ (ticks 1)).core.tck.last == 0 &&
    live.core.tck.last + 1000 ≤ max live.core.glb.now 1000) = true := by decide +kernel

theorem test_on_TickReferencesAndOverruns : (ticking (with_ (ticks 2)).core && tickSource (with_ (ticks 2)).core == 2 &&
    tickSource (with_ (ticks 3)).core == 3 && (List.range 4).any (linkUp ((with_ (ticks 3)).core.at 5) 0) && isMaster (with_ (ticks 2)).core &&
    !(with_ (ticks 2)).core.tck.refLost && (having TCK_OVERRUN TCK_OVERRUN_CONSECUTIVE 3).core.fld TCK_OVERRUN TCK_OVERRUN_CONSECUTIVE == 3 &&
    !live.core.flag TCK_OVERRUN TCK_OVERRUN_ESCALATED &&
    (let c := (having TCK_OVERRUN TCK_OVERRUN_ESCALATED 1 (having TCK_OVERRUN TCK_OVERRUN_CLEAN_TICKS 64)).core
     64 ≤ c.fld TCK_OVERRUN TCK_OVERRUN_CLEAN_TICKS && c.flag TCK_OVERRUN TCK_OVERRUN_ESCALATED) &&
    (with_ (fun c => modTck c (fun t => { t with ptp := { t.ptp with delay := some 7 } }))).core.tck.ptp.delay == some 7 && asks mopWrite) = true := by decide +kernel

/-- A member of a ring of chips 5 and 9, with sessions to its neighbours. -/
def member (st : Nat) (c : Core) : Core :=
  let c := fields [(RING_STATUS, RING_STATUS_STATE, st), (RING_NEIGHBOURS, RING_NEIGHBOURS_WEST_VALID, 1), (RING_NEIGHBOURS, RING_NEIGHBOURS_WEST_ID, 9),
    (RING_NEIGHBOURS, RING_NEIGHBOURS_EAST_VALID, 1), (RING_NEIGHBOURS, RING_NEIGHBOURS_EAST_ID, 9)] c
  let net := { c.net with sessions := c.net.sessions ++ [(8188, sessTo (2 ^ 28 + 9) 9 12), (8190, sessTo (2 ^ 28 + 9) 9 14)] }
  { c with net := net, ring := { c.ring with members := [(5, 0), (9, 0)] } }

def inRing : State := with_ (member 2)
def ringPkt (cls : Nat) : Pkt := pkt 12 (2 ^ 28 + 9) 0xFFFF cls


/-! ### The spec's worked examples -/

/-- A rasp thread's operands in a word, R371's examples: ADDI s8, s0, 0x100; UPOST s9, s8; UWAIT s10, s9; and a word of each other form
written out from Tables 10-4 to 10-6, with reserved words. -/
theorem test_rasp_words : [
      (0x09000100, some (.fI 0x02 8 0 0x100)), (0xA1280000, some (.fT 0x28 9 8 0 0)), (0xA1490001, some (.fT 0x28 10 9 0 1)),
      (0, none),
      (0b000001_00011_00001_00010_00000010011, some (.fT 0x01 3 1 2 19)), (0b000001_00011_00001_00010_00000011000, none),
      (0b000110_00100_00101_0000000010_000111, some (.fI 0x06 4 5 135)), (0b000110_00100_00101_0000000011_000111, none),
      (0b001111_00110_00111_1111111111111000, some (.fI 0x0F 6 7 0xFFF8)), (0b011000_00001_00010_0000000000000011, some (.fB 0x18 1 2 3)),
      (0b011110_11111111111111111111111111, some (.fJ 0x1E 0x3FFFFFF)), (0b011111_11111_00001_00000_00000000000, some (.fT 0x1F 31 1 0 0)),
      (0b100000_00001_00010_00011_00000000111, some (.fT 0x20 1 2 3 7)), (0b100001_00001_00010_00011_00000000001, none),
      (0b101100_00001_00010_00000_00000000011, some (.fT 0x2C 1 2 0 3)), (0b101101_00001_00010_00011_00000000010, some (.fT 0x2D 1 2 3 2)),
      (0b101110_00001_00010_00011_00000000001, some (.fT 0x2E 1 2 3 1)), (0b111111_00001_00000_01111_00000000010, none),
      (0b111111_00001_00000_01110_00000000010, some (.fT 0x3F 1 0 14 2)), (0b111111_01010_00001_00000_00000000011, none),
      (0b100100_0001_0010_0011_01_10_0000010001, some (.fV 0x24 1 2 3 1 2 17)), (0b100100_0100_0010_0011_01_10_0000010001, none),
      (0b100101_0001_0010_0011_00_01_0000000111, none), (0b100101_0001_0010_0011_00_00_0000000111, some (.fV 0x25 1 2 3 0 0 7)),
      (0b100110_0010_0011_00100_01_00_000001011, some (.fX 0x26 2 3 4 1 0 11)), (0b100110_0011_0011_00100_01_00_000001011, none)].all
    (fun x => decodeRasp x.1 == x.2) = true := by decide +kernel

/-- R79's example: byte 64 of frame 9,216 of extent 0x1F03 on chip 0x2A7. -/
theorem test_pool_pointer : mkPtr 0x2A7 0x1F03 0x480000040 = 0x2A71F03480000040#64 ∧ ptrOffset 0x2A71F03480000040 / 2 ^ 21 = 9216 ∧
    ptrOffset 0x2A71F03480000040 % 2 ^ 21 = 64 := by decide +kernel

/-- Table 4-10: a BK8 block fitted to 100.3, with 0.01 and −0.0004. -/
theorem test_bk8_block :
    (let d := fun (n k : Nat) => divFp32 (FVal.ofInt n) (FVal.ofInt k)
     let b := encodeBlock ⟨.bk8, false, .even, true, 0⟩ [] (List.replicate 32 0) 0
       ([some (d 1003 10), some (d 1 100), some (d 4 10000).neg] ++ List.replicate 29 (some FVal.zero)) 0
     b.scale == 0x7D && b.elems.take 3 == [0x7D, 0x12, 0x81]) = true := by decide +kernel

/-- Table 5-3: the same block re-encoded at σ = 2, which R192 gives for a recorded maximum of 612 and H = 1. -/
theorem test_recast_block :
    (largerScale .bk8 (fitScale .bk8 [] (FVal.ofInt 112)) (fitScale .bk8 [] (FVal.ofInt 1224)) == 0x81 &&
     [0x7D, 0x12, 0x81].map (fun b => let e := encodeValue ⟨.bk8, false, .even, false, 0⟩ [] 0x81 0 0 (decodeValue .bk8 [] 0x7D b)
       (e.bits, e.unf)) == [(0x5D, false), (0x01, false), (0x80, true)]) = true := by decide +kernel

/-- Adding 2^−10 to 1.0 in BF16: nearest-even stays, and stochastic rounding goes up where D + X reaches 65,536 (R147). -/
theorem test_bf16_add : ([(Round.even, 0, 0x3F80), (.stoch, 0, 0x3F80), (.stoch, 57343, 0x3F80), (.stoch, 57344, 0x3F81)].all (fun x =>
    (encodeValue ⟨.bf16, false, x.1, false, 0⟩ [] 0 x.2.1 0 (addFp32 (decodeBf16 0x3F80) (.fin false 1 (-10)))).bits == x.2.2)) = true := by
  decide +kernel

/-- Table 7-4: a delta-varint bag. -/
theorem test_varint_bag : (decodeList 10 0 ([0x82, 0x80, 0x80, 0x01, 0x06, 0x87, 0x01, 0xF1, 0xFE, 0x7F].map (fun b => (b, false)))).1 =
    [1048577, 1048580, 1048512, 7] := by decide +kernel

/-- Table 7-9: the weights of an Adagrad step on a BF16 row, whose state has become 0.25. -/
theorem test_adagrad :
    (let q := fun (n : Int) => (FVal.ofInt n).scale (-5)
     let p : OptParams := ⟨1, divFp32 (FVal.ofInt 1) (FVal.ofInt 20), divFp32 (FVal.ofInt 1) (FVal.ofInt 100000000), FVal.zero, FVal.zero, FVal.zero, 0⟩
     let st := addFp32 (decodeFp32 0x3DC00000) (meanFp32 (q 20) 4)
     fp32Bits st == 0x3E800000 && [(16, 8, false, 243, -9), (-8, -16, true, 205, -10), (32, -8, false, 131, -7), (3, 16, false, 179, -12)].all (fun x =>
       let w := optWeight p (q x.1) (divFp32 (q x.2.1) (addFp32 (sqrtFp32 st) p.eps))
       (decodeBf16 (encodeValue ⟨.bf16, false, .even, false, 0⟩ [] 0 0 0 w).bits).eqv (.fin x.2.2.1 x.2.2.2.1 x.2.2.2.2))) = true := by
  decide +kernel

/-- The check values of both CRCs over "123456789" (R661). -/
theorem test_crc : crc32c ((List.range 9).map (fun i => BitVec.ofNat 8 (0x31 + i))) = 0xE3069283 ∧
    crc64 ((List.range 9).map (fun i => BitVec.ofNat 8 (0x31 + i))) = 0x6C40DF5F0B497347 := by decide +kernel

/-- A frame of 3,000 accesses a tick sends its notice at its second boundary, and one of 1,800 never does (R111, R112). -/
theorem test_hot_frames :
    (let go := fun (n : Nat) => (List.range 3).map (fun k => (Nat.repeat (fun c => sampleFrame (modFrame c 1 0 (fun y => { y with count := y.count + n })) 1 0) (k + 1)
       (with_ (fun c => modExt ((c.setFld EXT_HOT EXT_HOT_THRESHOLD 4096).setFld EXT_CTRL EXT_CTRL_HOT_EN 1) 1 (fun x => { x with hotNotice := true }))).core))
     (go 3000).map (fun c => (match ext? c 1 with | some x => ((frameOf x 0).count, (frameOf x 0).disarmed) | none => (0, false))) ==
       [(1500, false), (2250, true), (2625, true)] &&
     (go 1800).all (fun c => (match ext? c 1 with | some x => !(frameOf x 0).disarmed | none => false))) = true := by decide +kernel

/-- Table 2-2's first row: 100 µs and a reserve of 0.40 give 60 members. -/
theorem test_ring_size : ringMax (with_ (fun c => { c.setFld TCK_CONFIG TCK_CONFIG_PERIOD_US 100 with tck := { c.tck with budget0 := BitVec.ofNat _ (400 * 2 ^ 20) } })).core = 60 := by
  decide +kernel

/-- The reset state has no waiting command, and the table gives no bits. -/
theorem test_reset_queue : State.reset.pending = [] ∧ decodeTableWord 32 0 = none ∧ (State.reset.withFetchWord 32 0).pending = [] := by
  decide +kernel


def beat (pri : Nat) : Heard :=
  { priority := pri, candidate := true, alive := 0, count := 0, state := 2, thisTick := true, lastTick := true, absent := 0, dirs := [0] }

/-- In a ring, in the third holdover tick, with chip 9 heard. -/
def holding (pri : Nat) : State :=
  with_ (fun c => { fields [(TCK_STATUS, TCK_STATUS_MASTER, 0), (TCK_STATUS, TCK_STATUS_HOLDOVER_TICKS, 3), (TCK_CONFIG, TCK_CONFIG_CANDIDATE, 1),
    (TCK_CONFIG, TCK_CONFIG_PRIORITY, 3)] (ticks 0 c) with ring := { c.ring with heard := [(9, beat pri)] } }) inRing

theorem test_on_TickMessages : ([(2, 9), (4, 5)].all (fun x => let c := (holding x.1).core
      inService c && ticking c && !isMaster c && onRing c && 3 ≤ c.fld TCK_STATUS TCK_STATUS_HOLDOVER_TICKS && c.tck.got == none &&
      bestRank ((if c.flag TCK_CONFIG TCK_CONFIG_CANDIDATE then [myRank c] else []) ++ heardRanks c) == some (min x.1 3, x.2) &&
      c.fld TCK_STATUS TCK_STATUS_MASTER_ID != 9) &&
    [ticks 0, fun c => (ticks 0 c).setFld TCK_STATUS TCK_STATUS_MASTER 0].all (fun f => match plainRx (with_ f inRing).core (ringPkt 2) with
      | (c, some d) => d < 2 && (isMaster c || onRing c && c.tick < 1 && c.tck.got == none && !passes (with_ (member 1)).core d)
      | _ => false) &&
    (match plainRx inRing.core (ringPkt 2) with
      | (c, some _) => c.chipId != 9 && amGet? c.ring.heard 9 == none && 0 != beatCrc 9 0 0 0 2
      | _ => false)) = true := by decide +kernel

/-- A register of each kind: GLB_ID, a wide one, and an address that no table gives. -/
theorem test_on_RegisterRequests : (asks mopRead (fun m => regOpen m.core GLB_ID 4 1 && regOpen m.core 0xE0000 8 4) &&
    regRefusal GLB_ID 4 1 == none && regRefusal GLB_ID 4 128 != none && regRefusal 0xFFFFFF0 4 1 == some .regUnmapped &&
    regRefusal GLB_ID 8 1 == some .badField && asks mopWrite (fun m => writesRefused GLB_SCRATCH 4 [5] m == none && (writesRefused (PWR_DOMAIN 0) 4 [2 ^ PWR_DOMAIN_WATCH.lo] m).isSome) &&
    (rowAt GLB_ID).isSome &&
    [EVT_INJECT].all (fun a => regRefusal a 8 1 == none) &&
    [BOOT_CTRL, TCK_CTRL, GLB_CTRL, ECC_FLIP_CTRL, SEC_CTRL, stackReg CE_CTRL 15, stackReg RSP_CTRL 15, CHK_CTRL 15, PWR_DOMAIN 67, CAL_CB 255 15, PWR_OP,
     stackReg MEM_TRAIN 15].all (fun a => regRefusal a 4 1 == none) &&
    [BOOT_CTRL, TCK_CTRL, GLB_CTRL, ECC_FLIP_CTRL, SEC_CTRL, PWR_DOMAIN 67].all (fun a =>
      asks mopWrite (fun m => writesRefused a 4 [1] m == none))) = true := by decide +kernel

theorem test_on_RegisterWriteStores : ([GLB_SCRATCH, ECC_FLIP_CTRL, SEC_CTRL].all (fun a => !regDark live.core a) &&
    regDark (having GLB_FENCED GLB_FENCED_BASE 2).core (stackReg CE_CTRL 4) && bitOf 1 ECC_FLIP_CTRL_ARMED.lo == (ECC_FLIP_CTRL_ARMED.lo == 0) &&
    (having SEC_SVN SEC_SVN_IMAGE 7).core.sec.fuses.svnMin < 7) = true := by decide +kernel

theorem test_on_I2cTransactions : (i2cAnswers live.core && !live.core.pins.thermTrip && [0, 0xFFFC, GLB_TIME].all i2cMay && GLB_ID % 8 == 0 &&
    (rowAt GLB_ID).any (fun r => !r.wide) && (rowAt GLB_TIME).any (·.wide) && GLB_TIME % 8 == 0) = true := by decide +kernel

/-- Check unit 3 works on a buffer. -/
def checking (len : Nat) : State :=
  with_ (fun c => (fields [(CHK_STATUS 3, CHK_STATUS_BUSY, 1), (CHK_LEN 3, CHK_LEN_F, len)] c).rset (CHK_SRC 3) somePtr)

/-- A domain in a state, on its way to `goal`. -/
def domain (d st goal : Nat) : State :=
  with_ (fun c => modDom (c.setFld (PWR_DOMAIN d) PWR_DOMAIN_STATE st) d (fun x => { x with goal := goal }))

theorem test_on_PowerAndCheckUnits : ([0, 96].all (fun n => inService (checking n).core && chkMgmt 3 && chkBusy (checking n).core 3 &&
      (checking n).core.fld (CHK_LEN 3) CHK_LEN_F == n && (checking n).core.rget (CHK_SRC 3) == somePtr) &&
    !(checking 96).core.flag (CHK_CTRL 3) CHK_CTRL_ALIVE_EN && ptrCheck (checking 96).core 0 somePtr 96 true false == none &&
    (match readBytes (checking 96).m 0 1 0x1000 96 with | (_, .got _ bad) => bad.all (· == false) | _ => false) &&
    (having PWR_OP PWR_OP_TARGET 2).core.fld PWR_OP PWR_OP_TARGET == 2 &&
    !atStep (opAdvance (setVid ((live.core.at 5).setFld PWR_OP PWR_OP_CURRENT 0) 0)) 5 &&
    asks { mop := 0x0B00 } (fun m => !pwrRefusal m.core 67 2 && !isSpare m.core 67) &&
    [1, 2].all (fun g => domState (domain 3 1 g).core 3 == 1 && (domX (domain 3 1 g).core 3).goal == g && (domX (domain 3 1 g).core 3).next == none) &&
    domState (domain 0 4 0).core 0 == 4 && !(domX (domain 0 4 0).core 0).fromOff &&
    [2, 5].all (fun k => domState (having (PWR_DOMAIN 67) PWR_DOMAIN_WATCH 1 (domain 67 k 0)).core 67 == k && !domFenced (domain 67 k 0).core 67 &&
      (having (PWR_DOMAIN 67) PWR_DOMAIN_WATCH 1 (domain 67 k 0)).core.flag (PWR_DOMAIN 67) PWR_DOMAIN_WATCH) &&
    asks { mop := 0x0B02 } (fun m => bootStage m.core == 8 && ringState m.core == 0 && pairState m.core == 0) &&
    inService (with_ (staged 10)).core && !(with_ (staged 10)).core.boot.drained &&
    quiesceIdle (with_ (fun c => modBoot (staged 10 c) (fun b => { b with drained := true }))).core) = true := by decide +kernel

/-! ### Extents and requests -/

def xGrant : ExtGrant :=
  { extent := 65535, partition := 0, owner := 7, large := true, size := 64, quota := 64, cls := .n, readable := true, writable := false,
    compressible := true, hotNotice := false }

def withExt (f : Extent → Extent) (c : Core) : Core := modExt c 1 f
def withFrame (f : Frame → Frame) : Core → Core := withExt (fun x => { x with frames := [(0, f (frameOn (.n 0 0)))] })

theorem test_on_ExtentAndLeaseRequests : (asks { mop := 0x0100, grant := true } (fun m => (ext? m.core 65535).isNone && extFieldsOk xGrant &&
      classOk m.core 0 .n && partActive m.core 0) &&
    asks { mop := 0x0101 } (fun m => (ext? m.core 1).isSome && snapshotTaken (withdrawExt m 1).core 1) &&
    asks { mop := 0x0101 } (fun m => !snapshotTaken (withdrawExt m 1).core 1) (with_ (fun c => { c with ext := { c.ext with
      quarantine := List.replicate 256 ⟨2, [0], [], 0⟩ } })) &&
    asks { mop := 0x0102 } (fun m => (ext? m.core 1).any (fun x => x.st == .withdrawn)) (with_ (withExt (fun x => { x with st := .withdrawn }))) &&
    asks { mop := 0x0103 } (fun m => (ext? m.core 1).any (fun x => x.st == .active && classOk m.core x.partition .m &&
      !underWindow m.core 1 0 (extBytes x))) &&
    asks { mop := 0x0110, grant := true } (fun m => m.core.ext.leases.length < 8192) &&
    asks { mop := 0x0111 } (fun m => amGet? m.core.ext.leases 7 == some ⟨100, 50⟩ && !leaseOver m.core ⟨100, 50⟩)
      (with_ (fun c => { c with ext := { c.ext with leases := [(7, ⟨100, 50⟩)] } })) &&
    (match arrive { mop := 0x0111 } (.agent (agPkt 2)) live.m with | (_, b) => b && srcAgent (.agent (agPkt 2)) == some 7)) = true := by decide +kernel

theorem test_on_Invalidations : (asks { mop := 0x0104 } (fun m => m.core.chipId == 5 && (ext? m.core 1).isSome &&
      invalOk m.core (2 * 2 ^ 28) 1 0 1 true) &&
    (match landPkt inRing.core (ringPkt 1) with | (c, some _) => c.chipId == 5 | _ => false) &&
    (let body := [9, 1, 0, 1, 0, 7, 5]
     match landPkt (with_ (fun c => { c with ext := { c.ext with invals := [⟨none, none, body, 1⟩] } }) inRing).core (ringPkt 1) with
      | (c, some _) => (c.ext.invals.find? (fun v => v.body == body)).any (fun v => v.out ≤ 1)
      | _ => false) &&
    (retireSnapshot (with_ (fun c => { c with ext := { c.ext with quarantine := [⟨1, [], [], 0⟩] } })).core 1).2 &&
    (nextWaiting (with_ (fun c => { c with ext := { c.ext with waiting := [1] } })).core []).2 == some 1) = true := by decide +kernel

/-- Works, requests and threads that wait for a frame of the extent. -/
def waiting (c : Core) : Core :=
  let c := setWork c { progWork with phase := .parked (.backing 1 3 64), waited := 10, prog := none }
  let c := setThr c 0 { freshThread 0 1 0 4 0 with wait := .parked (.backing 1 3 64), waited := 10 }
  { c.setFld EXT_QUOTA EXT_QUOTA_WAIT_TICKS 10 with net := { c.net with requests := [⟨0, .session 100 0, 0, 0, 0x10, [0, 0, 0, 0, 0], [], some (.backing 1 3 64), 10, none, 1⟩] } }

theorem test_on_FramesAndParks : ((amGet (with_ (fun c => { c with mem := { c.mem with fill := [(0, [⟨some 0, 1, 1⟩])] } })).core.mem.fill 0 []) != [] &&
    (ext? (with_ (withFrame (fun f => { f with st := .migrating, dest := some (.n 1 0) }))).core 1).any (fun x => (frameOf x 0).st == .migrating &&
      (frameOf x 0).loc == some (.n 0 0) && (frameOf x 0).dest == some (.n 1 0)) &&
    (let c := (having EXT_CTRL EXT_CTRL_COMPRESS_EN 1 (with_ (withExt (fun x => { x with compressible := true, frames := [(0, { frameOn (.n 0 0) with cold := true })] })))).core
     c.flag EXT_CTRL EXT_CTRL_COMPRESS_EN && (ext? c 1).any (fun x => !x.large && x.compressible && x.st == .active && (frameOf x 0).cold &&
       !(frameOf x 0).incompressible && !underWindow c 1 0 (frameBytes x))) &&
    (let c := (having EXT_CTRL EXT_CTRL_COMPRESS_EN 1 (with_ (withExt (fun x => { x with compressible := true, frames := [(0,
        { frameOn (.n 0 0) with cold := true, compressing := true })] })))).core
     (ext? c 1).any (fun x => (frameOf x 0).compressing && compressible c 1 0 x && (frameOf x 0).loc == some (.n 0 0))) &&
    (ext? (with_ (withFrame (fun f => { f with st := .decompressing, loc := none }))).core 1).any (fun x => (frameOf x 0).st == .decompressing) &&
    (poolTake (with_ (fun c => { c with mem := { c.mem with pool := [(0, [⟨some 0, 1, 1⟩])] } })).core 0 .n false).isSome &&
    (let c := (with_ waiting).core
     (work? c 0 1).any (fun w => w.phase == .parked (.backing 1 3 64) && c.fld EXT_QUOTA EXT_QUOTA_WAIT_TICKS ≤ w.waited) &&
     (req? c 0).any (fun r => r.cause == some (.backing 1 3 64) && r.reply == none && c.fld EXT_QUOTA EXT_QUOTA_WAIT_TICKS ≤ r.waited) &&
     (thr? c 0).any (fun th => th.wait == .parked (.backing 1 3 64) && c.fld EXT_QUOTA EXT_QUOTA_WAIT_TICKS ≤ th.waited))) = true := by decide +kernel

/-- A READ from agent 7 in context 0, and a WRITE of eight bytes. -/
theorem test_on_RequestsAreAdmitted : ([(0x10, []), (0x11, List.replicate 8 1)].all (fun x => ctxOwner live.core 0 == 7 && !tagsFull live.core &&
      match landPkt live.core { agPkt 0 with cls := 0 } with
      | (c, some ss) => (match assemble c ss 0 0 (if x.1 == 0x11 then 8 else 0) 16 x.2 with
        | (c, some _) => (newTag c).2.isSome
        | _ => false)
      | _ => false)) = true := by decide +kernel

/-- A request of agent 7 on the extent. -/
def req (type : Nat) (body : List Nat) : Request := ⟨0, .session 100 0, 0, 0, type, body, [], none, 0, none, 1⟩
def withRegion (c : Core) : Core := { c with ext := { c.ext with regions := [(16383, ⟨1, 0, 64, 5, 0⟩)] } }

theorem test_on_RegionAndHintService : (let m := (with_ withRegion).m
    ptrCheck m.core (reqPart m.core (req 0x30 []) 1) (mkPtr 5 1 0) 64 false true == none && region? m.core 0 == none &&
    (reqRegion m.core (req 0x31 []) 16383).any (fun g => publishOk g.version 5 6 && !publishOk g.version 5 5 && !publishOk g.version 4 6 &&
      accessCheck m.core 0 g.extent g.offset g.len false true == none && publishWaits m.core g.extent g.offset g.len == none &&
      accessCheck m.core 0 g.extent g.offset g.len true true == none &&
      (match readBytes m (16383 % 4) g.extent g.offset g.len with | (_, .got _ bad) => bad.all (fun x => !x) | _ => false)) &&
    !publishAhead m.core (req 0x31 []) 16383 && ptrCheck m.core 0 (mkPtr 5 1 (2 ^ 25 - 64)) 64 true false == none && (sess? m.core 100).isSome &&
    (ext? m.core 1).any (fun x => x.subscribers.length < 16)) = true := by decide +kernel


/-! ### Sync objects, coherence and works -/

theorem test_on_SyncObjects : (asks { mop := 0x0140, grant := true } (fun m => (sync? m.core 65535).isNone && partActive m.core 0) &&
    asks { mop := 0x0141 } (fun m => (sync? m.core 4).any (fun o => !o.frozen && !o.poisoned && o.waiters == [])) (with_ withSync) &&
    (with_ (fun c => { c with sync := { c.sync with sent := [(5, 0), (4, 0)] } })).core.sync.sent.findIdx? (fun x => x.1 == 4) == some 1 &&
    (let c := (with_ (fun c => (setSync c 4 { someSync with armed := true, deadline := 1 }).rset TCK_COUNT 2)).core
     (sync? c 4).any (fun o => o.armed && !o.frozen && !o.poisoned && !o.missed && o.deadline != 0 && o.deadline < c.tick && o.count < o.target)) &&
    (sync? (with_ withSync).core 4).any (fun o => !o.frozen && !o.poisoned && (req 0x28 [4]).part != fmPart && (req 0x28 [4]).part == o.partition && o.owner == 7 && o.ownerValid && o.waiters == []) &&
    (sess? live.core 100).any (fun y => y.remote % 65536 == 7)) = true := by decide +kernel

/-- Domain 3, whose member 0 is agent 7, with the first frame of the extent as its window. -/
def someDomain : Domain :=
  { st := .up, partition := 0, members := [(0, (7, 0)), (1, (7, 0))], windows := [(1, 0, 2 ^ 21)], cause := 0, dead := none, poisoned := 0,
    downAt := 0, removing := [] }

def withDomain (l : List (Nat × CohLine)) (c : Core) : Core :=
  { setDomain (c.setFld (COH_WAYS 0) COH_WAYS_F 1) 3 someDomain with coh := { c.coh with domains := [(3, someDomain)], lines := l } }

def asked (l : List (Nat × CohLine)) : State := with_ (withDomain l)
def cohMsg (data : List Byte) : CohMsg := { domain := 3, member := 0, arg := 0, tid := 1, line := mkPtr 5 1 128, data := data }
def theKey : Nat := lineKey 1 128
def line0 : CohLine := freshLine 3 0

/-- A coherence message of member 0 lands, and its line's entry passes `f`. -/
def lands (sub : Nat) (l : List (Nat × CohLine)) (f : Core → Option CohLine → Bool) : Bool :=
  let s := asked l
  let x := cohMsg []
  inService s.core && match landPkt s.core { agPkt 0 with cls := cohClass sub } with
  | (c, some _) => !tagsFull c && servedHere c (ptrChip x.line) && (match domain? c x.domain with
      | some v => v.st == .up && amGet? v.members x.member == some (7, 0) && inDomain v 1 128
      | none => false) && ptrOffset x.line % 128 == 0 && f c (line? c theKey)
  | _ => false

theorem test_on_CoherenceDomains : (asks { mop := 0x0150 } (fun m => (createChecks m.core ⟨3, 0, [(7, 0)], [(1, 0, 2 ^ 21)], false⟩).all (·.1))
      (with_ (fun c => c.setFld (COH_WAYS 0) COH_WAYS_F 1)) &&
    [(0x0151, DomState.down), (0x0152, .draining), (0x0153, .up), (0x0154, .up)].all (fun x => asks { mop := x.1 } (fun m => match domain? m.core 3 with
      | some v => v.st == x.2 && amGet? v.members 63 == none && memberOk m.core v.partition (7, 0) && (amGet? v.members 1).isSome && !v.removing.any (·.1 == 1)
      | none => false) (with_ (fun c => setDomain c 3 { someDomain with st := x.2 }) (asked []))) &&
    (domain? (with_ (fun c => setDomain c 3 { someDomain with st := .draining }) (asked [])).core 3).any (fun v => v.st == .draining && v.downAt + 0 ≤ 5)) = true := by
  decide +kernel

theorem test_on_CoherenceRequests : ([1, 2].all (fun sub => lands sub [] (fun c l => l == none && (setLines c 0 theKey).length < c.fld (COH_WAYS 0) COH_WAYS_F &&
      openOf c 3 0 < 32) &&
      lands sub [(theKey, { line0 with owner := some 1 })] (fun c l => l.any (fun l => l.busy == none && !barred c l 0 false && l.resv == none && !c.coh.claims.any (fun t => t.1 == theKey) &&
        l.owner == some 1)) &&
      lands sub [(theKey, { line0 with sharers := [0, 1] })] (fun c l => l.any (fun l => l.busy == none && !barred c l 0 true && l.resv == none && l.owner == none &&
        l.sharers.filter (· != 0) != []))) &&
    lands 3 [(theKey, { line0 with owner := some 0 })] (fun _ l => l.any (fun l => l.busy == none && l.owner == some 0)) &&
    lands 4 [] (fun _ l => l == none) && lands 4 [(theKey, { line0 with sharers := [0, 1] })] (fun _ l => l.any (fun l => l.sharers.contains 0))) = true := by
  decide +kernel

/-- The entry is busy with a transaction. -/
def busyLine (kind : TxKind) (invs : List Nat) (snooped : Option Nat) : List (Nat × CohLine) :=
  [(theKey, { line0 with busy := some ⟨kind, invs, snooped, false, false, 0⟩ })]

theorem test_on_CoherenceAnswers : ([(12, TxKind.getS 1 5), (12, .getM 1 5), (13, .recall), (15, .recall)].all (fun x => lands x.1 (busyLine x.2 [] (some 0))
      (fun _ l => (l.bind (·.busy)).any (fun t => t.kind == x.2 && t.snooped == some 0))) &&
    [[0, 1], [0]].all (fun i => lands 14 (busyLine (.getM 1 5) i none) (fun _ l => (l.bind (·.busy)).any (fun t => t.invs.contains 0))) &&
    (line? (asked [(theKey, line0)]).core (lineOf (mkPtr 5 1 128))).any (fun l => holdLeft ((asked [(theKey, line0)]).core.at 5) l == 0 && l.busy == none) &&
    (line? (asked (busyLine .recall [] (some 0))).core (lineOf (mkPtr 5 1 128))).any (fun l => l.busy.isSome)) = true := by decide +kernel

def cGrant : CtxGrant :=
  { ctx := 4095, partition := 0, owner := 65535, rdma := false, keySlot := 1, ringBase := mkPtr 5 1 0, ringLog2 := 8,
    wins := [⟨0, 0xFFFFFFFF, 1⟩, ⟨0, 0, 0⟩, ⟨0, 0, 0⟩, ⟨0, 0, 0⟩], cq := 0, cqLog2 := 16, weight := 255, maxInflight := 256, abort := true }

/-- A header of a descriptor. -/
def header (op flags len : Nat) : List Byte := natLe 1 op ++ natLe 1 flags ++ natLe 2 len ++ List.replicate 60 0

theorem test_on_ContextManagement : (asks { mop := 0x0130, grant := true } (fun m => (grantChecks m.core cGrant).all (·.1)) &&
    (let c := fields [(CTX_CFG0 0, CTX_CFG0_STATE, 1)] (modCtxX live.core 0 (fun k => { k with whole := [⟨0, 2, 0, none, 0, true, [], false, 0⟩] }))
     worksOf c 0 == [] && (ctxX c 0).whole.length == 1 && !copiesDiffer c 0 && (work? c 0 0).isNone) &&
    [1, 2, 3].all (fun k => asks { mop := 0x0131 } (fun m => ctxState m.core 0 == k && (ctxX m.core 0).whole == [] && worksOf m.core 0 == [])
      (having (CTX_CFG0 0) CTX_CFG0_STATE k)) &&
    asks { mop := 0x0132 } (fun m => ctxState m.core 0 == 1 && (ctxX m.core 0).whole == [] && worksOf m.core 0 == [])) = true := by decide +kernel

/-- The context has a ring of 256 words at the start of the extent, and the write pointer of a doorbell. -/
def ringed (wp : Nat) (c : Core) : Core := fields [(CTX_CFG1 0, CTX_CFG1_RING_LOG2, 8), (CTX_CFG1 0, CTX_CFG1_CQ_LOG2, 6)]
  ((c.rset (CTX_RING_BASE 0) (mkPtr 5 1 0)).rset (CTX_CQ_TAIL 0) (BitVec.ofNat 64 wp))

/-- A state whose extent begins with the bytes. -/
def storing (b : List Byte) (s : State) : State := { s with mem := s.mem.setBytes (placeWord s.core 0 0 0 * 32) b }

theorem test_on_Doorbells : (ctxOwner live.core 0 == 7 && !ctxRdma live.core 0 && !tagsFull live.core &&
    (agPkt 0).srcEp / 2 ^ 28 != 2 && (match landPkt live.core { agPkt 0 with cls := 0 } with
      | (c, some ss) => (match assemble c ss 0 0 0 0 [] with | (c, some _) => (newTag c).2.isSome | _ => false)
      | _ => false) &&
    (let s := storing (header 0x3F 0 2) (with_ (ringed 2))
     !copiesDiffer s.core 0 && copiesDiffer (s.core.rset (CTX_WP_A 0) 9) 0 && 2 ^ ringLog2 s.core 0 == 256 && 256 < sub32 257 (regN s.core (CTX_RP_A 0)) &&
     (match ringWords 2 s.m 0 (ctxX s.core 0).walk with
      | (m, .ok b) => leNat ((b.drop 2).take 2) == 2 && 2 ≤ 2 ^ ringLog2 m.core 0 && sub32 2 (ctxX s.core 0).walk == 2 && 2 < sub32 3 (ctxX s.core 0).walk
      | _ => false) &&
     sub32 (regN s.core (CTX_CQ_TAIL 0)) (regN s.core (CTX_CQ_HEAD 0)) < sub32 3 (regN s.core (CTX_CQ_HEAD 0)) &&
     sub32 2 (regN s.core (CTX_CQ_HEAD 0)) ≤ sub32 (regN s.core (CTX_CQ_TAIL 0)) (regN s.core (CTX_CQ_HEAD 0))) &&
    [3, 4].all (fun k => ctxState (having (CTX_CFG0 0) CTX_CFG0_STATE k).core 0 == k)) = true := by decide +kernel

/-- A whole descriptor at the head of the ring. -/
def head0 : WholeDesc := { ptr := 0, words := 2, tick := 0, refused := none, detail := 0, readable := true, hdr := [], missed := false }

def queued (c : Core) : Core := modCtxX (ringed 0 c) 0 (fun k => { k with whole := [head0] })

/-- A work of the context on the descriptor. -/
def workOn (desc : List Byte) (started : Bool) (phase : WorkPhase) : Work := { workOf 0 1 desc 0 0 with started := started, phase := phase }
def withWork (w : Work) (s : State := live) : State := with_ (fun c => setWork c w) s

theorem test_on_WorksTakenAndStarted : ([0x3F, 0x7F].all (fun op => let s := storing (header op 0 2) (with_ queued)
      inService s.core && bootStage s.core == 8 && ctxState s.core 0 == 1 && inflight s.core 0 < ctxInflight s.core 0 && !copiesDiffer s.core 0 &&
      (ctxX s.core 0).whole == [head0] && match ringWords 2 s.m 0 0 with
      | (m, .ok b) => (match newTag m.core with
        | (c, some tag) => let w := workOf 0 0 b 0 tag
          (headerFail c w).isSome == (op == 0x7F) && !overdue c w && clustersOf c 0 != [] && (workProg c w == .inr none) && bitOf w.flags 1 == false
        | _ => false)
      | _ => false) &&
    [(0x01, false), (0x11, true)].all (fun x => let s := with_ (fun c => c.setFld (stackReg CE_STATUS 0) CE_STATUS_STATE 2) (withWork (workOn (header x.1 0 2) false .ready))
      (headSlice s.core 0).any (fun w => w.num == 1 && w.winNeed == 0 && preferred w ((enginesOf s.core 0).filter (engineFree s.core)) == [0]) &&
      (clustersOf s.core 0).any (clusterUp s.core) && !expertsFirst s.core 0 && drrTurn s.core 0 (fitSlice s.core 0 0) && needsEngine x.1 == x.2) &&
    (let s := withWork { progWork with phase := .ready, opcode := 0x30 }
     (headSlice s.core 0).any (fun w => w.num == 1 && w.winNeed == 0 && w.prog.isSome) && drrTurn s.core 0 (fitSlice s.core 0 0)) &&
    (let s := with_ (fun c => c.rset TCK_COUNT 9) (withWork { workOn (header 1 0 2) true .running with deadline := 1 })
     (worksOf s.core 0).length == 1 && (ctxX s.core 0).whole == [] && (worksOf s.core 0).all (fun w => !notMissed s.core w) && !ctxAbort s.core 0)) = true := by
  decide +kernel


/-- Context 0 with a completion ring of 64 records whose tail stands at 5. -/
def recording (full : Bool) (w : Work) : State :=
  with_ (fun c => (fields [(CTX_CFG1 0, CTX_CFG1_CQ_LOG2, 6)] ((setWork c w).rset (CTX_CQ_TAIL 0) (if full then 64 else 5)))) live

def ended0 (flags : Nat) : Work := { workOn (header 6 flags 6) true .ended with flags := flags }

theorem test_on_CompletionsAndWaits : ([(1, false), (0, true), (0, false)].all (fun x => let s := recording x.2 (ended0 x.1)
      (work? s.core 0 1).any (fun w => w.phase == .ended && w.unacked == 0 && w.queued == 0 && writesMade s.core w.tag && !w.owes && notMissed s.core w &&
        suppressed w == (x.1 == 1) && !removingWork s.core w) &&
      (2 ^ cqLog2 s.core 0 ≤ sub32 (regN s.core (CTX_CQ_TAIL 0)) (regN s.core (CTX_CQ_HEAD 0))) == x.2) &&
    (let s := with_ (fun c => { c with net := { c.net with ackedRecords := [(0, 1)], ackedWrites := [(0, 1, false), (0, 1, true)] } })
        (withWork { ended0 0 with phase := .recorded })
     s.core.net.ackedRecords.contains (0, 1) && s.core.net.ackedWrites.findIdx? (fun w => w.1 == 0 && w.2.1 == 1) == some 0) &&
    (work? (withWork (ended0 0)).core 0 1).any (fun w => !w.noSync && ctxState live.core 0 == 1 && !(ctxX live.core 0).flushPending) &&
    [0, 4].all (fun v => let s := with_ withSync (withWork (workOn (header 0x3E 0 4 ++ natLe 8 4 ++ natLe 8 v ++ List.replicate 48 0) false .ready))
      (work? s.core 0 1).any (fun w => w.opcode == 0x3E && w.zero 2 8 && w.zero 16 32 && w.field 0 2 == 4 && w.field 8 8 == v && w.step == 0) &&
      (sync? s.core 4).any (fun o => o.partition == ctxPart s.core 0 && !o.frozen && (v ≤ o.count) == (v == 0))) &&
    (work? (withWork { progWork with opcode := 0x30 }).core 0 1).any (fun w => w.phase == .running && w.prog.isSome)) = true := by decide +kernel

/-- A table of FP32 rows. -/
def plainTable : Table := { someTable with fmt := 0, rowLen := 32, elemOff := 0x10000 }

/-- A work of opcode `op` runs on the table, with parameters `params` and, inline at 128, `data`. -/
def tabled (op : Nat) (params data : List Byte) : State :=
  with_ (fun c => (setTable c 0 plainTable).rset (CTX_WIN_LEN 0 0) 0x10000)
    (withWork (workOn (header op 0 8 ++ params ++ List.replicate (64 - params.length) 0 ++ data) true .running))

def good {α : Type} (x : M × Res α) : Bool := match x.2 with | .ok _ => true | _ => false

/-- The work is there, and its step on the state is made. -/
def stepsWell (s : State) (step : M → Work → M × Res Unit) : Bool :=
  inService s.core && match work? s.core 0 1 with
  | some w => w.phase == .running && w.started && w.prog.isNone && good (step s.m w) && (work? (step s.m w).1.core 0 1).any (·.phase == .running)
  | none => false

/-- Rows 0 and 99, a null index, and one bag of the two rows. -/
theorem test_on_LookupWorks : (stepsWell (tabled 2 (natLe 2 0 ++ natLe 2 193 ++ natLe 4 2 ++ natLe 12 0 ++ natLe 4 1 ++ natLe 8 128 ++ natLe 16 0 ++ natLe 8 136)
      (natLe 4 0 ++ natLe 4 99 ++ natLe 4 0 ++ natLe 4 2)) reduceStep &&
    stepsWell (tabled 1 (natLe 2 0 ++ natLe 2 1 ++ natLe 4 3 ++ natLe 16 0 ++ natLe 8 128 ++ natLe 8 0)
      (natLe 4 0 ++ natLe 4 99 ++ natLe 4 0xFFFFFFFF)) gatherStep &&
    (tblAccess (tabled 1 [] []).core (workOn (header 1 0 8) true .running) plainTable false).isNone) = true := by decide +kernel

theorem test_on_UpdateWorks : (stepsWell (tabled 3 (natLe 2 0 ++ natLe 2 1 ++ natLe 4 1 ++ natLe 12 0 ++ natLe 4 0x3F800000 ++ natLe 8 128 ++ natLe 8 160)
      (natLe 32 99 ++ natLe 128 0x3F800000)) scatterStep &&
    stepsWell (tabled 4 (natLe 2 0 ++ natLe 2 1 ++ natLe 4 1 ++ natLe 24 0 ++ natLe 4 0x3F800000 ++ natLe 20 0 ++ natLe 8 192 ++ natLe 8 224 ++ natLe 56 0)
      (natLe 32 99 ++ natLe 128 0x3F800000)) updateStep &&
    stepsWell (tabled 5 (natLe 4 1 ++ natLe 2 1 ++ natLe 2 0 ++ natLe 8 128)
      (natLe 8 (mkPtr 5 1 0x1000).toNat ++ natLe 8 7 ++ natLe 8 0 ++ natLe 1 0 ++ natLe 1 1 ++ natLe 6 0)) atomicStep &&
    (let s := tabled 3 [] []
     (readyWrites s.m 1 (rowRanges plainTable 99)).2.isNone && (tblAccess s.core (workOn (header 3 0 8) true .running) plainTable true).isNone)) = true := by
  decide +kernel

/-- Forty bytes from one place to another; a fill of 40 bytes; and a row filled. -/
theorem test_on_CopyFillAndConvert : (let ref (k o : Nat) := natLe 1 k ++ natLe 7 0 ++ natLe 8 (if k = 0 then (mkPtr 5 1 o).toNat else 0)
    stepsWell (tabled 6 (ref 0 0x1000 ++ ref 0 0x2000 ++ natLe 4 40 ++ natLe 4 0) []) copyStep &&
    stepsWell (tabled 6 (ref 1 0 ++ ref 1 0 ++ natLe 4 1 ++ natLe 4 0) []) copyStep &&
    stepsWell (tabled 7 (ref 0 0x1000 ++ natLe 4 40 ++ natLe 4 0) []) fillStep &&
    stepsWell (tabled 7 (ref 1 0 ++ natLe 4 1 ++ natLe 4 0) []) fillStep &&
    stepsWell (tabled 8 (ref 0 0x1000 ++ ref 0 0x2000 ++ natLe 4 4 ++ natLe 4 1 ++ natLe 4 0) []) convertStep) = true := by decide +kernel

/-- A work whose check fails, one that runs, and one past its last step. -/
theorem test_on_MatrixAndCalibrationWorks : (let s := tabled 7 (natLe 1 9) []
    (work? s.core 0 1).any (fun w => match fillCheck s.m w with | (_, .fail _ _) => true | _ => false) &&
    (work? s.core 0 1).any (fun w => match fillStep s.m w with | (m, .fail st d) => (work? (stopWork m.core 0 1 st d) 0 1).any (fun w => !active w) | _ => false) &&
    (let t := { someTable with plan := .committed, planNo := 1, rowCount := 5 }
     let s := with_ (fun c => (setTable c 0 t).rset (CTX_WIN_LEN 0 0) 64) (withWork (workOn (header 0x21 0 4 ++ natLe 4 0 ++ natLe 4 1 ++ List.replicate 56 0) false .running))
     (work? s.core 0 1).any (fun w => recastCheck s.core w == none && w.status == none) && !tableLeaving s.core t && t.nextRow < t.firstRow + t.rowCount) &&
    (let s := tabled 0x10 (natLe 4 1 ++ natLe 2 1 ++ natLe 1 1 ++ natLe 1 9 ++ natLe 4 32 ++ natLe 12 0 ++ natLe 8 128 ++ natLe 8 256 ++
        natLe 8 (mkPtr 5 1 0x1000).toNat ++ natLe 16 0) (natLe 128 0x3F800000 ++ natLe 4 0)
     (work? s.core 0 1).any (fun w => w.step < routeSteps w && routeMayStep ((List.range 4).foldl (fun c p => c.setFld (SEC_WAYS 0 p) SEC_WAYS_MASK 1) s.core) w) && stepsWell s routeStep) &&
    stepsWell (tabled 0x20 (natLe 64 0) []) calStep && calAccess (tabled 0x20 [] []).core (workOn (header 0x20 0 8) true .running) plainTable == none &&
    (match readMaxima (tabled 0x20 [] []).m 0 plainTable with | (_, .ok _) => true | _ => false) && good (entryCapacity live.m 0 (mkPtr 5 1 0))) = true := by
  decide +kernel

def planning (f : Table → Table) : State :=
  with_ (fun c => setTable c 0 (f { someTable with plan := .running, planNo := 1, rowCount := 5, recast := some (0, 1), stepEnd := 1 }))
    (withWork (workOn (header 0x21 0 4 ++ List.replicate 64 0) true .running))

/-- A definition at the ends of its fields' ranges. -/
def wideTable : TableDef :=
  ⟨1023, 1, 0x100000, 10, 64, 8, 0x110000, 0x120000, 0x130000, 0, 0x140000, 127, 7, 15, 4096⟩

theorem test_on_TablesAndRecast : (asks { mop := 0x0120 } (fun m => (tableChecks m.core fm wideTable).all (·.1)) (with_ (fun c => (List.range 4).foldl (fun c p => c.setFld (SEC_WAYS 0 p) SEC_WAYS_MASK 1) c)) &&
    asks { mop := 0x0121 } (fun m => (table? m.core 0).any (fun t => t.plan != .running && t.window == [] && agentMay m.core fm t.extent true)) (with_ (fun c => setTable c 0 someTable)) &&
    (let s := with_ (fun c => { c with tck := { c.tck with budget1 := 0xFFFFFFFF } }) (having TCK_CONFIG TCK_CONFIG_PERIOD_US 100 (planning id))
     (table? s.core 0).any (fun t => t.recast == some (0, 1) && recastMayStep s.core t 10 1000 && stepGroup t 0 == [0, 1, 2, 3, 4] && !tableLeaving s.core t &&
       (readyWrites s.m t.extent ((stepGroup t 0).flatMap (rowRanges t))).2.isNone) &&
     (work? s.core 0 1).any (fun w => good (recastRead s.m w 0 someTable 0))) &&
    [RowState.prepared, .flipped, .copying].all (fun st => let s := planning (fun t => { t with window := [(4, ⟨st, 0⟩)], heldSlots := [1] })
      (table? s.core 0).any (fun t => amGet? t.window 4 == some ⟨st, 0⟩ && t.heldSlots.contains 1 && good (readEpoch s.m 0 t 4) &&
        good (readRowAt s.m 0 t 4 (some 0) true) && good (tblRead s.m 0 t.extent (slotOff t 0) (rowSize t)) && t.mq.filter (·.row == 4) == [])) &&
    [1, 5].all (fun e => (table? (planning (fun t => { t with stepEnd := e })).core 0).any (fun t => t.stepRows == [] && t.pend == [] && t.again == [] &&
      (t.firstRow + t.rowCount ≤ t.stepEnd) == (e == 5)))) = true := by decide +kernel

def entry (from_ : Nat) : BatchEnt :=
  { fromChip := from_, ctx := 0, work := 1, tok := 0, slot := 0, tag := 0, part := 0, quant := 0, elems := [], scales := [], gate := 0x3F800000 }

/-- A batch of tick 0 in tick 1, and an entry of another chip that is awaited. -/
def batched (c : Core) : Core :=
  let b : Batch := { image := somePtr, tick := 0, ents := [entry 5, entry 9], fullLogged := false, hdr := none }
  let f : Fwd := ⟨3, 9, 0, 0, false, true, false, (0, 1, 8), 3, 0, 0, 0x100, [], []⟩
  { (setBatches c [b]).rset TCK_COUNT 4 with ring := { c.ring with fwds := [f] } }

theorem test_on_ExpertBatches : (let s := with_ batched inRing
    (s.core.work.batches.find? (fun b => b.image == somePtr && b.tick == 0)).any (fun b => (tokenGroup b).length == 2 && batchTurn s.core b && shareLeft s.core b && batchPart b == 0) &&
    (enginesOf (having (stackReg CE_CFG 0) CE_CFG_ASSIGNED 0 (having (stackReg CE_CFG 1) CE_CFG_ASSIGNED 0)).core 0 == []) &&
    (enginesOf (having (stackReg CE_STATUS 0) CE_STATUS_STATE 2 s).core 0).filter (engineFree (having (stackReg CE_STATUS 0) CE_STATUS_STATE 2 s).core) == [0] &&
    ptrCheck s.core 0 somePtr 256 true false == none && ptrCheck s.core 0 (mkPtr 5 2 0) 256 true false != none &&
    ((routeTo s.core 9).bind Route.prefer).isSome && (match landPkt s.core { ringPkt 1 with cls := 1 } with
      | (c, some ss) => (assemble c ss 0 0 4 16 [0, 0, 128, 63]).2.isSome &&
          c.ring.fwds.any (fun f => f.tag == 3 && f.kind == 3 && f.sentTick + 3 < s.core.tick)
      | _ => false)) = true := by decide +kernel

/-! ### Memory and the pair -/

/-- Stack 0 serves, and pseudo-channel 31 of it has something queued. -/
def stacked (q : PcQueue → PcQueue) (c : Core) : Core :=
  let c := fields [(stackReg MEM_STATUS 0, MEM_STATUS_STATE, 2), (stackReg MEM_CTRL 0, MEM_CTRL_WR_HIGH, 1), (ECC_STATUS, ECC_STATUS_FILL, 2),
    (ECC_CTRL, ECC_CTRL_SCRUB_EN, 1), (ECC_SCRUB, ECC_SCRUB_PASS_HOURS, 24), (TCK_CONFIG, TCK_CONFIG_PERIOD_US, 100)] c
  let c := { c with tck := { c.tck with budget0 := 0xFFFFFFFF, budget1 := 0xFFFFFFFF } }
  setPcQ c 31 (q (pcQ c 31))

def oneWrite (q : PcQueue) : PcQueue := { q with writes := [⟨0, 63, 49151, 15, false, 0, true⟩], tracker := [⟨63, 49151, 1⟩], nextOrder := 1 }

theorem test_on_MemoryQueues : (let s := with_ (stacked oneWrite)
    burstOk 0 31 63 49151 15 && stackTakes s.core 0 && (pcQ s.core 31).port == [] && (pcQ s.core 31).writes.length < 64 &&
    (pcQ s.core 31).tracker.any (fun t => t.bank == 63 && t.row == 49151) && (pcQ s.core 31).tracker.all (fun t => t.bank != 62 || t.row != 0) &&
    pcMode s.core 31 == 0 && s.core.fld (stA MEM_CTRL 31) MEM_CTRL_WR_HIGH ≤ 1 && !s.core.flag ECC_FLIP_CTRL ECC_FLIP_CTRL_ARMED &&
    stackOn s.core 0 && nextBurst s.core 30 == none && (nextBurst s.core 31).isSome && aged (s.core.at 1000000) 31 && stackState s.core 0 == 2 &&
    !s.core.mem.training.contains 31) = true := by decide +kernel

/-- The spare watch, and a rebuild with nothing left to walk. -/
def watching (c : Core) : Core :=
  fields [(PAIR_LAYOUT, PAIR_LAYOUT_SPARE, 1), (PAIR_CTRL, PAIR_CTRL_SPARE_WATCH_EN, 1), (stackReg MEM_STATUS 0, MEM_STATUS_STATE, 3)] (stacked id c)

theorem test_on_MemoryUpkeep : (let s := with_ (stacked oneWrite)
    s.core.mem.training == [] && (nextRetrain s.core).isSome &&
    (with_ (fun c => { c with mem := { c.mem with training := [31] } }) s).core.mem.training.contains 31 &&
    (having (pcA MEM_PC_TRAIN 31) MEM_PC_TRAIN_FAILS 2).core.fld (pcA MEM_PC_TRAIN 31) MEM_PC_TRAIN_FAILS == 2 &&
    stackBad s.core 0 == false && stepFits (s.core.at 5) 1 100 && (scrubSt (s.core.at 5) 31).done * passNs (s.core.at 5) ≤ 5 * passRows &&
    stackOn (having PAIR_REBUILD PAIR_REBUILD_STATE 1 s).core (outStack s.core) && stepFits s.core 3 10 && walkAt s.core 16 (2 ^ 40) == none && (walkAt s.core 16 0).isSome &&
    (match holderOf s.core 0 0 0 with | .data _ _ _ .n => true | _ => false) &&
    (amGet? (with_ (fun c => { c with mem := { c.mem with wb := [(0, ⟨.corrected, List.replicate 32 0, false⟩)] } }) s).core.mem.wb 0).isSome &&
    (match holderOf (with_ (fun c => withExt (fun x => { x with cls := .m, frames := [(0, frameOn (.m 0 0))] }) c) s).core 0 0 0 with
      | .data _ _ _ .m => true | _ => false) &&
    (match holderOf (with_ (fun c => withExt (fun x => { x with cls := .x, frames := [(0, frameOn (.x 0 0))] }) c) s).core 0 0 0 with
      | .data _ _ _ .x => true | _ => false) &&
    (let w := with_ watching
     outStack w.core == 0 && stackState w.core 0 == 3 && w.core.fld PAIR_REBUILD PAIR_REBUILD_SPARE == 0 &&
     oddWords { core := w.core, mem := w.mem.clear (watchWord 0 0 0) (watchWord 0 0 0 + 32) } 0 == [])) = true := by decide +kernel

/-- One chip of a pair in a state of Table 17-9, with its extent in class X. -/
def inPair (st : Nat) (c : Core) : Core :=
  fields [(PAIR_LAYOUT, PAIR_LAYOUT_PAIRED, 1), (PAIR_LAYOUT, PAIR_LAYOUT_ROLE_PRIMARY, 1), (PAIR_STATUS, PAIR_STATUS_STATE, st)]
    (withExt (fun x => { x with cls := .x, frames := [(0, frameOn (.x 0 0))] }) c)

def repMsg (dst hops fseq : Nat) : RepMsg :=
  { origin := 0, dst := dst, hops := hops, dir := 0, tag := 1, part := 0, extent := 1, fseq := fseq, offset := 0, len := 32, data := List.replicate 32 1, pmap := [] }

/-- A standby gets writes of a frame: the next, an old one, and one too early. -/
theorem test_on_Replication : ([2, 3].all (fun st => let s := with_ (inPair st) inRing
      match landPkt s.core { ringPkt 0 with cls := 0 } false (transitFull s.core s.core.chipId 0 1) with
      | (c, some n) => c.ring.transitHeld == [] && (match assemble c n 0 0 32 0 (List.replicate 32 1) with
        | (c, some d) => d.length == 32 && paired c && partnerChip c == 0 && xFrame c 1 0 == some 0 && standby c && (xFrame c 1 (16 * 2 ^ 21)).isNone &&
            serialNewer 1 (frameSeq c 1 0) && !serialNewer 0 (frameSeq c 1 0) && serialNewer 2 (frameSeq c 1 0) && c.pair.early == [] &&
            (let held := M.on { core := c, mem := s.mem } (fun c => holdsIt c (heldEarly false { repMsg 5 1 1 with offset := 0 } 0 d c.tick))
             (storeReplica held 1 0 d []).2 == some .done) &&
            (match peekBytes { core := c, mem := s.mem } 1 0 32 with | (_, b, ps) => b.length == 32 && !ps.any id) &&
            c.chipId != 9 && (memberIdx c 9).isSome && memberIdx c 8 == none
        | _ => false)
      | _ => false) &&
    !standby (with_ (inPair 5) inRing).core && (partnerBit (with_ (inPair 5) inRing).core 27 == false) &&
    (let c := (with_ (fun c => onPair (inPair 5 c) (fun v => { v with outstanding := [⟨1, 0, 1, 0, [], [], 0, 0, none, false⟩, ⟨1, 0, 2, 0, [], [], 0, 0, some 3, true⟩], dirty := [dirtyKey 1 0] }))
        (having PAIR_STATUS PAIR_STATUS_PARTNER_STATE 2 (with_ (fun c => stacked id (c.rset TCK_COUNT 9)) inRing))).core
     [(1, false), (2, true)].all (fun x => (c.pair.outstanding.find? (fun y => y.extent == 1 && y.frame == 0 && y.fseq == x.1 &&
       y.tick + c.fld RING_FWD RING_FWD_TIMEOUT_TICKS < c.tick)).any (fun r => r.sent.isSome == x.2)) &&
     pairHolder c && stepFits c 3 10 && c.pair.missed < 3 && xFrame c 1 0 == some 0 && (ext? c 1).isSome && partnerState c == 2)) = true := by decide +kernel

theorem test_on_PairStates : ([1, 2, 3, 4, 5, 6, 7, 8, 9].all (fun k => let s := with_ (inPair k)
      inService s.core && paired s.core && pairState s.core == k && !keyIn s.core && keyIn (having PAIR_STATUS PAIR_STATUS_KEY_IN 1 s).core &&
      s.core.pair.outstanding == [] && s.core.pair.step == .idle) &&
    asks { mop := 0x0900 } (fun m => pairState m.core == 3 && m.core.pair.step == .idle) (with_ (inPair 3)) &&
    asks { mop := 0x0901 } (fun m => pairState m.core == 8) (with_ (inPair 8)) && asks { mop := 0x0902 } (fun m => pairState m.core == 4) (with_ (inPair 4)) &&
    [KeyStep.guard, .settle].all (fun k => let c := (with_ (fun c => onPair (inPair 4 c) (fun v => { v with step := k, before := 2, dataValid := true }))).core.at 5000000
      pairState c == 4 && c.pair.step == k && c.pair.stepSince + c.fld PAIR_KEY_TIMING PAIR_KEY_TIMING_GUARD_US * 1000 ≤ c.glb.now &&
      c.pair.stepSince + c.fld PAIR_KEY_TIMING PAIR_KEY_TIMING_SETTLE_US * 1000 ≤ c.glb.now) &&
    asks { mop := 0x0900 } (fun m => pairState m.core == 1 && (m.core.choose 2).1.pair.step == .idle) (with_ (inPair 1)) &&
    [true, false].all (fun copy => let c := (with_ (fun c => onPair (inPair 7 c) (fun v => { v with outstanding := [⟨1, 0, 1, 0, [], [], 0, 0, none, copy⟩], retryAt := some 5,
                                                                                                    missed := 3 }))).core
      c.pair.outstanding.all (·.copy == copy) && pairState c == 7 && c.pair.retryAt == some 5 && 3 ≤ c.pair.missed && !c.pair.lostActed) &&
    (work? (withWork { workOn (header 6 0 6) true (.parked .pair) with waited := 64 }).core 0 1).any (fun w => w.phase == .parked .pair &&
      live.core.fld PAIR_CTRL PAIR_CTRL_WAIT_TICKS ≤ w.waited) &&
    (req? (with_ (fun c => { c with net := { c.net with requests := [{ req 0x10 [] with tag := 9, cause := some .pair, waited := 64 }] } })).core 9).any (fun r =>
      r.cause == some .pair && r.reply.isNone && live.core.fld PAIR_CTRL PAIR_CTRL_WAIT_TICKS ≤ r.waited) &&
    selfReturn (with_ (fun c => onPair (inPair 1 c) (fun v => { v with memberTicks := 3 }))).core && !selfReturn (with_ (inPair 2)).core) = true := by
  decide +kernel


/-! ### Sessions, queue pairs, links and the ring -/

def sDef : SessDef :=
  { session := 8187, remote := 8, epoch := 65535, keySlot := 2, paths := [{ port := 1, sub := 0, mac := 2 ^ 48 - 1, vlan := 4094, ip := 2 ^ 128 - 1, udp := 65535 }],
    txSeq := 2 ^ 32 - 1, rxSeq := 0, allow := [(17, 17), (32767, 17), (17, 32767)] }

theorem test_session_ok : ∃ m, FmAsks { mop := 0x0001 } fm live m ∧ SessionOk m.core sDef := by
  have h : asks { mop := 0x0001 } (fun m => sess? m.core 8187 == none && amGet? m.core.net.epochs 8187 == none && slotOwner m.core 2 == some 255 &&
    m.core.flag (FZT_PORT_CTRL 1) FZT_PORT_CTRL_FZT_EN && subPorts m.core 1 == 1 && rxAllocated m.core 3 + sessCredits sDef ≤ 131072) = true := by
    decide +kernel
  obtain ⟨m, hm, hf⟩ := asks_fmAsks h
  simp only [Bool.and_eq_true, beq_iff_eq, decide_eq_true_eq] at hf
  obtain ⟨⟨⟨⟨⟨h1, h2⟩, h3⟩, h4⟩, h5⟩, h6⟩ := hf
  refine ⟨m, hm, ?_⟩
  exact {
    free := fun x hx => by rw [show sDef.session = 8187 from rfl, h1] at hx; cases hx
    fresh := by rw [show sDef.session = 8187 from rfl, h2]; exact fun h => nomatch h
    number := by decide
    remote := by decide
    slot := ⟨by decide, h3⟩
    paths := ⟨by decide, by decide, fun p hp => by
      rw [show p = { port := 1, sub := 0, mac := 2 ^ 48 - 1, vlan := 4094, ip := 2 ^ 128 - 1, udp := 65535 } from List.mem_singleton.1 hp]
      exact ⟨by decide, h4, by rw [h5]; decide, by decide, by decide, by decide, by decide⟩⟩
    seqs := by decide
    allow := by decide
    pool := h6 }

/-- A packet of 100 ns later that the session has sent and not had acknowledged. -/
def txPkt0 : TxPkt := { uid := 0, off := 0, bytes := 8, path := 0, seq := 0, sent := 1, lastSent := 0, doublings := 0, due := false }

def inSession (f : Session → Session) : State := with_ (fun c => { c with net := { c.net with sessions := [(100, f (sessTo 7 9 1))] } })

theorem test_on_Sessions : (asks { mop := 0x0001 } (fun m => (sess? m.core 100).any (fun x => x.st != .closed && x.st != .lost)) &&
    asks { mop := 0x0002 } (fun m => (sess? m.core 8187).isNone && (sess? m.core 100).isSome) &&
    linkServes live.core false && (checkPkt live.core (agPkt 0) false).2 == some 100 && (checkPkt live.core { agPkt 0 with crcOk := false } false).2 == none &&
    (sess? live.core 100).any (fun x => pathAt x 1 0 == some 0 && pathAt x 0 0 == none && x.st == .opened) &&
    (sess? (inSession (fun x => { x with paths := [{ onPort 1 with up := false }] })).core 100).any (fun x => sessLive x && x.paths.all (fun a => !a.up && linkUp live.core a.port a.sub)) &&
    (sess? (inSession (fun x => { x with sinceAck := 1, st := .hold, graceEnd := 100 })).core 100).any (fun x => 0 < x.sinceAck && x.st == .hold && x.graceEnd ≤ 100) &&
    (sess? (inSession (fun x => { x with txPkts := [txPkt0] })).core 100).any (fun x => (x.txPkts.find? (fun q => decide (0 < q.sent) && q.seq == 0)).any
      (fun p => p.lastSent + live.core.fld FZT_TIMER0 FZT_TIMER0_RTO_US * 1000 * 2 ^ min p.doublings 4 ≤ 100) && (x.paths[0]?).isSome) &&
    (landPkt live.core { agPkt 1 with cls := 1 }).2 == some 100) = true := by decide +kernel

def qDef : QpDef :=
  { qp := 16383, partition := 0, owner := 65535, path := { port := 11, sub := 0, mac := 2 ^ 48 - 1, vlan := 4094, ip := 0, udp := 65535 },
    remoteQpn := 2 ^ 24 - 1, sendPsn := 0, recvPsn := 2 ^ 24 - 1, pmtu := 4096, dataKey := 1, doorKey := 2, ackExp := 31, retry := 7 }

theorem test_qp_ok : ∃ m, FmAsks { mop := 0x0010 } fm live m ∧ QpOk m.core qDef := by
  have h : asks { mop := 0x0010 } (fun m => (qp? m.core 16383).isNone && partActive m.core 0 && (m.core.flag (SEC_PART 0) SEC_PART_LINK_ENC_REQUIRED == false) &&
    0 < subPorts m.core 11) = true := by decide +kernel
  obtain ⟨m, hm, hf⟩ := asks_fmAsks h
  simp only [Bool.and_eq_true, beq_iff_eq, decide_eq_true_eq] at hf
  obtain ⟨⟨⟨h1, h2⟩, h3⟩, h4⟩ := hf
  exact ⟨m, hm, { number := ⟨by decide, h1⟩, part := ⟨h2, h3⟩, owner := by decide,
                  path := ⟨by decide, h4, by decide, by decide, by decide, by decide, by decide⟩, psns := by decide, pmtu := by decide, retry := by decide }⟩

/-- Queue pair 3 of agent 7, which expects PSN 10. -/
def qp0 : Qp := { newQp qDef with port := 1, owner := 7, expPsn := 10 }
def rPkt (psn : Nat) (va : Nat) (rkey : Nat) (data : List Byte) : RPkt :=
  { port := 1, sub := 0, frameLen := 100, dscp := 0, ce := false, icrcOk := true, qp := 3, psn := psn, va := BitVec.ofNat 64 va, rkey := BitVec.ofNat 32 rkey,
    len := data.length, data := data, first := true, last := true, time := 100 }

def paired0 (q : Qp) : State := with_ (fun c => setQp (c.setFld (FZT_PORT_CTRL 1) FZT_PORT_CTRL_ROCE_EN 1) 3 q)
def rdmaCtx (c : Core) : Core := c.setFld (CTX_CFG0 0) CTX_CFG0_PRODUCER 1
def someWrite : OutMsg := { dst := .agent 7, type := 0x13, cls := 0, ctx := 0, body := [], data := [], work := none }

/-- PSNs at, before and after the one expected, both keys and neither, a doorbell, and a write that waits for its acknowledgement. -/
theorem test_on_RoceQueuePairs : ([(10, 0), (9, 1), (11, 2)].all (fun x => match roceRx (rPkt x.1 0 1 [1]) true (paired0 qp0).core with
      | (c, some q) => psnPlace q (rPkt x.1 0 1 [1]).psn == x.2 && qpOpen c 3 < 16
      | _ => false) &&
    (roceRx { rPkt 10 0 1 [1] with icrcOk := false } true (paired0 qp0).core).2 == none &&
    [1, 2, 3].all (fun k => match writeStart (rPkt 10 0 k (natLe 8 5)) qp0 with
      | some (_, rkey, left) => writeFits (rPkt 10 0 k (natLe 8 5)) qp0 left && (rkey == qp0.dataKey) == (k == 1) && (rkey == qp0.doorKey) == (k == 2)
      | none => false) &&
    !writeFits { rPkt 10 0 1 [1] with last := false } qp0 5000 && writeStart (rPkt 10 0 1 []) { qp0 with wr := some (0, 1, 5, []) } == none &&
    ctxRdma (with_ rdmaCtx (paired0 qp0)).core 0 && ctxOwner (paired0 qp0).core 0 == 7 && ctxState (paired0 qp0).core 0 == 1 &&
    ctxState (paired0 qp0).core 4095 == 0 && asks { mop := 0x0011 } (fun m => (qp? m.core 3).isSome && (qp? m.core 4).isNone) (paired0 qp0) &&
    (match roceRx (rPkt 10 0 1 []) false (paired0 { qp0 with writes := [(10, 11, someWrite, 7, 0)] }).core with
      | (_, some q) => q.writes.length == 1 && !q.error
      | _ => false)) = true := by decide +kernel

theorem test_on_Links : ([0, 12].all (fun n => let c := live.core.at 5
      Machine.portOk c n 0 && powered c && domainServes c (52 + n) && !baseFenced c (portPlinth n) && !c.flag (PWR_DOMAIN (52 + n)) PWR_DOMAIN_FENCED &&
      !c.pins.stoppedClocks.contains (1 + portPlinth n) && linkUp c n 0 && ringPort n == (n == 12) && (rxFrame c n 0 64).2) &&
    !linkUp live.core 3 0 && (rxFrame live.core 0 0 9217).2 == false && !isMaster inRing.core && live.core.ring.transitHeld == [] &&
    bitOf ((having (MAC_CTRL 0) MAC_CTRL_PFC_EN 255).core.fld (MAC_CTRL 0) MAC_CTRL_PFC_EN) 7 && (portSt live.core 0).sending == none &&
    transitBytes live.core 12 < 8388608 && (let c := fields [(MAC_STATUS 14, MAC_STATUS_LINK_UP, 1), (RING_STATUS, RING_STATUS_LINK, 5), (TCK_STATUS, TCK_STATUS_MASTER, 1)] inRing.core
      dirUp c 0 && !dirUp (pathsDown (setLink c 14 0 false) 14 0) 0 && masters (pathsDown (setLink c 14 0 false) 14 0)) && (setLink live.core 0 0 true).fld (MAC_STATUS 0) MAC_STATUS_LINK_UP == 1) = true := by decide +kernel

/-- A greeting as a Bool, over any block, so that nothing is unfolded to check it. -/
def hears (s : State) (p : Pkt) (f : Core → Bool) : Bool :=
  powered s.core && ringPort p.port && linkUp s.core p.port 0 && p.crcOk && (rxFrame (s.core.at p.time) p.port 0 p.frameLen).2 &&
    f (rxFrame (s.core.at p.time) p.port 0 p.frameLen).1

theorem hears_helloHeard {s : State} {p : Pkt} {f : Core → Bool} (h : hears s p f = true) : ∃ c, HelloHeard s p c ∧ f c = true := by
  simp only [hears, Bool.and_eq_true] at h
  obtain ⟨⟨⟨⟨⟨h1, h2⟩, h3⟩, h4⟩, h5⟩, h6⟩ := h
  exact ⟨_, ⟨h1, h2, h3, h4, Prod.ext rfl h5⟩, h6⟩

theorem test_hello_heard : ∃ c, HelloHeard inRing { ringPkt 2 with frameLen := 64 } c ∧ (c.chipId != 9 && (sess? c (ringSess 12)).isSome) = true :=
  hears_helloHeard (by decide +kernel)

/-- The ring's master, a chip that joins, and members. -/
theorem test_on_RingMembership : (asks { mop := 0x0A01 } (fun m => mayJoin m.core) (with_ (fun c => { c.setFld RING_CFG RING_CFG_ROLE 1 with pins := { c.pins with ringRole := true } })) &&
    asks { mop := 0x0A01 } (fun m => !mayJoin m.core && m.core.chipId == 5) && asks { mop := 0x0A02 } (fun m => ringState m.core == 2) inRing &&
    asks { mop := 0x0A00 } (fun m => masters m.core && m.core.ring.prepare == none && admitRefusal m.core 9 == 1 && admitRefusal m.core 4095 == 0 &&
      memberIdx m.core 5 == some 0 && memberIdx m.core 9 == some 1 && m.core.ring.members.length == 2)
      (with_ (fun c => { c.setFld TCK_CONFIG TCK_CONFIG_PERIOD_US 1000 with tck := { c.tck with budget0 := BitVec.allOnes _ } })
        (having TCK_STATUS TCK_STATUS_MASTER 1 inRing)) &&
    (match ringRx inRing.core (ringPkt 2) with | (c, some d) => d < 2 && !masters c && ringState c != 1 && c.ring.collectUntil == none | _ => false) &&
    (ringRx inRing.core { ringPkt 2 with crcOk := false }).2 == none && (match ringRx (with_ (member 1)).core (ringPkt 2) with | (c, some _) => ringState c == 1 | _ => false) &&
    (let c := (with_ (fun c => { c with ring := { c.ring with heard := [(9, { beat 2 with absent := 3 })] } }) (having TCK_STATUS TCK_STATUS_MASTER 1 inRing)).core
     (amGet? c.ring.heard 9).any (fun h => 3 ≤ h.absent) && masters c && memberIdx c 9 == some 1) &&
    inRing.core.ring.draining == [] && onRing inRing.core && !leftRing inRing.core && (with_ (member 1)).core.ring.joinSince + 100000000 ≤ 100000000) = true := by decide +kernel

/-- A FORWARD to the chip, to a member, and to a chip that no route reaches. -/
theorem test_on_Forwarding : ((match landPkt inRing.core { ringPkt 0 with cls := 0 } false (transitFull inRing.core 9 0 7) with
      | (c, some n) => c.chipId == 5 && (memberIdx c 9).isSome && (memberIdx c 8).isNone && (assemble c n 0 0 0 0 []).2.isSome && (assemble c n 0 0 9 0 [1]).2.isNone &&
          c.fld (SEC_PART 0) SEC_PART_STATE != 3 && !tagsFull inRing.core && (routeTo c 8).bind Route.prefer == none && ((routeTo c 9).bind Route.prefer).isSome
      | _ => false) &&
    (landPkt inRing.core { ringPkt 0 with cls := 0, crcOk := false }).2 == none &&
    (landPkt inRing.core { ringPkt 0 with cls := 0 } false (transitFull inRing.core 5 0 7)).2.isSome && (partState (having (SEC_PART 0) SEC_PART_STATE 3 inRing).core 0 == 3) &&
    (let c := (with_ (fun c => c) inRing).core
     (match landPkt c { ringPkt 1 with cls := 1 } with | (c, some n) => (assemble c n 0 0 0 0 []).2.isSome && (assemble c n 0 0 9 0 [1]).2.isNone | _ => false)) &&
    [(true, true), (false, true), (false, false)].all (fun x => let f : Fwd := ⟨3, 9, 0, 0, x.1, x.2, false, (0, 1, 0), 0, 0, 0, 0x10, [], []⟩
      let c := (with_ (fun c => { c.rset TCK_COUNT 9 with ring := { c.ring with fwds := [f] } }) inRing).core
      (c.ring.fwds.find? (fun f => f.tag == 3 && f.kind != 3 && f.kind != 5 && (f.draining || c.ring.draining.all (fun x => x.1 != f.dst)) &&
        decide (f.sentTick + c.fld RING_FWD RING_FWD_TIMEOUT_TICKS < c.tick))) == some f &&
      (routeTo c 9).any (fun r => r.reach0 && r.reach1)) &&
    (routeTo { inRing.core with ring := { inRing.core.ring with members := [(5, 0), (9, 1)] } } 9).any (fun r => r.reach0 && !r.reach1) &&
    (routeTo { inRing.core with ring := { inRing.core.ring with members := [(5, 1), (9, 0)] } } 9).any (fun r => r.reach1 && !r.reach0)) = true := by
  decide +kernel

/-! ### Keys, partitions and programs -/

def nonced (c : Core) : Core := modSec c (fun v => { v with nonces := [(77, 50)] })

theorem test_on_KeysAndAttestation : (asks attestMop (fun m => m.core.sec.attest.length < 16) && (with_ (fun c => modSec c (fun v => { v with attest := [⟨fm, 255, 77⟩] }))).core.sec.attest.length == 1 &&
    (match arrive attestMop (.agent (agPkt 2)) live.m with | (m, b) => b && ownsContextIn m.core 7 0 && !ownsContextIn m.core 7 1) &&
    asks { mop := 0x0801, plain := true } (fun m => m.core.boot.mgmt.keys != [] && nonceOk (m.core.at 200) 77 && !nonceOk (m.core.at 200) 78) (with_ nonced) &&
    [1, 2].all (fun k => asks { mop := 0x0802 } (fun m => nonceOk (m.core.at 200) 77 && partState m.core 15 == k) (having (SEC_PART 15) SEC_PART_STATE k (with_ nonced))) &&
    asks { mop := 0x0803 } (fun m => (slotOwner m.core 0).isSome && slotOwner m.core 4094 == none && slotOwner m.core 4095 == some 255 && slotOwner m.core 1 == some 0 &&
      partActive m.core 0 && !partActive m.core 1 && slotOwner m.core 4 == none) &&
    (slotOwner (with_ (fun c => modSec c (fun v => { v with slots := [(1, ⟨0, some 100, 2⟩)] }))).core 0 == none) &&
    (amGet? (with_ (fun c => modSec c (fun v => { v with slots := [(1, ⟨0, some 100, 2⟩)] }))).core.sec.slots 1).any (fun v => v.oldUntil == some 100) &&
    asks { mop := 0x0804 } (fun m => slotNamed m.core 1)) = true := by decide +kernel

theorem amGet?_absent {α : Type} {k : Nat} : ∀ {m : AMap α}, m.all (fun e => e.1 != k) = true → amGet? m k = none
  | [], _ => rfl
  | (j, _) :: t, h => by
    simp only [List.all_cons, Bool.and_eq_true, bne_iff_ne] at h
    rw [amGet?, if_neg h.1, amGet?_absent h.2]

/-- A slot that no context and no session names, where context 0 alone has registers. -/
theorem slotNamed_false {c : Core} {n : Nat} (h : (c.regs.all (fun e => decide (e.1 < 0x400100) || decide (0x500000 ≤ e.1)) &&
    c.fld (CTX_CTRL 0) CTX_CTRL_KEY_SLOT != n && !c.net.sessions.any (fun s => sessLive s.2 && s.2.peerKey == n)) = true) : slotNamed c n = false := by
  simp only [Bool.and_eq_true, Bool.not_eq_true', bne_iff_ne, List.all_eq_true, Bool.or_eq_true, decide_eq_true_eq] at h
  obtain ⟨⟨h1, h2⟩, h3⟩ := h
  rw [slotNamed, h3, Bool.or_false, List.any_eq_false]
  intro x hx
  rw [List.mem_range] at hx
  by_cases h0 : x = 0
  · subst h0; simp [h2]
  · have : ctxState c x = 0 := by
      have : amGet? c.regs (CTX_CFG0 x) = none := amGet?_absent (by
        rw [List.all_eq_true]; intro e he; simp only [bne_iff_ne, CTX_CFG0]; rcases h1 e he with h | h <;> omega)
      simp [ctxState, Core.fld, Core.rget, amGet, this, bitsOf]
    simp [this]

theorem test_key_unnamed : ∃ m, FmAsks { mop := 0x0804 } fm live m ∧ (slotOwner m.core 4095).isSome = true ∧ slotNamed m.core 4095 = false := by
  have h : asks { mop := 0x0804 } (fun m => (slotOwner m.core 4095).isSome && (m.core.regs.all (fun e => decide (e.1 < 0x400100) || decide (0x500000 ≤ e.1)) &&
    m.core.fld (CTX_CTRL 0) CTX_CTRL_KEY_SLOT != 4095 && !m.core.net.sessions.any (fun s => sessLive s.2 && s.2.peerKey == 4095))) = true := by decide +kernel
  obtain ⟨m, hm, hf⟩ := asks_fmAsks h
  exact ⟨m, hm, (Bool.and_eq_true _ _ |>.mp hf).1, slotNamed_false (Bool.and_eq_true _ _ |>.mp hf).2⟩

/-- A program of 64 bytes of code at the start of the extent. -/
def progSlot : ProgSlot := { image := mkPtr 5 1 0, flags := 0, codeBytes := 64, saveBytes := 64, entries := [0], digest := [0, 0, 0, 0, 0, 0] }

theorem test_on_PartitionsAndPrograms : ([1, 2, 3].all (fun k => asks { mop := 0x0806 } (fun m => partState m.core 15 == k) (having (SEC_PART 15) SEC_PART_STATE k)) &&
    (let s := having (SEC_PART 15) SEC_PART_REMOVE_STEP 4 (having (SEC_PART 15) SEC_PART_STATE 3)
     partState s.core 15 == 3 && s.core.fld (SEC_PART 15) SEC_PART_REMOVE_STEP == 4 && partRetired s.core 15 && s.core.coh.domains == []) &&
    asks { mop := 0x0807, recovery := true } (fun m => m.core.sec.fuses.ownerKh == none) && asks { mop := 0x0160 } (fun m => partActive m.core 0 && !partActive m.core 1 &&
      agentMay m.core fm 1 true && amGet? m.core.rasp.slots (handleOf 0 255) == none) &&
    asks { mop := 0x0160 } (fun m => amGet? m.core.rasp.slots (handleOf 0 255) == none && (match readBytes m 0 1 0 128 with
      | (_, .got b ps) => !ps.any id && leNat ((b.drop 8).take 4) == 4 && (progHeader (mkPtr 5 1 0) b []).isSome
      | _ => false)) (storing (natLe 4 0x50534152 ++ natLe 2 1 ++ natLe 2 0 ++ natLe 4 4) live) &&
    asks { mop := 0x0161 } (fun m => (amGet? m.core.rasp.slots 255).any (fun p => agentMay m.core fm (ptrExtent p.image) true) && (amGet? m.core.rasp.slots 254).isNone)
      (with_ (fun c => { c with rasp := { c.rasp with slots := [(255, progSlot)] } })) &&
    asks { mop := 0x0162 } (fun m => partActive m.core 0 && 255 / 256 == 0 && (amGet? m.core.rasp.slots 255).isSome)
      (with_ (fun c => { c with rasp := { c.rasp with slots := [(255, progSlot)] } })) && bindable 0x12 &&
    asks { mop := 0x0163 } (fun m => (amGet? m.core.rasp.binds 0x12).isSome && (amGet? m.core.rasp.binds 1).isNone)
      (with_ (fun c => { c with rasp := { c.rasp with binds := [(0x12, ⟨255, 1024, 4194304⟩)] } }))) = true := by decide +kernel

/-! ### The block as a whole -/

theorem test_on_CommandsRunInOrder : ({ live with pending := [Instr.tickReferenceLost] } : State).pending = .tickReferenceLost :: [] ∧ live.pending = [] :=
  ⟨rfl, rfl⟩

theorem test_on_MemoryStaysCanonical : live.memOk ∧ State.reset.memOk := by
  constructor <;> (unfold State.memOk; decide +kernel)

theorem test_on_RaspWordsRoundTrip : (RIns.fI 0x02 31 31 0xFFFF).legal = true ∧ decodeRasp 0x09000100 = some (.fI 0x02 8 0 0x100) := by decide +kernel

end Sys2Proof.Tests
end

/-! The boundaries of the tick (R36, R50, R55): what each command of the time base and of the TICK pins comes to, one lemma for
each case of its meaning, and the statement about them. -/

namespace Sys2Proof.Machine
open Sys2Proof

/-! ### The expected boundary (R36) -/

/-- The chip's own time base makes the boundary at the expected time, and the clock goes on to the command's time. -/
theorem tickBoundary_of_due {m : M} {time : Nat} (excess : Nat) (temps : List Nat) (ht : ticking m.core = true)
    (he : edgeDriven m.core = false) (hd : m.core.tck.next ≤ max m.core.glb.now time) :
    tickBoundary time excess temps m = (boundary m.core.tck.next excess temps m).on (fun c => c.at time) := by
  have hn : ¬ max m.core.glb.now time < m.core.tck.next := Nat.not_lt.mpr hd
  simp only [tickBoundary, ht, he, hn, Bool.not_true, decide_false, Bool.or_false, Bool.false_eq_true, if_false]

/-! ### TICK_IN (R50) -/

/-- At a master that TICK_IN drives, an edge's place in the window decides between the boundary and the rejection. -/
theorem tickInEdge_of_edgeDriven {m : M} (time excess : Nat) (temps : List Nat) (ht : ticking m.core = true)
    (he : edgeDriven m.core = true) :
    tickInEdge time excess temps m =
      if m.core.tck.last + periodNs m.core - periodNs m.core / 100 ≤ time ∧
          time ≤ m.core.tck.last + periodNs m.core + periodNs m.core / 100 then boundary time excess temps m
      else m.on (fun c => raise (c.at time) .tickInRejected 0 0) := by
  simp only [tickInEdge, ht, he, Bool.not_true, Bool.or_false, Bool.false_eq_true, if_false, Bool.and_eq_true, decide_eq_true_eq]

/-- No edge by P + 1 %: the holdover is logged and the boundary stands at the end of the window. -/
theorem tickInMissing_of_due {m : M} {time : Nat} (excess : Nat) (temps : List Nat) (ht : ticking m.core = true)
    (he : edgeDriven m.core = true)
    (hd : m.core.tck.last + periodNs m.core + periodNs m.core / 100 ≤ max m.core.glb.now time) :
    tickInMissing time excess temps m =
      (boundary (m.core.tck.last + periodNs m.core + periodNs m.core / 100) excess temps
        (m.on (fun c => raise c .tickHoldover 0 0))).on (fun c => c.at time) := by
  have hn : ¬ max m.core.glb.now time < m.core.tck.last + periodNs m.core + periodNs m.core / 100 := Nat.not_lt.mpr hd
  simp only [tickInMissing, ht, he, hn, Bool.not_true, decide_false, Bool.or_false, Bool.false_eq_true, if_false]

/-! ### TICK_OUT (R55) -/

/-- A pulse whose 1 µs is over ends; nothing else but the clock moves. -/
theorem tickOutEnd_of_due {c : Core} {time : Nat} (hd : c.tck.last + 1000 ≤ max c.glb.now time) :
    tickOutEnd time c = { c with
      glb := { c.glb with now := max c.glb.now time }, pins := { c.pins with tickOut := false } } := by
  simp only [tickOutEnd, Core.at_tck, Core.at_now, Core.at_pins, hd, if_true]
  rfl

/-! ### The statement -/

/-- Settles O20: each clause is the command's meaning in the case that its hypotheses choose; an edge is in the window or outside. -/
theorem tickBoundaries : Obligations.TickBoundaries := by
  unfold Obligations.TickBoundaries
  refine ⟨?expected, ?tickIn, ?tickOut⟩
  case expected =>
    intro s time excess temps ht he hd
    exact does_of_run rfl (tickBoundary_of_due excess temps ht he hd)
  case tickIn =>
    intro s time excess temps ht he
    have edge := tickInEdge_of_edgeDriven (m := s.m) time excess temps ht he
    refine ⟨fun hlo hhi => ?inside, fun hout => ?outside, fun hd => ?missing⟩
    case inside => exact does_of_run rfl (edge.trans (if_pos ⟨hlo, hhi⟩))
    case outside =>
      have hnot : ¬ (s.core.tck.last + periodNs s.core - periodNs s.core / 100 ≤ time ∧
          time ≤ s.core.tck.last + periodNs s.core + periodNs s.core / 100) := by omega
      exact does_of_run rfl (edge.trans (if_neg hnot))
    case missing => exact does_of_run rfl (tickInMissing_of_due excess temps ht he hd)
  case tickOut =>
    intro s time hp hd
    refine does_of_powered (f := fun m => m.on (tickOutEnd time)) rfl hp ?_
    show M.on s.m (tickOutEnd time) = _
    rw [M.on, State.m_core, tickOutEnd_of_due hd]

end Sys2Proof.Machine

/-! Regions and hints (R113, R118 to R123): which meaning serves each type of request, what each meaning answers in the cases
that its checks leave, and the statement about them. -/

namespace Sys2Proof.Machine
open Sys2Proof

/-! ### The meaning that serves a type of request (Table 13-8) -/

theorem serveHere_regionDefine {r : Request} (m : M) (h : r.type = 0x30) : serveHere r m = regionDefine r m := by
  simp only [serveHere, h]

theorem serveHere_publish {r : Request} (m : M) (h : r.type = 0x31) : serveHere r m = publishReq r m := by
  simp only [serveHere, h]

theorem serveHere_versionQuery {r : Request} (m : M) (h : r.type = 0x32) : serveHere r m = versionQuery r m := by
  simp only [serveHere, h]

theorem serveHere_prefetch {r : Request} (m : M) (h : r.type = 0x33) : serveHere r m = prefetchReq r m := by
  simp only [serveHere, h]

theorem serveHere_advise {r : Request} (m : M) (h : r.type = 0x34) : serveHere r m = adviseReq r m := by
  simp only [serveHere, h]

/-! ### Regions (R118, R123) -/

/-- The region that a REGION_DEFINE describes. -/
def definedRegion (r : Request) : Region :=
  { extent := ptrExtent (reqPtr r), offset := ptrOffset (reqPtr r), len := r.body.getD 1 0,
    version := r.body.getD 3 0 % 2 ^ 32, digest := 0 }

/-- A well-formed region under a free number is entered. -/
theorem regionDefine_of_free {r : Request} {m : M}
    (access : ptrCheck m.core (reqPart m.core r (ptrExtent (reqPtr r))) (reqPtr r) (r.body.getD 1 0) false (r.part != fmPart) = none)
    (number : r.body.getD 2 0 < 16384) (offset : ptrOffset (reqPtr r) % 32 = 0) (whole : r.body.getD 1 0 % 32 = 0)
    (nonempty : r.body.getD 1 0 ≠ 0) (free : region? m.core (r.body.getD 2 0) = none) :
    regionDefine r m = (m.on (fun c => { c with ext := { c.ext with
      regions := amSet c.ext.regions (r.body.getD 2 0) (definedRegion r) } }), .reply {}) := by
  simp only [reqPtr] at access offset
  simp only [regionDefine, access, Nat.not_le.mpr number, offset, whole, nonempty, free, ne_eq, not_true_eq_false, decide_false,
    Bool.or_false, Option.isSome_none, Bool.false_eq_true, if_false]
  rfl

theorem versionQuery_of_region {r : Request} {m : M} {g : Region} (h : reqRegion m.core r (r.body.getD 2 0) = some g) :
    versionQuery r m = (m, .reply { value := w64 g.version, detail := w64 g.digest }) := by
  simp only [versionQuery, h]

/-! ### PUBLISH (R119 to R122) -/

/-- The decision of a PUBLISH of region `n`, once the digest `d` that it answers is known. -/
def publishDecision (r : Request) (n : Nat) (g : Region) (d : Nat) (m : M) : M × Ans :=
  if publishOk g.version (r.body.getD 4 0 % 2 ^ 32) (r.body.getD 3 0 % 2 ^ 32) then
    (m.on (fun c => { c with ext := { c.ext with
      regions := amSet c.ext.regions n { g with version := r.body.getD 3 0 % 2 ^ 32, digest := d } } }),
      .reply { value := w64 (r.body.getD 3 0 % 2 ^ 32), detail := w64 d })
  else (m, .reply { status := .versionConflict, value := w64 g.version, detail := w64 d })

section
variable {r : Request} {n : Nat} {g : Region}

theorem publishDecision_of_ok (d : Nat) (m : M)
    (h : publishOk g.version (r.body.getD 4 0 % 2 ^ 32) (r.body.getD 3 0 % 2 ^ 32) = true) :
    publishDecision r n g d m = (m.on (fun c => { c with ext := { c.ext with
      regions := amSet c.ext.regions n { g with version := r.body.getD 3 0 % 2 ^ 32, digest := d } } }),
      .reply { value := w64 (r.body.getD 3 0 % 2 ^ 32), detail := w64 d }) := if_pos h

theorem publishDecision_of_conflict (d : Nat) (m : M)
    (h : publishOk g.version (r.body.getD 4 0 % 2 ^ 32) (r.body.getD 3 0 % 2 ^ 32) = false) :
    publishDecision r n g d m = (m, .reply { status := .versionConflict, value := w64 g.version, detail := w64 d }) :=
  if_neg (Bool.eq_false_iff.mp h)

variable {m : M} (hn : n = r.body.getD 2 0 % 2 ^ 14) (region : reqRegion m.core r n = some g)
  (first : publishAhead m.core r n = false) (still : publishWaits m.core g.extent g.offset g.len = none)
include hn region first still

/-- Without DIGEST the region's digest stands, and the decision is made at once. -/
theorem publishReq_of_no_digest (flag : bitOf (r.body.getD 2 0) 31 = false)
    (access : accessCheck m.core (reqPart m.core r g.extent) g.extent g.offset g.len false (r.part != fmPart) = none) :
    publishReq r m = publishDecision r n g g.digest m := by
  subst hn
  simp only [publishReq, region, flag, access, first, still, Bool.not_false, Bool.false_eq_true, if_true, if_false]
  rfl

/-- With DIGEST the decision follows a read of the region that meets no poison, and answers the CRC-64 of what was read. -/
theorem publishReq_of_digest {m1 : M} {l : List Byte} {bad : List Bool} (flag : bitOf (r.body.getD 2 0) 31 = true)
    (access : accessCheck m.core (reqPart m.core r g.extent) g.extent g.offset g.len true (r.part != fmPart) = none)
    (read : readBytes m (n % 4) g.extent g.offset g.len = (m1, .got l bad)) (clean : ∀ x ∈ bad, x = false) :
    publishReq r m = publishDecision r n g (crc64 l).toNat m1 := by
  have unpoisoned : bad.findIdx? id = none := List.findIdx?_eq_none_iff.mpr clean
  subst hn
  simp only [publishReq, region, flag, access, first, still, read, unpoisoned, Bool.not_true, Bool.false_eq_true, if_false]
  rfl

end

/-- R119's condition on versions of 32 bits. -/
theorem publishOk_iff {c : Nat} (e v : Nat) (hc : c < 2 ^ 32) : publishOk c e v = true ↔
    c = e ∧ 1 ≤ (v + 2 ^ 32 - c) % 2 ^ 32 ∧ (v + 2 ^ 32 - c) % 2 ^ 32 ≤ 2 ^ 31 - 1 := by
  rw [publishOk, serialNewer, Nat.mod_eq_of_lt hc]
  simp only [Bool.and_eq_true, beq_iff_eq, decide_eq_true_eq]
  omega

/-! ### Hints (R113, Table 3-7) -/

/-- What PREFETCH does to frame `i`: one that is compressed, or already on its way back, will enter the caches when it is
restored; any other enters them now. -/
def prefetchFrame (x : Extent) (e : Nat) (c : Core) (i : Nat) : Core :=
  if (frameOf x i).st = .compressed ∨ (frameOf x i).st = .decompressing then
    modFrame (if (frameOf x i).st = .compressed then wakeFrame c e i else c) e i (fun f => { f with cold := false, prefetched := true })
  else loadCaches (modFrame c e i (fun f => { f with cold := false, prefetched := false })) e [i]

/-- An access check that passes leaves PREFETCH its frames. -/
theorem prefetchReq_of_admitted {r : Request} {m : M} {x : Extent} (extent : ext? m.core (ptrExtent (reqPtr r)) = some x)
    (access : ptrCheck m.core (reqPart m.core r (ptrExtent (reqPtr r))) (reqPtr r) (r.body.getD 1 0) true false = none) :
    prefetchReq r m = (m.on (fun c => (framesTouched x (ptrOffset (reqPtr r)) (r.body.getD 1 0)).foldl
      (prefetchFrame x (ptrExtent (reqPtr r))) c), .reply {}) := by
  simp only [reqPtr] at access extent ⊢
  simp only [prefetchReq, access, extent]
  refine Prod.ext (congrArg (M.mk · m.mem) (congrArg (List.foldl · m.core _) ?sameStep)) rfl
  funext c i
  by_cases compressed : (frameOf x i).st = .compressed
  · simp [prefetchFrame, compressed]
  · by_cases restoring : (frameOf x i).st = .decompressing
    · simp [prefetchFrame, restoring]
    · simp [prefetchFrame, compressed, restoring, beq_false_of_ne compressed, beq_false_of_ne restoring]

/-- A session's request comes from its peer. -/
theorem reqAgent_of_session {c : Core} {r : Request} {ss xid : Nat} {y : Session} (sender : r.sender = .session ss xid)
    (session : sess? c ss = some y) : reqAgent c r = (c, y.remote % 65536) := by
  simp only [reqAgent, sender, session, Option.map_some, Option.getD_some]

section
variable {r : Request} {m : M} {x : Extent} (extent : ext? m.core (ptrExtent (reqPtr r)) = some x)
  (access : ptrCheck m.core (reqPart m.core r (ptrExtent (reqPtr r))) (reqPtr r) (r.body.getD 1 0) true false = none)
include extent access

theorem adviseReq_warm (kind : r.body.getD 2 0 = 1) :
    adviseReq r m = (m.on (fun c => (framesTouched x (ptrOffset (reqPtr r)) (r.body.getD 1 0)).foldl
      (fun c i => modFrame c (ptrExtent (reqPtr r)) i (fun f => { f with cold := false })) c), .reply {}) := by
  simp only [reqPtr] at access extent ⊢
  simp only [adviseReq, kind, Nat.reduceBNe, Nat.reduceBEq, access, extent]

variable {ss xid : Nat} {y : Session} (sender : r.sender = .session ss xid) (session : sess? m.core ss = some y)
include sender session

theorem adviseReq_subscribe (kind : r.body.getD 2 0 = 2) (new : x.subscribers.contains (y.remote % 65536) = false)
    (room : x.subscribers.length < 16) :
    adviseReq r m = (m.on (fun c => modExt c (ptrExtent (reqPtr r)) (fun x =>
      { x with subscribers := x.subscribers ++ [y.remote % 65536] })), .reply {}) := by
  have agent := reqAgent_of_session sender session
  simp only [reqPtr] at access extent ⊢
  simp only [adviseReq, kind, Nat.reduceBNe, Nat.reduceBEq, access, extent, agent, new, Nat.not_le.mpr room, Bool.false_eq_true,
    if_false]
  rfl

theorem adviseReq_unsubscribe (kind : r.body.getD 2 0 = 3) :
    adviseReq r m = (m.on (fun c => modExt c (ptrExtent (reqPtr r)) (fun x =>
      { x with subscribers := x.subscribers.filter (· != y.remote % 65536) })), .reply {}) := by
  have agent := reqAgent_of_session sender session
  simp only [reqPtr] at access extent ⊢
  simp only [adviseReq, kind, Nat.reduceBNe, Nat.reduceBEq, access, extent, agent]
  rfl

end

/-! ### The statement -/

/-- Settles O31: each clause is the meaning that serves its type of request, in the case that its hypotheses choose. -/
theorem regionAndHintService : Obligations.RegionAndHintService := by
  unfold Obligations.RegionAndHintService
  refine ⟨?define, ?publish, ?publishDigest, fun c e v hc _ => publishOk_iff e v hc, ?query, ?hints⟩
  case define =>
    rintro m r _ _ type rfl rfl access number offset whole nonempty free _ rfl
    exact (serveHere_regionDefine m type).trans (regionDefine_of_free access number offset whole nonempty free)
  case publish =>
    rintro m r g n v type hn flag rfl region access first still
    have decision := (serveHere_publish m type).trans (publishReq_of_no_digest hn region first still flag access)
    exact ⟨fun ok => decision.trans (publishDecision_of_ok _ _ ok),
      fun conflict => decision.trans (publishDecision_of_conflict _ _ conflict)⟩
  case publishDigest =>
    rintro m m1 r g n v l bad type hn flag rfl region access first still read clean
    have decision := (serveHere_publish m type).trans (publishReq_of_digest hn region first still flag access read clean)
    exact ⟨fun ok => decision.trans (publishDecision_of_ok _ _ ok),
      fun conflict => decision.trans (publishDecision_of_conflict _ _ conflict)⟩
  case query =>
    intro m r g type region
    exact (serveHere_versionQuery m type).trans (versionQuery_of_region region)
  case hints =>
    rintro m r x _ _ rfl rfl extent access
    refine ⟨fun type => ?prefetch, fun type kind => ?warm, fun ss xid y type kind sender session new room => ?subscribe,
      fun ss xid y type kind sender session => ?unsubscribe⟩
    case prefetch => exact (serveHere_prefetch m type).trans (prefetchReq_of_admitted extent access)
    case warm => exact (serveHere_advise m type).trans (adviseReq_warm extent access kind)
    case subscribe =>
      exact (serveHere_advise m type).trans (adviseReq_subscribe extent access sender session kind new room)
    case unsubscribe => exact (serveHere_advise m type).trans (adviseReq_unsubscribe extent access sender session kind)

end Sys2Proof.Machine

/-! The block as a whole: every command's step settles an effect, the canonical form of the memory, and the two statements about
steps. -/

namespace Sys2Proof.Machine
open Sys2Proof

/-- Whatever a command means, its step settles some effect of it on the block. -/
theorem exec_settles (i : Instr) (s : State) : ∃ m, exec i s = .next (settled s m) := by
  cases i <;> exact ⟨_, rfl⟩

/-- Settles O57: the queue is taken from the front, and what a step settles leaves it alone. -/
theorem commandsRunInOrder : Obligations.CommandsRunInOrder := by
  unfold Obligations.CommandsRunInOrder
  refine ⟨fun s i rest front => ?front, fun s empty => ?idle, fun i s => ?answers⟩
  case front => rw [step, front]
  case idle => rw [step, empty]
  case answers =>
    obtain ⟨m, hm⟩ := exec_settles i s
    exact ⟨_, hm, settled_pending s m⟩

theorem exec_memOk {i : Instr} {s t : State} (h : exec i s = .next t) : t.memOk := by
  obtain ⟨m, hm⟩ := exec_settles i s
  cases hm.symm.trans h
  exact settled_memOk s m

/-! ### What a canonical collection reads as -/

section
variable {α : Type} [DecidableEq α]

/-- Bringing a collection into canonical form changes no value. -/
theorem amGet_amNorm (d : α) (m : AMap α) (k : Nat) : amGet (amNorm d m) k d = amGet m k d := by
  induction m with
  | nil => rfl
  | cons e t ih =>
    have inserted : amNorm d (e :: t) = amPut d (amNorm d t) e.1 e.2 := rfl
    rw [inserted]
    by_cases h : k = e.1
    · rw [h, amGet_amPut_self]; simp [amGet, amGet?]
    · rw [amGet_amPut_ne d _ _ h, ih]; simp [amGet, amGet?, Ne.symm h]

/-- The entries of a canonical collection are the keys that read as something else than `d`, with what they read as. -/
theorem mem_iff_amGet {d : α} {m : AMap α} (h : amCanon d m = true) (k : Nat) (v : α) :
    (k, v) ∈ m ↔ amGet m k d = v ∧ v ≠ d := by
  induction m with
  | nil => simp [amGet, eq_comm]
  | cons e t ih =>
    obtain ⟨j, u⟩ := e
    simp only [amCanon, Bool.and_eq_true, amRising_iff, List.pairwise_cons, List.all_cons, decide_eq_true_eq] at h ih
    obtain ⟨⟨below, rising⟩, nonzero, all⟩ := h
    by_cases hk : j = k
    · have absent : (k, v) ∉ t := fun hm => absurd (below _ hm) (by simp [hk])
      subst hk
      simp only [List.mem_cons, absent, or_false, amGet, amGet?, if_true, Option.getD_some, Prod.mk.injEq, true_and]
      exact ⟨fun he => ⟨he.symm, he ▸ nonzero⟩, fun he => he.1.symm⟩
    · have other : (k, v) ≠ (j, u) := fun he => hk (congrArg Prod.fst he).symm
      simp only [List.mem_cons, other, false_or, amGet, amGet?, if_neg hk]
      exact ih ⟨rising, all⟩

/-- A canonical collection is determined by what it reads as. -/
theorem amCanon_ext {d : α} {a b : AMap α} (ha : amCanon d a = true) (hb : amCanon d b = true)
    (h : ∀ k, amGet a k d = amGet b k d) : a = b := by
  have rising {m : AMap α} (hm : amCanon d m = true) : m.Pairwise (fun x y => x.1 < y.1) := by
    rw [amCanon, Bool.and_eq_true, amRising_iff] at hm
    exact hm.1
  have nodup {m : AMap α} (hm : amCanon d m = true) : m.Nodup :=
    (rising hm).imp (fun hlt he => absurd hlt (by simp [he]))
  have same : ∀ e, e ∈ a ↔ e ∈ b := fun e => by
    rw [mem_iff_amGet ha e.1 e.2, mem_iff_amGet hb e.1 e.2, h]
  exact ((List.perm_ext_iff_of_nodup (nodup ha) (nodup hb)).mpr same).eq_of_pairwise
    (fun x y _ _ hxy hyx => absurd hxy (Nat.lt_asymm hyx)) (rising ha) (rising hb)

end

/-- A canonical memory is determined by its bytes and check bits. -/
theorem Mem.ext_of_wf {a b : Mem} (ha : a.wf = true) (hb : b.wf = true) (bytes : ∀ x, a.byte x = b.byte x)
    (checks : ∀ w, a.checks w = b.checks w) : a = b := by
  rw [Mem.wf, Bool.and_eq_true] at ha hb
  cases a; cases b
  rw [Mem.mk.injEq]
  exact ⟨amCanon_ext ha.1 hb.1 bytes, amCanon_ext ha.2 hb.2 checks⟩

/-- Settles O58: a step ends by bringing the memory into canonical form, and that form lists just what does not read as zero. -/
theorem memoryStaysCanonical : Obligations.MemoryStaysCanonical := by
  unfold Obligations.MemoryStaysCanonical
  refine ⟨fun s t ok h => ?step, fun i s t h => exec_memOk h, fun a b ha hb => Mem.ext_of_wf ha hb,
    fun m x => ⟨amGet_amNorm 0 m.cells x, amGet_amNorm 0 m.delta x⟩,
    fun m x y b ok => ⟨Mem.setByte_wf m x b ok, Mem.byte_setByte_self m x b, Mem.byte_setByte_ne m b⟩⟩
  case step =>
    rw [Machine.step] at h
    split at h
    · cases h; exact ok
    · exact exec_memOk h

end Sys2Proof.Machine

/-! The encoding of rasp instructions (R371, R372): the fields of a word, the word of its fields, and the round trip. -/

namespace Sys2Proof.Machine
open Sys2Proof

/-- An instruction whose fields fit the form of its MAJOR (Table 10-4). -/
def RIns.Fits : RIns → Prop
  | .fT major d a b func => formOf major = some .t ∧ d < 32 ∧ a < 32 ∧ b < 32 ∧ func < 2048
  | .fI major d a imm => formOf major = some .i ∧ d < 32 ∧ a < 32 ∧ imm < 65536
  | .fB major a b off => formOf major = some .b ∧ a < 32 ∧ b < 32 ∧ off < 65536
  | .fJ major off => formOf major = some .j ∧ off < 67108864
  | .fV major vd va vb m w func => formOf major = some .v ∧ vd < 16 ∧ va < 16 ∧ vb < 16 ∧ m < 4 ∧ w < 4 ∧ func < 1024
  | .fX major vd va s m w func => formOf major = some .x ∧ vd < 16 ∧ va < 16 ∧ s < 32 ∧ m < 4 ∧ w < 4 ∧ func < 512

theorem RIns.fits_of_legal {i : RIns} (h : i.legal = true) : i.Fits := by
  cases i <;> simp only [legal, Bool.and_eq_true, beq_iff_eq, decide_eq_true_eq] at h <;> simp only [Fits, h, and_self]

/-- Every form has a MAJOR of 6 bits. -/
theorem formOf_lt {major : Nat} {f : RForm} (h : formOf major = some f) : major < 64 := by
  refine Decidable.byContradiction fun big => ?_
  rw [formOf, if_neg (by omega), if_neg (by omega), if_neg (by omega), if_neg (by omega), if_neg (by omega), if_neg (by omega)] at h
  exact nomatch h

theorem RIns.encodeRasp_lt {i : RIns} (h : i.Fits) : encodeRasp i < 2 ^ 32 := by
  cases i <;> simp only [Fits] at h <;> obtain ⟨form, fields⟩ := h <;> have := formOf_lt form <;>
    simp only [encodeRasp, Nat.reducePow] <;> omega

/-- The MAJOR that an instruction's form carries. -/
def RIns.major : RIns → Nat
  | .fT major .. | .fI major .. | .fB major .. | .fJ major .. | .fV major .. | .fX major .. => major

theorem RIns.encodeRasp_major {i : RIns} (h : i.Fits) : encodeRasp i / 2 ^ 26 = i.major := by
  cases i <;> simp only [Fits] at h <;> simp only [encodeRasp, major, Nat.reducePow] <;> omega

/-- The fields of an instruction's word are the instruction's. -/
theorem RIns.fieldsOf_of_encodeRasp {i : RIns} {w : Nat} (h : i.Fits) (hw : encodeRasp i = w) : fieldsOf w = some i := by
  have hm : w / 2 ^ 26 = i.major := hw ▸ encodeRasp_major h
  cases i <;> obtain ⟨form, fields⟩ := h <;> simp only [encodeRasp, Nat.reducePow] at hw <;>
    simp only [fieldsOf, hm, major, form] <;> simp only [Option.some.injEq, fT.injEq, fI.injEq, fB.injEq, fJ.injEq, fV.injEq, fX.injEq,
      true_and,
      bitsOf, Nat.reduceSub, Nat.reduceAdd, Nat.reducePow] <;> omega

/-- The fields of a word make the word: they leave no bit of it out. -/
theorem encodeRasp_of_fieldsOf {w : Nat} {i : RIns} (h : fieldsOf w = some i) : encodeRasp i = w := by
  simp only [fieldsOf] at h
  split at h <;> cases h <;>
    simp only [encodeRasp, bitsOf, Nat.reduceSub, Nat.reduceAdd, Nat.reducePow] <;> omega

theorem decodeRasp_eq_some {w : Nat} {i : RIns} : decodeRasp w = some i ↔ fieldsOf w = some i ∧ i.legal = true := by
  unfold decodeRasp
  cases fieldsOf w with
  | none => simp
  | some j => simp only [Option.ite_none_right_eq_some, Option.some.injEq]; exact ⟨fun ⟨l, e⟩ => ⟨e, e ▸ l⟩, fun ⟨e, l⟩ => ⟨e ▸ l, e⟩⟩

theorem decodeRasp_encodeRasp {i : RIns} (h : i.legal = true) : decodeRasp (encodeRasp i) = some i :=
  decodeRasp_eq_some.mpr ⟨RIns.fieldsOf_of_encodeRasp (RIns.fits_of_legal h) rfl, h⟩

/-- Settles O59: the fields of a form partition the word, so each of decoding and encoding undoes the other. -/
theorem raspWordsRoundTrip : Obligations.RaspWordsRoundTrip := by
  unfold Obligations.RaspWordsRoundTrip
  refine ⟨fun i h => ⟨RIns.encodeRasp_lt (RIns.fits_of_legal h), decodeRasp_encodeRasp h⟩, fun w i _ h => ?word, fun i j hi hj h => ?inj,
    by decide⟩
  case word =>
    obtain ⟨fields, legal⟩ := decodeRasp_eq_some.mp h
    exact ⟨legal, encodeRasp_of_fieldsOf fields⟩
  case inj => exact Option.some.inj ((decodeRasp_encodeRasp hi).symm.trans (h ▸ decodeRasp_encodeRasp hj))

end Sys2Proof.Machine

/-! Integer operations of the rasp cores (R374): what each function of MAJOR 0x01 and 0x24 comes to on bit vectors. -/

namespace Sys2Proof.Machine
open Sys2Proof

/-! ### Numbers as two's-complement values -/

/-- A signed field is the number that the bits stand for. -/
theorem sext_eq_toInt {w : Nat} (hw : 0 < w) (v : Nat) : sext w v = (BitVec.ofNat w v).toInt := by
  have half : 2 ^ w = 2 * 2 ^ (w - 1) := by rw [← Nat.pow_succ', Nat.succ_eq_add_one, Nat.sub_add_cancel hw]
  rw [sext, BitVec.toInt_eq_toNat_cond, BitVec.toNat_ofNat]
  by_cases h : v % 2 ^ w < 2 ^ (w - 1)
  · rw [if_pos h, if_pos (by omega)]
  · rw [if_neg h, if_neg (by omega)]

theorem sext_toNat {w : Nat} (hw : 0 < w) (x : BitVec w) : sext w x.toNat = x.toInt := by
  rw [sext_eq_toInt hw, BitVec.ofNat_toNat, BitVec.setWidth_eq]

theorem wrapI_eq_toNat (w : Nat) (i : Int) : wrapI w i = (BitVec.ofInt w i).toNat := (BitVec.toNat_ofInt i).symm

/-- A number that a bit vector's signed value equals modulo 2^w wraps to that bit vector. -/
theorem wrapI_of_toInt {w : Nat} {x : BitVec w} {i : Int} (h : x.toInt = i.bmod (2 ^ w)) : wrapI w i = x.toNat := by
  rw [wrapI_eq_toNat]
  exact congrArg BitVec.toNat (BitVec.eq_of_toInt_eq ((BitVec.toInt_ofInt i).trans h.symm))

/-- A signed value wraps to its own bits. -/
theorem wrapI_toInt {w : Nat} (x : BitVec w) : wrapI w x.toInt = x.toNat := by
  rw [wrapI_eq_toNat, BitVec.ofInt_toInt]

theorem toNat_one (b : Bool) : (one b).toNat = b2n b := by cases b <;> rfl

theorem toNat_eq_zero_iff {w : Nat} (x : BitVec w) : x.toNat = 0 ↔ x = 0 := by
  rw [← BitVec.toNat_inj]; simp

/-! ### Functions of lanes of any width -/

section
variable {w : Nat} (x y : BitVec w)

theorem intOp_add : intOp w 0 x.toNat y.toNat = (x + y).toNat := (BitVec.toNat_add x y).symm

theorem intOp_sub : intOp w 1 x.toNat y.toNat = (x - y).toNat := by
  have := y.isLt
  rw [BitVec.toNat_sub, intOp]
  congr 1; omega

theorem intOp_and : intOp w 2 x.toNat y.toNat = (x &&& y).toNat := (BitVec.toNat_and x y).symm
theorem intOp_or : intOp w 3 x.toNat y.toNat = (x ||| y).toNat := (BitVec.toNat_or x y).symm
theorem intOp_xor : intOp w 4 x.toNat y.toNat = (x ^^^ y).toNat := (BitVec.toNat_xor x y).symm

theorem intOp_shl : intOp w 5 x.toNat y.toNat = (x <<< (y.toNat % w)).toNat := by
  rw [BitVec.toNat_shiftLeft, Nat.shiftLeft_eq, intOp]

theorem intOp_shr : intOp w 6 x.toNat y.toNat = (x >>> (y.toNat % w)).toNat := by
  rw [BitVec.toNat_ushiftRight, Nat.shiftRight_eq_div_pow, intOp]

theorem intOp_minu : intOp w 12 x.toNat y.toNat = (if x.ule y then x else y).toNat := by
  by_cases h : x.toNat ≤ y.toNat <;> simp [intOp, BitVec.ule, h]
  omega

theorem intOp_maxu : intOp w 13 x.toNat y.toNat = (if x.ule y then y else x).toNat := by
  by_cases h : x.toNat ≤ y.toNat <;> simp [intOp, BitVec.ule, h]
  omega

theorem intOp_mul : intOp w 16 x.toNat y.toNat = (x * y).toNat := (BitVec.toNat_mul x y).symm

variable (hw : 0 < w)
include hw

theorem intOp_sar : intOp w 7 x.toNat y.toNat = (x.sshiftRight (y.toNat % w)).toNat := by
  rw [intOp, sext_toNat hw, ← Int.shiftRight_eq_div_pow, ← BitVec.toInt_sshiftRight, wrapI_toInt]

theorem intOp_min : intOp w 10 x.toNat y.toNat = (if x.sle y then x else y).toNat := by
  by_cases h : x.toInt ≤ y.toInt <;> simp [intOp, sext_toNat hw, BitVec.sle, h]

theorem intOp_max : intOp w 11 x.toNat y.toNat = (if x.sle y then y else x).toNat := by
  by_cases h : x.toInt ≤ y.toInt <;> simp [intOp, sext_toNat hw, BitVec.sle, h]

end

/-! ### Functions of the scalar instructions -/

section
variable (x y : W64)

theorem intOp_slt : intOp 64 8 x.toNat y.toNat = (one (x.slt y)).toNat := by
  rw [toNat_one, intOp, sext_toNat (by decide), sext_toNat (by decide), BitVec.slt]

theorem intOp_sltu : intOp 64 9 x.toNat y.toNat = (one (x.ult y)).toNat := by
  rw [toNat_one, intOp, BitVec.ult]

theorem intOp_mulh : intOp 64 17 x.toNat y.toNat = (BitVec.ofInt 64 (x.toInt * y.toInt / 2 ^ 64)).toNat := by
  rw [intOp, sext_toNat (by decide), sext_toNat (by decide), wrapI_eq_toNat]; rfl

theorem intOp_mulhu : intOp 64 18 x.toNat y.toNat = (w64 (x.toNat * y.toNat / 2 ^ 64)).toNat := by
  have product : x.toNat * y.toNat / 2 ^ 64 < 2 ^ 64 :=
    Nat.div_lt_of_lt_mul (Nat.mul_lt_mul'' x.isLt y.isLt)
  rw [intOp, BitVec.toNat_ofNat, Nat.mod_eq_of_lt product]

theorem intOp_div : intOp 64 19 x.toNat y.toNat = (if y = 0 then BitVec.allOnes 64 else x.sdiv y).toNat := by
  simp only [intOp, toNat_eq_zero_iff, sext_toNat (w := 64) (by decide)]
  split
  · rfl
  · exact wrapI_of_toInt (BitVec.toInt_sdiv x y)

theorem intOp_divu : intOp 64 20 x.toNat y.toNat = (if y = 0 then BitVec.allOnes 64 else x / y).toNat := by
  simp only [intOp, toNat_eq_zero_iff]
  split
  · rfl
  · exact BitVec.toNat_udiv.symm

theorem intOp_rem : intOp 64 21 x.toNat y.toNat = (if y = 0 then x else x.srem y).toNat := by
  simp only [intOp, toNat_eq_zero_iff, sext_toNat (w := 64) (by decide)]
  split
  · rfl
  · rw [← BitVec.toInt_srem, wrapI_toInt]

theorem intOp_remu : intOp 64 22 x.toNat y.toNat = (if y = 0 then x else x % y).toNat := by
  simp only [intOp, toNat_eq_zero_iff]
  split
  · rfl
  · exact BitVec.toNat_umod.symm

end

/-- Every two-operand scalar function is its operation on 64-bit values. -/
theorem intOp_scalarOps : ∀ e ∈ scalarOps, ∀ x y : W64, intOp 64 e.func x.toNat y.toNat = (e.op x y).toNat := by
  simp only [scalarOps, List.forall_mem_cons]
  exact ⟨intOp_add, intOp_sub, intOp_and, intOp_or, intOp_xor, intOp_shl, intOp_shr, fun x y => intOp_sar x y (by decide), intOp_slt,
    intOp_sltu, fun x y => intOp_min x y (by decide), fun x y => intOp_max x y (by decide), intOp_minu, intOp_maxu, intOp_mul,
    intOp_mulh, intOp_mulhu, intOp_div, intOp_divu, intOp_rem, intOp_remu, by simp⟩

/-! ### Functions of one operand -/

/-- The elements before the first that fails a test. -/
theorem length_takeWhile_range {p : Nat → Bool} {n k : Nat} (hk : k ≤ n) (before : ∀ i < k, p i = true) (at_k : k < n → p k = false) :
    ((List.range n).takeWhile p).length = k := by
  obtain ⟨d, rfl⟩ := Nat.exists_eq_add_of_le hk
  rw [List.range_add, List.takeWhile_append_of_pos (by simpa using before), List.length_append, List.length_range]
  cases d with
  | zero => simp
  | succ d => simp [List.range_succ_eq_map, at_k]

theorem lt_two_pow_bitLen (v : Nat) : v < 2 ^ bitLen v := by
  unfold bitLen
  split
  · omega
  · exact Nat.lt_log2_self

/-- Leading zeros are counted down from the top bit. -/
theorem intOp_clz (x : W64) (y : Nat) :
    intOp 64 24 x.toNat y = ((List.range 64).takeWhile (fun i => !x.getLsbD (63 - i))).length := by
  have fits : bitLen x.toNat ≤ 64 := by
    unfold bitLen
    split
    · omega
    · next h => exact (Nat.log2_lt h).mpr x.isLt
  refine (length_takeWhile_range (Nat.sub_le _ _) (fun i hi => ?zeros) (fun hk => ?one)).symm
  case zeros =>
    have small : x.toNat < 2 ^ (63 - i) := Nat.lt_of_lt_of_le (lt_two_pow_bitLen x.toNat)
      (Nat.pow_le_pow_right (by decide) (by omega))
    simp [BitVec.getLsbD, Nat.testBit_lt_two_pow small]
  case one =>
    have nonzero : x.toNat ≠ 0 := fun h => by simp [h, bitLen] at hk
    have top : 63 - (64 - bitLen x.toNat) = x.toNat.log2 := by
      simp only [bitLen, nonzero, if_false] at fits ⊢; omega
    simp [BitVec.getLsbD, top, Nat.testBit_log2 nonzero]

theorem bitOf_eq_testBit (v i : Nat) : bitOf v i = v.testBit i := by
  rw [bitOf, Nat.testBit_eq_decide_div_mod_eq]

theorem intOp_popc (x : W64) (y : Nat) : intOp 64 25 x.toNat y = ((List.range 64).filter x.getLsbD).length := by
  refine congrArg (fun p => ((List.range 64).filter p).length) (funext fun i => ?_)
  rw [bitOf_eq_testBit, BitVec.getLsbD]

/-- Every one-operand scalar function is its operation on a 64-bit value, whatever the unused operand. -/
theorem intOp_unaryOps : ∀ e ∈ unaryOps, ∀ (x : W64) (y : Nat), intOp 64 e.2.1 x.toNat y = e.2.2 x := by
  simp only [unaryOps, List.forall_mem_cons]
  exact ⟨intOp_clz, intOp_popc, fun _ _ => rfl, by simp⟩

end Sys2Proof.Machine

/-! Scalar instructions of the rasp cores: how an issuing instruction's outcome becomes its step, and the statements about integer,
immediate, branch and FP32 instructions. -/

namespace Sys2Proof.Machine
open Sys2Proof

/-! ### From an outcome to the step -/

section
variable {s : State} {t : Nat} {i : RIns} {th th' : Thread} {p : ProgRun} {m m' : M} {cmd : Instr}
  {body : M → Thread → M × Out} (h : Issues s t i th p m) (he : exec cmd s = runServed (issue t i body) s)
include h he

theorem Issues.goes_on (hb : body m th = (m', .next th')) (hs : Machine.stays m' t) : doesAs th cmd s (advance m' t th') :=
  he.trans (issue_next h hb hs)

/-- An instruction that touches nothing but its thread's registers. -/
theorem Issues.goes_on_here (hb : body m th = (m, .next th')) : doesAs th cmd s (advance m t th') := h.goes_on he hb h.stays

theorem Issues.jumps {pc : Nat} (hb : body m th = (m, .jump th' pc)) (hpc : pc < p.codeBytes) (hal : pc % 4 = 0) :
    doesAs th cmd s (jumped m t th' pc) := he.trans (issue_jump h hb h.stays hpc hal)

theorem Issues.waits {k : ThreadWait} (hb : body m th = (m', .wait k)) (hs : Machine.stays m' t) :
    doesAs th cmd s (m'.on (fun c => modThr c t (fun th => { th with wait := k }))) := he.trans (issue_wait h hb hs)

theorem Issues.parks {k : ParkCause} (hb : body m th = (m', .park k)) (hs : Machine.stays m' t) :
    doesAs th cmd s (m'.on (fun c => parkThread c t k)) := he.trans (issue_park h hb hs)

theorem Issues.ends (hb : body m th = (m', .gone)) : doesAs th cmd s m' := he.trans (issue_gone h hb)

theorem Issues.traps {x : Trap} (hb : body m th = (m', .trap x)) (hs : Machine.stays m' t) :
    ∃ w, fetchWord (seenBy s.m th) t th p = (m, .word w) ∧ doesAs th cmd s (takeTrap m' t w x) := by
  obtain ⟨w, hw, hstep⟩ := issue_trap h hb hs
  exact ⟨w, hw, he.trans hstep⟩

end

/-- A posting instruction that completes. -/
theorem Issues.posts {s : State} {t : Nat} {i : RIns} {th th' : Thread} {p : ProgRun} {m m' : M} {cmd : Instr}
    {body : M → Thread → M × Option Out} (h : Issues s t i th p m) (he : exec cmd s = runServed (issuePost t i body) s)
    (hb : body m th = (m', some (.next th'))) (hs : Machine.stays m' t) : doesAs th cmd s (advance m' t th') :=
  he.trans (post_next h hb hs)

/-! ### Registers -/

@[simp] theorem w64_toNat (x : W64) : w64 x.toNat = x := (BitVec.ofNat_toNat ..).trans (BitVec.setWidth_eq x)

/-- A scalar register holds 64 bits. -/
theorem Thread.sreg_eq (th : Thread) (n : Nat) : th.sreg n = (w64 (th.sreg n)).toNat := by
  have fits : th.sreg n < 2 ^ 64 := by
    unfold sreg
    split
    · decide
    · exact BitVec.isLt _
  rw [BitVec.toNat_ofNat, Nat.mod_eq_of_lt fits]

@[simp] theorem Thread.sbad_zero (th : Thread) : th.sbad 0 = false := rfl

/-- A register takes a value modulo 2^64. -/
theorem Thread.setS_congr (th : Thread) (d : Nat) {v v' : Nat} (bad : Bool) (h : w64 v = w64 v') : th.setS d v bad = th.setS d v' bad := by
  unfold setS; rw [show BitVec.ofNat 64 v = BitVec.ofNat 64 v' from h]

/-! ### Integer instructions (R374) -/

theorem exec_scalarOps : ∀ e ∈ scalarOps, ∀ (s : State) (t d a b : Nat),
    exec (e.cmd t d a b) s = runServed (issue t (.fT 0x01 d a b e.func) (aluT e.func d a b)) s := by
  simp only [scalarOps, List.forall_mem_cons]
  exact ⟨fun _ _ _ _ _ => rfl, fun _ _ _ _ _ => rfl, fun _ _ _ _ _ => rfl, fun _ _ _ _ _ => rfl, fun _ _ _ _ _ => rfl,
    fun _ _ _ _ _ => rfl, fun _ _ _ _ _ => rfl, fun _ _ _ _ _ => rfl, fun _ _ _ _ _ => rfl, fun _ _ _ _ _ => rfl,
    fun _ _ _ _ _ => rfl, fun _ _ _ _ _ => rfl, fun _ _ _ _ _ => rfl, fun _ _ _ _ _ => rfl, fun _ _ _ _ _ => rfl,
    fun _ _ _ _ _ => rfl, fun _ _ _ _ _ => rfl, fun _ _ _ _ _ => rfl, fun _ _ _ _ _ => rfl, fun _ _ _ _ _ => rfl,
    fun _ _ _ _ _ => rfl, by simp⟩

theorem exec_unaryOps : ∀ e ∈ unaryOps, ∀ (s : State) (t d a : Nat),
    exec (e.1 t d a) s = runServed (issue t (.fT 0x01 d a 0 e.2.1) (aluT e.2.1 d a 0)) s := by
  simp only [unaryOps, List.forall_mem_cons]
  exact ⟨fun _ _ _ _ => rfl, fun _ _ _ _ => rfl, fun _ _ _ _ => rfl, by simp⟩

/-- Settles O1: each command is the driver with its function, and the function is its operation on 64-bit values. -/
theorem scalarIntegerInstructions : Obligations.ScalarIntegerInstructions := by
  unfold Obligations.ScalarIntegerInstructions
  refine ⟨fun e he s t d a b th p m h => ?binary, fun e he s t d a th p m h => ?unary⟩
  case binary =>
    refine h.goes_on_here (exec_scalarOps e he s t d a b) ?_
    rw [← intOp_scalarOps e he, ← th.sreg_eq a, ← th.sreg_eq b]; rfl
  case unary =>
    refine h.goes_on_here (exec_unaryOps e he s t d a) ?_
    rw [← intOp_unaryOps e he _ (th.sreg 0), ← th.sreg_eq a, aluT, pureOut, th.sbad_zero, Bool.or_false]

/-! ### Immediate instructions (R373, R374) -/

/-- A 16-bit immediate enters as its 64-bit sign extension. -/
theorem imm64_eq (imm : Nat) : imm64 imm = (signed16 imm).toNat := by
  rw [imm64, immS, sext_eq_toInt (by decide), signed16, ← BitVec.toInt_signExtend_of_le (v := 64) (by decide), wrapI_toInt]

/-- An immediate instruction is the driver with a function of MAJOR 0x01 and the extended immediate. -/
theorem exec_immOps : ∀ e ∈ immOps, ∃ func, (∀ x y : W64, intOp 64 func x.toNat y.toNat = (e.op x y).toNat) ∧
    ∀ (s : State) (t d a imm : Nat),
      exec (e.cmd t d a imm) s = runServed (issue t (.fI e.func d a imm) (aluI func d a (imm64 imm))) s := by
  simp only [immOps, List.forall_mem_cons]
  exact ⟨⟨0, intOp_add, fun _ _ _ _ _ => rfl⟩, ⟨2, intOp_and, fun _ _ _ _ _ => rfl⟩, ⟨3, intOp_or, fun _ _ _ _ _ => rfl⟩,
    ⟨4, intOp_xor, fun _ _ _ _ _ => rfl⟩, ⟨8, intOp_slt, fun _ _ _ _ _ => rfl⟩, by simp⟩

theorem runServed_if_pos {P : Prop} [Decidable P] (hP : P) (f g : M → M) (s : State) :
    runServed (if P then f else g) s = runServed f s := by rw [if_pos hP]

/-- A shift by an immediate is the driver with a function of MAJOR 0x01 and the amount. -/
theorem exec_shiftOps : ∀ e ∈ shiftOps, ∃ func, (∀ x y : W64, intOp 64 func x.toNat y.toNat = (e.2.2 x (y.toNat % 64)).toNat) ∧
    ∀ (s : State) (t d a sh : Nat), sh < 64 →
      exec (e.1 t d a sh) s = runServed (issue t (.fI 0x06 d a (64 * e.2.1 + sh)) (aluI func d a sh)) s := by
  simp only [shiftOps, List.forall_mem_cons]
  exact ⟨⟨5, intOp_shl, fun s _ _ _ _ h => runServed_if_pos h _ _ s⟩, ⟨6, intOp_shr, fun s _ _ _ _ h => runServed_if_pos h _ _ s⟩,
    ⟨7, fun x y => intOp_sar x y (by decide), fun s _ _ _ _ h => runServed_if_pos h _ _ s⟩, by simp⟩

/-- A bit of a number with a field replaced: the field's bit within it, the number's own outside. -/
theorem testBit_setBits {hi lo : Nat} (h : lo ≤ hi) (v x i : Nat) :
    (setBits v hi lo x).testBit i = if lo ≤ i ∧ i ≤ hi then x.testBit (i - lo) else v.testBit i := by
  have bit (n : Nat) : n.testBit i = decide (bitsOf n i i = 1) := by
    rw [Nat.testBit_eq_decide_div_mod_eq, bitsOf, Nat.sub_self, Nat.zero_add, Nat.pow_one]
  by_cases below : i < lo
  · rw [if_neg (by omega), bit, bit, bitsOf_setBits_below h below (Nat.le_refl i)]
  · by_cases above : hi < i
    · rw [if_neg (by omega), bit, bit, bitsOf_setBits_above h above]
    · rw [if_pos (by omega)]
      have field := congrArg (·.testBit (i - lo)) (bitsOf_setBits_self h v x)
      simp only [bitsOf, Nat.testBit_mod_two_pow, Nat.testBit_div_two_pow, show i - lo < hi - lo + 1 by omega, decide_true,
        Bool.true_and, Nat.sub_add_cancel (Nat.not_lt.mp below)] at field
      exact field

/-- MOVK keeps the register but for its 16 bits (Table 10-5). -/
theorem setBits_movk (x : W64) (c imm : Nat) (himm : imm < 2 ^ 16) :
    w64 (setBits x.toNat (16 * c + 15) (16 * c) imm) = (x &&& ~~~(w64 0xFFFF <<< (16 * c))) ||| (w64 imm <<< (16 * c)) := by
  have ones (j : Nat) : Nat.testBit 0xFFFF j = decide (j < 16) := Nat.testBit_two_pow_sub_one 16 j
  apply BitVec.eq_of_getLsbD_eq
  intro i hi
  simp only [BitVec.getLsbD_ofNat, testBit_setBits (Nat.le_add_right (16 * c) 15), BitVec.getLsbD_or, BitVec.getLsbD_and,
    BitVec.getLsbD_not, BitVec.getLsbD_shiftLeft, hi, decide_true, Bool.true_and, ones]
  by_cases below : i < 16 * c
  · simp [below, BitVec.getLsbD, show ¬ 16 * c ≤ i by omega]
  · by_cases inside : i ≤ 16 * c + 15
    · simp [below, inside, Nat.not_lt.mp below, show i - 16 * c < 16 by omega, show i - 16 * c < 64 by omega]
    · have high : imm.testBit (i - 16 * c) = false :=
        Nat.testBit_lt_two_pow (Nat.lt_of_lt_of_le himm (Nat.pow_le_pow_right (by decide) (by omega)))
      simp [below, inside, high, show ¬ i - 16 * c < 16 by omega, BitVec.getLsbD]

theorem RIns.imm_lt_of_legal {major d a imm : Nat} (h : (RIns.fI major d a imm).legal = true) : imm < 65536 := by
  simp only [legal, Bool.and_eq_true, decide_eq_true_eq] at h
  omega

/-- Settles O2: each command is the driver with the function of its MAJOR on the extended immediate or the shift amount. -/
theorem scalarImmediateInstructions : Obligations.ScalarImmediateInstructions := by
  unfold Obligations.ScalarImmediateInstructions
  refine ⟨fun e he s t d a imm th p m h => ?imm, fun e he s t d a sh th p m hsh h => ?shift, fun s t d imm th p m h => ?movi,
    fun s t d c imm th p m h => ?movk⟩
  case imm =>
    obtain ⟨func, value, step⟩ := exec_immOps e he
    refine h.goes_on_here (step s t d a imm) ?_
    rw [← value, ← imm64_eq, ← th.sreg_eq a]; rfl
  case shift =>
    obtain ⟨func, value, step⟩ := exec_shiftOps e he
    have amount : (w64 sh).toNat = sh := by rw [BitVec.toNat_ofNat, Nat.mod_eq_of_lt (Nat.lt_trans hsh (by decide))]
    refine h.goes_on_here (step s t d a sh hsh) ?_
    have shifted := value (w64 (th.sreg a)) (w64 sh)
    rw [amount, Nat.mod_eq_of_lt hsh, ← th.sreg_eq a] at shifted
    rw [← shifted]; rfl
  case movi =>
    refine h.goes_on_here (body := movi d imm) rfl ?_
    rw [← imm64_eq]; rfl
  case movk =>
    refine h.goes_on_here (body := movk d c imm) rfl ?_
    rw [Machine.movk, pureOut]
    congr 2
    refine th.setS_congr d _ ?_
    rw [th.sreg_eq d, setBits_movk _ c imm (RIns.imm_lt_of_legal h.legal), ← th.sreg_eq d]
    exact (w64_toNat _).symm

/-! ### Branches and jumps (R373) -/

theorem immS_eq_toInt (imm : Nat) : immS imm = (BitVec.ofNat 16 imm).toInt := sext_eq_toInt (by decide) imm

/-- A target below 2^32 is itself. -/
theorem target_eq {k : Nat} {x : Int} (hk : (k : Int) = x) (hlt : k < 2 ^ 32) : (x % (2 ^ 32 : Nat)).toNat = k := by
  rw [← hk]; omega

/-- A branch is the driver with its comparison. -/
theorem exec_branchOps : ∀ e ∈ branchOps, ∃ holds : Nat → Nat → Bool, (∀ x y : W64, holds x.toNat y.toNat = e.2.2 x y) ∧
    ∀ (s : State) (t a b off : Nat), exec (e.1 t a b off) s = runServed (issue t (.fB e.2.1 a b off) (branch holds a b off)) s := by
  have signed (x : W64) : sext 64 x.toNat = x.toInt := sext_toNat (by decide) x
  have equal (x y : W64) : (x.toNat == y.toNat) = (x == y) := by
    rw [Bool.eq_iff_iff, beq_iff_eq, beq_iff_eq, BitVec.toNat_inj]
  simp only [branchOps, List.forall_mem_cons]
  exact ⟨⟨_, equal, fun _ _ _ _ _ => rfl⟩, ⟨_, fun x y => congrArg not (equal x y), fun _ _ _ _ _ => rfl⟩,
    ⟨_, fun x y => by simp only [signed]; rfl, fun _ _ _ _ _ => rfl⟩, ⟨_, fun x y => by simp only [signed]; rfl, fun _ _ _ _ _ => rfl⟩,
    ⟨_, fun _ _ => rfl, fun _ _ _ _ _ => rfl⟩, ⟨_, fun _ _ => rfl, fun _ _ _ _ _ => rfl⟩, by simp⟩

/-- Settles O3: the comparison decides between the two outcomes of a branch, and a target below 2^32 is not wrapped. -/
theorem branchesAndJumps : Obligations.BranchesAndJumps := by
  unfold Obligations.BranchesAndJumps
  refine ⟨fun e he s t a b off th p m h ha hb => ?branch, fun s t off th p m h k hk hin hlt hal => ?jal,
    fun s t d a th p m h ha hin hal => ?jr⟩
  case branch =>
    obtain ⟨holds, value, step⟩ := exec_branchOps e he
    have compared := value (w64 (th.sreg a)) (w64 (th.sreg b))
    rw [← th.sreg_eq a, ← th.sreg_eq b] at compared
    rw [← compared]
    refine ⟨fun hno => h.goes_on_here (step s t a b off) ?stays, fun hyes k hk hin hlt hal => h.jumps (step s t a b off) ?leaves hin hal⟩
    case stays => simp only [Machine.branch, pureOut, ha, hb, hno, Bool.or_self, Bool.false_eq_true, if_false]
    case leaves =>
      simp only [Machine.branch, pureOut, ha, hb, hyes, Bool.or_self, Bool.false_eq_true, if_false, if_true, immS_eq_toInt,
        target_eq hk hlt]
  case jal =>
    refine h.jumps (body := Machine.jal off) rfl ?_ hin hal
    simp only [Machine.jal, pureOut, sext_eq_toInt (w := 26) (by decide), target_eq hk hlt]
  case jr =>
    refine h.jumps (body := Machine.jr d a) rfl ?_ hin hal
    simp only [Machine.jr, pureOut, ha, Bool.false_eq_true, if_false]

/-! ### FP32 instructions (R375) and CVTS (R376) -/

/-- An FP32 instruction is the driver with its function. -/
theorem exec_floatOps : ∀ e ∈ floatOps, ∀ (s : State) (t d a b : Nat),
    exec (e.1 t d a b) s = runServed (issue t (.fT 0x20 d a b e.2.1) (fpT e.2.1 d a b)) s := by
  simp only [floatOps, List.forall_mem_cons]
  exact ⟨fun _ _ _ _ _ => rfl, fun _ _ _ _ _ => rfl, fun _ _ _ _ _ => rfl, fun _ _ _ _ _ => rfl, fun _ _ _ _ _ => rfl,
    fun _ _ _ _ _ => rfl, fun _ _ _ _ _ => rfl, fun _ _ _ _ _ => rfl, fun _ _ _ _ _ => rfl, fun _ _ _ _ _ => rfl, by simp⟩

theorem exec_floatUnaryOps : ∀ e ∈ floatUnaryOps, ∀ (s : State) (t d a : Nat),
    exec (e.1 t d a) s = runServed (issue t (.fT 0x20 d a 0 e.2.1) (fpT e.2.1 d a 0)) s := by
  simp only [floatUnaryOps, List.forall_mem_cons]
  exact ⟨fun _ _ _ _ => rfl, fun _ _ _ _ => rfl, fun _ _ _ _ => rfl, by simp⟩

/-- The value that function `func` of MAJOR 0x20 writes. -/
def fpValue (func d a b : Nat) : Nat := if func = 11 then intToFp a else if func = 12 then fpToInt (fpOf a) else fpOp func d a b

theorem fpT_eq (func d a b : Nat) (m : M) (th : Thread) : fpT func d a b m th =
    (m, .next (th.setS d (fpValue func (th.sreg d) (th.sreg a) (th.sreg b)) (th.sbad a || th.sbad b || (func == 7 && th.sbad d)))) := rfl

theorem fpValue_floatOps : ∀ e ∈ floatOps, ∀ d a b : Nat, fpValue e.2.1 d a b = e.2.2 d a b := by
  simp only [floatOps, List.forall_mem_cons]
  exact ⟨fun _ _ _ => rfl, fun _ _ _ => rfl, fun _ _ _ => rfl, fun _ _ _ => rfl, fun _ _ _ => rfl, fun _ _ _ => rfl,
    fun _ _ _ => rfl, fun _ _ _ => rfl, fun _ _ _ => rfl, fun _ _ _ => rfl, by simp⟩

theorem fpValue_floatUnaryOps : ∀ e ∈ floatUnaryOps, ∀ d a b : Nat, fpValue e.2.1 d a b = e.2.2 a ∧ e.2.1 ≠ 7 := by
  have int (a : Nat) : intToFp a = fp32Bits (toFp32 (FVal.ofInt (w64 a).toInt)) := by rw [intToFp, sext_eq_toInt (by decide)]
  simp only [floatUnaryOps, List.forall_mem_cons]
  exact ⟨fun _ _ _ => ⟨rfl, by decide⟩, fun _ a _ => ⟨int a, by decide⟩, fun _ _ _ => ⟨rfl, by decide⟩, by simp⟩

section
variable {x y : FmtWord} {b : Nat} (hx : fmtWord? (b % 2 ^ 32) = some x) (hy : fmtWord? (b / 2 ^ 32 % 2 ^ 32) = some y)
  (sx : isBlock x.fmt = false) (sy : isBlock y.fmt = false) (pair : pairOk x.fmt y.fmt = true)
include hx hy sx sy pair

/-- A permitted pair of scalar formats (R376). -/
theorem convPair_of_scalars : convPair b = .inr (x, y) := by
  simp only [convPair, hx, hy, sx, sy, pair, Bool.or_self, Bool.not_true, Bool.false_eq_true, if_false]

end

/-- What CVTS leaves, once its formats are known. -/
theorem cvts_of_pair {d a b : Nat} {x y : FmtWord} {m : M} {th : Thread} {c : Core} {es : List Nat} {f : Flags}
    (pair : convPair (th.sreg b) = .inr (x, y)) (conv : convElems m.core x y [th.sreg a % 2 ^ elemBits x.fmt] = (c, es, f)) :
    cvts d a b m th = ({ m with core := if th.sbad a || th.sbad b then c else addFlags c th.ctx th.num f },
      .next (th.setS d (es.headD 0) (th.sbad a || th.sbad b))) := by
  simp only [cvts, pair, conv]

theorem convElems_same (c : Core) {x y : FmtWord} (h : x.fmt = y.fmt) (es : List Nat) :
    convElems c x y es = (c, es, bitFlags (es.map (decodeElem x.fmt))) := if_pos h

theorem convElems_of_ne (c : Core) {x y : FmtWord} (h : x.fmt ≠ y.fmt) (es : List Nat) :
    convElems c x y es = encodeScalars c y (es.map (decodeElem x.fmt)) := if_neg h

/-- Settles O4: each command is the driver with its function; CVTS copies the bits of equal formats and encodes others. -/
theorem scalarFloatInstructions : Obligations.ScalarFloatInstructions := by
  unfold Obligations.ScalarFloatInstructions
  refine ⟨fun e he s t d a b th p m h => ?binary, fun e he s t d a th p m h => ?unary,
    fun s t d a b th p m x y h hx hy sx sy pair clean => ?sound, fun s t d a b th p m x y h hx hy sx sy pair bad => ?poisoned⟩
  case binary =>
    refine h.goes_on_here (exec_floatOps e he s t d a b) ?_
    rw [fpT_eq, fpValue_floatOps e he]
  case unary =>
    obtain ⟨value, other⟩ := fpValue_floatUnaryOps e he (th.sreg d) (th.sreg a) (th.sreg 0)
    refine h.goes_on_here (exec_floatUnaryOps e he s t d a) ?_
    rw [fpT_eq, value, th.sbad_zero, beq_false_of_ne other, Bool.or_false, Bool.false_and, Bool.or_false]
  case sound =>
    have formats := convPair_of_scalars hx hy sx sy pair
    refine ⟨fun same c hc hs => ?_, fun differ c e f enc hs => ?_⟩
    · refine h.goes_on (body := cvts d a b) rfl ?_ hs
      rw [cvts_of_pair formats (convElems_same m.core same _), clean, hc]; rfl
    · refine h.goes_on (body := cvts d a b) rfl ?_ hs
      rw [cvts_of_pair formats ((convElems_of_ne m.core differ _).trans enc), clean]; rfl
  case poisoned =>
    rcases hconv : convElems m.core x y [th.sreg a % 2 ^ elemBits x.fmt] with ⟨c, es, f⟩
    refine ⟨c, es.headD 0, fun same => ?_, fun hs => h.goes_on (body := cvts d a b) rfl ?_ hs⟩
    · rw [convElems_same m.core same] at hconv; exact (congrArg Prod.fst hconv).symm
    · rw [cvts_of_pair (convPair_of_scalars hx hy sx sy pair) hconv, bad]; rfl

end Sys2Proof.Machine

/-! Loads and stores of the rasp cores: scratch, window and pool, and the statements about them. -/

namespace Sys2Proof.Machine
open Sys2Proof

/-! ### Addresses (R379) -/

/-- An effective address is the sum of the register and the extended offset, modulo 2^64. -/
theorem effAddr_eq (th : Thread) (a imm : Nat) : effAddr (th.sreg a) (immS imm) = th.addr a imm := by
  have offset : immS imm = (signed16 imm).toInt := by
    rw [immS_eq_toInt, signed16, BitVec.toInt_signExtend_of_le (v := 64) (by decide)]
  rw [effAddr, Thread.addr, BitVec.toNat_add, ← th.sreg_eq a, offset, BitVec.toInt_eq_toNat_cond]
  split <;> omega

theorem spaceTrap_of_inside {addr len limit align : Nat} (inside : addr + len ≤ limit) (aligned : addr % align = 0) :
    spaceTrap addr len limit align = none := by
  simp only [spaceTrap, Nat.not_lt.mpr inside, aligned, ne_eq, not_true_eq_false, if_false]

theorem scratchTrap_of_inside {addr len align : Nat} (inside : addr + len ≤ 65536) (aligned : addr % align = 0) :
    scratchTrap addr len align = none := spaceTrap_of_inside inside aligned

theorem winTrap_of_inside {c : Core} {th : Thread} {addr len align : Nat} {write : Bool} (above : write = true → 0x8000 ≤ addr)
    (inside : addr + len ≤ winEnd c th) (aligned : addr % align = 0) : winTrap c th addr len align write = none := by
  have writable : (write && decide (addr < 0x8000)) = false := by
    cases write with
    | false => rfl
    | true => simpa using above rfl
  rw [winTrap, writable]
  exact spaceTrap_of_inside inside aligned

/-! ### Scratch (R379, R367) -/

theorem exec_loadOps : ∀ e ∈ loadOps, ∀ (s : State) (t d a imm : Nat),
    exec (e.1 t d a imm) s = runServed (issue t (.fI e.2.1 d a imm) (fun m th => loadScratch e.2.2 d a imm m th t)) s := by
  simp only [loadOps, List.forall_mem_cons]
  exact ⟨fun _ _ _ _ _ => rfl, fun _ _ _ _ _ => rfl, fun _ _ _ _ _ => rfl, fun _ _ _ _ _ => rfl, by simp⟩

theorem exec_storeOps : ∀ e ∈ storeOps, ∀ (s : State) (t d a imm : Nat),
    exec (e.1 t d a imm) s = runServed (issue t (.fI e.2.1 d a imm) (fun m th => storeScratch e.2.2 d a imm m th t)) s := by
  simp only [storeOps, List.forall_mem_cons]
  exact ⟨fun _ _ _ _ _ => rfl, fun _ _ _ _ _ => rfl, fun _ _ _ _ _ => rfl, fun _ _ _ _ _ => rfl, by simp⟩

section
variable {th : Thread} {m : M} {t : Nat}

theorem loadScratch_of_inside {n d a imm : Nat} {c : Core} {b : List Byte} {bad : List Bool} (clean : th.sbad a = false)
    (inside : th.addr a imm + n ≤ 65536) (aligned : th.addr a imm % n = 0) (load : scratchLoad m.core t (th.addr a imm) n = (c, b, bad)) :
    loadScratch n d a imm m th t = ({ m with core := c }, .next (th.setS d (leNat b) (bad.any id))) := by
  simp only [loadScratch, effAddr_eq, clean, scratchTrap_of_inside inside aligned, load, Bool.false_eq_true, if_false]

theorem storeScratch_of_inside {n d a imm : Nat} (clean : th.sbad a = false)
    (inside : th.addr a imm + n ≤ 65536) (aligned : th.addr a imm % n = 0) :
    storeScratch n d a imm m th t =
      (m.on (fun c => scratchStore c t (th.addr a imm) (natLe n (th.sreg d)) (fun _ => th.sbad d)), .next th) := by
  simp only [storeScratch, effAddr_eq, clean, scratchTrap_of_inside inside aligned, Bool.false_eq_true, if_false]

variable {vd sr : Nat} (clean : th.sbad sr = false)
include clean

theorem vld_of_inside {mk w : Nat} {c : Core} {b : List Byte} {bad : List Bool} (inside : th.sreg sr + 64 ≤ 65536)
    (aligned : th.sreg sr % 64 = 0) (load : scratchLoad m.core t (th.sreg sr) 64 = (c, b, bad)) :
    vld vd sr mk w m th t = ({ m with core := c }, .next (th.loadV vd mk w b (bad.getD 0 false) (bad.getD 32 false))) := by
  simp only [vld, clean, scratchTrap_of_inside inside aligned, load, Bool.false_eq_true, if_false]

theorem vst_of_inside (inside : th.sreg sr + 64 ≤ 65536) (aligned : th.sreg sr % 64 = 0) :
    vst vd sr m th t = (m.on (fun c => scratchStore c t (th.sreg sr) (natLe 64 (th.vreg vd).toNat) (th.vbad vd)), .next th) := by
  simp only [vst, clean, scratchTrap_of_inside inside aligned, Bool.false_eq_true, if_false, vbytes]

end

theorem vgath_of_addrs {vd va sr mk t : Nat} {m : M} {th : Thread} {as : List (Nat × Nat)} (addrs : laneAddrs th va sr mk = .inr as)
    {r : Core × List Nat × Bool × Bool}
    (hr : r = as.foldl (fun r x =>
      let l := scratchLoad r.1 t x.2 4
      (l.1, listMod r.2.1 x.1 (fun _ => leNat l.2.1), r.2.2.1 || (x.1 < 8 && l.2.2.any id), r.2.2.2 || (8 ≤ x.1 && l.2.2.any id)))
      (m.core, th.lanes 0 vd, false, false)) :
    vgath vd va sr mk m th t =
      ({ m with core := r.1 }, .next (th.putV vd (th.mreg mk) 0 (ofLanes 32 r.2.1) r.2.2.1 r.2.2.2)) := by
  subst hr
  simp only [vgath, addrs]
  rfl

/-- Settles O5: an address inside scratch and aligned meets no trap, so the access is made. -/
theorem scratchLoadsAndStores : Obligations.ScratchLoadsAndStores := by
  unfold Obligations.ScratchLoadsAndStores
  refine ⟨?load, ?store, ?vload, ?vstore, ?gather, ?scatter⟩
  case load =>
    intro e he s t d a imm th p m c b bad h clean inside aligned load hs
    exact h.goes_on (exec_loadOps e he s t d a imm) (loadScratch_of_inside clean inside aligned load) hs
  case store =>
    intro e he s t d a imm th p m h clean inside aligned hs
    exact h.goes_on (exec_storeOps e he s t d a imm) (storeScratch_of_inside clean inside aligned) hs
  case vload =>
    intro s t vd sr mk w th p m c b bad h clean inside aligned load hs
    exact h.goes_on (body := fun m th => vld vd sr mk w m th t) rfl (vld_of_inside clean inside aligned load) hs
  case vstore =>
    intro s t vd sr th p m h clean inside aligned hs
    exact h.goes_on (body := fun m th => vst vd sr m th t) rfl (vst_of_inside clean inside aligned) hs
  case gather =>
    rintro s t vd va sr mk th p m _ as r h addrs hr rfl hs
    exact h.goes_on (body := fun m th => vgath vd va sr mk m th t) rfl (vgath_of_addrs addrs hr) hs
  case scatter =>
    rintro s t vd va sr mk th p m _ as h addrs rfl hs
    refine h.goes_on (body := fun m th => vscat vd va sr mk m th t) rfl ?_ hs
    simp only [vscat, addrs]

/-! ### The window (R381) -/

section
variable {th : Thread} {m : M}

theorem sld64_of_inside {d a imm : Nat} {c : Core} {b : List Byte} {bad : List Bool} (clean : th.sbad a = false)
    (inside : th.addr a imm + 8 ≤ winEnd m.core th) (aligned : th.addr a imm % 8 = 0)
    (load : winLoad m.core th.ctx th.num (th.addr a imm) 8 = (c, b, bad)) :
    sld64 d a imm m th = ({ m with core := c }, .next (th.setS d (leNat b) (bad.any id))) := by
  simp only [sld64, effAddr_eq, clean, winTrap_of_inside (write := false) Bool.noConfusion inside aligned, load, Bool.false_eq_true,
    if_false]

theorem sst64_of_inside {d a imm : Nat} (clean : th.sbad a = false) (above : 0x8000 ≤ th.addr a imm)
    (inside : th.addr a imm + 8 ≤ winEnd m.core th) (aligned : th.addr a imm % 8 = 0) :
    sst64 d a imm m th =
      (m.on (fun c => winStore c th.ctx th.num (th.addr a imm) (natLe 8 (th.sreg d)) (fun _ => th.sbad d)), .next th) := by
  simp only [sst64, effAddr_eq, clean, winTrap_of_inside (fun _ => above) inside aligned, Bool.false_eq_true, if_false]

theorem vsld_of_inside {vd sr mk w : Nat} {c : Core} {b : List Byte} {bad : List Bool} (clean : th.sbad sr = false)
    (inside : th.sreg sr + 64 ≤ winEnd m.core th) (aligned : th.sreg sr % 64 = 0)
    (load : winLoad m.core th.ctx th.num (th.sreg sr) 64 = (c, b, bad)) :
    vsld vd sr mk w m th = ({ m with core := c }, .next (th.loadV vd mk w b (bad.getD 0 false) (bad.getD 32 false))) := by
  simp only [vsld, clean, winTrap_of_inside (write := false) Bool.noConfusion inside aligned, load, Bool.false_eq_true, if_false]

theorem vsst_of_inside {vd sr : Nat} (clean : th.sbad sr = false) (above : 0x8000 ≤ th.sreg sr)
    (inside : th.sreg sr + 64 ≤ winEnd m.core th) (aligned : th.sreg sr % 64 = 0) :
    vsst vd sr m th = (m.on (fun c => winStore c th.ctx th.num (th.sreg sr) (natLe 64 (th.vreg vd).toNat) (th.vbad vd)), .next th) := by
  simp only [vsst, clean, winTrap_of_inside (fun _ => above) inside aligned, Bool.false_eq_true, if_false, vbytes]

variable {d a b : Nat} {c : Core} {old : List Byte} (ha : th.sbad a = false) (hb : th.sbad b = false) (above : 0x8000 ≤ th.sreg a)
  (inside : th.sreg a + 8 ≤ winEnd m.core th) (aligned : th.sreg a % 8 = 0)
  (load : winLoad m.core th.ctx th.num (th.sreg a) 8 = (c, old, List.replicate 8 false))
include ha hb above inside aligned load

theorem samo_add : samo false d a b m th =
    ({ m with core := winStore c th.ctx th.num (th.sreg a) (natLe 8 (leNat old + th.sreg b)) (fun _ => false) },
      .next (th.setS d (leNat old) false)) := by
  have clean : (List.replicate 8 false).any id = false := by decide
  simp only [samo, ha, hb, winTrap_of_inside (fun _ => above) inside aligned, load, clean, Bool.not_false, Bool.true_or, Bool.false_and,
    Bool.or_self, Bool.and_self, Bool.false_eq_true, if_false, if_true]

/-- A compare and swap writes when the old word is what it expects. -/
theorem samo_cas (hd : th.sbad d = false) : samo true d a b m th =
    ({ m with core := if leNat old = th.sreg d then winStore c th.ctx th.num (th.sreg a) (natLe 8 (th.sreg b)) (fun _ => false) else c },
      .next (th.setS d (leNat old) false)) := by
  have clean : (List.replicate 8 false).any id = false := by decide
  simp only [samo, ha, hb, hd, winTrap_of_inside (fun _ => above) inside aligned, load, clean, Bool.not_true, Bool.not_false,
    Bool.false_or, Bool.or_false, Bool.and_false, Bool.and_true, beq_iff_eq, Bool.false_eq_true, if_false, if_true]

end

/-- Settles O6: an access inside the window and aligned meets no trap; SAMO stores in the same step as it loads. -/
theorem windowAccesses : Obligations.WindowAccesses := by
  unfold Obligations.WindowAccesses
  refine ⟨?load, ?store, ?vload, ?vstore, ?add, ?cas⟩
  case load =>
    intro s t d a imm th p m c b bad h clean inside aligned load hs
    exact h.goes_on (body := sld64 d a imm) rfl (sld64_of_inside clean inside aligned load) hs
  case store =>
    rintro s t d a imm th p m _ h clean above inside aligned rfl hs
    exact h.goes_on (body := sst64 d a imm) rfl (sst64_of_inside clean above inside aligned) hs
  case vload =>
    intro s t vd sr mk w th p m c b bad h clean inside aligned load hs
    exact h.goes_on (body := vsld vd sr mk w) rfl (vsld_of_inside clean inside aligned load) hs
  case vstore =>
    rintro s t vd sr th p m _ h clean above inside aligned rfl hs
    exact h.goes_on (body := vsst vd sr) rfl (vsst_of_inside clean above inside aligned) hs
  case add =>
    intro s t d a b th p m c old h ha hb above inside aligned load hs
    exact h.goes_on (body := samo false d a b) rfl (samo_add ha hb above inside aligned load) hs
  case cas =>
    rintro s t d a b th p m _ c old h ha hb hd above inside aligned load rfl hs
    exact h.goes_on (body := samo true d a b) rfl (samo_cas ha hb above inside aligned load hd) hs

/-! ### The pool (R382, R383) -/

/-- What notes or asks for a pool load that has been checked. -/
def loadAsked (m : M) (t : Nat) (th : Thread) (ptr : W64) (len : Nat) : M :=
  if servedHere m.core (ptrChip ptr) then m.on (fun c => noteTranslated c (ptrExtent ptr) (ptrOffset ptr) len)
  else (thrRead m t th ptr len).1

/-- A pool load that its check admits waits for its data. -/
theorem poolLoad_of_posted {wide : Bool} {dest x t len : Nat} {m m' : M} {th : Thread} (hlen : len = if wide then 64 else 8)
    (post : poolPost m th (w64 x) len len true false = (m', .ok)) :
    poolLoad wide dest x false m th t = (loadAsked m' t th (w64 x) len, .wait (.load wide dest (w64 x))) := by
  subst hlen
  simp only [poolLoad, post, Bool.false_eq_true, if_false]
  rfl

/-- The store that a pool write makes once its words are ready. -/
def storeMade (m : M) (th : Thread) (ptr : W64) (b : List Byte) (marks : Nat → Bool) (here : Bool) : M :=
  if here then (thrStore m th ptr b marks).on (·.count ECC_POISON_WRITTEN (poisonedParts (ptrOffset ptr) b marks)) else m

theorem poolStore_of_ready {x t : Nat} {b : List Byte} {marks : Nat → Bool} {m m' : M} {th : Thread} {here : Bool}
    (aligned : x % b.length = 0) (ready : thrWriteReady m t th (w64 x) b marks (marks 0 || marks 1) = (m', .ok here)) :
    poolStore x b false marks m th t = (storeMade m' th (w64 x) b marks here, .next th) := by
  simp only [poolStore, aligned, ready, ne_eq, not_true_eq_false, Bool.false_eq_true, if_false]
  rfl

@[simp] theorem thr?_seenBy (m : M) (th : Thread) (t : Nat) : thr? (seenBy m th).core t = thr? m.core t := by
  unfold seenBy
  cases th.books <;> rfl

/-- The data of a pool load comes, and the thread goes on with its register loaded. -/
theorem loadReturn_of_read {m m' : M} {t dest len : Nat} {th th' : Thread} {wide : Bool} {ptr : W64} {b : List Byte} {ps : List Bool}
    (there : thr? m.core t = some th) (waits : th.wait = .load wide dest ptr) (hlen : len = if wide then 64 else 8)
    (read : thrRead (seenBy m th) t th ptr len = (m', .ok (b, ps)))
    (loaded : th' = if wide then th.loadV (dest % 16) (dest / 16 % 4) (dest / 64) b (ps.getD 0 false) (ps.getD 1 false)
      else th.setS dest (leNat b) (ps.any id)) :
    loadReturn t m = leftBy m th (advance m' t th') := by
  subst hlen loaded
  rw [loadReturn, asThread_eq _ there]
  simp only [thr?_seenBy, there, waits, read]
  rfl

/-- Settles O7: a posted load waits, a store whose words are ready is made at once, and a read that succeeds ends the wait. -/
theorem poolAccesses : Obligations.PoolAccesses := by
  unfold Obligations.PoolAccesses
  refine ⟨?load, ?vload, ?returned, ?vreturned, ?store, ?vstore⟩
  case load =>
    rintro s t d a imm th p m m' _ h clean post rfl hs
    refine h.waits (body := fun m th => pld64 d a imm m th t) rfl ?_ hs
    rw [pld64, effAddr_eq, clean]
    exact poolLoad_of_posted rfl post
  case vload =>
    rintro s t vd sr mk w th p m m' _ h clean post rfl hs
    refine h.waits (body := fun m th => vpld vd sr mk w m th t) rfl ?_ hs
    rw [vpld, clean]
    exact poolLoad_of_posted rfl post
  case returned =>
    intro s t th dest ptr m b ps serves there waits read
    exact does_of_served rfl serves (loadReturn_of_read there waits rfl read rfl)
  case vreturned =>
    intro s t th dest ptr m b ps serves there waits read
    exact does_of_served rfl serves (loadReturn_of_read there waits rfl read rfl)
  case store =>
    rintro s t d a imm th p m m' _ here h clean aligned ready rfl hs
    refine h.goes_on (body := fun m th => pst64 d a imm m th t) rfl ?_ hs
    rw [pst64, effAddr_eq, clean]
    exact poolStore_of_ready (by rwa [natLe_length]) (by rwa [Bool.or_self])
  case vstore =>
    rintro s t vd sr th p m m' _ here h clean aligned ready rfl hs
    refine h.goes_on (body := fun m th => vpst vd sr m th t) rfl ?_ hs
    rw [vpst, clean]
    exact poolStore_of_ready (by rwa [vbytes, natLe_length]) ready

end Sys2Proof.Machine

/-! Unit, engine, sync and system instructions of the rasp cores, the ends of commands, and the statements about them. -/

namespace Sys2Proof.Machine
open Sys2Proof

/-! ### Unit commands (R384) -/

/-- A unit command's driver posts the blocks of its CMD. -/
theorem exec_unitCmd {cmd : Nat → Nat → Nat → Instr} {k : Nat} (h : UnitCmdOf cmd k) : ∃ is : Nat → Bool, is k = true ∧
    ∀ (s : State) (t d a : Nat),
      exec (cmd t d a) s = runServed (issuePost t (.fT 0x28 d a 0 0) (fun m th => upost is d a m th t)) s := by
  simp only [UnitCmdOf, List.mem_cons, Prod.mk.injEq, List.not_mem_nil, or_false] at h
  rcases h with ⟨rfl, rfl⟩ | ⟨rfl, rfl⟩ | ⟨rfl, rfl⟩ | ⟨rfl, rfl⟩ | ⟨rfl, rfl⟩ | ⟨rfl, rfl⟩ | ⟨rfl, rfl⟩ | ⟨rfl, rfl⟩ | ⟨rfl, rfl⟩ |
    ⟨rfl, rfl⟩ <;> exact ⟨_, rfl, fun _ _ _ _ => rfl⟩

/-- The tag that a command takes heads the list of the free ones and those whose results wait. -/
theorem Thread.tags_of_nextTag {th : Thread} {tag : Nat} (h : th.nextTag = some tag) : ∃ rest,
    (List.range 8).filter (fun k => !th.units.any (·.tag == k)) ++ (th.units.filter (·.result.isSome)).map (·.tag) = tag :: rest :=
  List.head?_eq_some_iff.mp h

/-- A block that passes its checks is posted under the next tag. -/
theorem upost_of_ok {is : Nat → Bool} {d a t tag : Nat} {th : Thread} {m m' m'' : M} {c : Core} {blk : List Byte}
    (clean : th.sbad a = false) (inside : th.sreg a + 32 ≤ 65536) (aligned : th.sreg a % 32 = 0)
    (read : scratchRead m.core t (th.sreg a) 32 = (c, blk, List.replicate 32 false)) (kind : is (ublk blk).cmd = true)
    (next : th.nextTag = some tag) (post : unitPost { m with core := c } t th (ublk blk) (th.fmt.toNat % 2 ^ 32) = (m', .ok))
    (ordered : m'' = m'.on (fun c => { c with rasp := { c.rasp with nextOrder := c.rasp.nextOrder + 1 } }))
    (here : (ublk blk).cmd = 0 → servedHere m''.core (ptrChip (w64 (ublk blk).f0)) = true) :
    upost is d a m th t = (m'', some (.next { th.setS d tag false with units := th.units.filter (·.tag != tag) ++
      [⟨tag, m'.core.rasp.nextOrder, blk, th.fmt.toNat % 2 ^ 32, none⟩] })) := by
  obtain ⟨rest, tags⟩ := th.tags_of_nextTag next
  have unpoisoned : (List.replicate 32 false).any id = false := by decide
  have fetched : ((ublk blk).cmd == 0 && !servedHere m''.core (ptrChip (w64 (ublk blk).f0))) = false := by
    by_cases get : (ublk blk).cmd = 0
    · simp [here get]
    · simp [get]
  subst ordered
  simp only [upost, clean, scratchTrap_of_inside inside aligned, read, unpoisoned, kind, tags, post, Bool.not_true,
    Bool.false_eq_true, if_false]
  rw [fetched]
  rfl

theorem uwait_of_ended {d a : Nat} {m : M} {th : Thread} {u : UnitCmd} {v : W64} {bad : Bool} (clean : th.sbad a = false)
    (found : th.units.find? (fun u => u.tag == th.sreg a) = some u) (ended : u.result = some (v, bad)) :
    uwait d a m th = (m, .next { th.setS d v.toNat bad with units := th.units.filter (·.tag != u.tag) }) := by
  simp only [uwait, pureOut, clean, found, ended, Bool.false_eq_true, if_false]

/-- A command that can end leaves its result under its tag. -/
theorem unitEnd_of_run {m m' : M} {t tag v : Nat} {th : Thread} {u : UnitCmd} {bad : Bool} (there : thr? m.core t = some th)
    (found : th.units.find? (fun u => u.tag == tag && u.result.isNone) = some u)
    (ran : unitRun (seenBy m th) t th u = (m', .ok (v, bad))) :
    unitEnd t tag m = leftBy m th (m'.on (fun c => modThr c t (fun th => wakeThread { th with
      units := th.units.map (fun x => if x.tag = tag then { x with result := some (w64 v, bad) } else x),
      background := th.background.filter (fun f => f.ptr != w64 (ublk u.block).f0) }))) := by
  rw [unitEnd, asThread_eq _ there]
  simp only [thr?_seenBy, there, found, ran]

/-- Settles O8: the checks of UPOST passed leave the posting, and the end of a command its result. -/
theorem unitCommands : Obligations.UnitCommands := by
  unfold Obligations.UnitCommands
  refine ⟨?post, ?wait, ?ends⟩
  case post =>
    intro cmd k hk s t d a tag th p m m' m'' c blk h clean inside aligned read kind next post ordered here hs
    obtain ⟨is, hit, step⟩ := exec_unitCmd hk
    exact h.posts (step s t d a)
      (upost_of_ok clean inside aligned read (kind ▸ hit) next post ordered (fun get => here (kind.symm.trans get))) hs
  case wait =>
    intro s t d a th p m u v bad h clean found ended
    exact h.goes_on_here (body := uwait d a) rfl (uwait_of_ended clean found ended)
  case ends =>
    intro s t tag th u m v bad serves there found ran
    exact does_of_served rfl serves (unitEnd_of_run there found ran)

/-! ### Engine commands (R389) -/

/-- An engine command's driver posts the blocks of its CMD. -/
theorem exec_engineCmd {cmd : Nat → Nat → Nat → Instr} {k : Nat} (h : EngineCmdOf cmd k) : ∃ is : Nat → Bool, is k = true ∧
    ∀ (s : State) (t d a : Nat),
      exec (cmd t d a) s = runServed (issuePost t (.fT 0x2C d a 0 1) (fun m th => cepost is d a m th t)) s := by
  simp only [EngineCmdOf, List.mem_cons, Prod.mk.injEq, List.not_mem_nil, or_false] at h
  rcases h with ⟨rfl, rfl⟩ | ⟨rfl, rfl⟩ | ⟨rfl, rfl⟩ | ⟨rfl, rfl⟩ <;> exact ⟨_, rfl, fun _ _ _ _ => rfl⟩

/-- The engines that CEACQ chooses among. -/
def freeEngines (c : Core) (th : Thread) : List Nat := (enginesOf c (ctxPart c th.ctx)).filter (engineFree c)

/-- CEACQ takes one of the free engines of the partition. -/
theorem ceacq_of_free {d : Nat} {m : M} {th : Thread} (without : th.engine = none) (free : freeEngines m.core th ≠ []) :
    ∃ n ∈ freeEngines m.core th, ∃ c, c = (m.core.choose (freeEngines m.core th).length).1 ∧
      ceacq d m th = ({ m with core := holdEngine (if th.lost then c.perf (stackReg CE_STEPS_REDONE n) else c) n th.ctx th.num },
        .next { th.setS d n false with engine := some n, lost := false, cmds := [] }) := by
  obtain ⟨e, es, engines⟩ := List.exists_cons_of_ne_nil free
  rw [engines]
  refine ⟨(e :: es).getD (m.core.choose (es.length + 1)).2 e, ?mem, _, rfl, ?takes⟩
  case mem =>
    rw [List.getD_eq_getElem?_getD]
    cases at_ : (e :: es)[(m.core.choose (es.length + 1)).2]? with
    | none => exact List.mem_cons_self
    | some n => exact List.mem_of_getElem? at_
  case takes =>
    rw [freeEngines] at engines
    simp only [ceacq, without, engines, Option.isSome_none, Bool.false_eq_true, if_false, List.length_cons]

section
variable {is : Nat → Bool} {d a t : Nat} {th : Thread} {m : M} {c : Core} {blk : List Byte}
  (clean : th.sbad a = false) (inside : th.sreg a + 32 ≤ 65536) (aligned : th.sreg a % 32 = 0)
  (read : scratchRead m.core t (th.sreg a) 32 = (c, blk, List.replicate 32 false)) (kind : is (eblk blk).cmd = true)
include clean inside aligned read kind

/-- An engine takes a command that passes its checks. -/
theorem cepost_of_ok {n : Nat} (holds : th.engine = some n) (post : engPost c th (eblk blk) = none) :
    cepost is d a m th t = ({ m with core := modEng c n (fun e => { e with busy := e.busy ++ [(th.nextCmd, blk)] }) },
      some (.next { th.setS d th.nextCmd false with nextCmd := th.nextCmd + 1, cmds := th.cmds ++ [th.nextCmd] })) := by
  have unpoisoned : (List.replicate 32 false).any id = false := by decide
  simp only [cepost, clean, scratchTrap_of_inside inside aligned, read, unpoisoned, kind, holds, post, Bool.not_true,
    Bool.false_eq_true, if_false]
  rfl

/-- A thread that lost its engine only takes an identifier. -/
theorem cepost_of_lost (without : th.engine = none) (lost : th.lost = true) :
    cepost is d a m th t =
      ({ m with core := c }, some (.next { th.setS d th.nextCmd false with nextCmd := th.nextCmd + 1 })) := by
  have unpoisoned : (List.replicate 32 false).any id = false := by decide
  simp only [cepost, clean, scratchTrap_of_inside inside aligned, read, unpoisoned, kind, without, lost, Bool.not_true,
    Bool.false_eq_true, if_false, if_true]

end

@[simp] theorem eng_seenBy (m : M) (th : Thread) (n : Nat) : eng (seenBy m th).core n = eng m.core n := by
  unfold seenBy
  cases th.books <;> rfl

/-- A command that the interlock admits takes effect and leaves its engine. -/
theorem engineEnd_of_run {m m' : M} {t id n : Nat} {th : Thread} {blk : List Byte} (there : thr? m.core t = some th)
    (holds : th.engine = some n) (found : (eng m.core n).busy.find? (·.1 == id) = some (id, blk))
    (may : engMay (((eng m.core n).busy.takeWhile (·.1 != id)).map (fun x => eblk x.2)) (eblk blk) = true)
    (ran : engCmd (seenBy m th) t n th (eblk blk) = (m', .ok none)) (runs : stays m' t) :
    engineEnd t id m = leftBy m th (m'.on (fun c => modThr (modEng c n (fun e => { e with busy := e.busy.filter (·.1 != id) })) t
      (fun th => wakeThread { th with cmds := th.cmds.filter (· != id), background := th.background.filter (·.write) }))) := by
  have still : (thr? m'.core t).isSome = true := runs
  rw [engineEnd, asThread_eq _ there]
  simp only [thr?_seenBy, eng_seenBy, there, holds, found, may, ran, still, M.on, Bool.not_true, Bool.false_eq_true, if_false, if_true]

/-- Settles O9: each command's outcome in the case that its hypotheses choose. -/
theorem engineCommands : Obligations.EngineCommands := by
  unfold Obligations.EngineCommands
  refine ⟨?acquire, ?post, ?postLost, ?wait, ?release, ?ends⟩
  case acquire =>
    intro s t d th p m h without free
    obtain ⟨n, hn, c, hc, takes⟩ := ceacq_of_free (d := d) without free
    exact ⟨n, hn, c, hc, fun c' hc' hs => h.goes_on (body := ceacq d) rfl (hc' ▸ takes) hs⟩
  case post =>
    intro cmd k hk s t d a n th p m c blk h clean inside aligned read kind holds post hs
    obtain ⟨is, hit, step⟩ := exec_engineCmd hk
    exact h.posts (step s t d a) (cepost_of_ok clean inside aligned read (kind ▸ hit) holds post) hs
  case postLost =>
    intro cmd k hk s t d a th p m c blk h clean inside aligned read kind without lost hs
    obtain ⟨is, hit, step⟩ := exec_engineCmd hk
    exact h.posts (step s t d a) (cepost_of_lost clean inside aligned read (kind ▸ hit) without lost) hs
  case wait =>
    intro s t d a th p m h clean given
    have known : ¬ th.nextCmd ≤ th.sreg a := Nat.not_le.mpr given
    refine ⟨fun lost => h.goes_on_here (body := cewait d a) rfl ?_, fun kept ended => h.goes_on_here (body := cewait d a) rfl ?_,
      fun kept under => h.waits (body := cewait d a) rfl ?_ h.stays⟩
    · simp only [cewait, pureOut, clean, known, lost, Bool.false_eq_true, if_false, if_true]
    · simp only [cewait, pureOut, clean, known, kept, ended, Bool.false_eq_true, if_false]
    · simp only [cewait, pureOut, clean, known, kept, under, Bool.false_eq_true, if_false, if_true]
  case release =>
    intro s t th p m h hs
    exact h.goes_on (body := cerel) rfl rfl hs
  case ends =>
    intro s t id n th blk m serves there holds found may ran runs
    exact does_of_served rfl serves (engineEnd_of_run there holds found may ran runs)

/-! ### Sync objects (R390) -/

section
variable {a : Nat} {m : M} {th : Thread} (admitted : syncTrap m.core th a = none)
include admitted

theorem sinc_of_admitted : sinc a m th =
    if allEnded th then (m.on (fun c => syncInc c (th.sreg a) (ctxPart c th.ctx)), .next th) else (m, .wait .fence) := by
  simp only [sinc, admitted]

theorem swait_of_met {b t : Nat} {c : Core} (clean : th.sbad b = false)
    (met : syncWait m.core (th.sreg a) (th.sreg b) (.thread t) = (c, true)) :
    swait a b m th t = ({ m with core := c }, .next th) := by
  simp only [swait, admitted, clean, met, Bool.false_eq_true, if_false]

theorem swait_of_unmet {b t : Nat} {c : Core} (clean : th.sbad b = false)
    (unmet : syncWait m.core (th.sreg a) (th.sreg b) (.thread t) = (c, false)) :
    swait a b m th t = ({ m with core := c }, .park (.sync (th.sreg a) (th.sreg b))) := by
  simp only [swait, admitted, clean, unmet, Bool.false_eq_true, if_false]

variable {o : SyncObj} (object : sync? m.core (th.sreg a) = some o)
include object

theorem sread_of_admitted (d : Nat) : sread d a m th = (m, .next (th.setS d o.count false)) := by
  simp only [sread, admitted, syncCount, object, Option.map_some, Option.getD_some]

theorem stest_of_admitted {b : Nat} (d : Nat) (clean : th.sbad b = false) :
    stest d a b m th = (m, .next (th.setS d (if th.sreg b ≤ o.count then 1 else 0) false)) := by
  simp only [stest, admitted, clean, syncCount, object, Option.map_some, Option.getD_some, Bool.false_eq_true, if_false, b2n,
    decide_eq_true_eq]

end

/-- Settles O10: an object that its check admits is acted on; the fence and the count decide whether the thread goes on. -/
theorem syncInstructions : Obligations.SyncInstructions := by
  unfold Obligations.SyncInstructions
  refine ⟨?inc, ?incWaits, ?read, ?wait, ?test, ?fence⟩
  case inc =>
    intro s t a th p m h admitted ended hs
    exact h.goes_on (body := sinc a) rfl ((sinc_of_admitted admitted).trans (if_pos ended)) hs
  case incWaits =>
    intro s t a th p m h admitted under
    exact h.waits (body := sinc a) rfl ((sinc_of_admitted admitted).trans (if_neg (Bool.eq_false_iff.mp under))) h.stays
  case read =>
    intro s t d a th p m o h admitted object
    exact h.goes_on_here (body := sread d a) rfl (sread_of_admitted admitted object d)
  case wait =>
    intro s t a b th p m c h admitted clean
    refine ⟨fun met hs => h.goes_on (body := fun m th => swait a b m th t) rfl (swait_of_met admitted clean met) hs,
      fun unmet hs => ?_⟩
    have parked := h.parks (cmd := .swait t a b) (body := fun m th => swait a b m th t) rfl (swait_of_unmet admitted clean unmet) hs
    exact parked
  case test =>
    intro s t d a b th p m o h admitted clean object
    exact h.goes_on_here (body := stest d a b) rfl (stest_of_admitted admitted object d clean)
  case fence =>
    intro s t th p m h
    refine ⟨fun ended => h.goes_on_here (body := pfence) rfl ?_, fun under => h.waits (body := pfence) rfl ?_ h.stays⟩
    · simp only [pfence, pureOut, ended, if_true]
    · simp only [pfence, pureOut, under, Bool.false_eq_true, if_false]

/-! ### System instructions (R394, R396, R405, Table 10-3) -/

/-- STEP of a program that is no rule, once its commands have ended: the engine goes, and what is due next is chosen. -/
theorem stepIns_of_prog {spent : Bool} {m : M} {th : Thread} {t : Nat} {q : ProgRun}
    (prog : (work? m.core th.ctx th.num).bind (·.prog) = some q) (plain : q.isRule = false) (ended : allEnded th = true) :
    stepIns spent m th t = (
      let m' := m.on (fun c => releaseEngine c th)
      if q.stopping then (m'.on (fun c => progEndCheck (endInstance (countIssue c t) t th 0) th.ctx th.num), .gone)
      else if spent || !domainServes m'.core (20 + t / 64) then (m'.on (fun c => yieldInstance (countIssue c t) t th q.saveBytes), .gone)
      else (m', .next { th with engine := none, cmds := [], books := none })) := by
  simp only [stepIns, prog, plain, ended, Bool.not_true, Bool.false_eq_true, if_false]
  rfl

/-- What EXIT with `status` leaves of its thread: it has ended with `n` items, and its work has failed unless the status is DONE. -/
def exited (c : Core) (t : Nat) (th : Thread) (n : Nat) (status : Status) : Core :=
  if status = .done then endInstance (releaseEngine (countIssue c t) th) t th n
  else noteFail (endInstance (releaseEngine (countIssue c t) th) t th n) th.ctx th.num status 0

section
variable {a b t : Nat} {m : M} {th : Thread} (ha : th.sbad a = false) (hb : th.sbad b = false) (ended : allEnded th = true)
include ha hb ended

theorem exitIns_of_prog {q : ProgRun} (prog : (work? m.core th.ctx th.num).bind (·.prog) = some q) (plain : q.isRule = false) :
    exitIns a b m th t = (m.on (fun c => progEndCheck
      (exited c t th (th.sreg b) (exitStatus (th.sreg a) th.poisonOut)) th.ctx th.num), .gone) := by
  simp only [exitIns, ha, hb, ended, prog, plain, Option.map_some, Option.getD_some, Bool.or_self, Bool.not_true, Bool.false_and,
    Bool.false_eq_true, if_false]
  rfl

variable {w : Work} {q : ProgRun} (work : work? m.core th.ctx th.num = some w) (prog : w.prog = some q) (rule : q.isRule = true)
include work prog rule

theorem exitIns_of_rule_failed (failed : exitStatus (th.sreg a) th.poisonOut ≠ .done) :
    exitIns a b m th t = (m.on (fun c => ruleExit
      (exited c t th (th.sreg b) (exitStatus (th.sreg a) th.poisonOut)) th.ctx th.num), .gone) := by
  simp only [exitIns, ha, hb, ended, work, prog, rule, Option.bind_some, Option.map_some, Option.getD_some, Bool.or_self,
    Bool.not_true, Bool.true_and, beq_false_of_ne failed, Bool.false_eq_true, if_false, if_true]
  rfl

theorem exitIns_of_rule_done {m' : M} (done : exitStatus (th.sreg a) th.poisonOut = .done) (stored : ruleStores m w = (m', .ok ())) :
    exitIns a b m th t = (m'.on (fun c => ruleExit (exited c t th (th.sreg b) .done) th.ctx th.num), .gone) := by
  simp only [exitIns, ha, hb, ended, work, prog, rule, done, stored, Option.bind_some, Option.map_some, Option.getD_some, Bool.or_self,
    Bool.not_true, Bool.true_and, beq_self_eq_true, Bool.false_eq_true, if_false, if_true]
  rfl

end

/-- GETSR of a register of Table 10-3 but CYCLE. -/
theorem getsr_of_special {d b t v : Nat} {m : M} {th : Thread} {w : Work} {q : ProgRun} (work : work? m.core th.ctx th.num = some w)
    (prog : w.prog = some q) (special : (b, v) ∈ specialRegs m.core t th w q) :
    getsr d b m th t = ({ m with core := m.core.draw.1 }, .next (th.setS d v false)) := by
  simp only [specialRegs, List.mem_cons, Prod.mk.injEq, List.not_mem_nil, or_false] at special
  rcases special with ⟨rfl, rfl⟩ | ⟨rfl, rfl⟩ | ⟨rfl, rfl⟩ | ⟨rfl, rfl⟩ | ⟨rfl, rfl⟩ | ⟨rfl, rfl⟩ | ⟨rfl, rfl⟩ | ⟨rfl, rfl⟩ |
    ⟨rfl, rfl⟩ | ⟨rfl, rfl⟩ | ⟨rfl, rfl⟩ | ⟨rfl, rfl⟩ | ⟨rfl, rfl⟩ | ⟨rfl, rfl⟩ <;>
    simp only [getsr, work, prog, Option.bind_some, Option.map_some, Option.getD_some] <;> rfl

/-- Settles O11: each instruction's outcome in the case that its hypotheses choose. -/
theorem systemInstructions : Obligations.SystemInstructions := by
  unfold Obligations.SystemInstructions
  refine ⟨?step, ?exit, ?exitRule, ?getsr, ?cycle, ?fmt, ?dvprev, ?brk, ?yield, ?nop⟩
  case step =>
    rintro s t spent th p q m _ h prog plain ended rfl
    have outcome := stepIns_of_prog (spent := spent) (t := t) prog plain ended
    refine ⟨fun stop => h.ends (body := fun m th => stepIns spent m th t) rfl (outcome.trans (if_pos stop)),
      fun goes yields => h.ends (body := fun m th => stepIns spent m th t) rfl ?_,
      fun goes left serves hs => h.goes_on (body := fun m th => stepIns spent m th t) rfl ?_ hs⟩
    · exact (outcome.trans (if_neg (Bool.eq_false_iff.mp goes))).trans (if_pos yields)
    · exact (outcome.trans (if_neg (Bool.eq_false_iff.mp goes))).trans (if_neg (by rw [left, serves]; decide))
  case exit =>
    intro s t a b th p q m h prog plain ha hb ended
    have outcome := exitIns_of_prog (t := t) ha hb ended prog plain
    refine ⟨fun done => h.ends (body := fun m th => exitIns a b m th t) rfl ?_,
      fun failed => h.ends (body := fun m th => exitIns a b m th t) rfl ?_⟩
    · simpa only [exited, done, if_true] using outcome
    · simpa only [exited, failed, if_false] using outcome
  case exitRule =>
    intro s t a b th p q w m h work prog rule ha hb ended
    refine ⟨fun done m' stored => h.ends (body := fun m th => exitIns a b m th t) rfl ?_,
      fun failed => h.ends (body := fun m th => exitIns a b m th t) rfl ?_⟩
    · simpa only [exited, if_true] using exitIns_of_rule_done (t := t) ha hb ended work prog rule done stored
    · simpa only [exited, failed, if_false] using exitIns_of_rule_failed (t := t) ha hb ended work prog rule failed
  case getsr =>
    intro s t d b th p q w m v h work prog special
    exact h.goes_on (body := fun m th => getsr d b m th t) rfl (getsr_of_special work prog special) h.stays
  case cycle =>
    intro s t d th p m h
    exact ⟨_, h.goes_on (body := fun m th => getsr d 5 m th t) rfl rfl h.stays⟩
  case fmt =>
    intro s t a th p m h clean
    refine h.goes_on_here (body := setsr 11 a) rfl ?_
    simp only [setsr, pureOut, clean, Bool.false_eq_true, if_false, if_true]
  case dvprev =>
    intro s t a th p m h clean
    refine h.goes_on_here (body := setsr 12 a) rfl ?_
    simp only [setsr, pureOut, clean, Bool.false_eq_true, if_false, Nat.reduceEqDiff]
  case brk =>
    intro s t th p m h
    exact h.traps (body := pureOut (fun _ => .trap (trapOf .break_))) rfl rfl h.stays
  case yield =>
    intro s t th p m h
    exact h.goes_on_here (body := pureOut (fun th => .next th)) rfl rfl
  case nop =>
    intro s t th p m h
    exact h.goes_on_here (body := pureOut (fun th => .next th)) rfl rfl

end Sys2Proof.Machine

/-! Lanes of vector registers (R367, R374, R377): lane lists as bit vectors, the enabled lanes, running sums, and the statement about
vector integer instructions. -/

namespace Sys2Proof.Machine
open Sys2Proof

/-! ### Lanes -/

theorem laneBits_pos (w : Nat) : 0 < laneBits w := by
  unfold laneBits; split <;> decide

theorem laneCount_pos (w : Nat) : 0 < laneCount w := by
  unfold laneCount laneBits; split <;> decide

@[simp] theorem length_lanesOf (bits : Nat) (v : W512) : (lanesOf bits v).length = 512 / bits := by simp [lanesOf]

@[simp] theorem Thread.length_lanes (th : Thread) (w n : Nat) : (th.lanes w n).length = laneCount w := length_lanesOf _ _

/-- The lanes of a register as bit vectors. -/
def laneVecs (bits : Nat) (v : W512) : List (BitVec bits) :=
  (List.range (512 / bits)).map (fun i => BitVec.ofNat bits (v.toNat / 2 ^ (bits * i)))

theorem lanesOf_eq (bits : Nat) (v : W512) : lanesOf bits v = (laneVecs bits v).map BitVec.toNat := by
  simp [lanesOf, laneVecs]

/-- Two operations that agree on bit vectors agree lane by lane. -/
theorem zipWith_lanesOf {α : Type} {bits : Nat} {f : Nat → Nat → α} {g : BitVec bits → BitVec bits → α}
    (h : ∀ x y : BitVec bits, f x.toNat y.toNat = g x y) (u v : W512) :
    ((lanesOf bits u).zip (lanesOf bits v)).map (fun e => f e.1 e.2) =
      (lanesOf bits u).zipWith (fun x y => g (BitVec.ofNat _ x) (BitVec.ofNat _ y)) (lanesOf bits v) := by
  have same : (fun x y : BitVec bits => f x.toNat y.toNat) =
      fun x y => g (BitVec.ofNat bits x.toNat) (BitVec.ofNat bits y.toNat) := by
    funext x y; simp only [h, BitVec.ofNat_toNat, BitVec.setWidth_eq]
  rw [List.zip, List.map_zipWith, lanesOf_eq, lanesOf_eq, List.zipWith_map, List.zipWith_map, same]

/-! ### A value in few lanes -/

theorem foldl_add_eq_sum (l : List Nat) (a : Nat) : l.foldl (· + ·) a = a + l.sum := by
  induction l generalizing a with
  | nil => rfl
  | cons x t ih => rw [List.foldl_cons, ih, List.sum_cons, Nat.add_assoc]

/-- Zeros add nothing, whatever lanes they stand in. -/
theorem sum_zero_lanes (bits k start : Nat) :
    (((List.replicate k 0).zipIdx start).map (fun (x : Nat × Nat) => x.1 % 2 ^ bits * 2 ^ (bits * x.2))).sum = 0 := by
  induction k generalizing start with
  | zero => rfl
  | succ k ih => rw [List.replicate_succ, List.zipIdx_cons, List.map_cons, List.sum_cons, ih, Nat.zero_mod, Nat.zero_mul]

/-- Lanes that are not listed are zeros. -/
theorem ofLanes_append_zeros (bits : Nat) (l : List Nat) (k : Nat) : ofLanes bits (l ++ List.replicate k 0) = ofLanes bits l := by
  simp only [ofLanes, List.zipIdx_append, List.map_append, foldl_add_eq_sum, List.sum_append, sum_zero_lanes, Nat.add_zero]

theorem ofLanes_lane0 (bits : Nat) {n : Nat} (hn : 0 < n) (x : Nat) :
    ofLanes bits ((List.range n).map (fun i => if i = 0 then x else 0)) = ofLanes bits [x] := by
  have split_ : (List.range n).map (fun i => if i = 0 then x else 0) = [x] ++ List.replicate (n - 1) 0 := by
    obtain ⟨k, rfl⟩ := Nat.exists_eq_succ_of_ne_zero (Nat.ne_of_gt hn)
    simp [List.range_succ_eq_map, Function.comp_def, List.map_const']
  rw [split_, ofLanes_append_zeros]

/-! ### Enabled lanes -/

theorem length_enabled_le (mask : Nat) (l : List Nat) : (enabled mask l).length ≤ l.length := by
  rw [enabled, List.length_map]
  exact Nat.le_trans (List.length_filter_le _ _) (Nat.le_of_eq List.length_zipIdx)

theorem enabled_append_one (mask : Nat) (l : List Nat) (x : Nat) :
    enabled mask (l ++ [x]) = enabled mask l ++ if bitOf mask l.length then [x] else [] := by
  cases h : bitOf mask l.length <;> simp [enabled, List.zipIdx_append, h]

/-- The sum of the enabled lanes. -/
def enabledSum (mask : Nat) (l : List Nat) : Nat := (enabled mask l).foldl (· + ·) 0

theorem enabledSum_append_one (mask : Nat) (l : List Nat) (x : Nat) :
    enabledSum mask (l ++ [x]) = enabledSum mask l + if bitOf mask l.length then x else 0 := by
  rw [enabledSum, enabled_append_one, List.foldl_append, ← enabledSum]
  cases bitOf mask l.length <;> simp

/-- One lane of VSCAN: what is summed so far, kept where the lane is not enabled. -/
def scanStep (w mask : Nat) (s : List Nat × Nat) (e : Nat × Nat) : List Nat × Nat :=
  let t := if bitOf mask e.2 then (s.2 + e.1) % 2 ^ laneBits w else s.2
  (s.1 ++ [t], t)

/-- A list is built by putting elements at its end. -/
theorem snoc_induction {α : Type} {P : List α → Prop} (nil : P []) (snoc : ∀ l x, P l → P (l ++ [x])) (l : List α) : P l := by
  have back (r : List α) : P r.reverse := by
    induction r with
    | nil => exact nil
    | cons x t ih => rw [List.reverse_cons]; exact snoc _ _ ih
  exact List.reverse_reverse l ▸ back l.reverse

/-- The run of VSCAN over some lanes: a running sum for each, and the sum of all. -/
theorem scan_run (w mask : Nat) (l : List Nat) : l.zipIdx.foldl (scanStep w mask) ([], 0) =
    ((List.range l.length).map (fun i => enabledSum mask (l.take (i + 1)) % 2 ^ laneBits w), enabledSum mask l % 2 ^ laneBits w) := by
  induction l using snoc_induction with
  | nil => simp [enabledSum, enabled]
  | snoc l x ih =>
    have last : scanStep w mask
        ((List.range l.length).map (fun i => enabledSum mask (l.take (i + 1)) % 2 ^ laneBits w), enabledSum mask l % 2 ^ laneBits w)
        (x, l.length) = ((List.range l.length).map (fun i => enabledSum mask (l.take (i + 1)) % 2 ^ laneBits w) ++
          [enabledSum mask (l ++ [x]) % 2 ^ laneBits w], enabledSum mask (l ++ [x]) % 2 ^ laneBits w) := by
      cases h : bitOf mask l.length <;> simp [scanStep, enabledSum_append_one, h]
    have prefixes : (List.range l.length).map (fun i => enabledSum mask ((l ++ [x]).take (i + 1)) % 2 ^ laneBits w) =
        (List.range l.length).map (fun i => enabledSum mask (l.take (i + 1)) % 2 ^ laneBits w) :=
      List.map_congr_left fun i hi => by rw [List.take_append_of_le_length (List.mem_range.mp hi)]
    rw [List.zipIdx_append, List.foldl_append, ih]
    simp only [List.zipIdx_singleton, Nat.zero_add, List.foldl_cons, List.foldl_nil, last]
    simp only [List.length_append, List.length_singleton, List.range_succ, List.map_append, prefixes, List.map_cons, List.map_nil]
    rw [List.take_of_length_le (by simp)]

/-- VSCAN gives each lane the sum of the enabled lanes up to it. -/
theorem scanLanes_eq (w mask : Nat) (l : List Nat) : scanLanes w mask l =
    (List.range l.length).map (fun i => (enabled mask (l.take (i + 1))).foldl (· + ·) 0 % 2 ^ laneBits w) :=
  congrArg Prod.fst (scan_run w mask l)

/-- A sum taken modulo 2^w at each lane is the sum modulo 2^w. -/
theorem foldl_intOp_add (bits : Nat) (l : List Nat) (a : Nat) :
    l.foldl (intOp bits 0) (a % 2 ^ bits) = l.foldl (· + ·) a % 2 ^ bits := by
  induction l generalizing a with
  | nil => rfl
  | cons x t ih =>
    have added : intOp bits 0 (a % 2 ^ bits) x = (a + x) % 2 ^ bits := by simp [intOp]
    rw [List.foldl_cons, List.foldl_cons, added, ih]

/-- VSEL takes the enabled lanes of one source and the others of the second. -/
theorem select_eq_merge (mask : Nat) (a b : List Nat) :
    (a.zip b).zipIdx.map (fun e => if bitOf mask e.2 then e.1.1 else e.1.2) = merge mask b a := by
  apply List.ext_getElem
  · simp [merge, Nat.min_comm]
  · intro i h1 h2
    simp [merge]

end Sys2Proof.Machine

/-! Vector integer and FP32 instructions (R367, R374, R375): what the driver of each MAJOR leaves, and the statements. -/

namespace Sys2Proof.Machine
open Sys2Proof

/-! ### MAJOR 0x24: one lemma for each kind of function -/

section
variable (vd va vb mk w : Nat) (m : M) (th : Thread)

/-- Functions 0 to 12 work lane by lane under the mask. -/
theorem vecI_lanewise {func : Nat} (h : func ≤ 12) : vecI func vd va vb mk w m th =
    (m, .next (th.putV vd (th.mreg mk) w (ofLanes (laneBits w) (merge (th.mreg mk) (th.lanes w vd)
      (((th.lanes w va).zip (th.lanes w vb)).map (fun e => intOp (laneBits w) (vecFunc func) e.1 e.2))))
      (th.vbad va 0 || th.vbad vb 0) (th.vbad va 1 || th.vbad vb 1))) := by
  have which : func = 0 ∨ func = 1 ∨ func = 2 ∨ func = 3 ∨ func = 4 ∨ func = 5 ∨ func = 6 ∨ func = 7 ∨ func = 8 ∨ func = 9 ∨
      func = 10 ∨ func = 11 ∨ func = 12 := by omega
  rcases which with rfl | rfl | rfl | rfl | rfl | rfl | rfl | rfl | rfl | rfl | rfl | rfl | rfl <;> rfl

/-- A comparison's bits enter a mask register. -/
def masked (th : Thread) (vd mk : Nat) (l : List Bool) : Thread := th.setM (vd % 4) (mergeMask (th.mreg mk) (th.mreg (vd % 4)) l)

theorem vecI_compare : ∀ e ∈ laneCmps, ∃ cmp : Nat → Nat → Nat → Bool,
    (∀ {bits : Nat}, 0 < bits → ∀ x y : BitVec bits, cmp bits x.toNat y.toNat = e.op bits x y) ∧
    ∀ vd va vb mk w m th, vecI e.func vd va vb mk w m th =
      (m, .next (masked th vd mk (((th.lanes w va).zip (th.lanes w vb)).map (fun x => cmp (laneBits w) x.1 x.2)))) := by
  have equal {bits : Nat} (x y : BitVec bits) : (x.toNat == y.toNat) = (x == y) := by
    rw [Bool.eq_iff_iff, beq_iff_eq, beq_iff_eq, BitVec.toNat_inj]
  simp only [laneCmps, List.forall_mem_cons]
  exact ⟨⟨fun _ x y => x == y, fun _ => equal, fun _ _ _ _ _ _ _ => rfl⟩,
    ⟨fun bits x y => decide (sext bits x < sext bits y), fun hb x y => by simp only [sext_toNat hb, BitVec.slt],
      fun _ _ _ _ _ _ _ => rfl⟩,
    ⟨fun _ x y => decide (x < y), fun _ _ _ => rfl, fun _ _ _ _ _ _ _ => rfl⟩, by simp⟩

theorem vecI_select : vecI 20 vd va vb mk w m th = (m, .next (th.putV vd fullMask w
    (ofLanes (laneBits w) (((th.lanes w va).zip (th.lanes w vb)).zipIdx.map
      (fun e => if bitOf (th.mreg mk) e.2 then e.1.1 else e.1.2)))
    (th.vbad va 0 || th.vbad vb 0) (th.vbad va 1 || th.vbad vb 1))) := rfl

/-- Either half of a register, or of two. -/
theorem vecI_permute : vecI 21 vd va vb mk w m th = (m, .next (th.putV vd (th.mreg mk) w
    (ofLanes (laneBits w) (merge (th.mreg mk) (th.lanes w vd)
      ((th.lanes w vb).map (fun y => (th.lanes w va).getD (y % (th.lanes w va).length) 0))))
    (th.vany va || th.vany vb) (th.vany va || th.vany vb))) := by
  have either : ((th.vbad va 0 || th.vbad vb 0) || (th.vbad va 1 || th.vbad vb 1)) = (th.vany va || th.vany vb) := by
    rw [Thread.vany, Thread.vany]; ac_rfl
  rw [← either]; rfl

/-- A source's poison, when a function ignores VB. -/
theorem vany_alone : ((th.vbad va 0 || false) || (th.vbad va 1 || false)) = th.vany va := by
  rw [Bool.or_false, Bool.or_false, Thread.vany]

theorem vecI_compress : vecI 22 vd va vb mk w m th = (m, .next (th.putV vd fullMask w
    (ofLanes (laneBits w) (padTo (th.lanes w va).length 0 (enabled (th.mreg mk) (th.lanes w va)))) (th.vany va) (th.vany va))) := by
  rw [← vany_alone]; rfl

theorem vecI_expand : vecI 23 vd va vb mk w m th = (m, .next (th.putV vd (th.mreg mk) w
    (ofLanes (laneBits w) (expandLanes (th.mreg mk) (th.lanes w vd) (th.lanes w va))) (th.vany va) (th.vany va))) := by
  rw [← vany_alone]; rfl

theorem vecI_scan : vecI 24 vd va vb mk w m th = (m, .next (th.putV vd (th.mreg mk) w
    (ofLanes (laneBits w) (merge (th.mreg mk) (th.lanes w vd) (scanLanes w (th.mreg mk) (th.lanes w va)))) (th.vany va) (th.vany va))) := by
  rw [← vany_alone]; rfl

/-- A reduction's value in lane 0. -/
def reduced (th : Thread) (vd va w x : Nat) : Thread :=
  th.putV vd fullMask w (ofLanes (laneBits w) [x]) (th.vany va) (th.vany va)

theorem putRes_reduced (x : Nat) (r : VRes)
    (hr : r = .lanes ((List.range (th.lanes w va).length).map (fun i => if i = 0 then x else 0))) :
    putRes th vd (th.mreg mk) w true true (th.vbad va 0 || false) (th.vbad va 1 || false) r = reduced th vd va w x := by
  have put : putRes th vd (th.mreg mk) w true true (th.vbad va 0 || false) (th.vbad va 1 || false) r =
      th.putV vd fullMask w
        (ofLanes (laneBits w) ((List.range (th.lanes w va).length).map (fun i => if i = 0 then x else 0)))
        ((th.vbad va 0 || false) || (th.vbad va 1 || false)) ((th.vbad va 0 || false) || (th.vbad va 1 || false)) := by
    rw [hr]; rfl
  rw [put, vany_alone, ofLanes_lane0 _ (by rw [Thread.length_lanes]; exact laneCount_pos w), reduced]

theorem vecI_sum : vecI 25 vd va vb mk w m th =
    (m, .next (reduced th vd va w ((enabled (th.mreg mk) (th.lanes w va)).foldl (intOp (laneBits w) 0) 0))) := by
  rw [← putRes_reduced (mk := mk) (hr := rfl)]; rfl

end

/-- The greatest of lanes, signed or unsigned, over those enabled: a free value stands for none. -/
theorem vecI_greatest {func : Nat} (h : func = 26 ∨ func = 27) (vd va vb mk w : Nat) (m : M) (th : Thread) :
    vecI func vd va vb mk w m th = ((reduceFree true m (th.mreg mk) (th.lanes w va)).1,
      .next (putRes th vd (th.mreg mk) w true true (th.vbad va 0 || false) (th.vbad va 1 || false)
        (vecInt w func (th.mreg mk) (reduceFree true m (th.mreg mk) (th.lanes w va)).2 (th.lanes w vd) (th.lanes w va)
          (th.lanes w vb)))) := by
  rcases h with rfl | rfl <;> rfl

theorem reduceFree_of_enabled {mask : Nat} {l : List Nat} (h : enabled mask l ≠ []) (needs : Bool) (m : M) :
    reduceFree needs m mask l = (m, 0) := by
  simp only [reduceFree, beq_false_of_ne h, Bool.and_false, Bool.false_eq_true, if_false]

theorem reduceFree_of_none {mask : Nat} {l : List Nat} (h : enabled mask l = []) (m : M) :
    (reduceFree true m mask l).1 = { m with core := m.core.draw.1 } := by
  simp only [reduceFree, h, beq_self_eq_true, Bool.and_self, if_true]

section
variable {va mk w : Nat} {th : Thread} (vd vb : Nat) (m : M)

theorem vecI_max {x : Nat} {xs : List Nat} (some_ : enabled (th.mreg mk) (th.lanes w va) = x :: xs) :
    vecI 26 vd va vb mk w m th = (m, .next (reduced th vd va w (xs.foldl (intOp (laneBits w) 11) x))) := by
  rw [vecI_greatest (.inl rfl), reduceFree_of_enabled (by simp [some_]), putRes_reduced (x := xs.foldl (intOp (laneBits w) 11) x)]
  simp only [vecInt, some_]

theorem vecI_maxu {x : Nat} {xs : List Nat} (some_ : enabled (th.mreg mk) (th.lanes w va) = x :: xs) :
    vecI 27 vd va vb mk w m th = (m, .next (reduced th vd va w (xs.foldl (intOp (laneBits w) 13) x))) := by
  rw [vecI_greatest (.inr rfl), reduceFree_of_enabled (by simp [some_]), putRes_reduced (x := xs.foldl (intOp (laneBits w) 13) x)]
  simp only [vecInt, some_]

theorem vecI_greatest_of_none {func : Nat} (h : func = 26 ∨ func = 27) (none_ : enabled (th.mreg mk) (th.lanes w va) = []) :
    ∃ v, vecI func vd va vb mk w m th = ({ m with core := m.core.draw.1 }, .next (reduced th vd va w v)) := by
  refine ⟨(reduceFree true m (th.mreg mk) (th.lanes w va)).2 % 2 ^ laneBits w, ?_⟩
  rw [vecI_greatest h, reduceFree_of_none none_, putRes_reduced]
  rcases h with rfl | rfl <;> simp only [vecInt, none_]

end

/-! ### Values -/

theorem exec_laneOps : ∀ e ∈ laneOps, ∀ (s : State) (t vd va vb mk w : Nat),
    exec (e.cmd t vd va vb mk w) s = runServed (issue t (.fV 0x24 vd va vb mk w e.func) (vecI e.func vd va vb mk w)) s := by
  simp only [laneOps, List.forall_mem_cons]
  exact ⟨fun _ _ _ _ _ _ _ => rfl, fun _ _ _ _ _ _ _ => rfl, fun _ _ _ _ _ _ _ => rfl, fun _ _ _ _ _ _ _ => rfl,
    fun _ _ _ _ _ _ _ => rfl, fun _ _ _ _ _ _ _ => rfl, fun _ _ _ _ _ _ _ => rfl, fun _ _ _ _ _ _ _ => rfl,
    fun _ _ _ _ _ _ _ => rfl, fun _ _ _ _ _ _ _ => rfl, fun _ _ _ _ _ _ _ => rfl, fun _ _ _ _ _ _ _ => rfl,
    fun _ _ _ _ _ _ _ => rfl, by simp⟩

theorem exec_laneCmps : ∀ e ∈ laneCmps, ∀ (s : State) (t vd va vb mk w : Nat),
    exec (e.cmd t vd va vb mk w) s = runServed (issue t (.fV 0x24 vd va vb mk w e.func) (vecI e.func vd va vb mk w)) s := by
  simp only [laneCmps, List.forall_mem_cons]
  exact ⟨fun _ _ _ _ _ _ _ => rfl, fun _ _ _ _ _ _ _ => rfl, fun _ _ _ _ _ _ _ => rfl, by simp⟩

/-- Every lane-wise function is its operation on lanes of any width. -/
theorem intOp_laneOps : ∀ e ∈ laneOps, e.func ≤ 12 ∧ ∀ {bits : Nat}, 0 < bits → ∀ x y : BitVec bits,
    intOp bits (vecFunc e.func) x.toNat y.toNat = (e.op bits x y).toNat := by
  simp only [laneOps, List.forall_mem_cons]
  exact ⟨⟨by decide, fun _ => intOp_add⟩, ⟨by decide, fun _ => intOp_sub⟩, ⟨by decide, fun _ => intOp_and⟩, ⟨by decide, fun _ => intOp_or⟩,
    ⟨by decide, fun _ => intOp_xor⟩, ⟨by decide, fun _ => intOp_shl⟩, ⟨by decide, fun _ => intOp_shr⟩,
    ⟨by decide, fun h x y => intOp_sar x y h⟩, ⟨by decide, fun h x y => intOp_min x y h⟩, ⟨by decide, fun h x y => intOp_max x y h⟩,
    ⟨by decide, fun _ => intOp_minu⟩, ⟨by decide, fun _ => intOp_maxu⟩, ⟨by decide, fun _ => intOp_mul⟩, by simp⟩

/-- A comparison that is not reserved names one of the four mask registers (R368). -/
theorem RIns.maskReg_of_legal {vd va vb mk w func : Nat} (h : (RIns.fV 0x24 vd va vb mk w func).legal = true)
    (cmp : 16 ≤ func ∧ func ≤ 18) : vd % 4 = vd := by
  simp only [legal, Bool.and_eq_true, decide_eq_true_eq, if_true, Bool.or_eq_true, beq_iff_eq] at h
  omega

theorem laneCmps_func : ∀ e ∈ laneCmps, 16 ≤ e.func ∧ e.func ≤ 18 := by
  simp only [laneCmps, List.forall_mem_cons]
  exact ⟨by decide, by decide, by decide, by simp⟩

/-- A register that compression fills keeps zeros in the lanes left over. -/
theorem ofLanes_padTo (bits : Nat) {n : Nat} {l : List Nat} (h : l.length ≤ n) : ofLanes bits (padTo n 0 l) = ofLanes bits l := by
  rw [padTo, List.take_of_length_le h, ofLanes_append_zeros]

/-- The greater of two signed lanes, as a value of their bits. -/
theorem intOp_max_eq {bits : Nat} (hb : 0 < bits) : intOp bits 11 =
    fun a b => if (BitVec.ofNat bits a).sle (BitVec.ofNat bits b) then b else a := by
  funext a b
  simp only [intOp, sext_eq_toInt hb, BitVec.sle, decide_eq_true_eq]

theorem adjacent_lanes (l : List Nat) : l.zipIdx.map (fun e => e.2 == 0 || e.1 != l.getD (e.2 - 1) 0) =
    (List.range l.length).map (fun i => i == 0 || l.getD i 0 != l.getD (i - 1) 0) := by
  apply List.ext_getElem
  · simp
  · intro i h1 h2
    have hi : i < l.length := by simpa using h1
    simp [List.getElem?_eq_getElem hi]

/-- Settles O12: each function is its operation on the lanes, and the enabled lanes are summed, taken and compared as stated. -/
theorem vectorIntegerInstructions : Obligations.VectorIntegerInstructions := by
  unfold Obligations.VectorIntegerInstructions
  refine ⟨?lanes, ?compare, ?select, ?permute, ?compress, ?expand, ?scan, ?sum, ?max, ?maxu, ?none, ?sort, ?unique⟩
  case lanes =>
    intro e he s t vd va vb mk w th p m h
    obtain ⟨small, value⟩ := intOp_laneOps e he
    refine h.goes_on_here (exec_laneOps e he s t vd va vb mk w) ?_
    rw [vecI_lanewise vd va vb mk w m th small, Thread.lanes, Thread.lanes, Thread.lanes, zipWith_lanesOf (value (laneBits_pos w))]
  case compare =>
    intro e he s t vd va vb mk w th p m h
    obtain ⟨cmp, value, outcome⟩ := vecI_compare e he
    refine h.goes_on_here (exec_laneCmps e he s t vd va vb mk w) ?_
    rw [outcome, masked, RIns.maskReg_of_legal h.legal (laneCmps_func e he), Thread.lanes, Thread.lanes,
      zipWith_lanesOf (value (laneBits_pos w))]
  case select =>
    intro s t vd va vb mk w th p m h
    refine h.goes_on_here (body := vecI 20 vd va vb mk w) rfl ?_
    rw [vecI_select, select_eq_merge]
  case permute =>
    intro s t vd va vb mk w th p m h
    refine h.goes_on_here (body := vecI 21 vd va vb mk w) rfl ?_
    rw [vecI_permute, Thread.length_lanes]
  case compress =>
    intro s t vd va mk w th p m h
    refine h.goes_on_here (body := vecI 22 vd va 0 mk w) rfl ?_
    rw [vecI_compress, ofLanes_padTo _ (length_enabled_le _ _)]
  case expand =>
    intro s t vd va vb mk w th p m h
    exact h.goes_on_here (body := vecI 23 vd va vb mk w) rfl (vecI_expand vd va vb mk w m th)
  case scan =>
    intro s t vd va mk w th p m h
    refine h.goes_on_here (body := vecI 24 vd va 0 mk w) rfl ?_
    rw [vecI_scan, scanLanes_eq, Thread.length_lanes]
  case sum =>
    intro s t vd va mk w th p m h
    refine h.goes_on_here (body := vecI 25 vd va 0 mk w) rfl ?_
    rw [vecI_sum, ← foldl_intOp_add, Nat.zero_mod, reduced]
  case max =>
    intro s t vd va mk w th p m x xs h some_
    refine h.goes_on_here (body := vecI 26 vd va 0 mk w) rfl ?_
    rw [vecI_max vd 0 m some_, intOp_max_eq (laneBits_pos w), reduced]
  case maxu =>
    intro s t vd va mk w th p m x xs h some_
    exact h.goes_on_here (body := vecI 27 vd va 0 mk w) rfl (vecI_maxu vd 0 m some_)
  case none =>
    intro s t vd va mk w th p m none_
    refine ⟨fun h => ?_, fun h => ?_⟩
    · obtain ⟨v, outcome⟩ := vecI_greatest_of_none vd 0 m (.inl rfl) none_
      exact ⟨v, h.goes_on (body := vecI 26 vd va 0 mk w) rfl outcome h.stays⟩
    · obtain ⟨v, outcome⟩ := vecI_greatest_of_none vd 0 m (.inr rfl) none_
      exact ⟨v, h.goes_on (body := vecI 27 vd va 0 mk w) rfl outcome h.stays⟩
  case sort =>
    intro s t vd va th p m h
    refine h.goes_on_here (body := vecI 28 vd va 0 0 0) rfl ?_
    rw [← vany_alone va th]; rfl
  case unique =>
    intro s t vd va mk th p m h
    refine h.goes_on_here (body := vecI 29 vd va 0 mk 0) rfl ?_
    have adjacent := adjacent_lanes (th.lanes 0 va)
    rw [Thread.length_lanes] at adjacent
    exact congrArg (fun l => (m, Out.next (masked th vd mk l))) adjacent

/-! ### MAJOR 0x25 (R375) -/

/-- Three lane lists of one length, lane by lane. -/
theorem zip_lanes {α : Type} (f : Nat → Nat → Nat → α) {n : Nat} {o a b : List Nat} (ho : o.length = n) (ha : a.length = n)
    (hb : b.length = n) :
    (o.zip (a.zip b)).map (fun e => f e.1 e.2.1 e.2.2) = (List.range n).map (fun i => f (o.getD i 0) (a.getD i 0) (b.getD i 0)) := by
  apply List.ext_getElem
  · simp [ho, ha, hb]
  · intro i h1 h2
    have hi : i < n := by simpa using h2
    simp [List.getElem?_eq_getElem (show i < o.length by omega), List.getElem?_eq_getElem (show i < a.length by omega),
      List.getElem?_eq_getElem (show i < b.length by omega)]

/-- Functions that work lane by lane: the model's function is the operation, and the driver merges its results under the mask. -/
theorem vecF_lanewise : ∀ e ∈ laneFloats, ∀ (vd va vb mk : Nat) (m : M) (th : Thread), vecF e.2.1 vd va vb mk m th =
    (m, .next (th.putV vd (th.mreg mk) 0 (ofLanes 32 (merge (th.mreg mk) (th.lanes 0 vd)
      (((th.lanes 0 vd).zip ((th.lanes 0 va).zip (th.lanes 0 vb))).map (fun x => e.2.2 x.1 x.2.1 x.2.2))))
      (th.vbad va 0 || th.vbad vb 0 || (e.2.1 == 7 && th.vbad vd 0)) (th.vbad va 1 || th.vbad vb 1 || (e.2.1 == 7 && th.vbad vd 1)))) := by
  simp only [laneFloats, List.forall_mem_cons]
  exact ⟨fun _ _ _ _ _ _ => rfl, fun _ _ _ _ _ _ => rfl, fun _ _ _ _ _ _ => rfl, fun _ _ _ _ _ _ => rfl, fun _ _ _ _ _ _ => rfl,
    fun _ _ _ _ _ _ => rfl, fun _ _ _ _ _ _ => rfl, by simp⟩

theorem exec_laneFloats : ∀ e ∈ laneFloats, ∀ (s : State) (t vd va vb mk : Nat),
    exec (e.1 t vd va vb mk) s = runServed (issue t (.fV 0x25 vd va vb mk 0 e.2.1) (vecF e.2.1 vd va vb mk)) s := by
  simp only [laneFloats, List.forall_mem_cons]
  exact ⟨fun _ _ _ _ _ _ => rfl, fun _ _ _ _ _ _ => rfl, fun _ _ _ _ _ _ => rfl, fun _ _ _ _ _ _ => rfl, fun _ _ _ _ _ _ => rfl,
    fun _ _ _ _ _ _ => rfl, fun _ _ _ _ _ _ => rfl, by simp⟩

theorem exec_laneFloatCmps : ∀ e ∈ laneFloatCmps, ∀ (s : State) (t vd va vb mk : Nat),
    exec (e.1 t vd va vb mk) s = runServed (issue t (.fV 0x25 vd va vb mk 0 e.2.1) (vecF e.2.1 vd va vb mk)) s := by
  simp only [laneFloatCmps, List.forall_mem_cons]
  exact ⟨fun _ _ _ _ _ _ => rfl, fun _ _ _ _ _ _ => rfl, fun _ _ _ _ _ _ => rfl, by simp⟩

theorem b2n_beq_one (b : Bool) : (b2n b == 1) = b := by cases b <;> rfl

theorem vecF_compare : ∀ e ∈ laneFloatCmps, ∀ (vd va vb mk : Nat) (m : M) (th : Thread), vecF e.2.1 vd va vb mk m th =
    (m, .next (masked th vd mk (((th.lanes 0 va).zip (th.lanes 0 vb)).map (fun x => b2n (e.2.2 x.1 x.2) == 1)))) := by
  simp only [laneFloatCmps, List.forall_mem_cons]
  exact ⟨fun _ _ _ _ _ _ => rfl, fun _ _ _ _ _ _ => rfl, fun _ _ _ _ _ _ => rfl, by simp⟩

theorem RIns.fpMaskReg_of_legal {vd va vb mk w func : Nat} (h : (RIns.fV 0x25 vd va vb mk w func).legal = true)
    (cmp : 8 ≤ func ∧ func ≤ 10) : vd % 4 = vd := by
  simp only [legal, Bool.and_eq_true, decide_eq_true_eq, Nat.reduceEqDiff, if_false, Bool.or_eq_true, beq_iff_eq, Bool.not_eq_true',
    Bool.and_eq_false_iff, decide_eq_false_iff_not] at h
  omega

theorem laneFloatCmps_func : ∀ e ∈ laneFloatCmps, 8 ≤ e.2.1 ∧ e.2.1 ≤ 10 := by
  simp only [laneFloatCmps, List.forall_mem_cons]
  exact ⟨by decide, by decide, by decide, by simp⟩

theorem vecF_sqrt (vd va vb mk : Nat) (m : M) (th : Thread) : vecF 4 vd va vb mk m th =
    (m, .next (th.putV vd (th.mreg mk) 0 (ofLanes 32 (merge (th.mreg mk) (th.lanes 0 vd)
      (((th.lanes 0 vd).zip ((th.lanes 0 va).zip (th.lanes 0 vb))).map (fun x => fp32Bits (sqrtFp32 (fpOf x.2.1))))))
      (th.vbad va 0) (th.vbad va 1))) := by
  have put : vecF 4 vd va vb mk m th = (m, .next (th.putV vd (th.mreg mk) 0 (ofLanes 32 (merge (th.mreg mk) (th.lanes 0 vd)
      (((th.lanes 0 vd).zip ((th.lanes 0 va).zip (th.lanes 0 vb))).map (fun x => fp32Bits (sqrtFp32 (fpOf x.2.1))))))
      ((th.vbad va 0 || false) || false) ((th.vbad va 1 || false) || false))) := rfl
  simpa only [Bool.or_false] using put

/-- The reductions of MAJOR 0x25: a free value stands for a maximum over no lane. -/
theorem vecF_reduction {func : Nat} (h : func = 11 ∨ func = 12) (vd va vb mk : Nat) (m : M) (th : Thread) :
    vecF func vd va vb mk m th = ((reduceFree (func == 12) m (th.mreg mk) (th.lanes 0 va)).1,
      .next (putRes th vd (th.mreg mk) 0 true true (th.vbad va 0 || false) (th.vbad va 1 || false)
        (vecFp func (th.mreg mk) (reduceFree (func == 12) m (th.mreg mk) (th.lanes 0 va)).2 (th.lanes 0 vd) (th.lanes 0 va)
          (th.lanes 0 vb)))) := by
  have put : vecF func vd va vb mk m th = ((reduceFree (func == 12) m (th.mreg mk) (th.lanes 0 va)).1,
      .next (putRes th vd (th.mreg mk) 0 true true ((th.vbad va 0 || false) || false) ((th.vbad va 1 || false) || false)
        (vecFp func (th.mreg mk) (reduceFree (func == 12) m (th.mreg mk) (th.lanes 0 va)).2 (th.lanes 0 vd) (th.lanes 0 va)
          (th.lanes 0 vb)))) := by rcases h with rfl | rfl <;> rfl
  simpa only [Bool.or_false] using put

section
variable {va mk : Nat} {th : Thread} (vd vb : Nat) (m : M)

theorem vecF_sum : vecF 11 vd va vb mk m th = (m, .next (reduced th vd va 0 (fp32Bits (treeSum 4 ((th.lanes 0 va).zipIdx.map
    (fun x => if bitOf (th.mreg mk) x.2 then fpOf x.1 else FVal.zero)))))) := by
  rw [vecF_reduction (.inl rfl), ← putRes_reduced (mk := mk) (hr := rfl)]; rfl

theorem vecF_max {x : Nat} {xs : List Nat} (some_ : enabled (th.mreg mk) (th.lanes 0 va) = x :: xs) :
    vecF 12 vd va vb mk m th =
      (m, .next (reduced th vd va 0 (xs.foldl (fun a b => fp32Bits ((fpOf a).maxR (fpOf b))) x))) := by
  rw [vecF_reduction (.inr rfl), reduceFree_of_enabled (by simp [some_]),
    putRes_reduced (x := xs.foldl (fun a b => fp32Bits ((fpOf a).maxR (fpOf b))) x)]
  simp only [vecFp, some_]
  rfl

theorem vecF_max_of_none (none_ : enabled (th.mreg mk) (th.lanes 0 va) = []) :
    ∃ v, vecF 12 vd va vb mk m th = ({ m with core := m.core.draw.1 }, .next (reduced th vd va 0 v)) := by
  refine ⟨(reduceFree true m (th.mreg mk) (th.lanes 0 va)).2 % 2 ^ 32, ?_⟩
  rw [vecF_reduction (.inr rfl), beq_self_eq_true, reduceFree_of_none none_, putRes_reduced]
  simp only [vecFp, none_]

end

/-- Settles O13: each function is its operation on FP32 lanes, merged, compared or reduced as stated. -/
theorem vectorFloatInstructions : Obligations.VectorFloatInstructions := by
  unfold Obligations.VectorFloatInstructions
  refine ⟨?lanes, ?sqrt, ?compare, ?sum, ?max, ?none⟩
  case lanes =>
    intro e he s t vd va vb mk th p m h
    refine h.goes_on_here (exec_laneFloats e he s t vd va vb mk) ?_
    rw [vecF_lanewise e he, zip_lanes e.2.2 (th.length_lanes 0 vd) (th.length_lanes 0 va) (th.length_lanes 0 vb)]; rfl
  case sqrt =>
    intro s t vd va mk th p m h
    refine h.goes_on_here (body := vecF 4 vd va 0 mk) rfl ?_
    have taken : ((th.lanes 0 vd).zip ((th.lanes 0 va).zip (th.lanes 0 0))).map (fun x => fp32Bits (sqrtFp32 (fpOf x.2.1))) =
        (th.lanes 0 va).map (fun x => fp32Bits (sqrtFp32 (fpOf x))) := by
      apply List.ext_getElem <;> simp
    rw [vecF_sqrt, taken]
  case compare =>
    intro e he s t vd va vb mk th p m h
    refine h.goes_on_here (exec_laneFloatCmps e he s t vd va vb mk) ?_
    simp only [vecF_compare e he, masked, RIns.fpMaskReg_of_legal h.legal (laneFloatCmps_func e he), b2n_beq_one, List.zip,
      List.map_zipWith]
  case sum =>
    intro s t vd va mk th p m h
    exact h.goes_on_here (body := vecF 11 vd va 0 mk) rfl (vecF_sum vd 0 m)
  case max =>
    intro s t vd va mk th p m x xs h some_
    exact h.goes_on_here (body := vecF 12 vd va 0 mk) rfl (vecF_max vd 0 m some_)
  case none =>
    intro s t vd va mk th p m h none_
    obtain ⟨v, outcome⟩ := vecF_max_of_none vd 0 m none_
    exact ⟨v, h.goes_on (body := vecF 12 vd va 0 mk) rfl outcome h.stays⟩

end Sys2Proof.Machine

/-! Vector moves, conversions and records (R376 to R378), instances and reserved words (R372, R395, R396, R404), and the statements
about them. -/

namespace Sys2Proof.Machine
open Sys2Proof

/-! ### Lane 0 and broadcast -/

theorem headD_lanesOf (w : Nat) (v : W512) : (lanesOf (laneBits w) v).headD 0 = v.toNat % 2 ^ laneBits w := by
  obtain ⟨k, hk⟩ := Nat.exists_eq_succ_of_ne_zero (Nat.ne_of_gt (laneCount_pos w))
  rw [laneCount] at hk
  simp [lanesOf, hk, List.range_succ_eq_map]

/-! ### VCVT between equal formats (R376) -/

/-- What a list of numbered values holds at number `i`. -/
theorem find?_numbered (f : Nat → Nat) (l : List Nat) (i : Nat) :
    ((l.map (fun k => (k, f k))).find? (fun e => e.1 == i)).map (fun e => e.2) = if i ∈ l then some (f i) else none := by
  induction l with
  | nil => rfl
  | cons k t ih =>
    by_cases h : k = i
    · subst h; simp
    · simp only [List.map_cons, List.find?_cons, beq_false_of_ne h, List.mem_cons, Ne.symm h, false_or, ih]

theorem zip_numbered (f : Nat → Nat) (l : List Nat) : l.zip (l.map f) = l.map (fun k => (k, f k)) := by
  induction l with
  | nil => rfl
  | cons k t ih => rw [List.map_cons, List.zip_cons_cons, ih, List.map_cons]

/-- Old lanes of which those that `on` names are replaced. -/
theorem replaceLanes_eq (on : Nat → Bool) (f : Nat → Nat) {n : Nat} {old : List Nat} (hn : old.length = n) :
    old.zipIdx.map (fun e =>
      (((((List.range n).filter on).map (fun k => (k, f k))).find? (fun x => x.1 == e.2)).map (fun x => x.2)).getD e.1) =
      (List.range n).map (fun i => if on i = true then f i else old.getD i 0) := by
  apply List.ext_getElem
  · simp [hn]
  · intro i h1 h2
    have hi : i < n := by simpa using h2
    have ho : i < old.length := by omega
    rw [List.getElem_map, List.getElem_zipIdx, find?_numbered]
    cases h : on i <;> simp [hi, h, List.getElem?_eq_getElem ho]

section
variable {vd va sr mk : Nat} {m : M} {th : Thread} {x : FmtWord × FmtWord} (formats : convPair (th.sreg sr) = .inr x)
include formats

/-- VCVT of a permitted pair writes one register. -/
theorem vcvt_of_pair : ∃ c v lo hi, vcvt vd va sr mk m th = ({ m with core := c }, .next (th.setV vd v lo hi)) := by
  simp only [vcvt, formats]
  exact ⟨_, _, _, _, rfl⟩

/-- Equal formats copy the bits of the elements that the mask governs. -/
theorem vcvt_same (same : x.1.fmt = x.2.fmt) (clean : th.sbad sr = false) (sound : th.vany va = false) :
    ∃ c lo hi, vcvt vd va sr mk m th = ({ m with core := c }, .next (th.setV vd
      (ofLanes (elemBits x.1.fmt) ((List.range (512 / elemBits x.1.fmt)).map (fun i =>
        if mk = 0 ∨ bitOf (th.mreg mk) i = true then (lanesOf (elemBits x.1.fmt) (th.vreg va)).getD i 0
        else (lanesOf (elemBits x.1.fmt) (th.vreg vd)).getD i 0))) lo hi)) := by
  obtain ⟨x, y⟩ := x
  replace same : x.fmt = y.fmt := same
  obtain ⟨lower, upper⟩ : th.vbad va 0 = false ∧ th.vbad va 1 = false := Bool.or_eq_false_iff.mp sound
  have governed : ∀ i ∈ List.range (512 / elemBits x.fmt),
      ((decide (i < 512 / elemBits x.fmt) && (mk == 0 || bitOf (th.mreg mk) i)) && !th.vbad va (i * elemBits x.fmt / 256)) =
        (mk == 0 || bitOf (th.mreg mk) i) ∧
      ((decide (i < 512 / elemBits x.fmt) && (mk == 0 || bitOf (th.mreg mk) i)) && th.vbad va (i * elemBits x.fmt / 256)) = false := by
    intro i hi
    have inside : i < 512 / elemBits x.fmt := List.mem_range.mp hi
    have half : i * elemBits x.fmt / 256 < 2 := by
      have : (i + 1) * elemBits x.fmt ≤ 512 := Nat.le_trans (Nat.mul_le_mul_right _ inside) (Nat.div_mul_le_self _ _)
      have : 0 < elemBits x.fmt := Nat.pos_of_ne_zero fun h => by simp [h] at inside
      rw [Nat.succ_mul] at *
      omega
    have unspoilt : th.vbad va (i * elemBits x.fmt / 256) = false := by
      have which : i * elemBits x.fmt / 256 = 0 ∨ i * elemBits x.fmt / 256 = 1 := by omega
      rcases which with low | high
      · rw [low]; exact lower
      · rw [high]; exact upper
    simp [unspoilt, inside]
  simp only [vcvt, formats, ← same, Nat.max_self, clean, Bool.false_or]
  rw [List.filter_congr (fun i hi => (governed i hi).1), List.filter_congr (fun i hi => (governed i hi).2)]
  have nothing (l : List Nat) : l.filter (fun _ => false) = [] := List.filter_eq_nil_iff.mpr fun _ _ => Bool.false_ne_true
  simp only [convElems_same _ same, nothing, List.map_nil, List.zip_nil_left, List.append_nil, zip_numbered,
    replaceLanes_eq (fun i => mk == 0 || bitOf (th.mreg mk) i) _ (length_lanesOf (elemBits x.fmt) (th.vreg vd)), Bool.or_eq_true,
    beq_iff_eq]
  exact ⟨_, _, _, rfl⟩

end

/-! ### Records (R378) -/

@[simp] theorem Thread.mreg_putV (th : Thread) (vd mask w n : Nat) (v : W512) (lo hi : Bool) :
    (th.putV vd mask w v lo hi).mreg n = th.mreg n := rfl

/-- Another vector register keeps its value. -/
theorem Thread.vreg_putV_ne (th : Thread) {vd n mask w : Nat} (h : n ≠ vd) (v : W512) (lo hi : Bool) :
    (th.putV vd mask w v lo hi).vreg n = th.vreg n := by
  simp [putV, setV, vreg, listMod, List.getD_eq_getElem?_getD, Ne.symm h]

/-- VDVAR's run over the enabled lanes. -/
def dvRun (m : M) (th : Thread) (t vd sr mk : Nat) : DvRun :=
  ((List.range 16).filter (bitOf (th.mreg mk))).foldl (dvLane t)
    { c := m.core, lanes := th.lanes 0 vd, addr := th.sreg sr, prev := th.dvprev.toNat % 2 ^ 32, lo := false, hi := false, trap := none }

section
variable {vd sr mk t : Nat} {m : M} {th : Thread}

theorem vdvar_of_run {r : DvRun} (clean : th.sbad sr = false) (run : r = dvRun m th t vd sr mk) (sound : r.trap = none) :
    vdvar vd sr mk m th t = ({ m with core := r.c }, .next ({ th.putV vd (th.mreg mk) 0 (ofLanes 32 r.lanes) r.lo r.hi with
      dvprev := if (List.range 16).filter (bitOf (th.mreg mk)) = [] then th.dvprev else w64 r.prev }.setS sr r.addr (r.lo || r.hi))) := by
  have unfolded : vdvar vd sr mk m th t = match r.trap with
      | some k => ({ m with core := r.c }, .trap k)
      | none => ({ m with core := r.c }, .next (Thread.setS (if (List.range 16).filter (bitOf (th.mreg mk)) = []
          then th.putV vd (th.mreg mk) 0 (ofLanes 32 r.lanes) r.lo r.hi
          else { th.putV vd (th.mreg mk) 0 (ofLanes 32 r.lanes) r.lo r.hi with dvprev := w64 r.prev }) sr r.addr (r.lo || r.hi))) := by
    subst run
    simp only [vdvar, clean, Bool.false_eq_true, if_false]
    rfl
  rw [unfolded, sound]
  by_cases none_ : (List.range 16).filter (bitOf (th.mreg mk)) = []
  · rw [if_pos none_, if_pos none_]; rfl
  · rw [if_neg none_, if_neg none_]

variable {f : FmtWord} (record : recordTrap m.core th sr = .inr f)
include record

theorem vdec_of_record {c : Core} {r : Rec} {v : List Nat}
    (hc : c = ((readRecord m.core t (th.sreg sr) f.fmt).1.count ECC_POISON_READ
      (badWordsIn 0 (scratchRead (readRecord m.core t (th.sreg sr) f.fmt).1 t (th.sreg sr) 64).2.2)))
    (hr : r = (readRecord m.core t (th.sreg sr) f.fmt).2)
    (hv : v = r.elems.map (fun e =>
      fp32Bits (toFp32 (decodeValue f.fmt (if f.fmt = .cb4 then codebook c f.codebook else []) r.scale e)))) :
    vdec vd sr mk m th t = ({ m with core := c }, .next ((th.putV vd (th.mreg mk) 0
      (ofLanes 32 (merge (th.mreg mk) (th.lanes 0 vd) (v.take 16))) r.poison r.poison).putV (vd + 1) (th.mreg mk) 0
      (ofLanes 32 (merge (th.mreg mk) (th.lanes 0 (vd + 1)) (v.drop 16))) r.poison r.poison)) := by
  subst hc hr hv
  have other := th.vreg_putV_ne (mask := th.mreg mk) (w := 0) (Nat.succ_ne_self vd)
  simp only [vdec, record, Thread.mreg_putV, other]
  rfl

/-- VENC goes on with its thread as it was. -/
theorem venc_of_record : venc vd sr m th t = ((venc vd sr m th t).1, .next th) := by
  simp only [venc, record]

theorem venc_of_sound {x : Core × Rec} {cb : List FVal} {e : BlockEnc} (inner : vd < 15) (clean : (th.vany vd || th.vany (vd + 1)) = false)
    (hx : x = readRecord (m.core.drawN 80).1 t (th.sreg sr) f.fmt) (old : x.2.poison = false)
    (hcb : cb = if f.fmt = .cb4 then codebook x.1 f.codebook else [])
    (he : e = encodeBlock f cb x.2.elems x.2.scale ((th.lanes 0 vd ++ th.lanes 0 (vd + 1)).map (fun v => some (fpOf v))) m.core.glb.draws) :
    venc vd sr m th t = ({ m with core := addFlags (putRecord x.1 t (th.sreg sr) f.fmt e.elems e.scale
      (recordFlags f.fmt cb e.elems e.scale false)) th.ctx th.num e.flags }, .next th) := by
  have notLast : vd ≠ 15 := Nat.ne_of_lt inner
  subst hx hcb he
  simp only [venc, record, notLast, if_false, clean, old, Bool.and_false, Bool.or_false, Bool.false_eq_true, List.map_map]
  rfl

end

/-- Settles O14: each instruction's outcome in the case that its hypotheses choose. -/
theorem vectorMovesAndRecords : Obligations.VectorMovesAndRecords := by
  unfold Obligations.VectorMovesAndRecords
  refine ⟨?broadcast, ?lane0, ?count, ?convert, ?varints, ?decode, ?encode, ?encodeSound⟩
  case broadcast =>
    intro s t vd sr mk w th p m h
    refine h.goes_on_here (body := vbcast vd sr mk w) rfl ?_
    rw [← th.length_lanes w vd, ← List.map_const']; rfl
  case lane0 =>
    intro s t va sr w th p m h
    refine h.goes_on_here (body := vget va sr w) rfl ?_
    rw [← headD_lanesOf]; rfl
  case count =>
    intro s t sr mk w th p m h
    exact h.goes_on_here (body := mpopc sr mk w) rfl rfl
  case convert =>
    rintro s t vd va sr mk th p m _ x h formats rfl hs
    by_cases plain : x.1.fmt = x.2.fmt ∧ th.sbad sr = false ∧ th.vany va = false
    · obtain ⟨same, clean, sound⟩ := plain
      obtain ⟨c, lo, hi, outcome⟩ := vcvt_same (vd := vd) (mk := mk) (m := m) formats same clean sound
      rw [outcome] at hs ⊢
      exact ⟨_, lo, hi, h.goes_on (body := vcvt vd va sr mk) rfl outcome hs, rfl, fun _ _ _ => rfl⟩
    · obtain ⟨c, v, lo, hi, outcome⟩ := vcvt_of_pair (vd := vd) (va := va) (mk := mk) (m := m) formats
      rw [outcome] at hs ⊢
      exact ⟨v, lo, hi, h.goes_on (body := vcvt vd va sr mk) rfl outcome hs, rfl,
        fun same clean sound => absurd ⟨same, clean, sound⟩ plain⟩
  case varints =>
    intro s t vd sr mk th p m r h clean run sound hs
    exact h.goes_on (body := fun m th => vdvar vd sr mk m th t) rfl (vdvar_of_run clean run sound) hs
  case decode =>
    intro s t vd sr mk th p m f c r v h record hc hr hs hv
    exact ⟨_, h.goes_on (body := fun m th => vdec vd sr mk m th t) rfl (vdec_of_record record hc hr hv) hs, rfl⟩
  case encode =>
    rintro s t vd sr th p m _ f h record rfl hs
    exact h.goes_on (body := fun m th => venc vd sr m th t) rfl (venc_of_record record) hs
  case encodeSound =>
    rintro s t vd sr th p m f x cb e _ h record inner clean hx old hcb he rfl hs
    exact h.goes_on (body := fun m th => venc vd sr m th t) rfl (venc_of_sound record inner clean hx old hcb he) hs

/-! ### Instances (R404, R396, R395) -/

/-- The lowest that has not started starts on a free thread. -/
theorem instanceStart_of_free {c : Core} {ctx num t : Nat} {w : Work} {p : ProgRun} (work : work? c ctx num = some w)
    (prog : w.prog = some p) (running : w.phase = .running) (started : w.started = true) (goes : p.stopping = false)
    (free : threadFree c (ctxPart c ctx) t = true) (plain : p.isRule = false) (left : p.next < p.insts) :
    instanceStart ctx num t c = modWork (setThr c t (freshThread ctx num p.next p.insts p.entry)) ctx num
      (fun w => { w with prog := some { p with next := p.next + 1 } }) := by
  simp only [instanceStart, work, prog, running, started, goes, free, plain, Nat.not_le.mpr left, ne_eq, not_true_eq_false, decide_false,
    Bool.not_true, Bool.or_self, Bool.false_eq_true, if_false]

/-- What scratch beyond the bytes kept holds after a resume: values that the spec leaves open. -/
def resumedScratch (d save : Nat) : AMap Byte :=
  ((List.range (65536 - save)).map (fun i => (save + i, (Config.freeWord (d + i)).setWidth 8))).filter (fun e => e.2 != 0)

theorem resumedScratch_above {d save : Nat} {e : Nat × Byte} (h : e ∈ resumedScratch d save) : save ≤ e.1 := by
  obtain ⟨i, -, rfl⟩ := List.mem_map.mp (List.mem_filter.mp h).1
  exact Nat.le_add_right save i

theorem threadResume_of_free {c : Core} {ctx num inst t : Nat} {v : SavedInst} {p : ProgRun}
    (saved : c.rasp.saved.find? (fun s => s.thread.ctx == ctx && s.thread.num == num && s.thread.inst == inst) = some v)
    (prog : (work? c ctx num).bind (·.prog) = some p) (later : v.tick < c.tick) (free : threadFree c (ctxPart c ctx) t = true) :
    threadResume ctx num inst t c =
      let c' := setThr (setScratch (c.drawN 65536).1 t
        { v.scratch with bytes := v.scratch.bytes ++ resumedScratch c.glb.draws p.saveBytes }) t v.thread
      { c' with rasp := { c'.rasp with saved := c.rasp.saved.filter (· != v) } } := by
  simp only [threadResume, saved, prog, Nat.not_le.mpr later, free, decide_false, Bool.not_true, Bool.or_self, Bool.false_eq_true, if_false]
  rfl

theorem stepLimit_of_unparked {m : M} {t : Nat} {th : Thread} (there : thr? m.core t = some th) (unparked : ∀ k, th.wait ≠ .parked k) :
    stepLimit t m = lateTrap m t (trapOf .stepLimit) := by
  simp only [stepLimit, there]

/-- A word that encodes no instruction traps with that word (R372). -/
theorem issueReserved_of_undecoded {m m' : M} {t w : Nat} {th : Thread} {p : ProgRun} (may : mayIssue m.core t = some (th, p))
    (inside : th.pc < p.codeBytes) (fetched : fetchWord (seenBy m th) t th p = (m', .word w)) (reserved : decodeRasp w = none)
    (runs : stays m' t) : issueReserved t w m = leftBy m th (takeTrap m' t w (trapOf .illegal)) := by
  obtain ⟨y, hy⟩ := Option.isSome_iff_exists.mp (show (thr? m'.core t).isSome = true from runs)
  simp only [issueReserved, issueWhen, may]
  rw [asThread_eq _ (mayIssue_thr may)]
  simp only [Nat.not_le.mpr inside, if_false, fetched, reserved, beq_self_eq_true, Bool.and_self, if_true, finishIssue, hy]

/-- Settles O15: each command's meaning in the case that its hypotheses choose. -/
theorem threadsAndTraps : Obligations.ThreadsAndTraps := by
  unfold Obligations.ThreadsAndTraps
  refine ⟨?start, ?resume, ?limit, ?reserved⟩
  case start =>
    intro s ctx num t w p serves work prog running started goes free plain left
    exact does_of_servedCore rfl serves (instanceStart_of_free work prog running started goes free plain left)
  case resume =>
    intro s ctx num inst t v p serves saved prog later free
    exact ⟨resumedScratch s.core.glb.draws p.saveBytes, fun e he => resumedScratch_above he, _, rfl,
      does_of_servedCore rfl serves (threadResume_of_free saved prog later free)⟩
  case limit =>
    intro s t th serves there unparked
    exact does_of_served rfl serves (stepLimit_of_unparked there unparked)
  case reserved =>
    intro s t w th p m serves may inside fetched reserved runs
    exact does_of_served rfl serves (issueReserved_of_undecoded may inside fetched reserved runs)

end Sys2Proof.Machine

/-! What sends packets leaves the pins alone, and no event stops a clock: the rules that start-up, resets and the pins need. -/

namespace Sys2Proof.Machine
open Sys2Proof

/-- A fold whose every step keeps a part of the state keeps it. -/
theorem foldl_keeps {σ β γ : Type} (part : σ → γ) {f : σ → β → σ} (h : ∀ c x, part (f c x) = part c) (l : List β) (c : σ) :
    part (l.foldl f c) = part c := by
  induction l generalizing c with
  | nil => rfl
  | cons x t ih => rw [List.foldl_cons, ih, h]

/-- Two effects on the chip are one. Proved by cases, so that `simp` rewrites with it and leaves no conversion to check. -/
theorem M.on_on (m : M) (f g : Core → Core) : (m.on f).on g = m.on (fun c => g (f c)) := by
  cases m; rfl

/-! ### Ports and sessions -/

@[simp] theorem noteQueue_pins (c : Core) (n : Nat) : (noteQueue c n).pins = c.pins := by
  unfold noteQueue; extract_lets; split
  · rw [Core.setFld_pins, Core.setFld_pins]
  · rw [Core.setFld_pins]
@[simp] theorem tagHead_pins (c : Core) (n flow s : Nat) : (tagHead c n flow s).pins = c.pins := by
  unfold tagHead; dsimp only; split <;> rw [setPort_pins]
@[simp] theorem startPort_pins (c : Core) (n : Nat) : (startPort c n).pins = c.pins := by
  unfold startPort
  dsimp only
  split
  · rfl
  · split
    · rw [noteQueue_pins, setPort_pins]
    · split
      · rw [Core.perf_pins, Core.draw_pins]
      · split
        · rfl
        · rw [noteQueue_pins, tagHead_pins, Core.rset_pins, setPort_pins]

@[simp] theorem enqueueFrame_pins (c : Core) (n : Nat) (f : EgFrame) : (enqueueFrame c n f).pins = c.pins := by
  unfold enqueueFrame
  extract_lets _ fresh
  rw [startPort_pins, noteQueue_pins]
  change (if fresh = true then _ else _ : Core).pins = _
  split
  · rw [tagHead_pins, setPort_pins]
  · rw [setPort_pins]

@[simp] theorem choosePath_pins (c : Core) (x : Session) (p : TxPkt) : (choosePath c x p).1.pins = c.pins := by
  have chosen (n : Nat) : (c.choose n).1.pins = c.pins := by unfold Core.choose; split <;> rfl
  unfold choosePath
  dsimp only
  split
  · rfl
  · rfl
  · exact chosen _

@[simp] theorem frameHead_pins (c : Core) (s : Nat) (x : Session) (a : Path) (cls slot : Nat) (first last : Bool) :
    (frameHead c s x a cls slot first last).1.pins = c.pins := rfl

@[simp] theorem transmit_pins (c : Core) (s : Nat) (t : TxMsg) (p : TxPkt) : (transmit c s t p).pins = c.pins := by
  unfold transmit
  split
  · rfl
  · next x _ =>
    have chosen := choosePath_pins c x p
    split
    · next h => rw [h] at chosen; exact chosen
    · next c1 i h =>
      rw [h] at chosen
      split
      · exact chosen
      · extract_lets
        rw [enqueueFrame_pins]
        split
        · rw [setSess_pins, frameHead_pins]; exact chosen
        · rw [Core.count_pins, setSess_pins, frameHead_pins]; exact chosen

@[simp] theorem creditStall_pins (c : Core) (x : Session) : (creditStall c x).pins = c.pins := by
  unfold creditStall; split
  · rw [Core.perf_pins, Core.draw_pins]
  · rfl

@[simp] theorem pumpPkts_pins (s : Nat) (l : List TxPkt) (c : Core) (stuck : List Nat) : (pumpPkts c s stuck l).pins = c.pins := by
  induction l generalizing c stuck with
  | nil => rfl
  | cons p t ih =>
    unfold pumpPkts
    split
    · exact ih _ _
    · extract_lets
      split
      · exact ih _ _
      · split
        · rw [ih, transmit_pins]
        · split
          · rw [ih, creditStall_pins]
          · exact ih _ _

@[simp] theorem pump_pins (c : Core) (s : Nat) : (pump c s).pins = c.pins := by
  unfold pump
  split
  · split
    · exact pumpPkts_pins _ _ _ _
    · rfl
  · rfl

@[simp] theorem pathDown_pins (c : Core) (s i : Nat) : (pathDown c s i).pins = c.pins := by
  unfold pathDown
  split
  · rfl
  · extract_lets
    split <;> rw [setSess_pins]

@[simp] theorem pathsDown_pins (c : Core) (n k : Nat) : (pathsDown c n k).pins = c.pins :=
  foldl_keeps Core.pins (fun _ _ => (pump_pins _ _).trans (pathDown_pins _ _ _)) _ c

/-! ### Links and routes -/

@[simp] theorem setLink_pins (c : Core) (n k : Nat) (up : Bool) : (setLink c n k up).pins = c.pins := by
  have linked : ([MAC_STATUS_LINK_UP, MAC_STATUS_FEC_LOCK, MAC_STATUS_AN_DONE].foldl (fun c f =>
      c.setFld (MAC_STATUS n) f (setBit (c.fld (MAC_STATUS n) f) k up)) c).pins = c.pins :=
    foldl_keeps Core.pins (fun _ _ => Core.setFld_pins _ _ _ _) _ c
  unfold setLink
  extract_lets
  split
  · rw [Core.setFld_pins]; exact linked
  · exact linked

@[simp] theorem measureLinks_pins (c : Core) (old ms : List (Nat × Nat)) : (measureLinks c old ms).pins = c.pins :=
  foldl_keeps Core.pins (fun _ _ => by split <;> rfl) _ c

@[simp] theorem drainCheck_pins (c : Core) : (drainCheck c).pins = c.pins := by
  unfold drainCheck
  extract_lets
  split
  · rfl
  · exact foldl_keeps Core.pins (fun _ _ => by split <;> rfl) _ _

@[simp] theorem applyRoutes_pins (c : Core) (version : Nat) (ms : List (Nat × Nat)) : (applyRoutes c version ms).pins = c.pins := by
  unfold applyRoutes
  extract_lets
  rw [drainCheck_pins, Core.count_pins, Core.setFld_pins, Core.setFld_pins, Core.setFld_pins, measureLinks_pins]

@[simp] theorem issueRoute_pins (c : Core) (ms : List (Nat × Nat)) : (issueRoute c ms).pins = c.pins := by
  unfold issueRoute
  extract_lets
  exact (foldl_keeps Core.pins (fun _ _ => Core.send_pins _ _) _ _).trans (applyRoutes_pins _ _ _)

/-! ### Events -/

/-- A part of the chip that no event reaches: events write registers, the log and what is in handling, control words, the pair's last
bad tick and FAULT_N alone. -/
def EventsKeep {γ : Type} (part : Core → γ) : Prop :=
  ∀ (c : Core) (r : AMap W64) (g : GlbSt) (v : MemSt) (q : PairSt) (f : Bool),
    part { c with regs := r, glb := g, mem := v, pair := q, pins := { c.pins with fault := f } } = part c

section
variable {γ : Type} {part : Core → γ} (keep : EventsKeep part)
include keep

theorem EventsKeep.setFld (c : Core) (a : Nat) (f : Fld) (v : Nat) : part (c.setFld a f v) = part c :=
  keep c (c.setFld a f v).regs c.glb c.mem c.pair c.pins.fault

theorem EventsKeep.count (c : Core) (a n : Nat) : part (c.count a n) = part c :=
  keep c (c.count a n).regs c.glb c.mem c.pair c.pins.fault

theorem EventsKeep.glb (c : Core) (g : GlbSt) : part { c with glb := g } = part c := keep c c.regs g c.mem c.pair c.pins.fault
theorem EventsKeep.mem (c : Core) (v : MemSt) : part { c with mem := v } = part c := keep c c.regs c.glb v c.pair c.pins.fault
theorem EventsKeep.pair (c : Core) (q : PairSt) : part { c with pair := q } = part c := keep c c.regs c.glb c.mem q c.pins.fault

theorem EventsKeep.struck (c : Core) (p : Nat) : part (Machine.struck c p).1 = part c := by
  unfold Machine.struck
  split
  · extract_lets
    split
    split
    · rw [keep.setFld]
    · rw [keep.setFld]
    · rw [keep.count, keep.setFld]
    · rw [keep.setFld]
  · rfl

theorem EventsKeep.wroteCtrl (p : Nat) (w : CtrlWord) (c : Core) : part (Machine.wroteCtrl p w c) = part c := by
  have mended : part (ctrlMend c w) = part c := by
    unfold ctrlMend
    split
    · exact keep.mem _ _
    · rfl
  have hit := (keep.struck (ctrlMend c w) p).trans mended
  unfold Machine.wroteCtrl
  split
  · next h => rw [h] at hit; exact hit
  · next h => rw [h] at hit; exact (keep.mem _ _).trans hit

theorem EventsKeep.logEntry (c : Core) (code sev : Nat) (esc : Bool) (kind unit cnt detail : Nat) :
    part (Machine.logEntry c code sev esc kind unit cnt detail) = part c := by
  unfold Machine.logEntry
  extract_lets _ i lost
  have kept : part lost = part c := by
    change part (match amGet? c.glb.log i with | some old => if old.read then c else _ | none => c) = _
    split
    · split
      · rfl
      · rw [keep.setFld, keep.count]
    · rfl
  rw [keep.count, keep.count, keep.wroteCtrl]
  exact (keep.glb _ _).trans kept

theorem EventsKeep.fatal (c : Core) (code kind unit : Nat) : part (Machine.fatal c code kind unit) = part c := by
  unfold Machine.fatal
  extract_lets _ c1 c2 c3 c4 c5 c6 c7 _ c8
  have k1 : part c1 = part c := keep.setFld _ _ _ _
  clear_value c1
  have k2 : part c2 = part c := (keep.setFld _ _ _ _).trans k1
  clear_value c2
  have k3 : part c3 = part c := (keep.setFld _ _ _ _).trans k2
  clear_value c3
  have k4 : part c4 = part c := (keep.setFld _ _ _ _).trans k3
  clear_value c4
  have k5 : part c5 = part c := (keep.setFld _ _ _ _).trans k4
  clear_value c5
  have k6 : part c6 = part c := (keep.setFld _ _ _ _).trans k5
  clear_value c6
  have k7 : part c7 = part c := (keep.setFld _ _ _ _).trans k6
  clear_value c7
  have k8 : part c8 = part c := (keep.glb _ _).trans k7
  split
  · exact (keep c8 c8.regs _ c8.mem c8.pair true).trans k8
  · exact k8

theorem EventsKeep.raise (c : Core) (e : Ev) (kind unit detail cnt : Nat) (hold : Option Nat) :
    part (Machine.raise c e kind unit detail cnt hold) = part c := by
  unfold Machine.raise
  extract_lets isErr
  split
  next sev esc act _ =>
  extract_lets c1 _ c2 _ c3
  have logged : part c1 = part c := keep.logEntry _ _ _ _ _ _ _ _
  have noted : part c2 = part c := by
    change part (if 1 ≤ sev then _ else c1) = _
    split
    · exact (keep.pair _ _).trans logged
    · exact logged
  have held : part c3 = part c := by
    change part (match hold with | some k => if isErr && sev != 0 then _ else c2 | none => c2) = _
    split
    · split
      · exact (keep.glb _ _).trans noted
      · exact noted
    · exact noted
  split
  · rw [keep.fatal]
    exact (keep.glb _ _).trans held
  · split
    · exact (keep.glb _ _).trans held
    · exact held

end

theorem raise_stoppedClocks (c : Core) (e : Ev) (kind unit detail cnt : Nat) (hold : Option Nat) :
    (raise c e kind unit detail cnt hold).pins.stoppedClocks = c.pins.stoppedClocks :=
  EventsKeep.raise (part := fun c => c.pins.stoppedClocks) (fun _ _ _ _ _ _ => rfl) c e kind unit detail cnt hold

@[simp] theorem raise_tck (c : Core) (e : Ev) (kind unit detail cnt : Nat) (hold : Option Nat) :
    (raise c e kind unit detail cnt hold).tck = c.tck := EventsKeep.raise (fun _ _ _ _ _ _ => rfl) c e kind unit detail cnt hold

theorem linkDownCmd_stoppedClocks (n k time : Nat) (c : Core) :
    (linkDownCmd n k time c).pins.stoppedClocks = c.pins.stoppedClocks := by
  unfold linkDownCmd
  extract_lets c1 _ c2 _ c3 side c4 c5
  split
  · rfl
  · have down : c2.pins = c.pins := (pathsDown_pins _ _ _).trans (setLink_pins _ _ _ _)
    have raised : c5.pins.stoppedClocks = c.pins.stoppedClocks := by
      rw [raise_stoppedClocks]
      change (if side.all _ then _ else c3 : Core).pins.stoppedClocks = _
      split
      · rw [Core.setFld_pins]; exact congrArg PinSt.stoppedClocks down
      · exact congrArg PinSt.stoppedClocks down
    split
    · rw [down]
    · split
      · rw [issueRoute_pins]; exact raised
      · exact raised

end Sys2Proof.Machine

/-! Start-up, resets, recovery, pins and test access (chapters 18, 19, 21): what each meaning comes to in the case that its conditions
choose, and the statements. -/

namespace Sys2Proof.Machine
open Sys2Proof

/-! ### Steps of start-up (R652 to R661) -/

theorem powerOn_of_off {c : Core} (off : c.pins.pwrGood = false) : powerOn c = startCore resetRegs c.sec.fuses c.boot.flash { c.pins with
    pwrGood := true, tickOut := false, fault := false, thermAlert := false, thermTrip := false, stoppedClocks := [],
    ringRole := c.pins.ringRolePin, i2cAddr := c.pins.i2cAddrPin, pairRole := c.pins.pairRolePin } 0 c.glb.draws := by
  rw [powerOn, off]; rfl

theorem resetRelease_of_asserted {c : Core} (time : Nat) (h : c.pins.resetAsserted = true) : resetRelease time c = { c with
    glb := { c.glb with now := max c.glb.now time }, pins := { c.pins with resetAsserted := false },
    boot := { c.boot with start := max c.glb.now time } } := by
  rw [resetRelease, h]; rfl

theorem bootRomStart_of_due {c : Core} {time : Nat} (step : atStep c 0 = true) (due : c.boot.start + 50000 ≤ time) :
    bootRomStart time c =
      let d := ((List.range 6).foldl (fun c i => c.rset (SEC_M_ROM i) (Config.romDigest i)) (endStep c 1 time)).draw
      modSec d.1 (fun x => { x with kemKey := d.2 }) := by
  simp only [bootRomStart, step, Nat.not_lt.mpr due, decide_false, Bool.not_true, Bool.or_self, Bool.false_eq_true, if_false]

/-- No register write changes what the flash reads. -/
theorem flashBytes_setFld (c : Core) (r : Nat) (f : Fld) (v a n : Nat) : flashBytes (c.setFld r f v) a n = flashBytes c a n := by
  simp only [flashBytes, flashByte, Core.setFld_boot]

section
variable {c x : Core} {time : Nat} (step : atStep c 1 = true) (ends : endStep c 2 time = x)
include step ends

theorem flashHeaderCheck_of_good (good : hdrOk x = true) : flashHeaderCheck time c =
    modBoot (((x.setFld BOOT_FLASH BOOT_FLASH_CLOCK_MHZ (readHdr x).clockMhz).setFld BOOT_FLASH
      BOOT_FLASH_FLASH_MIB (readHdr x).mib).setFld BOOT_FLASH BOOT_FLASH_LANES ((readHdr x).flags % 4)) (fun b =>
        { b with hdr := some (readHdr x), image := flashBytes x (readHdr x).imageOff ((readHdr x).imageLen - envBytes) }) := by
  simp only [flashHeaderCheck, step, ends, good, Bool.not_true, Bool.false_eq_true, if_false, flashBytes_setFld]

theorem flashHeaderCheck_of_bad (bad : hdrOk x = false) : flashHeaderCheck time c = enterRecovery x .bootHeaderBad := by
  simp only [flashHeaderCheck, step, ends, bad, Bool.not_true, Bool.false_eq_true, if_false, Bool.not_false, if_true]

end

section
variable {c x : Core} {h : FlashHdr} {a b d e : Bool} {time : Nat} (hdr : c.boot.hdr = some h) (step : atStep c 2 = true)
  (ends : endStep c 3 time = x)
include hdr step ends

theorem signedObjectVerify_of_good {kh : Nat} (owner : x.sec.fuses.ownerKh = some kh)
    (image : objectOk x h.imageOff h.imageLen 1 x.sec.fuses.vendorKh true a b = true)
    (config : objectOk x h.configOff h.configLen 2 kh false d e = true) : signedObjectVerify a b d e time c =
      (setDigest (setDigest x SEC_M_IMAGE (flashNat x (envAt h.imageOff h.imageLen + 0x10) 48)) SEC_M_CONFIG
        (flashNat x (envAt h.configOff h.configLen + 0x10) 48)).setFld SEC_SVN SEC_SVN_IMAGE
        (flashNat (setDigest (setDigest x SEC_M_IMAGE (flashNat x (envAt h.imageOff h.imageLen + 0x10) 48)) SEC_M_CONFIG
          (flashNat x (envAt h.configOff h.configLen + 0x10) 48)) (envAt h.imageOff h.imageLen + 8) 4) := by
  simp only [signedObjectVerify, hdr, step, ends, image, owner, config, Bool.not_true, Bool.false_eq_true, if_false]
  rfl

theorem signedObjectVerify_of_badImage (image : objectOk x h.imageOff h.imageLen 1 x.sec.fuses.vendorKh true a b = false) :
    signedObjectVerify a b d e time c = enterRecovery x .bootSignatureBad := by
  simp only [signedObjectVerify, hdr, step, ends, image, Bool.not_true, Bool.false_eq_true, if_false, Bool.not_false, if_true]

theorem signedObjectVerify_of_noOwner (image : objectOk x h.imageOff h.imageLen 1 x.sec.fuses.vendorKh true a b = true)
    (owner : x.sec.fuses.ownerKh = none) : signedObjectVerify a b d e time c = enterRecovery x .bootOwnerBlank := by
  simp only [signedObjectVerify, hdr, step, ends, image, owner, Bool.not_true, Bool.false_eq_true, if_false]

end

/-- An object whose signature does not verify is bad, whatever its bytes. -/
theorem objectOk_of_unverified {a b : Bool} (c : Core) (off len kind kh : Nat) (svn : Bool) (bad : a = false ∨ b = false) :
    objectOk c off len kind kh svn a b = false := by
  unfold objectOk
  extract_lets
  rcases bad with rfl | rfl
  · rw [Bool.and_false, Bool.false_and, Bool.false_and]
  · rw [Bool.and_false, Bool.false_and]

section
variable {m : M} {x : Core} {h : FlashHdr} {d : ConfigDef} {time : Nat} (hdr : m.core.boot.hdr = some h)
  (step : atStep m.core 3 = true) (ends : endStep m.core 4 time = x)
include hdr step ends

theorem configurationApply_of_good (whole : configWhole x h d = true) (range : cfgRange d = true) (apart : partsApart d = true) :
    configurationApply d time m = { core := applyConfig x d, mem := m.mem } := by
  simp only [configurationApply, hdr, step, M.on, ends, whole, range, apart, Bool.not_true, Bool.false_eq_true, Bool.or_self, if_false]

theorem configurationApply_of_shared (shared : partsApart d = false) :
    configurationApply d time m = { core := enterRecovery x .bootConfigBad, mem := m.mem } := by
  simp only [configurationApply, hdr, step, M.on, ends, shared, Bool.not_true, Bool.false_eq_true, if_false, Bool.not_false,
    Bool.or_true, if_true]

end

theorem stackTrainingEnd_of_unfilled {c : Core} {failed : List Nat} {time : Nat} (step : atStep (c.at time) 4 = true)
    (unfilled : c.fld ECC_STATUS ECC_STATUS_FILL = 0) : stackTrainingEnd failed time c =
      let x := (List.range 16).foldl (fun c n => if failed.contains n then stackFailed (raise c .memTrainFailed 2 n) n
        else c.setFld (stackReg MEM_STATUS n) MEM_STATUS_STATE 2) (c.at time)
      { x with mem := { x.mem with unfilled := (List.range 16).filter (fun n => !failed.contains n) } }.setFld
        ECC_STATUS ECC_STATUS_FILL 1 := by
  have plain : (c.at time).fld ECC_STATUS ECC_STATUS_FILL = 0 := unfilled
  simp only [stackTrainingEnd, step, plain, ne_eq, not_true_eq_false, decide_false, Bool.not_true, Bool.or_self, Bool.false_eq_true,
    if_false]

/-- The fill clears stacks of the memory and leaves the chip alone. -/
theorem clearStacks_eq (l : List Nat) (m : M) :
    l.foldl (fun (m : M) n => { m with mem := m.mem.clear (n * 2 ^ 32) ((n + 1) * 2 ^ 32) }) m =
      { core := m.core, mem := l.foldl (fun (m : Mem) n => m.clear (n * 2 ^ 32) ((n + 1) * 2 ^ 32)) m.mem } := by
  induction l generalizing m with
  | nil => rfl
  | cons n t ih => rw [List.foldl_cons, ih, List.foldl_cons]

/-- No register lies in the part of the stacks. -/
theorem fld_mem (c : Core) (v : MemSt) (r : Nat) (f : Fld) : ({ c with mem := v } : Core).fld r f = c.fld r f := rfl

theorem fillDone_of_filled {m : M} {x : Core} {time : Nat} (step : atStep (m.core.at time) 4 = true)
    (filled : m.core.fld ECC_STATUS ECC_STATUS_FILL = 1)
    (ends : endStep ((m.core.at time).setFld ECC_STATUS ECC_STATUS_FILL 2) 5 time = x) : fillDone time m =
      { core := opTarget { x with mem := { x.mem with
          unfilled := [], scrub := (List.range 512).map (fun k => (k, (⟨0, x.glb.now⟩ : ScrubSt))) } }
          (x.fld BOOT_CFG BOOT_CFG_START_OP),
        mem := m.core.mem.unfilled.foldl (fun (m : Mem) n => m.clear (n * 2 ^ 32) ((n + 1) * 2 ^ 32)) m.mem } := by
  have plain : (m.core.at time).fld ECC_STATUS ECC_STATUS_FILL = 1 := filled
  unfold fillDone
  simp only [M.on, step, plain, clearStacks_eq, ends, Core.at_mem, fld_mem, ne_eq, not_true_eq_false, decide_false, Bool.not_true,
    Bool.or_self, Bool.false_eq_true, if_false]

theorem startProgramsPlaced_of_ready {m : M} {time : Nat} (step : atStep m.core 6 = true)
    (filled : m.core.fld ECC_STATUS ECC_STATUS_FILL = 2) (still : m.core.flag PWR_OP PWR_OP_BUSY = false)
    (enough : minimumSet m.core = true) : startProgramsPlaced time m =
      ((List.range 68).foldl applyDomain m).on (fun c => becomeReady (endStep c 7 time)) := by
  simp only [startProgramsPlaced, step, filled, still, enough, ne_eq, not_true_eq_false, decide_false, Bool.not_true, Bool.or_self,
    Bool.false_eq_true, if_false]

theorem bootLoaderHalt_of_loading {c : Core} (on : powered c = true) (runs : c.glb.atelier ≠ .restarting)
    (loads : bootStage c = 2 ∨ bootStage c = 6) : bootLoaderHalt c =
      if (c.satFld BOOT_STATUS BOOT_STATUS_LOAD_TRIES).fld BOOT_STATUS BOOT_STATUS_LOAD_TRIES = 2 then
        enterRecovery (c.satFld BOOT_STATUS BOOT_STATUS_LOAD_TRIES) .bootLoadPoison
      else c.satFld BOOT_STATUS BOOT_STATUS_LOAD_TRIES := by
  have loading : (bootStage c == 2 || bootStage c == 6) = true := by simpa using loads
  simp only [bootLoaderHalt, on, beq_eq_false_iff_ne.mpr runs, loading, Bool.not_true, Bool.false_eq_true, if_false]

/-! ### Resets and recovery (R652, R653, R661 to R663, R677) -/

theorem powerOff_of_on {c : Core} (on : c.pins.pwrGood = true) : powerOff c =
    startCore resetRegs c.sec.fuses c.boot.flash { c.pins with
      pwrGood := false, tickOut := false, fault := false, thermAlert := false, alerting := [] } c.glb.now c.glb.draws := by
  simp only [powerOff, on, powerLost, setKeyOut, Core.setFld_pins, Core.setFld_sec, Core.setFld_boot, Core.setFld_glb, Bool.not_true,
    Bool.false_eq_true, if_false]

theorem resetPin_of_running {c : Core} (on : c.pins.pwrGood = true) (released : c.pins.resetAsserted = false)
    (cool : c.pins.thermTrip = false) : resetPin c = warmReset c 1 := by
  simp only [resetPin, on, released, cool, Bool.not_true, Bool.or_self, Bool.false_eq_true, if_false]

/-- What a warm reset hands to the new state, by its cause. -/
theorem warmReset_eq (c : Core) (cause : Nat) : warmReset c cause = startCore
    ((stickyOf ((c.satFld BOOT_CAUSE BOOT_CAUSE_WARM_COUNT).setFld BOOT_CAUSE BOOT_CAUSE_F cause)).foldl
      (fun r x => if x.2 = 0 then r else amSet r x.1 x.2) resetRegs) c.sec.fuses c.boot.flash { c.pins with
        tickOut := false, fault := false, ringRole := c.pins.ringRolePin, i2cAddr := c.pins.i2cAddrPin,
        pairRole := c.pins.pairRolePin, resetAsserted := cause == 1 } c.glb.now c.glb.draws := by
  unfold warmReset
  generalize counted : (c.satFld BOOT_CAUSE BOOT_CAUSE_WARM_COUNT).setFld BOOT_CAUSE BOOT_CAUSE_F cause = x
  have pins : x.pins = c.pins := by rw [← counted, Core.setFld_pins, Core.satFld_pins]
  have sec : x.sec = c.sec := by rw [← counted, Core.setFld_sec, Core.satFld_sec]
  have boot : x.boot = c.boot := by rw [← counted, Core.setFld_boot, Core.satFld_boot]
  have glb : x.glb = c.glb := by rw [← counted, Core.setFld_glb, Core.satFld_glb]
  simp only [pins, sec, boot, glb]

theorem imageWrite_of_sector {m : M} {off : Nat} {data : List Byte} (aligned : off % 4096 = 0)
    (inside : off + 4096 ≤ flashSize m.core) (whole : data.length = 4096) : imageWrite off data m =
      (m.on (fun c => (programSector c off data).count BOOT_IMAGE_WRITES), .accepted, []) :=
  checked_pass (by simp [aligned, inside, whole])

theorem imageRead_of_sector {m : M} {off : Nat} (aligned : off % 4096 = 0) (inside : off + 4096 ≤ flashSize m.core) :
    imageRead off m = (m, .accepted, (flashBytes m.core off 4096).map (·.toNat)) :=
  checked_pass (by simp [aligned, inside])

theorem neighborDiscovery_of_loader {c : Core} (on : powered c = true) (recovering : bootStage c = 9) :
    neighborDiscovery (loaderIp c) c = { c with boot := { c.boot with sbSent := [136, loaderIp c, loaderMac c] } } := by
  simp only [neighborDiscovery, on, recovering, stRecovery, beq_self_eq_true, Bool.and_self, if_true]
  rfl

/-! ### Test access, temperature, clocks, the atelier and the pair links (R20 to R24, R630, R664, R716 to R720) -/

theorem setJtag_of_on {c : Core} (on : c.pins.pwrGood = true) (i d : Nat) :
    setJtag c i d = { c with boot := { c.boot with jtag := i, jtagData := d } } := if_pos on

theorem jtagSample_of_on {c : Core} (on : c.pins.pwrGood = true) (cells : List Bool) : jtagSample cells c =
    { c with boot := { c.boot with jtag := 2, jtagData := packBits (outPads c ++ inPads c), extest := cells } } := by
  simp only [jtagSample, on, setJtag_of_on, Bool.not_true, Bool.false_eq_true, if_false]

section
variable {c : Core} {n temp : Nat} (sensor : n < 64) (on : c.pins.pwrGood = true) (cool : c.pins.thermTrip = false)
include sensor on cool

theorem thermAlert_of_hot (hot : alertAt n ≤ temp) (below : temp < tripAt n) : thermAlert n temp c = { c with pins := { c.pins with
    thermAlert := true, alerting := n :: c.pins.alerting.filter (· != n) } } := by
  simp only [thermAlert, on, cool, Nat.not_le.mpr sensor, show alertAt n < temp + 5 by omega, hot, Nat.not_le.mpr below, decide_false,
    Bool.not_true, Bool.or_self, Bool.false_eq_true, if_false, if_true]

theorem thermAlert_of_cooled (cooled : temp + 5 ≤ alertAt n) (last : c.pins.alerting.filter (· != n) = []) :
    thermAlert n temp c = { c with pins := { c.pins with thermAlert := false, alerting := [] } } := by
  have below : temp < tripAt n := by unfold tripAt; unfold alertAt at cooled; split at cooled <;> simp only [*, if_true, if_false] <;> omega
  simp only [thermAlert, on, cool, Nat.not_le.mpr sensor, Nat.not_lt.mpr cooled, show ¬alertAt n ≤ temp by omega, last,
    Nat.not_le.mpr below, decide_false, Bool.not_true, Bool.or_self, Bool.false_eq_true, if_false, if_true]

theorem thermTrip_of_on : thermTrip n c =
    { setKeyOut (c.setFld RING_STATUS RING_STATUS_BYPASS 3) false with pins := { c.pins with thermTrip := true } } := by
  simp only [thermTrip, on, cool, Nat.not_le.mpr sensor, decide_false, Bool.not_true, Bool.or_self, Bool.false_eq_true, if_false,
    setKeyOut, Core.setFld_pins]

end

/-- A reference clock that stops is listed, and nothing that follows lists or clears another. -/
theorem referenceClockStop_stoppedClocks {c : Core} {k : Nat} (clock : k < 5) (on : c.pins.pwrGood = true)
    (runs : c.pins.stoppedClocks.contains k = false) :
    (referenceClockStop k c).pins.stoppedClocks = k :: c.pins.stoppedClocks := by
  have portsDown (n : Nat) (c : Core) : ([0, 1, 2, 3].foldl (fun c i => linkDownCmd n i 0 c) c).pins.stoppedClocks =
      c.pins.stoppedClocks := foldl_keeps (fun c : Core => c.pins.stoppedClocks) (fun _ _ => linkDownCmd_stoppedClocks _ _ _ _) _ c
  simp only [referenceClockStop, Nat.not_le.mpr clock, on, runs, decide_false, Bool.not_true, Bool.or_self, Bool.false_eq_true, if_false]
  refine (foldl_keeps (fun c : Core => c.pins.stoppedClocks) (fun x n => ?_) _ _).trans rfl
  split
  · exact portsDown n x
  · rfl

theorem powered_of_sysref_stopped {c : Core} {l : List Nat} (h : c.pins.stoppedClocks = 0 :: l) : powered c = false := by
  simp [powered, h]

theorem powered_pins {c : Core} (h : powered c = true) : c.pins.pwrGood = true ∧ c.pins.thermTrip = false := by
  simp only [powered, Bool.and_eq_true, Bool.not_eq_true'] at h
  exact ⟨h.1.1.1.1, h.1.2⟩

theorem atelierWatchdog_of_first {c : Core} {time : Nat} (on : powered c = true) (runs : c.glb.atelier = .running)
    (first : soonAgain (c.at time) = false) :
    atelierWatchdog time c = restartAtelier (raise (c.at time) .atlWatchdog 14 0 0 1 (some 0)) := by
  have stillOn : powered (c.at time) = true := on
  have stillRuns : (c.at time).glb.atelier = .running := runs
  simp only [atelierWatchdog, stillOn, stillRuns, first, bne_self_eq_false, Bool.not_true, Bool.or_self, Bool.false_eq_true, if_false]

theorem atelierRestartEnd_of_measured {c : Core} {time : Nat} (on : powered c = true) (restarts : c.glb.atelier = .restarting) :
    atelierRestartEnd time ((List.range 6).map (fun i => c.rget (SEC_M_IMAGE i))) c = endHandling { c with glb := { c.glb with
      now := max c.glb.now time, atelier := .running, restartEnd := some (max c.glb.now time) } } 14 0 0 := by
  have stillOn : powered (c.at time) = true := on
  have stillRestarts : (c.at time).glb.atelier = .restarting := restarts
  simp only [atelierRestartEnd, stillOn, stillRestarts, rget_Core_at, bne_self_eq_false, Bool.not_true, Bool.or_self,
    Bool.false_eq_true, if_false]
  rfl

theorem pairLinkFailure_of_up {c : Core} {l : Nat} (on : powered c = true) (link : l < 6)
    (up : bitOf (c.fld GLB_FENCED GLB_FENCED_LINKS) l = false) : pairLinkFailure l c =
      raise (c.setFld GLB_FENCED GLB_FENCED_LINKS (c.fld GLB_FENCED GLB_FENCED_LINKS + 2 ^ l)) .armLinkFailed 6 l := by
  simp only [pairLinkFailure, fenceLink, on, Nat.not_le.mpr link, up, decide_false, Bool.not_true, Bool.or_self, Bool.false_eq_true,
    if_false]

/-! ### The statements -/

/-- Settles O16: each step begins at its command, in the case that its stage chooses. -/
theorem startUpSteps : Obligations.StartUpSteps := by
  unfold Obligations.StartUpSteps
  refine ⟨?rise, ?release, ?rom, ?header, ?verify, ?config, ?training, ?fill, ?programs, ?halt⟩
  case rise => exact fun s off => doesTo_of_core rfl (powerOn_of_off off)
  case release => exact fun s time asserted => doesTo_of_core rfl (resetRelease_of_asserted time asserted)
  case rom => exact fun s time step due => ⟨_, doesTo_of_core rfl (bootRomStart_of_due step due)⟩
  case header =>
    intro s time c h step ends good header
    subst header
    exact doesTo_of_core rfl (flashHeaderCheck_of_good step ends.symm good)
  case verify =>
    intro s a b c d time h kh x hdr step ends owner image config
    exact doesTo_of_core rfl (signedObjectVerify_of_good hdr step ends.symm owner image config)
  case config =>
    intro s d time h c hdr step ends whole range apart
    exact does_of_run rfl (configurationApply_of_good (m := s.m) hdr step ends.symm whole range apart)
  case training => exact fun s failed time step unfilled => ⟨_, rfl, doesTo_of_core rfl (stackTrainingEnd_of_unfilled step unfilled)⟩
  case fill => exact fun s time step filled => ⟨_, rfl, does_of_run rfl (fillDone_of_filled (m := s.m) step filled rfl)⟩
  case programs =>
    exact fun s time step filled still enough => does_of_run rfl (startProgramsPlaced_of_ready (m := s.m) step filled still enough)
  case halt =>
    intro s on runs loads
    have meaning := bootLoaderHalt_of_loading on runs loads
    exact ⟨_, rfl, fun again => doesTo_of_core rfl (meaning.trans (if_pos again)),
      fun once => doesTo_of_core rfl (meaning.trans (if_neg once))⟩

/-- Settles O17: each check that fails enters recovery with its own event. -/
theorem badBootObjectsGoToRecovery : Obligations.BadBootObjectsGoToRecovery := by
  unfold Obligations.BadBootObjectsGoToRecovery
  refine ⟨?header, ?signature, ?owner, ?config⟩
  case header => exact fun s time step bad => doesTo_of_core rfl (flashHeaderCheck_of_bad step rfl bad)
  case signature =>
    intro s a b c d time h hdr step bad
    exact doesTo_of_core rfl (signedObjectVerify_of_badImage hdr step rfl (objectOk_of_unverified _ _ _ _ _ _ bad))
  case owner =>
    intro s a b c d time h x hdr step ends image blank
    exact doesTo_of_core rfl (signedObjectVerify_of_noOwner hdr step ends.symm image blank)
  case config =>
    intro s d time h hdr step shared
    exact does_of_run rfl (configurationApply_of_shared (m := s.m) hdr step rfl shared)

/-- Settles O18: a reset keeps what its meaning hands to the new state, and the loader serves what is whole and aligned. -/
theorem resetsAndRecovery : Obligations.ResetsAndRecovery := by
  unfold Obligations.ResetsAndRecovery
  refine ⟨?fall, ?warm, ?write, ?read, ?restart, ?discovery⟩
  case fall =>
    intro s on
    refine ⟨_, ?_, ?_, ?_, ?_, doesTo_of_core rfl (powerOff_of_on on)⟩ <;> rfl
  case warm =>
    intro s src on released cool
    exact ⟨_, _, _, rfl, rfl, rfl, does_of_run rfl (congrArg (fun c => ({ core := c, mem := s.mem } : M))
      ((resetPin_of_running on released cool).trans (warmReset_eq _ 1)))⟩
  case write =>
    intro s src off data m asks aligned inside whole
    exact does_of_run rfl (mgmt_accepted asks (imageWrite_of_sector aligned inside whole))
  case read =>
    intro s src off m asks aligned inside
    exact does_of_run rfl (mgmt_accepted asks (imageRead_of_sector aligned inside))
  case restart => exact fun s src m asks => does_of_run rfl (mgmt_accepted asks rfl)
  case discovery => exact fun s on recovering => doesTo_of_core rfl (neighborDiscovery_of_loader on recovering)

/-- Settles O19: each command's meaning while the chip has power, in the case that its conditions choose. -/
theorem pinsAndTestAccess : Obligations.PinsAndTestAccess := by
  unfold Obligations.PinsAndTestAccess
  refine ⟨?jtag, ?hot, ?cooled, ?trip, ?clock, ?watchdog, ?restarted, ?link⟩
  case jtag =>
    exact fun s on => ⟨doesTo_of_core rfl (setJtag_of_on on _ _), doesTo_of_core rfl (setJtag_of_on on _ _),
      doesTo_of_core rfl (setJtag_of_on on _ _), fun cells => doesTo_of_core rfl (jtagSample_of_on on cells)⟩
  case hot => exact fun s n temp sensor on cool hot below => doesTo_of_core rfl (thermAlert_of_hot sensor on cool hot below)
  case cooled => exact fun s n temp sensor on cool cooled last => doesTo_of_core rfl (thermAlert_of_cooled sensor on cool cooled last)
  case trip =>
    intro s n sensor on
    obtain ⟨good, cool⟩ := powered_pins on
    exact ⟨_, rfl, doesTo_of_core rfl ((if_pos on).trans (thermTrip_of_on sensor good cool))⟩
  case clock =>
    intro s on runs
    have listed := referenceClockStop_stoppedClocks (by decide) on runs
    exact ⟨_, doesTo_of_core rfl rfl, listed, powered_of_sysref_stopped listed⟩
  case watchdog => exact fun s time on runs first => doesTo_of_core rfl (atelierWatchdog_of_first on runs first)
  case restarted =>
    intro s time l on restarts measured
    subst measured
    exact doesTo_of_core rfl (atelierRestartEnd_of_measured on restarts)
  case link => exact fun s l on link up => doesTo_of_core rfl (pairLinkFailure_of_up on link up)

end Sys2Proof.Machine

/-! Register requests, what a register write stores, and I²C (chapter 20): what each meaning comes to in the case that its conditions
choose, and the statements. -/

namespace Sys2Proof.Machine
open Sys2Proof

/-! ### Requests (R687 to R690) -/

section
variable {s : State} {src : Src} {a w n : Nat} {m : M}

theorem readCmd_of_open {c : Core} {l : List W64} (asks : FmAsks mopRead src s m) (opened : regOpen m.core a w n = true)
    (good : regRefusal a w n = none) (reads : regReads m.core a w n = (c, l)) :
    readCmd src a w n s.m = accepted { m with core := c } src 0x0200 (l.map (·.toNat)) := by
  refine mgmt_accepted asks ?_
  simp only [opened, good, reads, Bool.not_true, Bool.false_eq_true, if_false, accept]

theorem readCmd_of_refused {k : MgmtCode} (asks : FmAsks mopRead src s m) (opened : regOpen m.core a w n = true)
    (bad : regRefusal a w n = some k) : readCmd src a w n s.m =
      m.on (fun c => mgmtReply (c.count GLB_REG_REFUSED) (realSrc src) 0x0200 k []) := by
  refine (mgmt_refused (m2 := m.on (fun c => c.count GLB_REG_REFUSED)) (k := k) asks ?_).trans rfl
  simp only [opened, bad, Bool.not_true, Bool.false_eq_true, if_false, regRefused]

/-- What a write of width `w` puts into a register. -/
def inWidth (w : Nat) (v : W64) : W64 := if w = 4 then v &&& 0xFFFFFFFF else v

section
variable {data : List W64} (asks : FmAsks mopWrite src s m) (good : regRefusal a w data.length = none)
include asks good

theorem writeCmd_of_taken (taken : writesRefused a w (data.map (inWidth w)) m = none) :
    writeCmd src a w data s.m = accepted (regWrites a w (data.map (inWidth w)) m) src 0x0201 := by
  refine mgmt_accepted asks ?_
  rw [← show data.map (inWidth w) = data.map (fun v => if w = 4 then v &&& 0xFFFFFFFF else v) from rfl]
  simp only [good, taken, accept]

theorem writeCmd_of_refused {k : MgmtCode} (refused : writesRefused a w (data.map (inWidth w)) m = some k) :
    writeCmd src a w data s.m = (regWrites a w (data.map (inWidth w)) m).on (fun c => mgmtReply c (realSrc src) 0x0201 k []) := by
  refine mgmt_refused asks ?_
  rw [← show data.map (inWidth w) = data.map (fun v => if w = 4 then v &&& 0xFFFFFFFF else v) from rfl]
  simp only [good, refused]

end

/-- Only the power domains' registers refuse a write. -/
theorem writesRefused_elsewhere (v : W64) (m : M) (h : a < PWR_DOMAIN 0 ∨ PWR_DOMAIN 68 ≤ a) : writesRefused a w [v] m = none := by
  have outside : (decide (PWR_DOMAIN 0 ≤ a) && decide (a < PWR_DOMAIN 68) && a % 4 == 0) = false := by
    rcases h with h | h
    · simp [Nat.not_le.mpr h]
    · simp [Nat.not_lt.mpr h]
  simp only [writesRefused, outside, Bool.false_eq_true, if_false, Option.orElse_eq_orElse, Option.orElse_none]

/-- One register elsewhere is written. -/
theorem writeCmd_elsewhere (v : W64) (asks : FmAsks mopWrite src s m) (good : regRefusal a w 1 = none)
    (h : a < PWR_DOMAIN 0 ∨ PWR_DOMAIN 68 ≤ a) :
    writeCmd src a w [v] s.m = accepted (regWrite a (inWidth w v) m) src 0x0201 :=
  writeCmd_of_taken asks good (writesRefused_elsewhere _ m h)

end

/-- A 32-bit value is what it is in its width. -/
theorem inWidth_setWidth (v : W32) : inWidth 4 (v.setWidth 64) = v.setWidth 64 := by
  rw [inWidth, if_pos rfl]
  apply BitVec.eq_of_toNat_eq
  rw [BitVec.toNat_and, show (0xFFFFFFFF : W64).toNat = 2 ^ 32 - 1 from rfl, Nat.and_two_pow_sub_one_eq_mod, BitVec.toNat_setWidth]
  omega

theorem inWidth_four (v : W64) : inWidth 4 v = v &&& 0xFFFFFFFF := if_pos rfl

/-- A register is read alone. -/
theorem regReads_one {c d : Core} {a w : Nat} {v : W64} (h : regRead c a w = (d, v)) : regReads c a w 1 = (d, [v]) := by
  simp only [regReads, h]

/-- Every word of an entry of the event log is read whole. -/
theorem regRefusal_entry {i : Nat} (h : i < 4096) : regRefusal (0xE0000 + 32 * i) 8 4 = none := by
  have logged : ∀ b ∈ (List.range 4).map (fun j => 0xE0000 + 32 * i + 8 * j), inLog b = true := by
    simp only [List.mem_map, List.mem_range, forall_exists_index, and_imp, forall_apply_eq_imp_iff₂, inLog, Bool.and_eq_true,
      decide_eq_true_eq]
    omega
  have fit : ((List.range 4).map (fun j => 0xE0000 + 32 * i + 8 * j)).all (fun b => widthFits b 8) = true :=
    List.all_eq_true.mpr (fun b hb => by simp only [widthFits, logged b hb, if_true])
  have there : ((List.range 4).map (fun j => 0xE0000 + 32 * i + 8 * j)).all mapped = true :=
    List.all_eq_true.mpr (fun b hb => by simp only [mapped, logged b hb, Bool.or_true, Bool.true_or])
  have aligned : (0xE0000 + 32 * i) % 8 = 0 := by omega
  simp only [regRefusal, fit, there, aligned]
  rfl

/-- Settles O23: every command is a read or a write of registers, in their order, and only a power domain's register refuses. -/
theorem registerRequests : Obligations.RegisterRequests := by
  unfold Obligations.RegisterRequests
  refine ⟨?read, ?refused, ?write, ?clear, ?entry, ?bit, ?inject, ?codebook, ?point, ?train⟩
  case read => exact fun s src a w n m c l asks opened good reads => does_of_run rfl (readCmd_of_open asks opened good reads)
  case refused => exact fun s src a w n m k asks opened bad => does_of_run rfl (readCmd_of_refused asks opened bad)
  case write =>
    intro s src a w data m asks good l written
    subst written
    exact ⟨fun taken => does_of_run rfl (writeCmd_of_taken asks good taken),
      fun k refused => does_of_run rfl (writeCmd_of_refused asks good refused)⟩
  case clear =>
    intro s src a r m c v asks row opened good reads
    refine does_of_run rfl (?_ : readOne src a s.m = _)
    rw [readOne, row]
    exact readCmd_of_open asks opened good (regReads_one reads)
  case entry =>
    intro s src i m c l asks inside opened reads
    exact does_of_run rfl (readCmd_of_open asks opened (regRefusal_entry inside) reads)
  case bit =>
    intro cmd a f isBit s src m v asks good value taken
    subst value
    have meaning : writeBit src a f s.m = _ := writeCmd_of_taken (a := a) (w := 4) asks good taken
    rcases isBit with h | ⟨n, _, h⟩ | ⟨d, _, h⟩
    · simp only [List.mem_cons, Prod.mk.injEq, List.not_mem_nil, or_false] at h
      rcases h with ⟨rfl, rfl, rfl⟩ | ⟨rfl, rfl, rfl⟩ | ⟨rfl, rfl, rfl⟩ | ⟨rfl, rfl, rfl⟩ | ⟨rfl, rfl, rfl⟩ <;>
        exact does_of_run rfl meaning
    · simp only [List.mem_cons, Prod.mk.injEq, List.not_mem_nil, or_false] at h
      rcases h with ⟨rfl, rfl, rfl⟩ | ⟨rfl, rfl, rfl⟩ | ⟨rfl, rfl, rfl⟩ | ⟨rfl, rfl, rfl⟩ <;> exact does_of_run rfl meaning
    · obtain ⟨rfl, rfl, rfl⟩ : _ ∧ _ ∧ _ := by simpa only [Prod.mk.injEq] using h
      exact does_of_run rfl meaning
  case inject =>
    exact fun s src code kind unit m asks good => does_of_run rfl (writeCmd_elsewhere _ asks good (.inr (by decide)))
  case codebook =>
    intro s src b r v m asks good
    have meaning := writeCmd_elsewhere (v.setWidth 64) asks good (.inr (show 0x30100 + 0x4 * 68 ≤ 0xA8000 + 0x20 * b + 0x4 * r by omega))
    rw [inWidth_setWidth] at meaning
    exact does_of_run rfl meaning
  case point =>
    intro s src target m asks good
    have meaning := writeCmd_elsewhere (BitVec.ofNat 64 (setBits (regView s.core PWR_OP).toNat PWR_OP_TARGET.hi PWR_OP_TARGET.lo
      target)) asks good (.inl (by decide))
    rw [inWidth_four] at meaning
    exact does_of_run (f := fun m => writeCmd src PWR_OP 4 [BitVec.ofNat 64 (setBits (regView m.core PWR_OP).toNat PWR_OP_TARGET.hi
      PWR_OP_TARGET.lo target)] m) rfl meaning
  case train =>
    intro s src n pc m asks good
    have meaning := writeCmd_elsewhere (BitVec.ofNat 64 (setBits (setBits (regView s.core (stackReg MEM_TRAIN n)).toNat
      MEM_TRAIN_TARGET_PC.hi MEM_TRAIN_TARGET_PC.lo pc) MEM_TRAIN_NOW.hi MEM_TRAIN_NOW.lo 1)) asks good
      (.inr (show 0x30100 + 0x4 * 68 ≤ 0x10000C + 0x40000 * (n / 4) + 0x4000 * (n % 4) by omega))
    rw [inWidth_four] at meaning
    exact does_of_run (f := fun m => writeCmd src (stackReg MEM_TRAIN n) 4 [BitVec.ofNat 64 (setBits (setBits (regView m.core
      (stackReg MEM_TRAIN n)).toNat MEM_TRAIN_TARGET_PC.hi MEM_TRAIN_TARGET_PC.lo pc) MEM_TRAIN_NOW.hi MEM_TRAIN_NOW.lo 1)] m) rfl meaning

/-! ### What a write stores -/

/-- A chip whose GLB_SCRATCH holds a bit above its 32: no write of the field clears it. -/
def scratchAbove : M := { core := State.reset.core.rset GLB_SCRATCH 0x10000000000, mem := { cells := [], delta := [] } }

/-- Refutes O24: a write stores the field of GLB_SCRATCH and keeps the bits above it, so where one of those is set, the register does
not hold the 32 bits written alone. -/
theorem not_registerWriteStores : ¬ Obligations.RegisterWriteStores := by
  unfold Obligations.RegisterWriteStores
  rintro ⟨-, scratch, -⟩
  have held := congrArg (fun m => m.core.rget GLB_SCRATCH) (scratch scratchAbove 5 (by decide))
  exact absurd held (by decide +kernel)

/-! ### I²C (R693) -/

theorem i2cRead_of_low {c d : Core} {v : W64} {r : RegRow} (answers : i2cAnswers c = true) (may : i2cMay c.glb.i2cPtr = true)
    (low : c.glb.i2cPtr % 8 = 0) (row : rowAt c.glb.i2cPtr = some r) (reads : regRead c c.glb.i2cPtr 4 = (d, v)) : i2cRead c =
      let e := if r.wide then { d with glb := { d.glb with i2cLatch := some (c.glb.i2cPtr + 4, v.toNat / 2 ^ 32) } } else d
      { e with glb := { e.glb with i2cPtr := c.glb.i2cPtr + 4, i2cData := v.toNat % 2 ^ 32 } } := by
  have notHigh : (decide (c.glb.i2cPtr % 8 = 4)) = false := by simp [low]
  simp only [i2cRead, answers, may, notHigh, row, reads, Bool.not_true, Bool.or_self, Bool.false_and, Bool.false_eq_true, if_false]

/-- Settles O25: a transaction that is answered moves the pointer, writes GLB_SCRATCH there, or reads four bytes there. -/
theorem i2cTransactions : Obligations.I2cTransactions := by
  unfold Obligations.I2cTransactions
  refine ⟨?pointer, ?scratch, ?read⟩
  case pointer =>
    intro s v answers cool may aligned
    refine does_of_run rfl ?_
    simp only [i2cWrite, answers, cool, may, aligned, Bool.not_true, Bool.or_self, Bool.false_eq_true, if_false,
      beq_self_eq_true, Bool.and_self, if_true]
    rfl
  case scratch =>
    intro s v answers cool there
    refine does_of_run rfl ?_
    simp only [i2cWrite, answers, cool, there, Bool.not_true, Bool.or_self, Bool.false_eq_true, if_false, if_true]
  case read =>
    intro s c v r answers may low row reads
    have meaning := i2cRead_of_low answers may low row reads
    refine ⟨fun slim => doesTo_of_core rfl ?_, fun wide => doesTo_of_core rfl ?_⟩
    · rw [meaning, slim]; rfl
    · rw [meaning, wide]; rfl

end Sys2Proof.Machine

/-! The tick's references, overruns and messages (chapter 2): what each meaning comes to in the case that its conditions choose, and the
statements. -/

namespace Sys2Proof.Machine
open Sys2Proof

/-- The step of hardware that runs whenever the chip does, on the chip alone. -/
theorem does_of_poweredCore {i : Instr} {s : State} {f : Core → Core} {c : Core} (h : exec i s = runPoweredCore f s)
    (on : powered s.core = true) (hf : f s.core = c) : doesTo i s c := by
  refine does_of_powered h on ?_
  rw [← hf]; rfl

/-! ### References and overruns (R52 to R54, R58, R64, R65) -/

theorem ppsEdge_of_aligned {c : Core} {time : Nat} (runs : ticking c = true) (source : tickSource c = 2) :
    ppsEdge time c = modTck (c.at time) (fun t => { t with grid := some (-(time : Int)), refLost := false }) := by
  have stillRuns : ticking (c.at time) = true := runs
  have stillSource : tickSource (c.at time) = 2 := source
  simp only [ppsEdge, stillRuns, stillSource, ne_eq, not_true_eq_false, decide_false, Bool.not_true, Bool.or_self, Bool.false_eq_true,
    if_false, takeReference]

theorem ptpMessage_of_aligned {c : Core} {port time : Nat} {p : PtpPkt} (runs : ticking c = true) (source : tickSource c = 3)
    (named : port = c.fld TCK_CONFIG TCK_CONFIG_PTP_PORT) (link : (List.range 4).any (linkUp (c.at time) port) = true) :
    ptpMessage port p time c = ptpTake p.msg (c.at time) := by
  have stillRuns : ticking (c.at time) = true := runs
  have stillSource : tickSource (c.at time) = 3 := source
  simp only [ptpMessage, stillRuns, stillSource, fld_Core_at, ← named, link, ne_eq, not_true_eq_false, decide_false, Bool.not_true,
    Bool.or_self, Bool.false_eq_true, if_false]

/-- A one-step Sync aligns the grid once the mean path delay is known. -/
theorem ptpTake_sync_grid {c : Core} {seq t : Nat} {d delay : Int} (known : c.tck.ptp.delay = some delay) :
    (ptpTake (.sync seq false t d) c).tck.grid = some ((t : Int) + d - c.glb.now + delay) ∧
      (ptpTake (.sync seq false t d) c).tck.refLost = false := by
  have whole : ptpTake (.sync seq false t d) c = ptpSync c ((t : Int) + d - c.glb.now) := rfl
  rw [whole]
  simp only [ptpSync, ptpSynced, modTck, Core.draw, known, takeReference, and_self]

theorem referenceLost_of_aligned {c : Core} (runs : ticking c = true) (master : isMaster c = true) (source : 2 ≤ tickSource c)
    (held : c.tck.refLost = false) :
    referenceLost c = raise (modTck c (fun t => { t with refLost := true })) .tickReferenceLost 0 0 := by
  simp only [referenceLost, runs, master, source, held, decide_true, Bool.not_false, Bool.and_self, if_true]

theorem overrunEscalated_of_third {c : Core} (third : c.fld TCK_OVERRUN TCK_OVERRUN_CONSECUTIVE = 3)
    (calm : c.flag TCK_OVERRUN TCK_OVERRUN_ESCALATED = false) :
    overrunEscalated c = (raise c .tickOverrunEscalated 0 0).setFld TCK_OVERRUN TCK_OVERRUN_ESCALATED 1 := by
  simp only [overrunEscalated, third, calm, decide_true, Bool.not_false, Bool.and_self, if_true]

theorem overrunCleared_of_clean {c : Core} (clean : 64 ≤ c.fld TCK_OVERRUN TCK_OVERRUN_CLEAN_TICKS)
    (escalated : c.flag TCK_OVERRUN TCK_OVERRUN_ESCALATED = true) :
    overrunCleared c = c.setFld TCK_OVERRUN TCK_OVERRUN_ESCALATED 0 := by
  simp only [overrunCleared, clean, escalated, decide_true, Bool.and_self, if_true]

/-- TCK_BUDGET1 is a register of 32 bits. -/
theorem regRefusal_budget1 : regRefusal TCK_BUDGET1 4 1 = none := by decide +kernel

/-- Settles O21: each command's meaning in the case that its conditions choose. -/
theorem tickReferencesAndOverruns : Obligations.TickReferencesAndOverruns := by
  unfold Obligations.TickReferencesAndOverruns
  refine ⟨?pps, ?ptp, ?lost, ?escalated, ?cleared, ?budget⟩
  case pps => exact fun s time runs source => doesTo_of_core rfl (ppsEdge_of_aligned runs source)
  case ptp =>
    intro s port p time runs source named link
    refine ⟨doesTo_of_core rfl (ptpMessage_of_aligned runs source named link), ?_⟩
    intro seq t a d sync delay known now
    rw [sync, now]
    exact ptpTake_sync_grid (c := s.core.at time) known
  case lost => exact fun s runs master source held => doesTo_of_core rfl (referenceLost_of_aligned runs master source held)
  case escalated =>
    exact fun s on third calm => does_of_poweredCore rfl on (overrunEscalated_of_third third calm)
  case cleared =>
    exact fun s on clean escalated => does_of_poweredCore rfl on (overrunCleared_of_clean clean escalated)
  case budget =>
    intro s src v m asks
    have meaning := writeCmd_elsewhere (v.setWidth 64) asks regRefusal_budget1 (.inl (by decide))
    rw [inWidth_setWidth] at meaning
    exact does_of_run rfl meaning

/-! ### The change of master (R43) -/

section
variable {c : Core} {own : List (Nat × Nat)} {pri id : Nat} (runs : ticking c = true) (member : isMaster c = false)
  (ring : onRing c = true) (third : 3 ≤ c.fld TCK_STATUS TCK_STATUS_HOLDOVER_TICKS) (silent : c.tck.got = none)
  (waits : c.tck.elected = false) (best : bestRank ((if c.flag TCK_CONFIG TCK_CONFIG_CANDIDATE then [myRank c] else []) ++ heardRanks c) =
    some (pri, id))
include runs member ring third silent waits best

theorem masterChange_of_best : masterChange c =
    if id = c.chipId then modTck ((raise c .tickMasterChange 0 0 id).setFld TCK_STATUS TCK_STATUS_STATE 2) (fun t =>
      { t with elected := true })
    else if id = c.fld TCK_STATUS TCK_STATUS_MASTER_ID then c
    else (((raise c .tickMasterChange 0 0 id).setFld TCK_STATUS TCK_STATUS_MASTER_ID id).setFld TCK_STATUS TCK_STATUS_STATE 2) := by
  simp only [masterChange, runs, member, ring, Nat.not_lt.mpr third, silent, waits, best, decide_false, Bool.not_true, Bool.or_self,
    Bool.false_eq_true, if_false, Option.isSome_none]

end

/-- The chip that was elected is the master from its next boundary on. -/
theorem memberEnd_of_elected {c : Core} (silent : c.tck.got = none) :
    memberEnd (modTck c (fun t => { t with elected := true })) = becomeMaster (modTck c (fun t => { t with elected := true })) := by
  simp only [memberEnd, modTck, silent, if_true]

/-! ### TICK and HEARTBEAT (R40, R45, R526) -/

section
variable {c x : Core} {p : Pkt} {d n corr master pri : Nat} (lands : plainRx c p = (x, some d))
include lands

theorem tickRx_of_unsent (leads : isMaster x = true) (own : master = x.chipId)
    (unsent : x.tck.sent.find? (fun y => y.1 == n) = none) : tickRx p n corr master pri c = x := by
  simp only [tickRx, lands, leads, own, unsent, decide_true, Bool.and_self, if_true]

/-- What a circuit of `took` ns leaves in the ring's registers. -/
def circuitShown (x : Core) (took : Nat) : Core :=
  let y := x.setFld TCK_RING_CIRCUIT TCK_RING_CIRCUIT_LAST_NS (took % 2 ^ 32)
  if y.fld TCK_RING_MAX TCK_RING_MAX_MAX_NS < took then y.setFld TCK_RING_MAX TCK_RING_MAX_MAX_NS (min took (2 ^ 32 - 1)) else y

theorem tickRx_of_circuit {t : Nat} (leads : isMaster x = true) (own : master = x.chipId)
    (sent : x.tck.sent.find? (fun y => y.1 == n) = some (n, t)) : tickRx p n corr master pri c =
      modTck (circuitShown x (x.glb.now - t)) (fun t' => { t' with circuit := some (max (x.glb.now - t) (t'.circuit.getD 0)) }) := by
  simp only [tickRx, lands, leads, own, sent, decide_true, Bool.and_self, if_true, circuitShown]

theorem tickRx_of_first (member : isMaster x = false) (ring : onRing x = true) (newer : x.tick < n) (silent : x.tck.got = none)
    (last : passes x d = false) : tickRx p n corr master pri c = modTck x (fun t => { t with
      got := some (n, master, pri), next := x.glb.now + periodNs x - min corr (periodNs x) }) := by
  have stillLast (f : TickSt → TickSt) : passes (modTck x f) d = false := last
  simp only [tickRx, lands, member, ring, newer, silent, stillLast, decide_true, Bool.false_and, Bool.not_true, Bool.not_false,
    Bool.and_self, Bool.false_eq_true, if_false, if_true, Bool.or_true]

end

section
variable {c x : Core} {p : Pkt} {d origin pri alive count : Nat} {crc : W32} (lands : plainRx c p = (x, some d))
  (other : origin ≠ x.chipId)
include lands other

theorem heartbeatRx_of_bad {state : Nat} (bad : crc.toNat ≠ beatCrc origin pri alive count state) :
    heartbeatRx p origin pri alive count state crc c = x.count RING_HB_REJECTED := by
  simp only [heartbeatRx, lands, other, bad, ne_eq, not_false_eq_true, decide_true, Bool.true_or, if_false, if_true]

/-- The heartbeat of a member that has not been heard before. -/
theorem heartbeatRx_of_first (first : amGet? x.ring.heard origin = none) (good : crc.toNat = beatCrc origin pri alive count 2)
    (last : passes x d = false) : heartbeatRx p origin pri alive count 2 crc c = { x with ring := { x.ring with
      heard := amSet x.ring.heard origin {
        priority := pri, candidate := pri ≤ 15, alive := alive % 256, count := count, state := 2, thisTick := true, lastTick := false,
        absent := 0, dirs := distinctOf [d] } } } := by
  have stillLast (h : AMap Heard) : passes { x with ring := { x.ring with heard := h } } d = false := last
  have unheard (k : Nat) : ((none : Option Nat) == some k) = false := rfl
  have stays : (decide (2 = 3)) = false := rfl
  simp only [heartbeatRx, lands, other, first, good, unheard, stays, stillLast, ne_eq, not_true_eq_false, decide_false, Option.map_none,
    Option.getD_none, List.nil_append, Bool.or_self, Bool.false_and, Bool.false_eq_true, if_false]

end

/-- Settles O22: each message's meaning once its packet has landed, and the election after three ticks in holdover. -/
theorem tickMessages : Obligations.TickMessages := by
  unfold Obligations.TickMessages
  refine ⟨?change, ?own, ?first, ?rejected, ?heard⟩
  case change =>
    intro s own pri id serves runs member ring third silent waits ranks best
    subst ranks
    have meaning := masterChange_of_best runs member ring third silent waits best
    refine ⟨fun me => ⟨_, does_of_servedCore rfl serves (meaning.trans (if_pos me)), rfl, ?_⟩, fun other news => ?_⟩
    · exact memberEnd_of_elected (by rw [Core.setFld_tck, raise_tck, silent])
    · exact does_of_servedCore rfl serves (meaning.trans ((if_neg other).trans (if_neg news)))
  case own =>
    intro s p n corr master pri d c serves lands leads own
    exact ⟨fun unsent => does_of_servedCore rfl serves (tickRx_of_unsent lands leads own unsent),
      fun t sent => ⟨_, _, rfl, rfl, does_of_servedCore rfl serves (tickRx_of_circuit lands leads own sent)⟩⟩
  case first =>
    intro s p n corr master pri d c serves lands member ring newer silent last
    exact does_of_servedCore rfl serves (tickRx_of_first lands member ring newer silent last)
  case rejected =>
    intro s p origin pri alive count state d crc c serves lands other bad
    exact does_of_servedCore rfl serves (heartbeatRx_of_bad lands other bad)
  case heard =>
    intro s p origin pri alive count d crc c serves lands other first good last h shown
    subst shown
    exact does_of_servedCore rfl serves (heartbeatRx_of_first lands other first good last)

end Sys2Proof.Machine

/-! Check units, operating points, power domains and quiesce (chapter 19): what each meaning comes to in the case that its conditions
choose, and the statement. -/

namespace Sys2Proof.Machine
open Sys2Proof

/-! ### Check units (R681) -/

section
variable {m : M} {u : Nat} (unit : chkMgmt u = true) (busy : chkBusy m.core u = true)
include unit busy

theorem chkDone_of_empty (empty : m.core.fld (CHK_LEN u) CHK_LEN_F = 0) : chkDone u m = m.on (chkFin u) := by
  simp only [chkDone, unit, busy, chkRun, empty, Bool.not_true, Bool.or_self, Bool.false_eq_true, if_false, if_true]

/-- A sound buffer is taken whole. -/
theorem chkDone_of_sound {len : Nat} {src : W64} {l : List Byte} {bad : List Bool} {m' : M}
    (length : len = m.core.fld (CHK_LEN u) CHK_LEN_F) (some_ : len ≠ 0) (source : src = m.core.rget (CHK_SRC u))
    (dead : m.core.flag (CHK_CTRL u) CHK_CTRL_ALIVE_EN = false)
    (may : ptrCheck m.core (m.core.fld (CHK_CTRL u) CHK_CTRL_PARTITION) src len true false = none)
    (reads : readBytes m (u / 4) (ptrExtent src) (ptrOffset src) len = (m', .got l bad)) (sound : ∀ x ∈ bad, x = false) :
    chkDone u m = m'.on (fun c => chkFin u (chkTake c u len l)) := by
  have unpoisoned : bad.zipIdx.find? (·.1) = none := by
    rw [List.find?_eq_none]
    intro x hx
    rw [sound x.1 (List.fst_mem_of_mem_zipIdx hx)]
    exact Bool.false_ne_true
  have whole : min len len = len := Nat.min_self len
  subst length source
  simp only [chkDone, unit, busy, chkRun, M.on, some_, dead, may, reads, unpoisoned, whole, Option.map_none, Option.isSome_none,
    Bool.false_and,
    Nat.lt_irrefl, Bool.not_true, Bool.or_self, Bool.false_eq_true, if_false]

end

/-! ### Operating points (R666) -/

theorem vidSettled_of_reached {c : Core} {t : Nat} (settles : c.boot.op = .settle t) (same : c.fld PWR_OP PWR_OP_TARGET = t) :
    vidSettled c = setOpStep c (.lock t) := by
  simp only [vidSettled, settles, same, if_true]

theorem pllLockCmd_of_locking {c x : Core} {t time : Nat} (locks : c.boot.op = .lock t)
    (switched : x = opAdvance (setVid ((c.at time).setFld PWR_OP PWR_OP_CURRENT t) t)) (started : atStep x 5 = false) :
    pllLockCmd time c = x := by
  have locked : pllLock (c.at time) = x := by simp only [pllLock, Core.at_boot, locks, switched]
  simp only [pllLockCmd, locked, started, Bool.false_and, Bool.false_eq_true, if_false]

/-! ### Power domains (R668 to R673) -/

/-- PWR_SET without WATCH and RELEASE asks for the target. -/
theorem pwrSet_of_plain {m : M} {src : Src} {d t : Nat} (fm : srcFm src = true) (domain : d < 68) (target : t ≤ 2)
    (may : pwrRefusal m.core d t = false) (spare : isSpare m.core d = false) : pwrSet d t 0 0 src m =
      (driveDomain (m.on (fun c => modDom (c.setFld (PWR_DOMAIN d) PWR_DOMAIN_WATCH 0) d
        (fun x => { x with asked := x.asked ++ [(src, t)] }))) d t, none) := by
  have noWatch : bitOf 0 0 = false := rfl
  have noRelease : bitOf 0 1 = false := rfl
  simp only [pwrSet, fm, domain, target, show 0 < 4 by decide, noWatch, noRelease, may, spare, b2n, M.on, decide_true, Bool.and_self,
    Bool.not_true, Bool.false_and, Bool.or_false, Bool.false_eq_true, if_false]

/-- The entry of a compute die waits for nothing but its end. -/
theorem domainEntryEnd_of_die {m : M} {d : Nat} (die : d < 4) (enters : domState m.core d = 1) (last : (domX m.core d).next = none) :
    domainEntryEnd d m =
      (if (domX m.core d).goal = 2 then enterOff m d else m.on (fun c => enterRetention c d)).on (fun c => domReached c d) := by
  have engines : (decide (4 ≤ d)) = false := by simp [Nat.not_le.mpr die]
  have clusters : (decide (20 ≤ d)) = false := by simp; omega
  have ports : ¬52 ≤ d := by omega
  have domain : d < 68 := by omega
  have ready : entryReady m.core d = true := by
    simp only [entryReady, engines, clusters, ports, Bool.false_and, Bool.false_eq_true, if_false]
  have same : m.on (fun c => c) = m := rfl
  simp only [domainEntryEnd, domain, enters, ready, engines, clusters, ports, last, same, beq_self_eq_true, decide_true, Bool.and_self,
    Bool.not_true, Bool.false_and, Bool.false_eq_true, if_false]

theorem domainWakeEnd_of_die {m : M} {d : Nat} (ok : Bool) (die : d < 4) (wakes : domState m.core d = 4)
    (last : (domX m.core d).next = none) : domainWakeEnd d ok m = m.on (fun c => domReached (wakeOn (fun k => match k with
      | .power e => e == d | _ => false) (showPart (modDom (releaseOn (setDomState c d 0) d) d
        (fun y => { y with fromOff := false })) d)) d) := by
  have noStack : (decide (36 ≤ d)) = false := by simp; omega
  have domain : d < 68 := by omega
  unfold domainWakeEnd
  rw [if_neg (by simp [domain, wakes])]
  extract_lets x m1 m2 m3 _ m4 m5 m6
  have unchanged : m4 = m3 := if_neg (by simp [noStack])
  have alone : m6 = m5.on (fun c => domReached c d) := rfl
  have woken : m5 = m4.on (fun c => wakeOn (fun k => match k with | .power e => e == d | _ => false) c) := rfl
  rw [show x.next = none from last]
  show m6 = _
  rw [alone, woken, unchanged]
  simp only [m3, m2, m1, M.on_on]
section
variable {m : M} {d : Nat} (low : 4 ≤ d) (high : d < 68) (spare : isSpare m.core d = false) (sound : domFenced m.core d = false)
include low high spare sound

theorem watchWake_of_retained (retained : domState m.core d = 2) (watched : m.core.flag (PWR_DOMAIN d) PWR_DOMAIN_WATCH = true) :
    watchWake d .wake m = m.on (fun c => setDomState c d 5) := by
  simp only [watchWake, low, high, spare, sound, retained, watched, beq_self_eq_true, decide_true, Bool.and_self, Bool.not_true,
    Bool.or_self, Bool.false_eq_true, if_false, if_true]

theorem watchWake_of_passed (checks : domState m.core d = 5) (last : (domX (setDomState m.core d 2) d).next = none) :
    watchWake d (.done false) m = m.on (fun c => setDomState c d 2) := by
  simp only [watchWake, low, high, spare, sound, checks, M.on, last, decide_true, Bool.and_self, Bool.not_true, Bool.or_self,
    Bool.false_eq_true, if_false, ne_eq, not_true_eq_false]

end

/-! ### Quiesce (R675) -/

/-- No register lies in the part of start-up. -/
theorem fld_modBoot (c : Core) (g : BootSt → BootSt) (r : Nat) (f : Fld) : (modBoot c g).fld r f = c.fld r f := rfl

theorem quiesceReq_of_idle {m : M} {src : Src} {ms : Nat} (fm : srcFm src = true) (drain : ms < 65536) (ready : bootStage m.core = 8)
    (out : ringState m.core = 0) (alone : pairState m.core = 0) : quiesceReq ms src m =
      (m.on (fun c => modBoot (setStage c 10) (fun b => { b with
        quiesce := some src, drainEnd := c.glb.now + ms * 1000000, drained := false })), .accepted, []) := by
  have stillOut (f : BootSt → BootSt) : ringState (modBoot (setStage m.core 10) f) = 0 :=
    by rw [ringState, fld_modBoot, setStage, Core.fld_setFld_ne _ _ _ _ (by decide)]; exact out
  have stillAlone (f : BootSt → BootSt) : pairState (modBoot (setStage m.core 10) f) = 0 :=
    by rw [pairState, fld_modBoot, setStage, Core.fld_setFld_ne _ _ _ _ (by decide)]; exact alone
  refine (checked_pass (by simp [fm, drain, ready, stReady])).trans ?_
  have clock : (setStage m.core 10).glb = m.core.glb := Core.setFld_glb _ _ _ _
  have solo : ((0 : Nat) = 1) = False := eq_false (by decide)
  have apart : ((0 : Nat) = 2) = False := eq_false (by decide)
  have unkeyed : ((0 : Nat) == 5 || (0 : Nat) == 6) = false := rfl
  simp only [M.on, accept, stQuiescing, clock, stillOut, stillAlone, unkeyed, solo, apart, Bool.false_eq_true, if_false]

theorem quiesceDrainEnd_of_due {c : Core} {time : Nat} (quiesces : bootStage c = 10) (first : c.boot.drained = false)
    (due : c.boot.drainEnd ≤ max c.glb.now time) : quiesceDrainEnd (c.at time) = modBoot ((List.range 4096).foldl (fun c x =>
      if ctxState c x ≠ 0 then flushRequest c x false else c) (c.at time)) (fun b => { b with drained := true }) := by
  have stage : bootStage (c.at time) = 10 := quiesces
  simp only [quiesceDrainEnd, stage, stQuiescing, Core.at_boot, first, Core.at_now, Nat.not_lt.mpr due, ne_eq, not_true_eq_false,
    decide_false, Bool.or_self, Bool.false_eq_true, if_false]

theorem quiesced_of_idle {m : M} (quiesces : bootStage m.core = 10) (idle : quiesceIdle m.core = true) :
    ∃ (c : Core) (mem : Mem), quiesced m = { core := setStage (c.toFm 0x0B03 [c.chipId]) 11, mem := mem } := by
  simp only [quiesced, quiesces, stQuiescing, idle, ne_eq, not_true_eq_false, decide_false, Bool.not_true, Bool.or_self,
    Bool.false_eq_true, if_false]
  exact ⟨_, _, rfl⟩

/-- Settles O26: each command's meaning in the case that its conditions choose. -/
theorem powerAndCheckUnits : Obligations.PowerAndCheckUnits := by
  unfold Obligations.PowerAndCheckUnits
  refine ⟨?empty, ?sound, ?settled, ?locked, ?set, ?retained, ?off, ?woken, ?watch, ?quiesce, ?drained, ?quiesced⟩
  case empty => exact fun s u serves unit busy empty => does_of_served rfl serves (chkDone_of_empty (m := s.m) unit busy empty)
  case sound =>
    intro s u len src l bad m serves unit busy length some_ source dead may reads sound
    exact does_of_served rfl serves (chkDone_of_sound (m := s.m) unit busy length some_ source dead may reads sound)
  case settled => exact fun s t on settles same => does_of_poweredCore rfl on (vidSettled_of_reached settles same)
  case locked =>
    exact fun s t time c on locks _ switched started => does_of_poweredCore rfl on (pllLockCmd_of_locking locks switched started)
  case set =>
    intro s src d t m asks domain target may spare
    exact does_of_run rfl (mgmt_later asks.1 (pwrSet_of_plain asks.2 domain target may spare))
  case retained =>
    intro s d on die enters goal last
    refine does_of_powered rfl on ((domainEntryEnd_of_die (m := s.m) die enters last).trans ?_)
    rw [State.m_core, goal]; rfl
  case off =>
    intro s d on die enters goal last
    refine does_of_powered rfl on ((domainEntryEnd_of_die (m := s.m) die enters last).trans ?_)
    rw [State.m_core, goal]; rfl
  case woken => exact fun s d ok on die wakes last => does_of_powered rfl on (domainWakeEnd_of_die (m := s.m) ok die wakes last)
  case watch =>
    intro s d on low high spare sound
    exact ⟨fun retained watched => does_of_powered rfl on (watchWake_of_retained (m := s.m) low high spare sound retained watched),
      fun checks last => does_of_powered rfl on (watchWake_of_passed (m := s.m) low high spare sound checks last)⟩
  case quiesce =>
    intro s src ms m asks drain ready out alone
    have meaning := mgmt_answered asks.1 (quiesceReq_of_idle asks.2 drain ready out alone)
    exact does_of_run rfl meaning
  case drained =>
    exact fun s time serves quiesces first due => does_of_servedCore rfl serves (quiesceDrainEnd_of_due quiesces first due)
  case quiesced =>
    intro s serves quiesces idle
    obtain ⟨c, mem, meaning⟩ := quiesced_of_idle (m := s.m) quiesces idle
    exact ⟨c, mem, does_of_served rfl serves meaning⟩

end Sys2Proof.Machine

/-! Extents, leases and invalidations (chapter 3): what each request and message comes to in the case that its conditions choose, and
the statements. -/

namespace Sys2Proof.Machine
open Sys2Proof

/-! ### Grants, withdrawal, freeing and migration (R84 to R86, R94 to R98, R109) -/

/-- An extent that is not in use is granted with the fields asked for. -/
theorem extGrant_accepted {d : ExtGrant} {m : M} (unused : ∀ x, ext? m.core d.extent = some x → x.st = .withdrawn)
    (fields : extFieldsOk d = true) (provided : classOk m.core d.partition d.cls = true) (active : partActive m.core d.partition = true) :
    extGrant d m = (m.on (fun c => setExt c d.extent {
      st := .active, partition := d.partition, owner := d.owner, large := d.large, size := d.size, quota := d.quota, cls := d.cls,
      readable := d.readable, writable := d.writable, compressible := d.compressible, hotNotice := d.hotNotice, frames := [],
      subscribers := [], released := [], deferred := false, noBackingLogged := false, migrateTo := none }), .accepted, []) := by
  have free : (match ext? m.core d.extent with | none => true | some x => x.st == .withdrawn) = true := by
    cases there : ext? m.core d.extent with
    | none => rfl
    | some x => simp [unused x there]
  exact checked_pass (List.forall_mem_cons.mpr ⟨free, by simp [fields, provided, active]⟩)

section
variable {m : M} {e : Nat} (number : e < 65536)
include number

theorem extWithdraw_of_granted {src : Src} (fm : srcFm src = true) (there : (ext? m.core e).isSome = true) :
    extWithdraw e src m = ackWithdraw src e (withdrawExt m e) := by
  obtain ⟨x, there⟩ := Option.isSome_iff_exists.mp there
  simp only [extWithdraw, fm, there, Nat.not_le.mpr number, Bool.not_true, Bool.false_eq_true, if_false]

theorem extFree_accepted {x : Extent} (there : ext? m.core e = some x) (withdrawn : x.st = .withdrawn) :
    extFree e m = (m.on (fun c => { c with ext := { c.ext with exts := amDel c.ext.exts e } }), .accepted, []) := by
  simp only [extFree, there, withdrawn, Nat.not_le.mpr number, accept, if_false, if_true]

theorem extMigrate_accepted {x : Extent} {k : RedClass} (there : ext? m.core e = some x) (active : x.st = .active)
    (provided : classOk m.core x.partition k = true) (clear : underWindow m.core e 0 (extBytes x) = false) :
    extMigrate e k m =
      (m.on (fun c => nextMigration (modExt c e (fun x => { x with cls := k, migrateTo := some k })) e), .accepted, []) := by
  simp only [extMigrate, there, Nat.not_le.mpr number, if_false]
  exact checked_pass (by simp [active, provided, clear])

end

/-- A withdrawal is accepted once its snapshot is taken. -/
theorem ackWithdraw_of_taken {src : Src} {e : Nat} {m : M} (taken : snapshotTaken m.core e = true) :
    ackWithdraw src e m = (m, some (.accepted, [])) := by
  simp only [ackWithdraw, taken, if_true]; rfl

theorem ackWithdraw_of_deferred {src : Src} {e : Nat} {m : M} (deferred : snapshotTaken m.core e = false) :
    ackWithdraw src e m =
      (m.on (fun c => { c with ext := { c.ext with withdrawers := c.ext.withdrawers ++ [(e, src)] } }), none) := by
  simp only [ackWithdraw, deferred, Bool.false_eq_true, if_false]

/-- A request that its body answers at once. -/
theorem mgmt_answeredNow {i : MopInfo} {src : Src} {s : State} {m m2 : M} {body : Src → M → MgLater} {k : MgmtCode} {b : List Nat}
    (asks : Asks i src s m) (answers : body (realSrc src) m = (m2, some (k, b))) :
    mgmtLater i src body s.m = m2.on (fun c => mgmtReply c (realSrc src) i.mop k b) := by
  simp only [mgmtLater, show arrive i src s.m = (m, true) from asks, answers]

/-! ### Leases (R115 to R117) -/

/-- A block read at its own time stays as it is. -/
theorem Core.at_now_self (c : Core) : c.at c.glb.now = c := by
  simp only [Core.at, Nat.max_self]

/-- Without an expired lease nothing of the agent ends. -/
theorem leaseExpiry_of_lasting {m : M} {a : Nat} (lasts : ∀ l, amGet? m.core.ext.leases a = some l → leaseOver m.core l = false) :
    leaseExpiry a m.core.glb.now m = m := by
  cases there : amGet? m.core.ext.leases a with
  | none => simp only [leaseExpiry, M.on, Core.at_now_self, there]
  | some l => simp only [leaseExpiry, M.on, Core.at_now_self, there, lasts l there, Bool.not_false, if_true]

theorem leaseGrant_accepted {m : M} {a ms d : Nat} (agent : a < 65536) (length : ms = 0 ∨ (100 ≤ ms ∧ ms ≤ 60000))
    (room : m.core.ext.leases.length < 8192) (duration : d = (if ms = 0 then m.core.fld EXT_LEASE EXT_LEASE_DEFAULT_MS else ms))
    (lasts : ∀ l, amGet? m.core.ext.leases a = some l → leaseOver m.core l = false) :
    leaseGrant a ms m = (m.on (fun c => { c with ext := { c.ext with
      leases := amSet c.ext.leases a ⟨d, c.glb.now + d * 1000000⟩ } }), .accepted, []) := by
  subst duration
  unfold leaseGrant
  rw [checked_pass (by simp [agent, length, room])]
  simp only [leaseExpiry_of_lasting lasts, accept]

theorem leaseRenew_accepted {m : M} {src : Src} {a : Nat} {l : Lease} (may : srcFm src = true ∨ srcAgent src = some a)
    (there : amGet? m.core.ext.leases a = some l) (lasts : leaseOver m.core l = false) :
    leaseRenew a src m = (m.on (fun c => { c with ext := { c.ext with
      leases := amSet c.ext.leases a { l with expiry := c.glb.now + l.ms * 1000000 } } }), .accepted, []) := by
  have may' : (!srcFm src && srcAgent src != some a) = false := by
    rcases may with fm | agent
    · simp [fm]
    · simp [agent]
  simp only [leaseRenew, may', there, lasts, accept, Bool.false_eq_true, if_false]

theorem leaseExpiry_of_over {m : M} {a time : Nat} {l : Lease} (there : amGet? m.core.ext.leases a = some l)
    (over_ : l.expiry ≤ m.core.tck.last) : leaseExpiry a time m = dropAgent a { m with
      core := (raise (Core.toFm { m.core.at time with ext := { (m.core.at time).ext with
        leases := amDel (m.core.at time).ext.leases a } } 0x0112 [a]) .extLeaseExpired 0 0 a).count EXT_LEASE_EXPIRED } := by
  have ends : leaseOver (m.core.at time) l = true := decide_eq_true over_
  simp only [leaseExpiry, M.on, Core.at_ext, there, ends, Bool.not_true, Bool.false_eq_true, if_false]

/-- Settles O27: each request's body in the case that its conditions choose. -/
theorem extentAndLeaseRequests : Obligations.ExtentAndLeaseRequests := by
  unfold Obligations.ExtentAndLeaseRequests
  refine ⟨?grant, ?withdraw, ?free, ?migrate, ?leaseGrant, ?leaseRenew, ?leaseExpiry⟩
  case grant =>
    intro s src d m asks unused fields provided active
    exact does_of_run rfl (mgmt_accepted asks (extGrant_accepted unused fields provided active))
  case withdraw =>
    intro s src e m asks number there
    have meaning := extWithdraw_of_granted number asks.2 there
    exact ⟨fun taken => does_of_run rfl (mgmt_answeredNow asks.1 (meaning.trans (ackWithdraw_of_taken taken))),
      fun deferred => does_of_run rfl (mgmt_later asks.1 (meaning.trans (ackWithdraw_of_deferred deferred)))⟩
  case free =>
    intro s src e m x asks number there withdrawn
    exact does_of_run rfl (mgmt_accepted asks (extFree_accepted number there withdrawn))
  case migrate =>
    intro s src e k m x asks number there active provided clear
    exact does_of_run rfl (mgmt_accepted asks (extMigrate_accepted number there active provided clear))
  case leaseGrant =>
    intro s src a ms d m asks agent length room duration lasts
    exact does_of_run rfl (mgmt_accepted asks (leaseGrant_accepted agent length room duration lasts))
  case leaseRenew =>
    intro s src a m l asks may there lasts
    exact does_of_run rfl (mgmt_answered asks (leaseRenew_accepted may there lasts))
  case leaseExpiry =>
    exact fun s a time l serves there over_ =>
      ⟨_, rfl, does_of_served rfl serves (leaseExpiry_of_over (m := s.m) there over_)⟩

/-! ### Invalidation along the ring (R91 to R93) -/

section
variable {m : M} {p : Pkt} {chip e : Nat} (first n : Nat) (discard : Bool) (number : e < 65536)
include number

/-- The chip that is not the home passes an INVALIDATE on. -/
theorem invalidateReq_of_elsewhere (chips : chip < 4096) (elsewhere : chip ≠ m.core.chipId) :
    invalidateReq chip e first n discard (.fm p) m = (startInval (m.on (fun c => dropRemote c chip e)) (some (.fm p)) none
      [chip, e, first, n, b2n discard, p.srcEp, m.core.chipId], none) := by
  have away : (chip == m.core.chipId) = false := by simpa using elsewhere
  simp only [invalidateReq, away, srcFm, Nat.not_le.mpr chips, Nat.not_le.mpr number, decide_false, Bool.or_self, Bool.false_and,
    Bool.not_true, Bool.and_false, Bool.false_eq_true, if_false]

/-- The home applies it first. -/
theorem invalidateReq_of_home (chips : m.core.chipId < 4096) (there : (ext? m.core e).isSome = true)
    (may : invalOk m.core p.srcEp e first n discard = true) : invalidateReq m.core.chipId e first n discard (.fm p) m =
      (startInval (applyInval (m.on (fun c => dropRemote c m.core.chipId e)) e first n discard) (some (.fm p)) none
        [m.core.chipId, e, first, n, b2n discard, p.srcEp, m.core.chipId], none) := by
  have there' : (ext? m.core e).isNone = false := by simpa using there
  simp only [invalidateReq, beq_self_eq_true, srcFm, may, there', Nat.not_le.mpr chips, Nat.not_le.mpr number, decide_false, Bool.or_self,
    Bool.not_true, Bool.and_false, Bool.false_eq_true, if_false, if_true]

end

/-- The fabric manager may withdraw any extent. -/
theorem invalOk_of_withdraw {c : Core} {ep e first n : Nat} (fm : ep / 2 ^ 28 = 2) : invalOk c ep e first n false = true := by
  simp only [invalOk, fm, beq_self_eq_true, Bool.true_or, Bool.false_and, Bool.not_false, Bool.and_self]

section
variable {m : M} {p : Pkt} {c : Core} {ss : Nat} (chip e first n sender recv : Nat) (discard : Bool)
  (serves : inService m.core = true) (lands : landPkt m.core p = (c, some ss))
include serves lands

/-- A member that is neither the home nor the receiver passes the message on, back the other way at a chain's end. -/
theorem invalidateRing_of_passing (onward : recv ≠ c.chipId) (elsewhere : chip ≠ c.chipId) :
    invalidateRing p chip e first n discard sender recv m = { m with
      core := (dropRemote c chip e).send (invalMsg
        (if sendsTo (dropRemote c chip e) (portDir p.port) then portDir p.port else 1 - portDir p.port)
        [chip, e, first, n, b2n discard, sender, recv]) } := by
  have away : chip ≠ (dropRemote c chip e).chipId := elsewhere
  simp only [invalidateRing, serves, lands, onward, away, if_true, if_false, ne_eq, not_false_eq_true, decide_false, Bool.false_and,
    Bool.false_eq_true, M.on]
  cases sendsTo (dropRemote c chip e) (portDir p.port) <;> rfl

/-- At the receiver the last copy that returns ends the INVALIDATE. -/
theorem invalidateRing_of_returned {v : InvalOut} (back : recv = c.chipId)
    (awaited : c.ext.invals.find? (fun v => v.body == [chip, e, first, n, b2n discard, sender, recv]) = some v) (last : v.out ≤ 1) :
    invalidateRing p chip e first n discard sender recv m = { m with core := invalDone (dropRemote c chip e) v } := by
  have awaited' : (dropRemote c chip e).ext.invals.find? (fun v => v.body == [chip, e, first, n, b2n discard, sender, recv]) = some v :=
    awaited
  subst back
  simp only [invalidateRing, serves, lands, awaited', last, if_true, M.on]

end

/-! ### Snapshots and quarantine records (R96, R97) -/

theorem snapshotRetired_of_retired {c x : Core} {e : Nat} (retired : retireSnapshot c e = (x, true)) :
    snapshotRetired e c = (deleteTablesOf x e).toFm 0x0105 [e] := by
  simp only [snapshotRetired, retired]

theorem recordFree_of_waiting {c x y : Core} {e : Nat} (waits : nextWaiting c c.work.tags = (x, some e))
    (forgotten : y = { x with ext := { x.ext with withdrawers := x.ext.withdrawers.filter (fun w => w.1 != e),
                                                  heldInval := x.ext.heldInval.filter (fun h => h.1 != e) } }) :
    recordFree c = (x.ext.heldInval.filter (fun h => h.1 == e)).foldl (fun c h => c.send (invalMsg h.2.1 h.2.2))
      ((x.ext.withdrawers.filter (fun w => w.1 == e)).foldl (fun c w => mgmtReply c w.2 0x0101 .accepted []) y) := by
  subst forgotten
  simp only [recordFree, waits]

/-- Settles O28: each request's and message's meaning in the case that its conditions choose. -/
theorem invalidations : Obligations.Invalidations := by
  unfold Obligations.Invalidations
  refine ⟨?elsewhere, ?home, ?passing, ?returned, ?retired, ?record⟩
  case elsewhere =>
    intro s p chip e first n m asks fm chips number away
    have source : realSrc (.fm p) = .fm p := if_pos fm
    have body (discard : Bool) := invalidateReq_of_elsewhere (m := m) (p := p) first n discard number chips away
    exact ⟨does_of_run rfl (mgmt_later asks ((congrArg (invalidateReq chip e first n false · m) source).trans (body false))),
      does_of_run rfl (mgmt_later asks ((congrArg (invalidateReq chip e first n true · m) source).trans (body true)))⟩
  case home =>
    intro s p e first n m asks fm number chips there
    have source : realSrc (.fm p) = .fm p := if_pos fm
    have body (discard : Bool) := invalidateReq_of_home (m := m) (p := p) first n discard number chips there
    exact ⟨does_of_run rfl (mgmt_later asks ((congrArg (invalidateReq m.core.chipId e first n false · m) source).trans
        (body false (invalOk_of_withdraw fm)))),
      fun may => does_of_run rfl (mgmt_later asks ((congrArg (invalidateReq m.core.chipId e first n true · m) source).trans
        (body true may)))⟩
  case passing =>
    intro s p chip e first n sender recv d ss discard c serves lands onward away way
    subst way
    exact does_of_served rfl serves (invalidateRing_of_passing (m := s.m) chip e first n sender recv discard serves lands onward away)
  case returned =>
    intro s p chip e first n sender recv ss discard c v serves lands back awaited last
    exact does_of_served rfl serves
      (invalidateRing_of_returned (m := s.m) chip e first n sender recv discard serves lands back awaited last)
  case retired => exact fun s e c serves retired => does_of_servedCore rfl serves (snapshotRetired_of_retired retired)
  case record => exact fun s e c c' serves waits forgotten => does_of_servedCore rfl serves (recordFree_of_waiting waits forgotten)

end Sys2Proof.Machine

/-! Frames and what waits for them (chapters 3 and 6): what each meaning comes to in the case that its conditions choose, and the
statement. -/

namespace Sys2Proof.Machine
open Sys2Proof

/-! ### Filling and migration (R96, R109, R580) -/

theorem frameFillDone_of_waiting {m : M} {q : Nat} {r : FreeRun} {rest : List FreeRun} {c : Core}
    (waits : amGet m.core.mem.fill q [] = r :: rest)
    (pooled : c = wakeBacking { (fillRun m q r).core with mem := { (fillRun m q r).core.mem with
      fill := amSet (fillRun m q r).core.mem.fill q rest,
      pool := amSet (fillRun m q r).core.mem.pool q (poolAdd (amGet (fillRun m q r).core.mem.pool q []) r) } } q) :
    frameFillDone q m = { fillRun m q r with
      core := c.ext.exts.foldl (fun c x => if x.2.partition = q then nextMigration c x.1 else c) c } := by
  subst pooled
  simp only [frameFillDone, waits, M.on]

/-- A migrating frame's words reach its new place, and its old one awaits quarantine. -/
theorem frameMigrated_of_migrating {m m1 m2 : M} {e i : Nat} {x : Extent} {old new : Loc} {ws : List (List Byte × Bool)}
    (there : ext? m.core e = some x) (migrates : (frameOf x i).st = .migrating) (placed : (frameOf x i).loc = some old)
    (goes : (frameOf x i).dest = some new) (reads : readFrame m x.partition old (frameBytes x / 32) = (m1, ws))
    (writes : m2 = writeRun (movedOnly m.core m1) x.partition new 0 ws) :
    frameMigrated e i m = m2.on (fun c => nextMigration (wakeOn (atFrame e i) (dropCached (modExt
      (modFrame c e i (fun f => { f with st := .resident, loc := some new, dest := none })) e
      (fun y => { y with released := if x.st = .active ∨ x.deferred = true then y.released ++ [old] else y.released })) e i)) e) := by
  subst writes
  simp only [frameMigrated, there, migrates, placed, goes, reads, M.on, Bool.or_eq_true, beq_iff_eq]

/-! ### Compression (R103 to R107) -/

theorem compressible_of_cold {c : Core} {e i : Nat} {x : Extent} (enabled : c.flag EXT_CTRL EXT_CTRL_COMPRESS_EN = true)
    (small : x.large = false) (may : x.compressible = true) (active : x.st = .active) (resident : (frameOf x i).st = .resident)
    (cold : (frameOf x i).cold = true) (fits : (frameOf x i).incompressible = false)
    (clear : underWindow c e (i * frameBytes x) (frameBytes x) = false) : compressible c e i x = true := by
  simp only [compressible, enabled, small, may, active, resident, cold, fits, clear, beq_self_eq_true, Bool.not_false, Bool.and_self]

theorem compressionStart_of_compressible {c : Core} {e i : Nat} {x : Extent} (there : ext? c e = some x)
    (may : compressible c e i x = true) : compressionStart e i c = modFrame c e i (fun f => { f with compressing := true }) := by
  simp only [compressionStart, there, may, if_true]

section
variable {m m1 : M} {e i n : Nat} {x : Extent} {l : Loc} {ws : List (List Byte × Bool)} (there : ext? m.core e = some x)
  (begun : (frameOf x i).compressing = true) (may : compressible m.core e i x = true) (placed : (frameOf x i).loc = some l)
  (reads : readFrame m x.partition l (frameBytes x / 32) = (m1, ws))
  (size : n = packedChunks (packWords ws).length (frameBytes x / 32) (Config.rowStride e))
include there begun may placed reads size

/-- A form that fits replaces the frame. -/
theorem compressionDone_of_small (fits : n ≤ (movedOnly m.core m1).core.fld EXT_COMPRESS EXT_COMPRESS_MAX_CHUNKS) :
    compressionDone e i m = (movedOnly m.core m1).on (fun c => wakeBacking (dropCached (toFill (modFrame c e i (fun f =>
      { f with st := .compressed, loc := none, compressing := false, packed := packWords ws, chunks := n })) x.partition l false) e i)
      x.partition) := by
  subst size
  simp only [compressionDone, there, begun, may, placed, reads, Bool.and_self]
  rw [if_pos fits]

theorem compressionDone_of_large (large : (movedOnly m.core m1).core.fld EXT_COMPRESS EXT_COMPRESS_MAX_CHUNKS < n) :
    compressionDone e i m =
      (movedOnly m.core m1).on (fun c => modFrame c e i (fun f => { f with compressing := false, incompressible := true })) := by
  subst size
  simp only [compressionDone, there, begun, may, placed, reads, Bool.and_self]
  rw [if_neg (Nat.not_le.mpr large)]

end

theorem frameRestored_of_pooled {m : M} {e i : Nat} {x : Extent} {l : Loc} {c : Core} (there : ext? m.core e = some x)
    (restores : (frameOf x i).st = .decompressing) (taken : poolTake m.core x.partition x.cls x.large = some (l, c)) :
    frameRestored e i m = (unpackInto { m with core := c } x.partition l (frameOf x i).packed).on (fun c =>
      let r := dropCached (joinQuarantine (modFrame c e i (fun f =>
        { f with st := .resident, loc := some l, cold := false, packed := [], chunks := 0, prefetched := false })) e i l) e i;
      wakeOn (fun k => atFrame e i k || atBacking e i k)
        (if (frameOf x i).prefetched = true ∧ x.st = .active then loadCaches r e [i] else r)) := by
  simp only [frameRestored, there, restores, taken, ne_eq, not_true_eq_false, if_false, Bool.and_eq_true, decide_eq_true_eq]

/-! ### Waits for backing (R101, R247) -/

theorem quotaExpiry_of_passed {m : M} {who : ParkRef}
    (passed : m.core.fld EXT_QUOTA EXT_QUOTA_WAIT_TICKS ≤ waitedOf m.core who) : quotaExpiry who m = failWait who m := by
  simp only [quotaExpiry, passed, if_true]

section
variable {m : M} {e f off : Nat}

theorem failWait_work {x n : Nat} {w : Work} (there : work? m.core x n = some w) (parked : w.phase = .parked (.backing e f off)) :
    failWait (.work x n) m = { m with core := stopWork m.core x n .noBacking (extPtr m.core e off) } := by
  simp only [failWait, there, Option.map_some, parked, M.on]

theorem failWait_request {t : Nat} {r : Request} (there : req? m.core t = some r) (waits : r.cause = some (.backing e f off))
    (open_ : r.reply = none) :
    failWait (.request t) m = { m with core := answer m.core r { status := .noBacking, detail := reqRest r } } := by
  simp only [failWait, there, waits, open_, Option.isNone_none, Option.any_some, isBacking, Bool.and_self, if_true, M.on]

theorem failWait_thread {t : Nat} {th : Thread} (there : thr? m.core t = some th) (parked : th.wait = .parked (.backing e f off)) :
    failWait (.thread t) m = lateTrap m t (accessTrap .noBacking (extPtr m.core e off)) := by
  simp only [failWait, there, Option.map_some, parked]

end

/-- A parked work goes on once the cause of its park has cleared. -/
theorem parkResume_work (c : Core) (x n : Nat) : parkResume (.work x n) c = modWork c x n (fun w =>
    match w.phase with
    | .parked k => if causeClear c (ctxPart c x) k then { w with phase := .ready, waited := 0 } else w
    | _ => w) := rfl

/-- Settles O29: each meaning in the case that its conditions choose. -/
theorem framesAndParks : Obligations.FramesAndParks := by
  unfold Obligations.FramesAndParks
  refine ⟨?fill, ?migrated, ?start, ?done, ?restored, ?work, ?request, ?thread, ?resume⟩
  case fill =>
    exact fun s q r rest serves waits =>
      ⟨_, _, rfl, rfl, does_of_served rfl serves (frameFillDone_of_waiting (m := s.m) waits rfl)⟩
  case migrated =>
    intro s e i x f old new m m1 ws serves there frame migrates placed goes reads writes
    subst frame
    exact does_of_served rfl serves (frameMigrated_of_migrating (m := s.m) there migrates placed goes reads writes)
  case start =>
    intro s e i x serves there enabled small may active resident cold fits clear
    exact does_of_servedCore rfl serves (compressionStart_of_compressible there
      (compressible_of_cold enabled small may active resident cold fits clear))
  case done =>
    intro s e i x l m ws n serves there begun may placed reads size
    exact ⟨fun fits => does_of_served rfl serves (compressionDone_of_small (m := s.m) there begun may placed reads size fits),
      fun large => does_of_served rfl serves (compressionDone_of_large (m := s.m) there begun may placed reads size large)⟩
  case restored =>
    intro s e i x l c serves there restores taken
    exact does_of_served rfl serves (frameRestored_of_pooled (m := s.m) there restores taken)
  case work =>
    intro s x n e f off w serves there parked passed
    have waited : s.core.fld EXT_QUOTA EXT_QUOTA_WAIT_TICKS ≤ waitedOf s.core (.work x n) := by
      simpa only [waitedOf, there, Option.map_some, Option.getD_some] using passed
    exact does_of_served rfl serves ((quotaExpiry_of_passed (m := s.m) waited).trans (failWait_work (m := s.m) there parked))
  case request =>
    intro s t e f off r serves there waits open_ passed
    have waited : s.core.fld EXT_QUOTA EXT_QUOTA_WAIT_TICKS ≤ waitedOf s.core (.request t) := by
      simpa only [waitedOf, there, Option.map_some, Option.getD_some] using passed
    exact does_of_served rfl serves ((quotaExpiry_of_passed (m := s.m) waited).trans (failWait_request (m := s.m) there waits open_))
  case thread =>
    intro s t e f off th serves there parked passed
    have waited : s.core.fld EXT_QUOTA EXT_QUOTA_WAIT_TICKS ≤ waitedOf s.core (.thread t) := by
      simpa only [waitedOf, there, Option.map_some, Option.getD_some] using passed
    exact does_of_served rfl serves ((quotaExpiry_of_passed (m := s.m) waited).trans (failWait_thread (m := s.m) there parked))
  case resume => exact fun s x n serves => does_of_servedCore rfl serves (parkResume_work s.core x n)

end Sys2Proof.Machine

/-! Requests of agents and sync objects (chapters 11 and 13): how a request is admitted, what serving one on a sync object answers, and
the statements. -/

namespace Sys2Proof.Machine
open Sys2Proof

/-! ### Admission (R484 to R489) -/

/-- The context that a request names is its sender's; the fabric manager names none. -/
def NamedWell (c : Core) (p : Pkt) (type : Nat) : Prop :=
  if p.ctx < 4096 then ctxOwner c p.ctx = p.srcEp else p.srcEp / 2 ^ 28 = 2 ∧ type ≠ 0x20

/-- The model's own test of it. -/
theorem named_of_namedWell {c : Core} {p : Pkt} {type : Nat} (named : NamedWell c p type) (request : type ≠ 0x21) :
    (if p.ctx < 4096 then ctxOwner c p.ctx == p.srcEp else p.srcEp / 2 ^ 28 == 2 && type != 0x20 && type != 0x21) = true := by
  rw [NamedWell] at named
  split at named
  · rwa [if_pos ‹_›, beq_iff_eq]
  · obtain ⟨fm, other⟩ := named
    rw [if_neg ‹_›, fm, beq_self_eq_true, Bool.true_and, Bool.and_eq_true, bne_iff_ne, bne_iff_ne]
    exact ⟨other, request⟩

section
variable {c c1 c2 x : Core} {p : Pkt} {f : Pfx} {type ss t : Nat} {d : List Byte} (serves : inService c = true)
  (lands : landPkt c { p with cls := 0 } = (c1, some ss))
  (named : (if p.ctx < 4096 then ctxOwner c1 p.ctx == p.srcEp else p.srcEp / 2 ^ 28 == 2 && type != 0x20 && type != 0x21) = true)
  (whole : assemble c1 ss p.xid p.msgOff (if type = 0x11 ∨ type = 0x20 then f.len else 0) (if p.ctx < 4096 then ctxPart c1 p.ctx else 16)
    f.data = (c2, some d))
  (tag : newTag c2 = (x, some t))
include serves lands named whole tag

/-- A request message that lands from its context's owner joins those served. -/
theorem frieze_admitted : frieze p type (pfxBody f) (dataLen type f) f.data c = { x with net := { x.net with
    requests := x.net.requests ++ [{
      tag := t, sender := .session ss p.xid, ctx := p.ctx, part := if p.srcEp / 2 ^ 28 = 2 then fmPart else ctxPart c2 p.ctx,
      type := type, body := pfxBody f, data := d, cause := none, waited := 0, reply := none, port := p.port }] } } := by
  have length : dataLen type f = if type = 0x11 ∨ type = 0x20 then f.len else 0 := by
    simp only [dataLen, Bool.or_eq_true, decide_eq_true_eq]
  simp only [frieze, serves, lands, named, length, whole, admitReq, tag, Bool.not_true, Bool.false_eq_true, if_false, beq_iff_eq]

theorem requestRx_admitted {m : M} (core : m.core = c) (posted : type = 0x20 ∨ type = 0x21 → ctxRdma c p.ctx = false) :
    requestRx type p f m = { m with core := { x with net := { x.net with requests := x.net.requests ++ [{
      tag := t, sender := .session ss p.xid, ctx := p.ctx, part := if p.srcEp / 2 ^ 28 = 2 then fmPart else ctxPart c2 p.ctx,
      type := type, body := pfxBody f, data := d, cause := none, waited := 0, reply := none, port := p.port }] } } } := by
  have kept : ((decide (type = 0x20) || decide (type = 0x21)) && decide (p.ctx < 4096) && ctxRdma m.core p.ctx && inService m.core) =
      false := by
    rw [core]
    by_cases ring : type = 0x20 ∨ type = 0x21
    · rw [posted ring, Bool.and_false, Bool.false_and]
    · obtain ⟨ring, bell⟩ := not_or.mp ring
      simp [ring, bell]
  rw [requestRx, kept, if_neg Bool.false_ne_true, M.on, core, frieze_admitted serves lands named whole tag]

end

/-- The head of a request message whose command fixes its ARG, or not. -/
def withArg (f : Pfx) (arg : Option Nat) : Pfx :=
  match arg with
  | some a => { f with arg := a }
  | none => f

@[simp] theorem withArg_data (f : Pfx) (arg : Option Nat) : (withArg f arg).data = f.data := by cases arg <;> rfl
@[simp] theorem withArg_len (f : Pfx) (arg : Option Nat) : (withArg f arg).len = f.len := by cases arg <;> rfl

/-- Each command of a request message is the arrival of its type, with the ARG that the command fixes. -/
theorem RequestCmd.exec_eq {cmd : Pkt → Pfx → Instr} {type : Nat} {arg : Option Nat} (h : RequestCmd cmd type arg) (p : Pkt) (f : Pfx)
    (s : State) : exec (cmd p f) s = run (requestRx type p (withArg f arg)) s := by
  simp only [RequestCmd, List.mem_cons, Prod.mk.injEq, List.not_mem_nil, or_false] at h
  rcases h with ⟨rfl, rfl, rfl⟩ | ⟨rfl, rfl, rfl⟩ | ⟨rfl, rfl, rfl⟩ | ⟨rfl, rfl, rfl⟩ | ⟨rfl, rfl, rfl⟩ | ⟨rfl, rfl, rfl⟩ |
    ⟨rfl, rfl, rfl⟩ | ⟨rfl, rfl, rfl⟩ | ⟨rfl, rfl, rfl⟩ | ⟨rfl, rfl, rfl⟩ | ⟨rfl, rfl, rfl⟩ | ⟨rfl, rfl, rfl⟩ | ⟨rfl, rfl, rfl⟩ |
    ⟨rfl, rfl, rfl⟩ | ⟨rfl, rfl, rfl⟩ | ⟨rfl, rfl, rfl⟩ | ⟨rfl, rfl, rfl⟩ <;> rfl

/-- No command of a request message is a doorbell. -/
theorem RequestCmd.type_ne_doorbell {cmd : Pkt → Pfx → Instr} {type : Nat} {arg : Option Nat} (h : RequestCmd cmd type arg) :
    type ≠ 0x21 := by
  rintro rfl
  simp [RequestCmd] at h

/-- Settles O30: each command is the arrival of its type, and an arrival that its checks pass is admitted. -/
theorem requestsAreAdmitted : Obligations.RequestsAreAdmitted := by
  unfold Obligations.RequestsAreAdmitted
  intro cmd type arg command s p f f' c c1 c2 ss t d prefix_ serves posted lands named _ whole tag
  obtain rfl : f' = withArg f arg := prefix_.trans (by cases arg <;> rfl)
  rw [← withArg_data f arg, ← withArg_len f arg] at whole
  exact does_of_run (command.exec_eq p f s)
    (requestRx_admitted (m := s.m) serves lands (named_of_namedWell named command.type_ne_doorbell) whole tag rfl
      fun ring => posted (ring.resolve_right command.type_ne_doorbell))

/-! ### Sync objects -/

/-- No object of a run has a property that each lacks. -/
theorem inRun_of_none {first n : Nat} {q : Nat → Bool} (none_ : ∀ i < n, q (first + i) = false) : inRun first n q = false := by
  simpa only [inRun, List.any_eq_false, List.mem_range, Bool.not_eq_true] using none_

section
variable {m : M} {first n : Nat} (some_ : 1 ≤ n) (last : first + n ≤ 65536)
include some_ last

theorem syncGrant_accepted {q owner : Nat} (part : q < 16) (agent : owner < 65536) (unused : ∀ i < n, sync? m.core (first + i) = none)
    (active : partActive m.core q = true) : syncGrant first n q owner m =
      (m.on (fun c => (List.range n).foldl (fun c i => setSync c (first + i) {
        count := 0, target := 0, deadline := 0, partition := q, owner := owner, ownerValid := true, frozen := false, missed := false,
        armed := false, poisoned := false, waiters := [] }) c), .accepted, []) := by
  have none_ : inRun first n (fun s => (sync? m.core s).isSome) = false :=
    inRun_of_none fun i inside => by rw [unused i inside]; rfl
  unfold syncGrant
  rw [checked_pass (by simp [runOk, some_, last, part, agent, none_, active])]
  rfl

theorem syncFree_accepted (idle : ∀ i < n, ∃ o, sync? m.core (first + i) = some o ∧ o.frozen = false ∧ o.waiters = []) :
    syncFree first n m = (m.on (fun c => { c with sync := { c.sync with
      objs := c.sync.objs.filter (fun o => !(first ≤ o.1 && o.1 < first + n)) } }), .accepted, []) := by
  have none_ : inRun first n (fun s => match sync? m.core s with | none => true | some o => o.frozen || o.waiters != []) = false :=
    inRun_of_none fun i inside => by
      obtain ⟨o, there, thawed, alone⟩ := idle i inside
      simp only [there, thawed, alone]
      rfl
  have checks : ∀ x ∈ [(runOk first n, MgmtCode.badField), (!inRun first n (fun s => match sync? m.core s with
      | none => true | some o => o.frozen || o.waiters != []), .badState)], x.1 = true := by
    rw [none_]
    simp [runOk, some_, last]
  exact checked_pass checks

end

theorem syncIncrement_of_sent {c : Core} {k i q : Nat} (oldest : c.sync.sent.findIdx? (fun x => x.1 == k) = some i)
    (sent : c.sync.sent[i]? = some (k, q)) :
    syncIncrement k c = syncInc { c with sync := { c.sync with sent := dropAt c.sync.sent i } } k q := by
  simp only [syncIncrement, oldest, sent, Option.map_some, Option.getD_some]

theorem syncDeadline_of_missed {c : Core} {k : Nat} {o : SyncObj} (there : sync? c k = some o) (armed : o.armed = true)
    (thawed : o.frozen = false) (sound : o.poisoned = false) (first : o.missed = false) (limited : o.deadline ≠ 0)
    (passed : o.deadline < c.tick) (short : o.count < o.target) : syncDeadline k c =
      raise ((syncNotice (setSync c k { o with missed := true }) k 2).count SYN_DEADLINE_MISSED) .synDeadlineMissed 12 k := by
  simp only [syncDeadline, there, armed, thawed, sound, first, limited, passed, short, ne_eq, not_false_eq_true, decide_true,
    Bool.not_false,
    Bool.and_self, if_true]

section
variable {m : M} {r : Request} {k : Nat} {o : SyncObj} (number : k = r.body.getD 0 0 % 65536) (there : sync? m.core k = some o)
  (thawed : o.frozen = false) (sound : o.poisoned = false) (agent : r.part ≠ fmPart) (mine : r.part = o.partition)
include number there thawed sound agent mine

/-- An increment counts under the object's own partition. -/
theorem syncReq_inc (type : r.type = 0x28) : syncReq r m = (m.on (fun c => syncInc c k o.partition), .reply {}) := by
  subst number
  simp only [syncReq, there, thawed, sound, agent, mine.symm, type, ne_eq, not_true_eq_false, not_false_eq_true, decide_true, decide_false,
    Bool.and_false, Bool.false_and, Bool.or_self, Bool.false_eq_true, if_false]

theorem syncReq_read (type : r.type = 0x29) :
    syncReq r m = (m, .reply { value := w64 o.count, detail := w64 (if o.armed then o.target else 0) }) := by
  subst number
  simp only [syncReq, there, thawed, sound, agent, mine.symm, type, ne_eq, not_true_eq_false, not_false_eq_true, decide_true, decide_false,
    Bool.and_false, Bool.false_and, Bool.or_self, Bool.false_eq_true, if_false]
  rfl

variable {ss xid : Nat} {y : Session} (sender : r.sender = .session ss xid) (session : sess? m.core ss = some y)
  (owner : o.owner = y.remote % 65536)
include sender session owner

theorem syncReq_arm (type : r.type = 0x2A) (valid : o.ownerValid = true) (limited : r.body.getD 2 0 ≠ 0) :
    syncReq r m = ({ m with core := syncCheck (setSync m.core k { o with
      target := r.body.getD 3 0, armed := true, missed := false, deadline := m.core.tick + r.body.getD 2 0 }) k }, .reply {}) := by
  have asks : reqAgent m.core r = (m.core, o.owner) := by rw [owner]; exact reqAgent_of_session sender session
  subst number
  simp only [syncReq, there, thawed, sound, agent, mine.symm, type, asks, valid, limited, ne_eq, not_true_eq_false, not_false_eq_true,
    decide_true, decide_false, Bool.not_true, Bool.and_false, Bool.false_and, Bool.or_self, Bool.false_eq_true, if_false]

theorem syncReq_reset (type : r.type = 0x2B) (alone : o.waiters = []) :
    syncReq r m = ({ m with core := setSync m.core k { o with
      count := 0, target := 0, deadline := 0, armed := false, missed := false } }, .reply {}) := by
  have asks : reqAgent m.core r = (m.core, o.owner) := by rw [owner]; exact reqAgent_of_session sender session
  subst number
  simp only [syncReq, there, thawed, sound, agent, mine.symm, type, asks, alone, ne_eq, not_true_eq_false, not_false_eq_true,
    decide_true, decide_false, Bool.and_false, Bool.or_self, Bool.false_eq_true, if_false]

end

/-- Messages of types 0x28 to 0x2B are served on sync objects. -/
theorem serveHere_sync {r : Request} (m : M) (type : r.type = 0x28 ∨ r.type = 0x29 ∨ r.type = 0x2A ∨ r.type = 0x2B) :
    serveHere r m = syncReq r m := by
  rcases type with type | type | type | type <;> simp only [serveHere, type]

/-- Settles O32: each request's and message's meaning in the case that its conditions choose. -/
theorem syncObjects : Obligations.SyncObjects := by
  unfold Obligations.SyncObjects
  refine ⟨?grant, ?free, ?increment, ?deadline, ?messages⟩
  case grant =>
    intro s src first n q owner m asks some_ last part agent unused active
    exact does_of_run rfl (mgmt_accepted asks (syncGrant_accepted some_ last part agent unused active))
  case free =>
    intro s src first n m asks some_ last idle
    exact does_of_run rfl (mgmt_accepted asks (syncFree_accepted some_ last idle))
  case increment => exact fun s k i q serves oldest sent => does_of_servedCore rfl serves (syncIncrement_of_sent oldest sent)
  case deadline =>
    intro s k o serves there armed thawed sound first limited passed short
    exact does_of_servedCore rfl serves (syncDeadline_of_missed there armed thawed sound first limited passed short)
  case messages =>
    intro m r k o number there thawed sound agent mine
    refine ⟨fun type => ?inc, fun type => ?read, fun ss xid y sender session owner =>
      ⟨fun type valid limited => ?arm, fun type alone => ?reset⟩⟩
    case inc => exact (serveHere_sync m (by simp [type])).trans (syncReq_inc number there thawed sound agent mine type)
    case read => exact (serveHere_sync m (by simp [type])).trans (syncReq_read number there thawed sound agent mine type)
    case arm =>
      exact (serveHere_sync m (by simp [type])).trans
        (syncReq_arm number there thawed sound agent mine sender session owner type valid limited)
    case reset =>
      exact (serveHere_sync m (by simp [type])).trans
        (syncReq_reset number there thawed sound agent mine sender session owner type alone)

end Sys2Proof.Machine

/-! Coherent windows (chapter 12): what the domains' requests and the members' messages come to at the home in the case that their
conditions choose, and the statements. -/

namespace Sys2Proof.Machine
open Sys2Proof

/-! ### Domains (R433 to R437, R456, R460) -/

theorem domainCreate_accepted {b : DomainDef} {m : M} {old : Domain} (checks : ∀ x ∈ createChecks m.core b, x.1 = true)
    (before : old = ((domain? (readyWindows b m).core b.domain).getD ⟨.up, b.partition, [], [], 0, none, 0, 0, []⟩)) :
    domainCreate b m = ((readyWindows b m).on (fun c => setDomain c b.domain
      { old with st := .up, partition := b.partition, members := b.members.zipIdx.map (fun y => (y.2, y.1)), windows := b.windows }),
      .accepted, []) := by
  subst before
  exact checked_pass checks

section
variable {m : M} {d : Nat} {x : Domain} (number : d < 256) (there : domain? m.core d = some x)
include number there

theorem domainDestroy_accepted (down : x.st = .down) : domainDestroy d m =
    (m.on (fun c => { c with coh := { c.coh with domains := amDel c.coh.domains d } }), .accepted, []) := by
  simp only [domainDestroy, Nat.not_le.mpr number, there, down, accept, if_false, if_true]

theorem domainDownReq_accepted (lives : x.st ≠ .down) :
    domainDownReq d m = (m.on (fun c => cohFail c d 8 none), .accepted, []) := by
  simp only [domainDownReq, Nat.not_le.mpr number, there, lives, accept, if_false]

variable {i : Nat} (index : i < 64) (up : x.st = .up)
include index up

theorem memberAdd_accepted {agent ctx : Nat} (free : amGet? x.members i = none) (may : memberOk m.core x.partition (agent, ctx) = true) :
    memberAdd d i agent ctx m =
      (m.on (fun c => modDomain c d (fun x => { x with members := amSet x.members i (agent, ctx) })), .accepted, []) := by
  simp only [memberAdd, Nat.not_le.mpr number, Nat.not_le.mpr index, there, decide_false, Bool.or_self, Bool.false_eq_true, if_false]
  exact checked_pass (by simp [up, free, may])

theorem memberRemove_begun {src : Src} (fm : srcFm src = true) (member : (amGet? x.members i).isSome = true)
    (stays : x.removing.any (fun r => r.1 == i) = false) : memberRemove d i src m =
      (m.on (fun c => removeStep (modDomain c d (fun x => { x with removing := x.removing ++ [(i, src)] })) d), none) := by
  have member' : (amGet? x.members i).isNone = false := by simpa using member
  simp only [memberRemove, fm, Nat.not_le.mpr number, Nat.not_le.mpr index, there, up, member', stays, ne_eq, not_true_eq_false,
    decide_false, Bool.not_true, Bool.or_self, Bool.false_eq_true, if_false]

end

theorem drainEnd_of_drained {m x : M} {d time : Nat} {v : Domain} (timed : x = m.on (fun c => c.at time))
    (there : domain? x.core d = some v) (drains : v.st = .draining)
    (due : v.downAt + x.core.fld COH_TIMING1 COH_TIMING1_DRAIN_US * 1000 ≤ x.core.glb.now) :
    drainEnd d time m = (((linesOf x.core d).filter (fun l => l.2.owner.isSome)).foldl (fun m l => poisonLine m d l.1) x).on
      (fun c => domainDown c d) := by
  rw [drainEnd, ← timed]
  simp only [there, drains, Nat.not_lt.mpr due, ne_eq, not_true_eq_false, decide_false, Bool.or_self, Bool.false_eq_true, if_false]

/-- Settles O33: each request's body in the case that its conditions choose. -/
theorem coherenceDomains : Obligations.CoherenceDomains := by
  unfold Obligations.CoherenceDomains
  refine ⟨?create, ?destroy, ?down, ?add, ?remove, ?drained⟩
  case create =>
    exact fun s src b m asks checks old before => does_of_run rfl (mgmt_accepted asks (domainCreate_accepted checks before))
  case destroy =>
    exact fun s src d x m asks number there down => does_of_run rfl (mgmt_accepted asks (domainDestroy_accepted number there down))
  case down =>
    exact fun s src d x m asks number there lives => does_of_run rfl (mgmt_accepted asks (domainDownReq_accepted number there lives))
  case add =>
    intro s src d i agent ctx x m asks number index there up free may
    exact does_of_run rfl (mgmt_accepted asks (memberAdd_accepted number there index up free may))
  case remove =>
    intro s src d i x m asks number index there up member stays
    exact does_of_run rfl (mgmt_later asks.1 (memberRemove_begun number there index up asks.2 member stays))
  case drained =>
    exact fun s d time x m serves timed there drains due => does_of_served rfl serves (drainEnd_of_drained timed there drains due)

/-! ### Messages of members (R436, R442 to R448) -/

/-- The meaning of each SUBTYPE at the home of a domain that is UP. -/
def cohUp (sub : Nat) (x : CohMsg) (v : Domain) (k : Nat) (m : M) : M :=
  match sub with
  | 1 => cohGet m x.domain v x.member x.tid x.arg k false
  | 2 => cohGet m x.domain v x.member x.tid x.arg k true
  | 3 => cohPutM m x.domain x.member x.tid k x.data (bitOf x.arg 0)
  | 4 => m.on (fun c => cohPutS c x.domain x.member x.tid k)
  | 12 => cohAck m x.domain x.member k x.data (bitOf x.arg 0) false
  | 13 => cohAck m x.domain x.member k x.data (bitOf x.arg 0) true
  | 14 => cohInvAck m x.domain x.member k
  | _ => cohEvicted m x.domain x.member k

/-- A member's message that arrives is served by its SUBTYPE. -/
theorem CohArrives.cohRx_eq {s : State} {sub : Nat} {p : Pkt} {x : CohMsg} {c : Core} {v : Domain} {k : Nat}
    (h : CohArrives s sub p x c v k) :
    cohRx sub p x s.m = cohUp sub x v k { s.m with core := if sub = 1 ∨ sub = 2 then c.perf COH_REQUESTS else c } := by
  obtain ⟨serves, ⟨n, lands⟩, tags, home, domain, up, member, inside, aligned, key⟩ := h
  have serves' : inService s.m.core = true := serves
  have lands' : landPkt s.m.core { p with cls := cohClass sub } = (c, some n) := lands
  subst key
  simp only [cohRx, serves', lands', tags, home, cohServe, domain, up, member, inside, aligned, beq_self_eq_true, decide_true,
    Bool.and_false, Bool.and_self, Bool.not_true, Bool.or_self, Bool.false_eq_true, if_false, if_true, M.on]
  by_cases get : sub = 1 ∨ sub = 2
  · simp only [get, if_true]; rfl
  · simp only [get, if_false]; rfl

section
variable {m : M} {c : Core} {d r tid retry k : Nat} {v : Domain} {want : Bool} (noted : c = noteRetry m.core k r retry)
  (few : openOf c d r < 32)
include noted few

/-- An Invalid line with a free way is granted. -/
theorem cohGet_of_absent (absent : line? c k = none) (room : (setLines c v.partition k).length < c.fld (COH_WAYS v.partition) COH_WAYS_F) :
    cohGet m d v r tid retry k want = dataGrant { m with core := c } k (freshLine d r) r tid retry (if want then some r else none)
      (if want then [] else [r]) := by
  subst noted
  simp only [cohGet, absent, Nat.not_le.mpr few, Nat.not_le.mpr room, if_false]
  rfl

variable {l : CohLine} (there : line? c k = some l) (idle : l.busy = none) (unclaimed : c.coh.claims.any (fun t => t.1 == k) = false)
  (open_ : barred c l r want = false) (unreserved : l.resv = none)
include there idle unclaimed open_ unreserved

/-- A line with another owner is forwarded to it. -/
theorem cohGet_of_owned {o : Nat} {tx : CohTx} (owned : l.owner = some o) (other : o ≠ r)
    (opens : tx = ⟨if want then .getM r tid else .getS r tid, [], some o, false, false, c.glb.now⟩) :
    cohGet m d v r tid retry k want = { m with
      core := cohSend (setLine (c.perf COH_FORWARDS) k { l with busy := some tx }) d o (if want then 6 else 5) 0 r tid k 0 } := by
  subst noted opens
  simp only [cohGet, there, idle, unclaimed, open_, unreserved, owned, other, Nat.not_le.mpr few, Option.isSome_none, Option.any_none,
    Option.map_none, reduceCtorEq, Bool.or_self, Bool.false_eq_true, if_false, M.on]

/-- A line without an owner is shared. -/
theorem cohGet_of_shared (unowned : l.owner = none) (shared : want = false) :
    cohGet m d v r tid retry k want =
      dataGrant { m with core := c } k l r tid retry none (l.sharers.filter (· != r) ++ [r]) := by
  subst noted shared
  simp only [cohGet, there, idle, unclaimed, open_, unreserved, unowned, Nat.not_le.mpr few, Option.isSome_none, Option.any_none,
    Option.map_none, reduceCtorEq, Bool.or_self, Bool.not_false, Bool.false_eq_true, if_false, if_true]

/-- A line that others share is invalidated there. -/
theorem cohGet_of_others {tx : CohTx} (unowned : l.owner = none) (alone : want = true) (others : l.sharers.filter (· != r) ≠ [])
    (opens : tx = ⟨.getM r tid, l.sharers.filter (· != r), none, false, false, c.glb.now⟩) :
    cohGet m d v r tid retry k want = { m with
      core := (l.sharers.filter (· != r)).foldl (fun c i => cohSend c d i 7 0 r tid k 0) (setLine c k { l with busy := some tx }) } := by
  subst noted alone opens
  simp only [cohGet, there, idle, unclaimed, open_, unreserved, unowned, others, Nat.not_le.mpr few, Option.isSome_none, Option.any_none,
    Option.map_none, reduceCtorEq, Bool.or_self, Bool.not_true, Bool.false_eq_true, if_false, if_true, M.on]

end

/-- A good line that its owner evicts is written and freed. -/
theorem cohPutM_of_owner {m : M} {d r tid k : Nat} {data : List Byte} {l : CohLine} (there : line? m.core k = some l)
    (idle : l.busy = none) (owned : l.owner = some r) : cohPutM m d r tid k data false = (writeLine m k data false).on (fun c =>
      lineDone (freeLine (cohSend c d r 16 1 0 tid k 0) k) d k) := by
  simp only [cohPutM, there, idle, owned, ne_eq, not_true_eq_false, Bool.false_eq_true, if_false]

theorem cohPutS_of_absent {c : Core} {d r tid k : Nat} (absent : line? c k = none) :
    cohPutS c d r tid k = cohSend c d r 16 1 0 tid k 0 := by
  simp only [cohPutS, absent]

theorem cohPutS_of_sharer {c : Core} {d r tid k : Nat} {l : CohLine} (there : line? c k = some l) (idle : l.busy = none)
    (shares : l.sharers.contains r = true) (others : l.sharers.filter (· != r) ≠ []) : cohPutS c d r tid k =
      lineDone (setLine (cohSend c d r 16 1 0 tid k 0) k { l with sharers := l.sharers.filter (· != r) }) d k := by
  simp only [cohPutS, there, idle, shares, others, Option.isSome_none, Bool.false_eq_true, if_false, if_true]

/-- Settles O34: each message's meaning at the home in the case that the line's state chooses. -/
theorem coherenceRequests : Obligations.CoherenceRequests := by
  unfold Obligations.CoherenceRequests
  refine ⟨?getS, ?getM, ?putM, ?putS⟩
  case getS =>
    intro s p x c c1 v k arrives noted few
    have meaning : cohRx 1 p x s.m = cohGet { s.m with core := c.perf COH_REQUESTS } x.domain v x.member x.tid x.arg k false :=
      arrives.cohRx_eq
    refine ⟨fun absent room => ?absent, fun l o there idle unclaimed open_ unreserved owned other tx opens => ?owned,
      fun l there idle unclaimed open_ unreserved unowned => ?shared⟩
    case absent => exact does_of_run rfl (meaning.trans (cohGet_of_absent noted few absent room))
    case owned =>
      exact does_of_run rfl (meaning.trans (cohGet_of_owned noted few there idle unclaimed open_ unreserved owned other opens))
    case shared => exact does_of_run rfl (meaning.trans (cohGet_of_shared noted few there idle unclaimed open_ unreserved unowned rfl))
  case getM =>
    intro s p x c c1 v k arrives noted few
    have meaning : cohRx 2 p x s.m = cohGet { s.m with core := c.perf COH_REQUESTS } x.domain v x.member x.tid x.arg k true :=
      arrives.cohRx_eq
    refine ⟨fun absent room => ?absent, fun l o there idle unclaimed open_ unreserved owned other tx opens => ?owned,
      fun l there idle unclaimed open_ unreserved unowned others tx opens => ?others⟩
    case absent => exact does_of_run rfl (meaning.trans (cohGet_of_absent noted few absent room))
    case owned =>
      exact does_of_run rfl (meaning.trans (cohGet_of_owned noted few there idle unclaimed open_ unreserved owned other opens))
    case others =>
      exact does_of_run rfl (meaning.trans (cohGet_of_others noted few there idle unclaimed open_ unreserved unowned rfl others opens))
  case putM =>
    intro s p x c v k l arrives there idle owned good
    have meaning : cohRx 3 p x s.m = cohPutM { s.m with core := c } x.domain x.member x.tid k x.data (bitOf x.arg 0) := arrives.cohRx_eq
    rw [good] at meaning
    exact does_of_run rfl (meaning.trans (cohPutM_of_owner there idle owned))
  case putS =>
    intro s p x c v k arrives
    have meaning : cohRx 4 p x s.m = { s.m with core := cohPutS c x.domain x.member x.tid k } := arrives.cohRx_eq
    refine ⟨fun absent => ?absent, fun l there idle shares others => ?sharer⟩
    case absent => exact does_of_run rfl (meaning.trans (congrArg (M.mk · s.m.mem) (cohPutS_of_absent absent)))
    case sharer => exact does_of_run rfl (meaning.trans (congrArg (M.mk · s.m.mem) (cohPutS_of_sharer there idle shares others)))

/-! ### Answers of members (R443, R448, R449, R453) -/

section
variable {m : M} {d r k : Nat} {l : CohLine} {tx : CohTx} (there : line? m.core k = some l) (busy : l.busy = some tx)
include there busy

section
variable (snooped : tx.snooped = some r) (noPut : tx.putCame = false) (noEvicted : tx.evictedCame = false)
include snooped noPut noEvicted

/-- A good answer of the owner that carries data where its transaction needs it ends the transaction. -/
theorem cohAck_of_getS {data : List Byte} {q tid : Nat} (kind : tx.kind = .getS q tid) (some_ : data ≠ []) :
    cohAck m d r k data false false =
      (writeLine m k data false).on (fun c => grantLine c k l none ((r :: l.sharers).filter (· != q) ++ [q]) q) := by
  have carried : (data != []) = true := bne_iff_ne.mpr some_
  simp only [cohAck, there, busy, kind, snooped, noPut, noEvicted, carried, endTx, Option.bind_some, Option.map_some, Option.toList_some,
    List.cons_append, List.nil_append, bne_self_eq_false, Bool.true_beq, ne_eq, not_true_eq_false, decide_false, Bool.or_self,
    Bool.false_eq_true, if_false, if_true]

theorem cohAck_of_getM {q tid : Nat} (kind : tx.kind = .getM q tid) :
    cohAck m d r k [] false false = m.on (fun c => grantLine c k l (some q) [] q) := by
  simp only [cohAck, there, busy, kind, snooped, noPut, noEvicted, endTx, Option.bind_some, Option.map_some, bne_self_eq_false,
    Bool.true_beq,
    ne_eq, not_true_eq_false, decide_false, Bool.or_self, Bool.false_eq_true, if_false]

theorem cohAck_of_recall {data : List Byte} (kind : tx.kind = .recall) (some_ : data ≠ []) :
    cohAck m d r k data false true = (writeLine m k data false).on (fun c => lineDone (freeLine c k) l.domain k) := by
  have carried : (data != []) = true := bne_iff_ne.mpr some_
  simp only [cohAck, there, busy, kind, snooped, noPut, noEvicted, carried, endTx, Option.bind_some, Option.map_some, bne_self_eq_false,
    Bool.false_beq, Bool.not_true, ne_eq, not_true_eq_false, decide_false, Bool.or_self, Bool.false_eq_true, if_false, if_true]

end

section
variable (awaited : tx.invs.contains r = true)
include awaited

theorem cohInvAck_of_more (more : tx.invs.filter (· != r) ≠ []) : cohInvAck m d r k =
    m.on (fun c => setLine c k { l with busy := some { tx with invs := tx.invs.filter (· != r) } }) := by
  simp only [cohInvAck, there, busy, awaited, more, Option.bind_some, Option.map_some, ne_eq, not_false_eq_true, Bool.not_true,
    Bool.false_eq_true, if_false, if_true]

variable {q tid : Nat} (kind : tx.kind = .getM q tid)
include kind

/-- With the last acknowledgement a requester that shares the line owns it. -/
theorem cohInvAck_of_last_sharer (last : tx.invs.filter (· != r) = []) (shares : l.sharers.contains q = true) : cohInvAck m d r k =
    m.on (fun c => grantLine (cohSend c d q 11 1 0 tid k 0) k l (some q) [] q) := by
  simp only [cohInvAck, there, busy, kind, awaited, last, shares, Option.bind_some, Option.map_some, ne_eq, not_true_eq_false,
    Bool.not_true,
    Bool.false_eq_true, if_false, if_true]

/-- One that does not is sent the data. -/
theorem cohInvAck_of_last_other (last : tx.invs.filter (· != r) = []) (other : l.sharers.contains q = false) :
    cohInvAck m d r k = dataGrant m k l q tid 0 (some q) [] := by
  simp only [cohInvAck, there, busy, kind, awaited, last, other, Option.bind_some, Option.map_some, ne_eq, not_true_eq_false, Bool.not_true,
    Bool.false_eq_true, if_false]

end

theorem cohEvicted_of_snooped (snooped : tx.snooped = some r) (noPut : tx.putCame = false) (noEvicted : tx.evictedCame = false) :
    cohEvicted m d r k =
      m.on (fun c => setLine c k { l with busy := some { tx with evictedCame := true, since := m.core.glb.now } }) := by
  simp only [cohEvicted, there, busy, snooped, noPut, noEvicted, crossed, Option.bind_some, Option.map_some, ne_eq, not_true_eq_false,
    decide_false, Bool.or_self, Bool.false_and, Bool.false_eq_true, if_false]

end

/-! ### Holds, reservations and timeouts (R446, R447, R454) -/

theorem reservationExpiry_eq (line : W64) (time : Nat) (c : Core) : reservationExpiry line time c =
    modLine (c.at time) (lineOf line) (fun l => match l.resv with
      | some v => if v.2 + 16 * c.fld COH_TIMING0 COH_TIMING0_HOLD_NS ≤ max c.glb.now time then { l with resv := none } else l
      | none => l) := by
  rw [reservationExpiry]
  congr 1
  funext l
  cases l.resv <;> rfl

theorem holdExpiry_of_free {line : W64} {time : Nat} {c : Core} {l : CohLine} (there : line? c (lineOf line) = some l)
    (ended : holdLeft (c.at time) l = 0) (idle : l.busy = none) : holdExpiry line time c =
      wakeOn (· == .line (lineExt (lineOf line)) (lineOff (lineOf line))) (c.at time) := by
  have there' : line? (c.at time) (lineOf line) = some l := there
  simp only [holdExpiry, there', ended, idle, Option.isNone_none, decide_true, Bool.and_self, if_true]

theorem cohTimeout_of_silent {line : W64} {time : Nat} {c : Core} {l : CohLine} {tx : CohTx} {v : Domain}
    (there : line? c (lineOf line) = some l) (busy : l.busy = some tx) (domain : domain? c l.domain = some v) (up : v.st = .up)
    (due : tx.since + c.fld COH_TIMING1 COH_TIMING1_TIMEOUT_US * 1000 ≤ max c.glb.now time) :
    cohTimeout line time c = cohFail (c.at time) l.domain 1 (if tx.snooped.isSome then tx.snooped else tx.invs.head?) := by
  have there' : line? (c.at time) (lineOf line) = some l := there
  have domain' : domain? (c.at time) l.domain = some v := domain
  have due' : ¬(c.at time).glb.now < tx.since + (c.at time).fld COH_TIMING1 COH_TIMING1_TIMEOUT_US * 1000 := Nat.not_lt.mpr due
  simp only [cohTimeout, there', busy, domain', up, due', Option.any_some, bne_self_eq_false, decide_false, Bool.or_self,
    Bool.false_eq_true, if_false]

/-- Settles O35: each answer's meaning at the home in the case that the line's transaction chooses. -/
theorem coherenceAnswers : Obligations.CoherenceAnswers := by
  unfold Obligations.CoherenceAnswers
  refine ⟨?getS, ?getM, ?recalled, ?invs, ?evicted, ?reservation, ?hold, ?timeout⟩
  case getS =>
    intro s p x c v k r tid l tx arrives there busy kind snooped noPut noEvicted some_ good
    have meaning : cohRx 12 p x s.m = cohAck { s.m with core := c } x.domain x.member k x.data (bitOf x.arg 0) false := arrives.cohRx_eq
    rw [good] at meaning
    exact does_of_run rfl (meaning.trans (cohAck_of_getS there busy snooped noPut noEvicted kind some_))
  case getM =>
    intro s p x c v k r tid l tx arrives there busy kind snooped noPut noEvicted none_ good
    have meaning : cohRx 12 p x s.m = cohAck { s.m with core := c } x.domain x.member k x.data (bitOf x.arg 0) false := arrives.cohRx_eq
    rw [good, none_] at meaning
    exact does_of_run rfl (meaning.trans (cohAck_of_getM there busy snooped noPut noEvicted kind))
  case recalled =>
    intro s p x c v k l tx arrives there busy kind snooped noPut noEvicted some_ good
    have meaning : cohRx 13 p x s.m = cohAck { s.m with core := c } x.domain x.member k x.data (bitOf x.arg 0) true := arrives.cohRx_eq
    rw [good] at meaning
    exact does_of_run rfl (meaning.trans (cohAck_of_recall there busy snooped noPut noEvicted kind some_))
  case invs =>
    intro s p x c v k r tid l tx arrives there busy kind awaited
    have meaning : cohRx 14 p x s.m = cohInvAck { s.m with core := c } x.domain x.member k := arrives.cohRx_eq
    refine ⟨fun more => ?more, fun last shares => ?sharer, fun last other => ?other⟩
    case more => exact does_of_run rfl (meaning.trans (cohInvAck_of_more there busy awaited more))
    case sharer => exact does_of_run rfl (meaning.trans (cohInvAck_of_last_sharer there busy awaited kind last shares))
    case other => exact does_of_run rfl (meaning.trans (cohInvAck_of_last_other there busy awaited kind last other))
  case evicted =>
    intro s p x c v k l tx arrives there busy snooped noPut noEvicted
    have meaning : cohRx 15 p x s.m = cohEvicted { s.m with core := c } x.domain x.member k := arrives.cohRx_eq
    exact does_of_run rfl (meaning.trans (cohEvicted_of_snooped there busy snooped noPut noEvicted))
  case reservation => exact fun s line time serves => does_of_servedCore rfl serves (reservationExpiry_eq line time s.core)
  case hold => exact fun s line time l serves there ended idle => does_of_servedCore rfl serves (holdExpiry_of_free there ended idle)
  case timeout =>
    intro s line time l tx v serves there busy domain up due
    exact does_of_servedCore rfl serves (cohTimeout_of_silent there busy domain up due)

end Sys2Proof.Machine

/-! What control words and events do to registers: the rules by which contexts' registers are read after them. -/

namespace Sys2Proof.Machine
open Sys2Proof

/-- A register read depends on the registers alone. -/
theorem Core.rget_congr {c d : Core} (same : c.regs = d.regs) (a : Nat) : c.rget a = d.rget a := by
  rw [Core.rget, same, Core.rget]

theorem rget_withGlb (c : Core) (g : GlbSt) (a : Nat) : ({ c with glb := g } : Core).rget a = c.rget a := Core.rget_congr rfl a
theorem rget_withPair (c : Core) (q : PairSt) (a : Nat) : ({ c with pair := q } : Core).rget a = c.rget a := Core.rget_congr rfl a
theorem rget_withGlbPins (c : Core) (g : GlbSt) (p : PinSt) (a : Nat) : ({ c with glb := g, pins := p } : Core).rget a = c.rget a :=
  Core.rget_congr rfl a

/-! ### Control words (R566, R581) -/

@[simp] theorem rget_ctrlMend (c : Core) (w : CtrlWord) (a : Nat) : (ctrlMend c w).rget a = c.rget a := by
  unfold ctrlMend; split <;> rfl

section
variable {a : Nat} (flip : a ≠ ECC_FLIP_CTRL) (written : a ≠ ECC_POISON_WRITTEN)
include flip written

theorem rget_struck_ne (c : Core) (p : Nat) : (struck c p).1.rget a = c.rget a := by
  unfold struck
  split
  · extract_lets
    split
    split
    · exact Core.rget_setFld_ne _ _ _ flip
    · exact Core.rget_setFld_ne _ _ _ flip
    · exact (Core.rget_count_ne _ _ written).trans (Core.rget_setFld_ne _ _ _ flip)
    · exact Core.rget_setFld_ne _ _ _ flip
  · rfl

/-- A control word that is written touches no other register than the flip mask's and the count of poisoned words. -/
theorem rget_wroteCtrl_ne (p : Nat) (w : CtrlWord) (c : Core) : (wroteCtrl p w c).rget a = c.rget a := by
  have hit := (rget_struck_ne flip written (ctrlMend c w) p).trans (rget_ctrlMend c w a)
  unfold wroteCtrl
  split
  · next h => rw [h] at hit; exact hit
  · next h => rw [h] at hit; exact hit

theorem fld_wroteCtrl_ne (p : Nat) (w : CtrlWord) (c : Core) (g : Fld) : (wroteCtrl p w c).fld a g = c.fld a g := by
  rw [Core.fld, rget_wroteCtrl_ne flip written, Core.fld]

end

/-- With no flip mask armed a control word that is written touches no register at all. -/
theorem wroteCtrl_regs_of_unarmed {p : Nat} {w : CtrlWord} {c : Core} (unarmed : c.flag ECC_FLIP_CTRL ECC_FLIP_CTRL_ARMED = false) :
    (wroteCtrl p w c).regs = c.regs := by
  have kept : (ctrlMend c w).regs = c.regs := by unfold ctrlMend; split <;> rfl
  have same : (ctrlMend c w).flag ECC_FLIP_CTRL ECC_FLIP_CTRL_ARMED = false := by
    rw [Core.flag, Core.fld, rget_ctrlMend]; exact unarmed
  have miss : struck (ctrlMend c w) p = (ctrlMend c w, .fine) := by
    unfold struck flipHits
    rw [same]
    rfl
  unfold wroteCtrl
  rw [miss]
  exact kept

/-! ### Events (R699 to R707) -/

/-- The registers that an event may write: the flip mask and the count of poisoned words, by the log's control words; the status and
the last FATAL; the ring's and the pair's status, by a FATAL; and the log's counts. -/
def eventRegs : List Nat := [ECC_FLIP_CTRL, ECC_POISON_WRITTEN, GLB_STATUS, GLB_LAST_FATAL, RING_STATUS, PAIR_STATUS, EVT_LOST,
  EVT_NEXT_SEQ, EVT_COUNT 0, EVT_COUNT 1, EVT_COUNT 2, EVT_COUNT 3, EVT_COUNT 4, EVT_COUNT 5]

/-- Those of them that an entry of the log may write. -/
def logRegs : List Nat := [ECC_FLIP_CTRL, ECC_POISON_WRITTEN, GLB_STATUS, EVT_LOST, EVT_NEXT_SEQ, EVT_COUNT 0, EVT_COUNT 1, EVT_COUNT 2,
  EVT_COUNT 3, EVT_COUNT 4, EVT_COUNT 5]

/-- A register that no event touches. -/
def Unlogged (a : Nat) : Prop := a ∉ eventRegs

theorem Unlogged.ne {a b : Nat} (apart : Unlogged a) (logged : b ∈ eventRegs) : a ≠ b := fun same => apart (same ▸ logged)

/-- The registers of the contexts and of the sync objects lie above every one that events write. -/
theorem unlogged_of_high {a : Nat} (high : 0x400000 ≤ a) : Unlogged a := by
  intro logged
  have low : ∀ b ∈ eventRegs, b < 0x400000 := by decide
  exact absurd high (Nat.not_le.mpr (low a logged))

/-- Severities go from CORRECTED to FATAL. -/
theorem evSev_le (e : Ev) (kind : Nat) : evSev e kind ≤ 5 := by
  have table : (evRow e).2.2 ≤ 5 := by cases e <;> decide
  unfold evSev
  split
  · exact Nat.zero_le 5
  · exact table

theorem escalate_le (c : Core) (err : Bool) {sev : Nat} (kind unit : Nat) (le : sev ≤ 5) : (escalate c err sev kind unit).1 ≤ 5 := by
  unfold escalate
  dsimp only
  split
  · split
    · dsimp only; omega
    · split
      · dsimp only; omega
      · split
        · exact Nat.le_refl 5
        · dsimp only; omega
  · exact le

/-- An entry of the log touches no other register. -/
theorem rget_logEntry_ne {a : Nat} (out : a ∉ logRegs) (c : Core) (code : Nat) {sev : Nat} (esc : Bool) (kind unit cnt detail : Nat)
    (le : sev ≤ 5) : (logEntry c code sev esc kind unit cnt detail).rget a = c.rget a := by
  have ne {b : Nat} (logged : b ∈ logRegs) : a ≠ b := fun same => out (same ▸ logged)
  unfold logEntry
  extract_lets _ i lost
  have kept : lost.rget a = c.rget a := by
    change (match amGet? c.glb.log i with | some old => if old.read then c else _ | none => c : Core).rget a = _
    split
    · split
      · rfl
      · rw [Core.rget_setFld_ne _ _ _ (ne (by decide)), Core.rget_count_ne _ _ (ne (by decide))]
    · rfl
  have bounded : EVT_COUNT sev ∈ logRegs := by
    have all : ∀ k : Fin 6, EVT_COUNT k ∈ logRegs := by decide
    exact all ⟨sev, Nat.lt_succ_of_le le⟩
  rw [Core.rget_count_ne _ _ (ne bounded), Core.rget_count_ne _ _ (ne (by decide)),
    rget_wroteCtrl_ne (ne (by decide)) (ne (by decide))]
  exact kept

theorem Unlogged.out {a : Nat} (high : Unlogged a) : a ∉ logRegs := by
  have among : ∀ b ∈ logRegs, b ∈ eventRegs := by decide
  exact fun logged => high (among a logged)

section
variable {a : Nat} (high : Unlogged a)
include high

theorem rget_fatal_of_unlogged (c : Core) (code kind unit : Nat) : (fatal c code kind unit).rget a = c.rget a := by
  unfold fatal
  extract_lets _ c1 c2 c3 c4 c5 c6 c7 _ c8
  have k1 : c1.rget a = c.rget a := Core.rget_setFld_ne _ _ _ (high.ne (by decide))
  clear_value c1
  have k2 : c2.rget a = c.rget a := (Core.rget_setFld_ne _ _ _ (high.ne (by decide))).trans k1
  clear_value c2
  have k3 : c3.rget a = c.rget a := (Core.rget_setFld_ne _ _ _ (high.ne (by decide))).trans k2
  clear_value c3
  have k4 : c4.rget a = c.rget a := (Core.rget_setFld_ne _ _ _ (high.ne (by decide))).trans k3
  clear_value c4
  have k5 : c5.rget a = c.rget a := (Core.rget_setFld_ne _ _ _ (high.ne (by decide))).trans k4
  clear_value c5
  have k6 : c6.rget a = c.rget a := (Core.rget_setFld_ne _ _ _ (high.ne (by decide))).trans k5
  clear_value c6
  have k7 : c7.rget a = c.rget a := (Core.rget_setFld_ne _ _ _ (high.ne (by decide))).trans k6
  clear_value c7
  have k8 : c8.rget a = c.rget a := (rget_withGlb _ _ a).trans k7
  clear_value c8
  split
  · exact (rget_withGlbPins _ _ _ a).trans k8
  · exact k8

/-- No event touches such a register. -/
theorem rget_raise_of_unlogged (c : Core) (e : Ev) (kind unit detail cnt : Nat) (hold : Option Nat) :
    (raise c e kind unit detail cnt hold).rget a = c.rget a := by
  unfold raise
  extract_lets isErr
  have le := escalate_le c isErr kind unit (evSev_le e kind)
  split
  next sev esc act h =>
  rw [h] at le
  extract_lets c1 _ c2 _ c3
  have logged : c1.rget a = c.rget a := rget_logEntry_ne high.out _ _ _ _ _ _ _ le
  clear_value c1
  have noted : c2.rget a = c.rget a := by
    change (if 1 ≤ sev then _ else c1 : Core).rget a = _
    split
    · exact (rget_withPair _ _ a).trans logged
    · exact logged
  clear_value c2
  have held : c3.rget a = c.rget a := by
    change (match hold with | some k => if isErr && sev != 0 then _ else c2 | none => c2 : Core).rget a = _
    split
    · split
      · exact (rget_withGlb _ _ a).trans noted
      · exact noted
    · exact noted
  split
  · rw [rget_fatal_of_unlogged high]
    exact (rget_withGlb _ _ a).trans held
  · split
    · exact (rget_withGlb _ _ a).trans held
    · exact held

theorem fld_raise_of_unlogged (c : Core) (e : Ev) (kind unit detail cnt : Nat) (hold : Option Nat) (g : Fld) :
    (raise c e kind unit detail cnt hold).fld a g = c.fld a g := by
  rw [Core.fld, rget_raise_of_unlogged high, Core.fld]

end

end Sys2Proof.Machine

/-! The grant of a context (R222): the registers that it sets, part by part, and what each reads as afterwards. -/

namespace Sys2Proof.Machine
open Sys2Proof

/-! ### Registers of a context -/

/-- Two registers of one context lie at different places of its page. -/
theorem ctxReg_ne {n m x : Nat} (differ : n ≠ m) : n + 0x100 * x ≠ m + 0x100 * x := by omega

/-- A register of another page is none of the context's. -/
theorem ne_ctxReg {a n x : Nat} (page : a / 0x100 ≠ 0x4000 + x) (low : 0x400000 ≤ n) (high : n < 0x400100) : a ≠ n + 0x100 * x := by
  omega

/-- The registers of contexts lie above every one that events write. -/
theorem unlogged_ctxReg {n x : Nat} (low : 0x400000 ≤ n) : Unlogged (n + 0x100 * x) :=
  unlogged_of_high (Nat.le_add_right_of_le low)

/-- A field depends on its register alone. -/
theorem Core.fld_congr {c d : Core} {a : Nat} (same : c.rget a = d.rget a) (g : Fld) : c.fld a g = d.fld a g := by
  rw [Core.fld, same, Core.fld]

theorem rget_setCtxX_ne {a : Nat} (flip : a ≠ ECC_FLIP_CTRL) (written : a ≠ ECC_POISON_WRITTEN) (c : Core) (x : Nat) (v : CtxX) :
    (setCtxX c x v).rget a = c.rget a :=
  (rget_wroteCtrl_ne flip written _ _ _).trans (Core.rget_congr rfl a)

theorem rget_setCtxState_ne {a : Nat} (flip : a ≠ ECC_FLIP_CTRL) (written : a ≠ ECC_POISON_WRITTEN) {x : Nat} (other : a ≠ CTX_CFG0 x)
    (c : Core) (st : Nat) : (setCtxState c x st).rget a = c.rget a :=
  (rget_wroteCtrl_ne flip written _ _ _).trans (Core.rget_setFld_ne _ _ _ other)

/-- A context shows the state that it is given, below 8. -/
theorem ctxState_setCtxState (c : Core) (x : Nat) {st : Nat} (small : st < 8) : ctxState (setCtxState c x st) x = st := by
  have high : Unlogged (CTX_CFG0 x) := unlogged_ctxReg (by decide)
  rw [ctxState, setCtxState, fld_wroteCtrl_ne (high.ne (by decide)) (high.ne (by decide)),
    Core.fld_setFld_self _ _ _ _ (by decide) (by decide)]
  exact Nat.mod_eq_of_lt small

/-- The other fields of CTX_CFG0 stay. -/
theorem fld_setCtxState_other (c : Core) (x st : Nat) (g : Fld) (sound : g.lo ≤ g.hi)
    (apart : CTX_CFG0_STATE.hi < g.lo ∨ g.hi < CTX_CFG0_STATE.lo) : (setCtxState c x st).fld (CTX_CFG0 x) g = c.fld (CTX_CFG0 x) g := by
  have high : Unlogged (CTX_CFG0 x) := unlogged_ctxReg (by decide)
  rw [setCtxState, fld_wroteCtrl_ne (high.ne (by decide)) (high.ne (by decide)),
    Core.fld_setFld_other _ _ _ _ _ (by decide) (by decide) sound apart]

/-! ### The parts of a grant -/

section
variable (d : CtxGrant) (c : Core)

/-- CTX_CFG0 as granted, but for the context's state. -/
def grantCfg0 : Core :=
  ((((c.rset (CTX_CFG0 d.ctx) 0).setFld (CTX_CFG0 d.ctx) CTX_CFG0_PARTITION d.partition).setFld (CTX_CFG0 d.ctx) CTX_CFG0_PRODUCER
    (b2n d.rdma)).setFld (CTX_CFG0 d.ctx) CTX_CFG0_ABORT_ON_DEADLINE (b2n d.abort)).setFld (CTX_CFG0 d.ctx) CTX_CFG0_OWNER d.owner

def grantCfg1 : Core :=
  ((((c.rset (CTX_CFG1 d.ctx) 0).setFld (CTX_CFG1 d.ctx) CTX_CFG1_WEIGHT d.weight).setFld (CTX_CFG1 d.ctx) CTX_CFG1_MAX_INFLIGHT_M1
    (d.maxInflight - 1)).setFld (CTX_CFG1 d.ctx) CTX_CFG1_CQ_LOG2 d.cqLog2).setFld (CTX_CFG1 d.ctx) CTX_CFG1_RING_LOG2 d.ringLog2

/-- The key slot, and where the rings lie. -/
def grantRings : Core := ((setN c (CTX_CTRL d.ctx) d.keySlot).rset (CTX_RING_BASE d.ctx) d.ringBase).rset (CTX_CQ d.ctx) d.cq

/-- One result window. -/
def grantWin (x : Nat) (w : WinDef) (i : Nat) : Core :=
  setN (setN (c.rset (CTX_WIN_BASE x i) w.base) (CTX_WIN_LEN x i) w.len) (CTX_WIN_KEY x i) w.key.toNat

def grantWins : Core := d.wins.zipIdx.foldl (fun c w => grantWin c d.ctx w.1 w.2) c

/-- An empty ring and counts of 0. -/
def grantEmpty (x : Nat) : Core :=
  (((ctxZeros x).foldl (fun c a => c.rset a 0) c).setFld (CTX_STATUS x) CTX_STATUS_CQ_FULL 0).setFld (CTX_STATUS x) CTX_STATUS_SPILLING 0

/-- The registers of a grant, but for the context's state. -/
def grantRegs : Core := grantEmpty (grantWins d (grantRings d (grantCfg1 d (grantCfg0 d c)))) d.ctx

theorem grantedCtx_eq : grantedCtx d c = setCtxState (setCtxX (grantRegs d c) d.ctx freshCtx) d.ctx stActive := rfl

/-! ### What each part leaves alone -/

variable {d c} {a : Nat}

theorem rget_grantCfg0_ne (other : a ≠ CTX_CFG0 d.ctx) : (grantCfg0 d c).rget a = c.rget a := by
  rw [grantCfg0, Core.rget_setFld_ne _ _ _ other, Core.rget_setFld_ne _ _ _ other, Core.rget_setFld_ne _ _ _ other,
    Core.rget_setFld_ne _ _ _ other, Core.rget_rset_ne _ _ other]

theorem rget_grantCfg1_ne (other : a ≠ CTX_CFG1 d.ctx) : (grantCfg1 d c).rget a = c.rget a := by
  rw [grantCfg1, Core.rget_setFld_ne _ _ _ other, Core.rget_setFld_ne _ _ _ other, Core.rget_setFld_ne _ _ _ other,
    Core.rget_setFld_ne _ _ _ other, Core.rget_rset_ne _ _ other]

theorem rget_grantRings_ne (ctrl : a ≠ CTX_CTRL d.ctx) (ring : a ≠ CTX_RING_BASE d.ctx) (cq : a ≠ CTX_CQ d.ctx) :
    (grantRings d c).rget a = c.rget a := by
  rw [grantRings, Core.rget_rset_ne _ _ cq, Core.rget_rset_ne _ _ ring, setN, Core.rget_rset_ne _ _ ctrl]

/-- The address is none of window `i` of context `x`. -/
def OffWin (a x i : Nat) : Prop := a ≠ CTX_WIN_BASE x i ∧ a ≠ CTX_WIN_LEN x i ∧ a ≠ CTX_WIN_KEY x i

theorem rget_grantWin_ne {x i : Nat} (w : WinDef) (off : OffWin a x i) : (grantWin c x w i).rget a = c.rget a := by
  obtain ⟨base, len, key⟩ := off
  rw [grantWin, setN, Core.rget_rset_ne _ _ key, setN, Core.rget_rset_ne _ _ len, Core.rget_rset_ne _ _ base]

theorem rget_foldWins_ne {x : Nat} (l : List (WinDef × Nat)) (off : ∀ w ∈ l, OffWin a x w.2) (c : Core) :
    (l.foldl (fun c w => grantWin c x w.1 w.2) c).rget a = c.rget a := by
  induction l generalizing c with
  | nil => rfl
  | cons w t ih =>
    rw [List.foldl_cons, ih (fun v inside => off v (List.mem_cons_of_mem _ inside)), rget_grantWin_ne _ (off w List.mem_cons_self)]

theorem rget_grantWins_ne (off : ∀ i < d.wins.length, OffWin a d.ctx i) : (grantWins d c).rget a = c.rget a :=
  rget_foldWins_ne _ (fun w inside => off w.2 (by have := List.snd_lt_of_mem_zipIdx inside; omega)) c

theorem rget_foldZeros_ne (l : List Nat) (out : a ∉ l) (c : Core) : (l.foldl (fun c a => c.rset a 0) c).rget a = c.rget a := by
  induction l generalizing c with
  | nil => rfl
  | cons b t ih =>
    rw [List.foldl_cons, ih (List.not_mem_of_not_mem_cons out), Core.rget_rset_ne _ _ (List.ne_of_not_mem_cons out)]

theorem rget_grantEmpty_ne {x : Nat} (out : a ∉ ctxZeros x) (status : a ≠ CTX_STATUS x) : (grantEmpty c x).rget a = c.rget a := by
  rw [grantEmpty, Core.rget_setFld_ne _ _ _ status, Core.rget_setFld_ne _ _ _ status, rget_foldZeros_ne _ out]

end

/-! ### What each part sets -/

section
variable {d : CtxGrant} {c : Core}

theorem grantCfg0_partition (fits : d.partition < 16) : (grantCfg0 d c).fld (CTX_CFG0 d.ctx) CTX_CFG0_PARTITION = d.partition := by
  rw [grantCfg0, Core.fld_setFld_other _ _ _ _ _ (by decide) (by decide) (by decide) (by decide),
    Core.fld_setFld_other _ _ _ _ _ (by decide) (by decide) (by decide) (by decide),
    Core.fld_setFld_other _ _ _ _ _ (by decide) (by decide) (by decide) (by decide), Core.fld_setFld_self _ _ _ _ (by decide) (by decide)]
  exact Nat.mod_eq_of_lt fits

theorem grantCfg0_producer : (grantCfg0 d c).flag (CTX_CFG0 d.ctx) CTX_CFG0_PRODUCER = d.rdma := by
  rw [Core.flag, grantCfg0, Core.fld_setFld_other _ _ _ _ _ (by decide) (by decide) (by decide) (by decide),
    Core.fld_setFld_other _ _ _ _ _ (by decide) (by decide) (by decide) (by decide), Core.fld_setFld_self _ _ _ _ (by decide) (by decide)]
  cases d.rdma <;> rfl

theorem grantCfg0_abort : (grantCfg0 d c).flag (CTX_CFG0 d.ctx) CTX_CFG0_ABORT_ON_DEADLINE = d.abort := by
  rw [Core.flag, grantCfg0, Core.fld_setFld_other _ _ _ _ _ (by decide) (by decide) (by decide) (by decide),
    Core.fld_setFld_self _ _ _ _ (by decide) (by decide)]
  cases d.abort <;> rfl

theorem grantCfg0_owner (fits : d.owner < 65536) : (grantCfg0 d c).fld (CTX_CFG0 d.ctx) CTX_CFG0_OWNER = d.owner := by
  rw [grantCfg0, Core.fld_setFld_self _ _ _ _ (by decide) (by decide)]
  exact Nat.mod_eq_of_lt fits

theorem grantCfg1_weight (fits : d.weight < 256) : (grantCfg1 d c).fld (CTX_CFG1 d.ctx) CTX_CFG1_WEIGHT = d.weight := by
  rw [grantCfg1, Core.fld_setFld_other _ _ _ _ _ (by decide) (by decide) (by decide) (by decide),
    Core.fld_setFld_other _ _ _ _ _ (by decide) (by decide) (by decide) (by decide),
    Core.fld_setFld_other _ _ _ _ _ (by decide) (by decide) (by decide) (by decide), Core.fld_setFld_self _ _ _ _ (by decide) (by decide)]
  exact Nat.mod_eq_of_lt fits

theorem grantCfg1_inflight (some_ : 1 ≤ d.maxInflight) (fits : d.maxInflight ≤ 256) :
    (grantCfg1 d c).fld (CTX_CFG1 d.ctx) CTX_CFG1_MAX_INFLIGHT_M1 + 1 = d.maxInflight := by
  rw [grantCfg1, Core.fld_setFld_other _ _ _ _ _ (by decide) (by decide) (by decide) (by decide),
    Core.fld_setFld_other _ _ _ _ _ (by decide) (by decide) (by decide) (by decide), Core.fld_setFld_self _ _ _ _ (by decide) (by decide)]
  change (d.maxInflight - 1) % 256 + 1 = _
  omega

theorem grantCfg1_cqLog2 (fits : d.cqLog2 < 32) : (grantCfg1 d c).fld (CTX_CFG1 d.ctx) CTX_CFG1_CQ_LOG2 = d.cqLog2 := by
  rw [grantCfg1, Core.fld_setFld_other _ _ _ _ _ (by decide) (by decide) (by decide) (by decide),
    Core.fld_setFld_self _ _ _ _ (by decide) (by decide)]
  exact Nat.mod_eq_of_lt fits

theorem grantCfg1_ringLog2 (fits : d.ringLog2 < 32) : (grantCfg1 d c).fld (CTX_CFG1 d.ctx) CTX_CFG1_RING_LOG2 = d.ringLog2 := by
  rw [grantCfg1, Core.fld_setFld_self _ _ _ _ (by decide) (by decide)]
  exact Nat.mod_eq_of_lt fits

theorem grantRings_ctrl : (grantRings d c).rget (CTX_CTRL d.ctx) = BitVec.ofNat 64 d.keySlot := by
  rw [grantRings, Core.rget_rset_ne _ _ (ctxReg_ne (by decide)), Core.rget_rset_ne _ _ (ctxReg_ne (by decide)), setN, Core.rget_rset_self]

theorem grantRings_base : (grantRings d c).rget (CTX_RING_BASE d.ctx) = d.ringBase := by
  rw [grantRings, Core.rget_rset_ne _ _ (ctxReg_ne (by decide)), Core.rget_rset_self]

theorem grantRings_cq : (grantRings d c).rget (CTX_CQ d.ctx) = d.cq := by
  rw [grantRings, Core.rget_rset_self]

/-- Windows of one context do not overlap. -/
theorem offWin_of_ne {x i j : Nat} (differ : j ≠ i) :
    OffWin (CTX_WIN_BASE x i) x j ∧ OffWin (CTX_WIN_LEN x i) x j ∧ OffWin (CTX_WIN_KEY x i) x j := by
  unfold OffWin CTX_WIN_BASE CTX_WIN_LEN CTX_WIN_KEY
  omega

theorem grantWin_self (x : Nat) {w : WinDef} (fits : w.len < 2 ^ 32) (i : Nat) :
    (grantWin c x w i).rget (CTX_WIN_BASE x i) = w.base ∧ regN (grantWin c x w i) (CTX_WIN_LEN x i) = w.len ∧
      regN (grantWin c x w i) (CTX_WIN_KEY x i) = w.key.toNat := by
  have apart : CTX_WIN_BASE x i ≠ CTX_WIN_LEN x i ∧ CTX_WIN_BASE x i ≠ CTX_WIN_KEY x i ∧ CTX_WIN_LEN x i ≠ CTX_WIN_KEY x i := by
    unfold CTX_WIN_BASE CTX_WIN_LEN CTX_WIN_KEY
    omega
  obtain ⟨baseLen, baseKey, lenKey⟩ := apart
  refine ⟨?base, ?len, ?key⟩
  case base => rw [grantWin, setN, Core.rget_rset_ne _ _ baseKey, setN, Core.rget_rset_ne _ _ baseLen, Core.rget_rset_self]
  case len =>
    rw [regN, grantWin, setN, Core.rget_rset_ne _ _ lenKey, setN, Core.rget_rset_self, BitVec.toNat_ofNat]
    omega
  case key =>
    have key := w.key.isLt
    rw [regN, grantWin, setN, Core.rget_rset_self, BitVec.toNat_ofNat]
    omega

/-- Each window of a list reads as it was granted. -/
theorem foldWins_get (x : Nat) (l : List WinDef) (fits : ∀ w ∈ l, w.len < 2 ^ 32) (k : Nat) (c : Core) {i : Nat} {w : WinDef}
    (there : l[i]? = some w) {r : Core} (result : r = (l.zipIdx k).foldl (fun c w => grantWin c x w.1 w.2) c) :
    r.rget (CTX_WIN_BASE x (k + i)) = w.base ∧ regN r (CTX_WIN_LEN x (k + i)) = w.len ∧
      regN r (CTX_WIN_KEY x (k + i)) = w.key.toNat := by
  induction l generalizing k c i with
  | nil => simp at there
  | cons v t ih =>
    rw [List.zipIdx_cons, List.foldl_cons] at result
    cases i with
    | zero =>
      obtain rfl : v = w := by simpa using there
      have later : ∀ y ∈ t.zipIdx (k + 1), y.2 ≠ k := fun y inside => by have := List.le_snd_of_mem_zipIdx inside; omega
      have kept (a : Nat) (off : ∀ y ∈ t.zipIdx (k + 1), OffWin a x y.2) : r.rget a = (grantWin c x v k).rget a :=
        result ▸ rget_foldWins_ne _ off _
      obtain ⟨base, len, key⟩ := grantWin_self (c := c) x (fits v List.mem_cons_self) k
      rw [Nat.add_zero, regN, regN, kept _ fun y inside => (offWin_of_ne (later y inside)).1,
        kept _ fun y inside => (offWin_of_ne (later y inside)).2.1, kept _ fun y inside => (offWin_of_ne (later y inside)).2.2]
      exact ⟨base, len, key⟩
    | succ j =>
      have step := ih (fun w inside => fits w (List.mem_cons_of_mem _ inside)) (k + 1) (grantWin c x v k) (i := j) (by simpa using there)
        result
      rwa [show k + 1 + j = k + (j + 1) by omega] at step

/-- A register of a list set to 0 reads 0. -/
theorem foldZeros_get (l : List Nat) {a : Nat} (inside : a ∈ l) (c : Core) : (l.foldl (fun c a => c.rset a 0) c).rget a = 0 := by
  induction l generalizing c with
  | nil => exact absurd inside List.not_mem_nil
  | cons b t ih =>
    rw [List.foldl_cons]
    by_cases later : a ∈ t
    · exact ih later _
    · obtain rfl : a = b := (List.mem_cons.mp inside).resolve_right later
      rw [rget_foldZeros_ne _ later, Core.rget_rset_self]

end

end Sys2Proof.Machine

/-! Contexts (R222, R223, R242): what a grant comes to as a whole, how an idle context is flushed and revoked, and the statement. -/

namespace Sys2Proof.Machine
open Sys2Proof

/-! ### What a grant leaves alone -/

/-- The chip but for its registers and the errors of control words. -/
def unwritten (c : Core) : Core := { c with regs := [], mem := { c.mem with ctrl := [] } }

theorem unwritten_rset (c : Core) (a : Nat) (v : W64) : unwritten (c.rset a v) = unwritten c := rfl
theorem unwritten_setFld (c : Core) (a : Nat) (f : Fld) (v : Nat) : unwritten (c.setFld a f v) = unwritten c := rfl
theorem unwritten_count (c : Core) (a n : Nat) : unwritten (c.count a n) = unwritten c := rfl
theorem unwritten_ctrl (c : Core) (l : List (CtrlWord × CtrlErr)) :
    unwritten { c with mem := { c.mem with ctrl := l } } = unwritten c := rfl

/-- The chip with a context's bookkeeping replaced, before the control word is noted as written. -/
def withBook (c : Core) (x : Nat) (v : CtxX) : Core := { c with work := { c.work with ctx := amSet c.work.ctx x v } }

theorem setCtxX_eq (c : Core) (x : Nat) (v : CtxX) : setCtxX c x v = wroteCtrl (x % 4) (.context x) (withBook c x v) := rfl
theorem rget_withBook (c : Core) (x : Nat) (v : CtxX) (a : Nat) : (withBook c x v).rget a = c.rget a := Core.rget_congr rfl a
theorem unwritten_withBook (c : Core) (x : Nat) (v : CtxX) : unwritten (withBook c x v) = withBook (unwritten c) x v := rfl

theorem unwritten_struck (c : Core) (p : Nat) : unwritten (struck c p).1 = unwritten c := by
  unfold struck
  split
  · extract_lets
    split
    split
    · rw [unwritten_setFld]
    · rw [unwritten_setFld]
    · rw [unwritten_count, unwritten_setFld]
    · rw [unwritten_setFld]
  · rfl

theorem unwritten_wroteCtrl (p : Nat) (w : CtrlWord) (c : Core) : unwritten (wroteCtrl p w c) = unwritten c := by
  have mended : unwritten (ctrlMend c w) = unwritten c := by
    unfold ctrlMend
    split
    · exact unwritten_ctrl _ _
    · rfl
  have hit := (unwritten_struck (ctrlMend c w) p).trans mended
  unfold wroteCtrl
  split
  · next h => rw [h] at hit; exact hit
  · next h => rw [h] at hit; exact (unwritten_ctrl _ _).trans hit

/-- Two chips that differ in registers and control words alone. -/
theorem eq_of_unwritten {c d : Core} (same : unwritten c = unwritten d) :
    c = { d with regs := c.regs, mem := { d.mem with ctrl := c.mem.ctrl } } :=
  congrArg (fun z : Core => { z with regs := c.regs, mem := { z.mem with ctrl := c.mem.ctrl } }) same

theorem unwritten_grantRegs (d : CtxGrant) (c : Core) : unwritten (grantRegs d c) = unwritten c := by
  have wins (c : Core) : unwritten (grantWins d c) = unwritten c :=
    foldl_keeps unwritten (fun _ _ => by rw [grantWin, setN, unwritten_rset, setN, unwritten_rset, unwritten_rset]) _ c
  have empty (c : Core) : unwritten (grantEmpty c d.ctx) = unwritten c := by
    rw [grantEmpty, unwritten_setFld, unwritten_setFld]
    exact foldl_keeps unwritten (fun _ _ => unwritten_rset _ _ _) _ c
  rw [grantRegs, empty, wins, grantRings, unwritten_rset, unwritten_rset, setN, unwritten_rset, grantCfg1, unwritten_setFld,
    unwritten_setFld, unwritten_setFld, unwritten_setFld, unwritten_rset, grantCfg0, unwritten_setFld, unwritten_setFld,
    unwritten_setFld, unwritten_setFld, unwritten_rset]

/-- Besides registers and control words a grant sets the context's own bookkeeping alone. -/
theorem grantedCtx_shape (d : CtxGrant) (c : Core) : grantedCtx d c = { withBook c d.ctx freshCtx with
    regs := (grantedCtx d c).regs, mem := { c.mem with ctrl := (grantedCtx d c).mem.ctrl } } := by
  refine eq_of_unwritten (d := withBook c d.ctx freshCtx) ?_
  rw [grantedCtx_eq, setCtxState, unwritten_wroteCtrl, unwritten_setFld, setCtxX_eq, unwritten_wroteCtrl, unwritten_withBook,
    unwritten_grantRegs, unwritten_withBook]

/-- The registers that a grant sets to 0 lie behind the windows. -/
theorem ctxZeros_range {a x : Nat} (inside : a ∈ ctxZeros x) : 0x400060 + 0x100 * x ≤ a ∧ a < 0x400100 + 0x100 * x := by
  simp only [ctxZeros, List.mem_cons, List.not_mem_nil, or_false, CTX_WP_A, CTX_WP_B, CTX_RP_A, CTX_RP_B, CTX_QUEUE, CTX_CQ_HEAD,
    CTX_CQ_TAIL, CTX_TAKEN, CTX_COMPLETED, CTX_SAT_COUNT, CTX_NONFINITE_COUNT, CTX_LATE, CTX_PARKS] at inside
  omega

section
variable {d : CtxGrant} {c : Core} {a : Nat}

/-- What the fields of a grant keep to (R222). -/
structure GrantFits (d : CtxGrant) : Prop where
  ctx : d.ctx < 4096
  partition : d.partition < 16
  owner : d.owner < 65536
  slot : d.keySlot < 4096
  ring : d.ringLog2 ≤ 20
  wins : d.wins.length = 4
  lens : ∀ w ∈ d.wins, w.len < 2 ^ 32
  cq : d.cqLog2 ≤ 16
  weight : d.weight ≤ 255
  some_ : 1 ≤ d.maxInflight
  most : d.maxInflight ≤ 256

theorem grantFits_of_checks (checks : ∀ y ∈ grantChecks c d, y.1 = true) : GrantFits d := by
  simp only [grantChecks, List.forall_mem_cons, Bool.and_eq_true, decide_eq_true_eq, beq_iff_eq, List.all_eq_true] at checks
  obtain ⟨_, _, ⟨⟨⟨⟨⟨⟨⟨⟨⟨⟨⟨⟨⟨ctx, partition⟩, owner⟩, slot⟩, _⟩, ring⟩, wins⟩, lens⟩, _⟩, cq⟩, _⟩, weight⟩, some_⟩, most⟩, _⟩ := checks
  exact ⟨ctx, partition, owner, slot, ring, wins, lens, cq, weight, some_, most⟩

section
variable (page : a / 0x100 ≠ 0x4000 + d.ctx)
include page

theorem offWin_of_page {i : Nat} (index : i < 4) : OffWin a d.ctx i := by
  unfold OffWin CTX_WIN_BASE CTX_WIN_LEN CTX_WIN_KEY
  omega

theorem rget_grantRegs_of_page (fits : GrantFits d) : (grantRegs d c).rget a = c.rget a := by
  have zeros : a ∉ ctxZeros d.ctx := fun inside => by have := ctxZeros_range inside; omega
  rw [grantRegs, rget_grantEmpty_ne zeros (ne_ctxReg page (by decide) (by decide)),
    rget_grantWins_ne (fun i index => offWin_of_page page (fits.wins ▸ index)),
    rget_grantRings_ne (ne_ctxReg page (by decide) (by decide)) (ne_ctxReg page (by decide) (by decide))
      (ne_ctxReg page (by decide) (by decide)),
    rget_grantCfg1_ne (ne_ctxReg page (by decide) (by decide)), rget_grantCfg0_ne (ne_ctxReg page (by decide) (by decide))]

/-- A grant leaves every other page's registers alone, but for what a flip mask that strikes its control word changes. -/
theorem rget_grantedCtx_of_page (fits : GrantFits d) (flip : a ≠ ECC_FLIP_CTRL) (written : a ≠ ECC_POISON_WRITTEN) :
    (grantedCtx d c).rget a = c.rget a := by
  rw [grantedCtx_eq, rget_setCtxState_ne flip written (ne_ctxReg page (by decide) (by decide)), rget_setCtxX_ne flip written,
    rget_grantRegs_of_page page fits]

/-- With no flip mask armed it leaves them all alone. -/
theorem rget_grantedCtx_of_unarmed (fits : GrantFits d) (elsewhere : ECC_FLIP_CTRL / 0x100 ≠ 0x4000 + d.ctx)
    (unarmed : c.flag ECC_FLIP_CTRL ECC_FLIP_CTRL_ARMED = false) : (grantedCtx d c).rget a = c.rget a := by
  have armed (x : Core) (same : x.rget ECC_FLIP_CTRL = c.rget ECC_FLIP_CTRL) : x.flag ECC_FLIP_CTRL ECC_FLIP_CTRL_ARMED = false := by
    rw [Core.flag, Core.fld_congr same]; exact unarmed
  have regs : (grantRegs d c).rget ECC_FLIP_CTRL = c.rget ECC_FLIP_CTRL := rget_grantRegs_of_page elsewhere fits
  have book (b : Nat) : (withBook (grantRegs d c) d.ctx freshCtx).rget b = (grantRegs d c).rget b := rget_withBook _ _ _ b
  have fresh (b : Nat) : (setCtxX (grantRegs d c) d.ctx freshCtx).rget b = (grantRegs d c).rget b := by
    rw [setCtxX_eq, Core.rget_congr (wroteCtrl_regs_of_unarmed (armed _ ((book _).trans regs))), book]
  have state : ((setCtxX (grantRegs d c) d.ctx freshCtx).setFld (CTX_CFG0 d.ctx) CTX_CFG0_STATE stActive).rget ECC_FLIP_CTRL =
      c.rget ECC_FLIP_CTRL :=
    (Core.rget_setFld_ne _ _ _ (ne_ctxReg elsewhere (by decide) (by decide))).trans ((fresh _).trans regs)
  rw [grantedCtx_eq, setCtxState, Core.rget_congr (wroteCtrl_regs_of_unarmed (armed _ state)),
    Core.rget_setFld_ne _ _ _ (ne_ctxReg page (by decide) (by decide)), fresh, rget_grantRegs_of_page page fits]

end

/-! ### What a grant sets -/

/-- Neither the windows nor the zeros reach the registers below the windows. -/
theorem rget_grantRegs_of_low {n : Nat} (low : n < 0x400020) (status : n ≠ 0x40000C) :
    (grantRegs d c).rget (n + 0x100 * d.ctx) = (grantRings d (grantCfg1 d (grantCfg0 d c))).rget (n + 0x100 * d.ctx) := by
  have zeros : n + 0x100 * d.ctx ∉ ctxZeros d.ctx := fun inside => by have := ctxZeros_range inside; omega
  have wins : ∀ i < d.wins.length, OffWin (n + 0x100 * d.ctx) d.ctx i := fun i _ => by
    unfold OffWin CTX_WIN_BASE CTX_WIN_LEN CTX_WIN_KEY
    omega
  rw [grantRegs, rget_grantEmpty_ne zeros (ctxReg_ne status), rget_grantWins_ne wins]

/-- After the parts of a grant only the context's state changes. -/
theorem rget_grantedCtx_of_high (high : Unlogged a) (other : a ≠ CTX_CFG0 d.ctx) :
    (grantedCtx d c).rget a = (grantRegs d c).rget a := by
  rw [grantedCtx_eq, rget_setCtxState_ne (high.ne (by decide)) (high.ne (by decide)) other,
    rget_setCtxX_ne (high.ne (by decide)) (high.ne (by decide))]

theorem fld_grantedCtx_cfg0 {g : Fld} (sound : g.lo ≤ g.hi)
    (apart : CTX_CFG0_STATE.hi < g.lo ∨ g.hi < CTX_CFG0_STATE.lo) :
    (grantedCtx d c).fld (CTX_CFG0 d.ctx) g = (grantCfg0 d c).fld (CTX_CFG0 d.ctx) g := by
  have high : Unlogged (CTX_CFG0 d.ctx) := unlogged_ctxReg (by decide)
  rw [grantedCtx_eq, fld_setCtxState_other _ _ _ _ sound apart,
    Core.fld_congr (rget_setCtxX_ne (high.ne (by decide)) (high.ne (by decide)) _ _ _),
    Core.fld_congr (rget_grantRegs_of_low (by decide) (by decide)),
    Core.fld_congr (rget_grantRings_ne (ctxReg_ne (by decide)) (ctxReg_ne (by decide)) (ctxReg_ne (by decide))),
    Core.fld_congr (rget_grantCfg1_ne (ctxReg_ne (by decide)))]

theorem fld_grantedCtx_cfg1 (g : Fld) :
    (grantedCtx d c).fld (CTX_CFG1 d.ctx) g = (grantCfg1 d (grantCfg0 d c)).fld (CTX_CFG1 d.ctx) g := by
  rw [Core.fld_congr (rget_grantedCtx_of_high (unlogged_ctxReg (by decide)) (ctxReg_ne (by decide))),
    Core.fld_congr (rget_grantRegs_of_low (by decide) (by decide)),
    Core.fld_congr (rget_grantRings_ne (ctxReg_ne (by decide)) (ctxReg_ne (by decide)) (ctxReg_ne (by decide)))]

/-- The registers of `grantRings` read as they were set. -/
theorem rget_grantedCtx_rings {n : Nat} (low : n < 0x400020) (first : 0x400004 < n) (status : n ≠ 0x40000C) :
    (grantedCtx d c).rget (n + 0x100 * d.ctx) = (grantRings d (grantCfg1 d (grantCfg0 d c))).rget (n + 0x100 * d.ctx) := by
  rw [rget_grantedCtx_of_high (unlogged_ctxReg (by omega)) (ctxReg_ne (by omega)), rget_grantRegs_of_low low status]

theorem grantedCtx_keySlot (fits : GrantFits d) : (grantedCtx d c).fld (CTX_CTRL d.ctx) CTX_CTRL_KEY_SLOT = d.keySlot := by
  have slot := fits.slot
  rw [Core.fld, rget_grantedCtx_rings (by decide) (by decide) (by decide), grantRings_ctrl, BitVec.toNat_ofNat]
  change d.keySlot % 2 ^ 64 / 2 ^ 0 % 2 ^ 12 = _
  omega

theorem grantedCtx_wins (fits : GrantFits d) {i : Nat} {w : WinDef} (there : d.wins[i]? = some w) :
    (grantedCtx d c).rget (CTX_WIN_BASE d.ctx i) = w.base ∧ regN (grantedCtx d c) (CTX_WIN_LEN d.ctx i) = w.len ∧
      regN (grantedCtx d c) (CTX_WIN_KEY d.ctx i) = w.key.toNat := by
  have index : i < 4 := by
    have := (List.getElem?_eq_some_iff.mp there).1
    have four := fits.wins
    omega
  have kept {a : Nat} (low : 0x400020 + 0x100 * d.ctx ≤ a) (high : a < 0x400060 + 0x100 * d.ctx) :
      (grantedCtx d c).rget a = (grantWins d (grantRings d (grantCfg1 d (grantCfg0 d c)))).rget a := by
    have zeros : a ∉ ctxZeros d.ctx := fun inside => by have := ctxZeros_range inside; omega
    have apart : a ≠ CTX_CFG0 d.ctx ∧ a ≠ CTX_STATUS d.ctx := by
      unfold CTX_CFG0 CTX_STATUS
      omega
    rw [rget_grantedCtx_of_high (unlogged_of_high (by omega)) apart.1, grantRegs, rget_grantEmpty_ne zeros apart.2]
  have read := foldWins_get d.ctx d.wins fits.lens 0 (grantRings d (grantCfg1 d (grantCfg0 d c))) there rfl
  rw [Nat.zero_add] at read
  rw [regN, regN, kept (by unfold CTX_WIN_BASE; omega) (by unfold CTX_WIN_BASE; omega),
    kept (by unfold CTX_WIN_LEN; omega) (by unfold CTX_WIN_LEN; omega), kept (by unfold CTX_WIN_KEY; omega) (by unfold CTX_WIN_KEY; omega)]
  exact read

theorem grantedCtx_zeros (inside : a ∈ ctxZeros d.ctx) : (grantedCtx d c).rget a = 0 := by
  have apart : Unlogged a ∧ a ≠ CTX_CFG0 d.ctx ∧ a ≠ CTX_STATUS d.ctx := by
    have range := ctxZeros_range inside
    refine ⟨unlogged_of_high (by omega), ?_, ?_⟩
    · unfold CTX_CFG0
      omega
    · unfold CTX_STATUS
      omega
  obtain ⟨high, cfg0, status⟩ := apart
  rw [rget_grantedCtx_of_high high cfg0, grantRegs, grantEmpty, Core.rget_setFld_ne _ _ _ status, Core.rget_setFld_ne _ _ _ status,
    foldZeros_get _ inside]

end

end Sys2Proof.Machine

/-! Flushes and revocation of contexts (R223, R242): what each comes to in a context without works, and the statement on the management
of contexts. -/

namespace Sys2Proof.Machine
open Sys2Proof

/-! ### A context's bookkeeping -/

@[simp] theorem setCtxX_work (c : Core) (x : Nat) (v : CtxX) : (setCtxX c x v).work = { c.work with ctx := amSet c.work.ctx x v } :=
  EventsKeep.wroteCtrl (part := Core.work) (fun _ _ _ _ _ _ => rfl) _ _ _

@[simp] theorem setCtxState_work (c : Core) (x st : Nat) : (setCtxState c x st).work = c.work :=
  (EventsKeep.wroteCtrl (part := Core.work) (fun _ _ _ _ _ _ => rfl) _ _ _).trans (Core.setFld_work _ _ _ _)

@[simp] theorem raise_work (c : Core) (e : Ev) (kind unit detail cnt : Nat) (hold : Option Nat) :
    (raise c e kind unit detail cnt hold).work = c.work := EventsKeep.raise (fun _ _ _ _ _ _ => rfl) c e kind unit detail cnt hold

@[simp] theorem ctxX_setCtxX_self (c : Core) (x : Nat) (v : CtxX) : ctxX (setCtxX c x v) x = v := by
  rw [ctxX, setCtxX_work, amGet, amGet?_amSet_self, Option.getD_some]

@[simp] theorem ctxX_modCtxX_self (c : Core) (x : Nat) (f : CtxX → CtxX) : ctxX (modCtxX c x f) x = f (ctxX c x) :=
  ctxX_setCtxX_self _ _ _

theorem ctxX_congr {c d : Core} (same : c.work = d.work) (x : Nat) : ctxX c x = ctxX d x := by rw [ctxX, same, ctxX]

/-- The works of a context depend on the works in flight alone. -/
theorem worksOf_congr {c d : Core} (same : c.work.flight = d.work.flight) (x : Nat) : worksOf c x = worksOf d x := by
  rw [worksOf, same, worksOf]

theorem modCtxX_flight (c : Core) (x : Nat) (f : CtxX → CtxX) : (modCtxX c x f).work.flight = c.work.flight := by
  rw [modCtxX, setCtxX_work]

@[simp] theorem worksOf_modCtxX (c : Core) (x y : Nat) (f : CtxX → CtxX) : worksOf (modCtxX c x f) y = worksOf c y :=
  worksOf_congr (modCtxX_flight _ _ _) y

/-- Replacing a context's bookkeeping touches none of the contexts' registers. -/
theorem rget_modCtxX_of_unlogged {a : Nat} (high : Unlogged a) (c : Core) (x : Nat) (f : CtxX → CtxX) :
    (modCtxX c x f).rget a = c.rget a := rget_setCtxX_ne (high.ne (by decide)) (high.ne (by decide)) _ _ _

@[simp] theorem ctxState_modCtxX (c : Core) (x y : Nat) (f : CtxX → CtxX) : ctxState (modCtxX c x f) y = ctxState c y :=
  Core.fld_congr (rget_modCtxX_of_unlogged (unlogged_ctxReg (by decide)) _ _ _) _

/-- No other register holds a context's state. -/
theorem ctxState_setFld_of_ne {c : Core} {a x : Nat} (other : CTX_CFG0 x ≠ a) (f : Fld) (v : Nat) :
    ctxState (c.setFld a f v) x = ctxState c x := Core.fld_setFld_ne _ _ _ _ other

/-! ### Deadlines of an idle context (R70) -/

/-- Without works only whole descriptors can miss a deadline. -/
theorem missDeadlines_of_idle {c : Core} {x : Nat} (idle : worksOf c x = []) {l : List WholeDesc} (whole : (ctxX c x).whole = l)
    (due : ∀ d ∈ l, d.missed = true ∨ descOverdue c d = false) :
    missDeadlines c x = modCtxX c x (fun k => { k with missed := k.missed + 0 }) := by
  have met : ∀ d ∈ l, (!d.missed && descOverdue c d) = false := fun d inside => by
    rcases due d inside with missed | later
    · simp [missed]
    · simp [later]
  have none_ : l.filter (fun d => !d.missed && descOverdue c d) = [] :=
    List.filter_eq_nil_iff.mpr fun d inside => by simp [met d inside]
  have same : l.map (fun d => if (!d.missed && descOverdue c d) = true then { d with missed := true } else d) = l :=
    (List.map_congr_left (g := id) fun d inside => by rw [met d inside, if_neg Bool.false_ne_true, id]).trans (List.map_id l)
  rw [missDeadlines, idle, List.foldl_nil]
  simp only [modCtxX, whole, none_, same, List.length_nil]

theorem missDeadlines_of_empty {c : Core} {x : Nat} (idle : worksOf c x = []) (whole : (ctxX c x).whole = []) :
    missDeadlines c x = modCtxX c x (fun k => { k with missed := k.missed + 0 }) :=
  missDeadlines_of_idle idle whole (fun _ inside => absurd inside List.not_mem_nil)

/-! ### A ring reset (R235) -/

theorem worksOf_setFld (c : Core) (a : Nat) (f : Fld) (v x : Nat) : worksOf (c.setFld a f v) x = worksOf c x :=
  worksOf_congr (congrArg WorkSt.flight (Core.setFld_work c a f v)) x

theorem worksOf_setCtxState (c : Core) (x st y : Nat) : worksOf (setCtxState c x st) y = worksOf c y :=
  worksOf_congr (congrArg WorkSt.flight (setCtxState_work c x st)) y

@[simp] theorem setPtrs_work (c : Core) (x wp rp : Nat) : (setPtrs c x wp rp).work = c.work := by
  rw [setPtrs, ringView, Core.setFld_work, Core.setFld_work, setN, setN, setN, setN, Core.rset_work, Core.rset_work, Core.rset_work,
    Core.rset_work]

/-- The pointers of a ring and what follows them leave the other registers alone. -/
theorem ctxState_setPtrs (c : Core) (x wp rp : Nat) : ctxState (setPtrs c x wp rp) x = ctxState c x := by
  rw [setPtrs, ringView, ctxState_setFld_of_ne (ctxReg_ne (by decide)), ctxState_setFld_of_ne (ctxReg_ne (by decide))]
  refine Core.fld_congr ?_ _
  rw [setN, setN, setN, setN, Core.rget_rset_ne _ _ (ctxReg_ne (by decide)), Core.rget_rset_ne _ _ (ctxReg_ne (by decide)),
    Core.rget_rset_ne _ _ (ctxReg_ne (by decide)), Core.rget_rset_ne _ _ (ctxReg_ne (by decide))]

theorem ctxState_raise (c : Core) (x : Nat) (e : Ev) (kind unit detail cnt : Nat) (hold : Option Nat) :
    ctxState (raise c e kind unit detail cnt hold) x = ctxState c x :=
  fld_raise_of_unlogged (unlogged_ctxReg (by decide)) _ _ _ _ _ _ _ _

/-- The ring of a context that is being revoked is reset without a notice. -/
theorem ringReset_of_revoking {c : Core} {x : Nat} (revokes : ctxState c x = 4) :
    ctxState (ringReset c x) x = 4 ∧ worksOf (ringReset c x) x = worksOf c x := by
  unfold ringReset
  extract_lets c1 c2 c3 c4
  have state1 : ctxState c1 x = 4 := (ctxState_modCtxX _ _ _ _).trans revokes
  have works1 : worksOf c1 x = worksOf c x := worksOf_modCtxX _ _ _ _
  clear_value c1
  have state2 : ctxState c2 x = 4 := (ctxState_setPtrs _ _ _ _).trans state1
  have works2 : worksOf c2 x = worksOf c x := (worksOf_congr (congrArg WorkSt.flight (setPtrs_work c1 x 0 0)) x).trans works1
  clear_value c2
  have state3 : ctxState c3 x = 4 := (ctxState_raise _ _ _ _ _ _ _ _).trans state2
  have works3 : worksOf c3 x = worksOf c x := (worksOf_congr (congrArg WorkSt.flight (raise_work c2 _ _ _ _ _ _)) x).trans works2
  clear_value c3
  have state4 : ctxState c4 x = 4 := (ctxState_setFld_of_ne (ctxReg_ne (by decide)) _ _).trans state3
  have works4 : worksOf c4 x = worksOf c x := (worksOf_setFld _ _ _ _ _).trans works3
  clear_value c4
  rw [if_pos (show ctxState c4 x = stRevoking from state4)]
  exact ⟨state4, works4⟩

/-! ### Revocation of an idle context (R223) -/

/-- A flush of an idle context resets a ring whose pointer copies differ, and does nothing else. -/
theorem flushNow_of_idle {c c1 : Core} {x : Nat} (missed : c1 = missDeadlines c x) (whole : (ctxX c1 x).whole = [])
    (idle : worksOf c1 x = []) (still : worksOf (ringReset c1 x) x = []) :
    flushNow c x = if copiesDiffer c1 x then ringReset c1 x else c1 := by
  subst missed
  unfold flushNow
  cases differ : copiesDiffer (missDeadlines c x) x
  · simp only [differ, whole, idle, Bool.false_eq_true, if_false, List.foldl_nil]
  · simp only [differ, still, if_true, List.foldl_nil]

theorem revokeCtx_of_idle {c c1 c2 c3 : Core} {x : Nat} (lives : ctxState c x = 1 ∨ ctxState c x = 2 ∨ ctxState c x = 3)
    (whole : (ctxX c x).whole = []) (idle : worksOf c x = []) (missed : c1 = missDeadlines (setCtxState c x 4) x)
    (flushed : c2 = modCtxX (if copiesDiffer c1 x then ringReset c1 x else c1) x
      (fun k => { k with flushPending := false, flushing := [] }))
    (freed : c3 = setCtxState (c2.setFld (CTX_CTRL x) CTX_CTRL_FLUSH 0) x 0) : revokeCtx c x = c3.toFm 0x0133 [x] := by
  have idle0 : worksOf (setCtxState c x 4) x = [] := (worksOf_setCtxState _ _ _ _).trans idle
  have whole0 : (ctxX (setCtxState c x 4) x).whole = [] := (congrArg CtxX.whole (ctxX_congr (setCtxState_work c x 4) x)).trans whole
  have deadlines := missDeadlines_of_empty idle0 whole0
  have state1 : ctxState c1 x = 4 := by rw [missed, deadlines, ctxState_modCtxX, ctxState_setCtxState _ _ (by decide)]
  have idle1 : worksOf c1 x = [] := by rw [missed, deadlines, worksOf_modCtxX, idle0]
  have whole1 : (ctxX c1 x).whole = [] := by rw [missed, deadlines, ctxX_modCtxX_self]; exact whole0
  obtain ⟨resetState, resetIdle⟩ := ringReset_of_revoking state1
  have now_ := flushNow_of_idle missed whole1 idle1 (resetIdle.trans idle1)
  have state2 : ctxState c2 x = 4 := by
    rw [flushed, ctxState_modCtxX]
    split
    · exact resetState
    · exact state1
  have idle2 : worksOf c2 x = [] := by
    rw [flushed, worksOf_modCtxX]
    split
    · exact resetIdle.trans idle1
    · exact idle1
  have ends : ctxState (c2.setFld (CTX_CTRL x) CTX_CTRL_FLUSH 0) x = 4 := (ctxState_setFld_of_ne (ctxReg_ne (by decide)) _ _).trans state2
  have ends' : worksOf (c2.setFld (CTX_CTRL x) CTX_CTRL_FLUSH 0) x = [] := (worksOf_setFld _ _ _ _ _).trans idle2
  have open_ : ¬(ctxState c x = 0 ∨ ctxState c x = stRevoking) := by rw [stRevoking]; omega
  rw [revokeCtx, if_neg open_]
  dsimp only [stRevoking]
  rw [now_, ← flushed, revokeCheck, ends, ends', freed]
  rfl

/-! ### Flush of a context (R242) -/

/-- A flush of an ACTIVE context aborts what is in the ring and in flight, and waits for the rest. -/
theorem flushRequest_of_active {c c2 : Core} {x : Nat} (active : ctxState c x = 1) (b : Bool)
    (flushed : c2 = flushNow (setCtxState (c.setFld (CTX_CTRL x) CTX_CTRL_FLUSH 1) x 2) x) : flushRequest c x b =
      flushCheck (modCtxX c2 x (fun k => { k with flushPending := true, flushing := (worksOf c2 x).map (·.num) })) x := by
  subst flushed
  rw [flushRequest, active]
  rfl

/-- With no work left of those in flight at the flush point the flush is done. -/
theorem flushCheck_of_idle {c c3 c4 : Core} {x : Nat} (pending : (ctxX c x).flushPending = true) (idle : worksOf c x = [])
    (flushes : ctxState c x = 2) (cleared : c3 = modCtxX c x (fun k => { k with flushPending := false, flushing := [] }))
    (active : c4 = setCtxState (c3.setFld (CTX_CTRL x) CTX_CTRL_FLUSH 0) x 1) :
    flushCheck c x = c4.notice (ctxOwner c4 x) 5 x 0 (regN c4 (CTX_TAKEN x)) c4.tick := by
  have still : ctxState (c3.setFld (CTX_CTRL x) CTX_CTRL_FLUSH 0) x = stFlushing := by
    rw [ctxState_setFld_of_ne (ctxReg_ne (by decide)), cleared, ctxState_modCtxX, flushes, stFlushing]
  rw [flushCheck]
  dsimp only
  rw [pending, idle, List.any_nil, Bool.not_false, Bool.and_self, if_pos rfl, ← cleared, still, if_pos rfl, stActive, ← active]

/-- While a work that it aborted has still to end, the flush goes on. -/
theorem flushCheck_of_ending {c : Core} {x : Nat} {w : Work} (works : worksOf c x = [w]) (waited : (ctxX c x).flushing = [w.num]) :
    flushCheck c x = c := by
  rw [flushCheck]
  dsimp only
  rw [works, waited]
  simp

theorem flushRequest_of_idle {c c1 c2 c3 c4 : Core} {x : Nat} (active : ctxState c x = 1) (b : Bool) (whole : (ctxX c x).whole = [])
    (idle : worksOf c x = []) (missed : c1 = missDeadlines (setCtxState (c.setFld (CTX_CTRL x) CTX_CTRL_FLUSH 1) x 2) x)
    (agree : copiesDiffer c1 x = false) (pending : c2 = modCtxX c1 x (fun k => { k with flushPending := true, flushing := [] }))
    (cleared : c3 = modCtxX c2 x (fun k => { k with flushPending := false, flushing := [] }))
    (ends : c4 = setCtxState (c3.setFld (CTX_CTRL x) CTX_CTRL_FLUSH 0) x 1) :
    flushRequest c x b = c4.notice (ctxOwner c4 x) 5 x 0 (regN c4 (CTX_TAKEN x)) c4.tick := by
  have idle0 : worksOf (setCtxState (c.setFld (CTX_CTRL x) CTX_CTRL_FLUSH 1) x 2) x = [] :=
    (worksOf_setCtxState _ _ _ _).trans ((worksOf_setFld _ _ _ _ _).trans idle)
  have whole0 : (ctxX (setCtxState (c.setFld (CTX_CTRL x) CTX_CTRL_FLUSH 1) x 2) x).whole = [] :=
    (congrArg CtxX.whole (ctxX_congr ((setCtxState_work _ x 2).trans (Core.setFld_work _ _ _ _)) x)).trans whole
  have deadlines := missDeadlines_of_empty idle0 whole0
  have state1 : ctxState c1 x = 2 := by rw [missed, deadlines, ctxState_modCtxX, ctxState_setCtxState _ _ (by decide)]
  have idle1 : worksOf c1 x = [] := by rw [missed, deadlines, worksOf_modCtxX, idle0]
  have whole1 : (ctxX c1 x).whole = [] := by rw [missed, deadlines, ctxX_modCtxX_self]; exact whole0
  have now_ : c1 = flushNow (setCtxState (c.setFld (CTX_CTRL x) CTX_CTRL_FLUSH 1) x 2) x := by
    unfold flushNow
    rw [← missed]
    simp only [agree, whole1, idle1, Bool.false_eq_true, if_false, List.foldl_nil]
  rw [flushRequest_of_active active b now_, idle1, List.map_nil, ← pending]
  refine flushCheck_of_idle ?pending ?idle ?state cleared ends
  case pending => rw [pending, ctxX_modCtxX_self]
  case idle => rw [pending, worksOf_modCtxX, idle1]
  case state => rw [pending, ctxState_modCtxX, state1]

/-! ### Flush with one descriptor in the ring -/

/-- A value put beside ones that a property leaves out is the only one that it keeps. -/
theorem filter_amSet_of_none {α : Type} (l : AMap α) (k : Nat) (v : α) {p : α → Bool} (keeps : p v = true)
    (none_ : (l.map (·.2)).filter p = []) : ((amSet l k v).map (·.2)).filter p = [v] := by
  induction l with
  | nil => simp [amSet, keeps]
  | cons e t ih =>
    obtain ⟨j, w⟩ := e
    have parts : p w = false ∧ (t.map (·.2)).filter p = [] := by
      rw [List.map_cons, List.filter_cons] at none_
      cases out : p w
      · rw [out] at none_; exact ⟨rfl, none_⟩
      · rw [out] at none_; exact absurd none_ (List.cons_ne_nil _ _)
    obtain ⟨out, rest⟩ := parts
    unfold amSet
    split
    · simp only [List.map_cons, List.filter_cons, keeps, out, rest, Bool.false_eq_true, if_true, if_false]
    · split
      · simp only [List.map_cons, List.filter_cons, keeps, rest, if_true]
      · simp only [List.map_cons, List.filter_cons, out, Bool.false_eq_true, if_false]
        exact ih rest

/-- A key that is not there is none of the entries'. -/
theorem key_ne_of_amGet?_none {α : Type} {l : AMap α} {k : Nat} (absent : amGet? l k = none) : ∀ e ∈ l, e.1 ≠ k := by
  induction l with
  | nil => exact fun e inside => absurd inside List.not_mem_nil
  | cons x t ih =>
    obtain ⟨j, w⟩ := x
    by_cases same : j = k
    · simp [amGet?, same] at absent
    · intro e inside
      rcases List.mem_cons.mp inside with rfl | inside
      · exact same
      · exact ih (by simpa [amGet?, same] using absent) e inside

/-- A change that leaves the one value under a key as it is changes nothing. -/
theorem amMod_amSet_of_fixed {α : Type} {l : AMap α} {k : Nat} (absent : amGet? l k = none) {v : α} {f : α → α} (fixed : f v = v) :
    amMod (amSet l k v) k f = amSet l k v := by
  refine (List.map_congr_left (g := id) fun e inside => ?_).trans (List.map_id _)
  rcases amSet_mem l k v e inside with rfl | inside
  · rw [if_pos rfl, fixed, id]
  · rw [if_neg (key_ne_of_amGet?_none absent e inside), id]

/-- An abort leaves a work that has ended with an abort's status as it is. -/
theorem abortWork_of_aborted {c : Core} {w : Work} (absent : work? c w.ctx w.num = none) (ended : w.phase = .ended)
    (builtin : w.prog = none)
    (decided : decidedStatus w = true) (s : Status) : abortWork (setWork c w) w.ctx w.num s = setWork c w := by
  have there : work? (setWork c w) w.ctx w.num = some w := amGet?_amSet_self _ _ _
  have fixed : overrideStatus s w = w := by rw [overrideStatus, decided, if_pos rfl]
  have still : modWork (setWork c w) w.ctx w.num (overrideStatus s) = setWork c w := by
    rw [modWork, setWork, amMod_amSet_of_fixed absent fixed]
  simp only [abortWork, there, builtin, Option.isSome_none, Bool.false_and, Bool.false_eq_true, if_false, overrideStop, ended, still,
    ite_self]

@[simp] theorem popWhole_flight (c : Core) (x : Nat) (d : WholeDesc) (seq : Nat) : (popWhole c x d seq).work.flight = c.work.flight := by
  rw [popWhole, setPtrs_work, Core.count_work, modCtxX_flight]

/-- The work that a whole descriptor not yet taken completes as, in a flush. -/
def flushedWork (c : Core) (x : Nat) (d : WholeDesc) : Work :=
  { workOf x (regN c (CTX_TAKEN x)) d.hdr d.tick noTag with
    noSync := !d.readable || foreignSync c (workOf x (regN c (CTX_TAKEN x)) d.hdr d.tick noTag), late := d.missed, phase := .ended,
    status := some (if d.missed = true ∧ ctxAbort c x = true then .abortedDeadline else .abortedFlush) }

theorem flushDesc_eq (c : Core) (x : Nat) (d : WholeDesc) :
    flushDesc c x d = setWork (popWhole c x d (flushedWork c x d).seq) (flushedWork c x d) := by
  simp only [flushDesc, flushedWork, Bool.and_eq_true]

theorem flushedWork_decided (c : Core) (x : Nat) (d : WholeDesc) : decidedStatus (flushedWork c x d) = true := by
  by_cases aborted : d.missed = true ∧ ctxAbort c x = true
  · simp only [decidedStatus, flushedWork, if_pos aborted]
  · simp only [decidedStatus, flushedWork, if_neg aborted]

theorem descOverdue_congr {c c' : Core} (same : c.tick = c'.tick) (d : WholeDesc) : descOverdue c d = descOverdue c' d := by
  rw [descOverdue, overdue, same, descOverdue, overdue]

/-- No register of a context holds the tick. -/
theorem tick_of_flushing (c : Core) (x : Nat) : (setCtxState (c.setFld (CTX_CTRL x) CTX_CTRL_FLUSH 1) x 2).tick = c.tick := by
  have apart {n : Nat} (low : 0x400000 ≤ n) : TCK_COUNT ≠ n + 0x100 * x := by unfold TCK_COUNT; omega
  rw [Core.tick, rget_setCtxState_ne (by decide) (by decide) (apart (by decide)), Core.rget_setFld_ne _ _ _ (apart (by decide)), Core.tick]

/-- With one whole descriptor in the ring a flush waits for the work that it completes as. -/
theorem flushRequest_of_one {c c1 : Core} {x : Nat} {d : WholeDesc} (active : ctxState c x = 1) (b : Bool) (whole : (ctxX c x).whole = [d])
    (idle : worksOf c x = []) (missed : c1 = missDeadlines (setCtxState (c.setFld (CTX_CTRL x) CTX_CTRL_FLUSH 1) x 2) x)
    (agree : copiesDiffer c1 x = false) (due : d.missed = true ∨ descOverdue c d = false)
    (absent : work? c x (flushedWork c1 x d).num = none) : flushRequest c x b =
      modCtxX (setWork (popWhole c1 x d (flushedWork c1 x d).seq) (flushedWork c1 x d)) x
        (fun k => { k with flushPending := true, flushing := [(flushedWork c1 x d).num] }) := by
  have work0 : (setCtxState (c.setFld (CTX_CTRL x) CTX_CTRL_FLUSH 1) x 2).work = c.work :=
    (setCtxState_work _ x 2).trans (Core.setFld_work _ _ _ _)
  have idle0 : worksOf (setCtxState (c.setFld (CTX_CTRL x) CTX_CTRL_FLUSH 1) x 2) x = [] :=
    (worksOf_congr (congrArg WorkSt.flight work0) x).trans idle
  have whole0 : (ctxX (setCtxState (c.setFld (CTX_CTRL x) CTX_CTRL_FLUSH 1) x 2) x).whole = [d] :=
    (congrArg CtxX.whole (ctxX_congr work0 x)).trans whole
  have deadlines := missDeadlines_of_idle idle0 whole0 fun e inside => by
    rw [List.mem_singleton.mp inside, descOverdue_congr (tick_of_flushing c x)]
    exact due
  have flight1 : c1.work.flight = c.work.flight := by rw [missed, deadlines, modCtxX_flight, work0]
  have whole1 : (ctxX c1 x).whole = [d] := by rw [missed, deadlines, ctxX_modCtxX_self]; exact whole0
  generalize work : flushedWork c1 x d = w at absent ⊢
  have ctx : w.ctx = x := by rw [← work]; rfl
  have popped : (popWhole c1 x d w.seq).work.flight = c.work.flight := (popWhole_flight _ _ _ _).trans flight1
  have works : worksOf (setWork (popWhole c1 x d w.seq) w) x = [w] := by
    refine filter_amSet_of_none _ _ _ (by rw [ctx, beq_self_eq_true]) ?_
    rw [popped]
    exact idle
  have aborted : abortWork (setWork (popWhole c1 x d w.seq) w) x w.num .abortedFlush = setWork (popWhole c1 x d w.seq) w := by
    have gone : work? (popWhole c1 x d w.seq) w.ctx w.num = none := by rw [ctx, work?, popped]; exact absent
    have rule := abortWork_of_aborted gone (by rw [← work]; rfl) (by rw [← work]; rfl) (work ▸ flushedWork_decided c1 x d) .abortedFlush
    rwa [ctx] at rule
  have now_ : setWork (popWhole c1 x d w.seq) w = flushNow (setCtxState (c.setFld (CTX_CTRL x) CTX_CTRL_FLUSH 1) x 2) x := by
    unfold flushNow
    rw [← missed]
    simp only [agree, whole1, Bool.false_eq_true, if_false, List.foldl_cons, List.foldl_nil, flushDesc_eq, work, works, aborted]
  rw [flushRequest_of_active active b now_, works, List.map_cons, List.map_nil]
  exact flushCheck_of_ending ((worksOf_modCtxX _ _ _ _).trans works) (congrArg CtxX.flushing (ctxX_modCtxX_self _ _ _))

/-! ### The statement -/

theorem M.on_const {m : M} {f : Core → Core} {c : Core} (result : f m.core = c) : m.on f = m.on (fun _ => c) := by
  rw [M.on, result, M.on]

theorem ctxGrant_accepted {src : Src} {d : CtxGrant} {m : M} (fm : srcFm src = true) (checks : ∀ y ∈ grantChecks m.core d, y.1 = true) :
    ctxGrant src d m = (m.on (fun _ => grantedCtx d m.core), .accepted, []) := by
  rw [ctxGrant, checked_pass (List.forall_mem_cons.mpr ⟨fm, checks⟩), accept, M.on, M.on]

theorem ctxRevoke_accepted {src : Src} {x : Nat} {m : M} {c : Core} (fm : srcFm src = true) (number : x < 4096)
    (lives : ctxState m.core x ≠ 0) (revoked : revokeCtx m.core x = c) : ctxRevoke src x m = (m.on (fun _ => c), .accepted, []) := by
  refine (checked_pass (by simp [fm, number, lives])).trans ?_
  rw [accept, M.on_const revoked]

theorem ctxFlush_accepted {src : Src} {x : Nat} {m : M} {c : Core} (may : srcFm src = true ∨ srcCtx src = x) (number : x < 4096)
    (lives : ctxState m.core x ≠ 0) (flushed : flushRequest m.core x false = c) :
    ctxFlush src x m = (m.on (fun _ => c), .accepted, []) := by
  refine (checked_pass (by simp [may, number, lives])).trans ?_
  rw [accept, M.on_const flushed]

/-- Settles O36: the grant's registers part by part, and flushes of a context without works. -/
theorem contextManagement : Obligations.ContextManagement := by
  unfold Obligations.ContextManagement
  refine ⟨?grant, ?revoke, ?flush, ?deadlines, ?one⟩
  case grant =>
    intro s src b m asks checks
    have fits := grantFits_of_checks checks
    refine ⟨grantedCtx b m.core, does_of_run rfl (mgmt_answered asks.1 (ctxGrant_accepted asks.2 checks)), ?shape, ?page, ?unarmed,
      ?state, ?part, ?owner, ?rdma, ?abort, ?inflight, ?weight, ?cqLog2, ?ringLog2, ?slot, ?base, ?cq, ?wins, ?zeros⟩
    case shape => rintro r e rfl rfl; exact grantedCtx_shape b m.core
    case page => exact fun a page flip written => rget_grantedCtx_of_page page fits flip written
    case unarmed =>
      have flip : ECC_FLIP_CTRL / 0x100 ≠ 0x4000 + b.ctx := by unfold ECC_FLIP_CTRL; omega
      have written : ECC_POISON_WRITTEN / 0x100 ≠ 0x4000 + b.ctx := by unfold ECC_POISON_WRITTEN; omega
      exact fun unarmed => ⟨rget_grantedCtx_of_unarmed flip fits flip unarmed, rget_grantedCtx_of_unarmed written fits flip unarmed⟩
    case state => exact ctxState_setCtxState _ _ (by decide)
    case part => exact (fld_grantedCtx_cfg0 (by decide) (by decide)).trans (grantCfg0_partition fits.partition)
    case owner => exact (fld_grantedCtx_cfg0 (by decide) (by decide)).trans (grantCfg0_owner fits.owner)
    case rdma => exact (congrArg (· == 1) (fld_grantedCtx_cfg0 (by decide) (by decide))).trans grantCfg0_producer
    case abort => exact (congrArg (· == 1) (fld_grantedCtx_cfg0 (by decide) (by decide))).trans grantCfg0_abort
    case inflight => exact (congrArg (· + 1) (fld_grantedCtx_cfg1 _)).trans (grantCfg1_inflight fits.some_ fits.most)
    case weight => exact (fld_grantedCtx_cfg1 _).trans (grantCfg1_weight (Nat.lt_succ_of_le fits.weight))
    case cqLog2 => exact (fld_grantedCtx_cfg1 _).trans (grantCfg1_cqLog2 (Nat.lt_of_le_of_lt fits.cq (by decide)))
    case ringLog2 => exact (fld_grantedCtx_cfg1 _).trans (grantCfg1_ringLog2 (Nat.lt_of_le_of_lt fits.ring (by decide)))
    case slot => exact grantedCtx_keySlot fits
    case base => exact (rget_grantedCtx_rings (by decide) (by decide) (by decide)).trans grantRings_base
    case cq => exact (rget_grantedCtx_rings (by decide) (by decide) (by decide)).trans grantRings_cq
    case wins => exact fun i w there => grantedCtx_wins fits there
    case zeros => exact fun a inside => grantedCtx_zeros inside
  case revoke =>
    intro s src x m c1 c2 c3 asks number lives whole idle missed flushed freed
    exact does_of_run rfl (mgmt_answered asks.1 (ctxRevoke_accepted asks.2 number (by omega)
      (revokeCtx_of_idle lives whole idle missed flushed freed)))
  case flush =>
    intro s src x m c1 c2 c3 c4 asks number may active whole idle missed agree pending cleared ends
    exact does_of_run rfl (mgmt_answered asks (ctxFlush_accepted may number (by omega)
      (flushRequest_of_idle active false whole idle missed agree pending cleared ends)))
  case deadlines => exact fun c x idle whole => missDeadlines_of_empty idle whole
  case one =>
    rintro c x d w c1 b active whole idle _ missed agree due rfl absent
    exact flushRequest_of_one active b whole idle missed agree due absent

end Sys2Proof.Machine

/-! Doorbells (R228 to R236, R242, R496): how one is admitted, what serving one does to the context, and the statement. -/

namespace Sys2Proof.Machine
open Sys2Proof

/-! ### Arrival -/

/-- A doorbell by Frieze is a request message whose word has the command's kind. -/
theorem doorbellRx_frieze {k : Nat} {p : Pkt} {f : Pfx} (m : M) (kind : f.operand.toNat / 2 ^ 62 = k) :
    doorbellRx k (.frieze p f) m = requestRx 0x21 p f m := by
  simp only [doorbellRx, kind, if_true]

/-- One by RDMA is the WRITE itself. -/
theorem doorbellRx_rdma {k : Nat} {p : RPkt} (m : M) (kind : leNat p.data / 2 ^ 62 % 4 = k) : doorbellRx k (.rdma p) m = rdmaWrite p m := by
  simp only [doorbellRx, kind, if_true]

/-- The doorbells' commands, by the kind of their word. -/
theorem doorbell_exec_eq {cmd : Via → Instr} {k : Nat}
    (command : (cmd, k) ∈ [(Instr.doorbellRing, 0), (.doorbellCq, 1), (.doorbellFlush, 2), (.doorbellResync, 3)]) (via : Via) (s : State) :
    exec (cmd via) s = run (doorbellRx k via) s := by
  simp only [List.mem_cons, Prod.mk.injEq, List.not_mem_nil, or_false] at command
  rcases command with ⟨rfl, rfl⟩ | ⟨rfl, rfl⟩ | ⟨rfl, rfl⟩ | ⟨rfl, rfl⟩ <;> rfl

section
variable {m : M} {p : Pkt} {f : Pfx} {type ss t : Nat} {d : List Byte} {c c1 x : Core} (serves : inService m.core = true)
  (open_ : type = 0x20 ∨ type = 0x21 → ctxRdma m.core p.ctx = false) (lands : landPkt m.core { p with cls := 0 } = (c, some ss))
  (number : p.ctx < 4096) (owner : ctxOwner c p.ctx = p.srcEp) (agent : p.srcEp / 2 ^ 28 ≠ 2) (bare : ¬(type = 0x11 ∨ type = 0x20))
  (whole : assemble c ss p.xid p.msgOff 0 (ctxPart c p.ctx) f.data = (c1, some d)) (tag : newTag c1 = (x, some t))
include serves open_ lands number owner agent bare whole tag

/-- A message without data that an agent sends to its own context is admitted. -/
theorem requestRx_of_owner : requestRx type p f m = { m with core := { x with net := { x.net with requests := x.net.requests ++ [{
      tag := t, sender := .session ss p.xid, ctx := p.ctx, part := ctxPart c1 p.ctx, type := type, body := pfxBody f, data := d,
      cause := none, waited := 0, reply := none, port := p.port }] } } } := by
  have named : (if p.ctx < 4096 then ctxOwner c p.ctx == p.srcEp else p.srcEp / 2 ^ 28 == 2 && type != 0x20 && type != 0x21) = true := by
    rw [if_pos number, owner, beq_self_eq_true]
  have whole' : assemble c ss p.xid p.msgOff (if type = 0x11 ∨ type = 0x20 then f.len else 0)
      (if p.ctx < 4096 then ctxPart c p.ctx else 16) f.data = (c1, some d) := by
    rw [if_neg bare, if_pos number]; exact whole
  rw [requestRx_admitted serves lands named whole' tag rfl open_, if_neg agent]

end

/-! ### Serving (R228 to R236) -/

section
variable {r : Request} {kind v : Nat} (type : r.type = 0x21) (number : r.ctx < 4096) (word : r.body.getD 3 0 = kind * 2 ^ 62 + v)
  (known : kind < 4) (low : v < 2 ^ 32)
include type number word known low

/-- A doorbell's word is its kind in bits 63:62 and its VALUE in bits 31:0. -/
theorem serveHere_doorbell (m : M) : ∃ w : W64, serveHere r m = doorbell r.port kind r.ctx w m ∧ bitsOf w.toNat 61 32 = 0 ∧
    bitsOf w.toNat 31 0 = v := by
  have number' : ¬4096 ≤ r.ctx := Nat.not_le.mpr number
  have value : (BitVec.ofNat 64 (r.body.getD 3 0)).toNat = kind * 2 ^ 62 + v := by
    rw [BitVec.toNat_ofNat, word]
    omega
  have top : bitsOf (kind * 2 ^ 62 + v) 63 62 = kind := by
    change (kind * 2 ^ 62 + v) / 2 ^ 62 % 2 ^ 2 = kind
    omega
  refine ⟨BitVec.ofNat 64 (r.body.getD 3 0), ?serve, ?middle, ?value⟩
  case serve =>
    simp only [serveHere, type, serveDoorbell, number', if_false]
    rw [value, top]
  case middle =>
    rw [value]
    change (kind * 2 ^ 62 + v) / 2 ^ 32 % 2 ^ 30 = 0
    omega
  case value =>
    rw [value]
    change (kind * 2 ^ 62 + v) / 2 ^ 0 % 2 ^ 32 = v
    omega

end

section
variable {m : M} {port x v : Nat} {w : W64} (middle : bitsOf w.toNat 61 32 = 0) (value : bitsOf w.toNat 31 0 = v)
include middle value

section
variable (lives : ctxState m.core x = 1 ∨ ctxState m.core x = 2)
include lives

theorem doorbell_ring : doorbell port 0 x w m =
    (match ringDoorbell port x v m with | (m, some k) => (m, .park k) | (m, none) => (m, .reply {})) := by
  have open_ : ctxState m.core x ≠ 4 ∧ ctxState m.core x ≠ 3 := by omega
  simp only [doorbell, middle, value, stRevoking, stReset, open_.1, open_.2, ne_eq, not_true_eq_false, show ¬2 ≤ 0 by decide,
    false_and, or_self, if_false] <;> rfl

theorem doorbell_cq : doorbell port 1 x w m = (m.on (cqDoorbell x v), .reply {}) := by
  have open_ : ctxState m.core x ≠ 4 ∧ ctxState m.core x ≠ 3 := by omega
  simp only [doorbell, middle, value, stRevoking, stReset, open_.1, open_.2, ne_eq, not_true_eq_false, show ¬2 ≤ 1 by decide,
    false_and, or_self, if_false]

theorem doorbell_flush (zero : v = 0) : doorbell port 2 x w m = (m.on (fun c => flushRequest c x true), .reply {}) := by
  have open_ : ctxState m.core x ≠ 4 ∧ ctxState m.core x ≠ 3 := by omega
  subst zero
  simp only [doorbell, middle, value, stRevoking, stReset, open_.1, open_.2, ne_eq, not_true_eq_false, and_false, or_self, if_false]

end

theorem doorbell_resync (zero : v = 0) (reset_ : ctxState m.core x = 3) : doorbell port 3 x w m =
    (m.on (fun c => setCtxState c x (if (ctxX c x).flushPending then 2 else 1)), .reply {}) := by
  subst zero
  simp only [doorbell, middle, value, stRevoking, stReset, stFlushing, stActive, reset_, ne_eq, not_true_eq_false, and_false, or_self,
    Nat.reduceEqDiff, if_false, if_true]

end

/-- A context that is being revoked refuses every doorbell but FLUSH. -/
theorem doorbell_of_revoking {m : M} {port kind x : Nat} {w : W64} (revokes : ctxState m.core x = 4) (other : kind ≠ 2) :
    doorbell port kind x w m = (m.on (fun c => raise c .ctxDoorbellRejected 7 x), .reply {}) := by
  simp only [doorbell, revokes, stRevoking, other, rejectDoorbell, if_true, if_false, ite_self]

/-! ### The write pointer (R229, R231) -/

theorem ringDoorbell_of_differing {m : M} {port x v : Nat} (differ : copiesDiffer m.core x = true) :
    ringDoorbell port x v m = (m.on (fun c => ringReset c x), none) := by
  simp only [ringDoorbell, differ, if_true]

/-- The walk stops when less than a header is left. -/
theorem walkRing_of_short {port fuel x p left : Nat} (m : M) (short : left < 2) : walkRing port fuel m x p left = (m, .ok ([], p)) := by
  cases fuel with
  | zero => rfl
  | succ n => simp only [walkRing, short, if_true]

section
variable {m m' : M} {port x p left len fuel : Nat} {b : List Byte} (header : 2 ≤ left) (reads : ringWords 2 m x p = (m', .ok b))
  (length : len = leNat ((b.drop 2).take 2)) (least : 2 ≤ len) (most : len ≤ 1024) (fits : len ≤ 2 ^ ringLog2 m'.core x)
include header reads length least most fits

/-- A descriptor that ends where the walk does is whole. -/
theorem walkRing_of_whole (ends : len = left) : walkRing port (fuel + 1) m x p left =
    (m', .ok ([⟨p, len, m'.core.tick, none, 0, true, b, false, port⟩], (p + len) % 2 ^ 32)) := by
  have sound : ¬(len < 2 ∨ 1024 < len ∨ 2 ^ ringLog2 m'.core x < len) := by omega
  have le : len ≤ left := Nat.le_of_eq ends
  have rest : left - len < 2 := by omega
  subst length
  simp only [walkRing, Nat.not_lt.mpr header, reads, sound, le, if_false, if_true, walkRing_of_short _ rest, andThen]

/-- One that goes on behind it is left for a later doorbell. -/
theorem walkRing_of_partial (more : left < len) : walkRing port (fuel + 1) m x p left = (m', .ok ([], p)) := by
  have sound : ¬(len < 2 ∨ 1024 < len ∨ 2 ^ ringLog2 m'.core x < len) := by omega
  have gt : ¬len ≤ left := Nat.not_le.mpr more
  subst length
  simp only [walkRing, Nat.not_lt.mpr header, reads, sound, gt, if_false]

end

section
variable {m : M} {port x v : Nat} (agree : copiesDiffer m.core x = false) (moves : sub32 v (regN m.core (CTX_WP_A x)) ≠ 0)
  (forward_ : sub32 v (regN m.core (CTX_WP_A x)) < 2 ^ 31)
include agree moves forward_

theorem ringDoorbell_of_far (far : 2 ^ ringLog2 m.core x < sub32 v (regN m.core (CTX_RP_A x))) :
    ringDoorbell port x v m = (m.on (fun c => raise c .ctxDoorbellRejected 7 x), none) := by
  have stands : ¬(sub32 v (regN m.core (CTX_WP_A x)) = 0 ∨ 2 ^ 31 ≤ sub32 v (regN m.core (CTX_WP_A x))) := by omega
  simp only [ringDoorbell, agree, stands, far, rejectDoorbell, Bool.false_eq_true, if_false, if_true]

/-- The descriptors that the walk finds whole are end-marked, and the pointers follow. -/
theorem ringDoorbell_of_walk {m' : M} {l : List WholeDesc} {q : Nat} (low : v < 2 ^ 32)
    (near : sub32 v (regN m.core (CTX_RP_A x)) ≤ 2 ^ ringLog2 m.core x)
    (walk : walkRing port (2 ^ 20) m x (ctxX m.core x).walk (sub32 v (ctxX m.core x).walk) = (m', .ok (l, q))) :
    ringDoorbell port x v m = (m'.on (fun c => setPtrs (modCtxX c x (fun k => { k with whole := k.whole ++ l, walk := q })) x v
      (regN m.core (CTX_RP_A x))), none) := by
  have stands : ¬(sub32 v (regN m.core (CTX_WP_A x)) = 0 ∨ 2 ^ 31 ≤ sub32 v (regN m.core (CTX_WP_A x))) := by omega
  simp only [ringDoorbell, agree, stands, Nat.not_lt.mpr near, walk, Nat.mod_eq_of_lt low, Bool.false_eq_true, if_false]

end

/-! ### The completion head (R230) -/

section
variable {c : Core} {x h : Nat} (forward_ : sub32 h (regN c (CTX_CQ_HEAD x)) < 2 ^ 31)
include forward_

theorem cqDoorbell_of_far (far : sub32 (regN c (CTX_CQ_TAIL x)) (regN c (CTX_CQ_HEAD x)) < sub32 h (regN c (CTX_CQ_HEAD x))) :
    cqDoorbell x h c = raise c .ctxDoorbellRejected 7 x := by
  have stands : ¬(sub32 h (regN c (CTX_CQ_HEAD x)) = 0 ∨ 2 ^ 31 ≤ sub32 h (regN c (CTX_CQ_HEAD x))) := by omega
  simp only [cqDoorbell, stands, far, rejectDoorbell, if_false, if_true]

theorem cqDoorbell_of_near (moves : sub32 h (regN c (CTX_CQ_HEAD x)) ≠ 0) (low : h < 2 ^ 32)
    (near : sub32 h (regN c (CTX_CQ_HEAD x)) ≤ sub32 (regN c (CTX_CQ_TAIL x)) (regN c (CTX_CQ_HEAD x))) :
    cqDoorbell x h c = (worksOf c x).foldl (fun c w => modWork c x w.num (fun w => { w with recordHeld := false }))
      ((c.rset (CTX_CQ_HEAD x) (w64 h)).setFld (CTX_STATUS x) CTX_STATUS_CQ_FULL 0) := by
  have stands : ¬(sub32 h (regN c (CTX_CQ_HEAD x)) = 0 ∨ 2 ^ 31 ≤ sub32 h (regN c (CTX_CQ_HEAD x))) := by omega
  have works : worksOf ((c.rset (CTX_CQ_HEAD x) (w64 h)).setFld (CTX_STATUS x) CTX_STATUS_CQ_FULL 0) x = worksOf c x :=
    (worksOf_setFld _ _ _ _ _).trans (worksOf_congr (congrArg WorkSt.flight (Core.rset_work _ _ _)) x)
  simp only [cqDoorbell, stands, Nat.not_lt.mpr near, setN, Nat.mod_eq_of_lt low, if_false]
  rw [works]

end

/-- Settles O37: each arrival is that of its request message, and serving a doorbell is its meaning in the case that the context's state
chooses. -/
theorem doorbells : Obligations.Doorbells := by
  unfold Obligations.Doorbells
  refine ⟨?arrival, ?query, ?answer, ?serving⟩
  case arrival =>
    intro cmd k command
    refine ⟨?frieze, ?rdma⟩
    case frieze =>
      intro s p f c c1 c2 ss t d kind serves open_ lands number owner agent _ whole tag
      exact does_of_run (doorbell_exec_eq command _ s) ((doorbellRx_frieze s.m kind).trans
        (requestRx_of_owner (m := s.m) serves (fun _ => open_) lands number owner agent (by decide) whole tag))
    case rdma =>
      intro s p m kind written
      have same : exec (cmd (.rdma p)) s = exec (.rdmaWrite p) s :=
        (doorbell_exec_eq command _ s).trans (by rw [run, doorbellRx_rdma _ kind]; rfl)
      exact same.trans written
  case query =>
    intro s p c c1 c2 ss t d serves lands number owner agent _ whole tag
    exact does_of_run rfl (requestRx_of_owner (m := s.m) (f := ⟨0, 0, 0, 0, 0, []⟩)
      serves (fun ring => absurd ring (by decide)) lands number owner agent (by decide)
      whole tag)
  case answer =>
    intro m r type number
    simp only [serveHere, type, Nat.not_le.mpr number, if_false]
    rfl
  case serving =>
    rintro m r x v type rfl number low
    refine ⟨fun word lives differ => ?reset, fun word lives agree moves forward_ => ⟨fun far => ?far, ?walk⟩,
      fun word lives moves forward_ => ⟨fun far => ?cqFar, fun near => ?cq⟩, fun word active => ?flush, fun word reset_ => ?resync,
      fun revokes other small => ?revoking⟩
    case reset =>
      obtain ⟨w, serve, middle, value⟩ := serveHere_doorbell type number (kind := 0) (by omega) (by decide) low m
      rw [serve, doorbell_ring middle value lives, ringDoorbell_of_differing differ]
    case far =>
      obtain ⟨w, serve, middle, value⟩ := serveHere_doorbell type number (kind := 0) (by omega) (by decide) low m
      rw [serve, doorbell_ring middle value lives, ringDoorbell_of_far agree moves forward_ far]
    case walk =>
      rintro m' b len _ near rfl header reads length least most fits
      obtain ⟨w, serve, middle, value⟩ := serveHere_doorbell type number (kind := 0) (by omega) (by decide) low m
      refine ⟨fun ends => ?whole, fun more => ?cut⟩
      case whole =>
        rw [serve, doorbell_ring middle value lives, ringDoorbell_of_walk agree moves forward_ low near
          (walkRing_of_whole header reads length least most fits ends)]
      case cut =>
        rw [serve, doorbell_ring middle value lives, ringDoorbell_of_walk agree moves forward_ low near
          (walkRing_of_partial header reads length least most fits more)]
    case cqFar =>
      obtain ⟨w, serve, middle, value⟩ := serveHere_doorbell type number (kind := 1) (by omega) (by decide) low m
      rw [serve, doorbell_cq middle value lives, M.on, cqDoorbell_of_far forward_ far, M.on]
    case cq =>
      obtain ⟨w, serve, middle, value⟩ := serveHere_doorbell type number (kind := 1) (by omega) (by decide) low m
      rw [serve, doorbell_cq middle value lives, M.on, cqDoorbell_of_near forward_ moves low near, M.on]
    case flush =>
      obtain ⟨w, serve, middle, value⟩ := serveHere_doorbell type number (kind := 2) (v := 0) (by omega) (by decide) (by decide) m
      rw [serve, doorbell_flush middle value (.inl active) rfl]
    case resync =>
      obtain ⟨w, serve, middle, value⟩ := serveHere_doorbell type number (kind := 3) (v := 0) (by omega) (by decide) (by decide) m
      rw [serve, doorbell_resync middle value rfl reset_]
    case revoking =>
      have kind : bitsOf (BitVec.ofNat 64 (r.body.getD 3 0)).toNat 63 62 ≠ 2 := by
        rw [BitVec.toNat_ofNat]
        change r.body.getD 3 0 % 2 ^ 64 / 2 ^ 62 % 2 ^ 2 ≠ 2
        omega
      simp only [serveHere, type, serveDoorbell, Nat.not_le.mpr number, if_false]
      exact doorbell_of_revoking revokes kind

end Sys2Proof.Machine

/-! Works taken by the dispatcher, slices started, and deadlines that pass (R68 to R72, R227, R238, R248, R249, R255, R356), and the
statement on them. -/

namespace Sys2Proof.Machine
open Sys2Proof

/-! ### Works and the tick -/

@[simp] theorem work?_setWork (c : Core) (w : Work) : work? (setWork c w) w.ctx w.num = some w := by
  rw [work?, setWork, amGet?_amSet_self]

/-- A work is overdue by the tick count alone. -/
theorem overdue_congr {c d : Core} (same : c.rget TCK_COUNT = d.rget TCK_COUNT) (w : Work) : overdue c w = overdue d w := by
  rw [overdue, Core.tick, same, overdue, Core.tick]

theorem allotWindow_of_none {c : Core} {w : Work} (none_ : w.winNeed = 0) : allotWindow c w = c := by rw [allotWindow, if_pos none_]

/-! ### A count that a work waits for (R419) -/

section object
variable {c : Core} {x : Nat} {o : SyncObj} (object : sync? c x = some o)
include object

theorem syncFrozen_of_there (thawed : o.frozen = false) : syncFrozen c x = false := by simp only [syncFrozen, object, thawed]

theorem syncPoisoned_of_there (clean : o.poisoned = false) : syncPoisoned c x = false := by simp only [syncPoisoned, object, clean]

theorem syncWait_of_reached {v : Nat} (reached : v ≤ o.count) (who : ParkRef) : syncWait c x v who = (c, true) := by
  simp only [syncWait, object, reached, if_true]

/-- A waiter joins the object's list, with an entry while its plinth has one. -/
theorem syncWait_of_waiting {v : Nat} (below : o.count < v) (room : waitEntries c (x % 4) < 65536) (who : ParkRef) :
    syncWait c x v who = (setSync c x { o with waiters := o.waiters ++ [⟨who, v, true⟩] }, false) := by
  simp only [syncWait, object, Nat.not_le.mpr below, if_false, room, decide_true, if_true]

end object

/-! ### A work is taken (R227, R255) -/

section admitted
variable {c c3 : Core} {w : Work}

/-- A work that meets a failure when it is taken stops with its status. -/
theorem admitWork_of_failed {st : Status} {d : W64} (met : overdue (stopWork (setWork c w) w.ctx w.num st d) w = false) :
    admitWork c w (some (st, d)) false = stopWork (setWork c w) w.ctx w.num st d := by
  simp only [admitWork, met, Bool.or_self, Bool.false_eq_true, if_false]

variable (clusters : clustersOf (setWork c w) (ctxPart (setWork c w) w.ctx) ≠ []) (builtin : workProg (setWork c w) w = .inr none)
  (placed : c3 = modWork (setWork c w) w.ctx w.num (fun w => { w with prog := none, winNeed := 0 }))
  (met : overdue (setWork c w) w = false)
include clusters builtin placed met

/-- A built-in work with no count to wait for is ready. -/
theorem admitWork_of_ready (free : bitOf w.flags 1 = false) : admitWork c w none false = c3 := by
  have met3 : overdue c3 w = false := by rw [placed]; exact met
  have there : work? c3 w.ctx w.num = some { w with prog := none, winNeed := 0 } := by
    rw [placed, work?_modWork, work?_setWork, Option.map_some]
  simp only [admitWork, clusters, builtin, if_false, ← placed, there, allotWindow_of_none, free, Bool.false_and, Bool.false_eq_true,
    met3, Bool.or_self]

variable {o : SyncObj} (waits : bitOf w.flags 1 = true) (object : sync? c3 w.preSync = some o) (thawed : o.frozen = false)
  (clean : o.poisoned = false)
include waits object thawed clean

/-- A count that is reached already does not hold the work up. -/
theorem admitWork_of_reached (reached : w.preValue ≤ o.count) : admitWork c w none false = c3 := by
  have met3 : overdue c3 w = false := by rw [placed]; exact met
  have there : work? c3 w.ctx w.num = some { w with prog := none, winNeed := 0 } := by
    rw [placed, work?_modWork, work?_setWork, Option.map_some]
  simp only [admitWork, clusters, builtin, if_false, ← placed, there, allotWindow_of_none, waits,
    syncFrozen_of_there object thawed, syncPoisoned_of_there object clean, syncWait_of_reached object reached, Bool.and_false,
    Bool.false_eq_true, if_true, met3, Bool.or_self]

/-- A work whose count is not reached waits for it. -/
theorem admitWork_of_waiting {c4 : Core} (below : o.count < w.preValue) (room : waitEntries c3 (w.preSync % 4) < 65536)
    (joined : c4 = setSync c3 w.preSync { o with waiters := o.waiters ++ [⟨.work w.ctx w.num, w.preValue, true⟩] }) :
    admitWork c w none false = (modWork c4 w.ctx w.num (fun w => { w with phase := .preWait })).count (CTX_PARKS w.ctx) := by
  have met4 : overdue ((modWork c4 w.ctx w.num (fun w => { w with phase := .preWait })).count (CTX_PARKS w.ctx)) w = false := by
    rw [← met]
    refine overdue_congr ?_ w
    rw [Core.rget_count_ne _ _ (by rw [CTX_PARKS, TCK_COUNT]; omega), rget_modWork, joined, setSync,
      rget_wroteCtrl_ne (by decide) (by decide), placed]
    rfl
  have there : work? c3 w.ctx w.num = some { w with prog := none, winNeed := 0 } := by
    rw [placed, work?_modWork, work?_setWork, Option.map_some]
  simp only [admitWork, clusters, builtin, if_false, ← placed, there, allotWindow_of_none, waits,
    syncFrozen_of_there object thawed, syncPoisoned_of_there object clean, syncWait_of_waiting object below room, ← joined, Bool.and_false,
    Bool.false_eq_true, if_true, met4, Bool.or_self]

end admitted

/-- The dispatcher takes the first whole descriptor when the context is ACTIVE and a slot and an op tag are free. -/
theorem takeWork_of_whole {m m' : M} {x tag : Nat} {d : WholeDesc} {rest : List WholeDesc} {b : List Byte} {c1 : Core} {w : Work}
    (active : ctxState m.core x = 1) (slot : inflight m.core x < ctxInflight m.core x) (tags : m.core.work.tags.length < 65536)
    (agree : copiesDiffer m.core x = false) (whole : (ctxX m.core x).whole = d :: rest) (fine : d.refused = none)
    (read : ringWords d.words m x d.ptr = (m', .ok b)) (tagged : newTag m'.core = (c1, some tag))
    (found : w = { workOf x (regN m.core (CTX_TAKEN x)) b d.tick tag with
      noSync := !d.readable || foreignSync c1 (workOf x (regN m.core (CTX_TAKEN x)) b d.tick tag), port := d.port }) :
    takeWork x m = { m' with core := admitWork (popWhole c1 x d w.seq) w ((headerFail c1 w).map (·, 0)) d.missed } := by
  subst found
  have may : ¬(ctxState m.core x ≠ stActive ∨ ctxInflight m.core x ≤ inflight m.core x ∨ 65536 ≤ m.core.work.tags.length) := by
    rw [active, stActive]; omega
  simp only [takeWork, may, agree, whole, fine, read, M.on, tagged, if_false, Bool.false_eq_true]
  rfl

/-! ### Slices (R248, R249) -/

theorem preferred_nil (w : Work) : preferred w [] = [] := rfl

/-- The preferred ones are among those there are. -/
theorem preferred_subset (w : Work) (l : List Nat) : ∀ n ∈ preferred w l, n ∈ l := by
  intro n inside
  rw [preferred] at inside
  split at inside
  · exact inside
  · exact (List.mem_filter.mp inside).1

theorem preferred_ne_nil (w : Work) {l : List Nat} (some_ : l ≠ []) : preferred w l ≠ [] := by
  rw [preferred]
  split
  · exact some_
  · assumption

/-- The device chooses one of those there are. -/
theorem Core.choose_lt (c : Core) {n : Nat} (some_ : 0 < n) : (c.choose n).2 < n := by
  rw [Core.choose]
  split
  · exact some_
  · exact Nat.mod_lt _ some_

/-- A program's slice takes no cluster. -/
theorem placeSlice_of_prog {c d : Core} {w : Work} {k : Option Nat} (bound : w.prog.isSome = true) (placed : placeSlice c w = (d, k)) :
    k = none := by
  rw [placeSlice, if_pos bound] at placed
  exact (Prod.mk.inj placed).2.symm

/-- A built-in work's slice gets a cluster of its partition that runs, when there is one. -/
theorem placeSlice_of_cluster {c d : Core} {w : Work} {k : Option Nat} (builtin : w.prog = none)
    (runs : (clustersOf c (ctxPart c w.ctx)).any (clusterUp c) = true) (placed : placeSlice c w = (d, k)) :
    ∃ n, k = some n ∧ n ∈ clustersOf c (ctxPart c w.ctx) ∧ clusterUp c n = true := by
  obtain ⟨near, there⟩ : ∃ near, near = preferred w ((clustersOf c (ctxPart c w.ctx)).filter (clusterUp c)) := ⟨_, rfl⟩
  have some_ : near ≠ [] := by
    rw [there]
    obtain ⟨n, inside, up⟩ := List.any_eq_true.mp runs
    exact preferred_ne_nil w (List.ne_nil_of_mem (List.mem_filter.mpr ⟨inside, up⟩))
  have among : ∀ n ∈ near, n ∈ clustersOf c (ctxPart c w.ctx) ∧ clusterUp c n = true := fun n inside =>
    List.mem_filter.mp (preferred_subset w _ n (there ▸ inside))
  rw [placeSlice, builtin, Option.isSome_none, if_neg Bool.false_ne_true, ← there] at placed
  cases near with
  | nil => exact absurd rfl some_
  | cons n ns =>
    have small := Core.choose_lt c (Nat.succ_pos ns.length)
    have chosen : (n :: ns)[(c.choose (ns.length + 1)).2]? = some (n :: ns)[(c.choose (ns.length + 1)).2] := List.getElem?_eq_getElem small
    exact ⟨_, (Prod.mk.inj placed).2.symm.trans chosen, among _ (List.getElem_mem small)⟩

section slices
variable {c d : Core} {x num ns : Nat} {w : Work} {k : Option Nat} (there : work? c x num = some w) (placed : w.winNeed = 0)
  (head : headSlice c x = some w) (same : w.num = num) (clusters : clustersOf c (ctxPart c x) ≠ [])
  (works : expertsFirst c (ctxPart c x) = false) (turn : drrTurn c x (fitSlice c (ctxPart c x) ns) = true)
  (place : placeSlice c w = (d, k))
include there placed head same clusters works turn place

/-- A slice that needs no engine starts on its cluster. -/
theorem startSlice_of_cluster (free : needsEngine w.opcode = false ∨ w.prog.isSome = true) : startSlice x num ns c =
    modWork (spendDeficit d x (fitSlice c (ctxPart c x) ns)) x num
      (fun w => { w with phase := .running, cluster := k, sliceRows := [] }) := by
  have free' : (needsEngine w.opcode && w.prog.isNone) = false := by
    rcases free with other | bound
    · rw [other, Bool.false_and]
    · rw [Option.isNone_eq_false_iff.mpr bound, Bool.and_false]
  simp only [startSlice, there, allotWindow_of_none placed, ite_self, head, same, ne_eq, not_true_eq_false, if_false, clusters, works,
    turn, Bool.not_true, Bool.or_self, Bool.false_eq_true, free', place]

/-- A matrix work's slice starts with a free engine of its partition. -/
theorem startSlice_of_engine {c2 : Core} {e i : Nat} {es : List Nat} (matrix : needsEngine w.opcode = true) (builtin : w.prog = none)
    (engines : preferred w ((enginesOf c (ctxPart c x)).filter (engineFree c)) = e :: es) (chosen : d.choose (es.length + 1) = (c2, i)) :
    startSlice x num ns c = modWork (holdEngine (countRedo (spendDeficit c2 x (fitSlice c (ctxPart c x) ns)) w ((e :: es).getD i e))
      ((e :: es).getD i e) x num) x num
      (fun w => { w with phase := .running, engine := some ((e :: es).getD i e), cluster := k, redo := false, sliceRows := [] }) := by
  have some_ : enginesOf c (ctxPart c x) ≠ [] := fun none_ => by
    rw [none_, List.filter_nil, preferred_nil] at engines
    exact List.cons_ne_nil _ _ engines.symm
  simp only [startSlice, there, allotWindow_of_none placed, ite_self, head, same, ne_eq, not_true_eq_false, if_false, clusters, works,
    turn, Bool.not_true, Bool.or_self, Bool.false_eq_true, matrix, builtin, Option.isNone_none, Bool.and_self, if_true, some_, engines,
    place, chosen]

end slices

/-! ### Deadlines (R68 to R72) -/

theorem ctxAbort_modCtxX (c : Core) (x y : Nat) (f : CtxX → CtxX) : ctxAbort (modCtxX c x f) y = ctxAbort c y := by
  rw [ctxAbort, Core.flag, Core.fld_congr (rget_modCtxX_of_unlogged (unlogged_ctxReg (by decide)) c x f)]; rfl

/-- One work that has passed its deadline, in a context that does not abort on one. -/
theorem missDeadlines_of_late {c d : Core} {x : Nat} {w : Work} (works : worksOf c x = [w]) (whole : (ctxX c x).whole = [])
    (missed : notMissed c w = false) (goesOn : ctxAbort c x = false)
    (late : d = modCtxX (modWork c x w.num (fun w => { w with late := true })) x (fun k => { k with missed := k.missed + 1 })) :
    missDeadlines c x = modCtxX d x (fun k => { k with missed := k.missed + 0 }) := by
  have goesOn' : ctxAbort d x = false := by rw [late, ctxAbort_modCtxX]; exact goesOn
  have whole' : (ctxX d x).whole = [] := by rw [late, ctxX_modCtxX_self]; exact whole
  have one : missDeadline c x w.num true = d := by
    rw [missDeadline]
    rw [if_pos rfl, ← late, goesOn', if_neg Bool.false_ne_true]
  rw [missDeadlines, works]
  simp only [List.foldl_cons, List.foldl_nil, missed, Bool.false_eq_true, if_false, one, modCtxX, whole', List.filter_nil, List.map_nil,
    List.length_nil]

/-- The misses of the running tick give one event with their number (R71). -/
theorem missEvent_of_missed {c : Core} {x n : Nat} (missed : (ctxX c x).missed = n) (some_ : n ≠ 0) :
    missEvent c x = modCtxX (raise c .deadlineMissed 7 x 0 (min n 65535)) x (fun v => { v with missed := 0 }) := by
  simp only [missEvent, missed, some_, if_false]

/-- Settles O38: a work that is taken stops with what its header or its PRE_SYNC fails by, waits for its count or is ready; the slice
whose turn it is goes to a cluster that runs, with an engine for a matrix work; and a work past its deadline is LATE and counted. -/
theorem worksTakenAndStarted : Obligations.WorksTakenAndStarted := by
  unfold Obligations.WorksTakenAndStarted
  refine ⟨?taken, ?slices, ?deadline⟩
  case taken =>
    rintro s x d rest m b c1 c2 tag w serves ready active slot tags agree whole fine inTime read tagged found rfl met
    have takes (c : Core) (admits : admitWork (popWhole c1 x d w.seq) w ((headerFail c1 w).map (·, 0)) false = c) :
        does (.workTake x) s { m with core := c } := by
      refine does_of_served rfl serves ?_
      have on : bootStage s.m.core = stReady := ready
      rw [if_pos on, takeWork_of_whole (m := s.m) active slot tags agree whole fine read tagged found, inTime, admits]
    have own : w.ctx = x := by rw [found]; rfl
    refine ⟨fun st fails late => takes _ ?_, fun c3 sound clusters builtin placed => ⟨fun free => takes _ ?_,
      fun o waits object thawed clean => ⟨fun reached => takes _ ?_, fun c4 below room joined => takes _ ?_⟩⟩⟩
    · subst own
      rw [fails, Option.map_some, admitWork_of_failed late]
    · subst own
      rw [sound, Option.map_none, admitWork_of_ready clusters builtin placed met free]
    · subst own
      rw [sound, Option.map_none, admitWork_of_reached clusters builtin placed met waits object thawed clean reached]
    · subst own
      rw [sound, Option.map_none, admitWork_of_waiting clusters builtin placed met waits object thawed clean below room joined]
  case slices =>
    rintro s x num ns q ns' w serves there placed head same rfl clusters rfl works turn
    have own : w.ctx = x := by
      have inside := List.mem_of_find?_eq_some head
      have ready := (List.mem_filter.mp inside).1
      have mine := (List.mem_filter.mp (List.mem_filter.mp ready).1).2
      exact eq_of_beq mine
    refine ⟨fun c k place => ⟨fun bound => placeSlice_of_prog bound place, fun builtin runs => ?_,
      fun free => does_of_servedCore rfl serves (startSlice_of_cluster there placed head same clusters works turn place free)⟩, ?_⟩
    · rw [← own] at runs ⊢
      exact placeSlice_of_cluster builtin runs place
    · rintro e es c k c2 i n matrix builtin engines place chosen rfl
      exact does_of_servedCore rfl serves
        (startSlice_of_engine there placed head same clusters works turn place matrix builtin engines chosen)
  case deadline =>
    rintro s x w c c2 serves works whole missed goesOn late counted
    refine does_of_servedCore rfl serves ?_
    have number : (ctxX c2 x).missed = (ctxX s.core x).missed + 1 := by
      rw [counted, ctxX_modCtxX_self, late, ctxX_modCtxX_self]; rfl
    rw [workDeadline, missDeadlines_of_late works whole missed goesOn late, ← counted, missEvent_of_missed number (Nat.succ_ne_zero _)]

end Sys2Proof.Machine

/-! The driver of the built-in works by what a work has reached, and NOP and WAIT, which need neither thread nor engine (R256, R423). -/

namespace Sys2Proof.Machine
open Sys2Proof

/-! ### The driver of a work, by what the work has reached -/

/-- What a work's command does once the work has started. -/
def runFrom (x num : Nat) (step : M → Work → M × Res Unit) (total : M → Work → Nat) (m : M) : M :=
  match work? m.core x num with
  | none => m
  | some w =>
    if total m w ≤ w.step then m.on (fun c => endWork c x num)
    else
      let m := underTag w.tag (fun m => applyStep m (step m w) x num (fun c => stepDone c x num)) m
      match work? m.core x num with
      | some w => if active w ∧ total m w ≤ w.step then m.on (fun c => endWork c x num) else m
      | none => m

section driver
variable {op x num : Nat} {check step : M → Work → M × Res Unit} {start : Core → Work → Core} {total : M → Work → Nat} {m : M} {w : Work}
  (there : work? m.core x num = some w)
include there

section commands
variable (code : w.opcode = op) (runs : active w = true)
include code runs

theorem runWork_of_started (started : w.started = true) : runWork op x num check start step total m = runFrom x num step total m := by
  simp only [runWork, there, code, runs, started, ne_eq, not_true_eq_false, Bool.not_true, Bool.false_eq_true, or_self, if_false, if_true,
    runFrom] <;> rfl

variable (unstarted : w.started = false) {m' : M}
include unstarted

/-- A work that its check lets start goes on as a started one. -/
theorem runWork_of_start {u : Unit} (sound : check m w = (m', .ok u)) :
    runWork op x num check start step total m = runFrom x num step total (m'.on (fun c => start c w)) := by
  simp only [runWork, there, code, runs, unstarted, sound, ne_eq, not_true_eq_false, Bool.not_true, Bool.false_eq_true, or_self, if_false,
    runFrom] <;> rfl

theorem runWork_of_refused {st : Status} {d : W64} (bad : check m w = (m', .fail st d)) :
    runWork op x num check start step total m = m'.on (fun c => stopWork c x num st d) := by
  simp only [runWork, there, code, runs, unstarted, bad, ne_eq, not_true_eq_false, Bool.not_true, Bool.false_eq_true, or_self, if_false]

theorem runWork_of_waiting {k : ParkCause} (waits : check m w = (m', .park k)) :
    runWork op x num check start step total m = m'.on (fun c => parkWork c x num k) := by
  simp only [runWork, there, code, runs, unstarted, waits, ne_eq, not_true_eq_false, Bool.not_true, Bool.false_eq_true, or_self, if_false]

end commands

/-- A work with no step left ends. -/
theorem runFrom_of_done (done : total m w ≤ w.step) : runFrom x num step total m = m.on (fun c => endWork c x num) := by
  simp only [runFrom, there, done, if_true]

variable (due : w.step < total m w) {m2 : M}
  (made : underTag w.tag (fun m => applyStep m (step m w) x num (fun c => stepDone c x num)) m = m2)
include due made

/-- After its last step a work ends. -/
theorem runFrom_of_last {v : Work} (there2 : work? m2.core x num = some v) (runs2 : active v = true) (last : total m2 v ≤ v.step) :
    runFrom x num step total m = m2.on (fun c => endWork c x num) := by
  simp only [runFrom, there, Nat.not_le.mpr due, if_false, made, there2, runs2, last, and_self, if_true]

/-- A work that its step has left waiting, stopped or with steps to do is left so. -/
theorem runFrom_of_more (more : ∀ v, work? m2.core x num = some v → ¬(active v = true ∧ total m2 v ≤ v.step)) :
    runFrom x num step total m = m2 := by
  simp only [runFrom, there, Nat.not_le.mpr due, if_false, made]
  cases there2 : work? m2.core x num with
  | none => rfl
  | some v => simp only [more v there2, if_false]

end driver

/-- A work of few needs as it starts. -/
def startedPlain (c : Core) (w : Work) : Work :=
  { w with started := true, nItems := 0, statusAddr := none, readsAt := (ctxX c w.ctx).reads }

theorem work?_plainStart {c : Core} {x num : Nat} {w : Work} (there : work? c x num = some w) (key : w.ctx = x ∧ w.num = num) :
    work? (plainStart c w) x num = some (startedPlain c w) := by
  obtain ⟨rfl, rfl⟩ := key
  rw [plainStart, startWork, work?_modWork, there, Option.map_some]
  rfl

section tagged
variable {m : M} {w : Work} {x num : Nat} {step : M → Work → M × Res Unit} {m' : M}

theorem underTag_eq : underTag w.tag (fun m => applyStep m (step m w) x num (fun c => stepDone c x num)) m =
    offWork m (applyStep (asWork m w) (step (asWork m w) w) x num (fun c => stepDone c x num)) := rfl

/-- A step that is made. -/
theorem underTag_of_made {u : Unit} (made : step (asWork m w) w = (m', .ok u)) :
    underTag w.tag (fun m => applyStep m (step m w) x num (fun c => stepDone c x num)) m =
      offWork m (m'.on (fun c => stepDone c x num)) := by
  rw [underTag_eq, made]; rfl

/-- A step that waits, and is made again from its beginning. -/
theorem underTag_of_parked {k : ParkCause} (waits : step (asWork m w) w = (m', .park k)) (part : wholePark k = false) :
    underTag w.tag (fun m => applyStep m (step m w) x num (fun c => stepDone c x num)) m =
      offWork m (m'.on (fun c => parkWork (uncounted (asWork m w).core c x num) x num k)) := by
  rw [underTag_eq, waits]
  simp only [applyStep, part, Bool.false_eq_true, if_false]

end tagged

/-! ### Works that park for a count -/

theorem work?_uncounted {c0 c : Core} {x num : Nat} {w w0 : Work} (before : work? c0 x num = some w0) (there : work? c x num = some w) :
    work? (uncounted c0 c x num) x num =
      some { w with count := w0.count, sat := w0.sat, nonfin := w0.nonfin, items := w0.items, rows := w0.rows } := by
  simp only [uncounted, before]
  exact (work?_modWork _ _ _ _).trans (congrArg (Option.map _) there)

theorem giveEngine_flight (c : Core) (w : Work) : (giveEngine c w).work.flight = c.work.flight := by
  rw [giveEngine]; split <;> rfl

theorem work?_giveEngine (c : Core) (w : Work) (x num : Nat) : work? (giveEngine c w) x num = work? c x num := by
  rw [work?, giveEngine_flight, work?]

/-- A wait for a count parks the work, without a count of parks. -/
theorem work?_parkWork_sync {c : Core} {x num : Nat} {w : Work} (there : work? c x num = some w) (o n : Nat) :
    ∃ v, work? (parkWork c x num (.sync o n)) x num = some v ∧ v.phase = .parked (.sync o n) := by
  simp only [parkWork, there, isRemote, noPark, notePark, claimLine, Bool.false_eq_true, if_false, if_true, work?_modWork,
    work?_giveEngine, Option.map_some]
  exact ⟨_, rfl, rfl⟩

/-! ### NOP and WAIT (R256, R423) -/

section plain
variable {m : M} {x num : Nat} {w : Work} (there : work? m.core x num = some w) (key : w.ctx = x ∧ w.num = num)
  (ready : w.phase = .ready) (unstarted : w.started = false) (first : w.step = 0)
include there key ready unstarted

omit there key unstarted in
theorem active_of_ready (late : 0x3E ≤ w.opcode) : active w = true := by
  rw [active, ready, decide_eq_true late]; rfl

theorem nopWork_of_ready (code : w.opcode = 0x3F) : nopWork x num m = m.on (fun c => endWork (plainStart c w) x num) := by
  have runs := active_of_ready ready (show 0x3E ≤ w.opcode by omega)
  have there' := work?_plainStart there key
  rw [nopWork, runWork_of_start there code runs unstarted rfl]
  exact runFrom_of_done (m := m.on (fun c => plainStart c w)) there' (Nat.zero_le _)

variable (code : w.opcode = 0x3E) (zeros : w.zero 2 8 = true ∧ w.zero 16 32 = true) {o : SyncObj}
  (object : sync? m.core (w.field 0 2) = some o) (mine : o.partition = ctxPart m.core x) (thawed : o.frozen = false)
  (clean : o.poisoned = false)
include code zeros object mine thawed clean

omit there ready unstarted code in
theorem waitCheck_of_mine : waitCheck m w = (m, .ok ()) := by
  obtain ⟨low, high⟩ := zeros
  have owned : syncOf m.core (w.field 0 2) (ctxPart m.core w.ctx) = true := by
    simp only [syncOf, object, mine, key.1, beq_self_eq_true]
  simp only [waitCheck, low, high, owned, syncFrozen_of_there object thawed, syncPoisoned_of_there object clean, Bool.and_self,
    Bool.not_true, Bool.false_eq_true, if_false]

include first

/-- A WAIT for a count that is reached makes its one step and ends. -/
theorem waitWork_of_reached (reached : w.field 8 8 ≤ o.count) :
    waitWork x num m = m.on (fun c => endWork (stepDone (plainStart c w) x num) x num) := by
  have runs := active_of_ready ready (show 0x3E ≤ w.opcode by omega)
  have there' := work?_plainStart there key
  have step_ : waitStep (asWork (m.on (fun c => plainStart c w)) (startedPlain m.core w)) (startedPlain m.core w) =
      (asWork (m.on (fun c => plainStart c w)) (startedPlain m.core w), .ok ()) := by
    have object' : sync? (asWork (m.on (fun c => plainStart c w)) (startedPlain m.core w)).core ((startedPlain m.core w).field 0 2) =
      some o := object
    have reached' : (startedPlain m.core w).field 8 8 ≤ o.count := reached
    simp only [waitStep, object', thawed, clean, Bool.false_eq_true, if_false, reached', if_true]
  have there2 : work? (offWork (m.on (fun c => plainStart c w)) ((asWork (m.on (fun c => plainStart c w)) (startedPlain m.core w)).on
      (fun c => stepDone c x num))).core x num = some { startedPlain m.core w with step := w.step + 1, fetched := [] } :=
    (work?_modWork _ _ _ _).trans (congrArg (Option.map _) there')
  rw [waitWork, runWork_of_start there code runs unstarted (waitCheck_of_mine key zeros object mine thawed clean),
    runFrom_of_last (m := m.on (fun c => plainStart c w)) there' (by simp only [startedPlain, first]; decide)
      (underTag_of_made step_) there2 runs (by show 1 ≤ w.step + 1; omega)]
  rfl

/-- A WAIT for a count that is not reached joins the object's waiters and waits, holding no thread and no engine. -/
theorem waitWork_of_below {m1 : M} {c2 : Core} (below : o.count < w.field 8 8) (room : waitEntries m.core (w.field 0 2 % 4) < 65536)
    (tagged : m1 = asWork (m.on (fun c => plainStart c w)) w)
    (joined : c2 = setSync m1.core (w.field 0 2) { o with waiters := o.waiters ++ [⟨.work x num, w.field 8 8, true⟩] }) :
    waitWork x num m = offWork m (m1.on (fun c => parkWork (uncounted c c2 x num) x num (.sync (w.field 0 2) (w.field 8 8)))) := by
  have runs := active_of_ready ready (show 0x3E ≤ w.opcode by omega)
  have there' := work?_plainStart there key
  have there1 : work? m1.core x num = some (startedPlain m.core w) := by rw [tagged]; exact there'
  have step_ : waitStep (asWork (m.on (fun c => plainStart c w)) (startedPlain m.core w)) (startedPlain m.core w) =
      ({ m1 with core := c2 }, .park (.sync (w.field 0 2) (w.field 8 8))) := by
    obtain ⟨own, number⟩ := key
    have same : asWork (m.on (fun c => plainStart c w)) (startedPlain m.core w) = m1 := by rw [tagged]; rfl
    have object' : sync? m1.core ((startedPlain m.core w).field 0 2) = some o := by rw [tagged]; exact object
    have below' : o.count < (startedPlain m.core w).field 8 8 := below
    have room' : waitEntries m1.core ((startedPlain m.core w).field 0 2 % 4) < 65536 := by rw [tagged]; exact room
    rw [same]
    simp only [waitStep, object', thawed, clean, Bool.false_eq_true, if_false, Nat.not_le.mpr below',
      syncWait_of_waiting object' below' room']
    rw [joined, ← own, ← number, thawed, clean]
    rfl
  have there2 : work? c2 x num = some (startedPlain m.core w) := by
    rw [joined, work?, setSync, EventsKeep.wroteCtrl (part := Core.work) (fun _ _ _ _ _ _ => rfl)]
    exact there1
  obtain ⟨v, parked, waits⟩ := work?_parkWork_sync (work?_uncounted there1 there2) (w.field 0 2) (w.field 8 8)
  have idle : active v = false := by rw [active, waits]; exact Bool.and_false _
  have made := underTag_of_parked (x := x) (num := num) step_ rfl
  rw [waitWork, runWork_of_start there code runs unstarted (waitCheck_of_mine key zeros object mine thawed clean),
    runFrom_of_more (m := m.on (fun c => plainStart c w)) there' (by simp only [startedPlain, first]; decide) made ?parks]
  case parks =>
    intro u there_
    have same : asWork (m.on (fun c => plainStart c w)) (startedPlain m.core w) = m1 := by rw [tagged]; rfl
    rw [same] at there_
    rw [Option.some.inj (there_.symm.trans parked), idle]
    exact fun ends => Bool.noConfusion ends.1
  rw [tagged]
  rfl

end plain

end Sys2Proof.Machine

/-! Completion records and their acknowledgement (R28, R29, R240, R250, R251), the increments of a work that leaves flight (R238), how a
plain work ends, and the statement on them. -/

namespace Sys2Proof.Machine
open Sys2Proof

/-! ### The end of a plain work (R28) -/

theorem amMap_of_fixed {α : Type} {l : AMap α} {f : Nat → α → α} (fixed : ∀ e ∈ l, f e.1 e.2 = e.2) : amMap l f = l :=
  (List.map_congr_left (g := id) fun e inside => by rw [fixed e inside, id]).trans (List.map_id l)

/-- A work that no table's recast is leaves the plans alone. -/
theorem endRecast_of_other {c : Core} {w : Work} (other : ∀ t ∈ c.work.tables, t.2.recast ≠ some (w.ctx, w.num)) : endRecast c w = c := by
  rw [endRecast, amMap_of_fixed fun t inside => by rw [if_neg (other t inside)]]

/-- A NOP or WAIT that ends makes no last writes. -/
theorem endWork_of_plain {c c1 c2 : Core} {x num : Nat} {w : Work} (there : work? c x num = some w) (key : w.ctx = x ∧ w.num = num)
    (plain : w.opcode = 0x3E ∨ w.opcode = 0x3F) (ready : w.phase = .ready) (engineless : w.engine = none) (unqueued : w.queued = 0)
    (items : w.statusAddr = none) (record : w.recordAddr = none) (recasts : ∀ t ∈ c.work.tables, t.2.recast ≠ some (x, num))
    (ended : c1 = modWork (unwait c (.work x num)) x num (fun w => { w with phase := .ended, engine := none }))
    (closed : c2 = { c1 with rasp := { c1.rasp with windows := amDel c1.rasp.windows (wkey x num) } }) :
    endWork c x num = dropTag c2 w.tag := by
  have route : w.opcode ≠ 0x10 := by omega
  have recast : w.opcode ≠ 0x21 := by omega
  have other : endRecast (unwait c (.work x num)) w = unwait c (.work x num) :=
    endRecast_of_other (by obtain ⟨rfl, rfl⟩ := key; exact recasts)
  have there2 : work? c2 x num = some { w with phase := .ended, engine := none } := by
    rw [closed, ended]
    exact (work?_modWork _ _ _ _).trans (congrArg (Option.map _) there)
  simp only [endWork, there, ready, giveEngine, engineless, route, decide_false, Bool.false_and, Bool.false_eq_true, if_false, other,
    ← ended, ← closed, there2, unqueued, if_true, finalWrites, items, record, recast, ite_self]

/-! ### A work leaves flight (R238) -/

theorem syncSend_syncSend (c : Core) (a b p q : Nat) : syncSend (syncSend c a p) b q =
    { c with sync := { c.sync with sent := c.sync.sent ++ ([(a, p)] ++ [(b, q)]) } } := by
  simp only [syncSend, List.append_assoc]

/-- The increments of a work that leaves flight, sent together. -/
theorem sends_eq (c : Core) (a b p : Nat) (s t : Bool) :
    (if t then syncSend (if s then syncSend c a p else c) b p else if s then syncSend c a p else c) = { c with
      sync := { c.sync with sent := c.sync.sent ++ ((if s then [(a, p)] else []) ++ (if t then [(b, p)] else [])) } } := by
  cases s <;> cases t
  · simp only [Bool.false_eq_true, if_false, List.append_nil]
  · simp only [Bool.false_eq_true, if_false, if_true, List.nil_append, syncSend]
  · simp only [Bool.false_eq_true, if_false, if_true, List.append_nil, syncSend]
  · simp only [if_true, syncSend_syncSend]

theorem flushCheck_of_unasked {c : Core} {x : Nat} (unasked : (ctxX c x).flushPending = false) : flushCheck c x = c := by
  simp only [flushCheck, unasked, Bool.false_and, Bool.false_eq_true, if_false]

theorem revokeCheck_of_active {c : Core} {x : Nat} (active : ctxState c x = 1) : revokeCheck c x = c := by
  simp [revokeCheck, active, stRevoking]

/-- A work of an ACTIVE context that no flush waits for sends its increments as it leaves. -/
theorem leaveFlight_of_active {c c1 : Core} {x num : Nat} {w : Work} (there : work? c x num = some w) (active : ctxState c x = 1)
    (unasked : (ctxX c x).flushPending = false) (sound : w.noSync = false) (left : c1 = (delWork c x num).count (CTX_COMPLETED x)) :
    leaveFlight c x num = { c1 with sync := { c1.sync with sent := c1.sync.sent ++
      ((if bitOf w.syncEn 0 then [(w.sync0, ctxPart c x)] else []) ++ (if bitOf w.syncEn 1 then [(w.sync1, ctxPart c x)] else [])) } } := by
  have cfg : c1.rget (CTX_CFG0 x) = c.rget (CTX_CFG0 x) := by rw [left, Core.rget_count_ne _ _ (ctxReg_ne (by decide))]; rfl
  have part : ctxPart c1 x = ctxPart c x := Core.fld_congr cfg _
  have active' : ctxState c1 x = 1 := (Core.fld_congr cfg _).trans active
  have unasked' : (ctxX c1 x).flushPending = false := by rw [left]; exact unasked
  simp only [leaveFlight, there, ← left, sound, Bool.not_false, Bool.true_and, part, sends_eq]
  exact (congrArg (revokeCheck · x) (flushCheck_of_unasked (by exact unasked'))).trans (revokeCheck_of_active (by exact active'))

/-! ### Completion records (R28, R250, R251) -/

/-- The block with the completion counted: the tail moves, and a late one is counted (R71). -/
def recordCounted (c : Core) (x tail : Nat) (late : Bool) : Core :=
  if late then ((c.rset (CTX_CQ_TAIL x) (w64 tail)).count (CTX_LATE x)).count TCK_LATE else c.rset (CTX_CQ_TAIL x) (w64 tail)

theorem rget_recordCounted {a x : Nat} (tail_ : a ≠ CTX_CQ_TAIL x) (late_ : a ≠ CTX_LATE x) (all : a ≠ TCK_LATE) (c : Core) (tail : Nat)
    (late : Bool) : (recordCounted c x tail late).rget a = c.rget a := by
  rw [recordCounted]
  split
  · rw [Core.rget_count_ne _ _ all, Core.rget_count_ne _ _ late_, Core.rget_rset_ne _ _ tail_]
  · rw [Core.rget_rset_ne _ _ tail_]

theorem ctxPart_lt (c : Core) (x : Nat) : ctxPart c x < 16 := Nat.mod_lt _ (by decide)

theorem removingWork_recordCounted (c : Core) (x tail : Nat) (late : Bool) (w : Work) :
    removingWork (recordCounted c x tail late) w = removingWork c w := by
  have part : ctxPart (recordCounted c x tail late) w.ctx = ctxPart c w.ctx := by
    refine Core.fld_congr (rget_recordCounted ?_ ?_ ?_ _ _ _) _
    · unfold CTX_CFG0 CTX_CQ_TAIL; omega
    · unfold CTX_CFG0 CTX_LATE; omega
    · unfold CTX_CFG0 TCK_LATE; omega
  have low := ctxPart_lt c w.ctx
  rw [removingWork, part, removingWork, Core.fld_congr (rget_recordCounted ?_ ?_ ?_ _ _ _)]
  · unfold SEC_PART CTX_CQ_TAIL; omega
  · unfold SEC_PART CTX_LATE; omega
  · unfold SEC_PART TCK_LATE; omega

/-- The registers of a context that a record is written by are not those that count it. -/
theorem rget_recordCounted_of_page {n x : Nat} (low : 0x400000 ≤ n) (tail_ : n ≠ 0x400078) (late_ : n ≠ 0x400098) (c : Core) (tail : Nat)
    (late : Bool) : (recordCounted c x tail late).rget (n + 0x100 * x) = c.rget (n + 0x100 * x) :=
  rget_recordCounted (ctxReg_ne tail_) (ctxReg_ne late_) (by unfold TCK_LATE; omega) _ _ _

theorem recordBytes_length (w : Work) (t log2 tick : Nat) : (recordBytes w t log2 tick).length = 32 := by
  simp only [recordBytes, List.length_append, natLe_length]

section record
variable {c : Core} {x num : Nat} {w : Work} (there : work? c x num = some w) (ended : w.phase = .ended) (acked : w.unacked = 0)
  (unqueued : w.queued = 0) (owesNot : w.owes = false) (made : writesMade c w.tag = true) (known : notMissed c w = true)
include there ended acked unqueued owesNot made known

theorem writeRecord_of_suppressed (quiet : suppressed w = true) : writeRecord x num c = leaveFlight c x num := by
  simp only [writeRecord, there, mayRecord, ended, acked, unqueued, owesNot, made, known, beq_self_eq_true, Bool.and_self, Bool.not_false,
    Bool.not_true, Bool.false_eq_true, if_false, if_true, quiet]

variable (loud : suppressed w = false)
include loud

/-- A full completion ring holds the record back. -/
theorem writeRecord_of_full (full : 2 ^ cqLog2 c x ≤ sub32 (regN c (CTX_CQ_TAIL x)) (regN c (CTX_CQ_HEAD x))) : writeRecord x num c =
    (modWork c x num (fun w => { w with recordHeld := true })).setFld (CTX_STATUS x) CTX_STATUS_CQ_FULL 1 := by
  simp only [writeRecord, there, mayRecord, ended, acked, unqueued, owesNot, made, known, beq_self_eq_true, Bool.and_self, Bool.not_false,
    Bool.not_true, Bool.false_eq_true, if_false, if_true, loud, full]

/-- The record goes out, to the entry of the completion ring at its tail. -/
theorem writeRecord_of_room {t : Nat} {d : Core} {a : W64} (tail : t = regN c (CTX_CQ_TAIL x))
    (room : sub32 t (regN c (CTX_CQ_HEAD x)) < 2 ^ cqLog2 c x) (stays : removingWork c w = false)
    (counted_ : d = recordCounted c x ((t + 1) % 2 ^ 32) w.late)
    (addr : a = d.rget (CTX_CQ x) + w64 (t % 2 ^ cqLog2 c x * 32)) :
    writeRecord x num c = agentWrite (modWork d x num (fun w => { w with phase := .recorded })) x num a
      (recordBytes w t (cqLog2 c x) c.tick) true := by
  have stays' : removingWork d w = false := by rw [counted_, removingWork_recordCounted]; exact stays
  have log : cqLog2 d x = cqLog2 c x := by
    rw [counted_]; exact Core.fld_congr (rget_recordCounted_of_page (by decide) (by decide) (by decide) _ _ _) _
  subst tail
  have same : (if w.late = true then ((setN c (CTX_CQ_TAIL x) ((regN c (CTX_CQ_TAIL x) + 1) % 2 ^ 32)).count (CTX_LATE x)).count TCK_LATE
      else setN c (CTX_CQ_TAIL x) ((regN c (CTX_CQ_TAIL x) + 1) % 2 ^ 32)) = d := by rw [counted_]; rfl
  simp only [writeRecord, there, mayRecord, ended, acked, unqueued, owesNot, made, known, beq_self_eq_true, Bool.and_self, Bool.not_false,
    Bool.not_true, Bool.false_eq_true, if_false, if_true, loud, Nat.not_le.mpr room, same, stays', addr, log, w64]

end record

/-! ### Acknowledgements (R29, R491) -/

theorem recordAcked_of_recorded {c : Core} {x num : Nat} {w : Work} (there : work? c x num = some w) (recorded : w.phase = .recorded)
    (acked : c.net.ackedRecords.contains (x, num) = true) : recordAcked x num c =
      leaveFlight { c with net := { c.net with ackedRecords := c.net.ackedRecords.filter (· != (x, num)) } } x num := by
  simp only [recordAcked, there, recorded, acked, decide_true, Bool.and_self, if_true]

theorem writeAcked_of_found {c d : Core} {x num i : Nat} {r : Bool}
    (found : c.net.ackedWrites.findIdx? (fun w => w.1 == x && w.2.1 == num) = some i) (entry : c.net.ackedWrites[i]? = some (x, num, r))
    (taken : d = { c with net := { c.net with ackedWrites := dropAt c.net.ackedWrites i } }) : writeAcked x num c =
      if r then { d with net := { d.net with ackedRecords := d.net.ackedRecords ++ [(x, num)] } }
      else modWork d x num (fun w => { w with unacked := w.unacked - 1 }) := by
  simp only [writeAcked, found, entry, Option.map_some, Option.getD_some]
  rw [taken]

/-- Settles O39: an ended work's record is left out, held back or written by SUPPRESS and the completion ring; acknowledged, the work
leaves flight with its increments; and NOP, WAIT and RASP_PROGRAM do what they say. -/
theorem completionsAndWaits : Obligations.CompletionsAndWaits := by
  unfold Obligations.CompletionsAndWaits
  refine ⟨?record, ?acked, ?leaves, ?written, ?plain, ?program, ?ends⟩
  case record =>
    rintro s x num t w serves there ended acked unqueued owesNot made known tail
    refine ⟨fun quiet => ?_, fun loud full => ?_, fun c0 c a m loud room stays moved recorded addr message => ?_⟩
    · exact does_of_servedCore rfl serves (writeRecord_of_suppressed there ended acked unqueued owesNot made known quiet)
    · exact does_of_servedCore rfl serves (writeRecord_of_full there ended acked unqueued owesNot made known loud (tail ▸ full))
    · obtain ⟨d, counted_⟩ : ∃ d, d = recordCounted s.core x ((t + 1) % 2 ^ 32) w.late := ⟨_, rfl⟩
      have ring : d.rget (CTX_CQ x) = s.core.rget (CTX_CQ x) := by
        rw [counted_]; exact rget_recordCounted_of_page (by decide) (by decide) (by decide) _ _ _
      have addr' : a = d.rget (CTX_CQ x) + w64 (t % 2 ^ cqLog2 s.core x * 32) := by rw [ring]; exact addr
      refine does_of_servedCore rfl serves ?_
      rw [writeRecord_of_room there ended acked unqueued owesNot made known loud tail room stays counted_ addr']
      have owner : ctxOwner d x = ctxOwner s.core x := by
        rw [counted_]
        exact Core.fld_congr (rget_recordCounted_of_page (by decide) (by decide) (by decide) _ _ _) _
      have key (i : Nat) (small : i < 4) : d.rget (CTX_WIN_KEY x i) = s.core.rget (CTX_WIN_KEY x i) := by
        rw [counted_]
        refine rget_recordCounted ?_ ?_ ?_ _ _ _
        · unfold CTX_WIN_KEY CTX_CQ_TAIL; omega
        · unfold CTX_WIN_KEY CTX_LATE; omega
        · unfold CTX_WIN_KEY TCK_LATE; omega
      have base (i : Nat) (small : i < 4) : d.rget (CTX_WIN_BASE x i) = s.core.rget (CTX_WIN_BASE x i) := by
        rw [counted_]
        refine rget_recordCounted ?_ ?_ ?_ _ _ _
        · unfold CTX_WIN_BASE CTX_CQ_TAIL; omega
        · unfold CTX_WIN_BASE CTX_LATE; omega
        · unfold CTX_WIN_BASE TCK_LATE; omega
      have small : bitsOf a.toNat 63 62 < 4 := Nat.mod_lt _ (by decide)
      have some_ : recordBytes w t (cqLog2 s.core x) s.core.tick ≠ [] := by
        intro none_
        have := recordBytes_length w t (cqLog2 s.core x) s.core.tick
        rw [none_] at this
        exact absurd this (by decide)
      have same : c = modWork d x num (fun w => { w with phase := .recorded }) := by rw [recorded, moved, counted_]; rfl
      rw [agentWrite, if_neg some_, ← same]
      dsimp only
      rw [if_pos rfl, recordBytes_length, message, regN, regN, ← key _ small, ← base _ small, ← owner, same]
      rfl
  case acked =>
    rintro s x num w serves there recorded acked c rfl
    exact does_of_servedCore rfl serves (recordAcked_of_recorded there recorded acked)
  case leaves =>
    rintro c c1 x num w there active unasked sound left
    exact leaveFlight_of_active there active unasked sound left
  case written =>
    rintro s x num i r c serves found entry taken
    have meaning := writeAcked_of_found found entry taken
    constructor
    · rintro rfl
      exact does_of_servedCore rfl serves meaning
    · rintro rfl
      exact does_of_servedCore rfl serves meaning
  case plain =>
    rintro s x num w serves there own number ready unstarted first
    have key := And.intro own number
    refine ⟨fun code => ?_, fun o code low high object mine thawed clean => ⟨fun reached => ?_, fun m1 c2 below room tagged joined => ?_⟩⟩
    · exact does_of_served rfl serves (nopWork_of_ready (m := s.m) there key ready unstarted code)
    · exact does_of_served rfl serves
        (waitWork_of_reached (m := s.m) there key ready unstarted first code ⟨low, high⟩ object mine thawed clean reached)
    · exact does_of_served rfl serves
        (waitWork_of_below (m := s.m) there key ready unstarted first code ⟨low, high⟩ object mine thawed clean below room tagged joined)
  case program =>
    rintro s x num w serves there code runs bound
    refine does_of_servedCore rfl serves ?_
    simp only [raspWork, there, code, if_true, startProgram, runs, decide_true, bound, Bool.and_self]
  case ends =>
    rintro c c1 c2 x num w there own number plain ready engineless unqueued items record recasts ended closed
    exact endWork_of_plain there ⟨own, number⟩ plain ready engineless unqueued items record recasts ended closed

end Sys2Proof.Machine

/-! What keeps a running work at the step it makes, and the command of a built-in work whose step is made. -/

namespace Sys2Proof.Machine
open Sys2Proof

/-! ### A work that runs on -/

section runs
variable {c : Core} {w : Work}

theorem StillRuns.congr {d : Core} (same : d.work.flight = c.work.flight) (still : StillRuns c w) : StillRuns d w := by
  obtain ⟨v, there, rest⟩ := still
  exact ⟨v, by rw [work?, same]; exact there, rest⟩

/-- A change of a work that leaves its step, its descriptor and its phase alone. -/
def KeepsStep (f : Work → Work) : Prop := ∀ v, (f v).step = v.step ∧ (f v).desc = v.desc ∧ (f v).phase = v.phase

theorem StillRuns.modWork {f : Work → Work} (keeps : KeepsStep f) (x num : Nat) (still : StillRuns c w) :
    StillRuns (Machine.modWork c x num f) w := by
  obtain ⟨v, there, step_, desc, runs⟩ := still
  have found : work? (Machine.modWork c x num f) w.ctx w.num = if wkey w.ctx w.num = wkey x num then some (f v) else some v := by
    rw [work?, Machine.modWork, amGet?_amMod]
    split
    · next same => rw [← same, show amGet? c.work.flight (wkey w.ctx w.num) = some v from there, Option.map_some]
    · exact there
  obtain ⟨step', desc', phase'⟩ := keeps v
  by_cases same : wkey w.ctx w.num = wkey x num
  · exact ⟨f v, by rw [found, if_pos same], step'.trans step_, desc'.trans desc, phase'.trans runs⟩
  · exact ⟨v, by rw [found, if_neg same], step_, desc, runs⟩

theorem StillRuns.setItem (x num i code : Nat) (still : StillRuns c w) : StillRuns (Machine.setItem c x num i code) w := by
  refine StillRuns.modWork (fun _ => ?_) x num still
  exact ⟨rfl, rfl, rfl⟩

theorem StillRuns.counted (v : Work) (n : Nat) (still : StillRuns c w) : StillRuns (Machine.counted c v n) w := by
  refine StillRuns.modWork (fun _ => ?_) _ _ still
  exact ⟨rfl, rfl, rfl⟩

theorem keepsStep_overrideStatus (st : Status) : KeepsStep (overrideStatus st) := fun v => by
  rw [overrideStatus]; split <;> exact ⟨rfl, rfl, rfl⟩

theorem StillRuns.noteFail (x num : Nat) (st : Status) (d : W64) (still : StillRuns c w) : StillRuns (Machine.noteFail c x num st d) w := by
  refine still.modWork (fun v => ?_) x num
  split
  · split
    · exact keepsStep_overrideStatus st v
    · exact ⟨rfl, rfl, rfl⟩
  · exact ⟨rfl, rfl, rfl⟩

@[simp] theorem ctxCount_work (c : Core) (x a n : Nat) : (ctxCount c x a n).work = c.work := by
  unfold ctxCount
  split
  · rfl
  · dsimp only
    split
    · rw [raise_work, Core.rset_work]
    · rw [Core.rset_work]

theorem StillRuns.addFlags (x num : Nat) (f : Flags) (still : StillRuns c w) : StillRuns (Machine.addFlags c x num f) w := by
  refine StillRuns.modWork (fun _ => ?_) x num (still.congr (by rw [ctxCount_work, ctxCount_work]))
  exact ⟨rfl, rfl, rfl⟩

theorem StillRuns.agentWrite (x num : Nat) (a : W64) (b : List Byte) (isRec : Bool) (still : StillRuns c w) :
    StillRuns (Machine.agentWrite c x num a b isRec) w := by
  unfold Machine.agentWrite
  split
  · exact still
  · dsimp only
    split
    · exact still.congr rfl
    · refine StillRuns.modWork (fun _ => ?_) x num (still.congr rfl)
      exact ⟨rfl, rfl, rfl⟩

theorem StillRuns.foldl {β : Type} {f : Core → β → Core} (keeps : ∀ c e, StillRuns c w → StillRuns (f c e) w) (l : List β)
    (still : StillRuns c w) : StillRuns (l.foldl f c) w := by
  induction l generalizing c with
  | nil => exact still
  | cons e t ih => exact ih (keeps c e still)

end runs

/-! ### A step that is made -/

/-- The command of a built-in work whose next step is made. -/
theorem does_of_made {op x num total : Nat} {i : Instr} {check step : M → Work → M × Res Unit} {start : Core → Work → Core}
    {tot : M → Work → Nat} {s : State} {w : Work} {m : M} (due : Stepping op s x num w)
    (meaning : exec i s = runServed (boundOr op x num (runWork op x num check start step tot)) s) (more : w.step < tot s.m w)
    (made : step (asWork s.m w) w = (m, .ok ())) (still : StillRuns m.core w)
    (all : ∀ v : Work, v.desc = w.desc → v.step = w.step + 1 → tot (offWork s.m (m.on (fun c => stepDone c x num))) v = total) :
    does i s (afterStep s.m m w total) := by
  obtain ⟨own, number⟩ := due.key
  obtain ⟨v, there, step_, desc, runs⟩ := still
  refine does_of_served meaning due.serves ?_
  rw [boundOr_builtin (m := s.m) due.there due.builtin]
  exact runWork_made due more made (own ▸ number ▸ there) runs step_ (all _ desc (by rw [step_]))

/-- The same of a step that counts up to position `k`, from the work that it leaves. -/
theorem does_of_made_by {op x num total k : Nat} {i : Instr} {check step : M → Work → M × Res Unit} {start : Core → Work → Core}
    {tot : M → Work → Nat} {s : State} {w v : Work} {m : M} (due : Stepping op s x num w)
    (meaning : exec i s = runServed (boundOr op x num (runWork op x num check start step tot)) s) (more : w.step < tot s.m w)
    (made : step (asWork s.m w) w = (m, .ok ())) (there : work? m.core x num = some v) (runs : v.phase = .running) (position : v.step = k)
    (all : tot (offWork s.m (m.on (fun c => stepDone c x num))) { v with step := v.step + 1, fetched := [] } = total) :
    does i s (afterStep s.m m { w with step := k } total) := by
  refine does_of_served meaning due.serves ?_
  rw [boundOr_builtin (m := s.m) due.there due.builtin]
  exact runWork_made_by due more made there runs position all

/-- A field of a descriptor is the descriptor's alone. -/
theorem field_congr {v w : Work} (same : v.desc = w.desc) (off n : Nat) : v.field off n = w.field off n := by
  rw [Work.field, same, Work.field]

theorem listSteps_congr {v w : Work} (same : v.desc = w.desc) (n : Nat) : listSteps v n = listSteps w n := by
  rw [listSteps, field_congr same, field_congr same, listSteps]

theorem listSteps_of_some (w : Work) {n : Nat} (some_ : n ≠ 0) : listSteps w n = n := by
  simp [listSteps, some_]

theorem forEach_nil {α σ : Type} (f : M → σ → α → M × Res σ) (m : M) (out : σ) : forEach f m out [] = (m, .ok out) := rfl

theorem forEach_cons {α σ : Type} {f : M → σ → α → M × Res σ} {m m' : M} {out out' : σ} {a : α} (made : f m out a = (m', .ok out'))
    (l : List α) : forEach f m out (a :: l) = forEach f m' out' l := by
  rw [forEach, made]

theorem andThen_ok {α β : Type} (m : M) (a : α) (f : M → α → M × Res β) : andThen (m, .ok a) f = f m a := rfl

end Sys2Proof.Machine

/-! GATHER and GATHER_REDUCE (R268, R271 to R278): what their steps return, and the statement on them. -/

namespace Sys2Proof.Machine
open Sys2Proof

/-! ### Positions of a GATHER (R274, R278) -/

/-- What a GATHER puts for a position that names row `r`. -/
def gatherFound (c : Core) (t : Table) (o : FmtWord) (cb : List FVal) (rows : List (Nat × RowImg)) (r : Nat) : GRes :=
  match findRow rows r with
  | none => .null
  | some img =>
    if imgPoisoned img then .poison (firstPoison c t r img) (elemPoison (tblFmt t).fmt img)
    else .vals (imgValues (tblFmt t).fmt cb img) (if sameBits o (tblFmt t) then some img else none)

/-- A position of a GATHER made: its result written, its item coded and counted. -/
def gatherAt (w : Work) (t : Table) (o : FmtWord) (cb : List FVal) (rows : List (Nat × RowImg)) (lo : Nat) (m : M) (out : List Byte)
    (p : Nat × Nat) : M × Res (List Byte) :=
  andThen (gatherPut m w t o (lo + p.2) (gatherFound m.core t o cb rows p.1)) (fun m x => match x with
    | (code, b) => (m.on (fun c => countOne c w code), .ok (out ++ b)))

section gather
variable {w : Work} {t : Table} {o : FmtWord} {cb : List FVal} {rows : List (Nat × RowImg)} {lo : Nat}
  (agent : bitOf (w.field 2 2) 4 = false)
include agent

/-- A position in the table's own format gives the row's bits, or zeros for null and poison. -/
theorem gatherAt_of_same (same : sameBits o (tblFmt t) = true) (m : M) (out : List Byte) (p : Nat × Nat) :
    gatherAt w t o cb rows lo m out p =
      (m.on (fun c => gatherOne w t rows lo cb c p), .ok (out ++ gatherBytes t o rows p.1)) := by
  rw [gatherAt, gatherFound]
  unfold gatherOne gatherBytes
  cases found : findRow rows p.1 with
  | none =>
    simp only [gatherPut, agent, Bool.false_eq_true, if_false, andThen_ok, countOne, show ¬3 = 1 by decide]
    rfl
  | some img =>
    cases poison : imgPoisoned img
    · simp only [poison, gatherPut, agent, same, Bool.false_eq_true, if_false, if_true, andThen_ok, countOne, M.on]
      rfl
    · simp only [poison, gatherPut, agent, Bool.false_eq_true, if_false, if_true, andThen_ok, countOne, M.on, show ¬2 = 1 by decide]

/-- A position in another format is encoded. -/
theorem gatherAt_of_other (other : sameBits o (tblFmt t) = false) {m : M} {out : List Byte} {p : Nat × Nat} {img : RowImg}
    (found : findRow rows p.1 = some img) (clean : imgPoisoned img = false) {c : Core} {bits : List Nat} {fl : Flags}
    (encoded : encodeScalars (setItem m.core w.ctx w.num (lo + p.2) 1) o (imgValues (tblFmt t).fmt cb img) = (c, bits, fl)) :
    gatherAt w t o cb rows lo m out p =
      (m.on (fun _ => counted (addFlags c w.ctx w.num fl) w 1), .ok (out ++ resultRow o.fmt bits)) := by
  simp only [gatherAt, gatherFound, found, clean, other, Bool.false_eq_true, if_false, gatherPut, agent, M.on, encoded, andThen_ok,
    countOne, if_true]
  rfl

/-- All positions of a step in the table's own format. -/
theorem forEach_gatherAt_of_same (same : sameBits o (tblFmt t) = true) (l : List (Nat × Nat)) (m : M) (out : List Byte) :
    forEach (gatherAt w t o cb rows lo) m out l =
      (m.on (fun c => l.foldl (gatherOne w t rows lo cb) c), .ok (out ++ l.flatMap (fun p => gatherBytes t o rows p.1))) := by
  induction l generalizing m out with
  | nil => rw [List.flatMap_nil, List.append_nil]; rfl
  | cons p l ih =>
    rw [forEach_cons (gatherAt_of_same agent same m out p), ih, List.flatMap_cons, List.append_assoc]
    rfl

omit agent in
theorem StillRuns.gatherOne {c : Core} {v : Work} (still : StillRuns c v) (p : Nat × Nat) :
    StillRuns (Machine.gatherOne w t rows lo cb c p) v := by
  unfold Machine.gatherOne
  split
  · exact still.setItem _ _ _ _
  · split
    · exact (still.setItem _ _ _ _).noteFail _ _ _ _
    · exact ((still.setItem _ _ _ _).addFlags _ _ _).counted _ _

omit agent in
/-- A fold over positions reads their indices alone. -/
theorem flatMap_zipIdx {α β : Type} (l : List α) (f : α → List β) : l.zipIdx.flatMap (fun p => f p.1) = l.flatMap f := by
  rw [← List.flatMap_map (f := Prod.fst) (g := f), List.zipIdx_map_fst]

/-- The step of a GATHER up to its positions. -/
theorem gatherStep_of_read {m0 m1 m2 : M} {tn hi : Nat} {idx : List Nat} {extra : Bool} (table : tn = w.field 0 2)
    (there : table? m0.core tn = some t) (format : fmtWord? (w.field 0x10 4) = some o) (first : lo = 64 * w.step)
    (last : hi = min (lo + 64) (w.field 4 4)) (access : tblAccess m0.core w t false = none)
    (listed : indices m0 w lo hi 0x18 8 = (m1, .ok (idx, extra))) (whole : extra = false ∨ hi < w.field 4 4)
    (inside : ∀ i ∈ idx, i = nullIndex ∨ i < t.rows) (read : readRows m1 w tn t idx = (m2, .ok rows)) :
    gatherStep m0 w = andThen (forEach (gatherAt w t o (tblCb m2.core t) rows lo) m2 [] idx.zipIdx) (fun m out =>
      (m.on (fun c => agentWrite c w.ctx w.num (w.ptr 0x20 + w64 (lo * outStride o.fmt t.rowLen)) out), .ok ())) := by
  subst table first last
  have ends : (extra && decide (min (64 * w.step + 64) (w.field 4 4) = w.field 4 4)) = false := by
    rcases whole with none_ | more
    · rw [none_, Bool.false_and]
    · rw [decide_eq_false (Nat.ne_of_lt more), Bool.and_false]
  have within : idx.any (fun i => i ≠ nullIndex && t.rows ≤ i) = false := by
    rw [List.any_eq_false]
    intro i there_
    rcases inside i there_ with null | below
    · simp [null]
    · simp [Nat.not_le.mpr below]
  have ready : outReady m1 w (64 * w.step) (min (64 * w.step + 64) (w.field 4 4) - 64 * w.step) = (m1, .ok ()) := by
    rw [outReady, agent, if_neg Bool.false_ne_true]
  unfold gatherStep
  simp only [there, format, access, listed, andThen_ok, ends, within, ready, read, Bool.false_eq_true, if_false]
  rfl

end gather

theorem gatherSteps {n step : Nat} (more : 64 * step < n) (w : Work) : step < listSteps w ((n + 63) / 64) := by
  rw [listSteps_of_some w (by omega)]
  omega

/-! ### Bags of a GATHER_REDUCE (R275 to R277) -/

/-- No position of the bag is null. -/
theorem usedOf_of_named {idx : List Nat} (named : ∀ i ∈ idx, i ≠ nullIndex) :
    idx.zipIdx.filter (fun x => x.1 ≠ nullIndex) = idx.zipIdx := by
  refine List.filter_eq_self.mpr fun p inside => ?_
  simpa using named p.1 (List.fst_mem_of_mem_zipIdx inside)

/-- No row of the bag is poisoned. -/
theorem bagPoison_of_clean {idx : List Nat} {rows : List (Nat × RowImg)}
    (clean : ∀ i ∈ idx, ∃ img, findRow rows i = some img ∧ imgPoisoned img = false) :
    (idx.zipIdx.filterMap (fun x => (findRow rows x.1).map (fun img => (x.1, img)))).find? (fun x => imgPoisoned x.2) = none := by
  rw [List.find?_eq_none]
  intro e inside
  obtain ⟨p, there, made⟩ := List.mem_filterMap.mp inside
  obtain ⟨img, found, good⟩ := clean p.1 (List.fst_mem_of_mem_zipIdx there)
  rw [found, Option.map_some, Option.some.injEq] at made
  rw [← made, good]
  exact Bool.false_ne_true

/-- A bag of rows that are all there and clean is reduced to one row. -/
theorem reduceStep_of_clean {w : Work} {t : Table} {o : FmtWord} {m0 m1 m2 m3 : M} {tn first mode d : Nat} {idx : List Nat}
    {c c2 : Core} {rows : List (Nat × RowImg)} {wb : List Byte} {vals : List (List FVal × FVal)} {res : List FVal} {bits : List Nat}
    {fl : Flags} (table : tn = w.field 0 2) (there : table? m0.core tn = some t) (format : fmtWord? (w.field 0x10 4) = some o)
    (access : tblAccess m0.core w t false = none) (agent : bitOf (w.field 2 2) 4 = false) (kind : mode = bitsOf (w.field 2 2) 7 6)
    (bag : bagIndices m0 w w.step = (m1, .ok (idx, first))) (inside : ∀ i ∈ idx, i < t.rows ∧ i ≠ nullIndex)
    (read : readRows m1 w tn t (if dedupOf w = 0 then idx else distinctOf idx) = (m2, .ok rows))
    (clean : ∀ i ∈ idx, ∃ img, findRow rows i = some img ∧ imgPoisoned img = false)
    (weights : (if mode = 1 then arrayRead m2 w (bitOf (w.field 2 2) 0) (w.ptr 0x38) (4 * first) (4 * idx.length) else (m2, .ok [])) =
      (m3, .ok wb)) (drawn : m3.core.drawN (2 * t.rowLen * (idx.length + 1)) = (c, d))
    (terms : vals = idx.zipIdx.map (fun y => (((findRow rows y.1).map (imgValues (tblFmt t).fmt (tblCb m3.core t))).getD [],
      decodeFp32 (leNat ((wb.drop (4 * y.2)).take 4)))))
    (sum : res = reduceRow d mode (o.fmt == .i32) t.rowLen vals)
    (encoded : encodeScalars (setItem (offerRow c tn 2 res) w.ctx w.num w.step 1) o res = (c2, bits, fl)) :
    reduceStep m0 w = (m3.on (fun _ => agentWrite (counted (addFlags c2 w.ctx w.num fl) w 1) w.ctx w.num
      (w.ptr 0x20 + w64 (w.step * outStride o.fmt t.rowLen)) (resultRow o.fmt bits)), .ok ()) := by
  subst table kind
  have within : idx.any (fun i => i ≠ nullIndex && t.rows ≤ i) = false := by
    rw [List.any_eq_false]
    intro i there_
    simp [Nat.not_le.mpr (inside i there_).1]
  have ready : outReady m1 w w.step 1 = (m1, .ok ()) := by rw [outReady, agent, if_neg Bool.false_ne_true]
  unfold reduceStep
  simp only [there, format, access, bag, andThen_ok, within, ready, read, weights, Bool.false_eq_true, if_false,
    usedOf_of_named (fun i there_ => (inside i there_).2), bagPoison_of_clean clean, Option.map_none, Option.isNone_none, if_true,
    List.length_zipIdx, drawn, ← terms, ← sum, gatherPut, agent, M.on, encoded, countOne, counted, w64]

/-! ### Rows shared under DEDUP (R268) -/

theorem sharedRead_of_slice {w : Work} (slice : dedupOf w = 1) (c : Core) {tn r k : Nat} (key : k = tn * 2 ^ 32 + r) :
    sharedRead c w tn r = (work? c w.ctx w.num).any (fun v => v.sliceRows.contains k) := by
  rw [sharedRead, ← key]
  simp only [slice]

theorem noteRead_of_slice {w : Work} (slice : dedupOf w = 1) (c : Core) {tn r k : Nat} (key : k = tn * 2 ^ 32 + r) :
    noteRead c w tn r = modWork c w.ctx w.num (fun v => { v with sliceRows := k :: v.sliceRows }) := by
  rw [noteRead, ← key]
  simp only [slice]

section dedup
variable {m m' : M} {w : Work} {tn r : Nat} {t : Table} {img : RowImg} (read : readRow m tn t r = (m', .ok img))
include read

theorem dedupRow_of_shared (shared : sharedRead m.core w tn r = true) : dedupRow m w tn t r = (m, .ok img) := by
  simp only [dedupRow, shared, if_true, read]

theorem dedupRow_of_none (none_ : dedupOf w = 0) : dedupRow m w tn t r = (m', .ok img) := by
  simp only [dedupRow, sharedRead, none_, Bool.false_eq_true, if_false, read, andThen_ok, noteRead, M.on]

/-- A first read of the slice is noted, so that a second one is shared. -/
theorem dedupRow_of_first (slice : dedupOf w = 1) (first : sharedRead m.core w tn r = false) (still : StillRuns m'.core w) :
    ∃ m2, dedupRow m w tn t r = (m2, .ok img) ∧ sharedRead m2.core w tn r = true := by
  obtain ⟨v, there, -⟩ := still
  refine ⟨m'.on (fun c => noteRead c w tn r), ?_, ?_⟩
  · simp only [dedupRow, first, Bool.false_eq_true, if_false, read, andThen_ok]
  · obtain ⟨k, key⟩ : ∃ k, k = tn * 2 ^ 32 + r := ⟨_, rfl⟩
    rw [M.on_core, noteRead_of_slice slice _ key, sharedRead_of_slice slice _ key, work?_modWork, there, Option.map_some, Option.any_some,
      List.contains_cons, beq_self_eq_true, Bool.true_or]

end dedup

/-! ### The reductions (R276) -/

section reductions
variable (d : Nat) {n i : Nat} {rows : List (List FVal × FVal)} (some_ : rows ≠ []) (inside : i < n)
include some_ inside

/-- Element `i` of a reduction. -/
theorem reduceRow_getD (mode : Nat) (toI32 : Bool) {xs : List FVal}
    (terms : xs = rows.map (fun r => if mode = 1 then (r.1.getD i FVal.zero).mul r.2 else r.1.getD i FVal.zero)) :
    (reduceRow d mode toI32 n rows).getD i .nan =
      if mode = 3 then xs.tail.foldl FVal.maxR (xs.headD FVal.zero)
      else if toI32 then xs.foldl FVal.add FVal.zero
      else if mode = 2 then meanFp32 (sumTerms (d + 2 * i * (rows.length + 1)) xs) rows.length
      else sumTerms (d + 2 * i * (rows.length + 1)) xs := by
  have named : xs ≠ [] := by rw [terms]; simpa using some_
  have entry : (reduceRow d mode toI32 n rows)[i]? = some (if mode = 3 then xs.tail.foldl FVal.maxR (xs.headD FVal.zero)
      else if toI32 then xs.foldl FVal.add FVal.zero
      else if mode = 2 then meanFp32 (sumTerms (d + 2 * i * (rows.length + 1)) xs) rows.length
      else sumTerms (d + 2 * i * (rows.length + 1)) xs) := by
    rw [reduceRow, List.getElem?_map, List.getElem?_range inside, Option.map_some]
    dsimp only
    rw [← terms, if_neg named]
  rw [List.getD_eq_getElem?_getD, entry, Option.getD_some]

end reductions

/-- Settles O40: GATHER gives each position's row or zeros, by bits or encoded; GATHER_REDUCE one row for each bag; a row read already
under DEDUP is not read again; and the reductions are those of R276. -/
theorem lookupWorks : Obligations.LookupWorks := by
  unfold Obligations.LookupWorks
  refine ⟨?gather, ?reduce, ?dedup, ?reductions⟩
  case gather =>
    rintro s x num tn lo hi w t o m0 m1 m2 idx extra rows due rfl table there format first more last access listed whole inside read still
      agent
    have meaning := gatherStep_of_read agent table (m0 := asWork s.m w) there format first last access listed whole inside read
    obtain ⟨own, number⟩ := due.key
    have steps : w.step < listSteps w ((w.field 4 4 + 63) / 64) := gatherSteps (first ▸ more) w
    have all (v : Work) (same : v.desc = w.desc) : listSteps v ((v.field 4 4 + 63) / 64) = listSteps w ((w.field 4 4 + 63) / 64) := by
      rw [field_congr same, listSteps_congr same]
    refine ⟨fun same => ?_, fun r img c bits fl other one found clean encoded => ?_⟩
    · refine does_of_made due rfl steps (meaning.trans ?_) ?_ (fun v same_ _ => all v same_)
      · rw [forEach_gatherAt_of_same agent same, andThen_ok, List.nil_append, flatMap_zipIdx _ (gatherBytes t o rows), own, number]
        rfl
      · exact (StillRuns.foldl (fun c p still => still.gatherOne p) _ still).agentWrite _ _ _ _ _
    · subst one
      subst own
      subst number
      have position := gatherAt_of_other (w := w) (cb := tblCb m2.core t) (lo := lo) (m := m2) (out := []) (p := (r, 0)) agent other found
        clean encoded
      refine does_of_made due rfl steps (meaning.trans ?_) ?_ (fun v same_ _ => all v same_)
      · rw [show [r].zipIdx = [(r, 0)] from rfl, forEach_cons position, forEach_nil, andThen_ok]
        rfl
      · refine (StillRuns.counted w 1 (StillRuns.addFlags _ _ _ ?_)).agentWrite _ _ _ _ _
        have keeps : c = (encodeScalars (setItem m2.core w.ctx w.num lo 1) o (imgValues (tblFmt t).fmt (tblCb m2.core t) img)).1 :=
          (congrArg Prod.fst encoded).symm
        rw [keeps]
        exact (still.setItem _ _ _ _).congr rfl
  case reduce =>
    rintro s x num tn first mode d w t o m0 m1 m2 m3 idx c c2 rows wb vals res bits fl due rfl table there format more access agent kind
      bag inside read clean weights still drawn terms sum encoded still2
    obtain ⟨rfl, rfl⟩ := due.key
    refine does_of_made due rfl more (reduceStep_of_clean (m0 := asWork s.m w) table there format access agent kind bag inside read clean
      weights drawn terms sum encoded) ?_ (fun v same _ => field_congr same _ _)
    exact ((still2.addFlags _ _ _).counted _ _).agentWrite _ _ _ _ _
  case dedup =>
    intro m m' w tn r t img read
    exact ⟨dedupRow_of_shared read, dedupRow_of_none read, dedupRow_of_first read⟩
  case reductions =>
    intro d n i rows some_ inside
    refine ⟨?_, ?_, ?_, ?_, ?_⟩
    all_goals
      rw [reduceRow_getD d some_ inside _ _ rfl]
      rfl

end Sys2Proof.Machine

/-! SCATTER_ADD (R280) and ROW_UPDATE (R285): their steps, row by row. -/

namespace Sys2Proof.Machine
open Sys2Proof

/-! ### SCATTER_ADD (R280) -/

/-- No index of the list lies past the table's rows. -/
theorem none_past_of_inside {l : List Nat} {n : Nat} (inside : ∀ i ∈ l, i = nullIndex ∨ i < n) :
    l.any (fun i => i ≠ nullIndex && n ≤ i) = false := by
  rw [List.any_eq_false]
  intro i there
  rcases inside i there with null | below
  · simp [null]
  · simp [Nat.not_le.mpr below]

/-- The step of a SCATTER_ADD whose rows are all made. -/
theorem scatterStep_of_rows {w : Work} {t : Table} {f g : FmtWord} {m0 m1 m2 m3 m4 : M} {tn : Nat} {idx rows : List Nat}
    {gs : List (Nat × Nat × (W64 ⊕ List FVal))} (table : tn = w.field 0 2) (there : table? m0.core tn = some t)
    (format : fmtWord? (w.field 0x0C 4) = some f) (grad : fmtWord? (w.field 0x10 4) = some g)
    (access : tblAccess m0.core w t true = none)
    (listed : scatterIdx m0 w w.step ((w.field 4 4 - w.step) / 64 + 1) [] = (m1, .ok (idx, false)))
    (inside : ∀ i ∈ idx, i = nullIndex ∨ i < t.rows) (named : rows = (distinctOf idx).filter (· ≠ nullIndex))
    (frames : rowFrames m1 t rows = (m2, .ok ()))
    (grads : gradRows m2 w t g (bitOf (w.field 2 2) 0) (w.ptr 0x20) (idx.zipIdx.map (fun y => (y.1, w.step + y.2))) = (m3, .ok gs))
    (made : forEach (scatterRow w tn t f (decodeFp32 (w.field 0x14 4))) (m3.on (fun c => idx.zipIdx.foldl (fun c y =>
        if y.1 = nullIndex then setItem c w.ctx w.num (w.step + y.2) 3 else c) c)) ()
      (rows.map (fun r => (r, (gs.filter (·.1 == r)).map (·.2)))) = (m4, .ok ())) :
    scatterStep m0 w = (m4.on (fun c => modWork c w.ctx w.num (fun w => { w with step := w.step + idx.length - 1 })), .ok ()) := by
  subst table
  unfold scatterStep
  simp only [there, format, grad, access, listed, andThen_ok, none_past_of_inside inside, Bool.false_eq_true, if_false, ← named, frames,
    grads, made]

/-- A row of a SCATTER_ADD step whose gradients are all clean. -/
theorem scatterRow_of_clean {m m' : M} {w : Work} {tn r d : Nat} {t : Table} {f : FmtWord} {alpha : FVal} {ps : List (Nat × List FVal)}
    {c c' : Core} {res : RowWrite} (some_ : ps ≠ []) (drawn : m.core.drawN (2 * t.rowLen * (ps.length + 1)) = (c, d))
    (noted : c' = ps.foldl (fun c p => setItem c w.ctx w.num p.1 1) (ps.foldl (fun c p => offerRow c tn 1 (p.2.map alpha.mul)) c))
    (written : writeRow { m with core := c' } tn r f true w.ctx w.num ((addend d t.rowLen (ps.map (fun p => p.2.map alpha.mul))).map some)
      (ps.map (·.1)) = (m', .ok res)) (clean : res.bad = []) :
    scatterRow w tn t f alpha m () (r, ps.map (fun p => (p.1, .inr p.2))) = (m'.on (fun c =>
      if res.some_ then modWork (addFlags c w.ctx w.num res.flags) w.ctx w.num (fun w =>
        if w.rows.contains r then w else { w with rows := r :: w.rows, count := w.count + 1 })
      else addFlags c w.ctx w.num res.flags), .ok ()) := by
  have good : (ps.map (fun p => (p.1, (Sum.inr p.2 : W64 ⊕ List FVal)))).filterMap
      (fun x => (gradGood x.2).map (fun l => l.map alpha.mul)) = ps.map (fun p => p.2.map alpha.mul) := by
    rw [List.filterMap_map]
    exact congrFun (List.filterMap_eq_map (f := fun p : Nat × List FVal => p.2.map alpha.mul)) ps
  have named : ps.map (fun p => p.2.map alpha.mul) ≠ [] := by simpa using some_
  simp only [scatterRow, good, List.length_map, drawn, List.foldl_map, ← noted, named, if_false, List.map_map, Function.comp_def, written,
    andThen_ok, clean, if_true, M.on]

/-- Several terms are summed. -/
theorem addend_of_several {d n : Nat} {rows : List (List FVal)} (several : 2 ≤ rows.length) : addend d n rows = sumRows d n rows := by
  match rows, several with
  | _ :: _ :: _, _ => rfl

/-! ### ROW_UPDATE (R285, R286) -/

/-- The step of a ROW_UPDATE whose rows are all made. -/
theorem updateStep_of_rows {w : Work} {t : Table} {f g : FmtWord} {m0 m1 m2 m3 m4 m5 m6 : M} {tn rule : Nat} {idx all rows st : List Nat}
    {extra : Bool} {mom : Option Table} {gs : List (Nat × Nat × (W64 ⊕ List FVal))} (table : tn = w.field 0 2)
    (there : table? m0.core tn = some t) (format : fmtWord? (w.field 0x0C 4) = some f) (grad : fmtWord? (w.field 0x10 4) = some g)
    (kind : rule = w.field 0x14 1) (moments : mom = (if rule = 2 then table? m0.core (w.field 0x16 2) else none))
    (access : tblAccess m0.core w t true = none) (momAccess : ∀ q, mom = some q → tblAccess m0.core w q true = none)
    (listed : indices m0 w 0 (w.field 4 4) 0x38 8 = (m1, .ok (idx, extra))) (named : all = (distinctOf idx).filter (· ≠ nullIndex))
    (whole : extra = false ∨ 64 * (w.step + 1) < all.length) (group : rows = (all.drop (64 * w.step)).take 64)
    (inside : ∀ r ∈ rows, r < t.rows) (home : ∀ r ∈ rows, midRecast t r = false ∧ ∀ q, mom = some q → midRecast q r = false)
    (frames : rowFrames m1 t rows = (m2, .ok ()))
    (momFrames : (match mom with | some q => rowFrames m2 q rows | none => (m2, .ok ())) = (m3, .ok ()))
    (states : st = (if rule = 1 ∨ rule = 2 then rows else []))
    (checked_ : ∀ r ∈ st, workCheck m3.core w (w.ptr 0x48 + w64 (4 * r)) 4 true true = none)
    (ready : readyWrites m3 (ptrExtent (w.ptr 0x48)) (st.map (fun r => (ptrOffset (w.ptr 0x48 + w64 (4 * r)), 4))) = (m4, none))
    (grads : gradRows m4 w t g (bitOf (w.field 2 2) 0) (w.ptr 0x40) (idx.zipIdx.filter (fun y => rows.contains y.1)) = (m5, .ok gs))
    (made : forEach (updateRow w tn t f) (m5.on (fun c => modWork (if w.step = 0 then idx.zipIdx.foldl (fun c y =>
        if y.1 = nullIndex then setItem c w.ctx w.num y.2 3 else c) c else c) w.ctx w.num (fun w => { w with perItem := all.length }))) ()
      (rows.map (fun r => (r, (gs.filter (·.1 == r)).map (·.2)))) = (m6, .ok ())) : updateStep m0 w = (m6, .ok ()) := by
  subst table kind
  have accesses : (tblAccess m0.core w t true <|> mom.bind (fun q => tblAccess m0.core w q true)) = none := by
    rw [access]
    cases mom with
    | none => rfl
    | some q => exact momAccess q rfl
  have ends : (extra && decide (all.length ≤ 64 * (w.step + 1))) = false := by
    rcases whole with none_ | more
    · rw [none_, Bool.false_and]
    · rw [decide_eq_false (Nat.not_le.mpr more), Bool.and_false]
  have within : rows.any (fun i => t.rows ≤ i) = false := by
    rw [List.any_eq_false]
    exact fun i there_ => by simp [inside i there_]
  have free : rows.find? (midRecast t) = none := List.find?_eq_none.mpr fun r there_ => by rw [(home r there_).1]; exact Bool.false_ne_true
  have momFree : mom.bind (fun q => (rows.find? (midRecast q)).map (fun r => ParkCause.rowLock (w.field 0x16 2) r)) = none := by
    cases mom with
    | none => rfl
    | some q =>
      rw [Option.bind_some, List.find?_eq_none.mpr fun r there_ => by rw [(home r there_).2 q rfl]; exact Bool.false_ne_true]
      rfl
  have busy : (Option.map (fun r => ParkCause.rowLock (w.field 0 2) r) none <|>
      mom.bind (fun q => (rows.find? (midRecast q)).map (fun r => ParkCause.rowLock (w.field 0x16 2) r))) = none := by
    rw [momFree]; rfl
  have stateOk : st.findSome? (fun r => (workCheck m3.core w (w.ptr 0x48 + BitVec.ofNat 64 (4 * r)) 4 true true).map
      (·, w.ptr 0x48 + BitVec.ofNat 64 (4 * r))) = none := by
    rw [List.findSome?_eq_none_iff]
    exact fun r there_ => by
      rw [show workCheck m3.core w (w.ptr 0x48 + BitVec.ofNat 64 (4 * r)) 4 true true = none from checked_ r there_]; rfl
  have base : w.ptr 0x48 + BitVec.ofNat 64 (4 * 0) = w.ptr 0x48 := by simp
  have ready' : readyWrites m3 (ptrExtent (w.ptr 0x48)) (st.map (fun r => (ptrOffset (w.ptr 0x48 + BitVec.ofNat 64 (4 * r)), 4))) =
      (m4, none) := ready
  unfold updateStep
  simp only [there, format, grad, ← moments, accesses, listed, andThen_ok, ← named, ← group, ends, within, Bool.false_eq_true, if_false,
    free, busy, frames]
  refine (congrArg (fun x => andThen x _) (a₂ := (m3, .ok ())) (by cases mom <;> exact momFrames)).trans ?_
  simp only [andThen_ok, ← states, stateOk, base, ready', grads]
  by_cases first : w.step = 0
  · simp only [first, if_true, M.on] at made ⊢
    exact made
  · simp only [first, if_false, M.on] at made ⊢
    exact made

/-- A row's step by the rule without state, of clean weights and gradients. -/
theorem updateRow_of_clean {m m1 m2 : M} {w : Work} {tn r d d2 : Nat} {t : Table} {f : FmtWord} {img : RowImg}
    {ps : List (Nat × List FVal)} {c c2 : Core} {res : RowWrite} {g : List FVal} {p : OptParams} (params : p = optParams w)
    (rule : p.rule = 0) (read : readRow m tn t r = (m1, .ok img)) (clean : imgPoisoned img = false)
    (drawn : m1.core.drawN (2 * (t.rowLen + 1) * (ps.length + 1)) = (c, d)) (sum : g = sumRows d t.rowLen (ps.map (·.2)))
    (drawn2 : c.drawN (2 * (t.rowLen + 1)) = (c2, d2))
    (written : writeRowHome { m1 with core := offerRow c2 tn 1 g } tn t r img f (((imgValues (tblFmt t).fmt (tblCb c t) img).zip g).map
      (fun y => some (subFp32 y.1 (mulFp32 p.lr (addFp32 y.2 (mulFp32 p.wd y.1)))))) = (m2, .ok res)) :
    updateRow w tn t f m () (r, ps.map (fun p => (p.1, .inr p.2))) = (m2.on (fun c =>
      counted (ps.foldl (fun c y => setItem c w.ctx w.num y.1 1) (addFlags c w.ctx w.num res.flags)) w 1), .ok ()) := by
  subst params sum
  have good : (ps.map (fun p => (p.1, (Sum.inr p.2 : W64 ⊕ List FVal)))).filterMap (fun x => gradGood x.2) = ps.map (·.2) := by
    rw [List.filterMap_map]
    exact congrFun (List.filterMap_eq_map (f := fun p : Nat × List FVal => p.2)) ps
  have sound (h : Nat × (W64 ⊕ List FVal) → Option W64) (none_ : ∀ q l, h (q, .inr l) = none) :
      (ps.map (fun p => (p.1, (Sum.inr p.2 : W64 ⊕ List FVal)))).findSome? h = none := by
    rw [List.findSome?_map, List.findSome?_eq_none_iff]
    exact fun p _ => none_ p.1 p.2
  unfold updateRow
  dsimp only
  rw [sound _ (fun _ _ => rfl)]
  simp only [read, andThen_ok, clean, Bool.false_eq_true, if_false, rule, show ¬0 = 2 by decide, show ¬0 = 1 by decide,
    updateRow.finish, good, List.length_map, drawn, drawn2, optStep, List.map_map, Function.comp_def, optWeight, written, if_true,
    List.foldl_map, M.on, counted]

end Sys2Proof.Machine

/-! ATOMIC (R290 to R294): its entries on this chip and their operations, and the statement on the update works. -/

namespace Sys2Proof.Machine
open Sys2Proof

/-! ### The step of an ATOMIC -/

theorem atomicStep_of_entries {m m1 m2 m3 : M} {w : Work} {lo n : Nat} {b out : List Byte} {es : List (List Byte × Nat)}
    (first : lo = 64 * w.step) (size : n = min 64 (w.field 0 4 - lo))
    (read : arrayRead m w (bitOf (w.field 4 2) 0) (w.ptr 8) (32 * lo) (32 * n) = (m1, .ok b))
    (entries : es = (List.range n).map (fun k => ((b.drop (32 * k)).take 32, lo + k)))
    (ready : es.foldl (fun y e => match y.2 with | some k => (y.1, some k) | none => atomicWait w y.1 e.1 e.2) (m1, none) = (m2, none))
    (made : forEach (atomicEntry w) m2 [] es = (m3, .ok out)) :
    atomicStep m w = (m3.on (fun c => if bitOf (w.field 4 2) 4 then
      agentWrite c w.ctx w.num (w.ptr 0x10 + w64 (8 * lo)) out else c), .ok ()) := by
  subst first size entries
  unfold atomicStep
  simp only [read, andThen_ok]
  generalize waits : List.foldl _ (m1, (none : Option ParkCause)) _ = y
  have none_ : y = (m2, none) := waits.symm.trans ready
  subst none_
  simp only [made, andThen_ok]
  cases bitOf (w.field 4 2) 4 <;> rfl

/-! ### Operations (R290, Table 7-11) -/

/-- The operations on integers, as operations on bit vectors. -/
theorem atomicOp_eq {n : Nat} (wide : 0 < n) (a b cmp : BitVec n) :
    atomicOp 0 n a.toNat b.toNat cmp.toNat = some (a + b).toNat ∧ atomicOp 2 n a.toNat b.toNat cmp.toNat = some (a &&& b).toNat ∧
    atomicOp 3 n a.toNat b.toNat cmp.toNat = some (a ||| b).toNat ∧ atomicOp 4 n a.toNat b.toNat cmp.toNat = some (a ^^^ b).toNat ∧
    atomicOp 5 n a.toNat b.toNat cmp.toNat = some (if a.slt b then b else a).toNat ∧
    atomicOp 6 n a.toNat b.toNat cmp.toNat = some (if b.slt a then b else a).toNat ∧
    atomicOp 7 n a.toNat b.toNat cmp.toNat = some b.toNat ∧
    atomicOp 8 n a.toNat b.toNat cmp.toNat = some (if a = cmp then b else a).toNat := by
  have same : (a.toNat = cmp.toNat) = (a = cmp) := propext BitVec.toNat_inj
  simp only [atomicOp, BitVec.toNat_mod_cancel, sext_toNat wide, same, BitVec.slt, BitVec.toNat_add, BitVec.toNat_and, BitVec.toNat_or,
    BitVec.toNat_xor, decide_eq_true_eq, apply_ite BitVec.toNat, and_self]

/-! ### One entry (R292) -/

/-- The bytes of a RAW entry. -/
def rawEntry (target operand cmp op form : Nat) : List Byte :=
  natLe 8 target ++ natLe 8 operand ++ natLe 8 cmp ++ natLe 1 op ++ natLe 1 form ++ natLe 6 0

theorem drop_natLe_append (n v : Nat) (l : List Byte) (k : Nat) : (natLe n v ++ l).drop (n + k) = l.drop k := by
  rw [List.drop_append, natLe_length, Nat.add_sub_cancel_left, List.drop_of_length_le (by rw [natLe_length]; omega), List.nil_append]

theorem readEnt_rawEntry {target operand cmp op form : Nat} (target_ : target < 2 ^ 64) (operand_ : operand < 2 ^ 64)
    (cmp_ : cmp < 2 ^ 64) (op_ : op < 256) (form_ : form ≤ 1) : readEnt (rawEntry target operand cmp op form) =
      { target := target, operand := operand, compare := cmp, op := op, form := form, table := 0, rsv := 0 } := by
  have bytes : rawEntry target operand cmp op form =
      natLe 8 target ++ (natLe 8 operand ++ (natLe 8 cmp ++ (natLe 1 op ++ (natLe 1 form ++ (natLe 2 0 ++ natLe 4 0))))) := by
    rw [rawEntry]
    simp only [List.append_assoc]
    rfl
  have first (n v : Nat) (l : List Byte) : (natLe n v ++ l).take n = natLe n v := List.take_left' (natLe_length n v)
  rw [bytes, readEnt]
  have d16 (l : List Byte) : (natLe 8 target ++ (natLe 8 operand ++ l)).drop 16 = l := by
    rw [drop_natLe_append 8 _ _ 8, drop_natLe_append 8 _ _ 0, List.drop_zero]
  have d24 (l : List Byte) : (natLe 8 target ++ (natLe 8 operand ++ (natLe 8 cmp ++ l))).drop 24 = l := by
    rw [drop_natLe_append 8 _ _ 16, drop_natLe_append 8 _ _ 8, drop_natLe_append 8 _ _ 0, List.drop_zero]
  have d25 (l : List Byte) : (natLe 8 target ++ (natLe 8 operand ++ (natLe 8 cmp ++ (natLe 1 op ++ l)))).drop 25 = l := by
    rw [drop_natLe_append 8 _ _ 17, drop_natLe_append 8 _ _ 9, drop_natLe_append 8 _ _ 1, drop_natLe_append 1 _ _ 0, List.drop_zero]
  have d26 (l : List Byte) : (natLe 8 target ++ (natLe 8 operand ++ (natLe 8 cmp ++ (natLe 1 op ++ (natLe 1 form ++ l))))).drop 26 = l := by
    rw [drop_natLe_append 8 _ _ 18, drop_natLe_append 8 _ _ 10, drop_natLe_append 8 _ _ 2, drop_natLe_append 1 _ _ 1,
      drop_natLe_append 1 _ _ 0, List.drop_zero]
  have d28 (l : List Byte) : (natLe 8 target ++ (natLe 8 operand ++ (natLe 8 cmp ++ (natLe 1 op ++ (natLe 1 form ++
      (natLe 2 0 ++ l)))))).drop 28 = l := by
    rw [drop_natLe_append 8 _ _ 20, drop_natLe_append 8 _ _ 12, drop_natLe_append 8 _ _ 4, drop_natLe_append 1 _ _ 3,
      drop_natLe_append 1 _ _ 2, drop_natLe_append 2 _ _ 0, List.drop_zero]
  rw [show (natLe 8 target ++ (natLe 8 operand ++ (natLe 8 cmp ++ (natLe 1 op ++ (natLe 1 form ++ (natLe 2 0 ++ natLe 4 0)))))).drop 8 = _
    from drop_natLe_append 8 _ _ 0, List.drop_zero, d16, d24, d25, d26, d28, first, first, first, first, first, first,
    List.take_of_length_le (Nat.le_of_eq (natLe_length _ _)),
    leNat_natLe 8 target target_, leNat_natLe 8 operand operand_, leNat_natLe 8 cmp cmp_,
    leNat_natLe 1 op op_, leNat_natLe 1 form (by omega), leNat_natLe 2 0 (by decide), leNat_natLe 4 0 (by decide)]

/-- A RAW entry of this chip applies its operation to the word that it names and gives the old value. -/
theorem atomicEntry_of_raw {m m1 m2 : M} {w : Work} {tgt : W64} {operand cmp op form n i new : Nat} (out : List Byte) {b ent : List Byte}
    {p : List Bool} (operand_ : operand < 2 ^ 64) (cmp_ : cmp < 2 ^ 64) (op_ : op < 256) (form_ : form ≤ 1) (size : n = 4 * (form + 1))
    (here : servedHere m.core (ptrChip tgt) = true) (aligned : tgt.toNat % n = 0)
    (access : ptrCheck m.core (ctxPart m.core w.ctx) tgt n true true = none) (entry : ent = rawEntry tgt.toNat operand cmp op form)
    (first : atomicDone w (readEnt ent) i = none) (ready : readyWrite m (ptrExtent tgt) (ptrOffset tgt) n = (m1, none))
    (read : readBytes m1 (w.ctx % 4) (ptrExtent tgt) (ptrOffset tgt) n = (m2, .got b p)) (clean : p.any id = false)
    (permitted : atomicOp op (8 * n) 0 0 0 ≠ none) (made : atomicOp op (8 * n) (leNat b) operand cmp = some new) :
    atomicEntry w m out (ent, i) =
      (((writeBytes m2 (w.ctx % 4) (ptrExtent tgt) (ptrOffset tgt) (natLe n new) false).1).on (fun c =>
        counted (setItem (addFlags (noteAtomic c w (readEnt ent) i (leNat b)) w.ctx w.num (rawFlags op (leNat b) operand))
          w.ctx w.num i 1) w 1), .ok (out ++ natLe 8 (leNat b))) := by
  obtain ⟨e, fields⟩ : ∃ e, e = readEnt ent := ⟨_, rfl⟩
  have decoded := readEnt_rawEntry tgt.isLt operand_ cmp_ op_ form_
  rw [← entry, ← fields] at decoded
  have pointer : e.ptr = tgt := by rw [decoded, AtomicEnt.ptr, BitVec.ofNat_toNat, BitVec.setWidth_eq]
  have shape : e.form = form := by rw [decoded]
  have width : e.bits = 8 * n := by
    rw [AtomicEnt.bits, shape, size]
    split <;> omega
  have code : e.op = op := by rw [decoded]
  have arg : e.operand = operand := by rw [decoded]
  have compare : e.compare = cmp := by rw [decoded]
  have raw : e.form ≠ 2 := by rw [shape]; omega
  have bytes : 8 * n / 8 = n := by omega
  have some_ : (atomicOp op (8 * n) 0 0 0).isNone = false := by
    rw [Option.isNone_eq_false_iff, Option.isSome_iff_ne_none]; exact permitted
  have sound : e.malformed = false := by
    have few : ¬2 < form := by omega
    have target_ : e.target = tgt.toNat := by rw [decoded]
    have table : e.table = 0 := by rw [decoded]
    have rsv : e.rsv = 0 := by rw [decoded]
    simp [AtomicEnt.malformed, width, bytes, code, some_, shape, few, target_, table, rsv, aligned]
  rw [← fields] at first
  simp only [atomicEntry, ← fields, sound, first, raw, Bool.false_eq_true, if_false, pointer, here, Bool.not_true, rawAtomic, width, bytes,
    aligned, code, arg, compare, some_, ne_eq, not_true_eq_false, decide_false, Bool.or_self, access, ready, read, clean, made,
    Option.getD_some, andThen_ok, M.on, counted]

/-- Settles O41: SCATTER_ADD adds each row's scaled gradients, ROW_UPDATE applies its rule's step to each row, and ATOMIC applies its
entries' operations. -/
theorem updateWorks : Obligations.UpdateWorks := by
  unfold Obligations.UpdateWorks
  refine ⟨?scatter, ?row, ?addends, ?update, ?rule0, ?rules, ?atomic, ?entry, ?operations⟩
  case scatter =>
    rintro s x num tn n w t f g m0 m1 m2 m3 m4 idx rows gs due rfl table there format grad access more listed rfl inside named frames grads
      made still some_
    obtain ⟨rfl, rfl⟩ := due.key
    have steps : w.step < listSteps w (w.field 4 4) := by rw [listSteps_of_some w (by omega)]; exact more
    obtain ⟨v, found, position, desc, runs⟩ := still
    refine does_of_made_by (v := { v with step := v.step + idx.length - 1 }) due rfl steps
      (scatterStep_of_rows (m0 := asWork s.m w) table there format grad access listed inside named frames grads made)
      ((work?_modWork _ _ _ _).trans ?_) runs (by rw [position]) ?_
    · rw [found, Option.map_some, position]
    · exact (listSteps_congr desc _).trans (congrArg (listSteps w) (field_congr desc 4 4))
  case row =>
    rintro m m' w tn r d t f alpha ps c c' res some_ drawn noted written clean
    exact scatterRow_of_clean some_ drawn noted written clean
  case addends =>
    exact fun d n l rows => ⟨rfl, addend_of_several⟩
  case update =>
    rintro s x num tn rule w t f g m0 m1 m2 m3 m4 m5 m6 idx all rows st extra mom gs due rfl table there format grad kind small moments
      access momAccess more listed named whole group inside home frames momFrames states checked_ ready grads made ⟨v, found, position,
      number, runs⟩
    obtain ⟨rfl, rfl⟩ := due.key
    have steps : w.step < (if w.step = 0 then 1 else (w.perItem + 63) / 64) := by
      split
      · omega
      · omega
    refine does_of_made_by (v := v) (k := w.step) due rfl steps
      (updateStep_of_rows (m0 := asWork s.m w) table there format grad kind moments access momAccess listed named whole group inside home
        frames momFrames states checked_ ready grads made) found runs position ?_
    dsimp only
    rw [if_neg (Nat.succ_ne_zero _), number]
  case rule0 =>
    rintro m m1 m2 w tn r d d2 t f img ps c c2 res g p params rule read clean drawn sum drawn2 written
    exact updateRow_of_clean params rule read clean drawn sum drawn2 written
  case rules =>
    intro p ws ms g st d
    refine ⟨fun rule => ?_, fun m2 s2 rule moments state => ?_⟩
    · simp only [optStep, rule, optWeight]
    · rw [moments, state]
      simp only [optStep, rule, optWeight]
  case atomic =>
    rintro s x num lo n w m1 m2 m3 b out es due first more size read entries ready made still
    obtain ⟨rfl, rfl⟩ := due.key
    refine does_of_made due rfl (by rw [first] at more; omega) (atomicStep_of_entries first size read entries ready made) ?_
      (fun v same _ => by rw [field_congr same])
    rw [M.on_core]
    split
    · exact still.agentWrite _ _ _ _ _
    · exact still
  case entry =>
    rintro m m1 m2 w tgt operand cmp op form n i new out b ent p operand_ cmp_ op_ form_ size here aligned access entry first ready read clean
      permitted made
    exact atomicEntry_of_raw out operand_ cmp_ op_ form_ size here aligned access entry first ready read clean permitted made
  case operations =>
    exact fun n a b cmp wide => atomicOp_eq wide a b cmp

end Sys2Proof.Machine

/-! COPY, FILL and CONVERT (R297 to R299): their steps, and the statement on them. -/

namespace Sys2Proof.Machine
open Sys2Proof

/-! ### Steps of equal size -/

theorem step_lt_of_left {step size n : Nat} (left : step * size < n) (some_ : 0 < size) : step < (n + size - 1) / size := by
  refine (Nat.le_div_iff_mul_le some_).mpr ?_
  rw [Nat.succ_eq_add_one, Nat.add_mul]
  omega

theorem steps_of_one_left {step size n : Nat} (one : n = step * size + 1) (some_ : 0 < size) : (n + size - 1) / size = step + 1 := by
  rw [one, show step * size + 1 + size - 1 = (step + 1) * size by rw [Nat.add_mul]; omega, Nat.mul_div_cancel _ some_]

theorem readRef_congr {v w : Work} (same : v.desc = w.desc) (off : Nat) : readRef v off = readRef w off := by
  simp only [readRef, field_congr same, Work.ptr]

/-! ### What a written side adds -/

theorem rawMade_of_written {m m' : M} {w : Work} {ptr : W64} {b : List Byte} (n : Nat) (written : poolWrite m w ptr b = (m', .ok none)) :
    rawMade m w n ptr b = (m'.on (fun c => counted c w n), .ok ()) := by
  rw [rawMade, written]
  rfl

theorem rowMade_of_written {m : M} {w : Work} {res : RowWrite} (n : Nat) (clean : res.bad = []) :
    rowMade w n (m, .ok res) = (m.on (fun c => counted (addFlags c w.ctx w.num res.flags) w n), .ok ()) := by
  rw [rowMade, andThen_ok, clean, if_pos rfl]
  rfl

/-! ### COPY (R297) -/

theorem copyStepSize_pos (c : Core) (w : Work) : 0 < copyStepSize c w := by
  rw [copyStepSize]
  split
  · exact Nat.lt_of_lt_of_le Nat.zero_lt_one (Nat.le_max_left _ _)
  · rw [copyUnit]
    split
    · decide
    · decide

/-! ### What the size of a step depends on -/

theorem extPtr_congr {c d : Core} (exts : d.ext.exts = c.ext.exts) (chip : d.rget GLB_CHIP = c.rget GLB_CHIP)
    (layout : d.rget PAIR_LAYOUT = c.rget PAIR_LAYOUT) (e off : Nat) : extPtr d e off = extPtr c e off := by
  rw [extPtr, ext?, exts, Core.chipId, Core.fld_congr chip, Core.fld_congr layout, extPtr, ext?, Core.chipId]

/-- The size of a COPY's step depends on the tables, on their extents and on the chip's pointers to them. -/
theorem copyStepSize_congr {c d : Core} {v w : Work} (tables : d.work.tables = c.work.tables) (exts : d.ext.exts = c.ext.exts)
    (chip : d.rget GLB_CHIP = c.rget GLB_CHIP) (layout : d.rget PAIR_LAYOUT = c.rget PAIR_LAYOUT) (same : v.desc = w.desc) :
    copyStepSize d v = copyStepSize c w := by
  have table (t : Nat) : table? d t = table? c t := by rw [table?, tables, table?]
  have spans (r : Ref) (n b : Nat) : refSpans d r n b = refSpans c r n b := by
    simp only [refSpans, table, extPtr_congr exts chip layout]
  have bytes (r q : Ref) (n : Nat) : copyBytes d r q n = copyBytes c r q n := by simp only [copyBytes, table]
  have unit : copyUnit v = copyUnit w := by simp only [copyUnit, readRef_congr same]
  rw [copyStepSize, copyStepSize, unit, readRef_congr same, readRef_congr same, field_congr same, bytes, spans, spans]

@[simp] theorem ctxCount_ext (c : Core) (x a n : Nat) : (ctxCount c x a n).ext = c.ext := by
  unfold ctxCount
  split
  · rfl
  · dsimp only
    split
    · rw [EventsKeep.raise (part := Core.ext) (fun _ _ _ _ _ _ => rfl), Core.rset_ext]
    · rw [Core.rset_ext]

theorem rget_ctxCount_ne {a b : Nat} (apart : Unlogged a) (other : a ≠ b) (c : Core) (x n : Nat) :
    (ctxCount c x b n).rget a = c.rget a := by
  unfold ctxCount
  split
  · rfl
  · dsimp only
    split
    · rw [rget_raise_of_unlogged apart, Core.rget_rset_ne _ _ other]
    · rw [Core.rget_rset_ne _ _ other]

theorem addFlags_tables (c : Core) (x num : Nat) (f : Flags) : (addFlags c x num f).work.tables = c.work.tables := by
  show (ctxCount (ctxCount c x (CTX_SAT_COUNT x) f.sat) x (CTX_NONFINITE_COUNT x) f.nonfin).work.tables = _
  rw [ctxCount_work, ctxCount_work]

theorem addFlags_ext (c : Core) (x num : Nat) (f : Flags) : (addFlags c x num f).ext = c.ext := by
  rw [addFlags, modWork_ext, ctxCount_ext, ctxCount_ext]

/-- The flags of a work's writes touch its context's counts alone. -/
theorem rget_addFlags_of_low {a : Nat} (apart : Unlogged a) (low : a < 0x400000) (c : Core) (x num : Nat) (f : Flags) :
    (addFlags c x num f).rget a = c.rget a := by
  have high (n : Nat) (up : 0x400000 ≤ n) : a ≠ n + 0x100 * x := by omega
  rw [addFlags, rget_modWork, rget_ctxCount_ne apart (high _ (by decide)), rget_ctxCount_ne apart (high _ (by decide))]

/-- The end of a step that counts touches no register. -/
theorem rget_afterCounted (m0 m : M) (g : Core → Core) (w : Work) (n x num a : Nat) :
    (offWork m0 ((m.on (fun c => counted (g c) w n)).on (fun c => stepDone c x num))).core.rget a = (g m.core).rget a := rfl

section copyRaw
variable {w : Work} {p q : W64} (src : readRef w 0 = .raw p) (dst : readRef w 0x10 = .raw q)
include src dst

/-- Between raw sides the size of a step is the descriptor's alone. -/
theorem copyStepSize_of_raw (c d : Core) {v : Work} (same : v.desc = w.desc) : copyStepSize d v = copyStepSize c w := by
  simp only [copyStepSize, readRef_congr same, field_congr same, src, dst, copyBytes, refSpans, copyUnit]

theorem copyStep_of_raw {m m1 m2 : M} {lo k : Nat} {b : List Byte} (first : lo = w.step * copyStepSize m.core w)
    (size : k = min (copyStepSize m.core w) (w.field 0x20 4 - lo)) (read : poolReadGood m w (p + w64 lo) k = (m1, .ok b))
    (written : poolWrite m1 w (q + w64 lo) b = (m2, .ok none)) : copyStep m w = (m2.on (fun c => counted c w k), .ok ()) := by
  subst first size
  have read' : poolReadGood m w (p + BitVec.ofNat 64 (w.step * copyStepSize m.core w))
      (min (copyStepSize m.core w) (w.field 0x20 4 - w.step * copyStepSize m.core w)) = (m1, .ok b) := read
  rw [copyStep, src, dst]
  dsimp only
  rw [read', andThen_ok]
  exact rawMade_of_written _ written

end copyRaw

/-- One row copied between tables. -/
theorem copyStep_of_row {m m1 m2 m3 : M} {w : Work} {t u r r' lo : Nat} {img : RowImg} {v : Table} {res : RowWrite}
    (src : readRef w 0 = .table t r) (dst : readRef w 0x10 = .table u r') (first : lo = w.step * copyStepSize m.core w)
    (one : w.field 0x20 4 = lo + 1) (read : workRows m w t (r + lo) 1 = (m1, .ok [img]))
    (ready : rowsReady (movedOnly m.core m1) w u (r' + lo) 1 = (m2, .ok v))
    (written : writeRowBits m2 u (r' + lo) (copyWord v) img w.ctx w.num = (m3, .ok res)) (clean : res.bad = []) :
    copyStep m w = (m3.on (fun c => counted (addFlags c w.ctx w.num res.flags) w 1), .ok ()) := by
  have size : min (copyStepSize m.core w) (w.field 0x20 4 - lo) = 1 := by
    have := copyStepSize_pos m.core w
    omega
  rw [copyStep, src, dst]
  dsimp only
  rw [← first, size, read, andThen_ok, ready, andThen_ok, putRows, List.zipIdx_singleton, forEach_cons (m' := _) (out' := ()) ?made,
    forEach_nil]
  case made =>
    dsimp only
    rw [Nat.add_zero, written]
    exact rowMade_of_written 1 clean

/-! ### FILL (R299) -/

theorem fillStep_of_raw {m m1 : M} {w : Work} {q : W64} {lo k : Nat} (dst : readRef w 0 = .raw q) (first : lo = 65536 * w.step)
    (size : k = min 65536 (w.field 0x10 4 - lo))
    (written : poolWrite m w (q + w64 lo) ((List.range k).map (fun i => ((w.desc.drop 96).take 32).getD ((lo + i) % 32) 0)) =
      (m1, .ok none)) : fillStep m w = (m1.on (fun c => counted c w k), .ok ()) := by
  have unit : fillSize w = 65536 := by rw [fillSize, dst]
  rw [Nat.mul_comm] at first
  rw [fillStep, dst, unit]
  dsimp only
  rw [← first, ← size]
  exact rawMade_of_written k written

theorem fillStep_of_row {m m1 m2 : M} {w : Work} {tn r lo : Nat} {t : Table} {f : FmtWord} {res : RowWrite}
    (dst : readRef w 0 = .table tn r) (first : lo = 64 * w.step) (one : w.field 0x10 4 = lo + 1)
    (format : fmtWord? (w.field 0x14 4) = some f) (ready : rowsReady m w tn (r + lo) 1 = (m1, .ok t))
    (written : writeRow m1 tn (r + lo) f false w.ctx w.num (List.replicate t.rowLen (some (decodeFp32 (w.field 0x18 4)))) =
      (m2, .ok res)) (clean : res.bad = []) :
    fillStep m w = (m2.on (fun c => counted (addFlags c w.ctx w.num res.flags) w 1), .ok ()) := by
  have unit : fillSize w = 64 := by rw [fillSize, dst]
  rw [Nat.mul_comm] at first
  have size : min 64 (w.field 0x10 4 - lo) = 1 := by omega
  rw [fillStep, dst, unit]
  dsimp only
  rw [format]
  dsimp only
  rw [← first, size, ready, andThen_ok, List.range_one, forEach_cons (m' := _) (out' := ()) ?made, forEach_nil]
  case made =>
    rw [Nat.add_zero, written]
    exact rowMade_of_written 1 clean

/-! ### CONVERT (R298) -/

theorem convertSize_pos_of_raw {c : Core} {w : Work} {p q : W64} (src : readRef w 0 = .raw p) (dst : readRef w 0x10 = .raw q) :
    0 < convertSize c w := by
  rw [convertSize]
  split
  · exact Nat.lt_of_lt_of_le Nat.zero_lt_one (Nat.le_max_left _ _)
  · rw [src, dst]
    exact Nat.succ_pos 65535

theorem convertSize_of_raw {w : Work} {p q : W64} (src : readRef w 0 = .raw p) (dst : readRef w 0x10 = .raw q) (c d : Core) {v : Work}
    (same : v.desc = w.desc) : convertSize d v = convertSize c w := by
  simp only [convertSize, convertSpans, readRef_congr same, field_congr same, src, dst, refRowLen, refSpans]

/-- Elements converted between raw sides. -/
theorem convertStep_of_raw {m m1 m2 : M} {w : Work} {p q : W64} {lo k : Nat} {sf df : FmtWord} {b : List Byte} {c : Core}
    {out es : List Nat} {fl : Flags} (src : readRef w 0 = .raw p) (dst : readRef w 0x10 = .raw q)
    (from_ : fmtWord? (w.field 0x24 4) = some sf) (into : fmtWord? (w.field 0x28 4) = some df)
    (first : lo = w.step * convertSize m.core w) (size : k = min (convertSize m.core w) (w.field 0x20 4 - lo))
    (read : poolReadGood m w (p + w64 (lo * elemBits sf.fmt / 8)) (elemsBytes sf.fmt k) = (m1, .ok b))
    (elems : es = getElems sf.fmt b k)
    (made : (if sameBits sf df then (m1.core, es, bitFlags (es.map (decodeElem sf.fmt)))
      else encodeScalars m1.core df (es.map (decodeElem sf.fmt))) = (c, out, fl))
    (written : poolWrite (m1.on (fun _ => addFlags c w.ctx w.num fl)) w (q + w64 (lo * elemBits df.fmt / 8)) (packElems df.fmt out) =
      (m2, .ok none)) : convertStep m w = (m2.on (fun c => counted c w k), .ok ()) := by
  have read' : convertRead m w sf lo k = (m1, .ok (es.map (decodeElem sf.fmt), [], es)) := by
    rw [convertRead, src]
    dsimp only
    rw [show poolReadGood m w (p + BitVec.ofNat 64 (lo * elemBits sf.fmt / 8)) (elemsBytes sf.fmt k) = (m1, .ok b) from read, andThen_ok,
      elems]
  have clean : rowsPoison m1.core w lo [] = none := by rw [rowsPoison, src]
  rw [convertStep, from_, into]
  dsimp only
  rw [← first, ← size, read', andThen_ok, dst]
  dsimp only
  rw [clean]
  dsimp only
  rw [made]
  exact rawMade_of_written k written

/-- Settles O42: COPY moves bits between raw sides and rows between tables, FILL writes its pattern or value, and CONVERT its elements,
each step counted. -/
theorem copyFillAndConvert : Obligations.CopyFillAndConvert := by
  unfold Obligations.CopyFillAndConvert
  refine ⟨?copyRaw, ?copyRow, ?fillRaw, ?fillRow, ?convert⟩
  case copyRaw =>
    rintro s x num lo k w p q m1 m2 b due src dst first more size read written still
    refine does_of_made due rfl (step_lt_of_left (first ▸ more) (copyStepSize_pos s.core w))
      (copyStep_of_raw (m := asWork s.m w) src dst first size read written) (still.counted _ _) (fun v same _ => ?_)
    dsimp only
    rw [copyStepSize_of_raw src dst s.core _ same, field_congr same]
  case copyRow =>
    rintro s x num t u r r' lo w m0 m1 m2 m3 img v res due rfl src dst first one read ready written clean still size
    obtain ⟨rfl, rfl⟩ := due.key
    have some_ := copyStepSize_pos s.core w
    have left : w.step * copyStepSize s.core w < w.field 0x20 4 := by rw [one, first]; exact Nat.lt_succ_self _
    refine does_of_made due rfl (step_lt_of_left left some_)
      (copyStep_of_row (m := asWork s.m w) src dst first one read ready written clean) ((still.addFlags _ _ _).counted _ _)
      (fun v same _ => ?_)
    have kept : copyStepSize (offWork s.m ((m3.on (fun c => counted (addFlags c w.ctx w.num res.flags) w 1)).on
        (fun c => stepDone c w.ctx w.num))).core v = copyStepSize s.core w := by
      rw [← size]
      refine copyStepSize_congr ?_ ?_ ?_ ?_ same
      · exact addFlags_tables m3.core w.ctx w.num res.flags
      · exact congrArg ExtSt.exts (addFlags_ext m3.core w.ctx w.num res.flags)
      · exact (rget_afterCounted s.m m3 (fun c => addFlags c w.ctx w.num res.flags) _ _ _ _ _).trans
          (rget_addFlags_of_low (show GLB_CHIP ∉ eventRegs by decide) (by decide) _ _ _ _)
      · exact (rget_afterCounted s.m m3 (fun c => addFlags c w.ctx w.num res.flags) _ _ _ _ _).trans
          (rget_addFlags_of_low (show PAIR_LAYOUT ∉ eventRegs by decide) (by decide) _ _ _ _)
    dsimp only
    rw [kept, field_congr same, steps_of_one_left (by rw [one, first]) some_]
  case fillRaw =>
    rintro s x num lo k w q m1 due dst first more size written still
    have unit {v : Work} (same : v.desc = w.desc) : fillSize v = 65536 := by rw [fillSize, readRef_congr same, dst]
    refine does_of_made due rfl ?_ (fillStep_of_raw (m := asWork s.m w) dst first size written) (still.counted _ _) (fun v same _ => ?_)
    · rw [unit rfl]
      omega
    · rw [unit same, field_congr same]
      rfl
  case fillRow =>
    rintro s x num tn r lo w m1 m2 t f res due dst first one format ready written clean still
    obtain ⟨rfl, rfl⟩ := due.key
    have unit {v : Work} (same : v.desc = w.desc) : fillSize v = 64 := by rw [fillSize, readRef_congr same, dst]
    refine does_of_made due rfl ?_ (fillStep_of_row (m := asWork s.m w) dst first one format ready written clean)
      ((still.addFlags _ _ _).counted _ _) (fun v same _ => ?_)
    · rw [unit rfl]
      omega
    · rw [unit same, field_congr same]
      omega
  case convert =>
    rintro s x num lo k w p q sf df m1 m2 b c out es fl due src dst from_ into first more size read elems made written still
    obtain ⟨rfl, rfl⟩ := due.key
    refine does_of_made due rfl (step_lt_of_left (first ▸ more) (convertSize_pos_of_raw src dst))
      (convertStep_of_raw (m := asWork s.m w) src dst from_ into first size read elems made written) (still.counted _ _)
      (fun v same _ => ?_)
    dsimp only
    rw [convertSize_of_raw src dst s.core _ same, field_congr same]

end Sys2Proof.Machine

/-! Built-in works are refused, started and stepped alike (R254); the experts of a token and their gates (R322 to R324); and the parts of
EXPERT_ROUTE, EXPERT_FFN and SPMM that put results (R320, R327, R329, R337). -/

namespace Sys2Proof.Machine
open Sys2Proof

/-! ### The commands of the built-in works -/

/-- The command of a work without a program is its driver's. -/
theorem does_of_builtIn {k : WorkKind} (kind : k.BuiltIn) {s : State} {x num : Nat} {w : Work} {m : M}
    (serves : inService s.core = true) (there : work? s.core x num = some w) (builtin : w.prog = none)
    (comes : runWork k.op x num k.check k.start k.step k.total s.m = m) : does (k.cmd x num) s m := by
  have driven {op : Nat} {f : M → M} (drives : f s.m = m) : boundOr op x num f s.m = m := by
    rw [boundOr_builtin (m := s.m) there builtin]; exact drives
  simp only [WorkKind.BuiltIn, List.mem_cons, List.not_mem_nil, or_false] at kind
  rcases kind with rfl | rfl | rfl | rfl | rfl | rfl | rfl | rfl | rfl | rfl | rfl
  case inr.inr.inr.inr.inr.inr.inr.inr.inr.inr => exact does_of_served rfl serves comes
  all_goals exact does_of_served rfl serves (driven comes)

/-- A work that parks is not active. -/
theorem parkWork_waits {c : Core} {x num : Nat} {k : ParkCause} {v : Work} (there : work? (parkWork c x num k) x num = some v) :
    active v = false := by
  have parked {d : Core} {f : Work → Work} (waits : ∀ u, active (f u) = false) (found : work? (modWork d x num f) x num = some v) :
      active v = false := by
    rw [work?_modWork] at found
    obtain ⟨u, -, same⟩ := Option.map_eq_some_iff.mp found
    rw [← same]
    exact waits u
  rw [parkWork] at there
  split at there
  · next absent => rw [absent] at there; exact nomatch there
  · split at there
    · exact parked (fun _ => by rw [active]; exact Bool.and_false _) there
    · dsimp only at there
      split at there
      · exact parked (fun _ => by rw [active]; exact Bool.and_false _) there
      · exact parked (fun _ => by rw [active]; exact Bool.and_false _) there

section builtIn
variable {k : WorkKind} {m : M} {x num : Nat} {w : Work} (there : work? m.core x num = some w) (due : w.step < k.total m w)
include there due

/-- A step that fails stops its work. -/
theorem runFrom_of_failed {m2 : M} {st : Status} {d : W64} (fails : k.step (asWork m w) w = (m2, .fail st d))
    (stopped : ∃ w2, work? (stopWork m2.core x num st d) x num = some w2 ∧ active w2 = false) :
    runFrom x num k.step k.total m = offWork m (m2.on (fun c => stopWork c x num st d)) := by
  obtain ⟨w2, there2, idle⟩ := stopped
  refine runFrom_of_more there due (by rw [underTag_eq, fails]; rfl) (fun v found ends => ?_)
  rw [Option.some.inj (found.symm.trans there2), idle] at ends
  exact Bool.noConfusion ends.1

/-- A step that waits parks its work, from its beginning when it has made nothing. -/
theorem runFrom_of_parked {m2 : M} {p : ParkCause} (waits : k.step (asWork m w) w = (m2, .park p)) :
    runFrom x num k.step k.total m = offWork m (if wholePark p then (asWork m w).on (fun c => parkWork c x num p)
      else m2.on (fun c => parkWork (uncounted (asWork m w).core c x num) x num p)) := by
  refine runFrom_of_more there due (by rw [underTag_eq, waits]; rfl) (fun v found ends => ?_)
  have idle : active v = false := by
    revert found
    split
    · exact fun found => parkWork_waits (c := (asWork m w).core) (k := p) found
    · exact fun found => parkWork_waits (c := uncounted (asWork m w).core m2.core x num) (k := p) found
  rw [idle] at ends
  exact Bool.noConfusion ends.1

/-- A step that is made leaves the next one due, or ends the work. -/
theorem runFrom_of_made {m2 m3 : M} {w2 w3 : Work} (made : k.step (asWork m w) w = (m2, .ok ())) (there2 : work? m2.core x num = some w2)
    (runs : active w2 = true) (next_ : w3 = { w2 with step := w2.step + 1, fetched := [] })
    (left : m3 = offWork m (m2.on (fun c => stepDone c x num))) :
    runFrom x num k.step k.total m = if k.total m3 w3 ≤ w3.step then m3.on (fun c => endWork c x num) else m3 := by
  have there3 : work? m3.core x num = some w3 := by
    rw [left, next_]
    exact (work?_modWork _ _ _ _).trans (congrArg (Option.map _) there2)
  have made' : underTag w.tag (fun m => applyStep m (k.step m w) x num (fun c => stepDone c x num)) m = m3 := by
    rw [left]; exact underTag_of_made made
  have runs3 : active w3 = true := by rw [next_]; exact runs
  split
  · next last => exact runFrom_of_last there due made' there3 runs3 last
  · next more =>
    refine runFrom_of_more there due made' (fun v found ends => more ?_)
    rw [← Option.some.inj (found.symm.trans there3)]
    exact ends.2

end builtIn

/-! ### EXPERT_ROUTE's groups of tokens (R327) -/

/-- A group of tokens is routed; with the last one the work waits for its answers. -/
theorem routeWork_of_made {m m1 m2 : M} {x num : Nat} {w w2 : Work} (there : work? m.core x num = some w) (code : w.opcode = 0x10)
    (runs : w.phase = .running) (started : w.started = true) (due : w.step < routeSteps w) (may : routeMayStep m.core w = true)
    (made : routeStep (asWork m w) w = (m2, .ok ())) (there2 : work? m2.core x num = some w2) (runs2 : w2.phase = .running)
    (left : m1 = offWork m (m2.on (fun c => stepDone c x num))) :
    routeWork x num m = if routeSteps w2 ≤ w2.step + 1 then
      m1.on (fun c => routeCheckEnd (modWork c x num (fun w => { w with phase := .parked .engine })) x num) else m1 := by
  have active_ : active w = true := by rw [active, runs]; rfl
  have there1 : work? m1.core x num = some { w2 with step := w2.step + 1, fetched := [] } := by
    rw [left]
    exact (work?_modWork _ _ _ _).trans (congrArg (Option.map _) there2)
  have active2 : active { w2 with step := w2.step + 1, fetched := [] } = true := by
    simp only [active, runs2, beq_self_eq_true, Bool.true_or]
  have steps : routeSteps { w2 with step := w2.step + 1, fetched := [] } = routeSteps w2 := rfl
  have made' := underTag_of_made (x := x) (num := num) made
  rw [← left] at made'
  simp only [routeWork, there, code, active_, started, ne_eq, not_true_eq_false, Bool.not_true, Bool.false_eq_true, or_self, if_false,
    if_true, Nat.not_le.mpr due, may, made', M.on, there1, active2, steps, Bool.true_and, decide_eq_true_eq]
  split
  · rfl
  · rfl

/-! ### Experts in their order (R323) -/

theorem mem_rankInsert (x y : Nat × FVal) (l : List (Nat × FVal)) : y ∈ rankInsert x l ↔ y = x ∨ y ∈ l := by
  induction l with
  | nil => simp [rankInsert]
  | cons z t ih =>
    rw [rankInsert]
    split
    · exact List.mem_cons
    · rw [List.mem_cons, ih, List.mem_cons]
      exact or_left_comm

theorem mem_foldl_rankInsert (l : List ((MapEnt × FVal) × Nat)) (acc : List (Nat × FVal)) (y : Nat × FVal) :
    y ∈ l.foldl (fun l x => rankInsert (x.2, x.1.2) l) acc ↔ (∃ x ∈ l, y = (x.2, x.1.2)) ∨ y ∈ acc := by
  induction l generalizing acc with
  | nil => simp
  | cons x t ih =>
    rw [List.foldl_cons, ih, mem_rankInsert, or_left_comm, ← or_assoc]
    simp only [List.mem_cons, exists_eq_or_imp]

/-- The experts ranked are those that are not disabled and whose logit is a number. -/
theorem mem_rankExperts (map : List MapEnt) (logits : List FVal) (e : Nat) (l : FVal) : (e, l) ∈ rankExperts map logits ↔
    (∃ y, map[e]? = some y ∧ y.disabled = false) ∧ logits[e]? = some l ∧ l ≠ .nan := by
  rw [rankExperts, mem_foldl_rankInsert]
  constructor
  · rintro (⟨⟨⟨y, l'⟩, e'⟩, inside, same⟩ | none_)
    · obtain ⟨there, keeps⟩ := List.mem_filter.mp inside
      obtain ⟨rfl, rfl⟩ := Prod.mk.inj same
      obtain ⟨found, logit⟩ := List.getElem?_zip_eq_some.mp (List.mem_zipIdx_iff_getElem?.mp there)
      simp only [Bool.and_eq_true, Bool.not_eq_true', decide_eq_true_eq] at keeps
      exact ⟨⟨y, found, keeps.1⟩, logit, keeps.2⟩
    · exact absurd none_ List.not_mem_nil
  · rintro ⟨⟨y, found, enabled⟩, logit, number⟩
    refine .inl ⟨((y, l), e), List.mem_filter.mpr ⟨?_, ?_⟩, rfl⟩
    · exact List.mem_zipIdx_iff_getElem?.mpr (List.getElem?_zip_eq_some.mpr ⟨found, logit⟩)
    · simp [enabled, number]

/-- Two experts: the one of the greater logit first, else the lower number. -/
theorem rankExperts_pair {a b : MapEnt} {x y : FVal} (first : a.disabled = false) (second : b.disabled = false) (x_ : x ≠ .nan)
    (y_ : y ≠ .nan) : rankExperts [a, b] [x, y] = if x.lt y then [(1, y), (0, x)] else [(0, x), (1, y)] := by
  have both : ([a, b].zip [x, y]).zipIdx.filter (fun x => !x.1.1.disabled && x.1.2 ≠ .nan) = [((a, x), 0), ((b, y), 1)] := by
    simp [first, second, x_, y_]
  rw [rankExperts, both]
  simp only [List.foldl_cons, List.foldl_nil, rankInsert]

/-- The `i`-th expert chosen, with its gate (R324). -/
theorem chooseGates_getElem? {d k i : Nat} (mode : Nat) {ranked : List (Nat × FVal)} {e : Nat} {l : FVal} (inside : i < k)
    (there : ranked[i]? = some (e, l)) : (chooseGates d mode k ranked)[i]? = some (e, if mode = 2 then toFp32 l
      else softmaxGate (d + i) ((if mode = 1 then ranked else ranked.take k).map (·.2)) l) := by
  rw [chooseGates, List.getElem?_map, List.getElem?_zipIdx, List.getElem?_take_of_lt inside, there]
  simp only [Option.map_some, Nat.zero_add]

end Sys2Proof.Machine

/-! The parts of EXPERT_ROUTE, EXPERT_FFN and SPMM that put results (R320, R329, R337), CALIBRATE's report and commit (R196 to R200), the
start of RECAST (R202), and the statement about the matrix and calibration works. -/

namespace Sys2Proof.Machine
open Sys2Proof

/-! ### Entries offered to a batch (R328, R329) -/

section offer
variable {m m1 : M} {image : W64} {e : BatchEnt} {cap : Nat} {b : Batch} (capacity : entryCapacity m e.part image = (m1, .ok cap))
  (held : b = (m1.core.work.batches.find? (fun b => b.image == image && b.tick == m1.core.tick)).getD
    { image := image, tick := m1.core.tick, ents := [], fullLogged := false, hdr := none })
include capacity held

theorem offerEntry_of_room (below : b.ents.length < cap) (room : batchRoom m1.core e image = true) :
    offerEntry m image e = (m1.on (fun c => putBatch c image { b with ents := b.ents ++ [e] }), .ok none) := by
  subst held
  simp only [offerEntry, capacity, Nat.not_le.mpr below, room, decide_false, Bool.not_true, Bool.or_self, Bool.false_eq_true, if_false]
  rfl

theorem offerEntry_of_full (full : cap ≤ b.ents.length ∨ batchRoom m1.core e image = false) {c : Core}
    (logged : c = if b.fullLogged then m1.core else raise m1.core .expertBatchFull 10 (ptrExtent image))
    (tick : c.tick = m1.core.tick) :
    offerEntry m image e = (m1.on (fun _ => putBatch c image { b with fullLogged := true }), .ok (some .dropped)) := by
  have refused : (decide (cap ≤ b.ents.length) || !batchRoom m1.core e image) = true := by
    rcases full with many | crowded
    · rw [decide_eq_true many]; rfl
    · rw [crowded]; exact Bool.or_true _
  subst held
  simp only [offerEntry, capacity, refused, if_true, ← logged, putBatch, tick, M.on]

end offer

/-! ### A token of EXPERT_FFN with two images (R320) -/

theorem ffnFinish_of_pair {w : Work} {o : FmtWord} {d tok e f dr : Nat} {imgs : List W64} {c c1 c2 : Core} {b : List Byte}
    {y1 y2 : List FVal} {r : RouteTok} (token : (work? c w.ctx w.num).bind (fun w => amGet? w.route tok) = some r)
    (clean : r.poisoned = false) (rows : r.combine = [(0, y1), (1, y2)]) (two : imgs.length = 2) (apart : imgs[0]? ≠ imgs[1]?)
    (first : bitsOf e 7 0 = 0) (second : bitsOf f 7 0 = 1)
    (drawn : (modWork c w.ctx w.num (fun w => { w with route := amDel w.route tok })).drawN (2 * d * 3) = (c1, dr))
    (row : outRow c1 w o (sumRows dr d [y1.map (mulFp32 (decodeFp32 (bitsOf e 63 32))), y2.map (mulFp32 (decodeFp32 (bitsOf f 63 32)))])
      = (c2, b)) :
    ffnFinish w o d imgs c (tok, [e, f]) =
      counted (setItem (agentWrite c2 w.ctx w.num (w.ptr 0x30 + w64 (tok * rowStride o.fmt d)) b) w.ctx w.num tok 1) w 1 := by
  obtain ⟨p, q, rfl⟩ : ∃ p q, imgs = [p, q] := match imgs, two with
    | [p, q], _ => ⟨p, q, rfl⟩
  have differ : (p == q) = false := beq_false_of_ne fun same => apart (congrArg some same)
  have live : [e, f].filter (fun e => decide (bitsOf e 7 0 ≠ 0xFF)) = [e, f] := by simp [first, second]
  have mine : ((([(0, y1), (1, y2)] : List (Nat × List FVal)).find? (fun x => [p, q].getD x.1 0 == [p, q].getD 0 0)).map (·.2)).getD []
      = y1 := by simp
  have other : ((([(0, y1), (1, y2)] : List (Nat × List FVal)).find? (fun x => [p, q].getD x.1 0 == [p, q].getD 1 0)).map (·.2)).getD []
      = y2 := by simp [differ]
  simp only [ffnFinish, live, List.cons_ne_nil, if_false, token, Option.getD_some, clean, Bool.false_eq_true, rows, List.map_cons,
    List.map_nil, first, second, mine, other, List.length_cons, List.length_nil, Nat.zero_add, Nat.reduceAdd, drawn, row]
  rfl

/-! ### A part of an SPMM result row for an agent (R337) -/

theorem spmmPut_of_agent {m : M} {w : Work} {cf : FmtWord} {rows j lo : Nat} {vals : List (FVal × Bool)} {last : Bool} {c : Core}
    {bits : List Nat} {fl : Flags} (agent : bitOf (w.field 0x34 2) 0 = true)
    (encoded : encodeScalars m.core cf (vals.map (fun v => if v.2 then FVal.zero else v.1)) = (c, bits, fl)) :
    spmmPut m w cf rows j lo vals false last = (m.on (fun _ => agentWrite (addFlags c w.ctx w.num fl) w.ctx w.num
      (w.ptr 0x28 + w64 (j * rowStride cf.fmt rows + elemsBytes cf.fmt lo))
      (packElems cf.fmt bits ++ List.replicate (if last then rowStride cf.fmt rows - elemsBytes cf.fmt rows else 0) 0)), .ok ()) := by
  simp only [spmmPut, agent, if_true, Bool.false_eq_true, if_false, encoded, M.on]

/-! ### CALIBRATE (R196 to R200) -/

/-- A report whose plane can be read, and whose commit meets no other plan. -/
theorem calStep_of_sound {m0 m1 m m2 m3 : M} {w : Work} {tn d : Nat} {t t' : Table} {maxima : List Nat} {c : Core} {clear : Bool}
    (number : tn = w.field 0 2) (there : table? m0.core tn = some t) (may : calAccess m0.core w t = none)
    (clears : clear = bitOf (w.field 2 2) 2)
    (ready : (if clear then readyWrite m0 t.extent t.stats (2 * t.rows) else (m0, none)) = (m1, none))
    (read : readMaxima m1 tn t = (m, .ok maxima)) (agrees : bitOf (w.field 2 2) 0 = false ∨ planConflict w t = false)
    (plan : t' = if bitOf (w.field 2 2) 0 then commitPlan m.core w t else t) (drawn : m.core.draw = (c, d))
    (reported : m2 = m.on (fun _ => agentWrite (setTable c tn (if clear then { t' with
      hist := [], zeros := 0, nonfinite := 0, written := 0, ovf := 0, unf := 0, drops := 0 } else t')) w.ctx w.num (w.ptr 0x18)
      (calReport c (takePlan t') maxima (Config.freeWord d).toNat)))
    (bounded : m3 = stepBoundary (if clear then tblWrite m2 tn t.extent t.stats (List.replicate (2 * t.rows) 0) else m2) tn) :
    calStep m0 w = (m3, .ok ()) := by
  subst number clears
  have sound : (bitOf (w.field 2 2) 0 && planConflict w t) = false := by
    rcases agrees with keeps | free
    · rw [keeps]; rfl
    · rw [free]; exact Bool.and_false _
  simp only [calStep, there, may, ready, read, andThen_ok, sound, Bool.not_false, Bool.and_true, ← plan, drawn, Bool.false_eq_true,
    if_false]
  rw [bounded, reported]
  rfl

/-! ### RECAST (R202, R204) -/

section recast
variable {m : M} {x num : Nat} {w : Work} (there : work? m.core x num = some w) (code : w.opcode = 0x21) (runs : w.phase = .running)
  (unstarted : w.started = false)
include there code runs unstarted

theorem recastWork_of_refused {st : Status} (bad : recastCheck m.core w = some st) :
    recastWork x num m = m.on (fun c => stopWork c x num st) := by
  have active_ : active w = true := by rw [active, runs]; rfl
  simp only [recastWork, there, code, active_, unstarted, bad, ne_eq, not_true_eq_false, Bool.not_true, Bool.false_eq_true, or_self,
    if_false]

theorem recastWork_of_accepted (sound : recastCheck m.core w = none) :
    recastWork x num m = stepBoundary (m.on (fun c => recastStart c w)) (w.field 0 2) := by
  have active_ : active w = true := by rw [active, runs]; rfl
  simp only [recastWork, there, code, active_, unstarted, sound, ne_eq, not_true_eq_false, Bool.not_true, Bool.false_eq_true, or_self,
    if_false]

end recast

theorem recastCheck_of_no_table {c : Core} {w : Work} (none_ : table? c (w.field 0 2) = none) :
    recastCheck c w = some .accessDenied := by simp only [recastCheck, none_]

/-- A committed plan that RECAST `x, num` starts. -/
def recastBy (t : Table) (x num : Nat) : Table :=
  { t with plan := .running, recast := some (x, num), flippedBy := 0, skippedBy := 0, takenBy := 0, stepEnd := t.nextRow }

theorem table?_modTable_self (c : Core) (tn : Nat) (f : Table → Table) : table? (modTable c tn f) tn = (table? c tn).map f :=
  (amGet?_amMod _ _ _ _).trans (if_pos rfl)

theorem table?_recastStart {c : Core} {w : Work} {t : Table} (there : table? c (w.field 0 2) = some t) (plan : t.plan = .committed) :
    table? (recastStart c w) (w.field 0 2) = some (recastBy t w.ctx w.num) := by
  have there' : table? (modWork c w.ctx w.num (fun w => { w with started := true })) (w.field 0 2) = some t := there
  rw [recastStart, table?_modTable_self, there']
  simp only [Option.map_some, plan, reduceCtorEq, if_false, recastBy]

theorem work?_recastStart {c : Core} {w : Work} (there : work? c w.ctx w.num = some w) :
    work? (recastStart c w) w.ctx w.num = some { w with started := true } :=
  (work?_modWork c w.ctx w.num (fun w => { w with started := true })).trans (congrArg (Option.map _) there)

@[simp] theorem work?_modTable (c : Core) (tn : Nat) (f : Table → Table) (x num : Nat) :
    work? (modTable c tn f) x num = work? c x num := rfl

section boundary
variable {m : M} {tn x num : Nat} {t : Table} (there : table? m.core tn = some t) (home : t.stepRows = []) (once : t.again = [])
  (stays : tableLeaving m.core t = false) (owner : t.recast = some (x, num))
include there home once stays owner

/-- A commit that waited replaces the plan, and the RECAST of the old one ends. -/
theorem stepBoundary_of_replaced (waits : t.pend ≠ []) :
    stepBoundary m tn = m.on (fun c => stopWork (modTable c tn (stepEnds t.stepEnd)) x num .versionConflict) := by
  simp only [stepBoundary, there, home, once, stays, owner, waits, ne_eq, not_true_eq_false, not_false_eq_true, if_false, if_true,
    Bool.false_eq_true]
  rfl

variable {w : Work} (kept : t.pend = []) (work : work? m.core x num = some w) (unended : w.status = none)
include kept work unended

/-- After the plan's last row the plan is DONE and its RECAST ends. -/
theorem stepBoundary_of_done (last : t.firstRow + t.rowCount ≤ t.stepEnd) :
    stepBoundary m tn = m.on (fun c => endWork (modTable (modTable c tn (stepEnds t.stepEnd)) tn (fun v => { v with plan := .done }))
      x num) := by
  simp only [stepBoundary, there, home, once, stays, kept, owner, M.on, work?_modTable, work, unended, last, ne_eq, not_true_eq_false,
    if_false, if_true, Bool.false_eq_true, Option.isSome_none, decide_true, Bool.and_self]
  rfl

/-- With rows left to take, the plan's next row advances and nothing ends. -/
theorem stepBoundary_of_more (more : t.stepEnd < t.firstRow + t.rowCount) (may : w.field 8 4 = 0 ∨ t.takenBy < w.field 8 4) :
    stepBoundary m tn = m.on (fun c => modTable c tn (stepEnds t.stepEnd)) := by
  have within : (decide (w.field 8 4 ≠ 0) && decide (w.field 8 4 ≤ t.takenBy)) = false := by
    rw [Bool.and_eq_false_iff, decide_eq_false_iff_not, decide_eq_false_iff_not, Decidable.not_not, Nat.not_le]
    exact may
  simp only [stepBoundary, there, home, once, stays, kept, owner, M.on, work?_modTable, work, unended, Nat.not_le.mpr more, within,
    ne_eq, not_true_eq_false, if_false, Bool.false_eq_true, Option.isSome_none, decide_false, Bool.false_and]
  rfl

end boundary

/-! ### The statement -/

/-- Settles O43: the driver of the built-in works in each of its cases, and the parts of their steps that put results. -/
theorem matrixAndCalibrationWorks : Obligations.MatrixAndCalibrationWorks := by
  unfold Obligations.MatrixAndCalibrationWorks
  refine ⟨?driver, ?route, mem_rankExperts, fun a b x y first second x_ y_ => rankExperts_pair first second x_ y_, ?gates, ?offer, ?ffn,
    ?spmm, ?calibrate, ?recast⟩
  case driver =>
    intro k s x num w kind serves there code runs builtin
    have active_ : active w = true := by rw [active, runs]; rfl
    have comes {m : M} := does_of_builtIn (m := m) kind serves there builtin
    refine ⟨fun m st d unstarted bad => comes (runWork_of_refused (m := s.m) there code active_ unstarted bad),
      fun m p unstarted waits => comes (runWork_of_waiting (m := s.m) there code active_ unstarted waits), ?_⟩
    rintro m w1 m0 begun there1 rfl
    have goes : runWork k.op x num k.check k.start k.step k.total s.m = runFrom x num k.step k.total m := by
      rcases begun with ⟨started, rfl⟩ | ⟨m0, unstarted, sound, rfl⟩
      · exact runWork_of_started (m := s.m) there code active_ started
      · exact runWork_of_start (m := s.m) there code active_ unstarted sound
    refine ⟨fun done => comes (goes.trans (runFrom_of_done there1 done)),
      fun m2 st d due fails stopped => comes (goes.trans (runFrom_of_failed there1 due fails stopped)),
      fun m2 p due waits => comes (goes.trans (runFrom_of_parked there1 due waits)),
      fun m2 m3 w2 w3 due made there2 runs2 next_ left => comes (goes.trans (runFrom_of_made there1 due made there2 runs2 next_ left))⟩
  case route =>
    intro s x num w w2 m m1 serves there code runs started due may made there2 runs2 left
    have routed := routeWork_of_made (m := s.m) there code runs started due may made there2 runs2 left
    exact ⟨fun more => does_of_served rfl serves (routed.trans (if_neg (Nat.not_le.mpr more))),
      fun last => does_of_served rfl serves (routed.trans (if_pos last))⟩
  case gates =>
    intro d k i ranked e l inside there
    exact ⟨chooseGates_getElem? 2 inside there, chooseGates_getElem? 0 inside there, chooseGates_getElem? 1 inside there⟩
  case offer =>
    intro m m1 image e cap b capacity held
    exact ⟨offerEntry_of_room capacity held, fun full c logged tick => offerEntry_of_full capacity held full logged tick⟩
  case ffn =>
    intro w o d tok e f dr imgs c c1 c2 b y1 y2 r token clean rows two apart first second drawn row
    exact ffnFinish_of_pair token clean rows two apart first second drawn row
  case spmm =>
    intro m w cf rows j lo vals last c bits fl agent encoded
    exact spmmPut_of_agent agent encoded
  case calibrate =>
    rintro s x num tn d w t t' m0 m1 m m2 m3 maxima c clear due first number there rfl may clears ready read agrees plan drawn reported
      bounded still
    obtain ⟨rfl, rfl⟩ := due.key
    obtain ⟨v, there2, step_, desc, runs⟩ := still
    have made := calStep_of_sound (m0 := asWork s.m w) number there may clears ready read agrees plan drawn reported bounded
    exact does_of_served rfl due.serves (runWork_made due (first ▸ Nat.zero_lt_one) made there2 runs step_ rfl)
  case recast =>
    rintro s x num tn w t serves there code runs unstarted rfl rfl rfl
    refine ⟨fun st bad => does_of_served rfl serves (recastWork_of_refused (m := s.m) there code runs unstarted bad),
      recastCheck_of_no_table, fun table sound plan home kept once stays unended more => ?_⟩
    have table' := table?_recastStart table plan
    have work' := work?_recastStart there
    refine ⟨table', work', does_of_served rfl serves ?_⟩
    refine (recastWork_of_accepted (m := s.m) there code runs unstarted sound).trans ?_
    exact stepBoundary_of_more (m := s.m.on (fun c => recastStart c w)) table' home once stays rfl kept work' unended more
      ((Nat.eq_zero_or_pos _).imp_right id)

end Sys2Proof.Machine

/-! Tables and recast (chapter 5): definition and deletion, the steps of a recast and its rows' way through the window (R180 to R183,
R192, R204 to R214), and the statement about them. -/

namespace Sys2Proof.Machine
open Sys2Proof

theorem table?_modTable_ne (c : Core) {tn n : Nat} (f : Table → Table) (other : n ≠ tn) : table? (modTable c tn f) n = table? c n :=
  (amGet?_amMod _ _ _ _).trans (if_neg other)

/-! ### Definition and deletion (R180, R183) -/

theorem tableDefine_of_sound {m : M} {src : Src} {d : TableDef} {x : Extent} (sound : ∀ y ∈ tableChecks m.core src d, y.1 = true)
    (there : ext? m.core d.extent = some x) :
    tableDefine src d m = accept (m.on (fun c => setTable c d.table (freshTable d x.partition))) := by
  rw [tableDefine, checked_pass sound]
  simp only [M.on, there, Option.map_some, Option.getD_some]

/-- With no row in its window a table has nothing to carry home. -/
theorem finishRows_of_empty {m : M} {tn : Nat} {t : Table} (there : table? m.core tn = some t) (empty : t.window = []) :
    finishRows m tn = (m, true) := by
  have stands : abandonStep m tn = m := by
    simp only [abandonStep, there, abandonRows, empty, List.filter_nil, List.map_nil, List.foldl_nil]
  simp only [finishRows, stands, there, empty, List.map_nil, List.foldl_nil]

theorem tableDelete_of_idle {m : M} {src : Src} {tn : Nat} {t : Table} (there : table? m.core tn = some t)
    (may : agentMay m.core src t.extent true = true) (idle : t.plan ≠ .running) (empty : t.window = []) :
    tableDelete src tn m = accept (m.on (fun c => dropTable c tn)) := by
  simp only [tableDelete, there]
  rw [checked_pass (List.forall_mem_cons.mpr ⟨may, List.forall_mem_cons.mpr ⟨decide_eq_true idle, by simp⟩⟩)]
  simp only [finishRows_of_empty there empty]

/-! ### A recast step (R204, R214) -/

/-- A row read for recast met poison. -/
def RecRead.isPoison : RecRead → Bool
  | .poison => true
  | _ => false

section step
variable {m m1 m2 : M} {tn ns left x num : Nat} {t : Table} {w : Work} {rows : List Nat} {reads : List (Nat × RecRead)}
  (there : table? m.core tn = some t) (owner : t.recast = some (x, num)) (may : recastMayStep m.core t ns left = true)
  (work : work? m.core x num = some w) (group : rows = stepGroup t (w.field 8 4))
  (ready : readyWrites m t.extent (rows.flatMap (rowRanges t) ++ (t.freeSlots.take rows.length).map (fun k => (slotOff t k, rowSize t))) =
    (m1, none))
  (read : forEach (fun m l r => andThen (recastRead m w tn t r) (fun m y => (m, .ok (l ++ [(r, y)])))) m1 [] rows = (m2, .ok reads))
include there owner may work group ready read

/-- A group that meets poison halts the channel at its first poisoned row. -/
theorem recastStep_of_poison {r : Nat} (met : reads.find? (·.2.isPoison) = some (r, .poison)) :
    recastStep tn ns left m = recastHalt (m2.on (fun c => useSlice c 0 ns)) tn r x num := by
  subst group
  simp only [recastStep, there, owner, may, work, ready, read, Bool.not_true, Bool.false_eq_true, if_false]
  split
  · next y found => rw [Option.some.inj (found.symm.trans met)]
  · next none_ => exact absurd (none_.symm.trans met) (by simp)

/-- A group without poison is prepared, row by row. -/
theorem recastStep_of_clean (clean : ∀ y ∈ reads, y.2 ≠ .poison) :
    recastStep tn ns left m = stepBoundary ((reads.foldl (fun m y => prepareRow m tn y)
      ((m2.on (fun c => useSlice c 0 ns)).on (fun c => modTable c tn (fun t => { t with
        stepOpen := true, again := t.again.filter (fun r => !rows.contains r),
        stepEnd := if t.again = [] then t.nextRow + rows.length else t.stepEnd })))).on (fun c =>
      modWork c x num (fun w => { w with fetched := [] }))) tn := by
  have unmet : reads.find? (·.2.isPoison) = none := List.find?_eq_none.mpr fun y inside bad => clean y inside (by
    revert bad
    cases y.2 with
    | row img top entry => exact fun bad => Bool.noConfusion bad
    | poison => exact fun _ => rfl)
  subst group
  simp only [recastStep, there, owner, may, work, ready, read, Bool.not_true, Bool.false_eq_true, if_false]
  split
  · next y found => exact absurd (found.symm.trans unmet) (by simp)
  · rfl

end step

/-- A halted channel whose table is there stops its RECAST at the poisoned row. -/
theorem recastHalt_of_table {m m1 : M} {tn r x num : Nat} {c : Core} {v : Table} (abandoned : m1 = abandonStep m tn)
    (raised : c = raise (modTable m1.core tn (fun t => { t with plan := .halted, poisonRow := r, again := [] })) .calRecastPoison 9 tn r)
    (there : table? c tn = some v) :
    recastHalt m tn r x num = { m1 with core := stopWork c x num .poisoned (extPtr c v.extent (rowOff v r)) } := by
  subst abandoned raised
  simp only [recastHalt, M.on, there]

/-! ### A row is prepared or skipped (R192, R204) -/

section prepare
variable {m : M} {tn r entry : Nat} {img : RowImg} {rowMax : FVal} {t : Table} {sc : List Nat} (there : table? m.core tn = some t)
  (scales : sc = newScales m.core t img rowMax entry)
include there scales

theorem prepareRow_of_same (same : sc = img.scales) : prepareRow m tn (r, .row img rowMax entry) = m.on (fun c =>
    modTable c tn (fun t => { t with takenBy := t.takenBy + 1, skippedBy := t.skippedBy + 1 })) := by
  simp only [prepareRow, there, ← scales, same, if_true]

theorem prepareRow_of_changed {k d : Nat} {rest : List Nat} {c : Core} {m1 m2 : M} (changed : sc ≠ img.scales)
    (slot : t.freeSlots = k :: rest) (drawn : m.core.drawN (2 * t.rowLen) = (c, d))
    (written : m1 = writeRowWords { m with core := c } tn t (slotOff t k) (rowBytes t (recode t (tblCb c t) img sc d) img.pad)
      (fun _ => true) (fun _ => false))
    (planed : m2 = writeScales m1 tn t (!img.epoch) r sc) :
    prepareRow m tn (r, .row img rowMax entry) = m2.on (fun c => modTable c tn (fun v => { v with
      takenBy := v.takenBy + 1, window := amSet v.window r ⟨.prepared, k⟩, freeSlots := rest, stepRows := v.stepRows ++ [r] })) := by
  subst planed written
  simp only [prepareRow, there, ← scales, changed, if_false, slot, drawn]

end prepare

section scales
variable {c : Core} {t : Table} {img : RowImg} {rowMax : FVal} {entry b k : Nat} (there : img.scales[b]? = some k)
include there

/-- A block whose scale is a NaN keeps it. -/
theorem newScales_of_nan (nan : nanScale (fmtOf t) k = true) : (newScales c t img rowMax entry)[b]? = some k := by
  simp only [newScales, List.getElem?_map, List.getElem?_zipIdx, there, Option.map_some, nan, if_true]

/-- Any other block takes the larger of the scale that fits it and the plan's. -/
theorem newScales_of_number {a : FVal} (number : nanScale (fmtOf t) k = false)
    (most : a = maxMag (((imgValues (fmtOf t) (tblCb c t) img).drop (32 * b)).take 32)) :
    (newScales c t img rowMax entry)[b]? = some (largerScale (fmtOf t) (fitScale (fmtOf t) (tblCb c t) a) (match t.mode with
      | 0 => fitScale (fmtOf t) (tblCb c t) (a.scale (t.headroom : Int))
      | 1 => fitScale (fmtOf t) (tblCb c t) (rowMax.scale (t.headroom : Int))
      | _ => if nanScale (fmtOf t) entry then fitScale (fmtOf t) (tblCb c t) a else entry)) := by
  simp only [newScales, List.getElem?_map, List.getElem?_zipIdx, there, Option.map_some, number, Bool.false_eq_true, if_false, most,
    Nat.zero_add] <;> rfl

end scales

/-! ### A row flips and is carried home (R204, R207) -/

theorem rowFlip_of_prepared {m m0 m1 m2 m3 m4 : M} {tn r k : Nat} {t : Table} {ep bad : Bool} {a b : RowImg}
    (there : table? m.core tn = some t) (row : amGet? t.window r = some ⟨.prepared, k⟩)
    (ready : readyWrites m t.extent [(t.epoch + r / 8, 1)] = (m0, none)) (epoch : readEpoch m0 tn t r = (m1, .ok (ep, bad)))
    (old : readRowAt m1 tn t r none ep = (m2, .ok a)) (new : readRowAt m1 tn t r (some k) (!ep) = (m3, .ok b))
    (flips : m4 = writeEpoch m1 tn t r (!ep)) :
    rowFlip tn r m = m4.on (fun c => modTable ((noteWrite c tn { unf := recastUnf (fmtOf t) (tblCb m1.core t) a b }).count
      CAL_ROWS_FLIPPED) tn (fun v => { v with window := amSet v.window r ⟨.flipped, k⟩, flippedBy := v.flippedBy + 1 })) := by
  subst flips
  simp only [rowFlip, there, row, ready, epoch, flipUnf, old, new]

/-- The copy-back of a FLIPPED row starts. -/
theorem table?_copyBackStart {m : M} {tn r k : Nat} {t : Table} (there : table? m.core tn = some t)
    (row : amGet? t.window r = some ⟨.flipped, k⟩) :
    table? (copyBackStart tn r m).core tn = some { t with window := amSet t.window r ⟨.copying, k⟩ } := by
  refine (table?_modTable_self _ _ _).trans ?_
  rw [there, Option.map_some, row]

/-- A row that was being copied leaves the window, and its slot is held. -/
theorem rowHome_of_copied {m2 m3 : M} {tn r k : Nat} {v : Table} (after : table? m2.core tn = some v)
    (row : amGet? v.window r = some ⟨.copying, k⟩) (unqueued : v.mq.filter (·.row == r) = [])
    (left : m3 = m2.on (fun c => modTable c tn (fun t => { t with
      window := amDel t.window r, stepRows := t.stepRows.filter (· != r), again := t.again, freeSlots := t.freeSlots,
      heldSlots := t.heldSlots ++ [k] }))) :
    rowHome m2 tn r true = m3 := by
  have there3 : table? m3.core tn = some { v with
      window := amDel v.window r, stepRows := v.stepRows.filter (· != r), again := v.again, freeSlots := v.freeSlots,
      heldSlots := v.heldSlots ++ [k] } := by
    rw [left]
    exact (table?_modTable_self _ _ _).trans (congrArg (Option.map _) after)
  have quiet : replayRow m3 tn r = m3 := by simp only [replayRow, there3, unqueued, replayAll]
  simp only [rowHome, after, Option.bind_some, row, reduceCtorEq, if_false, if_true]
  rw [← left]
  exact quiet

section home
variable {m m0 m1 m2 m3 : M} {tn r k : Nat} {t v : Table} {b : List Byte} {p : List Bool} (there : table? m.core tn = some t)
  (row : amGet? t.window r = some ⟨.copying, k⟩) (ready : readyWrites m t.extent [(rowOff t r, rowSize t)] = (m0, none))
  (read : tblRead m0 tn t.extent (slotOff t k) (rowSize t) = (m1, .ok (b, p)))
  (written : m2 = writeRowWords (movedOnly m0.core m1) tn t (rowOff t r) b (fun _ => true) (fun i => p.getD i false))
include there row ready read written

/-- The slot's bytes reach the row's home, with the poison they are read with. -/
theorem copyHome_of_read : copyHome m tn r = (m2, some (p.any id)) := by
  subst written
  simp only [copyHome, there, Option.bind_some, row, Option.map_some, ready, read]

variable (after : table? m2.core tn = some v) (window : v.window = t.window) (unqueued : v.mq.filter (·.row == r) = [])
  (left : m3 = m2.on (fun c => modTable c tn (fun t => { t with
    window := amDel t.window r, stepRows := t.stepRows.filter (· != r), again := t.again, freeSlots := t.freeSlots,
    heldSlots := t.heldSlots ++ [k] })))
include after window unqueued left

theorem copyBackDone_of_clean (clean : p.any id = false ∨ t.recast = none) : copyBackDone tn r m = stepBoundary m3 tn := by
  have copied := copyHome_of_read there row ready read written
  have home := rowHome_of_copied after (window ▸ row) unqueued left
  simp only [copyBackDone, there, Option.bind_some, row, copied, home]
  rcases clean with sound | unowned
  · simp only [sound]
  · rw [unowned]
    cases p.any id <;> rfl

theorem copyBackDone_of_poison {x num : Nat} (bad : p.any id = true) (owner : t.recast = some (x, num)) :
    copyBackDone tn r m = stepBoundary (recastHalt m3 tn r x num) tn := by
  have copied := copyHome_of_read there row ready read written
  have home := rowHome_of_copied after (window ▸ row) unqueued left
  simp only [copyBackDone, there, Option.bind_some, row, copied, home, bad, owner]

end home

/-- A held slot is free once the reads through it have retired. -/
theorem table?_shadowSlotFree {m : M} {tn k : Nat} {t : Table} (there : table? m.core tn = some t)
    (held : t.heldSlots.contains k = true) : table? (shadowSlotFree tn k m).core tn =
      some { t with heldSlots := t.heldSlots.filter (· != k), freeSlots := t.freeSlots ++ [k] } := by
  refine (table?_modTable_self _ _ _).trans ?_
  rw [there, Option.map_some, if_pos held]

/-! ### The plan that waits (R191, R196) -/

theorem takePlan_of_last {t : Table} {p : PlanSet} {l : List PlanSet} (waits : t.pend = l ++ [p]) :
    takePlan t = { t with
      plan := .committed, planNo := (t.planNo + (l.length + 1)) % 2 ^ 32, mode := p.mode, headroom := p.headroom, planRound := p.round,
      firstRow := p.firstRow, rowCount := p.rowCount, planPtr := p.ptr, nextRow := p.firstRow,
      stepEnd := p.firstRow, again := [], pend := [] } := by
  simp only [takePlan, waits, List.getLast?_append, List.getLast?_singleton, Option.some_or, List.length_append, List.length_singleton]

/-! ### The statement -/

/-- Settles O44: each clause is the command's meaning in the case that its hypotheses choose. -/
theorem tablesAndRecast : Obligations.TablesAndRecast := by
  unfold Obligations.TablesAndRecast
  refine ⟨?define, ?delete, ?step, ?prepare, ?scales, ?flip, ?start, ?done, ?free, ?boundary, ?plan⟩
  case define =>
    rintro s src d m x asks sound there
    exact does_of_run rfl (mgmt_answered asks (tableDefine_of_sound sound there))
  case delete =>
    rintro s src tn m t asks there may idle empty
    exact does_of_run rfl (mgmt_answered asks (tableDelete_of_idle there may idle empty))
  case step =>
    rintro s tn ns left x num t w rows m1 m2 m3 reads serves there owner may work group ready read rfl
    refine ⟨fun r c m5 met abandoned raised v after => ?_, fun m4 clean opened => ?_⟩
    · refine does_of_served rfl serves ?_
      exact (recastStep_of_poison (m := s.m) there owner may work group ready read met).trans
        (recastHalt_of_table abandoned raised after)
    · subst opened
      exact does_of_served rfl serves (recastStep_of_clean (m := s.m) there owner may work group ready read clean)
  case prepare =>
    intro m tn r entry img rowMax t sc there scales
    exact ⟨prepareRow_of_same there scales,
      fun k rest c d m1 m2 changed slot drawn written planed => prepareRow_of_changed there scales changed slot drawn written planed⟩
  case scales =>
    intro c t img rowMax entry b k there
    refine ⟨newScales_of_nan there, ?_⟩
    rintro a f cb number rfl rfl most
    have new := newScales_of_number (rowMax := rowMax) (entry := entry) there number most
    refine ⟨fun mode => ?_, fun mode => ?_, fun mode sound => ?_⟩
    · simp only [new, mode]
    · simp only [new, mode]
    · simp only [new, mode, sound, Bool.false_eq_true, if_false]
  case flip =>
    intro s tn r k t ep bad a b m0 m1 m2 m3 m4 serves there row ready epoch old new flips
    exact does_of_served rfl serves (rowFlip_of_prepared (m := s.m) there row ready epoch old new flips)
  case start =>
    intro s tn r k t serves there row
    exact ⟨_, _, does_of_served rfl serves rfl, rfl, table?_copyBackStart (m := s.m) there row,
      fun n other => table?_modTable_ne _ _ other⟩
  case done =>
    intro s tn r k t m0 m1 b p serves there row ready read m2 m3 v written after window unqueued left
    exact ⟨fun clean => does_of_served rfl serves
        (copyBackDone_of_clean (m := s.m) there row ready read written after window unqueued left clean),
      fun x num bad owner => does_of_served rfl serves
        (copyBackDone_of_poison (m := s.m) there row ready read written after window unqueued left bad owner)⟩
  case free =>
    intro s tn k t serves there held
    exact ⟨_, _, does_of_served rfl serves rfl, rfl, table?_shadowSlotFree (m := s.m) there held,
      fun n other => table?_modTable_ne _ _ other⟩
  case boundary =>
    intro m tn x num t w there home owner once stays
    refine ⟨stepBoundary_of_replaced there home once stays owner, fun kept _ work unended => ⟨?_, ?_⟩⟩
    · exact stepBoundary_of_done there home once stays owner kept work unended
    · exact stepBoundary_of_more there home once stays owner kept work unended
  case plan =>
    intro t p l waits
    rw [takePlan_of_last waits]
    exact ⟨rfl, rfl, rfl, rfl, rfl, rfl, rfl⟩

end Sys2Proof.Machine

/-! Expert batches (chapter 8): a token group is computed and its entries answered, and answers of other chips reach their tokens (R330 to
R332, R334, R338); and the statement about them. -/

namespace Sys2Proof.Machine
open Sys2Proof

/-! ### A token group starts (R330) -/

section start
variable {m : M} {image : W64} {t : Nat} {b : Batch} {es : List BatchEnt}
  (there : m.core.work.batches.find? (fun b => b.image == image && b.tick == t) = some b) (group : es = tokenGroup b) (some_ : es ≠ [])
  (due : t < m.core.tick) (turn : batchTurn m.core b = true) (share : shareLeft m.core b = true)
include there group some_ due turn share

/-- A partition without engines answers every entry of the batch FORMAT_UNSUPPORTED. -/
theorem batchStart_of_no_engine (none_ : enginesOf m.core (batchPart b) = []) : batchStart image t m = m.on (fun c =>
    b.ents.foldl (fun c e => answerEntry c e (.failed .formatUnsupported)) (takeEntries c b b.ents)) := by
  subst group
  simp only [batchStart, there, some_, Nat.not_le.mpr due, turn, share, Bool.not_true, Bool.false_eq_true, or_self, if_false, none_,
    if_true]

variable {n : Nat} (engine : (enginesOf m.core (batchPart b)).filter (engineFree m.core) = [n]) {c0 : Core}
  (starts : c0 = groupStarts m.core image t b n)
include engine starts

/-- An image that the partition may not read fails the group. -/
theorem batchStart_of_fault {st : Status} (fault : ptrCheck c0 (batchPart b) image 256 true false = some st) :
    batchStart image t m = m.on (fun _ =>
      es.foldl (fun c e => answerEntry c e (.failed st)) (takeEntries c0 b es)) := by
  have engines : enginesOf m.core (batchPart b) ≠ [] := fun none_ => by simp [none_] at engine
  have chosen : m.core.choose [n].length = (m.core, 0) := if_pos (Nat.le_refl 1)
  subst group starts
  rw [groupStarts] at fault ⊢
  simp only [batchStart, there, some_, Nat.not_le.mpr due, turn, share, Bool.not_true, Bool.false_eq_true, or_self, if_false, engines,
    engine, chosen, List.getD_cons_zero, fault, M.on]

/-- A group whose image's header is at hand is computed: each entry gets its gated vector, or says why it has none. -/
theorem batchStart_of_computed {hb : List Byte} {ih : ImgHdr} {c : Core} {m1 : M} {ys : List FfnOut} {fb : FirstBad} {right : List BatchEnt}
    {fenced : Bool} (may : ptrCheck c0 (batchPart b) image 256 true false = none) (header : b.hdr = some hb)
    (known : c = setBatch c0 image t (fun y => { y with hdr := some hb })) (parsed : parseImage c image hb = some ih)
    (fits : right = es.filter (fun e => e.elems.length == ih.d))
    (fed : feedForward { m with core := setEng c n { freshEngine with errTicks := (eng c n).errTicks } } n (ptrExtent image % 4)
      (batchPart b) ih ((es.head?.map (·.quant)).getD 0) (right.map (blocksOf ((es.head?.map (·.quant)).getD 0))) = (m1, .ok (ys, fb)))
    (cut : fenced = bitOf (m1.core.fld GLB_FENCED GLB_FENCED_ENGINES) n) :
    batchStart image t m = m1.on (fun c => (right.zip ys).foldl (fun c y => answerEntry c y.1
        (if fenced then .failed .internalFault else if y.2.poison then .failed .poisoned
         else .values (y.2.vals.map (mulFp32 (decodeFp32 y.1.gate))) y.2.flags))
        ((es.filter (fun e => e.elems.length ≠ ih.d)).foldl (fun c e => answerEntry c e (.failed .badDescriptor))
          (takeEntries c b es))) := by
  have engines : enginesOf m.core (batchPart b) ≠ [] := fun none_ => by simp [none_] at engine
  have chosen : m.core.choose [n].length = (m.core, 0) := if_pos (Nat.le_refl 1)
  subst group starts known fits cut
  simp only [groupStarts] at may parsed fed ⊢
  simp only [batchStart, there, some_, Nat.not_le.mpr due, turn, share, Bool.not_true, Bool.false_eq_true, or_self, if_false, engines,
    engine, chosen, List.getD_cons_zero, may, header, M.on, List.any_nil, parsed, fed]

end start

/-! ### Answers (R331, R332, R334) -/

/-- The values of an entry go to the chip that it came from, on the route to it. -/
theorem answerEntry_of_values {c : Core} {e : BatchEnt} {r : Route} {dir : Nat} (far : e.fromChip ≠ c.chipId)
    (route : routeTo c e.fromChip = some r) (way : r.prefer = some dir) (y : List FVal) (fl : Flags) :
    answerEntry c e (.values y fl) = c.send
      { dst := .dir dir, type := 0x75, cls := 1, ctx := 0xFFFF, work := none, tag := e.own,
        body := [e.fromChip, e.tag, e.part, 0, fl.sat, fl.nonfin], data := y.flatMap (fun v => natLe 4 (fp32Bits v)) } := by
  simp only [answerEntry, far, if_false, route, Option.bind_some, way]

/-- What a contribution of a code says of its entry. -/
def contributed (code sat nonfin : Nat) (d : List Byte) : EntryAns :=
  match code with
  | 0 => .values ((List.range (d.length / 4)).map (fun i => decodeFp32 (leNat ((d.drop (4 * i)).take 4)))) { sat := sat, nonfin := nonfin }
  | 1 => .dropped
  | k => .failed (statusOfCode (k - 2))

theorem contributed_of_failed {code : Nat} (fails : 2 ≤ code) (sat nonfin : Nat) (d : List Byte) :
    contributed code sat nonfin d = .failed (statusOfCode (code - 2)) := by
  match code, fails with
  | k + 2, _ => rfl

/-- An answer under an entry's op tag reaches its slot, and the tag retires. -/
theorem contribution_of_fwd {c : Core} {tag : Nat} {f : Fwd} (there : c.ring.fwds.find? (fun f => f.tag == tag && f.kind == 3) = some f)
    (ans : EntryAns) : contribution tag ans c =
      contribute (dropFwd c tag) f.who.1 f.who.2.1 (f.who.2.2 / 8) (f.who.2.2 % 8) ans := by
  simp only [contribution, there, dropFwd]

theorem expertContribution_of_whole {c c1 c2 : Core} {p : Pkt} {tag code sat nonfin ss len : Nat} {data d : List Byte} {f : Fwd}
    (serves : inService c = true) (ring : ringPort p.port = true) (lands : landPkt c { p with cls := 1 } = (c1, some ss))
    (whole : assemble c1 ss p.xid p.msgOff len (((c1.ring.fwds.find? (fun f => f.tag == tag && f.kind == 3)).map (·.part)).getD 16) data =
      (c2, some d)) (there : c2.ring.fwds.find? (fun f => f.tag == tag && f.kind == 3) = some f) :
    expertContribution p tag code sat nonfin len data c =
      contribute (dropFwd c2 tag) f.who.1 f.who.2.1 (f.who.2.2 / 8) (f.who.2.2 % 8) (contributed code sat nonfin d) := by
  rw [← contribution_of_fwd there]
  simp only [expertContribution, serves, ring, Bool.not_true, Bool.or_self, Bool.false_eq_true, if_false, lands, whole]
  rfl

theorem entryTimeout_of_late {c : Core} {tag : Nat} {f : Fwd} (there : c.ring.fwds.find? (fun f => f.tag == tag && f.kind == 3) = some f)
    (late : f.sentTick + 3 < c.tick) : entryTimeout tag c =
      contribute (dropFwd c tag) f.who.1 f.who.2.1 (f.who.2.2 / 8) (f.who.2.2 % 8) (.failed .linkLost) := by
  rw [← contribution_of_fwd there]
  simp only [entryTimeout, there, Nat.not_le.mpr late, if_false]

/-! ### A token's slots (R331, R338) -/

/-- Token `tok` of a route. -/
def token? (c : Core) (x num tok : Nat) : Option RouteTok := (work? c x num).bind (fun w => amGet? w.route tok)

theorem token?_modWork {f : Work → Work} (keeps : ∀ v, (f v).route = v.route) (c : Core) (x num tok : Nat) :
    token? (modWork c x num f) x num tok = token? c x num tok := by
  rw [token?, work?_modWork, token?]
  cases work? c x num with
  | none => rfl
  | some v => exact congrArg (amGet? · tok) (keeps v)

theorem token?_addFlags (c : Core) (x num tok : Nat) (f : Flags) : token? (addFlags c x num f) x num tok = token? c x num tok := by
  refine (token?_modWork (fun _ => by rfl) _ _ _ _).trans ?_
  simp only [token?, work?, ctxCount_work]

theorem route_overrideStatus (st : Status) (w : Work) : (overrideStatus st w).route = w.route := by
  rw [overrideStatus]; split <;> rfl

theorem token?_noteFail (c : Core) (x num tok : Nat) (st : Status) (d : W64) :
    token? (noteFail c x num st d) x num tok = token? c x num tok := by
  refine token?_modWork (fun v => ?_) _ _ _ _
  split
  · split
    · exact route_overrideStatus st v
    · rfl
  · rfl

theorem token?_modTok {c : Core} {w : Work} {tok : Nat} {r : RouteTok} (there : work? c w.ctx w.num = some w)
    (token : amGet? w.route tok = some r) (f : RouteTok → RouteTok) : token? (modTok c w tok f) w.ctx w.num tok = some (f r) := by
  rw [token?, modTok, work?_modWork, there]
  simp only [Option.map_some, Option.bind_some, amGet?_amSet_self, token, Option.getD_some]

/-- Token `r` with its answer in slot `slot`: how the assignment ended, and what it adds to combine. -/
def answered (slot : Nat) (st : AssignSt) (more : List (Nat × List FVal)) : RouteTok → RouteTok := fun r =>
  { r with assigns := listMod r.assigns slot (fun a => { a with st := st, out := false }), combine := r.combine ++ more }

/-- Another slot is still awaited, so that the token is not finished. -/
theorem undecided_of_other {r : RouteTok} {slot i : Nat} {a : Assign} (other : i ≠ slot) (there : r.assigns[i]? = some a)
    (out : a.out = true) (st : AssignSt) (more : List (Nat × List FVal)) :
    (answered slot st more r).assigns.all assignDecided = false := by
  have still : (answered slot st more r).assigns[i]? = some a := by
    simp only [answered, listMod, List.getElem?_modify, there, if_neg (Ne.symm other), Option.map_eq_map, Option.map_some]
  refine List.all_eq_false.mpr ⟨a, List.mem_of_getElem? still, ?_⟩
  simp [assignDecided, out]

section slot
variable {c : Core} {tok slot i : Nat} {w : Work} {r : RouteTok} {a a2 : Assign} (there : work? c w.ctx w.num = some w)
  (live : liveWork w = true) (code : w.opcode = 0x10) (token : amGet? w.route tok = some r) (open_ : r.done = false)
  (mine : r.assigns[slot]? = some a) (awaited : a.out = true) (other : i ≠ slot) (second : r.assigns[i]? = some a2) (out : a2.out = true)
include there live code token open_ mine awaited other second out

/-- The values of an entry join its token's combine; with another entry awaited, the token waits on. -/
theorem contribute_of_values (y : List FVal) (fl : Flags) : contribute c w.ctx w.num tok slot (.values y fl) =
    routeCheckEnd (addFlags (modTok c w tok (answered slot .computed [(slot, y)])) w.ctx w.num fl) w.ctx w.num := by
  have waits : (token? (addFlags (modTok c w tok (answered slot .computed [(slot, y)])) w.ctx w.num fl) w.ctx w.num tok).map
      (fun r => r.assigns.all assignDecided) = some false := by
    rw [token?_addFlags, token?_modTok there token, Option.map_some, undecided_of_other other second out]
  unfold token? answered at waits
  unfold answered
  simp only [contribute, there, token, live, code, open_, mine, awaited, Option.map_some, Option.getD_some, ne_eq, not_true_eq_false,
    decide_false, Bool.not_true, Bool.or_self, Bool.false_eq_true, if_false, waits, Option.some.injEq]

/-- A failed entry fails its assignment and is noted; with another entry awaited, the token waits on. -/
theorem contribute_of_failed {st : Status} (unrevoked : st ≠ .keyRevoked) : contribute c w.ctx w.num tok slot (.failed st) =
    routeCheckEnd (noteFail (modTok c w tok (answered slot .failed [])) w.ctx w.num st 0) w.ctx w.num := by
  have waits : (token? (noteFail (modTok c w tok (answered slot .failed [])) w.ctx w.num st 0) w.ctx w.num tok).map
      (fun r => r.assigns.all assignDecided) = some false := by
    rw [token?_noteFail, token?_modTok there token, Option.map_some, undecided_of_other other second out]
  unfold token? answered at waits
  unfold answered
  simp only [contribute, there, token, live, code, open_, mine, awaited, Option.map_some, Option.getD_some, ne_eq, not_true_eq_false,
    decide_false, Bool.not_true, Bool.or_self, Bool.false_eq_true, if_false, unrevoked, waits, Option.some.injEq]

end slot

/-! ### The statement -/

/-- Settles O45: each clause is the command's meaning in the case that its hypotheses choose. -/
theorem expertBatches : Obligations.ExpertBatches := by
  unfold Obligations.ExpertBatches
  refine ⟨?start, ?answer, ?contribution, ?timeout, ?cancel, ?slot⟩
  case start =>
    intro s image t b es serves there group some_ due turn share
    refine ⟨fun none_ => ?_, fun n st c engine starts fault => ?_, fun n hb ih c0 c m1 ys fb right fenced engine starts may header known
      parsed fits fed cut => ?_⟩
    · exact does_of_served rfl serves (batchStart_of_no_engine (m := s.m) there group some_ due turn share none_)
    · exact does_of_served rfl serves (batchStart_of_fault (m := s.m) there group some_ due turn share engine starts fault)
    · exact does_of_served rfl serves (batchStart_of_computed (m := s.m) there group some_ due turn share engine starts may header known
        parsed fits fed cut)
  case answer =>
    rintro c e y fl r dir far route way o rfl
    exact answerEntry_of_values far route way y fl
  case contribution =>
    rintro s p tag code sat nonfin ss len data d c c1 f serves ring lands whole there c2 rfl
    have comes := expertContribution_of_whole (code := code) (sat := sat) (nonfin := nonfin) serves ring lands whole there
    refine ⟨?_, ?_, fun fails => ?_⟩
    · rintro rfl
      exact doesTo_of_core rfl comes
    · rintro rfl
      exact doesTo_of_core rfl comes
    · rw [contributed_of_failed fails] at comes
      exact doesTo_of_core rfl comes
  case timeout =>
    intro s tag f serves there late
    exact does_of_servedCore rfl serves (entryTimeout_of_late there late)
  case cancel =>
    rintro s chip x num gone c serves rfl rfl
    exact does_of_servedCore rfl serves rfl
  case slot =>
    rintro c x num tok slot w r a a2 y fl there rfl rfl live code token open_ mine awaited ⟨i, other, second⟩ out
    exact ⟨contribute_of_values there live code token open_ mine awaited other second out y fl,
      fun st unrevoked => contribute_of_failed there live code token open_ mine awaited other second out unrevoked⟩

end Sys2Proof.Machine

/-! The queues of a pseudo-channel (chapter 15): what writing them leaves alone, their entries, the choice of a burst and its issue. -/

namespace Sys2Proof.Machine
open Sys2Proof

/-! ### What a change of the queues leaves alone -/

/-- A field that shows the greatest use so far. -/
def peaked (c : Core) (a : Nat) (f : Fld) (n : Nat) : Core := if c.fld a f < n then c.setFld a f n else c

section peaked
variable (c : Core) (a : Nat) (f : Fld) (n : Nat)

theorem peaked_mem : (peaked c a f n).mem = c.mem := by
  unfold peaked
  split
  · exact Core.setFld_mem _ _ _ _
  · rfl

theorem peaked_glb : (peaked c a f n).glb = c.glb := by
  unfold peaked
  split
  · exact Core.setFld_glb _ _ _ _
  · rfl

theorem rget_peaked_ne {b : Nat} (other : b ≠ a) : (peaked c a f n).rget b = c.rget b := by
  unfold peaked
  split
  · exact c.rget_setFld_ne _ _ other
  · rfl

end peaked

section queues
variable (c : Core) (k : Nat) (q : PcQueue)

theorem setPcQ_eq : setPcQ c k q =
    peaked (peaked (((({ c with mem := { c.mem with pcs := amPut freshPc c.mem.pcs k q } } : Core).setFld (pcA MEM_PC_STATUS k)
      MEM_PC_STATUS_RD_USED q.reads.length).setFld (pcA MEM_PC_STATUS k) MEM_PC_STATUS_WR_USED q.writes.length).setFld
      (pcA MEM_PC_STATUS k) MEM_PC_STATUS_TRACKED q.tracker.length) (pcA MEM_PC_PEAK k) MEM_PC_PEAK_RD_PEAK q.reads.length)
      (pcA MEM_PC_PEAK k) MEM_PC_PEAK_WR_PEAK q.writes.length := rfl

@[simp] theorem setPcQ_mem : (setPcQ c k q).mem = { c.mem with pcs := amPut freshPc c.mem.pcs k q } := by
  rw [setPcQ_eq, peaked_mem, peaked_mem, Core.setFld_mem, Core.setFld_mem, Core.setFld_mem]

@[simp] theorem setPcQ_glb : (setPcQ c k q).glb = c.glb := by
  rw [setPcQ_eq, peaked_glb, peaked_glb, Core.setFld_glb, Core.setFld_glb, Core.setFld_glb]

@[simp] theorem pcQ_setPcQ : pcQ (setPcQ c k q) k = q := by rw [pcQ, setPcQ_mem]; exact amGet_amPut_self _ _ _ _

theorem rget_setPcQ_ne {a : Nat} (status : a ≠ pcA MEM_PC_STATUS k) (peak : a ≠ pcA MEM_PC_PEAK k) :
    (setPcQ c k q).rget a = c.rget a := by
  rw [setPcQ_eq, rget_peaked_ne _ _ _ _ peak, rget_peaked_ne _ _ _ _ peak, Core.rget_setFld_ne _ _ _ status,
    Core.rget_setFld_ne _ _ _ status, Core.rget_setFld_ne _ _ _ status]
  exact Core.rget_congr (by rfl) a

theorem fld_setPcQ_ne {a : Nat} (status : a ≠ pcA MEM_PC_STATUS k) (peak : a ≠ pcA MEM_PC_PEAK k) (g : Fld) :
    (setPcQ c k q).fld a g = c.fld a g := Core.fld_congr (rget_setPcQ_ne c k q status peak) g

theorem status_ne_peak : pcA MEM_PC_STATUS k ≠ pcA MEM_PC_PEAK k := by
  simp only [pcA, pcReg, MEM_PC_STATUS, MEM_PC_PEAK]
  omega

/-- A stack's register is none of a pseudo-channel's. -/
theorem stA_ne_pcA {a b : Nat} (stackWide : a < 0x1000) (channel : 0x1000 ≤ b) (below : b < 0x2000) :
    stA (fun x y => 0x100000 + a + 0x40000 * x + 0x4000 * y) k ≠
      pcA (fun x y z => 0x100000 + b + 0x40000 * x + 0x4000 * y + 0x40 * z) k := by
  simp only [stA, pcA, pcReg, stackReg]
  omega

@[simp] theorem pcMode_setPcQ : pcMode (setPcQ c k q) k = pcMode c k := by
  have entered : ∀ (d : Core) (f : Fld) (n : Nat), pcMode (peaked d (pcA MEM_PC_PEAK k) f n) k = pcMode d k := fun d f n =>
    Core.fld_congr (rget_peaked_ne d _ f n (status_ne_peak k)) _
  have shown : ∀ (d : Core) (f : Fld) (n : Nat), f.lo ≤ f.hi → f.hi < 64 → 1 < f.lo →
      pcMode (d.setFld (pcA MEM_PC_STATUS k) f n) k = pcMode d k := fun d f n ordered inside above =>
    d.fld_setFld_other _ f _ n ordered inside (Nat.zero_le 1) (.inr above)
  rw [setPcQ_eq, entered, entered, shown _ _ _ (by decide) (by decide) (by decide), shown _ _ _ (by decide) (by decide) (by decide),
    shown _ _ _ (by decide) (by decide) (by decide)]
  exact Core.fld_congr (Core.rget_congr (by rfl) _) _

end queues

theorem pcQ_congr {c d : Core} (same : d.mem.pcs = c.mem.pcs) (k : Nat) : pcQ d k = pcQ c k := by rw [pcQ, pcQ, same]

section mode
variable (c : Core) (k : Nat)

@[simp] theorem modeCheck_mem : (modeCheck c k).mem = c.mem := by
  unfold modeCheck
  split
  · dsimp only
    split
    · exact (Core.perf_mem _ _ _).trans (Core.setFld_mem _ _ _ _)
    · rfl
  · dsimp only
    split <;> rfl
  · rfl

@[simp] theorem modeCheck_glb : (modeCheck c k).glb = c.glb := by
  unfold modeCheck
  split
  · dsimp only
    split
    · exact (Core.perf_glb _ _ _).trans (Core.setFld_glb _ _ _ _)
    · rfl
  · dsimp only
    split <;> rfl
  · rfl

theorem rget_modeCheck_ne {a : Nat} (status : a ≠ pcA MEM_PC_STATUS k) (drains : a ≠ stA MEM_DRAINS k) :
    (modeCheck c k).rget a = c.rget a := by
  unfold modeCheck
  split
  · dsimp only
    split
    · rw [Core.rget_perf_ne _ _ drains, setMode, Core.rget_setFld_ne _ _ _ status]
    · rfl
  · dsimp only
    split
    · exact Core.rget_setFld_ne _ _ _ status
    · rfl
  · rfl

theorem status_ne_drains : pcA MEM_PC_STATUS k ≠ stA MEM_DRAINS k := by
  simp only [pcA, stA, pcReg, stackReg, MEM_PC_STATUS, MEM_DRAINS]
  omega

/-- A queue of writes that is high, or holds one that has aged, is drained. -/
theorem modeCheck_of_due {c : Core} {k : Nat} (normal : pcMode c k = 0)
    (due : c.fld (stA MEM_CTRL k) MEM_CTRL_WR_HIGH ≤ (pcQ c k).writes.length ∨ aged c k = true) :
    modeCheck c k = (setMode c k 1).perf (stA MEM_DRAINS k) := by
  have drains : (decide (c.fld (stA MEM_CTRL k) MEM_CTRL_WR_HIGH ≤ (pcQ c k).writes.length) || aged c k) = true := by
    rcases due with high | old
    · rw [decide_eq_true high]; rfl
    · rw [old]; exact Bool.or_true _
  simp only [modeCheck, normal, drains, if_true]

theorem pcMode_drain : pcMode ((setMode c k 1).perf (stA MEM_DRAINS k)) k = 1 := by
  rw [pcMode, Core.fld_perf_ne _ _ _ (status_ne_drains k), setMode, Core.fld_setFld_self _ _ _ _ (by decide) (by decide)]
  rfl

end mode

/-! ### Write-backs that are dropped -/

section dropped
variable (c : Core) (w : Nat)

@[simp] theorem dropWb_pcs : (dropWb c w).mem.pcs = c.mem.pcs := by unfold dropWb; split <;> rfl

@[simp] theorem rget_dropWb (a : Nat) : (dropWb c w).rget a = c.rget a := by unfold dropWb; split <;> rfl

theorem fld_dropWb (a : Nat) (g : Fld) : (dropWb c w).fld a g = c.fld a g := Core.fld_congr (rget_dropWb c w a) g

theorem pcMode_dropWb (k : Nat) : pcMode (dropWb c w) k = pcMode c k := fld_dropWb c w _ _

theorem flag_dropWb (a : Nat) (g : Fld) : (dropWb c w).flag a g = c.flag a g := by simp only [Core.flag, fld_dropWb]

theorem pcQ_dropWb (k : Nat) : pcQ (dropWb c w) k = pcQ c k := pcQ_congr (dropWb_pcs c w) k

end dropped

/-- With no flip armed a word is stored as it is. -/
theorem writeWord_of_unarmed {m : M} (unarmed : m.core.flag ECC_FLIP_CTRL ECC_FLIP_CTRL_ARMED = false) (w : Nat) (d : List Byte) :
    writeWord m w d false = { core := dropWb (dropWb m.core w) (burstMate w), mem := m.mem.setWord w d 0 } := by
  have still : (dropWb (dropWb m.core w) (burstMate w)).flag ECC_FLIP_CTRL ECC_FLIP_CTRL_ARMED = false := by
    rw [flag_dropWb, flag_dropWb, unarmed]
  have missed : flipHits (dropWb (dropWb m.core w) (burstMate w)) 0 (physStack w) (physAddr w) = false := by
    rw [flipHits, still]; rfl
  simp only [writeWord, Bool.false_eq_true, if_false, Bool.not_false, Bool.true_and, missed]

/-! ### Entries (R541, R543, R546 to R548) -/

/-- The queues with a write more. -/
def withWrite (q : PcQueue) (bank row col : Nat) (hk : Bool) (now : Nat) : PcQueue :=
  { q with
    writes := q.writes ++ [⟨q.nextOrder, bank, row, col, hk, now,
      q.tracker.any (fun t => t.bank == bank && t.row == row) || decide (q.tracker.length < 16)⟩]
    tracker := if q.tracker.any (fun t => t.bank == bank && t.row == row) then
        q.tracker.map (fun t => if t.bank = bank ∧ t.row = row then { t with writes := t.writes + 1 } else t)
      else if q.tracker.length < 16 then q.tracker ++ [⟨bank, row, 1⟩] else q.tracker
    nextOrder := q.nextOrder + 1 }

theorem enterWrite_eq (m : M) (k bank row col : Nat) (d0 d1 : List Byte) (hk : Bool) :
    enterWrite m k bank row col (some d0) (some d1) hk =
      (writeWord (writeWord (m.on (fun c => modeCheck (setPcQ c k (withWrite (pcQ m.core k) bank row col hk m.core.glb.now)) k))
        (physWord (k / 32) (k % 32) bank row col 0) d0 false) (physWord (k / 32) (k % 32) bank row col 0 + 1) d1 false).on
      (fun c => dropWb (dropWb c (physWord (k / 32) (k % 32) bank row col 0)) (physWord (k / 32) (k % 32) bank row col 0 + 1)) := by
  unfold enterWrite withWrite
  dsimp only

/-- A write enters with both words of its burst, and write-backs of them are dropped. -/
theorem enterWrite_of_unarmed {m : M} {k bank row col : Nat} {hk : Bool} {d0 d1 : List Byte} {c : Core} {w : Nat}
    (entered : c = modeCheck (setPcQ m.core k (withWrite (pcQ m.core k) bank row col hk m.core.glb.now)) k)
    (unarmed : c.flag ECC_FLIP_CTRL ECC_FLIP_CTRL_ARMED = false) (word : w = physWord (k / 32) (k % 32) bank row col 0) :
    enterWrite m k bank row col (some d0) (some d1) hk =
      { core := dropWb (dropWb (dropWb (dropWb (dropWb (dropWb c w) (burstMate w)) (w + 1)) (burstMate (w + 1))) w) (w + 1),
        mem := (m.mem.setWord w d0 0).setWord (w + 1) d1 0 } := by
  have still : (dropWb (dropWb c w) (burstMate w)).flag ECC_FLIP_CTRL ECC_FLIP_CTRL_ARMED = false := by
    rw [flag_dropWb, flag_dropWb, unarmed]
  have first := writeWord_of_unarmed (m := { core := c, mem := m.mem }) unarmed w d0
  have second := writeWord_of_unarmed (m := { core := dropWb (dropWb c w) (burstMate w), mem := m.mem.setWord w d0 0 }) still (w + 1) d1
  rw [enterWrite_eq, M.on, M.on, ← entered, ← word, first, second]

/-- The queues with a read more. -/
def withRead (q : PcQueue) (bank row col : Nat) (hk scrub : Bool) : PcQueue :=
  { q with
    reads := q.reads ++ [⟨q.nextOrder, bank, row, col, hk, scrub⟩]
    nextOrder := q.nextOrder + 1
    inOrder := if q.tracker.any (fun t => t.bank == bank && t.row == row) then amSet q.inOrder bank q.nextOrder else q.inOrder }

theorem pcQ_enterRead (c : Core) (k bank row col : Nat) (hk scrub : Bool) :
    pcQ (enterRead c k bank row col hk scrub) k = withRead (pcQ c k) bank row col hk scrub := by
  have kept : ∀ (p : Bool) (d : Core) (a : Nat), pcQ (if p then d.perf a else d) k = pcQ d k := fun p d a => by
    split
    · exact pcQ_congr (congrArg MemSt.pcs (Core.perf_mem d a 1)) k
    · rfl
  unfold enterRead
  dsimp only
  rw [kept, kept, pcQ_setPcQ, withRead]
  split <;> rfl

/-- The only request at the port enters when an entry is free for it. -/
theorem fillQueues_of_one {m : M} {k : Nat} {x : PortReq} (one : (pcQ m.core k).port = [x])
    (free : (if x.write then entryFree ((pcQ m.core k).writes.map (·.hk)) x.hk
      else entryFree ((pcQ m.core k).reads.map (·.hk)) x.hk) = true) :
    fillQueues 1 k m = if x.write then
        enterWrite (m.on (fun c => setPcQ c k { pcQ m.core k with port := [] })) k x.bank x.row x.col x.word0 x.word1 x.hk
      else (m.on (fun c => setPcQ c k { pcQ m.core k with port := [] })).on (fun c => enterRead c k x.bank x.row x.col x.hk x.scrub) := by
  simp only [fillQueues, one, List.findIdx?_cons, free, if_true, List.getElem?_cons_zero]
  rfl

theorem entryFree_map {α : Type} (l : List α) (f : α → Bool) (hk : Bool) (some_ : l.length < 64)
    (share : hk = true ∨ (l.filter (fun x => !f x)).length < 56) : entryFree (l.map f) hk = true := by
  have count : ((l.map f).filter (!·)).length = (l.filter (fun x => !f x)).length := by
    rw [List.filter_map, List.length_map]
    rfl
  rw [entryFree, List.length_map, count, Bool.and_eq_true, Bool.or_eq_true, decide_eq_true_eq, decide_eq_true_eq]
  exact ⟨some_, share⟩

/-! ### The choice among bursts (R544) -/

theorem oldestCand_spec {l : List Cand} {x : Cand} (picked : oldestCand l = some x) : x ∈ l ∧ ∀ y ∈ l, x.order ≤ y.order := by
  induction l generalizing x with
  | nil => exact nomatch picked
  | cons h t ih =>
    rw [oldestCand] at picked
    cases rest : oldestCand t with
    | none =>
      rw [rest] at picked
      obtain rfl := Option.some.inj picked
      have none_ : t = [] := by
        cases t with
        | nil => rfl
        | cons a u =>
          rw [oldestCand] at rest
          split at rest <;> exact nomatch rest
      subst none_
      exact ⟨List.mem_cons_self, fun y inside => List.mem_singleton.mp inside ▸ Nat.le_refl _⟩
    | some z =>
      rw [rest] at picked
      obtain ⟨inside, least⟩ := ih rest
      obtain rfl := Option.some.inj picked
      split
      · next below =>
        refine ⟨List.mem_cons_self, fun y there => ?_⟩
        rcases List.mem_cons.mp there with rfl | later
        · exact Nat.le_refl _
        · exact Nat.le_trans (Nat.le_of_lt below) (least y later)
      · next above =>
        refine ⟨List.mem_cons_of_mem _ inside, fun y there => ?_⟩
        rcases List.mem_cons.mp there with rfl | later
        · exact Nat.not_lt.mp above
        · exact least y later

theorem oldestCand_isSome {l : List Cand} {x : Cand} (inside : x ∈ l) : oldestCand l ≠ none := by
  cases l with
  | nil => exact absurd inside List.not_mem_nil
  | cons h t =>
    rw [oldestCand]
    split <;> exact nofun

/-- Open rows first, then the oldest. -/
theorem pickCand_spec {q : PcQueue} {l : List Cand} {x : Cand} (picked : pickCand q l = some x) : x ∈ l ∧
    ((∃ y ∈ l, isOpen q y.bank y.row = true) → isOpen q x.bank x.row = true) ∧
    ∀ y ∈ l, isOpen q y.bank y.row = isOpen q x.bank x.row → x.order ≤ y.order := by
  rw [pickCand] at picked
  split at picked
  · next z first =>
    obtain rfl := Option.some.inj picked
    obtain ⟨inside, least⟩ := oldestCand_spec first
    obtain ⟨member, opened⟩ := List.mem_filter.mp inside
    exact ⟨member, fun _ => opened, fun y there same => least y (List.mem_filter.mpr ⟨there, same.trans opened⟩)⟩
  · next closed =>
    obtain ⟨inside, least⟩ := oldestCand_spec picked
    refine ⟨inside, fun ⟨y, there, opened⟩ => ?_, fun y there _ => least y there⟩
    exact absurd closed (oldestCand_isSome (List.mem_filter.mpr ⟨there, opened⟩))

/-! ### Issue (R549, R552) -/

/-- Queues with the same entries. -/
def SameEntries (q v : PcQueue) : Prop := v.reads = q.reads ∧ v.writes = q.writes

theorem SameEntries.refl (q : PcQueue) : SameEntries q q := ⟨rfl, rfl⟩

theorem SameEntries.trans {q v u : PcQueue} (first : SameEntries q v) (second : SameEntries v u) : SameEntries q u :=
  ⟨second.1.trans first.1, second.2.trans first.2⟩

theorem pcQ_doNeighbour (c : Core) (k bank : Nat) : pcQ (doNeighbour c k bank) k = { pcQ c k with
    refreshEnd := amSet (pcQ c k).refreshEnd bank (c.glb.now + 130), openRow := amDel (pcQ c k).openRow bank,
    refreshes := (pcQ c k).refreshes + 1 } := by
  unfold doNeighbour
  exact (pcQ_congr (congrArg MemSt.pcs (Core.perf_mem _ _ _)) k).trans (pcQ_setPcQ _ _ _)

theorem pcQ_addNeighbour_of_room {c : Core} {k : Nat} (room : (pcQ c k).neighbour.length < 8) (bank row : Nat) :
    pcQ (addNeighbour k bank c row) k = { pcQ c k with neighbour := (pcQ c k).neighbour ++ [(bank, row)] } := by
  rw [addNeighbour]
  dsimp only
  rw [if_pos room, pcQ_setPcQ]

theorem sameEntries_addNeighbour (c : Core) (k bank row : Nat) : SameEntries (pcQ c k) (pcQ (addNeighbour k bank c row) k) := by
  unfold addNeighbour
  dsimp only
  split
  · rw [pcQ_setPcQ]; exact ⟨rfl, rfl⟩
  · split
    · rw [pcQ_doNeighbour, pcQ_setPcQ]; exact ⟨rfl, rfl⟩
    · exact SameEntries.refl _

/-- The neighbours of a row. -/
def neighbours (row : Nat) : List Nat := (if row = 0 then [] else [row - 1]) ++ (if row + 1 < 49152 then [row + 1] else [])

theorem neighbours_length (row : Nat) : (neighbours row).length ≤ 2 := by
  unfold neighbours
  split <;> split <;> simp

theorem sameEntries_addNeighbours (k bank : Nat) (rows : List Nat) (c : Core) :
    SameEntries (pcQ c k) (pcQ (rows.foldl (addNeighbour k bank) c) k) := by
  induction rows generalizing c with
  | nil => exact SameEntries.refl _
  | cons r t ih => exact (sameEntries_addNeighbour c k bank r).trans (ih _)

/-- Neighbours that find room close no row. -/
theorem openRow_addNeighbours (k bank : Nat) (rows : List Nat) (c : Core) (room : (pcQ c k).neighbour.length + rows.length ≤ 8) :
    (pcQ (rows.foldl (addNeighbour k bank) c) k).openRow = (pcQ c k).openRow := by
  induction rows generalizing c with
  | nil => rfl
  | cons r t ih =>
    rw [List.length_cons] at room
    have joined := pcQ_addNeighbour_of_room (c := c) (k := k) (by omega) bank r
    rw [List.foldl_cons, ih _ (by rw [joined, List.length_append, List.length_singleton]; omega), joined]

/-- The queues with a row open. -/
def withOpen (q : PcQueue) (bank row now : Nat) : PcQueue :=
  { q with openRow := amSet q.openRow bank row, nextAct := amSet q.nextAct bank (now + 45) }

/-- An activate opens its row, and may add neighbours. -/
theorem activate_cases (c : Core) (k bank row : Nat) : ∃ d : Core, pcQ d k = withOpen (pcQ c k) bank row c.glb.now ∧
    (activate c k bank row = d ∨ activate c k bank row = (neighbours row).foldl (addNeighbour k bank) d) := by
  generalize made : activate c k bank row = a
  unfold activate at made
  extract_lets q again v e at made
  have opened : pcQ e.draw.1 k = withOpen (pcQ c k) bank row c.glb.now :=
    (pcQ_congr (congrArg MemSt.pcs ((Core.draw_mem e).trans (Core.perf_mem (setPcQ c k v) _ _))) k).trans (pcQ_setPcQ c k v)
  clear_value e
  refine ⟨e.draw.1, opened, ?_⟩
  generalize e.draw = p at made ⊢
  obtain ⟨d, n⟩ := p
  dsimp only at made
  split at made
  · exact .inl made.symm
  · exact .inr made.symm

theorem sameEntries_activate (c : Core) (k bank row : Nat) : SameEntries (pcQ c k) (pcQ (activate c k bank row) k) := by
  obtain ⟨d, opened, plain | disturbed⟩ := activate_cases c k bank row
  · rw [plain, opened]
    exact ⟨rfl, rfl⟩
  · rw [disturbed]
    refine SameEntries.trans ?_ (sameEntries_addNeighbours k bank _ d)
    rw [opened]
    exact ⟨rfl, rfl⟩

theorem isOpen_activate {c : Core} {k : Nat} (room : (pcQ c k).neighbour.length ≤ 6) (bank row : Nat) :
    isOpen (pcQ (activate c k bank row) k) bank row = true := by
  obtain ⟨d, opened, activated⟩ := activate_cases c k bank row
  have rows : (pcQ (activate c k bank row) k).openRow = amSet (pcQ c k).openRow bank row := by
    rcases activated with plain | disturbed
    · rw [plain, opened]; rfl
    · have short := neighbours_length row
      rw [disturbed, openRow_addNeighbours, opened]
      · rfl
      · rw [opened]
        exact Nat.le_trans (Nat.add_le_add room short) (Nat.le_refl 8)
  rw [isOpen, rows, amGet?_amSet_self]
  exact beq_self_eq_true _

end Sys2Proof.Machine

/-! A burst issues and the queues fill again (R544 to R550), and the statement about the memory queues. -/

namespace Sys2Proof.Machine
open Sys2Proof

/-! ### A burst issues -/

/-- The chip once a burst has left the queues: counts, the row that opens, the cycles for which reads were held, and the mode. -/
def issued (q : PcQueue) (x : Cand) (opened held : Bool) (k : Nat) (c : Core) : Core :=
  let c := setPcQ c k q
  let c := c.perf (if x.write then stA MEM_WR_BURSTS k else stA MEM_RD_BURSTS k)
  let c := if opened then c.perf (stA MEM_ROW_HITS k) else activate c k x.bank x.row
  let c := if held then let (c, d) := c.draw; c.perf (pcA MEM_PC_HOLD_CYCLES k) (Config.choice d) else c
  modeCheck c k

/-- The row's own step: it is open, or is opened. -/
def rowStep (x : Cand) (opened : Bool) (k : Nat) (c : Core) : Core :=
  if opened then c.perf (stA MEM_ROW_HITS k) else activate c k x.bank x.row

theorem pcQ_issued (q : PcQueue) (x : Cand) (opened held : Bool) (k : Nat) (c : Core) : ∃ d : Core, pcQ d k = q ∧
    pcQ (issued q x opened held k c) k = pcQ (rowStep x opened k d) k := by
  refine ⟨(setPcQ c k q).perf (if x.write then stA MEM_WR_BURSTS k else stA MEM_RD_BURSTS k),
    (pcQ_congr (congrArg MemSt.pcs (Core.perf_mem _ _ _)) k).trans (pcQ_setPcQ c k q), ?_⟩
  have kept : ∀ e : Core, pcQ (modeCheck (if held then (e.draw.1.perf (pcA MEM_PC_HOLD_CYCLES k) (Config.choice e.draw.2)) else e) k) k =
      pcQ e k := fun e => by
    refine pcQ_congr (congrArg MemSt.pcs ((modeCheck_mem _ _).trans ?_)) k
    split
    · exact (Core.perf_mem _ _ _).trans (Core.draw_mem e)
    · rfl
  exact kept _

/-- The entries are those left, and the row of the burst is open unless its neighbours found no room. -/
theorem pcQ_rowStep {q : PcQueue} {x : Cand} {opened : Bool} {k : Nat} {d : Core} (there : pcQ d k = q) :
    SameEntries q (pcQ (rowStep x opened k d) k) ∧
    ((opened = true → isOpen q x.bank x.row = true) → q.neighbour.length ≤ 6 →
      isOpen (pcQ (rowStep x opened k d) k) x.bank x.row = true) := by
  subst there
  cases opened with
  | true =>
    have same : pcQ (rowStep x true k d) k = pcQ d k := pcQ_congr (congrArg MemSt.pcs (Core.perf_mem d _ _)) k
    rw [same]
    exact ⟨SameEntries.refl _, fun opens _ => opens rfl⟩
  | false => exact ⟨sameEntries_activate d k x.bank x.row, fun _ room => isOpen_activate room x.bank x.row⟩

/-- The words of a burst are read as their checks give them. -/
def burstReads (x : Cand) (w : Nat) (demand : Bool) (m : M) : M :=
  if x.write then m else (readHeld (readHeld m w demand).1 (w + 1) demand).1

section burst
variable {m m1 : M} {n pc time k : Nat} (inside : n < 16) (channel : pc < 32) (key : k = pcKey n pc)
  (on_ : stackOn (m.core.at time) n = true)
  (normal : pcMode (m.core.at time) k ≠ 2) (ahead : m1 = m.on (fun c => issueNeighbours (c.at time) k))
include inside channel key on_ normal ahead

theorem burstIssue_of_none (none_ : nextBurst m1.core k = none) : burstIssue n pc time m = m1 := by
  obtain ⟨awake, sound⟩ := (Bool.and_eq_true _ _).mp on_
  rw [beq_iff_eq] at awake
  rw [Bool.not_eq_true'] at sound
  subst key ahead
  simp only [M.on] at none_
  simp only [burstIssue, M.on, Nat.not_le.mpr inside, Nat.not_le.mpr channel, awake, sound, normal, none_, decide_false, ne_eq,
    not_true_eq_false, Bool.or_self, Bool.false_eq_true, if_false]

/-- The burst chosen leaves its queue. -/
theorem burstIssue_of_some {x : Cand} (chosen : nextBurst m1.core k = some x) : ∃ (q : PcQueue) (held demand : Bool),
    q.reads = (pcQ m1.core k).reads.filter (·.order != x.order) ∧ q.writes = (pcQ m1.core k).writes.filter (·.order != x.order) ∧
    q.openRow = (pcQ m1.core k).openRow ∧ q.neighbour = (pcQ m1.core k).neighbour ∧
    burstIssue n pc time m = fillQueues 128 k (burstReads x (physWord n pc x.bank x.row x.col 0) demand
      (m1.on (issued q x (isOpen (pcQ m1.core k) x.bank x.row) held k))) := by
  obtain ⟨awake, sound⟩ := (Bool.and_eq_true _ _).mp on_
  rw [beq_iff_eq] at awake
  rw [Bool.not_eq_true'] at sound
  subst key
  have guard : (decide (16 ≤ n) || decide (32 ≤ pc) || decide (stackState (m.core.at time) n ≠ 2) || stackBad (m.core.at time) n ||
      decide (pcMode (m.core.at time) (pcKey n pc) = 2)) ≠ true := by
    simp [inside, channel, awake, sound, normal]
  generalize made : burstIssue n pc time m = r
  unfold burstIssue at made
  extract_lets m0 kk m1' q wasHeld at made
  replace made := (if_neg guard).symm.trans made
  have same : m1' = m1 := ahead.symm
  have entries : q = pcQ m1.core (pcKey n pc) := congrArg (fun m => pcQ m.core (pcKey n pc)) same
  have channel_ : kk = pcKey n pc := rfl
  clear_value m1' kk q wasHeld
  subst same channel_ entries
  split at made
  · next none_ => exact absurd (none_.symm.trans chosen) (by simp)
  next y found =>
  obtain rfl := Option.some.inj (found.symm.trans chosen)
  extract_lets opened older streak isScrub waited dec tracked tracker v freed m2 w m3 at made
  exact ⟨v, waited || freed, !isScrub, rfl, rfl, rfl, rfl, made.symm⟩

end burst

/-! ### Requests at the armature port (R541, R543, R547) -/

/-- The chip when request `x` has passed through the empty port of its pseudo-channel. -/
def ported (c : Core) (k : Nat) (q : PcQueue) (x : PortReq) : Core := setPcQ (setPcQ c k { q with port := [x] }) k q

section ported
variable (c : Core) (k : Nat) (q : PcQueue) (x : PortReq)

theorem pcQ_ported : pcQ (ported c k q x) k = q := pcQ_setPcQ _ _ _

theorem ported_glb : (ported c k q x).glb = c.glb := (setPcQ_glb _ _ _).trans (setPcQ_glb _ _ _)

theorem pcMode_ported : pcMode (ported c k q x) k = pcMode c k := (pcMode_setPcQ _ _ _).trans (pcMode_setPcQ _ _ _)

theorem fld_ported_ne {a : Nat} (status : a ≠ pcA MEM_PC_STATUS k) (peak : a ≠ pcA MEM_PC_PEAK k) (g : Fld) :
    (ported c k q x).fld a g = c.fld a g := (fld_setPcQ_ne _ _ _ status peak g).trans (fld_setPcQ_ne _ _ _ status peak g)

end ported

/-- A request that finds an entry free passes through the port. -/
theorem fillQueues_of_request {m : M} {k : Nat} {q : PcQueue} {x : PortReq} (empty : q.port = [])
    (free : (if x.write then entryFree (q.writes.map (·.hk)) x.hk else entryFree (q.reads.map (·.hk)) x.hk) = true) :
    fillQueues 1 k (m.on (fun c => setPcQ c k { q with port := q.port ++ [x] })) = if x.write then
        enterWrite { core := ported m.core k q x, mem := m.mem } k x.bank x.row x.col x.word0 x.word1 x.hk
      else { core := enterRead (ported m.core k q x) k x.bank x.row x.col x.hk x.scrub, mem := m.mem } := by
  have passed : ({ q with port := [] } : PcQueue) = q := by rw [← empty]
  obtain ⟨m1, arrives⟩ : ∃ m1, m.on (fun c => setPcQ c k { q with port := [x] }) = m1 := ⟨_, rfl⟩
  have core : m1.core = setPcQ m.core k { q with port := [x] } := by rw [← arrives]; exact M.on_core m _
  have mem : m1.mem = m.mem := by rw [← arrives]; exact M.on_mem m _
  have arrived : pcQ m1.core k = { q with port := [x] } := by rw [core, pcQ_setPcQ]
  have moved := fillQueues_of_one (m := m1) (k := k) (x := x) (by rw [arrived]) (by rw [arrived]; exact free)
  have left : m1.on (fun c => setPcQ c k { pcQ m1.core k with port := [] }) = { core := ported m.core k q x, mem := m.mem } := by
    rw [arrived, M.on, mem, core]
    exact congrArg (fun v => ({ core := setPcQ (setPcQ m.core k { q with port := [x] }) k v, mem := m.mem } : M)) passed
  rw [empty, List.nil_append, arrives, moved, left, M.on]

section request
variable {m : M} {n pc bank row col k : Nat} {q : PcQueue} {hk : Bool} (fits : burstOk n pc bank row col = true)
  (key : k = pcKey n pc)
include fits key

/-- A write that finds an entry free enters its queue. -/
theorem writeQueueEntry_of_room {time : Nat} (w0 w1 : Option (List Byte)) (takes : stackTakes (m.core.at time) n = true)
    (serves : inService (m.core.at time) = true) (there : q = pcQ (m.core.at time) k) (empty : q.port = [])
    (room : q.writes.length < 64) (share : hk = true ∨ (q.writes.filter (fun w => !w.hk)).length < 56) : ∃ x : PortReq,
    writeQueueEntry n pc bank row col w0 w1 hk time m =
      enterWrite { core := ported (m.core.at time) k q x, mem := m.mem } k bank row col w0 w1 hk := by
  subst key
  refine ⟨⟨true, bank, row, col, hk, false, w0, w1⟩, ?_⟩
  have moved := fillQueues_of_request (m := m.on (·.at time)) (k := pcKey n pc)
    (x := ⟨true, bank, row, col, hk, false, w0, w1⟩) empty (entryFree_map q.writes (·.hk) hk room share)
  have guard : ¬((!burstOk n pc bank row col || !stackTakes (m.core.at time) n || !inService (m.core.at time)) = true) := by
    rw [fits, takes, serves]; exact Bool.false_ne_true
  rw [there] at moved ⊢
  exact (if_neg guard).trans moved

/-- A read that finds an entry free enters its queue. -/
theorem readQueueEntry_of_room {scrub : Bool} (takes : stackTakes m.core n = true) (serves : inService m.core = true)
    (there : q = pcQ m.core k) (empty : q.port = []) (room : q.reads.length < 64)
    (share : hk = true ∨ (q.reads.filter (fun r => !r.hk)).length < 56) : ∃ x : PortReq,
    readQueueEntry n pc bank row col hk scrub m =
      { core := enterRead (ported m.core k q x) k bank row col (hk || scrub) scrub, mem := m.mem } := by
  subst key
  refine ⟨⟨false, bank, row, col, hk || scrub, scrub, none, none⟩, ?_⟩
  have moved := fillQueues_of_request (m := m) (k := pcKey n pc) (x := ⟨false, bank, row, col, hk || scrub, scrub, none, none⟩) empty
    (entryFree_map q.reads (·.hk) (hk || scrub) room (share.imp_left (fun own => by rw [own]; rfl)))
  have guard : ¬((!burstOk n pc bank row col || !stackTakes m.core n || !inService m.core) = true) := by
    rw [fits, takes, serves]; exact Bool.false_ne_true
  rw [there] at moved ⊢
  exact (if_neg guard).trans moved

end request

theorem pcKey_div {n pc : Nat} (channel : pc < 32) : pcKey n pc / 32 = n := by rw [pcKey]; omega
theorem pcKey_mod {n pc : Nat} (channel : pc < 32) : pcKey n pc % 32 = pc := by rw [pcKey]; omega

/-- A new row finds its entry of the tracker. -/
theorem withWrite_tracker_of_new {q : PcQueue} {bank row : Nat} (new : ∀ t ∈ q.tracker, t.bank ≠ bank ∨ t.row ≠ row)
    (room : q.tracker.length < 16) (col : Nat) (hk : Bool) (now : Nat) :
    (withWrite q bank row col hk now).tracker = q.tracker ++ [⟨bank, row, 1⟩] := by
  have unseen : ¬(q.tracker.any (fun t => t.bank == bank && t.row == row) = true) := by
    simp only [List.any_eq_true, not_exists, not_and, Bool.and_eq_true, beq_iff_eq]
    exact fun t inside same other => (new t inside).elim (fun apart => apart same) (fun apart => apart other)
  rw [withWrite]
  dsimp only
  rw [if_neg unseen, if_pos room]

theorem withRead_inOrder_of_tracked {q : PcQueue} {bank row : Nat} (hit : ∃ t ∈ q.tracker, t.bank = bank ∧ t.row = row) (col : Nat)
    (hk scrub : Bool) : amGet? (withRead q bank row col hk scrub).inOrder bank = some q.nextOrder := by
  have seen : q.tracker.any (fun t => t.bank == bank && t.row == row) = true := by
    obtain ⟨t, inside, rfl, rfl⟩ := hit
    exact List.any_eq_true.mpr ⟨t, inside, by simp⟩
  rw [withRead]
  dsimp only
  rw [if_pos seen, amGet?_amSet_self]

theorem withRead_inOrder_of_new {q : PcQueue} {bank row : Nat} (new : ∀ t ∈ q.tracker, t.bank ≠ bank ∨ t.row ≠ row) (col : Nat)
    (hk scrub : Bool) : (withRead q bank row col hk scrub).inOrder = q.inOrder := by
  have unseen : ¬(q.tracker.any (fun t => t.bank == bank && t.row == row) = true) := by
    simp only [List.any_eq_true, not_exists, not_and, Bool.and_eq_true, beq_iff_eq]
    exact fun t inside same other => (new t inside).elim (fun apart => apart same) (fun apart => apart other)
  rw [withRead]
  dsimp only
  rw [if_neg unseen]

/-- A write that enters with no flip armed: what the chip and the memory are. -/
theorem enterWrite_spec {m : M} {k bank row col w : Nat} {q : PcQueue} {hk : Bool} (d0 d1 : List Byte)
    (word : w = physWord (k / 32) (k % 32) bank row col 0) (there : pcQ m.core k = q)
    (unarmed : m.core.flag ECC_FLIP_CTRL ECC_FLIP_CTRL_ARMED = false) : ∃ c : Core,
    enterWrite m k bank row col (some d0) (some d1) hk = { core := c, mem := (m.mem.setWord w d0 0).setWord (w + 1) d1 0 } ∧
    pcQ c k = withWrite q bank row col hk m.core.glb.now ∧
    (pcMode m.core k = 0 → m.core.fld (stA MEM_CTRL k) MEM_CTRL_WR_HIGH ≤ q.writes.length + 1 → pcMode c k = 1) := by
  obtain ⟨c1, queued⟩ : ∃ c1, c1 = setPcQ m.core k (withWrite q bank row col hk m.core.glb.now) := ⟨_, rfl⟩
  obtain ⟨c2, checked⟩ : ∃ c2, c2 = modeCheck c1 k := ⟨_, rfl⟩
  have queue : pcQ c1 k = withWrite q bank row col hk m.core.glb.now := by rw [queued, pcQ_setPcQ]
  have armed : c2.flag ECC_FLIP_CTRL ECC_FLIP_CTRL_ARMED = m.core.flag ECC_FLIP_CTRL ECC_FLIP_CTRL_ARMED := by
    have status : ECC_FLIP_CTRL ≠ pcA MEM_PC_STATUS k := by
      simp only [pcA, pcReg, MEM_PC_STATUS, ECC_FLIP_CTRL]; omega
    have peak : ECC_FLIP_CTRL ≠ pcA MEM_PC_PEAK k := by
      simp only [pcA, pcReg, MEM_PC_PEAK, ECC_FLIP_CTRL]; omega
    have drains : ECC_FLIP_CTRL ≠ stA MEM_DRAINS k := by
      simp only [stA, stackReg, MEM_DRAINS, ECC_FLIP_CTRL]; omega
    rw [Core.flag, Core.flag, Core.fld_congr ((congrArg (Core.rget · _) checked).trans (rget_modeCheck_ne c1 k status drains)),
      queued, fld_setPcQ_ne _ _ _ status peak]
  refine ⟨_, enterWrite_of_unarmed (by rw [there, ← queued]; exact checked) (armed.trans unarmed) word, ?_, fun normal high => ?_⟩
  · rw [pcQ_dropWb, pcQ_dropWb, pcQ_dropWb, pcQ_dropWb, pcQ_dropWb, pcQ_dropWb, checked,
      pcQ_congr (congrArg MemSt.pcs (modeCheck_mem c1 k)), queue]
  · have status : stA MEM_CTRL k ≠ pcA MEM_PC_STATUS k := by
      simp only [pcA, pcReg, stA, stackReg, MEM_PC_STATUS, MEM_CTRL]; omega
    have peak : stA MEM_CTRL k ≠ pcA MEM_PC_PEAK k := by
      simp only [pcA, pcReg, stA, stackReg, MEM_PC_PEAK, MEM_CTRL]; omega
    have due : c1.fld (stA MEM_CTRL k) MEM_CTRL_WR_HIGH ≤ (pcQ c1 k).writes.length := by
      rw [queue, queued, fld_setPcQ_ne _ _ _ status peak, withWrite, List.length_append, List.length_singleton]
      exact high
    rw [pcMode_dropWb, pcMode_dropWb, pcMode_dropWb, pcMode_dropWb, pcMode_dropWb, pcMode_dropWb, checked,
      modeCheck_of_due (by rw [queued, pcMode_setPcQ, normal]) (.inl due), pcMode_drain]

/-! ### The statement -/

/-- Settles O46: each clause is the command's meaning in the case that its hypotheses choose. -/
theorem memoryQueues : Obligations.MemoryQueues := by
  unfold Obligations.MemoryQueues
  refine ⟨?write, ?read, ?burst, fun q l x picked => pickCand_spec picked, ?age, ?refresh⟩
  case write =>
    intro s n pc bank row col time k d0 d1 hk q fits takes serves key there empty room share unarmed
    have channel : pc < 32 := by
      simp only [burstOk, Bool.and_eq_true, decide_eq_true_eq] at fits
      exact fits.1.1.1.2
    obtain ⟨x, enters⟩ := writeQueueEntry_of_room (m := s.m) (time := time) fits key (some d0) (some d1) takes serves there empty room share
    obtain ⟨c1, passed⟩ : ∃ c1, c1 = ported (s.core.at time) k q x := ⟨_, rfl⟩
    have entries : pcQ c1 k = q := by rw [passed, pcQ_ported]
    have now : c1.glb.now = max s.core.glb.now time := by rw [passed, ported_glb]; rfl
    have normal : pcMode c1 k = pcMode s.core k := by rw [passed, pcMode_ported]; rfl
    have flip : c1.flag ECC_FLIP_CTRL ECC_FLIP_CTRL_ARMED = false := by
      refine Eq.trans ?_ unarmed
      have status : ECC_FLIP_CTRL ≠ pcA MEM_PC_STATUS k := by
        simp only [pcA, pcReg, MEM_PC_STATUS, ECC_FLIP_CTRL]; omega
      have peak : ECC_FLIP_CTRL ≠ pcA MEM_PC_PEAK k := by
        simp only [pcA, pcReg, MEM_PC_PEAK, ECC_FLIP_CTRL]; omega
      rw [Core.flag, passed, fld_ported_ne _ _ _ _ status peak]
      rfl
    have level : c1.fld (stA MEM_CTRL k) MEM_CTRL_WR_HIGH = s.core.fld (stA MEM_CTRL k) MEM_CTRL_WR_HIGH := by
      have status : stA MEM_CTRL k ≠ pcA MEM_PC_STATUS k := by
        simp only [pcA, pcReg, stA, stackReg, MEM_PC_STATUS, MEM_CTRL]; omega
      have peak : stA MEM_CTRL k ≠ pcA MEM_PC_PEAK k := by
        simp only [pcA, pcReg, stA, stackReg, MEM_PC_PEAK, MEM_CTRL]; omega
      rw [passed, fld_ported_ne _ _ _ _ status peak]
      rfl
    obtain ⟨c, made, queue, drains⟩ := enterWrite_spec (m := { core := c1, mem := s.mem }) (k := k) (bank := bank) (row := row)
      (col := col) (hk := hk) d0 d1 rfl entries flip
    refine ⟨_, does_of_run rfl (enters.trans ((congrArg (fun c => enterWrite { core := c, mem := s.mem } k bank row col (some d0)
      (some d1) hk) passed.symm).trans made)), ?_, ?_, ?_, ?_, ?_, ?_⟩
    · rw [key, pcKey_div channel, pcKey_mod channel]
    · rintro e rfl
      rw [queue, now]
      rfl
    · rw [queue]; rfl
    · rw [queue]; rfl
    · intro new tracked
      rw [queue, withWrite_tracker_of_new new tracked]
    · intro mode high
      exact drains (normal.trans mode) (level.symm ▸ high)
  case read =>
    intro s n pc bank row col k hk scrub q fits takes serves key there empty room share
    obtain ⟨x, enters⟩ := readQueueEntry_of_room (m := s.m) (scrub := scrub) fits key takes serves there empty room share
    have queue := pcQ_enterRead (ported s.core k q x) k bank row col (hk || scrub) scrub
    rw [pcQ_ported] at queue
    refine ⟨_, does_of_run rfl enters, ?_, ?_, fun hit => ?_, fun new => ?_⟩
    · exact (congrArg PcQueue.reads queue).trans rfl
    · exact (congrArg PcQueue.writes queue).trans rfl
    · exact (congrArg (fun v => amGet? v.inOrder bank) queue).trans (withRead_inOrder_of_tracked hit _ _ _)
    · exact (congrArg PcQueue.inOrder queue).trans (withRead_inOrder_of_new new _ _ _)
  case burst =>
    intro s n pc time k m1 x powered_ inside channel key on_ normal ahead
    refine ⟨fun none_ => ?_, fun chosen => ?_⟩
    · exact does_of_powered rfl powered_ (burstIssue_of_none (m := s.m) inside channel key on_ normal ahead none_)
    · obtain ⟨q, held, demand, reads, writes, rows, beside, made⟩ :=
        burstIssue_of_some (m := s.m) inside channel key on_ normal ahead chosen
      obtain ⟨d, queue, queued⟩ := pcQ_issued q x (isOpen (pcQ m1.core k) x.bank x.row) held k m1.core
      obtain ⟨⟨readsLeft, writesLeft⟩, opens⟩ := pcQ_rowStep (x := x) (opened := isOpen (pcQ m1.core k) x.bank x.row) queue
      rw [← queued] at readsLeft writesLeft opens
      refine ⟨m1.on (issued q x (isOpen (pcQ m1.core k) x.bank x.row) held k), _, congrArg M.mem ahead, readsLeft.trans reads,
        writesLeft.trans writes, fun room => opens (fun opened => ?_) (beside ▸ room), fun write => ?_, fun read => ⟨demand, ?_⟩,
        does_of_powered rfl powered_ made⟩
      · rw [isOpen, rows]
        exact opened
      · rw [burstReads, write, if_pos rfl]
      · rw [burstReads, read, if_neg Bool.false_ne_true]
  case age =>
    rintro s n pc time k c powered_ inside channel rfl rfl old normal
    refine does_of_poweredCore rfl powered_ ?_
    have due : (decide (n < 16) && decide (pc < 32) && aged (s.core.at time) (pcKey n pc)) = true := by
      rw [decide_eq_true inside, decide_eq_true channel, old]; rfl
    exact (if_pos due).trans (modeCheck_of_due (c := s.core.at time) normal (.inr old))
  case refresh =>
    rintro s n pc bank k q powered_ inside channel bank_ awake rfl idle rfl
    refine does_of_poweredCore rfl powered_ ?_
    simp only [refreshCmd, Nat.not_le.mpr inside, Nat.not_le.mpr channel, Nat.not_le.mpr bank_, awake, idle, decide_false, ne_eq,
      not_true_eq_false, Bool.or_self, Bool.false_eq_true, if_false]

end Sys2Proof.Machine

/-! Registers of stacks and pseudo-channels, and what training, a failed stack and the start of a rebuild do to them (R554, R555, R595). -/

namespace Sys2Proof.Machine
open Sys2Proof

/-! ### Addresses -/

/-- Two registers of one stack. -/
theorem stackRegs_ne {a b x y : Nat} (differ : a ≠ b) : a + 0x40000 * x + 0x4000 * y ≠ b + 0x40000 * x + 0x4000 * y := by omega

/-- Two registers of one pseudo-channel. -/
theorem channelRegs_ne {a b x y z : Nat} (differ : a ≠ b) :
    a + 0x40000 * x + 0x4000 * y + 0x40 * z ≠ b + 0x40000 * x + 0x4000 * y + 0x40 * z := by omega

/-- A stack's register lies below those of its pseudo-channels. -/
theorem stackReg_ne_channel {a b x y z : Nat} (below : a < b) :
    a + 0x40000 * x + 0x4000 * y ≠ b + 0x40000 * x + 0x4000 * y + 0x40 * z := by omega

theorem channelReg_ne_stack {a b x y z : Nat} (below : a < b) :
    b + 0x40000 * x + 0x4000 * y + 0x40 * z ≠ a + 0x40000 * x + 0x4000 * y := by omega

/-- A register below the controllers' is no stack's. -/
theorem below_ne_stack {a b x y : Nat} (below : a < b) : a ≠ b + 0x40000 * x + 0x4000 * y := by omega

theorem below_ne_channel {a b x y z : Nat} (below : a < b) : a ≠ b + 0x40000 * x + 0x4000 * y + 0x40 * z := by omega

/-- No event writes a register of the controllers. -/
theorem unlogged_of_controller {a : Nat} (above : 0x100000 ≤ a) (below : a < 0x200000) : Unlogged a := by
  intro logged
  have apart : ∀ b ∈ eventRegs, b < 0x100000 ∨ 0x200000 ≤ b := by decide
  have := apart a logged
  omega

/-- A field is below two to its width. -/
theorem fld_lt (c : Core) (a : Nat) (f : Fld) : c.fld a f < 2 ^ (f.hi - f.lo + 1) := Nat.mod_lt _ (Nat.two_pow_pos _)

/-- The status registers of two stacks. -/
theorem status_ne {n o : Nat} (other : n ≠ o) : stackReg MEM_STATUS n ≠ stackReg MEM_STATUS o := by
  simp only [stackReg, MEM_STATUS]
  omega

theorem status_high (n : Nat) : 0x100000 ≤ stackReg MEM_STATUS n := by
  simp only [stackReg, MEM_STATUS]
  omega

theorem unlogged_status {n : Nat} (stack : n < 16) : Unlogged (stackReg MEM_STATUS n) :=
  unlogged_of_controller (status_high n) (by simp only [stackReg, MEM_STATUS]; omega)

theorem stackState_congr {c d : Core} {n : Nat} (same : c.rget (stackReg MEM_STATUS n) = d.rget (stackReg MEM_STATUS n)) :
    stackState c n = stackState d n := Core.fld_congr same _

/-! ### Training (R554, R555) -/

/-- MEM_TRAIN once pseudo-channel `k` has been trained. -/
def trainSeen (c : Core) (k : Nat) : Core :=
  let c := c.setFld (stA MEM_TRAIN k) MEM_TRAIN_LAST_PC (k % 32)
  if c.flag (stA MEM_TRAIN k) MEM_TRAIN_NOW && c.fld (stA MEM_TRAIN k) MEM_TRAIN_TARGET_PC == k % 32 then
    c.setFld (stA MEM_TRAIN k) MEM_TRAIN_NOW 0 else c

theorem rget_trainSeen_ne {c : Core} {k a : Nat} (other : a ≠ stA MEM_TRAIN k) : (trainSeen c k).rget a = c.rget a := by
  unfold trainSeen
  extract_lets d
  have kept : d.rget a = c.rget a := Core.rget_setFld_ne _ _ _ other
  clear_value d
  split
  · exact (Core.rget_setFld_ne _ _ _ other).trans kept
  · exact kept

theorem trainSeen_mem (c : Core) (k : Nat) : (trainSeen c k).mem = c.mem := by
  unfold trainSeen
  extract_lets d
  have kept : d.mem = c.mem := Core.setFld_mem _ _ _ _
  clear_value d
  split
  · exact (Core.setFld_mem _ _ _ _).trans kept
  · exact kept

theorem trainSeen_pair (c : Core) (k : Nat) : (trainSeen c k).pair = c.pair := by
  unfold trainSeen
  extract_lets d
  have kept : d.pair = c.pair := Core.setFld_pair _ _ _ _
  clear_value d
  split
  · exact (Core.setFld_pair _ _ _ _).trans kept
  · exact kept

/-- The registers of a pseudo-channel whose training has succeeded. -/
def trainPassed (c : Core) (k margin : Nat) : Core :=
  ((c.setFld (pcA MEM_PC_TRAIN k) MEM_PC_TRAIN_FAILS 0).setFld (pcA MEM_PC_TRAIN k) MEM_PC_TRAIN_MARGIN_PS margin).rset
    (pcA MEM_PC_LAST_TRAIN k) (BitVec.ofNat 64 c.tick)

/-- The temperature at which pseudo-channel `k` was trained. -/
def noteTemp (c : Core) (k : Nat) : Core :=
  { c with mem := { c.mem with trainTemp := amSet c.mem.trainTemp k (c.fld (stA MEM_STATUS k) MEM_STATUS_TEMP_C) } }

theorem trained_of_centred (c : Core) (k margin : Nat) :
    trained c k true margin = (noteTemp (trainPassed (trainSeen c k) k margin) k).count (stA MEM_RETRAINS k) := rfl

theorem train_ne_last (k : Nat) : pcA MEM_PC_TRAIN k ≠ pcA MEM_PC_LAST_TRAIN k := channelRegs_ne (by decide)

section passed
variable (c : Core) (k margin : Nat)

theorem rget_trainPassed_ne {a : Nat} (train : a ≠ pcA MEM_PC_TRAIN k) (last : a ≠ pcA MEM_PC_LAST_TRAIN k) :
    (trainPassed c k margin).rget a = c.rget a := by
  rw [trainPassed, Core.rget_rset_ne _ _ last, Core.rget_setFld_ne _ _ _ train, Core.rget_setFld_ne _ _ _ train]

theorem rget_noteTemp (a : Nat) : (noteTemp c k).rget a = c.rget a := Core.rget_congr (by rfl) a

/-- A pseudo-channel's training that succeeds leaves every register alone but those of its training. -/
theorem rget_trained_ne {a : Nat} (seen : a ≠ stA MEM_TRAIN k) (train : a ≠ pcA MEM_PC_TRAIN k) (last : a ≠ pcA MEM_PC_LAST_TRAIN k)
    (counted_ : a ≠ stA MEM_RETRAINS k) : (trained c k true margin).rget a = c.rget a := by
  rw [trained_of_centred, Core.rget_count_ne _ _ counted_, rget_noteTemp, rget_trainPassed_ne _ _ _ train last, rget_trainSeen_ne seen]

theorem fld_trainPassed_fails : (trainPassed c k margin).fld (pcA MEM_PC_TRAIN k) MEM_PC_TRAIN_FAILS = 0 := by
  rw [trainPassed, Core.fld_rset_ne _ _ _ (train_ne_last k),
    Core.fld_setFld_other _ _ _ _ _ (by decide) (by decide) (by decide) (by decide), Core.fld_setFld_self _ _ _ _ (by decide) (by decide)]
  rfl

theorem fld_trainPassed_margin (small : margin < 256) :
    (trainPassed c k margin).fld (pcA MEM_PC_TRAIN k) MEM_PC_TRAIN_MARGIN_PS = margin := by
  rw [trainPassed, Core.fld_rset_ne _ _ _ (train_ne_last k), Core.fld_setFld_self _ _ _ _ (by decide) (by decide)]
  exact Nat.mod_eq_of_lt small

theorem rget_trainPassed_last : ((trainPassed c k margin).rget (pcA MEM_PC_LAST_TRAIN k)).toNat = c.tick := by
  rw [trainPassed, Core.rget_rset_self, BitVec.toNat_ofNat]
  exact Nat.mod_eq_of_lt (c.rget TCK_COUNT).isLt

theorem trainPassed_mem : (trainPassed c k margin).mem = c.mem := by
  rw [trainPassed, Core.rset_mem, Core.setFld_mem, Core.setFld_mem]

theorem trainPassed_pair : (trainPassed c k margin).pair = c.pair := by
  rw [trainPassed, Core.rset_pair, Core.setFld_pair, Core.setFld_pair]

theorem noteTemp_mem : (noteTemp c k).mem =
    { c.mem with trainTemp := amSet c.mem.trainTemp k (c.fld (stA MEM_STATUS k) MEM_STATUS_TEMP_C) } := rfl

theorem noteTemp_pair : (noteTemp c k).pair = c.pair := rfl

theorem trained_pair : (trained c k true margin).pair = c.pair := by
  rw [trained_of_centred, Core.count_pair, noteTemp_pair, trainPassed_pair, trainSeen_pair]

/-- The temperature's register is none of the training's. -/
theorem temp_apart : stA MEM_STATUS k ≠ stA MEM_TRAIN k ∧ stA MEM_STATUS k ≠ pcA MEM_PC_TRAIN k ∧
    stA MEM_STATUS k ≠ pcA MEM_PC_LAST_TRAIN k := by
  simp only [stA, pcA, stackReg, pcReg, MEM_STATUS, MEM_TRAIN, MEM_PC_TRAIN, MEM_PC_LAST_TRAIN]
  omega

theorem trained_mem : (trained c k true margin).mem =
    { c.mem with trainTemp := amSet c.mem.trainTemp k (c.fld (stA MEM_STATUS k) MEM_STATUS_TEMP_C) } := by
  obtain ⟨seen, train, last⟩ := temp_apart k
  rw [trained_of_centred, Core.count_mem, noteTemp_mem,
    Core.fld_congr ((rget_trainPassed_ne _ _ _ train last).trans (rget_trainSeen_ne seen)), trainPassed_mem, trainSeen_mem]

end passed

/-! ### A stack that fails (R595) -/

theorem rget_spareStatus (c : Core) (a : Nat) : (spareStatus c).rget a = c.rget a := Core.rget_congr (by rfl) a

/-- The spare's domain is woken. -/
def spareWoken (c : Core) (o : Nat) : Core :=
  let c := c.setFld (PWR_DOMAIN (physDomain o)) PWR_DOMAIN_TARGET 0
  let s := domState c (physDomain o)
  if s = 2 || s = 3 then (setDomState c (physDomain o) 4).setFld (stackReg MEM_STATUS o) MEM_STATUS_STATE 1 else c

/-- The rebuild of stack `n` is shown and stands at its first word. -/
def rebuildShown (c : Core) (n : Nat) : Core :=
  let c := ((c.setFld PAIR_REBUILD PAIR_REBUILD_STATE 1).setFld PAIR_REBUILD PAIR_REBUILD_SPARE 1).setFld PAIR_REBUILD
    PAIR_REBUILD_FAILED_STACK n
  let c := c.rset PAIR_REBUILD_PROG 0
  { c with pair := { c.pair with rebuilt := true, rebuildStep := false, rebuildGot := [] } }

theorem startRebuild_cases (c : Core) (n : Nat) : startRebuild c n = c ∨ (n ≠ outStack c ∧
    startRebuild c n = spareStatus (raise (rebuildShown (spareWoken c (outStack c)) n) .pairRebuildStart 2 n)) := by
  by_cases stays : (decide (n = outStack c) || !c.flag PAIR_LAYOUT PAIR_LAYOUT_SPARE ||
    decide (c.fld PAIR_REBUILD PAIR_REBUILD_SPARE ≠ 0) ||
    c.pair.rebuilt || stackBad c (outStack c) || baseFenced c (n / 4)) = true
  · exact .inl (if_pos stays)
  · exact .inr ⟨fun same => stays (by rw [decide_eq_true same]; rfl), if_neg stays⟩

theorem rget_spareWoken {n o : Nat} (c : Core) (other : n ≠ o) (bound : o < 16) :
    (spareWoken c o).rget (stackReg MEM_STATUS n) = c.rget (stackReg MEM_STATUS n) := by
  have domain : stackReg MEM_STATUS n ≠ PWR_DOMAIN (physDomain o) := by
    have high := status_high n
    rw [physDomain, PWR_DOMAIN]
    omega
  unfold spareWoken
  extract_lets c1 st
  have kept : c1.rget (stackReg MEM_STATUS n) = c.rget (stackReg MEM_STATUS n) := Core.rget_setFld_ne _ _ _ domain
  clear_value c1 st
  split
  · exact ((Core.rget_setFld_ne _ _ _ (status_ne other)).trans (Core.rget_setFld_ne _ _ _ domain)).trans kept
  · exact kept

theorem rget_rebuildShown (c : Core) (v a : Nat) (shown : a ≠ PAIR_REBUILD) (prog : a ≠ PAIR_REBUILD_PROG) :
    (rebuildShown c v).rget a = c.rget a := by
  unfold rebuildShown
  rw [rget_withPair, Core.rget_rset_ne _ _ prog, Core.rget_setFld_ne _ _ _ shown, Core.rget_setFld_ne _ _ _ shown,
    Core.rget_setFld_ne _ _ _ shown]

theorem rget_startRebuild (c : Core) {n : Nat} (stack : n < 16) :
    (startRebuild c n).rget (stackReg MEM_STATUS n) = c.rget (stackReg MEM_STATUS n) := by
  have high := status_high n
  have below : ∀ {a : Nat}, a < 0x100000 → stackReg MEM_STATUS n ≠ a := fun small same => by omega
  rcases startRebuild_cases c n with stays | ⟨other, starts⟩
  · rw [stays]
  · rw [starts, rget_spareStatus, rget_raise_of_unlogged (unlogged_status stack),
      rget_rebuildShown _ _ _ (below (by decide)) (below (by decide)),
      rget_spareWoken c other (fld_lt c PAIR_LAYOUT PAIR_LAYOUT_OUT_STACK)]

theorem rget_foldl_dropWb {α : Type} (f : α → Nat) (a : Nat) (l : List α) (c : Core) :
    (l.foldl (fun c x => dropWb c (f x)) c).rget a = c.rget a := by
  induction l generalizing c with
  | nil => rfl
  | cons x t ih => exact (ih _).trans (rget_dropWb c (f x) a)

/-- A stack that fails shows FAILED. -/
theorem stackState_stackFailed (c : Core) {n : Nat} (stack : n < 16) : stackState (stackFailed c n) n = 5 := by
  have high := status_high n
  have below : ∀ {a : Nat}, a < 0x100000 → stackReg MEM_STATUS n ≠ a := fun small same => by omega
  unfold stackFailed
  split
  · next failed => exact failed
  · extract_lets c1 c2 c3 _ c4 was c5 _
    have k1 : stackState c1 n = 5 := Core.fld_setFld_self _ _ _ _ (by decide) (by decide)
    clear_value c1
    have k2 : stackState c2 n = 5 := (stackState_congr (Core.rget_setFld_ne _ _ _ (below (by decide)))).trans k1
    clear_value c2
    have k3 : stackState c3 n = 5 := (stackState_congr (rget_foldl_dropWb _ _ _ _)).trans k2
    clear_value c3
    have k4 : stackState c4 n = 5 := (stackState_congr (Core.rget_congr (by rfl) _)).trans k3
    clear_value c4
    split
    · have k5 : stackState c5 n = 5 := by
        refine (stackState_congr ?_).trans k4
        change (if c4.flag PAIR_LAYOUT PAIR_LAYOUT_SPARE then _ else c4 : Core).rget _ = _
        split
        · exact Core.rget_setFld_ne _ _ _ (below (by decide))
        · rfl
      clear_value c5
      split
      · refine (stackState_congr ?_).trans k5
        exact (rget_raise_of_unlogged (unlogged_status stack) _ _ _ _ _ _ _).trans
          ((Core.rget_setFld_ne _ _ _ (below (by decide))).trans (rget_withPair _ _ _))
      · exact k5
    · exact (stackState_congr (rget_startRebuild c4 stack)).trans k4

end Sys2Proof.Machine

/-! The upkeep of memory (chapters 15 to 17): retraining, write-backs, scrub, rebuild and the spare's watch (R554, R555, R565, R575, R576,
R595 to R601), and the statement about it. -/

namespace Sys2Proof.Machine
open Sys2Proof

/-! ### Retraining (R554, R555) -/

section quiesce
variable (c : Core) (k : Nat)

/-- The queues of a pseudo-channel whose banks are precharged. -/
def precharged (c : Core) (k : Nat) : PcQueue :=
  { pcQ c k with openRow := [], streak := [], refreshes := (pcQ c k).refreshes + dueRefreshes (setPcQ c k (pcQ c k)) (k / 32) }

theorem quiescePc_mem : ∃ q : PcQueue, q.openRow = [] ∧ q.reads = (pcQ c k).reads ∧ q.writes = (pcQ c k).writes ∧
    (quiescePc c k).mem = { c.mem with pcs := amPut freshPc c.mem.pcs k q, training := c.mem.training ++ [k] } := by
  refine ⟨{ pcQ c k with openRow := [], streak := [], refreshes := (pcQ c k).refreshes + dueRefreshes c (k / 32) }, rfl, rfl, rfl, ?_⟩
  unfold quiescePc
  dsimp only
  rw [setMode, Core.setFld_mem]
  dsimp only
  rw [setPcQ_mem]

theorem pcMode_quiescePc : pcMode (quiescePc c k) k = 2 := by
  unfold quiescePc
  dsimp only
  rw [pcMode, setMode, Core.fld_setFld_self _ _ _ _ (by decide) (by decide)]
  rfl

end quiesce

/-- The pseudo-channel whose turn it is is quiesced. -/
theorem retrainPc_of_next {c : Core} {k : Nat} {extra : Bool} (serves : inService c = true) (idle : c.mem.training = [])
    (next_ : nextRetrain c = some (k, extra)) : ∃ d : Core, retrainPc c = (if extra then d else useSlice d 2 2000) ∧
    d = quiescePc { c with mem := { c.mem with
      turnHead := c.mem.turnHead.filter (· != k), turn := if extra || drifted c k then c.mem.turn else (k + 1) % 512 } } k := by
  refine ⟨_, ?_, rfl⟩
  simp only [retrainPc, serves, idle, next_, Bool.not_true, ne_eq, not_true_eq_false, decide_false, Bool.or_self, Bool.false_eq_true,
    if_false]

section trainEnd
variable {c : Core} {k : Nat}

/-- A pseudo-channel's registers lie among the controllers'. -/
theorem unlogged_channel {n pc : Nat} (stack : n < 16) (channel : pc < 32) : Unlogged (pcA MEM_PC_TRAIN (pcKey n pc)) := by
  refine unlogged_of_controller ?_ ?_ <;> simp only [pcA, pcReg, pcKey, MEM_PC_TRAIN] <;> omega

theorem train_apart (k : Nat) : pcA MEM_PC_TRAIN k ≠ pcA MEM_PC_STATUS k ∧ pcA MEM_PC_TRAIN k ≠ stA MEM_DRAINS k ∧
    pcA MEM_PC_TRAIN k ≠ stA MEM_TRAIN k ∧ pcA MEM_PC_TRAIN k ≠ stA MEM_RETRAINS k ∧ pcA MEM_PC_TRAIN k ≠ stA MEM_TRAIN_FAILS k := by
  simp only [stA, pcA, stackReg, pcReg, MEM_PC_STATUS, MEM_DRAINS, MEM_TRAIN, MEM_PC_TRAIN, MEM_RETRAINS, MEM_TRAIN_FAILS]
  omega

theorem last_apart (k : Nat) : pcA MEM_PC_LAST_TRAIN k ≠ pcA MEM_PC_STATUS k ∧ pcA MEM_PC_LAST_TRAIN k ≠ stA MEM_DRAINS k ∧
    pcA MEM_PC_LAST_TRAIN k ≠ stA MEM_RETRAINS k := by
  simp only [stA, pcA, stackReg, pcReg, MEM_PC_STATUS, MEM_DRAINS, MEM_PC_LAST_TRAIN, MEM_RETRAINS]
  omega

/-- The count of ticks is none of the controllers' registers. -/
theorem tick_apart (k : Nat) : TCK_COUNT ≠ stA MEM_TRAIN k ∧ TCK_COUNT ≠ pcA MEM_PC_STATUS k := by
  simp only [stA, pcA, stackReg, pcReg, MEM_TRAIN, MEM_PC_STATUS, TCK_COUNT]
  omega

theorem retrainEnd_of_training {n pc margin : Nat} {ok : Bool} (training : c.mem.training.contains (pcKey n pc) = true) :
    retrainEnd n pc ok margin c = modeCheck (trained (setMode { c with mem := { c.mem with
      training := c.mem.training.filter (· != pcKey n pc) } } (pcKey n pc) 0) (pcKey n pc) ok margin) (pcKey n pc) := by
  simp only [retrainEnd, training, Bool.not_true, Bool.false_eq_true, if_false]

/-- A success is noted: no failure, the margin, the tick and the temperature. -/
theorem trained_success {margin : Nat} (small : margin < 256) :
    (modeCheck (trained c k true margin) k).fld (pcA MEM_PC_TRAIN k) MEM_PC_TRAIN_FAILS = 0 ∧
    (modeCheck (trained c k true margin) k).fld (pcA MEM_PC_TRAIN k) MEM_PC_TRAIN_MARGIN_PS = margin ∧
    ((modeCheck (trained c k true margin) k).rget (pcA MEM_PC_LAST_TRAIN k)).toNat = c.tick := by
  obtain ⟨status, drains, -, count, -⟩ := train_apart k
  obtain ⟨status', drains', count'⟩ := last_apart k
  have train : (modeCheck (trained c k true margin) k).rget (pcA MEM_PC_TRAIN k) =
      (trainPassed (trainSeen c k) k margin).rget (pcA MEM_PC_TRAIN k) := by
    rw [rget_modeCheck_ne _ _ status drains, trained_of_centred, Core.rget_count_ne _ _ count, rget_noteTemp]
  have last : (modeCheck (trained c k true margin) k).rget (pcA MEM_PC_LAST_TRAIN k) =
      (trainPassed (trainSeen c k) k margin).rget (pcA MEM_PC_LAST_TRAIN k) := by
    rw [rget_modeCheck_ne _ _ status' drains', trained_of_centred, Core.rget_count_ne _ _ count', rget_noteTemp]
  refine ⟨(Core.fld_congr train _).trans (fld_trainPassed_fails _ _ _), (Core.fld_congr train _).trans (fld_trainPassed_margin _ _ _ small),
    ?_⟩
  rw [last, rget_trainPassed_last]
  exact congrArg BitVec.toNat (rget_trainSeen_ne (tick_apart k).1)

/-- The chip once a failed training is counted, before what its count of failures brings. -/
def trainMissed (c : Core) (k : Nat) : Core :=
  (raise (trainSeen c k) .memTrainFailed 2 (k / 32) (k % 32)).count (stA MEM_TRAIN_FAILS k)

/-- A count of failures that reaches 3 fails the stack. -/
def trainCounted (c : Core) (k : Nat) : Core :=
  let f := min 3 (c.fld (pcA MEM_PC_TRAIN k) MEM_PC_TRAIN_FAILS + 1)
  let c := c.setFld (pcA MEM_PC_TRAIN k) MEM_PC_TRAIN_FAILS f
  if f = 3 then stackFailed (raise c .memStackFailed 2 (k / 32)) (k / 32) else c

theorem trained_of_missed (margin : Nat) : trained c k false margin = trainCounted (trainMissed c k) k := rfl

theorem fld_trainMissed {n pc : Nat} (stack : n < 16) (channel : pc < 32) (key : k = pcKey n pc) :
    (trainMissed c k).fld (pcA MEM_PC_TRAIN k) MEM_PC_TRAIN_FAILS = c.fld (pcA MEM_PC_TRAIN k) MEM_PC_TRAIN_FAILS := by
  obtain ⟨-, -, seen, -, fails⟩ := train_apart k
  refine Core.fld_congr ?_ _
  rw [trainMissed, Core.rget_count_ne _ _ fails, rget_raise_of_unlogged (key ▸ unlogged_channel stack channel), rget_trainSeen_ne seen]

/-- The third failure fails the stack. -/
theorem stackState_trainCounted {c : Core} {k : Nat} (stack : k / 32 < 16) (two : c.fld (pcA MEM_PC_TRAIN k) MEM_PC_TRAIN_FAILS = 2) :
    stackState (trainCounted c k) (k / 32) = 5 := by
  rw [trainCounted, two, if_pos (show min 3 (2 + 1) = 3 from rfl)]
  exact stackState_stackFailed _ stack

/-- A failure before the third is counted alone. -/
theorem fld_trainCounted {c : Core} {k : Nat} (few : c.fld (pcA MEM_PC_TRAIN k) MEM_PC_TRAIN_FAILS < 2) :
    (trainCounted c k).fld (pcA MEM_PC_TRAIN k) MEM_PC_TRAIN_FAILS = c.fld (pcA MEM_PC_TRAIN k) MEM_PC_TRAIN_FAILS + 1 := by
  have count : min 3 (c.fld (pcA MEM_PC_TRAIN k) MEM_PC_TRAIN_FAILS + 1) = c.fld (pcA MEM_PC_TRAIN k) MEM_PC_TRAIN_FAILS + 1 :=
    Nat.min_eq_right (by omega)
  rw [trainCounted, count, if_neg (by omega), Core.fld_setFld_self _ _ _ _ (by decide) (by decide)]
  exact Nat.mod_eq_of_lt (Nat.lt_of_lt_of_le (Nat.succ_lt_succ few) (by decide))

end trainEnd

/-! ### Write-backs and scrub (R565, R575, R576) -/

section writeBack
variable {m : M} {w k : Nat} {r : WbRec} (there : amGet? m.core.mem.wb w = some r) (sound : stackBad m.core (physStack w) = false)
  (key : k = pcKey (physStack w) (physPc w))
include there sound key

theorem writeBack_of_room (room : (pcQ m.core k).writes.length < 64) : writeBack w m =
    writeWord (enterWrite (m.on (fun c => dropWb c w)) k (physAddr w / 2 ^ 21 % 64) (physAddr w / 32 % 65536) (physAddr w / 2 % 16)
      none none true) w r.data (r.kind == .poison) r.scrub := by
  have free : entryFree ((pcQ m.core k).writes.map (·.hk)) true = true := entryFree_map _ _ _ room (.inl rfl)
  subst key
  simp only [writeBack, there, sound, free, Bool.not_true, Bool.false_eq_true, if_false]

/-- With no entry free only the write-back of a corrected word is dropped. -/
theorem writeBack_of_full (full : 64 ≤ (pcQ m.core k).writes.length) :
    writeBack w m = if r.kind = .corrected then m.on (fun c => dropWb c w) else m := by
  have taken : entryFree ((pcQ m.core k).writes.map (·.hk)) true = false := by
    rw [entryFree, List.length_map, decide_eq_false (Nat.not_lt.mpr full)]
    rfl
  subst key
  simp only [writeBack, there, sound, taken, Bool.not_false, Bool.false_eq_true, if_false, if_true]

end writeBack

/-- A scrub step in its pace reads the next row. -/
theorem scrubStep_of_due {m m1 : M} {n pc ns time k : Nat} {c : Core} {v : ScrubSt} (stack : n < 16) (channel : pc < 32)
    (key : k = pcKey n pc) (now : c = m.core.at time) (state : v = scrubSt c k) (enabled : c.flag ECC_CTRL ECC_CTRL_SCRUB_EN = true)
    (on_ : stackOn c n = true) (filled : c.fld ECC_STATUS ECC_STATUS_FILL = 2) (idle : c.mem.training.contains k = false)
    (fits : stepFits c 1 ns = true) (pace : v.done * passNs c ≤ (c.glb.now - v.passStart) * passRows) (more : v.done + 1 < passRows)
    (read : m1 = scrubRow { core := c, mem := m.mem } n pc (v.done % 64) (v.done / 64)) {c1 : Core}
    (left : c1 = useSlice (m1.on (fun c => setScrub c k ⟨v.done + 1, v.passStart⟩)).core 1 ns) :
    scrubStep n pc ns time m = m1.on (fun _ => c1.setFld (ECC_SCRUB_ROWS n) ECC_SCRUB_ROWS_F
        (sumNat ((List.range 32).map (fun p => (scrubSt c1 (pcKey n p)).done)))) := by
  have unended : v.done + 1 ≠ passRows := Nat.ne_of_lt more
  subst key now state
  simp only [scrubStep, M.on, Nat.not_le.mpr stack, Nat.not_le.mpr channel, enabled, on_, filled, idle, fits, Nat.not_lt.mpr pace, unended,
    decide_false, ne_eq, not_true_eq_false, Bool.not_true, Bool.or_self, Bool.false_eq_true, if_false, left, read, setScrub]

/-! ### The rebuild (R595 to R599) -/

section rebuild
variable {m : M} {ns k : Nat} (runs : m.core.fld PAIR_REBUILD PAIR_REBUILD_STATE = 1) (spare : stackOn m.core (outStack m.core) = true)
  (serves : inService m.core = true) (fresh : m.core.pair.rebuildStep = false) (fits : stepFits m.core 3 ns = true)
  (place : k = (m.core.rget PAIR_REBUILD_PROG).toNat)
include runs spare serves fresh fits place

theorem rebuildStep_of_end (done : walkAt m.core 16 k = none) : rebuildStepCmd ns m = m.on (fun c =>
    spareStatus (raise (c.setFld PAIR_REBUILD PAIR_REBUILD_STATE 2) .pairRebuildDone 2
    (c.fld PAIR_REBUILD PAIR_REBUILD_FAILED_STACK))) := by
  subst place
  simp only [rebuildStepCmd, runs, spare, serves, fresh, fits, done, ne_eq, not_true_eq_false, decide_false, Bool.not_true, Bool.or_self,
    Bool.and_false, Bool.false_eq_true, if_false]

/-- A step takes the next 64 words of the walk; one that met no word of the partner's moves on. -/
theorem rebuildStep_of_words {q g : Nat} {m1 : M} {wait : Bool} {c : Core} (there : walkAt m.core 16 k = some (q, g))
    (begun : c = useSlice { m.core with pair := { m.core.pair with rebuildStep := true } } 3 ns)
    (made : (List.range 64).foldl (fun (y : M × Bool) i =>
      ((rebuildWord y.1 q (g + 32 * i)).1, y.2 || (rebuildWord y.1 q (g + 32 * i)).2)) ({ core := c, mem := m.mem }, false) = (m1, wait)) :
    rebuildStepCmd ns m = if wait then m1 else m1.on (fun c => wakeOn (· == .fetch stepKey)
        (({ c with pair := { c.pair with rebuildStep := false, rebuildGot := [] } }).rset PAIR_REBUILD_PROG (w64 (k + 64)))) := by
  subst place begun
  simp only [rebuildStepCmd, runs, spare, serves, fresh, fits, there, ne_eq, not_true_eq_false, decide_false, Bool.not_true, Bool.or_self,
    Bool.and_false, Bool.false_eq_true, if_false, M.on, made]

end rebuild

section word
variable {m : M} {q g t n : Nat} (target : t = placeWord m.core q (outStack m.core) g)
  (failed : n = m.core.fld PAIR_REBUILD PAIR_REBUILD_FAILED_STACK)
include target failed

theorem rebuildWord_of_parity {pos : Nat} (holder : holderOf m.core q n g = .parity pos) : rebuildWord m q g =
    match xorPositions m q g false ((List.range 15).filter (· != pos)) with
    | (m, some d) => (writeWord m t d false, false)
    | (m, none) => (rebuildPoison m t, false) := by
  subst target failed
  simp only [rebuildWord, holder] <;> rfl

theorem rebuildWord_of_mirror {e f o : Nat} {m1 : M} {d : List Byte} (holder : holderOf m.core q n g = .data e f o .m)
    (read : readPhys m (servedWord m.core q (n ^^^ 8) g) false = (m1, .good d)) : rebuildWord m q g = (writeWord m1 t d false, false) := by
  subst target failed
  simp only [rebuildWord, holder, read]

theorem rebuildWord_of_unprotected {e f o : Nat} (holder : holderOf m.core q n g = .data e f o .n) :
    rebuildWord m q g = (rebuildPoison m t, false) := by
  subst target failed
  simp only [rebuildWord, holder]

/-- A word of class X is fetched from a partner that has it. -/
theorem rebuildWord_of_partner {e f o w : Nat} (word : w = placeWord m.core q (m.core.fld PAIR_REBUILD PAIR_REBUILD_FAILED_STACK) g)
    (holder : holderOf m.core q n g = .data e f o .x)
    (ungot : m.core.pair.rebuildGot.contains w = false) : rebuildWord m q g =
      if partnerSource m.core && !partRemoving m.core q then (m.on (fun c => startFetch c w), true) else (rebuildPoison m t, false) := by
  subst word target failed
  simp only [rebuildWord, holder, ungot, Bool.false_eq_true, if_false]

end word

/-! ### The spare's watch (R600, R601) -/

/-- Each pseudo-channel of a stack is trained. -/
def watchTrained (c : Core) (n : Nat) : Core :=
  (List.range 32).foldl (fun c p => let (c, d) := c.draw; trained c (pcKey n p) true (Config.choice d % 256)) c

theorem rget_watchTrained (c : Core) (n : Nat) {a : Nat} (below : a < 0x100000) : (watchTrained c n).rget a = c.rget a := by
  refine foldl_keeps (fun c => c.rget a) (fun c p => ?_) _ c
  have apart : a ≠ stA MEM_TRAIN (pcKey n p) ∧ a ≠ pcA MEM_PC_TRAIN (pcKey n p) ∧ a ≠ pcA MEM_PC_LAST_TRAIN (pcKey n p) ∧
      a ≠ stA MEM_RETRAINS (pcKey n p) := by
    simp only [stA, pcA, stackReg, pcReg, MEM_TRAIN, MEM_PC_TRAIN, MEM_PC_LAST_TRAIN, MEM_RETRAINS]
    omega
  obtain ⟨seen, train, last, count⟩ := apart
  exact (rget_trained_ne _ _ _ seen train last count).trans (Core.rget_congr (by rfl) a)

theorem watchTrained_pair (c : Core) (n : Nat) : (watchTrained c n).pair = c.pair :=
  foldl_keeps (fun c => c.pair) (fun c p => (trained_pair c.draw.1 (pcKey n p) _).trans (Core.draw_pair c)) _ c

/-- The chip when the watch of stack `n` ends: what it corrected, its next row, and the spare in RETENTION or failed. -/
def watchEnd (n before row : Nat) (bad : Bool) (c : Core) : Core :=
  let c := c.setFld PAIR_SPARE_WATCH PAIR_SPARE_WATCH_LAST_CORRECTED (min 65535 ((c.rget ECC_CORRECTED).toNat - before))
  let c := { c with pair := { c.pair with watchRow := row } }
  let c := c.setFld (stackReg MEM_STATUS n) MEM_STATUS_STATE 3
  if bad then spareStatus (raise (stackFailed c n) .pairSpareFailed 2 n) else c

theorem stackState_watchEnd_bad (c : Core) {n : Nat} (stack : n < 16) (before row : Nat) :
    stackState (watchEnd n before row true c) n = 5 := by
  have failed : ∀ d : Core, stackState (spareStatus (raise (stackFailed d n) .pairSpareFailed 2 n)) n = 5 := fun d =>
    (stackState_congr (by rw [rget_spareStatus, rget_raise_of_unlogged (unlogged_status stack)])).trans
      (stackState_stackFailed d stack)
  rw [watchEnd]
  dsimp only
  rw [if_pos rfl]
  exact failed _

theorem watchEnd_good (c : Core) {n : Nat} (row : Nat) :
    stackState (watchEnd n (c.rget ECC_CORRECTED).toNat row false c) n = 3 ∧
    (watchEnd n (c.rget ECC_CORRECTED).toNat row false c).fld PAIR_SPARE_WATCH PAIR_SPARE_WATCH_LAST_CORRECTED = 0 ∧
    (watchEnd n (c.rget ECC_CORRECTED).toNat row false c).fld PAIR_REBUILD PAIR_REBUILD_SPARE = c.fld PAIR_REBUILD PAIR_REBUILD_SPARE ∧
    (watchEnd n (c.rget ECC_CORRECTED).toNat row false c).pair.watchRow = row := by
  have high := status_high n
  have below : ∀ {a : Nat}, a < 0x100000 → a ≠ stackReg MEM_STATUS n := fun small same => by omega
  rw [watchEnd]
  dsimp only
  rw [if_neg Bool.false_ne_true, Nat.sub_self]
  refine ⟨?_, ?_, ?_, ?_⟩
  · rw [stackState, Core.fld_setFld_self _ _ _ _ (by decide) (by decide)]
    rfl
  · rw [Core.fld_setFld_ne _ _ _ _ (below (by decide)), Core.fld_congr (rget_withPair _ _ _),
      Core.fld_setFld_self _ _ _ _ (by decide) (by decide)]
    rfl
  · rw [Core.fld_setFld_ne _ _ _ _ (below (by decide)), Core.fld_congr (rget_withPair _ _ _), Core.fld_setFld_ne _ _ _ _ (by decide)]
  · rw [Core.setFld_pair]

/-- A wake of the watch that finds no word but the zero codeword. -/
theorem spareWatch_of_clean {m : M} {n : Nat} {mem : Mem} (matches_ : Bool) (serves : inService m.core = true) (spare : n = outStack m.core)
    (enabled : m.core.flag PAIR_CTRL PAIR_CTRL_SPARE_WATCH_EN = true) (laid : m.core.flag PAIR_LAYOUT PAIR_LAYOUT_SPARE = true)
    (unused : m.core.fld PAIR_REBUILD PAIR_REBUILD_SPARE = 0) (retained : stackState m.core n = 3)
    (cleared : mem = m.mem.clear (watchWord n m.core.pair.watchRow 0) (watchWord n m.core.pair.watchRow 0 + 32))
    (clean : oddWords { core := m.core, mem := mem } n = []) : ∃ e : Core,
    e = watchTrained (m.core.setFld (stackReg MEM_STATUS n) MEM_STATUS_STATE 2) n ∧
    spareWatch matches_ m = M.mk (watchEnd n (e.rget ECC_CORRECTED).toNat
      ((m.core.pair.watchRow + (100663296 * m.core.fld PAIR_SPARE_WATCH PAIR_SPARE_WATCH_PERIOD_MS +
        m.core.fld ECC_SCRUB ECC_SCRUB_PASS_HOURS * 3600000 - 1) / (m.core.fld ECC_SCRUB ECC_SCRUB_PASS_HOURS * 3600000)) % 100663296)
      (!matches_) e) mem := by
  refine ⟨_, rfl, ?_⟩
  have guard : ¬((!m.core.flag PAIR_CTRL PAIR_CTRL_SPARE_WATCH_EN || !m.core.flag PAIR_LAYOUT PAIR_LAYOUT_SPARE ||
      decide (m.core.fld PAIR_REBUILD PAIR_REBUILD_SPARE ≠ 0) || decide (stackState m.core n ≠ 3) || !inService m.core) = true) := by
    rw [enabled, laid, serves, decide_eq_false (not_not_intro unused), decide_eq_false (not_not_intro retained)]
    exact Bool.false_ne_true
  subst spare cleared
  refine (if_neg guard).trans ?_
  have quiet : ∀ (v : M) (p : Nat → Bool), v.mem = m.mem.clear (watchWord (outStack m.core) m.core.pair.watchRow 0)
      (watchWord (outStack m.core) m.core.pair.watchRow 0 + 32) → (oddWords v (outStack m.core)).filter p = [] := fun v p same => by
    rw [show oddWords v (outStack m.core) = [] from (by rw [oddWords, same]; exact clean)]
    rfl
  dsimp only
  rw [quiet _ _ rfl, List.foldl_nil]
  generalize (m.core.pair.watchRow + _) % 100663296 = row
  unfold watchTrained
  simp only [M.on]
  generalize List.foldl _ (m.core.setFld (stackReg MEM_STATUS (outStack m.core)) MEM_STATUS_STATE 2) (List.range 32) = e
  rfl

/-! ### The statement -/

/-- Settles O47: each clause is the command's meaning in the case that its hypotheses choose. -/
theorem memoryUpkeep : Obligations.MemoryUpkeep := by
  unfold Obligations.MemoryUpkeep
  refine ⟨?retrain, ?trainEnd, ?writeBack, fun s powered_ => does_of_poweredCore rfl powered_ rfl, ?scrub, ?rebuild, ?word, ?watch⟩
  case retrain =>
    intro s k extra serves idle next_
    obtain ⟨d, made, quiesced⟩ := retrainPc_of_next serves idle next_
    obtain ⟨q, rows, reads, writes, mem⟩ := quiescePc_mem { s.core with mem := { s.core.mem with
      turnHead := s.core.mem.turnHead.filter (· != k), turn := if extra || drifted s.core k then s.core.mem.turn else (k + 1) % 512 } } k
    have mode := pcMode_quiescePc { s.core with mem := { s.core.mem with
      turnHead := s.core.mem.turnHead.filter (· != k), turn := if extra || drifted s.core k then s.core.mem.turn else (k + 1) % 512 } } k
    rw [← quiesced] at mem mode
    obtain ⟨c, last⟩ : ∃ c, c = if extra then d else useSlice d 2 2000 := ⟨_, rfl⟩
    have memory : c.mem = d.mem := by rw [last]; split <;> rfl
    have shown : pcMode c k = pcMode d k := by rw [last]; split <;> rfl
    have queue : pcQ c k = q := by rw [pcQ, memory, mem]; exact amGet_amPut_self _ _ _ _
    refine ⟨c, doesTo_of_core rfl (made.trans last.symm), ?_, shown.trans mode, ?_, ?_, ?_, ?_, fun own steady => ?_⟩
    · rw [memory, mem]
      exact congrArg (· ++ [k]) idle
    · rw [queue, rows]
    · rw [queue, reads]; rfl
    · rw [queue, writes]; rfl
    · rw [memory, mem]
    · rw [memory, mem, own, steady]
      rfl
  case trainEnd =>
    intro s n pc margin k powered_ stack channel key training
    subst key
    obtain ⟨c1, begun⟩ : ∃ c1, c1 = setMode { s.core with mem := { s.core.mem with
      training := s.core.mem.training.filter (· != pcKey n pc) } } (pcKey n pc) 0 := ⟨_, rfl⟩
    have ends : ∀ ok, retrainEnd n pc ok margin s.core = modeCheck (trained c1 (pcKey n pc) ok margin) (pcKey n pc) := fun ok =>
      begun ▸ retrainEnd_of_training training
    have registers : ∀ a, a ≠ pcA MEM_PC_STATUS (pcKey n pc) → c1.rget a = s.core.rget a := fun a other => by
      rw [begun, setMode, Core.rget_setFld_ne _ _ _ other]
      exact Core.rget_congr (by rfl) a
    have memory : c1.mem = { s.core.mem with training := s.core.mem.training.filter (· != pcKey n pc) } := by
      rw [begun, setMode, Core.setFld_mem]
    obtain ⟨status, drains, -, -, -⟩ := train_apart (pcKey n pc)
    have fails : c1.fld (pcA MEM_PC_TRAIN (pcKey n pc)) MEM_PC_TRAIN_FAILS =
        s.core.fld (pcA MEM_PC_TRAIN (pcKey n pc)) MEM_PC_TRAIN_FAILS := Core.fld_congr (registers _ status) _
    have missed := (fld_trainMissed (c := c1) stack channel rfl).trans fails
    refine ⟨fun small => ?_, fun two => ?_, fun few => ?_⟩
    · obtain ⟨none_, measured, ticked⟩ := trained_success (c := c1) (k := pcKey n pc) small
      have mem : (modeCheck (trained c1 (pcKey n pc) true margin) (pcKey n pc)).mem = { c1.mem with
          trainTemp := amSet c1.mem.trainTemp (pcKey n pc) (c1.fld (stA MEM_STATUS (pcKey n pc)) MEM_STATUS_TEMP_C) } :=
        (modeCheck_mem _ _).trans (trained_mem _ _ _)
      have apart : stA MEM_STATUS (pcKey n pc) ≠ pcA MEM_PC_STATUS (pcKey n pc) := by
        simp only [stA, pcA, stackReg, pcReg, MEM_STATUS, MEM_PC_STATUS]
        omega
      refine ⟨_, does_of_poweredCore rfl powered_ (ends true), ?_, none_, measured, ?_, ?_⟩
      · rw [mem, memory]
      · exact ticked.trans (congrArg BitVec.toNat (registers _ (tick_apart (pcKey n pc)).2))
      · rw [mem]
        exact (amGet?_amSet_self _ _ _).trans (congrArg some (Core.fld_congr (registers _ apart) _))
    · refine ⟨_, does_of_poweredCore rfl powered_ (ends false), ?_⟩
      have failed := stackState_trainCounted (c := trainMissed c1 (pcKey n pc)) (k := pcKey n pc) (by rw [pcKey_div channel]; exact stack)
        (missed.trans two)
      rw [pcKey_div channel] at failed
      have apart : stackReg MEM_STATUS n ≠ pcA MEM_PC_STATUS (pcKey n pc) ∧ stackReg MEM_STATUS n ≠ stA MEM_DRAINS (pcKey n pc) := by
        simp only [stA, pcA, stackReg, pcReg, MEM_STATUS, MEM_PC_STATUS, MEM_DRAINS, pcKey]
        omega
      rw [stackState_congr (rget_modeCheck_ne _ _ apart.1 apart.2), trained_of_missed]
      exact failed
    · refine ⟨_, does_of_poweredCore rfl powered_ (ends false), ?_⟩
      have counted_ := fld_trainCounted (c := trainMissed c1 (pcKey n pc)) (k := pcKey n pc) (missed.symm ▸ few)
      rw [Core.fld_congr (rget_modeCheck_ne _ _ status drains), trained_of_missed, counted_, missed]
  case writeBack =>
    intro s w k r powered_ there sound key
    have full := fun many => writeBack_of_full (m := s.m) there sound key many
    refine ⟨fun room => does_of_powered rfl powered_ (writeBack_of_room (m := s.m) there sound key room), fun many kind => ?_,
      fun many kind => ?_⟩
    · exact does_of_powered rfl powered_ ((full many).trans (if_pos kind))
    · exact does_of_powered rfl powered_ ((full many).trans (if_neg kind))
  case scrub =>
    intro s n pc ns time k c v m1 powered_ stack channel key now state enabled on_ filled idle fits pace more read c1 left
    exact does_of_powered rfl powered_
      (scrubStep_of_due (m := s.m) stack channel key now state enabled on_ filled idle fits pace more read left)
  case rebuild =>
    intro s ns k serves runs spare fresh fits place
    refine ⟨fun done => does_of_run rfl (rebuildStep_of_end (m := s.m) runs spare serves fresh fits place done), ?_⟩
    intro q g m1 wait c there begun made
    have stepped := rebuildStep_of_words (m := s.m) runs spare serves fresh fits place there begun made
    refine ⟨?_, ?_⟩
    · rintro rfl
      exact does_of_run rfl stepped
    · rintro rfl
      exact does_of_run rfl stepped
  case word =>
    rintro m q g w t word target n failed
    refine ⟨fun pos m1 d holder read => ?_, fun pos m1 holder read => ?_, fun e f o m1 d holder read => ?_, fun e f o holder => ?_,
      fun e f o holder ungot => ⟨fun partner stays => ?_, fun alone => ?_⟩⟩
    · rw [rebuildWord_of_parity target failed holder, read]
    · rw [rebuildWord_of_parity target failed holder, read]
      rfl
    · exact rebuildWord_of_mirror target failed holder read
    · exact rebuildWord_of_unprotected target failed holder
    · rw [rebuildWord_of_partner target failed word holder ungot, partner, stays]
      rfl
    · have none_ : (partnerSource m.core && !partRemoving m.core q) = false := by
        rcases alone with absent | removing
        · rw [absent]; rfl
        · rw [removing]; exact Bool.and_false _
      rw [rebuildWord_of_partner target failed word holder ungot, none_]
      rfl
  case watch =>
    intro s n mem serves spare enabled laid unused retained cleared clean
    have stack : n < 16 := spare ▸ fld_lt s.core PAIR_LAYOUT PAIR_LAYOUT_OUT_STACK
    have wakes := fun matches_ => spareWatch_of_clean (m := s.m) matches_ serves spare enabled laid unused retained cleared clean
    obtain ⟨e, trained_, good⟩ := wakes true
    obtain ⟨e', trained', bad⟩ := wakes false
    refine ⟨?_, _, does_of_run rfl bad, stackState_watchEnd_bad _ stack _ _⟩
    obtain ⟨state, corrected, share, row⟩ := watchEnd_good e (n := n) ((s.core.pair.watchRow +
      (100663296 * s.core.fld PAIR_SPARE_WATCH PAIR_SPARE_WATCH_PERIOD_MS + s.core.fld ECC_SCRUB ECC_SCRUB_PASS_HOURS * 3600000 - 1) /
        (s.core.fld ECC_SCRUB ECC_SCRUB_PASS_HOURS * 3600000)) % 100663296)
    refine ⟨_, does_of_run rfl good, state, corrected, share.trans ?_, row⟩
    have below : PAIR_REBUILD ≠ stackReg MEM_STATUS n := by
      have high := status_high n
      intro same
      rw [← same] at high
      exact absurd high (by decide)
    rw [trained_, Core.fld_congr (rget_watchTrained _ n (by decide)), State.m_core, Core.fld_setFld_ne _ _ _ _ below, unused]

end Sys2Proof.Machine

/-! The pair's registers and its bookkeeping: what PAIR_STATUS shows after each operation on it, what notices leave alone, and
what the self-made changes of Table 17-9 can touch. -/

namespace Sys2Proof.Machine
open Sys2Proof

/-! ### Events and replies -/

/-- A notice is an event that is no error and has the least severity: it is logged, and nothing else follows. -/
theorem raise_of_notice {e : Ev} (notice : (evRow e).2 = (false, 0)) (c : Core) (kind unit detail cnt : Nat) :
    raise c e kind unit detail cnt = logEntry c (evCode e) 0 false kind unit cnt detail := by
  have least : evSev e kind = 0 := by rw [evSev, notice, ite_self]
  simp only [raise, least, notice, escalate, Bool.false_and, Bool.false_eq_true, if_false,
    show ¬ 1 ≤ 0 by decide, show ((0 : Nat) == 5) = false from rfl]

theorem struck_pair (c : Core) (p : Nat) : (struck c p).1.pair = c.pair := by
  unfold struck
  split
  · extract_lets
    split
    split
    · rw [Core.setFld_pair]
    · rw [Core.setFld_pair]
    · rw [Core.count_pair, Core.setFld_pair]
    · rw [Core.setFld_pair]
  · rfl

theorem struck_now (c : Core) (p : Nat) : (struck c p).1.glb.now = c.glb.now := by
  unfold struck
  split
  · extract_lets
    split
    split
    · rw [Core.setFld_glb]
    · rw [Core.setFld_glb]
    · rw [Core.count_glb, Core.setFld_glb]
    · rw [Core.setFld_glb]
  · rfl

theorem wroteCtrl_pair (p : Nat) (w : CtrlWord) (c : Core) : (wroteCtrl p w c).pair = c.pair := by
  have mended : (ctrlMend c w).pair = c.pair := by unfold ctrlMend; split <;> rfl
  have hit := (struck_pair (ctrlMend c w) p).trans mended
  unfold wroteCtrl
  split
  · next h => rw [h] at hit; exact hit
  · next h => rw [h] at hit; exact hit

theorem wroteCtrl_now (p : Nat) (w : CtrlWord) (c : Core) : (wroteCtrl p w c).glb.now = c.glb.now := by
  have mended : (ctrlMend c w).glb.now = c.glb.now := by unfold ctrlMend; split <;> rfl
  have hit := (struck_now (ctrlMend c w) p).trans mended
  unfold wroteCtrl
  split
  · next h => rw [h] at hit; exact hit
  · next h => rw [h] at hit; exact hit

section
variable (c : Core) (code sev : Nat) (esc : Bool) (kind unit cnt detail : Nat)

theorem logEntry_pair : (logEntry c code sev esc kind unit cnt detail).pair = c.pair := by
  unfold logEntry
  extract_lets _ i lost
  have kept : lost.pair = c.pair := by
    change (match amGet? c.glb.log i with | some old => if old.read then c else _ | none => c : Core).pair = _
    split
    · split <;> rfl
    · rfl
  rw [Core.count_pair, Core.count_pair, wroteCtrl_pair]
  exact kept

theorem logEntry_now : (logEntry c code sev esc kind unit cnt detail).glb.now = c.glb.now := by
  unfold logEntry
  extract_lets _ i lost
  have kept : lost.glb.now = c.glb.now := by
    change (match amGet? c.glb.log i with | some old => if old.read then c else _ | none => c : Core).glb.now = _
    split
    · split <;> rfl
    · rfl
  rw [Core.count_glb, Core.count_glb, wroteCtrl_now]
  exact kept

end

theorem dropTag_regs (c : Core) (t : Nat) : (dropTag c t).regs = c.regs := by
  unfold dropTag; split <;> rfl

theorem dropTag_pair (c : Core) (t : Nat) : (dropTag c t).pair = c.pair := by
  unfold dropTag; split <;> rfl

/-- A reply leaves the registers and the pair's bookkeeping alone. -/
theorem mgmtReply_regs (c : Core) (src : Src) (mop : Nat) (code : MgmtCode) (b : List Nat) :
    (mgmtReply c src mop code b).regs = c.regs := by
  unfold mgmtReply
  split
  · split <;> rfl
  · extract_lets _ tag
    clear_value tag
    split
    · split
      · exact dropTag_regs _ _
      · rfl
    · rfl

theorem mgmtReply_pair (c : Core) (src : Src) (mop : Nat) (code : MgmtCode) (b : List Nat) :
    (mgmtReply c src mop code b).pair = c.pair := by
  unfold mgmtReply
  split
  · split <;> rfl
  · extract_lets _ tag
    clear_value tag
    split
    · split
      · exact dropTag_pair _ _
      · rfl
    · rfl

/-! ### PAIR_STATUS -/

/-- The field of PAIR_STATUS is sound and none of its bits is KEY_OUT's. -/
abbrev AboveKeyOut (g : Fld) : Prop := g.lo ≤ g.hi ∧ 0 < g.lo

/-- Of PAIR_STATUS an event may clear KEY_OUT alone. -/
theorem fld_fatal_status {g : Fld} (above : AboveKeyOut g) (c : Core) (code kind unit : Nat) :
    (fatal c code kind unit).fld PAIR_STATUS g = c.fld PAIR_STATUS g := by
  obtain ⟨sound, apart⟩ := above
  unfold fatal
  extract_lets _ c1 c2 c3 c4 c5 c6 c7 _ c8
  have k1 : c1.rget PAIR_STATUS = c.rget PAIR_STATUS := Core.rget_setFld_ne _ _ _ (by decide)
  clear_value c1
  have k2 : c2.rget PAIR_STATUS = c.rget PAIR_STATUS := (Core.rget_setFld_ne _ _ _ (by decide)).trans k1
  clear_value c2
  have k3 : c3.rget PAIR_STATUS = c.rget PAIR_STATUS := (Core.rget_setFld_ne _ _ _ (by decide)).trans k2
  clear_value c3
  have k4 : c4.rget PAIR_STATUS = c.rget PAIR_STATUS := (Core.rget_setFld_ne _ _ _ (by decide)).trans k3
  clear_value c4
  have k5 : c5.rget PAIR_STATUS = c.rget PAIR_STATUS := (Core.rget_setFld_ne _ _ _ (by decide)).trans k4
  clear_value c5
  have k6 : c6.rget PAIR_STATUS = c.rget PAIR_STATUS := (Core.rget_setFld_ne _ _ _ (by decide)).trans k5
  clear_value c6
  have k7 : c7.fld PAIR_STATUS g = c.fld PAIR_STATUS g :=
    (Core.fld_setFld_other _ _ _ _ _ (by decide) (by decide) sound (.inl apart)).trans (Core.fld_congr k6 g)
  clear_value c7
  have k8 : c8.fld PAIR_STATUS g = c.fld PAIR_STATUS g := (Core.fld_congr (rget_withGlb _ _ _) g).trans k7
  clear_value c8
  split
  · exact (Core.fld_congr (rget_withGlbPins _ _ _ _) g).trans k8
  · exact k8

theorem fld_raise_status {g : Fld} (above : AboveKeyOut g) (c : Core) (e : Ev) (kind unit detail cnt : Nat) (hold : Option Nat) :
    (raise c e kind unit detail cnt hold).fld PAIR_STATUS g = c.fld PAIR_STATUS g := by
  unfold raise
  extract_lets isErr
  have le := escalate_le c isErr kind unit (evSev_le e kind)
  split
  next sev esc act h =>
  rw [h] at le
  extract_lets c1 _ c2 _ c3
  have logged : c1.rget PAIR_STATUS = c.rget PAIR_STATUS := rget_logEntry_ne (by decide) _ _ _ _ _ _ _ le
  clear_value c1
  have noted : c2.rget PAIR_STATUS = c.rget PAIR_STATUS := by
    change (if 1 ≤ sev then _ else c1 : Core).rget PAIR_STATUS = _
    split
    · exact (rget_withPair _ _ _).trans logged
    · exact logged
  clear_value c2
  have held : c3.rget PAIR_STATUS = c.rget PAIR_STATUS := by
    change (match hold with | some k => if isErr && sev != 0 then _ else c2 | none => c2 : Core).rget PAIR_STATUS = _
    split
    · split
      · exact (rget_withGlb _ _ _).trans noted
      · exact noted
    · exact noted
  split
  · rw [fld_fatal_status above]
    exact Core.fld_congr ((rget_withGlb _ _ _).trans held) g
  · split
    · exact Core.fld_congr ((rget_withGlb _ _ _).trans held) g
    · exact Core.fld_congr held g

theorem pairState_lt (c : Core) : pairState c < 16 := fld_lt c PAIR_STATUS PAIR_STATUS_STATE

/-- The states and the key's bits depend on PAIR_STATUS alone. -/
theorem pairState_congr {c d : Core} (same : c.rget PAIR_STATUS = d.rget PAIR_STATUS) : pairState c = pairState d := Core.fld_congr same _
theorem partnerState_congr {c d : Core} (same : c.rget PAIR_STATUS = d.rget PAIR_STATUS) : partnerState c = partnerState d :=
  Core.fld_congr same _

theorem flag_congr {c d : Core} {a : Nat} (same : c.rget a = d.rget a) (g : Fld) : c.flag a g = d.flag a g := by
  rw [Core.flag, Core.fld_congr same g, Core.flag]

section
variable (c : Core) (st : Nat)

theorem rget_setPair_ne {a : Nat} (other : a ≠ PAIR_STATUS) : (setPair c st).rget a = c.rget a := Core.rget_setFld_ne _ _ _ other

theorem pairState_setPair (small : st < 16) : pairState (setPair c st) = st :=
  (Core.fld_setFld_self _ _ _ _ (by decide) (by decide)).trans (Nat.mod_eq_of_lt small)

/-- Another field of PAIR_STATUS stays when the state is set. -/
theorem fld_setPair {g : Fld} (sound : g.lo ≤ g.hi) (below : g.hi < 28) : (setPair c st).fld PAIR_STATUS g = c.fld PAIR_STATUS g :=
  Core.fld_setFld_other _ _ _ _ _ (by decide) (by decide) sound (.inr below)

theorem flag_setPair {g : Fld} (sound : g.lo ≤ g.hi) (below : g.hi < 28) :
    (setPair c st).flag PAIR_STATUS g = c.flag PAIR_STATUS g := by
  rw [Core.flag, fld_setPair c st sound below, Core.flag]

theorem setPair_pair : (setPair c st).pair = c.pair := by rw [setPair, Core.setFld_pair]

variable (b : Bool)

theorem rget_setKeyOut_ne {a : Nat} (other : a ≠ PAIR_STATUS) : (setKeyOut c b).rget a = c.rget a := Core.rget_setFld_ne _ _ _ other

theorem keyOut_setKeyOut : keyOut (setKeyOut c b) = b := by
  rw [keyOut, Core.flag, setKeyOut, Core.fld_setFld_self _ _ _ _ (by decide) (by decide)]
  cases b <;> rfl

/-- Another field of PAIR_STATUS stays when OUT is driven. -/
theorem fld_setKeyOut {g : Fld} (above : AboveKeyOut g) : (setKeyOut c b).fld PAIR_STATUS g = c.fld PAIR_STATUS g :=
  Core.fld_setFld_other _ _ _ _ _ (by decide) (by decide) above.1 (.inl above.2)

theorem pairState_setKeyOut : pairState (setKeyOut c b) = pairState c := fld_setKeyOut c b (by decide)

theorem keyHeld_setKeyOut : keyHeld (setKeyOut c b) = keyHeld c := by
  rw [keyHeld, Core.flag, fld_setKeyOut c b (by decide), keyHeld, Core.flag]

end

/-! ### Taking the key, and what follows by itself -/

/-- The promotion that a chip which stops taking refuses. -/
def refusePromotion (c : Core) : Core :=
  match c.pair.promoting with
  | some src => mgmtReply c src mopPromote .conflict []
  | none => c

theorem refusePromotion_regs (c : Core) : (refusePromotion c).regs = c.regs := by
  unfold refusePromotion; split
  · exact mgmtReply_regs _ _ _ _ _
  · rfl

theorem refusePromotion_pair (c : Core) : (refusePromotion c).pair = c.pair := by
  unfold refusePromotion; split
  · exact mgmtReply_pair _ _ _ _ _
  · rfl

/-- The state before taking returns, and OUT is deasserted. -/
def keyOff (c : Core) : Core := setKeyOut (setPair c c.pair.before) false

/-- No step of Table 17-7 is under way; another try may be due. -/
def untaken (again : Option Nat) (v : PairSt) : PairSt := { v with step := .idle, promoting := none, retryAt := again }

theorem stopTaking_eq (c : Core) (retry : Bool) : stopTaking c retry = onPair (refusePromotion (keyOff c))
    (untaken (if retry && primary (keyOff c) then some ((keyOff c).glb.now + 1000000) else none)) := rfl

theorem onPair_pair (c : Core) (f : PairSt → PairSt) : (onPair c f).pair = f c.pair := rfl

section
variable (c : Core) (retry : Bool)

theorem keyOff_pair : (keyOff c).pair = c.pair := by
  rw [keyOff, setKeyOut, Core.setFld_pair, setPair_pair]

theorem keyOff_glb : (keyOff c).glb = c.glb := by
  rw [keyOff, setKeyOut, Core.setFld_glb, setPair, Core.setFld_glb]

theorem rget_keyOff_ne {a : Nat} (other : a ≠ PAIR_STATUS) : (keyOff c).rget a = c.rget a := by
  rw [keyOff, rget_setKeyOut_ne _ _ other, rget_setPair_ne _ _ other]

theorem rget_stopTaking (a : Nat) : (stopTaking c retry).rget a = (keyOff c).rget a := by
  rw [stopTaking_eq, rget_onPair, Core.rget_congr (refusePromotion_regs _)]

theorem rget_stopTaking_ne {a : Nat} (other : a ≠ PAIR_STATUS) : (stopTaking c retry).rget a = c.rget a := by
  rw [rget_stopTaking, rget_keyOff_ne _ other]

theorem fld_stopTaking {g : Fld} (above : AboveKeyOut g) (below : g.hi < 28) :
    (stopTaking c retry).fld PAIR_STATUS g = c.fld PAIR_STATUS g := by
  rw [Core.fld_congr (rget_stopTaking c retry _), keyOff, fld_setKeyOut _ _ above, fld_setPair _ _ above.1 below]

theorem pairState_stopTaking : pairState (stopTaking c retry) = c.pair.before % 16 := by
  rw [pairState_congr (rget_stopTaking c retry _), keyOff, pairState_setKeyOut]
  exact Core.fld_setFld_self _ _ _ _ (by decide) (by decide)

theorem keyOut_stopTaking : keyOut (stopTaking c retry) = false :=
  (flag_congr (rget_stopTaking c retry _) _).trans (keyOut_setKeyOut _ _)

theorem stopTaking_pair : (stopTaking c retry).pair = untaken (if retry && primary c then some (c.glb.now + 1000000) else none) c.pair := by
  have same : primary (keyOff c) = primary c := flag_congr (rget_keyOff_ne _ (by decide)) _
  rw [stopTaking_eq, onPair_pair, refusePromotion_pair, keyOff_pair, same, keyOff_glb]

/-- What taking and stopping to take leave alone of the pair's bookkeeping. -/
structure PairKept (v u : PairSt) : Prop where
  missed : v.missed = u.missed
  aliveRx : v.aliveRx = u.aliveRx

theorem stopTaking_kept : PairKept (stopTaking c retry).pair c.pair := by
  rw [stopTaking_pair]
  exact ⟨rfl, rfl⟩

/-- The guard of Table 17-7 begins. -/
def guarding (c : Core) : Core :=
  setPair (onPair c (fun v => { v with before := pairState c, step := .guard, stepSince := c.glb.now, retryAt := none })) 4

theorem takeKey_eq : takeKey c = if keyIn (guarding c) then stopTaking (guarding c) false else guarding c := rfl

theorem guarding_pair : (guarding c).pair =
    { c.pair with before := pairState c, step := .guard, stepSince := c.glb.now, retryAt := none } := by
  rw [guarding, setPair_pair, onPair_pair]

theorem rget_guarding_ne {a : Nat} (other : a ≠ PAIR_STATUS) : (guarding c).rget a = c.rget a :=
  (rget_setPair_ne _ _ other).trans (rget_onPair _ _ a)

theorem fld_guarding {g : Fld} (sound : g.lo ≤ g.hi) (below : g.hi < 28) : (guarding c).fld PAIR_STATUS g = c.fld PAIR_STATUS g :=
  (fld_setPair _ _ sound below).trans (Core.fld_congr (rget_onPair _ _ _) _)

theorem keyIn_guarding : keyIn (guarding c) = keyIn c := by
  rw [keyIn, Core.flag, fld_guarding c (by decide) (by decide), keyIn, Core.flag]

theorem rget_takeKey_ne {a : Nat} (other : a ≠ PAIR_STATUS) : (takeKey c).rget a = c.rget a := by
  rw [takeKey_eq]
  split
  · rw [rget_stopTaking_ne _ _ other, rget_guarding_ne _ other]
  · exact rget_guarding_ne _ other

theorem fld_takeKey {g : Fld} (above : AboveKeyOut g) (below : g.hi < 28) :
    (takeKey c).fld PAIR_STATUS g = c.fld PAIR_STATUS g := by
  rw [takeKey_eq]
  split
  · rw [fld_stopTaking _ _ above below, fld_guarding _ above.1 below]
  · exact fld_guarding _ above.1 below

theorem takeKey_kept : PairKept (takeKey c).pair c.pair := by
  rw [takeKey_eq]
  split
  · have kept := stopTaking_kept (guarding c) false
    rw [guarding_pair] at kept
    exact ⟨kept.missed, kept.aliveRx⟩
  · rw [guarding_pair]
    exact ⟨rfl, rfl⟩

end

end Sys2Proof.Machine

/-! The words of a pair: REPLICA messages that a standby or a holder takes, the partner's health word and what follows it, digests,
and the copies of a resynchronisation (R603 to R607, R612, R618, R619). -/

namespace Sys2Proof.Machine
open Sys2Proof

/-! ### The health word (R612) -/

/-- What a change leaves of the partner's health: its state, its word, the ticks missed and the alive counter. -/
structure HealthKept (d c : Core) : Prop where
  partner : partnerState d = partnerState c
  word : d.rget PAIR_HEALTH_RX = c.rget PAIR_HEALTH_RX
  kept : PairKept d.pair c.pair

theorem HealthKept.refl (c : Core) : HealthKept c c := ⟨rfl, rfl, rfl, rfl⟩

theorem HealthKept.trans {e d c : Core} (late : HealthKept e d) (early : HealthKept d c) : HealthKept e c :=
  ⟨late.partner.trans early.partner, late.word.trans early.word, late.kept.missed.trans early.kept.missed,
    late.kept.aliveRx.trans early.kept.aliveRx⟩

theorem HealthKept.setPair (c : Core) (st : Nat) : HealthKept (setPair c st) c :=
  ⟨fld_setPair c st (by decide) (by decide), rget_setPair_ne c st (by decide), by rw [setPair_pair]; exact ⟨rfl, rfl⟩⟩

theorem HealthKept.takeKey (c : Core) : HealthKept (takeKey c) c :=
  ⟨fld_takeKey c (by decide) (by decide), rget_takeKey_ne c (by decide), takeKey_kept c⟩

theorem HealthKept.wakeOn (p : ParkCause → Bool) (c : Core) : HealthKept (wakeOn p c) c := ⟨rfl, rfl, rfl, rfl⟩

/-- Nothing of the member's copy counts any more. -/
def emptied (v : PairSt) : PairSt := { v with dataValid := false, synced := false, copied := [] }

/-- A member strapped PRIMARY takes the key by itself (R620). -/
def pollReturn (c : Core) : Core := if c.pair.step = .idle && c.pair.retryAt.isNone && selfReturn c then takeKey c else c

/-- A recovery ends in STANDBY_RESYNC. -/
def pollRecover (c : Core) : Core := if pairState c = 9 && !keyOut c && !primary c then setPair (onPair c emptied) 2 else c

/-- A holder's partner lacks nothing. -/
def partnerWhole (c : Core) : Bool :=
  (pairState c = 5 || pairState c = 6) && c.pair.dirty = [] && c.pair.outstanding = [] && c.pair.missed < 3 &&
    (partnerState c = 3 || partnerState c = 2)

def markSynced (c : Core) : Core := if partnerWhole c then onPair c (fun v => { v with synced := true }) else c

/-- A holder whose partner is synced holds the key in ACTIVE. -/
def pollSynced (c : Core) : Core :=
  if partnerWhole c && pairState (markSynced c) = 6 && partnerState (markSynced c) = 3 && partnerBit (markSynced c) 26 then
    setPair (markSynced c) 5 else markSynced c

/-- PAIR_RESYNC shows what a holder has still to copy. -/
def showResync (holder : Bool) (c : Core) : Core := c.rset PAIR_RESYNC (BitVec.ofNat 64 (if holder then c.pair.dirty.length else 0))

theorem pairPoll_eq (c : Core) : pairPoll c = if !paired c || bootStage c ≠ stReady then c else
    showResync (pairState (pollRecover (pollReturn c)) = 5 || pairState (pollRecover (pollReturn c)) = 6)
      (pollSynced (pollRecover (pollReturn c))) := rfl

theorem HealthKept.pollReturn (c : Core) : HealthKept (pollReturn c) c := by
  unfold Machine.pollReturn; split
  · exact .takeKey c
  · exact .refl c

theorem HealthKept.pollRecover (c : Core) : HealthKept (pollRecover c) c := by
  unfold Machine.pollRecover; split
  · exact (HealthKept.setPair (onPair c emptied) 2).trans ⟨rfl, rfl, rfl, rfl⟩
  · exact .refl c

theorem HealthKept.markSynced (c : Core) : HealthKept (markSynced c) c := by
  unfold Machine.markSynced; split
  · exact ⟨rfl, rfl, rfl, rfl⟩
  · exact .refl c

theorem HealthKept.pollSynced (c : Core) : HealthKept (pollSynced c) c := by
  unfold Machine.pollSynced; split
  · exact (HealthKept.setPair _ _).trans (.markSynced c)
  · exact .markSynced c

theorem HealthKept.showResync (holder : Bool) (c : Core) : HealthKept (showResync holder c) c :=
  ⟨partnerState_congr (Core.rget_rset_ne _ _ (by decide)), Core.rget_rset_ne _ _ (by decide), rfl, rfl⟩

theorem HealthKept.pairPoll (c : Core) : HealthKept (pairPoll c) c := by
  rw [pairPoll_eq]; split
  · exact .refl c
  · exact (HealthKept.showResync _ _).trans ((HealthKept.pollSynced _).trans ((HealthKept.pollRecover _).trans (.pollReturn c)))

/-- Nothing that follows by itself takes a member out of STANDBY_RESYNC. -/
theorem pairState_pairPoll_of_resync {c : Core} (resync : pairState c = 2) : pairState (pairPoll c) = 2 := by
  have stays : pollReturn c = c := by
    have no : selfReturn c = false := by
      simp only [selfReturn, resync, show ((2 : Nat) == 1) = false from rfl, show ((2 : Nat) == 9) = false from rfl,
        show ((2 : Nat) == 3) = false from rfl, Bool.false_and, Bool.or_self, Bool.and_false]
    simp only [pollReturn, no, Bool.and_false, Bool.false_eq_true, if_false]
  have keeps : pollRecover c = c := by
    simp only [pollRecover, resync, show ¬ 2 = 9 by decide, decide_false, Bool.false_and, Bool.false_eq_true, if_false]
  have lacks : partnerWhole c = false := by
    simp only [partnerWhole, resync, show ¬ 2 = 5 by decide, show ¬ 2 = 6 by decide, decide_false, Bool.or_self, Bool.false_and]
  have same : pollSynced c = c := by
    simp only [pollSynced, markSynced, lacks, Bool.false_and, Bool.false_eq_true, if_false]
  rw [pairPoll_eq]
  split
  · exact resync
  · rw [stays, keeps, same]
    exact (pairState_congr (Core.rget_rset_ne _ _ (by decide))).trans resync

/-- The partner's word is shown, and its alive counter taken. -/
def wordShown (c : Core) (w : Nat) : Core :=
  onPair (((c.rset PAIR_HEALTH_RX (BitVec.ofNat 64 w)).setFld PAIR_STATUS PAIR_STATUS_PARTNER_STATE (bitsOf w 31 28)).setFld
      PAIR_STATUS PAIR_STATUS_HEALTH_AGE 0)
    (fun v => { v with aliveRx := some (bitsOf w 15 8), heard := true, lostActed := false, missed := 0 })

/-- The member's own state follows the partner's word (Table 17-9, R618). -/
def followWord (fresh : Bool) (w : Nat) (c : Core) : Core :=
  if pairState c = 1 && bitOf w 27 then setPair (onPair c emptied) 2
  else if pairState c = 2 && bitOf w 27 && bitOf w 26 && c.pair.dirty = [] then
    setPair (onPair c (fun v => { v with dataValid := true, synced := true })) 3
  else if (pairState c = 5 || pairState c = 6) && bitsOf w 31 28 = 2 && fresh then
    onPair c (fun v => { v with synced := false, copied := [], dirty := if bitOf w 25 then v.dirty else xUnits c })
  else c

def wakeServed (c : Core) : Core := if partnerServes c then wakeOn (· == .pair) c else c

theorem takeHealth_eq (c : Core) (w : Nat) : takeHealth c w =
    pairPoll (wakeServed (followWord (partnerState c ≠ 2 || partnerBit c 25 && !bitOf w 25) w (wordShown c w))) := rfl

theorem HealthKept.followWord (fresh : Bool) (w : Nat) (c : Core) : HealthKept (followWord fresh w c) c := by
  unfold Machine.followWord
  split
  · exact (HealthKept.setPair _ _).trans ⟨rfl, rfl, rfl, rfl⟩
  · split
    · exact (HealthKept.setPair _ _).trans ⟨rfl, rfl, rfl, rfl⟩
    · split
      · exact ⟨rfl, rfl, rfl, rfl⟩
      · exact .refl c

theorem HealthKept.wakeServed (c : Core) : HealthKept (wakeServed c) c := by
  unfold Machine.wakeServed; split
  · exact .wakeOn _ c
  · exact .refl c

theorem pairState_wakeServed (c : Core) : pairState (wakeServed c) = pairState c := by
  unfold wakeServed; split <;> rfl

section
variable (c : Core) (w : Nat)

theorem takeHealth_kept : HealthKept (takeHealth c w) (wordShown c w) := by
  rw [takeHealth_eq]
  exact (HealthKept.pairPoll _).trans ((HealthKept.wakeServed _).trans (.followWord _ _ _))

theorem rget_wordShown_rx : (wordShown c w).rget PAIR_HEALTH_RX = w64 w := by
  rw [wordShown, rget_onPair, Core.rget_setFld_ne _ _ _ (by decide), Core.rget_setFld_ne _ _ _ (by decide), Core.rget_rset_self]

theorem partnerState_wordShown : partnerState (wordShown c w) = bitsOf w 31 28 := by
  rw [partnerState, wordShown, fld_onPair, Core.fld_setFld_other _ _ _ _ _ (by decide) (by decide) (by decide) (by decide),
    Core.fld_setFld_self _ _ _ _ (by decide) (by decide)]
  exact Nat.mod_eq_of_lt (Nat.mod_lt _ (by decide))

theorem pairState_wordShown : pairState (wordShown c w) = pairState c := by
  rw [pairState, wordShown, fld_onPair, Core.fld_setFld_other _ _ _ _ _ (by decide) (by decide) (by decide) (by decide),
    Core.fld_setFld_other _ _ _ _ _ (by decide) (by decide) (by decide) (by decide)]
  exact Core.fld_congr (Core.rget_rset_ne _ _ (by decide)) _

/-- A member that starts while its partner holds the key resynchronises. -/
theorem pairState_takeHealth_of_starting {c : Core} {w : Nat} (starting : pairState c = 1) (held : bitOf w 27 = true) :
    pairState (takeHealth c w) = 2 := by
  rw [takeHealth_eq]
  refine pairState_pairPoll_of_resync ((pairState_wakeServed _).trans ?_)
  simp only [followWord, pairState_wordShown, starting, held, decide_true, Bool.and_self, if_true]
  exact pairState_setPair _ _ (by decide)

end

/-! ### REPLICA messages land (R603) -/

section
variable {kind : Nat} {s : State} {p : Pkt} {x : RepMsg} {c : Core} {n : Nat} {stuck : Bool}
variable (serves : inService s.core = true) (ring : ringPort p.port = true) (same : stuck = transitFull s.core x.dst x.dir x.tag)
  (lands : landPkt s.core { p with cls := 0 } false stuck = (c, some n))
include serves ring same lands

theorem replicaLand_of_unreachable (lost : x.hops = 0 ∨ (x.dst ≠ c.chipId ∧ memberIdx c x.dst = none)) :
    replicaLand kind p x s.m = (⟨raise ((if stuck then releaseCr c n 0 (pktCost (datagram p.len p.enc)) p.retx true else c).count
      RING_UNREACHABLE) .ringUnreachable 0 0 x.dst, s.mem⟩, none) := by
  subst same
  have away : (decide (x.hops = 0) || (x.dst != c.chipId && (memberIdx c x.dst).isNone)) = true := by
    rcases lost with none | ⟨other, gone⟩
    · simp only [none, decide_true, Bool.true_or]
    · simp only [bne_iff_ne.mpr other, gone, Option.isNone_none, Bool.and_self, Bool.or_true]
  simp only [replicaLand, State.m_core, serves, ring, Bool.not_true, Bool.or_self, Bool.false_eq_true, if_false, lands, away, if_true]

theorem replicaLand_of_passing (hops : x.hops ≠ 0) (other : x.dst ≠ c.chipId) (member : (memberIdx c x.dst).isSome = true) :
    replicaLand kind p x s.m = (⟨transit c n p stuck x.dir 0x7A 0 x.len [x.origin, x.dst, x.hops - 1, x.dir, x.tag, kind, x.part,
      x.extent, x.fseq, x.offset, x.len, pmapNat x.pmap] x.data, s.mem⟩, none) := by
  subst same
  have known : (memberIdx c x.dst).isNone = false := by rw [← Option.not_isSome, member]; rfl
  simp only [replicaLand, State.m_core, serves, ring, Bool.not_true, Bool.or_self, Bool.false_eq_true, if_false, lands, hops, known,
    decide_false, Bool.and_false, other, ne_eq, not_false_eq_true, if_true]

end

theorem replicaLand_of_whole {kind : Nat} {s : State} {p : Pkt} {x : RepMsg} {m : M} {data : List Byte}
    (whole : Replicated s p x m data) : replicaLand kind p x s.m = (m, some data) := by
  obtain ⟨serves, ring, c, n, c', hops, lands, mine, complete, origin, pairs, rfl⟩ := whole
  have here : (x.dst != c.chipId) = false := by rw [mine]; exact bne_self_eq_false _
  simp only [replicaLand, State.m_core, serves, ring, Bool.not_true, Bool.or_self, Bool.false_eq_true, if_false, lands, hops, here,
    decide_false, Bool.false_and, show ¬ x.dst ≠ c.chipId from not_not_intro mine, complete, origin, pairs, decide_true, Bool.and_self,
    if_true]

/-- A REPLICA message that is not for this chip does the same under every KIND. -/
theorem does_of_notHere {cmd : Pkt → RepMsg → Instr} {kind : Nat} (of : ReplicaCmd cmd kind) {s : State} {p : Pkt} {x : RepMsg} {m : M}
    (gone : replicaLand kind p x s.m = (m, none)) : does (cmd p x) s m := by
  simp only [ReplicaCmd, List.mem_cons, Prod.mk.injEq, List.not_mem_nil, or_false] at of
  rcases of with ⟨rfl, rfl⟩ | ⟨rfl, rfl⟩ | ⟨rfl, rfl⟩ | ⟨rfl, rfl⟩ | ⟨rfl, rfl⟩
  · exact does_of_run rfl (by simp only [replicaWrite, gone])
  · exact does_of_run rfl (by simp only [replicaResync, gone])
  · exact does_of_run rfl (by simp only [replicaFetch, gone])
  · exact does_of_run rfl (by simp only [replicaHealth, gone])
  · exact does_of_run rfl (by simp only [replicaDigest, gone])

/-! ### Mirrored writes and copies at a standby (R605) -/

/-- Messages for a standby find one. -/
theorem standby_iff (c : Core) : (decide (pairState c = 2) || decide (pairState c = 3)) = standby c := rfl

section
variable {s : State} {p : Pkt} {x : RepMsg} {m : M} {data : List Byte}

theorem replicaWrite_of_denied (whole : Replicated s p x m data)
    (denied : xFrame m.core x.extent x.offset = none ∨ standby m.core = false) :
    replicaWrite p x s.m = m.on (fun c => replyRep c x.origin x.tag x.part .accessDenied) := by
  simp only [replicaWrite, replicaLand_of_whole whole, standby_iff]
  split
  · rfl
  · next f found =>
    have idle : standby m.core = false := denied.resolve_left (by rw [found]; exact Option.some_ne_none f)
    simp only [idle, Bool.not_false, if_true]

theorem replicaResync_of_denied (whole : Replicated s p x m data)
    (denied : xFrame m.core x.extent x.offset = none ∨ standby m.core = false) :
    replicaResync p x s.m = m.on (fun c => replyRep c x.origin x.tag x.part .accessDenied) := by
  simp only [replicaResync, replicaLand_of_whole whole, standby_iff]
  split
  · rfl
  · next f found =>
    have idle : standby m.core = false := denied.resolve_left (by rw [found]; exact Option.some_ne_none f)
    simp only [idle, Bool.not_false, if_true]

variable {f : Nat} (whole : Replicated s p x m data) (found : xFrame m.core x.extent x.offset = some f) (stands : standby m.core = true)
include whole found stands

theorem replicaWrite_of_old (old : serialNewer x.fseq (frameSeq m.core x.extent f) = false) :
    replicaWrite p x s.m = m.on (fun c => replyRep c x.origin x.tag x.part .done) := by
  rw [frameSeq] at old
  simp only [replicaWrite, replicaLand_of_whole whole, found, standby_iff, stands, Bool.not_true, Bool.false_eq_true, if_false, old,
    Bool.not_false, if_true]

theorem replicaWrite_of_new (newer : serialNewer x.fseq (frameSeq m.core x.extent f) = true) :
    replicaWrite p x s.m = holdReplica m (heldEarly false x f data m.core.tick) := by
  rw [frameSeq] at newer
  simp only [replicaWrite, replicaLand_of_whole whole, found, standby_iff, stands, Bool.not_true, Bool.false_eq_true, if_false, newer]
  rfl

theorem replicaResync_of_frame : replicaResync p x s.m = holdReplica m (heldEarly true x f data m.core.tick) := by
  simp only [replicaResync, replicaLand_of_whole whole, found, standby_iff, stands, Bool.not_true, Bool.false_eq_true, if_false]
  rfl

end

/-- The message is the one that its frame may take next. -/
def takesNext (c : Core) (e f : Nat) (r : Replica) : Bool :=
  r.extent == e && r.frame == f && (r.copy || r.fseq == (frameSeq c e f + 1) % 2 ^ 32)

theorem nextReplica_eq (c : Core) (e f : Nat) : nextReplica c e f = c.pair.early.find? (takesNext c e f) := rfl

theorem takesNext_iff {c : Core} {e f : Nat} {r : Replica} : takesNext c e f r = true ↔
    r.extent = e ∧ r.frame = f ∧ (r.copy = true ∨ r.fseq = (frameSeq c e f + 1) % 2 ^ 32) := by
  simp only [takesNext, Bool.and_eq_true, Bool.or_eq_true, beq_iff_eq, and_assoc]

theorem appliedAt_eq (c : Core) (r : Replica) : appliedAt c r = appliedReplica c r := by
  unfold appliedAt appliedReplica onPair
  cases r.copy <;> rfl

section
variable {m : M} {r : Replica}
variable (first : ∀ y ∈ m.core.pair.early, takesNext m.core r.extent r.frame y = false)
include first

/-- The standby that holds the message finds it when its turn has come, and no other before it. -/
theorem nextReplica_holdsIt : nextReplica (holdsIt m.core r) r.extent r.frame =
    if takesNext m.core r.extent r.frame r then some r else none := by
  have same : takesNext (holdsIt m.core r) r.extent r.frame = takesNext m.core r.extent r.frame := rfl
  rw [nextReplica_eq, same, show (holdsIt m.core r).pair.early = m.core.pair.early ++ [r] from rfl, List.find?_append,
    List.find?_eq_none.mpr (fun y inside => by rw [first y inside]; exact Bool.false_ne_true), Option.none_or, List.find?_singleton]

theorem holdReplica_of_waiting (waits : takesNext m.core r.extent r.frame r = false) :
    holdReplica m r = runDigests (m.on (fun c => holdsIt c r)) r.extent r.frame := by
  have none : nextReplica (m.on (fun c => holdsIt c r)).core r.extent r.frame = none := by
    rw [M.on_core, nextReplica_holdsIt first, waits]; rfl
  change applyEarly (_ + 1) r.extent r.frame (m.on (fun c => holdsIt c r)) = _
  simp only [applyEarly, none]

variable (turn : takesNext m.core r.extent r.frame r = true)
include turn

theorem holdReplica_of_unbacked {m1 : M}
    (stored : storeReplica (m.on (fun c => holdsIt c r)) r.extent r.offset r.data r.poisons = (m1, none)) : holdReplica m r = m1 := by
  have found : nextReplica (m.on (fun c => holdsIt c r)).core r.extent r.frame = some r := by
    rw [M.on_core, nextReplica_holdsIt first, turn]; rfl
  change applyEarly (_ + 1) r.extent r.frame (m.on (fun c => holdsIt c r)) = _
  simp only [applyEarly, found, stored]

theorem holdReplica_of_stored {m1 : M} {st : Status} (owned : r.owner < 2 ^ 64)
    (stored : storeReplica (m.on (fun c => holdsIt c r)) r.extent r.offset r.data r.poisons = (m1, some st)) :
    holdReplica m r = applyEarly (m.core.pair.early.length + 1) r.extent r.frame (runDigests
      (m1.on (fun c => replyRep (appliedAt c r) (partnerChip (appliedAt c r)) r.owner (partOf c r.extent) st)) r.extent r.frame) := by
  have found : nextReplica (m.on (fun c => holdsIt c r)).core r.extent r.frame = some r := by
    rw [M.on_core, nextReplica_holdsIt first, turn]; rfl
  have fuel : (m.on (fun c => holdsIt c r)).core.pair.early.length + 1 = m.core.pair.early.length + 1 + 1 := by
    rw [M.on_core, show (holdsIt m.core r).pair.early = m.core.pair.early ++ [r] from rfl, List.length_append, List.length_singleton]
  change applyEarly ((m.on (fun c => holdsIt c r)).core.pair.early.length + 1) r.extent r.frame (m.on (fun c => holdsIt c r)) = _
  rw [fuel]
  simp only [applyEarly, found, stored, owned, if_true, appliedAt_eq]
  rfl

end

/-! ### Digests, fetches and health words -/

section
variable {s : State} {p : Pkt} {x : RepMsg} {m : M} {data : List Byte} (whole : Replicated s p x m data)
include whole

theorem replicaDigest_of_standby {f : Nat} (found : xFrame m.core x.extent x.offset = some f) (stands : standby m.core = true) :
    replicaDigest p x s.m = runDigests (m.on (fun c => onPair c (fun v =>
      { v with digests := v.digests ++ [(x.extent, x.offset, x.fseq, leNat data)] }))) x.extent f := by
  simp only [replicaDigest, replicaLand_of_whole whole, found, standby_iff, stands, Bool.not_true, Bool.false_eq_true, if_false]
  rfl

theorem replicaDigest_of_other {f : Nat} (found : xFrame m.core x.extent x.offset = some f) (other : standby m.core = false) :
    replicaDigest p x s.m = m := by
  simp only [replicaDigest, replicaLand_of_whole whole, found, standby_iff, other, Bool.not_false, if_true]

theorem replicaFetch_of_frame {f : Nat} {m1 : M} {b : List Byte} {ps : List Bool} (found : xFrame m.core x.extent x.offset = some f)
    (peeked : peekBytes m x.extent x.offset x.len = (m1, b, ps)) : replicaFetch p x s.m = m1.on (fun c =>
      fwdReply c x.origin x.tag x.part [statusCode (if ps.any id then .poisoned else .done), b.length, 0, 0, 0]
        (blankPoison b ps) none) := by
  simp only [replicaFetch, replicaLand_of_whole whole, found, peeked]

theorem replicaHealth_of_broken {w : Nat} (word : w = x.offset % 2 ^ 64)
    (broken : leNat data ≠ (crc32c (natLe 8 w)).toNat ∨ m.core.pair.aliveRx = some (bitsOf w 15 8)) : replicaHealth p x s.m = m := by
  subst word
  simp only [replicaHealth, replicaLand_of_whole whole]
  exact if_pos (by simpa only [Bool.or_eq_true, decide_eq_true_eq, beq_iff_eq] using broken)

theorem replicaHealth_of_intact {w : Nat} (word : w = x.offset % 2 ^ 64) (intact : leNat data = (crc32c (natLe 8 w)).toNat)
    (fresh : m.core.pair.aliveRx ≠ some (bitsOf w 15 8)) : replicaHealth p x s.m = m.on (fun c => takeHealth c w) := by
  subst word
  simp only [replicaHealth, replicaLand_of_whole whole]
  exact if_neg (by simpa only [Bool.or_eq_true, decide_eq_true_eq, beq_iff_eq, not_or, Decidable.not_not] using ⟨intact, fresh⟩)

end

end Sys2Proof.Machine

/-! Writes of a pair that go unanswered, digests that differ, the copies of a resynchronisation, and the statement about REPLICA
messages as a whole. -/

namespace Sys2Proof.Machine
open Sys2Proof

/-! ### The dirty list (R606) -/

theorem mem_dirty_addDirty (c : Core) (k : Nat) : k ∈ (addDirty c k).pair.dirty := by
  unfold addDirty
  split
  · next there => exact List.contains_iff_mem.mp there
  · exact List.mem_append_right _ (List.mem_singleton.mpr rfl)

theorem mem_dirty_addDirty_of_mem {c : Core} {k : Nat} (there : k ∈ c.pair.dirty) (j : Nat) : k ∈ (addDirty c j).pair.dirty := by
  unfold addDirty
  split
  · exact there
  · exact List.mem_append_left _ there

theorem mem_dirty_foldl_of_mem {c : Core} {k : Nat} (there : k ∈ c.pair.dirty) (l : List Nat) : k ∈ (l.foldl addDirty c).pair.dirty := by
  induction l generalizing c with
  | nil => exact there
  | cons j t ih => exact ih (mem_dirty_addDirty_of_mem there j)

/-- Every key of a list that is added is dirty afterwards. -/
theorem mem_dirty_foldl {l : List Nat} {k : Nat} (listed : k ∈ l) (c : Core) : k ∈ (l.foldl addDirty c).pair.dirty := by
  induction l generalizing c with
  | nil => exact absurd listed (List.not_mem_nil)
  | cons j t ih =>
    rcases List.mem_cons.mp listed with rfl | later
    · exact mem_dirty_foldl_of_mem (mem_dirty_addDirty c k) t
    · exact ih later _

/-- The dirty list apart, adding to it leaves the pair's bookkeeping alone. -/
theorem addDirty_outstanding (c : Core) (k : Nat) : (addDirty c k).pair.outstanding = c.pair.outstanding := by
  unfold addDirty; split <;> rfl

theorem addDirty_synced (c : Core) (k : Nat) : (addDirty c k).pair.synced = c.pair.synced := by
  unfold addDirty; split <;> rfl

theorem pairState_addDirty (c : Core) (k : Nat) : pairState (addDirty c k) = pairState c := by
  unfold addDirty; split <;> rfl

/-! ### Writes without an answer (R606) -/

/-- The message is awaited no longer, and the pair is not synced. -/
def unanswered (c : Core) (r : Replica) : Core :=
  onPair c (fun v => { v with outstanding := v.outstanding.filter (· != r), synced := false })

/-- A holder whose write failed goes on alone. -/
def goesAlone (c : Core) : Core := if pairState c = 5 then setPair c 6 else c

theorem goesAlone_pair (c : Core) : (goesAlone c).pair = c.pair := by
  unfold goesAlone; split
  · exact setPair_pair _ _
  · rfl

section
variable (c : Core) {r : Replica}

theorem replicaFail_of_copy (copy : r.copy = true) : replicaFail c r =
    (unitsOf r.extent r.offset (match ext? c r.extent with | some x => frameBytes x | none => 0)).foldl addDirty (unanswered c r) := by
  unfold replicaFail
  exact if_pos copy

theorem replicaFail_of_write (write : r.copy = false) : replicaFail c r =
    logEntry (goesAlone (addDirty (unanswered c r) (dirtyKey r.extent r.offset))) (evCode .pairOutOfSync) 0 false 0 0 1 0 := by
  have notice := raise_of_notice (e := .pairOutOfSync) (by decide)
  unfold replicaFail
  exact (if_neg (by rw [write]; exact Bool.false_ne_true)).trans (notice _ 0 0 0 1)

theorem notMem_unanswered : r ∉ (unanswered c r).pair.outstanding := by
  intro there
  have apart := (List.mem_filter.mp there).2
  rw [bne_self_eq_false] at apart
  exact Bool.false_ne_true apart

theorem replicaFail_unanswered (r : Replica) : (replicaFail c r).pair.outstanding = (unanswered c r).pair.outstanding ∧
    (replicaFail c r).pair.synced = false := by
  cases copy : r.copy with
  | true =>
    rw [replicaFail_of_copy c copy]
    exact ⟨foldl_keeps (fun d : Core => d.pair.outstanding) addDirty_outstanding _ _,
      foldl_keeps (fun d : Core => d.pair.synced) addDirty_synced _ _⟩
  | false =>
    rw [replicaFail_of_write c copy, logEntry_pair, goesAlone_pair, addDirty_outstanding, addDirty_synced]
    exact ⟨rfl, rfl⟩

theorem mem_dirty_replicaFail (write : r.copy = false) : dirtyKey r.extent r.offset ∈ (replicaFail c r).pair.dirty := by
  rw [replicaFail_of_write c write, logEntry_pair, goesAlone_pair]
  exact mem_dirty_addDirty _ _

theorem pairState_replicaFail (write : r.copy = false) (active : pairState c = 5) : pairState (replicaFail c r) = 6 := by
  have still : pairState (addDirty (unanswered c r) (dirtyKey r.extent r.offset)) = 5 := (pairState_addDirty _ _).trans active
  rw [replicaFail_of_write c write, pairState_congr (rget_logEntry_ne (by decide) _ _ _ _ _ _ _ (by decide)), goesAlone, if_pos still]
  exact pairState_setPair _ _ (by decide)

end

section
variable {c : Core} {e f q l : Nat} {r : Replica} (limit : l = c.fld RING_FWD RING_FWD_TIMEOUT_TICKS)
  (overdue : c.pair.outstanding.find? (fun y => y.extent == e && y.frame == f && y.fseq == q && y.tick + l < c.tick) = some r)
include limit overdue

theorem replicaTimeout_of_unsent (unsent : r.sent = none) : replicaTimeout e f q c = drainCheck (replicaFail c r) := by
  subst limit
  simp only [replicaTimeout, overdue, unsent]

theorem replicaTimeout_of_sent {t : Nat} {d : Core} (sent : r.sent = some t)
    (dropped : d = { c with ring := { c.ring with fwds := c.ring.fwds.filter (fun g => !(g.kind == 5 && g.tag == t)) } }) :
    replicaTimeout e f q c = drainCheck (replicaFail (dropTag d t) r) := by
  subst limit dropped
  simp only [replicaTimeout, overdue, sent]

end

/-! ### Digests (R618, R619) -/

theorem newTag_pair (c : Core) : (newTag c).1.pair = c.pair := by
  unfold newTag; split <;> rfl

/-- A REPLICA message that goes out leaves the pair's bookkeeping alone. -/
theorem sendReplica_pair (c : Core) (kind part ext fseq off len : Nat) (data : List Byte) (pmap fk : Nat) (who : Nat × Nat × Nat) :
    (sendReplica c kind part ext fseq off len data pmap fk who).1.pair = c.pair := by
  have same := newTag_pair c
  unfold sendReplica
  split
  · next h => rw [h] at same; exact same
  · rfl

/-- A mismatch that a STANDBY finds is counted and logged. -/
def noteMismatch (c : Core) (detail : Nat) : Core :=
  if pairState c = 3 then
    let c := raise (c.count PAIR_VERIFY_MISMATCH) .pairVerifyMismatch 0 0 detail
    { c with pair := { c.pair with badTick := some c.tick } }
  else c

/-- A frame that differs is dirty, and asked for again. -/
def askAgain (part e start n key : Nat) (c : Core) : Core × Option Nat :=
  sendReplica ((unitsOf e start n).foldl addDirty (noteMismatch c key)) 2 part e 0 start n [] 0 6 (key, 1, 0)

theorem mem_dirty_askAgain {part e start n key k : Nat} (listed : k ∈ unitsOf e start n) (c : Core) :
    k ∈ (askAgain part e start n key c).1.pair.dirty := by
  rw [askAgain, sendReplica_pair]
  exact mem_dirty_foldl listed _

theorem compareDigest_eq (m : M) (e f v : Nat) : compareDigest m e f v = match ext? m.core e with
    | none => m
    | some x => match peekBytes m e (f * frameBytes x) (frameBytes x) with
      | (m, bytes, _) => if (crc64 bytes).toNat = v then m else m.on (fun c =>
          (askAgain x.partition e (f * frameBytes x) (frameBytes x) (e * 2 ^ 36 + f * frameBytes x) c).1) := rfl

section
variable {m m1 : M} {e f v : Nat} {x : Extent} {b : List Byte} {ps : List Bool} (there : ext? m.core e = some x)
  (peeked : peekBytes m e (f * frameBytes x) (frameBytes x) = (m1, b, ps))
include there peeked

theorem compareDigest_of_same (same : (crc64 b).toNat = v) : compareDigest m e f v = m1 := by
  simp only [compareDigest_eq, there, peeked, same, if_true]

theorem mem_dirty_compareDigest (differs : (crc64 b).toNat ≠ v) : (compareDigest m e f v).mem = m1.mem ∧
    ∀ k ∈ unitsOf e (f * frameBytes x) (frameBytes x), k ∈ (compareDigest m e f v).core.pair.dirty := by
  have asked : compareDigest m e f v = m1.on (fun c =>
      (askAgain x.partition e (f * frameBytes x) (frameBytes x) (e * 2 ^ 36 + f * frameBytes x) c).1) := by
    simp only [compareDigest_eq, there, peeked, differs, if_false]
  rw [asked]
  refine ⟨M.on_mem _ _, fun k listed => ?_⟩
  rw [M.on_core]
  exact mem_dirty_askAgain listed _

end

/-! ### Copies of a resynchronisation (R618) -/

section
variable {c : Core} {mem : Mem} {ns k e : Nat} {rest : List Nat} (listed : c.pair.dirty = k :: rest) (holds : pairHolder c = true)
  (partner : partnerState c = 2 ∨ partnerState c = 3) (hears : c.pair.missed < 3) (fits : stepFits c 3 ns = true)
  (serves : inService c = true) (key : e = k / 2 ^ 16)
include listed holds partner hears fits serves key

theorem resyncCopy_of_gone (gone : xFrame c e (k % 2 ^ 16 * 2 ^ 21) = none) :
    resyncCopy ns ⟨c, mem⟩ = ⟨onPair c (fun v => { v with dirty := rest }), mem⟩ := by
  subst key
  have resyncs : (!(decide (partnerState c = 2) || decide (partnerState c = 3))) = false := by
    rcases partner with shown | shown <;> rw [shown] <;> rfl
  have near : decide (3 ≤ c.pair.missed) = false := decide_eq_false (by omega)
  simp only [resyncCopy, listed, holds, resyncs, near, fits, serves, gone, Bool.not_true, Bool.or_self, Bool.false_eq_true, if_false]
  cases ext? c (k / 2 ^ 16) with
  | none => rfl
  | some x => rfl

theorem resyncCopy_of_frame {f q t n : Nat} {units : List Nat} {x : Extent} {m1 : M} {b : List Byte} {ps : List Bool} {d v : Core}
    (there : ext? c e = some x) (found : xFrame c e (k % 2 ^ 16 * 2 ^ 21) = some f) (size : n = frameBytes x)
    (peeked : peekBytes ⟨c, mem⟩ e (f * n) n = (m1, b, ps)) (seq : q = frameSeq m1.core e f) (copies : units = unitsOf e (f * n) n)
    (sent : sendReplica m1.core 1 x.partition e q (f * n) n (blankPoison b ps) (pmapNat ps) 5 (e * 2 ^ 16 + f, q, f * n) = (d, some t))
    (waits : v = onPair d (fun v => { v with
      outstanding := v.outstanding ++ [⟨e, f, q, f * n, [], [], d.tick, 2 ^ 64, some t, true⟩],
      dirty := v.dirty.filter (fun k => !units.contains k), copied := distinctOf (v.copied ++ units) })) :
    resyncCopy ns ⟨c, mem⟩ = sendDigest ⟨useSlice (v.count PAIR_RESYNC_FRAMES) 3 ns, m1.mem⟩ e f := by
  subst key size seq copies waits
  have resyncs : (!(decide (partnerState c = 2) || decide (partnerState c = 3))) = false := by
    rcases partner with shown | shown <;> rw [shown] <;> rfl
  have near : decide (3 ≤ c.pair.missed) = false := decide_eq_false (by omega)
  rw [frameSeq] at sent
  simp only [resyncCopy, listed, holds, resyncs, near, fits, serves, there, found, peeked, sent, Bool.not_true, Bool.or_self,
    Bool.false_eq_true, if_false]
  rfl

end

/-! ### The statement -/

/-- Settles O48: each REPLICA message lands by one rule, and what it then does is the clause's own; the health word and the writes
without an answer go by the rules of PAIR_STATUS. -/
theorem replication : Obligations.Replication := by
  unfold Obligations.Replication
  refine ⟨?lands, ?denied, ?held, ?read, ?health, ?shown, ?digest, ?timeout, ?fail, ?copy, ?gone⟩
  case lands =>
    intro cmd k of s p x c n stuck serves ring same lands
    exact ⟨fun lost => does_of_notHere of (replicaLand_of_unreachable serves ring same lands lost),
      fun hops other member => does_of_notHere of (replicaLand_of_passing serves ring same lands hops other member)⟩
  case denied =>
    rintro s p x m data whole denied cmd (rfl | rfl)
    · exact does_of_run rfl (replicaWrite_of_denied whole denied)
    · exact does_of_run rfl (replicaResync_of_denied whole denied)
  case held =>
    intro s p x m data f next whole found stands seq small
    refine ⟨fun old => does_of_run rfl (replicaWrite_of_old whole found stands old), ?_⟩
    intro none cmd copy pair r held message held' due
    subst seq message held'
    have first : ∀ y ∈ m.core.pair.early, takesNext m.core x.extent f y = false :=
      fun y inside => Bool.eq_false_iff.mpr (mt takesNext_iff.mp (none y inside))
    have step : ∀ m', holdReplica m (heldEarly copy x f data m.core.tick) = m' → does (cmd p x) s m' := by
      intro m' made
      simp only [List.mem_cons, Prod.mk.injEq, List.not_mem_nil, or_false] at pair
      rcases pair with ⟨rfl, rfl⟩ | ⟨rfl, rfl⟩
      · exact does_of_run rfl ((replicaWrite_of_new whole found stands (due.resolve_left Bool.false_ne_true)).trans made)
      · exact does_of_run rfl ((replicaResync_of_frame whole found stands).trans made)
    refine ⟨fun write later => step _ (holdReplica_of_waiting first ?_), fun turn => ?_⟩
    · refine Bool.eq_false_iff.mpr (mt takesNext_iff.mp ?_)
      rintro ⟨-, -, iscopy | isnext⟩
      · exact Bool.false_ne_true (write.symm.trans iscopy)
      · exact later isnext
    · have taken : takesNext m.core x.extent f (heldEarly copy x f data m.core.tick) = true := takesNext_iff.mpr ⟨rfl, rfl, turn⟩
      exact ⟨fun m1 stored => step _ (holdReplica_of_unbacked first taken stored),
        fun m1 st stored => step _ (holdReplica_of_stored first taken (show x.tag < 2 ^ 64 by omega) stored)⟩
  case read =>
    intro s p x m data f whole found
    exact ⟨fun stands => does_of_run rfl (replicaDigest_of_standby whole found stands),
      fun other => does_of_run rfl (replicaDigest_of_other whole found other),
      fun m1 b ps peeked => does_of_run rfl (replicaFetch_of_frame whole found peeked)⟩
  case health =>
    intro s p x m data w whole word
    exact ⟨fun broken => does_of_run rfl (replicaHealth_of_broken whole word broken),
      fun intact fresh => does_of_run rfl (replicaHealth_of_intact whole word intact fresh)⟩
  case shown =>
    intro c w
    obtain ⟨partner, word, missed, alive⟩ := takeHealth_kept c w
    exact ⟨word.trans (rget_wordShown_rx c w), partner.trans (partnerState_wordShown c w), missed, alive,
      pairState_takeHealth_of_starting⟩
  case digest =>
    rintro m e f v n x m1 b ps there rfl peeked
    exact ⟨compareDigest_of_same there peeked, mem_dirty_compareDigest there peeked⟩
  case timeout =>
    intro s e f q r l serves limit overdue
    exact ⟨fun unsent => does_of_servedCore rfl serves (replicaTimeout_of_unsent limit overdue unsent),
      fun t c sent dropped => does_of_servedCore rfl serves (replicaTimeout_of_sent limit overdue sent dropped)⟩
  case fail =>
    intro c r
    obtain ⟨outstanding, synced⟩ := replicaFail_unanswered c r
    refine ⟨outstanding ▸ notMem_unanswered c, synced,
      fun write => ⟨mem_dirty_replicaFail c write, pairState_replicaFail c write⟩, fun x copy there k listed => ?_⟩
    rw [replicaFail_of_copy c copy, there]
    exact mem_dirty_foldl listed _
  case copy =>
    intro s ns k e f q t n rest units x m1 b ps c serves listed holds partner hears fits key there found size peeked seq copies sent v waits
    exact does_of_served rfl serves
      (resyncCopy_of_frame listed holds partner hears fits serves key there found size peeked seq copies sent waits)
  case gone =>
    intro s ns k e rest serves listed holds partner hears fits key gone
    exact does_of_served rfl serves (resyncCopy_of_gone listed holds partner hears fits serves key gone)

end Sys2Proof.Machine

/-! The states of a pair and its dual key: the effect of each of its commands (R609 to R617, R620). -/

namespace Sys2Proof.Machine
open Sys2Proof

theorem keyIn_congr {c d : Core} (same : c.rget PAIR_STATUS = d.rget PAIR_STATUS) : keyIn c = keyIn d := flag_congr same _
theorem keyOut_congr {c d : Core} (same : c.rget PAIR_STATUS = d.rget PAIR_STATUS) : keyOut c = keyOut d := flag_congr same _
theorem keyHeld_congr {c d : Core} (same : c.rget PAIR_STATUS = d.rget PAIR_STATUS) : keyHeld c = keyHeld d := flag_congr same _

theorem keyIn_setPair (c : Core) (st : Nat) : keyIn (setPair c st) = keyIn c := flag_setPair c st (by decide) (by decide)
theorem keyOut_setPair (c : Core) (st : Nat) : keyOut (setPair c st) = keyOut c := flag_setPair c st (by decide) (by decide)
theorem keyHeld_setPair (c : Core) (st : Nat) : keyHeld (setPair c st) = keyHeld c := flag_setPair c st (by decide) (by decide)

theorem keyIn_setKeyOut (c : Core) (b : Bool) : keyIn (setKeyOut c b) = keyIn c := by
  rw [keyIn, Core.flag, fld_setKeyOut c b (by decide), keyIn, Core.flag]

theorem setKeyOut_pair (c : Core) (b : Bool) : (setKeyOut c b).pair = c.pair := by rw [setKeyOut, Core.setFld_pair]

theorem rget_pairStatus (c : Core) (reason a : Nat) : (pairStatus c reason).rget a = c.rget a := Core.rget_congr (by rfl) a
theorem pairStatus_pair (c : Core) (reason : Nat) : (pairStatus c reason).pair = c.pair := rfl

theorem rget_wakeOn (p : ParkCause → Bool) (c : Core) (a : Nat) : (wakeOn p c).rget a = c.rget a := Core.rget_congr (by rfl) a
theorem wakeOn_pair (p : ParkCause → Bool) (c : Core) : (wakeOn p c).pair = c.pair := rfl

/-- The log touches no register of the pair. -/
theorem rget_logEntry_status (c : Core) (code : Nat) (esc : Bool) (kind unit cnt detail : Nat) :
    (logEntry c code 0 esc kind unit cnt detail).rget PAIR_STATUS = c.rget PAIR_STATUS :=
  rget_logEntry_ne (by decide) _ _ _ _ _ _ _ (by decide)

/-! ### The partner is lost (R613) -/

/-- The loss is acted on and told. -/
def lossTold (c : Core) : Core :=
  pairStatus (raise (onPair c (fun v => { v with lostActed := true })) .pairPartnerLost 0 0) (evCode .pairPartnerLost)

theorem rget_lossTold (c : Core) : (lossTold c).rget PAIR_STATUS = c.rget PAIR_STATUS := by
  rw [lossTold, rget_pairStatus, raise_of_notice (by decide), rget_logEntry_status, rget_onPair]

theorem lossTold_pair (c : Core) : (lossTold c).pair = { c.pair with lostActed := true } := by
  rw [lossTold, pairStatus_pair, raise_of_notice (by decide), logEntry_pair, onPair_pair]

section
variable {c : Core} (pairs : paired c = true) (missed : 3 ≤ c.pair.missed) (unacted : c.pair.lostActed = false)
include pairs missed unacted

theorem partnerLost_eq : partnerLost c = if pairState (lossTold c) = 5 then
    setPair (onPair (lossTold c) (fun v => { v with synced := false })) 6 else lossTold c := by
  have waits : (!paired c || decide (c.pair.missed < 3) || c.pair.lostActed) = false := by
    rw [pairs, unacted, decide_eq_false (by omega)]; rfl
  unfold partnerLost
  exact (if_neg (by rw [waits]; exact Bool.false_ne_true))

theorem partnerLost_of_active (active : pairState c = 5) : partnerLost c =
    setPair (onPair (lossTold c) (fun v => { v with synced := false })) 6 :=
  (partnerLost_eq pairs missed unacted).trans (if_pos ((pairState_congr (rget_lossTold c)).trans active))

theorem partnerLost_of_other (other : pairState c ≠ 5) : partnerLost c = lossTold c :=
  (partnerLost_eq pairs missed unacted).trans (if_neg (by rwa [pairState_congr (rget_lossTold c)]))

end

/-! ### What waits for the pair (R617) -/

section
variable {m : M} {t lim : Nat} (limit : lim = m.core.fld PAIR_CTRL PAIR_CTRL_WAIT_TICKS)
include limit

theorem pairParkTimeout_of_work {x n : Nat} {w : Work} (there : work? m.core x n = some w) (parks : w.phase = .parked .pair) :
    pairParkTimeout (.work x n) m = if lim ≤ w.waited then m.on (fun c => stopWork c x n .linkLost) else m := by
  subst limit
  simp only [pairParkTimeout, there, parks, decide_true, Bool.true_and, decide_eq_true_eq]

theorem pairParkTimeout_of_thread {th : Thread} (there : amGet? m.core.rasp.threads t = some th) (parks : th.wait = .parked .pair)
    (long : lim ≤ th.waited) : pairParkTimeout (.thread t) m = lateTrap m t (accessTrap .linkLost 0) := by
  subst limit
  simp only [pairParkTimeout, there, parks, decide_true, Bool.true_and, long, if_true]

theorem pairParkTimeout_of_request {r : Request} (there : req? m.core t = some r) (parks : r.cause = some .pair) (silent : r.reply = none)
    (long : lim ≤ r.waited) : pairParkTimeout (.request t) m = m.on (fun c => answer c r { status := .linkLost }) := by
  subst limit
  simp only [pairParkTimeout, there, parks, silent, Option.isNone_none, decide_true, Bool.true_and, long, if_true]

end

/-! ### PAIR_KEY_IN_N changes (R609, R610) -/

/-- IN as the pin shows it. -/
def keyInShown (b : Bool) (c : Core) : Core := c.setFld PAIR_STATUS PAIR_STATUS_KEY_IN (b2n b)

section
variable (b : Bool) (c : Core)

theorem keyIn_keyInShown : keyIn (keyInShown b c) = b := by
  rw [keyIn, Core.flag, keyInShown, Core.fld_setFld_self _ _ _ _ (by decide) (by decide)]
  cases b <;> rfl

theorem rget_keyInShown_ne {a : Nat} (other : a ≠ PAIR_STATUS) : (keyInShown b c).rget a = c.rget a := Core.rget_setFld_ne _ _ _ other

theorem keyInShown_pair : (keyInShown b c).pair = c.pair := by rw [keyInShown, Core.setFld_pair]
theorem keyInShown_glb : (keyInShown b c).glb = c.glb := by rw [keyInShown, Core.setFld_glb]

theorem pairState_keyInShown : pairState (keyInShown b c) = pairState c :=
  Core.fld_setFld_other _ _ _ _ _ (by decide) (by decide) (by decide) (by decide)

theorem keyHeld_keyInShown : keyHeld (keyInShown b c) = keyHeld c := by
  rw [keyHeld, Core.flag, keyInShown, Core.fld_setFld_other _ _ _ _ _ (by decide) (by decide) (by decide) (by decide), keyHeld, Core.flag]

end

/-- What follows a change of IN. -/
def keyInFollows (asserted : Bool) (c : Core) : Core :=
  if asserted then
    if pairState c = 4 && c.pair.step = .guard then stopTaking c false
    else if pairState c = 4 && c.pair.step = .settle then stopTaking (raise c .pairKeyCollision 0 0) true
    else if keyHeld c && (pairState c = 5 || pairState c = 6) then
      pairStatus (raise (setPair c 8) .pairDualKey 0 0) (evCode .pairDualKey)
    else c
  else if pairState c = 8 then wakeOn (· == .pair) (setPair c 6)
  else c

theorem keyInChange_of_change {c : Core} {b : Bool} (runs : powered c = true) (changes : keyIn c = !b) :
    keyInChange b c = keyInFollows b (keyInShown b c) := by
  have moves : (decide (keyIn c = b) || !powered c) = false := by rw [runs, changes]; cases b <;> rfl
  unfold keyInChange
  exact if_neg (by rw [moves]; exact Bool.false_ne_true)

section
variable (c : Core)

theorem keyIn_stopTaking (retry : Bool) : keyIn (stopTaking c retry) = keyIn c := by
  rw [keyIn, Core.flag, fld_stopTaking c retry (by decide) (by decide), keyIn, Core.flag]

/-- The chip's collision with its partner is logged alone. -/
theorem raise_collision : raise c .pairKeyCollision 0 0 = logEntry c (evCode .pairKeyCollision) 0 false 0 0 1 0 :=
  raise_of_notice (by decide) c 0 0 0 1

/-- Both members show the key: the chip fences X accesses. -/
def dualKey : Core := pairStatus (raise (setPair c 8) .pairDualKey 0 0) (evCode .pairDualKey)

theorem fld_dualKey {g : Fld} (above : AboveKeyOut g) : (dualKey c).fld PAIR_STATUS g = (setPair c 8).fld PAIR_STATUS g := by
  rw [dualKey, Core.fld_congr (rget_pairStatus _ _ _), fld_raise_status above]

theorem pairState_dualKey : pairState (dualKey c) = 8 := (fld_dualKey c (by decide)).trans (pairState_setPair c 8 (by decide))
theorem keyHeld_dualKey : keyHeld (dualKey c) = keyHeld c := by
  rw [keyHeld, Core.flag, fld_dualKey c (by decide), ← Core.flag, ← keyHeld, keyHeld_setPair]
theorem keyIn_dualKey : keyIn (dualKey c) = keyIn c := by
  rw [keyIn, Core.flag, fld_dualKey c (by decide), ← Core.flag, ← keyIn, keyIn_setPair]

/-- IN stays as the pin shows it. -/
theorem keyIn_keyInFollows (b : Bool) : keyIn (keyInFollows b c) = keyIn c := by
  unfold keyInFollows
  split
  · split
    · exact keyIn_stopTaking c false
    · split
      · rw [keyIn_stopTaking, raise_collision]
        exact keyIn_congr (rget_logEntry_status _ _ _ _ _ _ _)
      · split
        · exact keyIn_dualKey c
        · rfl
  · split
    · exact (keyIn_congr (rget_wakeOn _ _ _)).trans (keyIn_setPair c 6)
    · rfl

variable {c}

theorem keyInFollows_of_guard (taking : pairState c = 4) (guards : c.pair.step = .guard) : keyInFollows true c = stopTaking c false := by
  simp only [keyInFollows, taking, guards, decide_true, Bool.and_self, if_true]

theorem keyInFollows_of_settle (taking : pairState c = 4) (settles : c.pair.step = .settle) :
    keyInFollows true c = stopTaking (logEntry c (evCode .pairKeyCollision) 0 false 0 0 1 0) true := by
  have other : ¬ KeyStep.settle = KeyStep.guard := by decide
  simp only [keyInFollows, taking, settles, other, decide_true, decide_false, Bool.and_self, Bool.and_false, Bool.false_eq_true, if_true,
    if_false]
  rw [raise_collision]

theorem keyInFollows_of_holder (held : keyHeld c = true) (holds : pairState c = 5 ∨ pairState c = 6) : keyInFollows true c = dualKey c := by
  have resting : ¬ pairState c = 4 := by omega
  have holder : (decide (pairState c = 5) || decide (pairState c = 6)) = true := by
    rw [Bool.or_eq_true, decide_eq_true_eq, decide_eq_true_eq]; exact holds
  simp only [keyInFollows, resting, decide_false, Bool.false_and, Bool.false_eq_true, if_true, if_false, held, holder, Bool.and_self]
  rfl

theorem keyInFollows_of_dual (dual : pairState c = 8) : keyInFollows false c = wakeOn (· == .pair) (setPair c 6) := by
  simp only [keyInFollows, dual, Bool.false_eq_true, if_false, if_true]

/-- A chip that is taking the key stops when IN asserts. -/
theorem keyInFollows_of_taking (taking : pairState c = 4) (steps : c.pair.step = .guard ∨ c.pair.step = .settle) :
    pairState (keyInFollows true c) = c.pair.before % 16 ∧ keyOut (keyInFollows true c) = false ∧
      (keyInFollows true c).pair.step = .idle := by
  rcases steps with guards | settles
  · rw [keyInFollows_of_guard taking guards, stopTaking_pair]
    exact ⟨pairState_stopTaking c false, keyOut_stopTaking c false, rfl⟩
  · rw [keyInFollows_of_settle taking settles, stopTaking_pair, pairState_stopTaking, logEntry_pair]
    exact ⟨rfl, keyOut_stopTaking _ true, rfl⟩

theorem keyInFollows_retryAt (taking : pairState c = 4) (settles : c.pair.step = .settle) (first : primary c = true) :
    (keyInFollows true c).pair.retryAt = some (c.glb.now + 1000000) := by
  have same : primary (logEntry c (evCode .pairKeyCollision) 0 false 0 0 1 0) = primary c :=
    flag_congr (rget_logEntry_ne (by decide) _ _ _ _ _ _ _ (by decide)) _
  rw [keyInFollows_of_settle taking settles, stopTaking_pair, same, first, logEntry_now]
  rfl

end

end Sys2Proof.Machine

/-! The dual key is taken, settled, tried again and released, the fabric manager's commands to a pair, and the statement about the
states of a pair as a whole (R609 to R617, R620). -/

namespace Sys2Proof.Machine
open Sys2Proof

/-! ### Taking: the guard and the settle time (Table 17-7) -/

/-- OUT is asserted, and the settle time begins. -/
def settling (c : Core) : Core := setKeyOut (onPair c (fun v => { v with step := .settle, stepSince := c.glb.now })) true

theorem settling_pair (c : Core) : (settling c).pair = { c.pair with step := .settle, stepSince := c.glb.now } := by
  rw [settling, setKeyOut_pair, onPair_pair]

theorem keyHeld_settling (c : Core) : keyHeld (settling c) = keyHeld c :=
  (keyHeld_setKeyOut _ _).trans (keyHeld_congr (rget_onPair _ _ _))

section
variable {c : Core} {time : Nat} (taking : pairState (c.at time) = 4) (unasserted : keyIn (c.at time) = false)
include taking unasserted

theorem keyGuardEnd_of_guarded (guards : (c.at time).pair.step = .guard)
    (passed : (c.at time).pair.stepSince + (c.at time).fld PAIR_KEY_TIMING PAIR_KEY_TIMING_GUARD_US * 1000 ≤ (c.at time).glb.now) :
    keyGuardEnd time c = settling (c.at time) := by
  unfold keyGuardEnd
  generalize c.at time = d at *
  dsimp only
  refine if_pos ?_
  rw [taking, guards, unasserted, decide_eq_true passed]
  rfl

end

/-- The key is held, and counted. -/
def keyHolding (c : Core) : Core := ((loseUncopied c).setFld PAIR_STATUS PAIR_STATUS_KEY_HELD 1).count PAIR_KEY_CHANGES

/-- What a holder lists and shows, by its partner's word. -/
def heldBy (synced : Bool) (c : Core) : Core :=
  onPair c (fun v => { v with
    step := .idle, dataValid := true, synced := synced,
    dirty := if partnerState c = 2 && !partnerBit c 25 then xUnits c else [], copied := [] })

/-- The state of a holder by its partner's word, and the frames that its partner lacks. -/
def holderState (c : Core) : Core := heldBy (partnerBit c 26) (setPair c (if partnerBit c 26 then 5 else 6))

/-- A promotion that was asked for is answered. -/
def answerPromotion (c : Core) : Core :=
  match c.pair.promoting with
  | some src => mgmtReply (onPair c (fun v => { v with promoting := none })) src mopPromote .accepted []
  | none => c

theorem answerPromotion_regs (c : Core) : (answerPromotion c).regs = c.regs := by
  unfold answerPromotion; split
  · exact mgmtReply_regs _ _ _ _ _
  · rfl

theorem answerPromotion_pair (c : Core) : (answerPromotion c).pair = { c.pair with promoting := none } := by
  unfold answerPromotion; split
  · exact mgmtReply_pair _ _ _ _ _
  · next none => rw [← none]

/-- What follows the event that the key is taken. -/
def takenFrom (c : Core) : Core :=
  let synced := partnerBit c 26
  let c := setPair c (if synced then 5 else 6)
  let dirty := if partnerState c = 2 && !partnerBit c 25 then xUnits c else []
  let c := { c with pair := { c.pair with step := .idle, dataValid := true, synced := synced, dirty := dirty, copied := [] } }
  let c := match c.pair.promoting with
    | some src => mgmtReply { c with pair := { c.pair with promoting := none } } src mopPromote .accepted []
    | none => c
  wakeOn (· == .pair) c

theorem takenFrom_eq (c : Core) : takenFrom c = wakeOn (· == .pair) (answerPromotion (holderState c)) := rfl

/-- The key is taken. -/
def keyTaken (c : Core) : Core := takenFrom (raise (keyHolding c) .pairKeyTaken 0 0)

theorem keySettleEnd_eq (time : Nat) (c : Core) : keySettleEnd time c =
    if pairState (c.at time) = 4 && (c.at time).pair.step = .settle && !keyIn (c.at time) &&
      (c.at time).pair.stepSince + (c.at time).fld PAIR_KEY_TIMING PAIR_KEY_TIMING_SETTLE_US * 1000 ≤ (c.at time).glb.now then
    keyTaken (c.at time) else c.at time := rfl

theorem keySettleEnd_of_settled {c : Core} {time : Nat} (taking : pairState (c.at time) = 4) (unasserted : keyIn (c.at time) = false)
    (settles : (c.at time).pair.step = .settle)
    (passed : (c.at time).pair.stepSince + (c.at time).fld PAIR_KEY_TIMING PAIR_KEY_TIMING_SETTLE_US * 1000 ≤ (c.at time).glb.now) :
    keySettleEnd time c = keyTaken (c.at time) := by
  rw [keySettleEnd_eq]
  refine if_pos ?_
  rw [taking, settles, unasserted, decide_eq_true passed]
  rfl

/-- The frames that are lost when the member is promoted (R616). -/
def lostNow (c : Core) : List Nat :=
  if c.pair.before ≠ 2 then c.pair.lost
  else distinctOf (c.pair.lost ++
    if c.pair.dataValid then c.pair.dirty else (xUnits c).filter (fun k => !c.pair.copied.contains k))

theorem loseUncopied_pair (c : Core) : (loseUncopied c).pair = { c.pair with lost := lostNow c } := by
  unfold loseUncopied lostNow; split <;> rfl

theorem loseUncopied_regs (c : Core) : (loseUncopied c).regs = c.regs := by
  unfold loseUncopied; split <;> rfl

section
variable (c : Core)

theorem keyHolding_pair : (keyHolding c).pair = { c.pair with lost := lostNow c } := by
  rw [keyHolding, Core.count_pair, Core.setFld_pair, loseUncopied_pair]

theorem rget_keyHolding_ne {a : Nat} (status : a ≠ PAIR_STATUS) (changes : a ≠ PAIR_KEY_CHANGES) : (keyHolding c).rget a = c.rget a := by
  rw [keyHolding, Core.rget_count_ne _ _ changes, Core.rget_setFld_ne _ _ _ status, Core.rget_congr (loseUncopied_regs c)]

theorem keyHeld_keyHolding : keyHeld (keyHolding c) = true := by
  rw [keyHeld, keyHolding, flag_congr (Core.rget_count_ne _ _ (by decide)), Core.flag,
    Core.fld_setFld_self _ _ _ _ (by decide) (by decide)]
  rfl

theorem keyOut_keyHolding : keyOut (keyHolding c) = keyOut c := by
  rw [keyOut, keyHolding, flag_congr (Core.rget_count_ne _ _ (by decide)), Core.flag,
    Core.fld_setFld_other _ _ _ _ _ (by decide) (by decide) (by decide) (by decide),
    Core.fld_congr (Core.rget_congr (loseUncopied_regs c) _), keyOut, Core.flag]

/-- The key taken is logged alone. -/
theorem raise_keyTaken : raise c .pairKeyTaken 0 0 = logEntry c (evCode .pairKeyTaken) 0 false 0 0 1 0 :=
  raise_of_notice (by decide) c 0 0 0 1

theorem keyTaken_regs : (keyTaken c).regs = (holderState (raise (keyHolding c) .pairKeyTaken 0 0)).regs := by
  rw [keyTaken, takenFrom_eq]
  exact answerPromotion_regs _

/-- What the holder's registers show of the key is what they showed before the state changed. -/
theorem rget_holderState : (holderState c).rget PAIR_STATUS = (setPair c (if partnerBit c 26 then 5 else 6)).rget PAIR_STATUS :=
  rget_onPair _ _ _

theorem keyHeld_keyTaken : keyHeld (keyTaken c) = true := by
  rw [keyHeld_congr ((Core.rget_congr (keyTaken_regs c) _).trans (rget_holderState _)), keyHeld_setPair, raise_keyTaken,
    keyHeld_congr (rget_logEntry_status _ _ _ _ _ _ _), keyHeld_keyHolding]

theorem keyOut_keyTaken : keyOut (keyTaken c) = keyOut c := by
  rw [keyOut_congr ((Core.rget_congr (keyTaken_regs c) _).trans (rget_holderState _)), keyOut_setPair, raise_keyTaken,
    keyOut_congr (rget_logEntry_status _ _ _ _ _ _ _), keyOut_keyHolding]

theorem partnerBit_taken (i : Nat) : partnerBit (raise (keyHolding c) .pairKeyTaken 0 0) i = partnerBit c i := by
  have same : (raise (keyHolding c) .pairKeyTaken 0 0).rget PAIR_HEALTH_RX = c.rget PAIR_HEALTH_RX := by
    rw [raise_keyTaken, rget_logEntry_ne (by decide) _ _ _ _ _ _ _ (by decide), rget_keyHolding_ne c (by decide) (by decide)]
  rw [partnerBit, same, partnerBit]

theorem pairState_keyTaken : pairState (keyTaken c) = (if partnerBit c 26 then 5 else 6) := by
  rw [pairState_congr ((Core.rget_congr (keyTaken_regs c) _).trans (rget_holderState _)), pairState_setPair, partnerBit_taken]
  split <;> decide

theorem takenFrom_pair : (takenFrom c).pair = { (holderState c).pair with promoting := none } := by
  rw [takenFrom_eq, wakeOn_pair, answerPromotion_pair]

theorem holderState_lost : (holderState c).pair.lost = c.pair.lost := by
  rw [holderState, heldBy, onPair_pair, setPair_pair]

theorem takenFrom_lost : (takenFrom c).pair.lost = c.pair.lost := by
  rw [takenFrom_pair]
  exact holderState_lost c

theorem keyTaken_lost : (keyTaken c).pair.lost = lostNow c := by
  rw [keyTaken, takenFrom_lost, raise_keyTaken, logEntry_pair, keyHolding_pair]

theorem takenFrom_shown : (takenFrom c).pair.step = .idle ∧ (takenFrom c).pair.dataValid = true ∧ (takenFrom c).pair.promoting = none := by
  rw [takenFrom_pair]
  exact ⟨rfl, rfl, rfl⟩

theorem keyTaken_shown : (keyTaken c).pair.step = .idle ∧ (keyTaken c).pair.dataValid = true ∧ (keyTaken c).pair.promoting = none := by
  rw [keyTaken]
  generalize raise (keyHolding c) .pairKeyTaken 0 0 = d
  exact takenFrom_shown d

end

theorem mem_distinctOf_step {α : Type} [DecidableEq α] (l acc : List α) (k : α) :
    k ∈ l.foldl (fun acc x => if acc.contains x then acc else acc ++ [x]) acc ↔ k ∈ acc ∨ k ∈ l := by
  induction l generalizing acc with
  | nil => simp
  | cons x t ih =>
    rw [List.foldl_cons, ih]
    by_cases old : acc.contains x
    · have old' : x ∈ acc := List.contains_iff_mem.mp old
      rw [if_pos old]
      simp only [List.mem_cons]
      constructor
      · rintro (h | h)
        · exact .inl h
        · exact .inr (.inr h)
      · rintro (h | rfl | h)
        · exact .inl h
        · exact .inl old'
        · exact .inr h
    · rw [if_neg old, List.mem_append, List.mem_singleton, List.mem_cons, or_assoc]

/-- Listing each element once loses none. -/
theorem mem_distinctOf {α : Type} [DecidableEq α] {l : List α} {k : α} : k ∈ distinctOf l ↔ k ∈ l := by
  rw [distinctOf, mem_distinctOf_step]
  simp only [List.not_mem_nil, false_or]

section
variable {c : Core} {k : Nat}

theorem mem_lostNow_of_dirty (resync : c.pair.before = 2) (valid : c.pair.dataValid = true) (dirty : k ∈ c.pair.dirty) :
    k ∈ lostNow c := by
  rw [lostNow, if_neg (not_not_intro resync), mem_distinctOf, if_pos valid]
  exact List.mem_append_right _ dirty

theorem mem_lostNow_of_uncopied (resync : c.pair.before = 2) (invalid : c.pair.dataValid = false) (held : k ∈ xUnits c)
    (uncopied : k ∉ c.pair.copied) : k ∈ lostNow c := by
  rw [lostNow, if_neg (not_not_intro resync), mem_distinctOf, if_neg (by rw [invalid]; exact Bool.false_ne_true)]
  refine List.mem_append_right _ (List.mem_filter.mpr ⟨held, ?_⟩)
  rw [Bool.not_eq_true', Bool.eq_false_iff]
  exact fun there => uncopied (List.contains_iff_mem.mp there)

theorem lostNow_of_other (other : c.pair.before ≠ 2) : lostNow c = c.pair.lost := if_pos other

end

/-! ### Trying again, and releasing (R611, R620) -/

section
variable {c : Core} {time t : Nat} (waits : (c.at time).pair.retryAt = some t)
include waits

theorem keyRetry_of_early (early : (c.at time).glb.now < t) : keyRetry time c = c.at time := by
  simp only [keyRetry, waits, Nat.not_le.mpr early, if_false]

theorem keyRetry_of_due (due : t ≤ (c.at time).glb.now) {d : Core} (ended : d = onPair (c.at time) (fun v => { v with retryAt := none })) :
    keyRetry time c = if d.pair.step = .idle && selfReturn d then takeKey d else d := by
  subst ended
  simp only [keyRetry, waits, due, if_true]
  rfl

end

/-- OUT is deasserted and the key given up. -/
def keyGiven (c : Core) : Core := (setKeyOut c false).setFld PAIR_STATUS PAIR_STATUS_KEY_HELD 0

/-- A release of a key that was held is counted. -/
def changeCounted (held : Bool) (c : Core) : Core := if held then c.count PAIR_KEY_CHANGES else c

/-- A holder that releases is a standby again. -/
def standsBy (c : Core) : Core := if pairState c = 7 then setPair c (if c.pair.synced then 3 else 2) else c

/-- A release that was asked for is answered. -/
def answerRelease (c : Core) : Core :=
  match c.pair.releasing with
  | some src => mgmtReply (onPair c (fun v => { v with releasing := none })) src mopRelease .accepted []
  | none => c

theorem answerRelease_regs (c : Core) : (answerRelease c).regs = c.regs := by
  unfold answerRelease; split
  · exact mgmtReply_regs _ _ _ _ _
  · rfl

theorem answerRelease_pair (c : Core) : (answerRelease c).pair = { c.pair with releasing := none } := by
  unfold answerRelease; split
  · exact mgmtReply_pair _ _ _ _ _
  · next none => rw [← none]

/-- The key is released. -/
def keyReleased (c : Core) : Core :=
  answerRelease (onPair (standsBy (changeCounted (keyHeld c) (keyGiven c))) (fun v => { v with copied := [], dirty := [], got := [] }))

section
variable {c : Core}

theorem keyRelease_of_resolved (releases : pairState c = 7 ∨ (pairState c = 9 ∧ keyOut c = true))
    (resolved : ∀ r ∈ c.pair.outstanding, r.copy = true) : keyRelease c = keyReleased c := by
  have made : c.pair.outstanding.any (fun r => !r.copy) = false :=
    List.any_eq_false.mpr (fun r inside => by rw [resolved r inside]; exact Bool.false_ne_true)
  have goes : ((decide (pairState c ≠ 7) && !(decide (pairState c = 9) && keyOut c)) || c.pair.outstanding.any (fun r => !r.copy)) =
      false := by
    rw [made]
    rcases releases with h | ⟨h, out⟩
    · rw [h]; rfl
    · rw [h, out]; rfl
  unfold keyRelease
  exact if_neg (by rw [goes]; exact Bool.false_ne_true)

theorem keyRelease_of_outstanding (outstanding : ∃ r ∈ c.pair.outstanding, r.copy = false) : keyRelease c = c := by
  obtain ⟨r, inside, write⟩ := outstanding
  have waits : c.pair.outstanding.any (fun r => !r.copy) = true := List.any_eq_true.mpr ⟨r, inside, by rw [write]; rfl⟩
  unfold keyRelease
  exact if_pos (by rw [waits, Bool.or_true])

variable (c)

theorem keyOut_keyGiven : keyOut (keyGiven c) = false := by
  rw [keyOut, Core.flag, keyGiven, Core.fld_setFld_other _ _ _ _ _ (by decide) (by decide) (by decide) (by decide), ← Core.flag, ← keyOut,
    keyOut_setKeyOut]

theorem keyHeld_keyGiven : keyHeld (keyGiven c) = false := by
  rw [keyHeld, Core.flag, keyGiven, Core.fld_setFld_self _ _ _ _ (by decide) (by decide)]
  rfl

theorem pairState_keyGiven : pairState (keyGiven c) = pairState c := by
  rw [pairState, keyGiven, Core.fld_setFld_other _ _ _ _ _ (by decide) (by decide) (by decide) (by decide), ← pairState,
    pairState_setKeyOut]

theorem keyGiven_pair : (keyGiven c).pair = c.pair := by rw [keyGiven, Core.setFld_pair, setKeyOut_pair]

theorem rget_changeCounted (held : Bool) : (changeCounted held c).rget PAIR_STATUS = c.rget PAIR_STATUS := by
  unfold changeCounted; split
  · exact Core.rget_count_ne _ _ (by decide)
  · rfl

theorem changeCounted_pair (held : Bool) : (changeCounted held c).pair = c.pair := by
  unfold changeCounted; split
  · rw [Core.count_pair]
  · rfl

theorem keyOut_standsBy : keyOut (standsBy c) = keyOut c := by
  unfold standsBy; split
  · exact keyOut_setPair _ _
  · rfl

theorem keyHeld_standsBy : keyHeld (standsBy c) = keyHeld c := by
  unfold standsBy; split
  · exact keyHeld_setPair _ _
  · rfl

theorem rget_keyReleased : (keyReleased c).rget PAIR_STATUS =
    (standsBy (changeCounted (keyHeld c) (keyGiven c))).rget PAIR_STATUS := by
  rw [keyReleased, Core.rget_congr (answerRelease_regs _), rget_onPair]

theorem keyOut_keyReleased : keyOut (keyReleased c) = false := by
  rw [keyOut_congr (rget_keyReleased c), keyOut_standsBy, keyOut_congr (rget_changeCounted _ _), keyOut_keyGiven]

theorem keyHeld_keyReleased : keyHeld (keyReleased c) = false := by
  rw [keyHeld_congr (rget_keyReleased c), keyHeld_standsBy, keyHeld_congr (rget_changeCounted _ _), keyHeld_keyGiven]

theorem pairState_given : pairState (changeCounted (keyHeld c) (keyGiven c)) = pairState c := by
  rw [pairState_congr (rget_changeCounted _ _), pairState_keyGiven]

theorem keyReleased_shown : (keyReleased c).pair.releasing = none ∧ (keyReleased c).pair.dirty = [] := by
  rw [keyReleased, answerRelease_pair]
  exact ⟨rfl, rfl⟩

variable {c}

theorem pairState_keyReleased_of_releasing (releases : pairState c = 7) : pairState (keyReleased c) = if c.pair.synced then 3 else 2 := by
  rw [pairState_congr (rget_keyReleased c), standsBy, if_pos ((pairState_given c).trans releases), changeCounted_pair, keyGiven_pair]
  refine pairState_setPair _ _ ?_
  split <;> decide

theorem pairState_keyReleased_of_other (other : pairState c ≠ 7) : pairState (keyReleased c) = pairState c := by
  rw [pairState_congr (rget_keyReleased c), standsBy, if_neg (by rwa [pairState_given]), pairState_given]

end

/-- A choice of the device is drawn, and nothing of the pair changes. -/
theorem choose_pair {c d : Core} {k : Nat} (chosen : c.choose 2 = (d, k)) : d.pair = c.pair ∧ keyIn d = keyIn c := by
  have drawn : d = (c.choose 2).1 := by rw [chosen]
  subst drawn
  exact ⟨rfl, rfl⟩

/-! ### Commands of the fabric manager (R611, R614, R616) -/

section
variable {m : M} {src : Src} {force : Bool} (manager : srcFm src = true)
include manager

theorem pairPromote_of_standby (rests : m.core.pair.step = .idle)
    (stands : pairState m.core = 3 ∨ (pairState m.core = 2 ∧ force = true)) (unasserted : keyIn m.core = false) :
    pairPromote force src m = (m.on (fun c => takeKey (onPair c (fun v => { v with promoting := some src }))), none) := by
  have settled : ¬ pairState m.core = 1 := by omega
  have may : (decide (pairState m.core = 3) || (decide (pairState m.core = 2) && force)) = true := by
    rcases stands with h | ⟨h, forced⟩
    · rw [h]; rfl
    · rw [h, forced]; rfl
  simp only [pairPromote, manager, settled, may, rests, unasserted, decide_false, Bool.not_true, Bool.false_and, Bool.or_false,
    Bool.false_eq_true, if_false, ne_eq, not_true_eq_false]
  rfl

theorem pairPromote_of_asserted (rests : m.core.pair.step = .idle)
    (stands : pairState m.core = 3 ∨ (pairState m.core = 2 ∧ force = true)) (asserted : keyIn m.core = true) :
    pairPromote force src m = (m, some (.conflict, [])) := by
  have settled : ¬ pairState m.core = 1 := by omega
  have may : (decide (pairState m.core = 3) || (decide (pairState m.core = 2) && force)) = true := by
    rcases stands with h | ⟨h, forced⟩
    · rw [h]; rfl
    · rw [h, forced]; rfl
  simp only [pairPromote, manager, settled, may, rests, asserted, decide_false, Bool.not_true, Bool.false_and, Bool.or_false,
    Bool.false_eq_true, if_false, if_true, ne_eq, not_true_eq_false]
  rfl

theorem pairPromote_of_other (settled : pairState m.core ≠ 1) (active : pairState m.core ≠ 3)
    (unforced : pairState m.core ≠ 2 ∨ force = false) :
    pairPromote force src m = (m, some (.badState, [])) := by
  have mayNot : (decide (pairState m.core = 2) && force) = false := by
    rcases unforced with h | h
    · rw [decide_eq_false h, Bool.false_and]
    · rw [h, Bool.and_false]
  simp only [pairPromote, manager, settled, active, mayNot, decide_false, Bool.not_true, Bool.not_false, Bool.false_and, Bool.or_false,
    Bool.true_or, Bool.false_eq_true, if_false, if_true]
  rfl

section
variable {c : Core} {k : Nat} (starting : pairState m.core = 1) (chosen : m.core.choose 2 = (c, k))
include starting chosen

theorem pairPromote_of_declined (declined : k ≠ 1 ∨ m.core.pair.step ≠ .idle) :
    pairPromote force src m = (⟨c, m.mem⟩, some (.badState, [])) := by
  have no : (!(decide (k = 1)) || decide (m.core.pair.step ≠ .idle)) = true := by
    rcases declined with h | h
    · rw [decide_eq_false h]; rfl
    · rw [decide_eq_true h, Bool.or_true]
  have same := (choose_pair chosen).1
  simp only [pairPromote, manager, starting, chosen, same, show ¬ 1 = 3 by decide, show ¬ 1 = 2 by decide, decide_false, decide_true,
    Bool.false_and, Bool.true_and, Bool.false_or, Bool.not_true, Bool.false_eq_true, if_false, if_true, no]
  rfl

theorem pairPromote_of_chosen (one : k = 1) (rests : m.core.pair.step = .idle) (unasserted : keyIn m.core = false) :
    pairPromote force src m = (⟨takeKey (onPair c (fun v => { v with promoting := some src })), m.mem⟩, none) := by
  obtain ⟨same, pin⟩ := choose_pair chosen
  simp only [pairPromote, manager, starting, chosen, same, pin, rests, unasserted, one, show ¬ 1 = 3 by decide, show ¬ 1 = 2 by decide,
    decide_false, decide_true, Bool.false_and, Bool.and_self, Bool.false_or, Bool.or_self, Bool.not_true, Bool.false_eq_true, if_false,
    if_true, ne_eq, not_true_eq_false]
  rfl

end

theorem pairRelease_of_holder (holds : pairState m.core = 5 ∨ pairState m.core = 6 ∨ pairState m.core = 8) :
    pairRelease src m = (m.on (fun c => setPair (onPair c (fun v => { v with releasing := some src })) 7), none) := by
  have may : (decide (pairState m.core = 5) || decide (pairState m.core = 6) || decide (pairState m.core = 8)) = true := by
    simpa only [Bool.or_eq_true, decide_eq_true_eq, or_assoc] using holds
  simp only [pairRelease, manager, may, Bool.not_true, Bool.false_eq_true, if_false]
  rfl

theorem pairRelease_of_other (active : pairState m.core ≠ 5) (alone : pairState m.core ≠ 6) (dual : pairState m.core ≠ 8) :
    pairRelease src m = (m, some (.badState, [])) := by
  simp only [pairRelease, manager, active, alone, dual, decide_false, Bool.or_self, Bool.not_true, Bool.not_false, Bool.false_eq_true,
    if_false, if_true]
  rfl

end

/-- A recovery that is asked for begins. -/
def recovering (st : Nat) (c : Core) : Core := setPair (if st = 4 then stopTaking c false else c) 9

theorem pairRecover_accepted {m : M} (pairs : paired m.core = true) (joined : 1 < pairState m.core) :
    pairRecover m = accept (m.on (recovering (pairState m.core))) := by
  have may : (paired m.core && decide (pairState m.core ≠ 0) && decide (pairState m.core ≠ 1)) = true := by
    rw [pairs, decide_eq_true (show pairState m.core ≠ 0 by omega), decide_eq_true (show pairState m.core ≠ 1 by omega)]; rfl
  unfold pairRecover
  refine (checked_pass fun x inside => ?_).trans rfl
  rw [List.mem_singleton.mp inside]
  exact may

/-! ### The statement -/

/-- Settles O49: each command of a pair has its equation, and PAIR_STATUS is read field by field after it; of that register an event
may clear KEY_OUT alone. -/
theorem pairStates : Obligations.PairStates := by
  unfold Obligations.PairStates
  refine ⟨?lost, ?work, ?thread, ?request, ?pin, ?taking, ?again, ?take, ?release, ?writes, ?promote, ?choice, ?give, ?recover⟩
  case lost =>
    intro s serves pairs missed unacted
    refine ⟨_, does_of_servedCore rfl serves rfl, ?_⟩
    by_cases active : pairState s.core = 5
    · rw [partnerLost_of_active pairs missed unacted active, setPair_pair, onPair_pair, lossTold_pair]
      exact ⟨rfl, fun _ => ⟨pairState_setPair _ _ (by decide), rfl⟩, fun other => absurd active other⟩
    · rw [partnerLost_of_other pairs missed unacted active, lossTold_pair]
      exact ⟨rfl, fun same => absurd same active, fun _ => ⟨pairState_congr (rget_lossTold _), rfl⟩⟩
  case work =>
    intro s x n lim w serves limit there parks
    have step := pairParkTimeout_of_work (m := s.m) limit there parks
    exact ⟨fun long => does_of_served rfl serves (step.trans (if_pos long)),
      fun short => does_of_served rfl serves (step.trans (if_neg (Nat.not_le.mpr short)))⟩
  case thread =>
    intro s t lim th serves limit there parks long
    exact does_of_served rfl serves (pairParkTimeout_of_thread (m := s.m) limit there parks long)
  case request =>
    intro s t lim r serves limit there parks silent long
    exact does_of_served rfl serves (pairParkTimeout_of_request (m := s.m) limit there parks silent long)
  case pin =>
    intro s b runs changes
    refine ⟨_, doesTo_of_core rfl (keyInChange_of_change runs changes), ?_⟩
    have state := pairState_keyInShown b s.core
    have bookkeeping := keyInShown_pair b s.core
    refine ⟨(keyIn_keyInFollows _ _).trans (keyIn_keyInShown _ _), ?_, ?_, ?_, ?_⟩
    · rintro rfl taking steps
      have stopped := keyInFollows_of_taking (state.trans taking) (by rw [bookkeeping]; exact steps)
      rwa [bookkeeping] at stopped
    · rintro rfl taking settles first
      have early : primary (keyInShown true s.core) = true := (flag_congr (rget_keyInShown_ne _ _ (by decide)) _).trans first
      have due := keyInFollows_retryAt (state.trans taking) (by rw [bookkeeping]; exact settles) early
      rwa [keyInShown_glb] at due
    · rintro rfl held holds
      rw [keyInFollows_of_holder ((keyHeld_keyInShown _ _).trans held) (by rw [state]; exact holds), keyHeld_dualKey, keyHeld_keyInShown]
      exact ⟨pairState_dualKey _, held⟩
    · rintro rfl dual
      rw [keyInFollows_of_dual (state.trans dual), pairState_congr (rget_wakeOn _ _ _)]
      exact pairState_setPair _ _ (by decide)
  case taking =>
    rintro s time c serves rfl taking unasserted
    refine ⟨fun guards passed => ⟨_, does_of_servedCore rfl serves (keyGuardEnd_of_guarded taking unasserted guards passed), ?_⟩,
      fun settles passed => ⟨_, does_of_servedCore rfl serves (keySettleEnd_of_settled taking unasserted settles passed), ?_⟩⟩
    · rw [settling_pair]
      exact ⟨keyOut_setKeyOut _ _, keyHeld_settling _, rfl, rfl⟩
    · obtain ⟨idle, valid, answered⟩ := keyTaken_shown (s.core.at time)
      rw [keyTaken_lost]
      exact ⟨keyHeld_keyTaken _, keyOut_keyTaken _, idle, valid, answered, pairState_keyTaken _,
        fun resync valid k dirty => mem_lostNow_of_dirty resync valid dirty,
        fun resync invalid k held uncopied => mem_lostNow_of_uncopied resync invalid held uncopied, lostNow_of_other⟩
  case again =>
    rintro s time t c serves rfl waits
    refine ⟨fun early => does_of_servedCore rfl serves (keyRetry_of_early waits early), fun due d ended => ?_⟩
    have step := keyRetry_of_due waits due ended
    have rests : d.pair.step = (s.core.at time).pair.step := by rw [ended]; rfl
    refine ⟨fun ⟨idle, returns⟩ => does_of_servedCore rfl serves (step.trans (if_pos ?_)),
      fun stays => does_of_servedCore rfl serves (step.trans (if_neg ?_))⟩
    · rw [rests, idle, returns]; rfl
    · rw [rests, Bool.and_eq_true, decide_eq_true_eq]
      rintro ⟨idle, returns⟩
      rcases stays with busy | no
      · exact busy idle
      · exact Bool.false_ne_true (no.symm.trans returns)
  case take =>
    intro c
    refine ⟨fun unasserted => ?_, fun asserted => ?_⟩
    · rw [takeKey_eq, if_neg (by rw [keyIn_guarding, unasserted]; exact Bool.false_ne_true), guarding_pair]
      exact ⟨pairState_setPair _ _ (by decide), rfl, rfl, rfl⟩
    · rw [takeKey_eq, if_pos ((keyIn_guarding c).trans asserted), stopTaking_pair, pairState_stopTaking, guarding_pair]
      exact ⟨Nat.mod_eq_of_lt (pairState_lt c), keyOut_stopTaking _ _, rfl⟩
  case release =>
    intro s serves releases resolved
    obtain ⟨answered, clean⟩ := keyReleased_shown s.core
    exact ⟨_, does_of_servedCore rfl serves (keyRelease_of_resolved releases resolved), keyOut_keyReleased _, keyHeld_keyReleased _,
      answered, clean, pairState_keyReleased_of_releasing,
      fun recovers => (pairState_keyReleased_of_other (by rw [recovers]; decide)).trans recovers⟩
  case writes =>
    intro s serves outstanding
    exact does_of_servedCore rfl serves (keyRelease_of_outstanding outstanding)
  case promote =>
    rintro s src force m ⟨asks, manager⟩ rests settled
    exact ⟨fun stands unasserted => does_of_run rfl (mgmt_later asks (pairPromote_of_standby manager rests stands unasserted)),
      fun stands asserted => does_of_run rfl (mgmt_answeredNow asks (pairPromote_of_asserted manager rests stands asserted)),
      fun active unforced => does_of_run rfl (mgmt_answeredNow asks (pairPromote_of_other manager settled active unforced))⟩
  case choice =>
    rintro s src force m c k ⟨asks, manager⟩ starting chosen
    exact ⟨fun declined => does_of_run rfl (mgmt_answeredNow asks (pairPromote_of_declined manager starting chosen declined)),
      fun one rests unasserted => does_of_run rfl (mgmt_later asks (pairPromote_of_chosen manager starting chosen one rests unasserted))⟩
  case give =>
    rintro s src m ⟨asks, manager⟩
    exact ⟨fun holds => does_of_run rfl (mgmt_later asks (pairRelease_of_holder manager holds)),
      fun active alone dual => does_of_run rfl (mgmt_answeredNow asks (pairRelease_of_other manager active alone dual))⟩
  case recover =>
    intro s src m asks pairs
    refine ⟨fun joined other => ?_, fun taking => ?_⟩
    · have same : recovering (pairState m.core) = fun c => setPair c 9 := by funext c; rw [recovering, if_neg other]
      exact does_of_run rfl ((mgmt_accepted asks (pairRecover_accepted pairs joined)).trans (by rw [same]))
    · have same : recovering (pairState m.core) = fun c => setPair (stopTaking c false) 9 := by funext c; rw [recovering, if_pos taking]
      exact does_of_run rfl ((mgmt_accepted asks (pairRecover_accepted pairs (by rw [taking]; decide))).trans (by rw [same]))

end Sys2Proof.Machine

/-! Frieze sessions: how they open and close, what an acknowledgement leaves, when the last path goes DOWN, their timers, and the
statement about them (R467 to R470, R477 to R479, R488, R495). -/

namespace Sys2Proof.Machine
open Sys2Proof

/-! ### The table of sessions -/

@[simp] theorem sess?_setSess_self (c : Core) (n : Nat) (x : Session) : sess? (setSess c n x) n = some x := amGet?_amSet_self _ _ _

theorem sess?_congr {c d : Core} (same : c.net.sessions = d.net.sessions) (n : Nat) : sess? c n = sess? d n := by
  rw [sess?, same, sess?]

theorem dropTag_net (c : Core) (t : Nat) : (dropTag c t).net = c.net := by
  unfold dropTag; split <;> rfl

theorem dropOut_net (c : Core) (m : OutMsg) : (dropOut c m).net = c.net := by
  unfold dropOut; split
  · exact dropTag_net _ _
  · rfl

/-- A message that is acknowledged leaves the sessions alone. -/
theorem msgAcked_sessions (c : Core) (m : OutMsg) : (msgAcked c m).net.sessions = c.net.sessions := by
  have same := congrArg NetSt.sessions (dropOut_net c m)
  unfold msgAcked
  split <;> exact same

/-! ### Opening and closing (R467, R468, R470) -/

/-- A condition that fails decides, when the one before it gives the same refusal. -/
theorem checked_of_second (m : M) (b : Bool) (k : MgmtCode) (l : List (Bool × MgmtCode)) (f : M → Mg) :
    checked m ((b, k) :: (false, k) :: l) f = refuse m k := by
  cases b <;> rfl

theorem subPorts_le (c : Core) (n : Nat) : subPorts c n ≤ 4 := by
  unfold subPorts; split <;> decide

section
variable {m : M} {d : SessDef}

/-- A path as SESSION_OPEN takes it. -/
theorem pathOk_of_fields {c : Core} {p : PathDef} (port : p.port < 12) (runs : c.flag (FZT_PORT_CTRL p.port) FZT_PORT_CTRL_FZT_EN = true)
    (sub : p.sub < subPorts c p.port) (mac : p.mac < 2 ^ 48) (vlan : p.vlan ≤ 4094) (ip : p.ip < 2 ^ 128) (udp : p.udp < 65536) :
    (pathPortOk c p).1 = true ∧ (pathPortOk c p).2 = true ∧ (pathFieldsOk p && p.sub < subPorts c p.port) = true := by
  have four := subPorts_le c p.port
  refine ⟨?_, runs, ?_⟩
  · simp only [pathPortOk, ringPort, Bool.not_eq_true', Bool.and_eq_false_iff, decide_eq_false_iff_not]
    omega
  · simp only [pathFieldsOk, Bool.and_eq_true, decide_eq_true_eq]
    omega

theorem sessionOpen_accepted (ok : SessionOk m.core d) : sessionOpen d m = accept (m.on (fun c => openSession c d.session d.remote d.epoch
    d.keySlot (d.paths.map (mkPath c)) d.txSeq d.rxSeq d.allow (sessCredits d))) := by
  obtain ⟨free, fresh, number, ⟨remote, epoch⟩, ⟨slot, owner⟩, ⟨some', four, paths⟩, ⟨tx, rx⟩, ⟨classes, allow⟩, pool⟩ := ok
  have each : ∀ p ∈ d.paths, (pathPortOk m.core p).1 = true ∧ (pathPortOk m.core p).2 = true ∧
      (pathFieldsOk p && p.sub < subPorts m.core p.port) = true := by
    intro p inside
    obtain ⟨port, runs, sub, mac, vlan, ip, udp⟩ := paths p inside
    exact pathOk_of_fields port runs sub mac vlan ip udp
  have unopened : (match sess? m.core d.session with | some x => x.st == .closed || x.st == .lost | none => true) = true := by
    split
    · next x there => simpa only [Bool.or_eq_true, beq_iff_eq] using free x there
    · rfl
  have fields : (d.session < 8192 && epOk d.remote && d.epoch < 65536 && d.keySlot < 4096 && 1 ≤ d.paths.length && d.paths.length ≤ 4 &&
      d.paths.all (fun p => pathFieldsOk p && p.sub < subPorts m.core p.port) && d.txSeq < 2 ^ 32 && d.rxSeq < 2 ^ 32 &&
      d.allow.length = 3 && d.allow.all (fun a => 17 ≤ a.1 && a.1 ≤ 32767 && 17 ≤ a.2 && a.2 ≤ 32767)) = true := by
    have classesOk : d.allow.all (fun a => 17 ≤ a.1 && a.1 ≤ 32767 && 17 ≤ a.2 && a.2 ≤ 32767) = true := by
      rw [List.all_eq_true]
      intro a inside
      simpa only [Bool.and_eq_true, decide_eq_true_eq, and_assoc] using allow a inside
    have pathsOk : d.paths.all (fun p => pathFieldsOk p && p.sub < subPorts m.core p.port) = true :=
      List.all_eq_true.mpr (fun p inside => (each p inside).2.2)
    simp only [classesOk, pathsOk, remote, Bool.and_true, Bool.and_eq_true, decide_eq_true_eq]
    omega
  unfold sessionOpen
  dsimp only
  exact checked_pass (List.forall_mem_cons.mpr ⟨unopened, List.forall_mem_cons.mpr ⟨decide_eq_true fresh, List.forall_mem_cons.mpr
    ⟨List.all_eq_true.mpr (fun p inside => (each p inside).1), List.forall_mem_cons.mpr
    ⟨List.all_eq_true.mpr (fun p inside => (each p inside).2.1), List.forall_mem_cons.mpr ⟨fields, List.forall_mem_cons.mpr
    ⟨decide_eq_true number, List.forall_mem_cons.mpr ⟨decide_eq_true pool, List.forall_mem_cons.mpr
    ⟨decide_eq_true owner, List.forall_mem_nil _⟩⟩⟩⟩⟩⟩⟩⟩)

theorem sessionOpen_of_conflict (conflict : (∃ x, sess? m.core d.session = some x ∧ x.st ≠ .closed ∧ x.st ≠ .lost) ∨
    amGet? m.core.net.epochs d.session = some d.epoch) : sessionOpen d m = refuse m .conflict := by
  unfold sessionOpen
  rcases conflict with ⟨x, there, opened, kept⟩ | again
  · have busy : (x.st == .closed || x.st == .lost) = false := by
      rw [beq_eq_false_iff_ne.mpr opened, beq_eq_false_iff_ne.mpr kept]; rfl
    simp only [there, busy]
    exact checked_fail (l := []) (List.forall_mem_nil _)
  · have stale : decide (amGet? m.core.net.epochs d.session ≠ some d.epoch) = false := decide_eq_false (not_not_intro again)
    dsimp only
    rw [stale]
    exact checked_of_second _ _ _ _ _

end

/-- The session that SESSION_OPEN makes where none was. -/
def freshSession (remote epoch key : Nat) (paths : List Path) (tx rx : Nat) (allow : List (Nat × Nat)) (cr : Nat) : Session := {
  st := .opened, remote := remote, epoch := epoch, peerKey := key, paths := paths, txSeq := tx, rxBase := rx, landed := [],
  sinceAck := 0, firstUnacked := 0, credits := allow.map (fun a => ⟨a.1, a.2, 0, 0, 0, 0, 0, 0⟩), rxCredits := cr,
  nextUid := 0, txPkts := [], txMsgs := [], asm := [], asked := [], graceEnd := 0, held := [] }

/-- A session without packets sends nothing. -/
theorem pump_of_empty {c : Core} {n : Nat} {x : Session} (there : sess? c n = some x) (none : x.txPkts = []) : pump c n = c := by
  simp only [pump, there, none, pumpPkts, ite_self]

theorem openSession_of_new {c : Core} {n : Nat} (free : sess? c n = none) (remote epoch key : Nat) (paths : List Path) (tx rx : Nat)
    (allow : List (Nat × Nat)) (cr : Nat) : openSession c n remote epoch key paths tx rx allow cr =
      setSess { c with net := { c.net with epochs := amSet c.net.epochs n epoch } } n
        (freshSession remote epoch key paths tx rx allow cr) := by
  simp only [openSession, free, List.foldl_nil]
  exact pump_of_empty (sess?_setSess_self _ _ _) rfl

/-- What a closed session leaves. -/
def sessionClosed (n : Nat) (st : SessSt) (c : Core) : Core :=
  let c := if st = .lost then c else loseSession c n
  let c := discardHeld c n
  { c with net := { c.net with sessions := amDel c.net.sessions n } }

theorem sess?_sessionClosed (n : Nat) (st : SessSt) (c : Core) : sess? (sessionClosed n st c) n = none := amGet?_amDel_self _ _

section
variable {m : M} {n : Nat} (number : n < 8188)
include number

theorem sessionClose_accepted {x : Session} (there : sess? m.core n = some x) (live : x.st ≠ .closed) :
    sessionClose n m = accept (m.on (sessionClosed n x.st)) := by
  simp only [sessionClose, Nat.not_le.mpr number, if_false, there, live]
  rfl

theorem sessionClose_of_none (none : sess? m.core n = none) : sessionClose n m = refuse m .badState := by
  simp only [sessionClose, Nat.not_le.mpr number, if_false, none]

end

/-! ### Packets of the transport itself (R469, R477, R478) -/

section
variable {c h : Core} {p : Pkt} {n : Nat}

theorem ackPacket_of_dropped {base : Nat} {rcr : List Nat} {map : List Byte} (dropped : checkPkt c p false = (h, none)) :
    ackPacket p base rcr map c = h := by simp only [ackPacket, dropped]

theorem probe_of_dropped {stamp : W64} (dropped : checkPkt c p false = (h, none)) : probe p stamp c = h := by
  simp only [probe, dropped]

theorem probeReply_of_dropped (dropped : checkPkt c p false = (h, none)) : probeReply p c = h := by
  simp only [probeReply, dropped]

variable (passes : checkPkt c p false = (h, some n))
include passes

theorem ackPacket_of_passed (base r0 r1 r2 : Nat) (map : List Byte) : ackPacket p base [r0, r1, r2] map c =
    pump (ackRx (modSess (modSess (modSess (headerRx h n p) n (fun x => modCr x 0 (fun k => { k with rfreed := r0 % 2 ^ 16 })))
      n (fun x => modCr x 1 (fun k => { k with rfreed := r1 % 2 ^ 16 }))) n
      (fun x => modCr x 2 (fun k => { k with rfreed := r2 % 2 ^ 16 })))
      n base (mapTest base (leNat map) (8 * map.length)) p.port p.sub) n := by
  simp only [ackPacket, passes]
  rfl

theorem probe_of_path {stamp : W64} {i : Nat} {x : Session} (there : sess? (headerRx h n p) n = some x)
    (path : pathAt x p.port p.sub = some i) :
    probe p stamp c = pump (sendPlain (headerRx h n p) n i 3 8 [stamp.toNat]) n := by
  simp only [probe, passes, there, Option.bind_some, path]

theorem probeReply_of_path {i : Nat} {x : Session} (there : sess? (headerRx h n p) n = some x) (path : pathAt x p.port p.sub = some i) :
    probeReply p c = pump (pathUp (headerRx h n p) n i) n := by
  simp only [probeReply, passes, there, Option.bind_some, path]

theorem probe_of_elsewhere {stamp : W64} {x : Session} (there : sess? (headerRx h n p) n = some x) (path : pathAt x p.port p.sub = none) :
    probe p stamp c = pump (headerRx h n p) n := by
  simp only [probe, passes, there, Option.bind_some, path]

theorem probeReply_of_elsewhere {x : Session} (there : sess? (headerRx h n p) n = some x) (path : pathAt x p.port p.sub = none) :
    probeReply p c = pump (headerRx h n p) n := by
  simp only [probeReply, passes, there, Option.bind_some, path]

end

/-! ### Acknowledgements (R477) -/

/-- An acknowledgement names the packet. -/
def ackNames (base : Nat) (landed : Nat → Bool) (p : TxPkt) : Bool :=
  0 < p.sent && ((0 < cut32 base p.seq && cut32 base p.seq ≤ 2 ^ 31) || landed p.seq)

/-- What a session keeps through an acknowledgement: the packets not named, of which some become due to be sent again. -/
structure AckKeeps (base : Nat) (landed : Nat → Bool) (x y : Session) : Prop where
  packets : ∃ mark : TxPkt → TxPkt, (∀ p, (mark p).sent = p.sent ∧ (mark p).seq = p.seq) ∧ (∀ p, p.sent = 0 → mark p = p) ∧
    y.txPkts = (x.txPkts.filter (fun p => !ackNames base landed p)).map mark
  txSeq : y.txSeq = x.txSeq
  st : y.st = x.st

theorem finishMsgs_setSess (c : Core) (n : Nat) (x : Session) :
    ∃ l, sess? (finishMsgs (setSess c n x) n) n = some { x with txMsgs := l } := by
  simp only [finishMsgs, sess?_setSess_self]
  exact ⟨_, (sess?_congr (foldl_keeps (fun d : Core => d.net.sessions)
    (fun (d : Core) (t : TxMsg) => msgAcked_sessions d t.msg) _ _) n).trans
    (sess?_setSess_self _ _ _)⟩

theorem ackRx_keeps {c : Core} {n : Nat} {x : Session} (there : sess? c n = some x) (base port sub : Nat) (landed : Nat → Bool) :
    ∃ y, sess? (ackRx c n base landed port sub) n = some y ∧ AckKeeps base landed x y := by
  simp only [ackRx, there]
  refine ⟨_, (finishMsgs_setSess c n _).choose_spec, ⟨_, fun p => ?_, fun p unsent => ?_, rfl⟩, rfl, rfl⟩
  · split <;> exact ⟨rfl, rfl⟩
  · rw [if_neg]
    simp only [unsent, Nat.lt_irrefl, decide_false, Bool.false_and, Bool.false_eq_true, not_false_eq_true]

section
variable {base : Nat} {landed : Nat → Bool} {x y : Session} (keeps : AckKeeps base landed x y)
include keeps

/-- No packet that is left has been acknowledged. -/
theorem AckKeeps.unnamed {q : TxPkt} (inside : q ∈ y.txPkts) (sent : 0 < q.sent) :
    landed q.seq = false ∧ ¬ (0 < cut32 base q.seq ∧ cut32 base q.seq ≤ 2 ^ 31) := by
  obtain ⟨mark, same, -, packets⟩ := keeps.packets
  rw [packets] at inside
  obtain ⟨p, listed, rfl⟩ := List.mem_map.mp inside
  obtain ⟨sentEq, seqEq⟩ := same p
  have unnamed := (List.mem_filter.mp listed).2
  rw [sentEq] at sent
  simp only [ackNames, sent, decide_true, Bool.true_and, Bool.not_eq_true', Bool.or_eq_false_iff, Bool.and_eq_false_iff,
    decide_eq_false_iff_not] at unnamed
  rw [seqEq]
  exact ⟨unnamed.2, fun ⟨later, near⟩ => unnamed.1.elim (fun no => no later) (fun no => no near)⟩

/-- Packets not yet sent stay as they are. -/
theorem AckKeeps.unsent {q : TxPkt} (inside : q ∈ x.txPkts) (unsent : q.sent = 0) : q ∈ y.txPkts := by
  obtain ⟨mark, -, fixed, packets⟩ := keeps.packets
  rw [packets]
  refine List.mem_map.mpr ⟨q, List.mem_filter.mpr ⟨inside, ?_⟩, fixed q unsent⟩
  simp only [ackNames, unsent, Nat.lt_irrefl, decide_false, Bool.false_and, Bool.not_false]

end

/-! ### Paths (R469, R470) -/

/-- The paths of a session with one of them DOWN. -/
def downed (x : Session) (i : Nat) : Session := { x with paths := listMod x.paths i (fun a => { a with up := false }) }

theorem upPaths_downed {x : Session} {i : Nat} (alone : ∀ j a, x.paths[j]? = some a → a.up = true → j = i) : upPaths (downed x i) = [] := by
  unfold upPaths
  rw [List.filter_eq_nil_iff]
  intro j _
  rw [downed, listMod, List.getElem?_modify]
  cases found : x.paths[j]? with
  | none => exact Bool.false_ne_true
  | some a =>
    by_cases same : i = j
    · simp only [same, if_true, Option.map_eq_map, Option.map_some, Option.any_some, Bool.false_eq_true, not_false_eq_true]
    · simp only [same, if_false, Option.map_eq_map, Option.map_some, Option.any_some]
      exact fun up => same (alone j a found up).symm

theorem pathDown_of_last {c : Core} {n i : Nat} {x : Session} (there : sess? c n = some x) (runs : x.st = .opened)
    (alone : ∀ j a, x.paths[j]? = some a → a.up = true → j = i) : pathDown c n i = setSess c n { downed x i with
      st := .hold, graceEnd := c.glb.now + c.fld FZT_TIMER1 FZT_TIMER1_GRACE_MS * 1000000 } := by
  have hangs : (decide ((downed x i).st = .opened) && decide (upPaths (downed x i) = [])) = true := by
    rw [show (downed x i).st = .opened from runs, upPaths_downed alone]; rfl
  simp only [pathDown, there]
  exact if_pos hangs

/-! ### Timers (R469, R477, R479, R495) -/

section
variable {c : Core} {n : Nat} {x : Session} (there : sess? c n = some x)
include there

theorem probeTimer_of_one {a : Path} (live : sessLive x = true) (only : x.paths = [a]) (down : a.up = false)
    (link : linkUp c a.port a.sub = true) : probeTimer n c = sendPlain c n 0 2 8 [c.glb.now] := by
  simp only [probeTimer, there, live, only, Bool.not_true, Bool.false_eq_true, if_false, List.length_singleton, List.range_one,
    List.foldl_cons, List.foldl_nil, List.getElem?_cons_zero, down, Bool.not_false, link, Bool.and_self, if_true]

theorem probeTimer_of_dead (dead : sessLive x = false) : probeTimer n c = c := by
  simp only [probeTimer, there, dead, Bool.not_false, if_true]

theorem probeTimer_of_unlinked (quiet : ∀ a ∈ x.paths, a.up = true ∨ linkUp c a.port a.sub = false) : probeTimer n c = c := by
  have still : ∀ l : List Nat, l.foldl (fun c i => match x.paths[i]? with
      | some a => if !a.up && linkUp c a.port a.sub then sendPlain c n i 2 8 [c.glb.now] else c
      | none => c) c = c := by
    intro l
    induction l with
    | nil => rfl
    | cons i t ih =>
      rw [List.foldl_cons]
      refine (congrArg (fun d => List.foldl _ d t) ?_).trans ih
      split
      · next a found =>
        refine if_neg ?_
        rcases quiet a (List.mem_of_getElem? found) with up | unlinked
        · rw [up]; exact Bool.false_ne_true
        · rw [unlinked, Bool.and_false]; exact Bool.false_ne_true
      · rfl
  simp only [probeTimer, there]
  split
  · rfl
  · exact still _

theorem ackDelay_eq : ackDelay n c = if 0 < x.sinceAck && x.firstUnacked + c.fld FZT_TIMER0 FZT_TIMER0_ACK_DELAY_NS ≤ c.glb.now then
    sendAck c n else c := by
  simp only [ackDelay, there]

theorem graceEnds_eq : graceEnds n c = if x.st = .hold && x.graceEnd ≤ c.glb.now then loseSession c n else c := by
  simp only [graceEnds, there]

/-- When a packet's retransmission timer has run out (R479). -/
def rtoDue (c : Core) (p : TxPkt) : Nat := p.lastSent + c.fld FZT_TIMER0 FZT_TIMER0_RTO_US * 1000 * 2 ^ min p.doublings 4

variable {seq : Nat} {p : TxPkt} (found : x.txPkts.find? (fun q => decide (0 < q.sent) && q.seq == seq) = some p)
include found

theorem rtoExpiry_of_waiting (waits : x.st ≠ .opened ∨ c.glb.now < rtoDue c p) : rtoExpiry n seq c = c := by
  have idle : (decide (x.st ≠ .opened) || decide (c.glb.now < rtoDue c p)) = true := by
    rw [Bool.or_eq_true, decide_eq_true_eq, decide_eq_true_eq]; exact waits
  simp only [rtoExpiry, there, found]
  exact if_pos idle

variable {a : Path} {d e : Core} (runs : x.st = .opened) (due : rtoDue c p ≤ c.glb.now) (path : x.paths[p.path]? = some a)
  (counts : e = c.count (FZT_TIMEOUTS a.port)) (noted : d = setSess e n (timedOut x p))
include runs due path counts noted

/-- The timer has run out: the packet is due, and its path goes DOWN after PATH_TIMEOUTS in a row. -/
theorem rtoExpiry_of_due : rtoExpiry n seq c =
    pump (if a.up && e.fld FZT_TIMER1 FZT_TIMER1_PATH_TIMEOUTS ≤ a.timeouts + 1 then pathDown d n p.path else d) n := by
  have same : p.seq = seq := by
    have taken := List.find?_some found
    simp only [Bool.and_eq_true, beq_iff_eq] at taken
    exact taken.2
  have goes : (decide (x.st ≠ .opened) || decide (c.glb.now < rtoDue c p)) = false := by
    rw [runs, decide_eq_false (Nat.not_lt.mpr due)]; rfl
  have counted : (timedOut x p).paths[p.path]? = some { a with timeouts := a.timeouts + 1 } := by
    rw [timedOut, listMod, List.getElem?_modify, path]
    simp only [if_true, Option.map_eq_map, Option.map_some]
  subst same noted
  simp only [rtoExpiry, there, found]
  refine (if_neg (by rw [← rtoDue, goes]; exact Bool.false_ne_true)).trans ?_
  simp only [path]
  rw [← counts]
  change pump (if ((timedOut x p).paths[p.path]?).any _ then _ else _) n = _
  rw [counted]
  rfl

end

/-! ### Replies to requests of this chip (R488) -/

section
variable {c : Core} {n : Nat} {x : Session} {p : Pkt} {s : State} (serves : inService s.core = true)
  (lands : landPkt s.core { p with cls := 1 } = (c, some n)) (there : sess? c n = some x)
include serves lands there

theorem replyRx_of_unasked {rep : Rep} (unasked : x.asked.find? (fun a => a.1 == p.xid) = none) :
    replyRx p rep s.m = ⟨c, s.mem⟩ := by
  simp only [replyRx, State.m_core, serves, Bool.not_true, Bool.false_eq_true, if_false, lands, there, Option.bind_some, unasked]

theorem replyRx_of_asked {rep : Rep} {xid : Nat} {msg : OutMsg} {f : Fwd} {d : Core}
    (asked : x.asked.find? (fun a => a.1 == p.xid) = some (xid, msg))
    (answered : d = modSess c n (fun x => { x with asked := x.asked.filter (fun a => a.1 != xid) }))
    (found : d.ring.fwds.find? (fun f => some f.tag == msg.body[4]? && (f.kind == 5 || f.kind == 6)) = some f) :
    replyRx p rep s.m = (pairReply ⟨d, s.mem⟩ f rep).on drainCheck := by
  subst answered
  simp only [replyRx, State.m_core, serves, Bool.not_true, Bool.false_eq_true, if_false, lands, there, Option.bind_some, asked, found]

end

/-! ### The statement -/

/-- A packet of the transport is taken while its session serves. -/
theorem does_of_peer {i : Instr} {s : State} {p : Pkt} {f : Core → Core} {c : Core} (meaning : exec i s = run (fromPeer p f) s)
    (serves : linkServes s.core (p.srcEp / 2 ^ 28 == 2) = true) (effect : f s.core = c) : doesTo i s c := by
  refine does_of_run meaning ?_
  simp only [fromPeer, serves, if_true]
  rw [← effect]; rfl

/-- A timer of a session runs while its session serves. -/
theorem does_of_timer {i : Instr} {s : State} {n time : Nat} {f : Core → Core} {x : Session} {c : Core}
    (meaning : exec i s = run (ofSession n time f) s) (there : sess? (s.core.at time) n = some x)
    (serves : linkServes (s.core.at time) (x.remote / 2 ^ 28 == 2) = true) (effect : f (s.core.at time) = c) : doesTo i s c := by
  refine does_of_run meaning ?_
  simp only [ofSession, M.on_core, there, Option.any_some, serves, if_true]
  rw [← effect]; rfl

/-- Settles O50: the checks of SESSION_OPEN one by one, and for every packet and timer the rule of its session. -/
theorem sessions : Obligations.Sessions := by
  unfold Obligations.Sessions
  refine ⟨?opening, ?fresh, ?closing, ?dropped, ?packets, ?acked, ?last, ?timers, ?replies⟩
  case opening =>
    intro s src d m asks
    exact ⟨fun ok => does_of_run rfl (mgmt_accepted asks (sessionOpen_accepted ok)),
      fun conflict => does_of_run rfl (mgmt_refused asks (sessionOpen_of_conflict conflict))⟩
  case fresh =>
    rintro c n remote epoch key paths tx rx allow cr free c1 rfl
    rw [openSession_of_new free]
    refine ⟨amGet?_amSet_self _ _ _, _, sess?_setSess_self _ _ _, rfl, rfl, rfl, rfl, rfl, rfl, rfl, rfl, rfl, ?_⟩
    simp only [freshSession, List.map_map, Function.comp_def, List.map_id']
  case closing =>
    intro s src n m asks number
    refine ⟨fun x there live => ⟨sessionClosed n x.st m.core, sess?_sessionClosed _ _ _, ?_⟩,
      fun none => does_of_run rfl (mgmt_refused asks (sessionClose_of_none number none))⟩
    exact does_of_run rfl ((mgmt_accepted asks (sessionClose_accepted number there live)).trans
      (congrArg (accepted · src 0x0002 []) (M.on_const rfl)))
  case dropped =>
    intro s p c serves dropped
    exact ⟨fun base rcr map => does_of_peer rfl serves (ackPacket_of_dropped dropped),
      fun stamp => does_of_peer rfl serves (probe_of_dropped dropped), does_of_peer rfl serves (probeReply_of_dropped dropped)⟩
  case packets =>
    rintro s p c n serves passes h rfl
    refine ⟨?_, ?_, ?_⟩
    · rintro base map r0 r1 r2 h2 rfl
      exact does_of_peer rfl serves (ackPacket_of_passed passes base r0 r1 r2 map)
    · intro stamp i x there path
      exact ⟨does_of_peer rfl serves (probe_of_path passes there path), does_of_peer rfl serves (probeReply_of_path passes there path)⟩
    · intro stamp x there path
      exact ⟨does_of_peer rfl serves (probe_of_elsewhere passes there path),
        does_of_peer rfl serves (probeReply_of_elsewhere passes there path)⟩
  case acked =>
    intro c n base port sub landed x there
    obtain ⟨y, left, keeps⟩ := ackRx_keeps there base port sub landed
    exact ⟨y, left, fun q inside sent => keeps.unnamed inside sent, fun q inside unsent => keeps.unsent inside unsent, keeps.txSeq,
      keeps.st⟩
  case last =>
    intro c n i x there runs alone
    rw [pathDown_of_last there runs alone]
    exact ⟨_, sess?_setSess_self _ _ _, rfl, rfl, rfl⟩
  case timers =>
    rintro s n time c x rfl there serves
    refine ⟨?_, ?_, ?_, ?_, ?_, ?_, ?_, ?_⟩
    · exact fun a live only down link => does_of_timer rfl there serves (probeTimer_of_one there live only down link)
    · rintro (dead | quiet)
      · exact does_of_timer rfl there serves (probeTimer_of_dead there dead)
      · exact does_of_timer rfl there serves (probeTimer_of_unlinked there quiet)
    · intro since passed
      exact does_of_timer rfl there serves ((ackDelay_eq there).trans (if_pos (by rw [decide_eq_true since, decide_eq_true passed]; rfl)))
    · intro waits
      refine does_of_timer rfl there serves ((ackDelay_eq there).trans (if_neg ?_))
      rw [Bool.and_eq_true, decide_eq_true_eq, decide_eq_true_eq]
      omega
    · intro held passed
      exact does_of_timer rfl there serves ((graceEnds_eq there).trans (if_pos (by rw [decide_eq_true held, decide_eq_true passed]; rfl)))
    · intro waits
      refine does_of_timer rfl there serves ((graceEnds_eq there).trans (if_neg ?_))
      rw [Bool.and_eq_true, decide_eq_true_eq, decide_eq_true_eq]
      rintro ⟨held, passed⟩
      exact waits.elim (fun no => no held) (fun early => absurd passed (Nat.not_le.mpr early))
    · intro seq p a d e found runs due path counts noted
      have step := rtoExpiry_of_due there found runs due path counts noted
      refine ⟨fun few => does_of_timer rfl there serves (step.trans (congrArg (pump · n) (if_neg ?_))),
        fun up many => does_of_timer rfl there serves (step.trans (congrArg (pump · n) (if_pos ?_)))⟩
      · rw [Bool.and_eq_true, decide_eq_true_eq]
        rintro ⟨up, many⟩
        exact few.elim (fun down => Bool.false_ne_true (down.symm.trans up)) (fun less => absurd many (Nat.not_le.mpr less))
      · rw [up, decide_eq_true many]; rfl
    · exact fun seq p found waits => does_of_timer rfl there serves (rtoExpiry_of_waiting there found waits)
  case replies =>
    intro s p rep c n x serves lands there plain
    exact ⟨fun unasked => does_of_run rfl (replyRx_of_unasked serves lands there unasked),
      fun xid msg f d asked answered found =>
        does_of_run rfl ((replyRx_of_asked serves lands there asked answered found).trans (by rw [← plain]))⟩

end Sys2Proof.Machine

/-! Ports: what sending a frame can touch, and what it leaves of a port (R528 to R530). -/

namespace Sys2Proof.Machine
open Sys2Proof

/-- A part of the chip that sending does not reach: a port that starts or queues frames writes registers, draws, and its own state. -/
def SendingKeeps {γ : Type} (part : Core → γ) : Prop :=
  ∀ (c : Core) (r : AMap W64) (g : GlbSt) (p : AMap PortSt), part { c with regs := r, glb := g, net := { c.net with ports := p } } = part c

section
variable {γ : Type} {part : Core → γ} (keep : SendingKeeps part)
include keep

theorem SendingKeeps.setFld (c : Core) (a : Nat) (f : Fld) (v : Nat) : part (c.setFld a f v) = part c :=
  keep c (c.setFld a f v).regs c.glb c.net.ports

theorem SendingKeeps.rset (c : Core) (a : Nat) (v : W64) : part (c.rset a v) = part c := keep c (c.rset a v).regs c.glb c.net.ports

theorem SendingKeeps.perf (c : Core) (a n : Nat) : part (c.perf a n) = part c := by
  unfold Core.perf; split
  · rfl
  · exact keep.rset _ _ _

theorem SendingKeeps.draw (c : Core) : part c.draw.1 = part c := keep c c.regs c.draw.1.glb c.net.ports

theorem SendingKeeps.setPort (c : Core) (n : Nat) (p : PortSt) : part (setPort c n p) = part c :=
  keep c c.regs c.glb (amSet c.net.ports n p)

theorem SendingKeeps.noteQueue (c : Core) (n : Nat) : part (noteQueue c n) = part c := by
  unfold Machine.noteQueue; extract_lets; split
  · rw [keep.setFld, keep.setFld]
  · rw [keep.setFld]

theorem SendingKeeps.tagHead (c : Core) (n flow s : Nat) : part (tagHead c n flow s) = part c := by
  unfold Machine.tagHead; dsimp only; split <;> rw [keep.setPort]

theorem SendingKeeps.startPort (c : Core) (n : Nat) : part (startPort c n) = part c := by
  unfold Machine.startPort
  dsimp only
  split
  · rfl
  · split
    · rw [keep.noteQueue, keep.setPort]
    · split
      · rw [keep.perf, keep.draw]
      · split
        · rfl
        · rw [keep.noteQueue, keep.tagHead, keep.rset, keep.setPort]

theorem SendingKeeps.enqueueFrame (c : Core) (n : Nat) (f : EgFrame) : part (enqueueFrame c n f) = part c := by
  unfold Machine.enqueueFrame
  extract_lets _ fresh
  rw [keep.startPort, keep.noteQueue]
  change part (if fresh = true then _ else _ : Core) = _
  split
  · rw [keep.tagHead, keep.setPort]
  · rw [keep.setPort]

theorem SendingKeeps.roceFrame (c : Core) (q type psn hdr : Nat) (body : List Nat) (data : List Byte) :
    part (roceFrame c q type psn hdr body data) = part c := by
  unfold Machine.roceFrame
  split
  · rfl
  · dsimp only
    rw [keep.enqueueFrame]

theorem SendingKeeps.frameSent (n : Nat) (c : Core) : part (frameSent n c) = part c := by
  unfold Machine.frameSent
  dsimp only
  split
  · rfl
  · rw [keep.startPort]
    split
    · rw [keep.perf, keep.perf]
      split
      · rw [keep.perf, keep.perf, keep.setPort]
      · rw [keep.perf, keep.setPort]
    · rw [keep.perf]
      split
      · rw [keep.perf, keep.perf, keep.setPort]
      · rw [keep.perf, keep.setPort]

end

theorem sendingKeeps_qps : SendingKeeps (fun c : Core => c.net.qps) := fun _ _ _ _ => rfl
theorem sendingKeeps_ring : SendingKeeps (fun c : Core => c.ring) := fun _ _ _ _ => rfl

end Sys2Proof.Machine

/-! RoCE queue pairs: how they are made and removed, what each request of one comes to by its place in the PSN order and its R_Key, how
an error ends one, and the acknowledgements of the chip's own writes (R498 to R505). -/

namespace Sys2Proof.Machine
open Sys2Proof

/-! ### Queue pairs (R499) -/

@[simp] theorem qp?_setQp_self (c : Core) (q : Nat) (x : Qp) : qp? (setQp c q x) q = some x := amGet?_amSet_self _ _ _

theorem qp?_congr {c d : Core} (same : c.net.qps = d.net.qps) (q : Nat) : qp? c q = qp? d q := by rw [qp?, same, qp?]

theorem qpCreate_accepted {m : M} {d : QpDef} (ok : QpOk m.core d) : qpCreate d m = accept (m.on (fun c => setQp c d.qp (newQp d))) := by
  obtain ⟨⟨number, unused⟩, ⟨active, plain⟩, owner, ⟨port, sub, mac, vlan, ip, udp, four⟩, ⟨remote, send, recv⟩, pmtu,
    ⟨least, most, retry⟩⟩ := ok
  have part : d.partition < 16 := by
    simp only [partActive, Bool.and_eq_true, decide_eq_true_eq] at active
    exact active.1
  have ring : ringPort d.path.port = false := by
    simp only [ringPort, Bool.and_eq_false_iff, decide_eq_false_iff_not]
    omega
  have fields : (d.qp < 16384 && d.partition < 16 && d.owner < 65536 && pathFieldsOk d.path && d.remoteQpn < 2 ^ 24 && d.sendPsn < 2 ^ 24 &&
      d.recvPsn < 2 ^ 24 && (d.pmtu == 1024 || d.pmtu == 2048 || d.pmtu == 4096) && 4 ≤ d.ackExp && d.ackExp ≤ 31 && d.retry ≤ 7 &&
      !ringPort d.path.port && d.path.sub < subPorts m.core d.path.port) = true := by
    simp only [pathFieldsOk, ring, Bool.not_false, Bool.and_true, Bool.and_eq_true, Bool.or_eq_true, beq_iff_eq, decide_eq_true_eq]
    omega
  unfold qpCreate
  dsimp only
  exact checked_pass (List.forall_mem_cons.mpr ⟨fields, List.forall_mem_cons.mpr ⟨unused, List.forall_mem_cons.mpr ⟨active,
    List.forall_mem_cons.mpr ⟨by rw [plain]; rfl, List.forall_mem_nil _⟩⟩⟩⟩)

/-- A queue pair is gone, with its claim on doorbells. -/
def qpGone (q : Nat) (c : Core) : Core :=
  let c := qpError c q 0
  { c with net := { c.net with qps := amDel c.net.qps q, doorQp := c.net.doorQp.filter (fun d => d.2 != q) } }

theorem qp?_qpGone (q : Nat) (c : Core) : qp? (qpGone q c) q = none := amGet?_amDel_self _ _

theorem doorQp_qpGone (q : Nat) (c : Core) : ∀ d ∈ (qpGone q c).net.doorQp, d.2 ≠ q := by
  intro d inside
  have kept : d ∈ (qpError c q 0).net.doorQp.filter (fun d => d.2 != q) := inside
  exact bne_iff_ne.mp (List.mem_filter.mp kept).2

section
variable {m : M} {q : Nat} (number : q < 16384)
include number

theorem qpDestroy_accepted {x : Qp} (there : qp? m.core q = some x) : qpDestroy q m = accept (m.on (qpGone q)) := by
  simp only [qpDestroy, Nat.not_le.mpr number, if_false, there]
  rfl

theorem qpDestroy_of_none (none : qp? m.core q = none) : qpDestroy q m = refuse m .badState := by
  simp only [qpDestroy, Nat.not_le.mpr number, if_false, none]

end

/-! ### Errors (R502) -/

/-- Writes that are held leave the queue pair alone. -/
theorem qp?_heldWrites (l : List (Nat × Nat × OutMsg × Nat × Nat)) (c : Core) (q : Nat) (x : Qp) :
    qp? (l.foldl (fun c w => holdRdma c w.2.2.1) (setQp c q x)) q = some x :=
  (qp?_congr (foldl_keeps (f := fun c w => holdRdma c w.2.2.1) (fun d : Core => d.net.qps) (fun _ _ => rfl) l (setQp c q x)) q).trans
    (qp?_setQp_self c q x)

/-- A queue pair in ERROR shows the status and has nothing left to send. -/
theorem qp?_qpError {c : Core} {q : Nat} {x : Qp} (there : qp? c q = some x) (status : Nat) :
    qp? (qpError c q status) q = some { x with error := true, lastStatus := status, writes := [], wr := none } := by
  simp only [qpError, there]
  exact qp?_heldWrites _ _ _ _

theorem qp?_sendNak {c : Core} {q : Nat} {x : Qp} (there : qp? c q = some x) (psn : Nat) (st : Status) :
    qp? (sendNak c q psn st) q = some { x with error := true, lastStatus := statusCode st, writes := [], wr := none } := by
  simp only [sendNak, there]
  refine qp?_qpError ?_ _
  exact (qp?_congr (sendingKeeps_qps.roceFrame c q roceNak psn 4 [nakCode st] []) q).trans there

/-! ### Requests of a queue pair (R498, R500 to R503) -/

section
variable {m : M} {p : RPkt} {c : Core}

/-- A packet that no queue pair takes leaves the block as its checks do. -/
theorem does_of_untaken {cmd : RPkt → Instr} (request : RoceRequest cmd) {s : State} {p : RPkt} {c : Core}
    (untaken : roceRx p true s.core = (c, none)) : doesTo (cmd p) s c := by
  rcases request with rfl | rfl | ⟨a, b, rfl⟩ | ⟨a, rfl⟩ | rfl
  · exact does_of_run rfl (by simp only [rdmaWrite, untaken])
  · exact does_of_run rfl (by simp only [rdmaRead, untaken])
  · exact does_of_run rfl (by simp only [rdmaAtomic, untaken])
  · exact does_of_run rfl (by simp only [rdmaAtomic, untaken])
  · exact does_of_run rfl (by simp only [roceInvalid, untaken])

variable {x : Qp} (taken : roceRx p true m.core = (c, some x))
include taken

theorem rdmaWrite_of_other (other : psnPlace x p.psn ≠ 0) : rdmaWrite p m = ⟨roceOther c p x, m.mem⟩ := by
  simp only [rdmaWrite, taken, other, ne_eq, not_false_eq_true, if_true]

/-- A write in order that follows no first packet. -/
theorem rdmaWrite_of_stray (next : psnPlace x p.psn = 0) (stray : writeStart p x = none) :
    rdmaWrite p m = ⟨sendNak (expect c p.qp (p.psn + 1)) p.qp (psn24 p.psn) .badDescriptor, m.mem⟩ := by
  rw [writeStart] at stray
  simp only [rdmaWrite, taken, next, ne_eq, not_true_eq_false, if_false, stray]
  rfl

section
variable {va : W64} {rkey : W32} {left : Nat} (next : psnPlace x p.psn = 0) (start : writeStart p x = some (va, rkey, left))
include next start

theorem rdmaWrite_of_unfit (unfit : writeFits p x left = false) :
    rdmaWrite p m = ⟨sendNak (expect c p.qp (p.psn + 1)) p.qp (psn24 p.psn) .badDescriptor, m.mem⟩ := by
  rw [writeStart] at start
  rw [writeFits] at unfit
  simp only [rdmaWrite, taken, next, ne_eq, not_true_eq_false, if_false, start, unfit, Bool.not_false, if_true]
  rfl

variable (fits : writeFits p x left = true)
include fits

theorem rdmaWrite_of_data (key : rkey = x.dataKey) : rdmaWrite p m = ⟨admitQp (modQp (expect c p.qp (p.psn + 1)) p.qp (fun x => { x with
    wr := if p.last then none else some (va + BitVec.ofNat 64 p.data.length, rkey, left - p.data.length, []) })) p x 0x11 0xFFFF
      [va.toNat, p.data.length, 0, 0, 0] p.data, m.mem⟩ := by
  rw [writeStart] at start
  rw [writeFits] at fits
  simp only [rdmaWrite, taken, next, ne_eq, not_true_eq_false, if_false, start, fits, Bool.not_true, Bool.false_eq_true, key,
    decide_false, Bool.and_false]
  rfl

theorem rdmaWrite_of_unkeyed (data : rkey ≠ x.dataKey) (door : rkey ≠ x.doorKey) :
    rdmaWrite p m = ⟨sendNak (expect c p.qp (p.psn + 1)) p.qp (psn24 p.psn) .accessDenied, m.mem⟩ := by
  rw [writeStart] at start
  rw [writeFits] at fits
  simp only [rdmaWrite, taken, next, ne_eq, not_true_eq_false, if_false, start, fits, Bool.not_true, Bool.false_eq_true, data, door,
    decide_false, Bool.false_and, not_false_eq_true, if_true]
  rfl

variable (data : rkey ≠ x.dataKey) (door : rkey = x.doorKey)
include data door

/-- A write under DOORBELL_RKEY is the doorbell of the context at its address, when it has a doorbell's form. -/
theorem rdmaWrite_of_door : rdmaWrite p m =
    if p.first && p.last && p.data.length = 8 && va.toNat % 8 = 0 && va.toNat / 8 < 4096 then
      (if ctxState (expect c p.qp (p.psn + 1)) (va.toNat / 8) = 0 || ctxOwner (expect c p.qp (p.psn + 1)) (va.toNat / 8) ≠ x.owner ||
          !ctxRdma (expect c p.qp (p.psn + 1)) (va.toNat / 8) then
        ⟨sendNak (raise (expect c p.qp (p.psn + 1)) .ctxDoorbellRejected 7 (va.toNat / 8)) p.qp (psn24 p.psn) .accessDenied, m.mem⟩
      else ⟨admitQp (rdmaDoorbell (expect c p.qp (p.psn + 1)) (va.toNat / 8) p.qp) p x 0x21 (va.toNat / 8) [0, 8, 0, leNat p.data, 0] [],
        m.mem⟩)
    else ⟨sendNak (expect c p.qp (p.psn + 1)) p.qp (psn24 p.psn) .badDescriptor, m.mem⟩ := by
  subst door
  rw [writeStart] at start
  rw [writeFits] at fits
  simp only [rdmaWrite, taken, next, ne_eq, not_true_eq_false, if_false, start, fits, Bool.not_true, Bool.false_eq_true, data,
    not_false_eq_true, decide_true, Bool.and_self, if_true]
  cases (p.first && p.last && decide (p.data.length = 8) && decide (va.toNat % 8 = 0) && decide (va.toNat / 8 < 4096)) <;> rfl

end

/-! ### READs and atomics (R500, R503) -/

theorem rdmaRead_of_gap (gap : psnPlace x p.psn = 2) : rdmaRead p m = ⟨roceOther c p x, m.mem⟩ := by
  simp only [rdmaRead, taken, gap, if_true]

theorem rdmaRead_of_place {n : Nat} {d : Core} (size : n = max 1 ((p.len + x.pmtu - 1) / max 1 x.pmtu)) (near : psnPlace x p.psn ≠ 2)
    (seen : d = if psnPlace x p.psn = 0 then expect c p.qp (p.psn + n) else c) : rdmaRead p m =
      if 16 ≤ qpOpen d p.qp || 2 ^ 31 < p.len then ⟨sendNak d p.qp (psn24 p.psn) .badDescriptor, m.mem⟩
      else if p.rkey ≠ x.dataKey then ⟨sendNak d p.qp (psn24 p.psn) .accessDenied, m.mem⟩
      else ⟨admitQp d p x 0x10 0xFFFF [p.va.toNat, p.len, 0, 0, 0] [], m.mem⟩ := by
  subst size seen
  simp only [rdmaRead, taken]
  exact if_neg near

variable {op : Nat} {a b : W64}

theorem rdmaAtomic_of_copy (copy : psnPlace x p.psn = 1) : rdmaAtomic p op a b m = ⟨c, m.mem⟩ := by
  have out : ¬ 1 = 0 := by decide
  simp only [rdmaAtomic, taken, copy, out, ne_eq, not_false_eq_true, if_true]

theorem rdmaAtomic_of_gap (gap : psnPlace x p.psn = 2) : rdmaAtomic p op a b m = ⟨roceOther c p x, m.mem⟩ := by
  have out : ¬ 2 = 0 := by decide
  have late : ¬ 2 = 1 := by decide
  simp only [rdmaAtomic, taken, gap, out, late, ne_eq, not_false_eq_true, if_true, if_false]

theorem rdmaAtomic_of_next (next : psnPlace x p.psn = 0) : rdmaAtomic p op a b m =
    if 16 ≤ qpOpen (expect c p.qp (p.psn + 1)) p.qp then ⟨sendNak (expect c p.qp (p.psn + 1)) p.qp (psn24 p.psn) .badDescriptor, m.mem⟩
    else if p.rkey ≠ x.dataKey then ⟨sendNak (expect c p.qp (p.psn + 1)) p.qp (psn24 p.psn) .accessDenied, m.mem⟩
    else ⟨admitQp (expect c p.qp (p.psn + 1)) p x 0x12 0xFFFF [p.va.toNat, 8, op + 256, a.toNat, b.toNat] [], m.mem⟩ := by
  simp only [rdmaAtomic, taken, next, ne_eq, not_true_eq_false, if_false]
  rfl

theorem roceInvalid_of_taken : roceInvalid p m = ⟨sendNak c p.qp (psn24 p.psn) .badDescriptor, m.mem⟩ := by
  simp only [roceInvalid, taken]

end

/-! ### The chip as requester (R499, R504) -/

section
variable {m : M} {p : RPkt} {c : Core}

theorem rdmaAck_of_untaken (untaken : roceRx p false m.core = (c, none)) (nak : Option Nat) : rdmaAck p nak m = ⟨c, m.mem⟩ := by
  simp only [rdmaAck, untaken]

/-- The writes up to a PSN are acknowledged. -/
def writesAcked (c : Core) (q : Nat) (x : Qp) (up : Nat) : Core :=
  (x.writes.filter (fun w => decide (cut24 up w.2.1 < 2 ^ 23))).foldl (fun c w => msgAcked c w.2.2.1)
    (setQp c q { x with writes := x.writes.filter (fun w => !decide (cut24 up w.2.1 < 2 ^ 23)) })

variable {x : Qp} (taken : roceRx p false m.core = (c, some x))
include taken

theorem rdmaAck_of_ack : rdmaAck p none m = ⟨writesAcked c p.qp x (psn24 (p.psn + 1)), m.mem⟩ := by
  simp only [rdmaAck, taken]
  rfl

theorem rdmaAck_of_gap : rdmaAck p (some 0) m = ⟨resendWrites (writesAcked c p.qp x (psn24 p.psn)) p.qp, m.mem⟩ := by
  simp only [rdmaAck, taken]
  rfl

/-- The status that a NAK of a code gives. -/
def nakStatus : Nat → Status
  | 1 => .badDescriptor
  | 2 => .accessDenied
  | _ => .internalFault

theorem rdmaAck_of_nak {k : Nat} (named : k ≠ 0) :
    rdmaAck p (some k) m = ⟨qpError (writesAcked c p.qp x (psn24 p.psn)) p.qp (statusCode (nakStatus k)), m.mem⟩ := by
  obtain ⟨k, rfl⟩ := Nat.exists_eq_succ_of_ne_zero named
  simp only [rdmaAck, taken]
  rfl

end

section
variable {m : M} {q time : Nat} {c : Core} {x : Qp} {a b : Nat} {msg : OutMsg} {tries sent : Nat}
  {t : List (Nat × Nat × OutMsg × Nat × Nat)}
  (clock : c = m.core.at time) (there : qp? c q = some x) (writes : x.writes = (a, b, msg, tries, sent) :: t) (runs : x.error = false)
include clock there writes runs

theorem localAckTimeout_of_early (early : c.glb.now < sent + 4096 * 2 ^ x.ackExp) : localAckTimeout q time m = ⟨c, m.mem⟩ := by
  subst clock
  simp only [localAckTimeout, there, writes, runs, early, decide_true, Bool.false_or, if_true]

variable (late : sent + 4096 * 2 ^ x.ackExp ≤ c.glb.now)
include late

theorem localAckTimeout_of_last (last : tries = 0) : localAckTimeout q time m = ⟨qpError c q (statusCode .linkLost), m.mem⟩ := by
  subst clock
  simp only [localAckTimeout, there, writes, runs, Nat.not_lt.mpr late, decide_false, Bool.or_self, Bool.false_eq_true, if_false, last,
    if_true]

theorem localAckTimeout_of_retry (retries : 0 < tries) : localAckTimeout q time m =
    ⟨resendWrites (setQp c q { x with writes := (a, b, msg, tries - 1, sent) :: t }) q, m.mem⟩ := by
  subst clock
  simp only [localAckTimeout, there, writes, runs, Nat.not_lt.mpr late, decide_false, Bool.or_self, Bool.false_eq_true, if_false,
    Nat.pos_iff_ne_zero.mp retries]

end

/-! ### The statement -/

/-- Settles O51: each request by its place in the PSN order, its R_Key and its form, and each acknowledgement by its code. -/
theorem roceQueuePairs : Obligations.RoceQueuePairs := by
  unfold Obligations.RoceQueuePairs
  refine ⟨?create, ?destroy, ?untaken, ?write, ?read, ?atomic, ?invalid, ?nak, ?silent, ?ack, ?timeout⟩
  case create =>
    intro s src d m asks ok
    exact does_of_run rfl (mgmt_accepted asks (qpCreate_accepted ok))
  case destroy =>
    intro s src q m asks number
    refine ⟨fun x there => ⟨qpGone q m.core, qp?_qpGone _ _, doorQp_qpGone _ _, ?_⟩,
      fun none => does_of_run rfl (mgmt_refused asks (qpDestroy_of_none number none))⟩
    exact does_of_run rfl ((mgmt_accepted asks (qpDestroy_accepted number there)).trans
      (congrArg (accepted · src 0x0011 []) (M.on_const rfl)))
  case untaken => exact fun cmd request s p c untaken => does_of_untaken request untaken
  case write =>
    intro s p c x taken
    refine ⟨fun other => does_of_run rfl (rdmaWrite_of_other (m := s.m) taken other), ?_⟩
    rintro next d rfl
    refine ⟨fun stray => does_of_run rfl (rdmaWrite_of_stray (m := s.m) taken next stray), fun va rkey left start => ⟨?_, ?_, ?_, ?_, ?_⟩⟩
    · exact fun unfit => does_of_run rfl (rdmaWrite_of_unfit (m := s.m) taken next start unfit)
    · rintro fits key wr rfl
      exact does_of_run rfl (rdmaWrite_of_data (m := s.m) taken next start fits key)
    · exact fun fits data door => does_of_run rfl (rdmaWrite_of_unkeyed (m := s.m) taken next start fits data door)
    · rintro fits data door k rfl first last eight aligned inside
      have step := rdmaWrite_of_door (m := s.m) taken next start fits data door
      rw [if_pos (by rw [first, last, decide_eq_true eight, decide_eq_true aligned, decide_eq_true inside]; rfl)] at step
      refine ⟨fun active owner rdma => does_of_run rfl (step.trans (if_neg ?_)), fun rejects => does_of_run rfl (step.trans (if_pos ?_))⟩
      · rw [decide_eq_false active, decide_eq_false (not_not_intro owner), rdma]
        exact Bool.false_ne_true
      · rw [Bool.or_eq_true, Bool.or_eq_true, decide_eq_true_eq, decide_eq_true_eq, Bool.not_eq_true', or_assoc]
        exact rejects
    · intro fits data door malformed
      refine does_of_run rfl ((rdmaWrite_of_door (m := s.m) taken next start fits data door).trans (if_neg ?_))
      simp only [Bool.and_eq_true, decide_eq_true_eq]
      rintro ⟨⟨⟨⟨first, last⟩, eight⟩, aligned⟩, inside⟩
      rcases malformed with no | no | no | no | no
      · exact Bool.false_ne_true (no.symm.trans first)
      · exact Bool.false_ne_true (no.symm.trans last)
      · exact no eight
      · exact no aligned
      · exact absurd inside (Nat.not_lt.mpr no)
  case read =>
    intro s p c x taken
    refine ⟨fun gap => does_of_run rfl (rdmaRead_of_gap (m := s.m) taken gap), fun n d size near seen => ?_⟩
    have step := rdmaRead_of_place (m := s.m) taken size near seen
    refine ⟨fun room short key => does_of_run rfl (step.trans ?_), fun room short key => does_of_run rfl (step.trans ?_),
      fun full => does_of_run rfl (step.trans (if_pos ?_))⟩
    · rw [if_neg (by rw [Bool.or_eq_true, decide_eq_true_eq, decide_eq_true_eq]; omega), if_neg (not_not_intro key)]
    · rw [if_neg (by rw [Bool.or_eq_true, decide_eq_true_eq, decide_eq_true_eq]; omega), if_pos key]
    · rwa [Bool.or_eq_true, decide_eq_true_eq, decide_eq_true_eq]
  case atomic =>
    intro s p c x a b taken cmd op cmp which
    have meaning : exec cmd s = run (rdmaAtomic p op a cmp) s := by
      rcases which with ⟨rfl, rfl, rfl⟩ | ⟨rfl, rfl, rfl⟩ <;> rfl
    refine ⟨fun copy => does_of_run meaning (rdmaAtomic_of_copy (m := s.m) taken copy),
      fun gap => does_of_run meaning (rdmaAtomic_of_gap (m := s.m) taken gap), ?_⟩
    rintro next d rfl
    have step := rdmaAtomic_of_next (m := s.m) (op := op) (a := a) (b := cmp) taken next
    refine ⟨fun room key => does_of_run meaning (step.trans ?_), fun room key => does_of_run meaning (step.trans ?_),
      fun full => does_of_run meaning (step.trans (if_pos full))⟩
    · rw [if_neg (Nat.not_le.mpr room), if_neg (not_not_intro key)]
    · rw [if_neg (Nat.not_le.mpr room), if_pos key]
  case invalid => exact fun s p c x taken => does_of_run rfl (roceInvalid_of_taken (m := s.m) taken)
  case nak => exact fun c q psn st x there => ⟨_, qp?_sendNak there psn st, rfl, rfl, rfl, rfl⟩
  case silent => exact fun s p c untaken nak => does_of_run rfl (rdmaAck_of_untaken (m := s.m) untaken nak)
  case ack =>
    rintro s p c x up d taken rfl
    refine ⟨?_, ?_⟩
    · rintro rfl
      exact does_of_run rfl (rdmaAck_of_ack (m := s.m) taken)
    · rintro rfl
      refine ⟨does_of_run rfl (rdmaAck_of_gap (m := s.m) taken), does_of_run rfl (rdmaAck_of_nak (m := s.m) taken (by decide)),
        does_of_run rfl (rdmaAck_of_nak (m := s.m) taken (by decide)), fun k large => ?_⟩
      obtain ⟨j, rfl⟩ := Nat.exists_eq_add_of_le' large
      exact does_of_run rfl (rdmaAck_of_nak (m := s.m) taken (Nat.succ_ne_zero _))
  case timeout =>
    intro s q time c x a b msg tries sent t serves clock there writes runs
    exact ⟨fun early => does_of_served rfl serves (localAckTimeout_of_early (m := s.m) clock there writes runs early),
      fun late => ⟨fun last => does_of_served rfl serves (localAckTimeout_of_last (m := s.m) clock there writes runs late last),
        fun retries => does_of_served rfl serves (localAckTimeout_of_retry (m := s.m) clock there writes runs late retries)⟩⟩

end Sys2Proof.Machine

/-! Links and ports: what a sub-port's link bits show, what a port has after it starts a frame, how PFC pauses a priority, and the
statement about links (R464, R469, R509, R516, R528 to R530). -/

namespace Sys2Proof.Machine
open Sys2Proof

/-! ### Link bits -/

/-- Bits of a number of four bits, after one of them is set. -/
theorem bitOf_setBit_small : ∀ v < 16, ∀ k < 4, ∀ b : Bool, bitOf (setBit v k b % 16) k = b ∧
    ∀ j < 4, j ≠ k → bitOf (setBit v k b % 16) j = bitOf v j := by decide

/-- A sub-port's bit of a field of MAC_STATUS. -/
def setLinkBit (n k : Nat) (b : Bool) (c : Core) (f : Fld) : Core := c.setFld (MAC_STATUS n) f (setBit (c.fld (MAC_STATUS n) f) k b)

theorem setLink_eq (c : Core) (n k : Nat) (b : Bool) : setLink c n k b =
    let d := setLinkBit n k b (setLinkBit n k b (setLinkBit n k b c MAC_STATUS_LINK_UP) MAC_STATUS_FEC_LOCK) MAC_STATUS_AN_DONE
    if ringPort n then d.setFld RING_STATUS RING_STATUS_LINK (setBit (d.fld RING_STATUS RING_STATUS_LINK) (n - 12) b) else d := rfl

theorem fld_setLinkBit_other (n k : Nat) (b : Bool) (c : Core) {f g : Fld} (sf : f.lo ≤ f.hi) (hf : f.hi < 64) (sg : g.lo ≤ g.hi)
    (apart : f.hi < g.lo ∨ g.hi < f.lo) : (setLinkBit n k b c f).fld (MAC_STATUS n) g = c.fld (MAC_STATUS n) g :=
  Core.fld_setFld_other _ _ _ _ _ sf hf sg apart

theorem fld_setLink (c : Core) (n k : Nat) (b : Bool) :
    (setLink c n k b).fld (MAC_STATUS n) MAC_STATUS_LINK_UP = setBit (c.fld (MAC_STATUS n) MAC_STATUS_LINK_UP) k b % 16 := by
  have bits : (setLinkBit n k b (setLinkBit n k b (setLinkBit n k b c MAC_STATUS_LINK_UP) MAC_STATUS_FEC_LOCK) MAC_STATUS_AN_DONE).fld
      (MAC_STATUS n) MAC_STATUS_LINK_UP = setBit (c.fld (MAC_STATUS n) MAC_STATUS_LINK_UP) k b % 16 := by
    rw [fld_setLinkBit_other _ _ _ _ (by decide) (by decide) (by decide) (by decide),
      fld_setLinkBit_other _ _ _ _ (by decide) (by decide) (by decide) (by decide)]
    exact Core.fld_setFld_self _ _ _ _ (by decide) (by decide)
  rw [setLink_eq]
  dsimp only
  split
  · exact (Core.fld_congr (Core.rget_setFld_ne _ _ _ (by simp only [MAC_STATUS, RING_STATUS]; omega)) _).trans bits
  · exact bits

theorem linkUp_setLink (c : Core) (n : Nat) {k : Nat} (b : Bool) (sub : k < 4) : linkUp (setLink c n k b) n k = b ∧
    ∀ j, j < 4 → j ≠ k → linkUp (setLink c n k b) n j = linkUp c n j := by
  have small : c.fld (MAC_STATUS n) MAC_STATUS_LINK_UP < 16 := fld_lt c _ MAC_STATUS_LINK_UP
  obtain ⟨shown, others⟩ := bitOf_setBit_small _ small k sub b
  refine ⟨?_, fun j low other => ?_⟩
  · rw [linkUp, fld_setLink, shown]
  · rw [linkUp, fld_setLink, others j low other, linkUp]

/-! ### Links come and go (R469, R509, R516) -/

section
variable {c : Core} {n k time : Nat}

theorem linkUpCmd_of_serving (clock : (c.at time) = c) (port : portOk c n k = true) (runs : powered c = true) (stage : 6 ≤ bootStage c)
    (whole : bootStage c ≠ 9) (domain : domainServes c (52 + n) = true) (base : baseFenced c (portPlinth n) = false)
    (fence : c.flag (PWR_DOMAIN (52 + n)) PWR_DOMAIN_FENCED = false) (clocked : c.pins.stoppedClocks.contains (1 + portPlinth n) = false) :
    linkUpCmd n k time c =
      startPort (if ringPort n then healLink (sendHello (setLink c n k true) n) n else setLink c n k true) n := by
  have started : (decide (6 ≤ bootStage c) && decide (bootStage c ≠ stRecovery)) = true := by
    rw [decide_eq_true stage, show decide (bootStage c ≠ stRecovery) = true from decide_eq_true whole]; rfl
  unfold linkUpCmd
  rw [clock]
  dsimp only
  exact if_neg (by rw [port, runs, started, domain, base, fence, clocked]; exact Bool.false_ne_true)

end

/-- A time that has come changes nothing when it comes again. -/
theorem Core.at_at (c : Core) (time : Nat) : (c.at time).at time = c.at time := by
  simp only [Core.at, Nat.max_assoc, Nat.max_self]

theorem linkUpCmd_at (c : Core) (n k time : Nat) : linkUpCmd n k time c = linkUpCmd n k time (c.at time) := by
  rw [linkUpCmd, linkUpCmd, Core.at_at]

section
variable {c : Core} {n k time : Nat}

theorem linkDownCmd_of_down (down : linkUp (c.at time) n k = false) : linkDownCmd n k time c = c.at time := by
  unfold linkDownCmd
  dsimp only
  exact if_pos (by rw [down, Bool.not_false, Bool.or_true])

variable (port : portOk (c.at time) n k = true) (link : linkUp (c.at time) n k = true)
include port link

theorem linkDownCmd_of_fabric (fabric : ringPort n = false) : linkDownCmd n k time c = pathsDown (setLink (c.at time) n k false) n k := by
  unfold linkDownCmd
  dsimp only
  refine (if_neg (by rw [port, link]; exact Bool.false_ne_true)).trans ?_
  exact if_pos (by rw [fabric]; rfl)

/-- The ring port's neighbour is known no more, and the loss is logged. -/
def neighbourLost (n : Nat) (d : Core) : Core :=
  let e := onRingSt d (fun r => { r with hello := amDel r.hello n })
  raise (if (if n < 14 then [12, 13] else [14, 15]).all (fun j => (amGet? e.ring.hello j).isNone) then
    e.setFld RING_NEIGHBOURS (if n < 14 then RING_NEIGHBOURS_WEST_VALID else RING_NEIGHBOURS_EAST_VALID) 0 else e) .ringLinkDown 5 n

variable (ring : ringPort n = true) {g : Core} (lost : g = neighbourLost n (pathsDown (setLink (c.at time) n k false) n k))
include ring lost

theorem linkDownCmd_of_ring : linkDownCmd n k time c =
    if dirUp (c.at time) 0 && !dirUp g 0 && isMaster g && onRing g && 1 < g.ring.members.length then
      issueRoute g (markLink g.ring.members (if n < 14 then westOf g else g.chipId) 2)
    else g := by
  subst lost
  unfold linkDownCmd
  dsimp only
  refine (if_neg (by rw [port, link]; exact Bool.false_ne_true)).trans ?_
  exact if_neg (by rw [ring]; exact Bool.false_ne_true)

/-- A master whose direction is no longer UP tells the ring. -/
theorem linkDownCmd_of_broken (was : dirUp (c.at time) 0 = true) (broken : dirUp g 0 = false) (leads : masters g = true)
    (many : 1 < g.ring.members.length) :
    linkDownCmd n k time c = issueRoute g (markLink g.ring.members (if n < 14 then westOf g else g.chipId) 2) := by
  obtain ⟨leads, member⟩ := Bool.and_eq_true_iff.mp leads
  refine (linkDownCmd_of_ring port link ring lost).trans (if_pos ?_)
  rw [was, broken, leads, member, decide_eq_true many]; rfl

theorem linkDownCmd_of_kept (stays : dirUp (c.at time) 0 = false ∨ dirUp g 0 = true ∨ masters g = false ∨ g.ring.members.length ≤ 1) :
    linkDownCmd n k time c = g := by
  refine (linkDownCmd_of_ring port link ring lost).trans (if_neg ?_)
  simp only [Bool.and_eq_true, Bool.not_eq_true', decide_eq_true_eq]
  rintro ⟨⟨⟨⟨was, broken⟩, leads⟩, member⟩, many⟩
  rcases stays with no | no | no | no
  · exact Bool.false_ne_true (no.symm.trans was)
  · exact Bool.false_ne_true (broken.symm.trans no)
  · rw [masters, leads, member] at no
    exact Bool.false_ne_true no.symm
  · omega

end

/-! ### Ports (R528 to R530) -/

@[simp] theorem portSt_setPort_self (c : Core) (n : Nat) (p : PortSt) : portSt (setPort c n p) n = p := by
  rw [portSt, amGet, setPort, amGet?_amSet_self]
  rfl

theorem portSt_congr {c d : Core} (same : c.net.ports = d.net.ports) (n : Nat) : portSt c n = portSt d n := by
  rw [portSt, same, portSt]

theorem noteQueue_net (c : Core) (n : Nat) : (noteQueue c n).net = c.net := by
  unfold noteQueue; extract_lets; split
  · rw [Core.setFld_net, Core.setFld_net]
  · rw [Core.setFld_net]

theorem portSt_noteQueue (c : Core) (n m : Nat) : portSt (noteQueue c n) m = portSt c m :=
  portSt_congr (congrArg NetSt.ports (noteQueue_net c n)) m

/-- A tag given to a flow's head leaves the queue, what is sent and what is paused. -/
theorem portSt_tagHead (c : Core) (n flow s : Nat) : (portSt (tagHead c n flow s) n).queue = (portSt c n).queue ∧
    (portSt (tagHead c n flow s) n).sending = (portSt c n).sending ∧ (portSt (tagHead c n flow s) n).paused = (portSt c n).paused := by
  unfold tagHead
  dsimp only
  split <;> rw [portSt_setPort_self] <;> exact ⟨rfl, rfl, rfl⟩

theorem rget_tagHead (c : Core) (n flow s a : Nat) : (tagHead c n flow s).rget a = c.rget a := by
  unfold tagHead
  dsimp only
  split <;> exact Core.rget_congr rfl a

theorem rget_noteQueue_ne {a n : Nat} (queue : a ≠ SCH_QUEUE n) (peak : a ≠ SCH_QUEUE_PEAK n) (c : Core) :
    (noteQueue c n).rget a = c.rget a := by
  unfold noteQueue; extract_lets; split
  · rw [Core.rget_setFld_ne _ _ _ peak, Core.rget_setFld_ne _ _ _ queue]
  · rw [Core.rget_setFld_ne _ _ _ queue]

/-- A port takes frame `i` of its queue. -/
def takes (p : PortSt) (i : Nat) : PortSt := { p with sending := p.queue[i]?, queue := dropAt p.queue i }

section
variable {c : Core} {n i : Nat} {p : PortSt} {f : EgFrame} (state : p = portSt c n) (idle : p.sending = none) (there : p.queue[i]? = some f)
include state idle there

theorem startPort_of_strict (first : p.queue.findIdx? (fun f => f.strict && frameReady c n f) = some i) :
    startPort c n = noteQueue (setPort c n (takes p i)) n := by
  subst state
  have full : (portSt c n).queue ≠ [] := fun none => by simp only [none, List.getElem?_nil, reduceCtorEq] at there
  unfold startPort
  dsimp only
  refine (if_neg (by rw [idle, decide_eq_false full]; exact Bool.false_ne_true)).trans ?_
  rw [first]
  rfl

theorem startPort_of_tagged {flow tag : Nat} (unready : p.queue.findIdx? (fun f => f.strict && frameReady c n f) = none)
    (least : leastHead (p.head.filter (fun h => match p.queue.find? (fun f => !f.strict && f.flow == h.1) with
      | some f => frameReady c n f
      | none => false)) = some (flow, tag))
    (head : p.queue.findIdx? (fun f => !f.strict && f.flow == flow) = some i) :
    startPort c n = noteQueue (tagHead ((setPort c n (takes p i)).rset (SCH_VTIME n) (BitVec.ofNat 64 tag)) n flow tag) n := by
  subst state
  have full : (portSt c n).queue ≠ [] := fun none => by simp only [none, List.getElem?_nil, reduceCtorEq] at there
  unfold startPort
  dsimp only
  refine (if_neg (by rw [idle, decide_eq_false full]; exact Bool.false_ne_true)).trans ?_
  rw [unready]
  dsimp only
  split
  · next none => exact absurd (none.symm.trans least) (Option.some_ne_none _).symm
  · next flow' tag' found =>
    obtain ⟨rfl, rfl⟩ := Prod.mk.inj (Option.some.inj (found.symm.trans least))
    rw [head]
    rfl

end

/-- What a port has paused stays through a start. -/
theorem paused_startPort (c : Core) (n : Nat) : (portSt (startPort c n) n).paused = (portSt c n).paused := by
  unfold startPort
  dsimp only
  split
  · rfl
  · split
    · rw [portSt_noteQueue, portSt_setPort_self]
    · split
      · exact congrArg PortSt.paused (portSt_congr (by rw [Core.perf_net, Core.draw_net]) n)
      · split
        · rfl
        · rw [portSt_noteQueue, (portSt_tagHead _ _ _ _).2.2, portSt_congr (congrArg NetSt.ports (Core.rset_net _ _ _)),
            portSt_setPort_self]

/-! ### PFC (R464) -/

/-- One priority of a PFC frame. -/
def pauseOne (n rate : Nat) (c : Core) (x : Nat × Nat) : Core :=
  if x.1 < 65536 && x.2 < 8 && bitOf (c.fld (MAC_CTRL n) MAC_CTRL_PFC_EN) x.2 then
    setPort c n { portSt c n with
      paused := amPut 0 (portSt c n).paused x.2 (if x.1 = 0 then 0 else c.glb.now + (x.1 * 512 + rate - 1) / rate) }
  else c

theorem pfcFrame_eq (n : Nat) (quanta : List Nat) (c : Core) : pfcFrame n quanta c = startPort (quanta.zipIdx.foldl
    (pauseOne n (match c.fld (MAC_CFG n) MAC_CFG_MODE with | 0 => 800 | 1 => 400 | _ => 200)) c) n := rfl

section
variable (n rate : Nat)

theorem pauseOne_regs (c : Core) (x : Nat × Nat) : (pauseOne n rate c x).regs = c.regs := by
  unfold pauseOne; split <;> rfl

theorem pauseOne_glb (c : Core) (x : Nat × Nat) : (pauseOne n rate c x).glb = c.glb := by
  unfold pauseOne; split <;> rfl

theorem paused_pauseOne_ne (c : Core) {x : Nat × Nat} {j : Nat} (other : j ≠ x.2) :
    amGet (portSt (pauseOne n rate c x) n).paused j 0 = amGet (portSt c n).paused j 0 := by
  unfold pauseOne; split
  · rw [portSt_setPort_self]
    exact amGet_amPut_ne _ _ _ other
  · rfl

theorem paused_pauseOne_self {c : Core} {q j : Nat} (quanta : q < 65536) (priority : j < 8)
    (enabled : bitOf (c.fld (MAC_CTRL n) MAC_CTRL_PFC_EN) j = true) :
    amGet (portSt (pauseOne n rate c (q, j)) n).paused j 0 = if q = 0 then 0 else c.glb.now + (q * 512 + rate - 1) / rate := by
  unfold pauseOne
  rw [if_pos (by rw [decide_eq_true quanta, decide_eq_true priority, enabled]; rfl), portSt_setPort_self]
  exact amGet_amPut_self _ _ _ _

theorem paused_foldl_ne (j : Nat) (l : List (Nat × Nat)) (others : ∀ x ∈ l, j ≠ x.2) (c : Core) :
    amGet (portSt (l.foldl (pauseOne n rate) c) n).paused j 0 = amGet (portSt c n).paused j 0 := by
  induction l generalizing c with
  | nil => rfl
  | cons x t ih =>
    rw [List.foldl_cons, ih (fun y inside => others y (List.mem_cons_of_mem _ inside)),
      paused_pauseOne_ne n rate c (others x List.mem_cons_self)]

/-- A priority that the frame names pauses for its quanta, whatever the others. -/
theorem paused_foldl {c : Core} {quanta : List Nat} {q j : Nat} (named : quanta[j]? = some q) (quantum : q < 65536) (priority : j < 8)
    (enabled : bitOf (c.fld (MAC_CTRL n) MAC_CTRL_PFC_EN) j = true) :
    amGet (portSt (quanta.zipIdx.foldl (pauseOne n rate) c) n).paused j 0 =
      if q = 0 then 0 else c.glb.now + (q * 512 + rate - 1) / rate := by
  obtain ⟨short, value⟩ := List.getElem?_eq_some_iff.mp named
  have parts : quanta.zipIdx = (quanta.take j).zipIdx ++ (q, j) :: (quanta.drop (j + 1)).zipIdx (j + 1) := by
    have cut : quanta = quanta.take j ++ q :: quanta.drop (j + 1) := by
      rw [← value, List.getElem_cons_drop, List.take_append_drop]
    have length : (quanta.take j).length = j := by rw [List.length_take]; omega
    conv => lhs; rw [cut, List.zipIdx_append, List.zipIdx_cons, length, Nat.zero_add]
  have regs := foldl_keeps Core.regs (pauseOne_regs n rate) (quanta.take j).zipIdx c
  have glb := foldl_keeps Core.glb (pauseOne_glb n rate) (quanta.take j).zipIdx c
  rw [parts, List.foldl_append, List.foldl_cons, paused_foldl_ne n rate j _ (fun x inside => ?later)]
  case later =>
    have above := List.le_snd_of_mem_zipIdx inside
    omega
  rw [paused_pauseOne_self n rate quantum priority (by rw [Core.fld_congr (Core.rget_congr regs _)]; exact enabled), glb]

end

/-! ### Frames sent, and transit queues with room (R520, R530) -/

/-- No credits kept, none to forget. -/
theorem onRingSt_of_unkept {d : Core} (n : Nat) (unkept : d.ring.transitHeld = []) :
    onRingSt d (fun r => { r with transitHeld := r.transitHeld.filter (·.1 != n) }) = d := by
  have same : { d.ring with transitHeld := d.ring.transitHeld.filter (·.1 != n) } = d.ring := by
    rw [unkept, List.filter_nil, ← unkept]
  rw [onRingSt, same]

section
variable {c : Core} {n time : Nat}

theorem frameCmd_of_full (full : 8388608 ≤ transitBytes (frameSent n (c.at time)) n) : frameCmd n time c = frameSent n (c.at time) := by
  unfold frameCmd
  exact if_neg (Nat.not_lt.mpr full)

theorem frameCmd_of_room (room : transitBytes (frameSent n (c.at time)) n < 8388608) : frameCmd n time c =
    ((frameSent n (c.at time)).ring.transitHeld.filter (·.1 == n)).foldl (fun c h => releaseCr c h.2.1 0 h.2.2.1 h.2.2.2 true)
      (onRingSt (frameSent n (c.at time)) (fun r => { r with transitHeld := r.transitHeld.filter (·.1 != n) })) := by
  unfold frameCmd
  exact if_pos room

/-- Without credits kept the frame is sent, and nothing else. -/
theorem frameCmd_of_unkept (unkept : c.ring.transitHeld = []) : frameCmd n time c = frameSent n (c.at time) := by
  have same : (frameSent n (c.at time)).ring.transitHeld = [] :=
    (congrArg RingSt.transitHeld (sendingKeeps_ring.frameSent n (c.at time))).trans unkept
  by_cases room : transitBytes (frameSent n (c.at time)) n < 8388608
  · rw [frameCmd_of_room room, same, List.filter_nil, List.foldl_nil]
    generalize frameSent n (c.at time) = d at same
    exact onRingSt_of_unkept n same
  · exact frameCmd_of_full (Nat.not_lt.mp room)

end

/-! ### The statement -/

/-- Settles O52: the link bits, the ports and the paused priorities by the rules above; FRAME_TRANSMITTED gives back the credits kept for
a transit queue that has room (assumption 62). -/
theorem links : Obligations.Links := by
  unfold Obligations.Links
  refine ⟨?gain, ?bits, ?lose, ?pfc, ?pause, ?sent, ?transit, ?idle, ?strict, ?tagged⟩
  case gain =>
    rintro s n k time c rfl port runs stage whole domain base fence clocked
    have step : linkUpCmd n k time s.core = _ :=
      (linkUpCmd_at s.core n k time).trans
        (linkUpCmd_of_serving (Core.at_at s.core time) port runs stage whole domain base fence clocked)
    refine ⟨fun fabric => doesTo_of_core rfl (step.trans ?_), fun ring => doesTo_of_core rfl (step.trans ?_)⟩
    · rw [if_neg (by rw [fabric]; exact Bool.false_ne_true)]
    · rw [if_pos ring]
  case bits => exact fun c n k b _ sub => linkUp_setLink c n b sub
  case lose =>
    rintro s n k time c runs rfl port
    refine ⟨fun down => does_of_poweredCore rfl runs (linkDownCmd_of_down down),
      fun link fabric => does_of_poweredCore rfl runs (linkDownCmd_of_fabric port link fabric), ?_⟩
    rintro link ring d e g rfl rfl lost
    exact ⟨fun was broken leads many => does_of_poweredCore rfl runs (linkDownCmd_of_broken port link ring lost was broken leads many),
      fun stays => does_of_poweredCore rfl runs (linkDownCmd_of_kept port link ring lost stays)⟩
  case pfc =>
    rintro s n k len time quanta c c1 runs rfl port link
    exact ⟨fun taken => does_of_poweredCore rfl runs (by
        simp only [pfcCmd, port, link, Bool.not_true, Bool.or_self, Bool.false_eq_true, if_false, taken]),
      fun long => does_of_poweredCore rfl runs (by
        simp only [pfcCmd, port, link, Bool.not_true, Bool.or_self, Bool.false_eq_true, if_false, long])⟩
  case pause =>
    rintro c n quanta j q rate named quantum priority enabled rfl
    rw [pfcFrame_eq, paused_startPort]
    exact paused_foldl n _ named quantum priority enabled
  case sent =>
    exact fun s n time runs unkept => does_of_poweredCore rfl runs (frameCmd_of_unkept unkept)
  case transit =>
    rintro s n time c runs rfl
    exact ⟨fun full => does_of_poweredCore rfl runs (frameCmd_of_full full),
      fun room => does_of_poweredCore rfl runs (frameCmd_of_room room)⟩
  case idle =>
    intro c n none
    simp only [frameSent, none]
  case strict =>
    intro c n i p f state idle there first
    rw [startPort_of_strict state idle there first, portSt_noteQueue, portSt_setPort_self]
    exact ⟨there, rfl⟩
  case tagged =>
    intro c n i flow tag p f state idle unready least head there _
    rw [startPort_of_tagged state idle there unready least head, portSt_noteQueue, (portSt_tagHead _ _ _ _).1, (portSt_tagHead _ _ _ _).2.1,
      portSt_congr (congrArg NetSt.ports (Core.rset_net _ _ _)), portSt_setPort_self,
      rget_noteQueue_ne (by simp only [SCH_VTIME, SCH_QUEUE]; omega) (by simp only [SCH_VTIME, SCH_QUEUE_PEAK]; omega), rget_tagHead,
      Core.rget_rset_self]
    exact ⟨there, rfl, rfl⟩

end Sys2Proof.Machine

/-! What sending leaves of the registers that do not belong to a port, and what routes and states of the ring make of its own
(R510, R512, R517). -/

namespace Sys2Proof.Machine
open Sys2Proof

/-! ### Registers outside of the ports' schedulers -/

/-- A register above those of every port's scheduler, within its unit. -/
abbrev OffPorts (a : Nat) : Prop := 0x3000 ≤ a % 0x10000

section
variable {a : Nat} (off : OffPorts a)
include off

theorem OffPorts.ne_queue (n : Nat) : a ≠ SCH_QUEUE n := by unfold OffPorts at off; simp only [SCH_QUEUE]; omega
theorem OffPorts.ne_peak (n : Nat) : a ≠ SCH_QUEUE_PEAK n := by unfold OffPorts at off; simp only [SCH_QUEUE_PEAK]; omega
theorem OffPorts.ne_vtime (n : Nat) : a ≠ SCH_VTIME n := by unfold OffPorts at off; simp only [SCH_VTIME]; omega
theorem OffPorts.ne_stall (n : Nat) : a ≠ SCH_STALL_CYCLES n := by unfold OffPorts at off; simp only [SCH_STALL_CYCLES]; omega
theorem OffPorts.ne_retransmits (n : Nat) : a ≠ FZT_RETRANSMITS n := by
  unfold OffPorts at off; simp only [FZT_RETRANSMITS]; omega

theorem rget_noteQueue_off (c : Core) (n : Nat) : (noteQueue c n).rget a = c.rget a :=
  rget_noteQueue_ne (off.ne_queue n) (off.ne_peak n) c

theorem rget_stalled_off (c : Core) (n k : Nat) : (c.draw.1.perf (SCH_STALL_CYCLES n) k).rget a = c.rget a :=
  (Core.rget_perf_ne _ _ (off.ne_stall n)).trans (Core.rget_congr rfl a)

theorem rget_startPort_off (c : Core) (n : Nat) : (startPort c n).rget a = c.rget a := by
  unfold startPort
  dsimp only
  split
  · rfl
  · split
    · rw [rget_noteQueue_off off]
      exact Core.rget_congr rfl a
    · split
      · exact rget_stalled_off off c n _
      · split
        · rfl
        · rw [rget_noteQueue_off off, rget_tagHead, Core.rget_rset_ne _ _ (off.ne_vtime n)]
          exact Core.rget_congr rfl a

theorem rget_enqueueFrame_off (c : Core) (n : Nat) (f : EgFrame) : (enqueueFrame c n f).rget a = c.rget a := by
  unfold enqueueFrame
  extract_lets _ fresh
  rw [rget_startPort_off off, rget_noteQueue_off off]
  change (if fresh = true then _ else _ : Core).rget a = _
  split
  · rw [rget_tagHead]
    exact Core.rget_congr rfl a
  · exact Core.rget_congr rfl a

end

theorem choosePath_regs (c : Core) (x : Session) (p : TxPkt) : (choosePath c x p).1.regs = c.regs := by
  have chosen (n : Nat) : (c.choose n).1.regs = c.regs := by unfold Core.choose; split <;> rfl
  unfold choosePath
  dsimp only
  split
  · rfl
  · rfl
  · exact chosen _

section
variable {a : Nat} (off : OffPorts a)
include off

theorem rget_transmit_off (c : Core) (s : Nat) (t : TxMsg) (p : TxPkt) : (transmit c s t p).rget a = c.rget a := by
  unfold transmit
  split
  · rfl
  · next x _ =>
    have chosen : (choosePath c x p).1.rget a = c.rget a := Core.rget_congr (choosePath_regs c x p) a
    split
    · next h => rw [h] at chosen; exact chosen
    · next c1 i h =>
      rw [h] at chosen
      split
      · exact chosen
      · extract_lets
        rw [rget_enqueueFrame_off off]
        split
        · exact (Core.rget_congr rfl a).trans chosen
        · rw [Core.rget_count_ne _ _ (off.ne_retransmits _)]
          exact (Core.rget_congr rfl a).trans chosen

theorem rget_creditStall_off (c : Core) (x : Session) : (creditStall c x).rget a = c.rget a := by
  unfold creditStall; split
  · exact rget_stalled_off off c _ _
  · rfl

theorem rget_pumpPkts_off (s : Nat) (l : List TxPkt) (c : Core) (stuck : List Nat) : (pumpPkts c s stuck l).rget a = c.rget a := by
  induction l generalizing c stuck with
  | nil => rfl
  | cons p t ih =>
    unfold pumpPkts
    split
    · exact ih _ _
    · extract_lets
      split
      · exact ih _ _
      · split
        · rw [ih, rget_transmit_off off]
        · split
          · rw [ih, rget_creditStall_off off]
          · exact ih _ _

theorem rget_pump_off (c : Core) (s : Nat) : (pump c s).rget a = c.rget a := by
  unfold pump
  split
  · split
    · exact rget_pumpPkts_off off _ _ _ _
    · rfl
  · rfl

theorem rget_pathUp_off (c : Core) (s i : Nat) : (pathUp c s i).rget a = c.rget a := by
  unfold pathUp
  split
  · rfl
  · extract_lets
    split <;> exact (rget_pump_off off _ _).trans (Core.rget_congr rfl a)

end

/-- The state of the ring is its status register's. -/
theorem ringState_congr {c d : Core} (same : c.rget RING_STATUS = d.rget RING_STATUS) : ringState c = ringState d :=
  Core.fld_congr same _

theorem ringState_of_regs {c d : Core} (same : c.regs = d.regs) : ringState c = ringState d := ringState_congr (Core.rget_congr same _)

theorem ringState_setFld_ne (c : Core) {b : Nat} (f : Fld) (v : Nat) (other : RING_STATUS ≠ b) : ringState (c.setFld b f v) = ringState c :=
  ringState_congr (Core.rget_setFld_ne _ _ _ other)

theorem ringState_pathUp (c : Core) (s i : Nat) : ringState (pathUp c s i) = ringState c :=
  ringState_congr (rget_pathUp_off (by decide) c s i)

theorem ringState_sendHello (c : Core) (n : Nat) : ringState (sendHello c n) = ringState c :=
  ringState_congr (rget_enqueueFrame_off (by decide) c n _)

/-! ### States of the ring (R510, R512) -/

theorem fld_driveBypass {c : Core} {g : Fld} (sound : g.lo ≤ g.hi)
    (apart : RING_STATUS_BYPASS.hi < g.lo ∨ g.hi < RING_STATUS_BYPASS.lo) :
    (driveBypass c).fld RING_STATUS g = c.fld RING_STATUS g :=
  Core.fld_setFld_other _ _ _ _ _ (by decide) (by decide) sound apart

theorem ringState_setRingState (c : Core) {s : Nat} (small : s < 4) : ringState (setRingState c s) = s := by
  rw [ringState, setRingState, fld_driveBypass (by decide) (by decide), Core.fld_setFld_self _ _ _ _ (by decide) (by decide)]
  exact Nat.mod_eq_of_lt small

theorem rget_setRingState_ne {a : Nat} (other : a ≠ RING_STATUS) (c : Core) (s : Nat) : (setRingState c s).rget a = c.rget a := by
  rw [setRingState, driveBypass, Core.rget_setFld_ne _ _ _ other, Core.rget_setFld_ne _ _ _ other]

theorem ringState_startJoin (c : Core) (atStart : Bool) : ringState (startJoin c atStart) = 1 := by
  unfold startJoin
  extract_lets d e
  have joining : ringState d = 1 := (ringState_setFld_ne _ _ _ (by decide)).trans (ringState_setRingState c (by decide))
  clear_value d
  refine (foldl_keeps ringState (fun c n => ?_) _ _).trans ((ringState_of_regs rfl).trans joining)
  split
  · exact ringState_sendHello c n
  · rfl

theorem ringState_startLeave {c : Core} (member : isMaster c = false) : ringState (startLeave c) = 3 := by
  have same : isMaster ((setRingState c 3).setFld RING_CTRL RING_CTRL_LEAVE 1) = false := by
    rw [isMaster, Core.flag, Core.fld_congr ((Core.rget_setFld_ne _ _ _ (by decide)).trans (rget_setRingState_ne (by decide) c 3))]
    exact member
  unfold startLeave
  dsimp only
  rw [if_neg (by rw [same]; exact Bool.false_ne_true)]
  exact (ringState_setFld_ne _ _ _ (by decide)).trans (ringState_setRingState c (by decide))

/-- The registers of a chip that is OUT, in the order in which they are written. -/
def outRegs (c : Core) : Core :=
  let c := setRingState c 0
  let c := (c.setFld RING_CTRL RING_CTRL_JOIN 0).setFld RING_CTRL RING_CTRL_LEAVE 0
  let c := (c.setFld TCK_STATUS TCK_STATUS_STATE 3).setFld TCK_STATUS TCK_STATUS_MASTER 1
  let c := (c.setFld TCK_STATUS TCK_STATUS_MASTER_ID c.chipId).setFld TCK_RING_MEMBERS TCK_RING_MEMBERS_F 1
  (c.setFld TCK_STATUS TCK_STATUS_HOLDOVER_TICKS 0).setFld RING_STATUS RING_STATUS_CHAIN 0

theorem ringOut_eq (c : Core) : ringOut c = onRingSt (outRegs c) (fun r =>
    { r with members := [], heard := [], requests := [], collectUntil := none }) := rfl

theorem ringState_outRegs (c : Core) : ringState (outRegs c) = 0 := by
  unfold outRegs
  extract_lets c1 c2 c3 c4
  rw [ringState, Core.fld_setFld_other _ _ _ _ _ (by decide) (by decide) (by decide) (by decide)]
  change ringState _ = 0
  have k1 : ringState c1 = 0 := ringState_setRingState c (by decide)
  clear_value c1
  have k2 : ringState c2 = 0 := ((ringState_setFld_ne _ _ _ (by decide)).trans (ringState_setFld_ne _ _ _ (by decide))).trans k1
  clear_value c2
  have k3 : ringState c3 = 0 := ((ringState_setFld_ne _ _ _ (by decide)).trans (ringState_setFld_ne _ _ _ (by decide))).trans k2
  clear_value c3
  have k4 : ringState c4 = 0 := ((ringState_setFld_ne _ _ _ (by decide)).trans (ringState_setFld_ne _ _ _ (by decide))).trans k3
  exact (ringState_setFld_ne _ _ _ (by decide)).trans k4

theorem isMaster_outRegs (c : Core) : isMaster (outRegs c) = true := by
  unfold outRegs
  extract_lets c1 c2 c3 c4
  have k3 : c3.fld TCK_STATUS TCK_STATUS_MASTER = 1 := Core.fld_setFld_self _ _ _ _ (by decide) (by decide)
  clear_value c3
  have k4 : c4.fld TCK_STATUS TCK_STATUS_MASTER = 1 :=
    (Core.fld_congr (Core.rget_setFld_ne _ _ _ (by decide)) _).trans
      ((Core.fld_setFld_other _ _ _ _ _ (by decide) (by decide) (by decide) (by decide)).trans k3)
  clear_value c4
  rw [isMaster, Core.flag, Core.fld_congr (Core.rget_setFld_ne _ _ _ (by decide)),
    Core.fld_setFld_other _ _ _ _ _ (by decide) (by decide) (by decide) (by decide), k4]
  rfl

theorem ringState_ringOut (c : Core) : ringState (ringOut c) = 0 := by
  rw [ringOut_eq, ringState, fld_onRingSt]
  exact ringState_outRegs c

theorem isMaster_ringOut (c : Core) : isMaster (ringOut c) = true := by
  rw [ringOut_eq, isMaster, Core.flag, fld_onRingSt]
  exact isMaster_outRegs c

theorem ringOut_members (c : Core) : (ringOut c).ring.members = [] := by rw [ringOut_eq]; rfl

/-! ### Routes (R517 to R519) -/

/-- A held message goes out in the direction that its destination has now. -/
def sendHeld (c : Core) (m : OutMsg) : Core :=
  match dirIn c.ring.members c.chipId (m.body.getD 1 0) with
  | some d =>
    let tag := m.body.getD 4 0
    let turn := fun (f : Fwd) => if f.tag = tag then { f with dir := d, sentTick := c.tick } else f
    let c := { c with ring := { c.ring with fwds := c.ring.fwds.map turn } }
    c.send { m with dst := .dir d, body := listMod m.body 3 (fun _ => d) }
  | none => c

theorem drainCheck_eq (c : Core) : drainCheck c =
    let done := c.ring.draining.filter (fun x => !c.ring.fwds.any (fun f => f.draining && f.dst == x.1))
    if done = [] then c
    else
      let mine := fun (m : OutMsg) => done.any (fun x => some x.1 == m.body[1]?)
      let go := c.ring.held.filter mine
      let c := { c with ring := { c.ring with draining := c.ring.draining.filter (fun x => !done.contains x),
                                              held := c.ring.held.filter (fun m => !mine m) } }
      go.foldl sendHeld c := rfl

theorem sendHeld_kept (c : Core) (m : OutMsg) :
    ((sendHeld c m).regs, (sendHeld c m).ring.members) = (c.regs, c.ring.members) := by
  unfold sendHeld
  split <;> rfl

/-- What drains leaves the registers and the members. -/
theorem drainCheck_kept (c : Core) : ((drainCheck c).regs, (drainCheck c).ring.members) = (c.regs, c.ring.members) := by
  rw [drainCheck_eq]
  extract_lets done mine go _ d
  split
  · rfl
  · exact foldl_keeps (fun c : Core => (c.regs, c.ring.members)) sendHeld_kept go d

theorem measureLinks_kept (c : Core) (old ms : List (Nat × Nat)) :
    ((measureLinks c old ms).regs, (measureLinks c old ms).ring.members) = (c.regs, c.ring.members) :=
  foldl_keeps (fun c : Core => (c.regs, c.ring.members)) (fun _ _ => by dsimp only; split <;> rfl) _ c

section
variable (c : Core) (v : Nat) (ms : List (Nat × Nat))

/-- The block with a new member list, before what it holds back for drained destinations goes out. -/
def routed : Core :=
  let old := c.ring.members
  let dests := distinctOf ((c.ring.fwds.map (·.dst)))
  let moved := dests.filterMap (fun x => match dirIn old c.chipId x, dirIn ms c.chipId x with
    | some d, some e => if d ≠ e && unbroken ms c.chipId x d then some (x, d) else none
    | _, _ => none)
  let fwds := c.ring.fwds.map (fun f => if moved.any (fun x => x.1 == f.dst && x.2 == f.dir) then { f with draining := true } else f)
  let drain := (c.ring.draining.filter (fun x => !moved.any (fun y => y.1 == x.1))) ++ moved
  measureLinks { c with ring := { c.ring with members := ms, fwds := fwds, draining := drain } } old ms

/-- The registers that show a member list. -/
def showRoutes (d : Core) : Core :=
  let c := d.setFld RING_ROUTE RING_ROUTE_VERSION (v % 2 ^ 32)
  let c := c.setFld RING_STATUS RING_STATUS_CHAIN (b2n (ms.any (fun m => m.2 != 0)))
  let c := c.setFld TCK_RING_MEMBERS TCK_RING_MEMBERS_F (max 1 ms.length)
  c.count RING_TOPOLOGY_CHANGES

theorem applyRoutes_eq : applyRoutes c v ms = drainCheck (showRoutes v ms (routed c ms)) := rfl

theorem routed_members : (routed c ms).ring.members = ms := congrArg Prod.snd (measureLinks_kept _ _ _)

theorem showRoutes_members : (showRoutes v ms c).ring = c.ring := by
  unfold showRoutes
  dsimp only
  rw [Core.count_ring, Core.setFld_ring, Core.setFld_ring, Core.setFld_ring]

theorem applyRoutes_members : (applyRoutes c v ms).ring.members = ms := by
  rw [applyRoutes_eq]
  refine (congrArg Prod.snd (drainCheck_kept _)).trans ?_
  dsimp only
  rw [showRoutes_members, routed_members]

theorem rget_applyRoutes (a : Nat) : (applyRoutes c v ms).rget a = (showRoutes v ms (routed c ms)).rget a :=
  Core.rget_congr (congrArg Prod.fst (drainCheck_kept _)) a

theorem applyRoutes_version : (applyRoutes c v ms).fld RING_ROUTE RING_ROUTE_VERSION = v % 2 ^ 32 := by
  rw [Core.fld_congr (rget_applyRoutes c v ms _)]
  unfold showRoutes
  dsimp only
  rw [Core.fld_count_ne _ _ _ (by decide), Core.fld_congr (Core.rget_setFld_ne _ _ _ (by decide)),
    Core.fld_congr (Core.rget_setFld_ne _ _ _ (by decide)), Core.fld_setFld_self _ _ _ _ (by decide) (by decide)]
  exact Nat.mod_mod _ _

theorem applyRoutes_chain : (applyRoutes c v ms).flag RING_STATUS RING_STATUS_CHAIN = ms.any (fun m => m.2 != 0) := by
  rw [Core.flag, Core.fld_congr (rget_applyRoutes c v ms _)]
  unfold showRoutes
  dsimp only
  rw [Core.fld_count_ne _ _ _ (by decide), Core.fld_congr (Core.rget_setFld_ne _ _ _ (by decide)),
    Core.fld_setFld_self _ _ _ _ (by decide) (by decide)]
  cases ms.any (fun m => m.2 != 0) <;> rfl

end

/-! ### Order of admission (R514) -/

theorem insertChip_perm (x : Nat × Nat) (l : List (Nat × Nat)) : (insertChip x l).Perm (x :: l) := by
  induction l with
  | nil => exact List.Perm.refl _
  | cons h t ih =>
    unfold insertChip
    split
    · exact List.Perm.refl _
    · exact (ih.cons h).trans (List.Perm.swap x h t)

theorem insertChip_sorted {x : Nat × Nat} {l : List (Nat × Nat)} (sorted : l.Pairwise (fun a b => a.1 ≤ b.1)) :
    (insertChip x l).Pairwise (fun a b => a.1 ≤ b.1) := by
  induction l with
  | nil => exact List.pairwise_singleton _ _
  | cons h t ih =>
    obtain ⟨least, rest⟩ := List.pairwise_cons.mp sorted
    unfold insertChip
    split
    · next le =>
      refine List.pairwise_cons.mpr ⟨fun y inside => ?_, sorted⟩
      rcases List.mem_cons.mp inside with rfl | later
      · exact le
      · exact Nat.le_trans le (least y later)
    · next gt =>
      refine List.pairwise_cons.mpr ⟨fun y inside => ?_, ih rest⟩
      rcases List.mem_cons.mp ((insertChip_perm x t).subset inside) with rfl | later
      · exact Nat.le_of_not_le gt
      · exact least y later

theorem insertChips_perm (l : List (Nat × Nat)) : (l.foldr insertChip []).Perm l := by
  induction l with
  | nil => exact List.Perm.refl _
  | cons h t ih => exact (insertChip_perm h _).trans (ih.cons h)

theorem insertChips_sorted (l : List (Nat × Nat)) : (l.foldr insertChip []).Pairwise (fun a b => a.1 ≤ b.1) := by
  induction l with
  | nil => exact List.Pairwise.nil
  | cons h t ih => exact insertChip_sorted ih

end Sys2Proof.Machine

/-! Membership of the ring: what a neighbour's greeting, joining, leaving, admission, routes and their draining come to, and the
statement about them (R509 to R519, Tables 14-1 and 14-2). -/

namespace Sys2Proof.Machine
open Sys2Proof

/-! ### A neighbour's greeting (R509, R511) -/

section
variable (p : Pkt) (chip : Nat) (c : Core)

/-- What a greeting makes of the ring session of its port. -/
def helloSession : Core :=
  let s := ringSess p.port
  let open_ := (sess? c s).any (fun x => sessLive x && x.remote == chipEp chip)
  if open_ then
    match sess? c s with
    | some x => if x.st = .hold then pathUp c s 0 else c
    | none => c
  else if (slotOwner c 4095).isNone then c
  else
    let (c, a) := c.draw
    let (c, b) := c.draw
    let (c, e) := c.draw
    let path : Path := { port := p.port, sub := 0, mac := 0, vlan := 0, ip := 0, udp := 0, up := true, timeouts := 0 }
    openSession c s (chipEp chip) ((Config.freeWord e).toNat % 65536) 4095 [path] ((Config.freeWord a).toNat % 2 ^ 32)
      ((Config.freeWord b).toNat % 2 ^ 32) [(8192, 340), (8192, 340), (1024, 340)] 18428

/-- A chip that is JOINING asks once the session is open. -/
def helloAsk : Core := if ringState c = 1 && (sess? c (ringSess p.port)).any sessLive then askJoin c else c

/-- A greeting that names another chip. -/
def helloTaken : Core :=
  if (amGet? c.ring.hello (sidePort p.port)).any (· != chip) then
    let c := heardHello c p.port chip
    raise (if (sess? c (ringSess p.port)).isSome then flushSession c (ringSess p.port) .closed else c) .ringCableMismatch 5 p.port
  else helloAsk p (helloSession p chip (noteNeighbour c p.port chip))

end

section
variable {s : State} {p : Pkt} {c : Core} (heard : HelloHeard s p c)
include heard

theorem ringHello_of_heard (chip : Nat) :
    ringHello p chip s.core = if chip = c.chipId then c else helloTaken p chip c := by
  have on : powered (s.core.at p.time) = true := heard.powered
  have link : linkUp (s.core.at p.time) p.port 0 = true := heard.link
  unfold ringHello
  simp only [on, link, heard.ring, heard.crc, heard.frame, Bool.not_true, Bool.or_self, Bool.false_eq_true, if_false]
  unfold helloTaken noteNeighbour
  by_cases west : p.port < 14
  · simp only [west, if_true]; rfl
  · simp only [west, if_false]; rfl

theorem doesTo_ringHello {chip : Nat} {d : Core} (other : chip ≠ c.chipId) (taken : helloTaken p chip c = d) :
    doesTo (.ringHello p chip) s d :=
  doesTo_of_core rfl ((ringHello_of_heard heard chip).trans ((if_neg other).trans taken))

theorem doesTo_ringHello_loopback : doesTo (.ringHello p c.chipId) s c :=
  doesTo_of_core rfl ((ringHello_of_heard heard c.chipId).trans (if_pos rfl))

end

section
variable {p : Pkt} {c : Core} {chip : Nat}

/-- What noting a neighbour leaves. -/
theorem noteNeighbour_net (c : Core) (port chip : Nat) : (noteNeighbour c port chip).net = c.net := by
  unfold noteNeighbour; split <;> rw [Core.setFld_net, Core.setFld_net, heardHello]

theorem noteNeighbour_sec (c : Core) (port chip : Nat) : (noteNeighbour c port chip).sec = c.sec := by
  unfold noteNeighbour; split <;> rw [Core.setFld_sec, Core.setFld_sec, heardHello]

theorem ringState_noteNeighbour (c : Core) (port chip : Nat) : ringState (noteNeighbour c port chip) = ringState c := by
  unfold noteNeighbour
  split <;> rw [ringState_setFld_ne _ _ _ (by decide), ringState_setFld_ne _ _ _ (by decide)] <;> exact ringState_of_regs rfl

theorem sess?_noteNeighbour (c : Core) (port chip n : Nat) : sess? (noteNeighbour c port chip) n = sess? c n :=
  sess?_congr (congrArg NetSt.sessions (noteNeighbour_net c port chip)) n

theorem slotOwner_noteNeighbour (c : Core) (port chip n : Nat) : slotOwner (noteNeighbour c port chip) n = slotOwner c n := by
  rw [slotOwner, noteNeighbour_sec, slotOwner]

theorem helloTaken_of_mismatch {other : Nat} (named : amGet? c.ring.hello (sidePort p.port) = some other) (differs : other ≠ chip) :
    helloTaken p chip c = raise (if (sess? (heardHello c p.port chip) (ringSess p.port)).isSome then
      flushSession (heardHello c p.port chip) (ringSess p.port) .closed else heardHello c p.port chip) .ringCableMismatch 5 p.port := by
  unfold helloTaken
  exact if_pos (by rw [named]; exact bne_iff_ne.mpr differs)

theorem sess?_heardHello (c : Core) (port chip n : Nat) : sess? (heardHello c port chip) n = sess? c n := rfl

theorem helloTaken_of_closed {other : Nat} (named : amGet? c.ring.hello (sidePort p.port) = some other) (differs : other ≠ chip)
    (unopened : sess? c (ringSess p.port) = none) :
    helloTaken p chip c = raise (heardHello c p.port chip) .ringCableMismatch 5 p.port := by
  rw [helloTaken_of_mismatch named differs, sess?_heardHello, unopened]; rfl

theorem helloTaken_of_session {other : Nat} {x : Session} (named : amGet? c.ring.hello (sidePort p.port) = some other)
    (differs : other ≠ chip) (there : sess? c (ringSess p.port) = some x) : helloTaken p chip c =
      raise (flushSession (heardHello c p.port chip) (ringSess p.port) .closed) .ringCableMismatch 5 p.port := by
  rw [helloTaken_of_mismatch named differs, sess?_heardHello, there]; rfl

section
variable (agrees : ∀ other, amGet? c.ring.hello (sidePort p.port) = some other → other = chip)
include agrees

theorem helloTaken_of_agreed : helloTaken p chip c = helloAsk p (helloSession p chip (noteNeighbour c p.port chip)) := by
  unfold helloTaken
  refine if_neg ?_
  cases named : amGet? c.ring.hello (sidePort p.port) with
  | none => exact Bool.false_ne_true
  | some other =>
    rw [agrees other named]
    simp only [Option.any_some, bne_self_eq_false, Bool.false_eq_true, not_false_eq_true]

/-- Without the ring's key no session opens. -/
theorem helloTaken_of_keyless (unopened : sess? c (ringSess p.port) = none) (keyless : slotOwner c 4095 = none) :
    helloTaken p chip c = noteNeighbour c p.port chip := by
  rw [helloTaken_of_agreed agrees]
  simp only [helloSession, helloAsk, sess?_noteNeighbour, slotOwner_noteNeighbour, unopened, keyless, Option.any_none, Option.isNone_none,
    Bool.false_eq_true, if_false, if_true, Bool.and_false]

theorem helloTaken_of_keyed {o : Nat} (unopened : sess? c (ringSess p.port) = none) (keyed : slotOwner c 4095 = some o)
    (settled : ringState c ≠ 1) : ∃ e a b c1,
      helloTaken p chip c = openSession c1 (ringSess p.port) (chipEp chip) e 4095
        [⟨p.port, 0, 0, 0, 0, 0, true, 0⟩] a b [(8192, 340), (8192, 340), (1024, 340)] 18428 ∧
      e < 65536 ∧ a < 2 ^ 32 ∧ b < 2 ^ 32 ∧ c1.ring = (noteNeighbour c p.port chip).ring ∧ c1.net = (noteNeighbour c p.port chip).net := by
  have opens (a b e : Nat) (c1 : Core) (drawn : c1 = (noteNeighbour c p.port chip).draw.1.draw.1.draw.1) : helloAsk p
      (openSession c1 (ringSess p.port) (chipEp chip) e 4095 [⟨p.port, 0, 0, 0, 0, 0, true, 0⟩] a b
        [(8192, 340), (8192, 340), (1024, 340)] 18428) =
      openSession c1 (ringSess p.port) (chipEp chip) e 4095 [⟨p.port, 0, 0, 0, 0, 0, true, 0⟩] a b
        [(8192, 340), (8192, 340), (1024, 340)] 18428 := by
    have free : sess? c1 (ringSess p.port) = none := by
      rw [← unopened, ← sess?_noteNeighbour c p.port chip]
      exact sess?_congr (by rw [drawn, Core.draw_net, Core.draw_net, Core.draw_net]) _
    have kept : ringState c1 = ringState c := by
      rw [← ringState_noteNeighbour c p.port chip]
      exact ringState_of_regs (by rw [drawn, Core.draw_regs, Core.draw_regs, Core.draw_regs])
    rw [openSession_of_new free, helloAsk]
    refine if_neg ?_
    rw [show ringState (setSess { c1 with net := { c1.net with epochs := amSet c1.net.epochs (ringSess p.port) e } } (ringSess p.port)
      (freshSession (chipEp chip) e 4095 [⟨p.port, 0, 0, 0, 0, 0, true, 0⟩] a b [(8192, 340), (8192, 340), (1024, 340)] 18428)) =
        ringState c1 from ringState_of_regs rfl, kept, decide_eq_false settled]
    exact Bool.false_ne_true
  refine ⟨(Config.freeWord (noteNeighbour c p.port chip).draw.1.draw.1.draw.2).toNat % 65536,
    (Config.freeWord (noteNeighbour c p.port chip).draw.2).toNat % 2 ^ 32,
    (Config.freeWord (noteNeighbour c p.port chip).draw.1.draw.2).toNat % 2 ^ 32,
    (noteNeighbour c p.port chip).draw.1.draw.1.draw.1, ?_, Nat.mod_lt _ (by decide), Nat.mod_lt _ (by decide),
    Nat.mod_lt _ (by decide), by rw [Core.draw_ring, Core.draw_ring, Core.draw_ring],
    by rw [Core.draw_net, Core.draw_net, Core.draw_net]⟩
  rw [helloTaken_of_agreed agrees]
  refine Eq.trans (congrArg (helloAsk p) ?_) (opens _ _ _ _ rfl)
  simp only [helloSession, sess?_noteNeighbour, slotOwner_noteNeighbour, unopened, keyed, Option.any_none, Option.isNone_some,
    Bool.false_eq_true, if_false]

variable {x : Session} (there : sess? c (ringSess p.port) = some x) (same : x.remote = chipEp chip)
include there same

theorem helloTaken_of_hold (holds : x.st = .hold) (settled : ringState c ≠ 1) :
    helloTaken p chip c = pathUp (noteNeighbour c p.port chip) (ringSess p.port) 0 := by
  have opens : helloSession p chip (noteNeighbour c p.port chip) = pathUp (noteNeighbour c p.port chip) (ringSess p.port) 0 := by
    simp only [helloSession, sess?_noteNeighbour, there, Option.any_some, sessLive, holds, same, beq_self_eq_true, Bool.or_true,
      Bool.and_true, if_true]
  rw [helloTaken_of_agreed agrees, opens, helloAsk]
  refine if_neg ?_
  rw [ringState_pathUp, ringState_noteNeighbour, decide_eq_false settled]
  exact Bool.false_ne_true

theorem helloTaken_of_opened (opened : x.st = .opened) : helloTaken p chip c =
    if ringState c = 1 then askJoin (noteNeighbour c p.port chip) else noteNeighbour c p.port chip := by
  have opens : helloSession p chip (noteNeighbour c p.port chip) = noteNeighbour c p.port chip := by
    simp only [helloSession, sess?_noteNeighbour, there, Option.any_some, sessLive, opened, same, beq_self_eq_true, Bool.true_or,
      Bool.and_true, if_true, reduceCtorEq, if_false]
  rw [helloTaken_of_agreed agrees, opens, helloAsk]
  simp only [ringState_noteNeighbour, sess?_noteNeighbour, there, Option.any_some, sessLive, opened, beq_self_eq_true, Bool.true_or,
    Bool.and_true, decide_eq_true_eq]

end

end

/-! ### Joining and leaving (R512) -/

section
variable {m : M}

theorem ringJoin_accepted (may : mayJoin m.core = true) : ringJoin m.core.chipId m = accept (m.on (fun c => startJoin c false)) := by
  unfold ringJoin
  exact checked_pass (List.forall_mem_cons.mpr ⟨beq_self_eq_true _, List.forall_mem_cons.mpr ⟨may, List.forall_mem_nil _⟩⟩)

theorem ringJoin_of_not (may : mayJoin m.core = false) : ringJoin m.core.chipId m = refuse m .badState := by
  unfold ringJoin
  rw [may]
  exact checked_fail (l := [(m.core.chipId == m.core.chipId, .badField)])
    (List.forall_mem_cons.mpr ⟨beq_self_eq_true _, List.forall_mem_nil _⟩)

theorem ringJoin_of_other {chip : Nat} (other : chip ≠ m.core.chipId) : ringJoin chip m = refuse m .badField := by
  unfold ringJoin
  rw [beq_eq_false_iff_ne.mpr other]
  exact checked_fail (l := []) (List.forall_mem_nil _)

theorem ringLeave_accepted (member : ringState m.core = 2) : ringLeave m.core.chipId m = accept (m.on startLeave) := by
  unfold ringLeave
  exact checked_pass (List.forall_mem_cons.mpr ⟨beq_self_eq_true _, List.forall_mem_cons.mpr ⟨beq_iff_eq.mpr member,
    List.forall_mem_nil _⟩⟩)

theorem ringLeave_of_not (member : ringState m.core ≠ 2) : ringLeave m.core.chipId m = refuse m .badState := by
  unfold ringLeave
  rw [beq_eq_false_iff_ne.mpr member]
  exact checked_fail (l := [(m.core.chipId == m.core.chipId, .badField)])
    (List.forall_mem_cons.mpr ⟨beq_self_eq_true _, List.forall_mem_nil _⟩)

/-! ### RING_PREPARE at the master (R515) -/

variable {src : Src} {chip west east : Nat} (manager : srcFm src = true)
include manager

theorem ringPrepare_of_not (not : masters m.core = false ∨ m.core.ring.prepare.isSome = true) :
    ringPrepare chip west east src m = now (refuse m .badState) := by
  unfold ringPrepare
  dsimp only
  refine (if_neg (by rw [manager]; exact Bool.false_ne_true)).trans (if_pos ?_)
  rcases not with follows | prepares
  · rw [← Bool.not_and, show (isMaster m.core && onRing m.core) = false from follows]; rfl
  · rw [prepares, Bool.or_true]

variable (leads : masters m.core = true) (idle : m.core.ring.prepare = none)
include leads idle

theorem ringPrepare_of_master : ringPrepare chip west east src m =
    if admitRefusal m.core chip ≠ 0 then
      (m.on (fun c => logRefusal c chip (admitRefusal m.core chip)),
        some (if admitRefusal m.core chip = 1 then MgmtCode.conflict else .noResource, []))
    else if 4096 ≤ chip || !(match memberIdx m.core west, memberIdx m.core east with
      | some i, some j => (i + 1) % m.core.ring.members.length == j
      | _, _ => false) then now (refuse m .badField)
    else (m.on (fun c => onRingSt (issueRoute c (markLink c.ring.members west 1)) (fun r =>
      { r with prepare := some (chip, west, east, (issueRoute c (markLink c.ring.members west 1)).fld RING_ROUTE RING_ROUTE_VERSION),
               preparer := some src })), none) := by
  obtain ⟨master, on⟩ := Bool.and_eq_true_iff.mp (show (isMaster m.core && onRing m.core) = true from leads)
  unfold ringPrepare
  dsimp only
  refine (if_neg (by rw [manager]; exact Bool.false_ne_true)).trans ((if_neg ?_).trans ?_)
  · rw [master, on, idle]; exact Bool.false_ne_true
  · rfl

theorem ringPrepare_of_refused {k : Nat} (refused : admitRefusal m.core chip = k) (some' : k ≠ 0) :
    ringPrepare chip west east src m =
      (m.on (fun c => logRefusal c chip k), some (if k = 1 then MgmtCode.conflict else .noResource, [])) := by
  rw [ringPrepare_of_master manager leads idle, refused]
  exact if_pos some'

variable (admits : admitRefusal m.core chip = 0)
include admits

theorem ringPrepare_of_stranger (stranger : memberIdx m.core west = none ∨ memberIdx m.core east = none) :
    ringPrepare chip west east src m = now (refuse m .badField) := by
  rw [ringPrepare_of_master manager leads idle]
  refine (if_neg (not_not_intro admits)).trans (if_pos ?_)
  rcases stranger with no | no
  · rw [no]; exact Bool.or_true _
  · rw [no]; cases memberIdx m.core west <;> exact Bool.or_true _

theorem ringPrepare_of_adjacent {i j : Nat} (small : chip < 4096) (atWest : memberIdx m.core west = some i)
    (atEast : memberIdx m.core east = some j) (adjacent : (i + 1) % m.core.ring.members.length = j) {c : Core}
    (issued : c = issueRoute m.core (markLink m.core.ring.members west 1)) : ringPrepare chip west east src m =
      (m.on (fun _ => onRingSt c (fun r =>
        { r with prepare := some (chip, west, east, c.fld RING_ROUTE RING_ROUTE_VERSION), preparer := some src })), none) := by
  rw [ringPrepare_of_master manager leads idle]
  refine (if_neg (not_not_intro admits)).trans ((if_neg ?_).trans ?_)
  · simp only [atWest, atEast, adjacent, decide_eq_false (Nat.not_le.mpr small), beq_self_eq_true, Bool.not_true, Bool.or_self,
      Bool.false_eq_true, not_false_eq_true]
  · subst issued
    exact congrArg (fun m : M => (m, (none : Option (MgmtCode × List Nat)))) (M.on_const rfl)

end

/-! ### Messages of the ring (R511, R513, R517) -/

/-- A message that does not land does nothing more. -/
theorem ringCmd_of_lost {cmd : Pkt → Instr} {type : Nat} {body : List Nat} (one : RingCmd cmd type body) {s : State} {p : Pkt} {c : Core}
    (serves : inService s.core = true) (lost : ringRx s.core p = (c, none)) : doesTo (cmd p) s c := by
  rcases one with ⟨chip, pri, rfl, -⟩ | ⟨m, rfl, -⟩ | ⟨r, m, rfl, -⟩ | ⟨v, ms, rfl, -⟩ | ⟨chip, v, rfl, -⟩
  · exact does_of_servedCore rfl serves (by simp only [joinRequest, lost])
  · exact does_of_servedCore rfl serves (by simp only [joinAccept, lost])
  · exact does_of_servedCore rfl serves (by simp only [joinRefused, lost])
  · exact does_of_servedCore rfl serves (by simp only [routeUpdate, lost])
  · exact does_of_servedCore rfl serves (by simp only [ringDrained, lost])

section
variable {c h : Core} {p : Pkt} {d : Nat} (lands : ringRx h p = (c, some d))
include lands

theorem joinRequest_of_follower (follows : masters c = false) (chip pri : Nat) : joinRequest p chip pri h =
    passOn c d 0x76 [chip, pri] := by
  simp only [joinRequest, lands, show (isMaster c && onRing c) = false from follows, Bool.not_false, if_true]

theorem joinAccept_of_settled (settled : ringState c ≠ 1) (m : Nat) : joinAccept p m h = passOn c d 0x77 [0, 0, m] := by
  simp only [joinAccept, lands, settled, ne_eq, not_false_eq_true, if_true]

theorem joinRefused_of_settled (settled : ringState c ≠ 1) (r m : Nat) : joinRefused p r m h = passOn c d 0x77 [1, r, m] := by
  simp only [joinRefused, lands, settled, ne_eq, not_false_eq_true, if_true]

theorem ringDrained_of_follower (follows : masters c = false) (chip v : Nat) : ringDrained p chip v h = passOn c d 0x79 [chip, v] := by
  simp only [ringDrained, lands, show (isMaster c && onRing c) = false from follows, Bool.false_eq_true, if_false]

theorem joinRefused_of_joining (joins : ringState c = 1) (r m : Nat) :
    joinRefused p r m h = raise (ringOut c) .ringJoinRefused 0 0 r := by
  simp only [joinRefused, lands, joins, ne_eq, not_true_eq_false, if_false]

theorem routeUpdate_of_follower (follows : masters c = false) (v : Nat) (ms : List (Nat × Nat)) :
    routeUpdate p v ms h =
      if serialNewer v ((passOn c d 0x78 (routeBody v ms)).fld RING_ROUTE RING_ROUTE_VERSION) then
        applyRoutes (passOn c d 0x78 (routeBody v ms)) v ms
      else passOn c d 0x78 (routeBody v ms) := by
  simp only [routeUpdate, lands, show (isMaster c && onRing c) = false from follows, Bool.false_eq_true, if_false]

/-- A chip that its master accepts: a MEMBER locked to the master's TICK. -/
def joined (c : Core) (m : Nat) : Core :=
  let c := (setRingState c 2).setFld RING_CTRL RING_CTRL_JOIN 0
  let c := ((c.setFld TCK_STATUS TCK_STATUS_STATE 0).setFld TCK_STATUS TCK_STATUS_MASTER 0).setFld TCK_ALIGN TCK_ALIGN_OFFSET 0
  c.setFld TCK_STATUS TCK_STATUS_MASTER_ID m

theorem joinAccept_of_joining (joins : ringState c = 1) (m : Nat) : joinAccept p m h = joined c m := by
  simp only [joinAccept, lands, joins, ne_eq, not_true_eq_false, if_false]
  rfl

section
variable (leads : masters c = true)
include leads

theorem ringDrained_of_master (chip v : Nat) : ringDrained p chip v h = noteDrained c chip v := by
  simp only [ringDrained, lands, show (isMaster c && onRing c) = true from leads, if_true]

theorem routeUpdate_of_master (v : Nat) (ms : List (Nat × Nat)) : routeUpdate p v ms h = c := by
  simp only [routeUpdate, lands, show (isMaster c && onRing c) = true from leads, if_true]

theorem joinRequest_of_collecting {t chip : Nat} (collects : c.ring.collectUntil = some t) (fresh : ∀ r ∈ c.ring.requests, r.1 ≠ chip)
    (pri : Nat) : joinRequest p chip pri h = onRingSt c (fun r => { r with requests := r.requests ++ [(chip, 1 - d)] }) := by
  have unasked : c.ring.requests.any (fun r => r.1 == chip) = false :=
    List.any_eq_false.mpr (fun r inside => by rw [beq_iff_eq]; exact fresh r inside)
  have since : c.ring.collectUntil.isSome = true := by rw [collects]; rfl
  simp only [joinRequest, lands, show (isMaster c && onRing c) = true from leads, since, unasked, Bool.not_true, Bool.false_eq_true,
    if_false, if_true]
  rfl

theorem joinRequest_of_deciding (decides : c.ring.collectUntil = none) (chip pri : Nat) : joinRequest p chip pri h =
    if admitRefusal c chip = 0 then admitChip c chip (1 - d)
    else joinAnswer (logRefusal c chip (admitRefusal c chip)) (1 - d) (admitRefusal c chip) := by
  simp only [joinRequest, lands, show (isMaster c && onRing c) = true from leads, decides, Bool.not_true, Bool.false_eq_true,
    Option.isSome_none, if_false]

end

end

theorem ringState_joined (c : Core) (m : Nat) : ringState (joined c m) = 2 := by
  unfold joined
  dsimp only
  rw [ringState_setFld_ne _ _ _ (by decide), ringState_setFld_ne _ _ _ (by decide), ringState_setFld_ne _ _ _ (by decide),
    ringState_setFld_ne _ _ _ (by decide), ringState_setFld_ne _ _ _ (by decide)]
  exact ringState_setRingState c (by decide)

theorem tick_joined (c : Core) (m : Nat) : (joined c m).flag TCK_STATUS TCK_STATUS_MASTER = false ∧
    (joined c m).fld TCK_STATUS TCK_STATUS_STATE = 0 ∧ (joined c m).fld TCK_STATUS TCK_STATUS_MASTER_ID = m % 4096 := by
  unfold joined
  extract_lets c1 c2
  have other : TCK_STATUS ≠ TCK_ALIGN := by decide
  refine ⟨?_, ?_, Core.fld_setFld_self _ _ _ _ (by decide) (by decide)⟩
  · rw [Core.flag, Core.fld_setFld_other _ _ _ _ _ (by decide) (by decide) (by decide) (by decide),
      Core.fld_congr (Core.rget_setFld_ne _ _ _ other), Core.fld_setFld_self _ _ _ _ (by decide) (by decide)]
    rfl
  · rw [Core.fld_setFld_other _ _ _ _ _ (by decide) (by decide) (by decide) (by decide),
      Core.fld_congr (Core.rget_setFld_ne _ _ _ other),
      Core.fld_setFld_other _ _ _ _ _ (by decide) (by decide) (by decide) (by decide),
      Core.fld_setFld_self _ _ _ _ (by decide) (by decide)]
    rfl

/-! ### Timers of the ring (R514, R516, R518) -/

section
variable {h : Core} {time : Nat}

theorem joinTimeout_of_alone {c : Core} (clock : c = h.at time) (joins : ringState c = 1) (alone : ∀ n ∈ c.ring.hello, n.2 = c.chipId)
    (late : c.ring.joinSince + 100000000 ≤ c.glb.now) : joinTimeout time h = raise (ringOut c) .ringJoinFailed 0 0 := by
  subst clock
  unfold joinTimeout
  refine if_pos ?_
  rw [decide_eq_true joins, decide_eq_true late, Bool.true_and, Bool.and_true]
  exact List.all_eq_true.mpr (fun n inside => beq_iff_eq.mpr (alone n inside))

theorem joinTimeout_of_not {c : Core} (clock : c = h.at time)
    (not : ringState c ≠ 1 ∨ (∃ n ∈ c.ring.hello, n.2 ≠ c.chipId) ∨ c.glb.now < c.ring.joinSince + 100000000) :
    joinTimeout time h = c := by
  subst clock
  unfold joinTimeout
  refine if_neg ?_
  simp only [Bool.and_eq_true, decide_eq_true_eq, List.all_eq_true, beq_iff_eq]
  rintro ⟨⟨joins, alone⟩, late⟩
  rcases not with no | ⟨n, inside, other⟩ | no
  · exact no joins
  · exact other (alone n inside)
  · exact absurd late (Nat.not_le.mpr no)

end

section
variable {c : Core}

theorem ringAdmission_of_not {t : Nat} (collects : c.ring.collectUntil = some t) (not : c.tick < t ∨ isMaster c = false) :
    ringAdmission c = c := by
  simp only [ringAdmission, collects]
  refine if_pos ?_
  rcases not with early | follows
  · rw [decide_eq_true early]; rfl
  · rw [follows]; exact Bool.or_true _

theorem ringAdmission_of_due {t : Nat} (collects : c.ring.collectUntil = some t) (due : t ≤ c.tick) (leads : isMaster c = true) :
    ringAdmission c = (c.ring.requests.foldr insertChip []).foldl admitOne
      (onRingSt c (fun r => { r with requests := [], collectUntil := none })) := by
  simp only [ringAdmission, collects]
  exact if_neg (by rw [decide_eq_false (Nat.not_lt.mpr due), leads]; exact Bool.false_ne_true)

/-- What a chip on the ring reports once its routes have drained. -/
def drainReport (c : Core) (v : Nat) : Core :=
  let c := onRingSt c (fun r => { r with drainedSent := v })
  if isMaster c then noteDrained c c.chipId v
  else match dirIn c.ring.members c.chipId (c.fld TCK_STATUS TCK_STATUS_MASTER_ID) with
    | some d => ringSend c d 0x79 [c.chipId, v]
    | none => ringSend c 0 0x79 [c.chipId, v]

theorem routeDrained_of_not (not : c.ring.draining ≠ [] ∨ onRing c = false) : routeDrained c = c := by
  unfold routeDrained
  refine if_pos ?_
  rcases not with drains | off
  · rw [decide_eq_true drains]; rfl
  · rw [off]; exact Bool.or_true _

variable (drained : c.ring.draining = []) (on : onRing c = true)
include drained on

theorem routeDrained_of_drained {v : Nat} (version : v = c.fld RING_ROUTE RING_ROUTE_VERSION) : routeDrained c =
    if leftRing (if c.ring.drainedSent == v then c else drainReport c v) then
      ringOut (if c.ring.drainedSent == v then c else drainReport c v)
    else if c.ring.drainedSent == v then c else drainReport c v := by
  subst version
  unfold routeDrained
  refine (if_neg ?_).trans rfl
  rw [decide_eq_false (not_not_intro drained), on]
  exact Bool.false_ne_true

theorem routeDrained_of_reported (sent : c.ring.drainedSent = c.fld RING_ROUTE RING_ROUTE_VERSION) :
    routeDrained c = if leftRing c then ringOut c else c := by
  have same : (c.ring.drainedSent == c.fld RING_ROUTE RING_ROUTE_VERSION) = true := beq_iff_eq.mpr sent
  simp only [routeDrained_of_drained drained on rfl, same, if_true]

theorem routeDrained_of_news {v : Nat} (version : v = c.fld RING_ROUTE RING_ROUTE_VERSION) (unsent : c.ring.drainedSent ≠ v) {d : Core}
    (reported : drainReport c v = d) : routeDrained c = if leftRing d then ringOut d else d := by
  simp only [routeDrained_of_drained drained on version, beq_eq_false_iff_ne.mpr unsent, reported, Bool.false_eq_true, if_false]

end

section
variable {c : Core} {v : Nat}

theorem drainReport_of_master (leads : isMaster c = true) :
    drainReport c v = noteDrained (onRingSt c (fun r => { r with drainedSent := v })) c.chipId v := by
  unfold drainReport
  exact if_pos leads

theorem drainReport_of_member (follows : isMaster c = false) :
    ∃ k, drainReport c v = ringSend (onRingSt c (fun r => { r with drainedSent := v })) k 0x79 [c.chipId, v] := by
  unfold drainReport
  have follows' : isMaster (onRingSt c (fun r => { r with drainedSent := v })) = false := follows
  simp only [follows', Bool.false_eq_true, if_false]
  split
  · exact ⟨_, rfl⟩
  · exact ⟨0, rfl⟩

theorem memberLost_of_absent {chip i : Nat} {x : Heard} (heard : amGet? c.ring.heard chip = some x) (leads : masters c = true)
    (gone : 3 ≤ x.absent) (member : memberIdx c chip = some i) {e : Core} (logged : e = raise c .ringMemberLost 0 0 chip) :
    memberLost chip c =
      issueRoute (onRingSt e (fun r => { r with heard := amDel r.heard chip })) (withoutMember e.ring.members chip) := by
  obtain ⟨master, on⟩ := Bool.and_eq_true_iff.mp (show (isMaster c && onRing c) = true from leads)
  subst logged
  simp only [memberLost, heard]
  refine (if_neg ?_).trans rfl
  rw [master, on, member, decide_eq_false (Nat.not_lt.mpr gone)]
  exact Bool.false_ne_true

end

/-- Settles O53: the greeting of a neighbour by what is known of its side and its session, requests by their conditions, messages by
the sender that they reach, and routes by the registers that show them. -/
theorem ringMembership : Obligations.RingMembership := by
  unfold Obligations.RingMembership
  refine ⟨?hello, ?join, ?leave, ?states, ?prepare, ?lost, ?passed, ?landed, ?routes, ?out, ?timeout, ?admission, ?order, ?drained, ?member⟩
  case hello =>
    rintro s p c heard
    refine ⟨doesTo_ringHello_loopback heard, fun chip other => ⟨?_, ?_, fun agrees => ⟨?_, ?_, ?_, ?_⟩⟩⟩
    · exact fun x named differs unopened => doesTo_ringHello heard other (helloTaken_of_closed named differs unopened)
    · exact fun x y named differs there => doesTo_ringHello heard other (helloTaken_of_session named differs there)
    · exact fun unopened keyless => doesTo_ringHello heard other (helloTaken_of_keyless agrees unopened keyless)
    · intro o unopened keyed settled
      obtain ⟨e, a, b, c1, opens, bounds⟩ := helloTaken_of_keyed agrees unopened keyed settled
      exact ⟨e, a, b, c1, doesTo_ringHello heard other opens, bounds⟩
    · exact fun x there holds same settled => doesTo_ringHello heard other (helloTaken_of_hold agrees there same holds settled)
    · intro x there opened same
      have taken := helloTaken_of_opened (p := p) agrees there same opened
      exact ⟨fun settled => doesTo_ringHello heard other (taken.trans (if_neg settled)),
        fun joins => doesTo_ringHello heard other (taken.trans (if_pos joins))⟩
  case join =>
    rintro s src chip m asks
    refine ⟨?_, ?_, fun other => does_of_run rfl (mgmt_refused asks (ringJoin_of_other other))⟩
    · rintro rfl may
      exact does_of_run rfl (mgmt_accepted asks (ringJoin_accepted may))
    · rintro rfl may
      exact does_of_run rfl (mgmt_refused asks (ringJoin_of_not may))
  case leave =>
    rintro s src chip m asks
    refine ⟨?_, ?_⟩
    · rintro rfl member
      exact does_of_run rfl (mgmt_accepted asks (ringLeave_accepted member))
    · rintro rfl member
      exact does_of_run rfl (mgmt_refused asks (ringLeave_of_not member))
  case states => exact fun c => ⟨ringState_startJoin c false, ringState_startLeave⟩
  case prepare =>
    rintro s src chip west east m ⟨asks, manager⟩
    refine ⟨fun not => does_of_run rfl (mgmt_answeredNow asks (ringPrepare_of_not manager not)), fun leads idle => ⟨?_, ?_, ?_, ?_⟩⟩
    · intro refused
      exact does_of_run rfl ((mgmt_answeredNow asks (ringPrepare_of_refused manager leads idle refused (by decide))).trans
        (M.on_on _ _ _))
    · intro refused
      exact does_of_run rfl ((mgmt_answeredNow asks (ringPrepare_of_refused manager leads idle refused (by decide))).trans
        (M.on_on _ _ _))
    · exact fun admits stranger =>
        does_of_run rfl (mgmt_answeredNow asks (ringPrepare_of_stranger manager leads idle admits stranger))
    · exact fun i j c admits small atWest atEast adjacent issued =>
        does_of_run rfl (mgmt_later asks (ringPrepare_of_adjacent manager leads idle admits small atWest atEast adjacent issued))
  case lost => exact fun cmd type body one s p c serves lost => ringCmd_of_lost one serves lost
  case passed =>
    rintro cmd type body one other s p c d serves lands follows settled
    rcases one with ⟨chip, pri, rfl, rfl, rfl⟩ | ⟨m, rfl, rfl, rfl⟩ | ⟨r, m, rfl, rfl, rfl⟩ | ⟨v, ms, rfl, rfl, rfl⟩ |
      ⟨chip, v, rfl, rfl, rfl⟩
    · exact does_of_servedCore rfl serves (joinRequest_of_follower lands follows chip pri)
    · exact does_of_servedCore rfl serves (joinAccept_of_settled lands settled m)
    · exact does_of_servedCore rfl serves (joinRefused_of_settled lands settled r m)
    · exact absurd rfl other
    · exact does_of_servedCore rfl serves (ringDrained_of_follower lands follows chip v)
  case landed =>
    rintro s p c d serves lands
    refine ⟨fun leads => ⟨?_, ?_, ?_, ?_, ?_⟩, fun joins => ⟨?_, ?_⟩, ?_⟩
    · exact fun chip pri decides admits => does_of_servedCore rfl serves
        ((joinRequest_of_deciding lands leads decides chip pri).trans (if_pos admits))
    · rintro chip pri k decides rfl refused
      exact does_of_servedCore rfl serves ((joinRequest_of_deciding lands leads decides chip pri).trans (if_neg refused))
    · exact fun chip pri t collects fresh => does_of_servedCore rfl serves (joinRequest_of_collecting lands leads collects fresh pri)
    · exact fun chip v => does_of_servedCore rfl serves (ringDrained_of_master lands leads chip v)
    · exact fun v ms => does_of_servedCore rfl serves (routeUpdate_of_master lands leads v ms)
    · exact fun m => ⟨joined c m, does_of_servedCore rfl serves (joinAccept_of_joining lands joins m), ringState_joined c m,
        tick_joined c m⟩
    · exact fun r m => does_of_servedCore rfl serves (joinRefused_of_joining lands joins r m)
    · rintro follows v ms e rfl
      have taken := routeUpdate_of_follower lands follows v ms
      exact ⟨fun newer => does_of_servedCore rfl serves (taken.trans (if_pos newer)),
        fun older => does_of_servedCore rfl serves (taken.trans (if_neg (by rw [older]; exact Bool.false_ne_true)))⟩
  case routes => exact fun c v ms => ⟨applyRoutes_members c v ms, applyRoutes_version c v ms, applyRoutes_chain c v ms⟩
  case out => exact fun c => ⟨ringState_ringOut c, isMaster_ringOut c, ringOut_members c⟩
  case timeout =>
    exact fun s time c serves clock =>
      ⟨fun joins alone late => does_of_servedCore rfl serves (joinTimeout_of_alone clock joins alone late),
        fun not => does_of_servedCore rfl serves (joinTimeout_of_not clock not)⟩
  case admission =>
    exact fun s t serves collects => ⟨fun not => does_of_servedCore rfl serves (ringAdmission_of_not collects not),
      fun due leads => does_of_servedCore rfl serves (ringAdmission_of_due collects due leads)⟩
  case order => exact fun l => ⟨insertChips_perm l, insertChips_sorted l⟩
  case drained =>
    rintro s v c serves version rfl
    refine ⟨fun not => does_of_servedCore rfl serves (routeDrained_of_not not), ?_, fun drained on unsent => ⟨?_, ?_⟩⟩
    · exact fun drained on sent => does_of_servedCore rfl serves (routeDrained_of_reported drained on (sent.trans version))
    · rintro d leads rfl
      exact does_of_servedCore rfl serves (routeDrained_of_news drained on version unsent (drainReport_of_master leads))
    · intro follows
      obtain ⟨k, reported⟩ := drainReport_of_member (v := v) follows
      exact ⟨k, _, rfl, does_of_servedCore rfl serves (routeDrained_of_news drained on version unsent reported)⟩
  case member =>
    exact fun s chip i x serves heard leads gone member c logged =>
      does_of_servedCore rfl serves (memberLost_of_absent heard leads gone member logged)

end Sys2Proof.Machine

/-! Forwarded requests: what a FORWARD and a FORWARD_REPLY come to where they land, how a reply resolves its request, and what a request
without a reply does; and the statement about them (R520 to R523, R649). -/

namespace Sys2Proof.Machine
open Sys2Proof

/-! ### FORWARD where it lands (R520, R521, R649) -/

section
variable {m : M} {p : Pkt} {x : FwdMsg} (serves : inService m.core = true) (ring : ringPort p.port = true)
include serves ring

theorem forwardRx_of_lost {c : Core} (lost : landPkt m.core { p with cls := 0 } false (keptBack m.core x) = (c, none)) :
    forwardRx p x m = { m with core := c } := by
  unfold keptBack at lost
  simp only [forwardRx, serves, ring, Bool.not_true, Bool.or_self, Bool.false_eq_true, if_false, lost]

variable {c : Core} {n : Nat} (lands : landPkt m.core { p with cls := 0 } false (keptBack m.core x) = (c, some n))
include lands

theorem forwardRx_of_unreachable (no : x.hops = 0 ∨ (x.dst ≠ m.core.chipId ∧ memberIdx c x.dst = none)) : forwardRx p x m =
    ⟨raise ((dropCredits c p n (keptBack m.core x)).count RING_UNREACHABLE) .ringUnreachable 0 0 x.dst, m.mem⟩ := by
  unfold keptBack at lands ⊢
  simp only [forwardRx, serves, ring, Bool.not_true, Bool.or_self, Bool.false_eq_true, if_false, lands]
  refine if_pos ?_
  rcases no with spent | ⟨other, stranger⟩
  · rw [decide_eq_true spent]; rfl
  · rw [decide_eq_false other, stranger]; exact Bool.or_true _

variable (hops : x.hops ≠ 0)
include hops

theorem forwardRx_of_transit (other : x.dst ≠ m.core.chipId) (member : (memberIdx c x.dst).isSome = true) : forwardRx p x m =
    ⟨transit c n p (keptBack m.core x) x.dir 0x74 0 x.len
      ([x.origin, x.dst, x.hops - 1, x.dir, x.tag, x.part, x.ctx, x.type] ++ x.body) x.data, m.mem⟩ := by
  have known : (memberIdx c x.dst).isNone = false := by rw [Option.isNone_eq_false_iff]; exact member
  have kept : keptBack m.core x = transitFull m.core x.dst x.dir x.tag := if_neg other
  simp only [kept] at lands
  rw [kept]
  simp only [forwardRx, serves, ring, Bool.not_true, Bool.or_self, Bool.false_eq_true, if_false, other, lands, hops, known,
    decide_false, Bool.not_false, Bool.and_false, if_true]

variable (mine : x.dst = m.core.chipId)
include mine

theorem forwardRx_of_partial {c1 : Core} (more : assemble c n p.xid p.msgOff x.len x.part x.data = (c1, none)) :
    forwardRx p x m = ⟨dropCredits c1 p n (keptBack m.core x), m.mem⟩ := by
  have kept : keptBack m.core x = tagsFull m.core := if_pos mine
  simp only [kept] at lands
  simp only [kept, forwardRx, serves, ring, Bool.not_true, Bool.or_self, Bool.false_eq_true, if_false, mine, if_true, lands, hops,
    decide_false, decide_true, Bool.false_and, more]
  rfl

end

/-- What a FORWARD's message comes to at the chip that it names, `d` the block with the credits returned. -/
def forwardTaken (x : FwdMsg) (data : List Byte) (held : List (Nat × Nat × Bool)) (c d : Core) (mem : Mem) : M :=
  match x.type with
  | 0x40 => (cohServe none x.ctx (x.body.getD 1 0) (cohOfBody x.body data) ⟨d, mem⟩).on (fun c =>
      fwdReply c x.origin x.tag x.part [0, 0, 0, 0, 0] [] none)
  | 0x101 => ⟨cancelEntries x.origin x.ctx (x.body.getD 0 0) d, mem⟩
  | _ => ⟨admitReq c (.chip x.origin x.tag) x.ctx x.part x.type x.body data held, mem⟩

/-- A partition that is being removed answers nothing else than that its key is revoked (R649). -/
def forwardServed (x : FwdMsg) (data : List Byte) (held : List (Nat × Nat × Bool)) (c d : Core) (mem : Mem) : M :=
  if x.part < 16 && c.fld (SEC_PART x.part) SEC_PART_STATE == 3 then
    ⟨if x.type = 0x101 then d
      else if x.type = 0x100 then fwdReply d x.origin x.tag x.part [2 + statusCode .keyRevoked, 0, 0] [] none
      else fwdReply d x.origin x.tag x.part [statusCode .keyRevoked, 0, 0, 0, 0] [] none, mem⟩
  else forwardTaken x data held c d mem

section
variable {m : M} {p : Pkt} {x : FwdMsg} {c c1 : Core} {n : Nat} {data : List Byte}

theorem forwardRx_of_whole (serves : inService m.core = true) (ring : ringPort p.port = true)
    (lands : landPkt m.core { p with cls := 0 } false (keptBack m.core x) = (c, some n)) (hops : x.hops ≠ 0)
    (mine : x.dst = m.core.chipId) (whole : assemble c n p.xid p.msgOff x.len x.part x.data = (c1, some data)) :
    forwardRx p x m = forwardServed x data (if tagsFull m.core then [(n, pktCost (datagram p.len p.enc), p.retx)] else [])
      c1 (dropCredits c1 p n (keptBack m.core x)) m.mem := by
  have kept : keptBack m.core x = tagsFull m.core := if_pos mine
  simp only [kept] at lands
  simp only [kept, forwardRx, serves, ring, Bool.not_true, Bool.or_self, Bool.false_eq_true, if_false, mine, if_true, lands, hops,
    decide_false, decide_true, Bool.false_and, Bool.not_true, whole]
  rfl

end

section
variable {x : FwdMsg} {data : List Byte} {held : List (Nat × Nat × Bool)} {c d : Core} {mem : Mem}

theorem forwardServed_of_removing (part : x.part < 16) (removing : c.fld (SEC_PART x.part) SEC_PART_STATE = 3) :
    forwardServed x data held c d mem =
      ⟨if x.type = 0x101 then d
        else if x.type = 0x100 then fwdReply d x.origin x.tag x.part [2 + statusCode .keyRevoked, 0, 0] [] none
        else fwdReply d x.origin x.tag x.part [statusCode .keyRevoked, 0, 0, 0, 0] [] none, mem⟩ := by
  unfold forwardServed
  exact if_pos (by rw [decide_eq_true part, removing]; rfl)

theorem forwardServed_of_staying (stays : 16 ≤ x.part ∨ c.fld (SEC_PART x.part) SEC_PART_STATE ≠ 3) :
    forwardServed x data held c d mem = forwardTaken x data held c d mem := by
  unfold forwardServed
  refine if_neg ?_
  rcases stays with high | stays
  · rw [decide_eq_false (Nat.not_lt.mpr high)]; exact Bool.false_ne_true
  · rw [beq_eq_false_iff_ne.mpr stays, Bool.and_false]; exact Bool.false_ne_true

theorem forwardTaken_coherence (coherence : x.type = 0x40) : forwardTaken x data held c d mem =
    (cohServe none x.ctx (x.body.getD 1 0) (cohOfBody x.body data) ⟨d, mem⟩).on (fun c =>
      fwdReply c x.origin x.tag x.part [0, 0, 0, 0, 0] [] none) := by
  simp only [forwardTaken, coherence]

theorem forwardTaken_cancel (cancels : x.type = 0x101) : forwardTaken x data held c d mem =
    ⟨cancelEntries x.origin x.ctx (x.body.getD 0 0) d, mem⟩ := by
  simp only [forwardTaken, cancels]

theorem forwardTaken_request (coherence : x.type ≠ 0x40) (cancels : x.type ≠ 0x101) : forwardTaken x data held c d mem =
    ⟨admitReq c (.chip x.origin x.tag) x.ctx x.part x.type x.body data held, mem⟩ := by
  unfold forwardTaken
  split
  · next h => exact absurd h coherence
  · next h => exact absurd h cancels
  · rfl

end

/-! ### FORWARD_REPLY (R520, R522) -/

section
variable {m : M} {p : Pkt} {x : FwdRep} {c : Core} {n : Nat} (serves : inService m.core = true) (ring : ringPort p.port = true)
  (lands : landPkt m.core { p with cls := 1 } = (c, some n))
include serves ring lands

section
variable (away : x.origin ≠ c.chipId)
include away

theorem forwardReply_of_unreachable (no : (routeTo c x.origin).bind Route.prefer = none) :
    forwardReply p x m = ⟨raise (c.count RING_UNREACHABLE) .ringUnreachable 0 0 x.origin, m.mem⟩ := by
  simp only [forwardReply, serves, ring, Bool.not_true, Bool.or_self, Bool.false_eq_true, if_false, lands, away, ne_eq,
    not_false_eq_true, if_true, no]

theorem forwardReply_of_transit {d : Nat} (way : (routeTo c x.origin).bind Route.prefer = some d) : forwardReply p x m =
    ⟨transit c n p false d 0x75 1 x.len [x.origin, x.tag, x.part, statusCode x.status, x.count, x.detail.toNat, x.value.toNat,
      x.value2.toNat] x.data, m.mem⟩ := by
  simp only [forwardReply, serves, ring, Bool.not_true, Bool.or_self, Bool.false_eq_true, if_false, lands, away, ne_eq,
    not_false_eq_true, if_true, way]

end

variable (home : x.origin = c.chipId) {c1 : Core}
include home

theorem forwardReply_of_partial (more : assemble c n p.xid p.msgOff x.len x.part x.data = (c1, none)) :
    forwardReply p x m = ⟨c1, m.mem⟩ := by
  simp only [forwardReply, serves, ring, Bool.not_true, Bool.or_self, Bool.false_eq_true, if_false, lands, home, ne_eq,
    not_true_eq_false, more]

variable {data : List Byte} (whole : assemble c n p.xid p.msgOff x.len x.part x.data = (c1, some data))
include whole

theorem forwardReply_of_late (gone : c1.ring.fwds.find? (fun f => f.tag == x.tag && f.kind != 3) = none) :
    forwardReply p x m = ⟨c1, m.mem⟩ := by
  simp only [forwardReply, serves, ring, Bool.not_true, Bool.or_self, Bool.false_eq_true, if_false, lands, home, ne_eq,
    not_true_eq_false, whole, gone]

theorem forwardReply_of_open {f : Fwd} (there : c1.ring.fwds.find? (fun f => f.tag == x.tag && f.kind != 3) = some f) :
    forwardReply p x m = resolveAny f
      { status := x.status, count := x.count, detail := x.detail, value := x.value, value2 := x.value2, data := data } ⟨c1, m.mem⟩ := by
  simp only [forwardReply, serves, ring, Bool.not_true, Bool.or_self, Bool.false_eq_true, if_false, lands, home, ne_eq,
    not_true_eq_false, whole, there]

end

/-! ### A request is resolved (R520) -/

/-- With nothing draining, nothing that waits for a drain goes out. -/
theorem drainCheck_of_settled {c : Core} (settled : c.ring.draining = []) : drainCheck c = c := by
  unfold drainCheck
  rw [settled]
  rfl

theorem dropTag_flight (c : Core) (t : Nat) : (dropTag c t).work.flight = c.work.flight := by
  unfold dropTag
  split <;> rfl

theorem dropTag_ring (c : Core) (t : Nat) : (dropTag c t).ring = c.ring := by
  unfold dropTag
  split <;> rfl

/-- What freeing a tag leaves. -/
theorem freeTag_kept (c : Core) (t : Nat) : (freeTag c t).work.flight = c.work.flight ∧ (freeTag c t).ring = c.ring := by
  unfold freeTag
  split
  · exact ⟨rfl, rfl⟩
  · exact ⟨dropTag_flight c t, dropTag_ring c t⟩

/-- A work's request is removed, and what its extent's withdrawal tells is noted. -/
def fwdRemoved (c : Core) (f : Fwd) (rep : Rep) : Core :=
  let rest := match c.ring.fwds.findIdx? (· == f) with | some i => dropAt c.ring.fwds i | none => c.ring.fwds
  let c := { c with ring := { c.ring with fwds := rest } }
  let gone := fun (r : RemoteExt) =>
    if r.chip = f.dst ∧ r.extent = ptrExtent (BitVec.ofNat 64 (f.body.getD 0 0)) then { r with withdrawn := true } else r
  if rep.status = .extentWithdrawn then { c with ext := { c.ext with remote := c.ext.remote.map gone } } else c

/-- What the work that asked finds. -/
def fetchedBy (f : Fwd) (rep : Rep) (w : Work) : Work :=
  { w with
    fetched := w.fetched ++ [fetchedOf f f.who.2.2 rep],
    phase := if w.phase = .parked (.remote f.tag) then .running else w.phase }

theorem resolveFwd_of_work {c : Core} {f : Fwd} (kind : f.kind = 0) (rep : Rep) : resolveFwd c f rep =
    drainCheck (freeTag (modWork (countArrived (fwdRemoved c f rep) (fetchedOf f f.who.2.2 rep)) f.who.1 f.who.2.1 (fetchedBy f rep))
      f.tag) := by
  unfold resolveFwd
  simp only [kind]
  rfl

theorem fwdRemoved_ring {c : Core} {f : Fwd} (only : c.ring.fwds = [f]) (rep : Rep) :
    (fwdRemoved c f rep).ring = { c.ring with fwds := [] } := by
  have rest : (match c.ring.fwds.findIdx? (· == f) with | some i => dropAt c.ring.fwds i | none => c.ring.fwds) = [] := by
    rw [only, List.findIdx?_cons, beq_self_eq_true]
    rfl
  unfold fwdRemoved
  rw [rest]
  dsimp only
  split <;> rfl

theorem fwdRemoved_work (c : Core) (f : Fwd) (rep : Rep) : (fwdRemoved c f rep).work = c.work := by
  unfold fwdRemoved
  dsimp only
  split <;> rfl

theorem resolveFwd_of_only {c : Core} {f : Fwd} (settled : c.ring.draining = []) (only : c.ring.fwds = [f]) (kind : f.kind = 0)
    (rep : Rep) {w : Work} (there : work? c f.who.1 f.who.2.1 = some w) (parked : w.phase = .parked (.remote f.tag)) : ∃ y,
      work? (resolveFwd c f rep) f.who.1 f.who.2.1 = some y ∧ y.phase = .running ∧
      y.fetched = w.fetched ++ [fetchedOf f f.who.2.2 rep] ∧ (resolveFwd c f rep).ring.fwds = [] := by
  rw [resolveFwd_of_work kind]
  have found : work? (modWork (countArrived (fwdRemoved c f rep) (fetchedOf f f.who.2.2 rep)) f.who.1 f.who.2.1 (fetchedBy f rep))
      f.who.1 f.who.2.1 = some (fetchedBy f rep w) := by
    rw [work?_modWork, work?, countArrived, Core.count_work, fwdRemoved_work, ← work?, there]
    rfl
  have left : (modWork (countArrived (fwdRemoved c f rep) (fetchedOf f f.who.2.2 rep)) f.who.1 f.who.2.1 (fetchedBy f rep)).ring =
      { c.ring with fwds := [] } := by
    rw [modWork, countArrived, Core.count_ring]
    exact fwdRemoved_ring only rep
  generalize modWork (countArrived (fwdRemoved c f rep) (fetchedOf f f.who.2.2 rep)) f.who.1 f.who.2.1 (fetchedBy f rep) = d at found left
  obtain ⟨flight, ring⟩ := freeTag_kept d f.tag
  rw [drainCheck_of_settled (by rw [ring, left]; exact settled)]
  refine ⟨fetchedBy f rep w, ?_, if_pos parked, rfl, by rw [ring, left]⟩
  rw [work?, flight]
  exact found

/-! ### A request without a reply (R522) -/

/-- The request whose time is over. -/
def fwdLate (c : Core) (tag : Nat) (f : Fwd) : Bool :=
  f.tag == tag && f.kind != 3 && f.kind != 5 && (f.draining || c.ring.draining.all (fun x => x.1 != f.dst)) &&
    decide (f.sentTick + c.fld RING_FWD RING_FWD_TIMEOUT_TICKS < c.tick)

/-- A direction reaches the destination. -/
def reaches (r : Option Route) (d : Nat) : Bool := match r with | some x => if d = 0 then x.reach0 else x.reach1 | none => false

/-- The message sent once more in direction `d`. -/
def fwdAgain (c : Core) (f : Fwd) (d : Nat) : OutMsg :=
  if f.kind = 6 then repMsg c d f.tag (f.body.getD 0 0) (f.body.getD 1 0) (f.body.getD 2 0) (f.body.getD 3 0) (f.body.getD 4 0)
    (f.body.getD 5 0) f.data (f.body.getD 6 0)
  else fwdMsg c f.dst d f.tag f.part f.ctx f.type f.body f.data

section
variable {m : M} {tag : Nat}

theorem forwardTimeout_of_none (no : ∀ f ∈ m.core.ring.fwds, f.tag ≠ tag ∨ f.kind = 3 ∨ f.kind = 5 ∨
    m.core.tick ≤ f.sentTick + m.core.fld RING_FWD RING_FWD_TIMEOUT_TICKS) : forwardTimeout tag m = m := by
  have none_ : m.core.ring.fwds.find? (fwdLate m.core tag) = none := by
    rw [List.find?_eq_none]
    intro f inside
    simp only [fwdLate, Bool.and_eq_true, beq_iff_eq, bne_iff_ne, decide_eq_true_eq]
    rintro ⟨⟨⟨⟨same, entry⟩, write⟩, -⟩, late⟩
    rcases no f inside with h | h | h | h
    · exact h same
    · exact entry h
    · exact write h
    · exact absurd late (Nat.not_lt.mpr h)
  unfold fwdLate at none_
  simp only [forwardTimeout, none_]

variable {f : Fwd} (late : m.core.ring.fwds.find? (fwdLate m.core tag) = some f) {c : Core} (counted : c = m.core.count RING_FWD_TIMEOUTS)
include late counted

theorem forwardTimeout_of_late : forwardTimeout tag m =
    if f.idem && !f.resent && reaches (routeTo c f.dst) (1 - f.dir) then
      let d := onRingSt c (fun v => { v with fwds := v.fwds.map (fun g =>
        if g = f then { g with dir := 1 - f.dir, resent := true, sentTick := c.tick, draining := false } else g) })
      ⟨drainCheck (d.send (fwdAgain d f (1 - f.dir))), m.mem⟩
    else if f.resent || (!reaches (routeTo c f.dst) 0 && !reaches (routeTo c f.dst) 1) then resolveAny f { status := .linkLost } ⟨c, m.mem⟩
    else resolveAny f { status := .outcomeUnknown } ⟨c, m.mem⟩ := by
  subst counted
  unfold fwdLate at late
  simp only [forwardTimeout, late]
  rfl

theorem forwardTimeout_of_lost (lost : f.resent = true ∨ (reaches (routeTo c f.dst) 0 = false ∧ reaches (routeTo c f.dst) 1 = false)) :
    forwardTimeout tag m = resolveAny f { status := .linkLost } ⟨c, m.mem⟩ := by
  rw [forwardTimeout_of_late late counted]
  rcases lost with again | ⟨no0, no1⟩
  · simp only [again, Bool.not_true, Bool.and_false, Bool.false_and, Bool.false_eq_true, if_false, Bool.true_or, if_true]
  · have never : reaches (routeTo c f.dst) (1 - f.dir) = false := by
      have either : 1 - f.dir = 0 ∨ 1 - f.dir = 1 := by omega
      rcases either with h | h <;> rw [h] <;> assumption
    simp only [never, no0, no1, Bool.not_false, Bool.and_false, Bool.false_eq_true, if_false, Bool.and_self, Bool.or_true, if_true]

theorem forwardTimeout_of_unknown (once : f.resent = false)
    (reached : reaches (routeTo c f.dst) 0 = true ∨ reaches (routeTo c f.dst) 1 = true)
    (not : f.idem = false ∨ reaches (routeTo c f.dst) (1 - f.dir) = false) :
    forwardTimeout tag m = resolveAny f { status := .outcomeUnknown } ⟨c, m.mem⟩ := by
  have some_ : (!reaches (routeTo c f.dst) 0 && !reaches (routeTo c f.dst) 1) = false := by
    rcases reached with h | h <;> rw [h]
    · rfl
    · exact Bool.and_false _
  have unsent : (f.idem && !f.resent && reaches (routeTo c f.dst) (1 - f.dir)) = false := by
    rcases not with h | h <;> rw [h]
    · rfl
    · exact Bool.and_false _
  rw [forwardTimeout_of_late late counted, unsent, some_, once]
  rfl

theorem forwardTimeout_of_again (once : f.resent = false) (idem : f.idem = true) (other : reaches (routeTo c f.dst) (1 - f.dir) = true)
    {d : Core} (turned : d = onRingSt c (fun v => { v with fwds := v.fwds.map (fun g =>
      if g = f then { g with dir := 1 - f.dir, resent := true, sentTick := c.tick, draining := false } else g) })) :
    forwardTimeout tag m = ⟨drainCheck (d.send (fwdAgain d f (1 - f.dir))), m.mem⟩ := by
  subst turned
  rw [forwardTimeout_of_late late counted]
  exact if_pos (by rw [once, idem, other]; rfl)

end

/-- Settles O54: a FORWARD by where it lands and what the chip can do with it, a reply by its origin, and a request without a reply by
the directions that still reach its destination. -/
theorem forwarding : Obligations.Forwarding := by
  unfold Obligations.Forwarding
  refine ⟨?lost, ?landed, ?more, ?whole, ?reply, ?resolved, ?late, ?early⟩
  case lost => exact fun s p x c serves ring lost => does_of_run rfl (forwardRx_of_lost (m := s.m) serves ring lost)
  case landed =>
    rintro s p x c d n ⟨serves, ring, lands⟩ rfl
    exact ⟨fun no => does_of_run rfl (forwardRx_of_unreachable (m := s.m) serves ring lands no),
      fun hops other member => does_of_run rfl (forwardRx_of_transit (m := s.m) serves ring lands hops other member)⟩
  case more =>
    rintro s p x c c1 n ⟨serves, ring, lands⟩ mine hops more
    exact does_of_run rfl (forwardRx_of_partial (m := s.m) serves ring lands hops mine more)
  case whole =>
    rintro s p x c c1 n data ⟨serves, ring, lands⟩ mine hops whole d rfl
    have served := forwardRx_of_whole (m := s.m) serves ring lands hops mine whole
    refine ⟨fun part removing => ?_, fun stays => ?_⟩
    · have revoked := served.trans (forwardServed_of_removing part removing)
      refine ⟨fun cancels => does_of_run rfl (revoked.trans ?_), fun entry => does_of_run rfl (revoked.trans ?_),
        fun entry cancels => does_of_run rfl (revoked.trans ?_)⟩
      · rw [if_pos cancels]
      · rw [if_neg (by rw [entry]; decide), if_pos entry]
      · rw [if_neg cancels, if_neg entry]
    · have taken := served.trans (forwardServed_of_staying stays)
      exact ⟨fun coherence => does_of_run rfl (taken.trans (forwardTaken_coherence coherence)),
        fun cancels => does_of_run rfl (taken.trans (forwardTaken_cancel cancels)),
        fun coherence cancels => does_of_run rfl (taken.trans (forwardTaken_request coherence cancels))⟩
  case reply =>
    rintro s p x c n serves ring lands
    refine ⟨?_, ?_, fun c1 data home whole => ⟨?_, ?_⟩, ?_⟩
    · exact fun away no => does_of_run rfl (forwardReply_of_unreachable (m := s.m) serves ring lands away no)
    · exact fun d away way => does_of_run rfl (forwardReply_of_transit (m := s.m) serves ring lands away way)
    · exact fun gone => does_of_run rfl (forwardReply_of_late (m := s.m) serves ring lands home whole gone)
    · exact fun f there => does_of_run rfl (forwardReply_of_open (m := s.m) serves ring lands home whole there)
    · exact fun c1 home more => does_of_run rfl (forwardReply_of_partial (m := s.m) serves ring lands home more)
  case resolved =>
    exact fun c f rep settled only kind w there parked => resolveFwd_of_only settled only kind rep there parked
  case late =>
    rintro s tag f c r serves late counted
    refine ⟨fun no => ?_, fun way => ?_⟩
    · have never (d : Nat) : reaches (routeTo c f.dst) d = false := by rw [no]; rfl
      exact does_of_served rfl serves (forwardTimeout_of_lost (m := s.m) late counted (.inr ⟨never 0, never 1⟩))
    have low : reaches (routeTo c f.dst) 0 = r.reach0 := by rw [way]; rfl
    have high : reaches (routeTo c f.dst) 1 = r.reach1 := by rw [way]; rfl
    refine ⟨fun lost => ?_, fun idem once reached => ?_, fun once reached => ?_, fun idem once small other d turned => ?_⟩
    · exact does_of_served rfl serves (forwardTimeout_of_lost (m := s.m) late counted (by rw [low, high]; exact lost))
    · exact does_of_served rfl serves (forwardTimeout_of_unknown (m := s.m) late counted once
        (by rw [low, high]; exact reached) (.inl idem))
    · refine does_of_served rfl serves (forwardTimeout_of_unknown (m := s.m) late counted once (by
        rw [low, high]
        exact reached.elim (fun at0 => .inl at0.2.1) (fun at1 => .inr at1.2.1)) (.inr ?_))
      rcases reached with ⟨dir, -, no⟩ | ⟨dir, -, no⟩
      · rw [dir, high, no]
      · rw [dir, low, no]
    · refine does_of_served rfl serves (forwardTimeout_of_again (m := s.m) late counted once idem ?_ turned)
      rcases other with ⟨dir, yes⟩ | ⟨dir, yes⟩
      · rw [dir, high, yes]
      · rw [dir, low, yes]
  case early => exact fun s tag serves no => does_of_served rfl serves (forwardTimeout_of_none (m := s.m) no)

end Sys2Proof.Machine

/-! Reports and keys: what is asked for and signed, what establishing, loading, expiring and unloading a key come to; and the statement
about them (R629, R638 to R643, R645, R646). -/

namespace Sys2Proof.Machine
open Sys2Proof

/-- A condition that fails decides the answer. -/
theorem checked_refused {m : M} {l : List (Bool × MgmtCode)} {f : M → Mg} {k : MgmtCode} (first : firstRefusal l = some k) :
    checked m l f = refuse m k := by
  simp only [checked, first]

/-- Entries of a collection chosen by their keys. -/
theorem amGet?_filterKeys {α : Type} (m : AMap α) (p : Nat → Bool) (k : Nat) :
    amGet? (m.filter (fun e => p e.1)) k = if p k then amGet? m k else none := by
  induction m with
  | nil => exact (ite_self _).symm
  | cons e t ih =>
    by_cases kept : p e.1 = true
    · rw [List.filter_cons_of_pos (p := fun e : Nat × α => p e.1) kept, amGet?, amGet?]
      by_cases same : e.1 = k
      · subst same; simp only [if_true, kept]
      · simp only [same, if_false, ih]
    · rw [List.filter_cons_of_neg (p := fun e : Nat × α => p e.1) kept, ih, amGet?]
      by_cases same : e.1 = k
      · subst same; simp only [kept, Bool.false_eq_true, if_false]
      · simp only [same, if_false]

/-! ### Reports (R645, R646) -/

section
variable {m : M} {src : Src} {scope nonce : Nat}

theorem attestAsk_of_badScope (high : 16 ≤ scope) (part : scope ≠ 255) : attestAsk scope nonce src m = now (refuse m .badField) := by
  unfold attestAsk
  dsimp only
  refine if_pos ?_
  rw [decide_eq_false (Nat.not_lt.mpr high), beq_eq_false_iff_ne.mpr part]; rfl

variable (known : scope < 16 ∨ scope = 255)
include known

theorem scope_known : (decide (scope < 16) || scope == 255) = true := by
  simpa only [Bool.or_eq_true, decide_eq_true_eq, beq_iff_eq] using known

theorem attestAsk_of_stranger {a : Nat} (agent : srcAgent src = some a) (stranger : scope = 255 ∨ ownsContextIn m.core a scope = false) :
    attestAsk scope nonce src m = now (refuse m .notPermitted) := by
  have not : (decide (scope < 16) && ownsContextIn m.core a scope) = false := by
    rcases stranger with rfl | none_
    · rfl
    · rw [none_, Bool.and_false]
  simp only [attestAsk, scope_known known, agent, not, Bool.not_true, Bool.not_false, Bool.false_eq_true, if_false, if_true]

variable (may : ∀ a, srcAgent src = some a → scope < 16 ∧ ownsContextIn m.core a scope = true)
include may

theorem attestAsk_of_permitted : attestAsk scope nonce src m =
    if 16 ≤ m.core.sec.attest.length then now (refuse m .secBusy)
    else (m.on (fun c => modSec c (fun s => { s with attest := s.attest ++ [⟨src, scope, nonce⟩] })), none) := by
  unfold attestAsk
  dsimp only
  refine (if_neg (by rw [scope_known known]; exact Bool.false_ne_true)).trans (if_neg ?_)
  cases agent : srcAgent src with
  | none => exact Bool.false_ne_true
  | some a =>
    obtain ⟨low, owns⟩ := may a agent
    simp only [low, owns, decide_true, Bool.and_self, Bool.not_true, Bool.false_eq_true, not_false_eq_true]

end

/-- The block once the report at the head of the queue is made. -/
def reportMade (c : Core) (a : AttestReq) (t : List AttestReq) : Core :=
  modSec c (fun s => { s with
    attest := t, nonces := (s.nonces.filter (fun n => c.glb.now ≤ n.2 + 10000000000)) ++ [(a.nonce, c.glb.now)] })

theorem attestSign_of_next {c : Core} {a : AttestReq} {t : List AttestReq} (next : c.sec.attest = a :: t) : attestSign c =
    mgmtReply ((reportMade c a t).count SEC_ATTESTS) a.src 0x0800 .accepted ((report c a.scope a.nonce).map (·.toNat)) := by
  simp only [attestSign, next, reportMade]

theorem attestSign_of_none {c : Core} (idle : c.sec.attest = []) : attestSign c = c := by
  simp only [attestSign, idle]

theorem nonceOk_reportMade_self (c : Core) (a : AttestReq) (t : List AttestReq) : nonceOk (reportMade c a t) a.nonce = true := by
  refine List.any_eq_true.mpr ⟨(a.nonce, c.glb.now), List.mem_append_right _ (List.mem_singleton_self _), ?_⟩
  rw [beq_self_eq_true, Bool.true_and]
  exact decide_eq_true (Nat.le_add_right _ _)

theorem nonceOk_reportMade (c : Core) (a : AttestReq) (t : List AttestReq) {n : Nat} (issued : nonceOk c n = true) :
    nonceOk (reportMade c a t) n = true := by
  obtain ⟨x, inside, same⟩ := List.any_eq_true.mp issued
  refine List.any_eq_true.mpr ⟨x, List.mem_append_left _ (List.mem_filter.mpr ⟨inside, ?_⟩), same⟩
  exact (Bool.and_eq_true_iff.mp same).2

theorem digestBytes_length (c : Core) (reg : Nat → Nat) : (digestBytes c reg).length = 48 := by
  simp only [digestBytes, List.length_flatMap, natLe_length]
  rfl

/-- The header of a report, to its NONCE. -/
def reportHead (c : Core) (scope : Nat) : List Byte :=
  let part := fun (v : Nat) => if scope == 255 then 0 else v
  natLe 4 0x54535441 ++ natLe 2 1 ++ natLe 1 scope ++ natLe 1 (part (partState c scope)) ++ natLe 2 c.chipId ++ natLe 2 0 ++
  natLe 4 c.sec.fuses.svnMin ++ natLe 16 c.sec.fuses.serial

/-- The digests and the parts of the scope, after the NONCE. -/
def reportRest (c : Core) (q : Nat) : List Byte :=
  let chip := q == 255
  let part := fun (v : Nat) => if chip then 0 else v
  natLe 8 c.tick ++
  natLe 4 (c.fld SEC_SVN SEC_SVN_IMAGE) ++ natLe 4 0 ++
  digestBytes c SEC_M_ROM ++ digestBytes c SEC_M_IMAGE ++ digestBytes c SEC_M_CONFIG ++
  (if chip then List.replicate 48 0 else digestBytes c (SEC_M_PROG q)) ++
  natLe 2 (part (maskOf (assignedCe c q))) ++ natLe 2 (part (maskOf (assignedRsp c q))) ++
  natLe 1 (part (c.fld (MEM_GROUP 0 0 q) MEM_GROUP_BASE * 8 + c.fld (MEM_GROUP 0 0 q) MEM_GROUP_LOG2)) ++
  natLe 1 (part (c.fld (COH_WAYS q) COH_WAYS_F)) ++ natLe 1 (part (c.fld (SEC_PART q) SEC_PART_LINK_ENC_REQUIRED)) ++ natLe 1 0 ++
  (List.range 4).flatMap (fun p => natLe 4 (part (c.fld (SEC_WAYS q p) SEC_WAYS_MASK * 256))) ++ List.replicate 24 0 ++
  natLe 1184 (Config.kemKey c.sec.kemKey)

theorem reportBody_eq (c : Core) (scope nonce : Nat) :
    reportBody c scope nonce = reportHead c scope ++ (natLe 32 nonce ++ reportRest c scope) := by
  unfold reportBody reportHead reportRest
  simp only [List.append_assoc]

theorem reportHead_length (c : Core) (scope : Nat) : (reportHead c scope).length = 32 := by
  unfold reportHead
  simp only [List.length_append, natLe_length]

/-- A word for each of the four plinths. -/
theorem waysBytes_length (f : Nat → Nat) : ((List.range 4).flatMap (fun p => natLe 4 (f p))).length = 16 := by
  simp only [List.length_flatMap, natLe_length]
  rfl

theorem reportRest_length (c : Core) (q : Nat) : (reportRest c q).length = 1440 := by
  have prog (chip : Bool) : (if chip = true then List.replicate 48 0 else digestBytes c (SEC_M_PROG q)).length = 48 := by
    split
    · exact List.length_replicate
    · exact digestBytes_length _ _
  unfold reportRest
  extract_lets chip part
  rw [List.length_append, natLe_length 1184]
  simp only [List.length_append, natLe_length, digestBytes_length, prog, waysBytes_length, List.length_replicate]

theorem reportBody_length (c : Core) (scope nonce : Nat) : (reportBody c scope nonce).length = 0x5E0 := by
  rw [reportBody_eq, List.length_append, List.length_append, reportHead_length, natLe_length, reportRest_length]

theorem reportBody_nonce (c : Core) (scope nonce : Nat) : ((reportBody c scope nonce).drop 0x20).take 32 = natLe 32 nonce := by
  rw [reportBody_eq, List.drop_left' (reportHead_length c scope), List.take_left' (natLe_length _ _)]

theorem report_length (c : Core) (scope nonce : Nat) : (report c scope nonce).length = 4880 := by
  unfold report
  extract_lets b
  rw [List.length_append, List.length_append, List.length_append, natLe_length, natLe_length, natLe_length, reportBody_length]

/-! ### Keys are established (R638) -/

/-- An establishment that is refused is counted. -/
theorem countRefused_of_refused {a : Nat} {m : M} {k : MgmtCode} (refused : k ≠ .accepted) :
    countRefused a (refuse m k) = (m.on (fun c => c.count a), k, []) := by
  cases k with
  | accepted => exact absurd rfl refused
  | _ => rfl

section
variable {m : M} {src : Src} {nonce : Nat} (manager : srcFm src = true)
include manager

theorem mgmtKeyEstablish_accepted {c : Core} {k : Nat} (keys : m.core.boot.mgmt.keys ≠ []) (issued : nonceOk m.core nonce = true)
    (drawn : m.core.draw = (c, k)) : mgmtKeyEstablish nonce true src m =
      accept (m.on (fun _ => loadSlot c 0 255 none (Config.kmac256 (Config.secret k)
        (ascii "mgmt" ++ natLe 2 c.chipId ++ natLe 32 nonce)))) := by
  unfold mgmtKeyEstablish
  rw [checked_pass (List.forall_mem_cons.mpr ⟨manager, List.forall_mem_cons.mpr ⟨decide_eq_true keys, List.forall_mem_cons.mpr ⟨issued,
    List.forall_mem_nil _⟩⟩⟩)]
  exact congrArg accept (M.on_const (by rw [drawn]))

theorem mgmtKeyEstablish_refused {ok : Bool} (not : ok = false ∨ m.core.boot.mgmt.keys = [] ∨ nonceOk m.core nonce = false) :
    mgmtKeyEstablish nonce ok src m = (m.on (fun c => c.count SEC_ESTABLISH_REFUSED), .notPermitted, []) := by
  unfold mgmtKeyEstablish
  rw [checked_refused (k := .notPermitted), countRefused_of_refused (by decide)]
  by_cases signed : (ok && decide (m.core.boot.mgmt.keys ≠ [])) = true
  · have stale : nonceOk m.core nonce = false := by
      obtain ⟨verified, keys⟩ := Bool.and_eq_true_iff.mp signed
      rcases not with no | no | no
      · exact absurd verified (by rw [no]; decide)
      · exact absurd no (of_decide_eq_true keys)
      · exact no
    simp only [firstRefusal, manager, signed, stale, List.find?_cons, Bool.not_true, Bool.not_false, Option.map_some]
  · rw [Bool.not_eq_true] at signed
    simp only [firstRefusal, manager, signed, List.find?_cons, Bool.not_true, Bool.not_false, Option.map_some]

/-- The partition's registers once its key-encryption key is set. -/
def kekSet (q : Nat) (kek : BitVec 256) (c : Core) : Core :=
  (setPartState (modSec c.draw.1 (fun v => { v with keks := amSet v.keks q kek })) q 2).setFld (SEC_PART q) SEC_PART_KEK 1

/-- The key-encryption key that the next draw gives a partition. -/
def kekDrawn (c : Core) (q nonce : Nat) : BitVec 256 :=
  Config.kmac256 (Config.secret c.draw.2) (ascii "part" ++ natLe 2 c.draw.1.chipId ++ natLe 1 q ++ natLe 32 nonce)

/-- A program chain starts anew. -/
def chainCleared (c : Core) (q : Nat) : Core := (List.range 6).foldl (fun c i => c.rset (SEC_M_PROG q i) 0) c

variable {q : Nat} (number : q < 16)
include number

theorem partKeyEstablish_accepted (issued : nonceOk m.core nonce = true) (st : partState m.core q = 1 ∨ partState m.core q = 2) :
    partKeyEstablish q nonce src m = accept (m.on (fun c =>
      kekSet q (kekDrawn (if partState m.core q = 1 then chainCleared c q else c) q nonce)
        (if partState m.core q = 1 then chainCleared c q else c))) := by
  have known : (partState m.core q == psVacant || partState m.core q == psActive) = true := by
    rcases st with h | h <;> rw [h] <;> rfl
  unfold partKeyEstablish
  dsimp only
  rw [checked_pass (List.forall_mem_cons.mpr ⟨manager, List.forall_mem_cons.mpr ⟨decide_eq_true number, List.forall_mem_cons.mpr ⟨issued,
    List.forall_mem_cons.mpr ⟨known, List.forall_mem_nil _⟩⟩⟩⟩)]
  rfl

theorem partKeyEstablish_refused (stale : nonceOk m.core nonce = false) :
    partKeyEstablish q nonce src m = (m.on (fun c => c.count SEC_ESTABLISH_REFUSED), .notPermitted, []) := by
  unfold partKeyEstablish
  dsimp only
  rw [checked_refused (k := .notPermitted), countRefused_of_refused (by decide)]
  simp only [firstRefusal, manager, number, stale, List.find?_cons, decide_true, Bool.not_true, Bool.not_false, Option.map_some]

end

section
variable (c : Core) (q : Nat) (kek : BitVec 256)

theorem kekSet_sec : (kekSet q kek c).sec = { c.sec with keks := amSet c.sec.keks q kek } := by
  rw [kekSet, setPartState, Core.setFld_sec, Core.setFld_sec]
  rfl

theorem kekSet_shown : (kekSet q kek c).fld (SEC_PART q) SEC_PART_STATE = 2 ∧
    (kekSet q kek c).flag (SEC_PART q) SEC_PART_KEK = true := by
  unfold kekSet setPartState
  constructor
  · rw [Core.fld_setFld_other _ _ _ _ _ (by decide) (by decide) (by decide) (by decide),
      Core.fld_setFld_self _ _ _ _ (by decide) (by decide)]
    rfl
  · rw [Core.flag, Core.fld_setFld_self _ _ _ _ (by decide) (by decide)]
    rfl

theorem rget_kekSet_ne {a : Nat} (other : a ≠ SEC_PART q) : (kekSet q kek c).rget a = c.rget a := by
  rw [kekSet, setPartState, Core.rget_setFld_ne _ _ _ other, Core.rget_setFld_ne _ _ _ other]
  rfl

end

/-- Registers that are cleared one after the other read 0. -/
theorem rget_cleared (reg : Nat → Nat) (l : List Nat) (c : Core) {i : Nat} (inside : i ∈ l ∨ c.rget (reg i) = 0) :
    (l.foldl (fun c i => c.rset (reg i) 0) c).rget (reg i) = 0 := by
  induction l generalizing c with
  | nil => exact inside.resolve_left (List.not_mem_nil)
  | cons j t ih =>
    refine ih _ ?_
    by_cases same : reg i = reg j
    · exact .inr (by rw [same]; exact Core.rget_rset_self _ _ _)
    · rcases inside with inside | zero
      · exact .inl ((List.mem_cons.mp inside).resolve_left (fun h => same (congrArg reg h)))
      · exact .inr ((Core.rget_rset_ne _ _ same).trans zero)

theorem chainReg_ne {q : Nat} (number : q < 16) (i : Nat) : SEC_M_PROG q i ≠ SEC_PART q := by
  simp only [SEC_M_PROG, SEC_PART]; omega

theorem rget_chainCleared (c : Core) (q : Nat) {i : Nat} (low : i < 6) : (chainCleared c q).rget (SEC_M_PROG q i) = 0 :=
  rget_cleared (SEC_M_PROG q) _ c (.inl (List.mem_range.mpr low))

theorem chainCleared_kept (c : Core) (q : Nat) :
    (chainCleared c q).sec = c.sec ∧ (chainCleared c q).glb = c.glb ∧ (chainCleared c q).chipId = c.chipId := by
  have other (i : Nat) : GLB_CHIP ≠ SEC_M_PROG q i := by simp only [GLB_CHIP, SEC_M_PROG]; omega
  exact ⟨foldl_keeps Core.sec (fun d i => Core.rset_sec d _ _) _ c, foldl_keeps Core.glb (fun d i => Core.rset_glb d _ _) _ c,
    foldl_keeps Core.chipId (fun d i => Core.fld_congr (Core.rget_rset_ne d _ (other i)) _) _ c⟩

theorem kekDrawn_chainCleared (c : Core) (q n : Nat) : kekDrawn (chainCleared c q) q n = kekDrawn c q n := by
  obtain ⟨-, glb, chip⟩ := chainCleared_kept c q
  have same : (chainCleared c q).draw.2 = c.draw.2 := congrArg GlbSt.draws glb
  have chips : (chainCleared c q).draw.1.chipId = c.draw.1.chipId := chip
  rw [kekDrawn, same, chips, kekDrawn]

/-! ### Keys are loaded (R640, R641) -/

/-- The block once a key is loaded, `old` the owner of the slot's key before. -/
def keyLoaded (slot owner : Nat) (old : Option Nat) (c : Core) : Core :=
  let (c, d) := c.draw
  let c := loadSlot (c.count SEC_KEY_LOADS) slot owner (old.map (fun _ => c.glb.now + 100000000)) (BitVec.ofNat 256 (Config.secret d))
  if slot = 4095 && old.isNone then joinNow c else c

/-- The conditions of KEY_LOAD. -/
def keyChecks (c : Core) (slot owner : Nat) (unwraps : Bool) (src : Src) : List (Bool × MgmtCode) := [
  (srcFm src, .notPermitted),
  (slot < 4096 && (owner < 16 || owner == 255), .badField),
  ((slot ≠ 0 && slot ≠ 4095) || owner == 255, .notPermitted),
  ((slotOwner c slot).isNone || slotOwner c slot == some owner, .conflict),
  (owner == 255 || partActive c owner, .badState),
  (slot ≠ 0 || (slotOwner c slot).isSome, .badState),
  (!(owner == 255) || (slotOwner c 0).isSome, .badState),
  (unwraps, .notPermitted)]

/-- A refused load is counted, and logged where its fields are in range. -/
def loadRefused (slot : Nat) (fields : Bool) (c : Core) : Core :=
  if fields then raise (c.count SEC_KEY_REFUSED) .secKeyRefused 0 0 slot else c.count SEC_KEY_REFUSED

def countLoad (slot : Nat) (fields : Bool) (x : Mg) : Mg :=
  match x.2.1 with
  | .accepted => x
  | _ => (x.1.on (loadRefused slot fields), x.2)

theorem loadRefused_logged (slot : Nat) :
    loadRefused slot true = fun c => raise (c.count SEC_KEY_REFUSED) .secKeyRefused 0 0 slot := by
  funext c
  exact if_pos rfl

theorem countLoad_of_refused {slot : Nat} {fields : Bool} {m : M} {k : MgmtCode} (refused : k ≠ .accepted) :
    countLoad slot fields (refuse m k) = (m.on (loadRefused slot fields), k, []) := by
  cases k with
  | accepted => exact absurd rfl refused
  | _ => rfl

section
variable {m : M} {slot owner : Nat} {ok : Bool} {src : Src}

theorem keyLoad_eq (m : M) (slot owner : Nat) (ok : Bool) (src : Src) : keyLoad slot owner ok src m =
    countLoad slot (srcFm src && slot < 4096 && (owner < 16 || owner == 255)) (checked m (keyChecks m.core slot owner ok src)
      (fun x => accept (x.on (keyLoaded slot owner (slotOwner m.core slot))))) := rfl

theorem keyLoad_accepted (pass : ∀ x ∈ keyChecks m.core slot owner ok src, x.1 = true) :
    keyLoad slot owner ok src m = accept (m.on (keyLoaded slot owner (slotOwner m.core slot))) := by
  rw [keyLoad_eq, checked_pass pass]
  rfl

theorem keyLoad_refused {k : MgmtCode} (manager : srcFm src = true) (number : slot < 4096) (part : owner < 16 ∨ owner = 255)
    (first : firstRefusal (keyChecks m.core slot owner ok src) = some k) (refused : k ≠ .accepted) :
    keyLoad slot owner ok src m = (m.on (fun c => raise (c.count SEC_KEY_REFUSED) .secKeyRefused 0 0 slot), k, []) := by
  have fields : (srcFm src && slot < 4096 && (owner < 16 || owner == 255)) = true := by
    simpa only [manager, number, decide_true, Bool.true_and, Bool.or_eq_true, decide_eq_true_eq, beq_iff_eq] using part
  rw [keyLoad_eq, checked_refused first, fields, countLoad_of_refused refused, loadRefused_logged]

theorem slot_agrees (agrees : ∀ o, slotOwner m.core slot = some o → o = owner) :
    ((slotOwner m.core slot).isNone || slotOwner m.core slot == some owner) = true := by
  cases held : slotOwner m.core slot with
  | none => rfl
  | some o => rw [agrees o held]; exact beq_self_eq_true _

section
variable (manager : srcFm src = true) (number : slot < 4096)
include manager number

theorem keyLoad_of_passing (may : (owner = 255 ∧ (slotOwner m.core 0).isSome = true) ∨
    (owner < 16 ∧ slot ≠ 0 ∧ slot ≠ 4095 ∧ partActive m.core owner = true))
    (slotOk : ∀ o, slotOwner m.core slot = some o → o = owner) :
    keyLoad slot owner true src m = accept (m.on (keyLoaded slot owner (slotOwner m.core slot))) := by
  have agrees := slot_agrees slotOk
  refine keyLoad_accepted ?_
  simp only [keyChecks, List.forall_mem_cons, List.not_mem_nil, manager, number, agrees, and_true, true_and,
    decide_true, Bool.true_and, implies_true, false_imp_iff, Bool.or_eq_true, Bool.and_eq_true, Bool.not_eq_true', decide_eq_true_eq,
    beq_iff_eq,
    beq_eq_false_iff_ne]
  rcases may with ⟨rfl, loaded⟩ | ⟨low, first, last, active⟩
  · refine ⟨.inr rfl, .inr rfl, .inl rfl, ?_, .inr loaded⟩
    by_cases first : slot = 0
    · exact .inr (by rw [first]; exact loaded)
    · exact .inl first
  · exact ⟨.inl low, .inl ⟨first, last⟩, .inr active, .inl first, .inl (by omega)⟩

/-- The slots of the management and the ring take no partition's key. -/
theorem keyLoad_of_reserved (low : owner < 16) (reserved : slot = 0 ∨ slot = 4095) : keyLoad slot owner ok src m =
    (m.on (fun c => raise (c.count SEC_KEY_REFUSED) .secKeyRefused 0 0 slot), .notPermitted, []) := by
  have part : (owner == 255) = false := beq_eq_false_iff_ne.mpr (by omega)
  have no : (decide (slot ≠ 0) && decide (slot ≠ 4095)) = false := by
    rcases reserved with rfl | rfl <;> rfl
  refine keyLoad_refused manager number (.inl low) ?_ (by decide)
  simp only [keyChecks, firstRefusal, List.find?_cons, manager, number, low, part, no, decide_true, Bool.and_self, Bool.or_false,
    Bool.not_true, Bool.not_false, Option.map_some]

theorem keyLoad_of_conflict {o : Nat} (held : slotOwner m.core slot = some o) (other : o ≠ owner)
    (part : owner = 255 ∨ (owner < 16 ∧ slot ≠ 0 ∧ slot ≠ 4095)) : keyLoad slot owner ok src m =
      (m.on (fun c => raise (c.count SEC_KEY_REFUSED) .secKeyRefused 0 0 slot), .conflict, []) := by
  have known : owner < 16 ∨ owner = 255 := part.symm.imp_left (fun h => h.1)
  have fields : (decide (owner < 16) || owner == 255) = true := by
    simpa only [Bool.or_eq_true, decide_eq_true_eq, beq_iff_eq] using known
  have free : ((decide (slot ≠ 0) && decide (slot ≠ 4095)) || owner == 255) = true := by
    simpa only [Bool.or_eq_true, Bool.and_eq_true, decide_eq_true_eq, beq_iff_eq] using part.symm.imp_left (fun h => h.2)
  have differs : ((some o : Option Nat) == some owner) = false := beq_eq_false_iff_ne.mpr (fun h => other (Option.some.inj h))
  refine keyLoad_refused manager number known ?_ (by decide)
  simp only [keyChecks, firstRefusal, List.find?_cons, manager, number, fields, free, held, differs, decide_true, Bool.and_self,
    Option.isNone_some, Bool.or_self, Bool.not_true, Bool.not_false, Option.map_some]

variable (agrees : ∀ o, slotOwner m.core slot = some o → o = owner)
include agrees

section
variable (low : owner < 16) (first : slot ≠ 0) (last : slot ≠ 4095)
include low first last

theorem keyLoad_of_inactive (idle : partActive m.core owner = false) : keyLoad slot owner ok src m =
    (m.on (fun c => raise (c.count SEC_KEY_REFUSED) .secKeyRefused 0 0 slot), .badState, []) := by
  have part : (owner == 255) = false := beq_eq_false_iff_ne.mpr (by omega)
  refine keyLoad_refused manager number (.inl low) ?_ (by decide)
  simp only [keyChecks, firstRefusal, List.find?_cons, manager, number, low, part, first, last, slot_agrees agrees, idle, ne_eq,
    not_false_eq_true, decide_true, Bool.and_self, Bool.or_false, Bool.not_true, Bool.not_false, Option.map_some]

theorem keyLoad_of_unwrapped (active : partActive m.core owner = true) : keyLoad slot owner false src m =
    (m.on (fun c => raise (c.count SEC_KEY_REFUSED) .secKeyRefused 0 0 slot), .notPermitted, []) := by
  have part : (owner == 255) = false := beq_eq_false_iff_ne.mpr (by omega)
  refine keyLoad_refused manager number (.inl low) ?_ (by decide)
  simp only [keyChecks, firstRefusal, List.find?_cons, manager, number, low, part, first, last, slot_agrees agrees, active, ne_eq,
    not_false_eq_true, decide_true, Bool.and_self, Bool.or_false, Bool.true_or, Bool.or_true, Bool.not_true, Bool.not_false,
    Option.map_some]

end

theorem keyLoad_of_ring_unwrapped (ring : owner = 255) (loaded : (slotOwner m.core 0).isSome = true) :
    keyLoad slot owner false src m = (m.on (fun c => raise (c.count SEC_KEY_REFUSED) .secKeyRefused 0 0 slot), .notPermitted, []) := by
  have some_ : (decide (slot ≠ 0) || (slotOwner m.core slot).isSome) = true := by
    by_cases first : slot = 0
    · rw [first, loaded]; rfl
    · rw [decide_eq_true first, Bool.true_or]
  refine keyLoad_refused manager number (.inr ring) ?_ (by decide)
  simp only [keyChecks, firstRefusal, List.find?_cons, manager, number, slot_agrees agrees, beq_iff_eq.mpr ring, some_, loaded, decide_true,
    Bool.and_self, Bool.or_true, Bool.true_or, Bool.not_true, Bool.not_false, Option.map_some]

end

section
variable (manager : srcFm src = true)
include manager

/-- Slot 0 is loaded by the establishment of the management's key alone. -/
theorem keyLoad_of_first (ring : owner = 255) (empty : slotOwner m.core 0 = none) : keyLoad 0 owner ok src m =
    (m.on (fun c => raise (c.count SEC_KEY_REFUSED) .secKeyRefused 0 0 0), .badState, []) := by
  refine keyLoad_refused manager (by decide) (.inr ring) ?_ (by decide)
  simp only [keyChecks, firstRefusal, List.find?_cons, manager, empty, beq_iff_eq.mpr ring, Option.isNone_none, Option.isSome_none,
    Bool.or_true, Bool.true_or, Bool.not_true, show (decide (0 < 4096) && true) = true from rfl,
    show decide ((0 : Nat) ≠ 0) = false from rfl,
    Bool.or_self, Bool.not_false, Option.map_some]

end

end

/-- What a loaded slot holds, and that no other one changes. -/
theorem loadSlot_shown (c : Core) (n owner : Nat) (old : Option Nat) (key : BitVec 256) :
    amGet? (loadSlot c n owner old key).sec.slots n = some ⟨owner, old, key⟩ ∧
    amGet? (loadSlot c n owner old key).net.nonce n = some 0 ∧
    ∀ k, k ≠ n → slotOwner (loadSlot c n owner old key) k = slotOwner c k := by
  refine ⟨amGet?_amSet_self _ _ _, amGet?_amSet_self _ _ _, fun k other => ?_⟩
  exact congrArg (Option.map KeySlot.owner) (amGet?_amSet_ne _ _ other)

section
variable {c d : Core} {slot owner k : Nat} {key : BitVec 256} (drawn : c.draw = (d, k)) (made : key = BitVec.ofNat 256 (Config.secret k))
include drawn made

theorem keyLoaded_eq (old : Option Nat) : keyLoaded slot owner old c =
    if slot = 4095 && old.isNone then
      joinNow (loadSlot (d.count SEC_KEY_LOADS) slot owner (old.map (fun _ => d.glb.now + 100000000)) key)
    else loadSlot (d.count SEC_KEY_LOADS) slot owner (old.map (fun _ => d.glb.now + 100000000)) key := by
  subst made
  simp only [keyLoaded, drawn]

theorem keyLoaded_of_held (o : Nat) : keyLoaded slot owner (some o) c =
    loadSlot (d.count SEC_KEY_LOADS) slot owner (some (d.glb.now + 100000000)) key :=
  (keyLoaded_eq drawn made _).trans (if_neg (by rw [Option.isNone_some, Bool.and_false]; exact Bool.false_ne_true))

theorem keyLoaded_of_free (last : slot ≠ 4095) : keyLoaded slot owner none c = loadSlot (d.count SEC_KEY_LOADS) slot owner none key :=
  (keyLoaded_eq drawn made _).trans (if_neg (by rw [decide_eq_false last]; exact Bool.false_ne_true))

theorem keyLoaded_of_ring (last : slot = 4095) :
    keyLoaded slot owner none c = joinNow (loadSlot (d.count SEC_KEY_LOADS) slot owner none key) :=
  (keyLoaded_eq drawn made _).trans (if_pos (by rw [decide_eq_true last]; rfl))

end

/-! ### Keys expire and are unloaded (R641, R642) -/

section
variable {c : Core} {slot : Nat} {v : KeySlot} (there : amGet? c.sec.slots slot = some v)
include there

theorem oldKeyExpiry_of_past {t : Nat} (until_ : v.oldUntil = some t) (past : t ≤ c.glb.now) : oldKeyExpiry slot c = endOldKey c slot := by
  simp only [oldKeyExpiry, there, Option.bind_some, until_, past, if_true]

theorem endOldKey_shown : amGet? (endOldKey c slot).sec.slots slot = some { v with oldUntil := none } := by
  change amGet? (amMod c.sec.slots slot (fun k => { k with oldUntil := none })) slot = _
  rw [amGet?_amMod, if_pos rfl, there]
  rfl

theorem oldKeyExpiry_of_kept (kept : ∀ t, v.oldUntil = some t → c.glb.now < t) : oldKeyExpiry slot c = c := by
  simp only [oldKeyExpiry, there, Option.bind_some]
  cases until_ : v.oldUntil with
  | none => rfl
  | some t => exact if_neg (Nat.not_le.mpr (kept t until_))

end

theorem slotOwner_dropSlots (c : Core) (l : List Nat) (n : Nat) :
    slotOwner (dropSlots c l) n = if l.contains n then none else slotOwner c n := by
  have found : amGet? (dropSlots c l).sec.slots n = if !l.contains n then amGet? c.sec.slots n else none :=
    amGet?_filterKeys _ (fun k => !l.contains k) n
  rw [slotOwner, found]
  cases l.contains n <;> rfl

section
variable {m : M} {n : Nat} (number : n < 4096)
include number

theorem keyUnload_accepted (held : (slotOwner m.core n).isSome = true) (free : slotNamed m.core n = false) :
    keyUnload n m = accept (m.on (fun c => dropSlots c [n])) := by
  have may : ((slotOwner m.core n).isSome && !slotNamed m.core n) = true := by rw [held, free]; rfl
  unfold keyUnload
  exact checked_pass (List.forall_mem_cons.mpr ⟨decide_eq_true number, List.forall_mem_cons.mpr ⟨may, List.forall_mem_nil _⟩⟩)

theorem keyUnload_of_named (named : slotNamed m.core n = true) : keyUnload n m = refuse m .badState := by
  unfold keyUnload
  refine checked_refused ?_
  simp only [firstRefusal, List.find?_cons, number, named, decide_true, Bool.not_true, Bool.and_false, Bool.not_false, Option.map_some]

end

/-! ### What the pool stores (R643) -/

theorem storedWord_of_sealed {c : Core} {w : Nat} {k : W512} {t : Block} (sealed : sealOf c w = some (k, t)) (data : List Byte) :
    storedWord c w data = sealWord k t data := by
  simp only [storedWord, sealed]

theorem changeStored_of_sealed {c : Core} {w : Nat} {k : W512} {t : Block} (sealed : sealOf c w = some (k, t)) (data : List Byte)
    {e : List Byte} (changes : e.any (· != 0) = true) :
    changeStored c w data e = openWord k t (xorBytes (sealWord k t data) e) := by
  unfold changeStored
  refine (if_neg ?_).trans (by rw [sealed])
  rw [List.all_eq_true]
  intro zero
  obtain ⟨b, inside, other⟩ := List.any_eq_true.mp changes
  exact bne_iff_ne.mp other (beq_iff_eq.mp (zero b inside))

theorem changeStored_of_zero (c : Core) (w : Nat) (data : List Byte) {e : List Byte} (zero : e.all (· == 0) = true) :
    changeStored c w data e = data := if_pos zero

/-- Operations that agree on the chip at hand. -/
theorem M.on_congr {m : M} {f g : Core → Core} (same : f m.core = g m.core) : m.on f = m.on g := by
  rw [M.on, same, M.on]

section
variable {s : State} {src : Src} {scope nonce time : Nat} {m : M} (asks : Asks attestMop src s m)
include asks

/-- A report that is asked for and answered at once. -/
theorem does_attest_now {m2 : M} {k : MgmtCode} {b : List Nat}
    (answers : attestAsk scope nonce (realSrc src) (m.on (·.at time)) = (m2, some (k, b))) :
    does (.attest (.ask src scope nonce time)) s (m2.on (fun c => mgmtReply c (realSrc src) 0x0800 k b)) :=
  does_of_run (f := attestCmd (.ask src scope nonce time)) rfl
    (mgmt_answeredNow (body := fun s m => attestAsk scope nonce s (m.on (·.at time))) asks answers)

theorem does_attest_later {m2 : M} (waits : attestAsk scope nonce (realSrc src) (m.on (·.at time)) = (m2, none)) :
    does (.attest (.ask src scope nonce time)) s m2 :=
  does_of_run (f := attestCmd (.ask src scope nonce time)) rfl
    (mgmt_later (body := fun s m => attestAsk scope nonce s (m.on (·.at time))) asks waits)

end

/-- Settles O55: reports by the queue that holds them, keys by the first condition that fails, and stored words by the cipher's
inverse. -/
theorem keysAndAttestation : Obligations.KeysAndAttestation := by
  unfold Obligations.KeysAndAttestation
  refine ⟨?ask, ?sign, ?reports, ?mgmt, ?part, ?load, ?loaded, ?expiry, ?cipher, ?stored, ?unload⟩
  case ask =>
    rintro s src scope nonce time m m1 asks rfl
    refine ⟨fun high part => ?_, fun a known agent stranger => ?_, fun known may => ⟨fun full => ?_, fun room => ?_⟩⟩
    · exact does_attest_now asks (attestAsk_of_badScope high part)
    · exact does_attest_now asks (attestAsk_of_stranger known agent stranger)
    · exact does_attest_now asks ((attestAsk_of_permitted known may).trans (if_pos full))
    · exact does_attest_later asks ((attestAsk_of_permitted known may).trans (if_neg (Nat.not_le.mpr room)))
  case sign =>
    rintro s time c serves rfl
    refine ⟨fun idle => ?_, fun a t next => ⟨reportMade (s.core.at time) a t, ?_, rfl, nonceOk_reportMade_self _ a t,
      fun n issued => nonceOk_reportMade _ a t issued, rfl, rfl⟩⟩
    · refine does_of_run rfl ((if_pos serves).trans ?_)
      exact congrArg (fun c : Core => (⟨c, s.mem⟩ : M)) (attestSign_of_none idle)
    · refine does_of_run rfl ((if_pos serves).trans ?_)
      exact congrArg (fun c : Core => (⟨c, s.mem⟩ : M)) (attestSign_of_next next)
  case reports => exact fun c scope nonce => ⟨report_length c scope nonce, reportBody_length c scope nonce, reportBody_nonce c scope nonce⟩
  case mgmt =>
    rintro s src nonce time ok m m1 ⟨asks, manager⟩ rfl
    refine ⟨?_, fun not => ?_⟩
    · rintro c k rfl keys issued drawn
      exact does_of_run rfl (mgmt_answered asks (mgmtKeyEstablish_accepted manager keys issued drawn))
    · exact does_of_run rfl (mgmt_answered asks (mgmtKeyEstablish_refused manager not))
  case part =>
    rintro s src q nonce time m m1 ⟨asks, manager⟩ rfl number
    refine ⟨?_, fun stale => does_of_run rfl (mgmt_answered asks (partKeyEstablish_refused manager number stale))⟩
    rintro kek rfl issued
    refine ⟨fun active => ?_, fun vacant => ?_⟩
    · refine does_of_run rfl (mgmt_answered asks ((partKeyEstablish_accepted manager number issued (.inr active)).trans
        (congrArg accept (M.on_congr ?_))))
      rw [if_neg (by rw [active]; decide)]
      rfl
    · obtain ⟨sec, -, -⟩ := chainCleared_kept (m.on (·.at time)).core q
      obtain ⟨state, kek⟩ := kekSet_shown (chainCleared (m.on (·.at time)).core q) q (kekDrawn (m.on (·.at time)).core q nonce)
      refine ⟨kekSet q (kekDrawn (m.on (·.at time)).core q nonce) (chainCleared (m.on (·.at time)).core q), fun i low => ?_,
        (if_pos number).trans state, kek, ?_, does_of_run rfl (mgmt_answered asks
          ((partKeyEstablish_accepted manager number issued (.inl vacant)).trans (congrArg accept (M.on_congr ?_))))⟩
      · rw [rget_kekSet_ne _ _ _ (chainReg_ne number i)]
        exact rget_chainCleared _ q low
      · rw [kekSet_sec, sec]
        rfl
      · rw [if_pos vacant, kekDrawn_chainCleared]
  case load =>
    rintro s src slot owner time ok m m1 ⟨asks, manager⟩ rfl number
    refine ⟨?_, fun low reserved => ?_, fun low first last agrees => ⟨fun idle => ?_, ?_⟩, ?_, ?_, fun o held other part => ?_⟩
    · rintro may rfl c k key drawn made
      refine ⟨fun held => ?_, fun free first last => ?_, fun free last => ?_⟩
      · refine does_of_run rfl (mgmt_answered asks ((keyLoad_of_passing manager number may fun o h => ?_).trans
          (congrArg accept (M.on_congr ?_))))
        · exact Option.some.inj (h.symm.trans held)
        · rw [held]; exact keyLoaded_of_held drawn made owner
      · refine does_of_run rfl (mgmt_answered asks ((keyLoad_of_passing manager number may fun o h => ?_).trans
          (congrArg accept (M.on_congr ?_))))
        · exact nomatch h.symm.trans free
        · rw [free]; exact keyLoaded_of_free drawn made last
      · refine does_of_run rfl (mgmt_answered asks ((keyLoad_of_passing manager number may fun o h => ?_).trans
          (congrArg accept (M.on_congr ?_))))
        · exact nomatch h.symm.trans free
        · rw [free]; exact keyLoaded_of_ring drawn made last
    · exact does_of_run rfl (mgmt_answered asks (keyLoad_of_reserved manager number low reserved))
    · exact does_of_run rfl (mgmt_answered asks (keyLoad_of_inactive manager number agrees low first last idle))
    · rintro active rfl
      exact does_of_run rfl (mgmt_answered asks (keyLoad_of_unwrapped manager number agrees low first last active))
    · rintro ring rfl empty
      exact does_of_run rfl (mgmt_answered asks (keyLoad_of_first manager ring empty))
    · rintro ring agrees loaded rfl
      exact does_of_run rfl (mgmt_answered asks
        (keyLoad_of_ring_unwrapped manager number (fun o held => (agrees o held).trans ring.symm) ring loaded))
    · exact does_of_run rfl (mgmt_answered asks (keyLoad_of_conflict manager number held other part))
  case loaded => exact loadSlot_shown
  case expiry =>
    rintro s slot time c v on rfl there
    refine ⟨fun t until_ past => ⟨_, does_of_poweredCore rfl on (oldKeyExpiry_of_past there until_ past), endOldKey_shown there⟩,
      fun t until_ later => does_of_poweredCore rfl on (oldKeyExpiry_of_kept there fun u known => ?_),
      fun none_ => does_of_poweredCore rfl on (oldKeyExpiry_of_kept there fun u known => ?_)⟩
    · rw [until_] at known
      exact Option.some.inj known ▸ later
    · rw [none_] at known
      exact absurd known (by simp)
  case cipher => exact fun key tweak b => ⟨openWord_sealWord key tweak, sealWord_zero key tweak, openWord_zero key tweak⟩
  case stored =>
    exact fun c w data => ⟨fun k t sealed => storedWord_of_sealed sealed data,
      fun k t e sealed changes => changeStored_of_sealed sealed data changes, fun e zero => changeStored_of_zero c w data zero⟩
  case unload =>
    rintro s src n m asks number
    refine ⟨fun held free => ⟨dropSlots m.core [n], ?_, fun k other => ?_, ?_⟩, fun named => ?_⟩
    · rw [slotOwner_dropSlots]
      exact if_pos (by rw [List.contains_cons, beq_self_eq_true, Bool.true_or])
    · rw [slotOwner_dropSlots]
      exact if_neg (by rw [List.contains_cons, beq_eq_false_iff_ne.mpr other]; exact Bool.false_ne_true)
    · exact does_of_run rfl (mgmt_accepted asks (keyUnload_accepted number held free))
    · exact does_of_run rfl (mgmt_refused asks (keyUnload_of_named number named))

end Sys2Proof.Machine

/-! Partitions and programs: the steps by which a partition is removed, the fuses, and what registering, binding and releasing a program
come to; and the statement about them (R400, R401, R408, R633, R647 to R650). -/

namespace Sys2Proof.Machine
open Sys2Proof

/-! ### A partition is removed (R648 to R650) -/

section
variable {m : M} {q : Nat}

theorem partRemove_of_high (high : 16 ≤ q) : partRemove q m = refuse m .badField := if_pos high

variable (number : q < 16)
include number

theorem partRemove_of_vacant (vacant : partState m.core q = 1) : partRemove q m = accept m [0] := by
  unfold partRemove
  dsimp only
  rw [if_neg (Nat.not_le.mpr number)]
  exact if_pos vacant

theorem partRemove_of_removing (removing : partState m.core q = 3) :
    partRemove q m = accept m [m.core.fld (SEC_PART q) SEC_PART_REMOVE_STEP] := by
  unfold partRemove
  dsimp only
  rw [if_neg (Nat.not_le.mpr number), if_neg (by rw [removing]; decide)]
  exact if_pos removing

/-- Steps 1 to 3 (Table 18-7). -/
theorem partRemove_of_active (active : partState m.core q = 2) {m1 m2 : M}
    (revoked : m1 = m.on (fun c => freezeObjects (revokePart (destroyKeys c q) q) q))
    (down : m2 = (m1.core.coh.domains.filter (fun d => d.2.partition == q)).foldl (fun m d => goDown m d.1 7 none) m1) :
    partRemove q m = accept ((stripPart m2 q).on (fun c => setStep c q 4)) [4] := by
  unfold partRemove
  dsimp only
  rw [← revoked, ← down, if_neg (Nat.not_le.mpr number), if_neg (by rw [active]; decide), if_neg (by rw [active]; decide)]
  exact if_pos active

end

/-- A partition shows the state that it is given. -/
theorem partState_setFld_other (c : Core) {q : Nat} (number : q < 16) {st v : Nat} {g : Fld} (small : st < 4) (sound : g.lo ≤ g.hi)
    (low : g.hi < 30) : partState ((setPartState c q st).setFld (SEC_PART q) g v) q = st := by
  rw [partState, if_pos number, Core.fld_setFld_other _ _ _ _ _ sound (by omega) (by decide) (.inl low), setPartState,
    Core.fld_setFld_self _ _ _ _ (by decide) (by decide)]
  exact Nat.mod_eq_of_lt small

section
variable (c : Core) (q : Nat)

theorem destroyKeys_sec : (destroyKeys c q).sec = { (dropSlots c (slotsOf c q)).sec with
    memKeys := amDel c.sec.memKeys q, keks := amDel c.sec.keks q } := by
  rw [destroyKeys, setPartState, Core.setFld_sec, Core.setFld_sec]
  rfl

theorem destroyKeys_shown (number : q < 16) :
    partState (destroyKeys c q) q = 3 ∧ (destroyKeys c q).flag (SEC_PART q) SEC_PART_KEK = false := by
  unfold destroyKeys
  refine ⟨partState_setFld_other _ number (by decide) (by decide) (by decide), ?_⟩
  rw [Core.flag, Core.fld_setFld_self _ _ _ _ (by decide) (by decide)]
  rfl

theorem destroyKeys_slots (x : Nat × KeySlot) (inside : x ∈ c.sec.slots) (owned : x.2.owner = q) :
    slotOwner (destroyKeys c q) x.1 = none := by
  have listed : (slotsOf c q).contains x.1 = true :=
    List.contains_iff_mem.mpr (List.mem_map_of_mem (List.mem_filter.mpr ⟨inside, beq_iff_eq.mpr owned⟩))
  have gone : slotOwner (dropSlots c (slotsOf c q)) x.1 = none := (slotOwner_dropSlots c _ _).trans (if_pos listed)
  rw [slotOwner, destroyKeys_sec]
  exact gone

end

/-! ### Scrubbing (Table 18-7) -/

theorem amGet?_amMap {α : Type} (m : AMap α) (f : Nat → α → α) (k : Nat) : amGet? (amMap m f) k = (amGet? m k).map (f k) := by
  induction m with
  | nil => rfl
  | cons e t ih =>
    obtain ⟨j, v⟩ := e
    change (if j = k then some (f j v) else amGet? (amMap t f) k) = (if j = k then some v else amGet? t k).map (f k)
    by_cases same : j = k
    · subst same; simp only [if_true, Option.map_some]
    · simp only [same, if_false, ih]

section
variable (c : Core) (q : Nat)

/-- The chip once what the partition used on it is scrubbed. -/
def scrubbed : Core :=
  let es := assignedCe c q
  let ks := assignedRsp c q
  let c := { c with
    work := { c.work with
      engines := amMap c.work.engines (fun n e => if es.contains n then blankEngine e else e),
      tables := c.work.tables.filter (fun t => t.2.partition != q) },
    rasp := { c.rasp with
      scratch := c.rasp.scratch.filter (fun s => !ks.contains (thrCluster s.1)),
      windows := c.rasp.windows.filter (fun w => ctxPart c (w.1 / 2 ^ 64) != q) } }
  icClear c ks.contains

theorem removalRetired_eq : removalRetired q c =
    if !(partState c q == psRemoving && c.fld (SEC_PART q) SEC_PART_REMOVE_STEP == 4 && partRetired c q) then c
    else setStep (((scrubbed c q).coh.domains.filter (fun d => d.2.partition == q && d.2.st == .draining)).foldl
      (fun c d => domainDown c d.1) (scrubbed c q)) q 5 := rfl

theorem scrubbed_coh : (scrubbed c q).coh = c.coh := rfl

theorem scrubbed_tables (t : Nat × Table) (inside : t ∈ (scrubbed c q).work.tables) : t.2.partition ≠ q :=
  bne_iff_ne.mp (List.mem_filter.mp inside).2

theorem scrubbed_engines {n : Nat} (assigned : n ∈ assignedCe c q) {e : Engine} (there : amGet? c.work.engines n = some e) :
    amGet? (scrubbed c q).work.engines n = some (blankEngine e) := by
  change amGet? (amMap c.work.engines (fun n e => if (assignedCe c q).contains n then blankEngine e else e)) n = _
  rw [amGet?_amMap, there, Option.map_some, if_pos (List.contains_iff_mem.mpr assigned)]

theorem scrubbed_scratch (x : Nat × Area) (inside : x ∈ (scrubbed c q).rasp.scratch) : thrCluster x.1 ∉ assignedRsp c q := by
  intro assigned
  have kept := (List.mem_filter.mp inside).2
  rw [List.contains_iff_mem.mpr assigned] at kept
  exact Bool.false_ne_true kept

end

section
variable {c : Core} {q : Nat}

theorem removalRetired_of_unretired (open_ : partRetired c q = false) : removalRetired q c = c := by
  rw [removalRetired_eq]
  exact if_pos (by rw [open_, Bool.and_false]; rfl)

variable (removing : partState c q = 3) (step : c.fld (SEC_PART q) SEC_PART_REMOVE_STEP = 4) (retired : partRetired c q = true)
include removing step retired

theorem removalRetired_of_retired : removalRetired q c =
    setStep (((scrubbed c q).coh.domains.filter (fun d => d.2.partition == q && d.2.st == .draining)).foldl
      (fun c d => domainDown c d.1) (scrubbed c q)) q 5 := by
  rw [removalRetired_eq]
  exact if_neg (by rw [removing, step, retired]; decide)

theorem removalRetired_of_drained (drained : ∀ d ∈ c.coh.domains, d.2.partition = q → d.2.st ≠ .draining) :
    removalRetired q c = setStep (scrubbed c q) q 5 := by
  have none_ : (scrubbed c q).coh.domains.filter (fun d => d.2.partition == q && d.2.st == .draining) = [] := by
    rw [scrubbed_coh, List.filter_eq_nil_iff]
    intro d inside
    rw [Bool.and_eq_true, beq_iff_eq, beq_iff_eq]
    exact fun ⟨part, drains⟩ => drained d inside part drains
  rw [removalRetired_of_retired removing step retired, none_, List.foldl_nil]

end

/-- The step that a removal shows. -/
theorem fld_setStep (c : Core) (q : Nat) {k : Nat} (small : k < 8) : (setStep c q k).fld (SEC_PART q) SEC_PART_REMOVE_STEP = k := by
  rw [setStep, Core.fld_setFld_self _ _ _ _ (by decide) (by decide)]
  exact Nat.mod_eq_of_lt small

/-! ### The partition is vacant again -/

/-- The chip once the partition's sync objects are free, its new memory key is drawn and it shows VACANT. -/
def vacated (c : Core) (q : Nat) : Core :=
  let c := freeObjects c q
  let (c, k) := c.drawN 8
  let c := modSec c (fun s => { s with memKeys := amSet s.memKeys q k })
  setStep (setPartState c q psVacant) q 0

section
variable {c : Core} {q : Nat}

theorem partRemoved_of_scrubbed (removing : partState c q = 3) (step : c.fld (SEC_PART q) SEC_PART_REMOVE_STEP = 5) :
    partRemoved q c = ((vacated c q).count SEC_REMOVALS).toFm 0x0808 [q, (vacated c q).tick] := by
  unfold partRemoved
  refine (if_neg ?_).trans rfl
  rw [removing, step]
  decide

theorem partRemoved_of_early (step : c.fld (SEC_PART q) SEC_PART_REMOVE_STEP ≠ 5) : partRemoved q c = c := by
  unfold partRemoved
  refine if_pos ?_
  rw [beq_eq_false_iff_ne.mpr step, Bool.and_false]
  rfl

end

theorem vacated_sec (c : Core) (q : Nat) :
    (vacated c q).sec = { c.sec with memKeys := amSet c.sec.memKeys q (freeObjects c q).glb.draws } := by
  unfold vacated setStep setPartState
  dsimp only
  rw [Core.setFld_sec, Core.setFld_sec]
  rfl

theorem vacated_shown (c : Core) {q : Nat} (number : q < 16) :
    partState (vacated c q) q = 1 ∧ (vacated c q).fld (SEC_PART q) SEC_PART_REMOVE_STEP = 0 :=
  ⟨partState_setFld_other _ number (by decide) (by decide) (by decide), fld_setStep _ q (by decide)⟩

theorem vacant_told (c : Core) {q : Nat} (number : q < 16) (body : List Nat) :
    partState ((c.count SEC_REMOVALS).toFm 0x0808 body) q = partState c q ∧
    ((c.count SEC_REMOVALS).toFm 0x0808 body).fld (SEC_PART q) SEC_PART_REMOVE_STEP = c.fld (SEC_PART q) SEC_PART_REMOVE_STEP ∧
    ((c.count SEC_REMOVALS).toFm 0x0808 body).sec = c.sec := by
  have other : SEC_PART q ≠ SEC_REMOVALS := by simp only [SEC_PART, SEC_REMOVALS]; omega
  have same (g : Fld) : ((c.count SEC_REMOVALS).toFm 0x0808 body).fld (SEC_PART q) g = c.fld (SEC_PART q) g :=
    (Core.fld_congr (Core.rget_congr rfl _) g).trans (Core.fld_count_ne c g 1 other)
  refine ⟨?_, same _, Core.count_sec c SEC_REMOVALS 1⟩
  rw [partState, if_pos number, same, partState, if_pos number]

/-! ### Fuses (R633) -/

/-- The fuses of the owner are burnt. -/
def ownerBurnt (ed mldsa : Nat) (c : Core) : Core :=
  modSec c (fun s => { s with fuses := { s.fuses with ownerKh := some (Config.sha3 (natLe 32 ed ++ natLe 1952 mldsa)) } })

section
variable {m : M} {ed mldsa : Nat}

theorem ownerProvision_of_blank (blank : m.core.sec.fuses.ownerKh = none) :
    ownerProvision ed mldsa m = accept (m.on (ownerBurnt ed mldsa)) := by
  unfold ownerProvision
  exact if_neg (by rw [blank]; exact Bool.false_ne_true)

theorem ownerProvision_of_burnt (burnt : m.core.sec.fuses.ownerKh ≠ none) : ownerProvision ed mldsa m = refuse m .badState := by
  unfold ownerProvision
  exact if_pos (Option.isSome_iff_ne_none.mpr burnt)

end

/-! ### The program chain (R647) -/

/-- Registers that are written one after the other read what each was given. -/
theorem rget_written {reg : Nat → Nat} (apart : ∀ i j, i ≠ j → reg i ≠ reg j) (l : List W64) (k : Nat) (c : Core) :
    (∀ j < k, ((l.zipIdx k).foldl (fun c x => c.rset (reg x.2) x.1) c).rget (reg j) = c.rget (reg j)) ∧
    ∀ i w, l[i]? = some w → ((l.zipIdx k).foldl (fun c x => c.rset (reg x.2) x.1) c).rget (reg (k + i)) = w := by
  induction l generalizing k c with
  | nil => exact ⟨fun _ _ => rfl, fun i w h => nomatch h⟩
  | cons v t ih =>
    obtain ⟨before, after⟩ := ih (k + 1) (c.rset (reg k) v)
    simp only [List.zipIdx_cons, List.foldl_cons]
    refine ⟨fun j low => ?_, fun i w there => ?_⟩
    · rw [before j (by omega), Core.rget_rset_ne _ _ (apart j k (by omega))]
    · cases i with
      | zero =>
        exact (before k (Nat.lt_succ_self k)).trans ((Core.rget_rset_self _ _ _).trans (Option.some.inj there))
      | succ i => rw [show k + (i + 1) = k + 1 + i by omega]; exact after i w there

theorem rget_chainProgram (c : Core) (q k slot op : Nat) (l : List W64) {i : Nat} (low : i < 6) :
    (chainProgram c q k slot op l).rget (SEC_M_PROG q i) = w64 (Config.sha3 (digestBytes c (SEC_M_PROG q) ++ natLe 1 k ++ natLe 1 slot ++
      natLe 1 op ++ l.flatMap (fun w => natLe 8 w.toNat)) / 2 ^ (64 * i)) := by
  have apart (i j : Nat) (h : i ≠ j) : SEC_M_PROG q i ≠ SEC_M_PROG q j := by simp only [SEC_M_PROG]; omega
  unfold chainProgram
  extract_lets d
  have word : (digestWords d)[i]? = some (w64 (d / 2 ^ (64 * i))) := by
    rw [digestWords, List.getElem?_map, List.getElem?_range low]
    rfl
  have read := (rget_written apart (digestWords d) 0 c).2 i _ word
  rw [Nat.zero_add] at read
  exact read

/-! ### Programs are registered, bound and released (R400, R401, R408) -/

section
variable {m : M} {src : Src} {part : Nat}

theorem registerProgram_of_idle {slot : Nat} {image : W64} (low : part < 16) (idle : partActive m.core part = false) :
    registerProgram src part slot image m = refuse m .badState :=
  if_pos (by rw [decide_eq_true low, idle]; rfl)

theorem bindProgram_of_active {op h insts win : Nat} {m1 : M} {b : List Nat} {p : ProgSlot} (active : partActive m.core part = true)
    (bound : progBind src part op h insts win m = (m1, .accepted, b)) (there : amGet? m1.core.rasp.slots h = some p) :
    bindProgram src part op h insts win m = (m1.on (fun c => chainProgram c part 2 (h % 256) op p.digest), .accepted, b) := by
  unfold bindProgram
  refine (if_neg (by rw [active, Bool.not_true, Bool.and_false]; exact Bool.false_ne_true)).trans ?_
  rw [bound]
  exact congrArg (fun m : M => ((m, .accepted, b) : Mg)) (M.on_congr (by rw [there]))

theorem registerProgram_of_active {slot : Nat} {image : W64} {m1 : M} {b : List Nat} {p : ProgSlot} (active : partActive m.core part = true)
    (registered : progRegister src part slot image m = (m1, .accepted, b))
    (there : amGet? m1.core.rasp.slots (handleOf part slot) = some p) :
    registerProgram src part slot image m = (m1.on (fun c => chainProgram c part 1 slot 0 p.digest), .accepted, b) := by
  unfold registerProgram
  refine (if_neg (by rw [active, Bool.not_true, Bool.and_false]; exact Bool.false_ne_true)).trans ?_
  rw [registered]
  exact congrArg (fun m : M => ((m, .accepted, b) : Mg)) (M.on_congr (by rw [there]))

end

/-- A program's slot is taken. -/
def slotTaken (h : Nat) (p : ProgSlot) (c : Core) : Core := { c with rasp := { c.rasp with slots := amSet c.rasp.slots h p } }

/-- An image whose header and code are at hand and sound is registered. -/
theorem progRegister_of_sound {src : Src} {part slot e off size : Nat} {image : W64} {m m1 m2 : M} {x : Extent} {b all : List Byte}
    {ps ps2 : List Bool} {p : ProgSlot} (low : part < 16) (number : slot < 256) (atExt : e = ptrExtent image)
    (atOff : off = ptrOffset image) (may : agentMay m.core src e true = true)
    (free : amGet? m.core.rasp.slots (handleOf part slot) = none) (home : ptrChip image = m.core.chipId) (there : ext? m.core e = some x)
    (active : x.st = .active) (owned : x.partition = part) (header : readBytes m (part % 4) e off 128 = (m1, .got b ps))
    (sound : ps.any id = false) (long : size = 0x80 + leNat ((b.drop 8).take 4)) (room : off + 128 ≤ extBytes x)
    (fits : off + size ≤ extBytes x) (code : readBytes m1 (part % 4) e off size = (m2, .got all ps2)) (whole : ps2.any id = false)
    (parsed : progHeader image b (digestWords (Config.sha3 all)) = some p) : progRegister src part slot image m =
      accept (m2.on (slotTaken (handleOf part slot) p))
        (handleOf part slot :: (digestWords (Config.sha3 all)).map (·.toNat)) := by
  subst atExt atOff long
  unfold progRegister
  dsimp only
  rw [checked_pass]
  · simp only [header, there, sound, fits, decide_true, Bool.not_true, Bool.or_self, Bool.false_eq_true, if_false, code, parsed, whole]
    rfl
  · simp only [there, may, low, number, free, home, active, owned, room, beq_self_eq_true, Bool.and_self, decide_true, Option.isNone_none,
      List.forall_mem_cons, List.not_mem_nil, false_imp_iff, implies_true, and_self]

section
variable {m : M} {src : Src} {h : Nat}

theorem progUnregister_accepted {p : ProgSlot} (there : amGet? m.core.rasp.slots h = some p)
    (may : agentMay m.core src (ptrExtent p.image) true = true) : progUnregister src h m = accept (m.on (fun c => dropSlot c h)) := by
  simp only [progUnregister, there]
  exact checked_pass (List.forall_mem_cons.mpr ⟨may, List.forall_mem_nil _⟩)

theorem progUnregister_of_free (free : amGet? m.core.rasp.slots h = none) (manager : srcFm src = true) :
    progUnregister src h m = refuse m .badField := by
  simp only [progUnregister, free]
  exact checked_pass (List.forall_mem_cons.mpr ⟨manager, List.forall_mem_nil _⟩)

end

theorem dropSlot_shown (c : Core) (h : Nat) :
    amGet? (dropSlot c h).rasp.slots h = none ∧ ∀ b ∈ (dropSlot c h).rasp.binds, b.2.slot ≠ h :=
  ⟨amGet?_amDel_self _ _, fun _ inside => of_decide_eq_true (List.mem_filter.mp inside).2⟩

/-- A work's opcode is bound to a program. -/
def opBound (part op h insts win : Nat) (c : Core) : Core :=
  { c with rasp := { c.rasp with binds := amSet c.rasp.binds (part * 64 + op) ⟨h, insts, win⟩ } }

/-- A binding is released. -/
def opReleased (part op : Nat) (c : Core) : Core := { c with rasp := { c.rasp with binds := amDel c.rasp.binds (part * 64 + op) } }

section
variable {m : M} {src : Src} {part op : Nat} (manager : srcFm src = true) (low : part < 16)
include manager low

theorem progBind_accepted {h insts win : Nat} {p : ProgSlot} (may : (1 ≤ op ∧ op ≤ 8) ∨ op = 0x11 ∨ op = 0x12) (number : h < 4096)
    (own : h / 256 = part) (there : amGet? m.core.rasp.slots h = some p) (some_ : 1 ≤ insts) (few : insts ≤ 1024)
    (aligned : win % 32 = 0) (small : win ≤ 4194304) :
    progBind src part op h insts win m = accept (m.on (opBound part op h insts win)) := by
  have bound : bindable op = true := by
    simpa only [bindable, Bool.or_eq_true, Bool.and_eq_true, decide_eq_true_eq, beq_iff_eq, or_assoc] using may
  unfold progBind
  rw [checked_pass]
  · rfl
  · simp only [manager, low, bound, number, own, there, some_, few, aligned, small, beq_self_eq_true, Bool.and_self, decide_true,
      Option.isSome_some, List.forall_mem_cons, List.not_mem_nil, false_imp_iff, implies_true, and_self]

variable (may : bindable op = true)
include may

theorem progUnbind_accepted {b : Bind} (there : amGet? m.core.rasp.binds (part * 64 + op) = some b) :
    progUnbind src part op m = accept (m.on (opReleased part op)) := by
  unfold progUnbind
  rw [checked_pass]
  · rfl
  · simp only [manager, low, may, there, Bool.and_self, decide_true, Option.isSome_some, List.forall_mem_cons, List.not_mem_nil,
      false_imp_iff, implies_true, and_self]

theorem progUnbind_of_free (free : amGet? m.core.rasp.binds (part * 64 + op) = none) :
    progUnbind src part op m = refuse m .badState := by
  unfold progUnbind
  refine checked_refused ?_
  simp only [firstRefusal, List.find?_cons, manager, low, may, free, Bool.and_self, decide_true, Bool.not_true, Option.isSome_none,
    Bool.not_false, Option.map_some]

end

/-- Settles O56: the removal by the step that it shows, fuses and programs by the conditions of their requests, and the chain by the
registers that hold it. -/
theorem partitionsAndPrograms : Obligations.PartitionsAndPrograms := by
  unfold Obligations.PartitionsAndPrograms
  refine ⟨?remove, ?keys, ?retired, ?removed, ?owner, ?register, ?idle, ?chain, ?unregister, ?dropped, ?bind, ?unbind⟩
  case remove =>
    rintro s src q m asks
    refine ⟨fun high => ?_, fun number vacant => ?_, fun number removing => ?_, fun number active m1 m2 revoked down => ?_⟩
    · exact does_of_run rfl (mgmt_refused asks (partRemove_of_high high))
    · exact does_of_run rfl (mgmt_accepted asks (partRemove_of_vacant number vacant))
    · exact does_of_run rfl (mgmt_accepted asks (partRemove_of_removing number removing))
    · exact does_of_run rfl (mgmt_accepted asks (partRemove_of_active number active revoked down))
  case keys =>
    intro c q number
    obtain ⟨state, kek⟩ := destroyKeys_shown c q number
    refine ⟨state, kek, ?_, ?_, destroyKeys_slots c q⟩
    · rw [destroyKeys_sec]; exact amGet?_amDel_self _ _
    · rw [destroyKeys_sec]; exact amGet?_amDel_self _ _
  case retired =>
    rintro s q serves number
    refine ⟨fun removing step retired drained => ?_, fun removing step retired => ?_, fun open_ => ?_⟩
    · refine ⟨setStep (scrubbed s.core q) q 5,
        does_of_servedCore rfl serves (removalRetired_of_drained removing step retired drained), fld_setStep _ q (by decide), ?_, ?_, ?_⟩
      · exact fun t inside => scrubbed_tables s.core q t inside
      · exact fun n assigned e there => scrubbed_engines s.core q assigned there
      · exact fun x inside => scrubbed_scratch s.core q x inside
    · exact ⟨scrubbed s.core q, scrubbed_coh s.core q, scrubbed_tables s.core q,
        does_of_servedCore rfl serves (removalRetired_of_retired removing step retired)⟩
    · exact does_of_servedCore rfl serves (removalRetired_of_unretired open_)
  case removed =>
    rintro s q serves number removing
    refine ⟨fun step => ?_, fun early => does_of_servedCore rfl serves (partRemoved_of_early early)⟩
    obtain ⟨vacant, ended⟩ := vacated_shown s.core number
    obtain ⟨state, shown, sec⟩ := vacant_told (vacated s.core q) number [q, (vacated s.core q).tick]
    refine ⟨_, does_of_servedCore rfl serves (partRemoved_of_scrubbed removing step), state.trans vacant, shown.trans ended, ?_⟩
    rw [sec, vacated_sec]
    exact amGet?_amSet_self _ _ _
  case owner =>
    rintro s src ed mldsa m asks
    exact ⟨fun blank => ⟨ownerBurnt ed mldsa m.core, rfl, rfl, does_of_run rfl (mgmt_accepted asks (ownerProvision_of_blank blank))⟩,
      fun burnt => does_of_run rfl (mgmt_refused asks (ownerProvision_of_burnt burnt))⟩
  case register =>
    rintro s src part slot e off size image m m1 m2 x b all ps ps2 p asks low number active atExt atOff may free home there runs owned
      header sound long room fits code whole parsed
    exact does_of_run rfl (mgmt_answered asks (registerProgram_of_active active
      (progRegister_of_sound low number atExt atOff may free home there runs owned header sound long room fits code whole parsed)
      (amGet?_amSet_self _ _ _)))
  case idle =>
    exact fun s src part slot image m asks low idle => does_of_run rfl (mgmt_answered asks (registerProgram_of_idle low idle))
  case chain => exact fun c q k slot op l i number low => rget_chainProgram c q k slot op l low
  case unregister =>
    exact fun s src h m asks => ⟨fun p there may => does_of_run rfl (mgmt_answered asks (progUnregister_accepted there may)),
      fun free manager => does_of_run rfl (mgmt_answered asks (progUnregister_of_free free manager))⟩
  case dropped => exact dropSlot_shown
  case bind =>
    rintro s src part op h insts win m p ⟨asks, manager⟩ low active may number own there some_ few aligned small
    exact does_of_run rfl (mgmt_answered asks (bindProgram_of_active active
      (progBind_accepted manager low may number own there some_ few aligned small) there))
  case unbind =>
    rintro s src part op m ⟨asks, manager⟩ low may
    exact ⟨fun b there => ⟨opReleased part op m.core, amGet?_amDel_self _ _, rfl,
        does_of_run rfl (mgmt_answered asks (progUnbind_accepted manager low may there))⟩,
      fun free => does_of_run rfl (mgmt_answered asks (progUnbind_of_free manager low may free))⟩

end Sys2Proof.Machine

/-! The state right after power-on reset. -/

namespace Sys2Proof.Machine
open Sys2Proof

/-- Fields of registers and what they read as right after reset. -/
def resetFields : List (Nat × Fld × Nat) :=
  [(TCK_CONFIG, TCK_CONFIG_PERIOD_US, 100), (EXT_QUOTA, EXT_QUOTA_WAIT_TICKS, 10), (MAC_MAX_FRAME 3, MAC_MAX_FRAME_BYTES, 9216),
    (MEM_CTRL 1 2, MEM_CTRL_WR_HIGH, 48), (MEM_CTRL 1 2, MEM_CTRL_WR_LOW, 16), (RING_FWD, RING_FWD_TIMEOUT_TICKS, 3),
    (FZT_TIMER1, FZT_TIMER1_GRACE_MS, 10), (ECC_SCRUB, ECC_SCRUB_PASS_HOURS, 24), (TCK_STATUS, TCK_STATUS_STATE, 3),
    (SCH_PART 5 7, SCH_PART_WEIGHT, 64)]

theorem reset_reads : resetFields.all (fun x => State.reset.core.fld x.1 x.2.1 == x.2.2) = true := by
  decide +kernel

theorem reset_memOk : State.reset.memOk := rfl

theorem reset_tick : State.reset.core.tick = 0 := by decide +kernel

/-- Settles O60: the empty parts as they are written, and the registers by reading their tables. -/
theorem resetState : Obligations.ResetState := by
  unfold Obligations.ResetState
  refine ⟨reset_memOk, rfl, rfl, rfl, rfl, rfl, reset_tick, fun x inside => ?_⟩
  exact beq_iff_eq.mp (List.all_eq_true.mp reset_reads x inside)

end Sys2Proof.Machine
